-- ==== Sys2Proof/Word.lean ====
section
/-! DEFINITION. Words of the tray: 64-bit register words, bytes, and the plainest arithmetic on them (R7, R8). -/
namespace Sys2Proof

/-- One register (R464: every register is 64 bits wide). -/
abbrev Word := BitVec 64
/-- One byte of a memory or of a packet. -/
abbrev Byte := BitVec 8

/-- `n` limited to `hi`: a counter that saturates. -/
def satTo (hi n : Nat) : Nat := if n ≤ hi then n else hi

/-- Ceiling division. -/
def ceilDiv (a b : Nat) : Nat := (a + b - 1) / b

/-- Bit `i` of `n`. -/
def bitOf (n i : Nat) : Bool := (n / 2 ^ i) % 2 == 1

/-- `n` with bit `i` set. -/
def setBitOf (n i : Nat) : Nat := if bitOf n i then n else n + 2 ^ i

/-- `n` with bit `i` cleared. -/
def clrBitOf (n i : Nat) : Nat := if bitOf n i then n - 2 ^ i else n

/-- `n` with bit `i` equal to `b`. -/
def putBitOf (n i : Nat) (b : Bool) : Nat := if b then setBitOf n i else clrBitOf n i

/-- 1 for true, 0 for false. -/
def b2n (b : Bool) : Nat := if b then 1 else 0

/-- The number of bits set among bits 0 to `w - 1` of `n`. -/
def popCount : Nat → Nat → Nat
  | 0, _ => 0
  | w + 1, n => n % 2 + popCount w (n / 2)

/-- The set bits among bits 0 to `w - 1` of `n`, lowest first. -/
def bitsOf (w n : Nat) : List Nat := (List.range w).filter (fun i => bitOf n i)

/-- Ones in bits 0 to `w - 1`. -/
def maskW (w : Nat) : Word := BitVec.ofNat 64 (2 ^ w - 1)

/-- Little-endian value of a byte list (R8). -/
def leVal : List Byte → Nat
  | [] => 0
  | b :: t => b.toNat + 256 * leVal t

/-- The `n` little-endian bytes of `v` (R8). -/
def leBytes : Nat → Nat → List Byte
  | 0, _ => []
  | n + 1, v => BitVec.ofNat 8 v :: leBytes n (v / 256)

/-- Sum of a list of numbers. -/
def sumL (l : List Nat) : Nat := l.foldl (· + ·) 0

/-- The greatest number of a list, 0 for the empty list. -/
def maxL (l : List Nat) : Nat := l.foldl max 0

end Sys2Proof
end

