-- ==== Sys2Proof/Syntax.lean ====
section
/-! DEFINITION. The commands the tray takes: one constructor of `Instr` per row of spec/opcode_table.json, and the
types of their operands. An operand is what the spec's rule for the row says arrives from outside: an address and a
value, a packet, a frame, a measurement, an identity. -/
namespace Sys2Proof

/-- One flit, 64 bytes, bit n of byte b at bit 8b + n (R8, R148). -/
abbrev Flit := BitVec 512

/-- Bits `lo` to `lo + w - 1` of a structure, as a number. -/
def fieldOf {n : Nat} (x : BitVec n) (lo w : Nat) : Nat := (x.toNat / 2 ^ lo) % 2 ^ w

/-- A ZFL packet: header flit and payload flits, the last padded with zero bytes (R154). -/
structure Pkt where
  hdr : Flit
  pay : List Flit
  deriving DecidableEq, Repr

/-- A maintenance frame: bytes 0 to 29 and the CRC-16 of bytes 30 and 31 (R117). -/
structure MFrame where
  body : BitVec 240
  crc : BitVec 16
  deriving DecidableEq, Repr

/-- A deck ring packet: 32-byte header and payload (R218). -/
structure RingPkt where
  hdr : BitVec 256
  pay : List Byte
  deriving DecidableEq, Repr

/-- What a codeword decodes to on one lane (R113): its CCF, or a failure to decode (R116). -/
inductive CwResult where
  /-- decoded, with `corr` symbols corrected and the lane's skew to the earliest lane in 0.1 ns -/
  | decoded (ccf : BitVec 20) (corr : Nat) (skew : Nat)
  /-- more than 15 symbols in error -/
  | failed
  deriving DecidableEq, Repr

/-- What a repeated round-trip measurement does (R126): it begins, or its 10 ms pass without 16 intervals. -/
inductive Remeasure where
  | begins | expires
  deriving DecidableEq, Repr

/-- What a cartridge answers when it is identified (R142–R144). -/
structure CartInfo where
  /-- 1 SC-P, 2 SC-A, 3 SC-L; any other value: not identified as one of them -/
  kind : Nat
  /-- it answers at 1 MHz -/
  answers : Bool
  /-- it advertises the application for four 212.5 Gb/s lanes -/
  hasApp : Bool
  /-- advertised cable length in 0.1 m -/
  lenDm : Nat
  /-- bit g: group g's spare laser is unused -/
  spares : Nat
  /-- cartridge firmware, major × 256 + minor -/
  fw : Nat
  /-- what the running compatibility table says of the cartridge firmware: 0 tested, 1 not listed, 2 marked incompatible
  (R459) -/
  compat : Nat
  deriving DecidableEq, Repr

/-- Flags of a cartridge serviced on IntL (R142). -/
structure CmisFlags where
  /-- module state now, as PORT_CART.MSTATE -/
  mstate : Nat
  /-- bit j: receive lane j of the cartridge (of 32) has lost its signal -/
  los : Nat
  /-- bit j: transmit lane j reports a fault, a bias high alarm or a power low alarm -/
  txFail : Nat
  deriving DecidableEq, Repr

/-- How a software two-wire transaction ends (R147). -/
inductive CmisEnd where
  | ok (data : BitVec 64)
  | noAck
  | pageNotAdvertised
  deriving DecidableEq, Repr

/-- The entry of a dual-clock FIFO whose parity fails (R69). -/
inductive CrossEntry where
  /-- a register write to page and offset -/
  | regWrite (page off : BitVec 12)
  /-- a flit of the packet arriving at a port -/
  | packet (port : Fin 64)
  /-- a contribution of a port's agent to a table on its way to reduction memory -/
  | contribution (table : Fin 256)
  deriving DecidableEq, Repr

/-- The epoch-carrying item that reaches 5 ms in the tray (R108): where it is held. -/
inductive AgedItem where
  /-- a packet in the kitty or in staging, by its number -/
  | core (id : Nat)
  /-- a replay-store entry of a port: channel and SEQ -/
  | replay (port : Fin 64) (ch : Fin 8) (seq : Nat)
  /-- a multicast packet's residue entry -/
  | residue (id : Nat)
  /-- the oldest packet of a port held for an inbox (R339) -/
  | inbox (i : Fin 16) (port : Fin 64)
  deriving DecidableEq, Repr

/-- What triggers a lane freeze (R130). -/
inductive FreezeTrigger where
  | uncorrectable | saturation | sideband
  deriving DecidableEq, Repr

/-- The data in which an uncorrectable tensor SRAM or HBM error is found (R280, R360). -/
inductive EccPlace where
  /-- an accumulator, early place or staged lump of an operation of a table -/
  | collective (table : Fin 256) (op : BitVec 16)
  /-- data that a job reads, or a spilled or decompressed item of it -/
  | jobData (slot : Fin 32)
  /-- a line of the grant area, found by the scrub: SRAM offset div 64 -/
  | grantLine (line : BitVec 21)
  deriving DecidableEq, Repr

/-- A ZMP message as it arrives: 32-byte header (R439), body, and whether it passes authentication in its session
(R437). -/
structure ZMsg where
  hdr : BitVec 256
  body : List Byte
  auth : Bool
  deriving DecidableEq, Repr

/-- The requests the SPDM responder supports (R444); any other request. -/
inductive SpdmReq where
  | getVersion | getCapabilities | negotiateAlgorithms | getDigests | getCertificate | challenge | getMeasurements
  | keyExchange | finish | heartbeat | keyUpdate | endSession | other
  deriving DecidableEq, Repr

/-- Version of a firmware component: major, minor, patch, security version (R457). -/
structure FwVersion where
  major : Nat
  minor : Nat
  patch : Nat
  svn : Nat
  deriving DecidableEq, Repr

/-- A bundle as its signed contents say: year, number, versions of components 0 to 3, and whether the signature
verifies against the root key (R457). -/
structure BundleInfo where
  year : Nat
  nn : Nat
  vers : List FwVersion
  sigOk : Bool
  deriving DecidableEq, Repr

/-- What the boot ROM finds in one image: the bundle it holds, whether it verifies (R458). -/
structure ImageInfo where
  verifies : Bool
  bundle : BundleInfo
  deriving DecidableEq, Repr

/-- What the compatibility table says of the running components (R459): chips whose PMC or stepping is not listed,
whether the DMC is not listed with the PMC, the class the table gives the combination (0 FULL, 1 REDUCED, 2 REFUSED),
the row that decided. -/
structure CompatInfo where
  chipBad : BitVec 5
  dmcUnlisted : Bool
  cls : Fin 3
  reason : BitVec 16
  deriving DecidableEq, Repr

/-- A Redfish resource (R443). -/
inductive RfResource where
  | serviceRoot | sessionService | accountService
  | sessions | accounts
  | session (id : Nat) | account (id : Nat)
  | chassisTray | sensors | power | thermal
  | managersHalvoren
  /-- Actions/Manager.Reset of Managers/Halvoren: TRAY, or HALVOREN -/
  | managerReset (tray : Bool)
  | port (c : Fin 5) (e : Fin 64)
  | eventLog | clearLog
  | updateService
  /-- SimpleUpdate with the bundle at a URI: its length, its SHA-384 digest, its pieces, its contents -/
  | simpleUpdate (bytes : List Byte) (info : BundleInfo)
  | eventService | subscriptions
  | oemTilviard
  | systems | other
  deriving DecidableEq, Repr

/-- A Redfish method. A PATCH carries the value of LocationIndicatorActive. -/
inductive RfMethod where
  | get | post | delete
  | patch (locate : Bool)
  | put
  deriving DecidableEq, Repr

/-- What FRAM does with an event-log entry: the first, the second write whose read-back compares equal; or neither
(R455, R456). -/
inductive FramResult where
  | first | second | fails | timesOut
  deriving DecidableEq, Repr

/-- The input and rail energy a calibration reads (R386): the input stage's energy and the four rails' energies of
each chip over the window, in µJ, where readable; mean die temperature of each chip in 0.1 °C; the housekeeper's
estimate of the non-chip load in µJ (R388). -/
structure EnergyRead where
  eTray : Option Nat
  eRails : List (Option (List Nat))
  temps : List Nat
  other : Nat
  deriving DecidableEq, Repr

/-- Results of the wiring-test loopback of a lane: error bits, bits checked (R452). -/
structure LoopRead where
  errBits : Nat
  bits : Nat
  deriving DecidableEq, Repr

/-- The commands: one constructor per row of spec/opcode_table.json, those without operands last. -/
inductive Instr where
  /-- R77: 8-byte write of `v` at an active offset of a page. -/
  | registerWrite (sp : Fin 6) (page off : BitVec 12) (v : Word)
  /-- R78: 8-byte write of `v` at a shadow offset (`off` is the offset accessed). -/
  | shadowWrite (sp : Fin 6) (page off : BitVec 12) (v : Word)
  /-- R76: an access of `width` bytes that is no aligned 8-byte access. -/
  | unsupportedRequest (sp : Fin 6) (page off : BitVec 12) (width : Nat) (isWrite : Bool)
  /-- R71, R73: an access to an unimplemented page. -/
  | unimplementedPageAccess (sp : Fin 6) (page off : BitVec 12) (isWrite : Bool)
  /-- R81: an 8-byte read. -/
  | registerReadClear (sp : Fin 6) (page off : BitVec 12)
  /-- R480: an access of `width` bytes to BAR2 of a chip. -/
  | bar2Access (c : Fin 5) (off : BitVec 12) (width : Nat) (isWrite : Bool) (v : Word)
  /-- R100: the MSI-X message of a vector is formed. -/
  | msixMessage (c : Fin 5) (vec : Fin 16)
  /-- R68: an access to a register whose domain's PLL is unlocked. -/
  | domainDown (c : Fin 5) (page off : BitVec 12) (isWrite : Bool)
  /-- R69: parity of a dual-clock FIFO entry fails. -/
  | crossParity (c : Fin 5) (e : CrossEntry)
  /-- R85: a write of `v` to PG_CTL. -/
  | pgCtlEnableWrite (sp : Fin 6) (page : BitVec 12) (v : Word)
  /-- R91: PG_COMMIT.GO is written. -/
  | commit (sp : Fin 6) (page : BitVec 12)
  /-- R91: the page's block reaches its safe point. -/
  | commitSafePoint (sp : Fin 6) (page : BitVec 12)
  /-- R94: the bound of the page's safe point passes. -/
  | commitTimeout (sp : Fin 6) (page : BitVec 12)
  /-- R89: the page's next safe point after a measured input changed. -/
  | rederive (sp : Fin 6) (page : BitVec 12)
  /-- R382: PG_ABORT.GO on page 0x340. -/
  | dumpAbort (c : Fin 5)
  /-- R185: PG_ABORT.GO on page 0x3C0. -/
  | circuitAbortAll (c : Fin 5)
  /-- R359: PG_ABORT.GO on page 0x300. -/
  | dealerAbortAll (c : Fin 5)
  /-- R264: PG_ABORT.GO on a table page. -/
  | tableAbort (c : Fin 5) (tb : Fin 256)
  /-- R103: PG_ABORT.GO on an HBM controller page. -/
  | spillAbort (c : Fin 5) (k : Fin 2)
  /-- R103, R122: PG_ABORT.GO on a port page. -/
  | portAbort (c : Fin 5) (e : Fin 64)
  /-- R109: PG_ABORT.GO on page 0x000. -/
  | wholeChipQuiesce (c : Fin 5)
  /-- R102: PG_ABORT.GO on a page without an abortable function. -/
  | noFunction (sp : Fin 6) (page : BitVec 12)
  /-- R104: the abort in progress on the page completes, `us` µs after it took effect. -/
  | abortDone (sp : Fin 6) (page : BitVec 12) (us : Nat)
  /-- R108: an item has been held 5 ms. -/
  | itemAgeExpiry (c : Fin 5) (it : AgedItem)
  /-- R27: a write of `v` to CHIP_TOPO. -/
  | chipTopoWrite (c : Fin 5) (v : Word)
  /-- R59: a write of `v` to CHIP_DEAL_CLK. -/
  | dealClkRequest (c : Fin 5) (v : Word)
  /-- R62: the change of CK_DEAL in progress completes. -/
  | dealClkChangeDone (c : Fin 5)
  /-- R64: CAP_MHZ becomes `cap`. -/
  | dealCapChange (c : Fin 5) (cap : Nat)
  /-- R61: PAUSE_S seconds have passed since scrub `which` (0 kitty, 1 SRAM, 2 HBM) was disabled. -/
  | scrubReenable (c : Fin 5) (which : Fin 3)
  /-- R67 -/
  | refLoss (c : Fin 5)
  /-- R67 -/
  | corePllUnlock (c : Fin 5)
  /-- R67 -/
  | corePllRelock (c : Fin 5)
  /-- R67 -/
  | dealerPllUnlock (c : Fin 5)
  /-- R67 -/
  | allDealerPllsUnlock (c : Fin 5)
  /-- R67 -/
  | hbmPllUnlock (c : Fin 5) (k : Fin 2)
  /-- R67 -/
  | txPllUnlock (c : Fin 5) (q : Fin 64)
  /-- R67 -/
  | pcieLinkDown (c : Fin 5)
  /-- R57 -/
  | disciplineLoss (c : Fin 5)
  /-- R56: CK_TIME of the chip is within 4 ns of the time master, `time` now. -/
  | disciplineRegain (c : Fin 5) (time : Word)
  /-- R131 -/
  | txPllRecal (c : Fin 5) (q : Fin 64)
  /-- R122 -/
  | signalDetect (c : Fin 5) (e : Fin 64)
  /-- R122 -/
  | cdrLock (c : Fin 5) (e : Fin 64)
  /-- R120: a training frame with control word `cw`; the tray's own receiver is ready; the tap request its receiver
  wants to send next (bits [8:0] of a control word, 0 none). -/
  | trainingFrame (c : Fin 5) (n : Fin 256) (cw : Word) (ownReady : Bool) (wish : BitVec 9)
  /-- R116 -/
  | codewordReceive (c : Fin 5) (n : Fin 256) (r : CwResult)
  /-- R43 -/
  | ident (c : Fin 5) (e : Fin 64) (f : MFrame)
  /-- R122 -/
  | identWaitRelease (c : Fin 5) (e : Fin 64)
  /-- R119: a received ECHO_REQ; `residence` in units of 0.25 ns. -/
  | echoReq (c : Fin 5) (e : Fin 64) (f : MFrame) (residence : BitVec 32)
  /-- R126: a received ECHO_RSP, `interval` units of 0.25 ns after its request. -/
  | echoRsp (c : Fin 5) (e : Fin 64) (f : MFrame) (interval : Nat)
  /-- R126: the response to `token` is missing 2 µs after its request. -/
  | echoTimeout (c : Fin 5) (e : Fin 64) (token : BitVec 16)
  /-- R122 -/
  | partnerLinkOk (c : Fin 5) (e : Fin 64)
  /-- R122 -/
  | trainingPhaseTimeout (c : Fin 5) (e : Fin 64)
  /-- R122 -/
  | holdoffEnd (c : Fin 5) (e : Fin 64)
  /-- R126 -/
  | rttRemeasure (c : Fin 5) (e : Fin 64) (r : Remeasure)
  /-- R140 -/
  | loopReq (c : Fin 5) (e : Fin 64) (f : MFrame)
  /-- R117 -/
  | loopAck (c : Fin 5) (e : Fin 64) (f : MFrame)
  /-- R135 -/
  | floodNote (c : Fin 5) (e : Fin 64) (f : MFrame)
  /-- R117 -/
  | retrainReq (c : Fin 5) (e : Fin 64) (f : MFrame)
  /-- R127: the 1 ms interval held `syms` corrected RS symbols among `bits` bits received; `eye` is the FOM
  extrapolated from the eye margins. -/
  | fomInterval (c : Fin 5) (n : Fin 256) (syms bits : Nat) (eye : BitVec 8)
  /-- R129 -/
  | laneCheckpoint (c : Fin 5) (n : Fin 256)
  /-- R130 -/
  | laneFreeze (c : Fin 5) (n : Fin 256) (g : FreezeTrigger)
  /-- R130 -/
  | freezeExit (c : Fin 5) (n : Fin 256)
  /-- R482: the lane begins (`los`) or ceases to report LOS. -/
  | losDetect (c : Fin 5) (n : Fin 256) (los : Bool)
  /-- R482: a LOS of the lane has lasted 1 ms. -/
  | losTimeout (c : Fin 5) (n : Fin 256)
  /-- R136: a sideband frame of a bay: 32 two-bit lane states, and whether its CRC passes. -/
  | sidebandFrame (b : Fin 40) (states : Word) (crcOk : Bool)
  /-- R132 -/
  | floodDeclare (c : Fin 5) (e : Fin 64)
  /-- R133 -/
  | floodClear (c : Fin 5) (e : Fin 64)
  /-- R134 -/
  | floodHoldTimeout (c : Fin 5) (e : Fin 64)
  /-- R133 -/
  | retrainTimeout (c : Fin 5) (e : Fin 64)
  /-- R135 -/
  | partnerLinkLoss (c : Fin 5) (e : Fin 64)
  /-- R136 -/
  | freezeLosTimeout (c : Fin 5) (n : Fin 256)
  /-- R137: what the 60 s read of a lane's laser gives: bias and BOL bias in units of 10 µA, hours powered, and whether
  the bias is at its high alarm or the power at its low alarm. -/
  | wearRead (c : Fin 5) (n : Fin 256) (bias bol : BitVec 16) (hours : BitVec 32) (failed : Bool)
  /-- R138: a write of `v` to PORT_SPARE. -/
  | laneSpare (c : Fin 5) (e : Fin 64) (v : Word)
  /-- R139: the 30 days of record of the 32 lasers of a bay: (hours, ratio × 1024) samples of each. -/
  | wearForecast (b : Fin 40) (samples : List (List (Nat × Nat)))
  /-- R141: a write of `v` to LANE_SLIP. -/
  | laneSlip (c : Fin 5) (n : Fin 256) (v : Word)
  /-- R146: 1 written to PORT_TRAIN_CTL.RESTART. -/
  | portRestart (c : Fin 5) (e : Fin 64)
  /-- R146: PORT_TRAIN_CTL.DIAG is set or cleared. -/
  | portDiag (c : Fin 5) (e : Fin 64) (set : Bool)
  /-- R144 -/
  | cartInsert (b : Fin 40) (info : CartInfo)
  /-- R144 -/
  | cartReady (b : Fin 40)
  /-- R144 -/
  | cartRemove (b : Fin 40)
  /-- R142 -/
  | cmisInterrupt (b : Fin 40) (fl : CmisFlags)
  /-- R147: a write of `v` to PORT_CMIS_CMD of the bay. -/
  | cmisTransaction (b : Fin 40) (v : Word)
  /-- R147 -/
  | cmisDone (b : Fin 40) (r : CmisEnd)
  /-- R148: the next flit of the received stream; `sync`: it stands at a sync slot. -/
  | flitReceive (c : Fin 5) (e : Fin 64) (f : Flit) (sync : Bool)
  /-- R157: a DATA packet arrives whole. -/
  | dataReceive (c : Fin 5) (e : Fin 64) (p : Pkt)
  /-- R199: the next cell complete in the staging of port `e` is judged. -/
  | cellAdmit (c : Fin 5) (e : Fin 64)
  /-- R165 -/
  | xoffClear (c : Fin 5) (e : Fin 64) (tc : Fin 4)
  /-- R193 -/
  | stageXoffClear (c : Fin 5) (e : Fin 64)
  /-- R168 -/
  | carveOutGrant (c : Fin 5) (e : Fin 64)
  /-- R194: the next cell of the originated packets of port `e` is judged. -/
  | origAdmit (c : Fin 5) (e : Fin 64)
  /-- R161 -/
  | fenceRelease (c : Fin 5) (e : Fin 64)
  /-- R195: one slot; `held` lists the circuits that hold this slot of the frame. -/
  | schedSlot (c : Fin 5) (held : List (Fin 128))
  /-- R196: the request of input `e` for output `f` on slice `x` has waited AGE_SLOTS. -/
  | requestAged (c : Fin 5) (x : Fin 4) (e f : Fin 64)
  /-- R211: one retry of the residue queue. -/
  | residueRetry (c : Fin 5)
  /-- R205: the next flit position of output `e`. -/
  | egressSelect (c : Fin 5) (e : Fin 64)
  /-- R170: the partner has held XOFF of class `tc` for PAUSE_WD_MS. -/
  | pauseStorm (c : Fin 5) (e : Fin 64) (tc : Fin 4)
  /-- R215: an uncorrectable error in flit `flit` of the packet `id` held in the kitty (none: in a free cell). -/
  | kittyEccError (c : Fin 5) (id : Option Nat) (flit : Nat)
  /-- R225: a write of 1 to KIT_MCG_OP.WRITE. -/
  | mcgWrite (c : Fin 5)
  /-- R225: a write of 1 to KIT_MCG_OP.READ. -/
  | mcgRead (c : Fin 5)
  /-- R174: an ACK packet arrives. -/
  | ackReceive (c : Fin 5) (e : Fin 64) (p : Pkt)
  /-- R174: a NAK packet arrives. -/
  | nakReceive (c : Fin 5) (e : Fin 64) (p : Pkt)
  /-- R174: the agent acknowledges a stream. -/
  | ackSend (c : Fin 5) (e : Fin 64) (ch : Fin 8)
  /-- R174: RTO passes on a stream the agent sends. -/
  | rtoExpiry (c : Fin 5) (e : Fin 64) (ch : Fin 8)
  /-- R186: a write of `v` to CIRC_ENT. -/
  | circEntWrite (c : Fin 5) (v : Word)
  /-- R186: 1 written to CIRC_OP.SETUP. -/
  | circSetup (c : Fin 5)
  /-- R185: 1 written to CIRC_OP.TEARDOWN. -/
  | circTeardown (c : Fin 5)
  /-- R220: a ring packet arrives at node `node` (5 the bridge) from its neighbour. -/
  | deckPacketReceive (node : Fin 6) (p : RingPkt)
  /-- R219: node `node` injects its next packet of a direction (false CW) and class (false DATA). -/
  | deckInject (node : Fin 6) (ccw ctrl : Bool)
  /-- R220: the hop from `node` to its clockwise neighbour goes down. -/
  | deckHopDown (node : Fin 6)
  /-- R228: 1 written to DECK_CTL.RETRAIN. -/
  | deckRetrain (c : Fin 5)
  /-- R235: a CMD packet in the form of a slot write, or of neither form, arrives. -/
  | cmdSlotWrite (c : Fin 5) (e : Fin 64) (p : Pkt)
  /-- R238: a CMD packet that writes DOORBELL arrives. -/
  | doorbell (c : Fin 5) (e : Fin 64) (p : Pkt)
  /-- R254: a CMD packet that writes CQ_BASE arrives. -/
  | cqBaseWrite (c : Fin 5) (e : Fin 64) (p : Pkt)
  /-- R254: a CMD packet that writes CQ_CFG arrives. -/
  | cqCfgWrite (c : Fin 5) (e : Fin 64) (p : Pkt)
  /-- R255: a CMD packet that writes CQ_HEAD arrives. -/
  | cqHeadWrite (c : Fin 5) (e : Fin 64) (p : Pkt)
  /-- R244: the command at the head of a member's queue is checked. -/
  | commandHead (c : Fin 5) (tb : Fin 256) (e : Fin 64)
  /-- R231: the started RS receives its members' contributions, (port, bytes) in order of arrival, and delivers. -/
  | rs (c : Fin 5) (tb : Fin 256) (data : List (Fin 64 × List Byte))
  /-- R231 -/
  | ag (c : Fin 5) (tb : Fin 256) (data : List (Fin 64 × List Byte))
  /-- R232 -/
  | ar (c : Fin 5) (tb : Fin 256) (data : List (Fin 64 × List Byte))
  /-- R231 -/
  | barrier (c : Fin 5) (tb : Fin 256)
  /-- R243: a NOP at the head of a member's queue. -/
  | nop (c : Fin 5) (tb : Fin 256) (e : Fin 64)
  /-- R243: a CNT_ADD at the head of a member's queue. -/
  | cntAdd (c : Fin 5) (tb : Fin 256) (e : Fin 64)
  /-- R245 -/
  | operationMatch (c : Fin 5) (tb : Fin 256)
  /-- R246 -/
  | operationStart (c : Fin 5) (tb : Fin 256)
  /-- R248 -/
  | parkedOpStart (c : Fin 5) (tb : Fin 256)
  /-- R247: a software write of `v` to TBL_CTR[i]. -/
  | tblCtrWrite (c : Fin 5) (tb : Fin 256) (i : Fin 16) (v : Word)
  /-- R255: the next waiting record of a member. -/
  | cqRecordIssue (c : Fin 5) (tb : Fin 256) (e : Fin 64)
  /-- R263: 1 is written to PG_CTL.ENABLE of a table page. -/
  | tableEnable (c : Fin 5) (tb : Fin 256)
  /-- R270: a CONTRIB packet arrives. -/
  | contribReceive (c : Fin 5) (e : Fin 64) (p : Pkt)
  /-- R271: the next trick of a table. -/
  | trickOpen (c : Fin 5) (tb : Fin 256)
  /-- R275: the lump of a member has been held early or staged for 5 ms. -/
  | lumpExpiry (c : Fin 5) (tb : Fin 256) (op : BitVec 16) (trick : BitVec 32) (piece : Fin 64) (lump : Fin 8)
    (e : Fin 64)
  /-- R285: a SNAP packet arrives. -/
  | snapReceive (c : Fin 5) (e : Fin 64) (p : Pkt)
  /-- R284: the SNAP of a member for SNAP_SEQ s (`next`: s + 1) has waited 5 ms. -/
  | snapExpiry (c : Fin 5) (tb : Fin 256) (e : Fin 64) (next : Bool)
  /-- R320: 1 is written to LAY_OP.CREATE. -/
  | descCreateOp (c : Fin 5)
  /-- R301: 1 is written to LAY_OP.DESTROY. -/
  | descDestroyOp (c : Fin 5)
  /-- R321: 1 is written to LAY_OP.READ. -/
  | descReadOp (c : Fin 5)
  /-- R314: 1 is written to XLT_OP.WRITE. -/
  | xltWrite (c : Fin 5)
  /-- R322: 1 is written to XLT_OP.READ. -/
  | xltRead (c : Fin 5)
  /-- R318: 1 is written to XLT_OP.INVAL_SEAT. -/
  | invalSeat (c : Fin 5)
  /-- R318: the accesses under the old entry have drained. -/
  | revocationDone (c : Fin 5)
  /-- R324: 1 is written to DLR_JOB_CTL[j].GO. -/
  | jobStart (c : Fin 5) (j : Fin 32)
  /-- R359: 1 is written to DLR_JOB_CTL[j].ABORT. -/
  | jobAbort (c : Fin 5) (j : Fin 32)
  /-- R329: the counter on which the slot's instruction waits is looked at. -/
  | instrWaitEnd (c : Fin 5) (j : Fin 32)
  /-- R328: slot j executes the NOP at its program counter; so for every Dealer instruction below. -/
  | dealerNop (c : Fin 5) (j : Fin 32)
  /-- R328 -/
  | descCreate (c : Fin 5) (j : Fin 32)
  /-- R328 -/
  | descDestroy (c : Fin 5) (j : Fin 32)
  /-- R328 -/
  | ctrAdd (c : Fin 5) (j : Fin 32)
  /-- R338 -/
  | inWait (c : Fin 5) (j : Fin 32)
  /-- R338 -/
  | inFree (c : Fin 5) (j : Fin 32)
  /-- R330: `need` 4 KiB units of pool for tiles and `cache` units for cached copies of operands (R351). -/
  | mix (c : Fin 5) (j : Fin 32) (need cache : Nat)
  /-- R331 -/
  | vec (c : Fin 5) (j : Fin 32)
  /-- R333 -/
  | quant (c : Fin 5) (j : Fin 32)
  /-- R336: `need` 4 KiB units of pool for the epilogue's buffers. -/
  | rsEpi (c : Fin 5) (j : Fin 32) (need : Nat)
  /-- R337 -/
  | agPro (c : Fin 5) (j : Fin 32) (need : Nat)
  /-- R341 -/
  | moeRoute (c : Fin 5) (j : Fin 32) (need : Nat)
  /-- R343: the MOE_ROUTE of slot j takes its next ready batch. -/
  | moeBatch (c : Fin 5) (j : Fin 32)
  /-- R346 -/
  | shuffle (c : Fin 5) (j : Fin 32) (need : Nat)
  /-- R328 -/
  | send (c : Fin 5) (j : Fin 32)
  /-- R328 -/
  | scatter (c : Fin 5) (j : Fin 32)
  /-- R328 -/
  | endJob (c : Fin 5) (j : Fin 32)
  /-- R338: a write of `v` to DLR_IN_CFG[i]. -/
  | inboxValid (c : Fin 5) (i : Fin 16) (v : Word)
  /-- R339: a DEALER_IN packet in MODE 0 arrives. -/
  | dealerInInbox (c : Fin 5) (e : Fin 64) (p : Pkt)
  /-- R347: a DEALER_IN packet in MODE 1 arrives. -/
  | dealerInShuffle (c : Fin 5) (e : Fin 64) (p : Pkt)
  /-- R352: the allocation of slot j does not fit after 1 ms. -/
  | poolShort (c : Fin 5) (j : Fin 32)
  /-- R354: a write of `v` to DLR_LEND[i]. -/
  | lendWrite (c : Fin 5) (i : Fin 4) (v : Word)
  /-- R360 -/
  | sramEccError (c : Fin 5) (w : EccPlace)
  /-- R368: a write of `v` to SEAT_CFG of seat m. -/
  | seatCfgWrite (c : Fin 5) (m : Fin 64) (v : Word)
  /-- R373: the carry of watch i takes its effect. -/
  | watchOverflow (c : Fin 5) (i : Fin 8)
  /-- R373: the capture point after a carry, `pos` cells or instructions after it, at port or slot `wh`. -/
  | watchCapture (c : Fin 5) (i : Fin 8) (pos : BitVec 6) (wh : Fin 64)
  /-- R375: the next snapshot instant of the chip. -/
  | snapshot (c : Fin 5)
  /-- R379: the bridge looks whether all packets of the record of the chip have arrived. -/
  | dumpRecordDeliver (c : Fin 5)
  /-- R386: a window end, and what is read there. -/
  | calibration (r : EnergyRead)
  /-- R386: a K_SET packet reaches its chip: K and the CAL SEQ. -/
  | kSet (c : Fin 5) (k : BitVec 24) (calSeq : BitVec 32)
  /-- R392: V_IN in 10 mV. -/
  | vinUvWarn (v : BitVec 16)
  /-- R392 -/
  | vinUvTrip (v : BitVec 16)
  /-- R393: V_IN has been at least 48.0 V for 1 s; it is `v` now. -/
  | vinRestore (v : BitVec 16)
  /-- R396: the controller of rail r declares phase i failed. -/
  | phaseFail (c : Fin 5) (r : Fin 4) (i : Fin 16)
  /-- R397: the current sense of phase i is declared untrusted. -/
  | senseUntrusted (c : Fin 5) (r : Fin 4) (i : Fin 16)
  /-- R397 -/
  | railOvercurrent (c : Fin 5) (r : Fin 4)
  /-- R399: the housekeeper has identified the chip's rail failures and sets CAP_PWR. -/
  | capPwrSet (c : Fin 5)
  /-- R402: a step of CAP_THERM at the hottest die temperature `tj` in °C. -/
  | thermalCapStep (c : Fin 5) (tj : BitVec 8)
  /-- R402: the hottest die temperature is `tj`; `ms1`: it has been 110 °C or more for 1 ms. -/
  | dieOvertemp (c : Fin 5) (tj : BitVec 8) (ms1 : Bool)
  /-- R402 -/
  | thermalTrip (c : Fin 5)
  /-- R403: stack k reads `t` °C; `ms10`: it has been 95 °C or more for 10 ms. -/
  | hbmOvertemp (c : Fin 5) (k : Fin 2) (t : BitVec 8) (ms10 : Bool)
  /-- R404: a read of the coolant sensors: supply and return in 0.1 °C, flow in 0.01 L/min. -/
  | coolantRead (supply ret : BitVec 12) (flow : BitVec 16)
  /-- R404 -/
  | pumpFail (p : Fin 2)
  /-- R404, R406: the condition has been clear for 60 s, or (`operator`) the operator commands it. -/
  | coolingRecovery (operator : Bool)
  /-- R405 -/
  | fanFail (f : Fin 6)
  /-- R405 -/
  | cartOvertemp (b : Fin 40)
  /-- R406: a read of the air sensors: inlet in 0.1 °C, two's complement, estimated airflow in m³/h. -/
  | airRead (inlet airflow : BitVec 12)
  /-- R409: the rails of chip c ramp; bit 16r + i of `bad`: phase i of rail r fails its test (R397). -/
  | chipPowerUp (c : Fin 5) (bad : Word)
  /-- R409: the rail that ramps misses power-good. -/
  | railPgTimeout (c : Fin 5) (r : Fin 4)
  /-- R410 -/
  | pcieRelease (c : Fin 5)
  /-- R475: training of stack k ends. -/
  | hbmTrainingDone (c : Fin 5) (k : Fin 2) (ok : Bool)
  /-- R410 -/
  | coreRelease (c : Fin 5)
  /-- R412: V_IN is applied at `v`; the three reads of the slot contacts; FRAM passes a full write-read test. -/
  | powerOnReset (v : BitVec 16) (r0 r1 r2 : BitVec 5) (framOk : Bool)
  /-- R412: the HK reset requested, and the three reads of the slot contacts. -/
  | hkReset (r0 r1 r2 : BitVec 5)
  /-- R412 -/
  | chipReset (c : Fin 5)
  /-- R412: with the phase test of its power-up. -/
  | chipPowerReset (c : Fin 5) (bad : Word)
  /-- R412 -/
  | hkWatchdog (r0 r1 r2 : BitVec 5)
  /-- R418: the mean of a stable 500 ms window. -/
  | keyBaseline (mean : BitVec 16)
  /-- R419: the averaged reading that begins a touch. -/
  | touchBegin (raw : BitVec 16)
  /-- R419, R421: a touch ends after `ms` ms. -/
  | touchEnd (raw : BitVec 16) (ms : Nat)
  /-- R419 -/
  | keyBaselineRetake (raw : BitVec 16)
  /-- R420 -/
  | keyStuck (raw : BitVec 16)
  /-- R422: a byte and its stop-bit sample. -/
  | consoleRxByte (b : Byte) (stopOk : Bool)
  /-- R427; `m` 0: on MGMT-A. So for every message below. -/
  | leaseReq (m : Fin 2) (z : ZMsg)
  /-- R428 -/
  | leaseRenew (m : Fin 2) (z : ZMsg)
  /-- R440 -/
  | leaseRelease (m : Fin 2) (z : ZMsg)
  /-- R428 -/
  | leaseLapse (m : Fin 2)
  /-- R430 -/
  | identity (m : Fin 2) (z : ZMsg)
  /-- R431 -/
  | planeMap (m : Fin 2) (z : ZMsg)
  /-- R440 -/
  | logRead (m : Fin 2) (z : ZMsg)
  /-- R440 -/
  | regRead (m : Fin 2) (z : ZMsg)
  /-- R442 -/
  | regWrite (m : Fin 2) (z : ZMsg)
  /-- R446 -/
  | cfgDigest (m : Fin 2) (z : ZMsg)
  /-- R441 -/
  | dumpAck (m : Fin 2) (z : ZMsg)
  /-- R452 -/
  | wireTest (m : Fin 2) (z : ZMsg)
  /-- R452: the phase in progress ends; what LOOP checked on each lane of chip c, (c × 256 + lane, result). -/
  | wireTestPhaseEnd (loops : List (Nat × LoopRead))
  /-- R440 -/
  | fwBegin (m : Fin 2) (z : ZMsg)
  /-- R440 -/
  | fwData (m : Fin 2) (z : ZMsg)
  /-- R457: what the staged bundle's signed contents say. -/
  | fwEnd (m : Fin 2) (z : ZMsg) (b : BundleInfo)
  /-- R461 -/
  | fwActivate (m : Fin 2) (z : ZMsg)
  /-- R444: an SPDM request; `peerOk`: the manager's certificate verifies (KEY_EXCHANGE, FINISH). -/
  | spdm (m : Fin 2) (z : ZMsg) (req : SpdmReq) (peerOk : Bool)
  /-- R438: 5 ms have passed since the message with SEQ `seq` was last sent to manager m. -/
  | zmpResend (m : Fin 2) (seq : BitVec 32)
  /-- R434: a Sync accepted on port m, the grandmaster's time being `gm`. -/
  | ptpSync (m : Fin 2) (gm : Word)
  /-- R443: a request by a user whose role is ReadOnly or not. -/
  | redfishRequest (res : RfResource) (meth : RfMethod) (readOnly : Bool)
  /-- R455: the oldest entry not yet written. -/
  | logEntryWrite (r : FramResult)
  /-- R458: images A and B, the compatibility decision, and (where the housekeeper runs another HKF than the bundle's)
  the slot reads of its HK reset. -/
  | halvorenBoot (a b : ImageInfo) (d : CompatInfo) (hkf : Option (BitVec 5 × BitVec 5 × BitVec 5))
  /-- R462 -/
  | zhctlLog (fromSeq : BitVec 32)
  /-- R462 -/
  | zhctlPorts (c : Option (Fin 5))
  /-- R462 -/
  | zhctlRegRead (target : Fin 6) (off : Word) (count : Nat)
  /-- R462: port bitmaps of chips 0 to 4, DURATION_S, PHASES, FOM_MIN as in WIRE_TEST. -/
  | zhctlWireTest (ports : List Word) (duration : Nat) (phases fomMin : BitVec 8)
  /-- R462 -/
  | zhctlFwActivate (comps : BitVec 32)
  /-- R462: type and chip as HK_RESET takes them. -/
  | zhctlReset (type chip : BitVec 3)
  /-- R462: `ok`: the credential is the tray's. -/
  | zhctlLogin (ok : Bool)
  /-- R67 -/
  | pcieLinkRetrained (c : Fin 5)
  /-- R220 -/
  | deckHopUp (node : Fin 6)
  /-- R407 -/
  | vinUvWarnClear (v : BitVec 16)
  /-- R405 -/
  | cartOvertempClear (b : Fin 40)
  /-- R141: the PRBS checker of a lane in DIAG gains or loses lock. -/
  | prbsLock (c : Fin 5) (n : Fin 256) (lock : Bool)
  /-- R383: a whole second of fabric time. -/
  | seal
  /-- R392 -/
  | vinOvTrip
  /-- R455 -/
  | vinBrownout
  /-- R404 -/
  | leak
  /-- R411 -/
  | fabricReady
  /-- R412 -/
  | trayReset
  /-- R412 -/
  | halvorenReset
  /-- R412 -/
  | halvorenWatchdog
  /-- R414 -/
  | locateTimeout
  /-- R416, R417: the next label update starts. -/
  | labelUpdate
  /-- R416 -/
  | labelDone
  /-- R418 -/
  | keyFault
  /-- R422 -/
  | consoleBreak
  /-- R433 -/
  | hello
  /-- R453 -/
  | laneStats
  /-- R441 -/
  | wear
  /-- R435 -/
  | ptpHoldover
  /-- R436 -/
  | timeLockTimeout
  /-- R458 -/
  | imageConfirm
  /-- R458 -/
  | trialTimeout
  /-- R462 -/
  | zhctlStatus
  /-- R462 -/
  | zhctlLabelRepaint
  deriving DecidableEq, Repr

end Sys2Proof
end

