-- ==== Sys2Proof/Decode.lean ====
section
/-! DEFINITION. The command that a word spells by the bits of the command table: the table gives no row any bits, so no
word spells a command (log 21). -/
namespace Sys2Proof

/-- The command of a word of `nbits` bits: none, for every row of the table is without bits. -/
def decodeTableWord (_nbits _w : Nat) : Option Instr := none

end Sys2Proof
end

