-- ==== Sys2Proof/Machine/Assoc.lean ====
section
/-! DEFINITION. Sparse storage: a list of (key, value) pairs in one canonical form, keys strictly rising, and no
entry equal to what an unlisted key reads as. The register file, the memories and the per-port, per-lane and
per-table records of the state are all kept so. -/
namespace Sys2Proof.Machine

/-- A sparse map from numbers to values. -/
abbrev Assoc (α : Type) := List (Nat × α)

/-- The value at `k`: the entry's, or what an unlisted key reads as. -/
def Assoc.get {α : Type} (d : Nat → α) : Assoc α → Nat → α
  | [], k => d k
  | (k', v) :: t, k => if k = k' then v else Assoc.get d t k

/-- `m` with the entry (k, v). -/
def Assoc.insert {α : Type} (k : Nat) (v : α) : Assoc α → Assoc α
  | [] => [(k, v)]
  | (k', v') :: t =>
    if k < k' then (k, v) :: (k', v') :: t
    else if k = k' then (k, v) :: t
    else (k', v') :: Assoc.insert k v t

/-- `m` without an entry of `k`. -/
def Assoc.erase {α : Type} (k : Nat) : Assoc α → Assoc α
  | [] => []
  | (k', v') :: t => if k = k' then Assoc.erase k t else (k', v') :: Assoc.erase k t

/-- `m` with the value `v` at `k`, in canonical form. -/
def Assoc.set {α : Type} [DecidableEq α] (d : Nat → α) (m : Assoc α) (k : Nat) (v : α) : Assoc α :=
  if v = d k then Assoc.erase k m else Assoc.insert k v m

/-- The entries whose keys satisfy `p`: every other key goes back to what an unlisted key reads as. -/
def Assoc.keep {α : Type} (p : Nat → Bool) (m : Assoc α) : Assoc α := m.filter (fun e => p e.1)

/-- Every key of `m` is above `b`, and the keys rise. -/
def Assoc.rising {α : Type} : Nat → Assoc α → Bool
  | _, [] => true
  | b, (k, _) :: t => decide (b ≤ k) && Assoc.rising (k + 1) t

/-- The canonical form: keys strictly rising, no entry equal to what an unlisted key reads as. -/
def Assoc.wf {α : Type} [DecidableEq α] (d : Nat → α) (m : Assoc α) : Bool :=
  Assoc.rising 0 m && m.all (fun e => decide (e.2 ≠ d e.1))

end Sys2Proof.Machine
end

