-- ==== Sys2Proof/Config.lean ====
section
/-! DEFINITION. What an implementation or an environment fixes and the spec leaves open: free values, each an opaque
constant, so that no proof can lean on a value of it. -/
namespace Sys2Proof

/-- The free value drawn at counter `n` (log 1): applied by the model to the plain counter `freeCtr` of State. -/
opaque Config.freeValue : Nat → BitVec 64

/-- TEL_ECOEF of chip `c`, class `i`: fused coefficients (R389, log 3). -/
opaque Config.telEcoef : Nat → Nat → BitVec 32

/-- GELU of an FP32 value that is no NaN, by its code (R331: within 2 units in the last place; log 4). -/
opaque Config.gelu : BitVec 32 → BitVec 32

/-- SILU of an FP32 value that is no NaN (R331, log 4). -/
opaque Config.silu : BitVec 32 → BitVec 32

/-- EXP of an FP32 value that is no NaN (R331, log 4). -/
opaque Config.exp : BitVec 32 → BitVec 32

/-- Element code that QUANT writes at a position of a block that holds a NaN or an Inf: by format, position and the
block's values as FP64 codes (R333 states the scale alone; log 6). -/
opaque Config.quantBad : Nat → Nat → List Nat → BitVec 8

/-- Records that a dump ring in Halvoren DRAM holds, less one (R376; log 23). -/
opaque Config.dumpRing : Nat

/-- Fused idle power of chip `c` at a mean die temperature in 0.1 °C, in mW (R386; log 24). -/
opaque Config.idlePower : Nat → Nat → BitVec 32

/-- ECDSA P-384 signature of a seal's first 512 bytes with the tray's key: r in the low half, s in the high (R383;
log 25). -/
opaque Config.sealSign : List Byte → BitVec 768

/-- The tray's serial number, 16 ASCII bytes (R440; log 26). -/
opaque Config.serial : BitVec 128

/-- Low byte of an event's CODE, but for the codes that R454 and R458 give (log 27). -/
opaque Config.logCode : Nat → BitVec 8

/-- SEVERITY of an event (R454; log 27). -/
opaque Config.logSeverity : Nat → BitVec 2

/-- DATA bytes 24 to 55 of an event's entry, from what the event carries (R454; log 27). -/
opaque Config.logData : Nat → List Nat → BitVec 256

/-- SHA-384 of the plane-uniform registers of a chip, from (page, offset, value): R446 fixes neither their order nor
their encoding (log 28). -/
opaque Config.cfgDigest : List (Nat × Nat × Nat) → BitVec 384

/-- The SPDM response to a request, by its number in R444 and its bytes (log 29). -/
opaque Config.spdmReply : Nat → List Byte → List Byte

end Sys2Proof
end

