-- ==== Sys2Proof/Machine/Regs.lean ====
section
/-! DEFINITION. The register map: every register of a Phobel and of the Halvoren with its offset, fields, access
codes, reserved encodings and reset value (R10–R13, R70–R73, R82–R106, R464–R477 and the block tables each page kind
names). `A.<REGISTER>` is a register's offset in its page, `F.<REGISTER>_<FIELD>` a field. -/
namespace Sys2Proof.Machine

/-- A field of a register: page offset of the register, lowest bit, width. -/
structure Fld where
  off : Nat
  lo : Nat
  w : Nat
  deriving DecidableEq, Repr

/-- The register access codes of R10. -/
inductive Acc where
  | rw | ro | w1c | w1s | rc | wo | rws
  deriving DecidableEq, Repr

/-- The values of a field that are no reserved encodings (R13). -/
inductive Enc where
  /-- every value of the field's width -/
  | any
  /-- `lo` to `hi` -/
  | range (lo hi : Nat)
  /-- `lo` to `hi` in steps of `st` from `lo` -/
  | step (lo hi st : Nat)
  /-- the listed values -/
  | oneOf (vs : List Nat)
  deriving DecidableEq, Repr

/-- One field of the map: place, access code, whether it is an expert field (R87), valid encodings. -/
structure FieldDesc where
  fld : Fld
  acc : Acc
  expert : Bool
  enc : Enc
  deriving DecidableEq, Repr

/-- One register, or an array of registers `off + stride × i`, i < cnt, with the whole-register reset. -/
structure RegDesc where
  off : Nat
  stride : Nat
  cnt : Nat
  reset : Nat
  fields : List FieldDesc
  deriving DecidableEq, Repr

/-- The kinds of implemented page (R70, R73, R465). -/
inductive PageKind where
  | chip0 | chip1 | hdrOnly | port | sched | kit0 | kitMcg | kitEgr | kitOq | kitSeat | lane | table | dlr | dlrJob
  | dlrIn | lay | hbmCtl | hbmPhy | deck | dump | watch | seat | circ | snap | xlt | tel
  | hk | pwrIn | pwrRail | pnl | con | log | mgr | fw
  deriving DecidableEq, Repr

/-- `v` is no reserved encoding of a field with encodings `e` (R13). -/
def Enc.ok (e : Enc) (v : Nat) : Bool :=
  match e with
  | .any => true
  | .range lo hi => decide (lo ≤ v) && decide (v ≤ hi)
  | .step lo hi st => decide (lo ≤ v) && decide (v ≤ hi) && (v - lo) % st == 0
  | .oneOf vs => vs.contains v

/-- The field's value in the register word `x`. -/
def Fld.get (f : Fld) (x : Word) : Nat := ((x >>> f.lo) &&& maskW f.w).toNat

/-- `x` with the field set to `v` (modulo its width). -/
def Fld.put (f : Fld) (x : Word) (v : Nat) : Word :=
  (x &&& ~~~(maskW f.w <<< f.lo)) ||| ((BitVec.ofNat 64 v &&& maskW f.w) <<< f.lo)

/-- The same field of the register `d` bytes further on (arrays of registers). -/
def Fld.at (f : Fld) (d : Nat) : Fld := { f with off := f.off + d }

/-- Page number and space of a page handle: `space × 4096 + page`; spaces 0 to 4 are the chips, 5 the Halvoren. -/
def halvoren : Nat := 5
/-- Page `p` of chip `c`. -/
def chipPg (c p : Nat) : Nat := c * 4096 + p
/-- Page `p` of the Halvoren. -/
def halPg (p : Nat) : Nat := 5 * 4096 + p
/-- The key of the register at `off` of page `pg` in the register file. -/
def regKey (pg off : Nat) : Nat := pg * 4096 + off

/-- Page of port `e` of chip `c` (R25, R70). -/
def portPg (c e : Nat) : Nat := chipPg c (0x010 + e)
/-- Page of lane `n` of chip `c`. -/
def lanePg (c n : Nat) : Nat := chipPg c (0x100 + n)
/-- Page of table `t` of chip `c`. -/
def tblPg (c t : Nat) : Nat := chipPg c (0x200 + t)
/-- Page of seat `m` of chip `c`. -/
def seatPg (c m : Nat) : Nat := chipPg c (0x380 + m)
/-- Controller page of HBM stack `k` of chip `c`. -/
def hbmPg (c k : Nat) : Nat := chipPg c (0x320 + 2 * k)
/-- PHY page of HBM stack `k` of chip `c`. -/
def hbmPhyPg (c k : Nat) : Nat := chipPg c (0x321 + 2 * k)

/-! ### Page kind `chip0` (R26, R29, R58, R59, R60, R61, R99) -/
def A.CHIP_TOPO : Nat := 0x100
def F.CHIP_TOPO_CHIP_IDX : Fld := ⟨0x100, 0, 3⟩
def F.CHIP_TOPO_SLOT : Fld := ⟨0x100, 8, 4⟩
def F.CHIP_TOPO_ROLE : Fld := ⟨0x100, 12, 2⟩
def F.CHIP_TOPO_RACK_ID : Fld := ⟨0x100, 16, 32⟩
def F.CHIP_TOPO_TOPO_VALID : Fld := ⟨0x100, 63, 1⟩
def A.CHIP_WIRE_OK : Nat := 0x108
def F.CHIP_WIRE_OK_WIRE_OK : Fld := ⟨0x108, 0, 64⟩
def A.CHIP_WIRE_FAULT : Nat := 0x110
def F.CHIP_WIRE_FAULT_WIRE_FAULT : Fld := ⟨0x110, 0, 64⟩
def A.CHIP_CLK_STS : Nat := 0x120
def F.CHIP_CLK_STS_REF_OK : Fld := ⟨0x120, 0, 1⟩
def F.CHIP_CLK_STS_CORE_LOCK : Fld := ⟨0x120, 1, 1⟩
def F.CHIP_CLK_STS_DEAL_LOCK : Fld := ⟨0x120, 2, 1⟩
def F.CHIP_CLK_STS_HBM0_LOCK : Fld := ⟨0x120, 3, 1⟩
def F.CHIP_CLK_STS_HBM1_LOCK : Fld := ⟨0x120, 4, 1⟩
def F.CHIP_CLK_STS_PCI_LOCK : Fld := ⟨0x120, 5, 1⟩
def F.CHIP_CLK_STS_TIME_LOCKED : Fld := ⟨0x120, 6, 1⟩
def F.CHIP_CLK_STS_ON_FLOOR : Fld := ⟨0x120, 7, 1⟩
def F.CHIP_CLK_STS_LOSS_CNT : Fld := ⟨0x120, 16, 8⟩
def A.CHIP_TXPLL_LOCK : Nat := 0x128
def F.CHIP_TXPLL_LOCK_LOCK : Fld := ⟨0x128, 0, 64⟩
def A.CHIP_DEAL_CLK : Nat := 0x130
def F.CHIP_DEAL_CLK_REQ_MHZ : Fld := ⟨0x130, 0, 11⟩
def F.CHIP_DEAL_CLK_CAP_MHZ : Fld := ⟨0x130, 16, 11⟩
def F.CHIP_DEAL_CLK_CUR_MHZ : Fld := ⟨0x130, 32, 11⟩
def F.CHIP_DEAL_CLK_CHANGING : Fld := ⟨0x130, 48, 1⟩
def A.CHIP_TIME : Nat := 0x138
def F.CHIP_TIME_TIME : Fld := ⟨0x138, 0, 64⟩
def A.CHIP_BG_CTL : Nat := 0x140
def F.CHIP_BG_CTL_KITTY_SCRUB : Fld := ⟨0x140, 0, 1⟩
def F.CHIP_BG_CTL_SRAM_SCRUB : Fld := ⟨0x140, 1, 1⟩
def F.CHIP_BG_CTL_HBM_SCRUB : Fld := ⟨0x140, 2, 1⟩
def F.CHIP_BG_CTL_PAUSE_S : Fld := ⟨0x140, 8, 8⟩
def A.CHIP_BG_STS : Nat := 0x148
def F.CHIP_BG_STS_KITTY_PASS : Fld := ⟨0x148, 0, 16⟩
def F.CHIP_BG_STS_SRAM_PASS : Fld := ⟨0x148, 16, 16⟩
def F.CHIP_BG_STS_HBM_PASS : Fld := ⟨0x148, 32, 16⟩
def A.CHIP_IRQ_SUM : Nat := 0x200
def F.CHIP_IRQ_SUM_SUM : Fld := ⟨0x200, 0, 64⟩

/-! ### Page kind `chip1` (R294) -/
def A.CHIP_COLL_USE : Nat := 0x100
def F.CHIP_COLL_USE_TAGS_USED : Fld := ⟨0x100, 0, 15⟩
def F.CHIP_COLL_USE_TRIG_USED : Fld := ⟨0x100, 15, 17⟩
def F.CHIP_COLL_USE_STAGE_REQ : Fld := ⟨0x100, 32, 10⟩
def A.CHIP_COLL_MAX : Nat := 0x108
def F.CHIP_COLL_MAX_TAGS_USED : Fld := ⟨0x108, 0, 15⟩
def F.CHIP_COLL_MAX_TRIG_USED : Fld := ⟨0x108, 15, 17⟩
def F.CHIP_COLL_MAX_STAGE_REQ : Fld := ⟨0x108, 32, 10⟩

/-! ### Page kind `hdr` (R82) -/
def A.PG_ID : Nat := 0x000
def F.PG_ID_BLOCK_TYPE : Fld := ⟨0x000, 0, 16⟩
def F.PG_ID_INSTANCE : Fld := ⟨0x000, 16, 16⟩
def F.PG_ID_LAYOUT_VER : Fld := ⟨0x000, 32, 8⟩
def F.PG_ID_PAGE_REV : Fld := ⟨0x000, 40, 8⟩
def F.PG_ID_STEPPING : Fld := ⟨0x000, 48, 8⟩
def F.PG_ID_PRESENT : Fld := ⟨0x000, 63, 1⟩
def A.PG_CAP : Nat := 0x008
def F.PG_CAP_ABORTABLE : Fld := ⟨0x008, 0, 1⟩
def F.PG_CAP_STAGED : Fld := ⟨0x008, 1, 1⟩
def F.PG_CAP_PROFILES : Fld := ⟨0x008, 2, 1⟩
def F.PG_CAP_IRQ : Fld := ⟨0x008, 3, 1⟩
def F.PG_CAP_BLOCK_CAP : Fld := ⟨0x008, 32, 32⟩
def A.PG_CTL : Nat := 0x010
def F.PG_CTL_ENABLE : Fld := ⟨0x010, 0, 1⟩
def F.PG_CTL_EXPERT : Fld := ⟨0x010, 1, 1⟩
def F.PG_CTL_PROFILE : Fld := ⟨0x010, 8, 8⟩
def A.PG_STS : Nat := 0x018
def F.PG_STS_ENABLED : Fld := ⟨0x018, 0, 1⟩
def F.PG_STS_BUSY : Fld := ⟨0x018, 1, 1⟩
def F.PG_STS_ABORTING : Fld := ⟨0x018, 2, 1⟩
def F.PG_STS_COMMIT_PENDING : Fld := ⟨0x018, 3, 1⟩
def F.PG_STS_ERR_HELD : Fld := ⟨0x018, 4, 1⟩
def F.PG_STS_BLOCK_STS : Fld := ⟨0x018, 8, 56⟩
def A.PG_IRQ_RAW : Nat := 0x020
def F.PG_IRQ_RAW_RAW : Fld := ⟨0x020, 0, 64⟩
def A.PG_IRQ_EN : Nat := 0x028
def F.PG_IRQ_EN_EN : Fld := ⟨0x028, 0, 64⟩
def A.PG_IRQ_STS : Nat := 0x030
def F.PG_IRQ_STS_STS : Fld := ⟨0x030, 0, 64⟩
def A.PG_PROFILE : Nat := 0x080
def F.PG_PROFILE_ACTIVE : Fld := ⟨0x080, 0, 8⟩
def F.PG_PROFILE_EXPERT_IN_FORCE : Fld := ⟨0x080, 8, 1⟩
def F.PG_PROFILE_SUPPORTED : Fld := ⟨0x080, 16, 32⟩
def F.PG_PROFILE_DERIVE_COUNT : Fld := ⟨0x080, 48, 16⟩
def A.PG_ERR_CAPT : Nat := 0x060
def F.PG_ERR_CAPT_CODE : Fld := ⟨0x060, 0, 8⟩
def F.PG_ERR_CAPT_OFFSET : Fld := ⟨0x060, 8, 12⟩
def F.PG_ERR_CAPT_SOURCE : Fld := ⟨0x060, 20, 2⟩
def F.PG_ERR_CAPT_IS_WRITE : Fld := ⟨0x060, 22, 1⟩
def F.PG_ERR_CAPT_TIME : Fld := ⟨0x060, 24, 32⟩
def F.PG_ERR_CAPT_MORE : Fld := ⟨0x060, 56, 6⟩
def F.PG_ERR_CAPT_VALID : Fld := ⟨0x060, 63, 1⟩
def A.PG_COMMIT : Nat := 0x050
def F.PG_COMMIT_GO : Fld := ⟨0x050, 0, 1⟩
def A.PG_COMMIT_STS : Nat := 0x058
def F.PG_COMMIT_STS_DONE : Fld := ⟨0x058, 0, 1⟩
def F.PG_COMMIT_STS_PENDING : Fld := ⟨0x058, 1, 1⟩
def F.PG_COMMIT_STS_REFUSED : Fld := ⟨0x058, 2, 1⟩
def F.PG_COMMIT_STS_COUNT : Fld := ⟨0x058, 16, 16⟩
def A.PG_ABORT : Nat := 0x040
def F.PG_ABORT_GO : Fld := ⟨0x040, 0, 1⟩
def A.PG_ABORT_STS : Nat := 0x048
def F.PG_ABORT_STS_DONE : Fld := ⟨0x048, 0, 1⟩
def F.PG_ABORT_STS_IN_PROGRESS : Fld := ⟨0x048, 1, 1⟩
def F.PG_ABORT_STS_ELAPSED_US : Fld := ⟨0x048, 16, 16⟩
def F.PG_ABORT_STS_EPOCH : Fld := ⟨0x048, 48, 16⟩

/-! ### Page kind `lane` (R145) -/
def A.LANE_CFG : Nat := 0x100
def F.LANE_CFG_RATE : Fld := ⟨0x100, 0, 1⟩
def F.LANE_CFG_TX_PRESET : Fld := ⟨0x100, 4, 4⟩
def F.LANE_CFG_RX_PRESET : Fld := ⟨0x100, 8, 4⟩
def F.LANE_CFG_LOOPBACK : Fld := ⟨0x100, 12, 2⟩
def F.LANE_CFG_TX_INV : Fld := ⟨0x100, 14, 1⟩
def F.LANE_CFG_ADAPT : Fld := ⟨0x100, 16, 2⟩
def A.LANE_STS : Nat := 0x108
def F.LANE_STS_STATE : Fld := ⟨0x108, 0, 4⟩
def F.LANE_STS_CDR_LOCK : Fld := ⟨0x108, 4, 1⟩
def F.LANE_STS_CW_LOCK : Fld := ⟨0x108, 5, 1⟩
def F.LANE_STS_RX_INV : Fld := ⟨0x108, 6, 1⟩
def F.LANE_STS_LOS : Fld := ⟨0x108, 7, 1⟩
def F.LANE_STS_FLOOD : Fld := ⟨0x108, 8, 1⟩
def F.LANE_STS_SAT : Fld := ⟨0x108, 9, 1⟩
def F.LANE_STS_SPARED : Fld := ⟨0x108, 10, 1⟩
def F.LANE_STS_PRBS_LOCK : Fld := ⟨0x108, 11, 1⟩
def F.LANE_STS_SKEW : Fld := ⟨0x108, 16, 8⟩
def A.LANE_FOM : Nat := 0x110
def F.LANE_FOM_CUR : Fld := ⟨0x110, 0, 8⟩
def F.LANE_FOM_AVG : Fld := ⟨0x110, 8, 8⟩
def F.LANE_FOM_MIN : Fld := ⟨0x110, 16, 8⟩
def F.LANE_FOM_FOM_WARN : Fld := ⟨0x110, 24, 8⟩
def F.LANE_FOM_FOM_FAIL : Fld := ⟨0x110, 32, 8⟩
def A.LANE_FEC_CW : Nat := 0x118
def F.LANE_FEC_CW_COUNT : Fld := ⟨0x118, 0, 64⟩
def A.LANE_FEC_CORR : Nat := 0x120
def F.LANE_FEC_CORR_COUNT : Fld := ⟨0x120, 0, 64⟩
def A.LANE_FEC_SYM : Nat := 0x128
def F.LANE_FEC_SYM_COUNT : Fld := ⟨0x128, 0, 64⟩
def A.LANE_FEC_UNC : Nat := 0x130
def F.LANE_FEC_UNC_COUNT : Fld := ⟨0x130, 0, 64⟩
def A.LANE_DIAG : Nat := 0x138
def F.LANE_DIAG_PRBS_GEN : Fld := ⟨0x138, 0, 4⟩
def F.LANE_DIAG_PRBS_CHK : Fld := ⟨0x138, 4, 4⟩
def F.LANE_DIAG_AUTO_ALIGN : Fld := ⟨0x138, 8, 1⟩
def A.LANE_PRBS_ERR : Nat := 0x140
def F.LANE_PRBS_ERR_ERR_BITS : Fld := ⟨0x140, 0, 48⟩
def A.LANE_SLIP : Nat := 0x148
def F.LANE_SLIP_SLIP_UI : Fld := ⟨0x148, 0, 8⟩
def A.LANE_EQ_STS : Nat := 0x150
def F.LANE_EQ_STS_TAPS : Fld := ⟨0x150, 0, 40⟩
def F.LANE_EQ_STS_CTLE : Fld := ⟨0x150, 40, 8⟩
def A.LANE_EVT : Nat := 0x158
def F.LANE_EVT_FREEZES : Fld := ⟨0x158, 0, 16⟩
def F.LANE_EVT_LOS_CNT : Fld := ⟨0x158, 16, 16⟩
def F.LANE_EVT_FLOOD_CNT : Fld := ⟨0x158, 32, 16⟩
def A.LANE_WEAR : Nat := 0x160
def F.LANE_WEAR_RATIO : Fld := ⟨0x160, 0, 16⟩
def F.LANE_WEAR_BIAS : Fld := ⟨0x160, 16, 16⟩
def F.LANE_WEAR_HOURS : Fld := ⟨0x160, 32, 32⟩

/-! ### Page kind `port` (R146, R187, R222) -/
def A.PORT_TRAIN_CTL : Nat := 0x100
def F.PORT_TRAIN_CTL_RESTART : Fld := ⟨0x100, 0, 1⟩
def F.PORT_TRAIN_CTL_AUTO_RETRY : Fld := ⟨0x100, 1, 1⟩
def F.PORT_TRAIN_CTL_DIAG : Fld := ⟨0x100, 2, 1⟩
def F.PORT_TRAIN_CTL_FAR_LOOP : Fld := ⟨0x100, 3, 1⟩
def F.PORT_TRAIN_CTL_ALLOW_REMOTE_LOOP : Fld := ⟨0x100, 4, 1⟩
def F.PORT_TRAIN_CTL_SPARE_AUTO_EOL : Fld := ⟨0x100, 5, 1⟩
def F.PORT_TRAIN_CTL_FLOOD_HOLD_MS : Fld := ⟨0x100, 16, 16⟩
def A.PORT_TRAIN_STS : Nat := 0x108
def F.PORT_TRAIN_STS_STATE : Fld := ⟨0x108, 0, 4⟩
def F.PORT_TRAIN_STS_CAUSE : Fld := ⟨0x108, 8, 8⟩
def F.PORT_TRAIN_STS_ATTEMPTS : Fld := ⟨0x108, 16, 8⟩
def F.PORT_TRAIN_STS_UP_COUNT : Fld := ⟨0x108, 32, 32⟩
def A.PORT_PARTNER : Nat := 0x110
def F.PORT_PARTNER_RACK_ID : Fld := ⟨0x110, 0, 32⟩
def F.PORT_PARTNER_EP : Fld := ⟨0x110, 32, 6⟩
def F.PORT_PARTNER_SLOT : Fld := ⟨0x110, 40, 4⟩
def F.PORT_PARTNER_CHIP : Fld := ⟨0x110, 44, 3⟩
def F.PORT_PARTNER_KIND : Fld := ⟨0x110, 47, 1⟩
def F.PORT_PARTNER_PROTO : Fld := ⟨0x110, 48, 8⟩
def A.PORT_PARTNER_LAT : Nat := 0x118
def F.PORT_PARTNER_LAT_RX_LAT_NS : Fld := ⟨0x118, 0, 16⟩
def F.PORT_PARTNER_LAT_TX_LAT_NS : Fld := ⟨0x118, 16, 16⟩
def F.PORT_PARTNER_LAT_REACT_NS : Fld := ⟨0x118, 32, 16⟩
def F.PORT_PARTNER_LAT_CAPS : Fld := ⟨0x118, 48, 16⟩
def A.PORT_RTT : Nat := 0x120
def F.PORT_RTT_RTT_RAW : Fld := ⟨0x120, 0, 20⟩
def F.PORT_RTT_RESIDENCE : Fld := ⟨0x120, 20, 20⟩
def F.PORT_RTT_CABLE : Fld := ⟨0x120, 40, 16⟩
def F.PORT_RTT_MEAS_CNT : Fld := ⟨0x120, 56, 8⟩
def A.PORT_ALARM : Nat := 0x128
def F.PORT_ALARM_ALARMS : Fld := ⟨0x128, 0, 13⟩
def A.PORT_SPARE : Nat := 0x130
def F.PORT_SPARE_LANE : Fld := ⟨0x130, 0, 2⟩
def F.PORT_SPARE_GO : Fld := ⟨0x130, 2, 1⟩
def F.PORT_SPARE_BUSY : Fld := ⟨0x130, 3, 1⟩
def F.PORT_SPARE_RESULT : Fld := ⟨0x130, 4, 2⟩
def A.PORT_CW_DROP : Nat := 0x138
def F.PORT_CW_DROP_FLITS : Fld := ⟨0x138, 0, 64⟩
def A.PORT_CART : Nat := 0x180
def F.PORT_CART_TYPE : Fld := ⟨0x180, 0, 4⟩
def F.PORT_CART_MSTATE : Fld := ⟨0x180, 4, 4⟩
def F.PORT_CART_LEN_DM : Fld := ⟨0x180, 8, 12⟩
def F.PORT_CART_SPARES_LEFT : Fld := ⟨0x180, 20, 4⟩
def F.PORT_CART_FW : Fld := ⟨0x180, 24, 16⟩
def A.PORT_CMIS_CMD : Nat := 0x188
def F.PORT_CMIS_CMD_GO : Fld := ⟨0x188, 0, 1⟩
def F.PORT_CMIS_CMD_WRITE : Fld := ⟨0x188, 1, 1⟩
def F.PORT_CMIS_CMD_PAGE : Fld := ⟨0x188, 8, 8⟩
def F.PORT_CMIS_CMD_BANK : Fld := ⟨0x188, 16, 8⟩
def F.PORT_CMIS_CMD_ADDR : Fld := ⟨0x188, 24, 8⟩
def F.PORT_CMIS_CMD_LEN : Fld := ⟨0x188, 32, 4⟩
def A.PORT_CMIS_DATA : Nat := 0x190
def F.PORT_CMIS_DATA_DATA : Fld := ⟨0x190, 0, 64⟩
def A.PORT_CMIS_STS : Nat := 0x198
def F.PORT_CMIS_STS_BUSY : Fld := ⟨0x198, 0, 1⟩
def F.PORT_CMIS_STS_DONE : Fld := ⟨0x198, 1, 1⟩
def F.PORT_CMIS_STS_RESULT : Fld := ⟨0x198, 2, 2⟩
def A.PORT_FC_HDRM : Nat := 0x200
def F.PORT_FC_HDRM_HDRM_TC0 : Fld := ⟨0x200, 0, 9⟩
def F.PORT_FC_HDRM_HDRM_TC1 : Fld := ⟨0x200, 16, 9⟩
def F.PORT_FC_HDRM_HDRM_TC2 : Fld := ⟨0x200, 32, 9⟩
def F.PORT_FC_HDRM_HDRM_TC3 : Fld := ⟨0x200, 48, 9⟩
def A.PORT_FC_CTL : Nat := 0x208
def F.PORT_FC_CTL_PAUSE_WD_MS : Fld := ⟨0x208, 0, 4⟩
def F.PORT_FC_CTL_RTO_US : Fld := ⟨0x208, 8, 8⟩
def F.PORT_FC_CTL_MAX_RETRY : Fld := ⟨0x208, 16, 4⟩
def A.PORT_THR_CTL : Nat := 0x210
def F.PORT_THR_CTL_THR_MARK : Fld := ⟨0x210, 0, 16⟩
def F.PORT_THR_CTL_THR_GAP_US : Fld := ⟨0x210, 16, 8⟩
def F.PORT_THR_CTL_STEP : Fld := ⟨0x210, 24, 8⟩
def F.PORT_THR_CTL_INTERVAL_NS : Fld := ⟨0x210, 32, 16⟩
def A.PORT_FC_STS : Nat := 0x218
def F.PORT_FC_STS_XOFF_TX : Fld := ⟨0x218, 0, 4⟩
def F.PORT_FC_STS_XOFF_RX : Fld := ⟨0x218, 4, 4⟩
def F.PORT_FC_STS_STORM : Fld := ⟨0x218, 8, 4⟩
def F.PORT_FC_STS_HDRM_WAIT : Fld := ⟨0x218, 12, 1⟩
def A.PORT_XOFF_TIME : Nat := 0x220
def F.PORT_XOFF_TIME_TX_US : Fld := ⟨0x220, 0, 32⟩
def F.PORT_XOFF_TIME_RX_US : Fld := ⟨0x220, 32, 32⟩
def A.PORT_RX_ERR : Nat := 0x228
def F.PORT_RX_ERR_HDR_CRC : Fld := ⟨0x228, 0, 16⟩
def F.PORT_RX_ERR_FRAME : Fld := ⟨0x228, 16, 16⟩
def F.PORT_RX_ERR_E2E_CRC : Fld := ⟨0x228, 32, 16⟩
def F.PORT_RX_ERR_BAD_PKT : Fld := ⟨0x228, 48, 16⟩
def A.PORT_DROP : Nat := 0x230
def F.PORT_DROP_HDRM_OVF : Fld := ⟨0x230, 0, 32⟩
def F.PORT_DROP_STORM : Fld := ⟨0x230, 32, 32⟩
def A.PORT_REPLAY : Nat := 0x238
def F.PORT_REPLAY_USED : Fld := ⟨0x238, 0, 13⟩
def F.PORT_REPLAY_FULL_EVT : Fld := ⟨0x238, 16, 16⟩
def F.PORT_REPLAY_RESENDS : Fld := ⟨0x238, 32, 32⟩
def A.PORT_CFG : Nat := 0x240
def F.PORT_CFG_CUT_THROUGH : Fld := ⟨0x240, 0, 3⟩

/-! ### Page kind `circ` (R186) -/
def A.CIRC_SEL : Nat := 0x100
def F.CIRC_SEL_IDX : Fld := ⟨0x100, 0, 7⟩
def A.CIRC_ENT : Nat := 0x108
def F.CIRC_ENT_IN_PORT : Fld := ⟨0x108, 0, 6⟩
def F.CIRC_ENT_OUT_PORT : Fld := ⟨0x108, 6, 6⟩
def F.CIRC_ENT_SEAT : Fld := ⟨0x108, 12, 6⟩
def F.CIRC_ENT_CH : Fld := ⟨0x108, 18, 3⟩
def F.CIRC_ENT_SLOTS : Fld := ⟨0x108, 21, 8⟩
def F.CIRC_ENT_SLICE : Fld := ⟨0x108, 29, 2⟩
def F.CIRC_ENT_CMP : Fld := ⟨0x108, 31, 1⟩
def F.CIRC_ENT_VALID : Fld := ⟨0x108, 63, 1⟩
def A.CIRC_OP : Nat := 0x110
def F.CIRC_OP_SETUP : Fld := ⟨0x110, 0, 1⟩
def F.CIRC_OP_TEARDOWN : Fld := ⟨0x110, 1, 1⟩
def F.CIRC_OP_BUSY : Fld := ⟨0x110, 2, 1⟩
def F.CIRC_OP_DONE : Fld := ⟨0x110, 3, 1⟩
def F.CIRC_OP_RESULT : Fld := ⟨0x110, 4, 4⟩
def A.CIRC_STS : Nat := 0x118
def F.CIRC_STS_ACTIVE : Fld := ⟨0x118, 0, 8⟩
def A.CIRC_BYTES : Nat := 0x120
def F.CIRC_BYTES_BYTES : Fld := ⟨0x120, 0, 64⟩
def A.CIRC_XBYTES : Nat := 0x128
def F.CIRC_XBYTES_BYTES : Fld := ⟨0x128, 0, 64⟩
def A.CIRC_XERR : Nat := 0x130
def F.CIRC_XERR_COUNT : Fld := ⟨0x130, 0, 64⟩

/-! ### Page kind `sched` (R223) -/
def A.SCHED_CFG : Nat := 0x100
def F.SCHED_CFG_ITER : Fld := ⟨0x100, 0, 2⟩
def F.SCHED_CFG_AGE : Fld := ⟨0x100, 8, 8⟩
def A.SCHED_AGED : Nat := 0x108
def F.SCHED_AGED_COUNT : Fld := ⟨0x108, 0, 32⟩
def A.SCHED_SLICE_CELLS : Nat := 0x110
def F.SCHED_SLICE_CELLS_CELLS : Fld := ⟨0x110, 0, 64⟩
def A.SCHED_STAGE_WM : Nat := 0x130
def F.SCHED_STAGE_WM_MAX : Fld := ⟨0x130, 0, 9⟩
def F.SCHED_STAGE_WM_PORT : Fld := ⟨0x130, 16, 6⟩
def A.SCHED_STAGE_XOFF : Nat := 0x138
def F.SCHED_STAGE_XOFF_PORTS : Fld := ⟨0x138, 0, 64⟩

/-! ### Page kind `kit0` (R224) -/
def A.KIT_ALPHA : Nat := 0x100
def F.KIT_ALPHA_ALPHA_TC1 : Fld := ⟨0x100, 0, 3⟩
def F.KIT_ALPHA_ALPHA_TC2 : Fld := ⟨0x100, 8, 3⟩
def F.KIT_ALPHA_ALPHA_TC3 : Fld := ⟨0x100, 16, 3⟩
def A.KIT_PUSH : Nat := 0x108
def F.KIT_PUSH_PUSH_EN : Fld := ⟨0x108, 0, 1⟩
def F.KIT_PUSH_SCOPE : Fld := ⟨0x108, 1, 1⟩
def A.KIT_USE : Nat := 0x110
def F.KIT_USE_SHARED_USED : Fld := ⟨0x110, 0, 19⟩
def F.KIT_USE_CARVE : Fld := ⟨0x110, 24, 16⟩
def F.KIT_USE_HDRM_USED : Fld := ⟨0x110, 40, 16⟩
def A.KIT_FREE : Nat := 0x118
def F.KIT_FREE_FREE : Fld := ⟨0x118, 0, 19⟩
def F.KIT_FREE_FREE_MIN : Fld := ⟨0x118, 32, 19⟩
def A.KIT_PUSH_CNT : Nat := 0x120
def F.KIT_PUSH_CNT_PKTS : Fld := ⟨0x120, 0, 32⟩
def F.KIT_PUSH_CNT_CELLS : Fld := ⟨0x120, 32, 32⟩
def A.KIT_ECC : Nat := 0x128
def F.KIT_ECC_CORR : Fld := ⟨0x128, 0, 32⟩
def F.KIT_ECC_UNCORR : Fld := ⟨0x128, 32, 32⟩

/-! ### Page kind `kitMcg` (R225) -/
def A.KIT_MCG_SEL : Nat := 0x100
def F.KIT_MCG_SEL_IDX : Fld := ⟨0x100, 0, 10⟩
def A.KIT_MCG_ENT : Nat := 0x108
def F.KIT_MCG_ENT_VALID : Fld := ⟨0x108, 0, 1⟩
def F.KIT_MCG_ENT_SELF : Fld := ⟨0x108, 1, 1⟩
def F.KIT_MCG_ENT_SEAT : Fld := ⟨0x108, 8, 6⟩
def A.KIT_MCG_MEMB : Nat := 0x110
def F.KIT_MCG_MEMB_MEMBERS : Fld := ⟨0x110, 0, 64⟩
def A.KIT_MCG_OP : Nat := 0x118
def F.KIT_MCG_OP_WRITE : Fld := ⟨0x118, 0, 1⟩
def F.KIT_MCG_OP_READ : Fld := ⟨0x118, 1, 1⟩
def F.KIT_MCG_OP_BUSY : Fld := ⟨0x118, 2, 1⟩
def F.KIT_MCG_OP_DONE : Fld := ⟨0x118, 3, 1⟩
def A.KIT_RESID : Nat := 0x120
def F.KIT_RESID_USED : Fld := ⟨0x120, 0, 10⟩
def F.KIT_RESID_MAX : Fld := ⟨0x120, 16, 10⟩
def F.KIT_RESID_FULL_EVT : Fld := ⟨0x120, 32, 32⟩
def A.KIT_MC_DROP : Nat := 0x128
def F.KIT_MC_DROP_MEMBERS : Fld := ⟨0x128, 0, 32⟩

/-! ### Page kind `kitEgr` (R226) -/
def A.KIT_EGR : Nat := 0x100
def F.KIT_EGR_TC1_CAP_PCT : Fld := ⟨0x100, 0, 7⟩
def F.KIT_EGR_TC3_MIN_PCT : Fld := ⟨0x100, 8, 7⟩

/-! ### Page kind `kitOq` (R227) -/
def A.KIT_OQ_LEN : Nat := 0x100
def F.KIT_OQ_LEN_TC1 : Fld := ⟨0x100, 0, 19⟩
def F.KIT_OQ_LEN_TC2 : Fld := ⟨0x100, 20, 19⟩
def F.KIT_OQ_LEN_TC3 : Fld := ⟨0x100, 40, 19⟩
def A.KIT_OQ_WM : Nat := 0x108
def F.KIT_OQ_WM_TC1 : Fld := ⟨0x108, 0, 19⟩
def F.KIT_OQ_WM_TC2 : Fld := ⟨0x108, 20, 19⟩
def F.KIT_OQ_WM_TC3 : Fld := ⟨0x108, 40, 19⟩
def A.KIT_OQ_PUSH : Nat := 0x110
def F.KIT_OQ_PUSH_PKTS : Fld := ⟨0x110, 0, 32⟩
def F.KIT_OQ_PUSH_CELLS : Fld := ⟨0x110, 32, 32⟩
def A.KIT_OQ_UNDER : Nat := 0x118
def F.KIT_OQ_UNDER_UNDERRUN : Fld := ⟨0x118, 0, 32⟩
def F.KIT_OQ_UNDER_DOWN_DROP : Fld := ⟨0x118, 32, 32⟩

/-! ### Page kind `kitSeat` (R227) -/
def A.KIT_SEAT : Nat := 0x100
def F.KIT_SEAT_USED : Fld := ⟨0x100, 0, 19⟩
def F.KIT_SEAT_MAX : Fld := ⟨0x100, 32, 19⟩

/-! ### Page kind `deck` (R228) -/
def A.DECK_CFG : Nat := 0x100
def F.DECK_CFG_FAIR : Fld := ⟨0x100, 0, 8⟩
def F.DECK_CFG_SHUF_W : Fld := ⟨0x100, 8, 4⟩
def F.DECK_CFG_SPILL_W : Fld := ⟨0x100, 12, 4⟩
def A.DECK_CTL : Nat := 0x108
def F.DECK_CTL_RETRAIN : Fld := ⟨0x108, 0, 1⟩
def A.DECK_STS : Nat := 0x110
def F.DECK_STS_CW_UP : Fld := ⟨0x110, 0, 1⟩
def F.DECK_STS_CCW_UP : Fld := ⟨0x110, 1, 1⟩
def F.DECK_STS_QUAD_LOCK : Fld := ⟨0x110, 2, 4⟩
def F.DECK_STS_CHAIN : Fld := ⟨0x110, 6, 1⟩
def A.DECK_BYTES : Nat := 0x118
def F.DECK_BYTES_BYTES : Fld := ⟨0x118, 0, 64⟩
def A.DECK_ERR : Nat := 0x138
def F.DECK_ERR_CRC : Fld := ⟨0x138, 0, 16⟩
def F.DECK_ERR_RETRY : Fld := ⟨0x138, 16, 16⟩
def F.DECK_ERR_LINK_FAIL : Fld := ⟨0x138, 32, 8⟩
def F.DECK_ERR_BAD : Fld := ⟨0x138, 40, 16⟩
def A.DECK_INJ_WAIT : Nat := 0x140
def F.DECK_INJ_WAIT_MAX_NS : Fld := ⟨0x140, 0, 32⟩

/-! ### Page kind `table` (R262, R293) -/
def A.TBL_CFG : Nat := 0x100
def F.TBL_CFG_FORMAT : Fld := ⟨0x100, 0, 4⟩
def F.TBL_CFG_OP : Fld := ⟨0x100, 4, 3⟩
def F.TBL_CFG_MODE : Fld := ⟨0x100, 7, 1⟩
def F.TBL_CFG_LAUNCH : Fld := ⟨0x100, 8, 1⟩
def F.TBL_CFG_SAT8 : Fld := ⟨0x100, 9, 1⟩
def F.TBL_CFG_ISAT : Fld := ⟨0x100, 10, 1⟩
def F.TBL_CFG_RANK_MODE : Fld := ⟨0x100, 11, 1⟩
def F.TBL_CFG_SEAT : Fld := ⟨0x100, 16, 6⟩
def F.TBL_CFG_WEIGHT : Fld := ⟨0x100, 24, 4⟩
def A.TBL_MEMB : Nat := 0x108
def F.TBL_MEMB_MEMB : Fld := ⟨0x108, 0, 64⟩
def A.TBL_TRICK : Nat := 0x110
def F.TBL_TRICK_TRICK_4K : Fld := ⟨0x110, 0, 5⟩
def F.TBL_TRICK_TRICKS_INFL : Fld := ⟨0x110, 8, 5⟩
def F.TBL_TRICK_RES_KIB : Fld := ⟨0x110, 32, 20⟩
def A.TBL_RANK : Nat := 0x118
def F.TBL_RANK_PORT0 : Fld := ⟨0x118, 0, 6⟩
def F.TBL_RANK_VALID0 : Fld := ⟨0x118, 7, 1⟩
def F.TBL_RANK_PORT1 : Fld := ⟨0x118, 8, 6⟩
def F.TBL_RANK_VALID1 : Fld := ⟨0x118, 15, 1⟩
def F.TBL_RANK_PORT2 : Fld := ⟨0x118, 16, 6⟩
def F.TBL_RANK_VALID2 : Fld := ⟨0x118, 23, 1⟩
def F.TBL_RANK_PORT3 : Fld := ⟨0x118, 24, 6⟩
def F.TBL_RANK_VALID3 : Fld := ⟨0x118, 31, 1⟩
def F.TBL_RANK_PORT4 : Fld := ⟨0x118, 32, 6⟩
def F.TBL_RANK_VALID4 : Fld := ⟨0x118, 39, 1⟩
def F.TBL_RANK_PORT5 : Fld := ⟨0x118, 40, 6⟩
def F.TBL_RANK_VALID5 : Fld := ⟨0x118, 47, 1⟩
def F.TBL_RANK_PORT6 : Fld := ⟨0x118, 48, 6⟩
def F.TBL_RANK_VALID6 : Fld := ⟨0x118, 55, 1⟩
def F.TBL_RANK_PORT7 : Fld := ⟨0x118, 56, 6⟩
def F.TBL_RANK_VALID7 : Fld := ⟨0x118, 63, 1⟩
def A.TBL_STS : Nat := 0x158
def F.TBL_STS_STATE : Fld := ⟨0x158, 0, 2⟩
def F.TBL_STS_PARKED : Fld := ⟨0x158, 2, 1⟩
def F.TBL_STS_WAIT_MEMBER : Fld := ⟨0x158, 3, 1⟩
def F.TBL_STS_CQ_WAIT : Fld := ⟨0x158, 4, 1⟩
def F.TBL_STS_N : Fld := ⟨0x158, 8, 7⟩
def F.TBL_STS_OP_NEXT : Fld := ⟨0x158, 16, 16⟩
def A.TBL_OPS : Nat := 0x160
def F.TBL_OPS_DONE : Fld := ⟨0x160, 0, 32⟩
def F.TBL_OPS_ERR : Fld := ⟨0x160, 32, 32⟩
def A.TBL_ERR : Nat := 0x168
def F.TBL_ERR_NOT_MEMBER : Fld := ⟨0x168, 0, 8⟩
def F.TBL_ERR_SEAT : Fld := ⟨0x168, 8, 8⟩
def F.TBL_ERR_ABORTING : Fld := ⟨0x168, 16, 8⟩
def F.TBL_ERR_NO_CQ : Fld := ⟨0x168, 24, 8⟩
def F.TBL_ERR_REC_LOST : Fld := ⟨0x168, 32, 8⟩
def F.TBL_ERR_TRIG_WAIT : Fld := ⟨0x168, 40, 8⟩
def A.TBL_Q_SEL : Nat := 0x170
def F.TBL_Q_SEL_PORT : Fld := ⟨0x170, 0, 6⟩
def F.TBL_Q_SEL_CQ_EN : Fld := ⟨0x170, 8, 1⟩
def F.TBL_Q_SEL_HELD : Fld := ⟨0x170, 16, 7⟩
def A.TBL_Q_STS : Nat := 0x178
def F.TBL_Q_STS_PI : Fld := ⟨0x178, 0, 16⟩
def F.TBL_Q_STS_CI : Fld := ⟨0x178, 16, 16⟩
def F.TBL_Q_STS_CQ_TAIL : Fld := ⟨0x178, 32, 16⟩
def F.TBL_Q_STS_CQ_HEAD : Fld := ⟨0x178, 48, 16⟩
def A.TBL_CTR : Nat := 0x180
def F.TBL_CTR_VALUE : Fld := ⟨0x180, 0, 32⟩
def A.TBL_FLY : Nat := 0x200
def F.TBL_FLY_TRICKS_OPEN : Fld := ⟨0x200, 0, 5⟩
def F.TBL_FLY_OPS_INFL : Fld := ⟨0x200, 8, 5⟩
def F.TBL_FLY_STAGED : Fld := ⟨0x200, 32, 20⟩
def A.TBL_CONTRIB_ERR : Nat := 0x208
def F.TBL_CONTRIB_ERR_STRAY : Fld := ⟨0x208, 0, 16⟩
def F.TBL_CONTRIB_ERR_WINDOW : Fld := ⟨0x208, 16, 16⟩
def F.TBL_CONTRIB_ERR_MALFORMED : Fld := ⟨0x208, 32, 16⟩
def F.TBL_CONTRIB_ERR_EXPIRED : Fld := ⟨0x208, 48, 16⟩
def A.TBL_SNAP : Nat := 0x210
def F.TBL_SNAP_SNAP_NEXT : Fld := ⟨0x210, 0, 16⟩
def F.TBL_SNAP_ARRIVED : Fld := ⟨0x210, 16, 7⟩
def F.TBL_SNAP_DONE : Fld := ⟨0x210, 32, 32⟩
def A.TBL_WAITS : Nat := 0x218
def F.TBL_WAITS_TAG_WAIT : Fld := ⟨0x218, 0, 16⟩
def F.TBL_WAITS_SLOT_WAIT : Fld := ⟨0x218, 16, 16⟩
def F.TBL_WAITS_HBM_WAIT : Fld := ⟨0x218, 32, 16⟩
def F.TBL_WAITS_REPLAY_WAIT : Fld := ⟨0x218, 48, 16⟩

/-! ### Page kind `snap` (R295) -/
def A.SNAP_STS : Nat := 0x100
def F.SNAP_STS_BUSY : Fld := ⟨0x100, 0, 9⟩
def A.SNAP_LAT : Nat := 0x108
def F.SNAP_LAT_MAX_NS : Fld := ⟨0x108, 0, 16⟩
def F.SNAP_LAT_LAST_NS : Fld := ⟨0x108, 16, 16⟩
def A.SNAP_CNT : Nat := 0x110
def F.SNAP_CNT_OPS : Fld := ⟨0x110, 0, 64⟩
def A.SNAP_ERR : Nat := 0x118
def F.SNAP_ERR_LEN_MISMATCH : Fld := ⟨0x118, 0, 16⟩
def F.SNAP_ERR_STRAY : Fld := ⟨0x118, 16, 16⟩
def F.SNAP_ERR_EXPIRED : Fld := ⟨0x118, 32, 16⟩
def F.SNAP_ERR_BAD_LEN : Fld := ⟨0x118, 48, 16⟩

/-! ### Page kind `lay` (R321) -/
def A.LAY_DATA : Nat := 0x100
def F.LAY_DATA_DATA : Fld := ⟨0x100, 0, 64⟩
def A.LAY_OP : Nat := 0x180
def F.LAY_OP_CREATE : Fld := ⟨0x180, 0, 1⟩
def F.LAY_OP_DESTROY : Fld := ⟨0x180, 1, 1⟩
def F.LAY_OP_READ : Fld := ⟨0x180, 2, 1⟩
def F.LAY_OP_BUSY : Fld := ⟨0x180, 3, 1⟩
def F.LAY_OP_DONE : Fld := ⟨0x180, 4, 1⟩
def F.LAY_OP_STATUS : Fld := ⟨0x180, 8, 5⟩
def F.LAY_OP_SEAT : Fld := ⟨0x180, 16, 6⟩
def A.LAY_HANDLE : Nat := 0x188
def F.LAY_HANDLE_HANDLE : Fld := ⟨0x188, 0, 16⟩
def A.LAY_USE : Nat := 0x190
def F.LAY_USE_USED : Fld := ⟨0x190, 0, 13⟩
def F.LAY_USE_MAX : Fld := ⟨0x190, 16, 13⟩
def F.LAY_USE_DYING : Fld := ⟨0x190, 32, 13⟩
def A.LAY_PERF : Nat := 0x198
def F.LAY_PERF_CONFLICT_CYCLES : Fld := ⟨0x198, 0, 64⟩
def A.LAY_PERF_HALF : Nat := 0x1A0
def F.LAY_PERF_HALF_HALF_CYCLES : Fld := ⟨0x1A0, 0, 64⟩
def A.LAY_CNT : Nat := 0x1A8
def F.LAY_CNT_CREATED : Fld := ⟨0x1A8, 0, 32⟩
def F.LAY_CNT_CREATE_ERR : Fld := ⟨0x1A8, 32, 32⟩
def A.LAY_SEAT : Nat := 0x400
def F.LAY_SEAT_QUOTA : Fld := ⟨0x400, 0, 13⟩
def F.LAY_SEAT_USED : Fld := ⟨0x400, 16, 13⟩

/-! ### Page kind `xlt` (R322) -/
def A.XLT_SEL : Nat := 0x100
def F.XLT_SEL_SEAT : Fld := ⟨0x100, 0, 6⟩
def F.XLT_SEL_INDEX : Fld := ⟨0x100, 16, 15⟩
def A.XLT_ENT : Nat := 0x108
def F.XLT_ENT_VALID : Fld := ⟨0x108, 0, 1⟩
def F.XLT_ENT_RD : Fld := ⟨0x108, 1, 1⟩
def F.XLT_ENT_WR : Fld := ⟨0x108, 2, 1⟩
def F.XLT_ENT_PA_2M : Fld := ⟨0x108, 21, 19⟩
def A.XLT_OP : Nat := 0x110
def F.XLT_OP_WRITE : Fld := ⟨0x110, 0, 1⟩
def F.XLT_OP_READ : Fld := ⟨0x110, 1, 1⟩
def F.XLT_OP_INVAL_SEAT : Fld := ⟨0x110, 2, 1⟩
def F.XLT_OP_BUSY : Fld := ⟨0x110, 3, 1⟩
def F.XLT_OP_DONE : Fld := ⟨0x110, 4, 1⟩
def F.XLT_OP_RESULT : Fld := ⟨0x110, 5, 2⟩
def A.XLT_MODE : Nat := 0x118
def F.XLT_MODE_MODE : Fld := ⟨0x118, 0, 64⟩
def A.XLT_FAULT : Nat := 0x120
def F.XLT_FAULT_SEAT : Fld := ⟨0x120, 0, 6⟩
def F.XLT_FAULT_CAUSE : Fld := ⟨0x120, 6, 2⟩
def F.XLT_FAULT_IS_WRITE : Fld := ⟨0x120, 8, 1⟩
def F.XLT_FAULT_HANDLE : Fld := ⟨0x120, 16, 16⟩
def F.XLT_FAULT_VALID : Fld := ⟨0x120, 63, 1⟩
def A.XLT_FAULT_ADDR : Nat := 0x128
def F.XLT_FAULT_ADDR_ADDR : Fld := ⟨0x128, 0, 48⟩
def A.XLT_TLB : Nat := 0x130
def F.XLT_TLB_MISSES : Fld := ⟨0x130, 0, 32⟩
def F.XLT_TLB_FAULTS : Fld := ⟨0x130, 32, 32⟩

/-! ### Page kind `dlr` (R361) -/
def A.DLR_SRAM : Nat := 0x100
def F.DLR_SRAM_RED_BANKS : Fld := ⟨0x100, 0, 6⟩
def F.DLR_SRAM_RED_DEPTH : Fld := ⟨0x100, 8, 6⟩
def F.DLR_SRAM_POOL_PAGES : Fld := ⟨0x100, 16, 6⟩
def F.DLR_SRAM_PIN_PAGES : Fld := ⟨0x100, 24, 6⟩
def A.DLR_SPILL : Nat := 0x108
def F.DLR_SPILL_BASE_2M : Fld := ⟨0x108, 21, 19⟩
def F.DLR_SPILL_PAGES : Fld := ⟨0x108, 40, 16⟩
def F.DLR_SPILL_CMP : Fld := ⟨0x108, 56, 1⟩
def F.DLR_SPILL_VALID : Fld := ⟨0x108, 57, 1⟩
def A.DLR_LEND : Nat := 0x110
def F.DLR_LEND_BASE_2M : Fld := ⟨0x110, 21, 19⟩
def F.DLR_LEND_PAGES : Fld := ⟨0x110, 40, 16⟩
def F.DLR_LEND_BORROWER : Fld := ⟨0x110, 56, 3⟩
def F.DLR_LEND_VALID : Fld := ⟨0x110, 63, 1⟩
def A.DLR_STS : Nat := 0x130
def F.DLR_STS_JOBS : Fld := ⟨0x130, 0, 6⟩
def F.DLR_STS_POOL_USED : Fld := ⟨0x130, 8, 16⟩
def F.DLR_STS_PINNED : Fld := ⟨0x130, 24, 16⟩
def F.DLR_STS_SPILLED : Fld := ⟨0x130, 40, 24⟩
def A.DLR_SPILL_CNT : Nat := 0x138
def F.DLR_SPILL_CNT_OUT_MIB : Fld := ⟨0x138, 0, 32⟩
def F.DLR_SPILL_CNT_IN_MIB : Fld := ⟨0x138, 32, 32⟩
def A.DLR_ECC : Nat := 0x140
def F.DLR_ECC_CORR : Fld := ⟨0x140, 0, 32⟩
def F.DLR_ECC_UNCORR : Fld := ⟨0x140, 32, 32⟩
def A.DLR_CMP : Nat := 0x148
def F.DLR_CMP_RAW_MIB : Fld := ⟨0x148, 0, 32⟩
def F.DLR_CMP_STORED_MIB : Fld := ⟨0x148, 32, 32⟩
def A.DLR_RETIRED : Nat := 0x150
def F.DLR_RETIRED_COUNT : Fld := ⟨0x150, 0, 64⟩
def A.DLR_JOB_END : Nat := 0x158
def F.DLR_JOB_END_SLOTS : Fld := ⟨0x158, 0, 32⟩

/-! ### Page kind `dlrJob` (R362) -/
def A.DLR_JOB_CFG : Nat := 0x100
def F.DLR_JOB_CFG_SEAT : Fld := ⟨0x100, 0, 6⟩
def F.DLR_JOB_CFG_PRIO : Fld := ⟨0x100, 8, 2⟩
def F.DLR_JOB_CFG_NOTIFY_EP : Fld := ⟨0x100, 16, 6⟩
def F.DLR_JOB_CFG_NOTIFY_EN : Fld := ⟨0x100, 22, 1⟩
def A.DLR_JOB_PROG : Nat := 0x108
def F.DLR_JOB_PROG_PROG : Fld := ⟨0x108, 0, 48⟩
def A.DLR_JOB_CTL : Nat := 0x110
def F.DLR_JOB_CTL_GO : Fld := ⟨0x110, 0, 1⟩
def F.DLR_JOB_CTL_ABORT : Fld := ⟨0x110, 1, 1⟩
def F.DLR_JOB_CTL_STATE : Fld := ⟨0x110, 2, 2⟩
def F.DLR_JOB_CTL_STATUS : Fld := ⟨0x110, 4, 4⟩
def F.DLR_JOB_CTL_DETAIL : Fld := ⟨0x110, 8, 5⟩
def F.DLR_JOB_CTL_NUMFLAGS : Fld := ⟨0x110, 13, 3⟩
def F.DLR_JOB_CTL_EPOCH : Fld := ⟨0x110, 16, 16⟩
def F.DLR_JOB_CTL_RETIRED : Fld := ⟨0x110, 32, 32⟩
def A.DLR_JOB_NOTE : Nat := 0x118
def F.DLR_JOB_NOTE_NOTIFY_ADDR : Fld := ⟨0x118, 0, 64⟩

/-! ### Page kind `dlrIn` (R363) -/
def A.DLR_IN_CFG : Nat := 0x100
def F.DLR_IN_CFG_VALID : Fld := ⟨0x100, 0, 1⟩
def F.DLR_IN_CFG_SLOT : Fld := ⟨0x100, 8, 5⟩
def F.DLR_IN_CFG_SEAT : Fld := ⟨0x100, 16, 6⟩
def F.DLR_IN_CFG_REC_64 : Fld := ⟨0x100, 24, 10⟩
def F.DLR_IN_CFG_HALF_RECS : Fld := ⟨0x100, 36, 12⟩
def A.DLR_IN_BASE : Nat := 0x108
def F.DLR_IN_BASE_BASE : Fld := ⟨0x108, 0, 48⟩
def A.DLR_IN_STS : Nat := 0x110
def F.DLR_IN_STS_FILL : Fld := ⟨0x110, 0, 12⟩
def F.DLR_IN_STS_READY : Fld := ⟨0x110, 12, 2⟩
def F.DLR_IN_STS_WAIT : Fld := ⟨0x110, 32, 16⟩
def F.DLR_IN_STS_BAD : Fld := ⟨0x110, 48, 16⟩
def A.DLR_IN_TD : Nat := 0x118
def F.DLR_IN_TD_HANDLE : Fld := ⟨0x118, 0, 16⟩

/-! ### Page kind `seat` (R369) -/
def A.SEAT_CFG : Nat := 0x100
def F.SEAT_CFG_VALID : Fld := ⟨0x100, 0, 1⟩
def F.SEAT_CFG_W_TC2 : Fld := ⟨0x100, 8, 4⟩
def F.SEAT_CFG_W_TC3 : Fld := ⟨0x100, 12, 4⟩
def A.SEAT_MEMB : Nat := 0x108
def F.SEAT_MEMB_MEMB : Fld := ⟨0x108, 0, 64⟩
def A.SEAT_XLT_BASE : Nat := 0x110
def F.SEAT_XLT_BASE_BASE_2M : Fld := ⟨0x110, 21, 27⟩
def A.SEAT_XLT_SIZE : Nat := 0x118
def F.SEAT_XLT_SIZE_SIZE : Fld := ⟨0x118, 0, 16⟩
def A.SEAT_STS : Nat := 0x120
def F.SEAT_STS_TABLES : Fld := ⟨0x120, 0, 9⟩
def F.SEAT_STS_JOBS : Fld := ⟨0x120, 9, 6⟩
def F.SEAT_STS_INBOXES : Fld := ⟨0x120, 15, 5⟩
def F.SEAT_STS_CIRCUITS : Fld := ⟨0x120, 20, 8⟩
def F.SEAT_STS_GROUPS : Fld := ⟨0x120, 28, 11⟩
def F.SEAT_STS_XLT_PAGES : Fld := ⟨0x120, 39, 16⟩
def A.SEAT_REJ_CAPT : Nat := 0x128
def F.SEAT_REJ_CAPT_PORT : Fld := ⟨0x128, 0, 6⟩
def F.SEAT_REJ_CAPT_SEAT : Fld := ⟨0x128, 6, 6⟩
def F.SEAT_REJ_CAPT_DST : Fld := ⟨0x128, 12, 12⟩
def F.SEAT_REJ_CAPT_DST_KIND : Fld := ⟨0x128, 24, 2⟩
def F.SEAT_REJ_CAPT_VALID : Fld := ⟨0x128, 63, 1⟩
def A.SEAT_CNT : Nat := 0x200
def F.SEAT_CNT_VALUE : Fld := ⟨0x200, 0, 64⟩

/-! ### Page kind `watch` (R374) -/
def A.CNT_WATCH_CFG : Nat := 0x100
def F.CNT_WATCH_CFG_SEAT : Fld := ⟨0x100, 0, 6⟩
def F.CNT_WATCH_CFG_EVENT : Fld := ⟨0x100, 8, 5⟩
def F.CNT_WATCH_CFG_EN : Fld := ⟨0x100, 13, 1⟩
def F.CNT_WATCH_CFG_RELOAD_EN : Fld := ⟨0x100, 14, 1⟩
def A.CNT_WATCH_CNT : Nat := 0x108
def F.CNT_WATCH_CNT_COUNT : Fld := ⟨0x108, 0, 48⟩
def A.CNT_WATCH_RELOAD : Nat := 0x110
def F.CNT_WATCH_RELOAD_RELOAD : Fld := ⟨0x110, 0, 48⟩
def A.CNT_WATCH_CAPT : Nat := 0x118
def F.CNT_WATCH_CAPT_SKID : Fld := ⟨0x118, 0, 16⟩
def F.CNT_WATCH_CAPT_SKID_POS : Fld := ⟨0x118, 16, 6⟩
def F.CNT_WATCH_CAPT_WHERE : Fld := ⟨0x118, 22, 6⟩
def F.CNT_WATCH_CAPT_MISSED : Fld := ⟨0x118, 28, 16⟩
def F.CNT_WATCH_CAPT_VALID : Fld := ⟨0x118, 63, 1⟩

/-! ### Page kind `dump` (R381) -/
def A.CNT_DUMP_CFG : Nat := 0x100
def F.CNT_DUMP_CFG_INTERVAL : Fld := ⟨0x100, 0, 4⟩
def F.CNT_DUMP_CFG_SECTIONS : Fld := ⟨0x100, 8, 8⟩
def A.CNT_DUMP_ID : Nat := 0x108
def F.CNT_DUMP_ID_BOOT : Fld := ⟨0x108, 0, 32⟩
def A.CNT_DUMP_STS : Nat := 0x110
def F.CNT_DUMP_STS_EFF_INTERVAL : Fld := ⟨0x110, 0, 4⟩
def F.CNT_DUMP_STS_LENGTHENED : Fld := ⟨0x110, 4, 1⟩
def F.CNT_DUMP_STS_LEN : Fld := ⟨0x110, 8, 24⟩
def F.CNT_DUMP_STS_GAPS : Fld := ⟨0x110, 32, 32⟩
def A.CNT_DUMP_SEQ : Nat := 0x118
def F.CNT_DUMP_SEQ_SEQ : Fld := ⟨0x118, 0, 64⟩
def A.CNT_DUMP_T : Nat := 0x120
def F.CNT_DUMP_T_T : Fld := ⟨0x120, 0, 64⟩

/-! ### Page kind `tel` (R389) -/
def A.TEL_ECOEF : Nat := 0x100
def F.TEL_ECOEF_COEF_FJ : Fld := ⟨0x100, 0, 32⟩
def A.TEL_EKFACT : Nat := 0x180
def F.TEL_EKFACT_K : Fld := ⟨0x180, 0, 24⟩
def A.TEL_ERAW : Nat := 0x188
def F.TEL_ERAW_RAW : Fld := ⟨0x188, 0, 64⟩

/-! ### Page kind `hk` (R424) -/
def A.HK_STS : Nat := 0x100
def F.HK_STS_PHASE : Fld := ⟨0x100, 0, 4⟩
def F.HK_STS_FABRIC_READY : Fld := ⟨0x100, 8, 1⟩
def F.HK_STS_CHIP_ON : Fld := ⟨0x100, 9, 5⟩
def F.HK_STS_CHIP_FAULT : Fld := ⟨0x100, 14, 5⟩
def F.HK_STS_LAST_RESET : Fld := ⟨0x100, 24, 3⟩
def A.HK_RESET : Nat := 0x108
def F.HK_RESET_TYPE : Fld := ⟨0x108, 0, 3⟩
def F.HK_RESET_CHIP : Fld := ⟨0x108, 4, 3⟩
def F.HK_RESET_GO : Fld := ⟨0x108, 7, 1⟩
def A.HK_SLOT : Nat := 0x110
def F.HK_SLOT_SLOT : Fld := ⟨0x110, 0, 4⟩
def F.HK_SLOT_RAW : Fld := ⟨0x110, 4, 5⟩
def F.HK_SLOT_ACCEPTED : Fld := ⟨0x110, 9, 1⟩
def A.HK_CAP : Nat := 0x118
def F.HK_CAP_CAP_PWR : Fld := ⟨0x118, 0, 11⟩
def F.HK_CAP_CAP_THERM : Fld := ⟨0x118, 11, 11⟩
def F.HK_CAP_CAP_COOL : Fld := ⟨0x118, 22, 11⟩
def F.HK_CAP_CAP_INPUT : Fld := ⟨0x118, 33, 11⟩
def F.HK_CAP_EFFECTIVE : Fld := ⟨0x118, 44, 11⟩
def A.HK_TEMP : Nat := 0x140
def F.HK_TEMP_DIE_MAX : Fld := ⟨0x140, 0, 8⟩
def F.HK_TEMP_HBM0 : Fld := ⟨0x140, 8, 8⟩
def F.HK_TEMP_HBM1 : Fld := ⟨0x140, 16, 8⟩
def F.HK_TEMP_DIE_PEAK : Fld := ⟨0x140, 24, 8⟩
def A.HK_COOL : Nat := 0x168
def F.HK_COOL_SUPPLY : Fld := ⟨0x168, 0, 12⟩
def F.HK_COOL_RETURN : Fld := ⟨0x168, 12, 12⟩
def F.HK_COOL_FLOW : Fld := ⟨0x168, 24, 16⟩
def F.HK_COOL_LEAK : Fld := ⟨0x168, 40, 1⟩
def F.HK_COOL_PUMP_OK : Fld := ⟨0x168, 41, 2⟩
def A.HK_FAN : Nat := 0x170
def F.HK_FAN_FAN_OK : Fld := ⟨0x170, 0, 6⟩
def F.HK_FAN_DUTY : Fld := ⟨0x170, 8, 7⟩
def F.HK_FAN_INLET : Fld := ⟨0x170, 16, 12⟩
def F.HK_FAN_AIRFLOW : Fld := ⟨0x170, 28, 12⟩
def F.HK_FAN_AIR_ALARM : Fld := ⟨0x170, 40, 2⟩

/-! ### Page kind `pwrIn` (R425) -/
def A.PWR_IN : Nat := 0x100
def F.PWR_IN_VIN : Fld := ⟨0x100, 0, 16⟩
def F.PWR_IN_IIN : Fld := ⟨0x100, 16, 16⟩
def F.PWR_IN_STATE : Fld := ⟨0x100, 32, 4⟩
def A.PWR_EIN : Nat := 0x108
def F.PWR_EIN_ENERGY : Fld := ⟨0x108, 0, 64⟩

/-! ### Page kind `pwrRail` (R425) -/
def A.PWR_RAIL : Nat := 0x100
def F.PWR_RAIL_VOUT : Fld := ⟨0x100, 0, 16⟩
def F.PWR_RAIL_IOUT : Fld := ⟨0x100, 16, 16⟩
def F.PWR_RAIL_STATE : Fld := ⟨0x100, 32, 4⟩
def F.PWR_RAIL_FAILURES : Fld := ⟨0x100, 36, 2⟩
def A.PWR_PHASE : Nat := 0x108
def F.PWR_PHASE_PRESENT : Fld := ⟨0x108, 0, 16⟩
def F.PWR_PHASE_FAILED : Fld := ⟨0x108, 16, 16⟩
def F.PWR_PHASE_UNTRUSTED : Fld := ⟨0x108, 32, 16⟩
def A.PWR_ERAIL : Nat := 0x110
def F.PWR_ERAIL_ENERGY : Fld := ⟨0x110, 0, 64⟩

/-! ### Page kind `pnl` (R426) -/
def A.PNL_LED : Nat := 0x100
def F.PNL_LED_LOCATE : Fld := ⟨0x100, 0, 1⟩
def A.PNL_KEY_CFG : Nat := 0x108
def F.PNL_KEY_CFG_TOUCH_DELTA : Fld := ⟨0x108, 0, 8⟩
def F.PNL_KEY_CFG_STABLE : Fld := ⟨0x108, 8, 8⟩
def A.PNL_KEY_STS : Nat := 0x110
def F.PNL_KEY_STS_STATE : Fld := ⟨0x110, 0, 3⟩
def F.PNL_KEY_STS_RAW : Fld := ⟨0x110, 8, 16⟩
def F.PNL_KEY_STS_BASE : Fld := ⟨0x110, 24, 16⟩
def F.PNL_KEY_STS_LOCATE_CNT : Fld := ⟨0x110, 40, 8⟩
def F.PNL_KEY_STS_SERVICE_CNT : Fld := ⟨0x110, 48, 8⟩
def F.PNL_KEY_STS_STUCK_CNT : Fld := ⟨0x110, 56, 8⟩
def A.PNL_LABEL : Nat := 0x118
def F.PNL_LABEL_REPAINT : Fld := ⟨0x118, 0, 1⟩
def F.PNL_LABEL_BUSY : Fld := ⟨0x118, 1, 1⟩
def F.PNL_LABEL_GEN : Fld := ⟨0x118, 8, 8⟩
def F.PNL_LABEL_CHECK : Fld := ⟨0x118, 16, 16⟩
def F.PNL_LABEL_INTERRUPTED : Fld := ⟨0x118, 32, 8⟩

/-! ### Page kind `con` (R426) -/
def A.CON_STS : Nat := 0x100
def F.CON_STS_RX_LEVEL : Fld := ⟨0x100, 0, 7⟩
def A.CON_ERR : Nat := 0x108
def F.CON_ERR_FRAMING : Fld := ⟨0x108, 0, 16⟩
def F.CON_ERR_OVERRUN : Fld := ⟨0x108, 16, 16⟩
def F.CON_ERR_BREAK : Fld := ⟨0x108, 32, 16⟩

/-! ### Page kind `log` (R463) -/
def A.LOG_STS : Nat := 0x100
def F.LOG_STS_NEXT_SEQ : Fld := ⟨0x100, 0, 32⟩
def F.LOG_STS_LOST : Fld := ⟨0x100, 32, 1⟩
def F.LOG_STS_GASP_USED : Fld := ⟨0x100, 36, 5⟩
def F.LOG_STS_FRAM_ERR : Fld := ⟨0x100, 48, 16⟩

/-! ### Page kind `mgr` (R463) -/
def A.MGR_LEASE : Nat := 0x100
def F.MGR_LEASE_A_MODE : Fld := ⟨0x100, 0, 2⟩
def F.MGR_LEASE_B_MODE : Fld := ⟨0x100, 2, 2⟩
def F.MGR_LEASE_HEADLESS : Fld := ⟨0x100, 4, 1⟩
def F.MGR_LEASE_TERM : Fld := ⟨0x100, 32, 32⟩
def A.MGR_MAP : Nat := 0x108
def F.MGR_MAP_MAP_GEN : Fld := ⟨0x108, 0, 32⟩
def F.MGR_MAP_PLANE : Fld := ⟨0x108, 32, 4⟩
def F.MGR_MAP_SPARE_READY : Fld := ⟨0x108, 36, 1⟩
def A.MGR_TIME : Nat := 0x110
def F.MGR_TIME_STATE : Fld := ⟨0x110, 0, 2⟩
def F.MGR_TIME_PORT : Fld := ⟨0x110, 2, 1⟩
def F.MGR_TIME_TIME_FAULT : Fld := ⟨0x110, 3, 1⟩
def F.MGR_TIME_DOMAIN : Fld := ⟨0x110, 8, 8⟩
def F.MGR_TIME_OFFSET_NS : Fld := ⟨0x110, 32, 32⟩
def A.MGR_LINK : Nat := 0x118
def F.MGR_LINK_A_UP : Fld := ⟨0x118, 0, 1⟩
def F.MGR_LINK_B_UP : Fld := ⟨0x118, 1, 1⟩
def F.MGR_LINK_AUTH_FAIL : Fld := ⟨0x118, 16, 16⟩

/-! ### Page kind `fw` (R463) -/
def A.FW_STS : Nat := 0x100
def F.FW_STS_IMAGE : Fld := ⟨0x100, 0, 1⟩
def F.FW_STS_TRIAL : Fld := ⟨0x100, 1, 1⟩
def F.FW_STS_SERVICE : Fld := ⟨0x100, 2, 2⟩
def F.FW_STS_YEAR : Fld := ⟨0x100, 16, 16⟩
def F.FW_STS_NN : Fld := ⟨0x100, 32, 8⟩
def A.FW_VER : Nat := 0x108
def F.FW_VER_MAJOR : Fld := ⟨0x108, 0, 16⟩
def F.FW_VER_MINOR : Fld := ⟨0x108, 16, 16⟩
def F.FW_VER_PATCH : Fld := ⟨0x108, 32, 16⟩
def F.FW_VER_SVN : Fld := ⟨0x108, 48, 16⟩
def A.FW_COMPAT : Nat := 0x130
def F.FW_COMPAT_REASON : Fld := ⟨0x130, 0, 16⟩
def F.FW_COMPAT_CHIP_BAD : Fld := ⟨0x130, 16, 5⟩

/-! ### Page kind `hbmCtl` (R475) -/
def A.HBM_STS : Nat := 0x100
def F.HBM_STS_STATE : Fld := ⟨0x100, 0, 2⟩
def F.HBM_STS_EXT_REFRESH : Fld := ⟨0x100, 2, 1⟩
def F.HBM_STS_TEMP : Fld := ⟨0x100, 8, 8⟩
def F.HBM_STS_STREAMS : Fld := ⟨0x100, 16, 8⟩
def A.HBM_ECC : Nat := 0x108
def F.HBM_ECC_CORR : Fld := ⟨0x108, 0, 32⟩
def F.HBM_ECC_UNCORR : Fld := ⟨0x108, 32, 32⟩
def A.HBM_BYTES : Nat := 0x110
def F.HBM_BYTES_BYTES : Fld := ⟨0x110, 0, 64⟩

/-! ### Page kind `hbmPhy` (R475) -/
def A.HBM_PHY_STS : Nat := 0x100
def F.HBM_PHY_STS_TRAINED : Fld := ⟨0x100, 0, 1⟩
def F.HBM_PHY_STS_FAILED : Fld := ⟨0x100, 1, 1⟩
def F.HBM_PHY_STS_REPAIRED : Fld := ⟨0x100, 8, 8⟩
def F.HBM_PHY_STS_TRAIN_CNT : Fld := ⟨0x100, 16, 16⟩

/-- The registers of page kind `chip0` (R26, R29, R58, R59, R60, R61, R99, resets R474–R476). -/
def chip0Regs : List RegDesc :=
  [⟨A.CHIP_TOPO, 0x0, 1, 0x0,
    [⟨F.CHIP_TOPO_CHIP_IDX, .ro, false, .any⟩,
     ⟨F.CHIP_TOPO_SLOT, .ro, false, .any⟩,
     ⟨F.CHIP_TOPO_ROLE, .rw, false, .any⟩,
     ⟨F.CHIP_TOPO_RACK_ID, .rw, false, .any⟩,
     ⟨F.CHIP_TOPO_TOPO_VALID, .rw, false, .any⟩]⟩] ++
  [⟨A.CHIP_WIRE_OK, 0x0, 1, 0x0,
    [⟨F.CHIP_WIRE_OK_WIRE_OK, .ro, false, .any⟩]⟩] ++
  [⟨A.CHIP_WIRE_FAULT, 0x0, 1, 0x0,
    [⟨F.CHIP_WIRE_FAULT_WIRE_FAULT, .ro, false, .any⟩]⟩] ++
  [⟨A.CHIP_CLK_STS, 0x0, 1, 0x3F,
    [⟨F.CHIP_CLK_STS_REF_OK, .ro, false, .any⟩,
     ⟨F.CHIP_CLK_STS_CORE_LOCK, .ro, false, .any⟩,
     ⟨F.CHIP_CLK_STS_DEAL_LOCK, .ro, false, .any⟩,
     ⟨F.CHIP_CLK_STS_HBM0_LOCK, .ro, false, .any⟩,
     ⟨F.CHIP_CLK_STS_HBM1_LOCK, .ro, false, .any⟩,
     ⟨F.CHIP_CLK_STS_PCI_LOCK, .ro, false, .any⟩,
     ⟨F.CHIP_CLK_STS_TIME_LOCKED, .ro, false, .any⟩,
     ⟨F.CHIP_CLK_STS_ON_FLOOR, .ro, false, .any⟩,
     ⟨F.CHIP_CLK_STS_LOSS_CNT, .rc, false, .any⟩]⟩] ++
  [⟨A.CHIP_TXPLL_LOCK, 0x0, 1, 0xFFFFFFFFFFFFFFFF,
    [⟨F.CHIP_TXPLL_LOCK_LOCK, .ro, false, .any⟩]⟩] ++
  [⟨A.CHIP_DEAL_CLK, 0x0, 1, 0x25804E204E2,
    [⟨F.CHIP_DEAL_CLK_REQ_MHZ, .rw, false, .step 600 1250 25⟩,
     ⟨F.CHIP_DEAL_CLK_CAP_MHZ, .ro, false, .any⟩,
     ⟨F.CHIP_DEAL_CLK_CUR_MHZ, .ro, false, .any⟩,
     ⟨F.CHIP_DEAL_CLK_CHANGING, .ro, false, .any⟩]⟩] ++
  [⟨A.CHIP_TIME, 0x0, 1, 0x0,
    [⟨F.CHIP_TIME_TIME, .ro, false, .any⟩]⟩] ++
  [⟨A.CHIP_BG_CTL, 0x0, 1, 0x3C07,
    [⟨F.CHIP_BG_CTL_KITTY_SCRUB, .rws, true, .any⟩,
     ⟨F.CHIP_BG_CTL_SRAM_SCRUB, .rws, true, .any⟩,
     ⟨F.CHIP_BG_CTL_HBM_SCRUB, .rws, true, .any⟩,
     ⟨F.CHIP_BG_CTL_PAUSE_S, .rws, true, .range 1 60⟩]⟩] ++
  [⟨A.CHIP_BG_STS, 0x0, 1, 0x0,
    [⟨F.CHIP_BG_STS_KITTY_PASS, .ro, false, .any⟩,
     ⟨F.CHIP_BG_STS_SRAM_PASS, .ro, false, .any⟩,
     ⟨F.CHIP_BG_STS_HBM_PASS, .ro, false, .any⟩]⟩] ++
  [⟨A.CHIP_IRQ_SUM, 0x8, 16, 0x0,
    [⟨F.CHIP_IRQ_SUM_SUM, .ro, false, .any⟩]⟩]

/-- The registers of page kind `chip1` (R294, resets R474–R476). -/
def chip1Regs : List RegDesc :=
  [⟨A.CHIP_COLL_USE, 0x0, 1, 0x0,
    [⟨F.CHIP_COLL_USE_TAGS_USED, .ro, false, .any⟩,
     ⟨F.CHIP_COLL_USE_TRIG_USED, .ro, false, .any⟩,
     ⟨F.CHIP_COLL_USE_STAGE_REQ, .ro, false, .any⟩]⟩] ++
  [⟨A.CHIP_COLL_MAX, 0x0, 1, 0x0,
    [⟨F.CHIP_COLL_MAX_TAGS_USED, .rc, false, .any⟩,
     ⟨F.CHIP_COLL_MAX_TRIG_USED, .rc, false, .any⟩,
     ⟨F.CHIP_COLL_MAX_STAGE_REQ, .rc, false, .any⟩]⟩]

/-- The registers of page kind `hdr` (R82, resets R474–R476). -/
def hdrRegs : List RegDesc :=
  [⟨A.PG_ID, 0x0, 1, 0x0,
    [⟨F.PG_ID_BLOCK_TYPE, .ro, false, .any⟩,
     ⟨F.PG_ID_INSTANCE, .ro, false, .any⟩,
     ⟨F.PG_ID_LAYOUT_VER, .ro, false, .any⟩,
     ⟨F.PG_ID_PAGE_REV, .ro, false, .any⟩,
     ⟨F.PG_ID_STEPPING, .ro, false, .any⟩,
     ⟨F.PG_ID_PRESENT, .ro, false, .any⟩]⟩] ++
  [⟨A.PG_CAP, 0x0, 1, 0x0,
    [⟨F.PG_CAP_ABORTABLE, .ro, false, .any⟩,
     ⟨F.PG_CAP_STAGED, .ro, false, .any⟩,
     ⟨F.PG_CAP_PROFILES, .ro, false, .any⟩,
     ⟨F.PG_CAP_IRQ, .ro, false, .any⟩,
     ⟨F.PG_CAP_BLOCK_CAP, .ro, false, .any⟩]⟩] ++
  [⟨A.PG_CTL, 0x0, 1, 0x0,
    [⟨F.PG_CTL_ENABLE, .rw, false, .any⟩,
     ⟨F.PG_CTL_EXPERT, .rws, false, .any⟩,
     ⟨F.PG_CTL_PROFILE, .rws, false, .any⟩]⟩] ++
  [⟨A.PG_STS, 0x0, 1, 0x0,
    [⟨F.PG_STS_ENABLED, .ro, false, .any⟩,
     ⟨F.PG_STS_BUSY, .ro, false, .any⟩,
     ⟨F.PG_STS_ABORTING, .ro, false, .any⟩,
     ⟨F.PG_STS_COMMIT_PENDING, .ro, false, .any⟩,
     ⟨F.PG_STS_ERR_HELD, .ro, false, .any⟩,
     ⟨F.PG_STS_BLOCK_STS, .ro, false, .any⟩]⟩] ++
  [⟨A.PG_IRQ_RAW, 0x0, 1, 0x0,
    [⟨F.PG_IRQ_RAW_RAW, .w1c, false, .any⟩]⟩] ++
  [⟨A.PG_IRQ_EN, 0x0, 1, 0x0,
    [⟨F.PG_IRQ_EN_EN, .rw, false, .any⟩]⟩] ++
  [⟨A.PG_IRQ_STS, 0x0, 1, 0x0,
    [⟨F.PG_IRQ_STS_STS, .ro, false, .any⟩]⟩] ++
  [⟨A.PG_PROFILE, 0x0, 1, 0x0,
    [⟨F.PG_PROFILE_ACTIVE, .ro, false, .any⟩,
     ⟨F.PG_PROFILE_EXPERT_IN_FORCE, .ro, false, .any⟩,
     ⟨F.PG_PROFILE_SUPPORTED, .ro, false, .any⟩,
     ⟨F.PG_PROFILE_DERIVE_COUNT, .ro, false, .any⟩]⟩] ++
  [⟨A.PG_ERR_CAPT, 0x0, 1, 0x0,
    [⟨F.PG_ERR_CAPT_CODE, .ro, false, .any⟩,
     ⟨F.PG_ERR_CAPT_OFFSET, .ro, false, .any⟩,
     ⟨F.PG_ERR_CAPT_SOURCE, .ro, false, .any⟩,
     ⟨F.PG_ERR_CAPT_IS_WRITE, .ro, false, .any⟩,
     ⟨F.PG_ERR_CAPT_TIME, .ro, false, .any⟩,
     ⟨F.PG_ERR_CAPT_MORE, .ro, false, .any⟩,
     ⟨F.PG_ERR_CAPT_VALID, .w1c, false, .any⟩]⟩] ++
  [⟨A.PG_COMMIT, 0x0, 1, 0x0,
    [⟨F.PG_COMMIT_GO, .w1s, false, .any⟩]⟩] ++
  [⟨A.PG_COMMIT_STS, 0x0, 1, 0x0,
    [⟨F.PG_COMMIT_STS_DONE, .ro, false, .any⟩,
     ⟨F.PG_COMMIT_STS_PENDING, .ro, false, .any⟩,
     ⟨F.PG_COMMIT_STS_REFUSED, .ro, false, .any⟩,
     ⟨F.PG_COMMIT_STS_COUNT, .ro, false, .any⟩]⟩] ++
  [⟨A.PG_ABORT, 0x0, 1, 0x0,
    [⟨F.PG_ABORT_GO, .w1s, false, .any⟩]⟩] ++
  [⟨A.PG_ABORT_STS, 0x0, 1, 0x0,
    [⟨F.PG_ABORT_STS_DONE, .ro, false, .any⟩,
     ⟨F.PG_ABORT_STS_IN_PROGRESS, .ro, false, .any⟩,
     ⟨F.PG_ABORT_STS_ELAPSED_US, .ro, false, .any⟩,
     ⟨F.PG_ABORT_STS_EPOCH, .ro, false, .any⟩]⟩]

/-- The registers of page kind `lane` (R145, resets R474–R476). -/
def laneRegs : List RegDesc :=
  [⟨A.LANE_CFG, 0x0, 1, 0x0,
    [⟨F.LANE_CFG_RATE, .rws, false, .any⟩,
     ⟨F.LANE_CFG_TX_PRESET, .rws, true, .oneOf [0, 1, 2, 3, 4, 5, 8, 9]⟩,
     ⟨F.LANE_CFG_RX_PRESET, .rws, true, .oneOf [0, 1, 2, 3, 8]⟩,
     ⟨F.LANE_CFG_LOOPBACK, .rws, false, .range 0 2⟩,
     ⟨F.LANE_CFG_TX_INV, .rws, false, .any⟩,
     ⟨F.LANE_CFG_ADAPT, .rws, true, .range 0 2⟩]⟩] ++
  [⟨A.LANE_STS, 0x0, 1, 0x0,
    [⟨F.LANE_STS_STATE, .ro, false, .any⟩,
     ⟨F.LANE_STS_CDR_LOCK, .ro, false, .any⟩,
     ⟨F.LANE_STS_CW_LOCK, .ro, false, .any⟩,
     ⟨F.LANE_STS_RX_INV, .ro, false, .any⟩,
     ⟨F.LANE_STS_LOS, .ro, false, .any⟩,
     ⟨F.LANE_STS_FLOOD, .ro, false, .any⟩,
     ⟨F.LANE_STS_SAT, .ro, false, .any⟩,
     ⟨F.LANE_STS_SPARED, .ro, false, .any⟩,
     ⟨F.LANE_STS_PRBS_LOCK, .ro, false, .any⟩,
     ⟨F.LANE_STS_SKEW, .ro, false, .any⟩]⟩] ++
  [⟨A.LANE_FOM, 0x0, 1, 0x3A50FF0000,
    [⟨F.LANE_FOM_CUR, .ro, false, .any⟩,
     ⟨F.LANE_FOM_AVG, .ro, false, .any⟩,
     ⟨F.LANE_FOM_MIN, .rc, false, .any⟩,
     ⟨F.LANE_FOM_FOM_WARN, .rws, true, .any⟩,
     ⟨F.LANE_FOM_FOM_FAIL, .rws, true, .any⟩]⟩] ++
  [⟨A.LANE_FEC_CW, 0x0, 1, 0x0,
    [⟨F.LANE_FEC_CW_COUNT, .ro, false, .any⟩]⟩] ++
  [⟨A.LANE_FEC_CORR, 0x0, 1, 0x0,
    [⟨F.LANE_FEC_CORR_COUNT, .ro, false, .any⟩]⟩] ++
  [⟨A.LANE_FEC_SYM, 0x0, 1, 0x0,
    [⟨F.LANE_FEC_SYM_COUNT, .ro, false, .any⟩]⟩] ++
  [⟨A.LANE_FEC_UNC, 0x0, 1, 0x0,
    [⟨F.LANE_FEC_UNC_COUNT, .ro, false, .any⟩]⟩] ++
  [⟨A.LANE_DIAG, 0x0, 1, 0x100,
    [⟨F.LANE_DIAG_PRBS_GEN, .rw, false, .range 0 3⟩,
     ⟨F.LANE_DIAG_PRBS_CHK, .rw, false, .range 0 3⟩,
     ⟨F.LANE_DIAG_AUTO_ALIGN, .rw, false, .any⟩]⟩] ++
  [⟨A.LANE_PRBS_ERR, 0x0, 1, 0x0,
    [⟨F.LANE_PRBS_ERR_ERR_BITS, .rc, false, .any⟩]⟩] ++
  [⟨A.LANE_SLIP, 0x0, 1, 0x0,
    [⟨F.LANE_SLIP_SLIP_UI, .wo, false, .any⟩]⟩] ++
  [⟨A.LANE_EQ_STS, 0x0, 1, 0x0,
    [⟨F.LANE_EQ_STS_TAPS, .ro, false, .any⟩,
     ⟨F.LANE_EQ_STS_CTLE, .ro, false, .any⟩]⟩] ++
  [⟨A.LANE_EVT, 0x0, 1, 0x0,
    [⟨F.LANE_EVT_FREEZES, .rc, false, .any⟩,
     ⟨F.LANE_EVT_LOS_CNT, .rc, false, .any⟩,
     ⟨F.LANE_EVT_FLOOD_CNT, .rc, false, .any⟩]⟩] ++
  [⟨A.LANE_WEAR, 0x0, 1, 0x0,
    [⟨F.LANE_WEAR_RATIO, .ro, false, .any⟩,
     ⟨F.LANE_WEAR_BIAS, .ro, false, .any⟩,
     ⟨F.LANE_WEAR_HOURS, .ro, false, .any⟩]⟩]

/-- The registers of page kind `port` (R146, R187, R222, resets R474–R476). -/
def portRegs : List RegDesc :=
  [⟨A.PORT_TRAIN_CTL, 0x0, 1, 0x7D00002,
    [⟨F.PORT_TRAIN_CTL_RESTART, .w1s, false, .any⟩,
     ⟨F.PORT_TRAIN_CTL_AUTO_RETRY, .rw, false, .any⟩,
     ⟨F.PORT_TRAIN_CTL_DIAG, .rw, false, .any⟩,
     ⟨F.PORT_TRAIN_CTL_FAR_LOOP, .rw, false, .any⟩,
     ⟨F.PORT_TRAIN_CTL_ALLOW_REMOTE_LOOP, .rw, false, .any⟩,
     ⟨F.PORT_TRAIN_CTL_SPARE_AUTO_EOL, .rw, false, .any⟩,
     ⟨F.PORT_TRAIN_CTL_FLOOD_HOLD_MS, .rw, false, .range 100 10000⟩]⟩] ++
  [⟨A.PORT_TRAIN_STS, 0x0, 1, 0x0,
    [⟨F.PORT_TRAIN_STS_STATE, .ro, false, .any⟩,
     ⟨F.PORT_TRAIN_STS_CAUSE, .ro, false, .any⟩,
     ⟨F.PORT_TRAIN_STS_ATTEMPTS, .ro, false, .any⟩,
     ⟨F.PORT_TRAIN_STS_UP_COUNT, .ro, false, .any⟩]⟩] ++
  [⟨A.PORT_PARTNER, 0x0, 1, 0x0,
    [⟨F.PORT_PARTNER_RACK_ID, .ro, false, .any⟩,
     ⟨F.PORT_PARTNER_EP, .ro, false, .any⟩,
     ⟨F.PORT_PARTNER_SLOT, .ro, false, .any⟩,
     ⟨F.PORT_PARTNER_CHIP, .ro, false, .any⟩,
     ⟨F.PORT_PARTNER_KIND, .ro, false, .any⟩,
     ⟨F.PORT_PARTNER_PROTO, .ro, false, .any⟩]⟩] ++
  [⟨A.PORT_PARTNER_LAT, 0x0, 1, 0x0,
    [⟨F.PORT_PARTNER_LAT_RX_LAT_NS, .ro, false, .any⟩,
     ⟨F.PORT_PARTNER_LAT_TX_LAT_NS, .ro, false, .any⟩,
     ⟨F.PORT_PARTNER_LAT_REACT_NS, .ro, false, .any⟩,
     ⟨F.PORT_PARTNER_LAT_CAPS, .ro, false, .any⟩]⟩] ++
  [⟨A.PORT_RTT, 0x0, 1, 0x0,
    [⟨F.PORT_RTT_RTT_RAW, .ro, false, .any⟩,
     ⟨F.PORT_RTT_RESIDENCE, .ro, false, .any⟩,
     ⟨F.PORT_RTT_CABLE, .ro, false, .any⟩,
     ⟨F.PORT_RTT_MEAS_CNT, .ro, false, .any⟩]⟩] ++
  [⟨A.PORT_ALARM, 0x0, 1, 0x0,
    [⟨F.PORT_ALARM_ALARMS, .ro, false, .any⟩]⟩] ++
  [⟨A.PORT_SPARE, 0x0, 1, 0x0,
    [⟨F.PORT_SPARE_LANE, .rw, false, .any⟩,
     ⟨F.PORT_SPARE_GO, .w1s, false, .any⟩,
     ⟨F.PORT_SPARE_BUSY, .ro, false, .any⟩,
     ⟨F.PORT_SPARE_RESULT, .ro, false, .any⟩]⟩] ++
  [⟨A.PORT_CW_DROP, 0x0, 1, 0x0,
    [⟨F.PORT_CW_DROP_FLITS, .ro, false, .any⟩]⟩] ++
  [⟨A.PORT_CART, 0x0, 1, 0x0,
    [⟨F.PORT_CART_TYPE, .ro, false, .any⟩,
     ⟨F.PORT_CART_MSTATE, .ro, false, .any⟩,
     ⟨F.PORT_CART_LEN_DM, .ro, false, .any⟩,
     ⟨F.PORT_CART_SPARES_LEFT, .ro, false, .any⟩,
     ⟨F.PORT_CART_FW, .ro, false, .any⟩]⟩] ++
  [⟨A.PORT_CMIS_CMD, 0x0, 1, 0x100000000,
    [⟨F.PORT_CMIS_CMD_GO, .w1s, false, .any⟩,
     ⟨F.PORT_CMIS_CMD_WRITE, .rw, false, .any⟩,
     ⟨F.PORT_CMIS_CMD_PAGE, .rw, false, .any⟩,
     ⟨F.PORT_CMIS_CMD_BANK, .rw, false, .any⟩,
     ⟨F.PORT_CMIS_CMD_ADDR, .rw, false, .any⟩,
     ⟨F.PORT_CMIS_CMD_LEN, .rw, false, .range 1 8⟩]⟩] ++
  [⟨A.PORT_CMIS_DATA, 0x0, 1, 0x0,
    [⟨F.PORT_CMIS_DATA_DATA, .rw, false, .any⟩]⟩] ++
  [⟨A.PORT_CMIS_STS, 0x0, 1, 0x0,
    [⟨F.PORT_CMIS_STS_BUSY, .ro, false, .any⟩,
     ⟨F.PORT_CMIS_STS_DONE, .ro, false, .any⟩,
     ⟨F.PORT_CMIS_STS_RESULT, .ro, false, .any⟩]⟩] ++
  [⟨A.PORT_FC_HDRM, 0x0, 1, 0x0,
    [⟨F.PORT_FC_HDRM_HDRM_TC0, .rws, true, .any⟩,
     ⟨F.PORT_FC_HDRM_HDRM_TC1, .rws, true, .any⟩,
     ⟨F.PORT_FC_HDRM_HDRM_TC2, .rws, true, .any⟩,
     ⟨F.PORT_FC_HDRM_HDRM_TC3, .rws, true, .any⟩]⟩] ++
  [⟨A.PORT_FC_CTL, 0x0, 1, 0x81402,
    [⟨F.PORT_FC_CTL_PAUSE_WD_MS, .rw, false, .range 1 4⟩,
     ⟨F.PORT_FC_CTL_RTO_US, .rw, false, .range 5 200⟩,
     ⟨F.PORT_FC_CTL_MAX_RETRY, .rw, false, .range 1 15⟩]⟩] ++
  [⟨A.PORT_THR_CTL, 0x0, 1, 0x7D00A041000,
    [⟨F.PORT_THR_CTL_THR_MARK, .rw, false, .any⟩,
     ⟨F.PORT_THR_CTL_THR_GAP_US, .rw, false, .range 1 255⟩,
     ⟨F.PORT_THR_CTL_STEP, .rw, false, .range 1 100⟩,
     ⟨F.PORT_THR_CTL_INTERVAL_NS, .rw, false, .range 100 65535⟩]⟩] ++
  [⟨A.PORT_FC_STS, 0x0, 1, 0x0,
    [⟨F.PORT_FC_STS_XOFF_TX, .ro, false, .any⟩,
     ⟨F.PORT_FC_STS_XOFF_RX, .ro, false, .any⟩,
     ⟨F.PORT_FC_STS_STORM, .ro, false, .any⟩,
     ⟨F.PORT_FC_STS_HDRM_WAIT, .ro, false, .any⟩]⟩] ++
  [⟨A.PORT_XOFF_TIME, 0x0, 1, 0x0,
    [⟨F.PORT_XOFF_TIME_TX_US, .ro, false, .any⟩,
     ⟨F.PORT_XOFF_TIME_RX_US, .ro, false, .any⟩]⟩] ++
  [⟨A.PORT_RX_ERR, 0x0, 1, 0x0,
    [⟨F.PORT_RX_ERR_HDR_CRC, .rc, false, .any⟩,
     ⟨F.PORT_RX_ERR_FRAME, .rc, false, .any⟩,
     ⟨F.PORT_RX_ERR_E2E_CRC, .rc, false, .any⟩,
     ⟨F.PORT_RX_ERR_BAD_PKT, .rc, false, .any⟩]⟩] ++
  [⟨A.PORT_DROP, 0x0, 1, 0x0,
    [⟨F.PORT_DROP_HDRM_OVF, .rc, false, .any⟩,
     ⟨F.PORT_DROP_STORM, .rc, false, .any⟩]⟩] ++
  [⟨A.PORT_REPLAY, 0x0, 1, 0x0,
    [⟨F.PORT_REPLAY_USED, .ro, false, .any⟩,
     ⟨F.PORT_REPLAY_FULL_EVT, .rc, false, .any⟩,
     ⟨F.PORT_REPLAY_RESENDS, .ro, false, .any⟩]⟩] ++
  [⟨A.PORT_CFG, 0x0, 1, 0x7,
    [⟨F.PORT_CFG_CUT_THROUGH, .rws, true, .any⟩]⟩]

/-- The registers of page kind `circ` (R186, resets R474–R476). -/
def circRegs : List RegDesc :=
  [⟨A.CIRC_SEL, 0x0, 1, 0x0,
    [⟨F.CIRC_SEL_IDX, .rw, false, .any⟩]⟩] ++
  [⟨A.CIRC_ENT, 0x0, 1, 0x340000,
    [⟨F.CIRC_ENT_IN_PORT, .rw, false, .any⟩,
     ⟨F.CIRC_ENT_OUT_PORT, .rw, false, .any⟩,
     ⟨F.CIRC_ENT_SEAT, .rw, false, .any⟩,
     ⟨F.CIRC_ENT_CH, .rw, false, .range 5 7⟩,
     ⟨F.CIRC_ENT_SLOTS, .rw, false, .range 1 128⟩,
     ⟨F.CIRC_ENT_SLICE, .rw, false, .any⟩,
     ⟨F.CIRC_ENT_CMP, .rw, false, .any⟩,
     ⟨F.CIRC_ENT_VALID, .ro, false, .any⟩]⟩] ++
  [⟨A.CIRC_OP, 0x0, 1, 0x0,
    [⟨F.CIRC_OP_SETUP, .w1s, false, .any⟩,
     ⟨F.CIRC_OP_TEARDOWN, .w1s, false, .any⟩,
     ⟨F.CIRC_OP_BUSY, .ro, false, .any⟩,
     ⟨F.CIRC_OP_DONE, .ro, false, .any⟩,
     ⟨F.CIRC_OP_RESULT, .ro, false, .any⟩]⟩] ++
  [⟨A.CIRC_STS, 0x0, 1, 0x0,
    [⟨F.CIRC_STS_ACTIVE, .ro, false, .any⟩]⟩] ++
  [⟨A.CIRC_BYTES, 0x0, 1, 0x0,
    [⟨F.CIRC_BYTES_BYTES, .ro, false, .any⟩]⟩] ++
  [⟨A.CIRC_XBYTES, 0x0, 1, 0x0,
    [⟨F.CIRC_XBYTES_BYTES, .ro, false, .any⟩]⟩] ++
  [⟨A.CIRC_XERR, 0x0, 1, 0x0,
    [⟨F.CIRC_XERR_COUNT, .rc, false, .any⟩]⟩]

/-- The registers of page kind `sched` (R223, resets R474–R476). -/
def schedRegs : List RegDesc :=
  [⟨A.SCHED_CFG, 0x0, 1, 0x2003,
    [⟨F.SCHED_CFG_ITER, .rws, true, .range 1 3⟩,
     ⟨F.SCHED_CFG_AGE, .rws, true, .range 1 255⟩]⟩] ++
  [⟨A.SCHED_AGED, 0x0, 1, 0x0,
    [⟨F.SCHED_AGED_COUNT, .rc, false, .any⟩]⟩] ++
  [⟨A.SCHED_SLICE_CELLS, 0x8, 4, 0x0,
    [⟨F.SCHED_SLICE_CELLS_CELLS, .ro, false, .any⟩]⟩] ++
  [⟨A.SCHED_STAGE_WM, 0x0, 1, 0x0,
    [⟨F.SCHED_STAGE_WM_MAX, .rc, false, .any⟩,
     ⟨F.SCHED_STAGE_WM_PORT, .rc, false, .any⟩]⟩] ++
  [⟨A.SCHED_STAGE_XOFF, 0x0, 1, 0x0,
    [⟨F.SCHED_STAGE_XOFF_PORTS, .ro, false, .any⟩]⟩]

/-- The registers of page kind `kit0` (R224, resets R474–R476). -/
def kit0Regs : List RegDesc :=
  [⟨A.KIT_ALPHA, 0x0, 1, 0x20403,
    [⟨F.KIT_ALPHA_ALPHA_TC1, .rws, true, .range 0 6⟩,
     ⟨F.KIT_ALPHA_ALPHA_TC2, .rws, true, .range 0 6⟩,
     ⟨F.KIT_ALPHA_ALPHA_TC3, .rws, true, .range 0 6⟩]⟩] ++
  [⟨A.KIT_PUSH, 0x0, 1, 0x1,
    [⟨F.KIT_PUSH_PUSH_EN, .rws, true, .any⟩,
     ⟨F.KIT_PUSH_SCOPE, .rws, true, .any⟩]⟩] ++
  [⟨A.KIT_USE, 0x0, 1, 0x0,
    [⟨F.KIT_USE_SHARED_USED, .ro, false, .any⟩,
     ⟨F.KIT_USE_CARVE, .ro, false, .any⟩,
     ⟨F.KIT_USE_HDRM_USED, .ro, false, .any⟩]⟩] ++
  [⟨A.KIT_FREE, 0x0, 1, 0x4000000040000,
    [⟨F.KIT_FREE_FREE, .ro, false, .any⟩,
     ⟨F.KIT_FREE_FREE_MIN, .rc, false, .any⟩]⟩] ++
  [⟨A.KIT_PUSH_CNT, 0x0, 1, 0x0,
    [⟨F.KIT_PUSH_CNT_PKTS, .ro, false, .any⟩,
     ⟨F.KIT_PUSH_CNT_CELLS, .ro, false, .any⟩]⟩] ++
  [⟨A.KIT_ECC, 0x0, 1, 0x0,
    [⟨F.KIT_ECC_CORR, .ro, false, .any⟩,
     ⟨F.KIT_ECC_UNCORR, .ro, false, .any⟩]⟩]

/-- The registers of page kind `kitMcg` (R225, resets R474–R476). -/
def kitMcgRegs : List RegDesc :=
  [⟨A.KIT_MCG_SEL, 0x0, 1, 0x0,
    [⟨F.KIT_MCG_SEL_IDX, .rw, false, .any⟩]⟩] ++
  [⟨A.KIT_MCG_ENT, 0x0, 1, 0x0,
    [⟨F.KIT_MCG_ENT_VALID, .rw, false, .any⟩,
     ⟨F.KIT_MCG_ENT_SELF, .rw, false, .any⟩,
     ⟨F.KIT_MCG_ENT_SEAT, .rw, false, .any⟩]⟩] ++
  [⟨A.KIT_MCG_MEMB, 0x0, 1, 0x0,
    [⟨F.KIT_MCG_MEMB_MEMBERS, .rw, false, .any⟩]⟩] ++
  [⟨A.KIT_MCG_OP, 0x0, 1, 0x0,
    [⟨F.KIT_MCG_OP_WRITE, .w1s, false, .any⟩,
     ⟨F.KIT_MCG_OP_READ, .w1s, false, .any⟩,
     ⟨F.KIT_MCG_OP_BUSY, .ro, false, .any⟩,
     ⟨F.KIT_MCG_OP_DONE, .ro, false, .any⟩]⟩] ++
  [⟨A.KIT_RESID, 0x0, 1, 0x0,
    [⟨F.KIT_RESID_USED, .ro, false, .any⟩,
     ⟨F.KIT_RESID_MAX, .rc, false, .any⟩,
     ⟨F.KIT_RESID_FULL_EVT, .rc, false, .any⟩]⟩] ++
  [⟨A.KIT_MC_DROP, 0x0, 1, 0x0,
    [⟨F.KIT_MC_DROP_MEMBERS, .rc, false, .any⟩]⟩]

/-- The registers of page kind `kitEgr` (R226, resets R474–R476). -/
def kitEgrRegs : List RegDesc :=
  [⟨A.KIT_EGR, 0x0, 1, 0x519,
    [⟨F.KIT_EGR_TC1_CAP_PCT, .rws, true, .range 5 50⟩,
     ⟨F.KIT_EGR_TC3_MIN_PCT, .rws, true, .range 0 20⟩]⟩]

/-- The registers of page kind `kitOq` (R227, resets R474–R476). -/
def kitOqRegs : List RegDesc :=
  [⟨A.KIT_OQ_LEN, 0x20, 8, 0x0,
    [⟨F.KIT_OQ_LEN_TC1, .ro, false, .any⟩,
     ⟨F.KIT_OQ_LEN_TC2, .ro, false, .any⟩,
     ⟨F.KIT_OQ_LEN_TC3, .ro, false, .any⟩]⟩] ++
  [⟨A.KIT_OQ_WM, 0x20, 8, 0x0,
    [⟨F.KIT_OQ_WM_TC1, .rc, false, .any⟩,
     ⟨F.KIT_OQ_WM_TC2, .rc, false, .any⟩,
     ⟨F.KIT_OQ_WM_TC3, .rc, false, .any⟩]⟩] ++
  [⟨A.KIT_OQ_PUSH, 0x20, 8, 0x0,
    [⟨F.KIT_OQ_PUSH_PKTS, .ro, false, .any⟩,
     ⟨F.KIT_OQ_PUSH_CELLS, .ro, false, .any⟩]⟩] ++
  [⟨A.KIT_OQ_UNDER, 0x20, 8, 0x0,
    [⟨F.KIT_OQ_UNDER_UNDERRUN, .ro, false, .any⟩,
     ⟨F.KIT_OQ_UNDER_DOWN_DROP, .ro, false, .any⟩]⟩]

/-- The registers of page kind `kitSeat` (R227, resets R474–R476). -/
def kitSeatRegs : List RegDesc :=
  [⟨A.KIT_SEAT, 0x8, 16, 0x0,
    [⟨F.KIT_SEAT_USED, .ro, false, .any⟩,
     ⟨F.KIT_SEAT_MAX, .rc, false, .any⟩]⟩]

/-- The registers of page kind `deck` (R228, resets R474–R476). -/
def deckRegs : List RegDesc :=
  [⟨A.DECK_CFG, 0x0, 1, 0x4420,
    [⟨F.DECK_CFG_FAIR, .rws, true, .range 1 255⟩,
     ⟨F.DECK_CFG_SHUF_W, .rws, true, .range 1 15⟩,
     ⟨F.DECK_CFG_SPILL_W, .rws, true, .range 1 15⟩]⟩] ++
  [⟨A.DECK_CTL, 0x0, 1, 0x0,
    [⟨F.DECK_CTL_RETRAIN, .w1s, false, .any⟩]⟩] ++
  [⟨A.DECK_STS, 0x0, 1, 0x3C,
    [⟨F.DECK_STS_CW_UP, .ro, false, .any⟩,
     ⟨F.DECK_STS_CCW_UP, .ro, false, .any⟩,
     ⟨F.DECK_STS_QUAD_LOCK, .ro, false, .any⟩,
     ⟨F.DECK_STS_CHAIN, .ro, false, .any⟩]⟩] ++
  [⟨A.DECK_BYTES, 0x8, 4, 0x0,
    [⟨F.DECK_BYTES_BYTES, .ro, false, .any⟩]⟩] ++
  [⟨A.DECK_ERR, 0x0, 1, 0x0,
    [⟨F.DECK_ERR_CRC, .rc, false, .any⟩,
     ⟨F.DECK_ERR_RETRY, .rc, false, .any⟩,
     ⟨F.DECK_ERR_LINK_FAIL, .rc, false, .any⟩,
     ⟨F.DECK_ERR_BAD, .rc, false, .any⟩]⟩] ++
  [⟨A.DECK_INJ_WAIT, 0x0, 1, 0x0,
    [⟨F.DECK_INJ_WAIT_MAX_NS, .rc, false, .any⟩]⟩]

/-- The registers of page kind `table` (R262, R293, resets R474–R476). -/
def tableRegs : List RegDesc :=
  [⟨A.TBL_CFG, 0x0, 1, 0x1000200,
    [⟨F.TBL_CFG_FORMAT, .rws, false, .range 0 7⟩,
     ⟨F.TBL_CFG_OP, .rws, false, .range 0 4⟩,
     ⟨F.TBL_CFG_MODE, .rws, false, .any⟩,
     ⟨F.TBL_CFG_LAUNCH, .rws, false, .any⟩,
     ⟨F.TBL_CFG_SAT8, .rws, false, .any⟩,
     ⟨F.TBL_CFG_ISAT, .rws, false, .any⟩,
     ⟨F.TBL_CFG_RANK_MODE, .rws, false, .any⟩,
     ⟨F.TBL_CFG_SEAT, .rws, false, .any⟩,
     ⟨F.TBL_CFG_WEIGHT, .rw, false, .range 1 15⟩]⟩] ++
  [⟨A.TBL_MEMB, 0x0, 1, 0x0,
    [⟨F.TBL_MEMB_MEMB, .rws, false, .any⟩]⟩] ++
  [⟨A.TBL_TRICK, 0x0, 1, 0x410,
    [⟨F.TBL_TRICK_TRICK_4K, .rws, true, .range 1 16⟩,
     ⟨F.TBL_TRICK_TRICKS_INFL, .rws, true, .range 1 16⟩,
     ⟨F.TBL_TRICK_RES_KIB, .rws, true, .any⟩]⟩] ++
  [⟨A.TBL_RANK, 0x8, 8, 0x0,
    [⟨F.TBL_RANK_PORT0, .rws, false, .any⟩,
     ⟨F.TBL_RANK_VALID0, .rws, false, .any⟩,
     ⟨F.TBL_RANK_PORT1, .rws, false, .any⟩,
     ⟨F.TBL_RANK_VALID1, .rws, false, .any⟩,
     ⟨F.TBL_RANK_PORT2, .rws, false, .any⟩,
     ⟨F.TBL_RANK_VALID2, .rws, false, .any⟩,
     ⟨F.TBL_RANK_PORT3, .rws, false, .any⟩,
     ⟨F.TBL_RANK_VALID3, .rws, false, .any⟩,
     ⟨F.TBL_RANK_PORT4, .rws, false, .any⟩,
     ⟨F.TBL_RANK_VALID4, .rws, false, .any⟩,
     ⟨F.TBL_RANK_PORT5, .rws, false, .any⟩,
     ⟨F.TBL_RANK_VALID5, .rws, false, .any⟩,
     ⟨F.TBL_RANK_PORT6, .rws, false, .any⟩,
     ⟨F.TBL_RANK_VALID6, .rws, false, .any⟩,
     ⟨F.TBL_RANK_PORT7, .rws, false, .any⟩,
     ⟨F.TBL_RANK_VALID7, .rws, false, .any⟩]⟩] ++
  [⟨A.TBL_STS, 0x0, 1, 0x0,
    [⟨F.TBL_STS_STATE, .ro, false, .any⟩,
     ⟨F.TBL_STS_PARKED, .ro, false, .any⟩,
     ⟨F.TBL_STS_WAIT_MEMBER, .ro, false, .any⟩,
     ⟨F.TBL_STS_CQ_WAIT, .ro, false, .any⟩,
     ⟨F.TBL_STS_N, .ro, false, .any⟩,
     ⟨F.TBL_STS_OP_NEXT, .ro, false, .any⟩]⟩] ++
  [⟨A.TBL_OPS, 0x0, 1, 0x0,
    [⟨F.TBL_OPS_DONE, .ro, false, .any⟩,
     ⟨F.TBL_OPS_ERR, .ro, false, .any⟩]⟩] ++
  [⟨A.TBL_ERR, 0x0, 1, 0x0,
    [⟨F.TBL_ERR_NOT_MEMBER, .rc, false, .any⟩,
     ⟨F.TBL_ERR_SEAT, .rc, false, .any⟩,
     ⟨F.TBL_ERR_ABORTING, .rc, false, .any⟩,
     ⟨F.TBL_ERR_NO_CQ, .rc, false, .any⟩,
     ⟨F.TBL_ERR_REC_LOST, .rc, false, .any⟩,
     ⟨F.TBL_ERR_TRIG_WAIT, .rc, false, .any⟩]⟩] ++
  [⟨A.TBL_Q_SEL, 0x0, 1, 0x0,
    [⟨F.TBL_Q_SEL_PORT, .rw, false, .any⟩,
     ⟨F.TBL_Q_SEL_CQ_EN, .ro, false, .any⟩,
     ⟨F.TBL_Q_SEL_HELD, .ro, false, .any⟩]⟩] ++
  [⟨A.TBL_Q_STS, 0x0, 1, 0x0,
    [⟨F.TBL_Q_STS_PI, .ro, false, .any⟩,
     ⟨F.TBL_Q_STS_CI, .ro, false, .any⟩,
     ⟨F.TBL_Q_STS_CQ_TAIL, .ro, false, .any⟩,
     ⟨F.TBL_Q_STS_CQ_HEAD, .ro, false, .any⟩]⟩] ++
  [⟨A.TBL_CTR, 0x8, 16, 0x0,
    [⟨F.TBL_CTR_VALUE, .rw, false, .any⟩]⟩] ++
  [⟨A.TBL_FLY, 0x0, 1, 0x0,
    [⟨F.TBL_FLY_TRICKS_OPEN, .ro, false, .any⟩,
     ⟨F.TBL_FLY_OPS_INFL, .ro, false, .any⟩,
     ⟨F.TBL_FLY_STAGED, .ro, false, .any⟩]⟩] ++
  [⟨A.TBL_CONTRIB_ERR, 0x0, 1, 0x0,
    [⟨F.TBL_CONTRIB_ERR_STRAY, .rc, false, .any⟩,
     ⟨F.TBL_CONTRIB_ERR_WINDOW, .rc, false, .any⟩,
     ⟨F.TBL_CONTRIB_ERR_MALFORMED, .rc, false, .any⟩,
     ⟨F.TBL_CONTRIB_ERR_EXPIRED, .rc, false, .any⟩]⟩] ++
  [⟨A.TBL_SNAP, 0x0, 1, 0x0,
    [⟨F.TBL_SNAP_SNAP_NEXT, .ro, false, .any⟩,
     ⟨F.TBL_SNAP_ARRIVED, .ro, false, .any⟩,
     ⟨F.TBL_SNAP_DONE, .ro, false, .any⟩]⟩] ++
  [⟨A.TBL_WAITS, 0x0, 1, 0x0,
    [⟨F.TBL_WAITS_TAG_WAIT, .rc, false, .any⟩,
     ⟨F.TBL_WAITS_SLOT_WAIT, .rc, false, .any⟩,
     ⟨F.TBL_WAITS_HBM_WAIT, .rc, false, .any⟩,
     ⟨F.TBL_WAITS_REPLAY_WAIT, .rc, false, .any⟩]⟩]

/-- The registers of page kind `snap` (R295, resets R474–R476). -/
def snapRegs : List RegDesc :=
  [⟨A.SNAP_STS, 0x0, 1, 0x0,
    [⟨F.SNAP_STS_BUSY, .ro, false, .any⟩]⟩] ++
  [⟨A.SNAP_LAT, 0x0, 1, 0x0,
    [⟨F.SNAP_LAT_MAX_NS, .rc, false, .any⟩,
     ⟨F.SNAP_LAT_LAST_NS, .ro, false, .any⟩]⟩] ++
  [⟨A.SNAP_CNT, 0x0, 1, 0x0,
    [⟨F.SNAP_CNT_OPS, .ro, false, .any⟩]⟩] ++
  [⟨A.SNAP_ERR, 0x0, 1, 0x0,
    [⟨F.SNAP_ERR_LEN_MISMATCH, .rc, false, .any⟩,
     ⟨F.SNAP_ERR_STRAY, .rc, false, .any⟩,
     ⟨F.SNAP_ERR_EXPIRED, .rc, false, .any⟩,
     ⟨F.SNAP_ERR_BAD_LEN, .rc, false, .any⟩]⟩]

/-- The registers of page kind `lay` (R321, resets R474–R476). -/
def layRegs : List RegDesc :=
  [⟨A.LAY_DATA, 0x8, 16, 0x0,
    [⟨F.LAY_DATA_DATA, .rw, false, .any⟩]⟩] ++
  [⟨A.LAY_OP, 0x0, 1, 0x0,
    [⟨F.LAY_OP_CREATE, .w1s, false, .any⟩,
     ⟨F.LAY_OP_DESTROY, .w1s, false, .any⟩,
     ⟨F.LAY_OP_READ, .w1s, false, .any⟩,
     ⟨F.LAY_OP_BUSY, .ro, false, .any⟩,
     ⟨F.LAY_OP_DONE, .ro, false, .any⟩,
     ⟨F.LAY_OP_STATUS, .ro, false, .any⟩,
     ⟨F.LAY_OP_SEAT, .rw, false, .any⟩]⟩] ++
  [⟨A.LAY_HANDLE, 0x0, 1, 0x0,
    [⟨F.LAY_HANDLE_HANDLE, .rw, false, .any⟩]⟩] ++
  [⟨A.LAY_USE, 0x0, 1, 0x0,
    [⟨F.LAY_USE_USED, .ro, false, .any⟩,
     ⟨F.LAY_USE_MAX, .rc, false, .any⟩,
     ⟨F.LAY_USE_DYING, .ro, false, .any⟩]⟩] ++
  [⟨A.LAY_PERF, 0x0, 1, 0x0,
    [⟨F.LAY_PERF_CONFLICT_CYCLES, .ro, false, .any⟩]⟩] ++
  [⟨A.LAY_PERF_HALF, 0x0, 1, 0x0,
    [⟨F.LAY_PERF_HALF_HALF_CYCLES, .ro, false, .any⟩]⟩] ++
  [⟨A.LAY_CNT, 0x0, 1, 0x0,
    [⟨F.LAY_CNT_CREATED, .ro, false, .any⟩,
     ⟨F.LAY_CNT_CREATE_ERR, .ro, false, .any⟩]⟩] ++
  [⟨A.LAY_SEAT, 0x8, 64, 0x40,
    [⟨F.LAY_SEAT_QUOTA, .rw, false, .range 0 4096⟩,
     ⟨F.LAY_SEAT_USED, .ro, false, .any⟩]⟩]

/-- The registers of page kind `xlt` (R322, resets R474–R476). -/
def xltRegs : List RegDesc :=
  [⟨A.XLT_SEL, 0x0, 1, 0x0,
    [⟨F.XLT_SEL_SEAT, .rw, false, .any⟩,
     ⟨F.XLT_SEL_INDEX, .rw, false, .any⟩]⟩] ++
  [⟨A.XLT_ENT, 0x0, 1, 0x0,
    [⟨F.XLT_ENT_VALID, .rw, false, .any⟩,
     ⟨F.XLT_ENT_RD, .rw, false, .any⟩,
     ⟨F.XLT_ENT_WR, .rw, false, .any⟩,
     ⟨F.XLT_ENT_PA_2M, .rw, false, .any⟩]⟩] ++
  [⟨A.XLT_OP, 0x0, 1, 0x0,
    [⟨F.XLT_OP_WRITE, .w1s, false, .any⟩,
     ⟨F.XLT_OP_READ, .w1s, false, .any⟩,
     ⟨F.XLT_OP_INVAL_SEAT, .w1s, false, .any⟩,
     ⟨F.XLT_OP_BUSY, .ro, false, .any⟩,
     ⟨F.XLT_OP_DONE, .ro, false, .any⟩,
     ⟨F.XLT_OP_RESULT, .ro, false, .any⟩]⟩] ++
  [⟨A.XLT_MODE, 0x0, 1, 0x0,
    [⟨F.XLT_MODE_MODE, .rws, false, .any⟩]⟩] ++
  [⟨A.XLT_FAULT, 0x0, 1, 0x0,
    [⟨F.XLT_FAULT_SEAT, .ro, false, .any⟩,
     ⟨F.XLT_FAULT_CAUSE, .ro, false, .any⟩,
     ⟨F.XLT_FAULT_IS_WRITE, .ro, false, .any⟩,
     ⟨F.XLT_FAULT_HANDLE, .ro, false, .any⟩,
     ⟨F.XLT_FAULT_VALID, .w1c, false, .any⟩]⟩] ++
  [⟨A.XLT_FAULT_ADDR, 0x0, 1, 0x0,
    [⟨F.XLT_FAULT_ADDR_ADDR, .ro, false, .any⟩]⟩] ++
  [⟨A.XLT_TLB, 0x0, 1, 0x0,
    [⟨F.XLT_TLB_MISSES, .ro, false, .any⟩,
     ⟨F.XLT_TLB_FAULTS, .ro, false, .any⟩]⟩]

/-- The registers of page kind `dlr` (R361, resets R474–R476). -/
def dlrRegs : List RegDesc :=
  [⟨A.DLR_SRAM, 0x0, 1, 0x4080018,
    [⟨F.DLR_SRAM_RED_BANKS, .rws, false, .any⟩,
     ⟨F.DLR_SRAM_RED_DEPTH, .ro, false, .any⟩,
     ⟨F.DLR_SRAM_POOL_PAGES, .rws, false, .any⟩,
     ⟨F.DLR_SRAM_PIN_PAGES, .rws, false, .any⟩]⟩] ++
  [⟨A.DLR_SPILL, 0x0, 1, 0x100000000000000,
    [⟨F.DLR_SPILL_BASE_2M, .rws, false, .any⟩,
     ⟨F.DLR_SPILL_PAGES, .rws, false, .any⟩,
     ⟨F.DLR_SPILL_CMP, .rws, false, .any⟩,
     ⟨F.DLR_SPILL_VALID, .rws, false, .any⟩]⟩] ++
  [⟨A.DLR_LEND, 0x8, 4, 0x0,
    [⟨F.DLR_LEND_BASE_2M, .rw, false, .any⟩,
     ⟨F.DLR_LEND_PAGES, .rw, false, .any⟩,
     ⟨F.DLR_LEND_BORROWER, .rw, false, .range 0 4⟩,
     ⟨F.DLR_LEND_VALID, .rw, false, .any⟩]⟩] ++
  [⟨A.DLR_STS, 0x0, 1, 0x0,
    [⟨F.DLR_STS_JOBS, .ro, false, .any⟩,
     ⟨F.DLR_STS_POOL_USED, .ro, false, .any⟩,
     ⟨F.DLR_STS_PINNED, .ro, false, .any⟩,
     ⟨F.DLR_STS_SPILLED, .ro, false, .any⟩]⟩] ++
  [⟨A.DLR_SPILL_CNT, 0x0, 1, 0x0,
    [⟨F.DLR_SPILL_CNT_OUT_MIB, .ro, false, .any⟩,
     ⟨F.DLR_SPILL_CNT_IN_MIB, .ro, false, .any⟩]⟩] ++
  [⟨A.DLR_ECC, 0x0, 1, 0x0,
    [⟨F.DLR_ECC_CORR, .ro, false, .any⟩,
     ⟨F.DLR_ECC_UNCORR, .ro, false, .any⟩]⟩] ++
  [⟨A.DLR_CMP, 0x0, 1, 0x0,
    [⟨F.DLR_CMP_RAW_MIB, .ro, false, .any⟩,
     ⟨F.DLR_CMP_STORED_MIB, .ro, false, .any⟩]⟩] ++
  [⟨A.DLR_RETIRED, 0x0, 1, 0x0,
    [⟨F.DLR_RETIRED_COUNT, .ro, false, .any⟩]⟩] ++
  [⟨A.DLR_JOB_END, 0x0, 1, 0x0,
    [⟨F.DLR_JOB_END_SLOTS, .w1c, false, .any⟩]⟩]

/-- The registers of page kind `dlrJob` (R362, resets R474–R476). -/
def dlrJobRegs : List RegDesc :=
  [⟨A.DLR_JOB_CFG, 0x20, 32, 0x0,
    [⟨F.DLR_JOB_CFG_SEAT, .rw, false, .any⟩,
     ⟨F.DLR_JOB_CFG_PRIO, .rw, false, .any⟩,
     ⟨F.DLR_JOB_CFG_NOTIFY_EP, .rw, false, .any⟩,
     ⟨F.DLR_JOB_CFG_NOTIFY_EN, .rw, false, .any⟩]⟩] ++
  [⟨A.DLR_JOB_PROG, 0x20, 32, 0x0,
    [⟨F.DLR_JOB_PROG_PROG, .rw, false, .any⟩]⟩] ++
  [⟨A.DLR_JOB_CTL, 0x20, 32, 0x0,
    [⟨F.DLR_JOB_CTL_GO, .w1s, false, .any⟩,
     ⟨F.DLR_JOB_CTL_ABORT, .w1s, false, .any⟩,
     ⟨F.DLR_JOB_CTL_STATE, .ro, false, .any⟩,
     ⟨F.DLR_JOB_CTL_STATUS, .ro, false, .any⟩,
     ⟨F.DLR_JOB_CTL_DETAIL, .ro, false, .any⟩,
     ⟨F.DLR_JOB_CTL_NUMFLAGS, .ro, false, .any⟩,
     ⟨F.DLR_JOB_CTL_EPOCH, .ro, false, .any⟩,
     ⟨F.DLR_JOB_CTL_RETIRED, .ro, false, .any⟩]⟩] ++
  [⟨A.DLR_JOB_NOTE, 0x20, 32, 0x0,
    [⟨F.DLR_JOB_NOTE_NOTIFY_ADDR, .rw, false, .any⟩]⟩]

/-- The registers of page kind `dlrIn` (R363, resets R474–R476). -/
def dlrInRegs : List RegDesc :=
  [⟨A.DLR_IN_CFG, 0x20, 16, 0x1001000000,
    [⟨F.DLR_IN_CFG_VALID, .rw, false, .any⟩,
     ⟨F.DLR_IN_CFG_SLOT, .rw, false, .any⟩,
     ⟨F.DLR_IN_CFG_SEAT, .rw, false, .any⟩,
     ⟨F.DLR_IN_CFG_REC_64, .rw, false, .range 1 1023⟩,
     ⟨F.DLR_IN_CFG_HALF_RECS, .rw, false, .range 1 4095⟩]⟩] ++
  [⟨A.DLR_IN_BASE, 0x20, 16, 0x0,
    [⟨F.DLR_IN_BASE_BASE, .rw, false, .any⟩]⟩] ++
  [⟨A.DLR_IN_STS, 0x20, 16, 0x0,
    [⟨F.DLR_IN_STS_FILL, .ro, false, .any⟩,
     ⟨F.DLR_IN_STS_READY, .ro, false, .any⟩,
     ⟨F.DLR_IN_STS_WAIT, .rc, false, .any⟩,
     ⟨F.DLR_IN_STS_BAD, .rc, false, .any⟩]⟩] ++
  [⟨A.DLR_IN_TD, 0x20, 16, 0x0,
    [⟨F.DLR_IN_TD_HANDLE, .ro, false, .any⟩]⟩]

/-- The registers of page kind `seat` (R369, resets R474–R476). -/
def seatRegs : List RegDesc :=
  [⟨A.SEAT_CFG, 0x0, 1, 0x1101,
    [⟨F.SEAT_CFG_VALID, .rw, false, .any⟩,
     ⟨F.SEAT_CFG_W_TC2, .rw, false, .range 1 15⟩,
     ⟨F.SEAT_CFG_W_TC3, .rw, false, .range 1 15⟩]⟩] ++
  [⟨A.SEAT_MEMB, 0x0, 1, 0x0,
    [⟨F.SEAT_MEMB_MEMB, .rw, false, .any⟩]⟩] ++
  [⟨A.SEAT_XLT_BASE, 0x0, 1, 0x0,
    [⟨F.SEAT_XLT_BASE_BASE_2M, .rws, false, .any⟩]⟩] ++
  [⟨A.SEAT_XLT_SIZE, 0x0, 1, 0x0,
    [⟨F.SEAT_XLT_SIZE_SIZE, .rws, false, .any⟩]⟩] ++
  [⟨A.SEAT_STS, 0x0, 1, 0x0,
    [⟨F.SEAT_STS_TABLES, .ro, false, .any⟩,
     ⟨F.SEAT_STS_JOBS, .ro, false, .any⟩,
     ⟨F.SEAT_STS_INBOXES, .ro, false, .any⟩,
     ⟨F.SEAT_STS_CIRCUITS, .ro, false, .any⟩,
     ⟨F.SEAT_STS_GROUPS, .ro, false, .any⟩,
     ⟨F.SEAT_STS_XLT_PAGES, .ro, false, .any⟩]⟩] ++
  [⟨A.SEAT_REJ_CAPT, 0x0, 1, 0x0,
    [⟨F.SEAT_REJ_CAPT_PORT, .ro, false, .any⟩,
     ⟨F.SEAT_REJ_CAPT_SEAT, .ro, false, .any⟩,
     ⟨F.SEAT_REJ_CAPT_DST, .ro, false, .any⟩,
     ⟨F.SEAT_REJ_CAPT_DST_KIND, .ro, false, .any⟩,
     ⟨F.SEAT_REJ_CAPT_VALID, .w1c, false, .any⟩]⟩] ++
  [⟨A.SEAT_CNT, 0x8, 32, 0x0,
    [⟨F.SEAT_CNT_VALUE, .ro, false, .any⟩]⟩]

/-- The registers of page kind `watch` (R374, resets R474–R476). -/
def watchRegs : List RegDesc :=
  [⟨A.CNT_WATCH_CFG, 0x20, 8, 0x0,
    [⟨F.CNT_WATCH_CFG_SEAT, .rw, false, .any⟩,
     ⟨F.CNT_WATCH_CFG_EVENT, .rw, false, .oneOf [0, 1, 2, 3, 4, 5, 6, 7, 8, 11, 14, 15, 16, 17, 18, 19, 20, 21, 22, 23, 24, 25, 26, 27, 28, 29, 30]⟩,
     ⟨F.CNT_WATCH_CFG_EN, .rw, false, .any⟩,
     ⟨F.CNT_WATCH_CFG_RELOAD_EN, .rw, false, .any⟩]⟩] ++
  [⟨A.CNT_WATCH_CNT, 0x20, 8, 0x0,
    [⟨F.CNT_WATCH_CNT_COUNT, .rw, false, .any⟩]⟩] ++
  [⟨A.CNT_WATCH_RELOAD, 0x20, 8, 0x0,
    [⟨F.CNT_WATCH_RELOAD_RELOAD, .rw, false, .any⟩]⟩] ++
  [⟨A.CNT_WATCH_CAPT, 0x20, 8, 0x0,
    [⟨F.CNT_WATCH_CAPT_SKID, .ro, false, .any⟩,
     ⟨F.CNT_WATCH_CAPT_SKID_POS, .ro, false, .any⟩,
     ⟨F.CNT_WATCH_CAPT_WHERE, .ro, false, .any⟩,
     ⟨F.CNT_WATCH_CAPT_MISSED, .ro, false, .any⟩,
     ⟨F.CNT_WATCH_CAPT_VALID, .w1c, false, .any⟩]⟩]

/-- The registers of page kind `dump` (R381, resets R474–R476). -/
def dumpRegs : List RegDesc :=
  [⟨A.CNT_DUMP_CFG, 0x0, 1, 0x3F09,
    [⟨F.CNT_DUMP_CFG_INTERVAL, .rws, false, .range 0 12⟩,
     ⟨F.CNT_DUMP_CFG_SECTIONS, .rws, false, .range 0 63⟩]⟩] ++
  [⟨A.CNT_DUMP_ID, 0x0, 1, 0x0,
    [⟨F.CNT_DUMP_ID_BOOT, .rw, false, .any⟩]⟩] ++
  [⟨A.CNT_DUMP_STS, 0x0, 1, 0xA38009,
    [⟨F.CNT_DUMP_STS_EFF_INTERVAL, .ro, false, .any⟩,
     ⟨F.CNT_DUMP_STS_LENGTHENED, .ro, false, .any⟩,
     ⟨F.CNT_DUMP_STS_LEN, .ro, false, .any⟩,
     ⟨F.CNT_DUMP_STS_GAPS, .ro, false, .any⟩]⟩] ++
  [⟨A.CNT_DUMP_SEQ, 0x0, 1, 0x0,
    [⟨F.CNT_DUMP_SEQ_SEQ, .ro, false, .any⟩]⟩] ++
  [⟨A.CNT_DUMP_T, 0x0, 1, 0x0,
    [⟨F.CNT_DUMP_T_T, .ro, false, .any⟩]⟩]

/-- The registers of page kind `tel` (R389, resets R474–R476). -/
def telRegs : List RegDesc :=
  [⟨A.TEL_ECOEF, 0x8, 13, 0x0,
    [⟨F.TEL_ECOEF_COEF_FJ, .ro, false, .any⟩]⟩] ++
  [⟨A.TEL_EKFACT, 0x0, 1, 0x400000,
    [⟨F.TEL_EKFACT_K, .rw, false, .any⟩]⟩] ++
  [⟨A.TEL_ERAW, 0x0, 1, 0x0,
    [⟨F.TEL_ERAW_RAW, .ro, false, .any⟩]⟩]

/-- The registers of page kind `hk` (R424, resets R474–R476). -/
def hkRegs : List RegDesc :=
  [⟨A.HK_STS, 0x0, 1, 0x0,
    [⟨F.HK_STS_PHASE, .ro, false, .any⟩,
     ⟨F.HK_STS_FABRIC_READY, .ro, false, .any⟩,
     ⟨F.HK_STS_CHIP_ON, .ro, false, .any⟩,
     ⟨F.HK_STS_CHIP_FAULT, .ro, false, .any⟩,
     ⟨F.HK_STS_LAST_RESET, .ro, false, .any⟩]⟩] ++
  [⟨A.HK_RESET, 0x0, 1, 0x0,
    [⟨F.HK_RESET_TYPE, .wo, false, .range 1 5⟩,
     ⟨F.HK_RESET_CHIP, .wo, false, .range 0 4⟩,
     ⟨F.HK_RESET_GO, .wo, false, .any⟩]⟩] ++
  [⟨A.HK_SLOT, 0x0, 1, 0x0,
    [⟨F.HK_SLOT_SLOT, .ro, false, .any⟩,
     ⟨F.HK_SLOT_RAW, .ro, false, .any⟩,
     ⟨F.HK_SLOT_ACCEPTED, .ro, false, .any⟩]⟩] ++
  [⟨A.HK_CAP, 0x8, 5, 0x4E29C538A714E2,
    [⟨F.HK_CAP_CAP_PWR, .ro, false, .any⟩,
     ⟨F.HK_CAP_CAP_THERM, .ro, false, .any⟩,
     ⟨F.HK_CAP_CAP_COOL, .ro, false, .any⟩,
     ⟨F.HK_CAP_CAP_INPUT, .ro, false, .any⟩,
     ⟨F.HK_CAP_EFFECTIVE, .ro, false, .any⟩]⟩] ++
  [⟨A.HK_TEMP, 0x8, 5, 0x0,
    [⟨F.HK_TEMP_DIE_MAX, .ro, false, .any⟩,
     ⟨F.HK_TEMP_HBM0, .ro, false, .any⟩,
     ⟨F.HK_TEMP_HBM1, .ro, false, .any⟩,
     ⟨F.HK_TEMP_DIE_PEAK, .rc, false, .any⟩]⟩] ++
  [⟨A.HK_COOL, 0x0, 1, 0x0,
    [⟨F.HK_COOL_SUPPLY, .ro, false, .any⟩,
     ⟨F.HK_COOL_RETURN, .ro, false, .any⟩,
     ⟨F.HK_COOL_FLOW, .ro, false, .any⟩,
     ⟨F.HK_COOL_LEAK, .ro, false, .any⟩,
     ⟨F.HK_COOL_PUMP_OK, .ro, false, .any⟩]⟩] ++
  [⟨A.HK_FAN, 0x0, 1, 0x0,
    [⟨F.HK_FAN_FAN_OK, .ro, false, .any⟩,
     ⟨F.HK_FAN_DUTY, .ro, false, .any⟩,
     ⟨F.HK_FAN_INLET, .ro, false, .any⟩,
     ⟨F.HK_FAN_AIRFLOW, .ro, false, .any⟩,
     ⟨F.HK_FAN_AIR_ALARM, .ro, false, .any⟩]⟩]

/-- The registers of page kind `pwrIn` (R425, resets R474–R476). -/
def pwrInRegs : List RegDesc :=
  [⟨A.PWR_IN, 0x0, 1, 0x0,
    [⟨F.PWR_IN_VIN, .ro, false, .any⟩,
     ⟨F.PWR_IN_IIN, .ro, false, .any⟩,
     ⟨F.PWR_IN_STATE, .ro, false, .any⟩]⟩] ++
  [⟨A.PWR_EIN, 0x0, 1, 0x0,
    [⟨F.PWR_EIN_ENERGY, .ro, false, .any⟩]⟩]

/-- The registers of page kind `pwrRail` (R425, resets R474–R476). -/
def pwrRailRegs : List RegDesc :=
  [⟨A.PWR_RAIL, 0x20, 4, 0x0,
    [⟨F.PWR_RAIL_VOUT, .ro, false, .any⟩,
     ⟨F.PWR_RAIL_IOUT, .ro, false, .any⟩,
     ⟨F.PWR_RAIL_STATE, .ro, false, .any⟩,
     ⟨F.PWR_RAIL_FAILURES, .ro, false, .any⟩]⟩] ++
  [⟨A.PWR_PHASE, 0x20, 4, 0x0,
    [⟨F.PWR_PHASE_PRESENT, .ro, false, .any⟩,
     ⟨F.PWR_PHASE_FAILED, .ro, false, .any⟩,
     ⟨F.PWR_PHASE_UNTRUSTED, .ro, false, .any⟩]⟩] ++
  [⟨A.PWR_ERAIL, 0x20, 4, 0x0,
    [⟨F.PWR_ERAIL_ENERGY, .ro, false, .any⟩]⟩]

/-- The registers of page kind `pnl` (R426, resets R474–R476). -/
def pnlRegs : List RegDesc :=
  [⟨A.PNL_LED, 0x0, 1, 0x0,
    [⟨F.PNL_LED_LOCATE, .rw, false, .any⟩]⟩] ++
  [⟨A.PNL_KEY_CFG, 0x0, 1, 0x83C,
    [⟨F.PNL_KEY_CFG_TOUCH_DELTA, .rw, false, .range 20 200⟩,
     ⟨F.PNL_KEY_CFG_STABLE, .rw, false, .range 2 40⟩]⟩] ++
  [⟨A.PNL_KEY_STS, 0x0, 1, 0x0,
    [⟨F.PNL_KEY_STS_STATE, .ro, false, .any⟩,
     ⟨F.PNL_KEY_STS_RAW, .ro, false, .any⟩,
     ⟨F.PNL_KEY_STS_BASE, .ro, false, .any⟩,
     ⟨F.PNL_KEY_STS_LOCATE_CNT, .rc, false, .any⟩,
     ⟨F.PNL_KEY_STS_SERVICE_CNT, .rc, false, .any⟩,
     ⟨F.PNL_KEY_STS_STUCK_CNT, .rc, false, .any⟩]⟩] ++
  [⟨A.PNL_LABEL, 0x0, 1, 0x0,
    [⟨F.PNL_LABEL_REPAINT, .w1s, false, .any⟩,
     ⟨F.PNL_LABEL_BUSY, .ro, false, .any⟩,
     ⟨F.PNL_LABEL_GEN, .ro, false, .any⟩,
     ⟨F.PNL_LABEL_CHECK, .ro, false, .any⟩,
     ⟨F.PNL_LABEL_INTERRUPTED, .rc, false, .any⟩]⟩]

/-- The registers of page kind `con` (R426, resets R474–R476). -/
def conRegs : List RegDesc :=
  [⟨A.CON_STS, 0x0, 1, 0x0,
    [⟨F.CON_STS_RX_LEVEL, .ro, false, .any⟩]⟩] ++
  [⟨A.CON_ERR, 0x0, 1, 0x0,
    [⟨F.CON_ERR_FRAMING, .rc, false, .any⟩,
     ⟨F.CON_ERR_OVERRUN, .rc, false, .any⟩,
     ⟨F.CON_ERR_BREAK, .rc, false, .any⟩]⟩]

/-- The registers of page kind `log` (R463, resets R474–R476). -/
def logRegs : List RegDesc :=
  [⟨A.LOG_STS, 0x0, 1, 0x0,
    [⟨F.LOG_STS_NEXT_SEQ, .ro, false, .any⟩,
     ⟨F.LOG_STS_LOST, .ro, false, .any⟩,
     ⟨F.LOG_STS_GASP_USED, .ro, false, .any⟩,
     ⟨F.LOG_STS_FRAM_ERR, .ro, false, .any⟩]⟩]

/-- The registers of page kind `mgr` (R463, resets R474–R476). -/
def mgrRegs : List RegDesc :=
  [⟨A.MGR_LEASE, 0x0, 1, 0x10,
    [⟨F.MGR_LEASE_A_MODE, .ro, false, .any⟩,
     ⟨F.MGR_LEASE_B_MODE, .ro, false, .any⟩,
     ⟨F.MGR_LEASE_HEADLESS, .ro, false, .any⟩,
     ⟨F.MGR_LEASE_TERM, .ro, false, .any⟩]⟩] ++
  [⟨A.MGR_MAP, 0x0, 1, 0xF00000000,
    [⟨F.MGR_MAP_MAP_GEN, .ro, false, .any⟩,
     ⟨F.MGR_MAP_PLANE, .ro, false, .any⟩,
     ⟨F.MGR_MAP_SPARE_READY, .ro, false, .any⟩]⟩] ++
  [⟨A.MGR_TIME, 0x0, 1, 0x0,
    [⟨F.MGR_TIME_STATE, .ro, false, .any⟩,
     ⟨F.MGR_TIME_PORT, .ro, false, .any⟩,
     ⟨F.MGR_TIME_TIME_FAULT, .ro, false, .any⟩,
     ⟨F.MGR_TIME_DOMAIN, .rw, false, .any⟩,
     ⟨F.MGR_TIME_OFFSET_NS, .ro, false, .any⟩]⟩] ++
  [⟨A.MGR_LINK, 0x0, 1, 0x0,
    [⟨F.MGR_LINK_A_UP, .ro, false, .any⟩,
     ⟨F.MGR_LINK_B_UP, .ro, false, .any⟩,
     ⟨F.MGR_LINK_AUTH_FAIL, .rc, false, .any⟩]⟩]

/-- The registers of page kind `fw` (R463, resets R474–R476). -/
def fwRegs : List RegDesc :=
  [⟨A.FW_STS, 0x0, 1, 0x0,
    [⟨F.FW_STS_IMAGE, .ro, false, .any⟩,
     ⟨F.FW_STS_TRIAL, .ro, false, .any⟩,
     ⟨F.FW_STS_SERVICE, .ro, false, .any⟩,
     ⟨F.FW_STS_YEAR, .ro, false, .any⟩,
     ⟨F.FW_STS_NN, .ro, false, .any⟩]⟩] ++
  [⟨A.FW_VER, 0x8, 4, 0x0,
    [⟨F.FW_VER_MAJOR, .ro, false, .any⟩,
     ⟨F.FW_VER_MINOR, .ro, false, .any⟩,
     ⟨F.FW_VER_PATCH, .ro, false, .any⟩,
     ⟨F.FW_VER_SVN, .ro, false, .any⟩]⟩] ++
  [⟨A.FW_COMPAT, 0x0, 1, 0x0,
    [⟨F.FW_COMPAT_REASON, .ro, false, .any⟩,
     ⟨F.FW_COMPAT_CHIP_BAD, .ro, false, .any⟩]⟩]

/-- The registers of page kind `hbmCtl` (R475, resets R474–R476). -/
def hbmCtlRegs : List RegDesc :=
  [⟨A.HBM_STS, 0x0, 1, 0x0,
    [⟨F.HBM_STS_STATE, .ro, false, .any⟩,
     ⟨F.HBM_STS_EXT_REFRESH, .ro, false, .any⟩,
     ⟨F.HBM_STS_TEMP, .ro, false, .any⟩,
     ⟨F.HBM_STS_STREAMS, .ro, false, .any⟩]⟩] ++
  [⟨A.HBM_ECC, 0x0, 1, 0x0,
    [⟨F.HBM_ECC_CORR, .ro, false, .any⟩,
     ⟨F.HBM_ECC_UNCORR, .ro, false, .any⟩]⟩] ++
  [⟨A.HBM_BYTES, 0x0, 1, 0x0,
    [⟨F.HBM_BYTES_BYTES, .ro, false, .any⟩]⟩]

/-- The registers of page kind `hbmPhy` (R475, resets R474–R476). -/
def hbmPhyRegs : List RegDesc :=
  [⟨A.HBM_PHY_STS, 0x0, 1, 0x0,
    [⟨F.HBM_PHY_STS_TRAINED, .ro, false, .any⟩,
     ⟨F.HBM_PHY_STS_FAILED, .ro, false, .any⟩,
     ⟨F.HBM_PHY_STS_REPAIRED, .ro, false, .any⟩,
     ⟨F.HBM_PHY_STS_TRAIN_CNT, .ro, false, .any⟩]⟩]

/-- The kind of page `p` of space `sp`; `none` where the page is unimplemented (R70, R71, R73, R465). -/
def pageKindOf (sp p : Nat) : Option PageKind :=
  if sp < 5 then
    if p = 0 then some .chip0 else if p = 1 then some .chip1 else if p < 0x010 then some .hdrOnly
    else if p < 0x050 then some .port else if p = 0x050 then some .sched
    else if p < 0x060 then none else if p = 0x060 then some .kit0 else if p = 0x061 then some .kitMcg
    else if p = 0x062 then some .kitEgr else if p = 0x063 then some .hdrOnly
    else if p < 0x06C then some .kitOq else if p < 0x070 then some .kitSeat
    else if p < 0x100 then none else if p < 0x200 then some .lane else if p < 0x300 then some .table
    else if p = 0x300 then some .dlr else if p = 0x301 then some .dlrJob else if p = 0x302 then some .dlrIn
    else if p < 0x310 then some .hdrOnly else if p = 0x310 then some .lay
    else if p = 0x320 then some .hbmCtl else if p = 0x321 then some .hbmPhy
    else if p = 0x322 then some .hbmCtl else if p = 0x323 then some .hbmPhy
    else if p = 0x330 then some .deck else if p = 0x340 then some .dump else if p = 0x341 then some .watch
    else if p < 0x342 then none else if p < 0x380 then some .hdrOnly else if p < 0x3C0 then some .seat
    else if p = 0x3C0 then some .circ else if p = 0x3D0 then some .snap else if p = 0x3E0 then some .xlt
    else if p = 0x3F0 then some .tel else none
  else if sp = 5 then
    if p = 0 then some .hk else if p < 0x010 then some .hdrOnly else if p = 0x010 then some .pwrIn
    else if p < 0x016 then some .pwrRail else if p = 0x020 then some .pnl else if p = 0x021 then some .con
    else if p < 0x030 then none else if p = 0x030 then some .log else if p < 0x040 then some .hdrOnly
    else if p = 0x040 then some .mgr else if p < 0x050 then some .hdrOnly else if p = 0x050 then some .fw
    else if p < 0x060 then some .hdrOnly else none
  else none

/-- The kind of a page handle. -/
def pageKind (pg : Nat) : Option PageKind := pageKindOf (pg / 4096) (pg % 4096)

/-- The block registers of a page kind (offsets 0x100 to 0x7FF). -/
def blockRegs : PageKind → List RegDesc
  | .chip0 => chip0Regs | .chip1 => chip1Regs | .hdrOnly => [] | .port => portRegs | .sched => schedRegs
  | .kit0 => kit0Regs | .kitMcg => kitMcgRegs | .kitEgr => kitEgrRegs | .kitOq => kitOqRegs | .kitSeat => kitSeatRegs
  | .lane => laneRegs | .table => tableRegs | .dlr => dlrRegs | .dlrJob => dlrJobRegs | .dlrIn => dlrInRegs
  | .lay => layRegs | .hbmCtl => hbmCtlRegs | .hbmPhy => hbmPhyRegs | .deck => deckRegs | .dump => dumpRegs
  | .watch => watchRegs | .seat => seatRegs | .circ => circRegs | .snap => snapRegs | .xlt => xltRegs | .tel => telRegs
  | .hk => hkRegs | .pwrIn => pwrInRegs | .pwrRail => pwrRailRegs | .pnl => pnlRegs | .con => conRegs | .log => logRegs
  | .mgr => mgrRegs | .fw => fwRegs

/-- `off` is one of the register or array `r`. -/
def RegDesc.has (r : RegDesc) (off : Nat) : Bool :=
  if r.stride = 0 then off == r.off
  else decide (r.off ≤ off) && (off - r.off) % r.stride == 0 && decide ((off - r.off) / r.stride < r.cnt)

/-- A register of the page exists at `off` (R146: bay-lead registers on every eighth port; R369: SEAT_REJ_CAPT on
page 0x380 only). -/
def regExists (pg off : Nat) : Bool :=
  if pageKind pg = some .port ∧ 0x180 ≤ off ∧ off ≤ 0x198 then (pg % 4096 - 0x010) % 8 == 0
  else if pageKind pg = some .seat ∧ off = A.SEAT_REJ_CAPT then pg % 4096 == 0x380
  else true

/-- The register description at the active offset `off` of page `pg` (R464: no other register exists). -/
def findReg (pg off : Nat) : Option RegDesc :=
  match pageKind pg with
  | none => none
  | some k =>
    if off < 0x100 then hdrRegs.find? (fun r => r.has off)
    else if regExists pg off then (blockRegs k).find? (fun r => r.has off)
    else none

/-- Mask of the RWS fields of a register. -/
def RegDesc.rwsMask (r : RegDesc) : Word :=
  r.fields.foldl (fun m f => if f.acc = .rws then m ||| (maskW f.fld.w <<< f.fld.lo) else m) 0

/-- BLOCK_TYPE of a page kind; header-only pages read the type of their range (R466, R467). -/
def blockType (pg : Nat) : Nat :=
  let p := pg % 4096
  if pg / 4096 < 5 then
    if p < 0x010 then 0x0001 else if p < 0x050 then 0x0002 else if p = 0x050 then 0x0003
    else if p < 0x070 then 0x0004 else if p < 0x200 then 0x0005 else if p < 0x300 then 0x0006
    else if p < 0x310 then 0x0007 else if p = 0x310 then 0x0008
    else if p = 0x320 ∨ p = 0x322 then 0x0009 else if p < 0x330 then 0x000A else if p = 0x330 then 0x000B
    else if p < 0x380 then 0x000C else if p < 0x3C0 then 0x000D else if p = 0x3C0 then 0x000E
    else if p = 0x3D0 then 0x000F else if p = 0x3E0 then 0x0010 else 0x0011
  else
    if p < 0x010 then 0x0101 else if p < 0x016 then 0x0102 else if p = 0x020 then 0x0103
    else if p = 0x021 then 0x0104 else if p < 0x040 then 0x0105 else if p < 0x050 then 0x0106 else 0x0107

/-- INSTANCE: page minus the first page of the block's range; the stack number on HBM pages (R466). -/
def instanceOf (pg : Nat) : Nat :=
  let p := pg % 4096
  if pg / 4096 < 5 then
    if p < 0x010 then p else if p < 0x050 then p - 0x010 else if p = 0x050 then 0
    else if p < 0x070 then p - 0x060 else if p < 0x200 then p - 0x100 else if p < 0x300 then p - 0x200
    else if p < 0x310 then p - 0x300 else if p = 0x322 ∨ p = 0x323 then 1 else if p < 0x340 then 0
    else if p < 0x380 then p - 0x340 else if p < 0x3C0 then p - 0x380 else 0
  else
    if p < 0x010 then p else if p < 0x016 then p - 0x010 else if p < 0x030 then 0
    else if p < 0x040 then p - 0x030 else if p < 0x050 then p - 0x040 else p - 0x050

/-- PG_ID of a page (R466). -/
def pgId (pg : Nat) : Nat :=
  (if pg / 4096 < 5 then 0x80B1010100000000 else 0x8000010100000000) + instanceOf pg * 0x10000 + blockType pg

/-- PG_CAP.ABORTABLE (R467). -/
def abortable (pg : Nat) : Bool :=
  match pageKind pg with
  | some .chip0 | some .port | some .table | some .dlr | some .hbmCtl | some .dump | some .circ => true
  | _ => false

/-- PG_CAP.STAGED (R467): block fields at offset 0x100 and above that are staged. -/
def stagedPage (pg : Nat) : Bool :=
  match pageKind pg with
  | some .chip0 | some .port | some .sched | some .kit0 | some .kitEgr | some .lane | some .table | some .dlr
  | some .deck | some .dump | some .seat | some .xlt => true
  | _ => false

/-- PG_CAP.PROFILES (R467). -/
def hasProfiles (pg : Nat) : Bool :=
  match pageKind pg with
  | some .chip0 | some .port | some .sched | some .kit0 | some .kitEgr | some .lane | some .table | some .deck => true
  | _ => false

/-- The block interrupt bits [63:8] that a page defines (R98; each block's chapter). -/
def irqMask (pg : Nat) : Nat :=
  match pageKind pg with
  | some .chip0 => 0x100 | some .port => 0xFFFFF00 | some .kit0 => 0x100 | some .lane => 0xF00 | some .table => 0xF00
  | some .dlr => 0x700 | some .lay => 0x100 | some .hbmCtl => 0x100 | some .hbmPhy => 0x100 | some .deck => 0x300
  | some .dump => 0x300 | some .watch => 0xFF00 | some .seat => if pg % 4096 = 0x380 then 0x100 else 0
  | some .xlt => 0x300 | some .hk => 0x7F00 | some .pwrRail => 0x700 | some .pnl => 0xF00 | some .log => 0x100
  | some .mgr => 0x700 | some .fw => 0x100
  | _ => 0

/-- PG_CAP.BLOCK_CAP (R467). -/
def blockCap (pg : Nat) : Nat :=
  match pageKind pg with
  | some .chip0 => 0x40 | some .port => if (pg % 4096 - 0x010) % 8 = 0 then 1 else 0
  | some .kitMcg => 0x100400 | some .dlr => 0x3020 | some .lay => 0x1000 | some .hbmCtl => 0x18
  | some .watch => 0x08 | some .circ => 0x80 | some .tel => 0x0D
  | _ => 0

/-- PG_CAP of a page (R84, R467). -/
def pgCap (pg : Nat) : Nat :=
  b2n (abortable pg) + 2 * b2n (stagedPage pg) + 4 * b2n (hasProfiles pg) + 8 * b2n (irqMask pg != 0)
    + blockCap pg * 2 ^ 32

/-- The page's PG_CTL.ENABLE resets to 1 (R85, R469). -/
def enableReset (pg : Nat) : Bool :=
  match pageKind pg with
  | some .port | some .table | some .dlr | some .dump => false
  | _ => true

/-- PG_PROFILE.SUPPORTED, bit n for profile n (R90 and the common header's reset table). -/
def profilesSupported (pg : Nat) : Nat :=
  match pageKind pg with
  | some .kit0 | some .table => 7
  | _ => if hasProfiles pg then 1 else 0

/-- The phases of rail `r` of a chip (R395): 0 DEAL, 1 CORE, 2 SERDES, 3 HBM. -/
def railPhases (r : Nat) : Nat := match r with | 0 => 16 | 1 => 12 | 2 => 6 | 3 => 5 | _ => 0

/-- The reset value of the active register at `off` of page `pg` (R466–R471, R474–R476). -/
def activeReset (pg off : Nat) : Word :=
  if off = A.PG_ID then BitVec.ofNat 64 (pgId pg)
  else if off = A.PG_CAP then BitVec.ofNat 64 (pgCap pg)
  else if off = A.PG_CTL then BitVec.ofNat 64 (b2n (enableReset pg))
  else if off = A.PG_PROFILE then BitVec.ofNat 64 (profilesSupported pg * 2 ^ 16)
  else
    match pageKind pg with
    | some .chip0 => if off = A.CHIP_TOPO then BitVec.ofNat 64 (pg / 4096 + 0xF00) else baseReset
    | some .seat => if off = A.SEAT_CFG ∧ pg % 4096 ≠ 0x380 then 0x1100 else baseReset
    | some .tel =>
      if A.TEL_ECOEF ≤ off ∧ off < A.TEL_ECOEF + 8 * 13 then
        (Config.telEcoef (pg / 4096) ((off - A.TEL_ECOEF) / 8)).setWidth 64
      else baseReset
    | some .pwrRail =>
      if A.PWR_PHASE ≤ off ∧ (off - A.PWR_PHASE) % 0x20 = 0 then
        BitVec.ofNat 64 (2 ^ railPhases ((off - A.PWR_PHASE) / 0x20) - 1)
      else baseReset
    | _ => baseReset
where
  /-- The whole-register reset of the index. -/
  baseReset : Word :=
    match findReg pg off with
    | some r => BitVec.ofNat 64 r.reset
    | none => 0

/-- What an unlisted key of the register file reads as: the reset value; a shadow resets to its active copy's RWS
fields (R471). -/
def regReset (key : Nat) : Word :=
  let pg := key / 4096
  let off := key % 4096
  if off < 0x800 then activeReset pg off
  else
    match findReg pg (off - 0x800) with
    | some r => activeReset pg (off - 0x800) &&& r.rwsMask
    | none => 0

end Sys2Proof.Machine
end

