-- ==== Sys2Proof/Machine/State.lean ====
section
/-! DEFINITION. The state of the tray: plain data, everything the spec gives the machine, and `State.reset`.
Registers live in the sparse register file `regs`; what has no register stands in the records below. -/
namespace Sys2Proof.Machine

/-- Why a command is a fault. No command of this model faults: every event and access of the table has an effect the
spec gives, or changes nothing. The constructor stands for a command that no implementation could receive; nothing
raises it (safe). -/
inductive Fault where
  /-- never raised -/
  | impossible
  deriving DecidableEq, Repr

/-- Why a command is refused. -/
inductive Refusal where
  /-- raised by a dispatch arm only: the command has no meaning yet (safe) -/
  | notModelled (mnemonic : String)
  deriving DecidableEq, Repr

/-- The events that are written to the event log (R454); the code range of each is `Ev.range`. -/
inductive Ev where
  /-- R1xx power -/
  | vinOv | vinUvWarn | vinUvTrip | vinRestore | phaseFail | senseUntrusted | railOvercurrent | railOff | railPgTimeout
  | capPwr | slotBad
  /-- R2xx thermal and coolant -/
  | thermalCap | dieOvertemp | thermalTrip | hbmOvertemp | coolant | leak | pump | coolingRecovery | fan | cartOvertemp
  | air
  /-- R3xx ports -/
  | wiring | laneOrder | cableLength | rttMiss | flood | floodTimeout | wear | laserFail | laneFail | los | partner
  | cartUnsupported | cartRemoved | cmisFail
  /-- R4xx chips -/
  | refLoss | corePll | dealerPll | allDealerPlls | hbmPll | txPll | pcieDown | discipline | scrubReenabled | quiesceFail
  | ecc | chipReset | hbmTrainFail | deckHopDown | strapFault | resetDone | quiesce | counterSat
  /-- R5xx management -/
  | identity | leaseGranted | leaseLapsed | mapTaken | mapRejected | headless | timeState | timeFault | authFail | swapEnd
  | zmpSilent | dumpLoss
  /-- R6xx firmware -/
  | fwVerify | compat | compatSilicon | fwActivate | fwFallback | fwConfirm | cartFw
  /-- R7xx panel -/
  | labelInterrupted | keyStuck | serviceReq | keyFault | locate
  /-- R8xx log -/
  | logLost | gaspRecovery
  deriving DecidableEq, Repr

/-- An event-log entry before or after it is written: event, SOURCE (0 housekeeper, 1 Halvoren, 2 + c chip c), fabric
time, and the numbers its DATA carries (R454). -/
structure LogEntry where
  ev : Ev
  src : Nat
  time : Nat
  data : List Nat
  /-- the housekeeper's clock in seconds and the Halvoren's boot count when it came into being -/
  rtc : Nat := 0
  boot : Nat := 0
  deriving DecidableEq, Repr
/-! ### Lanes, ports, cartridges (ch. 4, 5) -/

/-- The partner's IDENT as last received (R117, R118). -/
structure IdentInfo where
  rack : Nat := 0
  ep : Nat := 0
  slot : Nat := 0
  chip : Nat := 0
  kind : Nat := 0
  rxLat : Nat := 0
  txLat : Nat := 0
  react : Nat := 0
  caps : Nat := 0
  proto : Nat := 0
  resume : Bool := false
  deriving DecidableEq, Repr

/-- One echo of the round-trip measurement: its order of sending, interval and residence in 0.25 ns (R126). -/
structure Echo where
  order : Nat
  interval : Nat
  residence : Nat
  deriving DecidableEq, Repr

/-- A lane's equaliser state that a checkpoint saves: live taps and CTLE code (R129, R145). -/
structure EqState where
  taps : Nat := 0
  ctle : Nat := 0
  deriving DecidableEq, Repr

/-- Per-lane state beside the lane page. -/
structure LaneSt where
  /-- latest 1 ms FOM values, newest first, at most eight (R128) -/
  foms : List Nat := []
  /-- an uncorrectable codeword has come since the latest checkpoint opportunity (R129) -/
  uncSeen : Bool := false
  checkpoint : Option EqState := none
  /-- consecutive decoded codewords with consistent LANE and CWSEQ, and the last CWSEQ (R122) -/
  alignRun : Nat := 0
  lastSeq : Nat := 0
  /-- the partner's latest request, bits [8:0] of the control word, and the ACK the tray returns (R120) -/
  peerReq : Nat := 0
  ackOut : Nat := 0
  /-- the tray's own request in progress and how many frames acknowledged it (R120) -/
  ownReq : Nat := 0
  ownAck : Nat := 0
  /-- consecutive frames in which both directions showed RX_READY (R120) -/
  readyRun : Nat := 0
  switchOut : Bool := false
  switchIn : Bool := false
  /-- FOM the partner reports, frame counter the tray sends (R120) -/
  peerFom : Nat := 0
  fseq : Nat := 0
  /-- the lane reports FLOOD or MONITOR_FAULT on the sideband, as last received: 0 NORMAL, 1 LOS, 2 FLOOD,
  3 MONITOR_FAULT (R132) -/
  side : Nat := 0
  /-- receive word boundary, in symbols moved since reset (R141) -/
  slip : Nat := 0
  /-- WEAR alarms and a failed laser without a spare (R137) -/
  worn : Bool := false
  eol : Bool := false
  noSpare : Bool := false
  /-- FOM_WARN of this lane (R128) -/
  fomWarn : Bool := false
  /-- the 60 s window (R453, R441): lowest FOM, sum and number of the 1 ms values, intervals with FOM below 90,
  uncorrectable and corrected codewords -/
  wMin : Nat := 255
  wSum : Nat := 0
  wCnt : Nat := 0
  wLow : Nat := 0
  wUnc : Nat := 0
  wCorr : Nat := 0
  /-- the lane failed its latest window (R453) -/
  fail : Bool := false
  /-- lowest FOM and uncorrectable codewords since the wiring test began (R452) -/
  tMin : Nat := 255
  tUnc : Nat := 0
  deriving DecidableEq, Repr

/-- The receive parser's place in a packet: header and flits taken so far, and the number of the core packet that
carries it where it is forwarded (R148). -/
structure RxPkt where
  hdr : Flit
  pay : List Flit := []
  core : Option Nat := none
  /-- the packet was discarded at its header and its flits are only counted off -/
  dead : Bool := false
  deriving DecidableEq, Repr

/-- The receive parser of a port (R148–R152). -/
structure RxSt where
  hunt : Bool := true
  cur : Option RxPkt := none
  ins : Option RxPkt := none
  /-- the last flit was a BREAK at a payload position -/
  brk : Bool := false
  /-- payload flits still to discard of a packet whose start was not held (R152) -/
  skip : Nat := 0
  deriving DecidableEq, Repr

/-- Who owns an originated packet: what its acknowledgement completes (R104, R174, R177). -/
inductive Owner where
  /-- RESULT of operation `op`, trick `j` of table `tb` under epoch `ep` -/
  | result (tb op j ep : Nat)
  /-- completion record of table `tb` -/
  | cpl (tb ep : Nat)
  /-- SNAP result of table `tb` -/
  | snap (tb ep : Nat)
  /-- RESULT of a Dealer job: slot and its epoch -/
  | job (slot ep : Nat)
  /-- THROTTLE, ACK, NAK: not stored -/
  | none
  deriving DecidableEq, Repr

/-- A packet the port agent originates, before it enters the replay store. -/
structure OrigPkt where
  pkt : Pkt
  owner : Owner
  deriving DecidableEq, Repr

/-- An entry of the replay store (R177). -/
structure ReplayEnt where
  ch : Nat
  seq : Nat
  pkt : Pkt
  owner : Owner
  /-- freed by an abort of its owner: holds no space, its acknowledgement is stale -/
  freed : Bool := false
  deriving DecidableEq, Repr

/-- The transmitter of a port: what it sends at the next flit position (R148–R151). -/
structure TxSt where
  /-- flit positions since the last sync slot (0 to 639) and since the frame began (0 to 1023) -/
  pos : Nat := 0
  fpos : Nat := 0
  /-- packet in progress: number in the core, or a TC0 packet; payload flits already sent -/
  cur : Option Nat := none
  curSnap : Option Pkt := none
  sent : Nat := 0
  /-- a packet inserted inside it: number in the core, or a TC0 packet; payload flits already sent -/
  ins : Option Nat := none
  insSnap : Option Pkt := none
  insSent : Nat := 0
  /-- a BREAK has been sent and an inserted unit (or the second BREAK of a literal) is due; the class chosen -/
  brk : Bool := false
  lit : Bool := false
  /-- flits sent in the current frame by class (index 0 to 3), cells by circuit, and classes that waited (R205) -/
  used : List Nat := [0, 0, 0, 0]
  circUsed : Assoc Nat := []
  tc3Waited : Bool := false
  deriving DecidableEq, Repr

/-- Per-port state beside the port page. -/
structure PortSt where
  ident : Option IdentInfo := none
  /-- the IDENT in force before the flood or retraining (R133) -/
  prev : Option IdentInfo := none
  /-- echo tokens awaited, in order of sending: (token, order) (R126) -/
  tokens : List (Nat × Nat) := []
  echoes : List Echo := []
  nextToken : Nat := 0
  nextOrder : Nat := 0
  /-- the tray has set LINK_OK (R122) -/
  linkOk : Bool := false
  /-- the partner has shown LINK_OK in 16 consecutive groups and has not withdrawn it since (R113, R122) -/
  peerLinkOk : Bool := false
  remeasuring : Bool := false
  /-- CABLE when PORT_FC_HDRM was last derived (R126) -/
  derivedCable : Nat := 0
  /-- state within RETRAIN: 3 TUNE to 7 MEASURE (R122) -/
  sub : Nat := 0
  /-- a lane has reported FLOOD since FLOOD_HOLD was entered; the partner holds a FLOOD_NOTE (R132, R135) -/
  floodOwn : Bool := false
  floodPeer : Bool := false
  /-- FLOOD outside UP: 10 ms of NORMAL must pass before training (R134) -/
  floodBlock : Bool := false
  /-- the lane of the port (0–3) whose sparing is in progress (R138) -/
  spareLane : Option Nat := none
  /-- LOOP_ACK last received: none, accepted (some true), refused (R117) -/
  loopAck : Option Bool := none
  /-- lanes whose codeword of the current group has arrived, and whether one decoded (R115) -/
  groupSeen : List Nat := []
  groupGood : Bool := false
  /-- no codeword of a group decoded: act as if XOFF were 1 for all classes (R115) -/
  xoffForced : Bool := false
  /-- XOFF of the partner, per class (R113) -/
  xoffRx : Nat := 0
  /-- XOFF conditions of the tray: refusal in the kitty (bit per class), staging, snap buffer, carve-out, hold of a
  quiesce or flood (R165, R193, R168, R109, R132) -/
  xoffKit : Nat := 0
  xoffStage : Bool := false
  xoffHold : Bool := false
  /-- latest refused cell per class TC1 to TC3: destination output, 64 multicast, 65 + k circuit k (R165) -/
  refused : Assoc Nat := []
  /-- reserved headroom in force by class, in cells (R168) -/
  resv : Assoc Nat := []
  rx : RxSt := {}
  tx : TxSt := {}
  /-- streams: expected SEQ, a NAK already sent for it, accepted packets not acknowledged, by channel (R173) -/
  rxExp : Assoc Nat := []
  nakSent : Assoc Nat := []
  unacked : Assoc Nat := []
  /-- seat of the stream's latest packet, for the SEAT of an ACK (R175) -/
  rxSeat : Assoc Nat := []
  /-- oldest unacknowledged SEQ, next SEQ, expiries without progress, by channel (R174) -/
  txUna : Assoc Nat := []
  txNxt : Assoc Nat := []
  retries : Assoc Nat := []
  replay : List ReplayEnt := []
  /-- originated packets waiting for the replay store, oldest first -/
  origq : List OrigPkt := []
  /-- TC0 packets waiting for the output, oldest first (R48) -/
  snapq : List Pkt := []
  /-- deficit round robin among the tables of a seat: deficit by table, table served last by seat (R288) -/
  resDef : Assoc Nat := []
  resLast : Assoc Nat := []
  /-- deficit round robin among seats: deficit by class × 64 + seat, seat served last by class (R205, R367) -/
  seatDef : Assoc Nat := []
  seatLast : Assoc Nat := []
  deriving DecidableEq, Repr

/-- Per-bay state: the cartridge as identified, sideband, two-wire bus (R142–R147). -/
structure BaySt where
  info : Option CartInfo := none
  /-- consecutive sideband frames whose CRC failed (R136) -/
  sideFail : Nat := 0
  cartFault : Bool := false
  /-- CMIS_FAIL is raised and wear reading stopped (R144) -/
  cmisFail : Bool := false
  /-- high-temperature alarm (R405) -/
  hot : Bool := false
  /-- days until some group runs out of spares, as last forecast; none: no forecast (R139) -/
  forecast : Option Nat := none
  worst : Nat := 0
  /-- the software transaction in progress: PORT_CMIS_CMD as written (R147) -/
  cmis : Option Word := none
  deriving DecidableEq, Repr

/-! ### Switch core (ch. 6) -/

/-- A copy of a packet on one output: linked into its queue or not yet, its place in the queue, flits sent. -/
structure Copy where
  port : Nat
  linked : Bool := false
  /-- order of linking on the chip (R205) -/
  order : Nat := 0
  started : Bool := false
  /-- flits sent, header included -/
  sent : Nat := 0
  deriving DecidableEq, Repr

/-- A packet in staging or the kitty (R188–R216). -/
structure CorePkt where
  id : Nat
  hdr : Flit
  /-- payload flits received so far -/
  pay : List Flit
  inPort : Nat
  /-- it comes from the originated staging of `inPort` (R194) -/
  orig : Bool := false
  owner : Owner := .none
  circ : Option Nat := none
  /-- cells complete in staging -/
  arrived : Nat := 0
  /-- cells admitted, oldest first: true in headroom, false in the shared pool (R199) -/
  accts : List Bool := []
  /-- cells moved to the kitty -/
  crossed : Nat := 0
  copies : List Copy := []
  /-- members neither linked nor ready, held in a residue entry (R210) -/
  residue : List Nat := []
  inResidue : Bool := false
  /-- members are judged: the first cell has been admitted (R210) -/
  judged : Bool := false
  /-- multicast without a ready member: written to the kitty through this output's grant (R210) -/
  via : Option Nat := none
  /-- the packet is discarded: later cells are discarded on arrival (R483) -/
  dropped : Bool := false
  /-- flits from this number on are sent as zero (R153, R215) -/
  zeroFrom : Option Nat := none
  /-- it waits behind a FENCE, or is one that waits (R161) -/
  held : Bool := false
  deriving DecidableEq, Repr

/-- A circuit (R183, R186). -/
structure Circ where
  inPort : Nat
  outPort : Nat
  seat : Nat
  ch : Nat
  slots : Nat
  slice : Nat
  cmp : Nat
  bytes : Nat := 0
  /-- CIRC_XBYTES and CIRC_XERR of this circuit (R357) -/
  xbytes : Nat := 0
  xerr : Nat := 0
  deriving DecidableEq, Repr

/-- A multicast group (R209, R225). -/
structure Mcg where
  valid : Bool := false
  selfIn : Bool := false
  seat : Nat := 0
  members : Nat := 0
  deriving DecidableEq, Repr

/-! ### Tables (ch. 7, 8) -/

/-- A completion record before its issue: KIND, STATUS, NUMFLAGS, OP_SEQ, USER_TAG, DETAIL, BYTES (R251). -/
structure Rec where
  kind : Nat
  status : Nat
  flags : Nat := 0
  opSeq : Nat := 0
  userTag : Nat := 0
  detail : Nat := 0
  bytes : Nat := 0
  deriving DecidableEq, Repr

/-- A slot of a window (R234–R239). -/
structure Slot where
  cmd : BitVec 384 := 0
  written : Bool := false
  /-- the command has ended; its record, until issued (none: SILENT or issued) -/
  ended : Bool := false
  wait : Option Rec := none
  deriving DecidableEq, Repr

/-- A member's window and CQ (R234, R254, R255). -/
structure Win where
  slots : Assoc Slot := []
  pi : Nat := 0
  ci : Nat := 0
  /-- free-running index of the command at the head of the member queue -/
  head : Nat := 0
  cqBase : Nat := 0
  cqEn : Bool := false
  cqLog : Nat := 0
  tail : Nat := 0
  cqHead : Nat := 0
  /-- the waiting places for a CMD_ERR and a DOORBELL record -/
  waitErr : Option Rec := none
  waitDb : Option Rec := none
  /-- records of operations that the Dealer issued, oldest first (R257) -/
  waitOps : List Rec := []
  deriving DecidableEq, Repr

/-- A lump waiting in the staging area or early in a trick (R271–R275). -/
structure Lump where
  op : Nat
  trick : Nat
  piece : Nat
  lump : Nat
  /-- contributing port -/
  port : Nat
  seat : Nat
  ch : Nat
  data : List Byte
  /-- it lies in an early place of its trick, not in the staging area (R274) -/
  early : Bool := false
  deriving DecidableEq, Repr

/-- A scoreboard position: piece × 8 + lump, rank due next, folded data (R273). -/
structure Posn where
  key : Nat
  next : Nat := 0
  /-- ranks placed (folded or held) -/
  got : List Nat := []
  acc : List Byte := []
  deriving DecidableEq, Repr

/-- An open trick (R271). -/
structure Trick where
  op : Nat
  j : Nat
  tag : Nat
  posns : List Posn := []
  /-- emission has started: its RESULT packets stand in the members' queues -/
  emitted : Bool := false
  deriving DecidableEq, Repr

/-- What launched an operation (R245, R257): the members' commands, or an instruction of a Dealer job: its slot, the
slot's epoch, its USER_TAG. -/
inductive Launch where
  | endpoints
  | dealer (slot ep userTag : Nat)
  deriving DecidableEq, Repr

/-- What a fused instruction does to an operation: nothing, or the transformation of its results (R336, R337, R346), with
the instruction and the contents of its two descriptors. -/
inductive Fuse where
  | none
  | epi (instr : BitVec 512) (hB : Nat) (bias : BitVec 1024)
  | pro (instr : BitVec 512) (hB : Nat) (scale : BitVec 1024)
  | shuffle (instr : BitVec 512) (a b : BitVec 1024)
  deriving DecidableEq, Repr

/-- Member-local part of an operation: port, DST_ADDR, USER_TAG, SILENT, whether a command of the member's window stands
for it and at which free-running index. -/
structure OpMember where
  port : Nat
  dst : Nat
  userTag : Nat := 0
  silent : Bool := false
  idx : Option Nat := none
  /-- channel of its contributions (R269) -/
  ch : Option Nat := none
  /-- bytes sent to it as RESULTs -/
  bytes : Nat := 0
  deriving DecidableEq, Repr

/-- An operation matched or issued: parked, waiting to start, or started (R233, R246, R248, R257, R277). -/
structure OpSt where
  seq : Nat
  opcode : Nat
  count : Nat
  /-- trigger counter that its completion increments -/
  inc : Option Nat := none
  /-- (table, counter, threshold) that a parked operation waits on -/
  wait : Option (Nat × Nat × Nat) := none
  started : Bool := false
  launch : Launch := .endpoints
  fuse : Fuse := .none
  members : List OpMember := []
  /-- next trick to open -/
  opened : Nat := 0
  /-- NUMFLAGS combined over the tricks so far -/
  flags : Nat := 0
  /-- it has failed: OP_DONE DATA_FAIL follows the acknowledgement of what was emitted (R281) -/
  failed : Bool := false
  /-- SHUFFLE: source runs processed (rank, offset, length), and everything due has been sent -/
  runs : List (Nat × Nat × Nat) := []
  /-- SHUFFLE with SPAN: 4 KiB target blocks in assembly: (rank, block), runs (offset, bytes) received -/
  blocks : List ((Nat × Nat) × List (Nat × List Byte)) := []
  allSent : Bool := false
  deriving DecidableEq, Repr

/-- A DEALER_IN packet in MODE 1 staged for an operation not yet started (R340). -/
structure ShufIn where
  op : Nat
  port : Nat
  ch : Nat
  off : Nat
  data : List Byte
  deriving DecidableEq, Repr

/-- One SNAP held: port, result address, payload (R284). -/
structure SnapIn where
  port : Nat
  addr : Nat
  data : List Byte
  deriving DecidableEq, Repr

/-- Per-table state beside the table page. -/
structure TableSt where
  wins : Assoc Win := []
  ops : List OpSt := []
  tricks : List Trick := []
  staged : List Lump := []
  shuf : List ShufIn := []
  /-- reduction memory reserved: pieces (place from the top row, size) in KiB (R263, R349) -/
  res : List (Nat × Nat) := []
  /-- the wait of the next trick for its resources has been counted (R289) -/
  waitNoted : Bool := false
  /-- the wait of a matched operation for a triggered-operation entry has been counted (R248) -/
  trigNoted : Bool := false
  /-- OP_SEQs whose lumps expired before they started: they end with DATA_FAIL (R275) -/
  doomed : List Nat := []
  /-- payloads held for SNAP_SEQ s and s + 1 (R284), and NUMFLAGS of s so far -/
  snap0 : List SnapIn := []
  snap1 : List SnapIn := []
  deriving DecidableEq, Repr

/-! ### The Dealer and the layout unit (ch. 9, 10) -/

/-- A descriptor slot (R299): generation, contents, whether its handle is known, its seat, the job slots that hold it,
the slot whose job created it, whether it is revoked (R318), the upper half of a DTD. -/
structure DescSt where
  gen : Nat := 0
  held : Bool := false
  live : Bool := false
  words : BitVec 1024 := 0
  seat : Nat := 0
  users : List Nat := []
  creator : Option Nat := none
  revoked : Bool := false
  upper : Bool := false
  deriving DecidableEq, Repr

/-- Why a RUNNING or WAITING slot does not execute its next instruction (R329, R335, R338). -/
inductive SlotWait where
  | none
  /-- WAIT_EN: the trigger counter is below WAIT_THRESH -/
  | ctr
  /-- no half of the inbox is ready -/
  | inbox
  /-- the table or the triggered-operation entries are at their bound -/
  | issue
  /-- the pool is short -/
  | pool
  /-- operation `op` of table `tb` is in progress -/
  | op (tb op : Nat)
  /-- that operation has ended with a status of R252 -/
  | ended (status : Nat)
  deriving DecidableEq, Repr

/-- A job slot beside page 0x301 (R324–R329). -/
structure SlotSt where
  pc : Nat := 0
  /-- JH entries -/
  jh : Assoc Nat := []
  /-- the WAIT_EN condition of the instruction at `pc` has been met -/
  passed : Bool := false
  wait : SlotWait := .none
  /-- USER_TAG of the instruction executed last -/
  tag : Nat := 0
  /-- batches done of the MOE_ROUTE at `pc` -/
  batch : Nat := 0
  /-- that MOE_ROUTE has started -/
  moe : Bool := false
  deriving DecidableEq, Repr

/-- A record being assembled in the place of a port (R339). -/
structure Assembly where
  port : Nat
  len : Nat
  close : Bool
  deriving DecidableEq, Repr

/-- An inbox beside page 0x302 (R338, R339): the half that fills (none: no half is filling), records in each half, the
half in use by IN_WAIT with its TD, ready halves in order, assembly places in use. -/
structure InboxSt where
  fill : Option Nat := some 0
  recs : Assoc Nat := []
  ready : List Nat := []
  taken : Option (Nat × Nat) := none
  asm : List Assembly := []
  /-- packets held in headroom for want of a filling half -/
  held : List (Nat × Pkt) := []
  deriving DecidableEq, Repr

/-- A pool item in units of 4 KiB (R351). -/
structure PoolItem where
  slot : Nat
  seat : Nat
  size : Nat
  pinned : Bool := false
  /-- a cached copy of an operand, dropped without writing -/
  cached : Bool := false
  /-- it lies in the spill area -/
  spilled : Bool := false
  deriving DecidableEq, Repr

/-- The Dealer, the layout unit and the translation unit of a chip. -/
structure DealerSt where
  descs : Assoc DescSt := []
  /-- translation entries: seat × 32768 + index, in the form of XLT_ENT -/
  xlt : Assoc Word := []
  /-- a revocation waits for its accesses to drain (R318) -/
  revoking : Bool := false
  slots : Assoc SlotSt := []
  inboxes : Assoc InboxSt := []
  /-- WAITING slots, longest first (R352) -/
  waits : List Nat := []
  /-- pool items, least recently used first -/
  pool : List PoolItem := []
  /-- spill traffic out, in, before and after compression, in 4 KiB -/
  spillOut : Nat := 0
  spillIn : Nat := 0
  /-- MIX and VEC operations of a seat not yet counted in DLR_MOPS (R371) -/
  mops : Assoc Nat := []
  /-- poisoned lines, by physical address (R360) -/
  poison : List Nat := []
  deriving DecidableEq, Repr

/-! ### The deck ring (ch. 6) -/

/-- One deck ring node: for each direction × 2 + class (0 CW DATA, 1 CW CTRL, 2 CCW DATA, 3 CCW CTRL) the transit
buffer, the packets waiting for injection, the retry buffer of sent packets, and consecutive CRC failures; and the hop to
the clockwise neighbour: 0 down, 1 in training, 2 up (R219, R220). -/
structure NodeSt where
  transit : Assoc (List RingPkt) := []
  inject : Assoc (List RingPkt) := []
  retry : Assoc (List RingPkt) := []
  fails : Assoc Nat := []
  cwHop : Nat := 1
  /-- deficits of the DATA injections by direction × 2 + (0 spill, 1 shuffle), and which was served last (R219) -/
  defs : Assoc Nat := []
  lastInj : Nat := 1
  deriving DecidableEq, Repr

/-- The dump engine of a chip beside page 0x340 (R375–R382). -/
structure DumpSt where
  /-- a snapshot instant has passed under this BOOT: the next SEQ is not 0 -/
  started : Bool := false
  /-- the record being sent -/
  sending : Option (List Byte) := none
  /-- snapshots skipped and not yet reported in a delivered record, the cause of the latest, and how many the record
  being sent reports -/
  gaps : Nat := 0
  cause : Nat := 0
  carried : Nat := 0
  /-- digest of the previous delivered record; empty: none under this BOOT -/
  prev : List Byte := []
  /-- K in force (R385) -/
  kForce : Nat := 0x400000
  deriving DecidableEq, Repr

/-- Per-chip state beside the chip's pages. -/
structure ChipSt where
  /-- the PCIe link is trained (R67) -/
  pcieUp : Bool := false
  /-- its PCIe endpoint and chip-global page have left reset (R410) -/
  released : Bool := false
  /-- the chip's core reset has been released (R410) -/
  coreUp : Bool := false
  /-- frequency the CK_DEAL change in progress goes to (R62) -/
  chgTarget : Nat := 600
  /-- packets in staging and the kitty, in order of arrival -/
  pkts : List CorePkt := []
  nextPkt : Nat := 0
  nextLink : Nat := 0
  /-- rotating grant pointers (slice × 64 + output) and accept pointers (slice × 64 + input) (R195) -/
  gptr : Assoc Nat := []
  aptr : Assoc Nat := []
  /-- requests promoted above class: slice × 4096 + input × 64 + output (R196) -/
  aged : List Nat := []
  circs : Assoc (Option Circ) := []
  mcgs : Assoc Mcg := []
  /-- CHIP_TIME of the latest THROTTLE per (source × 64 + seat) × 64 + output (R180) -/
  thrLast : Assoc Nat := []
  /-- multicast packets stalled on a full residue queue (R211) -/
  resWait : List Nat := []
  dump : DumpSt := {}
  deriving DecidableEq, Repr

/-! ### The Halvoren and the housekeeper (ch. 11–13) -/

/-- A part of a dump record that has arrived at the bridge: chip, epoch, XFER, offset in the record, bytes (R379). -/
structure DumpPart where
  chip : Nat
  epoch : Nat
  xfer : Nat
  off : Nat
  data : List Byte
  deriving DecidableEq, Repr

/-- A record in a dump ring: its SEQ and its bytes. -/
structure DumpRec where
  seq : Nat
  data : List Byte
  deriving DecidableEq, Repr

/-- The bridge and the Halvoren's dump rings, by SOURCE (0–4 chips, 7 Halvoren): parts arrived, records held, SEQ up to
which each manager (source × 2 + manager) has acknowledged, SEQ and digest of the latest delivered record of each source
(5: CAL); the latest delivered record of each chip; next SEQ of CAL and SEAL; what the latest closed calibration window
ended with: its end, and of each chip BOOT, raw energy and ENERGY_UJ of the seats (R379–R386). -/
structure BridgeSt where
  parts : List DumpPart := []
  rings : Assoc (List DumpRec) := []
  acked : Assoc Nat := []
  lastSeq : Assoc Nat := []
  lastDig : Assoc (List Byte) := []
  latest : Assoc (List Byte) := []
  calSeq : Nat := 0
  sealSeq : Nat := 0
  calT : Nat := 0
  calBase : Assoc (Nat × Nat × List Nat) := []
  deriving DecidableEq, Repr

/-- A message of the tray before its header is formed (R439): manager, TYPE, body, NEED_ACK; for a response the STATUS and
the SEQ answered. -/
structure ZSend where
  mgr : Nat
  type : Nat
  body : List Byte
  needAck : Bool := false
  rsp : Option (Nat × Nat) := none
  deriving DecidableEq, Repr

/-- A message sent that awaits its response: manager, SEQ, header, body, resends so far (R438). -/
structure ZWait where
  mgr : Nat
  seq : Nat
  hdr : BitVec 256
  body : List Byte
  resends : Nat := 0
  deriving DecidableEq, Repr

/-- A request answered: manager, SEQ, and the response (R438). -/
structure ZDone where
  mgr : Nat
  seq : Nat
  rsp : ZSend
  deriving DecidableEq, Repr

/-- A bundle being staged (R440, R457). -/
structure Staging where
  len : Nat
  hash : List Byte
  pieces : List (Nat × List Byte) := []
  verified : Option BundleInfo := none
  deriving DecidableEq, Repr

/-- A wiring test in progress (R452): ports of chips 0–4, DURATION_S, PHASES, FOM_MIN, whether LOOP is in progress, the
ports whose IDLE failed, the partner of each port before the test, results so far (chip × 64 + port, RESULT). -/
structure WireTest where
  ports : List Nat
  duration : Nat
  phases : Nat
  fomMin : Nat
  loop : Bool := false
  idleFail : List Nat := []
  before : List (Nat × Option IdentInfo) := []
  results : List (Nat × Nat) := []
  deriving DecidableEq, Repr

/-- The Halvoren's firmware beside its pages. -/
structure HalSt where
  /-- firmware runs (R411); in its absence nothing of this record acts -/
  up : Bool := false
  /-- both images failed: the housekeeper alone runs (R458) -/
  failed : Bool := false
  /-- the KEY_EXCHANGE of a manager's session has succeeded (R444) -/
  kexA : Bool := false
  kexB : Bool := false
  /-- rack identity and cabled bitmaps as the managers gave them (R430) -/
  rack : Option Nat := none
  cabled : List Nat := []
  /-- the role the managers gave, if they have (R431), and whether ENABLE waits for the ports -/
  role : Option Nat := none
  waitPorts : Bool := false
  /-- 30 s have passed since the identity without lock (R436) -/
  timeWaited : Bool := false
  /-- the time master may no longer step (R436) -/
  noStep : Bool := false
  /-- offset of the grandmaster from the master, in ns, being removed at 100 ppm, and the fraction of a slew step passed
  (R435) -/
  offset : Int := 0
  slewTick : Nat := 0
  zseqA : Nat := 0
  zseqB : Nat := 0
  waits : List ZWait := []
  answered : List ZDone := []
  /-- FAULT messages kept while headless (R433) -/
  held : List ZSend := []
  staging : Option Staging := none
  wire : Option WireTest := none
  /-- Redfish sessions, accounts and subscriptions (R443), and the next identity given -/
  sessions : List Nat := []
  accounts : List Nat := []
  subs : List Nat := []
  nextRf : Nat := 0
  /-- the console has SERVICE access (R462) -/
  service : Bool := false
  bridge : BridgeSt := {}
  deriving DecidableEq, Repr

/-- The label (R415–R417): an update waits, whether it may start at once, the content drawn last and whether the end bars
stand, the content, code and generation being drawn. -/
structure LabelSt where
  want : Bool := false
  shown : List Byte := []
  bars : Bool := false
  drawing : List Byte := []
  code : Nat := 0
  deriving DecidableEq, Repr

/-- The housekeeper beside its pages. -/
structure HkSt where
  /-- the always-on island has power and the housekeeper runs -/
  aon : Bool := false
  /-- the input stage has tripped on overvoltage since the last start (R392) -/
  ovSeen : Bool := false
  /-- conditions that power the chips down: bit 0 supply temperature, 1 flow, 2 leak, 3 inlet air (R404, R406) -/
  envOff : Nat := 0
  /-- consecutive 100 ms reads with supply above 45 °C, flow below 8 and below 4 L/min, inlet above 45 and above 40 °C,
  airflow below 150 m³/h at full fan speed -/
  supHot : Nat := 0
  flow8 : Nat := 0
  flow4 : Nat := 0
  in45 : Nat := 0
  in40 : Nat := 0
  airLow : Nat := 0
  /-- alarms in force: bit 0 COOL_WARN, 1 flow, 2 LEAK, 3 PUMP, 4 FAN, 5 AIR_WARN, 6 AIR_HOT, 7 AIRFLOW -/
  alarms : Nat := 0
  /-- pump p runs at full speed -/
  pumpsFull : Bool := false
  /-- power-good misses of a chip's power-up in progress (R409) -/
  pgMiss : Assoc Nat := []
  /-- a rail failure has occurred in the calibration window (R388) -/
  degraded : Bool := false
  label : LabelSt := {}
  /-- console receive FIFO (R422) -/
  fifo : List Byte := []
  /-- the clock that runs while the always-on island has power, in ns (RTC, R454) -/
  rtc : Nat := 0
  /-- last-gasp ring, oldest first: entry, and whether it counts as logged (R455) -/
  ring : List (BitVec 512 × Bool) := []
  deriving DecidableEq, Repr

/-- What FRAM, the housekeeper's flash and the fuses keep through every reset and power loss (R412, R454–R458). -/
structure FramSt where
  /-- event log, oldest first -/
  log : List (BitVec 512) := []
  nextSeq : Nat := 0
  lost : Bool := false
  gasp : List (BitVec 512) := []
  /-- the BOOT counter of R380, the Halvoren's boot count (R454) -/
  boot : Nat := 0
  halBoot : Nat := 0
  /-- dirty marker of the label: generation and code (R416), and the last generation used -/
  dirty : Option (Nat × Nat) := none
  labelGen : Nat := 0
  /-- image selected (0 A, 1 B), whether it boots in trial, whether the next HALVOREN reset returns to the other image -/
  image : Nat := 0
  trial : Bool := false
  fallback : Bool := false
  /-- the bundle written to the image not selected -/
  other : Option BundleInfo := none
  /-- security versions fused in the Halvoren, components 0–3 (R457) -/
  svn : List Nat := [0, 0, 0, 0]
  deriving DecidableEq, Repr

/-- An entry of the AER header log: chip, page, offset, width, write, Unsupported Request or Completer Abort (R76,
R68). -/
structure AerEntry where
  chip : Nat
  page : Nat
  off : Nat
  width : Nat
  isWrite : Bool
  abort : Bool
  deriving DecidableEq, Repr

/-- Completion status of a read (R68, R76). -/
inductive Cpl where
  | ok | unsupported | abort
  deriving DecidableEq, Repr

/-- What leaves the tray or one of its blocks towards something outside the model: the model's own record, newest
first. -/
inductive Out where
  /-- completion of a register or BAR2 read (space, status, value) -/
  | completion (sp : Nat) (st : Cpl) (v : Word)
  /-- ERR_NONFATAL to the root complex -/
  | errNonfatal (c : Nat)
  /-- bus-error exception in the issuing Halvoren core -/
  | busError (page off : Nat)
  /-- MSI-X message: chip, vector, address, data -/
  | msi (c vec addr data : Nat)
  /-- a flit on a fabric port -/
  | flit (c e : Nat) (f : Flit)
  /-- a maintenance frame on a fabric port -/
  | maint (c e : Nat) (f : MFrame)
  /-- control word of the next training frame of a lane -/
  | train (c n : Nat) (cw : Word)
  /-- idle flits of a TX PLL recalibration (R131) -/
  | recalIdle (c e : Nat)
  /-- a software two-wire transaction of a bay: PORT_CMIS_CMD and PORT_CMIS_DATA -/
  | cmis (b : Nat) (cmd data : Word)
  /-- a laser switched to its group's spare: bay, transmit lane -/
  | spare (b lane : Nat)
  /-- a ring packet from a node: node, direction × 2 + class -/
  | ring (node dir : Nat) (p : RingPkt)
  /-- a ZMP message to a manager (R439) -/
  | zmp (m : Nat) (hdr : BitVec 256) (body : List Byte)
  /-- a Redfish response: HTTP status -/
  | redfish (status : Nat) (body : List Nat)
  /-- text of a zhctl command on the console: the numbers it shows -/
  | console (accepted : Bool) (shown : List Nat)
  /-- a cartridge put into LowPwr, or its CDB firmware commands started -/
  | lowPwr (b : Nat)
  | cdb (b : Nat)
  deriving DecidableEq, Repr

/-- A watch between its carry and its capture (R373): events that overflowed beyond the carry, until WATCH_OVERFLOW;
then the events counted since, until WATCH_CAPTURE. -/
structure WatchSt where
  carry : Option Nat := none
  due : Option Nat := none
  deriving DecidableEq, Repr

/-- The tray: every block of it. -/
structure Tray where
  /-- the register file: what an unlisted key reads as is `regReset` -/
  regs : Assoc Word := []
  chips : Assoc ChipSt := []
  ports : Assoc PortSt := []
  lanes : Assoc LaneSt := []
  bays : Assoc BaySt := []
  tables : Assoc TableSt := []
  dealers : Assoc DealerSt := []
  /-- tensor SRAM and HBM of chip c: the byte of PA p at c × 2^40 + p; an unlisted byte reads 0 (R412, log 5) -/
  mem : Assoc Byte := []
  nodes : Assoc NodeSt := []
  watches : Assoc WatchSt := []
  /-- BAR2 dwords of chip c at c × 4096 + offset (R480); vector-control words reset to 1 -/
  bar2 : Assoc (BitVec 32) := []
  /-- MSI-X messages requested and not formed: chip × 16 + vector (R100) -/
  msiReq : List Nat := []
  aer : List AerEntry := []
  /-- pages whose measured inputs have changed since their last derivation (R89) -/
  dirty : List Nat := []
  /-- the time master's time in ns -/
  master : Nat := 0
  /-- event-log entries not yet written, oldest first (R455) -/
  logq : List LogEntry := []
  /-- what has left the tray, oldest first: completions, messages, flits, frames (R75, R100, R439) -/
  out : List Out := []
  hal : HalSt := {}
  hk : HkSt := {}
  fram : FramSt := {}
  /-- messages of the tray whose headers are formed at the end of the command (R439) -/
  zq : List ZSend := []
  /-- activity counts (R384): (chip × 64 + seat) × 32 + class × 2, + 1 the count weighted with K -/
  act : Assoc Nat := []
  /-- a HALVOREN or wider reset has taken place in this command: the leases end (R412) -/
  wipe : Bool := false
  /-- the model's own counter of free values drawn (log 1) -/
  freeCtr : Nat := 0
  deriving DecidableEq, Repr

/-- A manager's lease on the tray (R427). -/
inductive LeaseMode where
  | none | secondary | primary
  deriving DecidableEq, Repr

/-- The leases of both managers, the highest term seen, the term of the current primary (R427). -/
structure Leases where
  a : LeaseMode := .none
  b : LeaseMode := .none
  term : Nat := 0
  primTerm : Nat := 0
  deriving DecidableEq, Repr

/-- The state: the tray, the leases, and the commands that wait, first in, first out. -/
structure State where
  tray : Tray := {}
  leases : Leases := {}
  pending : List Instr := []
  deriving DecidableEq, Repr

/-- The tray before POWER_ON_RESET: every register, memory and record at its reset value, nothing powered, nothing commanded
(R412, log 31). -/
def State.reset : State := {}

end Sys2Proof.Machine
end

