-- ==== Sys2Proof/Machine/Ops.lean ====
section
/-! DEFINITION. The named operations over registers and records: one place for every read and write of a register, the
raising of an interrupt bit (R98–R100), first-error capture (R101, R479), the event log queue, outputs, free values. -/
namespace Sys2Proof.Machine

/-! ### Registers -/

/-- The stored value of the register at `off` of page `pg`. -/
def Tray.rd (t : Tray) (pg off : Nat) : Word := Assoc.get regReset t.regs (regKey pg off)

/-- The stored register becomes `v`. -/
def Tray.wr (t : Tray) (pg off : Nat) (v : Word) : Tray :=
  { t with regs := Assoc.set regReset t.regs (regKey pg off) v }

/-- A field of a stored register. -/
def Tray.gf (t : Tray) (pg : Nat) (f : Fld) : Nat := f.get (t.rd pg f.off)

/-- The field becomes `v` modulo its width. -/
def Tray.sf (t : Tray) (pg : Nat) (f : Fld) (v : Nat) : Tray := t.wr pg f.off (f.put (t.rd pg f.off) v)

/-- The field is 1. -/
def Tray.is (t : Tray) (pg : Nat) (f : Fld) : Bool := t.gf pg f == 1

/-- A flag field. -/
def Tray.sb (t : Tray) (pg : Nat) (f : Fld) (b : Bool) : Tray := t.sf pg f (b2n b)

/-- A counter that wraps at its width. -/
def Tray.cnt (t : Tray) (pg : Nat) (f : Fld) (n : Nat) : Tray := t.sf pg f (t.gf pg f + n)

/-- A counter that saturates at its width. -/
def Tray.sat (t : Tray) (pg : Nat) (f : Fld) (n : Nat) : Tray := t.sf pg f (satTo (2 ^ f.w - 1) (t.gf pg f + n))

/-- A watermark: the highest value seen. -/
def Tray.wmMax (t : Tray) (pg : Nat) (f : Fld) (v : Nat) : Tray := if t.gf pg f < v then t.sf pg f v else t

/-- A low watermark. -/
def Tray.wmMin (t : Tray) (pg : Nat) (f : Fld) (v : Nat) : Tray := if v < t.gf pg f then t.sf pg f v else t

/-- The field `f` of the shadow copy. -/
def Fld.shadow (f : Fld) : Fld := f.at 0x800

/-- Both copies of a staged field (R87). -/
def Tray.sfBoth (t : Tray) (pg : Nat) (f : Fld) (v : Nat) : Tray := (t.sf pg f v).sf pg f.shadow v

/-! ### Records -/

def Tray.chip (t : Tray) (c : Nat) : ChipSt := Assoc.get (fun _ => {}) t.chips c
def Tray.setChip (t : Tray) (c : Nat) (x : ChipSt) : Tray := { t with chips := Assoc.set (fun _ => {}) t.chips c x }
def Tray.modChip (t : Tray) (c : Nat) (f : ChipSt → ChipSt) : Tray := t.setChip c (f (t.chip c))

/-- Port `e` of chip `c`. -/
def Tray.port (t : Tray) (c e : Nat) : PortSt := Assoc.get (fun _ => {}) t.ports (c * 64 + e)
def Tray.setPort (t : Tray) (c e : Nat) (x : PortSt) : Tray :=
  { t with ports := Assoc.set (fun _ => {}) t.ports (c * 64 + e) x }
def Tray.modPort (t : Tray) (c e : Nat) (f : PortSt → PortSt) : Tray := t.setPort c e (f (t.port c e))

/-- Lane `n` of chip `c`. -/
def Tray.lane (t : Tray) (c n : Nat) : LaneSt := Assoc.get (fun _ => {}) t.lanes (c * 256 + n)
def Tray.setLane (t : Tray) (c n : Nat) (x : LaneSt) : Tray :=
  { t with lanes := Assoc.set (fun _ => {}) t.lanes (c * 256 + n) x }
def Tray.modLane (t : Tray) (c n : Nat) (f : LaneSt → LaneSt) : Tray := t.setLane c n (f (t.lane c n))

def Tray.bay (t : Tray) (b : Nat) : BaySt := Assoc.get (fun _ => {}) t.bays b
def Tray.modBay (t : Tray) (b : Nat) (f : BaySt → BaySt) : Tray :=
  { t with bays := Assoc.set (fun _ => {}) t.bays b (f (t.bay b)) }

/-- Table `tb` of chip `c`. -/
def Tray.table (t : Tray) (c tb : Nat) : TableSt := Assoc.get (fun _ => {}) t.tables (c * 256 + tb)
def Tray.setTable (t : Tray) (c tb : Nat) (x : TableSt) : Tray :=
  { t with tables := Assoc.set (fun _ => {}) t.tables (c * 256 + tb) x }
def Tray.modTable (t : Tray) (c tb : Nat) (f : TableSt → TableSt) : Tray := t.setTable c tb (f (t.table c tb))

/-- The Dealer of chip `c`. -/
def Tray.dealer (t : Tray) (c : Nat) : DealerSt := Assoc.get (fun _ => {}) t.dealers c
def Tray.modDealer (t : Tray) (c : Nat) (f : DealerSt → DealerSt) : Tray :=
  { t with dealers := Assoc.set (fun _ => {}) t.dealers c (f (t.dealer c)) }

def Tray.node (t : Tray) (n : Nat) : NodeSt := Assoc.get (fun _ => {}) t.nodes n
def Tray.modNode (t : Tray) (n : Nat) (f : NodeSt → NodeSt) : Tray :=
  { t with nodes := Assoc.set (fun _ => {}) t.nodes n (f (t.node n)) }

/-- Something leaves the tray. -/
def Tray.emit (t : Tray) (o : Out) : Tray := { t with out := o :: t.out }

/-- A free value of `w` bits: an opaque constant applied to the counter, which advances (log 1). -/
def Tray.free (t : Tray) (w : Nat) : Nat × Tray :=
  ((Config.freeValue t.freeCtr).toNat % 2 ^ w, { t with freeCtr := t.freeCtr + 1 })

/-- Apply a function for each element of a list, in order. -/
def Tray.each {α : Type} (t : Tray) (l : List α) (f : Tray → α → Tray) : Tray := l.foldl f t

/-! ### Time and the event log -/

/-- Fabric time of a page's space: CHIP_TIME of a chip, the time master for the Halvoren (R101). -/
def Tray.timeOf (t : Tray) (sp : Nat) : Nat :=
  if sp < 5 then (t.rd (chipPg sp 0) A.CHIP_TIME).toNat else t.master

/-- Whether the page belongs to a chip. -/
def isChipPg (pg : Nat) : Bool := decide (pg < 5 * 4096)

/-- An event-log entry comes into being; it is written by LOG_ENTRY_WRITE (R455). -/
def Tray.logEv (t : Tray) (ev : Ev) (src : Nat) (data : List Nat) : Tray :=
  { t with logq := t.logq ++ [⟨ev, src, t.master, data, t.hk.rtc / 10 ^ 9, t.fram.halBoot⟩] }

/-- An entry whose SOURCE is chip `c`. -/
def Tray.logChip (t : Tray) (ev : Ev) (c : Nat) (data : List Nat) : Tray := t.logEv ev (2 + c) data

/-! ### Interrupts (R98–R100) -/

/-- Every interrupt bit the page defines: bits 0 to 3 and the block's (R98). -/
def irqDefined (pg : Nat) : Nat := 0xF + irqMask pg

/-- The page's PG_IRQ_STS, RAW AND EN (R98). -/
def Tray.irqSts (t : Tray) (pg : Nat) : Word := t.rd pg A.PG_IRQ_RAW &&& t.rd pg A.PG_IRQ_EN

/-- MSI-X vector of a chip page (R99). -/
def vecOf (pg : Nat) : Nat := pg % 4096 / 64

/-- An MSI-X message is requested where a bit of PG_IRQ_STS went from 0 to 1 (R100). -/
def Tray.msiIfRose (t : Tray) (pg : Nat) (before : Word) : Tray :=
  let k := pg / 4096 * 16 + vecOf pg
  if isChipPg pg ∧ t.irqSts pg &&& ~~~before ≠ 0 ∧ ¬ t.msiReq.contains k then { t with msiReq := t.msiReq ++ [k] }
  else t

/-- The event of interrupt bit `b` of the page occurs: the raw bit is set whatever PG_IRQ_EN holds (R98). -/
def Tray.raise (t : Tray) (pg b : Nat) : Tray :=
  if bitOf (irqDefined pg) b then
    (t.wr pg A.PG_IRQ_RAW (t.rd pg A.PG_IRQ_RAW ||| (1 <<< b))).msiIfRose pg (t.irqSts pg)
  else t

/-! ### First-error capture (R101, R102, R479) -/

/-- Error codes common to every page (R102). -/
def E.WIDTH : Nat := 1
def E.ALIGN : Nat := 2
def E.UNMAPPED : Nat := 3
def E.ACTIVE_WRITE : Nat := 4
def E.RESERVED_ENC : Nat := 5
def E.LOCKED_FIELD : Nat := 6
def E.SHADOW_LOCKED : Nat := 7
def E.COMMIT_INVALID : Nat := 8
def E.COMMIT_TIMEOUT : Nat := 9
def E.COMMIT_UNAVAILABLE : Nat := 10
def E.DOMAIN_DOWN : Nat := 11
def E.CROSS_PARITY : Nat := 12
def E.NO_FUNCTION : Nat := 13

/-- Where an error comes from (R479): the access's SOURCE, offset, and whether it was a write. -/
structure Origin where
  src : Nat
  off : Nat
  isWrite : Bool
  deriving DecidableEq, Repr

/-- A write to `off` with SOURCE `src`. -/
def Origin.wr (src off : Nat) : Origin := ⟨src, off, true⟩
/-- A COMMIT refusal. -/
def Origin.commit (off : Nat) : Origin := ⟨2, off, false⟩
/-- An error that neither an access nor a COMMIT causes. -/
def Origin.hw : Origin := ⟨3, 0, false⟩

/-- The page detects an error: the first is held, later ones count in MORE (R101). -/
def Tray.recErr (t : Tray) (pg code : Nat) (o : Origin) : Tray :=
  if t.is pg F.PG_ERR_CAPT_VALID then t.sat pg F.PG_ERR_CAPT_MORE 1
  else
    let v := code + 2 ^ 8 * (o.off % 4096) + 2 ^ 20 * o.src + 2 ^ 22 * b2n o.isWrite
      + 2 ^ 24 * (t.timeOf (pg / 4096) % 2 ^ 32) + 2 ^ 63
    (t.wr pg A.PG_ERR_CAPT (BitVec.ofNat 64 v)).raise pg 3

/-! ### The chip as seen from outside -/

/-- The page of the Halvoren's housekeeper. -/
def hkPg : Nat := halPg 0x000
/-- Chip-global page of chip `c`. -/
def chip0 (c : Nat) : Nat := chipPg c 0

/-- The chip's rails are on (HK_STS.CHIP_ON). -/
def Tray.chipOn (t : Tray) (c : Nat) : Bool := bitOf (t.gf hkPg F.HK_STS_CHIP_ON) c

/-- A request to the space reaches its registers: the Halvoren's own pages always, a chip's over its PCIe link (R67). -/
def Tray.reaches (t : Tray) (sp : Nat) : Bool :=
  if sp < 5 then (t.chip sp).pcieUp && t.is (chip0 sp) F.CHIP_CLK_STS_PCI_LOCK else true

/-- The registers of the page lie in a domain whose PLL is locked (R44, R68). The registers of page 0x000 that are
held in CK_PCI are always reachable. -/
def Tray.domainUp (t : Tray) (pg off : Nat) : Bool :=
  let c0 := chip0 (pg / 4096)
  match pageKind pg with
  | some .chip0 =>
    if off = A.CHIP_CLK_STS ∨ off = A.CHIP_TXPLL_LOCK ∨ off = A.CHIP_DEAL_CLK ∨ (A.CHIP_IRQ_SUM ≤ off ∧ off < 0x280)
    then true else t.is c0 F.CHIP_CLK_STS_CORE_LOCK
  | some .lane => bitOf (t.gf c0 F.CHIP_TXPLL_LOCK_LOCK) ((pg % 4096 - 0x100) / 4)
  | some .dlr | some .dlrJob | some .dlrIn | some .lay | some .xlt => t.is c0 F.CHIP_CLK_STS_DEAL_LOCK
  | some .hbmCtl | some .hbmPhy =>
    if pg % 4096 < 0x322 then t.is c0 F.CHIP_CLK_STS_HBM0_LOCK else t.is c0 F.CHIP_CLK_STS_HBM1_LOCK
  | some .hdrOnly =>
    if isChipPg pg then
      (if 0x300 < pg % 4096 ∧ pg % 4096 < 0x310 then t.is c0 F.CHIP_CLK_STS_DEAL_LOCK
       else t.is c0 F.CHIP_CLK_STS_CORE_LOCK)
    else true
  | _ => if isChipPg pg then t.is c0 F.CHIP_CLK_STS_CORE_LOCK else true

/-- The page's block accepts new work (R85). -/
def Tray.enabled (t : Tray) (pg : Nat) : Bool := t.is pg F.PG_CTL_ENABLE

/-- The operation `f` of the page's block starts only where the block accepts new work (R85). -/
def Tray.ifOn (t : Tray) (pg : Nat) (f : Tray → Tray) : Tray := if t.enabled pg then f t else t

/-- Page 0x000 of the chip is enabled and its core released: the chip carries traffic (R109, R410). -/
def Tray.chipRuns (t : Tray) (c : Nat) : Bool :=
  (t.chip c).coreUp && t.enabled (chip0 c) && t.is (chip0 c) F.CHIP_CLK_STS_CORE_LOCK

/-- The plane role of a chip (R26). -/
def Tray.role (t : Tray) (c : Nat) : Nat := t.gf (chip0 c) F.CHIP_TOPO_ROLE

/-- The service level of the tray: FW_STS.SERVICE, 0 FULL, 1 REDUCED, 2 REFUSED. -/
def Tray.service (t : Tray) : Nat := t.gf (halPg 0x050) F.FW_STS_SERVICE

/-! ### Seat counters (R370–R373) -/

/-- Counter indices of R371. -/
def N.RX_BYTES : Nat := 0
def N.TX_BYTES : Nat := 1
def N.RX_PKTS : Nat := 2
def N.TX_PKTS : Nat := 3
def N.RED_BYTES : Nat := 4
def N.COLL_OPS : Nat := 5
def N.SNAP_OPS : Nat := 6
def N.DLR_INSTR : Nat := 7
def N.DLR_MOPS : Nat := 8
def N.HBM_BYTES : Nat := 9
def N.DECK_BYTES : Nat := 10
def N.THROTTLES : Nat := 11
def N.ENERGY_UJ : Nat := 12
def N.ENERGY_RAW : Nat := 13
def N.SEAT_REJECT : Nat := 14
def N.HDRM_OVF : Nat := 15
def N.STORM : Nat := 16
def N.PUSH_PKTS : Nat := 17
def N.PUSH_CELLS : Nat := 18
def N.DOWN_DROP : Nat := 19
def N.STALE : Nat := 20
def N.CROSS_PARITY : Nat := 21
def N.RED_STALL : Nat := 22
def N.REPLAY_FULL : Nat := 23
def N.BREAK_LIT : Nat := 24
def N.TBL_DISCARD : Nat := 25
def N.COLL_WAIT : Nat := 26
def N.DATA_FAIL : Nat := 27
def N.LAYOUT_FAULT : Nat := 28
def N.JOB_FAIL : Nat := 29
def N.IN_WAIT : Nat := 30

/-- Page of the watches of chip `c`. -/
def watchPg (c : Nat) : Nat := chipPg c 0x341

def Tray.watch (t : Tray) (c i : Nat) : WatchSt := Assoc.get (fun _ => {}) t.watches (c * 8 + i)
def Tray.setWatch (t : Tray) (c i : Nat) (w : WatchSt) : Tray :=
  { t with watches := Assoc.set (fun _ => {}) t.watches (c * 8 + i) w }

/-- Watch `i` counts `n` events of counter `k` of seat `m` (R373); a carry out of bit 47 waits for WATCH_OVERFLOW. -/
def Tray.watchCount (t : Tray) (c m k n i : Nat) : Tray :=
  let pg := watchPg c
  let d := 0x20 * i
  if t.enabled pg ∧ t.is pg (F.CNT_WATCH_CFG_EN.at d) ∧ t.gf pg (F.CNT_WATCH_CFG_EVENT.at d) = k
      ∧ t.gf pg (F.CNT_WATCH_CFG_SEAT.at d) = m then
    let v := t.gf pg (F.CNT_WATCH_CNT_COUNT.at d) + n
    let w := t.watch c i
    let w1 := { w with due := w.due.map (· + n) }
    let w2 := if 2 ^ 48 ≤ v then { w1 with carry := some (v % 2 ^ 48) } else w1
    (t.sf pg (F.CNT_WATCH_CNT_COUNT.at d) v).setWatch c i w2
  else t

/-- Activity classes of R384. -/
def En.PORT : Nat := 0
def En.XBAR : Nat := 1
def En.KITTY : Nat := 2
def En.RED : Nat := 3
def En.SNAP : Nat := 4
def En.SRAM : Nat := 5
def En.MIX4 : Nat := 6
def En.MIX8 : Nat := 7
def En.MIX16 : Nat := 8
def En.MIX32 : Nat := 9
def En.VEC : Nat := 10
def En.HBM : Nat := 11
def En.DECK : Nat := 12

/-- `n` units of activity class `i` for seat `m` of chip `c`: counted, and counted weighted with the K in force (R384,
R385). -/
def Tray.energy (t : Tray) (c m i n : Nat) : Tray :=
  if n = 0 then t
  else
    let k := (c * 64 + m) * 32 + 2 * i
    let g := fun (a : Assoc Nat) (k n : Nat) => Assoc.set (fun _ => 0) a k (Assoc.get (fun _ => 0) a k + n)
    { t with act := g (g t.act k n) (k + 1) (n * (t.chip c).dump.kForce) }

/-- The activity that goes with a counter: port bytes, HBM bursts, deck bytes (R384). -/
def Tray.counterEnergy (t : Tray) (c m k n : Nat) : Tray :=
  if k = N.RX_BYTES ∨ k = N.TX_BYTES then t.energy c m En.PORT n
  else if k = N.HBM_BYTES then t.energy c m En.HBM (ceilDiv n 32)
  else if k = N.DECK_BYTES then t.energy c m En.DECK n
  else t

/-- `n` events of counter `k` are charged to seat `m` of chip `c` (R370–R372), and seen by the watches. -/
def Tray.charge (t : Tray) (c m k n : Nat) : Tray :=
  if n = 0 then t
  else
    let off := A.SEAT_CNT + 8 * k
    ((t.wr (seatPg c m) off (t.rd (seatPg c m) off + BitVec.ofNat 64 n)).each (List.range 8)
      (fun t i => t.watchCount c m k n i)).counterEnergy c m k n

/-- A measured input of the page has changed (R89). -/
def Tray.markDirty (t : Tray) (pg : Nat) : Tray := if t.dirty.contains pg then t else { t with dirty := t.dirty ++ [pg] }

end Sys2Proof.Machine
end

