-- ==== Sys2Proof/Machine/Formats.lean ====
section
/-! DEFINITION. Structures on the wire and their check codes: CRC-16 (R478), CRC-32C (R156), the header flit (R154), the
maintenance frame (R117), the training control word (R120), the ring packet (R218). -/
namespace Sys2Proof.Machine

/-! ### Check codes -/

/-- One bit of a CRC-16, most significant bit first (R478). -/
def crc16Bit (c : Nat) (b : Bool) : Nat :=
  let x := c * 2 % 65536
  if bitOf c 15 != b then x ^^^ 0x1021 else x

/-- One byte of a CRC-16. -/
def crc16Byte (c : Nat) (b : Byte) : Nat :=
  [7, 6, 5, 4, 3, 2, 1, 0].foldl (fun a i => crc16Bit a (bitOf b.toNat i)) c

/-- CRC-16 of R478. -/
def crc16 (l : List Byte) : Nat := l.foldl crc16Byte 0xFFFF

/-- One step of the reflected CRC-32C register. -/
def crc32Step (c : Nat) : Nat := if c % 2 = 1 then (c / 2) ^^^ 0x82F63B78 else c / 2

/-- One byte of a CRC-32C. -/
def crc32Byte (c : Nat) (b : Byte) : Nat := [0, 1, 2, 3, 4, 5, 6, 7].foldl (fun a _ => crc32Step a) (c ^^^ b.toNat)

/-- CRC-32C of R156. -/
def crc32c (l : List Byte) : Nat := (l.foldl crc32Byte 0xFFFFFFFF) ^^^ 0xFFFFFFFF

/-- The bytes of a structure of `n` bytes held as a number (R8). -/
def bytesOf {w : Nat} (n : Nat) (x : BitVec w) : List Byte := leBytes n x.toNat

/-- `l` cut into pieces of `n` elements; `fuel` pieces at most. -/
def chunksOf {α : Type} (n : Nat) : Nat → List α → List (List α)
  | 0, _ => []
  | _, [] => []
  | fuel + 1, l => l.take n :: chunksOf n fuel (l.drop n)

/-- `l` brought to length `n`: cut, or padded with `d`. -/
def fitTo {α : Type} (d : α) (n : Nat) (l : List α) : List α := l.take n ++ List.replicate (n - l.length) d

/-- `x` with bits `lo` to `lo + w - 1` equal to `v`. -/
def putField {n : Nat} (x : BitVec n) (lo w v : Nat) : BitVec n :=
  (x &&& ~~~(BitVec.ofNat n (2 ^ w - 1) <<< lo)) ||| (BitVec.ofNat n (v % 2 ^ w) <<< lo)

/-! ### The header flit (R154, R155) -/

def hPtype (h : Flit) : Nat := fieldOf h 0 4
def hCh (h : Flit) : Nat := fieldOf h 4 3
def hFence (h : Flit) : Bool := fieldOf h 7 1 == 1
def hLast (h : Flit) : Bool := fieldOf h 8 1 == 1
def hOrig (h : Flit) : Bool := fieldOf h 10 1 == 1
def hResent (h : Flit) : Bool := fieldOf h 11 1 == 1
def hSrc (h : Flit) : Nat := fieldOf h 16 6
def hDst (h : Flit) : Nat := fieldOf h 24 12
def hDstKind (h : Flit) : Nat := fieldOf h 36 2
def hSeat (h : Flit) : Nat := fieldOf h 40 6
def hLen (h : Flit) : Nat := fieldOf h 48 13
def hSeq (h : Flit) : Nat := fieldOf h 64 24
def hEpoch (h : Flit) : Nat := fieldOf h 88 16
def hTbl (h : Flit) : Nat := fieldOf h 104 8
def hTag (h : Flit) : Nat := fieldOf h 112 14
def hAddr (h : Flit) : Nat := fieldOf h 128 64
def hArg (h : Flit) : Nat := fieldOf h 192 64
def hE2e (h : Flit) : Nat := fieldOf h 448 32
def hHdrCrc (h : Flit) : Nat := fieldOf h 496 16

/-- Packet types (R155). -/
def P.IDLE : Nat := 0
def P.DATA : Nat := 1
def P.SNAP : Nat := 2
def P.ACK : Nat := 3
def P.NAK : Nat := 4
def P.CMD : Nat := 5
def P.CONTRIB : Nat := 6
def P.RESULT : Nat := 7
def P.CPL : Nat := 8
def P.THROTTLE : Nat := 9
def P.RESUME : Nat := 10
def P.DEALER_IN : Nat := 11

/-- Traffic class of a channel (R158). -/
def classOf (ch : Nat) : Nat := if ch = 0 then 0 else if ch ≤ 2 then 1 else if ch ≤ 4 then 2 else 3

/-- HDR_CRC passes: over bytes 0 to 61 (R156). -/
def hdrOk (h : Flit) : Bool := crc16 (bytesOf 62 h) == hHdrCrc h

/-- Payload flits of a packet of LEN bytes. -/
def flitsOf (len : Nat) : Nat := ceilDiv len 64

/-- Cells of 256 B a packet occupies (R189). -/
def cellsOf (len : Nat) : Nat := ceilDiv (64 + len) 256

/-- The LEN payload bytes of a packet. -/
def pBytes (p : Pkt) : List Byte := ((p.pay.flatMap (fun f => bytesOf 64 f)).take (hLen p.hdr))

/-- E2E_CRC of a header and payload: over header bytes 0 to 55 and the LEN payload bytes (R156). -/
def e2eOf (h : Flit) (pay : List Byte) : Nat := crc32c (bytesOf 56 h ++ pay)

/-- E2E_CRC passes. -/
def pE2eOk (p : Pkt) : Bool := e2eOf p.hdr (pBytes p) == hE2e p.hdr

/-- Payload bytes as flits, the last padded with zero bytes (R154). -/
def flitsFrom (l : List Byte) : List Flit :=
  (chunksOf 64 (l.length + 1) l).map (fun c => BitVec.ofNat 512 (leVal c))

/-- The parts of a header the tray fills in when it originates a packet. -/
structure HdrParts where
  ptype : Nat
  ch : Nat
  src : Nat
  dst : Nat
  dstKind : Nat := 0
  seat : Nat := 0
  len : Nat := 0
  epoch : Nat := 0
  tbl : Nat := 0
  tag : Nat := 0
  addr : Nat := 0
  arg : Nat := 0
  last : Bool := false
  deriving DecidableEq, Repr

/-- Header flit of an originated packet, without CRCs (R154, R155: ORIG = 1). -/
def mkHdr (h : HdrParts) : Flit :=
  BitVec.ofNat 512 (h.ptype % 16 + 2 ^ 4 * (h.ch % 8) + 2 ^ 8 * b2n h.last + 2 ^ 10 + 2 ^ 16 * (h.src % 64)
    + 2 ^ 24 * (h.dst % 4096) + 2 ^ 36 * (h.dstKind % 4) + 2 ^ 40 * (h.seat % 64) + 2 ^ 48 * (h.len % 8192)
    + 2 ^ 88 * (h.epoch % 65536) + 2 ^ 104 * (h.tbl % 256) + 2 ^ 112 * (h.tag % 16384)
    + 2 ^ 128 * (h.addr % 2 ^ 64) + 2 ^ 192 * (h.arg % 2 ^ 64))

/-- The header with both CRCs filled in (R156). -/
def sealHdr (h : Flit) (pay : List Byte) : Flit :=
  let h1 := putField h 448 32 (e2eOf h pay)
  putField h1 496 16 (crc16 (bytesOf 62 h1))

/-- The header with HDR_CRC alone (IDLE and RESUME carry E2E_CRC = 0, R156). -/
def sealHdrOnly (h : Flit) : Flit := putField h 496 16 (crc16 (bytesOf 62 h))

/-- An originated packet. -/
def mkPkt (h : HdrParts) (pay : List Byte) : Pkt :=
  let h' := mkHdr { h with len := pay.length }
  ⟨sealHdr h' pay, flitsFrom pay⟩

/-- The packet with SEQ and, on a resend, RESENT = 1 (R173, R174); its CRCs are computed anew. -/
def pWithSeq (p : Pkt) (seq : Nat) (resent : Bool) : Pkt :=
  let h := putField (putField p.hdr 64 24 seq) 11 1 (b2n resent)
  { p with hdr := sealHdr h (pBytes p) }

/-- The IDLE header (R151). -/
def idleHdr : Flit := sealHdrOnly 0

/-- The BREAK flit: 64 bytes 0xB7 (Terms of ch. 5). -/
def breakFlit : Flit := BitVec.ofNat 512 (leVal (List.replicate 64 0xB7))

/-- The RESUME header of the packet whose header is `h`, with `left` payload flits to come (R150). -/
def resumeHdr (h : Flit) (left : Nat) : Flit :=
  sealHdrOnly (BitVec.ofNat 512 (P.RESUME + 2 ^ 4 * hCh h + 2 ^ 16 * hSrc h + 2 ^ 24 * hDst h + 2 ^ 36 * hDstKind h
    + 2 ^ 40 * hSeat h + 2 ^ 64 * hSeq h + 2 ^ 192 * (left % 128)))

/-- The channels and DST_KINDs that R155 allows a type arriving from an endpoint, FENCE and DST included: true for a
packet that is no BAD_PKT by its header alone. -/
def hdrAllowed (h : Flit) : Bool :=
  let ch := hCh h
  let k := hDstKind h
  let dstOk := match k with | 0 => decide (hDst h < 64) | 1 => decide (hDst h < 1024) | 2 => hDst h == 0 | _ => false
  !hOrig h && dstOk && (hPtype h == P.DATA || !hFence h) && !(hFence h && k == 1) &&
  (match hPtype h with
   | 1 => decide (3 ≤ ch) && (k == 0 || k == 1)
   | 2 => ch == 0 && k == 2
   | 3 | 4 => ch == 2 && (k == 0 || k == 2)
   | 5 => ch == 1 && k == 2
   | 6 | 11 => decide (3 ≤ ch) && k == 2
   | 7 => decide (3 ≤ ch) && k == 0
   | 8 | 9 => ch == 2 && k == 0
   | _ => false)

/-- ARG of an ACK or NAK (R175). -/
def ackArg (ch seq reason : Nat) : Nat := ch % 8 + 2 ^ 8 * (seq % 2 ^ 24) + 2 ^ 32 * (reason % 256)

/-! ### Maintenance frames (R117) -/

/-- The frame's CRC passes. -/
def fOk (f : MFrame) : Bool := crc16 (bytesOf 30 f.body) == f.crc.toNat

/-- Byte `i` of a frame's body. -/
def fByte (f : MFrame) (i : Nat) : Nat := fieldOf f.body (8 * i) 8

/-- A number of `n` bytes from byte `i`. -/
def fNum (f : MFrame) (i n : Nat) : Nat := fieldOf f.body (8 * i) (8 * n)

/-- The frame of a body. -/
def mkFrame (body : Nat) : MFrame :=
  let b := BitVec.ofNat 240 body
  ⟨b, BitVec.ofNat 16 (crc16 (bytesOf 30 b))⟩

def M.IDENT : Nat := 1
def M.ECHO_REQ : Nat := 2
def M.ECHO_RSP : Nat := 3
def M.LOOP_REQ : Nat := 4
def M.LOOP_ACK : Nat := 5
def M.FLOOD_NOTE : Nat := 6
def M.RETRAIN_REQ : Nat := 7

/-- IDENT of the tray: RACK_ID, port number, position, KIND 1, its latencies, CAPS 3, PROTO 1, RESUME (R117, R118). -/
def identFrame (rack e slot chip : Nat) (resume : Bool) : MFrame :=
  mkFrame (M.IDENT + 2 ^ 16 * rack + 2 ^ 48 * e + 2 ^ 56 * (slot % 16 + 16 * (chip % 8) + 128)
    + 2 ^ 64 * 70 + 2 ^ 80 * 35 + 2 ^ 96 * 100 + 2 ^ 112 * 3 + 2 ^ 128 * 1 + 2 ^ 136 * b2n resume)

/-- What an IDENT frame declares. -/
def identOf (f : MFrame) : IdentInfo :=
  { rack := fNum f 2 4, ep := fByte f 6, slot := fByte f 7 % 16, chip := fByte f 7 / 16 % 8, kind := fByte f 7 / 128,
    rxLat := fNum f 8 2, txLat := fNum f 10 2, react := fNum f 12 2, caps := fNum f 14 2, proto := fByte f 16,
    resume := fByte f 17 % 2 == 1 }

/-- A frame of one type with a number from byte 2. -/
def noteFrame (ty v : Nat) : MFrame := mkFrame (ty + 2 ^ 16 * v)

/-! ### Ring packets (R218) -/

def rDst (p : RingPkt) : Nat := fieldOf p.hdr 0 3
def rSrc (p : RingPkt) : Nat := fieldOf p.hdr 3 3
def rCtrl (p : RingPkt) : Bool := fieldOf p.hdr 6 1 == 1
def rCcw (p : RingPkt) : Bool := fieldOf p.hdr 7 1 == 1
def rKind (p : RingPkt) : Nat := fieldOf p.hdr 8 4
def rSeat (p : RingPkt) : Nat := fieldOf p.hdr 12 6
def rLen32 (p : RingPkt) : Nat := fieldOf p.hdr 18 7
def rXfer (p : RingPkt) : Nat := fieldOf p.hdr 32 32
def rAddr (p : RingPkt) : Nat := fieldOf p.hdr 64 64
def rEpoch (p : RingPkt) : Nat := fieldOf p.hdr 128 16
def rPseq (p : RingPkt) : Nat := fieldOf p.hdr 144 32
def rCrc (p : RingPkt) : Nat := fieldOf p.hdr 192 32

/-- CRC-32C over header bytes 0 to 23 and the payload passes. -/
def ringOk (p : RingPkt) : Bool := crc32c (bytesOf 24 p.hdr ++ p.pay) == rCrc p

/-- No field of the packet holds a reserved value. -/
def ringFieldsOk (p : RingPkt) : Bool :=
  decide (rDst p ≤ 5) && decide (rSrc p ≤ 5) && decide (rKind p ≤ 6) && decide (rLen32 p ≤ 64) &&
  (rCtrl p == decide (4 ≤ rKind p)) && (!rCtrl p || decide (rLen32 p ≤ 8))

/-- The parts of a ring packet's header. -/
structure RingParts where
  dst : Nat
  src : Nat
  ccw : Bool
  kind : Nat
  seat : Nat := 0
  xfer : Nat := 0
  addr : Nat := 0
  epoch : Nat := 0
  pseq : Nat := 0
  deriving DecidableEq, Repr

/-- A ring packet; CLASS follows KIND: 0 to 3 DATA, 4 to 6 CTRL (R218). -/
def mkRing (r : RingParts) (pay : List Byte) : RingPkt :=
  let l := fitTo 0 (32 * ceilDiv pay.length 32) pay
  let h : BitVec 256 := BitVec.ofNat 256 (r.dst % 8 + 2 ^ 3 * (r.src % 8) + 2 ^ 6 * b2n (decide (4 ≤ r.kind))
    + 2 ^ 7 * b2n r.ccw + 2 ^ 8 * (r.kind % 16) + 2 ^ 12 * (r.seat % 64) + 2 ^ 18 * (l.length / 32 % 128)
    + 2 ^ 32 * (r.xfer % 2 ^ 32) + 2 ^ 64 * (r.addr % 2 ^ 64) + 2 ^ 128 * (r.epoch % 2 ^ 16)
    + 2 ^ 144 * (r.pseq % 2 ^ 32))
  ⟨putField h 192 32 (crc32c (bytesOf 24 h ++ l)), l⟩

end Sys2Proof.Machine
end

