-- ==== Sys2Proof/Machine/Switch.lean ====
section
/-! DEFINITION. The switch core: staging, admission, push-out, multicast, the scheduler, and the flow-control conditions
they raise (R159–R171, R188–R204, R209–R214, R483). -/
namespace Sys2Proof.Machine

/-! ### Port states (R122) -/

def S.DISABLED : Nat := 0
def S.DOWN : Nat := 1
def S.SIGNAL : Nat := 2
def S.TUNE : Nat := 3
def S.ALIGN : Nat := 4
def S.IDENT : Nat := 5
def S.IDENT_WAIT : Nat := 6
def S.MEASURE : Nat := 7
def S.UP : Nat := 8
def S.FLOOD_HOLD : Nat := 9
def S.RETRAIN : Nat := 10
def S.HELD : Nat := 11
def S.DIAG : Nat := 12
def S.HOLDOFF : Nat := 13

/-- State of a port. -/
def Tray.pst (t : Tray) (c e : Nat) : Nat := t.gf (portPg c e) F.PORT_TRAIN_STS_STATE
/-- The port is UP. -/
def Tray.up (t : Tray) (c e : Nat) : Bool := t.pst c e == S.UP
/-- The port is in UP, FLOOD_HOLD or RETRAIN. -/
def Tray.live (t : Tray) (c e : Nat) : Bool := t.pst c e == S.UP || t.pst c e == S.FLOOD_HOLD || t.pst c e == S.RETRAIN

/-! ### Packets of the core -/

/-- Flits of the packet, header included. -/
def CorePkt.flits (p : CorePkt) : Nat := 1 + flitsOf (hLen p.hdr)
def CorePkt.cells (p : CorePkt) : Nat := cellsOf (hLen p.hdr)
def CorePkt.cls (p : CorePkt) : Nat := classOf (hCh p.hdr)
def CorePkt.seat (p : CorePkt) : Nat := hSeat p.hdr
def CorePkt.multi (p : CorePkt) : Bool := hDstKind p.hdr == 1

/-- Cells of the packet that a copy has sent whole. -/
def CorePkt.copyCells (p : CorePkt) (cp : Copy) : Nat := if p.flits ≤ cp.sent then p.cells else cp.sent / 4

/-- Cells that have left their account: sent by every copy (R200). -/
def CorePkt.freed (p : CorePkt) : Nat :=
  if p.residue ≠ [] ∨ p.copies = [] then 0
  else (p.copies.map p.copyCells).foldl min p.cells

/-- Accounts of the cells still held: true headroom, false shared. -/
def CorePkt.held_ (p : CorePkt) : List Bool := p.accts.drop p.freed

def Tray.pkts (t : Tray) (c : Nat) : List CorePkt := (t.chip c).pkts
def Tray.findPkt (t : Tray) (c id : Nat) : Option CorePkt := (t.pkts c).find? (fun p => p.id == id)

/-- Shared cells in use. -/
def Tray.kitShared (t : Tray) (c : Nat) : Nat := sumL ((t.pkts c).map (fun p => (p.held_.filter (!·)).length))
/-- Cells of packets that wait in headroom for an inbox (R339). -/
def Tray.inboxHeld (t : Tray) (c e tc : Nat) : Nat :=
  sumL ((t.dealer c).inboxes.map (fun a =>
    sumL ((a.2.held.filter (fun h => h.1 == e && classOf (hCh h.2.hdr) == tc)).map (fun h => cellsOf (hLen h.2.hdr)))))
/-- Headroom cells in use of (input, class). -/
def Tray.kitHdrm (t : Tray) (c e tc : Nat) : Nat :=
  t.inboxHeld c e tc + sumL (((t.pkts c).filter (fun p => p.inPort == e && p.cls == tc && !p.orig)).map
    (fun p => (p.held_.filter id).length))
/-- Headroom cells in use on the chip. -/
def Tray.kitHdrmAll (t : Tray) (c : Nat) : Nat := sumL ((t.pkts c).map (fun p => (p.held_.filter id).length))
/-- Reserved headroom of (port, class). -/
def Tray.resvOf (t : Tray) (c e tc : Nat) : Nat := Assoc.get (fun _ => 0) (t.port c e).resv tc
/-- The headroom carve-out (R168). -/
def Tray.kitCarve (t : Tray) (c : Nat) : Nat :=
  sumL ((List.range 64).map (fun e => t.resvOf c e 1 + t.resvOf c e 2 + t.resvOf c e 3))
/-- F: free cells of the shared pool. -/
def Tray.kitFree (t : Tray) (c : Nat) : Nat := 262144 - t.kitCarve c - t.kitShared c
/-- Q(f, c): admitted cells of output queue (f, c), staged ones included; circuit queues apart. -/
def Tray.kitQ (t : Tray) (c f tc : Nat) : Nat :=
  sumL (((t.pkts c).filter (fun p => p.cls == tc && p.circ == none)).map (fun p =>
    sumL ((p.copies.filter (fun x => x.port == f)).map (fun x => p.accts.length - p.copyCells x))))
/-- Admitted cells of a seat. -/
def Tray.kitSeat (t : Tray) (c m : Nat) : Nat :=
  sumL (((t.pkts c).filter (fun p => p.seat == m)).map (fun p => p.held_.length))
/-- Admitted cells of a seat for one output (R180). -/
def Tray.kitSeatOut (t : Tray) (c m f : Nat) : Nat :=
  sumL (((t.pkts c).filter (fun p => p.seat == m)).map (fun p =>
    sumL ((p.copies.filter (fun x => x.port == f)).map (fun x => p.accts.length - p.copyCells x))))
/-- Staging occupancy of an input (R192). -/
def Tray.stageOcc (t : Tray) (c e : Nat) : Nat :=
  sumL (((t.pkts c).filter (fun p => p.inPort == e && !p.orig && p.circ == none)).map (fun p => p.arrived - p.crossed))
/-- Cells in a circuit's staging (R184). -/
def Tray.circOcc (t : Tray) (c k : Nat) : Nat :=
  sumL (((t.pkts c).filter (fun p => p.circ == some k)).map (fun p => p.accts.length - p.crossed))
/-- Cells in an agent's originated staging (R194). -/
def Tray.origOcc (t : Tray) (c e : Nat) : Nat :=
  sumL (((t.pkts c).filter (fun p => p.inPort == e && p.orig)).map (fun p => p.arrived - p.crossed))
/-- Residue entries in use (R211). -/
def Tray.resUsed (t : Tray) (c : Nat) : Nat := ((t.pkts c).filter (fun p => p.inResidue)).length

/-- Headroom field of a class (R187). -/
def hdrmFld (tc : Nat) : Fld :=
  match tc with
  | 0 => F.PORT_FC_HDRM_HDRM_TC0 | 1 => F.PORT_FC_HDRM_HDRM_TC1 | 2 => F.PORT_FC_HDRM_HDRM_TC2
  | _ => F.PORT_FC_HDRM_HDRM_TC3

/-- Headroom of (port, class) as configured. -/
def Tray.hdrm (t : Tray) (c e tc : Nat) : Nat := t.gf (portPg c e) (hdrmFld tc)

/-- STAGE_MARK (R193). -/
def Tray.stageMark (t : Tray) (c e : Nat) : Nat :=
  max 32 (320 - max (t.hdrm c e 1) (max (t.hdrm c e 2) (t.hdrm c e 3)))

/-- XOFF that the tray sends on a port, bit per class (R132, R165, R168, R193, R109, R67). -/
def Tray.xoffTx (t : Tray) (c e : Nat) : Nat :=
  let p := t.port c e
  if p.xoffHold ∨ t.is (portPg c e) F.PORT_FC_STS_HDRM_WAIT ∨ t.pst c e = S.FLOOD_HOLD
    ∨ ¬ t.is (chip0 c) F.CHIP_CLK_STS_CORE_LOCK then 15
  else p.xoffKit ||| (if p.xoffStage then 14 else 0)

/-- XOFF under which the port's transmit side stands, bit per class (R115). -/
def Tray.xoffRx (t : Tray) (c e : Nat) : Nat := if (t.port c e).xoffForced then 15 else (t.port c e).xoffRx

/-- Replace the packet list of a chip, packets without copies or members left removed once judged. -/
def Tray.setPkts (t : Tray) (c : Nat) (l : List CorePkt) : Tray :=
  t.modChip c (fun x => { x with
    pkts := l.filter (fun p => !(p.judged && p.copies.isEmpty && p.residue.isEmpty && p.via == none)) })

/-- Change one packet. -/
def Tray.modPkt (t : Tray) (c id : Nat) (f : CorePkt → CorePkt) : Tray :=
  t.setPkts c ((t.pkts c).map (fun p => if p.id = id then f p else p))

/-- Remove one packet. -/
def Tray.delPkt (t : Tray) (c id : Nat) : Tray := t.setPkts c ((t.pkts c).filter (fun p => p.id != id))

/-! ### Headroom reservation (R168) -/

/-- What the reservation of a class becomes: it shrinks once the cells in use fit, and grows to `want`. -/
def resvNext (cur want used : Nat) : Nat := if want ≤ cur then (if used ≤ want then want else cur) else want

/-- Recompute the reservation of a port; where the kitty cannot free the growth the port waits (R168). -/
def Tray.updResv (t : Tray) (c e : Nat) : Tray :=
  let nxt := fun tc => resvNext (t.resvOf c e tc) (if t.live c e then t.hdrm c e tc else 0) (t.kitHdrm c e tc)
  let grow := sumL ([1, 2, 3].map (fun tc => nxt tc - t.resvOf c e tc))
  let pg := portPg c e
  if t.kitFree c < grow then (t.sb pg F.PORT_FC_STS_HDRM_WAIT true)
  else
    (t.modPort c e (fun p => { p with
      resv := [1, 2, 3].foldl (fun m tc => Assoc.set (fun _ => 0) m tc (nxt tc)) p.resv })).sb pg
      F.PORT_FC_STS_HDRM_WAIT false

/-- Watermarks after an admission for output `f` by seat `m` (R224, R227). -/
def Tray.kitMarks (t : Tray) (c f tc m : Nat) : Tray :=
  let d := 0x20 * (f % 8)
  let oq := chipPg c (0x064 + f / 8)
  let wm := match tc with | 1 => F.KIT_OQ_WM_TC1 | 2 => F.KIT_OQ_WM_TC2 | _ => F.KIT_OQ_WM_TC3
  let t1 := t.wmMin (chipPg c 0x060) F.KIT_FREE_FREE_MIN (t.kitFree c)
  let t2 := if f < 64 then t1.wmMax oq (wm.at d) (t1.kitQ c f tc) else t1
  t2.wmMax (chipPg c (0x06C + m / 16)) (F.KIT_SEAT_MAX.at (8 * (m % 16))) (t2.kitSeat c m)

/-! ### Discards (R169, R170, R213, R483) -/

/-- A packet cut down to what an output has begun to send; the rest of it is sent as zero flits (R483). -/
def CorePkt.cut (p : CorePkt) : CorePkt :=
  let z := 4 * p.crossed
  { p with
    copies := p.copies.filter (fun x => x.started), residue := [], inResidue := false, dropped := true, judged := true,
    via := none, arrived := p.crossed, accts := p.accts.take p.crossed,
    zeroFrom := some (match p.zeroFrom with | some y => min y z | none => z) }

/-- Discard a packet with the rest of it (R483). -/
def Tray.discard (t : Tray) (c id : Nat) : Tray :=
  match t.findPkt c id with
  | none => t
  | some p =>
    let t1 := t.modPkt c id CorePkt.cut
    t1.updResv c p.inPort

/-- R169: a refused cell that finds no room. -/
def Tray.dropOvf (t : Tray) (c id : Nat) : Tray :=
  match t.findPkt c id with
  | none => t
  | some p =>
    let pg := portPg c p.inPort
    (((t.discard c id).sat pg F.PORT_DROP_HDRM_OVF 1).charge c p.seat N.HDRM_OVF 1).raise pg 24

/-- A packet loses its copy on output `f`, which is down (R213). -/
def Tray.countDown (t : Tray) (c f m : Nat) : Tray :=
  (t.cnt (chipPg c (0x064 + f % 64 / 8)) (F.KIT_OQ_UNDER_DOWN_DROP.at (0x20 * (f % 8))) 1).charge c m N.DOWN_DROP 1

/-- A multicast member is dropped (R210, R212). -/
def Tray.countMember (t : Tray) (c m n : Nat) : Tray :=
  (t.sat (chipPg c 0x061) F.KIT_MC_DROP_MEMBERS n).charge c m N.DOWN_DROP n

/-- The class of output `f` is under the discard of R170. -/
def Tray.storm (t : Tray) (c f tc : Nat) : Bool := bitOf (t.gf (portPg c f) F.PORT_FC_STS_STORM) tc

/-- A packet for output `f` is discarded under R170. -/
def Tray.countStorm (t : Tray) (c f m : Nat) : Tray :=
  (t.sat (portPg c f) F.PORT_DROP_STORM 1).charge c m N.STORM 1

/-! ### Thresholds and push-out (R198, R202–R204) -/

/-- KIT_ALPHA field of a class. -/
def alphaFld (tc : Nat) : Fld :=
  match tc with | 1 => F.KIT_ALPHA_ALPHA_TC1 | 2 => F.KIT_ALPHA_ALPHA_TC2 | _ => F.KIT_ALPHA_ALPHA_TC3

/-- The test of R198 on given F and Q, with the ALPHA code `k` (3 is α = 1). -/
def passesThr (free q k : Nat) : Bool :=
  decide (1 ≤ free) && decide (q < (if 3 ≤ k then free * 2 ^ (k - 3) else free / 2 ^ (3 - k)))

/-- A cell of class `tc` for output `f` passes the threshold. -/
def Tray.passes (t : Tray) (c f tc : Nat) : Bool :=
  passesThr (t.kitFree c) (t.kitQ c f tc) (t.gf (chipPg c 0x060) (alphaFld tc))

/-- The last packet of the TC3 queue of `f` whose first flit has not begun transmission (R202). -/
def Tray.victimAt (t : Tray) (c f : Nat) : Option CorePkt :=
  let cand := (t.pkts c).filter (fun p => p.cls == 3 && !p.orig && p.circ == none && !p.dropped && p.accts ≠ [] &&
    p.copies.any (fun x => x.port == f && !x.started))
  let unl := cand.filter (fun p => p.copies.any (fun x => x.port == f && !x.linked))
  match unl.getLast? with
  | some p => some p
  | none =>
    let ord := fun (p : CorePkt) => maxL ((p.copies.filter (fun x => x.port == f)).map (fun x => x.order))
    cand.foldl (fun b p => match b with | none => some p | some q => if ord q ≤ ord p then some p else b) none

/-- The output with the longest TC3 queue, the lowest number on a tie. -/
def Tray.longestTc3 (t : Tray) (c : Nat) : Nat :=
  (List.range 64).foldl (fun b f => if t.kitQ c b 3 < t.kitQ c f 3 then f else b) 0

/-- Evict one victim for output `f` (R202, R203). -/
def Tray.pushOut (t : Tray) (c f : Nat) : Tray :=
  let kp := chipPg c 0x060
  if ¬ t.is kp F.KIT_PUSH_PUSH_EN then t
  else
    let v := match t.victimAt c f with
      | some p => some (p, f)
      | none =>
        if t.is kp F.KIT_PUSH_SCOPE then
          let g := t.longestTc3 c
          (t.victimAt c g).map (fun p => (p, g))
        else none
    match v with
    | none => t
    | some (p, g) =>
      let n := p.cells
      let d := 0x20 * (g % 8)
      let oq := chipPg c (0x064 + g / 8)
      let t1 := t.modPkt c p.id (fun q => { q with copies := q.copies.filter (fun x => x.port != g), judged := true })
      let t2 := (t1.cnt kp F.KIT_PUSH_CNT_PKTS 1).cnt kp F.KIT_PUSH_CNT_CELLS n
      let t3 := (t2.cnt oq (F.KIT_OQ_PUSH_PKTS.at d) 1).cnt oq (F.KIT_OQ_PUSH_CELLS.at d) n
      ((t3.charge c p.seat N.PUSH_PKTS 1).charge c p.seat N.PUSH_CELLS n).updResv c p.inPort

/-! ### XOFF (R165, R193) -/

/-- The kitty condition of (port, class) is set, and the refused cell remembered. -/
def Tray.setXoffKit (t : Tray) (c e tc dest : Nat) : Tray :=
  t.modPort c e (fun p => { p with xoffKit := setBitOf p.xoffKit tc,
                                   refused := Assoc.set (fun _ => 0) p.refused tc dest })

/-- Staging reaches STAGE_MARK: XOFF for TC1 to TC3 (R193); watermarks of SCHED_STAGE_WM. -/
def Tray.stageCheck (t : Tray) (c e : Nat) : Tray :=
  let occ := t.stageOcc c e
  let sp := chipPg c 0x050
  let t1 :=
    if t.gf sp F.SCHED_STAGE_WM_MAX < occ then (t.sf sp F.SCHED_STAGE_WM_MAX occ).sf sp F.SCHED_STAGE_WM_PORT e
    else if t.gf sp F.SCHED_STAGE_WM_MAX = occ ∧ e < t.gf sp F.SCHED_STAGE_WM_PORT then t.sf sp F.SCHED_STAGE_WM_PORT e
    else t
  if t1.stageMark c e ≤ occ then
    (t1.modPort c e (fun p => { p with xoffStage := true })).sf sp F.SCHED_STAGE_XOFF_PORTS
      (setBitOf (t1.gf sp F.SCHED_STAGE_XOFF_PORTS) e)
  else t1

/-! ### THROTTLE (R180, R181) -/

/-- A cell of `p` is about to be admitted for output `f`, with `n` cells of its seat admitted there before it. -/
def Tray.throttle (t : Tray) (c f n : Nat) (p : CorePkt) : Tray :=
  let pg := portPg c f
  let a := hSrc p.hdr
  let key := (a * 64 + p.seat) * 64 + f
  let now := t.timeOf c
  let last := Assoc.get (fun _ => 0) (t.chip c).thrLast key
  if p.orig ∨ n < t.gf pg F.PORT_THR_CTL_THR_MARK ∨ (last ≠ 0 ∧ now < last + 1000 * t.gf pg F.PORT_THR_CTL_THR_GAP_US)
  then t
  else
    let pk := mkPkt { ptype := P.THROTTLE, ch := 2, src := f, dst := a, seat := p.seat,
                      arg := f + 2 ^ 8 * t.gf pg F.PORT_THR_CTL_STEP + 2 ^ 16 * t.gf pg F.PORT_THR_CTL_INTERVAL_NS } []
    let t1 := t.modChip c (fun x => { x with thrLast := Assoc.set (fun _ => 0) x.thrLast key (max now 1) })
    (t1.modPort c f (fun q => { q with origq := q.origq ++ [⟨pk, .none⟩] })).charge c p.seat N.THROTTLES 1

/-! ### Admission (R199, R210) -/

/-- One cell of packet `id` is admitted: to headroom or to the shared pool. -/
def Tray.admitCell (t : Tray) (c : Nat) (p : CorePkt) (hd : Bool) : Tray :=
  let outs := p.copies.map (fun x => x.port)
  let t1 := t.each outs (fun t f => t.throttle c f (t.kitSeatOut c p.seat f) p)
  let t2 := t1.modPkt c p.id (fun q => { q with accts := q.accts ++ [hd] })
  (if outs = [] then t2.kitMarks c 64 p.cls p.seat else t2.each outs (fun t f => t.kitMarks c f p.cls p.seat))

/-- Steps 4 and 5 of R199: headroom with XOFF, or discard. -/
def Tray.toHeadroom (t : Tray) (c dest : Nat) (p : CorePkt) : Tray :=
  if t.kitHdrm c p.inPort p.cls < t.resvOf c p.inPort p.cls then
    (t.setXoffKit c p.inPort p.cls dest).admitCell c p true
  else (t.setXoffKit c p.inPort p.cls dest).dropOvf c p.id

/-- A unicast cell (R199), or one of a circuit flow (R165, R184). -/
def Tray.admitUni (t : Tray) (c f : Nat) (p : CorePkt) : Tray :=
  if ¬ t.live c f then (t.countDown c f p.seat).discard c p.id
  else if t.storm c f p.cls ∧ ¬ p.copies.any (fun x => x.started) then (t.countStorm c f p.seat).discard c p.id
  else
    match p.circ with
    | some k => if t.circOcc c k < 16 ∧ 1 ≤ t.kitFree c then t.admitCell c p false else t.toHeadroom c (65 + k) p
    | none =>
      if t.passes c f p.cls then t.admitCell c p false
      else
        let t1 := if p.cls = 2 then t.pushOut c f else t
        if p.cls = 2 ∧ t1.passes c f p.cls then t1.admitCell c p false else t1.toHeadroom c f p

/-- An earlier multicast packet of the same input and class holds member `f` in residue (R211). -/
def Tray.resHolds (t : Tray) (c : Nat) (p : CorePkt) (f : Nat) : Bool :=
  (t.pkts c).any (fun q => decide (q.id < p.id) && q.multi && q.inPort == p.inPort && q.cls == p.cls &&
    q.residue.contains f)

/-- A member is ready: UP and passing the threshold, no earlier packet before it (R210, R211). -/
def Tray.memberReady (t : Tray) (c : Nat) (p : CorePkt) (f : Nat) : Bool :=
  t.up c f && t.passes c f p.cls && !t.resHolds c p f

/-- The members of a multicast packet are judged: down members dropped, ready ones become copies, the others stay for
the residue entry (R210). -/
def Tray.judge (t : Tray) (c : Nat) (p : CorePkt) : Tray :=
  let gone := p.residue.filter (fun f => !t.live c f)
  let storm := p.residue.filter (fun f => t.live c f && t.storm c f p.cls)
  let stay := p.residue.filter (fun f => t.live c f && !t.storm c f p.cls)
  let rdy := stay.filter (fun f => t.memberReady c p f)
  let rest := stay.filter (fun f => !t.memberReady c p f)
  let t1 := (if gone = [] then t else t.countMember c p.seat gone.length).each storm (fun t f => t.countStorm c f p.seat)
  t1.modPkt c p.id (fun q => { q with
    judged := true, copies := q.copies ++ rdy.map (fun f => { port := f }), residue := rest,
    via := if q.copies = [] ∧ rdy = [] then rest.head? else none })

/-- A cell of a multicast packet (R210): the first judges the members, each is stored once. -/
def Tray.admitMulti (t : Tray) (c : Nat) (p : CorePkt) : Tray :=
  let t1 := if p.judged then t else t.judge c p
  match t1.findPkt c p.id with
  | none => t1
  | some q =>
    if 1 ≤ t1.kitFree c then t1.admitCell c q false else t1.toHeadroom c 64 q

/-- The next cell of input `e` to be judged: arrived, not behind a FENCE (R161, R192). -/
def Tray.nextCell (t : Tray) (c e : Nat) : Option CorePkt :=
  (t.pkts c).find? (fun p => p.inPort == e && !p.orig && !p.held && !p.dropped && decide (p.accts.length < p.arrived))

/-- CELL_ADMIT: one cell complete in the staging of port `e` is judged (R199). -/
def Tray.cellAdmit (t : Tray) (c e : Nat) : Tray :=
  match t.nextCell c e with
  | none => t
  | some p =>
    if p.multi then t.admitMulti c p
    else
      match p.copies with
      | [] => t
      | x :: _ => t.admitUni c x.port p

/-! ### Arrival in staging -/

/-- The circuit that carries a flow (R183, R184). -/
def Tray.circOf (t : Tray) (c e : Nat) (h : Flit) : Option Nat :=
  if hDstKind h ≠ 0 then none
  else
    (List.range 128).find? (fun k =>
      match Assoc.get (fun _ => none) (t.chip c).circs k with
      | some x => x.inPort == e && x.outPort == hDst h && x.seat == hSeat h && x.ch == hCh h
      | none => false)

/-- The multicast group of a packet, valid for it (R209). -/
def Tray.mcgOf (t : Tray) (c : Nat) (h : Flit) : Option Mcg :=
  let g := Assoc.get (fun _ => {}) (t.chip c).mcgs (hDst h)
  if hDst h < 1024 ∧ g.valid ∧ g.seat = hSeat h ∧ 2 ≤ classOf (hCh h) ∧ hPtype h = P.DATA then some g else none

/-- A packet behind which later ones must wait: a FENCE not yet passed, or one waiting behind it (R161). -/
def Tray.fenceWaits (t : Tray) (c e : Nat) (h : Flit) : Bool :=
  hDstKind h == 0 &&
  ((hFence h && (t.pkts c).any (fun p => p.inPort == e && !p.orig && !p.multi && hDst p.hdr == hDst h && p.copies ≠ []))
   || (t.pkts c).any (fun p => p.inPort == e && p.held && hDst p.hdr == hDst h && hCh p.hdr == hCh h))

/-- A packet header enters staging of input `e`, with members `mem` for multicast; its cells follow. -/
def Tray.enterCore (t : Tray) (c e : Nat) (h : Flit) (mem : List Nat) : Nat × Tray :=
  let id := (t.chip c).nextPkt
  let p : CorePkt :=
    { id := id, hdr := h, pay := [], inPort := e, circ := t.circOf c e h,
      copies := if hDstKind h = 0 then [{ port := hDst h }] else [], residue := mem,
      held := t.fenceWaits c e h }
  (id, t.modChip c (fun x => { x with pkts := x.pkts ++ [p], nextPkt := id + 1 }))

/-- Payload flits of packet `id` arrive: cells that become complete take staging space; a cell that finds it full is
discarded with the rest (R193). -/
def Tray.coreFlits (t : Tray) (c id : Nat) (fl : List Flit) : Tray :=
  match t.findPkt c id with
  | none => t
  | some p =>
    if p.dropped then t
    else
      let pay := p.pay ++ fl
      let n := 1 + pay.length
      let arr := if p.flits ≤ n then p.cells else n / 4
      let room := if p.circ = none then 320 - t.stageOcc c p.inPort else arr
      if room < arr - p.arrived then
        let t1 := t.modPkt c id (fun q => { q with pay := pay, arrived := q.arrived + room })
        (t1.stageCheck c p.inPort).dropOvf c id
      else (t.modPkt c id (fun q => { q with pay := pay, arrived := arr })).stageCheck c p.inPort

/-- The rest of a packet being received is lost: what has begun to leave is completed with zero flits (R153). -/
def Tray.coreLost (t : Tray) (c id : Nat) : Tray :=
  match t.findPkt c id with
  | none => t
  | some p => if p.flits ≤ 1 + p.pay.length then t else t.discard c id

/-- FENCE_RELEASE: a FENCE packet passes once every earlier packet of its pair has left or been discarded, and with it
those that wait behind it up to the next FENCE (R161). -/
def Tray.fenceRelease (t : Tray) (c e : Nat) : Tray :=
  let step := fun (acc : List CorePkt) (p : CorePkt) =>
    if p.held ∧ p.inPort = e then
      let earlier := acc.filter (fun q => q.inPort == e && !q.orig && !q.multi && hDst q.hdr == hDst p.hdr)
      let blocked :=
        if hFence p.hdr then !earlier.isEmpty
        else earlier.any (fun q => q.held && hCh q.hdr == hCh p.hdr)
      acc ++ [{ p with held := blocked }]
    else acc ++ [p]
  t.setPkts c ((t.pkts c).foldl step [])

/-! ### The scheduler (R188–R197) -/

/-- Slice of a packet (R190). -/
def Tray.sliceOf (t : Tray) (c : Nat) (p : CorePkt) : Nat :=
  match p.circ with
  | some k => match Assoc.get (fun _ => none) (t.chip c).circs k with | some x => x.slice | none => 0
  | none => (hSrc p.hdr + hDst p.hdr + hCh p.hdr) % 4

/-- One request of a slot: input, output, class, packet, aged. -/
structure Req where
  inp : Nat
  out : Nat
  cls : Nat
  id : Nat
  aged : Bool
  deriving DecidableEq, Repr

/-- Outputs for which a staged packet requests (R195, R210). -/
def CorePkt.wants (p : CorePkt) : List Nat :=
  let unl := (p.copies.filter (fun x => !x.linked)).map (fun x => x.port)
  if p.accts = [] ∨ p.held then []
  else if unl ≠ [] then unl
  else if p.crossed < p.accts.length then
    (match p.via with | some f => [f] | none => (p.copies.map (fun x => x.port)).take 1)
  else []

/-- The requests of slice `x`: VOQ head cells, one per (input, output, class, originated or not). Circuit cells take
part only in their reserved slots, drained circuits through the scheduler (R185, R197). -/
def Tray.requests (t : Tray) (c x : Nat) : List Req :=
  let step := fun (acc : List (Req × Bool)) (p : CorePkt) =>
    if t.sliceOf c p ≠ x ∨ p.circ ≠ none then acc
    else
      acc ++ ((p.wants.filter (fun f => !acc.any (fun a => a.1.inp == p.inPort && a.1.out == f && a.1.cls == p.cls
        && a.2 == p.orig))).map (fun f =>
          (⟨p.inPort, f, p.cls, p.id, (t.chip c).aged.contains (x * 4096 + p.inPort * 64 + f)⟩, p.orig)))
  ((t.pkts c).foldl step []).map (fun a => a.1)

/-- Request `a` goes ahead of `b`: aged first (R196), then the higher class, then the rotating pointer `ptr` over the
numbers `key`. -/
def Req.before (key : Req → Nat) (ptr : Nat) (a b : Req) : Bool :=
  let ra := (if a.aged then 0 else 1, a.cls, (key a + 64 - ptr) % 64)
  let rb := (if b.aged then 0 else 1, b.cls, (key b + 64 - ptr) % 64)
  if ra.1 ≠ rb.1 then decide (ra.1 < rb.1)
  else if ra.2.1 ≠ rb.2.1 then decide (ra.2.1 < rb.2.1)
  else decide (ra.2.2 < rb.2.2)

/-- The request that goes ahead of all others. -/
def bestReq (key : Req → Nat) (ptr : Nat) : List Req → Option Req
  | [] => none
  | a :: l => match bestReq key ptr l with
    | none => some a
    | some b => if Req.before key ptr b a then some b else some a

/-- One iteration: grants and accepts; answers the accepted requests, multicast grants of the same packet together. -/
def Tray.matchIter (t : Tray) (c x : Nat) (rq : List Req) (done : List Req) : List Req :=
  let ch := t.chip c
  let freeIn := fun e => !done.any (fun a => a.inp == e)
  let freeOut := fun f => !done.any (fun a => a.out == f)
  let open_ := rq.filter (fun a => freeIn a.inp && freeOut a.out)
  let outs := (List.range 64).filter (fun f => open_.any (fun a => a.out == f))
  let grants := outs.filterMap (fun f =>
    bestReq (fun a => a.inp) (Assoc.get (fun _ => 0) ch.gptr (x * 64 + f)) (open_.filter (fun a => a.out == f)))
  let ins := (List.range 64).filter (fun e => grants.any (fun a => a.inp == e))
  ins.flatMap (fun e =>
    let mine := grants.filter (fun a => a.inp == e)
    match bestReq (fun a => a.out) (Assoc.get (fun _ => 0) ch.aptr (x * 64 + e)) mine with
    | none => []
    | some a => a :: mine.filter (fun b => b.id == a.id && b.out != a.out))

/-- Rotating pointers after the first iteration: one past the accepted input and output (R195). -/
def Tray.movePtrs (t : Tray) (c x : Nat) (acc : List Req) : Tray :=
  t.modChip c (fun ch => acc.foldl (fun ch a => { ch with
    gptr := Assoc.set (fun _ => 0) ch.gptr (x * 64 + a.out) ((a.inp + 1) % 64),
    aptr := Assoc.set (fun _ => 0) ch.aptr (x * 64 + a.inp) ((a.out + 1) % 64) }) ch)

/-- The matching of a slice in ITER iterations. -/
def Tray.matching (t : Tray) (c x : Nat) (rq pre : List Req) : Nat → List Req × Tray
  | 0 => (pre, t)
  | n + 1 =>
    let (done, t1) := Tray.matching t c x rq pre n
    let a := t1.matchIter c x rq done
    (done ++ a, if n = 0 then t1.movePtrs c x a else t1)

/-- Flits of cell `k` of a packet. -/
def CorePkt.cellFlits (p : CorePkt) (k : Nat) : Nat := min 4 (p.flits - 4 * k)

/-- The cell of a packet goes to the kitty and links the outputs that accepted. -/
def Tray.moveCell (t : Tray) (c x id : Nat) (outs : List Nat) : Tray :=
  match t.findPkt c id with
  | none => t
  | some p =>
    let n0 := (t.chip c).nextLink
    let link := fun (a : Nat × List Copy) (y : Copy) =>
      if outs.contains y.port ∧ ¬ y.linked then (a.1 + 1, a.2 ++ [{ y with linked := true, order := a.1 }])
      else (a.1, a.2 ++ [y])
    let lk := p.copies.foldl link (n0, [])
    let adv := p.crossed < p.accts.length
    let p1 := { p with copies := lk.2, crossed := p.crossed + b2n adv }
    let t1 := (t.modChip c (fun ch => { ch with
      nextLink := lk.1,
      aged := ch.aged.filter (fun k => !outs.any (fun f => k == x * 4096 + p.inPort * 64 + f)) })).modPkt c id
      (fun _ => p1)
    let t2 := ((t1.cnt (chipPg c 0x050) (F.SCHED_SLICE_CELLS_CELLS.at (8 * x)) 1).energy c p.seat En.XBAR
      (max 1 outs.length)).energy c p.seat En.KITTY (b2n adv)
    let t3 : Tray := match p.circ with
      | some k => t2.modChip c (fun ch =>
          match Assoc.get (fun _ => none) ch.circs k with
          | some z =>
            let z' := { z with bytes := (z.bytes + 64 * p.cellFlits p.crossed) % 2 ^ 64 }
            { ch with circs := Assoc.set (fun _ => none) ch.circs k (some z') }
          | none => ch)
      | none => t2
    -- a multicast packet leaves staging: the members not yet linked go into one residue entry (R210, R211)
    if p1.residue ≠ [] ∧ p1.crossed = p1.cells ∧ p1.copies.all (fun y => y.linked) ∧ ¬ p1.inResidue then
      if t3.resUsed c < 512 then
        (t3.modPkt c id (fun q => { q with inResidue := true, via := none })).wmMax (chipPg c 0x061) F.KIT_RESID_MAX
          (t3.resUsed c + 1)
      else
        (t3.modChip c (fun ch =>
          if ch.resWait.contains id then ch else { ch with resWait := ch.resWait ++ [id] })).sat (chipPg c 0x061) F.KIT_RESID_FULL_EVT 1
    else t3

/-- Circuits that hold this slot on slice `x` and have a staged cell (R197). -/
def Tray.circPre (t : Tray) (c x : Nat) (held : List Nat) : List Req :=
  held.filterMap (fun k =>
    match Assoc.get (fun _ => none) (t.chip c).circs k with
    | some z =>
      if z.slice = x then
        ((t.pkts c).find? (fun p => p.circ == some k && decide (p.crossed < p.accts.length))).map
          (fun p => ⟨z.inPort, z.outPort, 3, p.id, false⟩)
      else none
    | none => none)

/-- One slot of one slice. -/
def Tray.sliceSlot (t : Tray) (c x : Nat) (held : List Nat) : Tray :=
  let pre := t.circPre c x held
  let rq := t.requests c x
  let (acc, t1) := t.matching c x rq pre (t.gf (chipPg c 0x050) F.SCHED_CFG_ITER)
  let ids := (acc.map (fun a => a.id)).foldl (fun l i => if l.contains i then l else l ++ [i]) []
  t1.each ids (fun t i => t.moveCell c x i ((acc.filter (fun a => a.id == i)).map (fun a => a.out)))

/-- SCHED_SLOT: one slot of the four slices (R195). -/
def Tray.schedSlot (t : Tray) (c : Nat) (held : List Nat) : Tray :=
  if t.chipRuns c ∧ t.enabled (chipPg c 0x050) then
    t.each [0, 1, 2, 3] (fun t x => t.sliceSlot c x held)
  else t

/-- REQUEST_AGED: the request has waited AGE_SLOTS (R196). -/
def Tray.requestAged (t : Tray) (c x e f : Nat) : Tray :=
  let k := x * 4096 + e * 64 + f
  if (t.requests c x).any (fun a => a.inp == e && a.out == f) ∧ ¬ (t.chip c).aged.contains k then
    (t.modChip c (fun ch => { ch with aged := ch.aged ++ [k] })).sat (chipPg c 0x050) F.SCHED_AGED_COUNT 1
  else t

/-- One residue entry is retried: members down are dropped, ready ones linked without a crossbar transfer (R211,
R212). -/
def Tray.resRetry1 (t : Tray) (c id : Nat) : Tray :=
  match t.findPkt c id with
  | none => t
  | some p =>
    if ¬ p.inResidue then t
    else
      let t1 := t.judge c p
      match t1.findPkt c id with
      | none => t1
      | some q =>
        let n0 := (t1.chip c).nextLink
        let link := fun (a : Nat × List Copy) (y : Copy) =>
          if y.linked then (a.1, a.2 ++ [y]) else (a.1 + 1, a.2 ++ [{ y with linked := true, order := a.1 }])
        let lk := q.copies.foldl link (n0, [])
        (t1.modChip c (fun ch => { ch with nextLink := lk.1 })).modPkt c id
          (fun z => { z with copies := lk.2, via := none, inResidue := z.residue ≠ [] })

/-- RESIDUE_RETRY: entries in arrival order, then packets stalled on a full queue (R211). -/
def Tray.residueRetry (t : Tray) (c : Nat) : Tray :=
  if t.chipRuns c then
    let t1 := t.each ((t.pkts c).filterMap (fun p => if p.inResidue then some p.id else none))
      (fun t i => t.resRetry1 c i)
    let go := (t1.chip c).resWait
    t1.each go (fun t i =>
      if t.resUsed c < 512 then
        ((t.modChip c (fun ch => { ch with resWait := ch.resWait.filter (· != i) })).modPkt c i
          (fun p => { p with inResidue := p.residue ≠ [] })).resRetry1 c i
      else t)
  else t

/-! ### XOFF and headroom commands -/

/-- The latest refused cell of (port, class) would now be admitted (R165). -/
def Tray.wouldAdmit (t : Tray) (c e tc : Nat) : Bool :=
  let d := Assoc.get (fun _ => 0) (t.port c e).refused tc
  if d < 64 then !t.live c d || t.passes c d tc
  else if d = 64 then decide (1 ≤ t.kitFree c)
  else if d = 300 then t.inboxHeld c e tc == 0
  else decide (t.circOcc c (d - 65) < 16)

/-- The TC0 ingress buffer's limit: 288 − H (R165). -/
def Tray.tc0Limit (t : Tray) (c e : Nat) : Nat := 288 - t.hdrm c e 0

/-- Cells of the TC0 ingress buffer in use: SNAP packets being received (R165). -/
def Tray.tc0Cells (t : Tray) (c e : Nat) : Nat :=
  let x := (t.port c e).rx
  sumL (([x.cur, x.ins].filterMap id).map (fun r =>
    if hPtype r.hdr = P.SNAP ∧ ¬ r.dead then ceilDiv (1 + r.pay.length) 4 else 0))

/-- TC0's XOFF is set while its buffer holds more than the limit (R165). -/
def Tray.tc0Check (t : Tray) (c e : Nat) : Tray :=
  if t.tc0Limit c e < t.tc0Cells c e then t.modPort c e (fun p => { p with xoffKit := setBitOf p.xoffKit 0 }) else t

/-- XOFF_CLEAR: the kitty or buffer condition of a class clears once its test holds (R165). -/
def Tray.xoffClear (t : Tray) (c e tc : Nat) : Tray :=
  let ok :=
    if tc = 0 then decide (t.tc0Cells c e ≤ t.tc0Limit c e / 2)
    else t.kitHdrm c e tc == 0 && t.wouldAdmit c e tc
  if ok then t.modPort c e (fun p => { p with xoffKit := clrBitOf p.xoffKit tc }) else t

/-- STAGE_XOFF_CLEAR (R193). -/
def Tray.stageXoffClear (t : Tray) (c e : Nat) : Tray :=
  if t.stageOcc c e ≤ t.stageMark c e / 2 then
    (t.modPort c e (fun p => { p with xoffStage := false })).sf (chipPg c 0x050) F.SCHED_STAGE_XOFF_PORTS
      (clrBitOf (t.gf (chipPg c 0x050) F.SCHED_STAGE_XOFF_PORTS) e)
  else t

/-- CARVE_OUT_GRANT: a waiting port gets its reservation once the shared pool holds it (R168). -/
def Tray.carveOutGrant (t : Tray) (c e : Nat) : Tray :=
  if t.is (portPg c e) F.PORT_FC_STS_HDRM_WAIT then t.updResv c e else t

/-! ### Flushes (R170, R213, R214) -/

/-- Output `f` leaves the live states: its copies and staged cells are flushed, its residue memberships removed
(R212, R213). -/
def Tray.flushOutput (t : Tray) (c f : Nat) : Tray :=
  let hit := (t.pkts c).filter (fun p => p.copies.any (fun x => x.port == f))
  let res := (t.pkts c).filter (fun p => p.residue.contains f && p.judged)
  let t1 := t.each hit (fun t p => t.countDown c f p.seat)
  let t2 := t1.each res (fun t p => t.countMember c p.seat 1)
  let t3 := t2.setPkts c ((t2.pkts c).map (fun p =>
    if p.copies.any (fun x => x.port == f) ∨ (p.residue.contains f ∧ p.judged) then
      { p with copies := p.copies.filter (fun x => x.port != f), residue := p.residue.filter (· != f), judged := true,
               inResidue := p.inResidue && !(p.residue.filter (· != f)).isEmpty,
               via := if p.via = some f then none else p.via }
    else p))
  t3.each (List.range 64) (fun t e => if t.port c e = {} then t else t.updResv c e)

/-- Input `e` leaves UP: its staging is flushed; cells already in the kitty stay (R213). -/
def Tray.flushInput (t : Tray) (c e : Nat) : Tray :=
  let hit := (t.pkts c).filter (fun p => p.inPort == e && !p.orig && !p.dropped && decide (p.crossed < p.cells))
  let t1 := t.each hit (fun t p => t.each ((p.copies.filter (fun x => !x.started)).map (fun x => x.port))
    (fun t f => t.countDown c f p.seat))
  t1.each hit (fun t p => t.discard c p.id)

/-- PAUSE_STORM: the cells queued for port `e` in the class are discarded, and later ones until the partner clears XOFF
(R170). -/
def Tray.pauseStorm (t : Tray) (c e tc : Nat) : Tray :=
  let pg := portPg c e
  if t.up c e ∧ bitOf (t.xoffRx c e) tc ∧ ¬ t.storm c e tc then
    let t0 := (t.sf pg F.PORT_FC_STS_STORM (setBitOf (t.gf pg F.PORT_FC_STS_STORM) tc)).raise pg 25
    if tc = 0 then
      let q := (t0.port c e).snapq
      (t0.each q (fun t p => t.countStorm c e (hSeat p.hdr))).modPort c e (fun p => { p with snapq := [] })
    else
      let hit := (t0.pkts c).filter (fun p => p.cls == tc && p.copies.any (fun x => x.port == e && !x.started))
      let t1 := t0.each hit (fun t p => t.countStorm c e p.seat)
      let t2 := t1.setPkts c ((t1.pkts c).map (fun p =>
        if p.cls = tc ∧ p.copies.any (fun x => x.port == e && !x.started) then
          { p with copies := p.copies.filter (fun x => !(x.port == e && !x.started)), judged := true }
        else p))
      t2.each (List.range 64) (fun t e => if t.port c e = {} then t else t.updResv c e)
  else t

/-- The partner's XOFF of a class clears, or the port leaves UP: the discard of R170 ends. -/
def Tray.stormEnd (t : Tray) (c e : Nat) : Tray :=
  let pg := portPg c e
  let keep := if t.up c e then t.gf pg F.PORT_FC_STS_STORM &&& t.xoffRx c e else 0
  if t.gf pg F.PORT_FC_STS_STORM = keep then t else t.sf pg F.PORT_FC_STS_STORM keep

/-- A whole-chip quiesce or a stopped core empties staging, queues and residue; what has begun to leave is completed
with zero flits where `finish` (R214). Each packet is counted against its seat. -/
def Tray.flushCore (t : Tray) (c : Nat) (finish : Bool) : Tray :=
  let t1 := t.each ((t.pkts c).filter (fun p => !p.dropped)) (fun t p => t.charge c p.seat N.DOWN_DROP 1)
  let t2 :=
    if finish then t1.setPkts c ((t1.pkts c).map (fun p =>
      { p.cut with zeroFrom := some (maxL ((p.copies.filter (fun x => x.started)).map (fun x => x.sent))),
                   accts := [], crossed := p.cells }))
    else t1.setPkts c []
  (t2.modChip c (fun ch => { ch with aged := [], resWait := [] })).each (List.range 64)
    (fun t e => if t.port c e = {} then t else t.updResv c e)

end Sys2Proof.Machine
end

