-- ==== Sys2Proof/Machine/Egress.lean ====
section
/-! DEFINITION. The transmit side of a port: originated packets and the replay store (R174–R177, R194), the choice of the
next packet (R205–R208, R288, R367) and the flit stream (R148–R151, R163). -/
namespace Sys2Proof.Machine

/-! ### Originated packets -/

/-- The agent of port `e` originates a packet. -/
def Tray.originate (t : Tray) (c e : Nat) (o : Owner) (p : Pkt) : Tray :=
  t.modPort c e (fun q => { q with origq := q.origq ++ [⟨p, o⟩] })

/-- The type is sequenced and held in the replay store (R155, R177). -/
def storedType (h : Flit) : Bool := hPtype h == P.RESULT || hPtype h == P.CPL || (hPtype h == P.SNAP && hOrig h)

/-- Flits held in the replay store of a port. -/
def PortSt.replayUsed (p : PortSt) : Nat :=
  sumL ((p.replay.filter (fun r => !r.freed)).map (fun r => 1 + r.pkt.pay.length))

/-- PORT_REPLAY.USED follows the store. -/
def Tray.syncReplay (t : Tray) (c e : Nat) : Tray := t.sf (portPg c e) F.PORT_REPLAY_USED (t.port c e).replayUsed

/-- What shares a seat's emission by deficit round robin: the table of a RESULT, or a Dealer slot (R288). -/
def shareKey (o : OrigPkt) : Nat :=
  match o.owner with | .result tb _ _ _ => tb | .job sl _ => 256 + sl | _ => 512

/-- Link-share weight of a key. -/
def Tray.shareWeight (t : Tray) (c k : Nat) : Nat := if k < 256 then t.gf (tblPg c k) F.TBL_CFG_WEIGHT else 1

/-- The number at or after `ptr` in `l`, wrapping: the next in rotation. -/
def nextFrom (ptr : Nat) (l : List Nat) : Option Nat :=
  match (l.filter (fun k => decide (ptr ≤ k))) with
  | [] => (match l with | [] => none | a :: r => some (r.foldl min a))
  | a :: r => some (r.foldl min a)

/-- Deficit round robin over keys with waiting heads: the key served last goes on while its deficit covers its head's
size, otherwise the next waiting key takes its turn with its quantum. Answers the key and the new deficits. -/
def drrPick (last : Nat) (defs : Assoc Nat) (waiting : List (Nat × Nat)) (quantum : Nat → Nat) :
    Option (Nat × Assoc Nat) :=
  let keys := waiting.map (fun a => a.1)
  let size := fun k => (waiting.find? (fun a => a.1 == k)).map (fun a => a.2) |>.getD 0
  let live := Assoc.keep (fun k => keys.contains k) defs
  let d := fun k => Assoc.get (fun _ => 0) live k
  if keys.contains last ∧ size last ≤ d last then
    some (last, Assoc.set (fun _ => 0) live last (d last - size last))
  else
    match nextFrom (last + 1) keys with
    | none => none
    | some k => some (k, Assoc.set (fun _ => 0) live k (d k + quantum k - size k))

/-- Flit bytes of a packet. -/
def pktSize (p : Pkt) : Nat := 64 * (1 + p.pay.length)

/-- The packet of the waiting queue to go next: the highest class, within it the seat of the oldest, RESULTs of a seat
shared by table (R288). Answers its position and the port's new shares. -/
def Tray.origPick (t : Tray) (c e : Nat) : Option (Nat × PortSt) :=
  let p := t.port c e
  let q := p.origq
  let cls := fun (o : OrigPkt) => classOf (hCh o.pkt.hdr)
  let idx := List.range q.length
  let at_ := fun i => q[i]?
  let best := idx.foldl (fun b i => match b, at_ i with
    | none, some _ => some i
    | some j, some o => (match at_ j with | some z => if cls o < cls z then some i else some j | none => some i)
    | b, none => b) none
  match best with
  | none => none
  | some i =>
    match at_ i with
    | none => none
    | some o =>
      if hPtype o.pkt.hdr ≠ P.RESULT ∨ hResent o.pkt.hdr then some (i, p)
      else
        let m := hSeat o.pkt.hdr
        let mine := idx.filter (fun j => match at_ j with
          | some z => cls z == cls o && hSeat z.pkt.hdr == m && hPtype z.pkt.hdr == P.RESULT && !hResent z.pkt.hdr
          | none => false)
        let heads := mine.foldl (fun l j => match at_ j with
          | some z => if l.any (fun a => a.1 == shareKey z) then l else l ++ [(shareKey z, j, pktSize z.pkt)]
          | none => l) ([] : List (Nat × Nat × Nat))
        match drrPick (Assoc.get (fun _ => 0) p.resLast m) p.resDef (heads.map (fun a => (a.1, a.2.2)))
            (fun k => t.shareWeight c k * 4160) with
        | none => some (i, p)
        | some (k, d) =>
          match heads.find? (fun a => a.1 == k) with
          | none => some (i, p)
          | some a => some (a.2.1, { p with resDef := d, resLast := Assoc.set (fun _ => 0) p.resLast m k })

/-- The next originated cell of port `e` is admitted under the thresholds, without headroom and push-out, or waits
(R194). -/
def Tray.origCell (t : Tray) (c e : Nat) : Tray :=
  match (t.pkts c).find? (fun p => p.inPort == e && p.orig && decide (p.accts.length < p.cells)) with
  | none => t
  | some p =>
    match p.copies with
    | [] => t
    | x :: _ =>
      if ¬ t.live c x.port then t.delPkt c p.id
      else if t.passes c x.port p.cls ∧ t.origOcc c e < 32 then
        (t.modPkt c p.id (fun q => { q with arrived := q.accts.length + 1 })).admitCell c
          { p with arrived := p.accts.length + 1 } false
      else t

/-- An originated packet enters the originated staging. -/
def Tray.origEnter (t : Tray) (c e : Nat) (p : Pkt) (o : Owner) : Tray :=
  let id := (t.chip c).nextPkt
  let q : CorePkt := { id := id, hdr := p.hdr, pay := p.pay, inPort := e, orig := true, owner := o,
                       copies := [{ port := hDst p.hdr % 64 }] }
  t.modChip c (fun x => { x with pkts := x.pkts ++ [q], nextPkt := id + 1 })

/-- A packet leaves the waiting queue: a stored type takes its SEQ and a place in the replay store, or waits while the
store is full (R177); TC0 goes straight to the output (R48). -/
def Tray.origTake (t : Tray) (c e i : Nat) (pst : PortSt) (o : OrigPkt) : Tray :=
  let h := o.pkt.hdr
  let ch := hCh h
  let pg := portPg c e
  let rest := pst.origq.eraseIdx i
  if storedType h ∧ ¬ hResent h then
    if 4096 < pst.replayUsed + 1 + o.pkt.pay.length then
      let t1 := (t.sat pg F.PORT_REPLAY_FULL_EVT 1).charge c (hSeat h) N.REPLAY_FULL 1
      match o.owner with
      | .result tb _ _ _ => t1.sat (tblPg c tb) F.TBL_WAITS_REPLAY_WAIT 1
      | _ => t1
    else
      let seq := Assoc.get (fun _ => 0) pst.txNxt ch
      let pk := pWithSeq o.pkt seq false
      let t1 := (t.setPort c e { pst with
        origq := rest, txNxt := Assoc.set (fun _ => 0) pst.txNxt ch ((seq + 1) % 2 ^ 24),
        replay := pst.replay ++ [{ ch := ch, seq := seq, pkt := pk, owner := o.owner }] }).syncReplay c e
      if ch = 0 then t1.modPort c e (fun q => { q with snapq := q.snapq ++ [pk] })
      else (t1.origEnter c e pk o.owner).origCell c e
  else
    let t1 := t.setPort c e { pst with origq := rest }
    if ch = 0 then t1.modPort c e (fun q => { q with snapq := q.snapq ++ [o.pkt] })
    else (t1.origEnter c e o.pkt o.owner).origCell c e

/-- ORIG_ADMIT: the next cell of the packet in progress, or the next packet (R194). -/
def Tray.origAdmit (t : Tray) (c e : Nat) : Tray :=
  if (t.pkts c).any (fun p => p.inPort == e && p.orig && decide (p.accts.length < p.cells)) then t.origCell c e
  else
    match t.origPick c e with
    | none => t
    | some (i, pst) =>
      match pst.origq[i]? with
      | none => t
      | some o => t.origTake c e i pst o

/-! ### Streams (R172–R176) -/

/-- ACK or NAK of the stream (endpoint e, channel) by the agent of port `e` (R175). -/
def Tray.sendAck (t : Tray) (c e ch reason : Nat) : Tray :=
  let p := t.port c e
  let exp := Assoc.get (fun _ => 0) p.rxExp ch
  let pk := mkPkt { ptype := if reason = 0 then P.ACK else P.NAK, ch := 2, src := e, dst := e,
                    seat := Assoc.get (fun _ => 0) p.rxSeat ch, arg := ackArg ch exp reason } []
  (t.setPort c e { p with unacked := Assoc.set (fun _ => 0) p.unacked ch 0 }).originate c e .none pk

/-- The transport checks of R173 on a sequenced packet consumed by the agent: accepted or not. -/
def Tray.transport (t : Tray) (c e : Nat) (p : Pkt) : Bool × Tray :=
  let h := p.hdr
  let ch := hCh h
  let q := t.port c e
  let exp := Assoc.get (fun _ => 0) q.rxExp ch
  let t0 := t.setPort c e { q with rxSeat := Assoc.set (fun _ => 0) q.rxSeat ch (hSeat h) }
  if ¬ pE2eOk p then (false, (t0.sat (portPg c e) F.PORT_RX_ERR_E2E_CRC 1).sendAck c e ch 1)
  else if hSeq h = exp then
    (true, t0.modPort c e (fun q => { q with
      rxExp := Assoc.set (fun _ => 0) q.rxExp ch ((exp + 1) % 2 ^ 24),
      nakSent := Assoc.set (fun _ => 0) q.nakSent ch 0,
      unacked := Assoc.set (fun _ => 0) q.unacked ch (Assoc.get (fun _ => 0) q.unacked ch + 1) }))
  else if (exp + 2 ^ 24 - hSeq h) % 2 ^ 24 < 2 ^ 23 then
    (false, t0.modPort c e (fun q => { q with
      unacked := Assoc.set (fun _ => 0) q.unacked ch (max 1 (Assoc.get (fun _ => 0) q.unacked ch)) }))
  else if Assoc.get (fun _ => 0) q.nakSent ch = 1 then (false, t0)
  else
    (false, (t0.modPort c e (fun q => { q with nakSent := Assoc.set (fun _ => 0) q.nakSent ch 1 })).sendAck c e ch 2)

/-- ACK_SEND: the cumulative ACK of a stream that has accepted packets unacknowledged (R174). -/
def Tray.ackSend (t : Tray) (c e ch : Nat) : Tray :=
  if Assoc.get (fun _ => 0) (t.port c e).unacked ch = 0 ∨ ¬ t.up c e then t else t.sendAck c e ch 0

/-- A cumulative acknowledgement up to `seq` reaches the sender: entries below are freed, stale ones counted (R107,
R174). Answers the owners of the freed entries; none where ACK_SEQ lies beyond what was sent. -/
def Tray.ackApply (t : Tray) (c e ch seq : Nat) : Option (List Owner × Tray) :=
  let p := t.port c e
  let una := Assoc.get (fun _ => 0) p.txUna ch
  let nxt := Assoc.get (fun _ => 0) p.txNxt ch
  let dist := (seq + 2 ^ 24 - una) % 2 ^ 24
  if (nxt + 2 ^ 24 - una) % 2 ^ 24 < dist then none
  else
    let isIn := fun (r : ReplayEnt) => r.ch == ch && decide ((r.seq + 2 ^ 24 - una) % 2 ^ 24 < dist)
    let gone := p.replay.filter isIn
    let t1 := (t.setPort c e { p with
      replay := p.replay.filter (fun r => !isIn r), txUna := Assoc.set (fun _ => 0) p.txUna ch seq,
      retries := if dist = 0 then p.retries else Assoc.set (fun _ => 0) p.retries ch 0 }).syncReplay c e
    let t2 := t1.each (gone.filter (fun r => r.freed)) (fun t r => t.charge c (hSeat r.pkt.hdr) N.STALE 1)
    some ((gone.filter (fun r => !r.freed)).map (fun r => r.owner), t2)

/-- Every stored packet of the stream is sent again, in order, with RESENT = 1 (R174). -/
def Tray.resend (t : Tray) (c e ch : Nat) : Tray :=
  let p := t.port c e
  let una := Assoc.get (fun _ => 0) p.txUna ch
  let rs := p.replay.filter (fun r => r.ch == ch && !r.freed)
  let off := fun (r : ReplayEnt) => (r.seq + 2 ^ 24 - una) % 2 ^ 24
  let ins := fun (l : List ReplayEnt) (r : ReplayEnt) =>
    l.filter (fun x => decide (off x < off r)) ++ [r] ++ l.filter (fun x => !decide (off x < off r))
  let sorted := rs.foldl ins []
  (t.modPort c e (fun q => { q with
    origq := q.origq ++ sorted.map (fun r => ⟨pWithSeq r.pkt r.seq true, .none⟩) })).cnt (portPg c e)
    F.PORT_REPLAY_RESENDS sorted.length

/-! ### Egress (R205–R208) -/

/-- Flits of a packet that egress can read: cells written, or zero-filled ones (R153, R206). -/
def CorePkt.flitReady (p : CorePkt) (n : Nat) : Bool :=
  decide (n < 4 * p.crossed) || p.crossed == p.cells || (match p.zeroFrom with | some z => decide (z ≤ n) | none => false)

/-- Flit `n` of a packet as sent. -/
def CorePkt.flit (p : CorePkt) (n : Nat) : Flit :=
  let z := match p.zeroFrom with | some z => decide (z ≤ n) | none => false
  if n = 0 then p.hdr else if z then 0 else (p.pay[n - 1]?).getD 0

/-- The packet may be chosen at output `f`: linked, not begun, its first or last cell written by the mode of its class
(R207). -/
def Tray.choosable (t : Tray) (c f : Nat) (p : CorePkt) : Bool :=
  let ct := bitOf (t.gf (portPg c f) F.PORT_CFG_CUT_THROUGH) (p.cls - 1)
  p.copies.any (fun x => x.port == f && x.linked && !x.started) &&
    (if ct then decide (1 ≤ p.crossed) else p.crossed == p.cells)

/-- Link order of a packet at an output. -/
def CorePkt.orderAt (p : CorePkt) (f : Nat) : Nat :=
  maxL ((p.copies.filter (fun x => x.port == f)).map (fun x => x.order))

/-- The packet linked first. -/
def firstLinked (f : Nat) (l : List CorePkt) : Option CorePkt :=
  l.foldl (fun b p => match b with
    | none => some p
    | some q => if p.orderAt f < q.orderAt f then some p else some q) none

/-- A packet chosen for an output: one of the core, or a TC0 packet; with the port's new shares. -/
structure Pick where
  cls : Nat
  core : Option Nat
  snap : Option Pkt
  port : PortSt
  deriving DecidableEq, Repr

/-- The next packet of class 2 or 3 by deficit round robin among seats (R205, R367). -/
def Tray.pickSeat (t : Tray) (c tc : Nat) (f : Nat) (ps : List CorePkt) (pst : PortSt) : Option Pick :=
  let seats := (List.range 64).filter (fun m => ps.any (fun p => p.seat == m))
  let head := fun m => firstLinked f (ps.filter (fun p => p.seat == m))
  let wait := seats.filterMap (fun m => (head m).map (fun p => (m, 64 * p.flits)))
  let defs := (pst.seatDef.filter (fun a => a.1 / 64 == tc)).map (fun a => (a.1 % 64, a.2))
  let w := fun m => if tc = 2 then t.gf (seatPg c m) F.SEAT_CFG_W_TC2 else t.gf (seatPg c m) F.SEAT_CFG_W_TC3
  match drrPick (Assoc.get (fun _ => 0) pst.seatLast tc) defs wait (fun m => w m * 4160) with
  | none => none
  | some (m, d) =>
    (head m).map (fun p =>
      ⟨tc, some p.id, none, { pst with
        seatLast := Assoc.set (fun _ => 0) pst.seatLast tc m,
        seatDef := d.foldl (fun a x => Assoc.set (fun _ => 0) a (tc * 64 + x.1) x.2)
          (Assoc.keep (fun k => k / 64 != tc) pst.seatDef) }⟩)

/-- The order of service at output `f` among the packets that satisfy `ok` (R205): classes under XOFF skipped. While a
COMMIT of the port page is pending, the port starts no new packet (R94). -/
def Tray.pickEgress (t : Tray) (c f : Nat) (ok : CorePkt → Bool) (okSnap : Pkt → Bool) : Option Pick :=
  let pst := t.port c f
  let x := if t.is (portPg c f) F.PG_COMMIT_STS_PENDING then 15 else t.xoffRx c f
  let tx := pst.tx
  let used := fun tc => (tx.used[tc]?).getD 0
  let egr := chipPg c 0x062
  let av := (t.pkts c).filter (fun p => t.choosable c f p && ok p && !bitOf x p.cls)
  let q := fun tc => av.filter (fun p => p.cls == tc && p.circ == none)
  let snap := if bitOf x 0 then none else (match pst.snapq with | p :: _ => if okSnap p then some p else none | [] => none)
  let circ := (List.range 128).findSome? (fun k =>
    match Assoc.get (fun _ => none) (t.chip c).circs k with
    | some z =>
      if z.outPort = f ∧ Assoc.get (fun _ => 0) tx.circUsed k < z.slots then
        firstLinked f (av.filter (fun p => p.circ == some k))
      else none
    | none => none)
  let one := fun (tc : Nat) (p : CorePkt) => (⟨tc, some p.id, none, pst⟩ : Pick)
  match snap with
  | some p => some ⟨0, none, some p, pst⟩
  | none =>
    let p1 := firstLinked f (q 1)
    let others := circ.isSome || q 2 ≠ [] || q 3 ≠ []
    match (if used 1 * 100 < t.gf egr F.KIT_EGR_TC1_CAP_PCT * 1024 ∨ ¬ others then p1 else none) with
    | some p => some (one 1 p)
    | none =>
      match circ with
      | some p => some (one 3 p)
      | none =>
        let p2 := t.pickSeat c 2 f (q 2) pst
        let p3 := t.pickSeat c 3 f (q 3) pst
        let first3 := tx.tc3Waited && decide (used 3 * 100 < t.gf egr F.KIT_EGR_TC3_MIN_PCT * 1024)
        match (if first3 then p3 else none) with
        | some k => some k
        | none => match p2 with | some k => some k | none => p3

/-- The transmitter advances one flit position; a new frame clears the shares (R205). -/
def TxSt.advance (x : TxSt) : TxSt :=
  let y := { x with pos := (x.pos + 1) % 640, fpos := (x.fpos + 1) % 1024 }
  if y.fpos = 0 then { y with used := [0, 0, 0, 0], circUsed := [], tc3Waited := false } else y

/-- A flit leaves the port, and the position advances. -/
def Tray.sendFlit (t : Tray) (c f : Nat) (fl : Flit) (upd : TxSt → TxSt) : Tray :=
  (t.emit (.flit c f fl)).modPort c f (fun p => { p with tx := (upd p.tx).advance })

/-- One flit of a packet counts against its class, circuit and seat (R371, R484). -/
def Tray.countTx (t : Tray) (c f cls m : Nat) (circ : Option Nat) (newCell : Bool) : Tray :=
  (t.modPort c f (fun p => { p with tx := { p.tx with
    used := p.tx.used.set cls (((p.tx.used[cls]?).getD 0) + 1),
    circUsed := match circ with
      | some k => if newCell then Assoc.set (fun _ => 0) p.tx.circUsed k (Assoc.get (fun _ => 0) p.tx.circUsed k + 1)
                  else p.tx.circUsed
      | none => p.tx.circUsed } })).charge c m N.TX_BYTES 64

/-- The first flit of a cell reads it from the kitty (R384). -/
def Tray.kittyRead (t : Tray) (c m n : Nat) : Tray := t.energy c m En.KITTY (b2n (n % 4 == 0))

/-- The copy of packet `id` on output `f` has sent `n` flits; sent whole, it leaves the queue (R200). -/
def Tray.copySent (t : Tray) (c f id n : Nat) : Tray :=
  match t.findPkt c id with
  | none => t
  | some p =>
    let t1 := t.modPkt c id (fun q => { q with
      judged := q.judged || decide (q.flits ≤ n),
      copies := (q.copies.map (fun x => if x.port = f then { x with sent := n, started := true } else x)).filter
        (fun x => !(x.port == f && decide (q.flits ≤ n))) })
    if n % 4 = 0 ∨ p.flits ≤ n then t1.updResv c p.inPort else t1

/-- One flit of a packet of the core: number `n`; a payload flit that equals BREAK goes as two BREAKs
(R148), both counted (R484). -/
def Tray.sendCore (t : Tray) (c f : Nat) (p : CorePkt) (n : Nat) (inserted : Bool) : Tray :=
  let fl := p.flit n
  let x := (t.port c f).tx
  if n ≠ 0 ∧ fl = breakFlit ∧ ¬ x.lit then
    (t.countTx c f p.cls p.seat p.circ false).sendFlit c f breakFlit (fun x => { x with lit := true })
  else
    let t1 := (((t.countTx c f p.cls p.seat p.circ (n % 4 == 0)).charge c p.seat N.TX_PKTS (b2n (n == 0))).copySent c f
      p.id (n + 1)).kittyRead c p.seat n
    let fin := decide (p.flits ≤ n + 1)
    t1.sendFlit c f fl (fun x =>
      if inserted then { x with lit := false, brk := false, ins := if fin then none else some p.id, insSent := n }
      else { x with lit := false, cur := if fin then none else some p.id, sent := n })

/-- One flit of a TC0 packet. -/
def Tray.sendSnap (t : Tray) (c f : Nat) (p : Pkt) (n : Nat) (inserted : Bool) : Tray :=
  let fl := if n = 0 then p.hdr else (p.pay[n - 1]?).getD 0
  let x := (t.port c f).tx
  let m := hSeat p.hdr
  if n ≠ 0 ∧ fl = breakFlit ∧ ¬ x.lit then
    (t.countTx c f 0 m none false).sendFlit c f breakFlit (fun x => { x with lit := true })
  else
    let t1 := (t.countTx c f 0 m none false).charge c m N.TX_PKTS (b2n (n == 0))
    let fin := decide (1 + p.pay.length ≤ n + 1)
    t1.sendFlit c f fl (fun x =>
      if inserted then { x with lit := false, brk := false, insSnap := if fin then none else some p, insSent := n }
      else { x with lit := false, curSnap := if fin then none else some p, sent := n })

/-- TC3 has waited in this frame (R205). -/
def Tray.markTc3 (t : Tray) (c f : Nat) (chosen : Nat) : Tray :=
  if chosen ≠ 3 ∧ (t.pkts c).any (fun p => p.cls == 3 && p.circ == none && t.choosable c f p) then
    t.modPort c f (fun p => { p with tx := { p.tx with tc3Waited := true } })
  else t

/-- A header position: the next packet under R205, or an IDLE header. -/
def Tray.egressHeader (t : Tray) (c f : Nat) : Tray :=
  match t.pickEgress c f (fun _ => true) (fun _ => true) with
  | none => t.sendFlit c f idleHdr id
  | some k =>
    let t1 := (t.setPort c f k.port).markTc3 c f k.cls
    match k.snap with
    | some p => (t1.modPort c f (fun q => { q with snapq := q.snapq.drop 1 })).sendSnap c f p 0 false
    | none =>
      match k.core.bind (fun i => t1.findPkt c i) with
      | some p => t1.sendCore c f p 0 false
      | none => t1.sendFlit c f idleHdr id

/-- The packet an insertion would take at a payload position of a packet of class `cls`: another class that wins under
R205, at most 256 B, whole in the kitty, fitting before the next sync slot (R149, R206). -/
def Tray.insertPick (t : Tray) (c f cls : Nat) (curBlocked : Bool) : Option Pick :=
  let pos := (t.port c f).tx.pos
  let fits := fun n => decide (n ≤ 4) && decide (pos + 2 + n ≤ 640)
  match t.pickEgress c f
      (fun p => p.cls != cls && p.crossed == p.cells && fits (p.flits - 1) &&
        !((p.pay.take (p.flits - 1)).contains breakFlit))
      (fun p => cls != 0 && fits p.pay.length && !(p.pay.contains breakFlit)) with
  | none => none
  | some k => if curBlocked ∨ k.cls < cls then some k else none

/-- A payload position of the packet in progress: an insertion, an IDLE after a BREAK, or the next flit (R206, R208). -/
def Tray.egressPayload (t : Tray) (c f cls : Nat) (ready under : Bool) (go : Tray → Tray) : Tray :=
  let blocked := bitOf (t.xoffRx c f) cls || !ready
  match t.insertPick c f cls blocked with
  | some k =>
    let t1 := t.setPort c f k.port
    match k.snap with
    | some p => (t1.modPort c f (fun q => { q with snapq := q.snapq.drop 1 })).sendFlit c f breakFlit
        (fun x => { x with brk := true, insSnap := some p, insSent := 0 })
    | none => t1.sendFlit c f breakFlit (fun x => { x with brk := true, ins := k.core, insSent := 0 })
  | none =>
    if blocked then
      let t1 := if under && !ready && !bitOf (t.xoffRx c f) cls then
        t.cnt (chipPg c (0x064 + f / 8)) (F.KIT_OQ_UNDER_UNDERRUN.at (0x20 * (f % 8))) 1 else t
      t1.sendFlit c f breakFlit (fun x => { x with brk := true, ins := none, insSnap := none })
    else go t

/-- EGRESS_SELECT: the flit at the next position of output `f` (R148–R151, R205). -/
def Tray.egressSelect (t : Tray) (c f : Nat) : Tray :=
  let x := (t.port c f).tx
  let left := fun (hdr : Flit) (sent : Nat) => resumeHdr hdr (flitsOf (hLen hdr) - sent)
  if ¬ t.up c f then t
  else if x.brk ∧ x.pos ≠ 0 then
    -- after a BREAK: the inserted packet's header, or an IDLE header
    match x.insSnap with
    | some p => t.sendSnap c f p 0 true
    | none =>
      match x.ins.bind (fun i => t.findPkt c i) with
      | some p => t.sendCore c f p 0 true
      | none => t.sendFlit c f idleHdr (fun x => { x with brk := false, ins := none })
  else
    match x.insSnap with
    | some p => t.sendSnap c f p (x.insSent + 1) true
    | none =>
      match x.ins.bind (fun i => t.findPkt c i) with
      | some p => t.sendCore c f p (x.insSent + 1) true
      | none =>
        match x.curSnap with
        | some p =>
          if x.pos = 0 then t.sendFlit c f (left p.hdr x.sent) (fun x => { x with brk := false })
          else if x.lit then t.sendSnap c f p (x.sent + 1) false
          else t.egressPayload c f 0 true false (fun t => t.sendSnap c f p (x.sent + 1) false)
        | none =>
          match x.cur.bind (fun i => t.findPkt c i) with
          | some p =>
            if x.pos = 0 then t.sendFlit c f (left p.hdr x.sent) (fun x => { x with brk := false })
            else if x.lit then t.sendCore c f p (x.sent + 1) false
            else t.egressPayload c f p.cls (p.flitReady (x.sent + 1)) true
              (fun t => t.sendCore c f p (x.sent + 1) false)
          | none => (t.modPort c f (fun q => { q with tx := { q.tx with cur := none, ins := none, lit := false } })).egressHeader c f

end Sys2Proof.Machine
end

