-- ==== Sys2Proof/Machine/Deck.lean ====
section
/-! DEFINITION. The deck ring: routes, injection under the bubble rule, receipt with link-level resend, hops that go down
and come up (R217–R220, R228). -/
namespace Sys2Proof.Machine

/-- Page of the deck ring node of a chip. -/
def deckPg (n : Nat) : Nat := chipPg n 0x330

/-- Neighbours of a node: 5 the bridge, clockwise 5, 0, 1, 2, 3, 4, 5. -/
def cwOf (n : Nat) : Nat := (n + 1) % 6
def ccwOf (n : Nat) : Nat := (n + 5) % 6
/-- The neighbour in a direction. -/
def hopTo (n : Nat) (ccw : Bool) : Nat := if ccw then ccwOf n else cwOf n
/-- Hops to a destination in a direction. -/
def hopsTo (n dst : Nat) (ccw : Bool) : Nat := if ccw then (n + 6 - dst) % 6 else (dst + 6 - n) % 6

/-- Queue number of a direction and class. -/
def ringQ (ccw ctrl : Bool) : Nat := 2 * b2n ccw + b2n ctrl

/-- The hop from a node in a direction is up. -/
def Tray.hopUp (t : Tray) (n : Nat) (ccw : Bool) : Bool := (t.node (if ccw then ccwOf n else n)).cwHop == 2

/-- Every hop of the way from a node in a direction is up. -/
def Tray.wayUp (t : Tray) (ccw : Bool) : Nat → Nat → Bool
  | 0, _ => true
  | k + 1, n => t.hopUp n ccw && t.wayUp ccw k (hopTo n ccw)

def NodeSt.q (l : Assoc (List RingPkt)) (d : Nat) : List RingPkt := Assoc.get (fun _ => []) l d
def NodeSt.setQ (l : Assoc (List RingPkt)) (d : Nat) (x : List RingPkt) : Assoc (List RingPkt) :=
  Assoc.set (fun _ => []) l d x

/-- The direction a transfer takes: fewer hops, for three hops the shorter queue, CW on a tie; the other way where a hop
of that way is down and the other way is whole (R217, R220). -/
def Tray.ringDir (t : Tray) (n dst : Nat) (ctrl : Bool) : Bool :=
  let cw := hopsTo n dst false
  let ccw := hopsTo n dst true
  let qlen := fun b => (NodeSt.q (t.node n).inject (ringQ b ctrl)).length
  let want := if cw < ccw then false else if ccw < cw then true else decide (qlen true < qlen false)
  if ¬ t.wayUp want (hopsTo n dst want) n ∧ t.wayUp (!want) (hopsTo n dst (!want)) n then !want else want

/-- A node has the packets of one transfer to send: all wait for injection in one direction. -/
def Tray.ringSend (t : Tray) (n : Nat) (l : List (RingParts × List Byte)) : Tray :=
  match l with
  | [] => t
  | a :: _ =>
    let ctrl := decide (4 ≤ a.1.kind)
    let dir := t.ringDir n a.1.dst ctrl
    let d := ringQ dir ctrl
    t.modNode n (fun x => { x with
      inject := NodeSt.setQ x.inject d (NodeSt.q x.inject d ++ l.map (fun b => mkRing { b.1 with src := n, ccw := dir } b.2)) })

/-- Transit buffers of a class. -/
def ringCap (ctrl : Bool) : Nat := if ctrl then 4 else 6

/-- Bytes of a ring packet. -/
def ringSize (p : RingPkt) : Nat := 32 + p.pay.length

/-- A node puts a packet on its link: counted, kept in the retry buffer of eight (R219, R220). -/
def Tray.ringTx (t : Tray) (n : Nat) (p : RingPkt) : Tray :=
  let d := ringQ (rCcw p) (rCtrl p)
  let t1 := t.modNode n (fun x => { x with
    retry := NodeSt.setQ x.retry d (((NodeSt.q x.retry d) ++ [p]).drop ((NodeSt.q x.retry d).length + 1 - 8)) })
  let idx := (if rCtrl p then 0 else 2) + b2n (rCcw p)
  let t2 := if n < 5 then
    (t1.cnt (deckPg n) (F.DECK_BYTES_BYTES.at (8 * idx)) (ringSize p)).charge n (rSeat p) N.DECK_BYTES (ringSize p) else t1
  t2.emit (.ring n (b2n (rCcw p)) p)

/-- Shuffle (1) or spill (0). -/
def ringFlow (p : RingPkt) : Nat := if rKind p = 3 then 1 else 0

/-- The next packet that a node injects in a direction and class: of DATA, shuffle and spill share by deficit round robin
(R219). -/
def Tray.ringNext (t : Tray) (n : Nat) (ccw ctrl : Bool) : Option (RingPkt × NodeSt) :=
  let x := t.node n
  let d := ringQ ccw ctrl
  let q := NodeSt.q x.inject d
  let take := fun (y : NodeSt) (p : RingPkt) => { y with inject := NodeSt.setQ y.inject d (q.erase p) }
  if ctrl then q.head?.map (fun p => (p, take x p))
  else
    let first := fun k => q.find? (fun p => ringFlow p == k)
    let waiting := [0, 1].filterMap (fun k => (first k).map (fun p => (k, ringSize p)))
    let w := fun k => if n < 5 then t.gf (deckPg n) (if k = 1 then F.DECK_CFG_SHUF_W else F.DECK_CFG_SPILL_W) else 4
    let mine := Assoc.keep (fun k => k / 2 == b2n ccw) x.defs
    let defs := mine.map (fun a => (a.1 % 2, a.2))
    match drrPick x.lastInj defs waiting (fun k => w k * 2080) with
    | none => none
    | some (k, ds) =>
      match first k with
      | none => none
      | some p =>
        let other := Assoc.keep (fun k => k / 2 != b2n ccw) x.defs
        let put := (ds.foldl (fun a e => Assoc.set (fun _ => 0) a (2 * b2n ccw + e.1) e.2) other)
        some (p, { take x p with defs := put, lastInj := k })

/-- DECK_INJECT: the node injects its next packet where two transit buffers of the class are free. -/
def Tray.deckInject (t : Tray) (n : Nat) (ccw ctrl : Bool) : Tray :=
  let d := ringQ ccw ctrl
  if ¬ t.hopUp n ccw ∨ ringCap ctrl < (NodeSt.q (t.node n).transit d).length + 2 then t
  else
    match t.ringNext n ccw ctrl with
    | none => t
    | some (p, x) =>
      let t1 := (t.modNode n (fun _ => x)).ringTx n p
      if n < 5 then
        let (w, t2) := t1.free 32
        t2.wmMax (deckPg n) F.DECK_INJ_WAIT_MAX_NS w
      else t1

/-- DECK_STS of the chips that have left core reset shows the hops, and CHAIN whether one is down; a change of CHAIN raises
its interrupt. -/
def Tray.showHops (t : Tray) : Tray :=
  let chain := (List.range 6).any (fun k => (t.node k).cwHop != 2)
  t.each (List.range 5) (fun t c =>
    if ¬ (t.chip c).coreUp then t
    else
      let pg := deckPg c
      let t1 := (t.sb pg F.DECK_STS_CW_UP (t.hopUp c false)).sb pg F.DECK_STS_CCW_UP (t.hopUp c true)
      if t1.is pg F.DECK_STS_CHAIN = chain then t1 else (t1.sb pg F.DECK_STS_CHAIN chain).raise pg 9)

/-- Packets that wait at a node to go over a hop that is down go the other way. -/
def Tray.reroute (t : Tray) (n : Nat) (ccw : Bool) : Tray :=
  t.each [false, true] (fun t ctrl =>
    let d := ringQ ccw ctrl
    let o := ringQ (!ccw) ctrl
    let turn := fun (p : RingPkt) =>
      mkRing { dst := rDst p, src := rSrc p, ccw := !ccw, kind := rKind p, seat := rSeat p, xfer := rXfer p, addr := rAddr p,
               epoch := rEpoch p, pseq := rPseq p } p.pay
    t.modNode n (fun x => { x with
      inject := NodeSt.setQ (NodeSt.setQ x.inject o (NodeSt.q x.inject o ++ (NodeSt.q x.inject d).map turn)) d [] }))

/-- Packets held at a node for a direction: in transit and in the retry buffer. -/
def Tray.ringHeld (t : Tray) (n : Nat) (ccw : Bool) : List RingPkt :=
  [false, true].flatMap (fun ctrl => NodeSt.q (t.node n).transit (ringQ ccw ctrl))

/-- A node's transit and retry buffers of a direction are emptied. -/
def Tray.ringDrop (t : Tray) (n : Nat) (ccw : Bool) : Tray :=
  t.each [false, true] (fun t ctrl => t.modNode n (fun x => { x with
    transit := NodeSt.setQ x.transit (ringQ ccw ctrl) [], retry := NodeSt.setQ x.retry (ringQ ccw ctrl) [],
    fails := Assoc.set (fun _ => 0) x.fails (ringQ ccw ctrl) 0 }))

/-- The hop from `n` to its clockwise neighbour goes down (R220). `lost` handles a transfer that was in progress over
it. -/
def Tray.deckHopDown (t : Tray) (n : Nat) (lost : Tray → RingPkt → Tray) : Tray :=
  if (t.node n).cwHop ≠ 2 then t
  else
    let m := cwOf n
    let gone := t.ringHeld n false ++ t.ringHeld m true
    let t1 := ((t.modNode n (fun x => { x with cwHop := 0 })).ringDrop n false).ringDrop m true
    let t2 := ((t1.reroute n false).reroute m true).showHops
    let t3 := t2.each ([n, m].filter (fun k => decide (k < 5))) (fun t k =>
      (t.sat (deckPg k) F.DECK_ERR_LINK_FAIL 1).raise (deckPg k) 8)
    (t3.logEv .deckHopDown (if n < 5 then 2 + n else 1) [n, m]).each gone lost

/-- DECK_RETRAIN: the down hops of the node are retrained (R228). -/
def Tray.deckRetrain (t : Tray) (n : Nat) : Tray :=
  t.each [n, ccwOf n] (fun t k => t.modNode k (fun x => if x.cwHop = 0 then { x with cwHop := 1 } else x))

/-- DECK_HOP_UP: the hop in training from `n` to its clockwise neighbour comes up; CHAIN clears when the ring is whole. -/
def Tray.deckHopUp (t : Tray) (n : Nat) : Tray :=
  if (t.node n).cwHop ≠ 1 then t
  else
    (t.modNode n (fun x => { x with cwHop := 2 })).showHops

/-- DECK_PACKET_RECEIVE: CRC check, resend from the upstream retry buffer, discard of reserved values, then the packet is
consumed here or goes on (R218–R220). -/
def Tray.deckReceive (t : Tray) (n : Nat) (p : RingPkt) (consume : Tray → RingPkt → Tray)
    (lost : Tray → RingPkt → Tray) : Tray :=
  let ccw := rCcw p
  let up := hopTo n (!ccw)
  let d := ringQ ccw (rCtrl p)
  if ¬ t.hopUp n (!ccw) then t
  else if ¬ ringOk p then
    let f := Assoc.get (fun _ => 0) (t.node n).fails d + 1
    let t1 := t.modNode n (fun x => { x with fails := Assoc.set (fun _ => 0) x.fails d f })
    let t2 := if n < 5 then t1.sat (deckPg n) F.DECK_ERR_CRC 1 else t1
    if 16 ≤ f then t2.deckHopDown (if ccw then n else up) lost
    else
      match NodeSt.q (t.node up).retry d with
      | [] => t2
      | q :: _ => (if up < 5 then t2.sat (deckPg up) F.DECK_ERR_RETRY 1 else t2).emit (.ring up (b2n ccw) q)
  else
    let t1 := t.modNode n (fun x => { x with fails := Assoc.set (fun _ => 0) x.fails d 0 })
    -- the packet has left the node it came from
    let t2 := t1.modNode up (fun x => { x with transit := NodeSt.setQ x.transit d ((NodeSt.q x.transit d).erase p),
                                               retry := NodeSt.setQ x.retry d ((NodeSt.q x.retry d).erase p) })
    if ¬ ringFieldsOk p then (if n < 5 then t2.sat (deckPg n) F.DECK_ERR_BAD 1 else t2)
    else if rDst p = n then consume t2 p
    else if t2.hopUp n ccw then
      (t2.modNode n (fun x => { x with transit := NodeSt.setQ x.transit d (NodeSt.q x.transit d ++ [p]) })).ringTx n p
    else
      -- the other way: the hop ahead is down
      let q := mkRing { dst := rDst p, src := rSrc p, ccw := !ccw, kind := rKind p, seat := rSeat p, xfer := rXfer p,
                        addr := rAddr p, epoch := rEpoch p, pseq := rPseq p } p.pay
      let o := ringQ (!ccw) (rCtrl p)
      (t2.modNode n (fun x => { x with transit := NodeSt.setQ x.transit o (NodeSt.q x.transit o ++ [q]) })).ringTx n q

end Sys2Proof.Machine
end

