-- ==== Sys2Proof/Machine/Sha.lean ====
section
/-! DEFINITION. SHA-384 (PREV_HASH and the seals of R377 and R383, the bundle digest of R457, the configuration digest of
R446). The spec names the function; its definition is FIPS 180-4 (log 22). -/
namespace Sys2Proof.Machine

/-- Round constants. -/
def shaK : List Word :=
  [0x428A2F98D728AE22, 0x7137449123EF65CD, 0xB5C0FBCFEC4D3B2F, 0xE9B5DBA58189DBBC,
   0x3956C25BF348B538, 0x59F111F1B605D019, 0x923F82A4AF194F9B, 0xAB1C5ED5DA6D8118,
   0xD807AA98A3030242, 0x12835B0145706FBE, 0x243185BE4EE4B28C, 0x550C7DC3D5FFB4E2,
   0x72BE5D74F27B896F, 0x80DEB1FE3B1696B1, 0x9BDC06A725C71235, 0xC19BF174CF692694,
   0xE49B69C19EF14AD2, 0xEFBE4786384F25E3, 0x0FC19DC68B8CD5B5, 0x240CA1CC77AC9C65] ++
  [0x2DE92C6F592B0275, 0x4A7484AA6EA6E483, 0x5CB0A9DCBD41FBD4, 0x76F988DA831153B5,
   0x983E5152EE66DFAB, 0xA831C66D2DB43210, 0xB00327C898FB213F, 0xBF597FC7BEEF0EE4,
   0xC6E00BF33DA88FC2, 0xD5A79147930AA725, 0x06CA6351E003826F, 0x142929670A0E6E70,
   0x27B70A8546D22FFC, 0x2E1B21385C26C926, 0x4D2C6DFC5AC42AED, 0x53380D139D95B3DF,
   0x650A73548BAF63DE, 0x766A0ABB3C77B2A8, 0x81C2C92E47EDAEE6, 0x92722C851482353B] ++
  [0xA2BFE8A14CF10364, 0xA81A664BBC423001, 0xC24B8B70D0F89791, 0xC76C51A30654BE30,
   0xD192E819D6EF5218, 0xD69906245565A910, 0xF40E35855771202A, 0x106AA07032BBD1B8,
   0x19A4C116B8D2D0C8, 0x1E376C085141AB53, 0x2748774CDF8EEB99, 0x34B0BCB5E19B48A8,
   0x391C0CB3C5C95A63, 0x4ED8AA4AE3418ACB, 0x5B9CCA4F7763E373, 0x682E6FF3D6B2B8A3,
   0x748F82EE5DEFB2FC, 0x78A5636F43172F60, 0x84C87814A1F0AB72, 0x8CC702081A6439EC] ++
  [0x90BEFFFA23631E28, 0xA4506CEBDE82BDE9, 0xBEF9A3F7B2C67915, 0xC67178F2E372532B,
   0xCA273ECEEA26619C, 0xD186B8C721C0C207, 0xEADA7DD6CDE0EB1E, 0xF57D4F7FEE6ED178,
   0x06F067AA72176FBA, 0x0A637DC5A2C898A6, 0x113F9804BEF90DAE, 0x1B710B35131C471B,
   0x28DB77F523047D84, 0x32CAAB7B40C72493, 0x3C9EBE0A15C9BEBC, 0x431D67C49C100D4C,
   0x4CC5D4BECB3E42B6, 0x597F299CFC657E2A, 0x5FCB6FAB3AD6FAEC, 0x6C44198C4A475817]

/-- Initial value. -/
def shaIv : List Word :=
  [0xCBBB9D5DC1059ED8, 0x629A292A367CD507, 0x9159015A3070DD17, 0x152FECD8F70E5939,
   0x67332667FFC00B31, 0x8EB44A8768581511, 0xDB0C2E0D64F98FA7, 0x47B5481DBEFA4FA4]

/-- Big-endian value of a byte list. -/
def beVal (l : List Byte) : Nat := l.foldl (fun a b => 256 * a + b.toNat) 0

/-- The `n` big-endian bytes of `v`. -/
def beBytes (n v : Nat) : List Byte := (leBytes n v).reverse

/-- Sixteen words of a 128-byte block. -/
def shaWords : Nat → List Byte → List Word
  | 0, _ => []
  | n + 1, l => BitVec.ofNat 64 (beVal (l.take 8)) :: shaWords n (l.drop 8)

/-- Rotation of a word to the right. -/
def shaRot (x : Word) (n : Nat) : Word := (x >>> n) ||| (x <<< (64 - n))

/-- `n` further words of the schedule; `l` holds those so far, latest first. -/
def shaSched : Nat → List Word → List Word
  | 0, l => l
  | n + 1, l =>
    let w := fun i => (l[i]?).getD 0
    let a := w 14
    let b := w 1
    let s0 := shaRot a 1 ^^^ shaRot a 8 ^^^ (a >>> 7)
    let s1 := shaRot b 19 ^^^ shaRot b 61 ^^^ (b >>> 6)
    shaSched n ((w 15 + s0 + w 6 + s1) :: l)

/-- The eight working variables. -/
structure ShaVars where
  a : Word
  b : Word
  c : Word
  d : Word
  e : Word
  f : Word
  g : Word
  h : Word

/-- One round with constant plus schedule word `k`. -/
def ShaVars.round (v : ShaVars) (k : Word) : ShaVars :=
  let s1 := shaRot v.e 14 ^^^ shaRot v.e 18 ^^^ shaRot v.e 41
  let ch := (v.e &&& v.f) ^^^ (~~~v.e &&& v.g)
  let t1 := v.h + s1 + ch + k
  let s0 := shaRot v.a 28 ^^^ shaRot v.a 34 ^^^ shaRot v.a 39
  let mj := (v.a &&& v.b) ^^^ (v.a &&& v.c) ^^^ (v.b &&& v.c)
  ⟨t1 + (s0 + mj), v.a, v.b, v.c, v.d + t1, v.e, v.f, v.g⟩

/-- The eight words of a chaining value. -/
def ShaVars.words (v : ShaVars) : List Word := [v.a, v.b, v.c, v.d, v.e, v.f, v.g, v.h]

/-- The chaining value after one block. -/
def shaBlock (hs : List Word) (block : List Byte) : List Word :=
  let h := fun i => (hs[i]?).getD 0
  let ws := (shaSched 64 (shaWords 16 block).reverse).reverse
  let ks := List.zipWith (· + ·) shaK ws
  let v := ks.foldl (fun v k => v.round k) (⟨h 0, h 1, h 2, h 3, h 4, h 5, h 6, h 7⟩ : ShaVars)
  List.zipWith (· + ·) hs v.words

/-- The chaining value after `n` blocks. -/
def shaBlocks : Nat → List Word → List Byte → List Word
  | 0, hs, _ => hs
  | n + 1, hs, l => shaBlocks n (shaBlock hs (l.take 128)) (l.drop 128)

/-- The SHA-384 digest, 48 bytes in output order. -/
def sha384 (l : List Byte) : List Byte :=
  let n := (l.length + 17 + 127) / 128
  let pad := l ++ [0x80] ++ List.replicate (128 * n - l.length - 17) 0 ++ beBytes 16 (8 * l.length)
  ((shaBlocks n shaIv pad).take 6).flatMap (fun w => beBytes 8 w.toNat)

end Sys2Proof.Machine
end

