-- ==== Sys2Proof/Machine/Float.lean ====
section
/-! DEFINITION. Element formats and their arithmetic: exact values, one rounding to nearest with ties to even, and the
flags that an operation raises (R258, R259, R304, R330–R333). -/
namespace Sys2Proof.Machine

/-- A value of a format: a NaN, an infinity, or (−1)^neg × m × 2^e. -/
inductive FV where
  | nan
  | inf (neg : Bool)
  | num (neg : Bool) (m : Nat) (e : Int)
  deriving DecidableEq, Repr

/-- A binary format: exponent bits, fraction bits, bias, code of the largest finite magnitude, whether codes above it
hold infinities and NaNs. -/
structure BinFmt where
  eb : Nat
  mb : Nat
  bias : Int
  top : Nat
  hasInf : Bool
  hasNan : Bool
  deriving DecidableEq, Repr

/-- The binary formats of R304 (8 to 12: the element formats of the MX formats). -/
def binFmt : Nat → BinFmt
  | 0 => ⟨11, 52, 1023, 0x7FEFFFFFFFFFFFFF, true, true⟩
  | 1 => ⟨8, 23, 127, 0x7F7FFFFF, true, true⟩
  | 2 => ⟨5, 10, 15, 0x7BFF, true, true⟩
  | 3 => ⟨8, 7, 127, 0x7F7F, true, true⟩
  | 4 | 11 => ⟨4, 3, 7, 0x7E, false, true⟩
  | 5 | 12 => ⟨5, 2, 15, 0x7B, true, true⟩
  | 8 => ⟨2, 1, 1, 0x7, false, false⟩
  | 9 => ⟨2, 3, 1, 0x1F, false, false⟩
  | _ => ⟨3, 2, 3, 0x1F, false, false⟩

/-- Bits of an element (R304). -/
def fmtBits (f : Nat) : Nat :=
  match f with
  | 0 => 64 | 1 | 6 => 32 | 2 | 3 => 16 | 8 => 4 | 9 | 10 => 6 | _ => 8

/-- S, the element size of a table format in bytes (R258). -/
def fmtSize (f : Nat) : Nat := fmtBits f / 8

/-- A microscaling format. -/
def isMx (f : Nat) : Bool := decide (8 ≤ f) && decide (f ≤ 13)

/-- An integer format. -/
def isInt (f : Nat) : Bool := f == 6 || f == 7 || f == 13

/-- Canonical NaN of a format (R259). -/
def canonNan (f : Nat) : Nat :=
  match f with
  | 0 => 0x7FF8000000000000 | 1 => 0x7FC00000 | 2 => 0x7E00 | 3 => 0x7FC0 | 4 | 11 => 0x7F | _ => 0x7E

/-- NUMFLAGS (R251, R259). -/
def NF.GEN : Nat := 1
def NF.IN : Nat := 2
def NF.OVF : Nat := 4

/-! ### Codes and values -/

/-- The sign bit's weight. -/
def BinFmt.sgn (b : BinFmt) : Nat := 2 ^ (b.eb + b.mb)

/-- The value of a code. -/
def BinFmt.dec (b : BinFmt) (x : Nat) : FV :=
  let neg := bitOf x (b.eb + b.mb)
  let mag := x % b.sgn
  let ex := mag / 2 ^ b.mb
  let fr := mag % 2 ^ b.mb
  if b.top < mag then (if b.hasInf ∧ fr = 0 then .inf neg else .nan)
  else if ex = 0 then .num neg fr (1 - b.bias - b.mb)
  else .num neg (2 ^ b.mb + fr) (ex - b.bias - b.mb)

/-- Two's-complement value of the low `w` bits. -/
def signedOf (w x : Nat) : Int := if bitOf x (w - 1) then (x % 2 ^ w : Int) - 2 ^ w else (x % 2 ^ w : Int)

/-- The code of an integer, wrapped to `w` bits. -/
def unsignedOf (w : Nat) (v : Int) : Nat := (v % (2 ^ w : Int)).toNat

/-- An integer as a value. -/
def FV.ofInt (v : Int) : FV := .num (decide (v < 0)) v.natAbs 0

/-- The value of an element code of format `f`. -/
def fvDec (f x : Nat) : FV :=
  if f = 6 then FV.ofInt (signedOf 32 x)
  else if f = 7 then FV.ofInt (signedOf 8 x)
  else if f = 13 then (match FV.ofInt (signedOf 8 x) with | .num s m e => .num s m (e - 6) | v => v)
  else (binFmt f).dec x

/-- The magnitude m × 2^e rounded to a multiple of 2^q, ties to even: the quotient. -/
def roundDiv (m : Nat) (e q : Int) : Nat :=
  if q ≤ e then m * 2 ^ (e - q).toNat
  else
    let d := (q - e).toNat
    let quo := m / 2 ^ d
    let rem := m % 2 ^ d
    let half := 2 ^ (d - 1)
    if half < rem ∨ (rem = half ∧ quo % 2 = 1) then quo + 1 else quo

/-- The magnitude code nearest to m × 2^e, ties to even, as if the exponent range had no upper end. -/
def BinFmt.mag (b : BinFmt) (m : Nat) (e : Int) : Nat :=
  if m = 0 then 0
  else
    let qmin : Int := 1 - b.bias - b.mb
    let q := max ((Nat.log2 m : Int) + e - b.mb) qmin
    (q - qmin).toNat * 2 ^ b.mb + roundDiv m e q

/-- Does a value overflow the format? -/
def BinFmt.overflows (b : BinFmt) (v : FV) : Bool :=
  match v with | .num _ m e => decide (b.top < b.mag m e) | _ => false

/-- The sign bit of a code. -/
def BinFmt.sign (b : BinFmt) (neg : Bool) : Nat := if neg then b.sgn else 0

/-- The code of a value in format `f` (0 to 5), with the overflow rule of R259 and `sat8`; and the flags OVF and
NAN_GEN. A NaN gives the canonical NaN. -/
def fvEnc (f : Nat) (sat8 : Bool) (v : FV) : Nat × Nat :=
  let b := binFmt f
  let inf := fun neg => b.sign neg + b.top + 1
  let big := fun neg => b.sign neg + b.top
  match v with
  | .nan => (canonNan f, 0)
  | .inf neg =>
    if b.hasInf then (inf neg, 0)
    else if sat8 then (big neg, NF.OVF) else (canonNan f, NF.OVF + NF.GEN)
  | .num neg m e =>
    let c := b.mag m e
    if c ≤ b.top then (b.sign neg + c, 0)
    else if f = 4 ∨ f = 11 then (if sat8 then (big neg, NF.OVF) else (canonNan f, NF.OVF + NF.GEN))
    else if (f = 5 ∨ f = 12) ∧ sat8 then (big neg, NF.OVF)
    else (inf neg, NF.OVF)

/-- The integer nearest to a value, ties to even, saturated to `w` bits; a NaN gives 0 and NAN_IN (R332). -/
def fvEncInt (w : Nat) (v : FV) : Nat × Nat :=
  let lim : Int := 2 ^ (w - 1)
  let sat := fun (x : Int) =>
    if lim ≤ x then (unsignedOf w (lim - 1), NF.OVF)
    else if x < -lim then (unsignedOf w (-lim), NF.OVF) else (unsignedOf w x, 0)
  match v with
  | .nan => (0, NF.IN)
  | .inf neg => if neg then sat (-lim - 1) else sat lim
  | .num neg m e => let r : Int := roundDiv m e 0; sat (if neg then -r else r)

/-- Conversion of a value to format 0 to 7 (R332). -/
def fvConv (f : Nat) (sat8 : Bool) (v : FV) : Nat × Nat :=
  if f = 6 then fvEncInt 32 v else if f = 7 then fvEncInt 8 v else fvEnc f sat8 v

/-- A value rounded once to FP32 or FP64, as a value, with its flags. -/
def fvRound (f : Nat) (v : FV) : FV × Nat :=
  let r := fvEnc f false v
  ((binFmt f).dec r.1, r.2)

/-! ### Exact arithmetic -/

/-- The integer of a number on the grid 2^q, q at most its exponent. -/
def onGrid (neg : Bool) (m : Nat) (e q : Int) : Int :=
  let x : Int := (m * 2 ^ (e - q).toNat : Nat)
  if neg then -x else x

/-- Exact sum: Inf − Inf is a NaN, (−0) + (−0) = −0, any other zero sum is +0. -/
def FV.add : FV → FV → FV
  | .nan, _ => .nan
  | _, .nan => .nan
  | .inf a, .inf b => if a = b then .inf a else .nan
  | .inf a, .num .. => .inf a
  | .num .., .inf b => .inf b
  | .num a m e, .num b n g =>
    let q := min e g
    let s := onGrid a m e q + onGrid b n g q
    if s = 0 then .num (a && b) 0 0 else .num (decide (s < 0)) s.natAbs q

/-- Exact product: Inf × 0 is a NaN. -/
def FV.mul : FV → FV → FV
  | .nan, _ => .nan
  | _, .nan => .nan
  | .inf a, .inf b => .inf (a != b)
  | .inf a, .num b m _ => if m = 0 then .nan else .inf (a != b)
  | .num a m _, .inf b => if m = 0 then .nan else .inf (a != b)
  | .num a m e, .num b n g => .num (a != b) (m * n) (e + g)

def FV.neg : FV → FV
  | .nan => .nan
  | .inf a => .inf !a
  | .num a m e => .num (!a) m e

def FV.isNan : FV → Bool
  | .nan => true
  | _ => false

/-- A number scaled by 2^k. -/
def FV.scale (k : Int) : FV → FV
  | .num a m e => .num a m (e + k)
  | v => v

/-- Order of two values that are no NaNs, −0 below +0. -/
def FV.lt : FV → FV → Bool
  | .nan, _ => false
  | _, .nan => false
  | .inf a, .inf b => a && !b
  | .inf a, .num .. => a
  | .num .., .inf b => !b
  | .num a m e, .num b n g =>
    let q := min e g
    let x := onGrid a m e q
    let y := onGrid b n g q
    if x = 0 ∧ y = 0 then a && !b else decide (x < y)

/-- IEEE 754-2019 maximum and minimum. -/
def FV.max (a b : FV) : FV := if a.isNan || b.isNan then .nan else if a.lt b then b else a
def FV.min (a b : FV) : FV := if a.isNan || b.isNan then .nan else if b.lt a then b else a

/-- Quotient rounded once to FP32, for finite operands with a nonzero divisor; what IEEE 754 gives otherwise. -/
def FV.div32 : FV → FV → FV
  | .nan, _ => .nan
  | _, .nan => .nan
  | .inf _, .inf _ => .nan
  | .inf a, .num b _ _ => .inf (a != b)
  | .num a _ _, .inf b => .num (a != b) 0 0
  | .num a m e, .num b n g =>
    if n = 0 then (if m = 0 then .nan else .inf (a != b))
    else
      let k := Nat.log2 n + 40
      let q := m * 2 ^ k / n
      let st := if m * 2 ^ k % n = 0 then 0 else 1
      (fvRound 1 (.num (a != b) (2 * q + st) (e - g - k - 1))).1

/-- Flags of a result computed from operands: a NaN from operands that are none. -/
def genFlag (args : List FV) (r : FV) : Nat := if r.isNan && !args.any FV.isNan then NF.GEN else 0

/-- NAN_IN of operands. -/
def inFlag (args : List FV) : Nat := if args.any FV.isNan then NF.IN else 0

/-! ### Reduction (R259) -/

/-- One step of the fold on integer elements of `w` bits. -/
def redInt (w op : Nat) (isat : Bool) (a x : Nat) : Nat × Nat :=
  let p := signedOf w a
  let q := signedOf w x
  let lim : Int := 2 ^ (w - 1)
  match op with
  | 0 =>
    let s := p + q
    if -lim ≤ s ∧ s < lim then (unsignedOf w s, 0)
    else if isat then (unsignedOf w (if s < 0 then -lim else lim - 1), NF.OVF) else (unsignedOf w s, NF.OVF)
  | 1 => (if q < p then x else a, 0)
  | 2 => (if p < q then x else a, 0)
  | 3 => (a ||| x, 0)
  | _ => (a &&& x, 0)

/-- One step of the fold: acc and the next rank's element, codes of format `f`; flags NAN_GEN and OVF. -/
def redStep (f op : Nat) (sat8 isat : Bool) (a x : Nat) : Nat × Nat :=
  if f = 6 then redInt 32 op isat a x
  else if f = 7 then redInt 8 op isat a x
  else
    let p := fvDec f a
    let q := fvDec f x
    match op with
    | 0 =>
      let s := p.add q
      let r := fvEnc f sat8 s
      (r.1, r.2 ||| genFlag [p, q] s)
    | 1 => ((fvEnc f sat8 (p.min q)).1, 0)
    | _ => ((fvEnc f sat8 (p.max q)).1, 0)

/-- The elements of a byte run. -/
def elemsOf (sz : Nat) (l : List Byte) : List Nat := (chunksOf sz (l.length + 1) l).map leVal

/-- The bytes of elements. -/
def elemBytes (sz : Nat) (l : List Nat) : List Byte := l.flatMap (fun x => leBytes sz x)

/-- NAN_IN of a contributed lump (R259). -/
def lumpFlags (f : Nat) (l : List Byte) : Nat :=
  if isInt f then 0 else if (elemsOf (fmtSize f) l).any (fun x => (fvDec f x).isNan) then NF.IN else 0

/-- The fold of a lump into the accumulator, element by element. -/
def foldLump (f op : Nat) (sat8 isat : Bool) (acc x : List Byte) : List Byte × Nat :=
  let rs := List.zipWith (redStep f op sat8 isat) (elemsOf (fmtSize f) acc) (elemsOf (fmtSize f) x)
  (elemBytes (fmtSize f) (rs.map (fun r => r.1)), rs.foldl (fun a r => a ||| r.2) 0)

/-! ### Operations of VEC in FP32 (R331) and QUANT (R333) -/

/-- An FP32 function given by its code, for values that are no NaNs. -/
def fn32 (g : BitVec 32 → BitVec 32) (v : FV) : FV :=
  if v.isNan then .nan else (binFmt 1).dec (g (BitVec.ofNat 32 (fvEnc 1 false v).1)).toNat

/-- The activation codes of R336: none, RELU, GELU, SILU. -/
def actFn (a : Nat) (v : FV) : FV :=
  match a with
  | 1 => FV.max v (.num false 0 0)
  | 2 => fn32 Config.gelu v
  | 3 => fn32 Config.silu v
  | _ => v

/-- floor(log2 |v|) of a nonzero number. -/
def FV.expo : FV → Option Int
  | .num _ m e => if m = 0 then none else some ((Nat.log2 m : Int) + e)
  | _ => none

/-- emax of an element format (R333). -/
def mxEmax (f : Nat) : Int := match f with | 8 => 2 | 9 => 2 | 10 => 4 | 11 => 8 | 12 => 15 | _ => 0

/-- An element of a block scaled by 2^k: rounded, saturated to the largest finite magnitude. -/
def quantElem (f : Nat) (k : Int) (v : FV) : Nat × Nat :=
  if f = 13 then fvEncInt 8 (v.scale (6 - k))
  else
    let b := binFmt f
    match v with
    | .num neg m e =>
      let c := b.mag m (e - k)
      if c ≤ b.top then (b.sign neg + c, 0) else (b.sign neg + b.top, NF.OVF)
    | _ => (0, 0)

/-- QUANT of a block of 32 values: scale byte, element codes, flags. -/
def quantBlock (f : Nat) (vs : List FV) : Nat × List Nat × Nat :=
  let nan := vs.any FV.isNan
  let inf := vs.any (fun v => match v with | .inf _ => true | _ => false)
  if nan ∨ inf then
    let codes := vs.map (fun v => (fvEnc 0 false v).1)
    (255, (List.range vs.length).map (fun i => (Config.quantBad f i codes).toNat % 2 ^ fmtBits f),
      (if nan then NF.IN else 0) + (if inf then NF.GEN else 0))
  else
    let es := vs.filterMap FV.expo
    match es with
    | [] => (0, vs.map (fun v => (quantElem f (-127) v).1), 0)
    | e :: l =>
      let s := max (-127) (min 127 (l.foldl max e - mxEmax f))
      let r := vs.map (quantElem f s)
      ((s + 127).toNat, r.map (fun a => a.1), r.foldl (fun a x => a ||| x.2) 0)

/-- Codes of `w` bits packed from the least significant bit of each byte upwards (R303). -/
def packBits (w : Nat) (l : List Nat) : List Byte :=
  leBytes (ceilDiv (l.length * w) 8) (l.foldr (fun x a => x % 2 ^ w + 2 ^ w * a) 0)

end Sys2Proof.Machine
end

