-- ==== Sys2Proof/Machine/Collective.lean ====
section
/-! DEFINITION. Tables, windows, commands, completion records, trigger counters, and the start of operations (R229–R257,
R263). -/
namespace Sys2Proof.Machine

/-! ### Tables (R229, R230) -/

/-- TBL_STS.STATE. -/
def T.FREE : Nat := 0
def T.ACTIVE : Nat := 1
def T.ABORTING : Nat := 2

def Tray.tst (t : Tray) (c tb : Nat) : Nat := t.gf (tblPg c tb) F.TBL_STS_STATE
def Tray.tSeat (t : Tray) (c tb : Nat) : Nat := t.gf (tblPg c tb) F.TBL_CFG_SEAT
def Tray.tEpoch (t : Tray) (c tb : Nat) : Nat := t.gf (tblPg c tb) F.PG_ABORT_STS_EPOCH
def Tray.opNext (t : Tray) (c tb : Nat) : Nat := t.gf (tblPg c tb) F.TBL_STS_OP_NEXT
def Tray.tFmt (t : Tray) (c tb : Nat) : Nat := t.gf (tblPg c tb) F.TBL_CFG_FORMAT
/-- The table is driven by the Dealer (R257). -/
def Tray.tDealer (t : Tray) (c tb : Nat) : Bool := t.is (tblPg c tb) F.TBL_CFG_LAUNCH
/-- The member ports, ascending. -/
def Tray.tMembers (t : Tray) (c tb : Nat) : List Nat := bitsOf 64 (t.gf (tblPg c tb) F.TBL_MEMB_MEMB)
def Tray.tN (t : Tray) (c tb : Nat) : Nat := (t.tMembers c tb).length
def Tray.isMember (t : Tray) (c tb e : Nat) : Bool := bitOf (t.gf (tblPg c tb) F.TBL_MEMB_MEMB) e

/-- PORT and VALID of rank `r` in the TBL_RANK registers (R262). -/
def rankPort (r : Nat) : Fld := ⟨A.TBL_RANK + 8 * (r / 8), 8 * (r % 8), 6⟩
def rankValid (r : Nat) : Fld := ⟨A.TBL_RANK + 8 * (r / 8), 8 * (r % 8) + 7, 1⟩

/-- The ports in rank order (R230). -/
def Tray.tRanks (t : Tray) (c tb : Nat) : List Nat :=
  if t.is (tblPg c tb) F.TBL_CFG_RANK_MODE then
    (List.range (t.tN c tb)).map (fun r => t.gf (tblPg c tb) (rankPort r))
  else t.tMembers c tb

/-- The rank of port `e`. -/
def Tray.rankOf (t : Tray) (c tb e : Nat) : Option Nat := (t.tRanks c tb).findIdx? (fun p => p == e)

/-! ### Windows (R234–R241) -/

def Tray.win (t : Tray) (c tb e : Nat) : Win := Assoc.get (fun _ => {}) (t.table c tb).wins e
def Tray.setWin (t : Tray) (c tb e : Nat) (w : Win) : Tray :=
  t.modTable c tb (fun x => { x with wins := Assoc.set (fun _ => {}) x.wins e w })

/-- Slot at index `i` modulo 64. -/
def Win.slot (w : Win) (i : Nat) : Slot := Assoc.get (fun _ => {}) w.slots (i % 64)
def Win.setSlot (w : Win) (i : Nat) (s : Slot) : Win := { w with slots := Assoc.set (fun _ => {}) w.slots (i % 64) s }
/-- Difference of two 16-bit free-running counts. -/
def diff16 (a b : Nat) : Nat := (a + 65536 - b % 65536) % 65536
/-- Held slots. -/
def Win.heldCnt (w : Win) : Nat := diff16 w.pi w.ci
/-- Slot number `i` (0 to 63) is held. -/
def Win.isHeld (w : Win) (i : Nat) : Bool := decide ((i + 64 - w.ci % 64) % 64 < w.heldCnt)
/-- Free entries of the CQ (R255). -/
def Win.cqFree (w : Win) : Nat := 2 ^ w.cqLog - diff16 w.tail w.cqHead

/-- CI advances over the slots whose records have been issued (R239). -/
def Win.advance : Nat → Win → Win
  | 0, w => w
  | n + 1, w =>
    if w.heldCnt ≠ 0 ∧ (w.slot w.ci).ended ∧ (w.slot w.ci).wait = none then
      Win.advance n { w.setSlot w.ci {} with ci := (w.ci + 1) % 65536 }
    else w

/-! ### Completion records (R250–R256) -/

/-- The 32 bytes of a record (R251). -/
def recBytes (tb epoch cons time : Nat) (w : Win) (r : Rec) : List Byte :=
  let phase := 1 - w.tail / 2 ^ w.cqLog % 2
  leBytes 8 (phase + 2 * (r.kind % 8) + 2 ^ 8 * (r.status % 256) + 2 ^ 16 * tb + 2 ^ 24 * (r.flags % 8)
    + 2 ^ 32 * (r.opSeq % 65536) + 2 ^ 48 * (cons % 65536))
  ++ leBytes 8 (r.userTag % 2 ^ 32 + 2 ^ 32 * epoch + 2 ^ 48 * (r.detail % 65536))
  ++ leBytes 8 (r.bytes % 2 ^ 64) ++ leBytes 8 time

/-- A record is written into the CQ of member `e` (R250); a status other than OK raises OP_ERR. -/
def Tray.writeRec (t : Tray) (c tb e : Nat) (r : Rec) : Tray :=
  let w := t.win c tb e
  let ep := t.tEpoch c tb
  let pk := mkPkt { ptype := P.CPL, ch := 2, src := e, dst := e, seat := t.tSeat c tb, tbl := tb, epoch := ep,
                    addr := w.cqBase + 32 * (w.tail % 2 ^ w.cqLog) } (recBytes tb ep w.ci (t.timeOf c) w r)
  let t1 := (t.setWin c tb e { w with tail := (w.tail + 1) % 65536 }).originate c e (.cpl tb ep) pk
  if r.status = 0 then t1 else t1.raise (tblPg c tb) 8

/-- Kinds of a record (R251). -/
def K.OP_DONE : Nat := 0
def K.CMD_ERR : Nat := 1
def K.DOORBELL : Nat := 2
def K.EVENT : Nat := 3

/-- Statuses of a record (R252). -/
def St.OK : Nat := 0x00
def St.ABORTED : Nat := 0x01
def St.MEMBER_DOWN : Nat := 0x02
def St.MISMATCH : Nat := 0x03
def St.BAD_SEQ : Nat := 0x04
def St.BAD_CMD : Nat := 0x05
def St.BAD_LAUNCH : Nat := 0x06
def St.BUSY : Nat := 0x07
def St.BAD_PI : Nat := 0x08
def St.SLOT_HELD : Nat := 0x09
def St.BAD_WIN : Nat := 0x0A
def St.BAD_CQ : Nat := 0x0B
def St.DATA_FAIL : Nat := 0x0C

/-- The waiting OP_DONE record of the slot at free-running index `i` is issued: the slot is freed first, so that the
record carries the CI after it (R239). -/
def Tray.issueSlot (t : Tray) (c tb e i : Nat) : Tray :=
  let w := t.win c tb e
  match (w.slot i).wait with
  | none => t
  | some r => (t.setWin c tb e ((w.setSlot i { w.slot i with wait := none }).advance 64)).writeRec c tb e r

/-- CQ_RECORD_ISSUE: one waiting record of a member, as long as two entries are free (R255): OP_DONE in slot order, those
of Dealer operations, CMD_ERR, DOORBELL. -/
def Tray.issueNext (t : Tray) (c tb e : Nat) : Tray :=
  let w := t.win c tb e
  if ¬ w.cqEn ∨ w.cqFree < 2 then t
  else
    match ((List.range w.heldCnt).map (fun k => w.ci + k)).find? (fun i => (w.slot i).wait.isSome) with
    | some i => t.issueSlot c tb e i
    | none =>
      match w.waitOps with
      | r :: rest => (t.setWin c tb e { w with waitOps := rest }).writeRec c tb e r
      | [] =>
        match w.waitErr with
        | some r => (t.setWin c tb e { w with waitErr := none }).writeRec c tb e r
        | none =>
          match w.waitDb with
          | some r => (t.setWin c tb e { w with waitDb := none }).writeRec c tb e r
          | none => t

/-- A CMD_ERR or DOORBELL record: issued, kept in its waiting place, or lost (R255). -/
def Tray.postRec (t : Tray) (c tb e : Nat) (r : Rec) : Tray :=
  let w := t.win c tb e
  let r := { r with opSeq := if r.kind = K.CMD_ERR ∨ r.kind = K.DOORBELL then 0 else r.opSeq }
  if ¬ w.cqEn then t
  else if 2 ≤ w.cqFree then t.writeRec c tb e r
  else if r.kind = K.CMD_ERR ∧ w.waitErr = none then t.setWin c tb e { w with waitErr := some r }
  else if r.kind = K.DOORBELL ∧ w.waitDb = none then t.setWin c tb e { w with waitDb := some r }
  else t.sat (tblPg c tb) F.TBL_ERR_REC_LOST 1

/-- A CMD packet is answered by CMD_ERR. -/
def Tray.cmdErr (t : Tray) (c tb e st : Nat) : Tray := t.postRec c tb e { kind := K.CMD_ERR, status := st }

/-- A TABLE_EVENT record (R255): one free entry is enough; without it the event is lost. -/
def Tray.tableEvent (t : Tray) (c tb e st detail : Nat) : Tray :=
  let w := t.win c tb e
  let pg := tblPg c tb
  if ¬ w.cqEn then t
  else if 1 ≤ w.cqFree then
    t.writeRec c tb e { kind := K.EVENT, status := st, opSeq := t.opNext c tb, detail := detail }
  else (t.sat pg F.TBL_ERR_REC_LOST 1).raise pg 10

/-- The command at free-running index `i` of a member ends with a record, or without one (SILENT and OK) (R239). -/
def Tray.endCmd (t : Tray) (c tb e i : Nat) (silent : Bool) (r : Rec) : Tray :=
  let w := t.win c tb e
  let pg := tblPg c tb
  let t0 := if r.status = 0 then t else t.cnt pg F.TBL_OPS_ERR 1
  if silent ∧ r.status = 0 then
    t0.setWin c tb e ((w.setSlot i { w.slot i with ended := true, wait := none }).advance 64)
  else
    let t1 := t0.setWin c tb e (w.setSlot i { w.slot i with ended := true, wait := some r })
    if w.cqEn ∧ 2 ≤ w.cqFree then t1.issueSlot c tb e i else t1

/-! ### Trigger counters and triggered-operation entries (R247, R248) -/

/-- TBL_CTR[i]. -/
def ctrFld (i : Nat) : Fld := F.TBL_CTR_VALUE.at (8 * i)

/-- A counter increments by `n`, modulo 2^32. -/
def Tray.incCtr (t : Tray) (c tb i n : Nat) : Tray := t.cnt (tblPg c tb) (ctrFld i) n

/-- Tables of a chip that hold state, with their numbers. -/
def Tray.tablesOf (t : Tray) (c : Nat) : List (Nat × TableSt) :=
  (t.tables.filter (fun a => a.1 / 256 == c)).map (fun a => (a.1 % 256, a.2))

/-- Operation of a table by its OP_SEQ. -/
def TableSt.findOp (x : TableSt) (seq : Nat) : Option OpSt := x.ops.find? (fun o => o.seq == seq)

/-- An operation waits on a counter and holds a triggered-operation entry. -/
def OpSt.parked (o : OpSt) : Bool := !o.started && o.wait.isSome

/-- Link entries of a table: open AR tricks whose emission has not started (R267, R271). -/
def TableSt.links (x : TableSt) : Nat :=
  (x.tricks.filter (fun k => !k.emitted && (match x.findOp k.op with | some o => o.opcode == 3 | none => false))).length

/-- TRIG_USED of a chip (R294). -/
def Tray.trigUsed (t : Tray) (c : Nat) : Nat :=
  sumL ((t.tablesOf c).map (fun a => (a.2.ops.filter OpSt.parked).length + a.2.links))
/-- TAGS_USED of a chip. -/
def Tray.tagsUsed (t : Tray) (c : Nat) : Nat := sumL ((t.tablesOf c).map (fun a => a.2.tricks.length))

/-- The marks of CHIP_COLL_MAX follow (R294). -/
def Tray.collMarks (t : Tray) (c : Nat) : Tray :=
  (t.wmMax (chipPg c 1) F.CHIP_COLL_MAX_TAGS_USED (t.tagsUsed c)).wmMax (chipPg c 1) F.CHIP_COLL_MAX_TRIG_USED
    (t.trigUsed c)

/-! ### Commands (R242–R244) -/

def cmdOpcode (x : BitVec 384) : Nat := fieldOf x 0 8
def cmdSilent (x : BitVec 384) : Bool := fieldOf x 8 1 == 1
def cmdIncEn (x : BitVec 384) : Bool := fieldOf x 9 1 == 1
def cmdWaitEn (x : BitVec 384) : Bool := fieldOf x 10 1 == 1
def cmdSeq (x : BitVec 384) : Nat := fieldOf x 16 16
def cmdTag (x : BitVec 384) : Nat := fieldOf x 32 32
def cmdCount (x : BitVec 384) : Nat := fieldOf x 64 32
def cmdIncCtr (x : BitVec 384) : Nat := fieldOf x 96 4
def cmdWaitCtr (x : BitVec 384) : Nat := fieldOf x 100 4
def cmdWaitTbl (x : BitVec 384) : Nat := fieldOf x 104 8
def cmdThresh (x : BitVec 384) : Nat := fieldOf x 128 32
def cmdAddVal (x : BitVec 384) : Nat := fieldOf x 160 32
def cmdDst (x : BitVec 384) : Nat := fieldOf x 192 64
/-- The reserved fields of a command are zero. -/
def cmdRsvOk (x : BitVec 384) : Bool := fieldOf x 11 5 == 0 && fieldOf x 112 16 == 0 && fieldOf x 256 128 == 0

/-- Opcodes of R243. -/
def O.RS : Nat := 1
def O.AG : Nat := 2
def O.AR : Nat := 3
def O.BARRIER : Nat := 4
def O.NOP : Nat := 0x10
def O.CNT_ADD : Nat := 0x11
/-- SHUFFLE operations (R346) have no opcode of R243; the model numbers them apart. -/
def O.SHUFFLE : Nat := 0x100

def isCollective (o : Nat) : Bool := decide (1 ≤ o) && decide (o ≤ 4)
def isLocal (o : Nat) : Bool := o == O.NOP || o == O.CNT_ADD

/-- Step 1 of R244 fails. -/
def Tray.badCmd (t : Tray) (c tb : Nat) (x : BitVec 384) : Bool :=
  let o := cmdOpcode x
  let wt := cmdWaitTbl x
  !(isCollective o || isLocal o) || !cmdRsvOk x || (decide (1 ≤ o ∧ o ≤ 3) && cmdCount x == 0) ||
  (o == O.BARRIER && cmdCount x != 0) || cmdDst x % fmtSize (t.tFmt c tb) != 0 ||
  ((cmdWaitEn x || o == O.CNT_ADD) && !(t.tst c wt == T.ACTIVE && t.tSeat c wt == t.tSeat c tb))

/-- What the checks of R244 make of a command: the status it ends with, or that it waits (step 5). -/
inductive HeadDue where
  | ends (status : Nat)
  | waits
  deriving DecidableEq, Repr

/-- The checks of R244 in their order. -/
def Tray.headDue (t : Tray) (c tb : Nat) (x : BitVec 384) : HeadDue :=
  if t.badCmd c tb x then .ends St.BAD_CMD
  else if isCollective (cmdOpcode x) ∧ t.tDealer c tb then .ends St.BAD_LAUNCH
  else if isLocal (cmdOpcode x) then .ends St.OK
  else if cmdSeq x ≠ t.opNext c tb then .ends St.BAD_SEQ
  else .waits

/-- The command at the head of a member's queue, with its index. -/
def Tray.headOf (t : Tray) (c tb e : Nat) : Option (Nat × BitVec 384) :=
  let w := t.win c tb e
  if w.head = w.pi then none else some (w.head, (w.slot w.head).cmd)

/-- The head moves past its command. -/
def Tray.popHead (t : Tray) (c tb e : Nat) : Tray :=
  let w := t.win c tb e
  t.setWin c tb e { w with head := (w.head + 1) % 65536 }

/-- The table works: page and chip enabled, ACTIVE. -/
def Tray.tRuns (t : Tray) (c tb : Nat) : Bool := t.tst c tb == T.ACTIVE && t.chipRuns c

/-- COMMAND_HEAD: the command at the head ends, runs locally, or waits for the other members (R244). -/
def Tray.commandHead (t : Tray) (c tb e : Nat) (want : Nat → Bool) : Tray :=
  if ¬ t.tRuns c tb then t
  else
    match t.headOf c tb e with
    | none => t
    | some (i, x) =>
      match t.headDue c tb x with
      | .waits => t
      | .ends st =>
        if ¬ want (cmdOpcode x) then t
        else
          let t1 := if st = St.OK ∧ cmdOpcode x = O.CNT_ADD then
            t.incCtr c (cmdWaitTbl x) (cmdIncCtr x) (cmdAddVal x) else t
          (t1.popHead c tb e).endCmd c tb e i (cmdSilent x)
            { kind := K.OP_DONE, status := st, opSeq := cmdSeq x, userTag := cmdTag x }

/-! ### CMD packets (R235–R238, R254, R255) -/

/-- A packet for a table is discarded and counted under a TBL_ERR field and against its seat (R236). -/
def Tray.tblDiscard (t : Tray) (c tb : Nat) (f : Fld) (m : Nat) : Tray :=
  (t.sat (tblPg c tb) f 1).charge c m N.TBL_DISCARD 1

/-- The doorbell is refused for the moment: a COMMIT is pending on the page, or a bound is reached (R238, R290). -/
def Tray.dbBusy (t : Tray) (c tb : Nat) : Bool :=
  t.is (tblPg c tb) F.PG_COMMIT_STS_PENDING || decide (16 ≤ ((t.table c tb).ops.filter (fun o => o.started)).length) ||
  decide (65536 - t.trigUsed c < 256)

/-- DOORBELL is written with `v` (R238). -/
def Tray.doorbell (t : Tray) (c tb e v : Nat) : Tray :=
  let w := t.win c tb e
  let pi := v % 65536
  let n := diff16 pi w.pi
  if ¬ w.cqEn then t.sat (tblPg c tb) F.TBL_ERR_NO_CQ 1
  else if n = 0 then t
  else if 64 - w.heldCnt < n ∨ ¬ (List.range n).all (fun k => (w.slot (w.pi + k)).written) then
    t.postRec c tb e { kind := K.DOORBELL, status := St.BAD_PI, detail := pi }
  else if t.dbBusy c tb then t.postRec c tb e { kind := K.DOORBELL, status := St.BUSY, detail := pi }
  else t.setWin c tb e { w with pi := pi }

/-- A slot write fits its form (R235). -/
def slotForm (h : Flit) : Bool :=
  let off := hAddr h
  let len := hLen h
  hTag h == 0 && decide (off < 0xC00) && off % 48 == 0 && len % 48 == 0 && decide (48 ≤ len) && decide (len ≤ 3072) &&
  decide (off + len ≤ 0xC00) &&
  decide (hArg h / 2 ^ 32 = 0) && hArg h / 2 % 2 ^ 15 == 0

/-- A control write fits its form (R235). -/
def ctlForm (h : Flit) : Bool :=
  hTag h == 0 && [0xC00, 0xC08, 0xC10, 0xC18].contains (hAddr h) && hLen h == 8 && hArg h == 0

/-- A slot write (R235, R237). -/
def Tray.slotWrite (t : Tray) (c tb e : Nat) (p : Pkt) : Tray :=
  let h := p.hdr
  let w := t.win c tb e
  let first := hAddr h / 48
  let cmds := (chunksOf 48 64 (pBytes p)).map (fun l => BitVec.ofNat 384 (leVal l))
  if ¬ w.cqEn then t.sat (tblPg c tb) F.TBL_ERR_NO_CQ 1
  else if (List.range cmds.length).any (fun k => w.isHeld (first + k)) then t.cmdErr c tb e St.SLOT_HELD
  else
    let w1 := (cmds.zipIdx).foldl (fun w a => w.setSlot (first + a.2) { cmd := a.1, written := true }) w
    let t1 := t.setWin c tb e w1
    if hArg h % 2 = 1 then t1.doorbell c tb e (hArg h / 2 ^ 16 % 65536) else t1

/-- CQ_BASE is written (R254). -/
def Tray.cqBase (t : Tray) (c tb e v : Nat) : Tray :=
  let w := t.win c tb e
  if w.cqEn ∧ w.pi ≠ w.ci then t.cmdErr c tb e St.BAD_CQ else t.setWin c tb e { w with cqBase := v }

/-- CQ_CFG is written (R254). -/
def Tray.cqCfg (t : Tray) (c tb e v : Nat) : Tray :=
  let w := t.win c tb e
  let lg := v % 16
  if w.cqEn ∧ w.pi ≠ w.ci then t.cmdErr c tb e St.BAD_CQ
  else if ¬ bitOf v 8 then t.setWin c tb e { w with cqEn := false, cqLog := lg }
  else if lg < 4 ∨ 12 < lg then t.sat (tblPg c tb) F.TBL_ERR_NO_CQ 1
  else (t.setWin c tb e { w with cqEn := true, cqLog := lg, tail := 0, cqHead := 0 }).tableEvent c tb e St.OK 0

/-- A CMD packet accepted by the transport and by R236: slot write, control write, or BAD_WIN. -/
def Tray.cmdForm (t : Tray) (c tb e : Nat) (p : Pkt) : Tray :=
  let v := leVal (pBytes p)
  if slotForm p.hdr then t.slotWrite c tb e p
  else if ctlForm p.hdr then
    if hAddr p.hdr = 0xC00 then t.doorbell c tb e v
    else if hAddr p.hdr = 0xC08 then t.cqBase c tb e v
    else if hAddr p.hdr = 0xC10 then t.cqCfg c tb e v
    else t.setWin c tb e { t.win c tb e with cqHead := v % 65536 }
  else t.cmdErr c tb e St.BAD_WIN

/-- A CMD packet that the transport has accepted (R236). -/
def Tray.cmdPacket (t : Tray) (c e : Nat) (p : Pkt) : Tray :=
  let tb := hTbl p.hdr
  let m := hSeat p.hdr
  if t.tst c tb = T.FREE ∨ ¬ t.isMember c tb e then t.tblDiscard c tb F.TBL_ERR_NOT_MEMBER m
  else if m ≠ t.tSeat c tb then t.tblDiscard c tb F.TBL_ERR_SEAT m
  else if t.tst c tb = T.ABORTING then t.tblDiscard c tb F.TBL_ERR_ABORTING m
  else t.cmdForm c tb e p

/-! ### Geometry of an operation (R231, R265, R266) -/

/-- The shape of an operation: N, element size, opcode, COUNT, piece size P in bytes. -/
structure Geo where
  n : Nat
  sz : Nat
  opcode : Nat
  count : Nat
  p : Nat
  deriving DecidableEq, Repr

/-- E, elements of a piece. -/
def Geo.e (g : Geo) : Nat := g.p / g.sz
/-- L, shard length of an AR. -/
def Geo.l (g : Geo) : Nat := ceilDiv g.count g.n
/-- L_q, length of shard q of an AR. -/
def Geo.lq (g : Geo) (q : Nat) : Nat := min g.l (g.count - q * g.l)
/-- M, the number of tricks. -/
def Geo.m (g : Geo) : Nat :=
  if g.opcode = O.BARRIER then 1 else if g.opcode = O.AR then ceilDiv g.l g.e else ceilDiv g.count g.e
/-- Elements of piece q of trick j. -/
def Geo.pieceElems (g : Geo) (q j : Nat) : Nat :=
  if g.opcode = O.BARRIER then 0
  else if g.opcode = O.AR then min ((j + 1) * g.e) (g.lq q) - j * g.e
  else min ((j + 1) * g.e) g.count - j * g.e
/-- Bytes of piece q of trick j. -/
def Geo.pieceBytes (g : Geo) (q j : Nat) : Nat := g.pieceElems q j * g.sz
/-- Lumps of a piece. -/
def Geo.lumps (g : Geo) (q j : Nat) : Nat := ceilDiv (g.pieceBytes q j) 4096
/-- Bytes of lump l of piece q of trick j. -/
def Geo.lumpBytes (g : Geo) (q j l : Nat) : Nat := min 4096 (g.pieceBytes q j - 4096 * l)
/-- The lump positions of trick j, in (piece, lump) order. -/
def Geo.positions (g : Geo) (j : Nat) : List (Nat × Nat) :=
  (List.range g.n).flatMap (fun q => (List.range (g.lumps q j)).map (fun l => (q, l)))
/-- First element of piece q of trick j in the contributing member's data. -/
def Geo.srcElem (g : Geo) (q j : Nat) : Nat :=
  if g.opcode = O.RS then q * g.count + j * g.e else if g.opcode = O.AR then q * g.l + j * g.e else j * g.e
/-- Offset in bytes of piece q of trick j in the data at DST_ADDR (R266). -/
def Geo.dstOff (g : Geo) (q j : Nat) : Nat :=
  if g.opcode = O.RS then j * g.e * g.sz
  else if g.opcode = O.AR then (q * g.l + j * g.e) * g.sz
  else (q * g.count + j * g.e) * g.sz
/-- Ranks that contribute to a position: the owner alone for AG. -/
def Geo.ranks (g : Geo) (q : Nat) : List Nat := if g.opcode = O.AG then [q] else List.range g.n
/-- Bytes of a member's whole contribution (R231). -/
def Geo.contribBytes (g : Geo) : Nat :=
  g.sz * (if g.opcode = O.RS then g.n * g.count else if g.opcode = O.BARRIER then 0 else g.count)

/-- T_B of a table. -/
def Tray.trickBytes (t : Tray) (c tb : Nat) : Nat := 4096 * t.gf (tblPg c tb) F.TBL_TRICK_TRICK_4K
/-- W of a table. -/
def Tray.tricksInfl (t : Tray) (c tb : Nat) : Nat := t.gf (tblPg c tb) F.TBL_TRICK_TRICKS_INFL
/-- k of RES_MIN and R274. -/
def Tray.resK (t : Tray) (c tb : Nat) : Nat :=
  if t.is (tblPg c tb) F.TBL_CFG_MODE then 1 else 1 + min (t.tN c tb - 1) 3

/-- The geometry of an operation of a table. -/
def Tray.geo (t : Tray) (c tb : Nat) (o : OpSt) : Geo :=
  let n := t.tN c tb
  { n := n, sz := fmtSize (t.tFmt c tb), opcode := o.opcode, count := o.count, p := t.trickBytes c tb / (n * 64) * 64 }

/-! ### Start of operations (R245–R248, R257) -/

def Tray.setOps (t : Tray) (c tb : Nat) (l : List OpSt) : Tray := t.modTable c tb (fun x => { x with ops := l })
def Tray.modOp (t : Tray) (c tb seq : Nat) (f : OpSt → OpSt) : Tray :=
  t.modTable c tb (fun x => { x with ops := x.ops.map (fun o => if o.seq = seq then f o else o) })

/-- Every member's port is UP, in FLOOD_HOLD or in RETRAIN (R246). -/
def Tray.membersLive (t : Tray) (c tb : Nat) : Bool := (t.tMembers c tb).all (fun e => t.live c e)
/-- Every member's CQ is enabled (R257). -/
def Tray.cqsOn (t : Tray) (c tb : Nat) : Bool := (t.tMembers c tb).all (fun e => (t.win c tb e).cqEn)

/-- The heads of all members, where every one holds a collective command with OP_SEQ = OP_NEXT (R244 step 5). -/
def Tray.heads (t : Tray) (c tb : Nat) : Option (List (Nat × Nat × BitVec 384)) :=
  let l := (t.tMembers c tb).filterMap (fun e =>
    match t.headOf c tb e with
    | some (i, x) => if t.headDue c tb x = .waits then some (e, i, x) else none
    | none => none)
  if l.length = t.tN c tb ∧ l ≠ [] then some l else none

/-- Two commands agree on the fields of R245. -/
def cmdAgree (x y : BitVec 384) : Bool :=
  cmdOpcode x == cmdOpcode y && cmdCount x == cmdCount y && cmdIncEn x == cmdIncEn y && cmdWaitEn x == cmdWaitEn y &&
  (!cmdIncEn x || cmdIncCtr x == cmdIncCtr y) &&
  (!cmdWaitEn x || (cmdWaitCtr x == cmdWaitCtr y && cmdWaitTbl x == cmdWaitTbl y && cmdThresh x == cmdThresh y))

/-- The operation that matched heads describe. -/
def opOf (seq : Nat) (x : BitVec 384) (l : List (Nat × Nat × BitVec 384)) : OpSt :=
  { seq := seq, opcode := cmdOpcode x, count := cmdCount x,
    inc := if cmdIncEn x then some (cmdIncCtr x) else none,
    wait := if cmdWaitEn x then some (cmdWaitTbl x, cmdWaitCtr x, cmdThresh x) else none,
    members := l.map (fun a => { port := a.1, dst := cmdDst a.2.2, userTag := cmdTag a.2.2, silent := cmdSilent a.2.2,
                                 idx := some a.2.1 }) }

/-- The counter that an operation waits on is at least its threshold. -/
def Tray.fired (t : Tray) (c : Nat) (o : OpSt) : Bool :=
  match o.wait with
  | none => true
  | some (wt, i, th) => decide (th ≤ t.gf (tblPg c wt) (ctrFld i))

/-- Every member's head moves past the matched command. -/
def Tray.popAll (t : Tray) (c tb : Nat) : Tray := t.each (t.tMembers c tb) (fun t e => t.popHead c tb e)

/-- OP_NEXT advances. -/
def Tray.nextSeq (t : Tray) (c tb : Nat) : Tray := t.sf (tblPg c tb) F.TBL_STS_OP_NEXT (t.opNext c tb + 1)

/-- Operations of the table that are matched or issued and not started. -/
def Tray.unstarted (t : Tray) (c tb : Nat) : List OpSt := (t.table c tb).ops.filter (fun o => !o.started)

/-- OPERATION_MATCH: all heads agree and the operation starts or parks; or every command ends with MISMATCH (R245). -/
def Tray.operationMatch (t : Tray) (c tb : Nat) : Tray :=
  let pg := tblPg c tb
  let seq := t.opNext c tb
  if ¬ t.tRuns c tb ∨ t.unstarted c tb ≠ [] then t
  else
    match t.heads c tb with
    | none => t
    | some l =>
      match l with
      | [] => t
      | a :: _ =>
        let x := a.2.2
        if ¬ l.all (fun b => cmdAgree x b.2.2) then
          (((t.popAll c tb).nextSeq c tb).sb pg F.TBL_STS_WAIT_MEMBER false).each l (fun t b =>
            t.endCmd c tb b.1 b.2.1 (cmdSilent b.2.2)
              { kind := K.OP_DONE, status := St.MISMATCH, opSeq := seq, userTag := cmdTag b.2.2 })
        else
          let o := opOf seq x l
          if ¬ t.fired c o then
            if t.trigUsed c < 65536 then
              ((((t.popAll c tb).nextSeq c tb).modTable c tb (fun y => { y with ops := y.ops ++ [o], trigNoted := false
                }))).collMarks c
            else if (t.table c tb).trigNoted then t
            else ((t.modTable c tb (fun y => { y with trigNoted := true })).sat pg F.TBL_ERR_TRIG_WAIT 1).charge c
              (t.tSeat c tb) N.COLL_WAIT 1
          else if ¬ t.membersLive c tb then t.sb pg F.TBL_STS_WAIT_MEMBER true
          else if 16 ≤ ((t.table c tb).ops.filter (fun o => o.started)).length then t
          else
            (((t.popAll c tb).nextSeq c tb).modTable c tb (fun y => { y with
              ops := y.ops ++ [{ o with started := true, wait := none }], trigNoted := false })).sb pg
              F.TBL_STS_WAIT_MEMBER false

/-- The first operation not started, where it may start now (R233, R246, R248, R257). -/
def Tray.startNext (t : Tray) (c tb : Nat) : Tray :=
  let pg := tblPg c tb
  match t.unstarted c tb with
  | [] => t
  | o :: _ =>
    if ¬ t.tRuns c tb ∨ ¬ t.fired c o then t
    else
      let dl := match o.launch with | .dealer .. => true | .endpoints => false
      let t0 := t.sb pg F.TBL_STS_CQ_WAIT (dl && !t.cqsOn c tb)
      let t1 := t0.sb pg F.TBL_STS_WAIT_MEMBER (!t.membersLive c tb)
      if t.membersLive c tb ∧ (¬ dl ∨ t.cqsOn c tb) then
        t1.modOp c tb o.seq (fun z => { z with started := true, wait := none })
      else t1

/-- OPERATION_START: an operation that waited for its members' ports or CQs (R246, R257). -/
def Tray.operationStart (t : Tray) (c tb : Nat) : Tray :=
  if t.unstarted c tb ≠ [] then t.startNext c tb
  else if t.is (tblPg c tb) F.TBL_STS_WAIT_MEMBER then t.operationMatch c tb else t

/-- PARKED_OP_START (R248). -/
def Tray.parkedOpStart (t : Tray) (c tb : Nat) : Tray :=
  match t.unstarted c tb with
  | [] => t
  | o :: _ => if o.parked then t.startNext c tb else t

/-! ### Enabling a table (R263) -/

/-- The reserved pieces of a chip: (place, size) in KiB from the top row of reduction memory. -/
def Tray.reservations (t : Tray) (c : Nat) : List (Nat × Nat) := (t.tablesOf c).flatMap (fun a => a.2.res)

/-- Size of reduction memory in KiB (R349). -/
def Tray.redKiB (t : Tray) (c : Nat) : Nat := 2048 * t.gf (chipPg c 0x300) F.DLR_SRAM_RED_BANKS

/-- The lowest free place at or above `p`. -/
def freeFrom (rs : List (Nat × Nat)) : Nat → Nat → Nat
  | 0, p => p
  | fuel + 1, p =>
    match rs.find? (fun r => decide (r.1 ≤ p) && decide (p < r.1 + r.2)) with
    | some r => freeFrom rs fuel (r.1 + r.2)
    | none => p

/-- `n` KiB placed in the lowest free positions (R349). -/
def placeRes (rs : List (Nat × Nat)) : Nat → Nat → Nat → List (Nat × Nat)
  | 0, _, _ => []
  | fuel + 1, p, n =>
    if n = 0 then []
    else
      let q := freeFrom rs (rs.length + 1) p
      let nxt := (rs.filter (fun r => decide (q < r.1))).foldl (fun m r => min m (r.1 - q)) n
      (q, nxt) :: placeRes rs fuel (q + nxt) (n - nxt)

/-- RED_DEPTH: the depth in banks that the reservations occupy (R349). -/
def Tray.redDepth (t : Tray) (c : Nat) : Nat := ceilDiv (maxL ((t.reservations c).map (fun r => r.1 + r.2))) 2048

/-- TABLE_ENABLE: the reservation is made and the table becomes ACTIVE, or ENABLE returns to 0 and RES_POOL is recorded
(R263). -/
def Tray.tableEnable (t : Tray) (c tb : Nat) (o : Origin) : Tray :=
  let pg := tblPg c tb
  if t.tst c tb ≠ T.FREE then t
  else
    let n := t.gf pg F.TBL_TRICK_RES_KIB
    let rs := t.reservations c
    -- reduced service refuses every table (R460)
    if t.service ≠ 0 ∨ t.redKiB c < sumL (rs.map (fun r => r.2)) + n then (t.sb pg F.PG_CTL_ENABLE false).recErr pg 0x40 o
    else
      let t1 := (t.sb pg F.PG_CTL_ENABLE true).sf pg F.TBL_STS_STATE T.ACTIVE
      let t2 := (t1.sf pg F.TBL_STS_OP_NEXT 0).each (List.range 16) (fun t i => t.sf pg (ctrFld i) 0)
      (t2.setTable c tb { res := placeRes rs (rs.length + 1) 0 n }).raise pg 11

end Sys2Proof.Machine
end

