-- ==== Sys2Proof/Machine/Layout.lean ====
section
/-! DEFINITION. Address spaces, translation and protection, tensor descriptors and their traversals, placement in the
tensor SRAM, the descriptor store (R296–R322). -/
namespace Sys2Proof.Machine

/-! ### Address spaces (R296) -/

/-- Where a physical address lies. -/
inductive Mem where
  | hbm (stack : Nat)
  | rsv (stack : Nat)
  | sram
  | peer (c : Nat)
  | hole
  deriving DecidableEq, Repr

/-- The PA space of a Phobel. -/
def memOf (pa : Nat) : Mem :=
  if pa < 0x03FE000000 then .hbm 0
  else if pa < 0x0600000000 then .rsv 0
  else if pa < 0x09FE000000 then .hbm 1
  else if pa < 0x0C00000000 then .rsv 1
  else if 0x1000000000 ≤ pa ∧ pa < 0x1008000000 then .sram
  else if 0x4000000000 ≤ pa ∧ pa / 0x1000000000 - 4 < 5 ∧ pa % 0x1000000000 < 0x0C00000000 then
    .peer (pa / 0x1000000000 - 4)
  else .hole

/-- 2 MiB. -/
def page2M : Nat := 0x200000
/-- First PA of the tensor SRAM. -/
def sramBase : Nat := 0x1000000000

/-- Pages of the grant area: SRAM pages that translation entries may map (R349). -/
def Tray.grantPages (t : Tray) (c : Nat) : Nat :=
  64 - t.gf (chipPg c 0x300) F.DLR_SRAM_RED_BANKS - t.gf (chipPg c 0x300) F.DLR_SRAM_POOL_PAGES

/-- Chip `l` lends chip `b` the page of its PA `o` (R354). -/
def Tray.lends (t : Tray) (l b o : Nat) : Bool :=
  (List.range 4).any (fun i =>
    let pg := chipPg l 0x300
    let d := 8 * i
    let base := t.gf pg (F.DLR_LEND_BASE_2M.at d)
    t.is pg (F.DLR_LEND_VALID.at d) && t.gf pg (F.DLR_LEND_BORROWER.at d) == b && decide (base ≤ o / page2M) &&
    decide (o / page2M < base + t.gf pg (F.DLR_LEND_PAGES.at d)))

/-- Chip `l` lends the page of its PA `o` to some chip. -/
def Tray.lentOut (t : Tray) (l o : Nat) : Bool := (List.range 5).any (fun b => t.lends l b o)

/-- The page at `pa` may be mapped by a translation entry (R314, R354). -/
def Tray.mappable (t : Tray) (c pa : Nat) : Bool :=
  match memOf pa with
  | .hbm _ => !t.lentOut c pa
  | .sram => decide ((pa - sramBase) / page2M < t.grantPages c)
  | .peer l => l != c && t.lends l c (pa % 0x1000000000)
  | _ => false

/-! ### Placement in the tensor SRAM (R305) -/

/-- Bank of the line of SRAM offset `a`. -/
def bankOf (swz k a : Nat) : Nat :=
  match swz with
  | 1 => (a / 64 % 64) ^^^ (a / 2 ^ k % 64)
  | 2 => (a / 64 + a / 4096) % 64
  | _ => a / 64 % 64

/-- The place in memory of a PA under a placement: chip × 2^40 + PA, the bank standing for address bits [11:6]; none
where nothing answers. -/
def Tray.place (t : Tray) (c swz k pa : Nat) : Option Nat :=
  match memOf pa with
  | .hbm _ | .rsv _ => some (c * 2 ^ 40 + pa)
  | .sram =>
    let a := pa - sramBase
    some (c * 2 ^ 40 + sramBase + a / 4096 * 4096 + bankOf swz k a * 64 + a % 64)
  | .peer l => if t.lends l c (pa % 0x1000000000) then some (l * 2 ^ 40 + pa % 0x1000000000) else none
  | .hole => none

/-! ### Translation and protection (R314–R317) -/

/-- What an access made without effect: a protection fault with its cause and address, a lender that refuses, a BCL entry
out of range, a poisoned line. -/
inductive Flt where
  | prot (cause addr : Nat) (isWrite : Bool) (handle : Nat)
  | lend
  | bcl
  | poison
  deriving DecidableEq, Repr

/-- Causes of XLT_FAULT. -/
def C.OUT_OF_WINDOW : Nat := 0
def C.INVALID : Nat := 1
def C.PERM : Nat := 2
def C.REVOKED : Nat := 3

/-- Page of the translation unit. -/
def xltPg (c : Nat) : Nat := chipPg c 0x3E0
/-- Page of the layout unit. -/
def layPg (c : Nat) : Nat := chipPg c 0x310

/-- Seat `m` is in VALIDATE mode. -/
def Tray.validates (t : Tray) (c m : Nat) : Bool := bitOf (t.gf (xltPg c) F.XLT_MODE_MODE) m

/-- Translation entry `i` of seat `m`. -/
def Tray.xltEnt (t : Tray) (c m i : Nat) : Word := Assoc.get (fun _ => 0) (t.dealer c).xlt (m * 32768 + i)
def entValid (w : Word) : Bool := F.XLT_ENT_VALID.get w == 1
def entRd (w : Word) : Bool := F.XLT_ENT_RD.get w == 1
def entWr (w : Word) : Bool := F.XLT_ENT_WR.get w == 1
def entPage (w : Word) : Nat := F.XLT_ENT_PA_2M.get w

/-- First SA of the window of a seat, and its size in pages. -/
def Tray.winBase (t : Tray) (c m : Nat) : Nat := page2M * t.gf (seatPg c m) F.SEAT_XLT_BASE_BASE_2M
def Tray.winPages (t : Tray) (c m : Nat) : Nat := t.gf (seatPg c m) F.SEAT_XLT_SIZE_SIZE

/-- The page of a PA is granted to the seat with RD, and WR where asked (R316). -/
def Tray.granted (t : Tray) (c m pa : Nat) (wr : Bool) : Bool :=
  (t.dealer c).xlt.any (fun a =>
    a.1 / 32768 == m && entValid a.2 && entPage a.2 == pa / page2M && entRd a.2 && (!wr || entWr a.2))

/-- Through what an access is made: seat, handle, whether the descriptor is revoked, whether no descriptor stands for it
(an instruction fetch), placement. -/
structure Via where
  seat : Nat
  handle : Nat := 0
  revoked : Bool := false
  direct : Bool := false
  swz : Nat := 0
  k : Nat := 12
  deriving DecidableEq, Repr

/-- The PA of an access, or its fault (R315, R316). -/
def Tray.xlat (t : Tray) (c : Nat) (v : Via) (addr : Nat) (wr : Bool) : Except Flt Nat :=
  let bad := fun cause => Except.error (Flt.prot cause addr wr v.handle)
  if t.validates c v.seat then
    if v.revoked then bad C.REVOKED
    else if v.direct ∧ ¬ t.granted c v.seat addr wr then bad C.INVALID
    else .ok addr
  else
    let b := t.winBase c v.seat
    if addr < b ∨ t.winPages c v.seat ≤ (addr - b) / page2M then bad C.OUT_OF_WINDOW
    else
      let w := t.xltEnt c v.seat ((addr - b) / page2M)
      if ¬ entValid w then bad C.INVALID
      else if ¬ (if wr then entWr w else entRd w) then bad C.PERM
      else .ok (entPage w * page2M + addr % page2M)

/-- The place in memory of an access, or its fault; a poisoned line is found by reading it (R360). -/
def Tray.locate (t : Tray) (c : Nat) (v : Via) (addr : Nat) (wr : Bool) : Except Flt Nat :=
  match t.xlat c v addr wr with
  | .error f => .error f
  | .ok pa =>
    match t.place c v.swz v.k pa with
    | none => .error .lend
    | some k => if ¬ wr ∧ (t.dealer c).poison.contains (k / 64) then .error .poison else .ok k

/-- The byte at a place. -/
def Tray.memAt (t : Tray) (k : Nat) : Byte := Assoc.get (fun _ => 0) t.mem k
/-- A byte is stored at a place. -/
def Tray.memPut (t : Tray) (k : Nat) (b : Byte) : Tray := { t with mem := Assoc.set (fun _ => 0) t.mem k b }

/-- `n` bytes from `addr`. -/
def Tray.readBytes (t : Tray) (c : Nat) (v : Via) (addr : Nat) : Nat → Except Flt (List Byte)
  | 0 => .ok []
  | n + 1 =>
    match t.locate c v addr false with
    | .error f => .error f
    | .ok k =>
      match t.readBytes c v (addr + 1) n with
      | .error f => .error f
      | .ok l => .ok (t.memAt k :: l)

/-- Bytes are stored from `addr` up to the first access that faults. -/
def Tray.writeBytes (t : Tray) (c : Nat) (v : Via) (addr : Nat) : List Byte → Option Flt × Tray
  | [] => (none, t)
  | b :: l =>
    match t.locate c v addr true with
    | .error f => (some f, t)
    | .ok k => (t.memPut k b).writeBytes c v (addr + 1) l

/-- `w` bits from bit address `ba`. -/
def Tray.readBits (t : Tray) (c : Nat) (v : Via) (ba w : Nat) : Except Flt Nat :=
  match t.readBytes c v (ba / 8) ((ba % 8 + w + 7) / 8) with
  | .error f => .error f
  | .ok l => .ok (leVal l / 2 ^ (ba % 8) % 2 ^ w)

/-- `w` bits are stored at bit address `ba`; the other bits of the bytes stay. -/
def Tray.writeBits (t : Tray) (c : Nat) (v : Via) (ba w x : Nat) : Option Flt × Tray :=
  let n := (ba % 8 + w + 7) / 8
  let old := (List.range n).map (fun i => match t.locate c v (ba / 8 + i) true with | .ok k => t.memAt k | .error _ => 0)
  let o := leVal old
  let lo := ba % 8
  let y := o % 2 ^ lo + x % 2 ^ w * 2 ^ lo + o / 2 ^ (lo + w) * 2 ^ (lo + w)
  t.writeBytes c v (ba / 8) (leBytes n y)

/-- A protection fault, a refusal by a lender or a bad BCL entry is counted and recorded (R311, R317). -/
def Tray.noteFault (t : Tray) (c m : Nat) (f : Flt) : Tray :=
  let pg := xltPg c
  match f with
  | .prot cause addr wr h =>
    let t1 := (t.charge c m N.LAYOUT_FAULT 1).cnt pg F.XLT_TLB_FAULTS 1
    let t2 := if t1.is pg F.XLT_FAULT_VALID then t1 else
      (t1.wr pg A.XLT_FAULT (BitVec.ofNat 64 (m + 2 ^ 6 * cause + 2 ^ 8 * b2n wr + 2 ^ 16 * (h % 65536) + 2 ^ 63))).wr pg
        A.XLT_FAULT_ADDR (BitVec.ofNat 64 (addr % 2 ^ 48))
    t2.raise pg 8
  | .bcl => t.charge c m N.LAYOUT_FAULT 1
  | _ => t

/-! ### Tensor descriptors (R302–R304) -/

/-- A TD's fields. -/
structure Td where
  fmt : Nat
  ndim : Nat
  bcast : Bool
  wr : Bool
  relaxed : Bool
  swz : Nat
  swzK : Nat
  seat : Nat
  size0 : Nat
  base : Nat
  sizes : List Nat
  strides : List Int
  scaleBase : Nat
  deriving DecidableEq, Repr

/-- KIND of a descriptor. -/
def descKind (w : BitVec 1024) : Nat := fieldOf w 0 4

def tdOf (w : BitVec 1024) : Td :=
  { fmt := fieldOf w 4 4, ndim := fieldOf w 8 3, bcast := fieldOf w 11 1 == 1, wr := fieldOf w 12 1 == 1,
    relaxed := fieldOf w 13 1 == 1, swz := fieldOf w 14 2, swzK := fieldOf w 16 4, seat := fieldOf w 20 6,
    size0 := fieldOf w 32 32, base := fieldOf w 64 48,
    sizes := (List.range 5).map (fun d => fieldOf w (128 + 64 * d) 24),
    strides := (List.range 5).map (fun d => signedOf 40 (fieldOf w (152 + 64 * d) 40)),
    scaleBase := fieldOf w 448 48 }

def Td.bits (d : Td) : Nat := fmtBits d.fmt
def Td.size (d : Td) (i : Nat) : Nat := if i = 0 then d.size0 else (d.sizes[i - 1]?).getD 1
def Td.stride (d : Td) (i : Nat) : Int := (d.strides[i - 1]?).getD 0
/-- R_0, bytes of a row. -/
def Td.rowBytes (d : Td) : Nat := if d.bcast then ceilDiv d.bits 8 else ceilDiv (d.size0 * d.bits) 8
/-- Blocks of a row. -/
def Td.blocks (d : Td) : Nat := ceilDiv d.rowBytes 64
/-- Elements of the tensor. -/
def Td.count (d : Td) : Nat := d.size0 * (d.sizes.foldl (· * ·) 1)

/-- Extent of coordinate `i` of a traversal: 0 the block in the row, 1 to 5 the dimensions. -/
def Td.ext (d : Td) (i : Nat) : Nat := if i = 0 then d.blocks else d.size i

/-- The coordinates of a traversal, fastest first (R329): 0 is the default order. -/
def orderOf (o : Nat) : List Nat :=
  if o = 0 then [0, 1, 2, 3, 4, 5] else (List.range 6).map (fun i => o / 8 ^ i % 8)

/-- The six groups of an ORDER form a permutation of the coordinates. -/
def orderOk (o : Nat) : Bool := o == 0 || (List.range 6).all (fun k => (orderOf o).contains k)

/-- Step `n` of a traversal: the value of coordinate `k`. -/
def Td.digit (d : Td) (ord : List Nat) (n k : Nat) : Nat :=
  let before := ord.takeWhile (fun i => i != k)
  n / (before.foldl (fun a i => a * d.ext i) 1) % d.ext k

/-- The blocks of a traversal in order: block in row, and x_1 to x_5. -/
def Td.blockSeq (d : Td) (o : Nat) : List (Nat × List Nat) :=
  let ord := orderOf o
  let total := ord.foldl (fun a i => a * d.ext i) 1
  (List.range total).map (fun n => (d.digit ord n 0, [1, 2, 3, 4, 5].map (fun k => d.digit ord n k)))

/-- The x_0 of the elements of a block, in x_0 order: those whose first bit lies in it. -/
def Td.blockElems (d : Td) (b : Nat) : List Nat :=
  if d.bcast then List.range d.size0
  else
    let lo := ceilDiv (b * 512) d.bits
    let hi := min d.size0 (ceilDiv ((b + 1) * 512) d.bits)
    (List.range (hi - lo)).map (fun i => lo + i)

/-- The elements of a traversal in order. -/
def Td.elemSeq (d : Td) (o : Nat) : List (Nat × List Nat) :=
  (d.blockSeq o).flatMap (fun a => (d.blockElems a.1).map (fun x => (x, a.2)))

/-- First byte of a row. -/
def Td.rowAddr (d : Td) (xs : List Nat) : Nat :=
  ((d.base : Int) + (List.zipWith (fun (x : Nat) (s : Int) => (x : Int) * s) xs d.strides).foldl (· + ·) 0).toNat

/-- Bit address of an element. -/
def Td.elemBit (d : Td) (x : Nat × List Nat) : Nat := 8 * d.rowAddr x.2 + (if d.bcast then 0 else x.1 * d.bits)

/-- ρ of R304: the number of a row. -/
def Td.rowNo (d : Td) (xs : List Nat) : Nat :=
  (List.zipWith (fun x s => (x, s)) xs d.sizes).foldr (fun a r => a.1 + a.2 * r) 0

/-- Address of the scale byte of an element. -/
def Td.scaleAddr (d : Td) (x : Nat × List Nat) : Nat := d.scaleBase + d.rowNo x.2 * d.size0 / 32 + x.1 / 32

/-- Bytes of scale. -/
def Td.scaleBytes (d : Td) : Nat := if isMx d.fmt then d.count / 32 else 0

/-- The footprint of the elements: lowest and highest address (R320). -/
def Td.footLo (d : Td) : Int :=
  (List.zipWith (fun (n : Nat) (s : Int) => min 0 (((n : Int) - 1) * s)) d.sizes d.strides).foldl (· + ·) (d.base : Int)
def Td.footHi (d : Td) : Int :=
  (List.zipWith (fun (n : Nat) (s : Int) => max 0 (((n : Int) - 1) * s)) d.sizes d.strides).foldl (· + ·)
    ((d.base : Int) + d.rowBytes - 1)

/-- The intervals of the footprint, scale bytes included. -/
def Td.foot (d : Td) : List (Int × Int) :=
  (d.footLo, d.footHi) ::
    (if d.scaleBytes = 0 then [] else [((d.scaleBase : Int), (d.scaleBase : Int) + d.scaleBytes - 1)])

/-- The 2 MiB pages of an interval. -/
def pagesOf (a : Int × Int) : List Nat :=
  let lo := a.1.toNat / page2M
  let hi := a.2.toNat / page2M
  (List.range (hi + 1 - lo)).map (fun i => lo + i)

/-- A TD in use: its descriptor, and through what its accesses go. -/
structure TdUse where
  td : Td
  via : Via
  deriving DecidableEq, Repr

/-- The code of an element, and of its scale in a microscaling format. -/
def Tray.readElem (t : Tray) (c : Nat) (u : TdUse) (x : Nat × List Nat) : Except Flt (Nat × Nat) :=
  match t.readBits c u.via (u.td.elemBit x) u.td.bits with
  | .error f => .error f
  | .ok v =>
    if isMx u.td.fmt then
      match t.readBits c u.via (8 * u.td.scaleAddr x) 8 with
      | .error f => .error f
      | .ok s => .ok (v, s)
    else .ok (v, 127)

/-- The elements of a traversal, up to the first fault. -/
def Tray.readElems (t : Tray) (c : Nat) (u : TdUse) : List (Nat × List Nat) → Except Flt (List (Nat × Nat))
  | [] => .ok []
  | x :: l =>
    match t.readElem c u x with
    | .error f => .error f
    | .ok v =>
      match t.readElems c u l with
      | .error f => .error f
      | .ok r => .ok (v :: r)

/-- Elements are stored in order up to the first fault. -/
def Tray.writeElems (t : Tray) (c : Nat) (u : TdUse) : List ((Nat × List Nat) × Nat) → Option Flt × Tray
  | [] => (none, t)
  | (x, v) :: l =>
    match t.writeBits c u.via (u.td.elemBit x) u.td.bits v with
    | (some f, t1) => (some f, t1)
    | (none, t1) => t1.writeElems c u l

/-- The value of an element with its scale; a scale of 0xFF makes it a NaN (R330). -/
def elemVal (f : Nat) (a : Nat × Nat) : FV :=
  if isMx f then (if a.2 = 255 then .nan else (fvDec f a.1).scale ((a.2 : Int) - 127)) else fvDec f a.1

/-! ### Waves (R307, R308) -/

/-- What a traversal costs: conflict cycles, added cycles of RELAXED, HBM bytes. -/
structure Cost where
  conflict : Nat := 0
  half : Nat := 0
  hbm : Nat := 0
  /-- lines of tensor SRAM accessed (R384) -/
  lines : Nat := 0
  deriving DecidableEq, Repr

/-- A list without its later repeats. -/
def distinct (l : List Nat) : List Nat := l.foldl (fun a x => if a.contains x then a else a ++ [x]) []

/-- The cost of one wave: blocks by first byte. -/
def Tray.waveCost (t : Tray) (c : Nat) (u : TdUse) (wr : Bool) (blocks : List Nat) : Cost :=
  let pas := blocks.filterMap (fun a => match t.xlat c u.via a wr with | .ok p => some (p, a) | .error _ => none)
  let sram := pas.filter (fun p => memOf p.1 = .sram)
  let lines := distinct (sram.map (fun p => (p.1 - sramBase) / 64))
  let bank := fun l => bankOf u.via.swz u.via.k (l * 64)
  let most := maxL ((List.range 64).map (fun b => (lines.filter (fun l => bank l == b)).length))
  let cyc := if sram = [] then 0 else max 1 most
  let hbmLines := distinct ((pas.filter (fun p => memOf p.1 ≠ .sram)).map (fun p => p.1 / 64))
  { conflict := cyc - 1,
    half := if u.td.relaxed ∧ sram.any (fun p => p.2 % 64 != 0) then cyc else 0,
    hbm := 64 * hbmLines.length,
    lines := (distinct (sram.map (fun p => p.1 / 64))).length }

/-- The cost of a traversal. -/
def Tray.travCost (t : Tray) (c : Nat) (u : TdUse) (o : Nat) (wr : Bool) : Cost :=
  let bs := (u.td.blockSeq o).map (fun a => u.td.rowAddr a.2 + 64 * a.1)
  (chunksOf 64 (bs.length + 1) bs).foldl (fun k w =>
    let x := t.waveCost c u wr w
    ⟨k.conflict + x.conflict, k.half + x.half, k.hbm + x.hbm, k.lines + x.lines⟩) {}

/-- A traversal is counted in LAY_PERF, LAY_PERF_HALF and the seat's HBM_BYTES; translation misses in a number that the
spec does not fix (R307, R308, R315, R371). -/
def Tray.noteTrav (t : Tray) (c : Nat) (u : TdUse) (o : Nat) (wr : Bool) : Tray :=
  let k := t.travCost c u o wr
  let pg := layPg c
  let t1 := (t.cnt pg F.LAY_PERF_CONFLICT_CYCLES k.conflict).cnt pg F.LAY_PERF_HALF_HALF_CYCLES k.half
  let t2 := (t1.charge c u.via.seat N.HBM_BYTES k.hbm).energy c u.via.seat En.SRAM k.lines
  if t2.validates c u.via.seat then t2
  else
    let (n, t3) := t2.free 32
    t3.cnt (xltPg c) F.XLT_TLB_MISSES n

/-! ### The descriptor store (R299–R301) -/

def Tray.desc (t : Tray) (c s : Nat) : DescSt := Assoc.get (fun _ => {}) (t.dealer c).descs s
def Tray.setDesc (t : Tray) (c s : Nat) (d : DescSt) : Tray :=
  t.modDealer c (fun x => { x with descs := Assoc.set (fun _ => {}) x.descs s d })

/-- Slots in use, of the chip and of a seat. -/
def Tray.descUsed (t : Tray) (c : Nat) : Nat := ((t.dealer c).descs.filter (fun a => a.2.held)).length
def Tray.descSeat (t : Tray) (c m : Nat) : Nat := ((t.dealer c).descs.filter (fun a => a.2.held && a.2.seat == m)).length
/-- Slots destroyed and still in use by a job. -/
def Tray.descDying (t : Tray) (c : Nat) : Nat := ((t.dealer c).descs.filter (fun a => a.2.held && !a.2.live)).length

/-- The slot of a handle that job `j` (none: driver software) of seat `m` may use (R299, R301). -/
def Tray.findDesc (t : Tray) (c m : Nat) (j : Option Nat) (h : Nat) : Option (Nat × DescSt) :=
  let s := h % 4096
  let d := t.desc c s
  let mine : Bool := match j with | some j => d.users.contains j | none => false
  if d.held ∧ ¬ d.upper ∧ d.gen = h / 4096 % 16 ∧ d.seat = m ∧ (d.live ∨ mine) then some (s, d) else none

/-- A slot is freed: its generation increments (R299). -/
def Tray.freeDesc (t : Tray) (c s : Nat) : Tray :=
  let one := fun (t : Tray) (s : Nat) => t.setDesc c s { gen := ((t.desc c s).gen + 1) % 16 }
  if descKind (t.desc c s).words = 2 then one (one t s) (s + 1) else one t s

/-- The slot goes back if its handle is unknown and no job holds it. -/
def Tray.reapDesc (t : Tray) (c s : Nat) : Tray :=
  let d := t.desc c s
  if d.held ∧ ¬ d.live ∧ d.users = [] ∧ ¬ d.upper then t.freeDesc c s else t

/-- A descriptor is destroyed (R301). -/
def Tray.destroyDesc (t : Tray) (c s : Nat) : Tray :=
  let d := t.desc c s
  let t1 := t.setDesc c s { d with live := false }
  let t2 := if descKind d.words = 2 then t1.setDesc c (s + 1) { t1.desc c (s + 1) with live := false } else t1
  t2.reapDesc c s

/-- A job ends: the descriptors it created are destroyed, those it held let go (R326, R301). -/
def Tray.dropJobDescs (t : Tray) (c j : Nat) : Tray :=
  let mine := ((t.dealer c).descs.filter (fun a => a.2.held && !a.2.upper)).map (fun a => a.1)
  t.each mine (fun t s =>
    let d := t.desc c s
    let t1 := t.setDesc c s { d with users := d.users.filter (· != j) }
    if d.creator = some j ∧ d.live then t1.destroyDesc c s else t1.reapDesc c s)

/-! ### Creation checks (R320) -/

/-- Parts of a DTD dimension: G, RULE, P, BSIZE (R312). -/
structure DtdDim where
  g : Nat
  rule : Nat
  p : Nat
  b : Nat
  deriving DecidableEq, Repr

structure Dtd where
  fmt : Nat
  ndim : Nat
  seat : Nat
  ranks : Nat
  epBase : Nat
  dims : List DtdDim
  deriving DecidableEq, Repr

def dtdOf (w : BitVec 1024) : Dtd :=
  { fmt := fieldOf w 4 4, ndim := fieldOf w 8 3, seat := fieldOf w 16 6, ranks := fieldOf w 24 7, epBase := fieldOf w 64 64,
    dims := (List.range 4).map (fun d =>
      ⟨fieldOf w (128 + 128 * d) 32, fieldOf w (160 + 128 * d) 2, fieldOf w (162 + 128 * d) 7,
       fieldOf w (192 + 128 * d) 32⟩) }

/-- Q, the owner grid (R313). -/
def Dtd.q (d : Dtd) : Nat := d.dims.foldl (fun a x => a * x.p) 1

/-- A BCL's fields (R309). -/
structure Bcl where
  td : Nat
  seat : Nat
  count : Nat
  listBase : Nat
  blk : List Nat
  deriving DecidableEq, Repr

def bclOf (w : BitVec 1024) : Bcl :=
  { td := fieldOf w 8 16, seat := fieldOf w 24 6, count := fieldOf w 32 32, listBase := fieldOf w 64 48,
    blk := (List.range 4).map (fun d => fieldOf w (128 + 16 * d) 16) }

/-- Status codes of R320. -/
def D.OK : Nat := 0
def D.BAD_KIND : Nat := 1
def D.RESERVED_FIELD : Nat := 2
def D.SEAT_MISMATCH : Nat := 3
def D.BAD_FMT : Nat := 4
def D.BAD_NDIM : Nat := 5
def D.ZERO_SIZE : Nat := 6
def D.MX_SHAPE : Nat := 7
def D.MISALIGNED : Nat := 8
def D.SWZ_RELAXED : Nat := 9
def D.ALIAS_WRITE : Nat := 10
def D.BAD_ADDR : Nat := 11
def D.SWZ_SPACE : Nat := 12
def D.OUT_OF_WINDOW : Nat := 13
def D.NOT_GRANTED : Nat := 14
def D.BAD_HANDLE : Nat := 15
def D.BAD_BLOCK : Nat := 16
def D.BAD_RULE : Nat := 17
def D.QUOTA : Nat := 18
def D.NO_SLOT : Nat := 19

/-- The first status of a list of (fails, status) that applies. -/
def firstFail : List (Bool × Nat) → Nat
  | [] => D.OK
  | (b, s) :: l => if b then s else firstFail l

/-- The overlap test of ALIAS_WRITE: dimensions in order of |STRIDE|, each stride at least the span below (R320). -/
def noAlias (span : Nat) : Nat → List (Nat × Nat) → Bool
  | 0, _ => true
  | _, [] => true
  | fuel + 1, l =>
    let least := l.foldl (fun m a => min m a.1) ((l.head?.map (fun a => a.1)).getD 0)
    match l.find? (fun a => a.1 == least) with
    | none => true
    | some a => decide (span ≤ a.1) && noAlias ((a.2 - 1) * a.1 + span) fuel (l.erase a)

/-- Dimensions of a TD that repeat rows: extent above 1. -/
def Td.wide (d : Td) : List (Nat × Nat) :=
  (List.range 5).filterMap (fun i => if 1 < d.size (i + 1) then some ((d.stride (i + 1)).natAbs, d.size (i + 1)) else none)

/-- WR with index tuples whose bytes overlap. -/
def Td.aliases (d : Td) : Bool :=
  d.wr && (d.bcast || d.wide.any (fun a => a.1 == 0) || !noAlias d.rowBytes 6 d.wide)

/-- An interval lies in one memory, and in no hole. -/
def oneMem (a : Int × Int) : Bool := memOf a.1.toNat == memOf a.2.toNat && memOf a.1.toNat != .hole

/-- The interval leaves the 48-bit space. -/
def leaves48 (a : Int × Int) : Bool := decide (a.1 < 0) || decide ((2 ^ 48 : Int) ≤ a.2)

/-- The address checks common to a TD and a BCL: statuses 11 to 14 over the footprint. -/
def Tray.footCheck (t : Tray) (c m : Nat) (foot : List (Int × Int)) (swz : Nat) (wr : Bool) : Nat :=
  let v := t.validates c m
  let wb := t.winBase c m
  let inWin := fun (a : Int × Int) => decide ((wb : Int) ≤ a.1) && decide (a.2 < (wb + t.winPages c m * page2M : Nat))
  let inSram := fun (a : Int × Int) =>
    if v then memOf a.1.toNat == .sram && memOf a.2.toNat == .sram
    else (pagesOf a).all (fun p =>
      let w := t.xltEnt c m (p - wb / page2M)
      decide (wb / page2M ≤ p) && entValid w && memOf (entPage w * page2M) == .sram)
  firstFail [
    (foot.any leaves48 || (v && !foot.all oneMem), D.BAD_ADDR),
    (swz != 0 && !foot.all inSram, D.SWZ_SPACE),
    (!v && !foot.all inWin, D.OUT_OF_WINDOW),
    (v && !(foot.all (fun a => (pagesOf a).all (fun p => t.granted c m (p * page2M) wr))), D.NOT_GRANTED)]

/-- The checks of a TD. -/
def Tray.checkTd (t : Tray) (c m : Nat) (w : BitVec 1024) : Nat :=
  let d := tdOf w
  let hi := (List.range 5).filter (fun i => decide (d.ndim ≤ i + 1))
  let mx := isMx d.fmt
  let s := firstFail [
    (fieldOf w 26 6 != 0 || fieldOf w 112 16 != 0 || fieldOf w 496 16 != 0 || d.swz == 3 || (!mx && d.scaleBase != 0),
      D.RESERVED_FIELD),
    (d.seat != m, D.SEAT_MISMATCH),
    (decide (13 < d.fmt), D.BAD_FMT),
    (d.ndim == 0 || decide (6 < d.ndim) || hi.any (fun i => d.size (i + 1) != 1 || d.stride (i + 1) != 0), D.BAD_NDIM),
    (d.size0 == 0 || d.sizes.any (· == 0), D.ZERO_SIZE),
    (mx && (d.size0 % 32 != 0 || d.bcast), D.MX_SHAPE),
    (!d.relaxed && (d.base % 64 != 0 || d.scaleBase % 64 != 0 || d.wide.any (fun a => a.1 % 64 != 0)), D.MISALIGNED),
    ((d.swz != 0 && d.relaxed) || (d.swzK != 0 && d.swz != 1) || decide (9 < d.swzK), D.SWZ_RELAXED),
    (d.aliases, D.ALIAS_WRITE)]
  if s ≠ D.OK then s else t.footCheck c m d.foot d.swz d.wr

/-- The checks of a BCL; `j`: the creating job. -/
def Tray.checkBcl (t : Tray) (c m : Nat) (j : Option Nat) (w : BitVec 1024) : Nat :=
  let b := bclOf w
  let td := t.findDesc c m j b.td
  let s := firstFail [
    (fieldOf w 4 4 != 0 || fieldOf w 30 2 != 0 || fieldOf w 112 16 != 0 || fieldOf w 192 320 != 0, D.RESERVED_FIELD),
    (b.seat != m, D.SEAT_MISMATCH),
    (b.listBase % 8 != 0, D.MISALIGNED)]
  if s ≠ D.OK then s
  else
    let a := t.footCheck c m [((b.listBase : Int), (b.listBase : Int) + 8 * max b.count 1 - 1)] 0 false
    if a ≠ D.OK then a
    else
      match td with
      | none => D.BAD_HANDLE
      | some (_, d) =>
        if descKind d.words ≠ 1 ∨ 4 < (tdOf d.words).ndim then D.BAD_HANDLE
        else if (b.blk[0]?).getD 0 * (tdOf d.words).bits % 512 ≠ 0 ∨ b.blk.any (· == 0) ∨ b.count = 0
            ∨ 1048576 < b.count then D.BAD_BLOCK
        else D.OK

/-- The checks of a DTD. -/
def checkDtd (m : Nat) (w : BitVec 1024) : Nat :=
  let d := dtdOf w
  let rsv := fieldOf w 11 5 != 0 || fieldOf w 22 2 != 0 || fieldOf w 31 33 != 0 || fieldOf w 640 384 != 0 ||
    (List.range 4).any (fun i => fieldOf w (169 + 128 * i) 23 != 0 || fieldOf w (224 + 128 * i) 32 != 0)
  let badDim := fun (x : DtdDim) =>
    x.p == 0 || decide (64 < x.p) || x.rule == 3 || (x.rule == 0 && x.p != 1) || (x.rule == 2 && x.b == 0) ||
    (x.rule != 2 && x.b != 0) || (x.rule == 1 && decide (x.g < x.p))
  firstFail [
    (rsv, D.RESERVED_FIELD),
    (d.seat != m, D.SEAT_MISMATCH),
    (decide (7 < d.fmt), D.BAD_FMT),
    (d.ndim == 0 || decide (4 < d.ndim) || (d.dims.drop d.ndim).any (fun x => x.g != 1), D.BAD_NDIM),
    (d.dims.any (fun x => x.g == 0), D.ZERO_SIZE),
    (d.epBase % fmtSize d.fmt != 0, D.MISALIGNED),
    (d.dims.any badDim || d.ranks == 0 || decide (64 < d.ranks) || d.ranks % d.q != 0, D.BAD_RULE)]

/-- The checks of a descriptor up to the slot's own (R320). -/
def Tray.checkDesc (t : Tray) (c m : Nat) (j : Option Nat) (w : BitVec 1024) : Nat :=
  match descKind w with
  | 1 => t.checkTd c m w
  | 2 => checkDtd m w
  | 3 => t.checkBcl c m j w
  | _ => D.BAD_KIND

/-- The first number at or after `s` modulo `n` that `ok` accepts, in steps of `st`. -/
def firstFree (ok : Nat → Bool) (n st : Nat) : Nat → Nat → Option Nat
  | 0, _ => none
  | fuel + 1, s => if ok (s % n) then some (s % n) else firstFree ok n st fuel (s + st)

/-- A descriptor is created for seat `m`: status, handle (R299–R301, R320). Which free slot it takes is a free value. -/
def Tray.createDesc (t : Tray) (c m : Nat) (j : Option Nat) (w : BitVec 1024) : Nat × Nat × Tray :=
  let pg := layPg c
  let w := if descKind w = 2 then w else BitVec.ofNat 1024 (w.toNat % 2 ^ 512)
  let need := if descKind w = 2 then 2 else 1
  let bad := fun s => (s, 0, t.cnt pg F.LAY_CNT_CREATE_ERR 1)
  let s := t.checkDesc c m j w
  if s ≠ D.OK then bad s
  else if t.gf pg (F.LAY_SEAT_QUOTA.at (8 * m)) < t.descSeat c m + need then bad D.QUOTA
  else
    let (r, t1) := t.free 12
    let ok := fun i => !(t1.desc c i).held && (need == 1 || !(t1.desc c (i + 1)).held)
    match firstFree ok 4096 need 4096 (r / need * need) with
    | none => bad D.NO_SLOT
    | some i =>
      let d := t1.desc c i
      let t2 := t1.setDesc c i { d with held := true, live := true, words := w, seat := m, users := [], creator := j,
                                        revoked := false }
      let t3 := if need = 2 then
        t2.setDesc c (i + 1) { t2.desc c (i + 1) with held := true, live := true, seat := m, upper := true } else t2
      (D.OK, i + 4096 * d.gen, (t3.cnt pg F.LAY_CNT_CREATED 1).wmMax pg F.LAY_USE_MAX (t3.descUsed c))

/-! ### Operations of page 0x310 (R321) -/

/-- An operation of the layout unit ends. -/
def Tray.layDone (t : Tray) (c st : Nat) : Tray :=
  ((t.sf (layPg c) F.LAY_OP_STATUS st).sb (layPg c) F.LAY_OP_DONE true).raise (layPg c) 8

/-- The descriptor bytes of LAY_DATA. -/
def Tray.layData (t : Tray) (c : Nat) : BitVec 1024 :=
  BitVec.ofNat 1024 ((List.range 16).foldr (fun i a => (t.rd (layPg c) (A.LAY_DATA + 8 * i)).toNat + 2 ^ 64 * a) 0)

/-- DESC_CREATE_OP. -/
def Tray.layCreate (t : Tray) (c : Nat) : Tray :=
  let (s, h, t1) := t.createDesc c (t.gf (layPg c) F.LAY_OP_SEAT) none (t.layData c)
  (if s = D.OK then t1.sf (layPg c) F.LAY_HANDLE_HANDLE h else t1).layDone c s

/-- DESC_DESTROY_OP. -/
def Tray.layDestroy (t : Tray) (c : Nat) : Tray :=
  match t.findDesc c (t.gf (layPg c) F.LAY_OP_SEAT) none (t.gf (layPg c) F.LAY_HANDLE_HANDLE) with
  | none => t.layDone c D.BAD_HANDLE
  | some (s, _) => (t.destroyDesc c s).layDone c D.OK

/-- DESC_READ_OP: a TD or BCL uses LAY_DATA 0 to 7. -/
def Tray.layRead (t : Tray) (c : Nat) : Tray :=
  match t.findDesc c (t.gf (layPg c) F.LAY_OP_SEAT) none (t.gf (layPg c) F.LAY_HANDLE_HANDLE) with
  | none => t.layDone c D.BAD_HANDLE
  | some (_, d) =>
    (t.each (List.range (if descKind d.words = 2 then 16 else 8)) (fun t i =>
      t.wr (layPg c) (A.LAY_DATA + 8 * i) (BitVec.ofNat 64 (fieldOf d.words (64 * i) 64)))).layDone c D.OK

/-! ### Operations of page 0x3E0 (R314, R318, R322) -/

def Tray.setXlt (t : Tray) (c m i : Nat) (w : Word) : Tray :=
  t.modDealer c (fun x => { x with xlt := Assoc.set (fun _ => 0) x.xlt (m * 32768 + i) w })

/-- An operation of the translation unit ends. -/
def Tray.xltDone (t : Tray) (c res : Nat) : Tray :=
  (((t.sf (xltPg c) F.XLT_OP_RESULT res).sb (xltPg c) F.XLT_OP_BUSY false).sb (xltPg c) F.XLT_OP_DONE true).raise
    (xltPg c) 9

/-- The descriptor's footprint in pages. -/
def descPages (w : BitVec 1024) : List Nat :=
  match descKind w with
  | 1 => (tdOf w).foot.flatMap pagesOf
  | 3 => let b := bclOf w; pagesOf ((b.listBase : Int), (b.listBase : Int) + 8 * b.count - 1)
  | _ => []

/-- A revocation of PA pages of seat `m` takes effect: live VALIDATE descriptors over them are marked (R318); DONE waits
for REVOCATION_DONE. -/
def Tray.revoke (t : Tray) (c m : Nat) (pages : List Nat) : Tray :=
  let t1 := if t.validates c m then
    t.modDealer c (fun x => { x with descs := x.descs.map (fun a =>
      if a.2.held ∧ a.2.seat = m ∧ (descPages a.2.words).any (fun p => pages.contains p) then
        (a.1, { a.2 with revoked := true }) else a) })
    else t
  ((t1.modDealer c (fun x => { x with revoking := true })).sb (xltPg c) F.XLT_OP_BUSY true).sb (xltPg c) F.XLT_OP_DONE
    false

/-- XLT_WRITE (R314, R318). -/
def Tray.xltWrite (t : Tray) (c : Nat) : Tray :=
  let pg := xltPg c
  let m := t.gf pg F.XLT_SEL_SEAT
  let i := t.gf pg F.XLT_SEL_INDEX
  let w := t.rd pg A.XLT_ENT
  let old := t.xltEnt c m i
  let pa := entPage w * page2M
  if t.is pg F.XLT_OP_BUSY then t
  else if entValid w ∧ ¬ t.mappable c pa then t.xltDone c 1
  else if entValid w ∧ (t.dealer c).xlt.any (fun a =>
      a.1 != m * 32768 + i && entValid a.2 && entPage a.2 == entPage w) then t.xltDone c 2
  else
    let t1 := t.setXlt c m i w
    let narrows := entValid old && (!entValid w || (entRd old && !entRd w) || (entWr old && !entWr w) ||
      entPage old != entPage w)
    if narrows then (t1.sf pg F.XLT_OP_RESULT 0).revoke c m [entPage old] else t1.xltDone c 0

/-- XLT_READ (R322). -/
def Tray.xltRead (t : Tray) (c : Nat) : Tray :=
  let pg := xltPg c
  if t.is pg F.XLT_OP_BUSY then t
  else (t.wr pg A.XLT_ENT (t.xltEnt c (t.gf pg F.XLT_SEL_SEAT) (t.gf pg F.XLT_SEL_INDEX))).xltDone c 0

/-- INVAL_SEAT (R318). -/
def Tray.invalSeat (t : Tray) (c : Nat) : Tray :=
  let pg := xltPg c
  let m := t.gf pg F.XLT_SEL_SEAT
  if t.is pg F.XLT_OP_BUSY then t
  else
    let mine := (t.dealer c).xlt.filter (fun a => a.1 / 32768 == m && entValid a.2)
    let t1 := t.each mine (fun t a => t.setXlt c m (a.1 % 32768) (F.XLT_ENT_VALID.put a.2 0))
    (t1.sf pg F.XLT_OP_RESULT 0).revoke c m (mine.map (fun a => entPage a.2))

/-- REVOCATION_DONE (R318). -/
def Tray.revocationDone (t : Tray) (c : Nat) : Tray :=
  if (t.dealer c).revoking then
    (t.modDealer c (fun x => { x with revoking := false })).xltDone c (t.gf (xltPg c) F.XLT_OP_RESULT)
  else t

end Sys2Proof.Machine
end

