-- ==== Sys2Proof/Machine/CollExec.lean ====
section
/-! DEFINITION. Collectives in flight: contributions, placement and the scoreboard, tricks, the emission of results with
the transformations of fused operations, completion and failure (R265–R281, R288–R292, R336, R337). -/
namespace Sys2Proof.Machine

/-! ### The scoreboard (R273, R274) -/

/-- What a table's reductions are computed with. -/
structure RedCfg where
  fmt : Nat
  op : Nat
  sat8 : Bool
  isat : Bool
  arrival : Bool
  deriving DecidableEq, Repr

def Tray.redCfg (t : Tray) (c tb : Nat) : RedCfg :=
  let pg := tblPg c tb
  ⟨t.tFmt c tb, t.gf pg F.TBL_CFG_OP, t.is pg F.TBL_CFG_SAT8, t.is pg F.TBL_CFG_ISAT, t.is pg F.TBL_CFG_MODE⟩

/-- Key of a position. -/
def posKey (q l : Nat) : Nat := q * 64 + l

/-- The scoreboard entry of a position, fresh if none. -/
def Trick.posn (k : Trick) (key : Nat) : Posn := (k.posns.find? (fun p => p.key == key)).getD { key := key }

/-- The entry is put back. -/
def Trick.setPosn (k : Trick) (p : Posn) : Trick :=
  if k.posns.any (fun x => x.key == p.key) then { k with posns := k.posns.map (fun x => if x.key = p.key then p else x) }
  else { k with posns := k.posns ++ [p] }

/-- One lump is folded, the first by copy; NAN_IN, NAN_GEN and OVF. -/
def RedCfg.fold (r : RedCfg) (first : Bool) (acc x : List Byte) : List Byte × Nat :=
  if first then (x, lumpFlags r.fmt x)
  else
    let y := foldLump r.fmt r.op r.sat8 r.isat acc x
    (y.1, y.2 ||| lumpFlags r.fmt x)

/-- A position is complete. -/
def Posn.complete (p : Posn) (r : RedCfg) (g : Geo) : Bool :=
  if g.opcode = O.AG then !p.got.isEmpty
  else if r.arrival then p.got.length == g.n else p.next == g.n

/-- Every position of the trick is complete. -/
def Trick.complete (k : Trick) (r : RedCfg) (g : Geo) : Bool :=
  (g.positions k.j).all (fun a => (k.posn (posKey a.1 a.2)).complete r g)

/-- Held lumps of a position whose rank is due are folded, one after the other. `held`: (rank, data) of the lumps that
wait for it. Answers the entry, the flags, the ranks taken and the bytes folded. -/
def drainHeld (r : RedCfg) (held : List (Nat × List Byte)) : Nat → Posn → Nat → List Nat → Nat → Posn × Nat × List Nat × Nat
  | 0, p, fl, tk, n => (p, fl, tk, n)
  | fuel + 1, p, fl, tk, n =>
    match held.find? (fun h => h.1 == p.next) with
    | none => (p, fl, tk, n)
    | some h =>
      let y := r.fold (p.next == 0) p.acc h.2
      drainHeld r held fuel { p with acc := y.1, next := p.next + 1 } (fl ||| y.2) (tk ++ [h.1]) (n + h.2.length)

def TableSt.findTrick (x : TableSt) (op j : Nat) : Option Trick := x.tricks.find? (fun k => k.op == op && k.j == j)

def TableSt.setTrick (x : TableSt) (k : Trick) : TableSt :=
  { x with tricks := x.tricks.map (fun y => if y.op = k.op ∧ y.j = k.j then k else y) }

/-- Early places in use by a trick. -/
def TableSt.earlyUsed (x : TableSt) (op j : Nat) : Nat :=
  (x.staged.filter (fun l => l.early && l.op == op && l.trick == j)).length

/-- Early places of a trick (R274). -/
def Tray.earlyPlaces (t : Tray) (c tb : Nat) : Nat := (t.resK c tb - 1) * t.gf (tblPg c tb) F.TBL_TRICK_TRICK_4K

/-- `n` bytes are folded or gathered for the table's seat (R371). -/
def Tray.chargeRed (t : Tray) (c tb n : Nat) : Tray := t.charge c (t.tSeat c tb) N.RED_BYTES n

/-- `n` bytes are folded: they count as RED activity too (R384). -/
def Tray.chargeFold (t : Tray) (c tb n : Nat) : Tray := (t.chargeRed c tb n).energy c (t.tSeat c tb) En.RED n

/-- A lump of rank `r` goes to its open trick: folded, gathered, or held early or in the staging area (R273, R274). -/
def Tray.scoreLump (t : Tray) (c tb : Nat) (k : Trick) (g : Geo) (rank : Nat) (l : Lump) : Tray :=
  let r := t.redCfg c tb
  let x := t.table c tb
  let p := k.posn (posKey l.piece l.lump)
  let p1 := { p with got := p.got ++ [rank] }
  if g.opcode = O.AG then
    (t.setTable c tb (x.setTrick (k.setPosn { p1 with acc := l.data }))).chargeRed c tb l.data.length
  else if r.arrival then
    let y := r.fold p.got.isEmpty p.acc l.data
    ((t.setTable c tb (x.setTrick (k.setPosn { p1 with acc := y.1 }))).modOp c tb l.op (fun o =>
      { o with flags := o.flags ||| y.2 })).chargeFold c tb l.data.length
  else if rank = p.next then
    let y := r.fold (p.next == 0) p.acc l.data
    let mine := x.staged.filter (fun z => z.op == l.op && z.trick == l.trick && z.piece == l.piece && z.lump == l.lump)
    let held := mine.filterMap (fun z => (t.rankOf c tb z.port).map (fun q => (q, z.data)))
    let d := drainHeld r held 64 { p1 with acc := y.1, next := p.next + 1 } y.2 [] l.data.length
    let gone := fun (z : Lump) =>
      z.op == l.op && z.trick == l.trick && z.piece == l.piece && z.lump == l.lump &&
      (match t.rankOf c tb z.port with | some q => d.2.2.1.contains q | none => false)
    ((t.setTable c tb { x.setTrick (k.setPosn d.1) with staged := x.staged.filter (fun z => !gone z) }).modOp c tb l.op
      (fun o => { o with flags := o.flags ||| d.2.1 })).chargeFold c tb d.2.2.2
  else
    let early := decide (x.earlyUsed l.op l.trick < t.earlyPlaces c tb)
    t.setTable c tb { x.setTrick (k.setPosn p1) with staged := x.staged ++ [{ l with early := early }] }

/-! ### Results (R266, R276, R336, R337) -/

/-- One RESULT to be sent: piece, lump, offset from the member's address, bytes. -/
structure ResPart where
  piece : Nat
  lump : Nat
  off : Nat
  data : List Byte
  deriving DecidableEq, Repr

/-- Bytes cut into RESULTs of up to 4,096 B from `off` on. -/
def cutParts (piece lump0 off : Nat) (l : List Byte) : List ResPart :=
  ((chunksOf 4096 (l.length + 1) l).zipIdx).map (fun a => ⟨piece, lump0 + a.2, off + 4096 * a.2, a.1⟩)

/-- The reduced or gathered bytes of piece q of a trick. -/
def Trick.pieceData (k : Trick) (g : Geo) (q : Nat) : List Byte :=
  (List.range (g.lumps q k.j)).flatMap (fun l => (k.posn (posKey q l)).acc)

/-- Pieces that the member of rank r receives (R266). -/
def Geo.recvPieces (g : Geo) (r : Nat) : List Nat := if g.opcode = O.RS then [r] else List.range g.n

/-- The plain results of a trick for rank r. -/
def Trick.plainParts (k : Trick) (g : Geo) (r : Nat) : List ResPart :=
  (g.recvPieces r).flatMap (fun q => cutParts q 0 (g.dstOff q k.j) (k.pieceData g q))

/-- Fields of an instruction word used by the transformations. -/
def insP (w : BitVec 512) (i : Nat) : Nat := fieldOf w (256 + 64 * i) 64

/-- Position of element `n` of a TD in the default traversal. -/
def Td.nth (d : Td) (n : Nat) : Nat × List Nat :=
  let go := d.sizes.foldl (fun (a : Nat × List Nat) s => (a.1 / s, a.2 ++ [a.1 % s])) (n / d.size0, [])
  (n % d.size0, go.2)

/-- Elements `i` to `i + n - 1` of an FP32 operand TD. -/
def Tray.operandRun (t : Tray) (c : Nat) (u : TdUse) (i n : Nat) : Except Flt (List FV) :=
  match t.readElems c u ((List.range n).map (fun k => u.td.nth (i + k))) with
  | .error f => .error f
  | .ok l => .ok (l.map (elemVal u.td.fmt))

/-- The use of a TD by an instruction. -/
def useOf (m h : Nat) (revoked : Bool) (w : BitVec 1024) : TdUse :=
  let d := tdOf w
  { td := d, via := { seat := m, handle := h, revoked := revoked, swz := d.swz, k := d.swzK + 12 } }

/-- y = ACT(SCALE × x + BIAS) in FP32, each operation rounded once (R336, log 7). -/
def epiElem (w : BitVec 512) (x : FV) (bias : FV) : FV × Nat :=
  let p2 := insP w 2
  let x0 := fvRound 1 x
  let x1 := if bitOf p2 8 then fvRound 1 (x0.1.mul (fvDec 1 (insP w 3 % 2 ^ 32))) else (x0.1, 0)
  let x2 := if bitOf p2 9 then fvRound 1 (x1.1.add bias) else (x1.1, 0)
  (actFn (p2 % 4) x2.1, x0.2 ||| x1.2 ||| x2.2)

/-- Values converted to OUT_FMT: bytes, scale bytes, flags. -/
def outBytes (f : Nat) (sat8 : Bool) (vs : List FV) : List Byte × List Byte × Nat :=
  if isMx f then
    let bs := (chunksOf 32 (vs.length + 1) vs).map (quantBlock f)
    (packBits (fmtBits f) (bs.flatMap (fun b => b.2.1)), bs.map (fun b => BitVec.ofNat 8 b.1),
      bs.foldl (fun a b => a ||| b.2.2) 0)
  else
    let r := vs.map (fvConv f sat8)
    (elemBytes (fmtSize f) (r.map (fun a => a.1)), [], r.foldl (fun a x => a ||| x.2) 0)

/-- The results of an RS_EPI trick for rank r: epilogue output and, for an MX OUT_FMT, scale bytes (R336). -/
def Tray.epiParts (t : Tray) (c tb : Nat) (k : Trick) (g : Geo) (w : BitVec 512) (u : TdUse) (r : Nat) :
    Except Flt (List ResPart × Nat) :=
  let f := insP w 2 / 2 ^ 16 % 16
  let b := fmtBits f
  let xs := (elemsOf g.sz (k.pieceData g r)).map (fvDec (t.tFmt c tb))
  let i0 := r * g.count + k.j * g.e
  let bias := if bitOf (insP w 2) 9 then t.operandRun c u i0 xs.length else .ok (xs.map (fun _ => FV.num false 0 0))
  match bias with
  | .error e => .error e
  | .ok bs =>
    let ys := List.zipWith (epiElem w) xs bs
    let o := outBytes f (fieldOf w 18 1 == 1) (ys.map (fun y => y.1))
    let body := cutParts r 0 (k.j * g.e * b / 8) o.1
    let sc := cutParts r body.length (g.count * b / 8 + k.j * g.e / 32) o.2.1
    .ok (body ++ sc, ys.foldl (fun a y => a ||| y.2) o.2.2)

/-- Runs of an AG_PRO piece of rank q that are contiguous at the destination: first element, its offset in elements. -/
def proRuns (g : Geo) (blk q i0 n : Nat) : List (Nat × Nat × Nat) :=
  if blk = 0 then [(0, q * g.count + i0, n)]
  else
    let cuts := (List.range n).filter (fun k => k == 0 || (i0 + k) % blk == 0)
    cuts.map (fun k => (k, ((i0 + k) / blk * g.n + q) * blk + (i0 + k) % blk, min (n - k) (blk - (i0 + k) % blk)))

/-- The results of an AG_PRO trick (R337). -/
def Tray.proParts (t : Tray) (c tb : Nat) (k : Trick) (g : Geo) (w : BitVec 512) (u : TdUse) :
    Nat → Except Flt (List ResPart × Nat)
  | 0 => .ok ([], 0)
  | q + 1 =>
    match t.proParts c tb k g w u q with
    | .error e => .error e
    | .ok (ps, fl) =>
      let f := insP w 2 / 2 ^ 16 % 16
      let blk := insP w 2 / 2 ^ 20 % 2 ^ 12
      let xs := (elemsOf g.sz (k.pieceData g q)).map (fun x => fvRound 1 (fvDec (t.tFmt c tb) x))
      let sc := if bitOf (insP w 2) 9 then t.operandRun c u q 1 else .ok []
      match sc with
      | .error e => .error e
      | .ok s =>
        let ys := xs.map (fun x => match s with | v :: _ => fvRound 1 (x.1.mul v) | [] => x)
        let o := outBytes f (fieldOf w 18 1 == 1) (ys.map (fun y => y.1))
        let sz := fmtSize f
        let parts := (proRuns g blk q (k.j * g.e) xs.length).flatMap (fun a =>
          cutParts q 0 (a.2.1 * sz) ((o.1.drop (a.1 * sz)).take (a.2.2 * sz)))
        let renum := (parts.zipIdx).map (fun a => { a.1 with lump := a.2 })
        .ok (ps ++ renum, ys.foldl (fun a y => a ||| y.2) (fl ||| o.2.2))

/-- The results of a complete trick for the member of rank r, with the flags of the transformation. -/
def Tray.trickParts (t : Tray) (c tb : Nat) (o : OpSt) (k : Trick) (g : Geo) (r : Nat) : Except Flt (List ResPart × Nat) :=
  let m := t.tSeat c tb
  match o.fuse with
  | .epi w h b => t.epiParts c tb k g w (useOf m h (t.desc c (h % 4096)).revoked b) r
  | .pro w h b => t.proParts c tb k g w (useOf m h (t.desc c (h % 4096)).revoked b) g.n
  | _ => .ok (if g.opcode = O.BARRIER then [⟨0, 0, 0, []⟩] else k.plainParts g r, 0)

/-! ### Completion and failure (R277, R280, R281) -/

/-- Originated packets that satisfy `own` wait at, or are unacknowledged by, a port. -/
def PortSt.owns (p : PortSt) (own : Owner → Bool) : Bool :=
  p.origq.any (fun o => own o.owner) || p.replay.any (fun r => !r.freed && own r.owner)

/-- The owner is a RESULT of an operation, of one of its tricks. -/
def Owner.ofOp (tb op : Nat) : Owner → Bool
  | .result tb' op' _ _ => tb == tb' && op == op'
  | _ => false
def Owner.ofTrick (tb op j : Nat) : Owner → Bool
  | .result tb' op' j' _ => tb == tb' && op == op' && j == j'
  | _ => false

/-- Some RESULT of the trick is not in a replay store yet: its accumulator is in use (R271). -/
def Tray.accBusy (t : Tray) (c tb : Nat) (k : Trick) : Bool :=
  !k.emitted || (t.tMembers c tb).any (fun e => (t.port c e).origq.any (fun o => Owner.ofTrick tb k.op k.j o.owner))

/-- A job slot learns that its operation has ended with a status of R252. -/
def Tray.slotEnded (t : Tray) (c : Nat) (l : Launch) (st : Nat) : Tray :=
  match l with
  | .endpoints => t
  | .dealer j _ _ =>
    t.modDealer c (fun x =>
      let s := Assoc.get (fun _ => {}) x.slots j
      match s.wait with
      | .op _ _ => { x with slots := Assoc.set (fun _ => {}) x.slots j { s with wait := .ended st } }
      | _ => x)

/-- The OP_DONE record of an operation goes to one member (R253, R257). -/
def Tray.opRecord (t : Tray) (c tb : Nat) (o : OpSt) (x : OpMember) (st : Nat) : Tray :=
  let fl := if o.opcode = O.RS ∨ o.opcode = O.AR then o.flags else 0
  let r : Rec := { kind := K.OP_DONE, status := st, flags := fl, opSeq := o.seq, userTag := x.userTag, bytes := x.bytes }
  match x.idx with
  | some i => t.endCmd c tb x.port i x.silent r
  | none =>
    let w := t.win c tb x.port
    let t1 := if st = 0 then t else t.cnt (tblPg c tb) F.TBL_OPS_ERR 1
    if w.cqEn ∧ 2 ≤ w.cqFree ∧ w.waitOps = [] then t1.writeRec c tb x.port r
    else t1.setWin c tb x.port { w with waitOps := w.waitOps ++ [r] }

/-- An operation whose last RESULT is acknowledged completes: records, INC_EN, and it leaves (R277). -/
def Tray.completeOp (t : Tray) (c tb : Nat) (o : OpSt) : Tray :=
  let t1 := t.each o.members (fun t x => t.opRecord c tb o x St.OK)
  let t2 := match o.inc with | some i => t1.incCtr c tb i 1 | none => t1
  let t3 := t2.modTable c tb (fun x => { x with ops := x.ops.filter (fun z => z.seq != o.seq) })
  ((t3.cnt (tblPg c tb) F.TBL_OPS_DONE 1).charge c (t.tSeat c tb) N.COLL_OPS 1).slotEnded c o.launch St.OK

/-- Members of a failed operation whose emitted RESULTs are acknowledged get OP_DONE DATA_FAIL; after the last the
operation leaves (R281). -/
def Tray.finishFailed (t : Tray) (c tb : Nat) (o : OpSt) : Tray :=
  let due := o.members.filter (fun x => !(t.port c x.port).owns (Owner.ofOp tb o.seq))
  let left := o.members.filter (fun x => (t.port c x.port).owns (Owner.ofOp tb o.seq))
  let t1 := t.each due (fun t x => t.opRecord c tb o x St.DATA_FAIL)
  if left = [] then t1.modTable c tb (fun x => { x with ops := x.ops.filter (fun z => z.seq != o.seq) })
  else t1.modOp c tb o.seq (fun z => { z with members := left })

/-- Everything due of an operation has been sent. -/
def Tray.opSent (t : Tray) (c tb : Nat) (o : OpSt) : Bool :=
  if o.opcode = O.SHUFFLE then o.allSent
  else o.opened == (t.geo c tb o).m && !(t.table c tb).tricks.any (fun k => k.op == o.seq)

/-- Completion is looked at again for an operation. -/
def Tray.checkOp (t : Tray) (c tb seq : Nat) : Tray :=
  match (t.table c tb).findOp seq with
  | none => t
  | some o =>
    if o.failed then t.finishFailed c tb o
    else if o.started ∧ t.opSent c tb o ∧ ¬ (t.tMembers c tb).any (fun e => (t.port c e).owns (Owner.ofOp tb seq)) then
      t.completeOp c tb o
    else t

/-- DATA_FAIL: emission stops, the operation's tricks, tags, links, early places and staged lumps are freed (R281). -/
def Tray.failOp (t : Tray) (c tb seq : Nat) : Tray :=
  match (t.table c tb).findOp seq with
  | none => t
  | some o =>
    if o.failed ∨ ¬ o.started then t
    else
      let cut := fun (t : Tray) (e : Nat) => t.modPort c e (fun p => { p with
        origq := p.origq.filter (fun q => !Owner.ofOp tb seq q.owner) })
      let lost := fun (e : Nat) => sumL (((t.port c e).origq.filter (fun q => Owner.ofOp tb seq q.owner)).map
        (fun q => hLen q.pkt.hdr))
      let t1 := t.each (t.tMembers c tb) cut
      let t2 := t1.modTable c tb (fun x => { x with
        tricks := x.tricks.filter (fun k => k.op != seq), staged := x.staged.filter (fun l => l.op != seq),
        ops := x.ops.map (fun z => if z.seq = seq then
          { z with failed := true, members := z.members.map (fun y => { y with bytes := y.bytes - lost y.port }) }
          else z) })
      ((t2.charge c (t.tSeat c tb) N.DATA_FAIL 1).slotEnded c o.launch St.DATA_FAIL).checkOp c tb seq

/-! ### Emission (R267, R276) -/

/-- A channel of 3 to 7 that the spec does not fix: for a member that has contributed nothing. -/
def Tray.anyChannel (t : Tray) : Nat × Tray :=
  let (r, t1) := t.free 16
  (3 + r % 5, t1)

/-- The channel of an operation's RESULTs to a member (R269). -/
def Tray.memberCh (t : Tray) (c tb seq e : Nat) : Nat × Tray :=
  match ((t.table c tb).findOp seq).bind (fun o => o.members.find? (fun x => x.port == e)) with
  | some x =>
    (match x.ch with
     | some k => (k, t)
     | none =>
       let (k, t1) := t.anyChannel
       (k, t1.modOp c tb seq (fun o => { o with
         members := o.members.map (fun y => if y.port = e then { y with ch := some k } else y) })))
  | none => (3, t)

/-- The RESULTs of one trick to one member are originated (R276). -/
def Tray.sendParts (t : Tray) (c tb seq j tag : Nat) (last : Bool) (x : OpMember) (parts : List ResPart) : Tray :=
  let (ch, t1) := t.memberCh c tb seq x.port
  let ep := t.tEpoch c tb
  let n := parts.length
  let t2 := (t1.each (parts.zipIdx) (fun t a =>
    let p := a.1
    let pk := mkPkt { ptype := P.RESULT, ch := ch, src := x.port, dst := x.port, seat := t.tSeat c tb, epoch := ep, tbl := tb,
                      tag := tag, addr := x.dst + p.off,
                      arg := seq % 65536 + 2 ^ 16 * (p.piece % 64) + 2 ^ 22 * (p.lump % 8) + 2 ^ 32 * (j % 2 ^ 32),
                      last := last && a.2 + 1 == n } p.data
    t.originate c x.port (.result tb seq j ep) pk))
  t2.modOp c tb seq (fun o => { o with
    members := o.members.map (fun y => if y.port = x.port then
      { y with bytes := y.bytes + sumL (parts.map (fun p => p.data.length)) } else y) })

/-- A complete trick is emitted to every member; the last trick to be emitted carries LAST (R267, R276). A fault of a
fused operand fails the operation. -/
def Tray.emitTrick (t : Tray) (c tb : Nat) (o : OpSt) (k : Trick) : Tray :=
  let g := t.geo c tb o
  let parts := o.members.map (fun x => match t.rankOf c tb x.port with
    | some r => (x, t.trickParts c tb o k g r)
    | none => (x, .ok ([], 0)))
  match parts.findSome? (fun a => match a.2 with | .error e => some e | .ok _ => none) with
  | some e => (t.noteFault c (t.tSeat c tb) e).failOp c tb o.seq
  | none =>
    let others := (t.table c tb).tricks.any (fun y => y.op == o.seq && y.j != k.j && !y.emitted)
    let last := o.opened == g.m && !others
    let t1 := t.modTable c tb (fun x => x.setTrick { k with emitted := true, posns := [] })
    let fl := parts.foldl (fun a p => match p.2 with | .ok r => a ||| r.2 | .error _ => a) 0
    let t2 := t1.modOp c tb o.seq (fun z => { z with flags := z.flags ||| fl })
    t2.each parts (fun t p => match p.2 with
      | .ok r => t.sendParts c tb o.seq k.j k.tag last p.1 r.1
      | .error _ => t)

/-- The trick is emitted once it is complete. -/
def Tray.tryEmit (t : Tray) (c tb seq j : Nat) : Tray :=
  match (t.table c tb).findOp seq, (t.table c tb).findTrick seq j with
  | some o, some k =>
    if ¬ k.emitted ∧ ¬ o.failed ∧ k.complete (t.redCfg c tb) (t.geo c tb o) then t.emitTrick c tb o k else t
  | _, _ => t

/-! ### Contributions (R268–R275) -/

/-- A lump fits the geometry of its operation for its member (R265). -/
def Tray.lumpFits (t : Tray) (c tb : Nat) (o : OpSt) (l : Lump) : Bool :=
  let g := t.geo c tb o
  match t.rankOf c tb l.port with
  | none => false
  | some r =>
    decide (1 ≤ o.opcode ∧ o.opcode ≤ 3) && decide (l.piece < g.n) && (o.opcode != O.AG || l.piece == r) &&
    decide (l.trick < g.m) && decide (l.lump < g.lumps l.piece l.trick) &&
    l.data.length == g.lumpBytes l.piece l.trick l.lump

/-- The lump has been placed already. -/
def Tray.lumpDup (t : Tray) (c tb : Nat) (o : OpSt) (l : Lump) : Bool :=
  let x := t.table c tb
  let held := x.staged.any (fun z => z.op == l.op && z.trick == l.trick && z.piece == l.piece && z.lump == l.lump &&
    z.port == l.port)
  match x.findTrick l.op l.trick with
  | some k =>
    k.emitted || (match t.rankOf c tb l.port with
      | some r => (k.posn (posKey l.piece l.lump)).got.contains r
      | none => false)
  | none => held || decide (l.trick < o.opened)

/-- The operation ends because a lump is malformed (R280). -/
def Tray.malformed (t : Tray) (c tb seq : Nat) : Tray :=
  (t.sat (tblPg c tb) F.TBL_CONTRIB_ERR_MALFORMED 1).failOp c tb seq

/-- The member's channel is that of its first contribution. -/
def Tray.noteCh (t : Tray) (c tb : Nat) (l : Lump) : Tray :=
  t.modOp c tb l.op (fun o => { o with
    members := o.members.map (fun y => if y.port = l.port ∧ y.ch = none then { y with ch := some l.ch } else y) })

/-- A lump of a started operation is placed (R271). -/
def Tray.placeLump (t : Tray) (c tb : Nat) (o : OpSt) (l : Lump) : Tray :=
  if ¬ t.lumpFits c tb o l ∨ t.lumpDup c tb o l then t.malformed c tb o.seq
  else
    let t1 := t.noteCh c tb l
    match (t1.table c tb).findTrick l.op l.trick, t.rankOf c tb l.port with
    | some k, some r => (t1.scoreLump c tb k (t.geo c tb o) r l).tryEmit c tb l.op l.trick
    | _, _ => t1.modTable c tb (fun x => { x with staged := x.staged ++ [l] })

/-- The lowest trick of the operation not yet emitted to the member (R270). -/
def Tray.lowTrick (t : Tray) (c tb : Nat) (o : OpSt) (e : Nat) : Nat :=
  let p := t.port c e
  let open_ := (t.table c tb).tricks.filter (fun k => k.op == o.seq &&
    (!k.emitted || p.origq.any (fun q => Owner.ofTrick tb k.op k.j q.owner)))
  open_.foldl (fun m k => min m k.j) o.opened

/-- A discard of R270: counted in a field of TBL_CONTRIB_ERR and against the packet's seat. -/
def Tray.lumpDiscard (t : Tray) (c tb : Nat) (f : Fld) (m : Nat) : Tray :=
  (t.sat (tblPg c tb) f 1).charge c m N.TBL_DISCARD 1

/-- The lump of a CONTRIB packet. -/
def lumpOf (e : Nat) (p : Pkt) : Lump :=
  let a := hAddr p.hdr
  { op := a % 65536, piece := a / 2 ^ 16 % 64, lump := a / 2 ^ 22 % 8, trick := a / 2 ^ 32 % 2 ^ 32, port := e,
    seat := hSeat p.hdr, ch := hCh p.hdr, data := pBytes p }

/-- The checks of R236 and the epoch on a packet for a table: what the packet meets, or nothing. -/
def Tray.tblGate (t : Tray) (c tb e : Nat) (p : Pkt) : Option Tray :=
  let m := hSeat p.hdr
  if t.tst c tb = T.FREE ∨ ¬ t.isMember c tb e then some (t.tblDiscard c tb F.TBL_ERR_NOT_MEMBER m)
  else if m ≠ t.tSeat c tb then some (t.tblDiscard c tb F.TBL_ERR_SEAT m)
  else if hEpoch p.hdr ≠ t.tEpoch c tb then some (t.charge c m N.STALE 1)
  else none

/-- A CONTRIB packet accepted by the transport (R270). -/
def Tray.contribPacket (t : Tray) (c e : Nat) (p : Pkt) : Tray :=
  let tb := hTbl p.hdr
  match t.tblGate c tb e p with
  | some t1 => t1
  | none =>
    let l := lumpOf e p
    let stray := t.lumpDiscard c tb F.TBL_CONTRIB_ERR_STRAY l.seat
    if t.tst c tb = T.ABORTING then stray
    else
      match (t.table c tb).findOp l.op with
      | some o =>
        if o.failed then stray
        else if t.lowTrick c tb o e + t.tricksInfl c tb ≤ l.trick then
          t.lumpDiscard c tb F.TBL_CONTRIB_ERR_WINDOW l.seat
        else if o.started then t.placeLump c tb o l
        else t.modTable c tb (fun x => { x with staged := x.staged ++ [l] })
      | none =>
        if l.op ≠ t.opNext c tb then stray
        else if t.tricksInfl c tb ≤ l.trick then t.lumpDiscard c tb F.TBL_CONTRIB_ERR_WINDOW l.seat
        else t.modTable c tb (fun x => { x with staged := x.staged ++ [l] })

/-- What was staged for an operation before it started is checked against R265 once it has started; an operation a lump
of which expired before ends with DATA_FAIL (R270, R275). -/
def Tray.checkStarted (t : Tray) (c tb : Nat) : Tray :=
  let x := t.table c tb
  t.each (x.ops.filter (fun o => o.started && !o.failed)) (fun t o =>
    let mine := x.staged.filter (fun l => l.op == o.seq && !l.early)
    let key := fun (l : Lump) => (l.trick, l.piece, l.lump, l.port)
    let twice := mine.any (fun l => decide (1 < (mine.filter (fun z => key z == key l)).length))
    let t1 := t.each mine (fun t l => t.noteCh c tb l)
    if x.doomed.contains o.seq then
      (t1.modTable c tb (fun y => { y with doomed := y.doomed.filter (· != o.seq) })).failOp c tb o.seq
    else if twice ∨ ¬ mine.all (t.lumpFits c tb o) then t1.malformed c tb o.seq
    else t1)

/-! ### Tricks (R271, R289) -/

/-- A free tag: which one is a free value. -/
def Tray.pickTag (t : Tray) (c : Nat) : Nat × Tray :=
  let used := (t.tablesOf c).flatMap (fun a => a.2.tricks.map (fun k => k.tag))
  let (r, t1) := t.free 14
  ((firstFree (fun i => !used.contains i) 16384 1 (used.length + 1) r).getD 0, t1)

/-- The operation whose trick opens next, in ascending order (R271). -/
def Tray.nextTrickOp (t : Tray) (c tb : Nat) : Option OpSt :=
  (t.table c tb).ops.find? (fun o => o.started && !o.failed && o.opcode != O.SHUFFLE &&
    decide (o.opened < (t.geo c tb o).m))

/-- The wait of the next trick is counted once (R289). -/
def Tray.trickWait (t : Tray) (c tb : Nat) (f : Fld) : Tray :=
  if (t.table c tb).waitNoted then t
  else ((t.modTable c tb (fun x => { x with waitNoted := true })).sat (tblPg c tb) f 1).charge c (t.tSeat c tb)
    N.COLL_WAIT 1

/-- TRICK_OPEN: the next trick opens if an accumulator, a tag and, for AR, a link entry are free; its staged lumps move
in (R271). -/
def Tray.trickOpen (t : Tray) (c tb : Nat) : Tray :=
  if ¬ t.tRuns c tb ∨ t.is (tblPg c tb) F.PG_COMMIT_STS_PENDING then t
  else
    match t.nextTrickOp c tb with
    | none => t
    | some o =>
      let x := t.table c tb
      let busy := x.tricks.filter (fun k => t.accBusy c tb k)
      let place := busy.any (fun k => k.op == o.seq && k.j + t.tricksInfl c tb == o.opened)
      if place ∨ t.tricksInfl c tb ≤ busy.length then t.trickWait c tb F.TBL_WAITS_SLOT_WAIT
      else if 16384 ≤ t.tagsUsed c then t.trickWait c tb F.TBL_WAITS_TAG_WAIT
      else if o.opcode = O.AR ∧ 65536 ≤ t.trigUsed c then t.trickWait c tb F.TBL_ERR_TRIG_WAIT
      else
        let j := o.opened
        let (tag, t1) := t.pickTag c
        let mine := x.staged.filter (fun l => l.op == o.seq && l.trick == j)
        let t2 := (t1.modTable c tb (fun y => { y with
          tricks := y.tricks ++ [{ op := o.seq, j := j, tag := tag }], waitNoted := false,
          staged := y.staged.filter (fun l => !(l.op == o.seq && l.trick == j)),
          ops := y.ops.map (fun z => if z.seq = o.seq then { z with opened := j + 1 } else z) })).collMarks c
        let t3 := t2.each mine (fun t l =>
          match (t.table c tb).findTrick o.seq j, t.rankOf c tb l.port with
          | some k, some r => t.scoreLump c tb k (t.geo c tb o) r l
          | _, _ => t)
        t3.tryEmit c tb o.seq j

/-- An acknowledged RESULT: its trick's tag is freed once none is left, and the operation may complete (R271, R277). -/
def Tray.resultDone (t : Tray) (c tb op j ep : Nat) : Tray :=
  if ep ≠ t.tEpoch c tb then t
  else
    let left := (t.tMembers c tb).any (fun e => (t.port c e).owns (Owner.ofTrick tb op j))
    let t1 := if left then t else
      t.modTable c tb (fun x => { x with tricks := x.tricks.filter (fun k => !(k.op == op && k.j == j && k.emitted)) })
    t1.checkOp c tb op

/-- LUMP_EXPIRY: a lump held 5 ms is discarded and its operation ends with DATA_FAIL (R275). -/
def Tray.lumpExpiry (t : Tray) (c tb op trick piece lump e : Nat) : Tray :=
  let hit := fun (l : Lump) =>
    l.op == op && l.trick == trick && l.piece == piece && l.lump == lump && l.port == e
  match (t.table c tb).staged.find? hit with
  | none => t
  | some l =>
    let t1 := t.modTable c tb (fun x => { x with staged := x.staged.filter (fun z => !hit z) })
    let t2 := (t1.sat (tblPg c tb) F.TBL_CONTRIB_ERR_EXPIRED 1).charge c l.seat N.STALE 1
    match (t2.table c tb).findOp op with
    | some o => if o.started then t2.failOp c tb op else t2.modTable c tb (fun x => { x with doomed := x.doomed ++ [op] })
    | none => t2.modTable c tb (fun x => { x with doomed := x.doomed ++ [op] })

/-! ### A whole operation (R231, R232) -/

/-- The bytes of position (q, l) of trick j within a member's contribution. -/
def Geo.slice (g : Geo) (q j l : Nat) (data : List Byte) : List Byte :=
  (data.drop (g.srcElem q j * g.sz + 4096 * l)).take (g.lumpBytes q j l)

/-- A position of a trick reduced over whole contributions, in the order given. -/
def Geo.posnOf (g : Geo) (r : RedCfg) (j : Nat) (a : Nat × Nat) (src : List (Nat × List Byte)) : Posn × Nat :=
  let mine := if g.opcode = O.AG then src.filter (fun s => s.1 == a.1) else src
  let y := mine.foldl (fun (z : Option (List Byte) × Nat) s =>
    let x := g.slice a.1 j a.2 s.2
    if g.opcode = O.AG then (some x, 0)
    else match z.1 with
      | none => let f := r.fold true [] x; (some f.1, z.2 ||| f.2)
      | some acc => let f := r.fold false acc x; (some f.1, z.2 ||| f.2)) (none, 0)
  ({ key := posKey a.1 a.2, next := g.n, got := mine.map (fun s => s.1), acc := y.1.getD [] }, y.2)

/-- RS, AG, AR and BARRIER as a whole: the first started operation of the opcode of which no trick has opened and no
contribution has arrived receives every member's contribution, in the order of arrival, and its results are emitted.
Contributions that do not fit end it with DATA_FAIL. -/
def Tray.runOp (t : Tray) (c tb opcode : Nat) (data : List (Nat × List Byte)) : Tray :=
  if ¬ t.tRuns c tb ∨ t.is (tblPg c tb) F.PG_COMMIT_STS_PENDING then t
  else
    match (t.table c tb).ops.find? (fun o => o.started && !o.failed && o.opcode == opcode && o.opened == 0) with
    | none => t
    | some o =>
      let g := t.geo c tb o
      let r := t.redCfg c tb
      let src := data.filterMap (fun a => (t.rankOf c tb a.1).map (fun q => (q, a.2)))
      let ranked := (List.range g.n).filterMap (fun q => (src.find? (fun s => s.1 == q)))
      let fit := src.length == g.n && data.length == g.n && ranked.length == g.n &&
        src.all (fun s => s.2.length == g.contribBytes)
      if (t.table c tb).staged.any (fun l => l.op == o.seq) then t
      else if opcode ≠ O.BARRIER ∧ ¬ fit then t.malformed c tb o.seq
      else
        let inOrder := if r.arrival then src else ranked
        t.each (List.range g.m) (fun t j =>
          match (t.table c tb).findOp o.seq with
          | none => t
          | some o1 =>
            if o1.failed then t
            else
              let (tag, t1) := t.pickTag c
              let ps := (g.positions j).map (fun a => g.posnOf r j a inOrder)
              let k : Trick := { op := o.seq, j := j, tag := tag, posns := ps.map (fun p => p.1) }
              let fl := ps.foldl (fun a p => a ||| p.2) 0
              let t2 := t1.modTable c tb (fun y => { y with
                tricks := y.tricks ++ [k],
                ops := y.ops.map (fun z => if z.seq = o.seq then { z with opened := j + 1, flags := z.flags ||| fl } else z) })
              let red := sumL (ps.map (fun p => p.1.acc.length * p.1.got.length))
              match (t2.table c tb).findOp o.seq with
              | none => t2
              | some o2 => ((if g.opcode = O.AG then (t2.collMarks c).chargeRed c tb red
                  else (t2.collMarks c).chargeFold c tb red)).emitTrick c tb o2 k)

end Sys2Proof.Machine
end

