-- ==== Sys2Proof/Machine/Snap.lean ====
section
/-! DEFINITION. The snap path: small reductions without tricks, tags or commands (R283–R287, R295). -/
namespace Sys2Proof.Machine

/-- Page of the snap unit. -/
def snapPg (c : Nat) : Nat := chipPg c 0x3D0

/-- Statuses of a snap result (R286). -/
def SS.OK : Nat := 0
def SS.LEN_MISMATCH : Nat := 1
def SS.EXPIRED : Nat := 2
def SS.ABORTED : Nat := 3
def SS.BAD_LEN : Nat := 4

/-- SNAP_SEQ of the current operation. -/
def Tray.snapNext (t : Tray) (c tb : Nat) : Nat := t.gf (tblPg c tb) F.TBL_SNAP_SNAP_NEXT

/-- A result to one member (R286). -/
def Tray.snapResult (t : Tray) (c tb e addr seq st flags : Nat) (data : List Byte) : Tray :=
  let ep := t.tEpoch c tb
  let pk := mkPkt { ptype := P.SNAP, ch := 0, src := e, dst := e, seat := t.tSeat c tb, epoch := ep, tbl := tb,
                    addr := addr, arg := seq % 65536 + 2 ^ 16 * (st % 8) + 2 ^ 19 * (flags % 8) } data
  t.originate c e (.snap tb ep) pk

/-- A status to every member whose payload is held, and s advances. -/
def Tray.snapAdvance (t : Tray) (c tb : Nat) : Tray :=
  (t.modTable c tb (fun x => { x with snap0 := x.snap1, snap1 := [] })).cnt (tblPg c tb) F.TBL_SNAP_SNAP_NEXT 1

/-- The payloads in the order of the fold: by rank, or as they arrived. -/
def Tray.snapOrder (t : Tray) (c tb : Nat) (l : List SnapIn) : List SnapIn :=
  if (t.redCfg c tb).arrival then l
  else (t.tRanks c tb).filterMap (fun e => l.find? (fun x => x.port == e))

/-- The fold of the payloads: bytes and NUMFLAGS. -/
def RedCfg.snapFold (r : RedCfg) (l : List SnapIn) : List Byte × Nat :=
  match l with
  | [] => ([], 0)
  | a :: rest => rest.foldl (fun z x => let y := r.fold false z.1 x.data; (y.1, z.2 ||| y.2)) (r.fold true [] a.data)

/-- All payloads of s are present: the results are emitted and s advances (R284). -/
def Tray.snapComplete (t : Tray) (c tb : Nat) : Tray :=
  let l := (t.table c tb).snap0
  let s := t.snapNext c tb
  let lens := l.map (fun x => x.data.length)
  let same := lens.all (fun n => n == (lens.head?).getD 0)
  let f := if same then (t.redCfg c tb).snapFold (t.snapOrder c tb l) else ([], 0)
  let t1 := t.each l (fun t x => t.snapResult c tb x.port x.addr s (if same then SS.OK else SS.LEN_MISMATCH) f.2 f.1)
  let t2 :=
    if same then ((t1.cnt (tblPg c tb) F.TBL_SNAP_DONE 1).charge c (t.tSeat c tb) N.SNAP_OPS 1).energy c (t.tSeat c tb)
      En.SNAP (sumL lens / fmtSize (t.tFmt c tb))
    else t1.sat (snapPg c) F.SNAP_ERR_LEN_MISMATCH 1
  let (ns, t3) := t2.free 16
  (((t3.cnt (snapPg c) F.SNAP_CNT_OPS 1).sf (snapPg c) F.SNAP_LAT_LAST_NS ns).wmMax (snapPg c) F.SNAP_LAT_MAX_NS
    ns).snapAdvance c tb

/-- The current operation completes as long as all its payloads are present. -/
def Tray.snapRun (t : Tray) (c tb : Nat) : Nat → Tray
  | 0 => t
  | n + 1 =>
    if (t.table c tb).snap0.length = t.tN c tb ∧ t.tN c tb ≠ 0 then (t.snapComplete c tb).snapRun c tb n else t

/-- A discard of R284 or R285 under SNAP_ERR.STRAY. -/
def Tray.snapStray (t : Tray) (c m : Nat) : Tray := (t.sat (snapPg c) F.SNAP_ERR_STRAY 1).charge c m N.TBL_DISCARD 1

/-- A SNAP in its operation's place, or a second one from the same member (R284). -/
def Tray.snapHold (t : Tray) (c tb e : Nat) (nxt : Bool) (p : Pkt) : Tray :=
  let x := t.table c tb
  let y : SnapIn := ⟨e, hAddr p.hdr, pBytes p⟩
  let here := if nxt then x.snap1 else x.snap0
  if here.any (fun z => z.port == e) then t.snapStray c (hSeat p.hdr)
  else if nxt then t.setTable c tb { x with snap1 := x.snap1 ++ [y] }
  else (t.setTable c tb { x with snap0 := x.snap0 ++ [y] }).snapRun c tb 2

/-- A SNAP packet accepted by the transport (R285, R284). -/
def Tray.snapPacket (t : Tray) (c e : Nat) (p : Pkt) : Tray :=
  let tb := hTbl p.hdr
  let h := p.hdr
  match t.tblGate c tb e p with
  | some t1 => t1
  | none =>
    let sz := fmtSize (t.tFmt c tb)
    let seq := hArg h % 65536
    let d := diff16 seq (t.snapNext c tb)
    if t.tst c tb = T.ABORTING ∨ t.service ≠ 0 then t.snapStray c (hSeat h)
    else if 256 < hLen h ∨ hLen h % sz ≠ 0 ∨ hAddr h % sz ≠ 0 then
      (t.snapResult c tb e (hAddr h) seq SS.BAD_LEN 0 []).sat (snapPg c) F.SNAP_ERR_BAD_LEN 1
    else if d ≤ 1 then t.snapHold c tb e (d == 1) p
    else if 32768 ≤ d then t.snapResult c tb e (hAddr h) seq SS.EXPIRED 0 []
    else t.snapStray c (hSeat h)

/-- SNAP_EXPIRY: a SNAP that has waited 5 ms is discarded; operation s ends with EXPIRED to every member whose payload was
present, and s advances (R284). -/
def Tray.snapExpiry (t : Tray) (c tb e : Nat) (nxt : Bool) : Tray :=
  let x := t.table c tb
  let here := if nxt then x.snap1 else x.snap0
  if ¬ here.any (fun z => z.port == e) then t
  else
    let s := t.snapNext c tb
    let t1 := if nxt then t.setTable c tb { x with snap1 := x.snap1.filter (fun z => z.port != e) } else t
    let t2 := t1.each x.snap0 (fun t z => t.snapResult c tb z.port z.addr s SS.EXPIRED 0 [])
    (((t2.sat (snapPg c) F.SNAP_ERR_EXPIRED 1).charge c (t.tSeat c tb) N.STALE 1).snapAdvance c tb).snapRun c tb 2

/-- A table abort clears the snap context; each payload it held is answered ABORTED, and SNAP_SEQ returns to 0 (R283,
R291). -/
def Tray.snapAbort (t : Tray) (c tb : Nat) : Tray :=
  let x := t.table c tb
  let s := t.snapNext c tb
  let t1 := t.each x.snap0 (fun t z => t.snapResult c tb z.port z.addr s SS.ABORTED 0 [])
  let t2 := t1.each x.snap1 (fun t z => t.snapResult c tb z.port z.addr (s + 1) SS.ABORTED 0 [])
  (t2.modTable c tb (fun y => { y with snap0 := [], snap1 := [] })).sf (tblPg c tb) F.TBL_SNAP_SNAP_NEXT 0

end Sys2Proof.Machine
end

