-- ==== Sys2Proof/Machine/Dealer.lean ====
section
/-! DEFINITION. The Dealer: job slots, the instruction cycle, operands, pool and spill, inboxes, job ends and aborts
(R324–R329, R338, R339, R351–R354, R358–R363, R481). -/
namespace Sys2Proof.Machine

/-- Pages of the Dealer. -/
def dlrPg (c : Nat) : Nat := chipPg c 0x300
def jobPg (c : Nat) : Nat := chipPg c 0x301
def inPg (c : Nat) : Nat := chipPg c 0x302

/-- A field of slot or inbox `j`. -/
def Fld.nth (f : Fld) (j : Nat) : Fld := f.at (0x20 * j)

/-- DLR_JOB_CTL.STATE. -/
def J.IDLE : Nat := 0
def J.RUNNING : Nat := 1
def J.WAITING : Nat := 2

/-- Job statuses (R358). -/
def JS.OK : Nat := 0
def JS.ABORTED : Nat := 1
def JS.LAYOUT_FAULT : Nat := 2
def JS.BAD_INSTR : Nat := 3
def JS.DESC_FAIL : Nat := 4
def JS.BAD_HANDLE : Nat := 5
def JS.TBL_FAIL : Nat := 6
def JS.MEM_UNCORR : Nat := 7
def JS.POOL_SHORT : Nat := 8

def Tray.jobState (t : Tray) (c j : Nat) : Nat := t.gf (jobPg c) (F.DLR_JOB_CTL_STATE.nth j)
def Tray.jobSeat (t : Tray) (c j : Nat) : Nat := t.gf (jobPg c) (F.DLR_JOB_CFG_SEAT.nth j)
def Tray.jobEpoch (t : Tray) (c j : Nat) : Nat := t.gf (jobPg c) (F.DLR_JOB_CTL_EPOCH.nth j)
def Tray.slot (t : Tray) (c j : Nat) : SlotSt := Assoc.get (fun _ => {}) (t.dealer c).slots j
def Tray.setSlot (t : Tray) (c j : Nat) (s : SlotSt) : Tray :=
  t.modDealer c (fun x => { x with slots := Assoc.set (fun _ => {}) x.slots j s })
def Tray.modSlot (t : Tray) (c j : Nat) (f : SlotSt → SlotSt) : Tray := t.setSlot c j (f (t.slot c j))

/-- The Dealer takes commands: its clock runs and the chip's core is released. -/
def Tray.dealerRuns (t : Tray) (c : Nat) : Bool := t.chipRuns c && t.is (chip0 c) F.CHIP_CLK_STS_DEAL_LOCK

/-- The slot waits, or goes on. -/
def Tray.slotWait (t : Tray) (c j : Nat) (w : SlotWait) : Tray :=
  let waits := match w with | .none | .op _ _ | .ended _ => false | _ => true
  let t1 := (t.modSlot c j (fun s => { s with wait := w })).sf (jobPg c) (F.DLR_JOB_CTL_STATE.nth j)
    (if waits then J.WAITING else J.RUNNING)
  t1.modDealer c (fun x => { x with
    waits := if waits then (if x.waits.contains j then x.waits else x.waits ++ [j]) else x.waits.filter (· != j) })

/-! ### Instruction fields (R327) -/

def insOp (w : BitVec 512) : Nat := fieldOf w 0 8
def insVar (w : BitVec 512) : Nat := fieldOf w 8 8
def insWaitEn (w : BitVec 512) : Bool := fieldOf w 16 1 == 1
def insIncEn (w : BitVec 512) : Bool := fieldOf w 17 1 == 1
def insSat8 (w : BitVec 512) : Bool := fieldOf w 18 1 == 1
def insAcc (w : BitVec 512) : Bool := fieldOf w 19 1 == 1
def insInd (w : BitVec 512) (i : Nat) : Bool := fieldOf w (20 + i) 1 == 1
def insWaitCtr (w : BitVec 512) : Nat := fieldOf w 24 4
def insIncCtr (w : BitVec 512) : Nat := fieldOf w 28 4
def insTbl (w : BitVec 512) : Nat := fieldOf w 32 8
def insTag (w : BitVec 512) : Nat := fieldOf w 64 32
def insThresh (w : BitVec 512) : Nat := fieldOf w 96 32
def insH (w : BitVec 512) (i : Nat) : Nat := fieldOf w (128 + 16 * i) 16
def insOrder (w : BitVec 512) : Nat := fieldOf w 192 18
def insPin (w : BitVec 512) : Bool := bitOf (insVar w) 7

/-- Opcodes (R328). -/
def I.NOP : Nat := 0x00
def I.DESC_CREATE : Nat := 0x01
def I.DESC_DESTROY : Nat := 0x02
def I.CTR_ADD : Nat := 0x03
def I.IN_WAIT : Nat := 0x08
def I.IN_FREE : Nat := 0x09
def I.MIX : Nat := 0x10
def I.VEC : Nat := 0x18
def I.QUANT : Nat := 0x19
def I.RS_EPI : Nat := 0x20
def I.AG_PRO : Nat := 0x21
def I.MOE_ROUTE : Nat := 0x28
def I.SHUFFLE : Nat := 0x30
def I.SEND : Nat := 0x38
def I.SCATTER : Nat := 0x39
def I.END : Nat := 0x3F

/-- The opcode is one of R328. -/
def opcodeOk (o : Nat) : Bool :=
  [I.NOP, I.DESC_CREATE, I.DESC_DESTROY, I.CTR_ADD, I.IN_WAIT, I.IN_FREE, I.MIX, I.VEC, I.QUANT, I.RS_EPI, I.AG_PRO,
   I.MOE_ROUTE, I.SHUFFLE, I.SEND, I.SCATTER, I.END].contains o

/-- The opcode issues an operation on table TBL. -/
def opcodeIssues (o : Nat) : Bool := o == I.RS_EPI || o == I.AG_PRO || o == I.SHUFFLE

/-! ### Packets of the Dealer (R481) -/

/-- A RESULT that a job originates: KIND, channel, destination, address, LAST, payload. -/
def Tray.jobPacket (t : Tray) (c j kind ch dst addr tag : Nat) (last : Bool) (data : List Byte) : Tray :=
  let ep := t.jobEpoch c j
  let pk := mkPkt { ptype := P.RESULT, ch := ch, src := dst, dst := dst, seat := t.jobSeat c j, epoch := ep, addr := addr,
                    arg := j + 2 ^ 8 * kind + 2 ^ 32 * (tag % 2 ^ 32), last := last } data
  t.originate c dst (.job j ep) pk

/-! ### Inboxes (R338, R339) -/

def Tray.inbox (t : Tray) (c i : Nat) : InboxSt := Assoc.get (fun _ => {}) (t.dealer c).inboxes i
def Tray.setInbox (t : Tray) (c i : Nat) (x : InboxSt) : Tray :=
  t.modDealer c (fun d => { d with inboxes := Assoc.set (fun _ => {}) d.inboxes i x })
/-- Record size in bytes, records of a half. -/
def Tray.recBytes (t : Tray) (c i : Nat) : Nat := 64 * t.gf (inPg c) (F.DLR_IN_CFG_REC_64.nth i)
def Tray.halfRecs (t : Tray) (c i : Nat) : Nat := t.gf (inPg c) (F.DLR_IN_CFG_HALF_RECS.nth i)
def Tray.inBase (t : Tray) (c i : Nat) : Nat := t.gf (inPg c) (F.DLR_IN_BASE_BASE.nth i)
def Tray.inSeat (t : Tray) (c i : Nat) : Nat := t.gf (inPg c) (F.DLR_IN_CFG_SEAT.nth i)
def Tray.inValid (t : Tray) (c i : Nat) : Bool := t.is (inPg c) (F.DLR_IN_CFG_VALID.nth i)
/-- Through what an inbox is written. -/
def Tray.inVia (t : Tray) (c i : Nat) : Via := { seat := t.inSeat c i, direct := true }

def InboxSt.recsIn (x : InboxSt) (h : Nat) : Nat := Assoc.get (fun _ => 0) x.recs h

/-- The half neither ready nor in use may fill. -/
def InboxSt.freeHalf (x : InboxSt) (h : Nat) : Bool :=
  !x.ready.contains h && (match x.taken with | some (k, _) => k != h | none => true)

/-- A complete record moves to the filling half; a full or closed half becomes ready (R338, R339). -/
def Tray.recordDone (t : Tray) (c i e : Nat) (close : Bool) : Tray :=
  let x := t.inbox c i
  let n := t.recBytes c i
  match x.fill with
  | none => t
  | some h =>
    let k := x.recsIn h
    let src := t.inBase c i + (2 * t.halfRecs c i + e) * n
    let dst := t.inBase c i + (h * t.halfRecs c i + k) * n
    let rd := t.readBytes c (t.inVia c i) src n
    let t1 := match rd with
      | .error f => t.noteFault c (t.inSeat c i) f
      | .ok l =>
        let w := t.writeBytes c (t.inVia c i) dst (l.set 15 (BitVec.ofNat 8 e))
        (match w.1 with | some f => w.2.noteFault c (t.inSeat c i) f | none => w.2)
    let full := decide (t.halfRecs c i ≤ k + 1) || close
    let x1 := { x with recs := Assoc.set (fun _ => 0) x.recs h (k + 1), asm := x.asm.filter (fun a => a.port != e) }
    let x2 := if full then
      let y := { x1 with ready := x1.ready ++ [h] }
      { y with fill := if y.freeHalf (1 - h) then some (1 - h) else none } else x1
    t1.setInbox c i x2

/-- DLR_IN_STS.BAD counts a discarded packet. -/
def Tray.inBad (t : Tray) (c i : Nat) : Tray := t.sat (inPg c) (F.DLR_IN_STS_BAD.nth i) 1

/-- The payload of a packet continues the record in its port's assembly place (R339). -/
def Tray.inStore (t : Tray) (c i e : Nat) (p : Pkt) : Tray :=
  let x := t.inbox c i
  let n := t.recBytes c i
  let cur := x.asm.find? (fun a => a.port == e)
  let have_ := match cur with | some a => a.len | none => 0
  let close := bitOf (hAddr p.hdr) 5 || (match cur with | some a => a.close | none => false)
  let data := pBytes p
  if n < have_ + data.length ∨ data.length % 64 ≠ 0 then
    (t.setInbox c i { x with asm := x.asm.filter (fun a => a.port != e) }).inBad c i
  else
    let w := t.writeBytes c (t.inVia c i) (t.inBase c i + (2 * t.halfRecs c i + e) * n + have_) data
    let t1 := match w.1 with | some f => w.2.noteFault c (t.inSeat c i) f | none => w.2
    let a : Assembly := ⟨e, have_ + data.length, close⟩
    let t2 := t1.setInbox c i { x with asm := x.asm.filter (fun b => b.port != e) ++ [a] }
    if a.len = n then t2.recordDone c i e close else t2

/-- A DEALER_IN packet in MODE 0 accepted by the transport (R339). -/
def Tray.inboxPacket (t : Tray) (c e : Nat) (p : Pkt) : Tray :=
  let i := hAddr p.hdr % 16
  let m := hSeat p.hdr
  if ¬ t.inValid c i ∨ m ≠ t.inSeat c i then t.inBad c i
  else
    let x := t.inbox c i
    if x.fill = none ∨ x.held.any (fun h => h.1 == e) then
      let tc := classOf (hCh p.hdr)
      let t1 := ((t.sat (inPg c) (F.DLR_IN_STS_WAIT.nth i) 1).charge c m N.IN_WAIT 1).setXoffKit c e tc 300
      if t1.resvOf c e tc < t1.kitHdrm c e tc + cellsOf (hLen p.hdr) then
        ((t1.sat (portPg c e) F.PORT_DROP_HDRM_OVF 1).charge c m N.HDRM_OVF 1).raise (portPg c e) 24
      else t1.setInbox c i { x with held := x.held ++ [(e, p)] }
    else t.inStore c i e p

/-- Packets that waited for a filling half go on, in order. -/
def Tray.inResume (t : Tray) (c i : Nat) : Nat → Tray
  | 0 => t
  | n + 1 =>
    let x := t.inbox c i
    match x.fill, x.held with
    | some _, h :: rest => ((t.setInbox c i { x with held := rest }).inStore c i h.1 h.2).inResume c i n
    | _, _ => t

/-- The half in use goes back to filling, its TD destroyed (R338). -/
def Tray.inReturn (t : Tray) (c i : Nat) : Tray :=
  let x := t.inbox c i
  match x.taken with
  | none => t
  | some (h, td) =>
    let t1 := t.destroyDesc c (td % 4096)
    let y := { x with taken := none, recs := Assoc.set (fun _ => 0) x.recs h 0 }
    let y1 := if y.fill = none then { y with fill := some h } else y
    ((t1.setInbox c i y1).sf (inPg c) (F.DLR_IN_TD_HANDLE.nth i) 0).inResume c i (y1.held.length + 1)

/-- INBOX_VALID: a write of `v` to DLR_IN_CFG[i]. Setting VALID checks the region's grant and the seat's quota; a valid
inbox takes only a write that clears VALID (R338, R363). -/
def Tray.inboxValid (t : Tray) (c i : Nat) (v : Word) (o : Origin) : Tray :=
  let pg := inPg c
  let off := A.DLR_IN_CFG + 0x20 * i
  let bad := t.recErr pg 0x42 o
  let fld := fun (f : Fld) => f.get v
  let keep := fun (f : Fld) (x : Nat) (w : Word) => if x = 0 then (f.nth i).put w (t.gf pg (f.nth i)) else w
  if t.inValid c i then
    if fld F.DLR_IN_CFG_VALID = 0 then
      -- the inbox ends: its halves and assembly places are given up
      let t1 := (t.inReturn c i).setInbox c i {}
      t1.sb pg (F.DLR_IN_CFG_VALID.nth i) false
    else bad
  else
    -- reserved encodings: REC_64 = 0 and HALF_RECS = 0 keep their previous values (R13)
    let rsv := fld F.DLR_IN_CFG_REC_64 = 0 ∨ fld F.DLR_IN_CFG_HALF_RECS = 0
    let mask := maskW 1 ||| (maskW 5 <<< 8) ||| (maskW 6 <<< 16) ||| (maskW 10 <<< 24) ||| (maskW 12 <<< 36)
    let v1 := keep F.DLR_IN_CFG_HALF_RECS (fld F.DLR_IN_CFG_HALF_RECS)
      (keep F.DLR_IN_CFG_REC_64 (fld F.DLR_IN_CFG_REC_64) (v &&& mask))
    let t0 := if rsv then t.recErr pg E.RESERVED_ENC o else t
    if fld F.DLR_IN_CFG_VALID = 0 then t0.wr pg off v1
    else
      let m := F.DLR_IN_CFG_SEAT.get v1
      let len := (2 * F.DLR_IN_CFG_HALF_RECS.get v1 + 64) * F.DLR_IN_CFG_REC_64.get v1 * 64
      let base := t.inBase c i
      let pages := pagesOf ((base : Int), (base : Int) + len - 1)
      let pageOk := fun (p : Nat) =>
        let addr := p * page2M
        let via : Via := { seat := m, direct := true }
        (match t.xlat c via addr false, t.xlat c via addr true with
         | .ok pa, .ok _ => memOf pa == .sram && decide ((pa - sramBase) / page2M < t.grantPages c)
         | _, _ => false)
      let room := decide (t.descSeat c m + 2 ≤ t.gf (layPg c) (F.LAY_SEAT_QUOTA.at (8 * m)))
      if base % 64 = 0 ∧ pages.all pageOk ∧ room then (t0.wr pg off v1).setInbox c i {}
      else t0.recErr pg 0x42 o

/-! ### Pool and spill (R351–R353) -/

/-- Pool size in units of 4 KiB. -/
def Tray.poolCap (t : Tray) (c : Nat) : Nat := 512 * t.gf (dlrPg c) F.DLR_SRAM_POOL_PAGES
def DealerSt.poolUsed (d : DealerSt) : Nat := sumL ((d.pool.filter (fun x => !x.spilled)).map (fun x => x.size))
def DealerSt.pinned (d : DealerSt) : Nat := sumL ((d.pool.filter (fun x => x.pinned)).map (fun x => x.size))
def DealerSt.spilled (d : DealerSt) : Nat := sumL ((d.pool.filter (fun x => x.spilled)).map (fun x => x.size))
/-- Room in the spill area for `n` units: 288 B a block where items are compressed, 256 B otherwise (R353). -/
def Tray.spillRoom (t : Tray) (c n : Nat) : Bool :=
  let pg := dlrPg c
  let per := if t.is pg F.DLR_SPILL_CMP then 4608 else 4096
  t.is pg F.DLR_SPILL_VALID && decide (((t.dealer c).spilled + n) * per ≤ page2M * t.gf pg F.DLR_SPILL_PAGES)

/-- Pool held by a seat. -/
def DealerSt.seatPool (d : DealerSt) (m : Nat) : Nat :=
  sumL ((d.pool.filter (fun x => !x.spilled && x.seat == m)).map (fun x => x.size))

/-- Among candidate positions the one whose seat holds most pool, the first of equals. -/
def DealerSt.topSeat (d : DealerSt) (l : List (Nat × PoolItem)) : Option (Nat × PoolItem) :=
  l.foldl (fun b x => match b with
    | none => some x
    | some y => if d.seatPool y.2.seat < d.seatPool x.2.seat then some x else some y) none

/-- The next item to leave the pool for an allocation of slot `j` (R352), by position. -/
def Tray.poolVictim (t : Tray) (c j : Nat) : Option (Nat × PoolItem) :=
  let d := t.dealer c
  let all := (d.pool.zipIdx).map (fun a => (a.2, a.1))
  let inPool := all.filter (fun a => !a.2.spilled && !a.2.pinned)
  let cached := inPool.filter (fun a => a.2.cached)
  match d.topSeat cached with
  | some v => some v
  | none =>
    let plain := inPool.filter (fun a => !a.2.cached && a.2.slot != j && t.spillRoom c a.2.size)
    let waiting := d.waits.flatMap (fun w => plain.filter (fun a => a.2.slot == w))
    match d.topSeat waiting with
    | some v => some v
    | none =>
      let seatTop := d.topSeat plain
      match seatTop with
      | none => none
      | some s =>
        (plain.filter (fun a => a.2.seat == s.2.seat)).foldl (fun b x => match b with
          | none => some x
          | some y => if y.2.size < x.2.size then some x else some y) none

/-- An item leaves the pool: a cached copy is dropped, another written to the spill area. -/
def Tray.poolEvict (t : Tray) (c : Nat) (v : Nat × PoolItem) : Tray :=
  if v.2.cached then t.modDealer c (fun d => { d with pool := d.pool.eraseIdx v.1 })
  else
    let (st, t1) := t.free 32
    let t2 := t1.modDealer c (fun d => { d with
      pool := d.pool.set v.1 { v.2 with spilled := true }, spillOut := d.spillOut + v.2.size })
    (t2.cnt (dlrPg c) F.DLR_CMP_STORED_MIB st).charge c v.2.seat N.HBM_BYTES (4096 * v.2.size)

/-- Items leave until `n` units fit. -/
def Tray.poolFit (t : Tray) (c j n : Nat) : Nat → Option Tray
  | 0 => none
  | fuel + 1 =>
    if (t.dealer c).poolUsed + n ≤ t.poolCap c then some t
    else
      match t.poolVictim c j with
      | none => none
      | some v => (t.poolEvict c v).poolFit c j n fuel

/-- An allocation of slot `j`: its spilled items return and `need` and `cache` units are added; none where it does not
fit (R351, R352). -/
def Tray.poolAlloc (t : Tray) (c j need cache : Nat) (pin : Bool) : Option Tray :=
  let mine := (t.dealer c).pool.filter (fun x => x.slot == j && x.spilled)
  let back := sumL (mine.map (fun x => x.size))
  if need = 0 ∧ cache = 0 ∧ back = 0 then some t
  else
    match t.poolFit c j (need + cache + back) ((t.dealer c).pool.length + 1) with
    | none => none
    | some t1 =>
      let m := t.jobSeat c j
      let d := t1.dealer c
      let ok := pin && decide (d.pinned + need ≤ 512 * t.gf (dlrPg c) F.DLR_SRAM_PIN_PAGES)
      let add := (if need = 0 then [] else [{ slot := j, seat := m, size := need, pinned := ok }]) ++
        (if cache = 0 then [] else [({ slot := j, seat := m, size := cache, cached := true } : PoolItem)])
      some ((t1.modDealer c (fun d => { d with
        pool := d.pool.map (fun x => if x.slot = j then { x with spilled := false } else x) ++ add,
        spillIn := d.spillIn + back })).charge c m N.HBM_BYTES (4096 * back))

/-! ### Ends of a job (R326, R358) -/

/-- A job ends: status, detail, the DLR_JOB_END bit and JOB_DONE; pool items, JH entries and descriptors are released; a
job record is sent where NOTIFY_EN is 1. -/
def Tray.jobEnd (t : Tray) (c j st detail : Nat) : Tray :=
  let pg := jobPg c
  let m := t.jobSeat c j
  let s := t.slot c j
  let t1 := ((t.sf pg (F.DLR_JOB_CTL_STATE.nth j) J.IDLE).sf pg (F.DLR_JOB_CTL_STATUS.nth j) st).sf pg
    (F.DLR_JOB_CTL_DETAIL.nth j) detail
  let t2 := (t1.sf (dlrPg c) F.DLR_JOB_END_SLOTS (setBitOf (t1.gf (dlrPg c) F.DLR_JOB_END_SLOTS) j)).raise (dlrPg c) 8
  let t3 := t2.each ((List.range 16).filter (fun i => t.inValid c i && t.gf (inPg c) (F.DLR_IN_CFG_SLOT.nth i) == j))
    (fun t i => t.inReturn c i)
  let t4 := (t3.modDealer c (fun d => { d with
    pool := d.pool.filter (fun x => x.slot != j), waits := d.waits.filter (· != j) })).dropJobDescs c j
  let t5 := t4.setSlot c j { tag := s.tag }
  let t6 := if st = JS.OK ∨ st = JS.ABORTED then t5 else t5.charge c m N.JOB_FAIL 1
  if t.is pg (F.DLR_JOB_CFG_NOTIFY_EN.nth j) then
    let body := leBytes 8 (j + 2 ^ 8 * st + 2 ^ 16 * detail + 2 ^ 21 * t.gf pg (F.DLR_JOB_CTL_NUMFLAGS.nth j)
        + 2 ^ 32 * t.jobEpoch c j)
      ++ leBytes 8 (s.tag % 2 ^ 32) ++ leBytes 8 (t.gf pg (F.DLR_JOB_CTL_RETIRED.nth j)) ++ leBytes 8 (t.timeOf c)
    t6.jobPacket c j 6 3 (t.gf pg (F.DLR_JOB_CFG_NOTIFY_EP.nth j)) (t.gf pg (F.DLR_JOB_NOTE_NOTIFY_ADDR.nth j)) s.tag
      true body
  else t6

/-- A job ends at a fault of an access (R358). -/
def Tray.jobFault (t : Tray) (c j : Nat) (f : Flt) : Tray :=
  let t1 := t.noteFault c (t.jobSeat c j) f
  match f with
  | .prot cause _ _ _ => t1.jobEnd c j JS.LAYOUT_FAULT (cause + 1)
  | .poison => t1.jobEnd c j JS.MEM_UNCORR 0
  | _ => t1.jobEnd c j JS.LAYOUT_FAULT 0

/-- A job ends with BAD_INSTR. -/
def Tray.badInstr (t : Tray) (c j detail : Nat) : Tray := t.jobEnd c j JS.BAD_INSTR detail

/-- NUMFLAGS of a slot accumulate. -/
def Tray.jobFlags (t : Tray) (c j fl : Nat) : Tray :=
  t.sf (jobPg c) (F.DLR_JOB_CTL_NUMFLAGS.nth j) (t.gf (jobPg c) (F.DLR_JOB_CTL_NUMFLAGS.nth j) ||| fl)

/-- Operations of MIX and VEC are counted in units of 2^20 (R371). -/
def Tray.chargeMops (t : Tray) (c m n cls : Nat) : Tray :=
  let a := Assoc.get (fun _ => 0) (t.dealer c).mops m + n
  ((t.modDealer c (fun d => { d with mops := Assoc.set (fun _ => 0) d.mops m (a % 2 ^ 20) })).charge c m N.DLR_MOPS
    (a / 2 ^ 20)).energy c m cls n

/-- Activity class of a MIX by its operand formats (R323, R384). -/
def mixClass (a b : Nat) : Nat :=
  if a = 8 ∧ b = 8 then En.MIX4
  else if a = 1 ∧ b = 1 then En.MIX32
  else if (a = 2 ∨ a = 3) ∧ (b = 2 ∨ b = 3) then En.MIX16
  else En.MIX8

/-- An instruction completes: it is counted, its counter incremented, and the next one is due (R325, R327). -/
def Tray.retire (t : Tray) (c j : Nat) (w : BitVec 512) : Tray :=
  let t1 := (((t.cnt (jobPg c) (F.DLR_JOB_CTL_RETIRED.nth j) 1).cnt (dlrPg c) F.DLR_RETIRED_COUNT 1).charge c
    (t.jobSeat c j) N.DLR_INSTR 1)
  let t2 := if insIncEn w then t1.incCtr c (insTbl w) (insIncCtr w) 1 else t1
  (t2.slotWait c j .none).modSlot c j (fun s => { s with pc := s.pc + 64, passed := false, batch := 0, moe := false })

/-! ### The instruction cycle (R324, R325, R329) -/

/-- The instruction at the slot's program counter. -/
def Tray.fetchIns (t : Tray) (c j : Nat) : Except Flt (BitVec 512) :=
  match t.readBytes c { seat := t.jobSeat c j, direct := true } (t.slot c j).pc 64 with
  | .error f => .error f
  | .ok l => .ok (BitVec.ofNat 512 (leVal l))

/-- Table TBL is ACTIVE and belongs to the job's seat. -/
def Tray.insTableOk (t : Tray) (c j : Nat) (w : BitVec 512) : Bool :=
  t.tst c (insTbl w) == T.ACTIVE && t.tSeat c (insTbl w) == t.jobSeat c j

/-- The common checks of an instruction: the detail of BAD_INSTR, or 0. -/
def Tray.insCheck (t : Tray) (c j : Nat) (w : BitVec 512) : Nat :=
  let o := insOp w
  let named := insWaitEn w || insIncEn w || opcodeIssues o || o == I.CTR_ADD
  if fieldOf w 40 24 ≠ 0 ∨ fieldOf w 210 46 ≠ 0 then 2
  else if (o = I.VEC ∨ o = I.QUANT) ∧ ¬ orderOk (insOrder w) then 8
  else if o ≠ I.VEC ∧ o ≠ I.QUANT ∧ insOrder w ≠ 0 then 8
  else if named ∧ ¬ t.insTableOk c j w then 6
  else 0

/-- Slot `j` executes the instruction at its program counter if its opcode is `want`: fetch, the common checks, WAIT_EN,
then `body`. An opcode that no row has ends the job with BAD_INSTR. -/
def Tray.dealerIns (t : Tray) (c j want : Nat) (body : Tray → BitVec 512 → Tray) : Tray :=
  let s := t.slot c j
  let idle : Bool := match s.wait with | .ctr | .op _ _ | .ended _ => true | _ => false
  if ¬ t.dealerRuns c ∨ t.jobState c j = J.IDLE ∨ idle then t
  else
    match t.fetchIns c j with
    | .error f => t.jobFault c j f
    | .ok w =>
      let t0 := t.modSlot c j (fun s => { s with tag := insTag w })
      if ¬ opcodeOk (insOp w) then t0.badInstr c j 1
      else if insOp w ≠ want then t
      else if t.insCheck c j w ≠ 0 then t0.badInstr c j (t.insCheck c j w)
      else if insWaitEn w ∧ ¬ s.passed ∧ t.gf (tblPg c (insTbl w)) (ctrFld (insWaitCtr w)) < insThresh w then
        t0.slotWait c j .ctr
      else body ((t0.slotWait c j .none).modSlot c j (fun s => { s with passed := true })) w

/-- INSTR_WAIT_END: the counter has reached WAIT_THRESH (R329). -/
def Tray.instrWaitEnd (t : Tray) (c j : Nat) : Tray :=
  match (t.slot c j).wait with
  | .ctr =>
    (match t.fetchIns c j with
     | .error f => t.jobFault c j f
     | .ok w =>
       if insThresh w ≤ t.gf (tblPg c (insTbl w)) (ctrFld (insWaitCtr w)) then
         (t.slotWait c j .none).modSlot c j (fun s => { s with passed := true })
       else t)
  | _ => t

/-- The handle of operand field `i`: the field itself, or the JH entry it names. -/
def Tray.opHandle (t : Tray) (c j : Nat) (w : BitVec 512) (i : Nat) : Nat :=
  if insInd w i then Assoc.get (fun _ => 0) (t.slot c j).jh (insH w i % 16) else insH w i

/-- The descriptor of operand field `i`, of a kind (0: any), taken into use by the job; none: the handle is unknown, of
another seat, or of the wrong kind (R329). -/
def Tray.operand (t : Tray) (c j : Nat) (w : BitVec 512) (i kind : Nat) : Option (Nat × Nat × DescSt) :=
  let h := t.opHandle c j w i
  match t.findDesc c (t.jobSeat c j) (some j) h with
  | none => none
  | some (s, d) => if kind = 0 ∨ descKind d.words = kind then some (h, s, d) else none

/-- The job holds the descriptor in a slot until it ends (R301). -/
def Tray.holdDesc (t : Tray) (c j s : Nat) : Tray :=
  let d := t.desc c s
  if d.users.contains j then t else t.setDesc c s { d with users := d.users ++ [j] }

/-- An operand that is a TD: `k` goes on with it, or the job ends with BAD_HANDLE. -/
def Tray.withTd (t : Tray) (c j : Nat) (w : BitVec 512) (i : Nat) (k : Tray → TdUse → Tray) : Tray :=
  match t.operand c j w i 1 with
  | none => t.jobEnd c j JS.BAD_HANDLE i
  | some (h, s, d) => k (t.holdDesc c j s) (useOf (t.jobSeat c j) h d.revoked d.words)

/-- The allocation fits and `k` goes on, or the slot waits for the pool (R352). -/
def Tray.withPool (t : Tray) (c j need cache : Nat) (w : BitVec 512) (k : Tray → Tray) : Tray :=
  match t.poolAlloc c j need cache (insPin w) with
  | none => t.slotWait c j .pool
  | some t1 => k t1

/-- POOL_SHORT: the allocation that the slot waits for does not fit after 1 ms (R352). -/
def Tray.poolShort (t : Tray) (c j : Nat) : Tray :=
  match (t.slot c j).wait with
  | .pool => (t.jobEnd c j JS.POOL_SHORT 0).raise (dlrPg c) 10
  | _ => t

/-- Ended operations are noted by the slots that issued them: the instruction completes, or the job ends with TBL_FAIL
(R335, R358). -/
@[irreducible] def Tray.dealerSweep (t : Tray) (c : Nat) : Tray :=
  t.each (List.range 32) (fun t j =>
    match (t.slot c j).wait with
    | .ended st =>
      if st = St.OK then
        (match t.fetchIns c j with
         | .error f => t.jobFault c j f
         | .ok w => t.retire c j w)
      else t.jobEnd c j JS.TBL_FAIL st
    | _ => t)

/-! ### Commands on slots -/

/-- JOB_START: GO on an IDLE slot starts its program; on any other slot JOB_BUSY is recorded (R324). -/
def Tray.jobStart (t : Tray) (c j : Nat) (o : Origin) : Tray :=
  let pg := jobPg c
  if t.jobState c j ≠ J.IDLE then t.recErr pg 0x40 o
  else if ¬ t.enabled (dlrPg c) ∨ t.is (dlrPg c) F.PG_COMMIT_STS_PENDING then t
  else
    let t1 := ((t.sf pg (F.DLR_JOB_CTL_STATE.nth j) J.RUNNING).sf pg (F.DLR_JOB_CTL_STATUS.nth j) 0).sf pg
      (F.DLR_JOB_CTL_DETAIL.nth j) 0
    ((t1.sf pg (F.DLR_JOB_CTL_NUMFLAGS.nth j) 0).sf pg (F.DLR_JOB_CTL_RETIRED.nth j) 0).setSlot c j
      { pc := t.gf pg (F.DLR_JOB_PROG_PROG.nth j) }

/-- An operation that the slot has issued and that has not completed ends with DATA_FAIL (R359). -/
def Tray.failIssued (t : Tray) (c j : Nat) : Tray :=
  match (t.slot c j).wait with
  | .op tb seq => (t.modOp c (tb % 256) seq (fun o => { o with started := true })).failOp c (tb % 256) seq
  | _ => t

/-- JOB_ABORT of one slot (R359): it stops, its epoch advances, its resources are released; an IDLE slot's epoch advances
(R362). -/
def Tray.jobAbort (t : Tray) (c j : Nat) : Tray :=
  let pg := jobPg c
  let t1 := t.cnt pg (F.DLR_JOB_CTL_EPOCH.nth j) 1
  if t.jobState c j = J.IDLE then t1.sf pg (F.DLR_JOB_CTL_STATUS.nth j) JS.ABORTED
  else (t1.failIssued c j).jobEnd c j JS.ABORTED 0

/-- LEND_WRITE: pages that a local translation entry or the local spill area uses cannot be lent (R354). -/
def Tray.lendWrite (t : Tray) (c i : Nat) (v : Word) (o : Origin) : Tray :=
  let pg := dlrPg c
  let d := 8 * i
  let mask := (maskW 19 <<< 21) ||| (maskW 16 <<< 40) ||| (maskW 3 <<< 56) ||| (maskW 1 <<< 63)
  let b := F.DLR_LEND_BORROWER.get v
  let rsv := b = c ∨ 4 < b
  let v0 := v &&& mask
  let v1 := if rsv then (F.DLR_LEND_BORROWER.at d).put v0 (t.gf pg (F.DLR_LEND_BORROWER.at d)) else v0
  let t0 := if rsv then t.recErr pg E.RESERVED_ENC o else t
  let base := F.DLR_LEND_BASE_2M.get v1
  let n := F.DLR_LEND_PAGES.get v1
  let hit := fun (p : Nat) => decide (base ≤ p) && decide (p < base + n)
  let xlt := (t.dealer c).xlt.any (fun a => entValid a.2 && hit (entPage a.2))
  let sp := t.is pg F.DLR_SPILL_VALID && decide (base < t.gf pg F.DLR_SPILL_BASE_2M + t.gf pg F.DLR_SPILL_PAGES) &&
    decide (t.gf pg F.DLR_SPILL_BASE_2M < base + n)
  if F.DLR_LEND_VALID.get v1 = 1 ∧ (xlt ∨ sp) then t.recErr pg 0x41 o
  else t0.wr pg (A.DLR_LEND + d) v1

end Sys2Proof.Machine
end

