-- ==== Sys2Proof/Machine/DealerExec.lean ====
section
/-! DEFINITION. What the Dealer's instructions do: descriptors and counters, inboxes, MIX, VEC, QUANT, SEND, SCATTER and
the issue of RS_EPI and AG_PRO (R328–R338, R481). -/
namespace Sys2Proof.Machine

/-- Parameter Pi of an instruction: a bit field of it. -/
def insPf (w : BitVec 512) (i lo n : Nat) : Nat := insP w i / 2 ^ lo % 2 ^ n

/-- A fault of an access ends the job; else `k` goes on. -/
def Tray.orFault {α : Type} (t : Tray) (c j : Nat) (r : Except Flt α) (k : α → Tray) : Tray :=
  match r with
  | .error f => t.jobFault c j f
  | .ok a => k a

/-- The first BAD_INSTR detail of a list of (fails, detail) that applies ends the job; else `k` goes on. -/
def Tray.orBad (t : Tray) (c j : Nat) (l : List (Bool × Nat)) (k : Tray) : Tray :=
  if firstFail l = 0 then k else t.badInstr c j (firstFail l)

/-! ### Descriptors, counters, END (R328) -/

/-- NOP. -/
def Tray.insNop (t : Tray) (c j : Nat) (w : BitVec 512) : Tray := t.retire c j w

/-- CTR_ADD: P0[31:0] is added to TBL_CTR[INC_CTR]. -/
def Tray.insCtrAdd (t : Tray) (c j : Nat) (w : BitVec 512) : Tray :=
  (t.incCtr c (insTbl w) (insIncCtr w) (insPf w 0 0 32)).retire c j w

/-- END: the instruction retires and the job ends with OK. -/
def Tray.insEnd (t : Tray) (c j : Nat) (w : BitVec 512) : Tray := (t.retire c j w).jobEnd c j JS.OK 0

/-- The job's own accesses through no descriptor. -/
def Tray.jobVia (t : Tray) (c j : Nat) : Via := { seat := t.jobSeat c j, direct := true }

/-- A handle goes into the JH entry that H_C names. -/
def Tray.setJh (t : Tray) (c j : Nat) (w : BitVec 512) (h : Nat) : Tray :=
  t.modSlot c j (fun s => { s with jh := Assoc.set (fun _ => 0) s.jh (insH w 2 % 16) h })

/-- The descriptor bytes at P0: 128 for a DTD, 64 otherwise. -/
def Tray.fetchDesc (t : Tray) (c j : Nat) (w : BitVec 512) : Except Flt (BitVec 1024) :=
  match t.readBytes c (t.jobVia c j) (insP w 0) 64 with
  | .error f => .error f
  | .ok l =>
    if leVal l % 16 = 2 then
      match t.readBytes c (t.jobVia c j) (insP w 0) 128 with
      | .error f => .error f
      | .ok l2 => .ok (BitVec.ofNat 1024 (leVal l2))
    else .ok (BitVec.ofNat 1024 (leVal l))

/-- DESC_CREATE (R300, R320). -/
def Tray.insDescCreate (t : Tray) (c j : Nat) (w : BitVec 512) : Tray :=
  t.orFault c j (t.fetchDesc c j w) (fun d =>
    let r := t.createDesc c (t.jobSeat c j) (some j) d
    if r.1 ≠ D.OK then r.2.2.jobEnd c j JS.DESC_FAIL r.1
    else (r.2.2.setJh c j w r.2.1).retire c j w)

/-- DESC_DESTROY (R301). -/
def Tray.insDescDestroy (t : Tray) (c j : Nat) (w : BitVec 512) : Tray :=
  match t.operand c j w 0 0 with
  | none => t.jobEnd c j JS.BAD_HANDLE 0
  | some (_, s, _) => (t.destroyDesc c s).retire c j w

/-! ### Inboxes (R338) -/

/-- The inbox is valid and bound to the slot and the seat of its job. -/
def Tray.inboxBound (t : Tray) (c j i : Nat) : Bool :=
  t.inValid c i && t.gf (inPg c) (F.DLR_IN_CFG_SLOT.nth i) == j && t.inSeat c i == t.jobSeat c j

/-- The descriptor of a taken half: INT8, one row a record. -/
def halfTd (m base rec n : Nat) : BitVec 1024 :=
  BitVec.ofNat 1024 (1 + 2 ^ 4 * 7 + 2 ^ 8 * 2 + 2 ^ 20 * m + 2 ^ 32 * rec + 2 ^ 64 * base + 2 ^ 128 * n + 2 ^ 152 * rec
    + 2 ^ 192 + 2 ^ 256 + 2 ^ 320 + 2 ^ 384)

/-- A ready half of the inbox, if one may be taken: while a half is in use, DLR_IN_TD has no place for another. -/
def InboxSt.next (x : InboxSt) : Option Nat := match x.taken with | some _ => none | none => x.ready.head?

/-- The oldest ready half is taken: its TD is created (R338). Status, handle, tray. -/
def Tray.inTake (t : Tray) (c i h : Nat) : Nat × Nat × Tray :=
  let x := t.inbox c i
  let n := t.recBytes c i
  let d := halfTd (t.inSeat c i) (t.inBase c i + h * t.halfRecs c i * n) n (x.recsIn h)
  let r := t.createDesc c (t.inSeat c i) none d
  if r.1 ≠ D.OK then r
  else
    (r.1, r.2.1, (r.2.2.setInbox c i { x with taken := some (h, r.2.1), ready := x.ready.filter (· != h) }).sf (inPg c)
      (F.DLR_IN_TD_HANDLE.nth i) r.2.1)

/-- IN_WAIT. -/
def Tray.insInWait (t : Tray) (c j : Nat) (w : BitVec 512) : Tray :=
  let i := insPf w 0 0 4
  if ¬ t.inboxBound c j i then t.badInstr c j 7
  else
    match (t.inbox c i).next with
    | none => t.slotWait c j .inbox
    | some h =>
      let r := t.inTake c i h
      if r.1 ≠ D.OK then r.2.2.jobEnd c j JS.DESC_FAIL r.1
      else (r.2.2.setJh c j w r.2.1).retire c j w

/-- IN_FREE. -/
def Tray.insInFree (t : Tray) (c j : Nat) (w : BitVec 512) : Tray :=
  let i := insPf w 0 0 4
  if ¬ t.inboxBound c j i ∨ (t.inbox c i).taken = none then t.badInstr c j 7
  else (t.inReturn c i).retire c j w

/-! ### MIX (R330) -/

/-- A sum exact in a group of 32 and rounded to FP32 once: value and flags. -/
def groupSum (ps : List (FV × FV)) : FV × Nat :=
  let one := fun (p : FV × FV) => (p.1.mul p.2, genFlag [p.1, p.2] (p.1.mul p.2) ||| inFlag [p.1, p.2])
  match ps with
  | [] => (.num false 0 0, 0)
  | p :: l =>
    let s := l.foldl (fun (a : FV × Nat) q =>
      let x := one q
      let y := a.1.add x.1
      (y, a.2 ||| x.2 ||| genFlag [a.1, x.1] y)) (one p)
    let r := fvRound 1 s.1
    (r.1, r.2 ||| s.2)

/-- The dot product of two runs in FP32, from an accumulator (R330). -/
def dotFp (acc : FV) (xs ys : List FV) : FV × Nat :=
  let ps := List.zip xs ys
  (chunksOf 32 (ps.length + 1) ps).foldl (fun (a : FV × Nat) g =>
    let s := groupSum g
    let y := a.1.add s.1
    let r := fvRound 1 y
    (r.1, a.2 ||| s.2 ||| r.2 ||| genFlag [a.1, s.1] y)) (acc, 0)

/-- An integer limited to INT32: value, OVF. -/
def satI32 (v : Int) : Int × Nat :=
  if v < -2147483648 then (-2147483648, NF.OVF) else if 2147483647 < v then (2147483647, NF.OVF) else (v, 0)

/-- The dot product of integer runs, saturating at each group addition. -/
def dotInt (acc : Int) (xs ys : List Int) : Int × Nat :=
  let ps := List.zip xs ys
  (chunksOf 32 (ps.length + 1) ps).foldl (fun (a : Int × Nat) g =>
    let r := satI32 (a.1 + g.foldl (fun s p => s + p.1 * p.2) 0)
    (r.1, a.2 ||| r.2)) (acc, 0)

/-- The operand pairs of R323: 0 none, 1 floating point, 2 integer. -/
def mixKind (a b : Nat) : Nat :=
  let low := fun f => f == 4 || f == 5 || (decide (8 ≤ f) && decide (f ≤ 12))
  if (a = 7 ∧ b = 7) ∨ (a = 13 ∧ b = 13) then 2
  else if (low a ∧ low b) ∨ ((a = 2 ∨ a = 3) ∧ (b = 2 ∨ b = 3)) ∨ (a = 1 ∧ b = 1) then 1
  else 0

/-- Dimensions 2 to 5 of a TD are 1. -/
def Td.flat (d : Td) : Bool := (d.sizes.drop 1).all (· == 1)

/-- Rows of `k` elements, cut from a traversal of a two-dimensional TD. -/
def rowsOf {α : Type} (k : Nat) (l : List α) : List (List α) := chunksOf k (l.length + 1) l

/-- One element of C as its code and flags; `none` where the spec states no value (log 8). -/
def mixElem (fa fb fc : Nat) (xs ys : List (Nat × Nat)) (acc : Option (Nat × Nat)) : Option Nat × Nat :=
  if fa = 7 ∨ fa = 13 then
    if fa = 13 ∧ (xs.any (fun a => a.2 != 127) || ys.any (fun a => a.2 != 127)) then (none, 0)
    else
      let a0 : Int := match acc with | some a => signedOf 32 a.1 | none => 0
      let r := dotInt a0 (xs.map (fun a => signedOf 8 a.1)) (ys.map (fun a => signedOf 8 a.1))
      (some (unsignedOf 32 r.1), r.2)
  else
    let a0 : FV := match acc with | some a => elemVal fc a | none => .num false 0 0
    let r := dotFp a0 (xs.map (elemVal fa)) (ys.map (elemVal fb))
    let o := fvConv fc false r.1
    (some o.1, r.2 ||| o.2 ||| inFlag [a0])

/-- All elements of C in default order: codes and flags. -/
def mixAll (fa fb fc : Nat) (as_ bs cs : List (List (Nat × Nat))) (acc : Bool) : List (Option Nat × Nat) :=
  (as_.zipIdx).flatMap (fun ra => (bs.zipIdx).map (fun rb =>
    let c0 := if acc then ((cs[ra.2]?).bind (fun r => r[rb.2]?)) else none
    mixElem fa fb fc ra.1 rb.1 c0))

/-- Codes with the open ones replaced by free values. -/
def Tray.fillFree (t : Tray) (w : Nat) : List (Option Nat) → List Nat × Tray
  | [] => ([], t)
  | none :: l =>
    let a := t.free w
    let r := a.2.fillFree w l
    (a.1 :: r.1, r.2)
  | some v :: l =>
    let r := t.fillFree w l
    (v :: r.1, r.2)

/-- Results are written to C in its default traversal; flags, operations and the end of the instruction follow. -/
def Tray.putResult (t : Tray) (c j : Nat) (w : BitVec 512) (u : TdUse) (codes : List Nat)
    (fl mops cls : Nat) : Tray :=
  match t.writeElems c u (List.zip (u.td.elemSeq 0) codes) with
  | (some f, t1) => (t1.jobFlags c j fl).jobFault c j f
  | (none, t1) => (((t1.noteTrav c u 0 true).jobFlags c j fl).chargeMops c (t.jobSeat c j) mops cls).retire c j w

/-- MIX. -/
def Tray.insMix (t : Tray) (need cache c j : Nat) (w : BitVec 512) : Tray :=
  t.withTd c j w 0 (fun t a => t.withTd c j w 1 (fun t b => t.withTd c j w 2 (fun t u =>
    let k := a.td.size0
    let m := a.td.size 1
    let n := b.td.size 1
    let kind := mixKind a.td.fmt b.td.fmt
    let shape := a.td.flat && b.td.flat && u.td.flat && b.td.size0 == k && u.td.size0 == n && u.td.size 1 == m &&
      decide (m ≤ 4096) && decide (n ≤ 4096) && decide (k ≤ 65536)
    let fmt := (kind == 1 && (u.td.fmt == 1 || u.td.fmt == 2 || u.td.fmt == 3)) || (kind == 2 && u.td.fmt == 6)
    t.orBad c j [(!u.td.wr, 3), (!shape, 4), (!fmt, 5)]
      (t.withPool c j need cache w (fun t =>
        t.orFault c j (t.readElems c a (a.td.elemSeq 0)) (fun as_ =>
        t.orFault c j (t.readElems c b (b.td.elemSeq 0)) (fun bs =>
        t.orFault c j (if insAcc w then t.readElems c u (u.td.elemSeq 0) else .ok []) (fun cs =>
          let t1 := (t.noteTrav c a 0 false).noteTrav c b 0 false
          let t2 := if insAcc w then t1.noteTrav c u 0 false else t1
          let r := mixAll a.td.fmt b.td.fmt u.td.fmt (rowsOf k as_) (rowsOf k bs) (rowsOf n cs) (insAcc w)
          let f := t2.fillFree u.td.bits (r.map (fun x => x.1))
          f.2.putResult c j w u f.1 (r.foldl (fun a x => a ||| x.2) 0) (2 * m * n * k)
            (mixClass a.td.fmt b.td.fmt)))))))))

/-! ### VEC (R331) -/

/-- The value is a value of FP32. -/
def exact32 (v : FV) : Bool :=
  match v with
  | .num .. =>
    let r := fvRound 1 v
    r.2 &&& NF.OVF == 0 && !r.1.lt v && !v.lt r.1
  | _ => true

/-- An input that does not widen to FP32 exactly is a free FP32 value (R331 states none; log 9). -/
def Tray.widen (t : Tray) (dbl : Bool) : List FV → List FV × Tray
  | [] => ([], t)
  | v :: l =>
    if dbl ∨ exact32 v then
      let r := t.widen dbl l
      (v :: r.1, r.2)
    else
      let a := t.free 32
      let r := a.2.widen dbl l
      (fvDec 1 a.1 :: r.1, r.2)

/-- One element-wise operation: value rounded once to FP32 or FP64, flags. -/
def vecElem (var : Nat) (dbl : Bool) (p0 : Nat) (a b z : FV) : FV × Nat :=
  let f := if dbl then 0 else 1
  let rnd := fun (args : List FV) (v : FV) =>
    let r := fvRound f v
    (r.1, r.2 ||| inFlag args ||| genFlag args v)
  match var with
  | 0 => (a, inFlag [a])
  | 1 => rnd [a, b] (a.add b)
  | 2 => rnd [a, b] (a.mul b)
  | 3 =>
    let p := a.mul b
    let r := rnd [a, b, z] (p.add z)
    (r.1, r.2 ||| genFlag [a, b] p)
  | 4 => (a.max b, inFlag [a, b])
  | 5 => (a.min b, inFlag [a, b])
  | 6 => let s := fvDec 1 (p0 % 2 ^ 32); rnd [a, s] (a.mul s)
  | 7 => (actFn 1 a, inFlag [a])
  | 8 => (actFn 2 a, inFlag [a])
  | 9 => (actFn 3 a, inFlag [a])
  | _ => (fn32 Config.exp a, inFlag [a])

/-- The sum of a row in FP32, one rounding an addition, or its maximum. -/
def rowRed (var : Nat) (l : List FV) : FV × Nat :=
  match l with
  | [] => (.num false 0 0, 0)
  | x :: rest =>
    rest.foldl (fun (a : FV × Nat) y =>
      if var = 11 then
        let s := a.1.add y
        let r := fvRound 1 s
        (r.1, a.2 ||| r.2 ||| inFlag [y] ||| genFlag [a.1, y] s)
      else (a.1.max y, a.2 ||| inFlag [y])) (x, inFlag [x])

/-- The rows of a traversal, in the order in which it first visits them: their elements by x_0. -/
def rowRuns (seq : List ((Nat × List Nat) × FV)) : List (List FV) :=
  let rows := seq.foldl (fun (a : List (List Nat)) x => if a.contains x.1.2 then a else a ++ [x.1.2]) []
  rows.map (fun r =>
    let mine := seq.filter (fun x => x.1.2 == r)
    (List.range mine.length).filterMap (fun i => (mine.find? (fun x => x.1.1 == i)).map (fun x => x.2)))

/-- Elements of an operand as values. -/
def Tray.readVals (t : Tray) (c : Nat) (u : TdUse) (o : Nat) : Except Flt (List FV) :=
  match t.readElems c u (u.td.elemSeq o) with
  | .error f => .error f
  | .ok l => .ok (l.map (elemVal u.td.fmt))

/-- The operand of field `i` where the variant has one. -/
def Tray.withTdIf (t : Tray) (use : Bool) (c j : Nat) (w : BitVec 512) (i : Nat) (k : Tray → Option TdUse → Tray) : Tray :=
  if use then t.withTd c j w i (fun t u => k t (some u)) else k t none

/-- VEC. -/
def Tray.insVec (t : Tray) (c j : Nat) (w : BitVec 512) : Tray :=
  let var := insVar w
  let useB := decide (1 ≤ var ∧ var ≤ 5)
  let row := var == 11 || var == 12
  if 12 < var then t.badInstr c j 7
  else
    t.withTd c j w 0 (fun t a => t.withTdIf useB c j w 1 (fun t b => t.withTd c j w 2 (fun t u =>
      let ins := [a.td.fmt] ++ (match b with | some x => [x.td.fmt] | none => []) ++ (if var = 3 then [u.td.fmt] else [])
      let dbl := ins.all (· == 0)
      let rows := a.td.count / a.td.size0
      let cntOk := (if row then u.td.count == rows else u.td.count == a.td.count) &&
        (match b with | some x => x.td.count == u.td.count | none => true)
      let fmtBad := isMx u.td.fmt || (!dbl && ins.any (· == 0)) || (decide (5 < var) && (a.td.fmt == 0 || u.td.fmt == 0))
      t.orBad c j [(!u.td.wr, 3), (!cntOk, 4), (fmtBad, 5)]
        (t.orFault c j (t.readVals c a (insOrder w)) (fun as_ =>
         t.orFault c j (match b with | some x => t.readVals c x 0 | none => .ok []) (fun bs =>
         t.orFault c j (if var = 3 then t.readVals c u 0 else .ok []) (fun cs =>
          let t1 := t.noteTrav c a (insOrder w) false
          let t2 := match b with | some x => t1.noteTrav c x 0 false | none => t1
          let t3 := if var = 3 then t2.noteTrav c u 0 false else t2
          let wa := t3.widen dbl as_
          let wb := wa.2.widen dbl bs
          let wc := wb.2.widen dbl cs
          let z : FV := .num false 0 0
          let rs :=
            if row then (rowRuns (List.zip (a.td.elemSeq (insOrder w)) wa.1)).map (rowRed var)
            else (wa.1.zipIdx).map (fun x =>
              vecElem var dbl (insP w 0) x.1 ((wb.1[x.2]?).getD z) ((wc.1[x.2]?).getD z))
          let os := rs.map (fun r => let o := fvConv u.td.fmt (insSat8 w) r.1; (o.1, r.2 ||| o.2))
          wc.2.putResult c j w u (os.map (fun o => o.1)) (os.foldl (fun a o => a ||| o.2) 0) as_.length En.VEC)))))))

/-! ### QUANT (R333) -/

/-- Scale bytes are stored up to the first fault. -/
def Tray.writeScales (t : Tray) (c : Nat) (u : TdUse) : List ((Nat × List Nat) × Nat) → Option Flt × Tray
  | [] => (none, t)
  | (x, s) :: l =>
    match t.writeBits c u.via (8 * u.td.scaleAddr x) 8 s with
    | (some f, t1) => (some f, t1)
    | (none, t1) => t1.writeScales c u l

/-- QUANT. -/
def Tray.insQuant (t : Tray) (c j : Nat) (w : BitVec 512) : Tray :=
  t.withTd c j w 0 (fun t a => t.withTd c j w 2 (fun t u =>
    t.orBad c j [(!u.td.wr, 3), (u.td.count != a.td.count, 4), (!isMx u.td.fmt, 5)]
      (t.orFault c j (t.readVals c a (insOrder w)) (fun vs =>
        let t1 := t.noteTrav c a (insOrder w) false
        let bs := (rowsOf 32 vs).map (quantBlock u.td.fmt)
        let seq := u.td.elemSeq 0
        let heads := (rowsOf 32 seq).filterMap (fun l => l.head?)
        match t1.writeScales c u (List.zip heads (bs.map (fun b => b.1))) with
        | (some f, t2) => t2.jobFault c j f
        | (none, t2) =>
          t2.putResult c j w u (bs.flatMap (fun b => b.2.1)) (bs.foldl (fun a b => a ||| b.2.2) 0) vs.length En.VEC))))

/-! ### SEND and SCATTER (R328, R481) -/

/-- One RESULT that a job is about to send: endpoint, address, bytes. -/
structure JobPart where
  ep : Nat
  addr : Nat
  data : List Byte
  deriving DecidableEq, Repr

/-- A byte run cut into packets of up to 4,096 B. -/
def jobParts (ep addr : Nat) (l : List Byte) : List JobPart :=
  ((chunksOf 4096 (l.length + 1) l).zipIdx).map (fun a => ⟨ep, addr + 4096 * a.2, a.1⟩)

/-- The packets are sent in order; where `mark`, the last one to each endpoint carries LAST. -/
def Tray.sendJob (t : Tray) (c j kind ch tag : Nat) (mark : Bool) (l : List JobPart) : Tray :=
  t.each (l.zipIdx) (fun t a =>
    let more := (l.drop (a.2 + 1)).any (fun b => b.ep == a.1.ep)
    t.jobPacket c j kind ch a.1.ep a.1.addr tag (mark && !more) a.1.data)

/-- The channel parameter is 3 to 7. -/
def chOk (ch : Nat) : Bool := decide (3 ≤ ch) && decide (ch ≤ 7)

/-- SEND: the traversal bytes of A. -/
def Tray.insSend (t : Tray) (c j : Nat) (w : BitVec 512) : Tray :=
  let ch := insPf w 2 0 3
  t.withTd c j w 0 (fun t a =>
    t.orBad c j [(!chOk ch, 7)]
      (t.orFault c j (t.readElems c a (a.td.elemSeq 0)) (fun l =>
        let data := packBits a.td.bits (l.map (fun x => x.1))
        ((t.noteTrav c a 0 false).sendJob c j 1 ch (insTag w) true (jobParts (insPf w 0 0 6) (insP w 1) data)).retire
          c j w)))

/-- The elements of a block of a BCL, in default order at its full extents; none beyond the TD's. -/
def Td.blkElems (d : Td) (blk co : List Nat) : List (Option (Nat × List Nat)) :=
  let e := fun i => (blk[i]?).getD 1
  let at0 := fun i => (co[i]?).getD 0 * e i
  (List.range (e 0 * e 1 * e 2 * e 3)).map (fun n =>
    let x := [at0 0 + n % e 0, at0 1 + n / e 0 % e 1, at0 2 + n / (e 0 * e 1) % e 2, at0 3 + n / (e 0 * e 1 * e 2)]
    if (x.zipIdx).all (fun a => decide (a.1 < d.size a.2)) then some ((x[0]?).getD 0, (x.drop 1) ++ [0, 0]) else none)

/-- The codes of a block, zero beyond the TD. -/
def Tray.readBlk (t : Tray) (c : Nat) (u : TdUse) : List (Option (Nat × List Nat)) → Except Flt (List Nat)
  | [] => .ok []
  | none :: l =>
    match t.readBlk c u l with
    | .error f => .error f
    | .ok r => .ok (0 :: r)
  | some x :: l =>
    match t.readElem c u x with
    | .error f => .error f
    | .ok v =>
      match t.readBlk c u l with
      | .error f => .error f
      | .ok r => .ok (v.1 :: r)

/-- Entry n of a BCL: its coordinates and DEST. -/
def Tray.readEntry (t : Tray) (c : Nat) (v : Via) (b : Bcl) (n : Nat) : Except Flt (List Nat × Nat) :=
  match t.readBytes c v (b.listBase + 8 * n) 8 with
  | .error f => .error f
  | .ok l =>
    let x := leVal l
    .ok ([x % 65536, x / 65536 % 65536, x / 2 ^ 32 % 65536, x / 2 ^ 48 % 256], x / 2 ^ 56 % 256)

/-- The packets of entries `n` and on, up to the first fault (R310, R311). -/
def Tray.scatterParts (t : Tray) (c : Nat) (u : TdUse) (v : Via) (b : Bcl) (base size : Nat) :
    Nat → Nat → List JobPart × Option Flt
  | 0, _ => ([], none)
  | fuel + 1, n =>
    match t.readEntry c v b n with
    | .error f => ([], some f)
    | .ok (co, dest) =>
      if (co.zipIdx).any (fun a => decide (u.td.size a.2 ≤ a.1 * (b.blk[a.2]?).getD 1)) then ([], some .bcl)
      else
        match t.readBlk c u (u.td.blkElems b.blk co) with
        | .error f => ([], some f)
        | .ok codes =>
          let here := if dest < 64 then jobParts dest (base + n * size) (packBits u.td.bits codes) else []
          let r := t.scatterParts c u v b base size fuel (n + 1)
          (here ++ r.1, r.2)

/-- SCATTER: what was sent for the entries before a fault stands. -/
def Tray.insScatter (t : Tray) (c j : Nat) (w : BitVec 512) : Tray :=
  let ch := insPf w 2 0 3
  t.withTd c j w 0 (fun t a =>
    match t.operand c j w 3 3 with
    | none => t.jobEnd c j JS.BAD_HANDLE 3
    | some (h, s, d) =>
      let t1 := t.holdDesc c j s
      let b := bclOf d.words
      if b.td ≠ t.opHandle c j w 0 then t1.jobEnd c j JS.BAD_HANDLE 3
      else
        t1.orBad c j [(!chOk ch, 7)]
          (let v : Via := { seat := t.jobSeat c j, handle := h, revoked := d.revoked }
           let size := ceilDiv (b.blk.foldl (· * ·) a.td.bits) 8
           let r := t1.scatterParts c a v b (insP w 1) size b.count 0
           let t2 := t1.sendJob c j 2 ch (insTag w) r.2.isNone r.1
           match r.2 with
           | some f => t2.jobFault c j f
           | none => (t2.noteTrav c a 0 false).retire c j w))

/-! ### Issue of operations (R335–R337) -/

/-- The table or the triggered-operation entries are at their bound (R335). -/
def Tray.issueFull (t : Tray) (c tb : Nat) : Bool :=
  decide (16 ≤ (t.table c tb).ops.length) || decide (65536 < t.trigUsed c + 256)

/-- A MODE 1 packet staged for an operation that started as no SHUFFLE is discarded (R340). -/
def Tray.dropShuf (t : Tray) (c tb seq : Nat) : Tray :=
  let mine := (t.table c tb).shuf.filter (fun x => x.op == seq)
  (t.modTable c tb (fun x => { x with shuf := x.shuf.filter (fun y => y.op != seq) })).each mine (fun t _ =>
    t.lumpDiscard c tb F.TBL_CONTRIB_ERR_STRAY (t.tSeat c tb))

/-- What was staged for started operations is looked at: lumps, and MODE 1 packets of an operation that is no SHUFFLE. -/
def Tray.started (t : Tray) (c tb : Nat) : Tray :=
  let ops := (t.table c tb).ops.filter (fun o => o.started && o.opcode != O.SHUFFLE)
  (t.checkStarted c tb).each ops (fun t o => t.dropShuf c tb o.seq)

/-- The instruction's operation takes the table's next OP_SEQ and starts as soon as it may; the slot waits for its end
(R257, R335). -/
def Tray.issueOp (t : Tray) (c j : Nat) (w : BitVec 512) (opcode count dst : Nat) (fz : Fuse) : Tray :=
  let tb := insTbl w
  let seq := t.opNext c tb
  let o : OpSt := { seq := seq, opcode := opcode, count := count, launch := .dealer j (t.jobEpoch c j) (insTag w),
                    fuse := fz,
                    members := (t.tMembers c tb).map (fun e => { port := e, dst := dst, userTag := insTag w }) }
  let t1 := ((t.modTable c tb (fun x => { x with ops := x.ops ++ [o] })).nextSeq c tb).slotWait c j (.op tb seq)
  (t1.startNext c tb).started c tb

/-- The LAUNCH of the instruction's table is DEALER; else BAD_INSTR. -/
def Tray.notDealerTbl (t : Tray) (c : Nat) (w : BitVec 512) : Bool := !t.tDealer c (insTbl w)

/-- The instruction issues, or waits at issue. -/
def Tray.orIssue (t : Tray) (c j need : Nat) (w : BitVec 512) (k : Tray → Tray) : Tray :=
  if t.issueFull c (insTbl w) then t.slotWait c j .issue else t.withPool c j need 0 w k

/-- The FP32 operand of field 1 where P2[9] asks for it: its handle and descriptor. -/
def Tray.withScale (t : Tray) (c j : Nat) (w : BitVec 512) (k : Tray → Option (Nat × BitVec 1024) → Tray) : Tray :=
  if insPf w 2 9 1 = 1 then
    match t.operand c j w 1 1 with
    | none => t.jobEnd c j JS.BAD_HANDLE 1
    | some (h, s, d) => k (t.holdDesc c j s) (some (h, d.words))
  else k t none

/-- The operand is FP32, and has the elements asked for. -/
def scaleFmtBad (o : Option (Nat × BitVec 1024)) : Bool := match o with | some x => (tdOf x.2).fmt != 1 | none => false
def scaleCount (o : Option (Nat × BitVec 1024)) : Option Nat := o.map (fun x => (tdOf x.2).count)

/-- RS_EPI (R336). -/
def Tray.insRsEpi (t : Tray) (need c j : Nat) (w : BitVec 512) : Tray :=
  let tb := insTbl w
  let cnt := insPf w 0 0 32
  let f := insPf w 2 16 4
  let e := (t.geo c tb { seq := 0, opcode := O.RS, count := cnt }).e
  t.withScale c j w (fun t o =>
    let biasBad := match scaleCount o with | some n => n != t.tN c tb * cnt | none => false
    t.orBad c j [(cnt == 0 || biasBad || (isMx f && (cnt % 32 != 0 || e % 32 != 0)), 4),
        (decide (13 < f) || scaleFmtBad o, 5), (t.notDealerTbl c w, 6)]
      (t.orIssue c j need w (fun t =>
        t.issueOp c j w O.RS cnt (insP w 1) (.epi w ((o.map (fun x => x.1)).getD 0) ((o.map (fun x => x.2)).getD 0)))))

/-- AG_PRO (R337). -/
def Tray.insAgPro (t : Tray) (need c j : Nat) (w : BitVec 512) : Tray :=
  let tb := insTbl w
  let cnt := insPf w 0 0 32
  let blk := insPf w 2 20 12
  t.withScale c j w (fun t o =>
    let scBad := match scaleCount o with | some n => decide (n < t.tN c tb) | none => false
    t.orBad c j [(cnt == 0 || scBad || (blk != 0 && cnt % blk != 0), 4), (decide (7 < insPf w 2 16 4) || scaleFmtBad o, 5),
        (t.notDealerTbl c w, 6)]
      (t.orIssue c j need w (fun t =>
        t.issueOp c j w O.AG cnt (insP w 1) (.pro w ((o.map (fun x => x.1)).getD 0) ((o.map (fun x => x.2)).getD 0)))))

end Sys2Proof.Machine
end

