-- ==== Sys2Proof/Machine/Moe.lean ====
section
/-! DEFINITION. In-fabric mixture-of-experts dispatch: MOE_ROUTE and its batches (R341–R345). -/
namespace Sys2Proof.Machine

/-- The parameters of a MOE_ROUTE. -/
structure Moe where
  inbox : Nat
  fx : Nat
  k : Nat
  gate : Nat
  ch : Nat
  limit : Nat
  bcl : Nat
  bias : Bool
  deriving DecidableEq, Repr

def moeOf (w : BitVec 512) : Moe :=
  { inbox := insPf w 0 0 4, fx := insPf w 0 8 4, k := insPf w 1 0 4, gate := insPf w 1 16 2, ch := insPf w 1 20 3,
    limit := insP w 2, bcl := insP w 3, bias := insPf w 1 8 1 == 1 }

/-- The descriptors of a MOE_ROUTE: weights, bias if used, map. -/
structure MoeTds where
  wt : TdUse
  bias : Option TdUse
  map : TdUse
  deriving DecidableEq, Repr

/-- H and E. -/
def MoeTds.h (d : MoeTds) : Nat := d.wt.td.size 1
def MoeTds.e (d : MoeTds) : Nat := d.wt.td.size0
/-- Bytes of a token's elements. -/
def moeElemBytes (m : Moe) (d : MoeTds) : Nat := d.h * fmtSize m.fx
/-- DREC (R343). -/
def moeDrec (m : Moe) (d : MoeTds) : Nat := 64 * ceilDiv (16 + moeElemBytes m d) 64

/-- The checks of R341: BAD_INSTR details. -/
def Tray.moeBad (t : Tray) (c j : Nat) (m : Moe) (d : MoeTds) : List (Bool × Nat) :=
  let wf := d.wt.td.fmt
  [(d.h == 0 || decide (16384 < d.h) || d.e == 0 || decide (512 < d.e) || !d.wt.td.flat ||
      (match d.bias with | some b => b.td.count != d.e | none => false) || d.map.td.count != 32 * d.e ||
      d.map.td.size0 != 32 * d.e || decide (t.recBytes c m.inbox < 16 + moeElemBytes m d), 4),
   (!(m.fx == 3 || m.fx == 4 || m.fx == 5) || !(wf == 4 || wf == 5 || wf == 8 || wf == 11 || wf == 12) ||
      (match d.bias with | some b => b.td.fmt != 1 | none => false) || d.map.td.fmt != 7, 5),
   (!t.inboxBound c j m.inbox || m.k == 0 || decide (8 < m.k) || decide (d.e < m.k) || decide (1 < m.gate) || !chOk m.ch,
      7)]

/-- The operands of a MOE_ROUTE. -/
def Tray.withMoe (t : Tray) (c j : Nat) (w : BitVec 512) (k : Tray → MoeTds → Tray) : Tray :=
  t.withTd c j w 0 (fun t a => t.withTdIf (moeOf w).bias c j w 1 (fun t b => t.withTd c j w 3 (fun t d =>
    k t ⟨a, b, d⟩)))

/-- MOE_ROUTE starts: it is checked, its pool items are taken, and it waits for its first batch. -/
def Tray.insMoeRoute (t : Tray) (need c j : Nat) (w : BitVec 512) : Tray :=
  if (t.slot c j).moe then t
  else
    let m := moeOf w
    t.withMoe c j w (fun t d => t.orBad c j (t.moeBad c j m d)
      (t.withPool c j need 0 w (fun t =>
        let t1 := t.modSlot c j (fun s => { s with moe := true, batch := 0 })
        if (t1.inbox c m.inbox).next = none then t1.slotWait c j .inbox else t1.slotWait c j .none)))

/-! ### One token (R342) -/

/-- A value is above another: −0 and +0 are equal. -/
def FV.above (a b : FV) : Bool :=
  let zero := fun (v : FV) => match v with | .num _ m _ => m == 0 | _ => false
  if a.isNan then false else if b.isNan then true else b.lt a && !(zero a && zero b)

/-- The best of the experts not yet chosen: the first of the highest logit. -/
def bestLogit (ls : List (Nat × FV)) : Option (Nat × FV) :=
  ls.foldl (fun b x => match b with
    | none => some x
    | some y => if x.2.above y.2 then some x else some y) none

/-- The top k experts in rank order. -/
def topK : Nat → List (Nat × FV) → List (Nat × FV)
  | 0, _ => []
  | k + 1, ls =>
    match bestLogit ls with
    | none => []
    | some b => b :: topK k (ls.filter (fun x => x.1 != b.1))

/-- exp(l − max) in FP32. -/
def expAt (mx l : FV) : FV := fn32 Config.exp (fvRound 1 (l.add mx.neg)).1

/-- The gate weights of the selected experts in BF16, and flags: softmax over `base` (R342). -/
def gatesOf (base sel : List (Nat × FV)) : List Nat × Nat :=
  match bestLogit base with
  | none => ([], 0)
  | some b =>
    let byX := (List.range 512).filterMap (fun x => (base.find? (fun a => a.1 == x)).map (fun a => a.2))
    let es := byX.map (expAt b.2)
    let sum := match es with
      | [] => .num false 0 0
      | a :: l => l.foldl (fun s e => (fvRound 1 (s.add e)).1) a
    let gs := sel.map (fun a => fvConv 3 false ((expAt b.2 a.2).div32 sum))
    (gs.map (fun g => g.1), gs.foldl (fun a g => a ||| g.2) 0)

/-- The logits of a token: FP32 values by expert, and flags. `cols`: the weights of each expert over h. -/
def logitsOf (xs : List FV) (cols : List (List FV)) (bias : Option (List FV)) : List (Nat × FV) × Nat :=
  let ls := cols.map (fun col => dotFp (.num false 0 0) xs col)
  let bs := match bias with
    | none => ls
    | some b => List.zipWith (fun (l : FV × Nat) z =>
        let s := l.1.add z
        let r := fvRound 1 s
        (r.1, l.2 ||| r.2 ||| genFlag [l.1, z] s ||| inFlag [z])) ls b
  ((bs.zipIdx).map (fun a => (a.2, a.1.1)),
    bs.foldl (fun a l => a ||| l.2 ||| inFlag [l.1]) 0)

/-- An expert map entry (R341). -/
structure Expert where
  ep : Nat
  cap : Nat
  base : Nat
  cntAddr : Nat
  deriving DecidableEq, Repr

/-- The expert map: 32 bytes an entry. -/
def expertsOf (l : List Byte) : List Expert :=
  (chunksOf 32 (l.length + 1) l).map (fun b =>
    let v := leVal b
    ⟨v % 64, v / 2 ^ 16 % 65536, v / 2 ^ 64 % 2 ^ 64, v / 2 ^ 128 % 2 ^ 64⟩)

/-- A batch in progress: packets so far, tokens seen by expert, BCL entries, flags. -/
structure MoeRun where
  parts : List (Nat × JobPart) := []
  seen : Assoc Nat := []
  bcl : List Byte := []
  flags : Nat := 0
  deriving DecidableEq, Repr

def MoeRun.count (r : MoeRun) (x : Nat) : Nat := Assoc.get (fun _ => 0) r.seen x

/-- The token of record `n` goes to its experts, and its source learns where (R343, R344). `rec`: the record's bytes. -/
def MoeRun.token (r : MoeRun) (m : Moe) (d : MoeTds) (cols : List (List FV)) (bias : Option (List FV))
    (ex : List Expert) (n : Nat) (rec : List Byte) : MoeRun :=
  let elems := (rec.drop 16).take (moeElemBytes m d)
  let xs := (elemsOf (fmtSize m.fx) elems).map (fvDec m.fx)
  let lg := logitsOf xs cols bias
  let nan := lg.1.any (fun a => a.2.isNan)
  let sel := topK m.k lg.1
  let gs := gatesOf (if m.gate = 0 then lg.1 else sel) sel
  let id := (rec.drop 8).take 6
  let src := ((rec[15]?).getD 0).toNat
  let z : Expert := ⟨0, 0, 0, 0⟩
  let put := (sel.zip gs.1).zipIdx.map (fun a =>
    let x := a.1.1.1
    let e := (ex[x]?).getD z
    let s := r.count x
    (x, e, s, decide (s < e.cap), a.1.2, a.2))
  let disp := (put.filter (fun p => p.2.2.2.1)).flatMap (fun p =>
    let body := id ++ [BitVec.ofNat 8 src, BitVec.ofNat 8 p.2.2.2.2.2] ++ leBytes 8 p.2.2.2.2.1 ++ elems
    (jobParts p.2.1.ep (p.2.1.base + p.2.2.1 * moeDrec m d) (fitTo 0 (moeDrec m d) body)).map (fun q => (3, q)))
  let slots := put.flatMap (fun p =>
    leBytes 2 p.1 ++ leBytes 2 (if p.2.2.2.1 then p.2.2.1 else 0xFFFF) ++ leBytes 2 p.2.2.2.2.1)
  let route := fitTo 0 64 (id ++ [BitVec.ofNat 8 m.k, BitVec.ofNat 8 (b2n nan)] ++ slots)
  { parts := r.parts ++ disp ++ [(4, ⟨src % 64, leVal (rec.take 8), route⟩)],
    seen := put.foldl (fun a p => Assoc.set (fun _ => 0) a p.1 (r.count p.1 + 1)) r.seen,
    bcl := r.bcl ++ (put.filter (fun p => p.2.2.2.1)).flatMap (fun p =>
      leBytes 8 (2 ^ 16 * (n % 65536) + 2 ^ 56 * p.2.1.ep)),
    flags := r.flags ||| lg.2 ||| gs.2 }

/-- The batch records (R344). -/
def MoeRun.batchRecs (r : MoeRun) (ex : List Expert) (batch : Nat) : List (Nat × JobPart) :=
  (ex.zipIdx).map (fun a =>
    let n := r.count a.2
    let placed := min n a.1.cap
    (5, ⟨a.1.ep, a.1.cntAddr, leBytes 16 (placed % 65536 + 2 ^ 16 * ((n - placed) % 65536) + 2 ^ 32 * (batch % 2 ^ 32))⟩))

/-- The records of a taken half, by their TD. -/
def Tray.readRecs (t : Tray) (c : Nat) (v : Via) (base size : Nat) : Nat → Except Flt (List (List Byte))
  | 0 => .ok []
  | n + 1 =>
    match t.readRecs c v base size n with
    | .error f => .error f
    | .ok l =>
      match t.readBytes c v (base + n * size) size with
      | .error f => .error f
      | .ok b => .ok (l ++ [b])

/-- The taken half is processed in record order and goes back to filling (R341–R344). -/
def Tray.moeRun (t : Tray) (c j h td : Nat) (w : BitVec 512) (d : MoeTds) : Tray :=
  let m := moeOf w
  let i := m.inbox
  let n := (t.inbox c i).recsIn h
  let size := t.recBytes c i
  let v : Via := { seat := t.inSeat c i, handle := td, revoked := (t.desc c (td % 4096)).revoked }
  t.orFault c j (t.readVals c d.wt 0) (fun ws =>
  t.orFault c j (match d.bias with | some b => t.readVals c b 0 | none => .ok []) (fun bs =>
  t.orFault c j (t.readElems c d.map (d.map.td.elemSeq 0)) (fun es =>
  t.orFault c j (t.readRecs c v (t.inBase c i + h * t.halfRecs c i * size) size n) (fun recs =>
    let rows := rowsOf d.e ws
    let cols := (List.range d.e).map (fun x => rows.map (fun r => (r[x]?).getD (.num false 0 0)))
    let ex := expertsOf (es.map (fun a => BitVec.ofNat 8 a.1))
    let bias := d.bias.map (fun _ => bs)
    let r := (recs.zipIdx).foldl (fun (r : MoeRun) a => r.token m d cols bias ex a.2 a.1) {}
    let b := (t.slot c j).batch
    let t1 := ((t.noteTrav c d.wt 0 false).noteTrav c d.map 0 false).jobFlags c j r.flags
    let t2 := t1.chargeMops c (t.jobSeat c j) (2 * n * d.h * d.e)
      (mixClass d.wt.td.fmt d.wt.td.fmt)
    let t3 := t2.each (r.parts ++ r.batchRecs ex b) (fun t p =>
      t.jobPacket c j p.1 m.ch p.2.ep p.2.addr (insTag w) (p.1 == 5) p.2.data)
    let wr := if m.bcl = 0 then (none, t3) else t3.writeBytes c (t.jobVia c j) m.bcl r.bcl
    match wr.1 with
    | some f => wr.2.jobFault c j f
    | none =>
      let t4 := (wr.2.inReturn c i).modSlot c j (fun s => { s with batch := b + 1 })
      if m.limit ≠ 0 ∧ m.limit ≤ b + 1 then t4.retire c j w
      else if (t4.inbox c i).next = none then t4.slotWait c j .inbox
      else t4.slotWait c j .none))))

/-- MOE_BATCH: the MOE_ROUTE of slot `j` takes a ready half. -/
def Tray.moeBatch (t : Tray) (c j : Nat) : Tray :=
  if ¬ t.dealerRuns c ∨ t.jobState c j = J.IDLE ∨ ¬ (t.slot c j).moe then t
  else
    t.orFault c j (t.fetchIns c j) (fun w =>
      let i := (moeOf w).inbox
      t.withMoe c j w (fun t d =>
        if ¬ t.inboxBound c j i then t.badInstr c j 7
        else
          match (t.inbox c i).next with
          | none => t.slotWait c j .inbox
          | some h =>
            let r := t.inTake c i h
            if r.1 ≠ D.OK then r.2.2.jobEnd c j JS.DESC_FAIL r.1
            else (r.2.2.slotWait c j .none).moeRun c j h r.2.1 w d))

end Sys2Proof.Machine
end

