-- ==== Sys2Proof/Machine/Shuffle.lean ====
section
/-! DEFINITION. Re-sharding between two distributed tensor descriptors: SHUFFLE, its packets, its runs over the deck ring
(R313, R340, R346–R348, R355). -/
namespace Sys2Proof.Machine

/-! ### Where an element lives (R313) -/

/-- L_d, the local extent. -/
def DtdDim.l (x : DtdDim) : Nat :=
  match x.rule with
  | 1 => ceilDiv x.g x.p
  | 2 => ceilDiv (ceilDiv x.g x.b) x.p * x.b
  | _ => x.g

/-- Part and local index of a global index. -/
def DtdDim.split (x : DtdDim) (i : Nat) : Nat × Nat :=
  match x.rule with
  | 1 => let b := ceilDiv x.g x.p; (i / b, i % b)
  | 2 => let q := i / x.b; (q % x.p, q / x.p * x.b + i % x.b)
  | _ => (0, i)

/-- The global index of a part's local index; none: padding. -/
def DtdDim.join (x : DtdDim) (c l : Nat) : Option Nat :=
  let i := match x.rule with
    | 1 => c * ceilDiv x.g x.p + l
    | 2 => (l / x.b * x.p + c) * x.b + l % x.b
    | _ => l
  if i < x.g then some i else none

/-- Digits of a number over extents, the first fastest. -/
def digits : List Nat → Nat → List Nat
  | [], _ => []
  | e :: l, n => n % e :: digits l (n / e)

/-- The number of digits over extents. -/
def undigits : List Nat → List Nat → Nat
  | e :: l, d :: k => d + e * undigits l k
  | _, _ => 0

def Dtd.parts (d : Dtd) : List Nat := d.dims.map (fun x => x.p)
def Dtd.locals (d : Dtd) : List Nat := d.dims.map DtdDim.l
/-- Elements of a shard, padding included. -/
def Dtd.shard (d : Dtd) : Nat := d.locals.foldl (· * ·) 1

/-- All of a list of options, or none. -/
def allSome {α : Type} : List (Option α) → Option (List α)
  | [] => some []
  | none :: _ => none
  | some a :: l => (allSome l).map (fun r => a :: r)

/-- The global index of local element `n` of a rank; none: padding. -/
def Dtd.globalOf (d : Dtd) (rank n : Nat) : Option (List Nat) :=
  allSome (List.zipWith (fun (x : DtdDim) (a : Nat × Nat) => x.join a.1 a.2) d.dims
    (List.zip (digits d.parts (rank % d.q)) (digits d.locals n)))

/-- The owner g and the local element number of a global index. -/
def Dtd.place (d : Dtd) (xs : List Nat) : Nat × Nat :=
  let s := List.zipWith (fun (x : DtdDim) i => x.split i) d.dims xs
  (undigits d.parts (s.map (fun a => a.1)), undigits d.locals (s.map (fun a => a.2)))

/-- The ranks that hold an owner's shard. -/
def Dtd.holders (d : Dtd) (g : Nat) : List Nat := (List.range d.ranks).filter (fun r => r % d.q == g)

/-- The element size S. -/
def Dtd.size (d : Dtd) : Nat := fmtSize d.fmt

/-! ### The instruction (R346) -/

/-- The DTD of operand field `i`. -/
def Tray.withDtd (t : Tray) (c j : Nat) (w : BitVec 512) (i : Nat) (k : Tray → BitVec 1024 → Tray) : Tray :=
  match t.operand c j w i 2 with
  | none => t.jobEnd c j JS.BAD_HANDLE i
  | some (_, s, d) => k (t.holdDesc c j s) d.words

/-- The two DTDs describe the same tensor over the table's members. -/
def dtdsAgree (a b : Dtd) (n : Nat) : Bool :=
  a.seat == b.seat && a.ndim == b.ndim && a.dims.map (fun x => x.g) == b.dims.map (fun x => x.g) && a.ranks == n &&
  b.ranks == n

/-! ### Runs (R347, R348) -/

/-- A run of target bytes: rank, offset in its shard, bytes. -/
structure Run where
  rank : Nat
  off : Nat
  data : List Byte
  deriving DecidableEq, Repr

/-- Insert by rank and offset. -/
def Run.insert (a : Run) : List Run → List Run
  | [] => [a]
  | b :: l => if a.rank < b.rank ∨ (a.rank = b.rank ∧ a.off ≤ b.off) then a :: b :: l else b :: Run.insert a l

/-- Runs in order, contiguous ones joined. -/
def joinRuns (l : List Run) : List Run :=
  (l.foldr Run.insert []).foldr (fun a r => match r with
    | [] => [a]
    | b :: k => if a.rank = b.rank ∧ a.off + a.data.length = b.off then { a with data := a.data ++ b.data } :: k
      else a :: b :: k) []

/-- What a rank's bytes become at their holders: one run an element, joined where they are contiguous. -/
def shufRuns (a b : Dtd) (skip : Bool) (src off : Nat) (data : List Byte) : List Run :=
  let s := a.size
  joinRuns (((chunksOf s (data.length + 1) data).zipIdx).flatMap (fun e =>
    match a.globalOf src (off / s + e.2) with
    | none => []
    | some xs =>
      let p := b.place xs
      ((b.holders p.1).filter (fun r => !skip || r != src)).map (fun r => ⟨r, s * p.2, e.1⟩)))

/-- Chip that owns the target block at an offset of a rank under SPAN (R348). -/
def blockOwner (r off : Nat) : Nat := (r + off / 4096) % 5

/-- Bytes of a rank's target shard that arrive from the operation in the range from `lo` of length `n`: what is no padding,
and not the rank's own under LOCAL_SKIP. -/
def mappedIn (a b : Dtd) (skip : Bool) (r lo n : Nat) : Nat :=
  let s := b.size
  s * ((List.range (n / s)).filter (fun i =>
    decide (lo / s + i < b.shard) &&
    (match b.globalOf r (lo / s + i) with
     | none => false
     | some xs => !skip || (a.place xs).1 != r))).length

/-- Bytes that chip `c` sends to rank `r` in the whole operation. -/
def shufTotal (a b : Dtd) (skip span : Bool) (c r : Nat) : Nat :=
  let bytes := b.size * b.shard
  if span then
    sumL (((List.range (ceilDiv bytes 4096)).filter (fun u => blockOwner r (4096 * u) == c)).map (fun u =>
      mappedIn a b skip r (4096 * u) 4096))
  else mappedIn a b skip r 0 bytes

/-- Bytes that chip `c` receives from a source rank. -/
def shufSource (a : Dtd) (span : Bool) (c : Nat) : Nat :=
  let bytes := a.size * a.shard
  if span then
    sumL (((List.range (ceilDiv bytes 4096)).filter (fun u => u % 5 == c)).map (fun u => min 4096 (bytes - 4096 * u)))
  else bytes

/-- LOCAL_SKIP and SPAN. -/
def shufSkip (w : BitVec 512) : Bool := bitOf (insVar w) 0
def shufSpan (w : BitVec 512) : Bool := bitOf (insVar w) 1

/-- RESULTs of one run to its rank: cut at 4,096 B; LAST on the operation's final one to the member (R269, R481). -/
def Tray.shufSend (t : Tray) (c tb seq : Nat) (a b : Dtd) (w : BitVec 512) (x : Run) : Tray :=
  match (t.tRanks c tb)[x.rank]? with
  | none => t
  | some e =>
    let total := shufTotal a b (shufSkip w) (shufSpan w) c x.rank
    t.each ((chunksOf 4096 (x.data.length + 1) x.data).zipIdx) (fun t p =>
      let k := t.memberCh c tb seq e
      let done := (((t.table c tb).findOp seq).bind (fun o => o.members.find? (fun m => m.port == e))).map (fun m => m.bytes)
      let n := done.getD 0 + p.1.length
      let ep := t.tEpoch c tb
      let pk := mkPkt { ptype := P.RESULT, ch := k.1, src := e, dst := e, seat := t.tSeat c tb, epoch := ep, tbl := tb,
                        addr := b.epBase + x.off + 4096 * p.2, arg := seq % 65536, last := n == total } p.1
      (k.2.originate c e (.result tb seq 0 ep) pk).modOp c tb seq (fun o => { o with
        members := o.members.map (fun m => if m.port = e then { m with bytes := n } else m) }))

/-- Runs received for a target block of an owned block, put together; a block with every mapped byte is sent (R348). -/
def Tray.shufBlock (t : Tray) (c tb seq : Nat) (a b : Dtd) (w : BitVec 512) (x : Run) : Tray :=
  match (t.table c tb).findOp seq with
  | none => t
  | some o =>
    let key := (x.rank, x.off / 4096)
    let old := ((o.blocks.find? (fun z => z.1 == key)).map (fun z => z.2)).getD []
    let all := old ++ [(x.off, x.data)]
    let rest := o.blocks.filter (fun z => z.1 != key)
    let have0 := sumL (all.map (fun z => z.2.length))
    if mappedIn a b (shufSkip w) x.rank (4096 * key.2) 4096 ≤ have0 then
      (t.modOp c tb seq (fun z => { z with blocks := rest })).each
        (joinRuns (all.map (fun z => ⟨x.rank, z.1, z.2⟩))) (fun t r => t.shufSend c tb seq a b w r)
    else t.modOp c tb seq (fun z => { z with blocks := rest ++ [(key, all)] })

/-- A run cut at 4 KiB boundaries of its target. -/
def Run.blocks (x : Run) : List Run :=
  let first := 4096 - x.off % 4096
  ⟨x.rank, x.off, x.data.take first⟩ ::
    ((chunksOf 4096 (x.data.length + 1) (x.data.drop first)).zipIdx).map (fun p => ⟨x.rank, x.off + first + 4096 * p.2, p.1⟩)

/-- A run that another chip owns goes over the deck ring in KIND 3 packets of up to 2,048 B (R218, R355). -/
def Tray.shufRing (t : Tray) (c tb seq : Nat) (x : Run) : Tray :=
  t.ringSend c (((chunksOf 2048 (x.data.length + 1) x.data).zipIdx).map (fun p =>
    ({ dst := blockOwner x.rank x.off, src := c, ccw := false, kind := 3, seat := t.tSeat c tb,
       xfer := seq % 65536 + 2 ^ 16 * tb,
       addr := x.rank % 64 + 2 ^ 6 * ((p.1.length - 1) % 4096) + 2 ^ 18 * (x.off + 2048 * p.2),
       epoch := t.tEpoch c tb, pseq := p.2 }, p.1)))

/-- Whether everything due of a SHUFFLE has been received and sent. -/
def Tray.shufDone (t : Tray) (c tb : Nat) (o : OpSt) (a b : Dtd) (w : BitVec 512) : Bool :=
  let got := sumL (o.runs.map (fun r => r.2.2))
  got == a.q * shufSource a (shufSpan w) c &&
  o.members.all (fun m => match t.rankOf c tb m.port with
    | some r => m.bytes == shufTotal a b (shufSkip w) (shufSpan w) c r
    | none => true)

/-- The operation is looked at again: all sent, then completion (R347, R348). -/
def Tray.shufCheck (t : Tray) (c tb seq : Nat) : Tray :=
  match (t.table c tb).findOp seq with
  | none => t
  | some o =>
    match o.fuse with
    | .shuffle w a b =>
      (t.modOp c tb seq (fun z => { z with allSent := t.shufDone c tb o (dtdOf a) (dtdOf b) w })).checkOp c tb seq
    | _ => t

/-- A MODE 1 packet of a running SHUFFLE is processed (R347). -/
def Tray.shufPacket (t : Tray) (c tb seq e ch off : Nat) (data : List Byte) : Tray :=
  match (t.table c tb).findOp seq, t.rankOf c tb e with
  | some o, some r =>
    (match o.fuse with
     | .shuffle w aw bw =>
       let a := dtdOf aw
       let b := dtdOf bw
       let n := data.length
       let twice := o.runs.any (fun x => x.1 == r && decide (x.2.1 < off + n) && decide (off < x.2.1 + x.2.2))
       if a.q ≤ r ∨ a.size * a.shard < off + n ∨ twice ∨ off % a.size ≠ 0 ∨ n % a.size ≠ 0 then t.malformed c tb seq
       else
         let t1 := t.modOp c tb seq (fun z => { z with
           runs := if n = 0 then z.runs else z.runs ++ [(r, off, n)],
           members := z.members.map (fun m => if m.port = e ∧ m.ch = none then { m with ch := some ch } else m) })
         let rs := shufRuns a b (shufSkip w) r off data
         let t2 := if shufSpan w then
             t1.each (rs.flatMap Run.blocks) (fun t x =>
               if x.data = [] then t
               else if blockOwner x.rank x.off = c then t.shufBlock c tb seq a b w x
               else t.shufRing c tb seq x)
           else t1.each rs (fun t x => t.shufSend c tb seq a b w x)
         t2.shufCheck c tb seq
     | _ => t)
  | _, _ => t

/-- A run that arrives over the deck ring for an owned block: `rank`, `off`. -/
def Tray.shufStaged (t : Tray) (c tb seq rank off : Nat) (data : List Byte) : Tray :=
  match (t.table c tb).findOp seq with
  | none => t
  | some o =>
    match o.fuse with
    | .shuffle w a b => (t.shufBlock c tb seq (dtdOf a) (dtdOf b) w ⟨rank, off, data⟩).shufCheck c tb seq
    | _ => t

/-- Channel number that marks a staged run from the deck ring: its port is the target rank. -/
def ringCh : Nat := 8

/-- What was staged for SHUFFLEs that have started is processed in order of arrival (R340). -/
def Tray.shufStarted (t : Tray) (c tb : Nat) : Tray :=
  let ops := (t.table c tb).ops.filter (fun o => o.started && !o.failed && o.opcode == O.SHUFFLE)
  t.each ops (fun t o =>
    let mine := (t.table c tb).shuf.filter (fun x => x.op == o.seq)
    let t1 := t.modTable c tb (fun x => { x with shuf := x.shuf.filter (fun y => y.op != o.seq) })
    (t1.each mine (fun t x =>
      match (t.table c tb).findOp o.seq with
      | none => t
      | some z =>
        if z.failed then t
        else if x.ch = ringCh then t.shufStaged c tb o.seq x.port x.off x.data
        else t.shufPacket c tb o.seq x.port x.ch x.off x.data)).shufCheck c tb o.seq)

/-- After any start on a table: what was staged is looked at. -/
def Tray.afterStart (t : Tray) (c tb : Nat) : Tray := (t.started c tb).shufStarted c tb

/-- SHUFFLE (R346). -/
def Tray.insShuffle (t : Tray) (need c j : Nat) (w : BitVec 512) : Tray :=
  t.withDtd c j w 0 (fun t a => t.withDtd c j w 1 (fun t b =>
    let x := dtdOf a
    let y := dtdOf b
    t.orBad c j [(!dtdsAgree x y (t.tN c (insTbl w)), 4), (x.fmt != y.fmt, 5), (t.notDealerTbl c w, 6)]
      (t.orIssue c j need w (fun t =>
        (t.issueOp c j w O.SHUFFLE 0 0 (.shuffle w a b)).afterStart c (insTbl w)))))

/-! ### Arrival (R340) -/

/-- A DEALER_IN packet in MODE 1 accepted by the transport. -/
def Tray.shufArrive (t : Tray) (c e : Nat) (p : Pkt) : Tray :=
  let a := hAddr p.hdr
  let tb := a / 2 ^ 16 % 256
  let seq := a % 65536
  let off := a / 2 ^ 24 % 2 ^ 36
  match t.tblGate c tb e p with
  | some t1 => t1
  | none =>
    let stray := t.lumpDiscard c tb F.TBL_CONTRIB_ERR_STRAY (hSeat p.hdr)
    if t.tst c tb = T.ABORTING ∨ ¬ t.tDealer c tb then stray
    else
      let stage := t.modTable c tb (fun x => { x with shuf := x.shuf ++ [⟨seq, e, hCh p.hdr, off, pBytes p⟩] })
      match (t.table c tb).findOp seq with
      | some o =>
        if o.failed ∨ o.opcode ≠ O.SHUFFLE then stray
        else if o.started then t.shufPacket c tb seq e (hCh p.hdr) off (pBytes p)
        else stage
      | none => if seq = t.opNext c tb then stage else stray

/-- A DEALER_IN packet in MODE 2 to 15 (R340). -/
def Tray.modeBad (t : Tray) (c e : Nat) (p : Pkt) : Tray :=
  (t.sat (portPg c e) F.PORT_RX_ERR_BAD_PKT 1).charge c (hSeat p.hdr) N.TBL_DISCARD 1

/-- A KIND 3 packet reaches the owner of its block (R348, R355). -/
def Tray.shufKind3 (t : Tray) (c : Nat) (p : RingPkt) : Tray :=
  let tb := rXfer p / 2 ^ 16 % 256
  let seq := rXfer p % 65536
  let rank := rAddr p % 64
  let n := rAddr p / 2 ^ 6 % 4096 + 1
  let off := rAddr p / 2 ^ 18
  if rEpoch p ≠ t.tEpoch c tb then t.charge c (rSeat p) N.STALE 1
  else
    let data := p.pay.take n
    let stage := t.modTable c tb (fun x => { x with shuf := x.shuf ++ [⟨seq, rank, ringCh, off, data⟩] })
    match (t.table c tb).findOp seq with
    | some o => if o.failed then t else if o.started then t.shufStaged c tb seq rank off data else stage
    | none => if t.tst c tb = T.ACTIVE ∧ seq = t.opNext c tb then stage else t

/-- LUMP_EXPIRY of a staged MODE 1 packet: the oldest of the operation and port (R275, R340). -/
def Tray.shufExpiry (t : Tray) (c tb op e : Nat) : Tray :=
  match (t.table c tb).shuf.find? (fun x => x.op == op && x.port == e && x.ch != ringCh) with
  | none => t
  | some l =>
    let t1 := t.modTable c tb (fun x => { x with shuf := x.shuf.erase l, doomed := x.doomed ++ [op] })
    (t1.sat (tblPg c tb) F.TBL_CONTRIB_ERR_EXPIRED 1).charge c (t.tSeat c tb) N.STALE 1

end Sys2Proof.Machine
end

