-- ==== Sys2Proof/Machine/Receive.lean ====
section
/-! DEFINITION. Arrival of packets on a port: header and seat checks (R155, R157, R209, R365), accounting (R484), the
flit parser (R148–R152), and what the port agent does with the packets it consumes (R173–R176, R340). -/
namespace Sys2Proof.Machine

/-! ### Header checks -/

/-- A packet is a BAD_PKT (R155). -/
def Tray.badPkt (t : Tray) (c e : Nat) : Tray := t.sat (portPg c e) F.PORT_RX_ERR_BAD_PKT 1

/-- The seat check of R365 on a packet arriving at port `e`. -/
def Tray.seatPasses (t : Tray) (c e : Nat) (h : Flit) : Bool :=
  let pg := seatPg c (hSeat h)
  let memb := t.gf pg F.SEAT_MEMB_MEMB
  t.is pg F.SEAT_CFG_VALID && bitOf memb e && (hDstKind h != 0 || bitOf memb (hDst h))

/-- A packet that fails the seat check: counted, the first one held (R365). -/
def Tray.seatReject (t : Tray) (c e : Nat) (h : Flit) : Tray :=
  let pg := seatPg c 0
  let t1 := (t.badPkt c e).charge c 0 N.SEAT_REJECT 1
  if t1.is pg F.SEAT_REJ_CAPT_VALID then t1
  else (t1.wr pg A.SEAT_REJ_CAPT (BitVec.ofNat 64
    (e + 2 ^ 6 * hSeat h + 2 ^ 12 * hDst h + 2 ^ 24 * hDstKind h + 2 ^ 63))).raise pg 8

/-- Members of a multicast packet: the group's, without the arrival port unless SELF, without ports outside the seat
(R209, R365). Answers them and how many were removed by the seat. -/
def Tray.mcMembers (t : Tray) (c e : Nat) (h : Flit) : List Nat × Nat :=
  match t.mcgOf c h with
  | none => ([], 0)
  | some g =>
    let l := (bitsOf 64 g.members).filter (fun f => f != e || g.selfIn)
    let memb := t.gf (seatPg c (hSeat h)) F.SEAT_MEMB_MEMB
    (l.filter (fun f => bitOf memb f), (l.filter (fun f => !bitOf memb f)).length)

/-- The agent of the arrival port consumes the packet. -/
def consumed (h : Flit) : Bool := hDstKind h == 2

/-- Whose bytes a packet's flits are: its seat's, seat 0's where the seat check fails, nobody's for a BAD_PKT. -/
def Tray.payer (t : Tray) (c e : Nat) (h : Flit) : Option Nat :=
  if ¬ hdrAllowed h then none else if t.seatPasses c e h then some (hSeat h) else some 0

/-- Flit bytes of a packet being received (R484). -/
def Tray.rxBytes (t : Tray) (c e n : Nat) (h : Flit) : Tray :=
  match t.payer c e h with
  | none => t
  | some m => t.charge c m N.RX_BYTES n

/-- A packet header arrives: it is checked, counted, and enters the switch core or waits for its payload. -/
def Tray.pktStart (t : Tray) (c e : Nat) (h : Flit) : RxPkt × Tray :=
  let dead := fun (t : Tray) => (({ hdr := h, dead := true } : RxPkt), t)
  if ¬ hdrAllowed h ∨ (hDstKind h = 1 ∧ t.seatPasses c e h ∧ t.mcgOf c h = none) then dead (t.badPkt c e)
  else
    let t0 := t.rxBytes c e 64 h
    let t1 := match t0.payer c e h with | some m => t0.charge c m N.RX_PKTS 1 | none => t0
    if ¬ t.seatPasses c e h then dead (t1.seatReject c e h)
    else if consumed h then ({ hdr := h }, t1)
    else
      let mem := if hDstKind h = 1 then t.mcMembers c e h else ([], 0)
      let t2 := t1.charge c 0 N.SEAT_REJECT mem.2
      if hDstKind h = 1 ∧ mem.1 = [] then dead t2
      else
        let r := t2.enterCore c e h mem.1
        ({ hdr := h, core := some r.1 }, r.2.coreFlits c r.1 [])

/-- A payload flit of a packet arrives; `lit`: as a literal BREAK (R148, R484). -/
def Tray.pktFlit (t : Tray) (c e : Nat) (r : RxPkt) (f : Flit) (lit : Bool) : RxPkt × Tray :=
  let r1 := { r with pay := r.pay ++ [f] }
  let t1 := t.rxBytes c e (if lit then 128 else 64) r.hdr
  let t2 := if lit then (match t1.payer c e r.hdr with
    | some m => t1.charge c m N.BREAK_LIT 1
    | none => t1) else t1
  match r.core with
  | some id => (r1, t2.coreFlits c id [f])
  | none => (r1, t2)

/-- The packet being received is complete. -/
def RxPkt.whole (r : RxPkt) : Bool := decide (flitsOf (hLen r.hdr) ≤ r.pay.length)

/-! ### Compressed circuit payloads (R356, R357) -/

/-- Length of a compressed block from its header byte; none: a reserved value. -/
def cmpLen (b : Nat) : Option Nat :=
  let mode := b % 4
  let w := ([0, 1, 2, 4][b / 4 % 4]?).getD 0
  if 64 ≤ b then none
  else match mode with
    | 0 => some 257
    | 1 => some 1
    | 2 =>
      (match b / 16 % 4 with
       | 0 => some (2 + ceilDiv (64 * (1 + w + 23)) 8)
       | 1 => some (2 + ceilDiv (128 * (1 + w + 7)) 8)
       | 2 => some (2 + ceilDiv (128 * (1 + w + 10)) 8)
       | _ => none)
    | _ => none

/-- Blocks parsed from a payload, and whether they fill it without a reserved header. -/
def cmpParse : Nat → List Byte → Nat × Bool
  | _, [] => (0, true)
  | 0, _ => (0, false)
  | fuel + 1, b :: l =>
    match cmpLen b.toNat with
    | none => (0, false)
    | some n =>
      if l.length + 1 < n then (0, false)
      else
        let r := cmpParse fuel (l.drop (n - 1))
        (r.1 + 1, r.2)

/-- A payload of a circuit with CMP = 1 is counted (R357). -/
def Tray.cmpCount (t : Tray) (c : Nat) (h : Flit) (e : Nat) (pay : List Byte) : Tray :=
  match t.circOf c e h with
  | none => t
  | some k =>
    match Assoc.get (fun _ => none) (t.chip c).circs k with
    | none => t
    | some x =>
      if x.cmp = 0 then t
      else
        let r := cmpParse 16 pay
        let ok := r.2 && r.1 != 0
        let y : Circ := { x with
          xbytes := (x.xbytes + 256 * r.1) % 2 ^ 64
          xerr := if ok then x.xerr else x.xerr + 1 }
        t.modChip c (fun ch => { ch with
          circs := Assoc.set (fun _ => none) ch.circs k (some y) })

/-! ### Packets the agent consumes -/

/-- What an acknowledgement completes (R174). -/
def Tray.ownerDone (t : Tray) (c : Nat) (o : Owner) : Tray :=
  match o with
  | .result tb op j ep => t.resultDone c tb op j ep
  | _ => t

/-- An ACK or NAK with DST_KIND 2 (R174, R175). -/
def Tray.ackPacket (t : Tray) (c e : Nat) (p : Pkt) : Tray :=
  let a := hArg p.hdr
  let ch := a % 8
  let seq := a / 2 ^ 8 % 2 ^ 24
  if ¬ pE2eOk p then t.sat (portPg c e) F.PORT_RX_ERR_E2E_CRC 1
  else
    match t.ackApply c e ch seq with
    | none => t.badPkt c e
    | some (os, t1) =>
      let t2 := if hPtype p.hdr = P.NAK then t1.resend c e ch else t1
      (os.foldl (fun t o => t.ownerDone c o) t2).dealerSweep c

/-- What the agent does with a sequenced packet that the transport has accepted. -/
def Tray.agentAct (t : Tray) (c e : Nat) (p : Pkt) : Tray :=
  match hPtype p.hdr with
  | 2 => t.snapPacket c e p
  | 5 => t.cmdPacket c e p
  | 6 => t.contribPacket c e p
  | 11 =>
    let mode := hAddr p.hdr / 2 ^ 60
    if mode = 0 then t.inboxPacket c e p else if mode = 1 then t.shufArrive c e p else t.modeBad c e p
  | _ => t

/-- A packet is complete (R157). -/
def Tray.pktDone (t : Tray) (c e : Nat) (r : RxPkt) : Tray :=
  let p : Pkt := ⟨r.hdr, r.pay⟩
  if r.dead then t
  else
    match r.core with
    | some _ =>
      (if pE2eOk p then t else t.sat (portPg c e) F.PORT_RX_ERR_E2E_CRC 1).cmpCount c r.hdr e (pBytes p)
    | none =>
      if hPtype r.hdr = P.ACK ∨ hPtype r.hdr = P.NAK then t.ackPacket c e p
      else
        let x := t.transport c e p
        if x.1 then (x.2.agentAct c e p).dealerSweep c else x.2

/-! ### The flit parser (R148–R152) -/

def Tray.setRx (t : Tray) (c e : Nat) (x : RxSt) : Tray := t.modPort c e (fun p => { p with rx := x })

/-- The rest of the packets being received is lost. -/
def Tray.rxLost (t : Tray) (c e : Nat) : Tray :=
  let x := (t.port c e).rx
  let one := fun (t : Tray) (r : Option RxPkt) => match r.bind (fun r => r.core) with | some id => t.coreLost c id | none => t
  (one (one t x.cur) x.ins).setRx c e { hunt := x.hunt }

/-- The receiver enters HUNT: counted; FRAME rising from 0 raises its interrupt (R152). -/
def Tray.enterHunt (t : Tray) (c e : Nat) : Tray :=
  let pg := portPg c e
  let t1 := if t.gf pg F.PORT_RX_ERR_FRAME = 0 then (t.sat pg F.PORT_RX_ERR_FRAME 1).raise pg 27
    else t.sat pg F.PORT_RX_ERR_FRAME 1
  (t1.rxLost c e).setRx c e { hunt := true }

/-- HUNT because of a header: a failing HDR_CRC is counted. -/
def Tray.huntHdr (t : Tray) (c e : Nat) (h : Flit) : Tray :=
  (if hdrOk h then t else t.sat (portPg c e) F.PORT_RX_ERR_HDR_CRC 1).enterHunt c e

/-- The header passes HDR_CRC and LEN. -/
def hdrParses (h : Flit) : Bool := hdrOk h && decide (hLen h ≤ 4096)

/-- A RESUME header matches the packet in progress (R150). -/
def resumes (h : Flit) (r : RxPkt) : Bool :=
  hSrc h == hSrc r.hdr && hDst h == hDst r.hdr && hDstKind h == hDstKind r.hdr && hCh h == hCh r.hdr &&
  hSeat h == hSeat r.hdr && hSeq h == hSeq r.hdr && hArg h % 128 + r.pay.length == flitsOf (hLen r.hdr)

/-- A packet begins at a header position (`ins`: inserted). -/
def Tray.rxBegin (t : Tray) (c e : Nat) (h : Flit) (ins : Bool) : Tray :=
  let r := t.pktStart c e h
  let x := (r.2.port c e).rx
  let y := if ins then { x with ins := some r.1, brk := false } else { x with cur := some r.1, hunt := false, brk := false }
  let t1 := (r.2.setRx c e y).tc0Check c e
  if r.1.whole then (t1.setRx c e (if ins then { y with ins := none } else { y with cur := none })).pktDone c e r.1 else t1

/-- A header at a header position, `sync`: at a sync slot. -/
def Tray.rxHeader (t : Tray) (c e : Nat) (h : Flit) (sync : Bool) : Tray :=
  let x := (t.port c e).rx
  if h = breakFlit then t.enterHunt c e
  else if ¬ hdrParses h then t.huntHdr c e h
  else if hPtype h = P.IDLE then (if sync then t.rxLost c e else t).setRx c e {}
  else if hPtype h = P.RESUME then
    if ¬ sync then t.badPkt c e
    else
      match x.cur with
      | some r =>
        if resumes h r then t.setRx c e { x with hunt := false }
        else (t.rxLost c e).setRx c e { hunt := false, skip := hArg h % 128 }
      | none => t.setRx c e { hunt := false, skip := if x.skip = 0 then hArg h % 128 else x.skip }
  else if sync then ((t.rxLost c e).setRx c e {}).rxBegin c e h false
  else t.rxBegin c e h false

/-- A payload flit of the packet in progress, the inserted packet, or one that is skipped. -/
def Tray.rxPayload (t : Tray) (c e : Nat) (f : Flit) (lit : Bool) : Tray :=
  let x := (t.port c e).rx
  let go := fun (r : RxPkt) (put : Option RxPkt → RxSt) =>
    let s := t.pktFlit c e r f lit
    let t1 := s.2.setRx c e (put (some s.1))
    if s.1.whole then (t1.setRx c e (put none)).pktDone c e s.1 else t1.tc0Check c e
  match x.ins, x.cur with
  | some r, _ => go r (fun o => { x with ins := o, brk := false })
  | none, some r => go r (fun o => { x with cur := o, brk := false })
  | none, none => t.setRx c e { x with skip := x.skip - 1, brk := false }

/-- FLIT_RECEIVE: the next flit of the received stream. -/
def Tray.flitReceive (t : Tray) (c e : Nat) (f : Flit) (sync : Bool) : Tray :=
  let x := (t.port c e).rx
  let atPayload := x.cur.isSome || x.ins.isSome || decide (0 < x.skip)
  if ¬ t.up c e ∨ ¬ (t.chip c).coreUp then t
  else if sync then t.rxHeader c e f true
  else if x.hunt then t
  else if x.brk then
    if f = breakFlit then t.rxPayload c e f true
    else if ¬ hdrParses f ∨ x.ins.isSome then t.huntHdr c e f
    else if hPtype f = P.IDLE then t.setRx c e { x with brk := false }
    else t.rxBegin c e f true
  else if atPayload then
    if f = breakFlit then t.setRx c e { x with brk := true } else t.rxPayload c e f false
  else t.rxHeader c e f false

/-- A packet arrives whole at port `e`: what its flits do one after the other, the parser's own packet aside. -/
def Tray.arrive (t : Tray) (c e : Nat) (p : Pkt) : Tray :=
  if ¬ t.up c e ∨ ¬ (t.chip c).coreUp ∨ p.pay.length ≠ flitsOf (hLen p.hdr) then t
  else if ¬ hdrParses p.hdr then t.huntHdr c e p.hdr
  else if hPtype p.hdr = P.IDLE ∨ hPtype p.hdr = P.RESUME then t
  else
    let s := t.pktStart c e p.hdr
    let r := p.pay.foldl (fun (a : RxPkt × Tray) f => a.2.pktFlit c e a.1 f (f == breakFlit)) s
    r.2.pktDone c e r.1

/-- A packet of one of the types `ok` arrives; another packet is not this command's. -/
def Tray.arriveAs (t : Tray) (c e : Nat) (p : Pkt) (ok : Flit → Bool) : Tray := if ok p.hdr then t.arrive c e p else t

/-! ### ECC errors in tensor SRAM and HBM (R360) -/

/-- SRAM_ECC_ERROR. -/
def Tray.sramEcc (t : Tray) (c : Nat) (w : EccPlace) : Tray :=
  let t1 := ((t.cnt (dlrPg c) F.DLR_ECC_UNCORR 1).raise (dlrPg c) 9).logChip .ecc c [2]
  match w with
  | .collective tb op => (t1.failOp c tb op.toNat).dealerSweep c
  | .jobData j => if t.jobState c j = J.IDLE then t1 else t1.jobEnd c j JS.MEM_UNCORR 0
  | .grantLine l =>
    let k := (c * 2 ^ 40 + sramBase + 64 * l.toNat) / 64
    t1.modDealer c (fun d => if d.poison.contains k then d else { d with poison := d.poison ++ [k] })

end Sys2Proof.Machine
end

