-- ==== Sys2Proof/Machine/Circuits.lean ====
section
/-! DEFINITION. Circuits (R183–R186), multicast groups (R209, R225), errors in the kitty (R215), items that reach their
age limit (R108), parity errors in dual-clock FIFOs (R69). -/
namespace Sys2Proof.Machine

/-! ### Circuits -/

/-- Page of the circuits. -/
def circPg (c : Nat) : Nat := chipPg c 0x3C0

/-- Circuit `k`. -/
def Tray.circ (t : Tray) (c k : Nat) : Option Circ := Assoc.get (fun _ => none) (t.chip c).circs k
def Tray.setCirc (t : Tray) (c k : Nat) (x : Option Circ) : Tray :=
  t.modChip c (fun ch => { ch with circs := Assoc.set (fun _ => none) ch.circs k x })

/-- The circuits in existence. -/
def Tray.circList (t : Tray) (c : Nat) : List (Nat × Circ) :=
  (t.chip c).circs.filterMap (fun a => a.2.map (fun x => (a.1, x)))

/-- Slots of a port's frame that circuits hold, as input or as output. -/
def Tray.slotsIn (t : Tray) (c e : Nat) : Nat := sumL (((t.circList c).filter (fun a => a.2.inPort == e)).map (fun a => a.2.slots))
def Tray.slotsOut (t : Tray) (c f : Nat) : Nat := sumL (((t.circList c).filter (fun a => a.2.outPort == f)).map (fun a => a.2.slots))

/-- The circuit that CIRC_SEL selects. -/
def Tray.circSel (t : Tray) (c : Nat) : Nat := t.gf (circPg c) F.CIRC_SEL_IDX

/-- An operation of the circuit page ends with a RESULT. -/
def Tray.circDone (t : Tray) (c res : Nat) : Tray :=
  ((t.sf (circPg c) F.CIRC_OP_RESULT res).sb (circPg c) F.CIRC_OP_BUSY false).sb (circPg c) F.CIRC_OP_DONE true

/-- CIRC_ENT_WRITE: the fields of the selected circuit, reserved encodings keeping their values; refused while it exists
(R186, R13). -/
def Tray.circEnt (t : Tray) (c : Nat) (v : Word) (o : Origin) : Tray :=
  let pg := circPg c
  if (t.circ c (t.circSel c)).isSome then t.recErr pg 0x40 o
  else
    let ch := F.CIRC_ENT_CH.get v
    let sl := F.CIRC_ENT_SLOTS.get v
    let badCh := ch < 5
    let badSl := sl = 0 ∨ 128 < sl
    let v0 := v &&& maskW 32
    let v1 := if badCh then F.CIRC_ENT_CH.put v0 (t.gf pg F.CIRC_ENT_CH) else v0
    let v2 := if badSl then F.CIRC_ENT_SLOTS.put v1 (t.gf pg F.CIRC_ENT_SLOTS) else v1
    (if badCh ∨ badSl then t.recErr pg E.RESERVED_ENC o else t).wr pg A.CIRC_ENT v2

/-- The RESULT of a SETUP of the selected circuit (R183, R186, R460). -/
def Tray.setupResult (t : Tray) (c : Nat) (x : Circ) : Nat :=
  if t.service ≠ 0 then 5
  else if (t.circ c (t.circSel c)).isSome then 3
  else if (t.circList c).any (fun a => a.2.inPort == x.inPort && a.2.outPort == x.outPort && a.2.seat == x.seat &&
      a.2.ch == x.ch) then 2
  else if ¬ t.up c x.inPort ∨ ¬ t.up c x.outPort then 4
  else if 128 < t.slotsIn c x.inPort + x.slots ∨ 128 < t.slotsOut c x.outPort + x.slots then 1
  else 0

/-- CIRC_SETUP. -/
def Tray.circSetup (t : Tray) (c : Nat) (o : Origin) : Tray :=
  let pg := circPg c
  if t.is pg F.CIRC_OP_BUSY then t.recErr pg 0x40 o
  else
    let f := fun (x : Fld) => t.gf pg x
    let x : Circ := { inPort := f F.CIRC_ENT_IN_PORT, outPort := f F.CIRC_ENT_OUT_PORT, seat := f F.CIRC_ENT_SEAT,
                      ch := f F.CIRC_ENT_CH, slots := f F.CIRC_ENT_SLOTS, slice := f F.CIRC_ENT_SLICE,
                      cmp := f F.CIRC_ENT_CMP }
    let r := t.setupResult c x
    (if r = 0 then t.setCirc c (t.circSel c) (some x) else t).circDone c r

/-- Circuit `k` is torn down: its staged packets pass through the scheduler (R185). -/
def Tray.circDrop (t : Tray) (c k : Nat) : Tray :=
  (t.setCirc c k none).setPkts c ((t.pkts c).map (fun p => if p.circ = some k then { p with circ := none } else p))

/-- CIRC_TEARDOWN. -/
def Tray.circTeardown (t : Tray) (c : Nat) (o : Origin) : Tray :=
  if t.is (circPg c) F.CIRC_OP_BUSY then t.recErr (circPg c) 0x40 o else (t.circDrop c (t.circSel c)).circDone c 0

/-- Circuits of a port are torn down: it has left UP (R185). -/
def Tray.circPortDown (t : Tray) (c e : Nat) : Tray :=
  t.each ((t.circList c).filter (fun a => a.2.inPort == e || a.2.outPort == e)) (fun t a => t.circDrop c a.1)

/-! ### Multicast groups (R225) -/

/-- Page of the groups. -/
def mcgPg (c : Nat) : Nat := chipPg c 0x061

/-- KIT_MCG_OP.DONE. -/
def Tray.mcgDone (t : Tray) (c : Nat) : Tray :=
  (t.sb (mcgPg c) F.KIT_MCG_OP_BUSY false).sb (mcgPg c) F.KIT_MCG_OP_DONE true

/-- MCG_WRITE: the holding registers become group IDX. -/
def Tray.mcgWrite (t : Tray) (c : Nat) : Tray :=
  let pg := mcgPg c
  let g : Mcg := { valid := t.is pg F.KIT_MCG_ENT_VALID, selfIn := t.is pg F.KIT_MCG_ENT_SELF,
                   seat := t.gf pg F.KIT_MCG_ENT_SEAT, members := t.gf pg F.KIT_MCG_MEMB_MEMBERS }
  (t.modChip c (fun ch => { ch with
    mcgs := Assoc.set (fun _ => {}) ch.mcgs (t.gf pg F.KIT_MCG_SEL_IDX) g })).mcgDone c

/-- MCG_READ: group IDX is loaded into the holding registers. -/
def Tray.mcgRead (t : Tray) (c : Nat) : Tray :=
  let pg := mcgPg c
  let g := Assoc.get (fun _ => {}) (t.chip c).mcgs (t.gf pg F.KIT_MCG_SEL_IDX)
  ((((t.sb pg F.KIT_MCG_ENT_VALID g.valid).sb pg F.KIT_MCG_ENT_SELF g.selfIn).sf pg F.KIT_MCG_ENT_SEAT g.seat).sf pg
    F.KIT_MCG_MEMB_MEMBERS g.members).mcgDone c

/-! ### The kitty's ECC (R215) -/

/-- KITTY_ECC_ERROR: a packet not yet started is discarded; one in transmission goes on with zero flits from the bad
one. -/
def Tray.kittyEcc (t : Tray) (c : Nat) (id : Option Nat) (flit : Nat) : Tray :=
  let pg := chipPg c 0x060
  let t1 := (t.cnt pg F.KIT_ECC_UNCORR 1).raise pg 8
  match id with
  | none => t1
  | some i =>
    match t1.findPkt c i with
    | none => t1
    | some p =>
      let t2 := t1.charge c p.seat N.DOWN_DROP 1
      if p.copies.any (fun x => x.started) then
        t2.modPkt c i (fun p => { p with
          copies := p.copies.filter (fun x => x.started), residue := [], inResidue := false, judged := true,
          zeroFrom := some (match p.zeroFrom with | some y => min y flit | none => flit) })
      else t2.discard c i

/-! ### Age limit (R108) -/

/-- An operation's RESULT is lost: the operation ends with DATA_FAIL. -/
def Tray.ownerLost (t : Tray) (c : Nat) (o : Owner) : Tray :=
  match o with
  | .result tb op _ ep => if ep = t.tEpoch c tb then t.failOp c tb op else t
  | _ => t

/-- ITEM_AGE_EXPIRY: the item is discarded and counted as stale; a residue entry's members count in KIT_MC_DROP (R108,
R212). -/
def Tray.itemAge (t : Tray) (c : Nat) (it : AgedItem) : Tray :=
  match it with
  | .core id =>
    (match t.findPkt c id with
     | none => t
     | some p => (t.charge c p.seat N.STALE 1).discard c id)
  | .replay e ch seq =>
    if t.pst c e ≠ S.UP then t
    else
      (match (t.port c e).replay.find? (fun r => r.ch == ch.val && r.seq == seq) with
       | none => t
       | some r =>
         let t1 := (t.modPort c e (fun p => { p with replay := p.replay.erase r })).syncReplay c e
         ((t1.charge c (hSeat r.pkt.hdr) N.STALE 1).ownerLost c r.owner).dealerSweep c)
  | .residue id =>
    (match t.findPkt c id with
     | none => t
     | some p =>
       if ¬ p.inResidue then t
       else
         let t1 := (t.charge c p.seat N.STALE 1).sat (mcgPg c) F.KIT_MC_DROP_MEMBERS p.residue.length
         (t1.modPkt c id (fun p => { p with residue := [], inResidue := false })).updResv c p.inPort)
  | .inbox i e =>
    let x := t.inbox c i
    (match x.held.find? (fun h => h.1 == e.val) with
     | none => t
     | some h => (t.setInbox c i { x with held := x.held.erase h }).charge c (hSeat h.2.hdr) N.STALE 1)

/-! ### Crossing parity (R69) -/

/-- CROSS_PARITY: a register write is lost and recorded; a packet or contribution is dropped and counted. -/
def Tray.crossParity (t : Tray) (c : Nat) (e : CrossEntry) : Tray :=
  match e with
  | .regWrite pg off =>
    if pageKind (chipPg c pg.toNat) = none then t
    else t.recErr (chipPg c pg.toNat) E.CROSS_PARITY (Origin.wr 0 off.toNat)
  | .packet e =>
    (match (t.port c e).rx.cur with
     | some r =>
       if r.dead then t
       else
         let t1 := (match r.core with | some id => t.coreLost c id | none => t)
         (t1.modPort c e (fun p => { p with rx := { p.rx with cur := p.rx.cur.map (fun q => { q with
           dead := true
           core := none }) } })).charge c (hSeat r.hdr) N.CROSS_PARITY 1
     | none => t)
  | .contribution tb => t.charge c (t.tSeat c tb) N.CROSS_PARITY 1

end Sys2Proof.Machine
end

