-- ==== Sys2Proof/Machine/Abort.lean ====
section
/-! DEFINITION. Aborts (R103–R109): tables (R264, R291, R292), ports leaving the live states (R122, R132, R185, R213),
the Dealer (R359), spill streams, circuits, and the whole-chip quiesce (R109, R214). -/
namespace Sys2Proof.Machine

/-- The abort of a page takes effect: the epoch advances by one, modulo 2^16 (R105, R107). -/
def Tray.startAbort (t : Tray) (pg : Nat) : Tray :=
  (((t.cnt pg F.PG_ABORT_STS_EPOCH 1).sb pg F.PG_ABORT_STS_DONE false).sb pg F.PG_ABORT_STS_IN_PROGRESS true).sf pg
    F.PG_ABORT_STS_ELAPSED_US 0

/-- An abort of the page is in progress (R106). -/
def Tray.aborting (t : Tray) (pg : Nat) : Bool := t.is pg F.PG_ABORT_STS_IN_PROGRESS

/-! ### Owned packets -/

/-- Packets of an owner leave the waiting lists of every port; replay entries are freed, their acknowledgements stale
(R104, R291). -/
def Tray.freeOwned (t : Tray) (c : Nat) (own : Owner → Bool) : Tray :=
  t.each (List.range 64) (fun t e =>
    let p := t.port c e
    if p.owns own then
      (t.setPort c e { p with
        origq := p.origq.filter (fun o => !own o.owner),
        replay := p.replay.map (fun r => if own r.owner then { r with freed := true } else r) }).syncReplay c e
    else t)

/-- What a table owns. -/
def Owner.ofTable (tb : Nat) : Owner → Bool
  | .result tb' _ _ _ => tb == tb'
  | .cpl tb' _ => tb == tb'
  | .snap tb' _ => tb == tb'
  | _ => false

/-! ### Table abort (R264, R291) -/

/-- The table has work: held commands, operations, payloads of the snap path, records not issued (R261). -/
def Tray.tableBusy (t : Tray) (c tb : Nat) : Bool :=
  let x := t.table c tb
  !x.ops.isEmpty || !x.tricks.isEmpty || !x.staged.isEmpty || !x.shuf.isEmpty || !x.snap0.isEmpty || !x.snap1.isEmpty ||
  x.wins.any (fun a => a.2.heldCnt != 0)

/-- A window at a table abort: held commands retired, slots unwritten, waiting records gone; the CQ stays. -/
def Win.abort (w : Win) : Win :=
  { w with slots := [], ci := w.pi, head := w.pi, waitErr := none, waitDb := none, waitOps := [] }

/-- The table abort: `st` is ABORTED or MEMBER_DOWN, `skip` the member that left. -/
def Tray.tableAbort (t : Tray) (c tb st : Nat) (skip : Option Nat) : Tray :=
  let pg := tblPg c tb
  if t.aborting pg then t
  else
    let x := t.table c tb
    let ms := t.tMembers c tb
    let held := ms.map (fun e => (e, (t.win c tb e).heldCnt))
    let was := t.tst c tb
    let t1 := (t.startAbort pg).freeOwned c (Owner.ofTable tb)
    let t2 := t1.setTable c tb { res := x.res, wins := x.wins.map (fun a => (a.1, a.2.abort)), snap0 := x.snap0,
                                 snap1 := x.snap1 }
    let t3 := t2.each x.ops (fun t o => t.slotEnded c o.launch st)
    let t4 := ((t3.sf pg F.TBL_STS_OP_NEXT 0).each (List.range 16) (fun t i => t.sf pg (ctrFld i) 0)).snapAbort c tb
    let t5 := (t4.sb pg F.TBL_STS_WAIT_MEMBER false).sb pg F.TBL_STS_CQ_WAIT false
    let t6 := if was = T.FREE then t5 else (t5.sf pg F.TBL_STS_STATE T.ABORTING).raise pg 11
    let t7 := t6.each (held.filter (fun a => skip ≠ some a.1)) (fun t a => t.tableEvent c tb a.1 st a.2)
    (if st = St.MEMBER_DOWN then t7.raise pg 9 else t7).dealerSweep c

/-- TABLE_ABORT: PG_ABORT.GO on the table page. -/
def Tray.tableAbortGo (t : Tray) (c tb : Nat) : Tray := t.tableAbort c tb St.ABORTED none

/-- DONE of a table abort: ACTIVE again under the new epoch, or the reservation is returned and the table is FREE
(R263, R264). -/
def Tray.tableAbortDone (t : Tray) (c tb : Nat) : Tray :=
  let pg := tblPg c tb
  if t.tst c tb ≠ T.ABORTING then t
  else if t.enabled pg then (t.sf pg F.TBL_STS_STATE T.ACTIVE).raise pg 11
  else ((t.sf pg F.TBL_STS_STATE T.FREE).modTable c tb (fun x => { x with res := [], wins := [] })).raise pg 11

/-! ### Ports -/

/-- Causes of PORT_TRAIN_STS.CAUSE (R123). -/
def Cz.LOS : Nat := 1
def Cz.SIGNAL_TIMEOUT : Nat := 2
def Cz.TUNE_TIMEOUT : Nat := 3
def Cz.ALIGN_TIMEOUT : Nat := 4
def Cz.SKEW : Nat := 5
def Cz.LANE_ORDER : Nat := 6
def Cz.IDENT_TIMEOUT : Nat := 7
def Cz.WIRING : Nat := 8
def Cz.CABLE_LENGTH : Nat := 9
def Cz.FOM_FAIL : Nat := 10
def Cz.FLOOD_TIMEOUT : Nat := 11
def Cz.CART : Nat := 12
def Cz.TX_PLL : Nat := 13
def Cz.ABORT : Nat := 14
def Cz.PARTNER : Nat := 15
def Cz.MEASURE_TIMEOUT : Nat := 16
def Cz.LASER_FAIL : Nat := 17

/-- Causes that lead to HELD (R122). -/
def heldCause (c : Nat) : Bool := c == Cz.LANE_ORDER || c == Cz.WIRING || c == Cz.CABLE_LENGTH || c == Cz.CART

/-- LANE_STS.STATE that goes with a state of the port: 0 OFF, 1 ACQUIRE, 2 TRAIN, 3 LOCKED, 5 DIAG; a frozen lane (4) stays
so until UP (R129, R145). -/
def laneStateOf (st : Nat) : Nat :=
  if st = S.DISABLED ∨ st = S.HELD ∨ st = S.HOLDOFF then 0
  else if st = S.DOWN ∨ st = S.SIGNAL then 1
  else if st = S.TUNE ∨ st = S.RETRAIN then 2
  else if st = S.DIAG then 5
  else 3

/-- The port's lanes show its state. -/
def Tray.showLanes (t : Tray) (c e st : Nat) : Tray :=
  t.each (List.range 4) (fun t j =>
    let pg := lanePg c (4 * e + j)
    let frozen := decide (t.gf pg F.LANE_STS_STATE = 4)
    let v := laneStateOf st
    if frozen ∧ (st = S.FLOOD_HOLD ∨ st = S.RETRAIN) then t
    else
      let t1 := t.sf pg F.LANE_STS_STATE v
      if v < 2 then ((t1.sb pg F.LANE_STS_CDR_LOCK false).sb pg F.LANE_STS_CW_LOCK false)
      else if v = 2 then t1.sb pg F.LANE_STS_CW_LOCK false
      else t1)

/-- The state of the port changes (R122): STATE_CHANGE, the lanes, CHIP_WIRE_OK. -/
def Tray.setPst (t : Tray) (c e st : Nat) : Tray :=
  let pg := portPg c e
  if t.pst c e = st then t
  else
    let ok := t.gf (chip0 c) F.CHIP_WIRE_OK_WIRE_OK
    ((((t.sf pg F.PORT_TRAIN_STS_STATE st).raise pg 21).showLanes c e st).sf (chip0 c) F.CHIP_WIRE_OK_WIRE_OK
      (putBitOf ok e (st == S.UP)))

/-- The port leaves UP, FLOOD_HOLD and RETRAIN through its port abort: queues flushed, circuits torn down, streams and
replay store emptied, tables with work at it aborted (R104, R122, R185, R213, R261). -/
def Tray.portDrop (t : Tray) (c e : Nat) : Tray :=
  let p := t.port c e
  -- sparing in progress ends without a result
  let t0 := if p.spareLane.isSome then (t.sb (portPg c e) F.PORT_SPARE_BUSY false).raise (portPg c e) 23 else t
  let t1 := t0.setPort c e { (p : PortSt) with
    linkOk := false, peerLinkOk := false, remeasuring := false, tokens := [], echoes := [], floodOwn := false,
    floodPeer := false, spareLane := none, groupSeen := [], groupGood := false, xoffForced := false, xoffRx := 0,
    xoffKit := 0, xoffStage := false, refused := [], rx := {}, tx := {}, rxExp := [], nakSent := [], unacked := [],
    rxSeat := [], txUna := [], txNxt := [], retries := [], replay := [], origq := [], snapq := [], sub := 0 }
  let t2 := ((t1.syncReplay c e).flushOutput c e).flushInput c e
  let t3 := (t2.modDealer c (fun d => { d with
    inboxes := d.inboxes.map (fun a => (a.1, { a.2 with held := a.2.held.filter (fun h => h.1 != e) })) })).circPortDown c e
  let tbs := (t3.tablesOf c).filter (fun a => t3.tst c a.1 == T.ACTIVE && t3.isMember c a.1 e && t3.tableBusy c a.1)
  (t3.each tbs (fun t a => t.tableAbort c a.1 St.MEMBER_DOWN (some e)))

/-- The port goes to `st` with a cause, from any state; what it carried is dropped where it was live (R122, R123). -/
def Tray.portTo (t : Tray) (c e st cause : Nat) : Tray :=
  let pg := portPg c e
  let was := t.live c e
  let t1 := (t.setPst c e st).sf pg F.PORT_TRAIN_STS_CAUSE cause
  let t2 := if was then
    (if t1.aborting pg then t1 else t1.startAbort pg).portDrop c e
  else t1.modPort c e (fun p => { p with
    linkOk := false, peerLinkOk := false, remeasuring := false, tokens := [], echoes := [], sub := 0, rx := {}, tx := {},
    groupSeen := [], groupGood := false, xoffForced := false, xoffRx := 0 })
  let t3 := (t2.stormEnd c e).updResv c e
  t3.each (List.range 4) (fun t j => t.modLane c (4 * e + j) (fun l => { l with
    alignRun := 0, peerReq := 0, ackOut := 0, ownReq := 0, ownAck := 0, readyRun := 0, switchOut := false,
    switchIn := false }))

/-- The state a port goes to when it leaves the live states: DISABLED, DIAG, HELD, or DOWN to train from presets. -/
def Tray.leaveTo (t : Tray) (c e cause : Nat) : Nat :=
  if ¬ t.enabled (portPg c e) then S.DISABLED
  else if t.is (portPg c e) F.PORT_TRAIN_CTL_DIAG then S.DIAG
  else if heldCause cause then S.HELD
  else S.DOWN

/-- A live port leaves with a cause, performing its port abort. -/
def Tray.portLeave (t : Tray) (c e cause : Nat) : Tray := t.portTo c e (t.leaveTo c e cause) cause

/-- PORT_ABORT: PG_ABORT.GO on the port page. A port that holds no work only advances its epoch (R106). -/
def Tray.portAbort (t : Tray) (c e : Nat) : Tray :=
  let pg := portPg c e
  if t.aborting pg then t
  else if t.live c e then t.portLeave c e Cz.ABORT
  else t.startAbort pg

/-! ### The Dealer, spill streams, circuits, the dump -/

/-- DEALER_ABORT_ALL: every slot aborts (R359). -/
def Tray.dealerAbort (t : Tray) (c : Nat) : Tray :=
  if t.aborting (dlrPg c) then t
  else ((t.startAbort (dlrPg c)).each (List.range 32) (fun t j => t.jobAbort c j)).dealerSweep c

/-- SPILL_ABORT: every spill stream of the stack aborts. A stream is complete when it is issued, so the stack holds none;
its epoch advances (R103, R106). -/
def Tray.spillAbort (t : Tray) (c k : Nat) : Tray :=
  if t.aborting (hbmPg c k) then t else t.startAbort (hbmPg c k)

/-- CIRCUIT_ABORT_ALL (R185). -/
def Tray.circuitAbort (t : Tray) (c : Nat) : Tray :=
  if t.aborting (circPg c) then t
  else (t.startAbort (circPg c)).each (t.circList c) (fun t a => t.circDrop c a.1)

/-! ### Whole-chip quiesce (R109, R214) -/

/-- A port at a quiesce: its epoch advances, its agent's work is freed, XOFF is held; the link stays trained. -/
def Tray.portQuiesce (t : Tray) (c e : Nat) : Tray :=
  let pg := portPg c e
  let t1 := if t.aborting pg then t else t.startAbort pg
  let p := t1.port c e
  let t2 := t1.setPort c e { p with
    xoffHold := true, origq := [], snapq := [], replay := p.replay.map (fun r => { r with freed := true }) }
  t2.syncReplay c e

/-- WHOLE_CHIP_QUIESCE; the dump's own abort is `dump`. -/
def Tray.quiesce (t : Tray) (c : Nat) (dump : Tray → Tray) : Tray :=
  let pg := chip0 c
  if t.aborting pg then t
  else
    let t1 := (t.startAbort pg).sb pg F.PG_CTL_ENABLE false
    let t2 := ((dump t1).circuitAbort c).dealerAbort c
    let t3 := t2.each (List.range 256) (fun t tb => t.tableAbort c tb St.ABORTED none)
    let t4 := (t3.spillAbort c 0).spillAbort c 1
    let t5 := (t4.each (List.range 64) (fun t e => t.portQuiesce c e)).flushCore c true
    t5.logChip .quiesce c []

/-- PG_CTL.ENABLE = 1 on page 0x000: port shells release XOFF (R109). -/
def Tray.quiesceEnd (t : Tray) (c : Nat) : Tray :=
  t.each (List.range 64) (fun t e =>
    if (t.port c e).xoffHold then t.modPort c e (fun p => { p with xoffHold := false }) else t)

/-- NO_FUNCTION: PG_ABORT.GO on a page without an abortable function (R102). -/
def Tray.noFunction (t : Tray) (pg : Nat) (o : Origin) : Tray :=
  if pageKind pg = none ∨ abortable pg then t else t.recErr pg E.NO_FUNCTION o

end Sys2Proof.Machine
end

