-- ==== Sys2Proof/Machine/Zmp.lean ====
section
/-! DEFINITION. How a command runs on the state: the tray is changed, the messages it has for the managers get their ZMP
headers (R439) and leave, the leases end with a HALVOREN or wider reset (R412, R427). -/
namespace Sys2Proof.Machine

/-- Message types of R440. -/
def Z.HELLO : Nat := 0x01
def Z.LEASE_REQ : Nat := 0x02
def Z.LEASE_RENEW : Nat := 0x03
def Z.LEASE_RELEASE : Nat := 0x04
def Z.IDENTITY : Nat := 0x10
def Z.PLANE_MAP : Nat := 0x11
def Z.FAULT : Nat := 0x12
def Z.SERVICE_REQ : Nat := 0x13
def Z.EVENT : Nat := 0x14
def Z.LOG_READ : Nat := 0x15
def Z.REG_READ : Nat := 0x20
def Z.REG_WRITE : Nat := 0x21
def Z.CFG_DIGEST : Nat := 0x22
def Z.DUMP_DATA : Nat := 0x30
def Z.DUMP_ACK : Nat := 0x31
def Z.WIRE_TEST : Nat := 0x40
def Z.WIRE_RESULT : Nat := 0x41
def Z.LANE_STATS : Nat := 0x42
def Z.WEAR : Nat := 0x43
def Z.FW_BEGIN : Nat := 0x50
def Z.FW_DATA : Nat := 0x51
def Z.FW_END : Nat := 0x52
def Z.FW_ACTIVATE : Nat := 0x53
def Z.FW_STATUS : Nat := 0x54
def Z.TIME_STATUS : Nat := 0x60
def Z.SPDM : Nat := 0x70

/-- Page of the manager links. -/
def mgrPg : Nat := halPg 0x040

/-- No manager holds a lease (R433). -/
def Leases.headless (l : Leases) : Bool := decide (l.a = .none ∧ l.b = .none)

/-- The lease of manager `m`. -/
def Leases.of (l : Leases) (m : Nat) : LeaseMode := if m = 0 then l.a else l.b

/-- `l` with the lease of manager `m`. -/
def Leases.put (l : Leases) (m : Nat) (x : LeaseMode) : Leases := if m = 0 then { l with a := x } else { l with b := x }

/-- The link and session of manager `m` are up (MGR_LINK). -/
def Tray.sessionUp (t : Tray) (m : Nat) : Bool := t.is mgrPg (if m = 0 then F.MGR_LINK_A_UP else F.MGR_LINK_B_UP)

/-- The tray has a message for manager `m`. -/
def Tray.zsend (t : Tray) (m type : Nat) (body : List Byte) (ack : Bool) : Tray :=
  { t with zq := t.zq ++ [{ mgr := m, type := type, body := body, needAck := ack }] }

/-- The tray has a message for both managers. -/
def Tray.zboth (t : Tray) (type : Nat) (body : List Byte) (ack : Bool) : Tray :=
  (t.zsend 0 type body ack).zsend 1 type body ack

/-- The 32-byte header of R439 of a message of the tray. -/
def zHeader (z : ZSend) (seq term slot : Nat) : BitVec 256 :=
  let rsp := z.rsp.isSome
  let st := match z.rsp with | some r => r.1 | none => 0
  let rt := match z.rsp with | some r => r.2 | none => 0
  BitVec.ofNat 256 (1 + 2 ^ 8 * z.type + 2 ^ 16 * b2n rsp + 2 ^ 17 * b2n z.needAck + 2 ^ 32 * z.body.length
    + 2 ^ 64 * (seq % 2 ^ 32) + 2 ^ 96 * (rt % 2 ^ 32)
    + 2 ^ 128 * (term % 2 ^ 32) + 2 ^ 160 * 2 + 2 ^ 164 * slot + 2 ^ 192 * st)

/-- SEQ of the next message to manager `m`. -/
def HalSt.seqOf (h : HalSt) (m : Nat) : Nat := if m = 0 then h.zseqA else h.zseqB

/-- One more message has been sent to manager `m`. -/
def HalSt.seqNext (h : HalSt) (m : Nat) : HalSt :=
  if m = 0 then { h with zseqA := (h.zseqA + 1) % 2 ^ 32 } else { h with zseqB := (h.zseqB + 1) % 2 ^ 32 }

/-- A message is formed and sent: a FAULT waits while no lease is held (R433); nothing but HELLO and SPDM travels outside
a session (R437); nothing is sent without firmware, but HELLO by the housekeeper where both images have failed (R458). -/
def Tray.zout (t : Tray) (l : Leases) (z : ZSend) : Tray :=
  if z.type = Z.FAULT ∧ l.headless then { t with hal := { t.hal with held := t.hal.held ++ [z] } }
  else if ¬ (t.hal.up ∨ (t.hal.failed ∧ z.type = Z.HELLO)) then t
  else if ¬ (z.type = Z.HELLO ∨ z.type = Z.SPDM ∨ t.sessionUp z.mgr) then t
  else
    let seq := t.hal.seqOf z.mgr
    let hdr := zHeader z seq l.term (t.gf hkPg F.HK_SLOT_SLOT)
    let h := t.hal.seqNext z.mgr
    let h1 := if z.needAck then { h with waits := h.waits ++ [⟨z.mgr, seq, hdr, z.body, 0⟩] } else h
    { t with hal := h1 }.emit (.zmp z.mgr hdr z.body)

/-- The messages of this command leave. -/
@[irreducible] def Tray.flush (t : Tray) (l : Leases) : Tray := { t with zq := [] }.each t.zq (fun t z => t.zout l z)

/-- A command changes the tray and not the leases, which end with a HALVOREN or wider reset. -/
@[irreducible] def State.run (s : State) (f : Tray → Tray) : State :=
  let t := f s.tray
  let l := if t.wipe then {} else s.leases
  { s with tray := { t with wipe := false }.flush l, leases := l }

/-- A command whose effect on the tray depends on the leases. -/
def State.runL (s : State) (f : Leases → Tray → Tray) : State := s.run (f s.leases)

/-- A command that changes the leases. -/
@[irreducible] def State.runLease (s : State) (f : Leases → Tray → Leases × Tray) : State :=
  let r := f s.leases s.tray
  let l := if r.2.wipe then {} else r.1
  { s with tray := ({ r.2 with wipe := false } : Tray).flush l, leases := l }

end Sys2Proof.Machine
end

