-- ==== Sys2Proof/Machine/View.lean ====
section
/-! DEFINITION. The value a register shows: the stored value, with the fields that report state kept elsewhere filled in
(R86, R90, R97–R99, R105, and the status registers of each block). -/
namespace Sys2Proof.Machine

/-- A register word with fields set. -/
def putAll (x : Word) (l : List (Fld × Nat)) : Word := l.foldl (fun x a => a.1.put x a.2) x

/-! ### Energy (R384, R385) -/

/-- Activity count of a class for a seat; weighted with K where `k`. -/
def Tray.actOf (t : Tray) (c m i : Nat) (k : Bool) : Nat := Assoc.get (fun _ => 0) t.act ((c * 64 + m) * 32 + 2 * i + b2n k)

/-- Coefficient of a class, fJ (TEL_ECOEF). -/
def Tray.coef (t : Tray) (c i : Nat) : Nat := t.gf (chipPg c 0x3F0) (F.TEL_ECOEF_COEF_FJ.at (8 * i))

/-- Raw energy of a seat in fJ, and the same weighted with K (R384, R385). -/
def Tray.rawFj (t : Tray) (c m : Nat) (k : Bool) : Nat :=
  sumL ((List.range 13).map (fun i => t.coef c i * t.actOf c m i k))

/-- Raw energy in pJ. -/
def Tray.rawPj (t : Tray) (c m : Nat) : Nat := t.rawFj c m false / 1000
/-- Attributed energy in µJ: each pJ adds K / 10^6 µJ, K in Q2.22. -/
def Tray.energyUj (t : Tray) (c m : Nat) : Nat := t.rawFj c m true / (1000 * 10 ^ 6 * 2 ^ 22)
/-- Raw energy of all seats, pJ. -/
def Tray.chipRawPj (t : Tray) (c : Nat) : Nat := sumL ((List.range 64).map (fun m => t.rawFj c m false)) / 1000

/-! ### What a function holds (R86) -/

/-- A port's agent and queues hold work. -/
def Tray.portBusy (t : Tray) (c e : Nat) : Bool :=
  let p := t.port c e
  p.replay.any (fun r => !r.freed) || !p.origq.isEmpty || !p.snapq.isEmpty ||
  (t.pkts c).any (fun q => q.inPort == e || q.copies.any (fun y => y.port == e))

/-- A job slot is not IDLE. -/
def Tray.dealerBusy (t : Tray) (c : Nat) : Bool := (List.range 32).any (fun j => t.jobState c j != J.IDLE)

/-- The function of the page holds work. -/
def Tray.busy (t : Tray) (pg : Nat) : Bool :=
  let c := pg / 4096
  let p := pg % 4096
  let dump := (t.chip c).dump.sending.isSome
  let circ := !(t.circList c).isEmpty
  match pageKind pg with
  | some .chip0 =>
    !(t.pkts c).isEmpty || (t.tablesOf c).any (fun a => t.tableBusy c a.1) || t.dealerBusy c || dump || circ
      || (List.range 64).any (fun e => t.portBusy c e)
  | some .port => t.portBusy c (p - 0x010)
  | some .table => t.tableBusy c (p - 0x200)
  | some .dlr => t.dealerBusy c
  | some .dump => dump
  | some .circ => circ
  | _ => false

/-! ### Header registers -/

/-- PG_STS (R86). -/
def Tray.viewSts (t : Tray) (pg : Nat) : Word :=
  putAll 0 [(F.PG_STS_ENABLED, b2n (t.enabled pg)), (F.PG_STS_BUSY, b2n (t.busy pg)),
    (F.PG_STS_ABORTING, b2n (t.aborting pg)), (F.PG_STS_COMMIT_PENDING, t.gf pg F.PG_COMMIT_STS_PENDING),
    (F.PG_STS_ERR_HELD, t.gf pg F.PG_ERR_CAPT_VALID)]

/-- PG_PROFILE (R90). -/
def Tray.viewProfile (t : Tray) (pg : Nat) : Word :=
  putAll (t.rd pg A.PG_PROFILE) [(F.PG_PROFILE_ACTIVE, t.gf pg F.PG_CTL_PROFILE),
    (F.PG_PROFILE_EXPERT_IN_FORCE, t.gf pg F.PG_CTL_EXPERT)]

/-! ### Block registers -/

/-- CHIP_IRQ_SUM[j] (R99). -/
def Tray.irqSum (t : Tray) (c j : Nat) : Word :=
  BitVec.ofNat 64 ((List.range 64).foldl (fun a i =>
    let pg := chipPg c (64 * j + i)
    if (pageKind pg).isSome ∧ t.irqSts pg ≠ 0 then a + 2 ^ i else a) 0)

/-- Seat-owned resources (SEAT_STS). -/
def Tray.seatTables (t : Tray) (c m : Nat) : Nat :=
  ((List.range 256).filter (fun tb => t.tst c tb != T.FREE && t.tSeat c tb == m)).length
def Tray.seatJobs (t : Tray) (c m : Nat) : Nat :=
  ((List.range 32).filter (fun j => t.jobState c j != J.IDLE && t.jobSeat c j == m)).length
def Tray.seatInboxes (t : Tray) (c m : Nat) : Nat :=
  ((List.range 16).filter (fun i => t.is (inPg c) (F.DLR_IN_CFG_VALID.nth i) && t.inSeat c i == m)).length
def Tray.seatCircuits (t : Tray) (c m : Nat) : Nat := ((t.circList c).filter (fun a => a.2.seat == m)).length
def Tray.seatGroups (t : Tray) (c m : Nat) : Nat := ((t.chip c).mcgs.filter (fun a => a.2.valid && a.2.seat == m)).length
def Tray.seatXlt (t : Tray) (c m : Nat) : Nat :=
  ((t.dealer c).xlt.filter (fun a => a.1 / 32768 == m && entValid a.2)).length

/-- Pool items of a kind, in MiB rounded up. -/
def Tray.poolMib (t : Tray) (c : Nat) (f : PoolItem → Bool) : Nat :=
  ceilDiv (sumL (((t.dealer c).pool.filter f).map (fun x => x.size))) 256

/-- Bytes of a dump record with the given sections (R378). -/
def recordLen (sections : Nat) : Nat :=
  128 + 16384 + 256 * b2n (bitOf sections 1) + 8192 * b2n (bitOf sections 2) + 8192 * b2n (bitOf sections 3)
    + 8192 * b2n (bitOf sections 4) + 512 * b2n (bitOf sections 5)

/-- A signed value in 32 bits, saturating. -/
def sat32 (v : Int) : Nat :=
  let x := if v < -2147483648 then -2147483648 else if 2147483647 < v then 2147483647 else v
  (x % 4294967296).toNat

/-- A block register of a chip's page. -/
def Tray.viewChip (t : Tray) (pg off : Nat) (x : Word) : Word :=
  let c := pg / 4096
  let p := pg % 4096
  match pageKind pg with
  | some .chip0 => if A.CHIP_IRQ_SUM ≤ off then t.irqSum c ((off - A.CHIP_IRQ_SUM) / 8) else x
  | some .chip1 =>
    if off = A.CHIP_COLL_USE then
      putAll x [(F.CHIP_COLL_USE_TAGS_USED, t.tagsUsed c), (F.CHIP_COLL_USE_TRIG_USED, t.trigUsed c)]
    else x
  | some .port =>
    if off = A.PORT_FC_STS then
      putAll x [(F.PORT_FC_STS_XOFF_TX, t.xoffTx c (p - 0x010)), (F.PORT_FC_STS_XOFF_RX, t.xoffRx c (p - 0x010))]
    else x
  | some .kit0 =>
    if off = A.KIT_USE then
      putAll x [(F.KIT_USE_SHARED_USED, t.kitShared c), (F.KIT_USE_CARVE, t.kitCarve c), (F.KIT_USE_HDRM_USED, t.kitHdrmAll c)]
    else if off = A.KIT_FREE then F.KIT_FREE_FREE.put x (t.kitFree c)
    else x
  | some .kitMcg => if off = A.KIT_RESID then F.KIT_RESID_USED.put x (t.resUsed c) else x
  | some .kitOq =>
    let f := 8 * (p - 0x064) + (off - 0x100) / 0x20
    if (off - 0x100) % 0x20 = 0 then
      putAll x [(F.KIT_OQ_LEN_TC1.at (off - 0x100), t.kitQ c f 1), (F.KIT_OQ_LEN_TC2.at (off - 0x100), t.kitQ c f 2),
        (F.KIT_OQ_LEN_TC3.at (off - 0x100), t.kitQ c f 3)]
    else x
  | some .kitSeat => F.KIT_SEAT_USED.put x (t.kitSeat c (16 * (p - 0x06C) + (off - 0x100) / 8))
  | some .circ =>
    let k := t.circSel c
    if off = A.CIRC_ENT then F.CIRC_ENT_VALID.put x (b2n (t.circ c k).isSome)
    else if off = A.CIRC_STS then F.CIRC_STS_ACTIVE.put x (t.circList c).length
    else
      match t.circ c k with
      | none => if off = A.CIRC_BYTES ∨ off = A.CIRC_XBYTES ∨ off = A.CIRC_XERR then 0 else x
      | some z =>
        if off = A.CIRC_BYTES then BitVec.ofNat 64 z.bytes
        else if off = A.CIRC_XBYTES then BitVec.ofNat 64 z.xbytes
        else if off = A.CIRC_XERR then BitVec.ofNat 64 z.xerr
        else x
  | some .table =>
    let tb := p - 0x200
    let y := t.table c tb
    let w := t.win c tb (t.gf pg F.TBL_Q_SEL_PORT)
    if off = A.TBL_STS then
      putAll x [(F.TBL_STS_N, t.tN c tb), (F.TBL_STS_PARKED, b2n (y.ops.any (fun o => o.wait.isSome && !o.started)))]
    else if off = A.TBL_Q_SEL then putAll x [(F.TBL_Q_SEL_CQ_EN, b2n w.cqEn), (F.TBL_Q_SEL_HELD, w.heldCnt)]
    else if off = A.TBL_Q_STS then
      putAll x [(F.TBL_Q_STS_PI, w.pi), (F.TBL_Q_STS_CI, w.ci), (F.TBL_Q_STS_CQ_TAIL, w.tail),
        (F.TBL_Q_STS_CQ_HEAD, w.cqHead)]
    else if off = A.TBL_FLY then
      putAll x [(F.TBL_FLY_TRICKS_OPEN, y.tricks.length), (F.TBL_FLY_OPS_INFL, (y.ops.filter (fun o => o.started)).length),
        (F.TBL_FLY_STAGED, (y.staged.filter (fun l => !l.early)).length)]
    else if off = A.TBL_SNAP then F.TBL_SNAP_ARRIVED.put x y.snap0.length
    else x
  | some .snap =>
    if off = A.SNAP_STS then
      F.SNAP_STS_BUSY.put x ((t.tablesOf c).filter (fun a => !a.2.snap0.isEmpty || !a.2.snap1.isEmpty)).length
    else x
  | some .lay =>
    if off = A.LAY_USE then putAll x [(F.LAY_USE_USED, t.descUsed c), (F.LAY_USE_DYING, t.descDying c)]
    else if A.LAY_SEAT ≤ off then (F.LAY_SEAT_USED.at (off - A.LAY_SEAT)).put x (t.descSeat c ((off - A.LAY_SEAT) / 8))
    else x
  | some .dlr =>
    let d := t.dealer c
    if off = A.DLR_SRAM then F.DLR_SRAM_RED_DEPTH.put x (t.redDepth c)
    else if off = A.DLR_STS then
      putAll x [(F.DLR_STS_JOBS, ((List.range 32).filter (fun j => t.jobState c j != J.IDLE)).length),
        (F.DLR_STS_POOL_USED, t.poolMib c (fun i => !i.spilled)), (F.DLR_STS_PINNED, t.poolMib c (fun i => i.pinned)),
        (F.DLR_STS_SPILLED, t.poolMib c (fun i => i.spilled))]
    else if off = A.DLR_SPILL_CNT then
      putAll x [(F.DLR_SPILL_CNT_OUT_MIB, d.spillOut / 256), (F.DLR_SPILL_CNT_IN_MIB, d.spillIn / 256)]
    else if off = A.DLR_CMP then F.DLR_CMP_RAW_MIB.put x (d.spillOut / 256)
    else x
  | some .dlrIn =>
    let i := (off - 0x100) / 0x20
    let y := t.inbox c i
    if (off - 0x100) % 0x20 = 0x10 then
      putAll x [(F.DLR_IN_STS_FILL.nth i, match y.fill with | some h => y.recsIn h | none => 0),
        (F.DLR_IN_STS_READY.nth i, y.ready.length)]
    else x
  | some .seat =>
    let m := p - 0x380
    if off = A.SEAT_STS then
      putAll x [(F.SEAT_STS_TABLES, t.seatTables c m), (F.SEAT_STS_JOBS, t.seatJobs c m),
        (F.SEAT_STS_INBOXES, t.seatInboxes c m), (F.SEAT_STS_CIRCUITS, t.seatCircuits c m),
        (F.SEAT_STS_GROUPS, t.seatGroups c m), (F.SEAT_STS_XLT_PAGES, t.seatXlt c m)]
    else if off = A.SEAT_CNT + 8 * N.ENERGY_UJ then BitVec.ofNat 64 (t.energyUj c m)
    else if off = A.SEAT_CNT + 8 * N.ENERGY_RAW then BitVec.ofNat 64 (t.rawPj c m)
    else x
  | some .dump =>
    if off = A.CNT_DUMP_STS then F.CNT_DUMP_STS_LEN.put x (recordLen (t.gf pg F.CNT_DUMP_CFG_SECTIONS)) else x
  | some .tel => if off = A.TEL_ERAW then BitVec.ofNat 64 (t.chipRawPj c) else x
  | _ => x

/-- SPARE_READY (R445): role SPARE, every cabled port UP, no lane failed its latest window, service FULL. -/
def Tray.spareReady (t : Tray) : Bool :=
  t.hal.role == some 2 && t.service == 0 &&
  (List.range 5).all (fun c => (List.range 64).all (fun e => !bitOf ((t.hal.cabled[c]?).getD 0) e || t.pst c e == S.UP)) &&
  t.lanes.all (fun a => !a.2.fail)

/-- A block register of a Halvoren page, but MGR_LEASE. -/
def Tray.viewHal (t : Tray) (pg off : Nat) (x : Word) : Word :=
  match pageKind pg with
  | some .con => if off = A.CON_STS then F.CON_STS_RX_LEVEL.put x t.hk.fifo.length else x
  | some .log =>
    if off = A.LOG_STS then
      putAll x [(F.LOG_STS_NEXT_SEQ, t.fram.nextSeq), (F.LOG_STS_LOST, b2n t.fram.lost),
        (F.LOG_STS_GASP_USED, t.hk.ring.length)]
    else x
  | some .mgr =>
    if off = A.MGR_TIME then F.MGR_TIME_OFFSET_NS.put x (sat32 t.hal.offset)
    else if off = A.MGR_MAP then F.MGR_MAP_SPARE_READY.put x (b2n t.spareReady)
    else x
  | _ => x

/-- MGR_LEASE (R463). -/
def Leases.view (l : Leases) : Word :=
  let code := fun (x : LeaseMode) => match x with | .none => 0 | .secondary => 1 | .primary => 2
  putAll 0 [(F.MGR_LEASE_A_MODE, code l.a), (F.MGR_LEASE_B_MODE, code l.b), (F.MGR_LEASE_HEADLESS, b2n l.headless),
    (F.MGR_LEASE_TERM, l.term)]

/-- What a register of a page shows, MGR_LEASE apart. -/
def Tray.view (t : Tray) (pg off : Nat) : Word :=
  let x := t.rd pg off
  if off = A.PG_STS then t.viewSts pg
  else if off = A.PG_IRQ_STS then t.irqSts pg
  else if off = A.PG_ABORT then F.PG_ABORT_GO.put 0 (b2n (t.aborting pg))
  else if off = A.PG_COMMIT then F.PG_COMMIT_GO.put 0 (t.gf pg F.PG_COMMIT_STS_PENDING)
  else if off = A.PG_PROFILE then t.viewProfile pg
  else if off < 0x100 ∨ 0x800 ≤ off then x
  else if isChipPg pg then t.viewChip pg off x
  else t.viewHal pg off x

/-- What a register shows. -/
def Tray.viewReg (t : Tray) (l : Leases) (pg off : Nat) : Word :=
  if pg = mgrPg ∧ off = A.MGR_LEASE then l.view else t.view pg off

end Sys2Proof.Machine
end

