-- ==== Sys2Proof/Machine/Dump.lean ====
section
/-! DEFINITION. Snapshots, dump records, the bridge's rings, seals, and energy calibration (R373–R388). -/
namespace Sys2Proof.Machine

/-- Page of the dump engine. -/
def dumpPg (c : Nat) : Nat := chipPg c 0x340
/-- Page of telemetry. -/
def telPg (c : Nat) : Nat := chipPg c 0x3F0

/-! ### Watches (R373) -/

/-- WATCH_OVERFLOW: the carry takes effect: interrupt, reload, and the search for a capture point begins. -/
def Tray.watchOverflow (t : Tray) (c i : Nat) : Tray :=
  let w := t.watch c i
  let pg := watchPg c
  let d := 0x20 * i
  match w.carry with
  | none => t
  | some past =>
    let t1 := t.raise pg (8 + i)
    let t2 := if t1.is pg (F.CNT_WATCH_CFG_RELOAD_EN.at d) then
      t1.sf pg (F.CNT_WATCH_CNT_COUNT.at d) (t1.gf pg (F.CNT_WATCH_RELOAD_RELOAD.at d) + past) else t1
    t2.setWatch c i { carry := none, due := some past }

/-- WATCH_CAPTURE: the next capture point; what the watch has captured already stays. -/
def Tray.watchCapture (t : Tray) (c i pos wh : Nat) : Tray :=
  let w := t.watch c i
  let pg := watchPg c
  let d := 0x20 * i
  match w.due with
  | none => t
  | some skid =>
    let t0 := t.setWatch c i { w with due := none }
    if t0.is pg (F.CNT_WATCH_CAPT_VALID.at d) then t0.sat pg (F.CNT_WATCH_CAPT_MISSED.at d) 1
    else
      let t1 := (t0.sf pg (F.CNT_WATCH_CAPT_SKID.at d) skid).sf pg (F.CNT_WATCH_CAPT_SKID_POS.at d) pos
      (t1.sf pg (F.CNT_WATCH_CAPT_WHERE.at d) wh).sb pg (F.CNT_WATCH_CAPT_VALID.at d) true

/-! ### Snapshot instants (R375, R376) -/

/-- The interval of a code, in ns. -/
def intervalNs (code : Nat) : Nat :=
  match code with
  | 0 => 100000 | 1 => 200000 | 2 => 500000 | 3 => 1000000 | 4 => 2000000 | 5 => 5000000 | 6 => 10000000
  | 7 => 20000000 | 8 => 50000000 | 9 => 100000000 | 10 => 200000000 | 11 => 500000000 | _ => 1000000000

/-- The smallest interval at least the requested one and at least the sending time of a record: LEN × 3 / 2 ns, LEN × 5 /
2 ns on a chain. -/
def effInterval (req len : Nat) (chain : Bool) : Nat :=
  let ns := if chain then ceilDiv (5 * len) 2 else ceilDiv (3 * len) 2
  ((List.range 13).find? (fun k => decide (req ≤ k) && decide (ns ≤ intervalNs k))).getD 12

/-- A snapshot becomes a gap with a cause: 1 BUSY, 2 BRIDGE, 3 ABORT (R376). -/
def Tray.dumpGap (t : Tray) (c cause : Nat) : Tray :=
  ((t.cnt (dumpPg c) F.CNT_DUMP_STS_GAPS 1).raise (dumpPg c) 8).modChip c (fun x => { x with
    dump := { x.dump with gaps := x.dump.gaps + 1, cause := cause } })

/-- Packets of KIND 5 of a chip leave its injection queues. -/
def Tray.dumpUnqueue (t : Tray) (c : Nat) : Tray :=
  t.modNode c (fun x => { x with inject := x.inject.map (fun a => (a.1, a.2.filter (fun p => rKind p != 5))) })

/-- The record being sent is given up: its snapshot becomes a gap, its packets stale (R382, R107). -/
def Tray.dumpLose (t : Tray) (c cause : Nat) : Tray :=
  if (t.chip c).dump.sending.isNone then t
  else (((t.modChip c (fun x => { x with dump := { x.dump with sending := none } })).dumpUnqueue c).dumpGap c cause)

/-- DUMP_ABORT: PG_ABORT.GO on page 0x340. -/
def Tray.dumpAbort (t : Tray) (c : Nat) : Tray :=
  if t.aborting (dumpPg c) then t else (t.startAbort (dumpPg c)).dumpLose c 3

/-- A packet of the record being sent is lost on a hop that went down: the transfer is aborted (R220). -/
def Tray.dumpPktLost (t : Tray) (c : Nat) : Tray :=
  if (t.chip c).dump.sending.isNone then t else (t.cnt (dumpPg c) F.PG_ABORT_STS_EPOCH 1).dumpLose c 3

/-! ### Records (R377, R378) -/

/-- The 128-byte header: REC_TYPE, SLOT, CHIP, TIME_LOCKED, INTERVAL, RACK_ID, SEQ, T, BOOT, GAP, LEN, SECTIONS, cause,
LENGTHENED, EPOCH, K, PREV_HASH. -/
structure RecHead where
  type : Nat
  slot : Nat
  chip : Nat
  locked : Bool := false
  interval : Nat := 0
  rack : Nat
  seq : Nat
  time : Nat
  boot : Nat := 0
  gap : Nat := 0
  len : Nat
  sections : Nat := 0
  cause : Nat := 0
  lengthened : Bool := false
  epoch : Nat := 0
  k : Nat := 0
  prev : List Byte := []
  deriving DecidableEq, Repr

def RecHead.bytes (h : RecHead) : List Byte :=
  leBytes 8 (h.type + 2 ^ 8 + 2 ^ 16 * h.slot + 2 ^ 20 * h.chip + 2 ^ 23 * b2n h.locked + 2 ^ 24 * h.interval
    + 2 ^ 32 * h.rack)
  ++ leBytes 8 h.seq ++ leBytes 8 h.time
  ++ leBytes 8 (h.boot + 2 ^ 32 * satTo (2 ^ 32 - 1) h.gap)
  ++ leBytes 8 (h.len + 2 ^ 32 * h.sections + 2 ^ 40 * h.cause + 2 ^ 44 * b2n h.lengthened + 2 ^ 48 * h.epoch)
  ++ leBytes 8 h.k
  ++ (h.prev ++ List.replicate 48 0).take 48 ++ List.replicate 32 0

/-- Registers copied into an entry, as (page, offset), padded with zero words to `n` words. -/
def Tray.recEntry (t : Tray) (n : Nat) (l : List (Nat × Nat)) : List Byte :=
  l.flatMap (fun a => leBytes 8 (t.view a.1 a.2).toNat) ++ List.replicate (8 * (n - l.length)) 0

/-- The chip section's registers (R378). -/
def chipEntry (c : Nat) : List (Nat × Nat) :=
  [(chip0 c, A.CHIP_CLK_STS), (chip0 c, A.CHIP_DEAL_CLK), (chip0 c, A.CHIP_BG_STS), (chipPg c 1, A.CHIP_COLL_USE),
   (chipPg c 0x060, A.KIT_USE), (chipPg c 0x060, A.KIT_FREE), (chipPg c 0x060, A.KIT_PUSH_CNT), (chipPg c 0x060, A.KIT_ECC)]
  ++ (List.range 4).map (fun i => (chipPg c 0x050, A.SCHED_SLICE_CELLS + 8 * i)) ++ [(chipPg c 0x050, A.SCHED_AGED)]
  ++ (List.range 4).map (fun i => (chipPg c 0x330, A.DECK_BYTES + 8 * i)) ++ [(chipPg c 0x330, A.DECK_ERR)]
  ++ [(chipPg c 0x300, A.DLR_STS), (chipPg c 0x300, A.DLR_SPILL_CNT), (chipPg c 0x300, A.DLR_ECC),
      (chipPg c 0x300, A.DLR_CMP), (chipPg c 0x300, A.DLR_RETIRED), (chipPg c 0x310, A.LAY_PERF),
      (chipPg c 0x310, A.LAY_PERF_HALF), (chipPg c 0x310, A.LAY_CNT), (chipPg c 0x3E0, A.XLT_TLB),
      (chipPg c 0x3D0, A.SNAP_CNT), (telPg c, A.TEL_ERAW), (telPg c, A.TEL_EKFACT), (dumpPg c, A.CNT_DUMP_STS)]

/-- A port's registers. -/
def portEntry (c e : Nat) : List (Nat × Nat) :=
  let q := chipPg c (0x064 + e / 8)
  let d := 0x20 * (e % 8)
  [A.PORT_TRAIN_STS, A.PORT_RTT, A.PORT_ALARM, A.PORT_CW_DROP, A.PORT_FC_STS, A.PORT_XOFF_TIME, A.PORT_RX_ERR,
   A.PORT_DROP, A.PORT_REPLAY].map (fun o => (portPg c e, o))
  ++ [(q, A.KIT_OQ_LEN + d), (q, A.KIT_OQ_PUSH + d), (q, A.KIT_OQ_UNDER + d)]

/-- The sections of a record, in order. -/
def Tray.recBody (t : Tray) (c sec : Nat) : List Byte :=
  let has := fun (i : Nat) (b : List Byte) => if bitOf sec i then b else []
  (List.range 64).flatMap (fun m => t.recEntry 32 ((List.range 32).map (fun i => (seatPg c m, A.SEAT_CNT + 8 * i))))
  ++ has 1 (t.recEntry 32 (chipEntry c))
  ++ has 2 ((List.range 64).flatMap (fun e => t.recEntry 16 (portEntry c e)))
  ++ has 3 ((List.range 256).flatMap (fun n => t.recEntry 4
      ([A.LANE_FOM, A.LANE_FEC_CORR, A.LANE_FEC_UNC, A.LANE_WEAR].map (fun o => (lanePg c n, o)))))
  ++ has 4 ((List.range 256).flatMap (fun k => t.recEntry 4
      ([A.TBL_STS, A.TBL_OPS, A.TBL_FLY, A.TBL_SNAP].map (fun o => (tblPg c k, o)))))
  ++ has 5 ((List.range 32).flatMap (fun j => t.recEntry 2
      [(jobPg c, A.DLR_JOB_CTL + 0x20 * j), (jobPg c, A.DLR_JOB_CFG + 0x20 * j)]))

/-- The ring packets of a record: at most 256 B of payload, ADDR the offset in units of 32 B (R379). -/
def recParts (epoch seq : Nat) (rcd : List Byte) : List (RingParts × List Byte) :=
  (chunksOf 256 (rcd.length + 1) rcd).zipIdx.map (fun a =>
    (({ dst := 5, src := 0, ccw := false, kind := 5, xfer := seq % 2 ^ 32, addr := 8 * a.2, epoch := epoch,
        pseq := a.2 } : RingParts), a.1))

/-- The bridge takes packets of KIND 5: firmware runs and the chip's ring is not full (R376). -/
def Tray.bridgeTakes (t : Tray) (c : Nat) : Bool :=
  t.hal.up && decide ((Assoc.get (fun _ => []) t.hal.bridge.rings c).length ≤ Config.dumpRing)

/-- SNAPSHOT: T is CHIP_TIME at its multiple of the interval; K in force is renewed; the record is sent, or the snapshot
is a gap. -/
def Tray.snapshot (t : Tray) (c : Nat) : Tray :=
  let pg := dumpPg c
  if ¬ t.chipRuns c ∨ ¬ t.enabled pg then t
  else
    let d := (t.chip c).dump
    let i0 := intervalNs (t.gf pg F.CNT_DUMP_STS_EFF_INTERVAL)
    let tm := (t.rd (chip0 c) A.CHIP_TIME).toNat / i0 * i0
    let seq := if d.started then t.gf pg F.CNT_DUMP_SEQ_SEQ + 1 else 0
    let sec := t.gf pg F.CNT_DUMP_CFG_SECTIONS
    let len := recordLen sec
    let req := t.gf pg F.CNT_DUMP_CFG_INTERVAL
    let i := effInterval req len (t.is (deckPg c) F.DECK_STS_CHAIN)
    let long := decide (req < i)
    let t1 := ((t.sf pg F.CNT_DUMP_STS_EFF_INTERVAL i).sf pg F.CNT_DUMP_SEQ_SEQ seq).sf pg F.CNT_DUMP_T_T tm
    let t2 := if t1.is pg F.CNT_DUMP_STS_LENGTHENED = long then t1
      else (t1.sb pg F.CNT_DUMP_STS_LENGTHENED long).raise pg 9
    let t3 := t2.modChip c (fun x => { x with dump := { x.dump with
      started := true, kForce := t.gf (telPg c) F.TEL_EKFACT_K } })
    if d.sending.isSome then t3.dumpGap c 1
    else if ¬ t3.bridgeTakes c then t3.dumpGap c 2
    else
      let ep := t.gf pg F.PG_ABORT_STS_EPOCH
      let h : RecHead := {
        type := 1, slot := t.gf (chip0 c) F.CHIP_TOPO_SLOT, chip := c, locked := t.is (chip0 c) F.CHIP_CLK_STS_TIME_LOCKED,
        interval := i, rack := t.gf (chip0 c) F.CHIP_TOPO_RACK_ID, seq := seq, time := tm,
        boot := t.gf pg F.CNT_DUMP_ID_BOOT, gap := d.gaps, len := len, sections := sec,
        cause := if d.gaps = 0 then 0 else d.cause, lengthened := long, epoch := ep, k := d.kForce, prev := d.prev }
      let rcd := h.bytes ++ t3.recBody c sec
      (t3.modChip c (fun x => { x with dump := { x.dump with sending := some rcd, carried := d.gaps } })).ringSend c
        (recParts ep seq rcd)

/-! ### The bridge (R379) -/

/-- A KIND 5 packet arrives at the bridge: kept, or stale (R107). -/
def Tray.bridgePart (t : Tray) (p : RingPkt) : Tray :=
  let c := rSrc p
  if ¬ t.hal.up then t
  else if rEpoch p ≠ t.gf (dumpPg c) F.PG_ABORT_STS_EPOCH then t.charge c 0 N.STALE 1
  else
    let b := t.hal.bridge
    { t with hal := { t.hal with bridge := { b with
      parts := b.parts ++ [⟨c, rEpoch p, rXfer p, 32 * (rAddr p % 4096), p.pay⟩] } } }

/-- A record of a source enters its ring. -/
def BridgeSt.push (b : BridgeSt) (src key seq : Nat) (rcd : List Byte) : BridgeSt :=
  { b with
    rings := Assoc.set (fun _ => []) b.rings src (Assoc.get (fun _ => []) b.rings src ++ [⟨seq, rcd⟩]),
    lastSeq := Assoc.set (fun _ => 0) b.lastSeq key seq,
    lastDig := Assoc.set (fun _ => []) b.lastDig key (sha384 rcd) }

/-- DUMP_DATA of a record to manager `m`, in pieces of at most 8,000 bytes (R440). -/
def Tray.dumpData (t : Tray) (m src : Nat) (r : DumpRec) : Tray :=
  t.each (chunksOf 8000 (r.data.length + 1) r.data).zipIdx (fun t a =>
    t.zsend m Z.DUMP_DATA (leBytes 8 src ++ leBytes 8 r.seq ++ leBytes 4 (8000 * a.2) ++ leBytes 4 a.1.length ++ a.1) false)

/-- A record goes to every manager that holds a lease (R441). -/
def Tray.dumpOut (t : Tray) (l : Leases) (src : Nat) (r : DumpRec) : Tray :=
  t.each [0, 1] (fun t m => if l.of m = .none then t else t.dumpData m src r)

/-- The SEQ of a record, from its header. -/
def recSeq (rcd : List Byte) : Nat := leVal ((rcd.drop 8).take 8)

/-- The data of the record of chip `c`, if every packet of it is here with the current epoch. -/
def Tray.wholeRecord (t : Tray) (c : Nat) (sent : List Byte) : Option (List Byte) :=
  let ep := t.gf (dumpPg c) F.PG_ABORT_STS_EPOCH
  let mine := t.hal.bridge.parts.filter (fun p => p.chip == c && p.epoch == ep && p.xfer == recSeq sent % 2 ^ 32)
  let want := (chunksOf 256 (sent.length + 1) sent).zipIdx
  let got := want.filterMap (fun a => mine.find? (fun p => p.off == 256 * a.2 && p.data.length == a.1.length))
  if got.length = want.length then some (got.flatMap (fun p => p.data)) else none

/-- DUMP_RECORD_DELIVER: a whole record enters the chip's ring and goes to the managers. -/
def Tray.dumpDeliver (t : Tray) (l : Leases) (c : Nat) : Tray :=
  if ¬ t.hal.up then t
  else
    match (t.chip c).dump.sending with
    | none => t
    | some sent =>
      match t.wholeRecord c sent with
      | none => t
      | some rcd =>
        let seq := recSeq rcd
        let b := t.hal.bridge.push c c seq rcd
        let b1 := { b with parts := b.parts.filter (fun p => p.chip != c),
                           latest := Assoc.set (fun _ => []) b.latest c rcd }
        let t1 := ({ t with hal := { t.hal with bridge := b1 } } : Tray).modChip c (fun x => { x with
          dump := { x.dump with sending := none, gaps := x.dump.gaps - x.dump.carried, carried := 0, prev := sha384 rcd } })
        t1.dumpOut l c ⟨seq, rcd⟩

/-- Records that every manager with a lease has acknowledged leave their ring (R441). With no lease they stay (R433). -/
def Tray.dumpPop (t : Tray) (l : Leases) : Tray :=
  if l.headless then t
  else
    let b := t.hal.bridge
    let done := fun (src seq : Nat) => [0, 1].all (fun m =>
      l.of m == .none || decide (seq < Assoc.get (fun _ => 0) b.acked (2 * src + m)))
    { t with hal := { t.hal with bridge := { b with
      rings := (b.rings.map (fun a => (a.1, a.2.filter (fun r => !done a.1 r.seq)))).filter (fun a => !a.2.isEmpty) } } }

/-! ### Seals (R383) -/

/-- Header of a record that the Halvoren writes. -/
def Tray.halHead (t : Tray) (type seq time len : Nat) : RecHead :=
  { type := type, slot := t.gf hkPg F.HK_SLOT_SLOT, chip := 7, rack := t.hal.rack.getD 0, seq := seq, time := time, len := len }

/-- SEAL: six entries and the signature. -/
def Tray.seal (t : Tray) (l : Leases) : Tray :=
  if ¬ t.hal.up then t
  else
    let b := t.hal.bridge
    let tm := t.master / 10 ^ 9 * 10 ^ 9
    let entry := fun k => leBytes 8 (Assoc.get (fun _ => 0) b.lastSeq k)
      ++ (Assoc.get (fun _ => []) b.lastDig k ++ List.replicate 48 0).take 48 ++ List.replicate 8 0
    let body := (t.halHead 3 b.sealSeq tm 640).bytes ++ (List.range 6).flatMap entry
    let rcd := body ++ leBytes 96 (Config.sealSign body).toNat ++ List.replicate 32 0
    let b1 := { b with
      rings := Assoc.set (fun _ => []) b.rings 7 (Assoc.get (fun _ => []) b.rings 7 ++ [⟨b.sealSeq, rcd⟩]),
      sealSeq := b.sealSeq + 1 }
    ({ t with hal := { t.hal with bridge := b1 } } : Tray).dumpOut l 7 ⟨b.sealSeq, rcd⟩

/-! ### Energy calibration (R385–R388) -/

/-- K_SET reaches a chip (R386); it takes effect at the next snapshot instant. -/
def Tray.kSet (t : Tray) (c k : Nat) : Tray := if t.chipRuns c then t.sf (telPg c) F.TEL_EKFACT_K k else t

/-- What a chip brings to a window: dumps enabled, its latest record, its BOOT, RAW and ENERGY_UJ of the seats there. -/
structure CalChip where
  on : Bool := false
  atT : Bool := true
  boot : Nat := 0
  raw : Nat := 0
  uj : List Nat := []
  deriving DecidableEq, Repr

/-- The words of SEAT_CNT[i] of a record. -/
def recSeat (rcd : List Byte) (m i : Nat) : Nat := leVal ((rcd.drop (128 + 256 * m + 8 * i)).take 8)

/-- A chip at window end `tm`. -/
def Tray.calChip (t : Tray) (c tm : Nat) : CalChip :=
  if ¬ t.chipRuns c ∨ ¬ t.enabled (dumpPg c) then {}
  else
    let rcd := Assoc.get (fun _ => []) t.hal.bridge.latest c
    { on := true, atT := decide (rcd ≠ []) && leVal ((rcd.drop 16).take 8) == tm,
      boot := leVal ((rcd.drop 24).take 4),
      raw := sumL ((List.range 64).map (fun m => recSeat rcd m 13)),
      uj := (List.range 64).map (fun m => recSeat rcd m 12) }

/-- A difference modulo 2^64 since the window began; after a new BOOT the value itself (R390). -/
def calDiff (same : Bool) (now old : Nat) : Nat := if same then (now + 2 ^ 64 - old % 2 ^ 64) % 2 ^ 64 else now

/-- K_NEW of a chip and whether it was clamped (R386, R388): energies in µJ, RAW in pJ, idle power in mW, window in ns. -/
def calK (old eRail idle ns raw : Nat) (degraded : Bool) : Nat × Bool :=
  if degraded ∨ raw * 100 < eRail * 10 ^ 6 ∨ raw = 0 then (old, false)
  else
    let num : Int := (eRail : Int) * 10 ^ 6 - (idle : Int) * ns
    let k := num * 2 ^ 22 / raw
    if k < 3355444 then (3355444, true) else if 5242880 < k then (5242880, true) else (k.toNat, false)

/-- CALIBRATION at a window end. -/
def Tray.calibrate (t : Tray) (l : Leases) (r : EnergyRead) : Tray :=
  let tm := t.master / 10 ^ 10 * 10 ^ 10
  let rails := fun c => (r.eRails[c]?).join
  let t0 := (t.wr (halPg 0x010) A.PWR_EIN (t.rd (halPg 0x010) A.PWR_EIN + BitVec.ofNat 64 (r.eTray.getD 0))).each
    (List.range 5) (fun t c => t.each (List.range 4) (fun t k =>
      let off := A.PWR_ERAIL + 0x20 * k
      t.wr (halPg (0x011 + c)) off (t.rd (halPg (0x011 + c)) off + BitVec.ofNat 64 ((((rails c).getD [])[k]?).getD 0))))
  let b := t.hal.bridge
  let cs := (List.range 5).map (fun c => (c, t.calChip c tm))
  if ¬ t.hal.up ∨ tm ≤ b.calT ∨ cs.any (fun a => a.2.on && !a.2.atT) then t0
  else
    let from_ := if b.calT = 0 then tm - 10 ^ 10 else b.calT
    let ns := tm - from_
    let fails := (List.range 5).any (fun c => (rails c).isNone) || r.eTray.isNone
    let phases := (List.range 5).any (fun c => (List.range 4).any (fun k =>
      t.gf (halPg (0x011 + c)) (F.PWR_PHASE_FAILED.nth k) != 0 || t.gf (halPg (0x011 + c)) (F.PWR_PHASE_UNTRUSTED.nth k) != 0))
    let degraded := fails || phases || t.hk.degraded
    let base := fun c => Assoc.get (fun _ => ((0 : Nat), (0 : Nat), ([] : List Nat))) b.calBase c
    let eR := fun c => sumL ((rails c).getD [])
    let raw := fun (a : Nat × CalChip) => if a.2.on then calDiff (a.2.boot == (base a.1).1) a.2.raw (base a.1).2.1 else 0
    let idle := fun c => (Config.idlePower c ((r.temps[c]?).getD 0)).toNat
    let old := fun c => t.gf (telPg c) F.TEL_EKFACT_K
    let ks := cs.map (fun a => (a.1, calK (old a.1) (eR a.1) (idle a.1) ns (raw a) degraded))
    let uj := fun (m : Nat) => sumL (cs.map (fun a =>
      if a.2.on then calDiff (a.2.boot == (base a.1).1) ((a.2.uj[m]?).getD 0) ((((base a.1).2.2)[m]?).getD 0) else 0))
    let eTray := match r.eTray with | some e => e | none => sumL ((List.range 5).map eR) + r.other
    let eAttr := sumL ((List.range 63).map (fun m => uj (m + 1)))
    let house := (((eTray : Int) - eAttr) % 2 ^ 64).toNat
    let flags := b2n degraded + sumL (ks.map (fun a => 2 ^ (1 + a.1) * b2n a.2.2)) + 2 ^ 6 * b2n (decide (10 ^ 10 < ns))
    let rcd := (t.halHead 2 b.calSeq tm 864).bytes
      ++ leBytes 8 from_ ++ leBytes 8 eTray ++ leBytes 8 eAttr ++ leBytes 8 house ++ leBytes 8 flags ++ List.replicate 24 0
      ++ cs.flatMap (fun a => leBytes 8 (eR a.1) ++ leBytes 8 (raw a)
          ++ leBytes 8 (old a.1 + 2 ^ 32 * (((ks[a.1]?).map (fun x => x.2.1)).getD 0)) ++ leBytes 8 (idle a.1))
      ++ (List.range 64).flatMap (fun m => leBytes 8 (if m = 0 then house else uj m))
    let b1 := b.push 7 5 b.calSeq rcd
    let b2 := { b1 with
      calSeq := b.calSeq + 1, calT := tm,
      calBase := cs.foldl (fun x a => if a.2.on then
        Assoc.set (fun _ => ((0 : Nat), (0 : Nat), ([] : List Nat))) x a.1 (a.2.boot, a.2.raw, a.2.uj) else x) b.calBase }
    let t1 := { t0 with hal := { t0.hal with bridge := b2 }, hk := { t0.hk with degraded := false } }
    let t2 := t1.each (ks.filter (fun a => t.chipRuns a.1)) (fun t a => t.ringSend 5
      [({ dst := a.1, src := 5, ccw := false, kind := 6, addr := 1 }, leBytes 8 (a.2.1 + 2 ^ 32 * b.calSeq) ++ List.replicate 24 0)])
    t2.dumpOut l 7 ⟨b.calSeq, rcd⟩

end Sys2Proof.Machine
end

