-- ==== Sys2Proof/Machine/Lanes.lean ====
section
/-! DEFINITION. Port training: the states of R122, training frames, codewords and CCFs, IDENT, the round-trip
measurement, loopback, LOS and light flooding (R28, R43, R110–R126, R130–R136, R140, R179, R482). -/
namespace Sys2Proof.Machine

/-! ### Places -/

/-- The bay of port `e` of chip `c`, and the port whose page holds the bay's registers (R25). -/
def bayOf (c e : Nat) : Nat := 8 * c + e / 8
def leadOf (c e : Nat) : Nat := portPg c (8 * (e / 8))
/-- The lead port page of bay `b`. -/
def bayPg (b : Nat) : Nat := portPg (b / 8) (8 * (b % 8))

/-- PORT_CART.TYPE and MSTATE of a port's bay. -/
def Tray.cartType (t : Tray) (c e : Nat) : Nat := t.gf (leadOf c e) F.PORT_CART_TYPE
def Tray.cartState (t : Tray) (c e : Nat) : Nat := t.gf (leadOf c e) F.PORT_CART_MSTATE

/-- The four lanes of a port. -/
def lanesOf (e : Nat) : List Nat := (List.range 4).map (fun j => 4 * e + j)

/-! ### Alarms (R146) -/

/-- Alarm `i` of a port: its bit shows the current state, a rise raises interrupt 8 + i. -/
def Tray.setAlarm (t : Tray) (c e i : Nat) (b : Bool) : Tray :=
  let pg := portPg c e
  let v := t.gf pg F.PORT_ALARM_ALARMS
  if bitOf v i = b then t
  else
    let t1 := t.sf pg F.PORT_ALARM_ALARMS (putBitOf v i b)
    if b then t1.raise pg (8 + i) else t1

/-- An alarm of a bay shows on its eight ports. -/
def Tray.bayAlarm (t : Tray) (b i : Nat) (v : Bool) : Tray :=
  t.each (List.range 8) (fun t k => t.setAlarm (b / 8) (8 * (b % 8) + k) i v)

def Al.WIRING : Nat := 0
def Al.CABLE_LEN : Nat := 1
def Al.FOM_WARN : Nat := 2
def Al.FOM_FAIL : Nat := 3
def Al.FLOOD : Nat := 4
def Al.LOS : Nat := 5
def Al.CART_FAULT : Nat := 6
def Al.WEAR_WARN : Nat := 7
def Al.WEAR_EOL : Nat := 8
def Al.SKEW : Nat := 9
def Al.LANE_ORDER : Nat := 10
def Al.NO_SPARE : Nat := 11
def Al.CMIS_FAIL : Nat := 12

/-! ### Phases (R122, R133) -/

/-- The training phase: the state, or within RETRAIN the phase of it. -/
def Tray.phase (t : Tray) (c e : Nat) : Nat := if t.pst c e = S.RETRAIN then (t.port c e).sub else t.pst c e

/-- The port moves to a later phase. -/
def Tray.setPhase (t : Tray) (c e st : Nat) : Tray :=
  if t.pst c e = S.RETRAIN then t.modPort c e (fun p => { p with sub := st }) else t.setPst c e st

/-- SIGNAL to MEASURE. -/
def isTraining (st : Nat) : Bool := decide (S.SIGNAL ≤ st) && decide (st ≤ S.MEASURE)

/-- PORT_TRAIN_STS.CAUSE. -/
def Tray.pcause (t : Tray) (c e : Nat) : Nat := t.gf (portPg c e) F.PORT_TRAIN_STS_CAUSE

/-- Every chip that is not off by fault is released, and every cabled port of it is UP or HELD (R411, R431). -/
def Tray.cabledReady (t : Tray) : Bool :=
  (List.range 5).all (fun c => bitOf (t.gf hkPg F.HK_STS_CHIP_FAULT) c ||
    ((t.chip c).coreUp && (List.range 64).all (fun e =>
      !bitOf ((t.hal.cabled[c]?).getD 0) e || t.pst c e == S.UP || t.pst c e == S.HELD)))

/-- ENABLE of page 0x000 of each released chip is set, XOFF released (R109, R431). -/
def Tray.chipsGo (t : Tray) : Tray :=
  t.each (List.range 5) (fun t c =>
    if (t.chip c).coreUp then (t.sb (chip0 c) F.PG_CTL_ENABLE true).quiesceEnd c else t)

/-- A tray that became ACTIVE before its ports were ready carries traffic once they are (R431). -/
def Tray.roleGo (t : Tray) : Tray :=
  if t.hal.waitPorts ∧ t.cabledReady then
    ({ t with hal := { t.hal with waitPorts := false } } : Tray).chipsGo
  else t

/-- A training attempt fails (R122, R123, R133). -/
def Tray.trainFail (t : Tray) (c e cause : Nat) : Tray :=
  if t.pst c e = S.RETRAIN then t.portLeave c e cause
  else
    let t1 := t.sat (portPg c e) F.PORT_TRAIN_STS_ATTEMPTS 1
    (t1.portTo c e (if heldCause cause then S.HELD else S.HOLDOFF) cause).roleGo

/-- A wiring fault: WIRE_FAULT, the wiring alarm, the log entry with the partner's identity, HELD (R43). -/
def Tray.wiringFault (t : Tray) (c e cause : Nat) : Tray :=
  let c0 := chip0 c
  let x := ((t.port c e).ident).getD {}
  let t1 := (t.trainFail c e cause).sf c0 F.CHIP_WIRE_FAULT_WIRE_FAULT
    (setBitOf (t.gf c0 F.CHIP_WIRE_FAULT_WIRE_FAULT) e)
  (t1.setAlarm c e Al.WIRING true).logChip (if cause = Cz.LANE_ORDER then .laneOrder else .wiring) c
    [e, x.rack, x.ep, x.slot, x.chip]

/-- R28: the chip's place in the rack is known. -/
def Tray.topoOk (t : Tray) (c : Nat) : Bool :=
  t.is (chip0 c) F.CHIP_TOPO_TOPO_VALID && t.gf (chip0 c) F.CHIP_TOPO_SLOT != 15 &&
  decide (t.gf (chip0 c) F.CHIP_TOPO_CHIP_IDX < 5)

/-- The lanes of a port are at FULL rate without loopback (R140). -/
def Tray.lanesPlain (t : Tray) (c e : Nat) : Bool :=
  (lanesOf e).all (fun n => t.gf (lanePg c n) F.LANE_CFG_RATE == 0 && t.gf (lanePg c n) F.LANE_CFG_LOOPBACK == 0)

/-! ### Equaliser (R121, R129, R130) -/

/-- c(−3) to c(1) of a preset, in two's complement of 8 bits. -/
def presetTaps (p : Nat) : Nat :=
  let mk := fun (a b c d e : Int) => ([a, b, c, d, e].zipIdx).foldl (fun s x => s + ((x.1 % 256).toNat) * 2 ^ (8 * x.2)) 0
  match p with
  | 1 => mk 0 0 (-4) 58 (-2)
  | 2 => mk 0 2 (-8) 52 (-2)
  | 3 => mk 1 3 (-12) 46 (-2)
  | 4 => mk 0 1 (-6) 55 (-2)
  | 5 => mk 0 0 (-2) 62 0
  | 9 => mk 0 0 (-4) 58 (-2)
  | _ => mk 0 0 0 64 0

/-- Live taps and CTLE code. -/
def Tray.setEq (t : Tray) (c n : Nat) (q : EqState) : Tray :=
  (t.sf (lanePg c n) F.LANE_EQ_STS_TAPS q.taps).sf (lanePg c n) F.LANE_EQ_STS_CTLE q.ctle

/-- Training starts from the preset. -/
def Tray.loadPreset (t : Tray) (c n : Nat) : Tray :=
  t.sf (lanePg c n) F.LANE_EQ_STS_TAPS (presetTaps (t.gf (lanePg c n) F.LANE_CFG_TX_PRESET))

/-- Tap `i` of the live taps, signed. -/
def tapAt (taps i : Nat) : Int := let v := taps / 2 ^ (8 * i) % 256; if v < 128 then v else (v : Int) - 256
def tapPut (taps i : Nat) (v : Int) : Nat := taps - taps / 2 ^ (8 * i) % 256 * 2 ^ (8 * i) + (v % 256).toNat * 2 ^ (8 * i)

/-- A lane's training state begins anew. -/
def LaneSt.restart (l : LaneSt) : LaneSt :=
  { l with alignRun := 0, peerReq := 0, ackOut := 0, ownReq := 0, ownAck := 0, readyRun := 0, switchOut := false,
           switchIn := false }

/-! ### Into the states -/

/-- RETRAIN begins: TUNE from each lane's checkpoint (R133). -/
def Tray.enterRetrain (t : Tray) (c e : Nat) : Tray :=
  let t1 := (t.setPst c e S.RETRAIN).modPort c e (fun p => { p with
    sub := S.TUNE, linkOk := false, peerLinkOk := false, floodOwn := false, floodPeer := false, remeasuring := false,
    tokens := [], echoes := [], prev := p.ident })
  t1.each (lanesOf e) (fun t n =>
    let l := t.lane c n
    (match l.checkpoint with | some q => t.setEq c n q | none => t.loadPreset c n).setLane c n l.restart)

/-- SIGNAL begins, with the presets of the lanes. -/
def Tray.enterSignal (t : Tray) (c e : Nat) : Tray :=
  ((t.setPst c e S.SIGNAL).each (lanesOf e) (fun t n => (t.loadPreset c n).modLane c n LaneSt.restart)).modPort c e
    (fun p => { p with ident := none })

/-- UP: counters, alarms of training clear, the spare is in place, the reservation is made (R29, R122, R129, R168). -/
def Tray.enterUp (t : Tray) (c e : Nat) : Tray :=
  let pg := portPg c e
  let c0 := chip0 c
  let t1 := ((t.setPst c e S.UP).sf pg F.PORT_TRAIN_STS_ATTEMPTS 0).cnt pg F.PORT_TRAIN_STS_UP_COUNT 1
  let t2 := t1.sf c0 F.CHIP_WIRE_FAULT_WIRE_FAULT (clrBitOf (t1.gf c0 F.CHIP_WIRE_FAULT_WIRE_FAULT) e)
  let t3 := t2.each [Al.WIRING, Al.CABLE_LEN, Al.FOM_FAIL, Al.SKEW, Al.LANE_ORDER] (fun t i => t.setAlarm c e i false)
  let sp := (t3.port c e).spareLane.isSome
  let t4 := t3.modPort c e (fun p => { p with
    sub := 0, spareLane := none, rx := {}, tx := { p.tx with pos := 0, fpos := 0 }, derivedCable := t.gf pg F.PORT_RTT_CABLE,
    groupSeen := [], groupGood := false, floodOwn := false, floodPeer := false, floodBlock := false })
  let t5 := if sp then ((t4.sb pg F.PORT_SPARE_BUSY false).sf pg F.PORT_SPARE_RESULT 1).raise pg 23 else t4
  ((t5.updResv c e).markDirty pg).roleGo

/-! ### SIGNAL and TUNE -/

/-- SIGNAL_DETECT: energy on all four lanes of a port in DOWN (R122, R134, R140). -/
def Tray.signalDetect (t : Tray) (c e : Nat) : Tray :=
  let ty := t.cartType c e
  if t.pst c e = S.DOWN ∧ (t.chip c).coreUp ∧ bitOf (t.gf (chip0 c) F.CHIP_TXPLL_LOCK_LOCK) e ∧ 1 ≤ ty ∧ ty ≤ 3
      ∧ t.cartState c e = 3 ∧ ¬ (t.port c e).floodBlock then
    if t.lanesPlain c e then t.enterSignal c e else t.setPst c e S.DIAG
  else t

/-- CDR_LOCK: SIGNAL becomes TUNE. -/
def Tray.cdrLock (t : Tray) (c e : Nat) : Tray :=
  if t.phase c e = S.SIGNAL then
    (t.setPhase c e S.TUNE).each (lanesOf e) (fun t n => t.sb (lanePg c n) F.LANE_STS_CDR_LOCK true)
  else t

/-- What a tap request does: the taps and the acknowledgement, 1 done, 2 at limit, 3 not supported (R120). -/
def tapAct (taps tap req preset : Nat) : Nat × Nat :=
  if req = 3 then (if preset ≤ 5 then (presetTaps preset, 1) else (taps, 3))
  else if 4 < tap then (taps, 3)
  else
    let v := tapAt taps tap + (if req = 1 then 1 else -1)
    if v < -16 ∨ 63 < v then (taps, 2) else (tapPut taps tap v, 1)

/-- Control word of a training frame, CRC included (R120). -/
def ctrlWord (req ack : Nat) (ready sw : Bool) (fom fseq : Nat) : Word :=
  let v := req % 2 ^ 9 + 2 ^ 9 * (ack % 4) + 2 ^ 11 * b2n ready + 2 ^ 12 * b2n sw + 2 ^ 16 * (fom % 256)
    + 2 ^ 24 * (fseq % 256)
  BitVec.ofNat 64 (v + 2 ^ 48 * crc16 (leBytes 6 v))

/-- The control word's CRC passes. -/
def ctrlOk (w : Word) : Bool := crc16 (leBytes 6 w.toNat) == fieldOf w 48 16

/-- All four lanes have exchanged SWITCH: the port is in codeword mode. -/
def Tray.tuneDone (t : Tray) (c e : Nat) : Tray :=
  if t.phase c e = S.TUNE ∧ (lanesOf e).all (fun n => (t.lane c n).switchOut && (t.lane c n).switchIn) then
    t.setPhase c e S.ALIGN
  else t

/-- TRAINING_FRAME: the partner's request is acted on, its acknowledgement taken, and the lane's next frame formed; after
eight frames with RX_READY both ways it carries SWITCH (R120). In FLOOD_HOLD the partner's training frames start RETRAIN
(R135). -/
def Tray.trainingFrame (t : Tray) (c n : Nat) (cw : Word) (ready : Bool) (wish : Nat) : Tray :=
  let e := n / 4
  if ¬ ctrlOk cw then t
  else
    let t0 := if t.pst c e = S.FLOOD_HOLD ∧ ¬ (t.port c e).floodOwn then t.enterRetrain c e else t
    if t0.phase c e ≠ S.TUNE then t0
    else
      let pg := lanePg c n
      let l := t0.lane c n
      let req := fieldOf cw 0 9
      let op := fieldOf cw 3 2
      let act := tapAct (t0.gf pg F.LANE_EQ_STS_TAPS) (fieldOf cw 0 3) op (fieldOf cw 5 4)
      let isNew := decide (op ≠ 0) && req != l.peerReq
      let t1 := if isNew then t0.sf pg F.LANE_EQ_STS_TAPS act.1 else t0
      let ack := if op = 0 then 0 else if isNew then act.2 else l.ackOut
      -- the tray's own request stands until three frames in a row acknowledge it
      let acks := if l.ownReq ≠ 0 ∧ fieldOf cw 9 2 ≠ 0 then l.ownAck + 1 else 0
      let own := if l.ownReq = 0 ∨ 3 ≤ acks then wish else l.ownReq
      let both := fieldOf cw 11 1 == 1 && ready
      let run := if both then l.readyRun + 1 else 0
      let sw := l.switchOut || decide (8 ≤ run)
      let l1 : LaneSt := { l with
        peerReq := if op = 0 then 0 else req, ackOut := ack, ownReq := own, ownAck := if 3 ≤ acks then 0 else acks,
        readyRun := run, switchOut := sw, switchIn := l.switchIn || fieldOf cw 12 1 == 1, peerFom := fieldOf cw 16 8,
        fseq := (l.fseq + 1) % 256 }
      let t2 := t1.setLane c n l1
      let t3 := if l.switchOut then t2
        else t2.emit (.train c n (ctrlWord own ack ready sw (t.gf pg F.LANE_FOM_CUR) l.fseq))
      t3.tuneDone c e

/-! ### Codewords (R112–R116) -/

/-- The tray's IDENT goes out on a port (R117, R179). -/
def Tray.sendIdent (t : Tray) (c e : Nat) : Tray :=
  let f := fun (x : Fld) => t.gf (chip0 c) x
  t.emit (.maint c e (identFrame (f F.CHIP_TOPO_RACK_ID) e (f F.CHIP_TOPO_SLOT) (f F.CHIP_TOPO_CHIP_IDX)
    (t.pst c e == S.RETRAIN)))

/-- ALIGN is complete when each lane has four consistent codewords in a row: CW_LOCK, then IDENT. -/
def Tray.alignCheck (t : Tray) (c e : Nat) : Tray :=
  if t.phase c e = S.ALIGN ∧ (lanesOf e).all (fun n => decide (4 ≤ (t.lane c n).alignRun)) then
    ((t.setPhase c e S.IDENT).each (lanesOf e) (fun t n => t.sb (lanePg c n) F.LANE_STS_CW_LOCK true)).sendIdent c e
  else t

/-- The codewords of a group: XOFF comes from any that decodes; a group without one acts as XOFF for every class (R115).
`bits` are the XOFF bits of this codeword, none where it failed. -/
def Tray.groupCw (t : Tray) (c n : Nat) (bits : Option Nat) : Tray :=
  let e := n / 4
  let p := t.port c e
  let fresh := decide (4 ≤ p.groupSeen.length) || p.groupSeen.contains (n % 4)
  let seen := (if fresh then [] else p.groupSeen) ++ [n % 4]
  let good := (if fresh then false else p.groupGood) || bits.isSome
  let forced := if good then false else if seen.length = 4 then true else p.xoffForced
  (t.setPort c e { p with
    groupSeen := seen, groupGood := good, xoffForced := forced, xoffRx := bits.getD p.xoffRx }).stormEnd c e

/-- A failed codeword: counted, its ten flits discarded; the receiver loses its place (R116, R152). -/
def Tray.cwFail (t : Tray) (c n : Nat) : Tray :=
  let e := n / 4
  let t1 := (t.cnt (lanePg c n) F.LANE_FEC_UNC_COUNT 1).modLane c n (fun l => { l with
    uncSeen := true, alignRun := 0, wUnc := l.wUnc + 1, tUnc := l.tUnc + 1 })
  let t2 := t1.cnt (portPg c e) F.PORT_CW_DROP_FLITS 10
  if t.up c e then (if (t2.port c e).rx.hunt then t2 else t2.enterHunt c e) else t2

/-- A decoded codeword while the port aligns (R122, R123). -/
def Tray.cwAlign (t : Tray) (c n lane seq skew : Nat) : Tray :=
  let e := n / 4
  let l := t.lane c n
  let run := if l.alignRun ≠ 0 ∧ seq = (l.lastSeq + 1) % 16 then l.alignRun + 1 else 1
  if t.phase c e = S.ALIGN ∧ lane ≠ n % 4 then (t.wiringFault c e Cz.LANE_ORDER).setAlarm c e Al.LANE_ORDER true
  else if t.phase c e = S.ALIGN ∧ 4 ≤ run ∧ 200 < skew then
    (t.trainFail c e Cz.SKEW).setAlarm c e Al.SKEW true
  else (t.setLane c n { l with alignRun := if lane = n % 4 then run else 0, lastSeq := seq }).alignCheck c e

/-- CODEWORD_RECEIVE (R116). -/
def Tray.codeword (t : Tray) (c n : Nat) (r : CwResult) : Tray :=
  let e := n / 4
  let pg := lanePg c n
  let ph := t.phase c e
  let locked := ph == S.IDENT || ph == S.IDENT_WAIT || ph == S.MEASURE || ph == S.UP || ph == S.FLOOD_HOLD
  if ph = S.ALIGN ∨ locked ∨ (ph = S.TUNE ∧ (t.lane c n).switchIn) then
    let t1 := t.cnt pg F.LANE_FEC_CW_COUNT 1
    match r with
    | .failed => let t2 := t1.cwFail c n; if locked then t2.groupCw c n none else t2
    | .decoded ccf corr skew =>
      let t2 := if corr = 0 then t1 else ((t1.cnt pg F.LANE_FEC_CORR_COUNT 1).cnt pg F.LANE_FEC_SYM_COUNT corr).modLane c n
        (fun l => { l with wCorr := l.wCorr + 1 })
      let t3 := t2.sf pg F.LANE_STS_SKEW (satTo 255 skew)
      if locked then
        let ok := fieldOf ccf 11 1 == 1
        (t3.groupCw c n (some (fieldOf ccf 6 4))).modPort c e (fun p => { p with
          peerLinkOk := if ph = S.UP then ok else p.peerLinkOk && ok })
      else t3.cwAlign c n (fieldOf ccf 0 2) (fieldOf ccf 2 4) skew
  else t

/-! ### MEASURE (R126) -/

/-- One ECHO_REQ goes out under a new token, `order` its place in the order of sending. -/
def Tray.sendEcho (t : Tray) (c e : Nat) : Tray :=
  let p := t.port c e
  (t.setPort c e { p with
    tokens := p.tokens ++ [(p.nextToken, p.nextOrder)], nextToken := (p.nextToken + 1) % 65536,
    nextOrder := p.nextOrder + 1 }).emit (.maint c e (noteFrame M.ECHO_REQ p.nextToken))

/-- A measurement begins with 16 requests. -/
def Tray.beginEchoes (t : Tray) (c e : Nat) : Tray :=
  (t.modPort c e (fun p => { p with tokens := [], echoes := [], nextOrder := 0 })).each (List.range 16)
    (fun t _ => t.sendEcho c e)

/-- Echoes in ascending order of interval, those sent first before others of equal interval. -/
def echoInsert (x : Echo) : List Echo → List Echo
  | [] => [x]
  | y :: l => if x.interval < y.interval ∨ (x.interval = y.interval ∧ x.order < y.order) then x :: y :: l
    else y :: echoInsert x l

/-- The lower median: the eighth of 16. -/
def medianEcho (l : List Echo) : Option Echo := (l.foldl (fun a x => echoInsert x a) [])[7]?

/-- One-way delay in units of 0.25 ns. -/
def Echo.cable (x : Echo) : Nat := (x.interval - x.residence) / 2

/-- UP follows when the tray's own steps and the partner's LINK_OK are complete. -/
def Tray.tryUp (t : Tray) (c e : Nat) : Tray :=
  let p := t.port c e
  if t.phase c e = S.MEASURE ∧ p.linkOk ∧ p.peerLinkOk then t.enterUp c e else t

/-- The sixteenth interval has arrived: PORT_RTT, the check of R31, LINK_OK. -/
def Tray.echoesDone (t : Tray) (c e : Nat) (m : Echo) : Tray :=
  let pg := portPg c e
  let t1 := (((t.sf pg F.PORT_RTT_RTT_RAW m.interval).sf pg F.PORT_RTT_RESIDENCE m.residence).sf pg F.PORT_RTT_CABLE
    m.cable).cnt pg F.PORT_RTT_MEAS_CNT 1
  let t2 := t1.modPort c e (fun p => { p with tokens := [], echoes := [], remeasuring := false })
  if 640 < m.cable then
    let t3 := if t.up c e then t2.portLeave c e Cz.CABLE_LENGTH else t2.trainFail c e Cz.CABLE_LENGTH
    (t3.setAlarm c e Al.CABLE_LEN true).logChip .cableLength c [e, m.cable]
  else if t.up c e then
    let d := (t2.port c e).derivedCable
    if d + 8 < m.cable ∨ m.cable + 8 < d then
      (t2.modPort c e (fun p => { p with derivedCable := m.cable })).markDirty pg
    else t2
  else (t2.modPort c e (fun p => { p with linkOk := true })).tryUp c e

/-- ECHO_RSP: a response awaited and no later than 2 µs gives an interval. -/
def Tray.echoRsp (t : Tray) (c e : Nat) (f : MFrame) (interval : Nat) : Tray :=
  let p := t.port c e
  let tok := fNum f 2 2
  if ¬ fOk f ∨ fByte f 0 ≠ M.ECHO_RSP ∨ 8000 < interval then t
  else
    match p.tokens.find? (fun a => a.1 == tok) with
    | none => t
    | some a =>
      let es := p.echoes ++ [⟨a.2, interval, fNum f 4 4⟩]
      let t1 := t.setPort c e { p with tokens := p.tokens.filter (fun b => b.1 != tok), echoes := es }
      if es.length < 16 then t1
      else match medianEcho es with
        | some m => t1.echoesDone c e m
        | none => t1

/-- ECHO_TIMEOUT: a new request under a new token takes the place of the missing one. -/
def Tray.echoTimeout (t : Tray) (c e tok : Nat) : Tray :=
  let p := t.port c e
  if p.tokens.any (fun a => a.1 == tok) then
    (t.setPort c e { p with tokens := p.tokens.filter (fun b => b.1 != tok) }).sendEcho c e
  else t

/-- RTT_REMEASURE: the repeat while UP begins, or its 10 ms pass without 16 intervals. -/
def Tray.remeasure (t : Tray) (c e : Nat) (r : Remeasure) : Tray :=
  let p := t.port c e
  if ¬ t.up c e then t
  else
    match r with
    | .begins => if p.remeasuring then t else (t.setPort c e { p with remeasuring := true }).beginEchoes c e
    | .expires =>
      if p.remeasuring then
        (t.setPort c e { p with remeasuring := false, tokens := [], echoes := [] }).logChip .rttMiss c [e]
      else t

/-- ECHO_REQ: answered with the same token (R119). -/
def Tray.echoReq (t : Tray) (c e : Nat) (f : MFrame) (residence : Nat) : Tray :=
  let ph := t.phase c e
  if fOk f ∧ fByte f 0 = M.ECHO_REQ ∧ (ph = S.IDENT ∨ ph = S.IDENT_WAIT ∨ ph = S.MEASURE ∨ ph = S.UP) then
    t.emit (.maint c e (mkFrame (M.ECHO_RSP + 2 ^ 16 * fNum f 2 2 + 2 ^ 32 * residence)))
  else t

/-- PARTNER_LINK_OK: 16 consecutive groups with LINK_OK = 1 (R122). -/
def Tray.partnerLinkOk (t : Tray) (c e : Nat) : Tray :=
  let ph := t.phase c e
  if ph = S.IDENT ∨ ph = S.IDENT_WAIT ∨ ph = S.MEASURE ∨ ph = S.UP then
    (t.modPort c e (fun p => { p with peerLinkOk := true })).tryUp c e
  else t

/-! ### IDENT (R43, R117, R124, R133, R167, R179) -/

/-- The identity agrees with the wiring rule. -/
def Tray.identWired (t : Tray) (c e : Nat) (x : IdentInfo) : Bool :=
  let f := fun (y : Fld) => t.gf (chip0 c) y
  x.kind == 0 && x.rack == f F.CHIP_TOPO_RACK_ID && x.ep == e && x.slot == f F.CHIP_TOPO_SLOT &&
  x.chip == f F.CHIP_TOPO_CHIP_IDX

/-- The identity fields agree. -/
def IdentInfo.same (x y : IdentInfo) : Bool :=
  x.rack == y.rack && x.ep == y.ep && x.slot == y.slot && x.chip == y.chip && x.kind == y.kind

/-- The checks of an IDENT, then MEASURE. -/
def Tray.identCheck (t : Tray) (c e : Nat) (x : IdentInfo) : Tray :=
  let p := t.port c e
  let re := t.pst c e == S.RETRAIN
  let changed : Bool := match p.prev with | some y => !x.same y | none => false
  if ¬ t.identWired c e x ∨ (re ∧ changed) then t.wiringFault c e Cz.WIRING
  else if 200 < x.react ∨ 500 < x.rxLat ∨ 500 < x.txLat then t.trainFail c e Cz.PARTNER
  else if re ∧ ¬ x.resume then t.portLeave c e Cz.ABORT
  else (t.setPhase c e S.MEASURE).beginEchoes c e

/-- What the partner declares is shown (R146). -/
def Tray.showPartner (t : Tray) (c e : Nat) (x : IdentInfo) : Tray :=
  let pg := portPg c e
  (((((((((t.sf pg F.PORT_PARTNER_RACK_ID x.rack).sf pg F.PORT_PARTNER_EP x.ep).sf pg F.PORT_PARTNER_SLOT x.slot).sf pg
    F.PORT_PARTNER_CHIP x.chip).sf pg F.PORT_PARTNER_KIND x.kind).sf pg F.PORT_PARTNER_PROTO x.proto).sf pg
    F.PORT_PARTNER_LAT_RX_LAT_NS x.rxLat).sf pg F.PORT_PARTNER_LAT_TX_LAT_NS x.txLat).sf pg
    F.PORT_PARTNER_LAT_REACT_NS x.react).sf pg F.PORT_PARTNER_LAT_CAPS x.caps

/-- IDENT: taken in IDENT or IDENT_WAIT; while the chip's place is not known the port waits (R28, R122). -/
def Tray.identFrameIn (t : Tray) (c e : Nat) (f : MFrame) : Tray :=
  let ph := t.phase c e
  if fOk f ∧ fByte f 0 = M.IDENT ∧ (ph = S.IDENT ∨ ph = S.IDENT_WAIT) then
    let x := identOf f
    let t1 := (t.showPartner c e x).modPort c e (fun p => { p with ident := some x })
    if t.topoOk c then t1.identCheck c e x else t1.setPhase c e S.IDENT_WAIT
  else t

/-- IDENT_WAIT_RELEASE. -/
def Tray.identRelease (t : Tray) (c e : Nat) : Tray :=
  match (t.port c e).ident with
  | some x => if t.phase c e = S.IDENT_WAIT ∧ t.topoOk c then t.identCheck c e x else t
  | none => t

/-! ### Bounds (R122, R133, R134) -/

/-- The cause of the timeout of a phase. -/
def Tray.phaseCause (t : Tray) (c e : Nat) : Option Nat :=
  let ph := t.phase c e
  if ph = S.SIGNAL then some Cz.SIGNAL_TIMEOUT
  else if ph = S.TUNE then some Cz.TUNE_TIMEOUT
  else if ph = S.ALIGN then some Cz.ALIGN_TIMEOUT
  else if ph = S.IDENT ∨ (ph = S.IDENT_WAIT ∧ t.pst c e = S.RETRAIN) then some Cz.IDENT_TIMEOUT
  else if ph = S.MEASURE then some (if (t.port c e).linkOk then Cz.PARTNER else Cz.MEASURE_TIMEOUT)
  else none

/-- TRAINING_PHASE_TIMEOUT: the bound of the phase passes. IDENT_WAIT has none; in RETRAIN only TUNE has its own, the
later phases lie within the 60 ms. -/
def Tray.phaseTimeout (t : Tray) (c e : Nat) : Tray :=
  if t.pst c e = S.RETRAIN ∧ t.phase c e ≠ S.TUNE then t
  else match t.phaseCause c e with
    | some z => t.trainFail c e z
    | none => t

/-- RETRAIN_TIMEOUT: 60 ms pass. -/
def Tray.retrainTimeout (t : Tray) (c e : Nat) : Tray :=
  if t.pst c e = S.RETRAIN then
    (match t.phaseCause c e with | some z => t.portLeave c e z | none => t)
  else t

/-- HOLDOFF_END. -/
def Tray.holdoffEnd (t : Tray) (c e : Nat) : Tray :=
  if t.pst c e = S.HOLDOFF then
    t.setPst c e (if t.is (portPg c e) F.PORT_TRAIN_CTL_AUTO_RETRY then S.DOWN else S.HELD)
  else t

/-! ### Operator (R140, R146) -/

/-- PORT_RESTART: a live port aborts; training starts from presets; HELD is left. -/
def Tray.portRestart (t : Tray) (c e : Nat) : Tray :=
  let st := t.pst c e
  if t.live c e then t.portLeave c e Cz.ABORT
  else if isTraining st ∨ st = S.HELD ∨ st = S.HOLDOFF then t.portTo c e S.DOWN (t.pcause c e)
  else t

/-- PORT_DIAG: DIAG is set or cleared. A disabled port stays disabled. -/
def Tray.portDiag (t : Tray) (c e : Nat) (on : Bool) : Tray :=
  let pg := portPg c e
  let t1 := t.sb pg F.PORT_TRAIN_CTL_DIAG on
  let st := t.pst c e
  if st = S.DISABLED then t1
  else if on then
    if st = S.DIAG then t1
    else if t.live c e then t1.portLeave c e Cz.ABORT
    else t1.portTo c e S.DIAG (t.pcause c e)
  else if st = S.DIAG ∧ t.is pg F.PORT_TRAIN_CTL_DIAG then t1.portTo c e S.DOWN (t.pcause c e)
  else t1

/-- The port page's ENABLE changes (R122). -/
def Tray.portEnable (t : Tray) (c e : Nat) (on : Bool) : Tray :=
  let pg := portPg c e
  if on then
    if t.pst c e = S.DISABLED then t.setPst c e (if t.is pg F.PORT_TRAIN_CTL_DIAG then S.DIAG else S.DOWN) else t
  else if t.live c e then t.portLeave c e Cz.ABORT
  else if t.pst c e = S.DISABLED then t else t.portTo c e S.DISABLED (t.pcause c e)

/-- LOOP_REQ: accepted only while allowed and not ACTIVE; the port then enters DIAG with FAR_LOOP, or leaves it. -/
def Tray.loopReq (t : Tray) (c e : Nat) (f : MFrame) : Tray :=
  let pg := portPg c e
  if ¬ fOk f ∨ fByte f 0 ≠ M.LOOP_REQ ∨ t.pst c e = S.DISABLED then t
  else if ¬ t.is pg F.PORT_TRAIN_CTL_ALLOW_REMOTE_LOOP ∨ t.role c = 1 then t.emit (.maint c e (noteFrame M.LOOP_ACK 1))
  else
    let t1 := t.emit (.maint c e (noteFrame M.LOOP_ACK 0))
    if fByte f 2 = 1 then
      let t2 := if t.live c e then t1.portTo c e S.DIAG Cz.ABORT else t1.portTo c e S.DIAG (t.pcause c e)
      t2.sb pg F.PORT_TRAIN_CTL_FAR_LOOP true
    else
      let t2 := t1.sb pg F.PORT_TRAIN_CTL_FAR_LOOP false
      if t.pst c e = S.DIAG ∧ ¬ t.is pg F.PORT_TRAIN_CTL_DIAG then t2.portTo c e S.DOWN (t.pcause c e) else t2

/-- LOOP_ACK: the answer to the tray's own request is kept. -/
def Tray.loopAck (t : Tray) (c e : Nat) (f : MFrame) : Tray :=
  if fOk f ∧ fByte f 0 = M.LOOP_ACK then t.modPort c e (fun p => { p with loopAck := some (fByte f 2 == 0) }) else t

/-- RETRAIN_REQ: reason 1 retrains as after a flood, reason 2 restarts the port. -/
def Tray.retrainReq (t : Tray) (c e : Nat) (f : MFrame) : Tray :=
  if fOk f ∧ fByte f 0 = M.RETRAIN_REQ ∧ t.up c e then
    if fByte f 2 = 1 then t.enterRetrain c e
    else if fByte f 2 = 2 then t.portLeave c e Cz.ABORT
    else t
  else t

/-- LANE_SLIP: the word boundary moves only in DIAG without AUTO_ALIGN (R141). -/
def Tray.laneSlip (t : Tray) (c n : Nat) (v : Word) (o : Origin) : Tray :=
  let pg := lanePg c n
  if t.pst c (n / 4) = S.DIAG ∧ ¬ t.is pg F.LANE_DIAG_AUTO_ALIGN then
    t.modLane c n (fun l => { l with slip := l.slip + fieldOf v 0 8 })
  else t.recErr pg 0x40 o

/-! ### Freezes, LOS, floods (R130–R136, R482) -/

/-- A lane freezes: adaptation stops, the checkpoint is restored (R130). -/
def Tray.freezeLane (t : Tray) (c n : Nat) : Tray :=
  let pg := lanePg c n
  if t.gf pg F.LANE_STS_STATE ≠ 3 then t
  else
    let t1 := ((t.sf pg F.LANE_STS_STATE 4).sat pg F.LANE_EVT_FREEZES 1).raise pg 9
    match (t.lane c n).checkpoint with
    | some q => t1.setEq c n q
    | none => t1

/-- LANE_FREEZE. -/
def Tray.laneFreeze (t : Tray) (c n : Nat) (g : FreezeTrigger) : Tray :=
  let t1 := t.freezeLane c n
  match g with
  | .saturation => t1.sb (lanePg c n) F.LANE_STS_SAT true
  | _ => t1

/-- FREEZE_EXIT: 1,024 codewords in a row have decoded while the sideband reports NORMAL. -/
def Tray.freezeExit (t : Tray) (c n : Nat) : Tray :=
  let pg := lanePg c n
  if t.gf pg F.LANE_STS_STATE = 4 ∧ (t.lane c n).side = 0 then
    (t.sf pg F.LANE_STS_STATE (laneStateOf (t.pst c (n / 4)))).sb pg F.LANE_STS_SAT false
  else t

/-- LANE_CHECKPOINT: taken while AVG holds FOM_WARN and no uncorrectable codeword has come (R129). -/
def Tray.laneCheckpoint (t : Tray) (c n : Nat) : Tray :=
  let pg := lanePg c n
  let l := t.lane c n
  if t.gf pg F.LANE_STS_STATE = 3 ∧ l.foms ≠ [] ∧ t.gf pg F.LANE_FOM_FOM_WARN ≤ t.gf pg F.LANE_FOM_AVG ∧ ¬ l.uncSeen then
    t.setLane c n { l with checkpoint := some ⟨t.gf pg F.LANE_EQ_STS_TAPS, t.gf pg F.LANE_EQ_STS_CTLE⟩ }
  else t.setLane c n { l with uncSeen := false }

/-- The LOS alarm follows the lanes. -/
def Tray.losAlarm (t : Tray) (c e : Nat) : Tray :=
  t.setAlarm c e Al.LOS ((lanesOf e).any (fun n => t.is (lanePg c n) F.LANE_STS_LOS))

/-- A lane begins or ceases to report LOS; in FLOOD_HOLD and RETRAIN it acts at once (R134, R482). -/
def Tray.laneLos (t : Tray) (c n : Nat) (los : Bool) : Tray :=
  let pg := lanePg c n
  let e := n / 4
  if t.is pg F.LANE_STS_LOS = los then t
  else
    let t1 := (t.sb pg F.LANE_STS_LOS los).losAlarm c e
    if ¬ los then t1
    else
      let t2 := t1.sat pg F.LANE_EVT_LOS_CNT 1
      if t.pst c e = S.FLOOD_HOLD ∨ t.pst c e = S.RETRAIN then (t2.portLeave c e Cz.LOS).logChip .los c [e, n] else t2

/-- LOS_TIMEOUT: a LOS of 1 ms (R482). -/
def Tray.losTimeout (t : Tray) (c n : Nat) : Tray :=
  let e := n / 4
  if ¬ t.is (lanePg c n) F.LANE_STS_LOS then t
  else if t.up c e then (t.portLeave c e Cz.LOS).logChip .los c [e, n]
  else if isTraining (t.pst c e) then t.trainFail c e Cz.LOS
  else t

/-- FREEZE_LOS_TIMEOUT: without a trusted sideband a freeze of 10 µs is treated as LOS (R136). -/
def Tray.freezeLos (t : Tray) (c n : Nat) : Tray :=
  if (t.bay (bayOf c (n / 4))).cartFault ∧ t.gf (lanePg c n) F.LANE_STS_STATE = 4 then t.laneLos c n true else t

/-- SIDEBAND_FRAME: lane states of an SC-L cartridge (R132, R136). -/
def Tray.sideband (t : Tray) (b : Nat) (states : Word) (ok : Bool) : Tray :=
  let c := b / 8
  if t.gf (bayPg b) F.PORT_CART_TYPE ≠ 3 then t
  else if ¬ ok then
    let k := (t.bay b).sideFail + 1
    let t1 := t.modBay b (fun x => { x with sideFail := k, cartFault := x.cartFault || decide (4 ≤ k) })
    t1.bayAlarm b Al.CART_FAULT (t1.bay b).cartFault
  else
    let st := fun (j : Nat) => fieldOf states (2 * j) 2
    let bad := (List.range 32).any (fun j => st j == 3)
    let t1 := (t.modBay b (fun x => { x with sideFail := 0, cartFault := bad })).bayAlarm b Al.CART_FAULT bad
    t1.each (List.range 32) (fun t j =>
      let n := 32 * (b % 8) + j
      let t2 := (t.modLane c n (fun l => { l with side := st j })).sb (lanePg c n) F.LANE_STS_FLOOD (st j == 2)
      t2.laneLos c n (st j == 1))

/-- The port enters FLOOD_HOLD: received flits are lost until UP (R132). -/
def Tray.enterHold (t : Tray) (c e : Nat) : Tray := (t.setPst c e S.FLOOD_HOLD).rxLost c e

/-- FLOOD_DECLARE (R132, R134). -/
def Tray.floodDeclare (t : Tray) (c e : Nat) : Tray :=
  if t.cartType c e ≠ 3 then t
  else
    let st := t.pst c e
    let hit := (lanesOf e).filter (fun n => (t.lane c n).side == 2)
    let t1 := (t.each (if hit = [] then lanesOf e else hit) (fun t n => t.sat (lanePg c n) F.LANE_EVT_FLOOD_CNT 1))
    let t2 := (t1.setAlarm c e Al.FLOOD true).logChip .flood c [e]
    if st = S.UP then
      let t3 := t2.each (lanesOf e) (fun t n => ((t.cnt (lanePg c n) F.LANE_FEC_CW_COUNT 1).cnt (lanePg c n)
        F.LANE_FEC_UNC_COUNT 1).cnt (portPg c e) F.PORT_CW_DROP_FLITS 10)
      let t4 := (t3.each (lanesOf e) (fun t n => (t.freezeLane c n).modLane c n (fun l => { l with uncSeen := true }))).modPort
        c e (fun p => { p with linkOk := false, floodOwn := true, remeasuring := false, tokens := [], echoes := [] })
      (t4.enterHold c e).emit (.maint c e (noteFrame M.FLOOD_NOTE 1))
    else if st = S.FLOOD_HOLD then t2.modPort c e (fun p => { p with floodOwn := true })
    else if st = S.RETRAIN then (t2.portLeave c e Cz.ABORT).modPort c e (fun p => { p with floodBlock := true })
    else if isTraining st then (t2.portTo c e S.DOWN (t.pcause c e)).modPort c e (fun p => { p with floodBlock := true })
    else t2.modPort c e (fun p => { p with floodBlock := true })

/-- FLOOD_CLEAR: every lane has reported NORMAL for 10 ms (R133, R134). -/
def Tray.floodClear (t : Tray) (c e : Nat) : Tray :=
  if (lanesOf e).any (fun n => (t.lane c n).side != 0) then t
  else
    let p := t.port c e
    let t1 := (t.setPort c e { p with floodOwn := false, floodBlock := false }).setAlarm c e Al.FLOOD false
    let t2 := if p.floodOwn then t1.emit (.maint c e (noteFrame M.FLOOD_NOTE 0)) else t1
    if t.pst c e = S.FLOOD_HOLD ∧ ¬ p.floodPeer then t2.enterRetrain c e else t2

/-- FLOOD_HOLD_TIMEOUT (R134). -/
def Tray.holdTimeout (t : Tray) (c e : Nat) : Tray :=
  if t.pst c e = S.FLOOD_HOLD then
    let b := (lanesOf e).any (fun n => (t.lane c n).side != 0)
    ((t.portLeave c e Cz.FLOOD_TIMEOUT).modPort c e (fun p => { p with floodBlock := b })).logChip .floodTimeout c [e]
  else t

/-- FLOOD_NOTE (R135). -/
def Tray.floodNote (t : Tray) (c e : Nat) (f : MFrame) : Tray :=
  if ¬ fOk f ∨ fByte f 0 ≠ M.FLOOD_NOTE then t
  else if fByte f 2 = 1 then
    if t.up c e then (t.enterHold c e).modPort c e (fun p => { p with floodPeer := true, floodOwn := false })
    else if t.pst c e = S.FLOOD_HOLD then t.modPort c e (fun p => { p with floodPeer := true })
    else t
  else if t.pst c e = S.FLOOD_HOLD then
    let t1 := t.modPort c e (fun p => { p with floodPeer := false })
    if (t.port c e).floodOwn then t1 else t1.enterRetrain c e
  else t

/-- PARTNER_LINK_LOSS: LINK_OK = 0 for 1 ms while UP, no FLOOD_NOTE (R135). -/
def Tray.linkLoss (t : Tray) (c e : Nat) : Tray :=
  if t.up c e ∧ ¬ (t.port c e).peerLinkOk then (t.portLeave c e Cz.PARTNER).logChip .partner c [e] else t

end Sys2Proof.Machine
end

