-- ==== Sys2Proof/Machine/Clocks.lean ====
section
/-! DEFINITION. The Dealer clock, discipline, scrubs, and clock failures (R56–R68). -/
namespace Sys2Proof.Machine

/-! ### The Dealer clock (R59, R62–R64) -/

/-- The effective target: the lesser of REQ_MHZ and CAP_MHZ, never below 600. -/
def Tray.dealTarget (t : Tray) (c : Nat) : Nat :=
  max 600 (min (t.gf (chip0 c) F.CHIP_DEAL_CLK_REQ_MHZ) (t.gf (chip0 c) F.CHIP_DEAL_CLK_CAP_MHZ))

/-- A change to the effective target starts unless one is in progress or the target runs already (R62, R63). -/
def Tray.dealChange (t : Tray) (c : Nat) : Tray :=
  let pg := chip0 c
  if t.is pg F.CHIP_DEAL_CLK_CHANGING ∨ t.dealTarget c = t.gf pg F.CHIP_DEAL_CLK_CUR_MHZ then t
  else (t.sb pg F.CHIP_DEAL_CLK_CHANGING true).modChip c (fun x => { x with chgTarget := t.dealTarget c })

/-- CK_DEAL runs from the floor PLL. -/
def Tray.dealFloor (t : Tray) (c : Nat) : Tray :=
  (t.sf (chip0 c) F.CHIP_DEAL_CLK_CUR_MHZ 600).sb (chip0 c) F.CHIP_CLK_STS_ON_FLOOR true

/-- A cap below the running frequency sends CK_DEAL to the floor PLL (R64). -/
def Tray.dealCapCheck (t : Tray) (c : Nat) : Tray :=
  if t.gf (chip0 c) F.CHIP_DEAL_CLK_CAP_MHZ < t.gf (chip0 c) F.CHIP_DEAL_CLK_CUR_MHZ then t.dealFloor c else t

/-- DEAL_CLK_REQUEST: a write to CHIP_DEAL_CLK. -/
def Tray.dealRequest (t : Tray) (c : Nat) (v : Word) (o : Origin) : Tray :=
  let r := F.CHIP_DEAL_CLK_REQ_MHZ.get v
  if ¬ (Enc.step 600 1250 25).ok r then t.recErr (chip0 c) E.RESERVED_ENC o
  else
    let t1 := t.sf (chip0 c) F.CHIP_DEAL_CLK_REQ_MHZ r
    if (t.chip c).coreUp then t1.dealChange c else t1

/-- DEAL_CLK_CHANGE_DONE: the change in progress completes; one further change goes to the latest target (R63). -/
def Tray.dealDone (t : Tray) (c : Nat) : Tray :=
  let pg := chip0 c
  if ¬ t.is pg F.CHIP_DEAL_CLK_CHANGING then t
  else
    let t1 := (t.sb pg F.CHIP_DEAL_CLK_CHANGING false).sf pg F.CHIP_DEAL_CLK_CUR_MHZ (t.chip c).chgTarget
    ((t1.sb pg F.CHIP_CLK_STS_ON_FLOOR false).dealCapCheck c).dealChange c

/-- DEAL_CAP_CHANGE: CAP_MHZ becomes `cap` (R64, R407). -/
def Tray.dealCap (t : Tray) (c cap : Nat) : Tray :=
  if ¬ t.chipOn c then t
  else
    let t1 := (t.sf (chip0 c) F.CHIP_DEAL_CLK_CAP_MHZ cap).dealCapCheck c
    if (t.chip c).coreUp then t1.dealChange c else t1

/-! ### Scrubs (R61) -/

/-- SCRUB_REENABLE: 0 kitty, 1 SRAM, 2 HBM. -/
def Tray.scrubReenable (t : Tray) (c which : Nat) : Tray :=
  let f := match which with | 0 => F.CHIP_BG_CTL_KITTY_SCRUB | 1 => F.CHIP_BG_CTL_SRAM_SCRUB | _ => F.CHIP_BG_CTL_HBM_SCRUB
  if ¬ t.chipOn c ∨ t.is (chip0 c) f then t else (t.sfBoth (chip0 c) f 1).logChip .scrubReenabled c [which]

/-! ### Clock failures (R57, R67) -/

/-- A fault of R67: CLOCK_FAULT is raised and an event-log entry written. -/
def Tray.clockFault (t : Tray) (c : Nat) (ev : Ev) (data : List Nat) : Tray := (t.raise (chip0 c) 8).logChip ev c data

/-- A lock loss: its bit falls and LOSS_CNT counts. -/
def Tray.lockLost (t : Tray) (c : Nat) (f : Fld) : Tray := (t.sb (chip0 c) f false).sat (chip0 c) F.CHIP_CLK_STS_LOSS_CNT 1

/-- A whole-chip quiesce, the dump's abort included. -/
def Tray.quiesceChip (t : Tray) (c : Nat) : Tray := t.quiesce c (fun t => t.dumpAbort c)

/-- REF_LOSS. -/
def Tray.refLoss (t : Tray) (c : Nat) : Tray :=
  if ¬ t.chipOn c ∨ ¬ t.is (chip0 c) F.CHIP_CLK_STS_REF_OK then t
  else
    let t1 := (t.sb (chip0 c) F.CHIP_CLK_STS_REF_OK false).clockFault c .refLoss []
    if (t.chip c).coreUp then t1.quiesceChip c else t1

/-- CORE_PLL_UNLOCK: XOFF everywhere, what CK_CORE held is lost. -/
def Tray.coreUnlock (t : Tray) (c : Nat) : Tray :=
  if ¬ t.chipOn c ∨ ¬ t.is (chip0 c) F.CHIP_CLK_STS_CORE_LOCK then t
  else
    let t1 := ((t.lockLost c F.CHIP_CLK_STS_CORE_LOCK).clockFault c .corePll []).flushCore c false
    t1.each (List.range 64) (fun t e =>
      if t.live c e then
        (t.rxLost c e).modPort c e (fun p => { p with
          xoffHold := true, snapq := [], tx := { p.tx with cur := none, curSnap := none, ins := none, insSnap := none,
                                                           sent := 0, insSent := 0, brk := false, lit := false } })
      else t)

/-- CORE_PLL_RELOCK: the switch core leaves reset; XOFF is released unless the chip is quiesced. -/
def Tray.coreRelock (t : Tray) (c : Nat) : Tray :=
  if ¬ t.chipOn c ∨ t.is (chip0 c) F.CHIP_CLK_STS_CORE_LOCK then t
  else
    let t1 := t.sb (chip0 c) F.CHIP_CLK_STS_CORE_LOCK true
    if t.enabled (chip0 c) then t1.quiesceEnd c else t1

/-- DEALER_PLL_UNLOCK: CK_DEAL moves to the floor PLL. -/
def Tray.dealerUnlock (t : Tray) (c : Nat) : Tray :=
  if ¬ t.chipOn c ∨ ¬ t.is (chip0 c) F.CHIP_CLK_STS_DEAL_LOCK then t
  else ((t.dealFloor c).sat (chip0 c) F.CHIP_CLK_STS_LOSS_CNT 1).clockFault c .dealerPll []

/-- ALL_DEALER_PLLS_UNLOCK: every job and every table of the chip aborts; switching goes on. -/
def Tray.allDealerUnlock (t : Tray) (c : Nat) : Tray :=
  if ¬ t.chipOn c ∨ ¬ t.is (chip0 c) F.CHIP_CLK_STS_DEAL_LOCK then t
  else
    let t1 := (t.lockLost c F.CHIP_CLK_STS_DEAL_LOCK).clockFault c .allDealerPlls []
    (t1.dealerAbort c).each (List.range 256) (fun t tb => if t.tst c tb = T.FREE then t else t.tableAbort c tb St.ABORTED none)

/-- Jobs with an item spilled to stack `k` of the chip itself, where the spill area lies on it. -/
def Tray.spillJobs (t : Tray) (c k : Nat) : List Nat :=
  if memOf (page2M * t.gf (dlrPg c) F.DLR_SPILL_BASE_2M) = .hbm k then
    (List.range 32).filter (fun j => (t.dealer c).pool.any (fun i => i.spilled && i.slot == j))
  else []

/-- HBM_PLL_UNLOCK: the stack's spill streams abort with the jobs that use them. -/
def Tray.hbmUnlock (t : Tray) (c k : Nat) : Tray :=
  let f := if k = 0 then F.CHIP_CLK_STS_HBM0_LOCK else F.CHIP_CLK_STS_HBM1_LOCK
  if ¬ t.chipOn c ∨ ¬ t.is (chip0 c) f then t
  else
    let t1 := ((t.lockLost c f).clockFault c .hbmPll [k]).spillAbort c k
    (t1.each (t.spillJobs c k) (fun t j => t.jobAbort c j)).dealerSweep c

/-- TX_PLL_UNLOCK: the port goes down as by its port abort. -/
def Tray.txUnlock (t : Tray) (c q : Nat) : Tray :=
  let l := t.gf (chip0 c) F.CHIP_TXPLL_LOCK_LOCK
  if ¬ t.chipOn c ∨ ¬ bitOf l q then t
  else
    let t1 := ((t.sf (chip0 c) F.CHIP_TXPLL_LOCK_LOCK (clrBitOf l q)).sat (chip0 c) F.CHIP_CLK_STS_LOSS_CNT 1).clockFault c
      .txPll [q]
    if t.live c q ∨ isTraining (t.pst c q) then t1.portLeave c q Cz.TX_PLL else t1

/-- TX_PLL_RECAL: idle flits fill the port (R131). -/
def Tray.txRecal (t : Tray) (c q : Nat) : Tray :=
  if (t.chip c).coreUp ∧ bitOf (t.gf (chip0 c) F.CHIP_TXPLL_LOCK_LOCK) q ∧ t.live c q then t.emit (.recalIdle c q) else t

/-- PCIE_LINK_DOWN: forwarding goes on; requests no longer reach the chip. -/
def Tray.pcieDown (t : Tray) (c : Nat) : Tray :=
  if ¬ (t.chip c).pcieUp then t
  else (t.modChip c (fun x => { x with pcieUp := false })).clockFault c .pcieDown []

/-- PCIE_LINK_RETRAINED. -/
def Tray.pcieRetrained (t : Tray) (c : Nat) : Tray :=
  if t.chipOn c ∧ (t.chip c).released then t.modChip c (fun x => { x with pcieUp := true }) else t

/-- DISCIPLINE_LOSS (R57). -/
def Tray.timeLoss (t : Tray) (c : Nat) : Tray :=
  if ¬ t.is (chip0 c) F.CHIP_CLK_STS_TIME_LOCKED then t
  else (t.sb (chip0 c) F.CHIP_CLK_STS_TIME_LOCKED false).clockFault c .discipline []

/-- DISCIPLINE_REGAIN: within 4 ns of the time master CK_TIME is disciplined again (R56). -/
def Tray.timeRegain (t : Tray) (c : Nat) (time : Nat) : Tray :=
  if ¬ (t.chip c).coreUp ∨ ¬ (time ≤ t.master + 4 ∧ t.master ≤ time + 4) then t
  else (t.wr (chip0 c) A.CHIP_TIME (BitVec.ofNat 64 time)).sb (chip0 c) F.CHIP_CLK_STS_TIME_LOCKED true

end Sys2Proof.Machine
end

