-- ==== Sys2Proof/Machine/Cartridge.lean ====
section
/-! DEFINITION. The figure of merit (R127, R128), laser wear and sparing (R137–R139), cartridges and their two-wire bus
(R142–R144, R147, R459). -/
namespace Sys2Proof.Machine

/-! ### Figure of merit -/

/-- round(−16 × log10(syms / bits)) clipped to 0–255: the greatest k whose half-unit bound syms^32 × 10^(2k − 1) ≤ bits^32
holds. -/
def fomOf (syms bits : Nat) : Nat :=
  ((List.range 255).filter (fun i => decide (syms ^ 32 * 10 ^ (2 * i + 1) ≤ bits ^ 32))).length

/-- The FOM_WARN alarm of a port follows its lanes. -/
def Tray.fomAlarm (t : Tray) (c e : Nat) : Tray :=
  t.setAlarm c e Al.FOM_WARN ((lanesOf e).any (fun n => (t.lane c n).fomWarn))

/-- A 1 ms value enters the 60 s window and the wiring test's record (R441, R452, R453). -/
def LaneSt.window (l : LaneSt) (cur : Nat) : LaneSt :=
  { l with wMin := min l.wMin cur, wSum := l.wSum + cur, wCnt := l.wCnt + 1, wLow := l.wLow + b2n (decide (cur < 90)),
           tMin := min l.tMin cur }

/-- FOM_INTERVAL: CUR, AVG, MIN; thresholds are judged while the port is UP (R127, R128). -/
def Tray.fomInterval (t : Tray) (c n syms bits eye : Nat) : Tray :=
  let pg := lanePg c n
  let e := n / 4
  if t.gf pg F.LANE_STS_STATE = 0 then t
  else
    let cur := if 100 ≤ syms then fomOf syms bits else eye
    let l := t.lane c n
    let foms := (cur :: l.foms).take 8
    let avg := sumL foms / foms.length
    let warn := t.gf pg F.LANE_FOM_FOM_WARN
    let isWarn := if avg < warn then true else if warn + 8 ≤ avg then false else l.fomWarn
    let up := t.up c e
    let t1 := ((t.sf pg F.LANE_FOM_CUR cur).sf pg F.LANE_FOM_AVG avg).wmMin pg F.LANE_FOM_MIN cur
    let t2 := t1.setLane c n ({ l with foms := foms, fomWarn := if up then isWarn else l.fomWarn }.window cur)
    if ¬ up then t2
    else
      let t3 := ((if isWarn && !l.fomWarn then t2.raise pg 8 else t2)).fomAlarm c e
      if avg < t.gf pg F.LANE_FOM_FOM_FAIL then
        ((t3.setAlarm c e Al.FOM_FAIL true).portLeave c e Cz.FOM_FAIL).logChip .laneFail c [e, n, avg]
      else t3

/-! ### Sparing (R138) -/

/-- The spare of the group that a port's lanes belong to is unused. -/
def Tray.spareFree (t : Tray) (c e : Nat) : Bool := bitOf (t.gf (leadOf c e) F.PORT_CART_SPARES_LEFT) (e % 8 / 2)

/-- The cartridge switches lane `n` to its group's spare laser. -/
def Tray.useSpare (t : Tray) (c n : Nat) : Tray :=
  let e := n / 4
  let lead := leadOf c e
  let t1 := t.sf lead F.PORT_CART_SPARES_LEFT (clrBitOf (t.gf lead F.PORT_CART_SPARES_LEFT) (e % 8 / 2))
  let t2 := ((t1.sb (lanePg c n) F.LANE_STS_SPARED true).raise (lanePg c n) 11).modLane c n
    (fun l => { l with worn := false, eol := false })
  t2.emit (.spare (bayOf c e) (n % 32))

/-- Sparing of lane `n` starts: refused without an SC-L cartridge or a spare; a port that is UP retrains (R138). -/
def Tray.startSpare (t : Tray) (c n : Nat) : Tray :=
  let e := n / 4
  let pg := portPg c e
  let done := fun (t : Tray) (r : Nat) => (t.sf pg F.PORT_SPARE_RESULT r).raise pg 23
  if t.cartType c e ≠ 3 then done t 3
  else if ¬ t.spareFree c e then done t 2
  else if t.up c e then
    let t1 := (t.sb pg F.PORT_SPARE_BUSY true).sf pg F.PORT_SPARE_RESULT 0
    let t2 := (t1.emit (.maint c e (noteFrame M.RETRAIN_REQ 1))).useSpare c n
    (t2.enterRetrain c e).modPort c e (fun p => { p with spareLane := some (n % 4) })
  else done (t.useSpare c n) 1

/-- LANE_SPARE: PORT_SPARE is written. -/
def Tray.laneSpare (t : Tray) (c e : Nat) (v : Word) (o : Origin) : Tray :=
  let pg := portPg c e
  let j := F.PORT_SPARE_LANE.get v
  if F.PORT_SPARE_GO.get v = 1 ∧ t.is pg F.PORT_SPARE_BUSY then (t.sf pg F.PORT_SPARE_LANE j).recErr pg 0x41 o
  else
    let t1 := t.sf pg F.PORT_SPARE_LANE j
    if F.PORT_SPARE_GO.get v = 1 then t1.startSpare c (4 * e + j) else t1

/-! ### Wear (R137, R139) -/

/-- The wear alarms of a port follow its lanes. -/
def Tray.wearAlarms (t : Tray) (c e : Nat) : Tray :=
  let any := fun (f : LaneSt → Bool) => (lanesOf e).any (fun n => f (t.lane c n))
  ((t.setAlarm c e Al.WEAR_WARN (any LaneSt.worn)).setAlarm c e Al.WEAR_EOL (any LaneSt.eol)).setAlarm c e Al.NO_SPARE
    (any LaneSt.noSpare)

/-- A failed laser is spared at once, or the port goes down with LASER_FAIL (R137). -/
def Tray.laserFail (t : Tray) (c n : Nat) : Tray :=
  let e := n / 4
  if t.cartType c e ≠ 3 then t
  else if t.spareFree c e then t.startSpare c n
  else
    let t1 := ((t.modLane c n (fun l => { l with noSpare := true })).wearAlarms c e).logChip .laserFail c [e, n]
    if t.live c e then t1.portLeave c e Cz.LASER_FAIL
    else if isTraining (t.pst c e) then t1.trainFail c e Cz.LASER_FAIL
    else t1

/-- WEAR_READ. The ratio of a laser without a BOL bias is a free value. -/
def Tray.wearRead (t : Tray) (c n bias bol hours : Nat) (failed : Bool) : Tray :=
  let e := n / 4
  let pg := lanePg c n
  if t.cartType c e ≠ 3 ∨ t.cartState c e ≠ 3 ∨ (t.bay (bayOf c e)).cmisFail then t
  else
    let (r, t0) := if bol = 0 then t.free 16 else (satTo 65535 (bias * 1024 / bol), t)
    let worn := if bol = 0 then decide (13 * 1024 ≤ 10 * r) else decide (13 * bol ≤ 10 * bias)
    let eol := if bol = 0 then decide (3 * 1024 ≤ 2 * r) else decide (3 * bol ≤ 2 * bias)
    let t1 := ((t0.sf pg F.LANE_WEAR_RATIO r).sf pg F.LANE_WEAR_BIAS bias).sf pg F.LANE_WEAR_HOURS hours
    let none := eol && !t.spareFree c e
    let l := t.lane c n
    let t2 := (t1.setLane c n { l with worn := worn, eol := eol, noSpare := none || l.noSpare }).wearAlarms c e
    let t3 := if (worn && !l.worn) || (eol && !l.eol) then t2.logChip .wear c [e, n, r] else t2
    if failed then t3.laserFail c n
    else if eol ∧ t.spareFree c e ∧ t.is (portPg c e) F.PORT_TRAIN_CTL_SPARE_AUTO_EOL ∧ t.role c ≠ 1 then
      (t3.startSpare c n).wearAlarms c e
    else t3

/-- Sums of the least-squares line of (hours, ratio × 1,024) samples: n, Σx, Σy, n Σxy − Σx Σy, n Σx² − (Σx)². -/
def fitLine (l : List (Nat × Nat)) : Int × Int × Int × Int × Int :=
  let n : Int := l.length
  let sx : Int := sumL (l.map (fun a => a.1))
  let sy : Int := sumL (l.map (fun a => a.2))
  let sxy : Int := sumL (l.map (fun a => a.1 * a.2))
  let sxx : Int := sumL (l.map (fun a => a.1 * a.1))
  (n, sx, sy, n * sxy - sx * sy, n * sxx - sx * sx)

/-- Hours from the last sample until the line reaches 1.50, and until a laser that starts at 1.00 with the same slope
does; none: never. -/
def lifeHours (l : List (Nat × Nat)) : Option (Int × Int) :=
  let f := fitLine l
  let n := f.1
  let sx := f.2.1
  let sy := f.2.2.1
  let a := f.2.2.2.1
  let d := f.2.2.2.2
  if a ≤ 0 ∨ n = 0 then none
  else
    let now : Int := maxL (l.map (fun x => x.1))
    some (max 0 ((sx * a + (1536 * n - sy) * d) / (n * a) - now), 512 * d / a)

/-- The hours at which a group of lasers needs spares: the failures of its lasers and, where the spare is unused, of that
spare after the first of them; in ascending order. -/
def groupFails (ls : List (Option (Int × Int))) (spare : Bool) : Option Int :=
  let hs := ls.filterMap id
  let first := hs.foldl (fun b x => match b with
    | none => some x
    | some (y : Int × Int) => if x.1 < y.1 then some x else some y) none
  match first with
  | none => none
  | some f =>
    if spare then
      let rest := (hs.erase f).map (fun x => x.1) ++ [f.1 + f.2]
      some (rest.foldl min (f.1 + f.2))
    else some f.1

/-- The record covers 30 days. -/
def covers30 (l : List (Nat × Nat)) : Bool :=
  match l.map (fun a => a.1) with
  | [] => false
  | h :: t => decide ((t.foldl min h) + 720 ≤ t.foldl max h)

/-- WEAR_FORECAST: days until some group needs more spares than it holds, and the worst ratio (R139). -/
def Tray.wearForecast (t : Tray) (b : Nat) (samples : List (List (Nat × Nat))) : Tray :=
  if t.gf (bayPg b) F.PORT_CART_TYPE ≠ 3 then t
  else
    let worst := maxL (samples.map (fun l => ((l.getLast?).map (fun a => a.2)).getD 0))
    let fc : Option Nat :=
      if samples.length = 32 ∧ samples.all covers30 then
        let lives := samples.map lifeHours
        let sp := t.gf (bayPg b) F.PORT_CART_SPARES_LEFT
        let groups := (List.range 4).filterMap (fun g => groupFails ((lives.drop (8 * g)).take 8) (bitOf sp g))
        match groups with
        | [] => none
        | x :: rest => some ((rest.foldl min x) / 24).toNat
      else none
    t.modBay b (fun x => { x with forecast := fc, worst := worst })

/-! ### Cartridges (R142–R144) -/

/-- The ports of a bay. -/
def bayPorts (b : Nat) : List Nat := (List.range 8).map (fun k => 8 * (b % 8) + k)

/-- The bay's ports are held with cause CART: live ones after their port abort, disabled ones stay (R143). -/
def Tray.bayHold (t : Tray) (b : Nat) : Tray :=
  t.each (bayPorts b) (fun t e => if t.pst (b / 8) e = S.DISABLED then t else t.portTo (b / 8) e S.HELD Cz.CART)

/-- The pages whose measured inputs are the bay's cartridge (R89, R145, R166). -/
def Tray.bayDirty (t : Tray) (b : Nat) : Tray :=
  let t1 := t.each (bayPorts b) (fun t e => t.markDirty (portPg (b / 8) e))
  t1.each (List.range 32) (fun t j => t.markDirty (lanePg (b / 8) (32 * (b % 8) + j)))

/-- CMIS_FAIL of a bay begins or ends (R144). -/
def Tray.cmisFail (t : Tray) (b : Nat) (on : Bool) : Tray :=
  let t1 := (t.modBay b (fun x => { x with cmisFail := on })).bayAlarm b Al.CMIS_FAIL on
  if on ∧ ¬ (t.bay b).cmisFail then t1.logChip .cmisFail (b / 8) [b] else t1

/-- CART_INSERT: identity is read and power-up requested; a cartridge outside the subset, or one marked incompatible, is
unsupported and its ports are held (R143, R144, R459). Reseating frees held ports. -/
def Tray.cartInsert (t : Tray) (b : Nat) (x : CartInfo) : Tray :=
  let pg := bayPg b
  let c := b / 8
  if (t.bay b).info.isSome ∨ ¬ (t.chip c).coreUp then t
  else
    let known := decide (1 ≤ x.kind) && decide (x.kind ≤ 3) && x.answers && x.hasApp
    let t1 := ((t.modBay b (fun y => { y with info := some x })).cmisFail b (!x.answers)).sf pg F.PORT_CART_TYPE
      (if known then x.kind else 15)
    let t2 := ((t1.sf pg F.PORT_CART_MSTATE (if known then 2 else 1)).sf pg F.PORT_CART_LEN_DM x.lenDm).sf pg F.PORT_CART_FW x.fw
    let t3 := (t2.sf pg F.PORT_CART_SPARES_LEFT (if known ∧ x.kind = 3 then x.spares else 0)).bayDirty b
    let t4 := if x.compat = 1 then t3.logChip .cartFw c [b, x.kind, x.fw] else t3
    if ¬ known ∨ x.compat = 2 then (t4.bayHold b).logChip .cartUnsupported c [b, x.kind, x.fw]
    else t4.each (bayPorts b) (fun t e => if t.pst c e = S.HELD then t.setPst c e S.DOWN else t)

/-- CART_READY: the cartridge reports Ready and the tray activates its eight data paths; ports then train (R144). One that
is held as unsupported or incompatible stays so. -/
def Tray.cartReady (t : Tray) (b : Nat) : Tray :=
  let pg := bayPg b
  match (t.bay b).info with
  | none => t
  | some x =>
    let ty := t.gf pg F.PORT_CART_TYPE
    if 1 ≤ ty ∧ ty ≤ 3 ∧ x.compat ≠ 2 ∧ ¬ (t.bay b).hot then t.sf pg F.PORT_CART_MSTATE 3 else t

/-- CART_REMOVE: live ports abort with cause CART and are held; others go to DOWN (R144, R123). -/
def Tray.cartRemove (t : Tray) (b : Nat) : Tray :=
  let pg := bayPg b
  let c := b / 8
  if (t.bay b).info.isNone then t
  else
    let t1 := (t.cmisFail b false).bayAlarm b Al.CART_FAULT false
    let t2 := t1.wr pg A.PORT_CART 0
    let t3 := (t2.modBay b (fun x => { cmis := x.cmis })).each (List.range 32) (fun t j =>
      let n := 32 * (b % 8) + j
      (((t.wr (lanePg c n) A.LANE_WEAR 0).sb (lanePg c n) F.LANE_STS_SPARED false).sb (lanePg c n) F.LANE_STS_FLOOD
        false).modLane c n (fun l => { l with side := 0, worn := false, eol := false, noSpare := false }))
    let t4 := t3.each (bayPorts b) (fun t e =>
      let st := t.pst c e
      let t' := t.wearAlarms c e
      if t.live c e then t'.portLeave c e Cz.CART
      else if st = S.DISABLED ∨ st = S.DIAG then t'
      else t'.portTo c e S.DOWN Cz.CART)
    (t4.bayDirty b).logChip .cartRemoved c [b]

/-- CMIS_INTERRUPT: module state, and lasers that report a fault or a bias or power alarm (R137, R142). -/
def Tray.cmisInterrupt (t : Tray) (b : Nat) (fl : CmisFlags) : Tray :=
  if (t.bay b).info.isNone then t
  else
    let t1 := t.sf (bayPg b) F.PORT_CART_MSTATE fl.mstate
    t1.each (bitsOf 32 fl.txFail) (fun t j => t.laserFail (b / 8) (32 * (b % 8) + j))

/-! ### Software transactions (R147) -/

/-- Controls of the cartridge that the tray owns: the software low-power request (lower page, byte 26), DataPathDeinit
(page 10h, byte 128), the application select codes (page 10h, bytes 145 to 152), the sparing controls (page B0h). The
byte addresses are those of CMIS (PRESUMED, log 20). -/
def trayOwned (pg addr len : Nat) : Bool :=
  let hits := fun (lo hi : Nat) => decide (addr ≤ hi) && decide (lo < addr + len)
  hits 26 26 || (pg == 0x10 && (hits 128 128 || hits 145 152)) || (pg == 0xB0 && hits 128 255)

/-- CMIS_TRANSACTION: PORT_CMIS_CMD is written. -/
def Tray.cmisCmd (t : Tray) (b : Nat) (v : Word) (o : Origin) : Tray :=
  let pg := bayPg b
  let go := F.PORT_CMIS_CMD_GO.get v == 1
  if go ∧ t.is pg F.PORT_CMIS_STS_BUSY then t.recErr pg 0x40 o
  else
    let len := F.PORT_CMIS_CMD_LEN.get v
    let bad := len = 0 ∨ 8 < len
    let v1 := v &&& BitVec.ofNat 64 0xFFFFFFF02
    let v3 := if bad then F.PORT_CMIS_CMD_LEN.put v1 (t.gf pg F.PORT_CMIS_CMD_LEN) else v1
    let t1 := (if bad then t.recErr pg E.RESERVED_ENC o else t).wr pg A.PORT_CMIS_CMD v3
    if ¬ go then t1
    else if F.PORT_CMIS_CMD_WRITE.get v3 = 1 ∧ trayOwned (F.PORT_CMIS_CMD_PAGE.get v3) (F.PORT_CMIS_CMD_ADDR.get v3)
        (F.PORT_CMIS_CMD_LEN.get v3) then
      ((t1.sf pg F.PORT_CMIS_STS_RESULT 3).sb pg F.PORT_CMIS_STS_DONE true).raise pg 22
    else
      ((t1.sb pg F.PORT_CMIS_STS_BUSY true).sb pg F.PORT_CMIS_STS_DONE false).modBay b (fun x => { x with cmis := some v3 })
        |>.emit (.cmis b v3 (t.rd pg A.PORT_CMIS_DATA))

/-- CMIS_DONE: the transaction ends. -/
def Tray.cmisDone (t : Tray) (b : Nat) (r : CmisEnd) : Tray :=
  let pg := bayPg b
  match (t.bay b).cmis with
  | none => t
  | some v =>
    let t1 := ((t.modBay b (fun x => { x with cmis := none })).sb pg F.PORT_CMIS_STS_BUSY false).sb pg F.PORT_CMIS_STS_DONE true
    let t2 := match r with
      | .ok d =>
        let t' := (t1.sf pg F.PORT_CMIS_STS_RESULT 0).cmisFail b false
        if F.PORT_CMIS_CMD_WRITE.get v = 1 then t'
        else t'.wr pg A.PORT_CMIS_DATA (d &&& maskW (8 * F.PORT_CMIS_CMD_LEN.get v))
      | .noAck => (t1.sf pg F.PORT_CMIS_STS_RESULT 1).cmisFail b true
      | .pageNotAdvertised => (t1.sf pg F.PORT_CMIS_STS_RESULT 2)
    t2.raise pg 22

end Sys2Proof.Machine
end

