-- ==== Sys2Proof/Machine/Commit.lean ====
section
/-! DEFINITION. Profiles, staged fields and COMMIT (R87–R97, R125, R471): safe points, derivation, agreement rules. -/
namespace Sys2Proof.Machine

/-! ### The staged set (R77, R91) -/

/-- The registers with staged fields of a page: active offset and mask of the RWS fields. -/
def stagedRegs (pg : Nat) : List (Nat × Word) :=
  match pageKind pg with
  | none => []
  | some k =>
    ((hdrRegs ++ blockRegs k).filter (fun r => r.rwsMask != 0)).flatMap (fun r =>
      (List.range r.cnt).map (fun i => (r.off + r.stride * i, r.rwsMask)))

/-- The set that a swap would make active: every staged field at its shadow value. -/
def Tray.swapped (t : Tray) (pg : Nat) : Tray :=
  t.each (stagedRegs pg) (fun t a =>
    t.wr pg a.1 ((t.rd pg a.1 &&& ~~~a.2) ||| (t.rd pg (a.1 + 0x800) &&& a.2)))

/-- Every shadow takes its active copy (R95). -/
def Tray.alignShadows (t : Tray) (pg : Nat) : Tray :=
  t.each (stagedRegs pg) (fun t a => t.wr pg (a.1 + 0x800) (t.rd pg a.1 &&& a.2))

/-! ### Derivations (R87, R89) -/

/-- TX preset of a lane under AUTO, from cartridge type and length in 0.1 m. -/
def txPreset (type len : Nat) : Nat :=
  match type with
  | 1 => if len ≤ 15 then 1 else 2
  | 2 => if len ≤ 25 then 4 else 3
  | _ => 5

/-- Headroom of R166 in cells: CABLE and REACT in 0.25 ns and ns, the cartridge's type and length. In hundredths of a
nanosecond: C = max(CABLE, min(C_type, 160 ns)) + 2 ns. -/
def headroomCells (cable react type len : Nat) : Nat :=
  let ct := match type with
    | 1 => 46 * len
    | 2 => 46 * len + 180
    | _ => 50 * len + 350
  let cc := max (25 * cable) (min ct 16000) + 200
  ceilDiv (4000 + 2 * cc + 100 * react + 7000 + 256000) 25600

/-- The expert fields of a page with the values that its profile derives; none where the measured input has not been
obtained. `p` holds the swapped-in set. -/
def Tray.derivation (p : Tray) (pg : Nat) : List (Fld × Option Nat) :=
  let c := pg / 4096
  let prof := p.gf pg F.PG_CTL_PROFILE
  let all := fun (l : List (Fld × Nat)) => l.map (fun a => (a.1, some a.2))
  match pageKind pg with
  | some .chip0 => all [(F.CHIP_BG_CTL_KITTY_SCRUB, 1), (F.CHIP_BG_CTL_SRAM_SCRUB, 1), (F.CHIP_BG_CTL_HBM_SCRUB, 1),
      (F.CHIP_BG_CTL_PAUSE_S, 60)]
  | some .lane =>
    let lead := leadOf c ((pg % 4096 - 0x100) / 4)
    let ty := p.gf lead F.PORT_CART_TYPE
    let known := decide (1 ≤ ty) && decide (ty ≤ 3)
    let tx := txPreset ty (p.gf lead F.PORT_CART_LEN_DM)
    [(F.LANE_CFG_TX_PRESET, if known then some tx else none), (F.LANE_CFG_RX_PRESET, if known then some (ty - 1) else none),
      (F.LANE_CFG_ADAPT, some 0), (F.LANE_FOM_FOM_WARN, some 80), (F.LANE_FOM_FOM_FAIL, some 58)]
  | some .port =>
    let lead := leadOf c (pg % 4096 - 0x010)
    let ty := p.gf lead F.PORT_CART_TYPE
    let h := if p.rd pg A.PORT_RTT = 0 ∨ ty = 0 ∨ 3 < ty then none
      else some (headroomCells (p.gf pg F.PORT_RTT_CABLE) (p.gf pg F.PORT_PARTNER_LAT_REACT_NS) ty
        (p.gf lead F.PORT_CART_LEN_DM))
    [(F.PORT_FC_HDRM_HDRM_TC0, h), (F.PORT_FC_HDRM_HDRM_TC1, h), (F.PORT_FC_HDRM_HDRM_TC2, h),
      (F.PORT_FC_HDRM_HDRM_TC3, h), (F.PORT_CFG_CUT_THROUGH, some 7)]
  | some .sched => all [(F.SCHED_CFG_ITER, 3), (F.SCHED_CFG_AGE, 32)]
  | some .kit0 =>
    let v := match prof with
      | 0 => (3, 4, 2, 0)
      | 1 => (3, 3, 3, 0)
      | _ => (4, 5, 1, 1)
    all [(F.KIT_ALPHA_ALPHA_TC1, v.1), (F.KIT_ALPHA_ALPHA_TC2, v.2.1), (F.KIT_ALPHA_ALPHA_TC3, v.2.2.1),
      (F.KIT_PUSH_PUSH_EN, 1), (F.KIT_PUSH_SCOPE, v.2.2.2)]
  | some .kitEgr => all [(F.KIT_EGR_TC1_CAP_PCT, 25), (F.KIT_EGR_TC3_MIN_PCT, 5)]
  | some .deck => all [(F.DECK_CFG_FAIR, 32), (F.DECK_CFG_SHUF_W, 4), (F.DECK_CFG_SPILL_W, 4)]
  | some .table =>
    let v := match prof with
      | 0 => (16, 4)
      | 1 => (1, 2)
      | _ => (16, 8)
    all [(F.TBL_TRICK_TRICK_4K, v.1), (F.TBL_TRICK_TRICKS_INFL, v.2),
      (F.TBL_TRICK_RES_KIB, v.2 * 4 * v.1 * p.resK c (pg % 4096 - 0x200))]
  | _ => []

/-- Both copies of the expert fields take their derived values; a field without its input keeps its active value, which is
`t`'s (R87). -/
def Tray.derived (p t : Tray) (pg : Nat) : Tray :=
  p.each (p.derivation pg) (fun p a => p.sfBoth pg a.1 (match a.2 with | some v => v | none => t.gf pg a.1))

/-- Expert fields that kept their active value: checked against no rule (R93). -/
def Tray.keptFields (p : Tray) (pg : Nat) : List Fld :=
  if p.is pg F.PG_CTL_EXPERT then [] else ((p.derivation pg).filter (fun a => a.2 == none)).map (fun a => a.1)

/-! ### Agreement rules (R93) -/

/-- Ranks 0 to N − 1 are valid and name the members, each once; the others are not valid (R261). -/
def Tray.ranksAgree (p : Tray) (c tb : Nat) : Bool :=
  let pg := tblPg c tb
  let ms := p.tMembers c tb
  let at' := fun (r : Nat) => p.rd pg (A.TBL_RANK + r / 8 * 8)
  let port := fun (r : Nat) => ((at' r).toNat / 2 ^ (8 * (r % 8))) % 64
  let valid := fun (r : Nat) => ((at' r).toNat / 2 ^ (8 * (r % 8) + 7)) % 2 == 1
  (List.range 64).all (fun r => valid r == decide (r < ms.length)) &&
    ms.all (fun e => (List.range ms.length).any (fun r => port r == e))

/-- Pages that a valid inbox occupies, as PAs where they translate. -/
def Tray.inboxPages (t : Tray) (c i : Nat) : List Nat :=
  let pg := inPg c
  let m := t.gf pg (F.DLR_IN_CFG_SEAT.nth i)
  let len := (2 * t.gf pg (F.DLR_IN_CFG_HALF_RECS.nth i) + 64) * t.gf pg (F.DLR_IN_CFG_REC_64.nth i) * 64
  let base := t.inBase c i
  (pagesOf ((base : Int), (base : Int) + len - 1)).map (fun p =>
    match t.xlat c { seat := m, direct := true } (p * page2M) false with
    | .ok pa => pa
    | .error _ => 0)

/-- The spill area lies in mappable HBM of the chip, or in HBM that a peer lends it, and no entry maps it (R350). -/
def Tray.spillAgrees (p : Tray) (c : Nat) : Bool :=
  let pg := dlrPg c
  let base := p.gf pg F.DLR_SPILL_BASE_2M
  let n := p.gf pg F.DLR_SPILL_PAGES
  if ¬ p.is pg F.DLR_SPILL_VALID then true
  else
    (List.range n).all (fun i =>
      match memOf (page2M * (base + i)) with
      | .hbm _ | .peer _ => p.mappable c (page2M * (base + i))
      | _ => false) &&
    !((p.dealer c).xlt.any (fun a => entValid a.2 && decide (base ≤ entPage a.2) && decide (entPage a.2 < base + n)))

/-- The agreement rules of a page in order: whether the swapped-in set `p` meets each, and the offset that a failure
records (R479). -/
def Tray.agreement (p t : Tray) (pg : Nat) : List (Bool × Nat) :=
  let c := pg / 4096
  let q := pg % 4096
  let kept := p.keptFields pg
  let free := fun (f : Fld) => kept.contains f
  match pageKind pg with
  | some .lane =>
    let half := p.is pg F.LANE_CFG_RATE
    let tx := p.gf pg F.LANE_CFG_TX_PRESET
    let rx := p.gf pg F.LANE_CFG_RX_PRESET
    let txOk := free F.LANE_CFG_TX_PRESET || (if half then decide (8 ≤ tx) else decide (tx ≤ 5))
    let rxOk := free F.LANE_CFG_RX_PRESET || (if half then rx == 8 else decide (rx ≤ 3))
    [(txOk && rxOk, A.LANE_CFG), (decide (p.gf pg F.LANE_FOM_FOM_FAIL < p.gf pg F.LANE_FOM_FOM_WARN), A.LANE_FOM)]
  | some .port =>
    let ok := fun (f : Fld) (hi : Nat) => free f || (decide (16 ≤ p.gf pg f) && decide (p.gf pg f ≤ hi))
    [(ok F.PORT_FC_HDRM_HDRM_TC1 511 && ok F.PORT_FC_HDRM_HDRM_TC2 511 && ok F.PORT_FC_HDRM_HDRM_TC3 511 &&
      ok F.PORT_FC_HDRM_HDRM_TC0 288, A.PORT_FC_HDRM)]
  | some .kit0 =>
    [(!p.is pg F.KIT_PUSH_PUSH_EN || decide (p.gf pg F.KIT_ALPHA_ALPHA_TC3 ≤ p.gf pg F.KIT_ALPHA_ALPHA_TC2), A.KIT_ALPHA)]
  | some .table =>
    let tb := q - 0x200
    let op := p.gf pg F.TBL_CFG_OP
    let kib := p.gf pg F.TBL_TRICK_RES_KIB
    let least := p.gf pg F.TBL_TRICK_TRICKS_INFL * 4 * p.gf pg F.TBL_TRICK_TRICK_4K * p.resK c tb
    [(decide (2 ≤ p.tN c tb), A.TBL_MEMB),
      (!p.is pg F.TBL_CFG_RANK_MODE || p.ranksAgree c tb, A.TBL_CFG),
      (decide (op < 3) || decide (6 ≤ p.gf pg F.TBL_CFG_FORMAT), A.TBL_CFG),
      (decide (least ≤ kib) && decide (kib ≤ 98304), A.TBL_TRICK),
      (!p.enabled pg || (stagedRegs pg).all (fun a => p.rd pg a.1 == t.rd pg a.1), A.PG_CTL)]
  | some .dlr =>
    let red := p.gf pg F.DLR_SRAM_RED_BANKS
    let pool := p.gf pg F.DLR_SRAM_POOL_PAGES
    let grant := fun (pa : Nat) => memOf pa != .sram || decide ((pa - sramBase) / page2M < p.grantPages c)
    [(decide (8 ≤ red) && decide (red ≤ 48) && decide (4 ≤ pool) && decide (red + pool ≤ 64), A.DLR_SRAM),
      (decide (p.gf pg F.DLR_SRAM_PIN_PAGES ≤ pool), A.DLR_SRAM),
      (decide (p.redDepth c ≤ red), A.DLR_SRAM),
      ((p.dealer c).xlt.all (fun a => !entValid a.2 || grant (entPage a.2 * page2M)), A.DLR_SRAM),
      ((List.range 16).all (fun i => !p.inValid c i || (p.inboxPages c i).all grant), A.DLR_SRAM),
      (p.spillAgrees c, A.DLR_SPILL)]
  | some .seat =>
    let b := p.gf pg F.SEAT_XLT_BASE_BASE_2M
    let n := p.gf pg F.SEAT_XLT_SIZE_SIZE
    [(decide (n ≤ 32768), A.SEAT_XLT_SIZE), (decide ((b + n) * page2M ≤ 2 ^ 48), A.SEAT_XLT_BASE)]
  | some .xlt =>
    [((List.range 64).all (fun m => p.validates c m == t.validates c m || t.descSeat c m == 0), A.XLT_MODE)]
  | _ => []

/-! ### The end of a COMMIT -/

/-- A COMMIT ends: swapped, or refused with a code at an offset (R91, R93, R94). -/
def Tray.commitEnd (t : Tray) (pg : Nat) (refused : Option (Nat × Nat)) : Tray :=
  let t1 := (t.sb pg F.PG_COMMIT_STS_PENDING false).sb pg F.PG_COMMIT_STS_DONE true
  match refused with
  | none => (t1.cnt pg F.PG_COMMIT_STS_COUNT 1).raise pg 1
  | some (code, off) => ((t1.sb pg F.PG_COMMIT_STS_REFUSED true).recErr pg code (Origin.commit off)).raise pg 2

/-- A lane's port is in the down state, every state but UP (R94, R122). -/
def Tray.laneDown (t : Tray) (pg : Nat) : Bool :=
  !t.up (pg / 4096) ((pg % 4096 - 0x100) / 4)

/-- Training of the lane's port begins again at SIGNAL where it was under way (R125); a live port first performs its
abort. -/
def Tray.laneRestart (t : Tray) (pg : Nat) : Tray :=
  let c := pg / 4096
  let e := (pg % 4096 - 0x100) / 4
  let st := t.pst c e
  if isTraining st ∨ st = S.RETRAIN then
    let cause := if st = S.RETRAIN then Cz.ABORT else t.gf (portPg c e) F.PORT_TRAIN_STS_CAUSE
    (t.portTo c e S.DOWN cause).enterSignal c e
  else t

/-- What follows a swap or a derivation: reservations follow headroom (R168). -/
def Tray.afterSwap (t : Tray) (pg : Nat) : Tray :=
  match pageKind pg with
  | some .port => t.updResv (pg / 4096) (pg % 4096 - 0x010)
  | _ => t

/-- The swap at the safe point, or its refusal (R87, R88, R91, R93). -/
def Tray.commitSwap (t : Tray) (pg : Nat) : Tray :=
  let p0 := t.swapped pg
  let basic := hasProfiles pg && !p0.is pg F.PG_CTL_EXPERT
  let p1 := if basic then p0.derived t pg else p0
  match (p1.agreement t pg).find? (fun r => !r.1) with
  | some r => t.commitEnd pg (some (E.COMMIT_INVALID, r.2))
  | none =>
    let p2 := p1.alignShadows pg
    let p3 := if basic then p2.cnt pg F.PG_PROFILE_DERIVE_COUNT 1 else p2
    let p4 := ({ p3 with dirty := p3.dirty.filter (fun x => x != pg) }.commitEnd pg none).afterSwap pg
    if pageKind pg = some .lane then p4.laneRestart pg else p4

/-- The page stands at its safe point (R94): where the state shows what must have ended, it has. -/
def Tray.atSafePoint (t : Tray) (pg : Nat) : Bool :=
  let c := pg / 4096
  let q := pg % 4096
  match pageKind pg with
  | some .lane => t.laneDown pg
  | some .port =>
    let p := t.port c (q - 0x010)
    p.rx.cur.isNone && p.rx.ins.isNone && p.tx.cur.isNone && p.tx.curSnap.isNone && p.tx.ins.isNone && p.tx.insSnap.isNone
  | some .table => (t.table c (q - 0x200)).tricks.isEmpty
  | some .dlr => !t.dealerBusy c
  | _ => true

/-- COMMIT: PG_COMMIT.GO. A lane whose port is not down is refused at once (R91, R92, R94, R106). -/
def Tray.commitGo (t : Tray) (pg : Nat) : Tray :=
  if t.is pg F.PG_COMMIT_STS_PENDING then t
  else
    let t1 := ((t.sb pg F.PG_COMMIT_STS_DONE false).sb pg F.PG_COMMIT_STS_REFUSED false).sb pg F.PG_COMMIT_STS_PENDING true
    if pageKind pg = some .lane ∧ ¬ t.laneDown pg then t1.commitEnd pg (some (E.COMMIT_UNAVAILABLE, 0x050)) else t1

/-- The domain that holds the page's block is clocked, and the block out of reset. -/
def Tray.blockUp (t : Tray) (pg : Nat) : Bool :=
  (pageKind pg).isSome && (if isChipPg pg then (t.chip (pg / 4096)).coreUp && t.domainUp pg 0x100 else true)

/-- COMMIT_SAFE_POINT: during an abort of the page the safe point is the abort's end (R106). -/
def Tray.commitSafePoint (t : Tray) (pg : Nat) : Tray :=
  if ¬ t.is pg F.PG_COMMIT_STS_PENDING ∨ t.aborting pg ∨ ¬ t.blockUp pg then t
  else if pageKind pg = some .lane ∧ ¬ t.laneDown pg then t.commitEnd pg (some (E.COMMIT_UNAVAILABLE, 0x050))
  else if t.atSafePoint pg then t.commitSwap pg
  else t

/-- COMMIT_TIMEOUT: not while the page aborts (R106). -/
def Tray.commitTimeout (t : Tray) (pg : Nat) : Tray :=
  if ¬ t.is pg F.PG_COMMIT_STS_PENDING ∨ t.aborting pg then t
  else
    let code := if pageKind pg = some .lane then E.COMMIT_UNAVAILABLE else E.COMMIT_TIMEOUT
    t.commitEnd pg (some (code, 0x050))

/-- REDERIVE: a page in basic mode takes new derived values after a measured input has changed; a COMMIT that waits swaps
first, with the derivation in it (R89). -/
def Tray.rederive (t : Tray) (pg : Nat) : Tray :=
  if ¬ t.dirty.contains pg ∨ t.aborting pg ∨ ¬ t.blockUp pg ∨ ¬ t.atSafePoint pg then t
  else if t.is pg F.PG_COMMIT_STS_PENDING then t.commitSwap pg
  else
    let t1 := { t with dirty := t.dirty.filter (fun x => x != pg) }
    if ¬ hasProfiles pg ∨ t.is pg F.PG_CTL_EXPERT then t1
    else ((t1.derived t1 pg).cnt pg F.PG_PROFILE_DERIVE_COUNT 1).afterSwap pg

/-- ABORT_DONE: the abort in progress on the page completes `us` µs after it took effect; it is a safe point of the page,
and a COMMIT that waits swaps or is refused at that instant (R104–R106). -/
def Tray.abortDone (t : Tray) (pg us : Nat) : Tray :=
  if ¬ t.aborting pg then t
  else
    let t1 := ((t.sb pg F.PG_ABORT_STS_IN_PROGRESS false).sb pg F.PG_ABORT_STS_DONE true).sf pg F.PG_ABORT_STS_ELAPSED_US
      (min us 65535)
    let t2 := if t1.is pg F.PG_COMMIT_STS_PENDING then t1.commitSwap pg else t1
    let t3 := match pageKind pg with
      | some .table => t2.tableAbortDone (pg / 4096) (pg % 4096 - 0x200)
      | _ => t2
    t3.raise pg 0

end Sys2Proof.Machine
end

