-- ==== Sys2Proof/Machine/Log.lean ====
section
/-! DEFINITION. The event log: entries, FRAM, the last-gasp ring, EVENT and FAULT messages (R440, R441, R454–R456). -/
namespace Sys2Proof.Machine

/-- Page of the log. -/
def logPg : Nat := halPg 0x030

/-- The code range of an event, its high byte (R454). -/
def Ev.range : Ev → Nat
  | .vinOv | .vinUvWarn | .vinUvTrip | .vinRestore | .phaseFail | .senseUntrusted | .railOvercurrent | .railOff
  | .railPgTimeout | .capPwr | .slotBad => 1
  | .thermalCap | .dieOvertemp | .thermalTrip | .hbmOvertemp | .coolant | .leak | .pump | .coolingRecovery | .fan
  | .cartOvertemp | .air => 2
  | .wiring | .laneOrder | .cableLength | .rttMiss | .flood | .floodTimeout | .wear | .laserFail | .laneFail | .los
  | .partner | .cartUnsupported | .cartRemoved | .cmisFail => 3
  | .refLoss | .corePll | .dealerPll | .allDealerPlls | .hbmPll | .txPll | .pcieDown | .discipline | .scrubReenabled
  | .quiesceFail | .ecc | .chipReset | .hbmTrainFail | .deckHopDown | .strapFault | .resetDone | .quiesce
  | .counterSat => 4
  | .identity | .leaseGranted | .leaseLapsed | .mapTaken | .mapRejected | .headless | .timeState | .timeFault | .authFail | .swapEnd
  | .zmpSilent | .dumpLoss => 5
  | .fwVerify | .compat | .compatSilicon | .fwActivate | .fwFallback | .fwConfirm | .cartFw => 6
  | .labelInterrupted | .keyStuck | .serviceReq | .keyFault | .locate => 7
  | .logLost | .gaspRecovery => 8

/-- CODE: R456, R455 and R458 give three; of the others the range is given (log 27). -/
def Ev.code : Ev → Nat
  | .logLost => 0x0800
  | .gaspRecovery => 0x0801
  | .fwFallback => 0x0604
  | ev => 256 * ev.range + (Config.logCode ev.ctorIdx).toNat

/-- The 64 bytes of an entry with its LOG_SEQ (R454). -/
def LogEntry.bytes (e : LogEntry) (seq : Nat) : List Byte :=
  let head := leBytes 8 (seq % 2 ^ 32 + 2 ^ 32 * e.ev.code + 2 ^ 48 * (Config.logSeverity e.ev.ctorIdx).toNat + 2 ^ 52 * e.src)
    ++ leBytes 8 e.time ++ leBytes 8 (e.rtc % 2 ^ 32 + 2 ^ 32 * e.boot)
    ++ leBytes 32 (Config.logData e.ev.ctorIdx e.data).toNat
  head ++ leBytes 8 (crc32c head)

/-- Entries that FRAM's log holds (R454). -/
def logCap : Nat := 32704

/-- LOG_SEQ of a stored entry. -/
def entrySeq (w : BitVec 512) : Nat := w.toNat % 2 ^ 32

/-- An entry enters the last-gasp ring, which keeps the latest 16. -/
def Tray.ringPut (t : Tray) (w : BitVec 512) (logged : Bool) : Tray :=
  let r := t.hk.ring ++ [(w, logged)]
  { t with hk := { t.hk with ring := r.drop (r.length - 16) } }

/-- An entry takes its LOG_SEQ, enters the ring, and goes to both managers in EVENT. -/
def Tray.logForm (t : Tray) (e : LogEntry) (logged : Bool) : Tray :=
  let b := e.bytes t.fram.nextSeq
  let w := BitVec.ofNat 512 (leVal b)
  let fr := t.fram
  let log := fr.log ++ [w]
  let t1 := { t with fram := { fr with
    nextSeq := (fr.nextSeq + 1) % 2 ^ 32, log := if logged then log.drop (log.length - logCap) else fr.log } }
  (t1.ringPut w logged).zboth Z.EVENT b true

/-- FAULT to both managers: CLASS, CHIP or 7, the event's CODE, T (R440, R441). -/
def Tray.fault (t : Tray) (cls chip : Nat) (ev : Ev) : Tray :=
  t.zboth Z.FAULT (leBytes 1 cls ++ leBytes 1 chip ++ leBytes 2 ev.code ++ leBytes 4 0 ++ leBytes 8 t.master) true

/-- The log's memory has failed (R456). -/
def Tray.logFailed (t : Tray) : Tray :=
  let t1 := ({ t with fram := { t.fram with lost := true } }.sat logPg F.LOG_STS_FRAM_ERR 2).raise logPg 8
  let t2 := t1.logForm ⟨.logLost, 0, t.master, [], t.hk.rtc / 10 ^ 9, t.fram.halBoot⟩ false
  t2.fault 5 7 .logLost

/-- LOG_ENTRY_WRITE: the oldest entry that waits (R455, R456). -/
def Tray.logEntryWrite (t : Tray) (r : FramResult) : Tray :=
  match t.logq with
  | [] => t
  | e :: rest =>
    let t0 := { t with logq := rest }
    if ¬ t.hk.aon then t
    else if t.fram.lost then t0.logForm e false
    else match r with
      | .first => t0.logForm e true
      | .second => (t0.sat logPg F.LOG_STS_FRAM_ERR 1).logForm e true
      | .fails | .timesOut => (t0.logForm e false).logFailed

/-- What the housekeeper copies to the gasp area below 36 V: the ring's entries that are not logged, the latest 16, those
not yet formed among them (R455). -/
def Tray.gasp (t : Tray) : Tray :=
  let t1 := ({ t with logq := [] } : Tray).each t.logq (fun t e => t.logForm e false)
  let g := (t1.hk.ring.filter (fun a => !a.2)).map (fun a => a.1)
  { t1 with fram := { t1.fram with gasp := g.drop (g.length - 16) } }

end Sys2Proof.Machine
end

