-- ==== Sys2Proof/Machine/Ring.lean ====
section
/-! DEFINITION. What a deck ring node does with a packet addressed to it, and with a packet lost on a hop (R220, R348,
R354, R355, R379, R386). -/
namespace Sys2Proof.Machine

/-- The place of local PA `p` of chip `c` in memory. -/
def memKey (c p : Nat) : Nat := c * 2 ^ 40 + p % 2 ^ 36

/-- Bytes stored from a place on. -/
def Tray.memStore (t : Tray) (k : Nat) (l : List Byte) : Tray := t.each l.zipIdx (fun t a => t.memPut (k + a.2) a.1)

/-- Bytes from a place on. -/
def Tray.memLoad (t : Tray) (k n : Nat) : List Byte := (List.range n).map (fun i => t.memAt (k + i))

/-- Every byte lies on pages that chip `c` lends to chip `b` (R354). -/
def Tray.lentAll (t : Tray) (c b p n : Nat) : Bool :=
  t.lends c b (p % 2 ^ 36) && t.lends c b (p % 2 ^ 36 + n - 1)

/-- A packet has reached the node it is addressed to. -/
def Tray.ringConsume (t : Tray) (p : RingPkt) : Tray :=
  let n := rDst p
  let src := rSrc p
  let kind := rKind p
  if kind = 5 then (if n = 5 then t.bridgePart p else t)
  else if n = 5 ∨ ¬ t.chipRuns n then t
  else if kind = 0 then
    if t.lentAll n src (rAddr p) p.pay.length then
      (t.memStore (memKey n (rAddr p)) p.pay).charge n (rSeat p) N.HBM_BYTES p.pay.length
    else t
  else if kind = 1 then
    let len := 32 * (leVal (p.pay.take 1) % 128)
    if t.lentAll n src (rAddr p) len ∧ 0 < len ∧ len ≤ 2048 then
      (t.charge n (rSeat p) N.HBM_BYTES len).ringSend n
        [({ dst := src, src := n, ccw := false, kind := 2, seat := rSeat p, xfer := rXfer p, addr := rAddr p,
            epoch := rEpoch p }, t.memLoad (memKey n (rAddr p)) len)]
    else t
  else if kind = 3 then t.shufKind3 n p
  else if kind = 6 then
    if rAddr p % 256 = 1 then t.kSet n (leVal (p.pay.take 3)) else t
  else t

/-- A packet in progress over a hop is lost with it: the shuffle's operations end with DATA_FAIL at both ends, a dump
record becomes a gap (R220, R280, R376). -/
def Tray.ringLost (t : Tray) (p : RingPkt) : Tray :=
  if rKind p = 3 then
    let tb := rXfer p / 2 ^ 16 % 256
    let seq := rXfer p % 65536
    t.each ([rSrc p, rDst p].filter (fun k => decide (k < 5))) (fun t c =>
      if rEpoch p = t.tEpoch c tb then t.failOp c tb seq else t)
  else if rKind p = 5 ∧ rSrc p < 5 ∧ rEpoch p = t.gf (dumpPg (rSrc p)) F.PG_ABORT_STS_EPOCH then t.dumpPktLost (rSrc p)
  else t

end Sys2Proof.Machine
end

