-- ==== Sys2Proof/Machine/Power.lean ====
section
/-! DEFINITION. Power input, rails, caps, temperatures, coolant and air (R392–R407). -/
namespace Sys2Proof.Machine

/-- Page of the rails of chip `c`. -/
def railPg (c : Nat) : Nat := halPg (0x011 + c)
/-- Page of the input stage. -/
def pwrPg : Nat := halPg 0x010

/-- HK_STS.PHASE (R424). -/
def Ph.AON_ONLY : Nat := 0
def Ph.COOL_CHECK : Nat := 1
def Ph.CTRL_BOOT : Nat := 2
def Ph.CHIP_RAILS : Nat := 3
def Ph.WAIT_IDENTITY : Nat := 4
def Ph.CHIP_START : Nat := 5
def Ph.RUNNING : Nat := 6
def Ph.INPUT_OFF : Nat := 7

def Tray.phase0 (t : Tray) : Nat := t.gf hkPg F.HK_STS_PHASE

/-- PWR_IN.STATE (R425). -/
def Vin.NORMAL : Nat := 0
def Vin.OV_WARN : Nat := 1
def Vin.UV_WARN : Nat := 2
def Vin.UV_TRIP : Nat := 3
def Vin.OV_TRIP : Nat := 4

/-- An entry of the housekeeper. -/
def Tray.logHk (t : Tray) (ev : Ev) (data : List Nat) : Tray := t.logEv ev 0 data

/-- CHIP_FAULT of a chip. -/
def Tray.chipFault (t : Tray) (c : Nat) : Bool := bitOf (t.gf hkPg F.HK_STS_CHIP_FAULT) c
def Tray.setChipFault (t : Tray) (c : Nat) (b : Bool) : Tray :=
  t.sf hkPg F.HK_STS_CHIP_FAULT (putBitOf (t.gf hkPg F.HK_STS_CHIP_FAULT) c b)
def Tray.setChipOn (t : Tray) (c : Nat) (b : Bool) : Tray :=
  t.sf hkPg F.HK_STS_CHIP_ON (putBitOf (t.gf hkPg F.HK_STS_CHIP_ON) c b)

/-- The phase follows the chips that are not off by fault, once they may be powered (R409–R411, R424). -/
def Tray.phaseUpdate (t : Tray) : Tray :=
  let p := t.phase0
  if p < Ph.CHIP_RAILS ∨ p = Ph.INPUT_OFF then t
  else
    let live := (List.range 5).filter (fun c => !t.chipFault c)
    let q := if live.any (fun c => !t.chipOn c) then Ph.CHIP_RAILS
      else if live.all (fun c => (t.chip c).coreUp) then Ph.RUNNING
      else if t.hal.rack.isNone ∨ t.hal.role.isNone then Ph.WAIT_IDENTITY
      else Ph.CHIP_START
    t.sf hkPg F.HK_STS_PHASE q

/-! ### A chip without power or in reset -/

/-- What a CHIP reset clears: every register, memory and record of the chip; its ports fall silent without a port abort;
its deck hops go down (R412, R413, R471, R473). Its slot is loaded again. -/
def Tray.wipeChip (t : Tray) (c : Nat) : Tray :=
  let t1 := (t.deckHopDown c (fun t p => t.ringLost p)).deckHopDown (ccwOf c) (fun t p => t.ringLost p)
  let hop := (t1.node c).cwHop
  let not := fun (n : Nat) (k : Nat) => k / n != c
  let b := t1.hal.bridge
  let t2 : Tray := { t1 with
    regs := Assoc.keep (not (2 ^ 24)) t1.regs, chips := Assoc.keep (not 1) t1.chips, ports := Assoc.keep (not 64) t1.ports,
    lanes := Assoc.keep (not 256) t1.lanes, bays := Assoc.keep (not 8) t1.bays,
    tables := Assoc.keep (not 256) t1.tables, dealers := Assoc.keep (not 1) t1.dealers,
    mem := Assoc.keep (not (2 ^ 40)) t1.mem, watches := Assoc.keep (not 8) t1.watches,
    bar2 := Assoc.keep (not 4096) t1.bar2, msiReq := t1.msiReq.filter (not 16),
    aer := t1.aer.filter (fun a => a.chip != c), dirty := t1.dirty.filter (not 4096),
    act := Assoc.keep (not 2048) t1.act,
    hal := { t1.hal with bridge := { b with parts := b.parts.filter (fun p => p.chip != c) } } }
  let t3 := t2.modNode c (fun _ => { cwHop := hop })
  let t4 := t3.sb hkPg F.HK_STS_FABRIC_READY false
  if t4.chipOn c then
    (t4.sf (chip0 c) F.CHIP_TOPO_SLOT (t4.gf hkPg F.HK_SLOT_SLOT)).sf (chip0 c) F.CHIP_DEAL_CLK_CAP_MHZ
      (t4.gf hkPg (F.HK_CAP_EFFECTIVE.at (8 * c)))
  else t4

/-- The rails of a chip go off, in the reverse of the power-up order; a rail that its controller switched off stays so
(R400, R409). -/
def Tray.chipOff (t : Tray) (c : Nat) : Tray :=
  let t1 := t.each (List.range 4) (fun t r =>
    if t.gf (railPg c) (F.PWR_RAIL_STATE.nth r) = 3 then t else t.sf (railPg c) (F.PWR_RAIL_STATE.nth r) 0)
  ((t1.setChipOn c false).wipeChip c).phaseUpdate

/-- A chip goes off: whole-chip quiesce, rails off, FAULT CLASS 1; `fault`: it stays off until a CHIP_POWER or POWER_ON
reset (R400). -/
def Tray.chipShutdown (t : Tray) (c : Nat) (quiesce fault : Bool) (ev : Ev) : Tray :=
  if ¬ t.chipOn c then t
  else
    let t1 := if quiesce ∧ (t.chip c).coreUp then t.quiesceChip c else t
    let t2 := if fault then (t1.setChipFault c true).raise (railPg c) 10 else t1
    ((t2.chipOff c).logHk .railOff [c]).fault 1 c ev

/-! ### Caps (R398, R399, R407) -/

/-- Field of HK_CAP of chip `c`. -/
def capFld (f : Fld) (c : Nat) : Fld := f.at (8 * c)

/-- The housekeeper writes the least component to CAP_MHZ. -/
def Tray.capWrite (t : Tray) (c : Nat) : Tray :=
  let g := fun (f : Fld) => t.gf hkPg (capFld f c)
  let e := min 1250 (min (min (g F.HK_CAP_CAP_PWR) (g F.HK_CAP_CAP_THERM)) (min (g F.HK_CAP_CAP_COOL) (g F.HK_CAP_CAP_INPUT)))
  let t1 := if e = g F.HK_CAP_EFFECTIVE then t
    else ((t.sf hkPg (capFld F.HK_CAP_EFFECTIVE c) e).raise hkPg 8).logHk .thermalCap [c, e]
  t1.dealCap c e

/-- A component takes a value; CAP_MHZ follows where it changed. -/
def Tray.capSet (t : Tray) (c : Nat) (f : Fld) (v : Nat) : Tray :=
  if t.gf hkPg (capFld f c) = v then t else (t.sf hkPg (capFld f c) v).capWrite c

/-- A component of every chip. -/
def Tray.capAll (t : Tray) (f : Fld) (v : Nat) : Tray := t.each (List.range 5) (fun t c => t.capSet c f v)

/-- What the rail failures of a chip call for (R398). -/
def Tray.capPwr (t : Tray) (c : Nat) : Nat :=
  if t.gf (railPg c) (F.PWR_PHASE_UNTRUSTED.nth 0) ≠ 0 then 1100
  else if t.gf (railPg c) (F.PWR_PHASE_FAILED.nth 0) ≠ 0 then 1150
  else 1250

/-- CAP_PWR_SET: the housekeeper has identified the failures; it writes the combined cap, which ends the floor of
VR_ALERT (R399). -/
def Tray.capPwrSet (t : Tray) (c : Nat) : Tray :=
  if ¬ t.hk.aon ∨ ¬ t.chipOn c then t
  else (t.sf hkPg (capFld F.HK_CAP_CAP_PWR c) (t.capPwr c)).capWrite c

/-! ### Rail failures (R396, R397, R400, R401) -/

/-- A phase exists on a rail that is on, of a chip that neither quiesces nor shuts down (R401). -/
def Tray.phaseLive (t : Tray) (c r i : Nat) : Bool :=
  t.chipOn c && t.gf (railPg c) (F.PWR_RAIL_STATE.nth r) == 2 && decide (i < railPhases r) && !t.aborting (chip0 c) &&
  !bitOf (t.gf (railPg c) (F.PWR_PHASE_FAILED.nth r)) i

/-- A rail failure: counted, POWER_FAULT, calibration degraded, logged; the second on a rail shuts the chip down (R399,
R400). -/
def Tray.railFailure (t : Tray) (c r i irq : Nat) (ev : Ev) : Tray :=
  let n := satTo 2 (t.gf (railPg c) (F.PWR_RAIL_FAILURES.nth r) + 1)
  let t1 := (((t.sf (railPg c) (F.PWR_RAIL_FAILURES.nth r) n).raise (railPg c) irq).raise hkPg 9).logHk ev [c, r, i]
  let t2 := { t1 with hk := { t1.hk with degraded := true } }
  if n = 2 then t2.chipShutdown c true true ev else t2

/-- PHASE_FAIL: a failed DEAL phase asserts VR_ALERT, which sets CAP_MHZ to 600 (R399). -/
def Tray.phaseFail (t : Tray) (c r i : Nat) : Tray :=
  if ¬ t.phaseLive c r i then t
  else
    let f := F.PWR_PHASE_FAILED.nth r
    let t1 := (t.sf (railPg c) f (setBitOf (t.gf (railPg c) f) i)).railFailure c r i 8 .phaseFail
    if r = 0 ∧ t1.chipOn c then t1.dealCap c 600 else t1

/-- SENSE_UNTRUSTED. -/
def Tray.senseUntrusted (t : Tray) (c r i : Nat) : Tray :=
  let f := F.PWR_PHASE_UNTRUSTED.nth r
  if ¬ t.phaseLive c r i ∨ bitOf (t.gf (railPg c) f) i then t
  else (t.sf (railPg c) f (setBitOf (t.gf (railPg c) f) i)).railFailure c r i 9 .senseUntrusted

/-- RAIL_OVERCURRENT: the controller switches the rail off; the chip is handled as under R400. -/
def Tray.railOvercurrent (t : Tray) (c r : Nat) : Tray :=
  if ¬ t.chipOn c ∨ t.gf (railPg c) (F.PWR_RAIL_STATE.nth r) ≠ 2 ∨ t.aborting (chip0 c) then t
  else
    let t1 := ((t.sf (railPg c) (F.PWR_RAIL_STATE.nth r) 3).raise hkPg 9).logHk .railOvercurrent [c, r]
    ({ t1 with hk := { t1.hk with degraded := true } } : Tray).chipShutdown c true true .railOvercurrent

/-! ### Die and stack temperatures (R402, R403) -/

/-- The hottest die sensor reads `tj`: DIE_MAX, its peak; THERMAL when 95 °C is reached. -/
def Tray.dieRead (t : Tray) (c tj : Nat) : Tray :=
  let f := F.HK_TEMP_DIE_MAX.at (8 * c)
  let t1 := (t.sf hkPg f tj).wmMax hkPg (F.HK_TEMP_DIE_PEAK.at (8 * c)) tj
  if 95 ≤ tj ∧ t.gf hkPg f < 95 then (t1.raise hkPg 10).logHk .dieOvertemp [c, tj] else t1

/-- THERMAL_CAP_STEP: one step of CAP_THERM. -/
def Tray.thermalCapStep (t : Tray) (c tj : Nat) : Tray :=
  if ¬ t.hk.aon ∨ ¬ t.chipOn c then t
  else
    let t1 := t.dieRead c tj
    let v := t1.gf hkPg (capFld F.HK_CAP_CAP_THERM c)
    let w := if 105 ≤ tj then 600 else if 95 ≤ tj then max 600 (v - 25) else if tj ≤ 92 then min 1250 (v + 25) else v
    t1.capSet c F.HK_CAP_CAP_THERM w

/-- DIE_OVERTEMP: 105 °C floors the cap at once; 110 °C for 1 ms shuts the chip down. -/
def Tray.dieOvertemp (t : Tray) (c tj : Nat) (ms1 : Bool) : Tray :=
  if ¬ t.hk.aon ∨ ¬ t.chipOn c then t
  else
    let t1 := t.dieRead c tj
    let t2 := if 105 ≤ tj then t1.capSet c F.HK_CAP_CAP_THERM 600 else t1
    if ms1 ∧ 110 ≤ tj then (t2.raise hkPg 10).chipShutdown c true true .dieOvertemp else t2

/-- THERMAL_TRIP: the chip's own trip switches its rails off, without a quiesce. -/
def Tray.thermalTrip (t : Tray) (c : Nat) : Tray :=
  if ¬ t.chipOn c then t
  else ((t.raise hkPg 10).logHk .thermalTrip [c]).chipShutdown c false true .thermalTrip

/-- HBM_OVERTEMP: a stack reads `v` °C: doubled refresh at 85 °C; 95 °C for 10 ms shuts the chip down. -/
def Tray.hbmOvertemp (t : Tray) (c k v : Nat) (ms10 : Bool) : Tray :=
  if ¬ t.hk.aon ∨ ¬ t.chipOn c then t
  else
    let f := (if k = 0 then F.HK_TEMP_HBM0 else F.HK_TEMP_HBM1).at (8 * c)
    let t1 := ((t.sf hkPg f v).sf (hbmPg c k) F.HBM_STS_TEMP v).sb (hbmPg c k) F.HBM_STS_EXT_REFRESH (decide (85 ≤ v))
    let t2 := if 85 ≤ v ∧ t.gf hkPg f < 85 then (t1.raise hkPg 10).logHk .hbmOvertemp [c, k, v] else t1
    if ms10 ∧ 95 ≤ v then (t2.raise hkPg 10).chipShutdown c true true .hbmOvertemp else t2

/-! ### Coolant and air (R404–R406) -/

/-- An alarm of the tray rises or falls; rising it raises an interrupt and is logged. -/
def Tray.alarm (t : Tray) (i irq : Nat) (on : Bool) (ev : Ev) (data : List Nat) : Tray :=
  if bitOf t.hk.alarms i = on then t
  else
    let t1 := { t with hk := { t.hk with alarms := putBitOf t.hk.alarms i on } }
    if on then (t1.raise hkPg irq).logHk ev data else t1

/-- All five chips are quiesced and powered down for a condition; the Halvoren and the housekeeper stay on. -/
def Tray.envDown (t : Tray) (i irq : Nat) (ev : Ev) : Tray :=
  if bitOf t.hk.envOff i then t
  else
    let t1 := { t with hk := { t.hk with envOff := setBitOf t.hk.envOff i } }
    ((t1.raise hkPg irq).logHk ev [i]).each (List.range 5) (fun t c => t.chipShutdown c true false ev)

/-- COOLANT_READ: a read of the coolant sensors, every 100 ms; supply and return in 0.1 °C, flow in 0.01 L/min. Flow
conditions count once the start-up has confirmed the flow (R411). -/
def Tray.coolantRead (t : Tray) (supply ret flow : Nat) : Tray :=
  if ¬ t.hk.aon then t
  else
    let t1 := ((t.sf hkPg F.HK_COOL_SUPPLY supply).sf hkPg F.HK_COOL_RETURN ret).sf hkPg F.HK_COOL_FLOW flow
    let t2 := if t1.phase0 = Ph.COOL_CHECK ∧ 1200 ≤ flow then t1.sf hkPg F.HK_STS_PHASE Ph.CTRL_BOOT else t1
    let run := decide (Ph.CTRL_BOOT ≤ t2.phase0) && decide (t2.phase0 ≠ Ph.INPUT_OFF)
    let next := fun (n : Nat) (b : Bool) => if b then n + 1 else 0
    let h := t2.hk
    let supHot := next h.supHot (decide (450 < supply))
    let flow8 := next h.flow8 (run && decide (flow < 800))
    let flow4 := next h.flow4 (run && decide (flow < 400))
    let low := run && decide (flow < 1200)
    let t3 := { t2 with hk := { h with supHot := supHot, flow8 := flow8, flow4 := flow4, pumpsFull := low || t2.gf hkPg F.HK_COOL_PUMP_OK != 3 } }
    let t4 := (t3.alarm 0 11 (decide (supply < 200)) .coolant [0, supply]).alarm 1 11 low .coolant [1, flow]
    let capS := if 400 < supply then 1250 - 50 * ceilDiv (min supply 450 - 400) 10 else 1250
    let capF := if 20 ≤ flow8 then 600 else if low then 1000 else 1250
    let t5 := t4.capAll F.HK_CAP_CAP_COOL (min capS capF)
    let t6 := if 100 ≤ supHot then t5.envDown 0 11 .coolant else t5
    if 20 ≤ flow4 then t6.envDown 1 11 .coolant else t6

/-- LEAK. -/
def Tray.leak (t : Tray) : Tray :=
  if ¬ t.hk.aon then t
  else ((t.sb hkPg F.HK_COOL_LEAK true).alarm 2 11 true .leak []).envDown 2 11 .leak

/-- PUMP_FAIL: the other pump runs at full speed. -/
def Tray.pumpFail (t : Tray) (p : Nat) : Tray :=
  let ok := t.gf hkPg F.HK_COOL_PUMP_OK
  if ¬ t.hk.aon ∨ ¬ bitOf ok p then t
  else
    let t1 := t.sf hkPg F.HK_COOL_PUMP_OK (clrBitOf ok p)
    ({ t1 with hk := { t1.hk with pumpsFull := true, alarms := setBitOf t1.hk.alarms 3 } }.raise hkPg 11).logHk .pump [p]

/-- Conditions that R404 and R406 power the chips down for, by the latest reads. -/
def Tray.inletC (t : Tray) : Int :=
  let v := t.gf hkPg F.HK_FAN_INLET
  if v < 2048 then v else (v : Int) - 4096

/-- COOLING_RECOVERY: the condition has cleared for 60 s, or the operator commands it; after a leak only the operator
does (R404, R406). The chips are then powered up again. -/
def Tray.coolingRecovery (t : Tray) (operator : Bool) : Tray :=
  let leak := bitOf t.hk.envOff 2
  let clear := decide (t.gf hkPg F.HK_COOL_SUPPLY ≤ 450) && decide (400 ≤ t.gf hkPg F.HK_COOL_FLOW) &&
    decide (t.inletC ≤ 450)
  if ¬ t.hk.aon ∨ t.hk.envOff = 0 ∨ ¬ (operator ∨ (clear ∧ ¬ leak)) then t
  else
    let t1 := { t with hk := { t.hk with envOff := 0, supHot := 0, flow4 := 0, in45 := 0,
                                         alarms := clrBitOf t.hk.alarms 2 } }
    ((t1.sb hkPg F.HK_COOL_LEAK false).logHk .coolingRecovery [b2n operator]).phaseUpdate

/-- Fans run at full speed for a failed fan or an inlet of 35 °C (R405, R406). -/
def Tray.fanDuty (t : Tray) : Tray :=
  t.sf hkPg F.HK_FAN_DUTY (if t.gf hkPg F.HK_FAN_FAN_OK ≠ 63 ∨ 350 ≤ t.inletC then 100 else 60)

/-- FAN_FAIL. -/
def Tray.fanFail (t : Tray) (f : Nat) : Tray :=
  let ok := t.gf hkPg F.HK_FAN_FAN_OK
  if ¬ t.hk.aon ∨ ¬ bitOf ok f then t
  else
    let t1 := { t with hk := { t.hk with alarms := setBitOf t.hk.alarms 4 } }
    (((t1.sf hkPg F.HK_FAN_FAN_OK (clrBitOf ok f)).fanDuty).raise hkPg 12).logHk .fan [f]

/-- AIR_READ: a read of the air sensors, every 100 ms. -/
def Tray.airRead (t : Tray) (inlet airflow : Nat) : Tray :=
  if ¬ t.hk.aon then t
  else
    let t1 := ((t.sf hkPg F.HK_FAN_INLET inlet).sf hkPg F.HK_FAN_AIRFLOW airflow).fanDuty
    let v := t1.inletC
    let next := fun (n : Nat) (b : Bool) => if b then n + 1 else 0
    let h := t1.hk
    let in45 := next h.in45 (decide (450 < v))
    let in40 := next h.in40 (decide (400 < v))
    let airLow := next h.airLow (decide (airflow < 150) && t1.gf hkPg F.HK_FAN_DUTY == 100)
    let warn := decide (v < 100) || decide (350 ≤ v)
    let t2 := { t1 with hk := { h with in45 := in45, in40 := in40, airLow := airLow,
                                       alarms := putBitOf h.alarms 6 (decide (600 ≤ in40)) } }
    let t3 := (t2.alarm 5 14 warn .air [5, inlet]).alarm 7 14 (decide (600 ≤ airLow)) .air [7, airflow]
    let t4 := t3.sf hkPg F.HK_FAN_AIR_ALARM (b2n warn + 2 * b2n (decide (600 ≤ airLow)))
    if 100 ≤ in45 then t4.envDown 3 14 .air else t4

/-- CART_OVERTEMP: the cartridge is put into LowPwr, its bay's ports go down with cause CART (R405). -/
def Tray.cartOvertemp (t : Tray) (b : Nat) : Tray :=
  if (t.bay b).info.isNone ∨ (t.bay b).hot then t
  else
    let t1 := (t.modBay b (fun x => { x with hot := true })).sf (bayPg b) F.PORT_CART_MSTATE 1
    ((t1.bayHold b).emit (.lowPwr b)).logChip .cartOvertemp (b / 8) [b]

/-- CART_OVERTEMP_CLEAR: the bay restarts under R144. -/
def Tray.cartOvertempClear (t : Tray) (b : Nat) : Tray :=
  match (t.bay b).info with
  | none => t
  | some x =>
    if ¬ (t.bay b).hot then t
    else
      let t1 := t.modBay b (fun y => { y with hot := false })
      let ty := t1.gf (bayPg b) F.PORT_CART_TYPE
      if ty < 1 ∨ 3 < ty ∨ x.compat = 2 then t1
      else (t1.sf (bayPg b) F.PORT_CART_MSTATE 2).each (bayPorts b) (fun t e =>
        if t.pst (b / 8) e = S.HELD then t.setPst (b / 8) e S.DOWN else t)

end Sys2Proof.Machine
end

