-- ==== Sys2Proof/Machine/Startup.lean ====
section
/-! DEFINITION. Power sequence, chip start, fabric ready, resets, the input stage's events (R392, R393, R408–R413). -/
namespace Sys2Proof.Machine

/-- Page of firmware. -/
def fwPg : Nat := halPg 0x050
/-- Page of the panel, of the console. -/
def pnlPg : Nat := halPg 0x020
def conPg : Nat := halPg 0x021

/-! ### HELLO (R433, R440) -/

/-- The body of HELLO. -/
def Tray.helloBody (t : Tray) (l : Leases) : List Byte :=
  leBytes 16 Config.serial.toNat
  ++ leBytes 2 (t.gf fwPg F.FW_STS_YEAR) ++ leBytes 1 (t.gf fwPg F.FW_STS_NN) ++ leBytes 1 t.service
  ++ leBytes 1 (t.gf hkPg F.HK_SLOT_SLOT) ++ leBytes 1 (t.gf hkPg F.HK_STS_LAST_RESET)
  ++ leBytes 2 (b2n t.fram.lost + 2 * b2n l.headless)
  ++ leBytes 4 (t.gf mgrPg F.MGR_MAP_MAP_GEN) ++ leBytes 4 l.term
  ++ (List.range 4).flatMap (fun k => leBytes 8 (t.rd fwPg (A.FW_VER + 8 * k)).toNat)
  ++ (List.range 5).flatMap (fun c => leBytes 1 (t.gf (chip0 c) F.PG_ID_STEPPING))

/-- HELLO on both ports. -/
def Tray.hello (t : Tray) (l : Leases) : Tray := t.zboth Z.HELLO (t.helloBody l) false

/-! ### Slot coding (R408) -/

/-- The three reads of the contacts. -/
def Tray.slotRead (t : Tray) (r0 r1 r2 : BitVec 5) : Tray :=
  let v := r2.toNat
  let ok := decide (r0 = r1) && decide (r1 = r2) && popCount 5 v % 2 == 1 && decide (v % 16 ≤ 8)
  let t1 := ((t.sf hkPg F.HK_SLOT_SLOT (if ok then v % 16 else 15)).sf hkPg F.HK_SLOT_RAW v).sb hkPg F.HK_SLOT_ACCEPTED ok
  if ok then t1 else t1.logHk .slotBad [r0.toNat, r1.toNat, r2.toNat]

/-- The label is repainted in full; an interrupted update is counted (R417). -/
def Tray.labelRepaint (t : Tray) : Tray :=
  let t1 := { t with hk := { t.hk with label := { t.hk.label with want := true } } }
  match t.fram.dirty with
  | none => t1
  | some d => (t1.sat pnlPg F.PNL_LABEL_INTERRUPTED 1).logHk .labelInterrupted [d.1, d.2]

/-- A reset of type `ty` has taken place (R413). -/
def Tray.resetDone (t : Tray) (ty : Nat) : Tray := (t.sf hkPg F.HK_STS_LAST_RESET ty).logHk .resetDone [ty]

/-! ### Rails up (R397, R409) -/

/-- The chip may be powered: the input and the coolant allow it, the Halvoren runs, no fault holds it off. -/
def Tray.mayPower (t : Tray) (c : Nat) : Bool :=
  t.hk.aon && t.hal.up && t.hk.envOff == 0 && decide (Ph.CHIP_RAILS ≤ t.phase0) && decide (t.phase0 ≠ Ph.INPUT_OFF) &&
  !t.chipOn c && !t.chipFault c

/-- The phase test before the ramp: `bad` holds the phases that fail it. -/
def Tray.phaseTest (t : Tray) (c : Nat) (bad : Word) : Tray :=
  t.each (List.range 4) (fun t r =>
    let f := bad.toNat / 2 ^ (16 * r) % 2 ^ railPhases r
    let n := popCount 16 f
    let t1 := ((t.sf (railPg c) (F.PWR_PHASE_FAILED.nth r) f).sf (railPg c) (F.PWR_PHASE_UNTRUSTED.nth r) 0).sf (railPg c)
      (F.PWR_RAIL_FAILURES.nth r) (satTo 2 n)
    if n = 0 then t1
    else
      let t2 := ((t1.raise (railPg c) 8).raise hkPg 9).logHk .phaseFail [c, r, f]
      { t2 with hk := { t2.hk with degraded := true } })

/-- A chip is left off by fault (R400, R409). -/
def Tray.leftOff (t : Tray) (c r : Nat) (ev : Ev) : Tray :=
  let t1 := ((t.sf (railPg c) (F.PWR_RAIL_STATE.nth r) 3).raise (railPg c) 10).setChipFault c true
  ((t1.logHk ev [c, r]).fault 1 c ev).phaseUpdate

/-- The rails ramp; CAP_PWR takes what the failures found call for. -/
def Tray.powerUp (t : Tray) (c : Nat) (bad : Word) : Tray :=
  let t1 := { t with hk := { t.hk with pgMiss := Assoc.set (fun _ => 0) t.hk.pgMiss c 0 } }.phaseTest c bad
  match (List.range 4).find? (fun r => t1.gf (railPg c) (F.PWR_RAIL_FAILURES.nth r) == 2) with
  | some r => t1.leftOff c r .railOff
  | none =>
    let t2 := (t1.each (List.range 4) (fun t r => t.sf (railPg c) (F.PWR_RAIL_STATE.nth r) 2)).setChipOn c true
    let t3 := t2.sf (chip0 c) F.CHIP_TOPO_SLOT (t2.gf hkPg F.HK_SLOT_SLOT)
    ((t3.sf hkPg (capFld F.HK_CAP_CAP_PWR c) (t3.capPwr c)).capWrite c).phaseUpdate

/-- CHIP_POWER_UP. -/
def Tray.chipPowerUp (t : Tray) (c : Nat) (bad : Word) : Tray := if t.mayPower c then t.powerUp c bad else t

/-- RAIL_PG_TIMEOUT: the rails go off in reverse order; one retry, then the chip is left off. -/
def Tray.railPgTimeout (t : Tray) (c r : Nat) : Tray :=
  if ¬ t.mayPower c then t
  else
    let n := Assoc.get (fun _ => 0) t.hk.pgMiss c
    if n = 0 then
      ({ t with hk := { t.hk with pgMiss := Assoc.set (fun _ => 0) t.hk.pgMiss c 1 } } : Tray).logHk .railPgTimeout [c, r, 0]
    else
      ({ t with hk := { t.hk with pgMiss := Assoc.set (fun _ => 0) t.hk.pgMiss c 0 } } : Tray).leftOff c r .railPgTimeout

/-! ### Phobel start (R410, R472, R475) -/

/-- PCIE_RELEASE: the endpoint and the chip-global page leave reset, the link trains; firmware trains both stacks. -/
def Tray.pcieRelease (t : Tray) (c : Nat) : Tray :=
  if ¬ t.chipOn c ∨ ¬ t.hal.up ∨ (t.chip c).released then t
  else
    let t1 := t.modChip c (fun x => { x with released := true, pcieUp := true })
    (t1.sf (hbmPg c 0) F.HBM_STS_STATE 1).sf (hbmPg c 1) F.HBM_STS_STATE 1

/-- HBM_TRAINING_DONE. -/
def Tray.hbmTrainingDone (t : Tray) (c k : Nat) (ok : Bool) : Tray :=
  if t.gf (hbmPg c k) F.HBM_STS_STATE ≠ 1 then t
  else
    let ph := hbmPhyPg c k
    let t1 := ((t.sf (hbmPg c k) F.HBM_STS_STATE (if ok then 2 else 3)).sb ph F.HBM_PHY_STS_TRAINED ok).sb ph
      F.HBM_PHY_STS_FAILED (!ok)
    let t2 := t1.cnt ph F.HBM_PHY_STS_TRAIN_CNT 1
    if ok then t2 else ((t2.raise ph 8).logEv .hbmTrainFail 1 [c, k]).fault 1 c .hbmTrainFail

/-- The chip may leave core reset: memories trained, identity and role given, time settled, service not REFUSED (R410,
R436, R459, R475). -/
def Tray.mayRelease (t : Tray) (c : Nat) : Bool :=
  t.hal.up && (t.chip c).released && (t.chip c).pcieUp && !(t.chip c).coreUp &&
  t.gf (hbmPg c 0) F.HBM_STS_STATE == 2 && t.gf (hbmPg c 1) F.HBM_STS_STATE == 2 &&
  t.hal.rack.isSome && t.hal.role.isSome && (t.gf mgrPg F.MGR_TIME_STATE == 1 || t.hal.timeWaited) && t.service != 2

/-- The chip is quiesced as its role asks: no packet has come, so only ENABLE and XOFF change (R109, R431). -/
def Tray.holdQuiesced (t : Tray) (c : Nat) : Tray :=
  (t.sb (chip0 c) F.PG_CTL_ENABLE false).each (List.range 64) (fun t e => t.modPort c e (fun p => { p with xoffHold := true }))

/-- CORE_RELEASE: CHIP_TOPO is written, BOOT counts, time is loaded, the cabled ports are enabled, CK_DEAL goes to its
target, the deck links of the chip train (R26, R56, R62, R380, R410, R430). -/
def Tray.coreRelease (t : Tray) (c : Nat) : Tray :=
  if ¬ t.mayRelease c then t
  else
    let c0 := chip0 c
    let role := t.hal.role.getD 0
    let boot := (t.fram.boot + 1) % 2 ^ 32
    let t1 := (((t.sf c0 F.CHIP_TOPO_RACK_ID (t.hal.rack.getD 0)).sb c0 F.CHIP_TOPO_TOPO_VALID true).sf c0 F.CHIP_TOPO_ROLE
      role).sf (dumpPg c) F.CNT_DUMP_ID_BOOT boot
    let t2 := ({ t1 with fram := { t1.fram with boot := boot } } : Tray).modChip c (fun x => { x with coreUp := true })
    let t3 := (t2.wr c0 A.CHIP_TIME (BitVec.ofNat 64 t2.master)).sb c0 F.CHIP_CLK_STS_TIME_LOCKED true
    let t4 := if role = 1 ∧ ¬ t.hal.waitPorts then t3 else t3.holdQuiesced c
    let t5 := t4.each (List.range 64) (fun t e =>
      if bitOf ((t.hal.cabled[c]?).getD 0) e ∨ t.enabled (portPg c e) then
        (t.sb (portPg c e) F.PG_CTL_ENABLE true).portEnable c e true
      else t)
    (((t5.dealChange c).deckRetrain c).showHops).phaseUpdate

/-- FABRIC_READY: all five chips released with TOPO_VALID, every cabled port UP or HELD (R411); an ACTIVE tray that waited
for its ports carries traffic (R431). -/
def Tray.fabricReady (t : Tray) (l : Leases) : Tray :=
  let t1 := t.roleGo
  let all := (List.range 5).all (fun c => (t.chip c).coreUp && t.is (chip0 c) F.CHIP_TOPO_TOPO_VALID) && t.cabledReady
  if ¬ all ∨ t.is hkPg F.HK_STS_FABRIC_READY then t1
  else (((t1.sb hkPg F.HK_STS_FABRIC_READY true).raise hkPg 13).phaseUpdate).hello l

/-! ### Resets (R412, R413, R473) -/

/-- Halvoren cores, CK_CTRL pages and DRAM lose their contents; the leases end (R412, R427). Records on their way to the
bridge become gaps (R376). -/
def Tray.wipeHalvoren (t : Tray) : Tray :=
  let t1 := t.each (List.range 5) (fun t c => t.dumpLose c 2)
  let keep := fun (k : Nat) => !(decide (halPg 0x030 ≤ k / 4096) && decide (k / 4096 < halPg 0x060))
  let t2 : Tray := { t1 with regs := Assoc.keep keep t1.regs, hal := {}, zq := [], wipe := true,
                             dirty := t1.dirty.filter (fun pg => !(decide (halPg 0x030 ≤ pg) && decide (pg < halPg 0x060))) }
  t2.phaseUpdate

/-- HALVOREN_RESET. -/
def Tray.halvorenReset (t : Tray) : Tray := if t.hk.aon then (t.wipeHalvoren).resetDone 3 else t

/-- A CHIP reset of one chip that is powered. -/
def Tray.resetChip (t : Tray) (c : Nat) : Tray := if t.chipOn c then (t.wipeChip c).logChip .chipReset c [] else t

/-- TRAY_RESET: the Halvoren and all five chips. -/
def Tray.trayReset (t : Tray) : Tray :=
  if ¬ t.hk.aon then t
  else (((t.wipeHalvoren).each (List.range 5) (fun t c => t.resetChip c)).phaseUpdate).resetDone 2

/-- CHIP_RESET. -/
def Tray.chipReset (t : Tray) (c : Nat) : Tray :=
  if ¬ t.hk.aon ∨ ¬ t.chipOn c then t else ((t.resetChip c).phaseUpdate).resetDone 4

/-- The power-down half of a CHIP_POWER reset; CHIP_FAULT no longer holds the chip off. -/
def Tray.chipPowerDown (t : Tray) (c : Nat) : Tray :=
  let t1 := t.each (List.range 4) (fun t r => t.sf (railPg c) (F.PWR_RAIL_STATE.nth r) 0)
  (((t1.chipOff c).setChipFault c false).phaseUpdate).resetDone 5

/-- CHIP_POWER_RESET: CHIP, power-down and power-up with the phase test. -/
def Tray.chipPowerReset (t : Tray) (c : Nat) (bad : Word) : Tray :=
  if ¬ t.hk.aon then t
  else
    let t1 := t.chipPowerDown c
    if t1.mayPower c then t1.powerUp c bad else t1

/-- Registers that show hardware facts outlive an HK reset: rails, fans and pumps stay as they are, the input is what it
is, the caps written stand until a component changes (R412, log 62). -/
def Tray.hkKeep (t : Tray) : List (Nat × Nat × Word) :=
  let capMask := fun c => putAll (activeReset hkPg (A.HK_CAP + 8 * c))
    (([F.HK_CAP_CAP_PWR, F.HK_CAP_CAP_INPUT, F.HK_CAP_EFFECTIVE].map (fun f => f.at (8 * c))).map (fun f => (f, t.gf hkPg f)))
  [(hkPg, A.HK_STS, t.rd hkPg A.HK_STS),
   (hkPg, A.HK_FAN, putAll 0 [(F.HK_FAN_FAN_OK, t.gf hkPg F.HK_FAN_FAN_OK), (F.HK_FAN_DUTY, t.gf hkPg F.HK_FAN_DUTY)]),
   (hkPg, A.HK_COOL, putAll 0 [(F.HK_COOL_LEAK, t.gf hkPg F.HK_COOL_LEAK), (F.HK_COOL_PUMP_OK, t.gf hkPg F.HK_COOL_PUMP_OK)]),
   (pwrPg, A.PWR_IN, t.rd pwrPg A.PWR_IN), (pwrPg, A.PWR_EIN, t.rd pwrPg A.PWR_EIN)]
  ++ (List.range 5).map (fun c => (hkPg, A.HK_CAP + 8 * c, capMask c))
  ++ (List.range 5).flatMap (fun c => (List.range 4).flatMap (fun r =>
      [A.PWR_RAIL, A.PWR_PHASE, A.PWR_ERAIL].map (fun a => (railPg c, a + 0x20 * r, t.rd (railPg c) (a + 0x20 * r)))))

/-- The housekeeper's pages: 0x000 to 0x021. -/
def hkPage (pg : Nat) : Bool := decide (halPg 0x000 ≤ pg) && decide (pg < halPg 0x022)

/-- HK_RESET and HK_WATCHDOG: the housekeeper's state and pages; the slot is read again, the label repainted. -/
def Tray.hkReset (t : Tray) (r0 r1 r2 : BitVec 5) : Tray :=
  if ¬ t.hk.aon then t
  else
    let h := t.hk
    let t1 : Tray := { t with
      regs := Assoc.keep (fun k => !hkPage (k / 4096)) t.regs,
      dirty := t.dirty.filter (fun pg => !hkPage pg),
      hk := { aon := true, envOff := h.envOff, pumpsFull := h.pumpsFull, degraded := h.degraded,
              label := { shown := h.label.shown, bars := h.label.bars }, rtc := h.rtc, ring := h.ring } }
    let t2 := t1.each t.hkKeep (fun t a => t.wr a.1 a.2.1 a.2.2)
    ((t2.slotRead r0 r1 r2).labelRepaint).resetDone 1

/-- HALVOREN_WATCHDOG. -/
def Tray.halvorenWatchdog (t : Tray) : Tray := t.halvorenReset

/-! ### The input stage (R392, R393, R412, R455, R456) -/

/-- Nothing has power: FRAM, flash and fuses keep what they hold, and the image of the label stays. -/
def Tray.dark (t : Tray) (ov : Bool) : Tray :=
  { out := t.out, freeCtr := t.freeCtr, fram := t.fram, wipe := true,
    hk := { ovSeen := ov, label := { shown := t.hk.label.shown, bars := t.hk.label.bars } } }

/-- The state that goes with V_IN in 10 mV, in the bands where the tray runs. -/
def vinState (v : Nat) : Nat :=
  if v < 4400 then Vin.UV_TRIP else if v < 4800 then Vin.UV_WARN else if v ≤ 5400 then Vin.NORMAL else Vin.OV_WARN

/-- V_IN is shown with its state; CAP_INPUT is 900 MHz under UV_WARN (R392, R407). -/
def Tray.vinShow (t : Tray) (v st : Nat) : Tray :=
  ((t.sf pwrPg F.PWR_IN_VIN v).sf pwrPg F.PWR_IN_STATE st).capAll F.HK_CAP_CAP_INPUT (if st = Vin.UV_WARN then 900 else 1250)

/-- The cold start begins: pumps started, fans at 60 % (R411). -/
def Tray.coldStart (t : Tray) : Tray :=
  let t1 := t.sf hkPg F.HK_STS_PHASE Ph.COOL_CHECK
  ((t1.sf hkPg F.HK_COOL_PUMP_OK 3).sf hkPg F.HK_FAN_FAN_OK 63).sf hkPg F.HK_FAN_DUTY 60

/-- POWER_ON_RESET with V_IN applied at `v`. -/
def Tray.powerOn (t : Tray) (v : Nat) (r0 r1 r2 : BitVec 5) (framOk : Bool) : Tray :=
  let t0 := t.dark t.hk.ovSeen
  if v < 3600 then t0
  else
    let fr := { t0.fram with lost := t0.fram.lost && !framOk, gasp := [] }
    let t1 := { t0 with fram := fr, hk := { t0.hk with aon := true, ovSeen := false } }.vinShow v (vinState v)
    let t2 := if t0.hk.ovSeen then (t1.sf pwrPg F.PWR_IN_STATE Vin.OV_TRIP).logHk .vinOv [v] else t1
    let t3 := if 4800 ≤ v then t2.coldStart else t2
    let t4 := ((t3.slotRead r0 r1 r2).labelRepaint).resetDone 0
    t4.each t.fram.gasp (fun t w => t.logHk .gaspRecovery [w.toNat])

/-- VIN_OV_TRIP: every rail loses power, without a quiesce. -/
def Tray.vinOvTrip (t : Tray) : Tray := if t.hk.aon then t.dark true else t

/-- VIN_UV_WARN. -/
def Tray.vinUvWarn (t : Tray) (v : Nat) : Tray :=
  if t.hk.aon ∧ vinState v = Vin.UV_WARN ∧ t.gf pwrPg F.PWR_IN_STATE ≠ Vin.UV_TRIP then
    (t.vinShow v Vin.UV_WARN).logHk .vinUvWarn [v]
  else t

/-- VIN_UV_WARN_CLEAR. -/
def Tray.vinUvWarnClear (t : Tray) (v : Nat) : Tray :=
  if t.hk.aon ∧ 4800 ≤ v ∧ t.gf pwrPg F.PWR_IN_STATE = Vin.UV_WARN then t.vinShow v (vinState v) else t

/-- VIN_UV_TRIP: all five chips quiesced, the rails of chips and Halvoren off; the housekeeper stays on. -/
def Tray.vinUvTrip (t : Tray) (v : Nat) : Tray :=
  if ¬ t.hk.aon ∨ 4400 ≤ v ∨ t.gf pwrPg F.PWR_IN_STATE = Vin.UV_TRIP then t
  else
    let t1 := (t.vinShow v Vin.UV_TRIP).logHk .vinUvTrip [v]
    let t2 := (t1.each (List.range 5) (fun t c => t.chipShutdown c true false .vinUvTrip)).wipeHalvoren
    t2.sf hkPg F.HK_STS_PHASE Ph.INPUT_OFF

/-- VIN_RESTORE: V_IN has been at least 48.0 V for 1 s; the cold start runs again. -/
def Tray.vinRestore (t : Tray) (v : Nat) : Tray :=
  let p := t.phase0
  if t.hk.aon ∧ 4800 ≤ v ∧ (p = Ph.INPUT_OFF ∨ p = Ph.AON_ONLY) then
    ((t.vinShow v (vinState v)).logHk .vinRestore [v]).coldStart
  else t

/-- VIN_BROWNOUT: below 36 V the housekeeper writes the last-gasp ring and stops. -/
def Tray.vinBrownout (t : Tray) : Tray := if t.hk.aon then (t.gasp).dark false else t

end Sys2Proof.Machine
end

