-- ==== Sys2Proof/Machine/Panel.lean ====
section
/-! DEFINITION. The front panel: LEDs, the identity label, the touch key, the console receiver (R414–R422). -/
namespace Sys2Proof.Machine

/-! ### LEDs (R414) -/

/-- What a LED shows. -/
inductive Led where
  | off | green | green1Hz | amber | amber2Hz | blue | blue1Hz
  deriving DecidableEq, Repr

/-- A chip off by fault or the input tripped. -/
def Tray.chipsOut (t : Tray) : Bool :=
  t.gf hkPg F.HK_STS_CHIP_FAULT != 0 || t.gf pwrPg F.PWR_IN_STATE == Vin.UV_TRIP

/-- A rail failure, two fans, a pump, a cap from a thermal or coolant condition, reduced service, the log lost, hot inlet
air, low airflow (R405, R406, R414, R456). -/
def Tray.degraded (t : Tray) : Bool :=
  (List.range 5).any (fun c => (List.range 4).any (fun r => t.gf (railPg c) (F.PWR_RAIL_FAILURES.nth r) != 0)) ||
  decide (popCount 6 (t.gf hkPg F.HK_FAN_FAN_OK) < 5) || bitOf t.hk.alarms 3 ||
  (List.range 5).any (fun c => decide (t.gf hkPg (capFld F.HK_CAP_CAP_THERM c) < 1250) ||
    decide (t.gf hkPg (capFld F.HK_CAP_CAP_COOL c) < 1250)) ||
  t.service == 1 || t.fram.lost || bitOf t.hk.alarms 6 || bitOf t.hk.alarms 7

def Tray.ledPwr (t : Tray) : Led :=
  if ¬ t.hk.aon then .off else if t.gf hkPg F.HK_STS_CHIP_ON = 0 then .green1Hz else .green
def Tray.ledHealth (t : Tray) : Led :=
  if ¬ t.hk.aon then .off else if t.chipsOut then .amber2Hz else if t.degraded then .amber else .green
def Tray.ledPlane (t : Tray) : Led := if t.hal.role = some 2 then .blue else .off
def Tray.ledLocate (t : Tray) : Led :=
  if t.gf pnlPg F.PNL_KEY_STS_STATE = 2 then .blue else if t.is pnlPg F.PNL_LED_LOCATE then .blue1Hz else .off
def Tray.ledFabric (t : Tray) : Led :=
  if ¬ t.is hkPg F.HK_STS_FABRIC_READY then .off
  else if (List.range 5).all (fun c => (List.range 64).all (fun e =>
      !bitOf ((t.hal.cabled[c]?).getD 0) e || t.pst c e == S.UP)) then .green
  else .amber

/-- LOCATE_TIMEOUT: locate mode ends by itself. -/
def Tray.locateTimeout (t : Tray) : Tray := if t.hk.aon then t.sb pnlPg F.PNL_LED_LOCATE false else t

/-! ### The label (R415–R417) -/

/-- ASCII digits of `v` in base `b`, `n` of them, most significant first. -/
def asciiNum (b : Nat) : Nat → Nat → List Byte
  | 0, _ => []
  | n + 1, v =>
    let d := v / b ^ n % b
    BitVec.ofNat 8 (if d < 10 then 0x30 + d else 0x37 + d) :: asciiNum b n v

/-- ASCII bytes of a text. -/
def ascii (s : String) : List Byte := s.toList.map (fun c => BitVec.ofNat 8 c.toNat)

/-- The content of the label, in its fixed fields, as text (log 30). -/
def Tray.labelContent (t : Tray) : List Byte :=
  let role := match t.hal.role.getD 0 with | 1 => "ACTIVE" | 2 => "SPARE" | 3 => "ISOLATED" | _ => "UNASSIGNED"
  leBytes 16 Config.serial.toNat
  ++ (match t.hal.rack with | some r => asciiNum 16 8 r | none => ascii "--------")
  ++ (if t.is hkPg F.HK_SLOT_ACCEPTED then asciiNum 10 1 (t.gf hkPg F.HK_SLOT_SLOT) else ascii "SLOT?")
  ++ ascii role
  ++ (if t.hal.failed then ascii "FW?"
      else ascii "ZB-" ++ asciiNum 10 4 (t.gf fwPg F.FW_STS_YEAR) ++ ascii "." ++ asciiNum 10 2 (t.gf fwPg F.FW_STS_NN))

/-- The content has changed: an update is due; changes during an update are merged (R417). -/
def Tray.labelChanged (t : Tray) : Tray := { t with hk := { t.hk with label := { t.hk.label with want := true } } }

/-- LABEL_UPDATE: the update due starts: dirty marker, end bars gone, the content drawn. -/
def Tray.labelUpdate (t : Tray) : Tray :=
  if ¬ t.hk.aon ∨ ¬ t.hk.label.want ∨ t.is pnlPg F.PNL_LABEL_BUSY then t
  else
    let x := t.labelContent
    let gen := t.fram.labelGen + 1
    let code := crc16 x
    ({ t with
      fram := { t.fram with dirty := some (gen, code), labelGen := gen },
      hk := { t.hk with label := { t.hk.label with want := false, bars := false, drawing := x, code := code } } } : Tray).sb
      pnlPg F.PNL_LABEL_BUSY true

/-- LABEL_DONE: the end bars are drawn, the dirty marker is cleared. -/
def Tray.labelDone (t : Tray) : Tray :=
  if ¬ t.hk.aon ∨ ¬ t.is pnlPg F.PNL_LABEL_BUSY then t
  else
    let l := t.hk.label
    let t1 : Tray := { t with
      fram := { t.fram with dirty := none }, hk := { t.hk with label := { l with shown := l.drawing, bars := true } } }
    (((t1.sb pnlPg F.PNL_LABEL_BUSY false).sf pnlPg F.PNL_LABEL_GEN t.fram.labelGen).sf pnlPg F.PNL_LABEL_CHECK l.code).raise
      pnlPg 11

/-! ### The touch key (R418–R421) -/

/-- PNL_KEY_STS.STATE. -/
def Key.UNCAL : Nat := 0
def Key.IDLE : Nat := 1
def Key.TOUCHED : Nat := 2
def Key.STUCK : Nat := 3
def Key.FAULT : Nat := 4

def Tray.key (t : Tray) : Nat := t.gf pnlPg F.PNL_KEY_STS_STATE
def Tray.keyBase (t : Tray) : Nat := t.gf pnlPg F.PNL_KEY_STS_BASE
def Tray.keyDelta (t : Tray) : Nat := t.gf pnlPg F.PNL_KEY_CFG_TOUCH_DELTA
/-- State, raw reading, baseline. -/
def Tray.keySet (t : Tray) (st raw base : Nat) : Tray :=
  ((t.sf pnlPg F.PNL_KEY_STS_STATE st).sf pnlPg F.PNL_KEY_STS_RAW raw).sf pnlPg F.PNL_KEY_STS_BASE base

/-- KEY_BASELINE: the first stable window sets the baseline. -/
def Tray.keyBaseline (t : Tray) (mean : Nat) : Tray :=
  if t.hk.aon ∧ (t.key = Key.UNCAL ∨ t.key = Key.FAULT) then t.keySet Key.IDLE mean mean else t

/-- KEY_FAULT: no baseline within 60 s; the attempt repeats. -/
def Tray.keyFault (t : Tray) : Tray :=
  if t.hk.aon ∧ (t.key = Key.UNCAL ∨ t.key = Key.FAULT) then
    ((t.sf pnlPg F.PNL_KEY_STS_STATE Key.FAULT).raise pnlPg 10).logHk .keyFault []
  else t

/-- TOUCH_BEGIN. -/
def Tray.touchBegin (t : Tray) (raw : Nat) : Tray :=
  if t.hk.aon ∧ t.key = Key.IDLE ∧ t.keyBase + t.keyDelta ≤ raw then t.keySet Key.TOUCHED raw t.keyBase else t

/-- SERVICE_REQ (R421): interrupt, count, entry, and the message to both managers. -/
def Tray.serviceReq (t : Tray) (ms : Nat) : Tray :=
  (((t.raise pnlPg 8).sat pnlPg F.PNL_KEY_STS_SERVICE_CNT 1).logHk .serviceReq [ms]).zboth Z.SERVICE_REQ
    (leBytes 8 t.master ++ leBytes 8 ms) true

/-- TOUCH_END after `ms` ms: locate mode toggles, or a service request. -/
def Tray.touchEnd (t : Tray) (raw ms : Nat) : Tray :=
  if t.hk.aon ∧ t.key = Key.TOUCHED ∧ 2 * raw < 2 * t.keyBase + t.keyDelta ∧ ms ≤ 20000 then
    let t1 := t.keySet Key.IDLE raw t.keyBase
    if 50 ≤ ms ∧ ms < 3000 then
      (t1.sb pnlPg F.PNL_LED_LOCATE (!t.is pnlPg F.PNL_LED_LOCATE)).sat pnlPg F.PNL_KEY_STS_LOCATE_CNT 1
    else if 3000 ≤ ms then t1.serviceReq ms
    else t1
  else t

/-- KEY_BASELINE_RETAKE: a reading below the baseline by more than half of TOUCH_DELTA. -/
def Tray.keyRetake (t : Tray) (raw : Nat) : Tray :=
  if t.hk.aon ∧ t.key = Key.IDLE ∧ 2 * raw + t.keyDelta < 2 * t.keyBase then t.keySet Key.IDLE raw raw else t

/-- KEY_STUCK: counted and reported, no action; the key passes through STUCK and is IDLE again with the baseline retaken
from the current reading. -/
def Tray.keyStuck (t : Tray) (raw : Nat) : Tray :=
  if t.hk.aon ∧ t.key = Key.TOUCHED then
    (((t.keySet Key.IDLE raw raw).sat pnlPg F.PNL_KEY_STS_STUCK_CNT 1).raise pnlPg 9).logHk .keyStuck [raw]
  else t

/-! ### The console receiver (R422) -/

/-- CONSOLE_RX_BYTE. -/
def Tray.consoleByte (t : Tray) (b : Byte) (stopOk : Bool) : Tray :=
  if ¬ t.hk.aon then t
  else if ¬ stopOk then t.sat conPg F.CON_ERR_FRAMING 1
  else if 64 ≤ t.hk.fifo.length then t.sat conPg F.CON_ERR_OVERRUN 1
  else { t with hk := { t.hk with fifo := t.hk.fifo ++ [b] } }

/-- CONSOLE_BREAK. -/
def Tray.consoleBreak (t : Tray) : Tray := if t.hk.aon then t.sat conPg F.CON_ERR_BREAK 1 else t

end Sys2Proof.Machine
end

