-- ==== Sys2Proof/Machine/Write.lean ====
section
/-! DEFINITION. Register accesses: the write of an active and of a shadow offset, unsupported requests, accesses to a
domain that is down, reads (R10–R13, R68, R76–R81, R85, R98, R101, R469). -/
namespace Sys2Proof.Machine

/-! ### Reports of accesses that do not complete (R68, R76, R73) -/

/-- A write to a chip is reported through AER: an entry of the header log and ERR_NONFATAL. -/
def Tray.aerWrite (t : Tray) (pg off width : Nat) (abort : Bool) : Tray :=
  ({ t with aer := t.aer ++ [⟨pg / 4096, pg % 4096, off, width, true, abort⟩] } : Tray).emit (.errNonfatal (pg / 4096))

/-- An unsupported request to a page (R76, R73). -/
def Tray.unsupported (t : Tray) (pg off width : Nat) (isWrite : Bool) : Tray :=
  if ¬ isChipPg pg then t.emit (.busError (pg % 4096) off)
  else if isWrite then t.aerWrite pg off width false
  else t.emit (.completion (pg / 4096) .unsupported 0)

/-- An access to a domain whose PLL is unlocked (R68): a Completer Abort, and DOMAIN_DOWN in the chip-global page. -/
def Tray.domainAbort (t : Tray) (pg off src : Nat) (isWrite : Bool) : Tray :=
  let t1 := t.recErr (chip0 (pg / 4096)) E.DOMAIN_DOWN ⟨src, off, isWrite⟩
  if isWrite then t1.aerWrite pg off 8 true else t1.emit (.completion (pg / 4096) .abort 0)

/-! ### RW and W1C fields -/

/-- A RW field of a page takes the value (R13, R469). -/
def encOk (pg : Nat) (f : FieldDesc) (x : Nat) : Bool :=
  f.enc.ok x && (isChipPg pg || f.fld != F.PG_CTL_ENABLE || x == 1)

/-- The RW fields of the register take their values; each reserved encoding leaves its field and is recorded (R13). -/
def Tray.putRw (t : Tray) (pg off : Nat) (r : RegDesc) (v : Word) (o : Origin) : Tray :=
  let w := r.fields.foldl (fun (a : Word × Nat) f =>
    if f.acc = .rw then
      (if encOk pg f (f.fld.get v) then (f.fld.put a.1 (f.fld.get v), a.2) else (a.1, a.2 + 1))
    else a) (t.rd pg off, 0)
  (t.wr pg off w.1).each (List.range w.2) (fun t _ => t.recErr pg E.RESERVED_ENC o)

/-- W1C fields: a VALID bit clears its whole register, and XLT_FAULT's the address too (R101, R322, R369, R374). -/
def Tray.putW1c (t : Tray) (pg off : Nat) (r : RegDesc) (v : Word) : Tray :=
  t.each (r.fields.filter (fun f => decide (f.acc = .w1c))) (fun t f =>
    if f.fld.lo = 63 then
      (if f.fld.get v = 1 then
        (let t1 := t.wr pg off 0
         if pageKind pg = some .xlt then t1.wr pg A.XLT_FAULT_ADDR 0 else t1)
       else t)
    else t.wr pg off (t.rd pg off &&& ~~~(v &&& (maskW f.fld.w <<< f.fld.lo))))

/-! ### PG_CTL, PG_ABORT -/

/-- PG_ABORT.GO (R103, R102, R469). -/
def Tray.abortGo (t : Tray) (pg : Nat) (o : Origin) : Tray :=
  let c := pg / 4096
  let q := pg % 4096
  match pageKind pg with
  | some .chip0 => t.quiesceChip c
  | some .port => t.portAbort c (q - 0x010)
  | some .table => t.tableAbortGo c (q - 0x200)
  | some .dlr => t.dealerAbort c
  | some .hbmCtl => t.spillAbort c ((q - 0x320) / 2)
  | some .dump => t.dumpAbort c
  | some .circ => t.circuitAbort c
  | _ => t.noFunction pg o

/-- PG_CTL_ENABLE_WRITE: ENABLE of a chip's page becomes `on` (R85, R263, R460). -/
def Tray.setEnable (t : Tray) (pg : Nat) (on : Bool) (o : Origin) : Tray :=
  let c := pg / 4096
  let q := pg % 4096
  let was := t.enabled pg
  let t1 := t.sb pg F.PG_CTL_ENABLE on
  if ¬ (t.chip c).coreUp then t1
  else match pageKind pg with
    | some .port => if on = was then t else t1.portEnable c (q - 0x010) on
    | some .table =>
      if on then (if was then t else t.tableEnable c (q - 0x200) o) else t1.tableAbortGo c (q - 0x200)
    | some .dlr =>
      if on then (if t.service = 0 then t1 else t) else if was ∧ t.busy pg then t1.dealerAbort c else t1
    | some .chip0 =>
      if on then (if was then t else t1.quiesceEnd c) else if was ∧ t.busy pg then t1.quiesceChip c else t1
    | _ => if was ∧ ¬ on ∧ abortable pg ∧ t.busy pg then t1.abortGo pg o else t1

/-- A write of PG_CTL that changes no staged field. -/
def Tray.pgCtl (t : Tray) (pg : Nat) (v : Word) (o : Origin) : Tray :=
  let on := F.PG_CTL_ENABLE.get v == 1
  if isChipPg pg then t.setEnable pg on o
  else if on then t else t.recErr pg E.RESERVED_ENC o

/-- A write to a register of the common header (R82). -/
def Tray.writeHeader (t : Tray) (pg off : Nat) (r : RegDesc) (v : Word) (o : Origin) : Tray :=
  if off = A.PG_CTL then t.pgCtl pg v o
  else if off = A.PG_IRQ_EN then
    (t.wr pg off (v &&& BitVec.ofNat 64 (irqDefined pg))).msiIfRose pg (t.irqSts pg)
  else if off = A.PG_ABORT then (if F.PG_ABORT_GO.get v = 1 then t.abortGo pg o else t)
  else if off = A.PG_COMMIT then (if F.PG_COMMIT_GO.get v = 1 then t.commitGo pg else t)
  else t.putW1c pg off r v

/-! ### Block registers with rules of their own -/

/-- CHIP_TOPO_WRITE (R27). -/
def Tray.chipTopoWrite (t : Tray) (c : Nat) (v : Word) (o : Origin) : Tray :=
  let pg := chip0 c
  let t1 := t.sf pg F.CHIP_TOPO_ROLE (F.CHIP_TOPO_ROLE.get v)
  if t.is pg F.CHIP_TOPO_TOPO_VALID then
    (if F.CHIP_TOPO_TOPO_VALID.get v = 0 ∨ F.CHIP_TOPO_RACK_ID.get v ≠ t.gf pg F.CHIP_TOPO_RACK_ID then
      t1.recErr pg E.LOCKED_FIELD o else t1)
  else (t1.sf pg F.CHIP_TOPO_RACK_ID (F.CHIP_TOPO_RACK_ID.get v)).sf pg F.CHIP_TOPO_TOPO_VALID
    (F.CHIP_TOPO_TOPO_VALID.get v)

/-- Seat `m` owns something that keeps it in use (R368). -/
def Tray.seatBusy (t : Tray) (c m : Nat) : Bool :=
  t.seatTables c m != 0 || t.seatJobs c m != 0 || t.seatInboxes c m != 0 || t.seatCircuits c m != 0 ||
  t.seatGroups c m != 0 || t.descSeat c m != 0 || t.seatXlt c m != 0

/-- SEAT_CFG_WRITE (R368): VALID of seat 0 reads 1; VALID of a seat in use does not clear. -/
def Tray.seatCfgWrite (t : Tray) (c m : Nat) (v : Word) (o : Origin) : Tray :=
  let pg := seatPg c m
  let put := fun (t : Tray) (f : Fld) =>
    let x := f.get v
    if x = 0 then t.recErr pg E.RESERVED_ENC o else t.sf pg f x
  let t1 := put (put t F.SEAT_CFG_W_TC2) F.SEAT_CFG_W_TC3
  let on := F.SEAT_CFG_VALID.get v == 1
  if m = 0 then t1
  else if ¬ on ∧ t.is pg F.SEAT_CFG_VALID ∧ t.seatBusy c m then t1.recErr pg 0x40 o
  else t1.sb pg F.SEAT_CFG_VALID on

/-- PORT_TRAIN_CTL (R146): RW fields, then DIAG, then RESTART. -/
def Tray.trainCtl (t : Tray) (c e : Nat) (r : RegDesc) (v : Word) (o : Origin) : Tray :=
  let pg := portPg c e
  let was := t.gf pg F.PORT_TRAIN_CTL_DIAG
  let diag := F.PORT_TRAIN_CTL_DIAG.get v
  let t1 := t.putRw pg A.PORT_TRAIN_CTL r v o
  if ¬ (t.chip c).coreUp then t1
  else
    let t2 := if diag = was then t1 else (t1.sf pg F.PORT_TRAIN_CTL_DIAG was).portDiag c e (diag == 1)
    if F.PORT_TRAIN_CTL_RESTART.get v = 1 then t2.portRestart c e else t2

/-- HK_RESET (R412, R424): TYPE and CHIP as written, with GO. -/
def Tray.hkResetWrite (t : Tray) (v : Word) (o : Origin) : Tray :=
  let ty := F.HK_RESET_TYPE.get v
  let c := F.HK_RESET_CHIP.get v
  let bad := (if ty = 0 ∨ 5 < ty then 1 else 0) + (if 4 < c then 1 else 0)
  let t1 := t.each (List.range bad) (fun t _ => t.recErr hkPg E.RESERVED_ENC o)
  let raw := BitVec.ofNat 5 (t.gf hkPg F.HK_SLOT_RAW)
  if F.HK_RESET_GO.get v = 0 then t1
  else match ty with
    | 1 => t1.hkReset raw raw raw
    | 2 => t1.trayReset
    | 3 => t1.halvorenReset
    | 4 => if 4 < c then t1 else if t.chipFault c then t1.recErr hkPg 0x40 o else t1.chipReset c
    | 5 => if 4 < c then t1 else t1.chipPowerDown c
    | _ => t1

/-- A write to a register of a block of a chip whose core reset is released; `none`: a plain register. -/
def Tray.writeChip (t : Tray) (pg off : Nat) (r : RegDesc) (v : Word) (o : Origin) : Option Tray :=
  let c := pg / 4096
  let q := pg % 4096
  let bit := fun (f : Fld) => f.get v == 1
  let go := fun (t : Tray) (f : Fld) (g : Tray → Tray) => if f.get v = 1 then t.ifOn pg g else t
  match pageKind pg with
  | some .chip0 => if off = A.CHIP_DEAL_CLK then some (t.dealRequest c v o) else none
  | some .lane => if off = A.LANE_SLIP then some (t.laneSlip c (q - 0x100) v o) else none
  | some .port =>
    let e := q - 0x010
    if off = A.PORT_TRAIN_CTL then some (t.trainCtl c e r v o)
    else if off = A.PORT_SPARE then some (t.laneSpare c e v o)
    else if off = A.PORT_CMIS_CMD then some (t.cmisCmd (8 * c + e / 8) v o)
    else none
  | some .kitMcg =>
    if off = A.KIT_MCG_OP then
      some (go (go t F.KIT_MCG_OP_WRITE (fun t => t.mcgWrite c)) F.KIT_MCG_OP_READ (fun t => t.mcgRead c))
    else none
  | some .circ =>
    if off = A.CIRC_ENT then some (t.circEnt c v o)
    else if off = A.CIRC_OP then
      let t1 := go t F.CIRC_OP_SETUP (fun t => t.circSetup c o)
      some (if bit F.CIRC_OP_TEARDOWN then t1.circTeardown c o else t1)
    else none
  | some .deck => if off = A.DECK_CTL ∧ bit F.DECK_CTL_RETRAIN then some (t.deckRetrain c) else none
  | some .table =>
    if A.TBL_CTR ≤ off ∧ off < A.TBL_CTR + 128 then
      some (t.sf pg (ctrFld ((off - A.TBL_CTR) / 8)) (F.TBL_CTR_VALUE.get v))
    else none
  | some .dlr =>
    if A.DLR_LEND ≤ off ∧ off < A.DLR_LEND + 32 then some (t.lendWrite c ((off - A.DLR_LEND) / 8) v o) else none
  | some .dlrJob =>
    if (off - A.DLR_JOB_CFG) % 0x20 = 0x10 then
      let j := (off - A.DLR_JOB_CFG) / 0x20
      let t1 := if bit F.DLR_JOB_CTL_GO then t.jobStart c j o else t
      some (if bit F.DLR_JOB_CTL_ABORT then (t1.jobAbort c j).dealerSweep c else t1)
    else none
  | some .dlrIn =>
    let i := (off - A.DLR_IN_CFG) / 0x20
    if (off - A.DLR_IN_CFG) % 0x20 = 0 then some (t.inboxValid c i v o)
    else if (off - A.DLR_IN_CFG) % 0x20 = 8 ∧ t.inValid c i then some (t.recErr pg 0x42 o)
    else none
  | some .lay =>
    if off = A.LAY_OP then
      let t1 := t.sf pg F.LAY_OP_SEAT (F.LAY_OP_SEAT.get v)
      some (go (go (go t1 F.LAY_OP_CREATE (fun t => t.layCreate c)) F.LAY_OP_DESTROY (fun t => t.layDestroy c))
        F.LAY_OP_READ (fun t => t.layRead c))
    else none
  | some .xlt =>
    if (off = A.XLT_SEL ∨ off = A.XLT_ENT ∨ off = A.XLT_OP) ∧ t.is pg F.XLT_OP_BUSY then
      some (if off ≠ A.XLT_OP ∨ fieldOf v 0 3 ≠ 0 then t.recErr pg 0x40 o else t)
    else if off = A.XLT_OP then
      some (go (go (go t F.XLT_OP_WRITE (fun t => t.xltWrite c)) F.XLT_OP_READ (fun t => t.xltRead c)) F.XLT_OP_INVAL_SEAT
        (fun t => t.invalSeat c))
    else none
  | some .seat => if off = A.SEAT_CFG then some (t.seatCfgWrite c (q - 0x380) v o) else none
  | _ => none

/-- A write to a register of a Halvoren page with a rule of its own. -/
def Tray.writeHal (t : Tray) (pg off : Nat) (v : Word) (o : Origin) : Option Tray :=
  match pageKind pg with
  | some .hk => if off = A.HK_RESET then some (t.hkResetWrite v o) else none
  | some .pnl =>
    if off = A.PNL_LABEL then some (if F.PNL_LABEL_REPAINT.get v = 1 then t.labelChanged else t) else none
  | _ => none

/-- A write to a block register. Before the core release a block takes values and starts nothing. -/
def Tray.writeBlock (t : Tray) (pg off : Nat) (r : RegDesc) (v : Word) (o : Origin) : Tray :=
  let plain := (t.putRw pg off r v o).putW1c pg off r v
  if ¬ isChipPg pg then (t.writeHal pg off v o).getD plain
  else if pageKind pg = some .chip0 ∧ off = A.CHIP_TOPO then t.chipTopoWrite (pg / 4096) v o
  else if (t.chip (pg / 4096)).coreUp then (t.writeChip pg off r v o).getD plain
  else plain

/-! ### The access -/

/-- A write to the active offset of an implemented page (R77, R79). -/
def Tray.writeActive (t : Tray) (pg off : Nat) (v : Word) (src : Nat) : Tray :=
  let o := Origin.wr src off
  match findReg pg off with
  | none => t.recErr pg E.UNMAPPED o
  | some r =>
    if (v ^^^ t.rd pg off) &&& r.rwsMask ≠ 0 then (t.recErr pg E.ACTIVE_WRITE o).unsupported pg off 8 true
    else if off < 0x100 then t.writeHeader pg off r v o
    else t.writeBlock pg off r v o

/-- A value of a staged field (R13, R85, R468). -/
def stagedOk (pg : Nat) (f : FieldDesc) (x : Nat) : Bool :=
  if f.fld = F.PG_CTL_EXPERT then hasProfiles pg || x == 0
  else if f.fld = F.PG_CTL_PROFILE then x == 0 || bitOf (profilesSupported pg) x
  else f.enc.ok x

/-- SHADOW_WRITE (R78, R79, R92); `off` is the offset accessed. SECTIONS bit 0 reads 1 (R381). -/
def Tray.writeShadow (t : Tray) (pg off : Nat) (v : Word) (src : Nat) : Tray :=
  let o := Origin.wr src off
  match (findReg pg (off - 0x800)).filter (fun r => r.rwsMask != 0) with
  | none => t.recErr pg E.UNMAPPED o
  | some r =>
    if t.is pg F.PG_COMMIT_STS_PENDING then t.recErr pg E.SHADOW_LOCKED o
    else
      let w := r.fields.foldl (fun (a : Word × Nat) f =>
        if f.acc = .rws then
          (if stagedOk pg f (f.fld.get v) then (f.fld.put a.1 (f.fld.get v), a.2) else (a.1, a.2 + 1))
        else a) (t.rd pg off, 0)
      let w1 := if r.off = A.CNT_DUMP_CFG ∧ pageKind pg = some .dump then w.1 ||| 0x100 else w.1
      (t.wr pg off w1).each (List.range w.2) (fun t _ => t.recErr pg E.RESERVED_ENC o)

/-- Slots of the chip note the operations that a write has ended (R335, R358). -/
def Tray.sweep (t : Tray) (sp : Nat) : Tray := if sp < 5 then t.dealerSweep sp else t

/-- An 8-byte write of `v` that arrives at space `sp` (R76–R79, R68, R71). -/
def Tray.write8 (t : Tray) (src sp page off : Nat) (v : Word) : Tray :=
  let pg := sp * 4096 + page
  if ¬ t.reaches sp then t
  else if pageKind pg = none then t.unsupported pg off 8 true
  else if off % 8 ≠ 0 then (t.recErr pg E.ALIGN (Origin.wr src off)).unsupported pg off 8 true
  else if ¬ t.domainUp pg off then t.domainAbort pg off src true
  else if off < 0x800 then (t.writeActive pg off v src).sweep sp
  else t.writeShadow pg off v src

/-- UNSUPPORTED_REQUEST: an access of another width, or not aligned (R76). -/
def Tray.badAccess (t : Tray) (sp page off width : Nat) (isWrite : Bool) : Tray :=
  let pg := sp * 4096 + page
  if ¬ t.reaches sp ∨ (width = 8 ∧ off % 8 = 0) then t
  else if pageKind pg = none then t.unsupported pg off width isWrite
  else (t.recErr pg (if width = 8 then E.ALIGN else E.WIDTH) ⟨0, off, isWrite⟩).unsupported pg off width isWrite

/-- UNIMPLEMENTED_PAGE_ACCESS (R71, R73). -/
def Tray.noPage (t : Tray) (sp page off : Nat) (isWrite : Bool) : Tray :=
  let pg := sp * 4096 + page
  if ¬ t.reaches sp ∨ pageKind pg ≠ none then t else t.unsupported pg off 8 isWrite

/-- DOMAIN_DOWN (R68). -/
def Tray.downAccess (t : Tray) (c page off : Nat) (isWrite : Bool) : Tray :=
  let pg := c * 4096 + page
  if ¬ t.reaches c ∨ pageKind pg = none ∨ off % 8 ≠ 0 ∨ t.domainUp pg off then t else t.domainAbort pg off 0 isWrite

/-! ### Reads -/

/-- A read clears the RC fields of its register, to the value they reset to (R10, R81). -/
def Tray.clearRc (t : Tray) (pg off : Nat) (r : RegDesc) : Tray :=
  let rc := r.fields.filter (fun f => decide (f.acc = .rc))
  let t1 := t.each rc (fun t f =>
    t.wr pg off (f.fld.put (t.rd pg off) (f.fld.get (activeReset pg off))))
  if pageKind pg = some .circ ∧ off = A.CIRC_XERR then
    (match t.circ (pg / 4096) (t.circSel (pg / 4096)) with
     | some z => t1.setCirc (pg / 4096) (t.circSel (pg / 4096)) (some { z with xerr := 0 })
     | none => t1)
  else t1

/-- The value an 8-byte aligned read of an implemented page returns, and what it changes (R78, R79, R81). -/
def Tray.readPage (t : Tray) (l : Leases) (pg off src : Nat) : Word × Tray :=
  let o : Origin := ⟨src, off, false⟩
  if off < 0x800 then
    match findReg pg off with
    | none => (0, t.recErr pg E.UNMAPPED o)
    | some r => (t.viewReg l pg off, t.clearRc pg off r)
  else
    match (findReg pg (off - 0x800)).filter (fun r => r.rwsMask != 0) with
    | none => (0, t.recErr pg E.UNMAPPED o)
    | some _ => (t.rd pg off, t)

/-- An 8-byte read that arrives at space `sp`: its value where it completes. -/
def Tray.read8 (t : Tray) (l : Leases) (src sp page off : Nat) : Option Word × Tray :=
  let pg := sp * 4096 + page
  if ¬ t.reaches sp then (none, t)
  else if pageKind pg = none then (none, t.unsupported pg off 8 false)
  else if off % 8 ≠ 0 then (none, (t.recErr pg E.ALIGN ⟨src, off, false⟩).unsupported pg off 8 false)
  else if ¬ t.domainUp pg off then (none, t.domainAbort pg off src false)
  else
    let r := t.readPage l pg off src
    (some r.1, r.2)

/-- REGISTER_READ_CLEAR: the value leaves in a completion. -/
def Tray.registerRead (t : Tray) (l : Leases) (sp page off : Nat) : Tray :=
  match t.read8 l 0 sp page off with
  | (some v, t1) => t1.emit (.completion sp .ok v)
  | (none, t1) => t1

/-! ### BAR2 (R480, R100) -/

/-- A dword of BAR2: vector-control words reset with the mask bit set. -/
def bar2Reset (k : Nat) : BitVec 32 := if k % 4096 < 0x100 ∧ k % 16 = 12 then 1 else 0
def Tray.bar2Rd (t : Tray) (c off : Nat) : BitVec 32 := Assoc.get bar2Reset t.bar2 (c * 4096 + off)
def Tray.bar2Wr (t : Tray) (c off : Nat) (v : BitVec 32) : Tray :=
  { t with bar2 := Assoc.set bar2Reset t.bar2 (c * 4096 + off) v }

/-- The vector is masked in the table. -/
def Tray.vecMasked (t : Tray) (c vec : Nat) : Bool := (t.bar2Rd c (16 * vec + 12)).toNat % 2 == 1

/-- The message of a vector leaves. -/
def Tray.msiSend (t : Tray) (c vec : Nat) : Tray :=
  let d := fun k => (t.bar2Rd c (16 * vec + 4 * k)).toNat
  t.emit (.msi c vec (d 0 + 2 ^ 32 * d 1) (d 2))

/-- A write to the table; an unmask with the pending bit set requests the message (R100). -/
def Tray.bar2Table (t : Tray) (c off : Nat) (v : BitVec 32) : Tray :=
  let vec := off / 16
  let t1 := t.bar2Wr c off v
  let pend := bitOf (t.bar2Rd c 0x800).toNat vec
  let k := c * 16 + vec
  if off % 16 = 12 ∧ v.toNat % 2 = 0 ∧ pend then
    let t2 := t1.bar2Wr c 0x800 (BitVec.ofNat 32 (clrBitOf (t.bar2Rd c 0x800).toNat vec))
    if t.msiReq.contains k then t2 else { t2 with msiReq := t2.msiReq ++ [k] }
  else t1

/-- BAR2_ACCESS. -/
def Tray.bar2Access (t : Tray) (c off width : Nat) (isWrite : Bool) (v : Word) : Tray :=
  if ¬ t.reaches c then t
  else if ¬ ((width = 4 ∨ width = 8) ∧ off % width = 0) then
    (if isWrite then t.aerWrite (chipPg c 0) off width false else t.emit (.completion c .unsupported 0))
  else
    let dw := if width = 8 then [0, 4] else [0]
    if isWrite then
      t.each dw (fun t d => if off + d < 0x100 then t.bar2Table c (off + d) (BitVec.ofNat 32 (v.toNat / 2 ^ (8 * d))) else t)
    else
      let x := sumL (dw.map (fun d => (t.bar2Rd c (off + d)).toNat * 2 ^ (8 * d)))
      t.emit (.completion c .ok (BitVec.ofNat 64 x))

/-- MSIX_MESSAGE: a requested message leaves, or its pending bit is set while the vector is masked. -/
def Tray.msixMessage (t : Tray) (c vec : Nat) : Tray :=
  let k := c * 16 + vec
  if ¬ t.msiReq.contains k ∨ ¬ t.reaches c then t
  else
    let t1 := { t with msiReq := t.msiReq.filter (fun x => x != k) }
    if t.vecMasked c vec then
      t1.bar2Wr c 0x800 (BitVec.ofNat 32 (putBitOf (t.bar2Rd c 0x800).toNat vec true))
    else t1.msiSend c vec

end Sys2Proof.Machine
end

