-- ==== Sys2Proof/Machine/Leases.lean ====
section
/-! DEFINITION. ZMP messages as the tray takes them, leases and terms, resends, SPDM (R427–R429, R433, R437–R440,
R444). -/
namespace Sys2Proof.Machine

/-! ### STATUS (R439) -/

def Zs.OK : Nat := 0
def Zs.BAD_MSG : Nat := 1
def Zs.NOT_PRIMARY : Nat := 2
def Zs.STALE_TERM : Nat := 3
def Zs.CONFLICT : Nat := 4
def Zs.REFUSED : Nat := 5
def Zs.BUSY : Nat := 6
def Zs.FAILED : Nat := 7

/-- The `n` bytes of a body from `off`, as a number. -/
def zb (body : List Byte) (off n : Nat) : Nat := leVal ((body.drop off).take n)

/-- Fields of the header. -/
def zType (z : ZMsg) : Nat := fieldOf z.hdr 8 8
def zSeq (z : ZMsg) : Nat := fieldOf z.hdr 64 32
def zTerm (z : ZMsg) : Nat := fieldOf z.hdr 128 32

/-- Types a manager sends (R440). -/
def zKnown : List Nat :=
  [Z.LEASE_REQ, Z.LEASE_RENEW, Z.LEASE_RELEASE, Z.IDENTITY, Z.PLANE_MAP, Z.LOG_READ, Z.REG_READ, Z.REG_WRITE,
   Z.CFG_DIGEST, Z.DUMP_ACK, Z.WIRE_TEST, Z.FW_BEGIN, Z.FW_DATA, Z.FW_END, Z.FW_ACTIVATE, Z.SPDM]

/-- The listed body bytes of a type, as (offset, length) (R440). -/
def zListed (ty : Nat) (body : List Byte) : List (Nat × Nat) :=
  if ty = Z.LEASE_REQ then [(0, 1)]
  else if ty = Z.IDENTITY then [(0, 4), (8, 40)]
  else if ty = Z.PLANE_MAP then [(0, 26)]
  else if ty = Z.LOG_READ then [(0, 5)]
  else if ty = Z.REG_READ then [(0, 2), (8, 8)]
  else if ty = Z.REG_WRITE then [(0, 2), (8, 16 * zb body 1 1)]
  else if ty = Z.DUMP_ACK then [(0, 1), (8, 8)]
  else if ty = Z.WIRE_TEST then [(0, 46)]
  else if ty = Z.FW_BEGIN then [(0, 56)]
  else if ty = Z.FW_DATA then [(0, max 9 body.length)]
  else if ty = Z.FW_ACTIVATE then [(0, 1)]
  else if ty = Z.SPDM then [(0, body.length)]
  else []

/-- The values of a body that its type allows (R440). -/
def zValues (ty : Nat) (body : List Byte) : Bool :=
  let b := zb body
  if ty = Z.LEASE_REQ then decide (1 ≤ b 0 1) && decide (b 0 1 ≤ 2)
  else if ty = Z.PLANE_MAP then (List.range 9).all (fun k => b (8 + 2 * k) 2 &&& 0xFE0C == 0)
  else if ty = Z.LOG_READ then decide (1 ≤ b 4 1) && decide (b 4 1 ≤ 120)
  else if ty = Z.REG_READ then (decide (b 0 1 ≤ 4) || b 0 1 == 7) && decide (1 ≤ b 1 1) && decide (b 1 1 ≤ 64)
  else if ty = Z.REG_WRITE then b 0 1 &&& 0x60 == 0 && decide (1 ≤ b 1 1) && decide (b 1 1 ≤ 64)
  else if ty = Z.DUMP_ACK then decide (b 0 1 ≤ 4) || b 0 1 == 7
  else if ty = Z.WIRE_TEST then decide (1 ≤ b 44 1) && decide (b 44 1 ≤ 3)
  else if ty = Z.FW_DATA then decide (body.length ≤ 8008)
  else if ty = Z.FW_ACTIVATE then decide (b 0 1 < 32)
  else true

/-- A body of its type: long enough, unlisted bytes zero, no reserved value. -/
def zBodyOk (ty : Nat) (body : List Byte) : Bool :=
  let ls := zListed ty body
  ls.all (fun a => decide (a.1 + a.2 ≤ body.length)) &&
  body.zipIdx.all (fun x => x.1 == 0 || ls.any (fun a => decide (a.1 ≤ x.2) && decide (x.2 < a.1 + a.2))) &&
  decide (body.length ≤ 8160) && zValues ty body

/-- A request of manager `m` that is well formed (R439). -/
def zFormed (m : Nat) (z : ZMsg) : Bool :=
  let f := fieldOf z.hdr
  f 0 8 == 1 && f 18 14 == 0 && f 32 32 == z.body.length && f 160 4 == m && f 168 24 == 0 && f 208 48 == 0 &&
  zKnown.contains (zType z) && zBodyOk (zType z) z.body

/-- What a request is answered with. -/
structure ZAns where
  status : Nat
  body : List Byte := []
  deriving DecidableEq, Repr

/-- SEQ values `a` and `b` lie within 64 of each other. -/
def seqNear (a b : Nat) : Bool := decide ((a + 2 ^ 32 - b) % 2 ^ 32 < 64) || decide ((b + 2 ^ 32 - a) % 2 ^ 32 < 64)

/-- The stored response to a duplicate of manager `m` (R438). -/
def HalSt.dup (h : HalSt) (m seq : Nat) : Option ZSend :=
  (h.answered.find? (fun d => d.mgr == m && d.seq == seq)).map (fun d => d.rsp)

/-- The response to a request leaves, and is stored for duplicates (R438). -/
def Tray.answer (t : Tray) (m ty seq : Nat) (a : ZAns) : Tray :=
  if t.wipe then t
  else
    let r : ZSend := { mgr := m, type := ty, body := a.body, rsp := some (a.status, seq) }
    let keep := t.hal.answered.filter (fun d => d.mgr != m || seqNear d.seq seq)
    { t with zq := t.zq ++ [r], hal := { t.hal with answered := keep ++ [⟨m, seq, r⟩] } }

/-- A message passes to its effect `act`: authenticated in its session (R437), not of an endpoint agent (R450), well
formed, not a duplicate; a response ends the wait for it. `ty` is the type whose command this is. -/
def zgate (ty m : Nat) (z : ZMsg) (act : Leases → Tray → ZAns × Leases × Tray) (l : Leases) (t : Tray) : Leases × Tray :=
  let need := fieldOf z.hdr 17 1 == 1
  if ¬ t.hal.up ∨ fieldOf z.hdr 160 4 = 3 then (l, t)
  else if ty ≠ Z.SPDM ∧ ¬ (z.auth ∧ t.sessionUp m) then
    (l, (t.sat mgrPg F.MGR_LINK_AUTH_FAIL 1).logEv .authFail 1 [m])
  else if fieldOf z.hdr 16 1 = 1 then
    (l, { t with hal := { t.hal with
      waits := t.hal.waits.filter (fun w => w.mgr != m || w.seq != fieldOf z.hdr 96 32) } })
  else if ¬ zFormed m z then (l, if need then t.answer m (zType z) (zSeq z) ⟨Zs.BAD_MSG, []⟩ else t)
  else if zType z ≠ ty then (l, t)
  else
    match (if need then t.hal.dup m (zSeq z) else none) with
    | some r => (l, { t with zq := t.zq ++ [r] })
    | none =>
      let r := act l t
      (r.2.1, if need then r.2.2.answer m ty (zSeq z) r.1 else r.2.2)

/-- The effect of a request accepted only from the PRIMARY manager under the current term (R429). -/
def primaryOnly (m : Nat) (z : ZMsg) (act : Leases → Tray → ZAns × Tray) (l : Leases) (t : Tray) : ZAns × Leases × Tray :=
  if l.of m ≠ .primary then (⟨Zs.NOT_PRIMARY, []⟩, l, t)
  else if zTerm z ≠ l.term then (⟨Zs.STALE_TERM, []⟩, l, t)
  else
    let r := act l t
    (r.1, l, r.2)

/-- The effect of a request accepted from any manager. -/
def anyManager (act : Leases → Tray → ZAns × Tray) (l : Leases) (t : Tray) : ZAns × Leases × Tray :=
  let r := act l t
  (r.1, l, r.2)

/-! ### Leases (R427, R428) -/

/-- MODE of a lease as a number. -/
def LeaseMode.code (x : LeaseMode) : Nat := match x with | .none => 0 | .secondary => 1 | .primary => 2

/-- The manager that holds PRIMARY: 0 A, 1 B, 0xF none. -/
def Leases.primary (l : Leases) : Nat := if l.a = .primary then 0 else if l.b = .primary then 1 else 0xF

/-- The body of a lease response: MODE granted, LEASE_MS, PRIMARY. -/
def Leases.body (l : Leases) (m : Nat) : List Byte := leBytes 4 (l.of m).code ++ leBytes 4 2000 ++ leBytes 4 l.primary

/-- The leases after manager `m` is granted SECONDARY or, with PRIMARY asked for under `term`, what R427 grants. -/
def Leases.grant (l : Leases) (m : Nat) (wantPrimary : Bool) (term : Nat) : Leases :=
  let l1 := { l with term := term }
  if ¬ wantPrimary then l1.put m .secondary
  else if l.of (1 - m) ≠ .primary then { l1.put m .primary with primTerm := term }
  else if l.primTerm < term then { (l1.put (1 - m) .secondary).put m .primary with primTerm := term }
  else l1.put m .secondary

/-- A manager that newly holds a lease is told what happened while it held none: FAULTs kept while headless, dump
records not acknowledged (R433, R441). -/
def Tray.leaseReturns (t : Tray) (l : Leases) (m : Nat) : Tray :=
  let t1 := if l.headless then { t with zq := t.zq ++ t.hal.held, hal := { t.hal with held := [] } } else t
  t1.each t1.hal.bridge.rings (fun t a =>
    let k := Assoc.get (fun _ => 0) t1.hal.bridge.acked (2 * a.1 + m)
    t.each (a.2.filter (fun r => decide (k ≤ r.seq))) (fun t r => t.dumpData m a.1 r))

/-- LEASE_CHANGE and the entry, where the leases changed. -/
def Tray.leaseNote (t : Tray) (old new : Leases) (ev : Ev) (m : Nat) : Tray :=
  if old.a = new.a ∧ old.b = new.b then t else (t.raise mgrPg 8).logEv ev 1 [m, (new.of m).code, new.term]

/-- LEASE_REQ. -/
def leaseReqAct (m : Nat) (z : ZMsg) (l : Leases) (t : Tray) : ZAns × Leases × Tray :=
  if zTerm z < l.term then (⟨Zs.STALE_TERM, []⟩, l, t)
  else
    let l1 := l.grant m (zb z.body 0 1 == 2) (zTerm z)
    let t1 := if l.of m = .none then t.leaseReturns l m else t
    (⟨Zs.OK, l1.body m⟩, l1, t1.leaseNote l l1 .leaseGranted m)

/-- LEASE_RENEW: the lease lasts LEASE_MS longer; the lapse is an event of its own. -/
def leaseRenewAct (m : Nat) (l : Leases) (t : Tray) : ZAns × Leases × Tray :=
  if l.of m = .none then (⟨Zs.REFUSED, []⟩, l, t) else (⟨Zs.OK, l.body m⟩, l, t)

/-- The lease of manager `m` ends; the other keeps its mode (R428, R433). -/
def leaseEnd (m : Nat) (l : Leases) (t : Tray) : Leases × Tray :=
  if l.of m = .none then (l, t)
  else
    let l1 := l.put m .none
    let t1 := (t.leaseNote l l1 .leaseLapsed m).dumpPop l1
    (l1, if l1.headless then t1.logEv .headless 1 [] else t1)

/-- LEASE_RELEASE. -/
def leaseReleaseAct (m : Nat) (l : Leases) (t : Tray) : ZAns × Leases × Tray :=
  let r := leaseEnd m l t
  (⟨Zs.OK, []⟩, r.1, r.2)

/-- LEASE_LAPSE: reported in HELLO (R428). -/
def leaseLapse (m : Nat) (l : Leases) (t : Tray) : Leases × Tray :=
  if l.of m = .none then (l, t)
  else
    let r := leaseEnd m l t
    (r.1, r.2.hello r.1)

/-- HELLO: every second while headless, sent by the housekeeper where both images failed (R433, R458). -/
def Tray.helloEvent (t : Tray) (l : Leases) : Tray := if l.headless ∨ t.hal.failed then t.hello l else t

/-! ### Resends (R438) -/

/-- ZMP_RESEND: the message is sent again unchanged, at most three times. -/
def Tray.zmpResend (t : Tray) (m seq : Nat) : Tray :=
  match t.hal.waits.find? (fun w => w.mgr == m && w.seq == seq) with
  | none => t
  | some w =>
    if 3 ≤ w.resends then
      ({ t with hal := { t.hal with waits := t.hal.waits.filter (fun x => x.mgr != m || x.seq != seq) } } : Tray).logEv
        .zmpSilent 1 [m, seq]
    else
      ({ t with hal := { t.hal with waits := t.hal.waits.map (fun x =>
        if x.mgr == m && x.seq == seq then { x with resends := x.resends + 1 } else x) } } : Tray).emit (.zmp m w.hdr w.body)

/-! ### SPDM (R444) -/

/-- Number of a request. -/
def spdmNum : SpdmReq → Nat
  | .getVersion => 0 | .getCapabilities => 1 | .negotiateAlgorithms => 2 | .getDigests => 3 | .getCertificate => 4
  | .challenge => 5 | .getMeasurements => 6 | .keyExchange => 7 | .finish => 8 | .heartbeat => 9 | .keyUpdate => 10
  | .endSession => 11 | .other => 12

/-- KEY_EXCHANGE of manager `m` has succeeded. -/
def HalSt.kex (h : HalSt) (m : Nat) : Bool := if m = 0 then h.kexA else h.kexB
def HalSt.setKex (h : HalSt) (m : Nat) (b : Bool) : HalSt := if m = 0 then { h with kexA := b } else { h with kexB := b }

/-- The link and session of manager `m` are up or not; a new session starts its SEQs and answered requests anew
(R439). -/
def Tray.setSession (t : Tray) (m : Nat) (b : Bool) : Tray :=
  let h := t.hal
  let h1 := if m = 0 then { h with zseqA := 0 } else { h with zseqB := 0 }
  let h2 := if b then { h1 with answered := h.answered.filter (fun d => d.mgr != m),
                                waits := h.waits.filter (fun w => w.mgr != m) } else h
  ({ t with hal := h2 } : Tray).sb mgrPg (if m = 0 then F.MGR_LINK_A_UP else F.MGR_LINK_B_UP) b

/-- What a request does to the session: mutual authentication at KEY_EXCHANGE, the session from FINISH to END_SESSION. -/
def Tray.spdmSession (t : Tray) (m : Nat) (req : SpdmReq) (peerOk : Bool) : Tray :=
  match req with
  | .keyExchange => { t with hal := t.hal.setKex m peerOk }
  | .finish => if t.hal.kex m ∧ peerOk then ({ t with hal := t.hal.setKex m false } : Tray).setSession m true else t
  | .endSession => t.setSession m false
  | _ => t

/-- SPDM: the responder's answer leaves as an SPDM message. -/
def spdmAct (m : Nat) (z : ZMsg) (req : SpdmReq) (peerOk : Bool) (l : Leases) (t : Tray) : ZAns × Leases × Tray :=
  let rsp := Config.spdmReply (spdmNum req) z.body
  (⟨Zs.OK, []⟩, l, (t.spdmSession m req peerOk).zsend m Z.SPDM rsp false)

end Sys2Proof.Machine
end

