-- ==== Sys2Proof/Machine/Managers.lean ====
section
/-! DEFINITION. Identity, plane map, log and register access, configuration digest, dump acknowledgement (R429–R432,
R440–R442, R445–R448). -/
namespace Sys2Proof.Machine

/-- Chips whose core reset is released. -/
def Tray.chipsUp (t : Tray) : List Nat := (List.range 5).filter (fun c => (t.chip c).coreUp)

/-! ### Identity (R430) -/

/-- The rack identity in force: as given since the Halvoren's reset, or as a released chip holds it. -/
def Tray.rackNow (t : Tray) : Option Nat :=
  match t.hal.rack with
  | some r => some r
  | none =>
    ((t.chipsUp.find? (fun c => t.is (chip0 c) F.CHIP_TOPO_TOPO_VALID))).map (fun c => t.gf (chip0 c) F.CHIP_TOPO_RACK_ID)

/-- Placement: RACK_ID and TOPO_VALID on the chips released, the cabled ports of each enabled (R26, R410). -/
def Tray.rackPlace (t : Tray) (rack : Nat) (cabled : List Nat) : Tray :=
  t.each t.chipsUp (fun t c =>
    let c0 := chip0 c
    let t1 := if t.is c0 F.CHIP_TOPO_TOPO_VALID then t
      else (t.sf c0 F.CHIP_TOPO_RACK_ID rack).sb c0 F.CHIP_TOPO_TOPO_VALID true
    t1.each (List.range 64) (fun t e =>
      if bitOf ((cabled[c]?).getD 0) e ∧ ¬ t.enabled (portPg c e) then
        (t.sb (portPg c e) F.PG_CTL_ENABLE true).portEnable c e true
      else t))

/-- IDENTITY. -/
def identityAct (z : ZMsg) (_ : Leases) (t : Tray) : ZAns × Tray :=
  let rack := zb z.body 0 4
  let cabled := (List.range 5).map (fun s => zb z.body (8 + 8 * s) 8)
  let other : Bool := match t.rackNow with | some r => r != rack | none => false
  if other then (⟨Zs.REFUSED, []⟩, t.logEv .identity 1 [rack])
  else
    let t1 : Tray := { t with hal := { t.hal with rack := some rack, cabled := cabled } }
    (⟨Zs.OK, []⟩, ((t1.rackPlace rack cabled).labelChanged).phaseUpdate)

/-! ### Plane map (R431, R448) -/

/-- The entry of slot `k`: ROLE, PLANE. -/
def mapRole (body : List Byte) (k : Nat) : Nat := zb body (8 + 2 * k) 2 % 4
def mapPlane (body : List Byte) (k : Nat) : Nat := zb body (8 + 2 * k) 2 / 16 % 16

/-- R431: the whole map is refused. -/
def mapBad (body : List Byte) : Bool :=
  let ks := List.range 9
  decide (1 < (ks.filter (fun k => mapRole body k == 2)).length) ||
  ks.any (fun k => if mapRole body k = 1 then decide (7 < mapPlane body k) else mapPlane body k != 15) ||
  ks.any (fun k => ks.any (fun j => decide (j < k) && mapRole body k == 1 && mapRole body j == 1 &&
    mapPlane body k == mapPlane body j))

/-- The role the tray has: as the managers gave it, or as a released chip holds it. -/
def Tray.roleNow (t : Tray) : Nat :=
  match t.hal.role with
  | some r => r
  | none => match t.chipsUp with | c :: _ => t.role c | [] => 0

/-- The role goes to every released chip. -/
def Tray.writeRole (t : Tray) (r : Nat) : Tray :=
  ({ t with hal := { t.hal with role := some r } } : Tray).each t.chipsUp (fun t c => t.sf (chip0 c) F.CHIP_TOPO_ROLE r)

/-- Ports of released or absent chips that are cabled and not UP, by (chip, port). -/
def Tray.portsNotUp (t : Tray) : List (Nat × Nat) :=
  (List.range 5).flatMap (fun c => ((List.range 64).filter (fun e =>
    bitOf ((t.hal.cabled[c]?).getD 0) e && t.pst c e != S.UP)).map (fun e => (c, e)))

/-- The tray goes from role `a` to role `b` under the transition rules of R431. -/
def Tray.roleChange (t : Tray) (a b : Nat) : Tray :=
  let t1 := t.writeRole b
  let stop := { t1 with hal := { t1.hal with waitPorts := false } }
  if b = 1 then
    if a = 1 then t1
    else if a = 2 then t1.chipsGo
    else ({ t1 with hal := { t1.hal with waitPorts := true } } : Tray).roleGo
  else if b = 2 then stop
  else if a = b then stop
  else stop.each stop.chipsUp (fun t c => (t.sb (chip0 c) F.PG_CTL_ENABLE false).quiesceChip c)

/-- A map that passed its checks: the tray's own entry, MGR_MAP, label, MAP_APPLIED. -/
def Tray.mapApply (t : Tray) (body : List Byte) : Tray :=
  let k := t.gf hkPg F.HK_SLOT_SLOT
  let t1 := if k < 9 then (t.roleChange t.roleNow (mapRole body k)).sf mgrPg F.MGR_MAP_PLANE (mapPlane body k) else t
  let t2 := ((t1.sf mgrPg F.MGR_MAP_MAP_GEN (zb body 0 4)).raise mgrPg 9).logEv .mapTaken 1 [zb body 0 4]
  (t2.labelChanged).phaseUpdate

/-- The tray cannot take its own entry. -/
def Tray.entryRefused (t : Tray) (body : List Byte) : Bool :=
  let k := t.gf hkPg F.HK_SLOT_SLOT
  let b := mapRole body k
  decide (k < 9) && ((t.service == 2 && (b == 1 || b == 2)) || (t.roleNow == 1 && b == 2))

/-- The tray's own entry makes it ACTIVE from SPARE while it is not ready (R448). -/
def Tray.spareForced (t : Tray) (body : List Byte) : Bool :=
  let k := t.gf hkPg F.HK_SLOT_SLOT
  decide (k < 9) && t.roleNow == 2 && mapRole body k == 1 && !t.spareReady

/-- PLANE_MAP: accepted from either manager with a lease under the current term; MAP_GEN must be greater (R429). -/
def planeMapAct (m : Nat) (z : ZMsg) (l : Leases) (t : Tray) : ZAns × Leases × Tray :=
  let gen := zb z.body 0 4
  let cur := t.gf mgrPg F.MGR_MAP_MAP_GEN
  if l.of m = .none then (⟨Zs.NOT_PRIMARY, []⟩, l, t)
  else if zTerm z ≠ l.term ∨ gen < cur then (⟨Zs.STALE_TERM, []⟩, l, t)
  else if gen = cur then (⟨Zs.CONFLICT, []⟩, l, t)
  else if mapBad z.body ∨ t.entryRefused z.body then (⟨Zs.REFUSED, []⟩, l, t.logEv .mapRejected 1 [gen])
  else if t.spareForced z.body then
    let t1 := t.each t.portsNotUp (fun t a => t.logChip .swapEnd a.1 [a.2, t.pst a.1 a.2])
    (⟨Zs.FAILED, leBytes 4 gen⟩, l, t1.mapApply z.body)
  else (⟨Zs.OK, leBytes 4 gen⟩, l, t.mapApply z.body)

/-! ### Log and register access (R440, R442) -/

/-- LOG_READ: entries from FROM_SEQ on, at most COUNT. -/
def Tray.logFrom (t : Tray) (first n : Nat) : List (BitVec 512) :=
  (t.fram.log.filter (fun w => decide (first ≤ entrySeq w))).take n

def logReadAct (z : ZMsg) (_ : Leases) (t : Tray) : ZAns × Tray :=
  (⟨Zs.OK, (t.logFrom (zb z.body 0 4) (zb z.body 4 1)).flatMap (fun w => leBytes 64 w.toNat)⟩, t)

/-- The space of a TARGET. -/
def zSpace (target : Nat) : Nat := if target = 7 then halvoren else target

/-- A read at an offset of a space's BAR; `none` where no read completes. -/
def Tray.barRead (t : Tray) (l : Leases) (sp off : Nat) : Option Word × Tray :=
  if off < 2 ^ 24 then t.read8 l 1 sp (off / 4096) (off % 4096) else (none, t)

/-- `n` reads at consecutive offsets: the values, and whether every read completed. -/
def Tray.barReads (t : Tray) (l : Leases) (sp : Nat) : Nat → Nat → List Nat × Bool × Tray
  | 0, _ => ([], true, t)
  | n + 1, off =>
    let r := t.barRead l sp off
    let q := r.2.barReads l sp n (off + 8)
    (((r.1.getD 0).toNat) :: q.1, r.1.isSome && q.2.1, q.2.2)

/-- REG_READ. -/
def regReadAct (z : ZMsg) (l : Leases) (t : Tray) : ZAns × Tray :=
  let r := t.barReads l (zSpace (zb z.body 0 1)) (zb z.body 1 1) (zb z.body 8 8)
  (⟨if r.2.1 then Zs.OK else Zs.FAILED, r.1.flatMap (fun v => leBytes 8 v)⟩, r.2.2)

/-- A write at an offset of a space's BAR: whether it met no error, and the tray. -/
def Tray.barWrite (t : Tray) (sp off : Nat) (v : Word) : Bool × Tray :=
  let pg := sp * 4096 + off / 4096
  let o := off % 4096
  if 2 ^ 24 ≤ off then (false, t)
  else
    let w := fun (t : Tray) => t.write8 1 sp (off / 4096) o v
    let probe := w (t.wr pg A.PG_ERR_CAPT 0)
    let bad := !t.reaches sp || (pageKind pg).isNone || o % 8 != 0 || !t.domainUp pg o ||
      (o != A.PG_ERR_CAPT && probe.is pg F.PG_ERR_CAPT_VALID)
    (!bad, w t)

/-- The pairs of a REG_WRITE to one target, in order until the first error: the pages written, whether all went well. -/
def Tray.barWrites (t : Tray) (sp : Nat) : List (Nat × Word) → List Nat → List Nat × Bool × Tray
  | [], pgs => (pgs, true, t)
  | (off, v) :: rest, pgs =>
    let r := t.barWrite sp off v
    let pg := sp * 4096 + off / 4096
    let pgs1 := if pgs.contains pg then pgs else pgs ++ [pg]
    if r.1 then r.2.barWrites sp rest pgs1 else (pgs1, false, r.2)

/-- The pairs (offset, value) of a REG_WRITE. -/
def zPairs (body : List Byte) : List (Nat × Word) :=
  (List.range (zb body 1 1)).map (fun i => (zb body (8 + 16 * i) 8, BitVec.ofNat 64 (zb body (16 + 16 * i) 8)))

/-- The targets of a REG_WRITE: chips, then the Halvoren. -/
def zTargets (mask : Nat) : List Nat := bitsOf 5 mask ++ (if bitOf mask 7 then [halvoren] else [])

/-- REG_WRITE: PG_ERR_CAPT of each page written, per target. -/
def regWriteAct (z : ZMsg) (_ : Leases) (t : Tray) : ZAns × Tray :=
  let r := (zTargets (zb z.body 0 1)).foldl (fun (a : List Nat × Bool × Tray) sp =>
    let q := a.2.2.barWrites sp (zPairs z.body) []
    (a.1 ++ q.1.map (fun pg => (q.2.2.rd pg A.PG_ERR_CAPT).toNat), a.2.1 && q.2.1, q.2.2)) (([], true, t) : List Nat × Bool × Tray)
  (⟨if r.2.1 then Zs.OK else Zs.FAILED, r.1.flatMap (fun v => leBytes 8 v)⟩, r.2.2)

/-! ### Configuration digest (R446) -/

/-- The bits of a register that are configuration. -/
def cfgMask (pg : Nat) (r : RegDesc) : Word :=
  let m := r.fields.foldl (fun (a : Word) f =>
    if f.acc = .rw ∨ f.acc = .rws then a ||| (maskW f.fld.w <<< f.fld.lo) else a) 0
  let out := fun (f : Fld) => ~~~(maskW f.w <<< f.lo)
  if pageKind pg = some .chip0 ∧ r.off = A.PG_CTL then m &&& out F.PG_CTL_ENABLE
  else if pageKind pg = some .chip0 ∧ r.off = A.CHIP_TOPO then m &&& out F.CHIP_TOPO_ROLE
  else m

/-- The plane-uniform configuration of chip `c`, as (page, place, value): registers but of jobs and inboxes, multicast
groups, circuits, translation entries, descriptors of driver software. -/
def Tray.cfgOf (t : Tray) (c : Nat) : List (Nat × Nat × Nat) :=
  let regs := (t.regs.filter (fun a => a.1 / 4096 / 4096 == c)).filterMap (fun a =>
    let pg := a.1 / 4096
    let off := a.1 % 4096
    if pageKind pg = some .dlrJob ∨ pageKind pg = some .dlrIn then none
    else (findReg pg off).map (fun r => (pg % 4096, off, (a.2 &&& cfgMask pg r).toNat)))
  regs
  ++ (t.chip c).mcgs.map (fun a => (0x061, a.1, b2n a.2.valid + 2 * b2n a.2.selfIn + 4 * a.2.seat + 256 * a.2.members))
  ++ (t.circList c).map (fun a => (0x3C0, a.1, a.2.inPort + 2 ^ 8 * a.2.outPort + 2 ^ 16 * a.2.seat + 2 ^ 24 * a.2.ch
      + 2 ^ 32 * a.2.slots + 2 ^ 48 * a.2.slice + 2 ^ 56 * a.2.cmp))
  ++ (t.dealer c).xlt.map (fun a => (0x3E0, a.1, a.2.toNat))
  ++ ((t.dealer c).descs.filter (fun a => a.2.live && a.2.creator.isNone)).map (fun a => (0x310, a.1, a.2.words.toNat))

/-- CFG_DIGEST. -/
def cfgDigestAct (_ : Leases) (t : Tray) : ZAns × Tray :=
  (⟨Zs.OK, (List.range 5).flatMap (fun c => leBytes 48 (Config.cfgDigest (t.cfgOf c)).toNat)⟩, t)

/-! ### Dump acknowledgement (R441) -/

/-- DUMP_ACK: every record of the source up to SEQ has been received whole. -/
def dumpAckAct (m : Nat) (z : ZMsg) (l : Leases) (t : Tray) : ZAns × Tray :=
  let k := 2 * zb z.body 0 1 + m
  let b := t.hal.bridge
  let n := max (Assoc.get (fun _ => 0) b.acked k) (zb z.body 8 8 + 1)
  (⟨Zs.OK, []⟩, ({ t with hal := { t.hal with bridge := { b with acked := Assoc.set (fun _ => 0) b.acked k n } } } : Tray).dumpPop l)

/-! ### The message commands -/

/-- The effect on the whole state of a message accepted from the PRIMARY manager only. -/
def fromPrimary (ty m : Nat) (z : ZMsg) (act : Leases → Tray → ZAns × Tray) (l : Leases) (t : Tray) : Leases × Tray :=
  zgate ty m z (primaryOnly m z act) l t

/-- The effect on the whole state of a message accepted from any manager. -/
def fromAny (ty m : Nat) (z : ZMsg) (act : Leases → Tray → ZAns × Tray) (l : Leases) (t : Tray) : Leases × Tray :=
  zgate ty m z (anyManager act) l t

end Sys2Proof.Machine
end

