-- ==== Sys2Proof/Machine/Ptp.lean ====
section
/-! DEFINITION. Time from IEEE 1588 (R434–R436). -/
namespace Sys2Proof.Machine

/-- MGR_TIME.STATE. -/
def Ts.NONE : Nat := 0
def Ts.LOCKED : Nat := 1
def Ts.HOLDOVER : Nat := 2

/-- STATE is `st`: TIME_STATE, the entry, TIME_STATUS to both managers (R435, R440). -/
def Tray.timeNote (t : Tray) (st : Nat) (ev : Ev) : Tray :=
  let t1 := ((t.sf mgrPg F.MGR_TIME_STATE st).raise mgrPg 10).logEv ev 1 [st, sat32 t.hal.offset]
  t1.zboth Z.TIME_STATUS (leBytes 4 st ++ leBytes 4 (sat32 t.hal.offset) ++ leBytes 8 t.master) false

/-- TIME_FAULT begins or ends. -/
def Tray.timeFaultSet (t : Tray) (b : Bool) : Tray :=
  if t.is mgrPg F.MGR_TIME_TIME_FAULT = b then t
  else
    let t1 := t.sb mgrPg F.MGR_TIME_TIME_FAULT b
    if b then t1.timeNote (t1.gf mgrPg F.MGR_TIME_STATE) .timeFault else t1

/-- The master may no longer step: a core reset has been released (R435, R436). -/
def Tray.stepOver (t : Tray) : Bool := t.hal.noStep || !t.chipsUp.isEmpty

/-- PTP_SYNC on port `m` with the grandmaster's time: the first one steps the master where it may, every other leaves an
offset that is slewed off. -/
def Tray.ptpSync (t : Tray) (m gm : Nat) : Tray :=
  if ¬ t.hal.up then t
  else
    let was := t.gf mgrPg F.MGR_TIME_STATE
    let step := was == Ts.NONE && !t.stepOver
    let off : Int := if step then 0 else (gm : Int) - (t.master : Int)
    let t1 := ({ t with master := if step then gm else t.master,
                        hal := { t.hal with offset := off, noStep := true } } : Tray).sf mgrPg F.MGR_TIME_PORT m
    let t2 := if was = Ts.LOCKED then t1 else t1.timeNote Ts.LOCKED .timeState
    if was ≠ Ts.LOCKED ∧ 10 ^ 10 < off.natAbs then t2.timeFaultSet true
    else if off.natAbs < 1000 then t2.timeFaultSet false
    else t2

/-- PTP_HOLDOVER. -/
def Tray.ptpHoldover (t : Tray) : Tray :=
  if t.hal.up ∧ t.gf mgrPg F.MGR_TIME_STATE = Ts.LOCKED then t.timeNote Ts.HOLDOVER .timeState else t

/-- TIME_LOCK_TIMEOUT: 30 s after the rack identity without lock, release no longer waits. -/
def Tray.timeLockTimeout (t : Tray) : Tray :=
  if t.hal.up ∧ t.hal.rack.isSome ∧ t.gf mgrPg F.MGR_TIME_STATE ≠ Ts.LOCKED ∧ ¬ t.hal.timeWaited then
    (({ t with hal := { t.hal with timeWaited := true } } : Tray).timeFaultSet true).phaseUpdate
  else t

end Sys2Proof.Machine
end

