-- ==== Sys2Proof/Machine/WireTest.lean ====
section
/-! DEFINITION. Wiring tests, lane windows, wear reports (R441, R452, R453). -/
namespace Sys2Proof.Machine

/-! ### Wiring tests (R452) -/

/-- RESULT of a port. -/
def Wr.PASS : Nat := 0
def Wr.FAIL_RX : Nat := 1
def Wr.FAIL_LOOP : Nat := 2
def Wr.NO_LOOP : Nat := 3
def Wr.NOT_UP : Nat := 4

/-- The port numbered chip × 64 + port is UP. -/
def Tray.upAt (t : Tray) (k : Nat) : Bool := t.pst (k / 64) (k % 64) == S.UP

/-- The partner of a port declares far-end loopback (CAPS bit 0). -/
def Tray.canLoop (t : Tray) (k : Nat) : Bool :=
  match (t.port (k / 64) (k % 64)).ident with | some x => bitOf x.caps 0 | none => false

/-- LOOP starts on the ports: each partner is asked, and the port leaves traffic to send PRBS31Q. -/
def Tray.loopStart (t : Tray) (ks : List Nat) : Tray :=
  t.each ks (fun t k =>
    let c := k / 64
    let e := k % 64
    ((t.emit (.maint c e (noteFrame M.LOOP_REQ 1))).modPort c e (fun p => { p with loopAck := none })).portTo c e S.DIAG Cz.ABORT)

/-- LOOP ends on the ports: the partner leaves loopback, the port trains again. -/
def Tray.loopEnd (t : Tray) (ks : List Nat) : Tray :=
  t.each ks (fun t k =>
    let c := k / 64
    let e := k % 64
    let t1 := t.emit (.maint c e (noteFrame M.LOOP_REQ 0))
    if t.pst c e = S.DIAG ∧ ¬ t.is (portPg c e) F.PORT_TRAIN_CTL_DIAG then t1.portTo c e S.DOWN Cz.ABORT else t1)

/-- A test starts on the ports of the bitmaps (chips 0 to 4): ports not UP have their result at once; IDLE records afresh;
without IDLE, LOOP starts on every port whose partner can. -/
def Tray.wireStart (t : Tray) (maps : List Nat) (duration phases fomMin : Nat) : Tray :=
  let ks := (List.range 5).flatMap (fun c => (bitsOf 64 ((maps[c]?).getD 0)).map (fun e => 64 * c + e))
  let up := ks.filter (fun k => t.upAt k)
  let idle := bitOf phases 0
  let t1 := if idle then t.each up (fun t k => t.each (lanesOf (k % 64)) (fun t n =>
      t.modLane (k / 64) n (fun l => { l with tMin := 255, tUnc := 0 }))) else t
  let down := (ks.filter (fun k => !t.upAt k)).map (fun k => (k, Wr.NOT_UP))
  let no := if idle then [] else (up.filter (fun k => !t.canLoop k)).map (fun k => (k, Wr.NO_LOOP))
  let w : WireTest := { ports := ks, duration := duration, phases := phases, fomMin := if fomMin = 0 then 96 else fomMin,
                        loop := !idle, before := ks.map (fun k => (k, (t.port (k / 64) (k % 64)).ident)), results := down ++ no }
  let t2 : Tray := { t1 with hal := { t1.hal with wire := some w } }
  if idle then t2 else t2.loopStart (up.filter (fun k => t.canLoop k))

/-- WIRE_TEST. -/
def wireTestAct (z : ZMsg) (_ : Leases) (t : Tray) : ZAns × Tray :=
  if t.roleNow = 1 then (⟨Zs.REFUSED, []⟩, t)
  else if t.hal.wire.isSome then (⟨Zs.BUSY, []⟩, t)
  else (⟨Zs.OK, []⟩, t.wireStart ((List.range 5).map (fun s => zb z.body (8 * s) 8)) (zb z.body 40 4) (zb z.body 44 1)
    (zb z.body 45 1))

/-- Ports of a test without a result. -/
def WireTest.open (w : WireTest) : List Nat := w.ports.filter (fun k => !w.results.any (fun a => a.1 == k))

/-- A port passes IDLE: still UP, every lane at FOM_MIN or more without an uncorrectable codeword. -/
def Tray.idlePass (t : Tray) (w : WireTest) (k : Nat) : Bool :=
  (lanesOf (k % 64)).all (fun n => decide (w.fomMin ≤ (t.lane (k / 64) n).tMin) && (t.lane (k / 64) n).tUnc == 0)

/-- The result of LOOP on a port: ERR_BITS at most 2 × 10^-6 of the bits checked on each lane. -/
def Tray.loopResult (t : Tray) (w : WireTest) (loops : List (Nat × LoopRead)) (k : Nat) : Nat :=
  let ok := (lanesOf (k % 64)).all (fun n =>
    loops.any (fun a => a.1 == k / 64 * 256 + n && decide (500000 * a.2.errBits ≤ a.2.bits)))
  if (t.port (k / 64) (k % 64)).loopAck = some false then Wr.NO_LOOP
  else if ¬ ok then Wr.FAIL_LOOP
  else if w.idleFail.contains k then Wr.FAIL_RX
  else Wr.PASS

/-- One port of WIRE_RESULT (R440). -/
def Tray.wireBytes (t : Tray) (a : Nat × Nat) : List Byte :=
  let ls := (lanesOf (a.1 % 64)).map (fun n => t.lane (a.1 / 64) n)
  let low := ls.foldl (fun x l => min x l.tMin) 255
  leBytes 8 (a.1 % 64 + 2 ^ 6 * (a.1 / 64) + 2 ^ 9 * a.2 + 2 ^ 12 * low + 2 ^ 32 * satTo (2 ^ 32 - 1) (sumL (ls.map (fun l => l.tUnc))))

/-- The test ends: WIRE_RESULT to both managers; an IDENT other than before the test is a wiring fault (R43). -/
def Tray.wireFinish (t : Tray) (w : WireTest) : Tray :=
  let t1 : Tray := { t with hal := { t.hal with wire := none } }
  let t2 := t1.each w.before (fun t a =>
    match a.2, (t.port (a.1 / 64) (a.1 % 64)).ident with
    | some x, some y => if x.same y then t else t.wiringFault (a.1 / 64) (a.1 % 64) Cz.WIRING
    | _, _ => t)
  t2.zboth Z.WIRE_RESULT (w.results.flatMap (fun a => t.wireBytes a)) true

/-- WIRE_TEST_PHASE_END: IDLE is judged, LOOP follows where it may; or LOOP is judged. -/
def Tray.wirePhaseEnd (t : Tray) (loops : List (Nat × LoopRead)) : Tray :=
  match t.hal.wire with
  | none => t
  | some w =>
    if ¬ t.hal.up then t
    else if w.loop then
      let rs := w.open.map (fun k => (k, t.loopResult w loops k))
      (t.loopEnd w.open).wireFinish { w with results := w.results ++ rs }
    else
      let pass := (w.open.filter (fun k => t.upAt k && t.idlePass w k)).map (fun k => (k, Wr.PASS))
      let down := (w.open.filter (fun k => !t.upAt k)).map (fun k => (k, Wr.NOT_UP))
      let fail := w.open.filter (fun k => t.upAt k && !t.idlePass w k)
      let more := if bitOf w.phases 1 then fail.filter (fun k => t.canLoop k) else []
      let ends := fail.filter (fun k => !more.contains k)
      let rest := ends.map (fun k => (k, if bitOf w.phases 1 then Wr.NO_LOOP else Wr.FAIL_RX))
      let w1 := { w with idleFail := fail, results := w.results ++ pass ++ down ++ rest }
      if more.isEmpty then t.wireFinish w1
      else ({ t with hal := { t.hal with wire := some { w1 with loop := true } } } : Tray).loopStart more

/-! ### The 60 s windows (R453) -/

/-- The lane fails the window that ends now. -/
def LaneSt.windowFails (l : LaneSt) (role : Nat) : Bool :=
  if role = 2 then decide (l.wMin < 96) || decide (0 < l.wUnc)
  else if role = 1 then decide (6000 < l.wLow) || decide (10 < l.wUnc)
  else false

/-- A lane of LANE_STATS (R440). -/
def LaneSt.statBytes (l : LaneSt) : List Byte :=
  let avg := if l.wCnt = 0 then 0 else l.wSum / l.wCnt
  leBytes 8 (l.wMin + 2 ^ 8 * avg + 2 ^ 16 * satTo 65535 l.wUnc + 2 ^ 32 * satTo 65535 (l.wCorr / 65536) + 2 ^ 48 * b2n l.fail)

/-- The window of a lane ends: judged, a failure logged. -/
def Tray.laneJudge (t : Tray) (c n : Nat) : Tray :=
  let l := t.lane c n
  let bad := l.windowFails t.roleNow
  let t1 := t.setLane c n { l with fail := bad }
  if bad then t1.logChip .laneFail c [n / 4, n, l.wMin, l.wUnc] else t1

/-- The next window of a lane begins. -/
def LaneSt.fresh (l : LaneSt) : LaneSt := { l with wMin := 255, wSum := 0, wCnt := 0, wLow := 0, wUnc := 0, wCorr := 0 }

/-- LANE_STATS: every lane of every released chip. -/
def Tray.laneStats (t : Tray) : Tray :=
  if ¬ t.hal.up then t
  else t.each t.chipsUp (fun t c =>
    let t1 := t.each (List.range 256) (fun t n => t.laneJudge c n)
    let body := leBytes 8 c ++ (List.range 256).flatMap (fun n => (t1.lane c n).statBytes)
    (t1.each (List.range 256) (fun t n => t.modLane c n LaneSt.fresh)).zboth Z.LANE_STATS body false)

/-! ### WEAR (R441) -/

/-- WEAR: every bay with an SC-L cartridge. -/
def Tray.wearReport (t : Tray) : Tray :=
  let bays := (List.range 40).filter (fun b => t.gf (bayPg b) F.PORT_CART_TYPE == 3)
  let one := fun (b : Nat) =>
    let y := t.bay b
    let days := match y.forecast with | some d => satTo 0xFFFE d | none => 0xFFFF
    leBytes 8 (b + 2 ^ 8 * days + 2 ^ 24 * t.gf (bayPg b) F.PORT_CART_SPARES_LEFT + 2 ^ 32 * satTo 65535 y.worst)
  if ¬ t.hal.up then t else t.zboth Z.WEAR (bays.flatMap one) false

end Sys2Proof.Machine
end

