-- ==== Sys2Proof/Machine/Firmware.lean ====
section
/-! DEFINITION. Bundles, boot, trial and activation, the compatibility decision (R457–R461). -/
namespace Sys2Proof.Machine

/-! ### Staging (R440, R457) -/

/-- FW_BEGIN: a bundle of a length and a digest is staged afresh. -/
def fwBeginAct (z : ZMsg) (_ : Leases) (t : Tray) : ZAns × Tray :=
  (⟨Zs.OK, []⟩, { t with hal := { t.hal with staging := some { len := zb z.body 0 8, hash := (z.body.drop 8).take 48 } } })

/-- FW_DATA: a piece at an offset within the bundle. -/
def fwDataAct (z : ZMsg) (_ : Leases) (t : Tray) : ZAns × Tray :=
  let off := zb z.body 0 8
  let data := z.body.drop 8
  match t.hal.staging with
  | none => (⟨Zs.REFUSED, []⟩, t)
  | some st =>
    if st.len < off + data.length then (⟨Zs.REFUSED, []⟩, t)
    else (⟨Zs.OK, []⟩, { t with hal := { t.hal with
      staging := some { st with pieces := (off, data) :: st.pieces, verified := none } } })

/-- Byte `i` of the staged bundle, from the latest piece that covers it. -/
def Staging.byte (st : Staging) (i : Nat) : Option Byte :=
  (st.pieces.find? (fun p => decide (p.1 ≤ i) && decide (i < p.1 + p.2.length))).bind (fun p => p.2[i - p.1]?)

/-- Every byte has arrived and the digest is the one announced. -/
def Staging.whole (st : Staging) : Bool :=
  let bs := (List.range st.len).filterMap st.byte
  decide (bs.length = st.len) && decide (sha384 bs = st.hash)

/-- No component's security version is below the one fused (R457). -/
def svnOk (b : BundleInfo) (fused : List Nat) : Bool :=
  (List.range 4).all (fun k => decide ((fused[k]?).getD 0 ≤ ((b.vers[k]?).map (fun v => v.svn)).getD 0))

/-- FW_END: the staged bundle is verified; `b` is what its signed contents say. -/
def fwEndAct (b : BundleInfo) (_ : Leases) (t : Tray) : ZAns × Tray :=
  let ok : Bool := match t.hal.staging with
    | some st => st.whole && b.sigOk && svnOk b t.fram.svn
    | none => false
  if ok then
    (⟨Zs.OK, []⟩, { t with fram := { t.fram with other := some b }, hal := { t.hal with
      staging := t.hal.staging.map (fun st => { st with verified := some b }) } })
  else (⟨Zs.FAILED, []⟩, t.logEv .fwVerify 1 [b.year, b.nn])

/-! ### Versions shown (R463) -/

/-- FW_VER[k]. -/
def verWord (v : FwVersion) : Word :=
  BitVec.ofNat 64 (v.major % 65536 + 2 ^ 16 * (v.minor % 65536) + 2 ^ 32 * (v.patch % 65536) + 2 ^ 48 * (v.svn % 65536))
def Tray.showVer (t : Tray) (b : BundleInfo) (k : Nat) : Tray :=
  t.wr fwPg (A.FW_VER + 8 * k) (((b.vers[k]?).map verWord).getD 0)

/-- FW_STATUS to both managers. -/
def Tray.fwStatus (t : Tray) : Tray :=
  t.zboth Z.FW_STATUS (leBytes 8 (t.rd fwPg A.FW_STS).toNat ++ leBytes 8 (t.rd fwPg A.FW_COMPAT).toNat) false

/-! ### Activation (R457, R461) -/

/-- CFW of a bay: the CDB commands run, its ports go down with cause CART and train again; the version it then shows is
not in the bundle's operands (log 63). -/
def Tray.cfwWrite (t : Tray) (b : Nat) : Tray :=
  let ty := t.gf (bayPg b) F.PORT_CART_TYPE
  if ty ≠ 2 ∧ ty ≠ 3 then t
  else
    let c := b / 8
    let t1 := (t.emit (.cdb b)).each (bayPorts b) (fun t e =>
      if t.pst c e = S.DISABLED ∨ t.pst c e = S.DIAG then t else t.portTo c e S.DOWN Cz.CART)
    let r := t1.free 16
    (r.2.sf (bayPg b) F.PORT_CART_MSTATE 2).sf (bayPg b) F.PORT_CART_FW r.1

/-- A CHIP reset of every chip that is powered. -/
def Tray.resetChips (t : Tray) : Tray :=
  t.each (List.range 5) (fun t c => if t.chipOn c then t.chipReset c else t)

/-- The named components of the staged bundle are switched: cartridges, microcode with a CHIP reset, HKF with an HK reset,
the image of HVF, which the next HALVOREN reset boots in trial. -/
def Tray.activate (t : Tray) (comps : Nat) : ZAns × Tray :=
  match t.fram.other with
  | none => (⟨Zs.REFUSED, []⟩, t)
  | some b =>
    if 4 ≤ comps ∧ t.roleNow = 1 then (⟨Zs.REFUSED, []⟩, t)
    else
      let t1 := t.logEv .fwActivate 1 [comps]
      let t2 := if bitOf comps 4 then t1.each (List.range 40) (fun t b => t.cfwWrite b) else t1
      let t3 := if bitOf comps 2 then t2.showVer b 2 else t2
      let t4 := if bitOf comps 3 then t3.showVer b 3 else t3
      let t5 := if bitOf comps 2 ∨ bitOf comps 3 then t4.resetChips else t4
      let raw := BitVec.ofNat 5 (t5.gf hkPg F.HK_SLOT_RAW)
      let t6 := if bitOf comps 1 then (t5.showVer b 1).hkReset raw raw raw else t5
      let t7 : Tray := if bitOf comps 0 then
          { t6 with fram := { t6.fram with image := 1 - t6.gf fwPg F.FW_STS_IMAGE, trial := true, fallback := false } }
        else t6
      (⟨Zs.OK, []⟩, t7)

/-- FW_ACTIVATE. -/
def fwActivateAct (z : ZMsg) (_ : Leases) (t : Tray) : ZAns × Tray := t.activate (zb z.body 0 1)

/-! ### Boot (R436, R458, R459) -/

/-- A trial that was not confirmed returns to the previous image. -/
def Tray.bootFallback (t : Tray) : Tray :=
  if ¬ t.fram.fallback then t
  else ({ t with fram := { t.fram with image := 1 - t.fram.image, trial := false, fallback := false } } : Tray).logEv
    .fwFallback 1 []

/-- Fabric time at a boot. -/
def Tray.bootTime (t : Tray) : Tray :=
  match t.chipsUp with
  | c :: _ => { t with master := (t.rd (chip0 c) A.CHIP_TIME).toNat, hal := { t.hal with noStep := true } }
  | [] => { t with master := 0 }

/-- The compatibility decision: the most severe outcome found. -/
def compatService (d : CompatInfo) : Nat :=
  max (if d.chipBad = 0 then 0 else 2) (max (b2n d.dmcUnlisted) d.cls.val)

/-- The decision is shown and takes effect. -/
def Tray.compatDecide (t : Tray) (d : CompatInfo) : Tray :=
  let v := compatService d
  let t1 := ((t.sf fwPg F.FW_STS_SERVICE v).sf fwPg F.FW_COMPAT_REASON d.reason.toNat).sf fwPg F.FW_COMPAT_CHIP_BAD
    d.chipBad.toNat
  let t2 := if v = 0 then t1 else (t1.raise fwPg 8).logEv .compat 1 [v, d.reason.toNat]
  let t3 := if d.chipBad = 0 then t2 else t2.logEv .compatSilicon 1 [d.chipBad.toNat]
  if v = 2 then t3.fault 3 7 .compat else t3

/-- Both images fail: the housekeeper alone runs. -/
def Tray.bootFailed (t : Tray) (l : Leases) : Tray :=
  let t1 := ({ t with hal := { t.hal with failed := true } } : Tray).sf fwPg F.FW_STS_SERVICE 2
  (((t1.raise fwPg 8).logEv .fwVerify 0 []).labelChanged).hello l

/-- The image that runs: its versions, time, the decision; a housekeeper with another HKF is updated first. -/
def Tray.bootRun (t : Tray) (b : BundleInfo) (d : CompatInfo) (hkf : Option (BitVec 5 × BitVec 5 × BitVec 5)) : Tray :=
  let t1 : Tray := { t with hal := { t.hal with up := true }, fram := { t.fram with halBoot := (t.fram.halBoot + 1) % 2 ^ 32 } }
  let t2 := (((t1.sf fwPg F.FW_STS_IMAGE t.fram.image).sb fwPg F.FW_STS_TRIAL t.fram.trial).sf fwPg F.FW_STS_YEAR b.year).sf fwPg
    F.FW_STS_NN b.nn
  let t3 := (t2.each (List.range 4) (fun t k => t.showVer b k)).bootTime
  let t4 := match hkf with | some (r0, r1, r2) => t3.hkReset r0 r1 r2 | none => t3
  let t5 := t4.compatDecide d
  let t6 := if t5.phase0 = Ph.CTRL_BOOT then t5.sf hkPg F.HK_STS_PHASE Ph.CHIP_RAILS else t5
  let t7 := if t6.chipsUp.isEmpty then t6 else t6.fault 5 7 .resetDone
  ((t7.phaseUpdate).labelChanged).fwStatus

/-- HALVOREN_BOOT: the selected image is verified, on failure the other. -/
def Tray.halvorenBoot (t : Tray) (l : Leases) (a b : ImageInfo) (d : CompatInfo)
    (hkf : Option (BitVec 5 × BitVec 5 × BitVec 5)) : Tray :=
  let p := t.phase0
  if ¬ t.hk.aon ∨ t.hal.up ∨ t.hal.failed ∨ p < Ph.CTRL_BOOT ∨ p = Ph.INPUT_OFF then t
  else
    let t1 := t.bootFallback
    let sel := if t1.fram.image = 0 then a else b
    let alt := if t1.fram.image = 0 then b else a
    if sel.verifies then t1.bootRun sel.bundle d hkf
    else
      let t2 := t1.logEv .fwVerify 1 [t1.fram.image]
      if alt.verifies then
        ({ t2 with fram := { t2.fram with image := 1 - t2.fram.image, trial := false } } : Tray).bootRun alt.bundle d hkf
      else t2.bootFailed l

/-- IMAGE_CONFIRM: a manager holds a lease and service is FULL; the fused security versions rise (R457, R458). -/
def Tray.imageConfirm (t : Tray) (l : Leases) : Tray :=
  if ¬ t.hal.up ∨ ¬ t.fram.trial ∨ t.fram.fallback ∨ l.headless ∨ t.service ≠ 0 then t
  else
    let svn := (List.range 4).map (fun k =>
      max ((t.fram.svn[k]?).getD 0) (F.FW_VER_SVN.get (t.rd fwPg (A.FW_VER + 8 * k))))
    let t1 : Tray := { t with fram := { t.fram with trial := false, svn := svn } }
    ((t1.sb fwPg F.FW_STS_TRIAL false).logEv .fwConfirm 1 [t.fram.image]).fwStatus

/-- TRIAL_TIMEOUT: the next HALVOREN reset returns to the previous image. -/
def Tray.trialTimeout (t : Tray) : Tray :=
  if t.hal.up ∧ t.fram.trial then { t with fram := { t.fram with fallback := true } } else t

end Sys2Proof.Machine
end

