-- ==== Sys2Proof/Machine/Operator.lean ====
section
/-! DEFINITION. Redfish (R443), zhctl on the console (R462), and events that no other file holds: RTO expiry (R178), the
PRBS checker (R141), the end of an abort with its failure branch (R104, R109). -/
namespace Sys2Proof.Machine

/-! ### Redfish (R443) -/

/-- A response leaves. -/
def Tray.rf (t : Tray) (status : Nat) (body : List Nat) : Tray := t.emit (.redfish status body)

/-- Registers of pages, as numbers. -/
def Tray.words (t : Tray) (l : List (Nat × Nat)) : List Nat := l.map (fun a => (t.view a.1 a.2).toNat)

/-- What a port resource shows: state, cause, partner, cable delay, alarms, FOM and wear of its lanes. -/
def Tray.rfPort (t : Tray) (c e : Nat) : List Nat :=
  [t.pst c e, t.pcause c e, (t.rd (portPg c e) A.PORT_PARTNER).toNat, t.gf (portPg c e) F.PORT_RTT_CABLE,
   (t.rd (portPg c e) A.PORT_ALARM).toNat]
  ++ (lanesOf e).flatMap (fun n => [t.gf (lanePg c n) F.LANE_FOM_AVG, (t.rd (lanePg c n) A.LANE_WEAR).toNat])

/-- What a resource shows. -/
def Tray.rfBody (t : Tray) (l : Leases) (res : RfResource) : List Nat :=
  let rails := (List.range 5).flatMap (fun c => (List.range 4).map (fun r => (railPg c, A.PWR_RAIL + 0x20 * r)))
  match res with
  | .sessions => t.hal.sessions
  | .accounts => t.hal.accounts
  | .session i | .account i => [i]
  | .chassisTray =>
    [t.gf hkPg F.HK_SLOT_SLOT, t.hal.rack.getD 0, t.gf pnlPg F.PNL_LED_LOCATE] ++ t.words [(hkPg, A.HK_STS), (hkPg, A.HK_COOL),
      (hkPg, A.HK_FAN), (pwrPg, A.PWR_IN)]
  | .sensors | .power | .thermal =>
    t.words ([(hkPg, A.HK_STS), (hkPg, A.HK_COOL), (hkPg, A.HK_FAN), (pwrPg, A.PWR_IN), (pwrPg, A.PWR_EIN)] ++ rails
      ++ (List.range 5).map (fun c => (hkPg, A.HK_CAP + 8 * c)))
  | .managersHalvoren => l.view.toNat :: t.words [(mgrPg, A.MGR_TIME), (mgrPg, A.MGR_LINK)]
  | .port c e => t.rfPort c.val e.val
  | .eventLog => t.fram.log.map (fun w => w.toNat)
  | .subscriptions | .eventService => t.hal.subs
  | .oemTilviard =>
    [t.roleNow, t.gf mgrPg F.MGR_MAP_PLANE, t.gf mgrPg F.MGR_MAP_MAP_GEN, t.service, (t.rd fwPg A.FW_COMPAT).toNat,
     b2n t.fram.lost, b2n l.headless, t.gf pnlPg F.PNL_LABEL_CHECK]
    ++ (List.range 40).map (fun b => ((t.bay b).forecast).getD 0xFFFF)
  | .updateService => t.words [(fwPg, A.FW_STS)]
  | _ => []

/-- A bundle fetched from a URI is staged and verified as by FW_END. -/
def Tray.rfStage (t : Tray) (bytes : List Byte) (b : BundleInfo) : Tray :=
  let st : Staging := { len := bytes.length, hash := sha384 bytes, pieces := [(0, bytes)] }
  (fwEndAct b {} { t with hal := { t.hal with staging := some st } }).2

/-- A new session, account or subscription. -/
def Tray.rfNew (t : Tray) (put : HalSt → Nat → HalSt) : Tray :=
  let h := t.hal
  ({ t with hal := put { h with nextRf := h.nextRf + 1 } h.nextRf } : Tray).rf 201 [h.nextRf]

/-- A POST or DELETE or PATCH of a user who may change things. -/
def Tray.rfChange (t : Tray) (res : RfResource) (meth : RfMethod) : Tray :=
  match res, meth with
  | .sessions, .post => t.rfNew (fun h i => { h with sessions := h.sessions ++ [i] })
  | .accounts, .post => t.rfNew (fun h i => { h with accounts := h.accounts ++ [i] })
  | .session i, .delete =>
    if t.hal.sessions.contains i then
      ({ t with hal := { t.hal with sessions := t.hal.sessions.filter (fun x => x != i) } } : Tray).rf 204 []
    else t.rf 404 []
  | .account i, .delete =>
    if t.hal.accounts.contains i then
      ({ t with hal := { t.hal with accounts := t.hal.accounts.filter (fun x => x != i) } } : Tray).rf 204 []
    else t.rf 404 []
  | .chassisTray, .patch on => (t.sb pnlPg F.PNL_LED_LOCATE on).rf 200 []
  | .managerReset tray, .post =>
    if t.roleNow = 1 then t.rf 405 [] else if tray then (t.rf 200 []).trayReset else (t.rf 200 []).halvorenReset
  | .simpleUpdate bytes b, .post => (t.rfStage bytes b).rf 200 []
  | .subscriptions, .post =>
    if t.hal.subs.length < 8 then t.rfNew (fun h i => { h with subs := h.subs ++ [i] }) else t.rf 405 []
  | _, _ => t.rf 405 []

/-- The resource answers GET. -/
def Tray.rfGets (t : Tray) (res : RfResource) : Bool :=
  match res with
  | .session i => t.hal.sessions.contains i
  | .account i => t.hal.accounts.contains i
  | .managerReset _ | .clearLog | .simpleUpdate _ _ | .systems | .other => false
  | _ => true

/-- The request asks for a change that the role ReadOnly may not make (log 64). -/
def rfGuarded (res : RfResource) (meth : RfMethod) : Bool :=
  match res, meth with
  | _, .get => false
  | .sessions, _ | .session _, _ => false
  | _, _ => true

/-- REDFISH_REQUEST. -/
def Tray.redfish (t : Tray) (l : Leases) (res : RfResource) (meth : RfMethod) (readOnly : Bool) : Tray :=
  if ¬ t.hal.up then t
  else match res with
    | .systems | .other => t.rf 404 []
    | _ =>
      if readOnly ∧ rfGuarded res meth then t.rf 403 []
      else if meth = .get then
        (if t.rfGets res then t.rf 200 (t.rfBody l res)
         else match res with
          | .session _ | .account _ => t.rf 404 []
          | _ => t.rf 405 [])
      else t.rfChange res meth

/-! ### zhctl on the console (R462) -/

/-- A console command: the FIFO is read empty; the Halvoren's console runs once the Halvoren does (R422). -/
def Tray.zhctl (t : Tray) (f : Tray → Tray) : Tray :=
  if ¬ t.hk.aon ∨ ¬ t.hal.up then t else f { t with hk := { t.hk with fifo := [] } }

/-- The command is refused. -/
def Tray.conNo (t : Tray) : Tray := t.emit (.console false [])

/-- A command of level SERVICE. -/
def Tray.zhctlSvc (t : Tray) (f : Tray → Tray) : Tray := t.zhctl (fun t => if t.hal.service then f t else t.conNo)

/-- status. -/
def Tray.zhStatus (t : Tray) (l : Leases) : Tray :=
  t.zhctl (fun t => t.emit (.console true ((t.helloBody l).map (fun b => b.toNat) ++ [l.view.toNat]
    ++ t.words [(mgrPg, A.MGR_MAP), (mgrPg, A.MGR_TIME)] ++ [t.hk.alarms])))

/-- log [from n]. -/
def Tray.zhLog (t : Tray) (first : Nat) : Tray :=
  t.zhctl (fun t => t.emit (.console true ((t.logFrom first t.fram.log.length).map (fun w => w.toNat))))

/-- ports [chip]: states, causes, FOM. -/
def Tray.zhPorts (t : Tray) (c : Option Nat) : Tray :=
  let cs := match c with | some c => [c] | none => List.range 5
  t.zhctl (fun t => t.emit (.console true (cs.flatMap (fun c => (List.range 64).flatMap (fun e =>
    [t.pst c e, t.pcause c e] ++ (lanesOf e).map (fun n => t.gf (lanePg c n) F.LANE_FOM_AVG))))))

/-- reg read. -/
def Tray.zhRegRead (t : Tray) (l : Leases) (sp off n : Nat) : Tray :=
  t.zhctlSvc (fun t =>
    let r := t.barReads l sp n off
    r.2.2.emit (.console r.2.1 r.1))

/-- wire-test, with the tray not ACTIVE. -/
def Tray.zhWireTest (t : Tray) (maps : List Nat) (duration phases fomMin : Nat) : Tray :=
  t.zhctlSvc (fun t =>
    if t.roleNow = 1 ∨ t.hal.wire.isSome ∨ phases = 0 ∨ 3 < phases then t.conNo
    else (t.wireStart maps duration phases fomMin).emit (.console true []))

/-- fw activate: a staged bundle. -/
def Tray.zhActivate (t : Tray) (comps : Nat) : Tray :=
  t.zhctlSvc (fun t =>
    let r := t.activate comps
    r.2.emit (.console (r.1.status == Zs.OK) []))

/-- reset: TYPE 1 to 3 without SERVICE access records RESET_REFUSED (R424). -/
def Tray.zhReset (t : Tray) (ty c : Nat) : Tray :=
  t.zhctl (fun t =>
    let o := Origin.wr 0 A.HK_RESET
    if t.hal.service then
      (t.emit (.console true [])).hkResetWrite
        (putAll 0 [(F.HK_RESET_TYPE, ty), (F.HK_RESET_CHIP, c), (F.HK_RESET_GO, 1)]) o
    else if 1 ≤ ty ∧ ty ≤ 3 then (t.recErr hkPg 0x40 o).conNo
    else t.conNo)

/-- label repaint. -/
def Tray.zhRepaint (t : Tray) : Tray := t.zhctl (fun t => (t.labelChanged).emit (.console true []))

/-- login service. -/
def Tray.zhLogin (t : Tray) (ok : Bool) : Tray :=
  t.zhctl (fun t => if ok then ({ t with hal := { t.hal with service := true } } : Tray).emit (.console true []) else t.conNo)

/-! ### Further events -/

/-- RTO_EXPIRY: everything unacknowledged is sent again; the MAX_RETRY-th expiry without progress aborts the port. No RTO
runs in FLOOD_HOLD and RETRAIN (R174, R178, R179). -/
def Tray.rtoExpiry (t : Tray) (c e ch : Nat) : Tray :=
  let p := t.port c e
  let g := fun (a : Assoc Nat) => Assoc.get (fun _ => 0) a ch
  if ¬ t.up c e ∨ g p.txUna = g p.txNxt then t
  else
    let n := g p.retries + 1
    let t1 := t.modPort c e (fun p => { p with retries := Assoc.set (fun _ => 0) p.retries ch n })
    if t.gf (portPg c e) F.PORT_FC_CTL_MAX_RETRY ≤ n then (t1.raise (portPg c e) 26).portLeave c e Cz.ABORT
    else t1.resend c e ch

/-- PRBS_LOCK: the checker of a lane in DIAG gains or loses lock. -/
def Tray.prbsLock (t : Tray) (c n : Nat) (lock : Bool) : Tray :=
  if t.pst c (n / 4) ≠ S.DIAG ∨ t.is (lanePg c n) F.LANE_STS_PRBS_LOCK = lock then t
  else (t.sb (lanePg c n) F.LANE_STS_PRBS_LOCK lock).raise (lanePg c n) 10

/-- ABORT_DONE: a whole-chip quiesce that missed its 200 µs has the chip reset and the fault reported (R103, R109). -/
def Tray.abortEnds (t : Tray) (pg us : Nat) : Tray :=
  let t1 := t.abortDone pg us
  if t.aborting pg ∧ pageKind pg = some .chip0 ∧ 200 < us ∧ t.hal.up then
    (((t1.logChip .quiesceFail (pg / 4096) [us]).chipReset (pg / 4096)).fault 2 (pg / 4096) .quiesceFail)
  else t1

end Sys2Proof.Machine
end

