-- ==== Sys2Proof/Machine/Run.lean ====
section
/-! DEFINITION. How the meanings run: a change of the tray after which job slots note the operations that ended (R335,
R358), and the last conditions of a few commands. -/
namespace Sys2Proof.Machine

/-- Slots of every chip note the operations that have ended. -/
@[irreducible] def Tray.sweepAll (t : Tray) : Tray := t.each (List.range 5) (fun t c => t.dealerSweep c)

/-- A command changes the tray; slots of chip `c` note the operations that have ended. -/
def State.runC (s : State) (c : Nat) (f : Tray → Tray) : State := s.run (fun t => (f t).dealerSweep c)

/-- A command changes the tray; slots of every chip note the operations that have ended. -/
def State.runD (s : State) (f : Tray → Tray) : State := s.run (fun t => (f t).sweepAll)

/-- LUMP_EXPIRY: a CONTRIB lump, or a staged MODE 1 packet of the operation (R275, R340). -/
def Tray.lumpAge (t : Tray) (c tb op trick piece lump e : Nat) : Tray :=
  let hit := (t.table c tb).staged.any (fun l =>
    l.op == op && l.trick == trick && l.piece == piece && l.lump == lump && l.port == e)
  if hit then t.lumpExpiry c tb op trick piece lump e else t.shufExpiry c tb op e

/-- Node `n` of the deck ring works: its chip's core is released, or the Halvoren's bridge runs. -/
def Tray.nodeUp (t : Tray) (n : Nat) : Bool := if n < 5 then (t.chip n).coreUp else t.hal.up

/-- DECK_INJECT: a node whose page accepts new work injects (R85, R219). -/
def Tray.deckSend (t : Tray) (n : Nat) (ccw ctrl : Bool) : Tray :=
  if n < 5 then t.ifOn (chipPg n 0x330) (fun t => t.deckInject n ccw ctrl) else t.deckInject n ccw ctrl

/-- DECK_HOP_UP: a hop trains between two nodes that work (R220). -/
def Tray.hopTrain (t : Tray) (n : Nat) : Tray := if t.nodeUp n ∧ t.nodeUp ((n + 1) % 6) then t.deckHopUp n else t

end Sys2Proof.Machine
end

