-- ==== Sys2Proof/Machine/ExecDealer.lean ====
section
/-! DEFINITION. Meanings: layout unit, translation, job slots and their instructions, inboxes, seats, watches, dumps. -/
namespace Sys2Proof.Machine

/-- DESC_CREATE_OP (R320): LAY_OP.CREATE checks a descriptor from LAY_DATA and creates it, returning a handle or a
status. -/
def execDescCreateOp (c : Fin 5) (s : State) : Host.Outcome State Fault Refusal :=
  .next (s.run (fun t => t.write8 0 c.val 0x310 A.LAY_OP (F.LAY_OP_CREATE.put (t.rd (chipPg c.val 0x310) A.LAY_OP &&& ~~~7) 1)))

/-- DESC_DESTROY_OP (R301): LAY_OP.DESTROY makes a handle unknown at once and frees its slot after its last user. -/
def execDescDestroyOp (c : Fin 5) (s : State) : Host.Outcome State Fault Refusal :=
  .next (s.run (fun t => t.write8 0 c.val 0x310 A.LAY_OP (F.LAY_OP_DESTROY.put (t.rd (chipPg c.val 0x310) A.LAY_OP &&& ~~~7) 1)))

/-- DESC_READ_OP (R321): LAY_OP.READ copies a descriptor into LAY_DATA. -/
def execDescReadOp (c : Fin 5) (s : State) : Host.Outcome State Fault Refusal :=
  .next (s.run (fun t => t.write8 0 c.val 0x310 A.LAY_OP (F.LAY_OP_READ.put (t.rd (chipPg c.val 0x310) A.LAY_OP &&& ~~~7) 1)))

/-- XLT_WRITE (R314): XLT_OP.WRITE installs a translation entry, or refuses it with BAD_PA or MAPPED. -/
def execXltWrite (c : Fin 5) (s : State) : Host.Outcome State Fault Refusal :=
  .next (s.run (fun t => t.write8 0 c.val 0x3E0 A.XLT_OP (F.XLT_OP_WRITE.put 0 1)))

/-- XLT_READ (R322): XLT_OP.READ loads the selected translation entry into XLT_ENT. -/
def execXltRead (c : Fin 5) (s : State) : Host.Outcome State Fault Refusal :=
  .next (s.run (fun t => t.write8 0 c.val 0x3E0 A.XLT_OP (F.XLT_OP_READ.put 0 1)))

/-- INVAL_SEAT (R318): XLT_OP.INVAL_SEAT clears every translation entry of a seat as a revocation. -/
def execInvalSeat (c : Fin 5) (s : State) : Host.Outcome State Fault Refusal :=
  .next (s.run (fun t => t.write8 0 c.val 0x3E0 A.XLT_OP (F.XLT_OP_INVAL_SEAT.put 0 1)))

/-- REVOCATION_DONE (R318): When the accesses under the old entry have drained, a revocation sets DONE within 5 µs. -/
def execRevocationDone (c : Fin 5) (s : State) : Host.Outcome State Fault Refusal :=
  .next (s.run (fun t => t.revocationDone c.val))

/-- JOB_START (R324): DLR_JOB_CTL.GO starts a job on an IDLE slot, or records JOB_BUSY. -/
def execJobStart (c : Fin 5) (j : Fin 32) (s : State) : Host.Outcome State Fault Refusal :=
  .next (s.run (fun t => t.write8 0 c.val 0x301 (A.DLR_JOB_CTL + 0x20 * j.val) (F.DLR_JOB_CTL_GO.put 0 1)))

/-- JOB_ABORT (R359): DLR_JOB_CTL.ABORT stops a slot within 10 µs, advances its epoch and releases its resources. -/
def execJobAbort (c : Fin 5) (j : Fin 32) (s : State) : Host.Outcome State Fault Refusal :=
  .next (s.run (fun t => t.write8 0 c.val 0x301 (A.DLR_JOB_CTL + 0x20 * j.val) (F.DLR_JOB_CTL_ABORT.put 0 1)))

/-- INSTR_WAIT_END (R329): A Dealer instruction waiting on a trigger counter starts when the counter reaches
WAIT_THRESH. -/
def execInstrWaitEnd (c : Fin 5) (j : Fin 32) (s : State) : Host.Outcome State Fault Refusal :=
  .next (s.runC c.val (fun t => t.instrWaitEnd c.val j.val))

/-- DEALER_NOP (R328): The NOP instruction waits under WAIT_EN and increments under INC_EN. -/
def execDealerNop (c : Fin 5) (j : Fin 32) (s : State) : Host.Outcome State Fault Refusal :=
  .next (s.runC c.val (fun t => t.dealerIns c.val j.val I.NOP (fun t w => t.insNop c.val j.val w)))

/-- DESC_CREATE (R328): The DESC_CREATE instruction creates a descriptor and places its handle in a JH entry. -/
def execDescCreate (c : Fin 5) (j : Fin 32) (s : State) : Host.Outcome State Fault Refusal :=
  .next (s.runC c.val (fun t => t.dealerIns c.val j.val I.DESC_CREATE (fun t w => t.insDescCreate c.val j.val w)))

/-- DESC_DESTROY (R328): The DESC_DESTROY instruction destroys a descriptor. -/
def execDescDestroy (c : Fin 5) (j : Fin 32) (s : State) : Host.Outcome State Fault Refusal :=
  .next (s.runC c.val (fun t => t.dealerIns c.val j.val I.DESC_DESTROY (fun t w => t.insDescDestroy c.val j.val w)))

/-- CTR_ADD (R328): The CTR_ADD instruction adds P0 to a trigger counter. -/
def execCtrAdd (c : Fin 5) (j : Fin 32) (s : State) : Host.Outcome State Fault Refusal :=
  .next (s.runC c.val (fun t => t.dealerIns c.val j.val I.CTR_ADD (fun t w => t.insCtrAdd c.val j.val w)))

/-- IN_WAIT (R338): The IN_WAIT instruction waits for a ready inbox half and creates a TD over its records. -/
def execInWait (c : Fin 5) (j : Fin 32) (s : State) : Host.Outcome State Fault Refusal :=
  .next (s.runC c.val (fun t => t.dealerIns c.val j.val I.IN_WAIT (fun t w => t.insInWait c.val j.val w)))

/-- IN_FREE (R338): The IN_FREE instruction destroys the half's TD and returns the half to filling. -/
def execInFree (c : Fin 5) (j : Fin 32) (s : State) : Host.Outcome State Fault Refusal :=
  .next (s.runC c.val (fun t => t.dealerIns c.val j.val I.IN_FREE (fun t w => t.insInFree c.val j.val w)))

/-- MIX (R330): The MIX instruction computes a dense matrix product with fixed grouping and rounding. -/
def execMix (c : Fin 5) (j : Fin 32) (need cache : Nat) (s : State) : Host.Outcome State Fault Refusal :=
  .next (s.runC c.val (fun t => t.dealerIns c.val j.val I.MIX (fun t w => t.insMix need cache c.val j.val w)))

/-- VEC (R331): The VEC instruction applies an element-wise or row operation chosen by VARIANT. -/
def execVec (c : Fin 5) (j : Fin 32) (s : State) : Host.Outcome State Fault Refusal :=
  .next (s.runC c.val (fun t => t.dealerIns c.val j.val I.VEC (fun t w => t.insVec c.val j.val w)))

/-- QUANT (R333): The QUANT instruction quantizes A into an MX format in blocks of 32 elements. -/
def execQuant (c : Fin 5) (j : Fin 32) (s : State) : Host.Outcome State Fault Refusal :=
  .next (s.runC c.val (fun t => t.dealerIns c.val j.val I.QUANT (fun t w => t.insQuant c.val j.val w)))

/-- RS_EPI (R336): The RS_EPI instruction issues a reduce-scatter on a Dealer table with an epilogue applied before
emission. -/
def execRsEpi (c : Fin 5) (j : Fin 32) (need : Nat) (s : State) : Host.Outcome State Fault Refusal :=
  .next (s.runC c.val (fun t => t.dealerIns c.val j.val I.RS_EPI (fun t w => t.insRsEpi need c.val j.val w)))

/-- AG_PRO (R337): The AG_PRO instruction issues an all-gather with dequantization, conversion and re-layout. -/
def execAgPro (c : Fin 5) (j : Fin 32) (need : Nat) (s : State) : Host.Outcome State Fault Refusal :=
  .next (s.runC c.val (fun t => t.dealerIns c.val j.val I.AG_PRO (fun t w => t.insAgPro need c.val j.val w)))

/-- MOE_ROUTE (R341): The MOE_ROUTE instruction routes the tokens of inbox batches to their top-k experts. -/
def execMoeRoute (c : Fin 5) (j : Fin 32) (need : Nat) (s : State) : Host.Outcome State Fault Refusal :=
  .next (s.runC c.val (fun t => t.dealerIns c.val j.val I.MOE_ROUTE (fun t w => t.insMoeRoute need c.val j.val w)))

/-- SHUFFLE (R346): The SHUFFLE instruction issues a re-sharding operation between two DTDs on a Dealer table. -/
def execShuffle (c : Fin 5) (j : Fin 32) (need : Nat) (s : State) : Host.Outcome State Fault Refusal :=
  .next (s.runC c.val (fun t => t.dealerIns c.val j.val I.SHUFFLE (fun t w => t.insShuffle need c.val j.val w)))

/-- SEND (R328): The SEND instruction sends A's traversal bytes to an endpoint as RESULT packets. -/
def execSend (c : Fin 5) (j : Fin 32) (s : State) : Host.Outcome State Fault Refusal :=
  .next (s.runC c.val (fun t => t.dealerIns c.val j.val I.SEND (fun t w => t.insSend c.val j.val w)))

/-- SCATTER (R328): The SCATTER instruction sends each BCL entry's block to its DEST endpoint. -/
def execScatter (c : Fin 5) (j : Fin 32) (s : State) : Host.Outcome State Fault Refusal :=
  .next (s.runC c.val (fun t => t.dealerIns c.val j.val I.SCATTER (fun t w => t.insScatter c.val j.val w)))

/-- END (R328): The END instruction ends the job with OK. -/
def execEndJob (c : Fin 5) (j : Fin 32) (s : State) : Host.Outcome State Fault Refusal :=
  .next (s.runC c.val (fun t => t.dealerIns c.val j.val I.END (fun t w => t.insEnd c.val j.val w)))

/-- MOE_BATCH (R343): For each ready batch, logits and gates are computed, tokens are dispatched, and route and batch
records are sent. -/
def execMoeBatch (c : Fin 5) (j : Fin 32) (s : State) : Host.Outcome State Fault Refusal :=
  .next (s.runC c.val (fun t => t.moeBatch c.val j.val))

/-- INBOX_VALID (R338): Setting DLR_IN_CFG.VALID checks the region's grant and the seat's quota and brings the inbox
into use, or records INBOX_BAD. -/
def execInboxValid (c : Fin 5) (i : Fin 16) (v : Word) (s : State) : Host.Outcome State Fault Refusal :=
  .next (s.run (fun t => t.write8 0 c.val 0x302 (A.DLR_IN_CFG + 0x20 * i.val) v))

/-- DEALER_IN_INBOX (R339): A DEALER_IN packet in MODE 0 is assembled into a record of its inbox, or held in headroom
when no half is filling. -/
def execDealerInInbox (c : Fin 5) (e : Fin 64) (p : Pkt) (s : State) : Host.Outcome State Fault Refusal :=
  .next (s.runC c.val (fun t => t.arriveAs c.val e.val p (fun h => hPtype h == P.DEALER_IN && hAddr h / 2 ^ 60 == 0)))

/-- DEALER_IN_SHUFFLE (R347): A DEALER_IN packet in MODE 1 sends its elements to their target holders under the
SHUFFLE DTDs, or is staged or discarded. -/
def execDealerInShuffle (c : Fin 5) (e : Fin 64) (p : Pkt) (s : State) : Host.Outcome State Fault Refusal :=
  .next (s.runC c.val (fun t => t.arriveAs c.val e.val p (fun h => hPtype h == P.DEALER_IN && hAddr h / 2 ^ 60 != 0)))

/-- POOL_SHORT (R352): An allocation that still does not fit after 1 ms of spilling ends the job with POOL_SHORT. -/
def execPoolShort (c : Fin 5) (j : Fin 32) (s : State) : Host.Outcome State Fault Refusal :=
  .next (s.runC c.val (fun t => t.poolShort c.val j.val))

/-- LEND_WRITE (R354): A write to DLR_LEND lends local HBM pages to a peer chip, or is refused with LEND_CONFLICT. -/
def execLendWrite (c : Fin 5) (i : Fin 4) (v : Word) (s : State) : Host.Outcome State Fault Refusal :=
  .next (s.run (fun t => t.write8 0 c.val 0x300 (A.DLR_LEND + 8 * i.val) v))

/-- SRAM_ECC_ERROR (R360): An uncorrectable tensor SRAM or HBM error fails the reading job, fails the operation or
poisons the line. -/
def execSramEccError (c : Fin 5) (w : EccPlace) (s : State) : Host.Outcome State Fault Refusal :=
  .next (s.runC c.val (fun t => if (t.chip c.val).coreUp then t.sramEcc c.val w else t))

/-- SEAT_CFG_WRITE (R368): A write to SEAT_CFG sets weights and validity, but leaves VALID at 1 and records SEAT_BUSY
while the seat holds resources. -/
def execSeatCfgWrite (c : Fin 5) (m : Fin 64) (v : Word) (s : State) : Host.Outcome State Fault Refusal :=
  .next (s.run (fun t => t.write8 0 c.val (0x380 + m.val) A.SEAT_CFG v))

/-- WATCH_OVERFLOW (R373): A watch count carries out of bit 47, raising its interrupt and reloading if enabled. -/
def execWatchOverflow (c : Fin 5) (i : Fin 8) (s : State) : Host.Outcome State Fault Refusal :=
  .next (s.run (fun t => t.watchOverflow c.val i.val))

/-- WATCH_CAPTURE (R373): At the next capture point the watch records SKID, SKID_POS and WHERE, or counts MISSED. -/
def execWatchCapture (c : Fin 5) (i : Fin 8) (pos : BitVec 6) (wh : Fin 64)
    (s : State) : Host.Outcome State Fault Refusal :=
  .next (s.run (fun t => t.watchCapture c.val i.val pos.toNat wh.val))

/-- SNAPSHOT (R375): At each snapshot instant the dump engine takes the counters and sends the record, or skips it as
a gap. -/
def execSnapshot (c : Fin 5) (s : State) : Host.Outcome State Fault Refusal :=
  .next (s.run (fun t => t.snapshot c.val))

/-- DUMP_RECORD_DELIVER (R379): The bridge writes a record whose packets have all arrived into the chip's DRAM dump
ring. -/
def execDumpRecordDeliver (c : Fin 5) (s : State) : Host.Outcome State Fault Refusal :=
  .next (s.runL (fun l t => t.dumpDeliver l c.val))

/-- SEAL (R383): Every whole second, Halvoren firmware writes and signs a SEAL record naming the latest records of
each source. -/
def execSeal (s : State) : Host.Outcome State Fault Refusal :=
  .next (s.runL (fun l t => t.seal l))

/-- CALIBRATION (R386): Every 10 s the rail and input energies are read, each chip's K is recomputed and sent, and a
CAL record is written. -/
def execCalibration (r : EnergyRead) (s : State) : Host.Outcome State Fault Refusal :=
  .next (s.runL (fun l t => t.calibrate l r))

/-- K_SET (R386): A K_SET ring packet sets the chip's energy factor, which takes effect at the next snapshot instant.
-/
def execKSet (c : Fin 5) (k : BitVec 24) (_calSeq : BitVec 32) (s : State) : Host.Outcome State Fault Refusal :=
  .next (s.run (fun t => t.kSet c.val k.toNat))

end Sys2Proof.Machine
end

