-- ==== Sys2Proof/Machine/ExecFabric.lean ====
section
/-! DEFINITION. Meanings: packets and flits, switch core, replay, circuits, deck ring. -/
namespace Sys2Proof.Machine

/-- FLIT_RECEIVE (R148): A flit of the received stream is parsed as a header, payload, BREAK, IDLE or RESUME. -/
def execFlitReceive (c : Fin 5) (e : Fin 64) (f : Flit) (sync : Bool)
    (s : State) : Host.Outcome State Fault Refusal :=
  .next (s.runC c.val (fun t => t.flitReceive c.val e.val f sync))

/-- DATA_RECEIVE (R157): A DATA packet is checked at its arrival port and forwarded unchanged through staging, even
when its CRC-32C fails. -/
def execDataReceive (c : Fin 5) (e : Fin 64) (p : Pkt) (s : State) : Host.Outcome State Fault Refusal :=
  .next (s.runC c.val (fun t => t.arriveAs c.val e.val p (fun h => hPtype h == P.DATA)))

/-- CELL_ADMIT (R199): A cell complete in staging is admitted to the shared pool or to headroom, or pushes out a TC3
victim, or is discarded. -/
def execCellAdmit (c : Fin 5) (e : Fin 64) (s : State) : Host.Outcome State Fault Refusal :=
  .next (s.run (fun t => t.ifOn (chipPg c.val 0x060) (fun t => t.cellAdmit c.val e.val)))

/-- XOFF_CLEAR (R165): XOFF of a class clears once its headroom usage is zero and a cell would be admitted again. -/
def execXoffClear (c : Fin 5) (e : Fin 64) (tc : Fin 4) (s : State) : Host.Outcome State Fault Refusal :=
  .next (s.run (fun t => t.xoffClear c.val e.val tc.val))

/-- STAGE_XOFF_CLEAR (R193): Staging occupancy falling to STAGE_MARK / 2 clears the staging XOFF. -/
def execStageXoffClear (c : Fin 5) (e : Fin 64) (s : State) : Host.Outcome State Fault Refusal :=
  .next (s.run (fun t => t.stageXoffClear c.val e.val))

/-- CARVE_OUT_GRANT (R168): Once enough shared cells have drained, a port waiting for its headroom reservation gets it
and clears HDRM_WAIT. -/
def execCarveOutGrant (c : Fin 5) (e : Fin 64) (s : State) : Host.Outcome State Fault Refusal :=
  .next (s.run (fun t => t.carveOutGrant c.val e.val))

/-- ORIG_ADMIT (R194): An originated packet cell is admitted from the originated staging, or waits and back-pressures
its originator. -/
def execOrigAdmit (c : Fin 5) (e : Fin 64) (s : State) : Host.Outcome State Fault Refusal :=
  .next (s.run (fun t => t.ifOn (chipPg c.val 0x060) (fun t => t.origAdmit c.val e.val)))

/-- FENCE_RELEASE (R161): A FENCE packet is passed to the switch core once every earlier packet for its destination
has left or been discarded. -/
def execFenceRelease (c : Fin 5) (e : Fin 64) (s : State) : Host.Outcome State Fault Refusal :=
  .next (s.run (fun t => t.fenceRelease c.val e.val))

/-- SCHED_SLOT (R195): In each slot the scheduler matches inputs to outputs on every slice and the crossbar moves the
granted cells. -/
def execSchedSlot (c : Fin 5) (held : List (Fin 128)) (s : State) : Host.Outcome State Fault Refusal :=
  .next (s.run (fun t => t.schedSlot c.val (held.map (fun k => k.val))))

/-- REQUEST_AGED (R196): A request waiting AGE_SLOTS without an accepted grant is promoted above class. -/
def execRequestAged (c : Fin 5) (x : Fin 4) (e f : Fin 64) (s : State) : Host.Outcome State Fault Refusal :=
  .next (s.run (fun t => t.requestAged c.val x.val e.val f.val))

/-- RESIDUE_RETRY (R211): In each slot the kitty links residue entries to members that have become ready and frees
empty entries. -/
def execResidueRetry (c : Fin 5) (s : State) : Host.Outcome State Fault Refusal :=
  .next (s.run (fun t => t.residueRetry c.val))

/-- EGRESS_SELECT (R205): At each header position the output picks the next packet by class order, circuit share and
seat and table round robin. -/
def execEgressSelect (c : Fin 5) (e : Fin 64) (s : State) : Host.Outcome State Fault Refusal :=
  .next (s.runC c.val (fun t => t.egressSelect c.val e.val))

/-- PAUSE_STORM (R170): Partner XOFF held for PAUSE_WD_MS discards the queued and later cells of that class for the
port. -/
def execPauseStorm (c : Fin 5) (e : Fin 64) (tc : Fin 4) (s : State) : Host.Outcome State Fault Refusal :=
  .next (s.runC c.val (fun t => t.pauseStorm c.val e.val tc.val))

/-- KITTY_ECC_ERROR (R215): An uncorrectable kitty error discards the affected packet, or zero-fills the rest of a
packet in transmission. -/
def execKittyEccError (c : Fin 5) (id : Option Nat) (flit : Nat) (s : State) : Host.Outcome State Fault Refusal :=
  .next (s.runC c.val (fun t => t.kittyEcc c.val id flit))

/-- MCG_WRITE (R225): KIT_MCG_OP.WRITE installs the holding registers into a multicast group at the kitty's safe
point. -/
def execMcgWrite (c : Fin 5) (s : State) : Host.Outcome State Fault Refusal :=
  .next (s.run (fun t => t.write8 0 c.val 0x061 A.KIT_MCG_OP (F.KIT_MCG_OP_WRITE.put 0 1)))

/-- MCG_READ (R225): KIT_MCG_OP.READ loads a multicast group into the holding registers. -/
def execMcgRead (c : Fin 5) (s : State) : Host.Outcome State Fault Refusal :=
  .next (s.run (fun t => t.write8 0 c.val 0x061 A.KIT_MCG_OP (F.KIT_MCG_OP_READ.put 0 1)))

/-- ACK_RECEIVE (R174): A received ACK frees the acknowledged replay entries and can complete trick tags, operations
and records. -/
def execAckReceive (c : Fin 5) (e : Fin 64) (p : Pkt) (s : State) : Host.Outcome State Fault Refusal :=
  .next (s.runC c.val (fun t => t.arriveAs c.val e.val p (fun h => hPtype h == P.ACK)))

/-- NAK_RECEIVE (R174): A received NAK resends, in order, every stored packet from the NAKed SEQ. -/
def execNakReceive (c : Fin 5) (e : Fin 64) (p : Pkt) (s : State) : Host.Outcome State Fault Refusal :=
  .next (s.runC c.val (fun t => t.arriveAs c.val e.val p (fun h => hPtype h == P.NAK)))

/-- ACK_SEND (R174): The port agent sends a cumulative ACK within 1 µs of accepting a packet, or once 16 are
unacknowledged. -/
def execAckSend (c : Fin 5) (e : Fin 64) (ch : Fin 8) (s : State) : Host.Outcome State Fault Refusal :=
  .next (s.run (fun t => t.ackSend c.val e.val ch.val))

/-- RTO_EXPIRY (R174): The oldest unacknowledged packet waits RTO without ACK progress, and the stream is resent from
it. -/
def execRtoExpiry (c : Fin 5) (e : Fin 64) (ch : Fin 8) (s : State) : Host.Outcome State Fault Refusal :=
  .next (s.runC c.val (fun t => t.rtoExpiry c.val e.val ch.val))

/-- CIRC_ENT_WRITE (R186): A write to CIRC_ENT sets the selected circuit's fields, or is refused with CIRC_BUSY while
the circuit is valid. -/
def execCircEntWrite (c : Fin 5) (v : Word) (s : State) : Host.Outcome State Fault Refusal :=
  .next (s.run (fun t => t.write8 0 c.val 0x3C0 A.CIRC_ENT v))

/-- CIRC_SETUP (R186): CIRC_OP.SETUP installs the selected circuit at the next frame boundary, or refuses it with a
RESULT code. -/
def execCircSetup (c : Fin 5) (s : State) : Host.Outcome State Fault Refusal :=
  .next (s.run (fun t => t.write8 0 c.val 0x3C0 A.CIRC_OP (F.CIRC_OP_SETUP.put 0 1)))

/-- CIRC_TEARDOWN (R185): CIRC_OP.TEARDOWN removes one circuit within 5 µs and drains its staging through the
scheduler. -/
def execCircTeardown (c : Fin 5) (s : State) : Host.Outcome State Fault Refusal :=
  .next (s.run (fun t => t.write8 0 c.val 0x3C0 A.CIRC_OP (F.CIRC_OP_TEARDOWN.put 0 1)))

/-- DECK_PACKET_RECEIVE (R220): A ring packet arriving at a node is CRC-checked, retried from the sender's retry
buffer if it fails, and forwarded or consumed. -/
def execDeckPacketReceive (node : Fin 6) (p : RingPkt) (s : State) : Host.Outcome State Fault Refusal :=
  .next (s.runD (fun t => t.deckReceive node.val p (fun t p => t.ringConsume p) (fun t p => t.ringLost p)))

/-- DECK_INJECT (R219): A node injects a ring packet once the bubble rule leaves two free buffers in its own transit
buffer. -/
def execDeckInject (node : Fin 6) (ccw ctrl : Bool) (s : State) : Host.Outcome State Fault Refusal :=
  .next (s.run (fun t => t.deckSend node.val ccw ctrl))

/-- DECK_HOP_DOWN (R220): After 16 CRC failures or loss of a deck quad lock the hop is down, the ring runs as a chain
and transfers on the hop abort. -/
def execDeckHopDown (node : Fin 6) (s : State) : Host.Outcome State Fault Refusal :=
  .next (s.runD (fun t => t.deckHopDown node.val (fun t p => t.ringLost p)))

/-- DECK_RETRAIN (R228): Writing DECK_CTL.RETRAIN retrains the down hops of the node. -/
def execDeckRetrain (c : Fin 5) (s : State) : Host.Outcome State Fault Refusal :=
  .next (s.run (fun t => t.write8 0 c.val 0x330 A.DECK_CTL (F.DECK_CTL_RETRAIN.put (t.rd (chipPg c.val 0x330) A.DECK_CTL) 1)))

/-- DECK_HOP_UP (R220): A down deck ring hop completes retraining, DECK_STS shows it up, CHAIN clears when the ring is
whole, and the CHAIN changed interrupt is raised. -/
def execDeckHopUp (node : Fin 6) (s : State) : Host.Outcome State Fault Refusal :=
  .next (s.run (fun t => t.hopTrain node.val))

end Sys2Proof.Machine
end

