-- ==== Sys2Proof/Machine/ExecLinks.lean ====
section
/-! DEFINITION. Meanings: lanes, port shells, cartridges. -/
namespace Sys2Proof.Machine

/-- SIGNAL_DETECT (R122): Signal energy on all four lanes with a Ready cartridge moves a port from DOWN to SIGNAL. -/
def execSignalDetect (c : Fin 5) (e : Fin 64) (s : State) : Host.Outcome State Fault Refusal :=
  .next (s.run (fun t => t.signalDetect c.val e.val))

/-- CDR_LOCK (R122): CDR lock on training frames on all four lanes moves the port to TUNE. -/
def execCdrLock (c : Fin 5) (e : Fin 64) (s : State) : Host.Outcome State Fault Refusal :=
  .next (s.run (fun t => t.cdrLock c.val e.val))

/-- TRAINING_FRAME (R120): A training frame is received and its tap requests, acknowledgements, RX_READY and SWITCH
are acted on. -/
def execTrainingFrame (c : Fin 5) (n : Fin 256) (cw : Word) (ownReady : Bool) (wish : BitVec 9)
    (s : State) : Host.Outcome State Fault Refusal :=
  .next (s.runC c.val (fun t => t.trainingFrame c.val n.val cw ownReady wish.toNat))

/-- CODEWORD_RECEIVE (R116): A codeword is decoded: its XOFF bits are taken, or it is counted as uncorrectable and its
flits are discarded. -/
def execCodewordReceive (c : Fin 5) (n : Fin 256) (r : CwResult) (s : State) : Host.Outcome State Fault Refusal :=
  .next (s.runC c.val (fun t => t.codeword c.val n.val r))

/-- IDENT (R43): The partner's IDENT maintenance frame is received and checked for rack identity, endpoint number,
position, KIND, latencies and RESUME. -/
def execIdent (c : Fin 5) (e : Fin 64) (f : MFrame) (s : State) : Host.Outcome State Fault Refusal :=
  .next (s.runC c.val (fun t => t.identFrameIn c.val e.val f))

/-- IDENT_WAIT_RELEASE (R122): A port in IDENT_WAIT goes on with IDENT checking once TOPO_VALID is 1 and the
conditions of R28 hold. -/
def execIdentWaitRelease (c : Fin 5) (e : Fin 64) (s : State) : Host.Outcome State Fault Refusal :=
  .next (s.runC c.val (fun t => t.identRelease c.val e.val))

/-- ECHO_REQ (R119): A received ECHO_REQ is answered with ECHO_RSP carrying the same TOKEN and its RESIDENCE within 2
µs. -/
def execEchoReq (c : Fin 5) (e : Fin 64) (f : MFrame) (residence : BitVec 32)
    (s : State) : Host.Outcome State Fault Refusal :=
  .next (s.run (fun t => t.echoReq c.val e.val f residence.toNat))

/-- ECHO_RSP (R126): A received ECHO_RSP gives one round-trip interval; after 16 intervals the cable delay is computed
and checked against 160 ns. -/
def execEchoRsp (c : Fin 5) (e : Fin 64) (f : MFrame) (interval : Nat)
    (s : State) : Host.Outcome State Fault Refusal :=
  .next (s.runC c.val (fun t => t.echoRsp c.val e.val f interval))

/-- ECHO_TIMEOUT (R126): A response missing 2 µs after its request makes the tray send a new ECHO_REQ under a new
TOKEN. -/
def execEchoTimeout (c : Fin 5) (e : Fin 64) (token : BitVec 16) (s : State) : Host.Outcome State Fault Refusal :=
  .next (s.run (fun t => t.echoTimeout c.val e.val token.toNat))

/-- PARTNER_LINK_OK (R122): The partner shows LINK_OK in 16 consecutive groups after the echoes are complete, and the
port enters UP. -/
def execPartnerLinkOk (c : Fin 5) (e : Fin 64) (s : State) : Host.Outcome State Fault Refusal :=
  .next (s.runC c.val (fun t => t.partnerLinkOk c.val e.val))

/-- TRAINING_PHASE_TIMEOUT (R122): A training phase exceeds its bound, and the port fails with the phase's timeout
cause and goes to HOLDOFF. -/
def execTrainingPhaseTimeout (c : Fin 5) (e : Fin 64) (s : State) : Host.Outcome State Fault Refusal :=
  .next (s.runC c.val (fun t => t.phaseTimeout c.val e.val))

/-- HOLDOFF_END (R122): After 500 ms in HOLDOFF the port returns to DOWN, or goes to HELD, as AUTO_RETRY decides. -/
def execHoldoffEnd (c : Fin 5) (e : Fin 64) (s : State) : Host.Outcome State Fault Refusal :=
  .next (s.run (fun t => t.holdoffEnd c.val e.val))

/-- RTT_REMEASURE (R126): Every 10 s the round trip of an UP port is measured again; a result above 160 ns takes the
port down. -/
def execRttRemeasure (c : Fin 5) (e : Fin 64) (r : Remeasure) (s : State) : Host.Outcome State Fault Refusal :=
  .next (s.run (fun t => t.remeasure c.val e.val r))

/-- LOOP_REQ (R140): A received LOOP_REQ is accepted into far-end loopback in DIAG, or refused through LOOP_ACK. -/
def execLoopReq (c : Fin 5) (e : Fin 64) (f : MFrame) (s : State) : Host.Outcome State Fault Refusal :=
  .next (s.runC c.val (fun t => t.loopReq c.val e.val f))

/-- LOOP_ACK (R117): A received LOOP_ACK reports whether the partner accepted the loopback request. -/
def execLoopAck (c : Fin 5) (e : Fin 64) (f : MFrame) (s : State) : Host.Outcome State Fault Refusal :=
  .next (s.run (fun t => t.loopAck c.val e.val f))

/-- FLOOD_NOTE (R135): A received FLOOD_NOTE holds the port in FLOOD_HOLD, or allows RETRAIN once it clears. -/
def execFloodNote (c : Fin 5) (e : Fin 64) (f : MFrame) (s : State) : Host.Outcome State Fault Refusal :=
  .next (s.runC c.val (fun t => t.floodNote c.val e.val f))

/-- RETRAIN_REQ (R117): A received RETRAIN_REQ from the partner starts retraining for laser sparing or an operator
restart. -/
def execRetrainReq (c : Fin 5) (e : Fin 64) (f : MFrame) (s : State) : Host.Outcome State Fault Refusal :=
  .next (s.runC c.val (fun t => t.retrainReq c.val e.val f))

/-- FOM_INTERVAL (R127): At the end of each 1 ms interval the lane's FOM is computed and the FOM_WARN and FOM_FAIL
thresholds are judged. -/
def execFomInterval (c : Fin 5) (n : Fin 256) (syms bits : Nat) (eye : BitVec 8)
    (s : State) : Host.Outcome State Fault Refusal :=
  .next (s.runC c.val (fun t => t.fomInterval c.val n.val syms bits eye.toNat))

/-- LANE_CHECKPOINT (R129): While AVG ≥ FOM_WARN, the lane saves its adapted equaliser state every 1 ms. -/
def execLaneCheckpoint (c : Fin 5) (n : Fin 256) (s : State) : Host.Outcome State Fault Refusal :=
  .next (s.run (fun t => t.laneCheckpoint c.val n.val))

/-- LANE_FREEZE (R130): A freeze trigger stops adaptation and restores the latest checkpoint within 51.2 ns. -/
def execLaneFreeze (c : Fin 5) (n : Fin 256) (g : FreezeTrigger) (s : State) : Host.Outcome State Fault Refusal :=
  .next (s.runC c.val (fun t => t.laneFreeze c.val n.val g))

/-- FREEZE_EXIT (R130): After 1,024 consecutive good codewords with a NORMAL sideband, the lane leaves the freeze. -/
def execFreezeExit (c : Fin 5) (n : Fin 256) (s : State) : Host.Outcome State Fault Refusal :=
  .next (s.run (fun t => t.freezeExit c.val n.val))

/-- LOS_DETECT (R482): A lane reports loss of signal from its sideband or from the received amplitude. -/
def execLosDetect (c : Fin 5) (n : Fin 256) (los : Bool) (s : State) : Host.Outcome State Fault Refusal :=
  .next (s.runC c.val (fun t => t.laneLos c.val n.val los))

/-- LOS_TIMEOUT (R482): LOS lasting 1 ms ends UP with a port abort, or fails a training attempt, with cause LOS. -/
def execLosTimeout (c : Fin 5) (n : Fin 256) (s : State) : Host.Outcome State Fault Refusal :=
  .next (s.runC c.val (fun t => t.losTimeout c.val n.val))

/-- SIDEBAND_FRAME (R136): An SC-L sideband frame reports the lane states; four CRC failures or MONITOR_FAULT raise
CART_FAULT. -/
def execSidebandFrame (b : Fin 40) (states : Word) (crcOk : Bool) (s : State) : Host.Outcome State Fault Refusal :=
  .next (s.runD (fun t => t.sideband b.val states crcOk))

/-- FLOOD_DECLARE (R132): A light flood is declared within 3.5 µs: in-progress codewords are discarded, the lanes
freeze, XOFF is held and the port enters FLOOD_HOLD. -/
def execFloodDeclare (c : Fin 5) (e : Fin 64) (s : State) : Host.Outcome State Fault Refusal :=
  .next (s.runC c.val (fun t => t.floodDeclare c.val e.val))

/-- FLOOD_CLEAR (R133): After 10 ms of NORMAL on every lane the port enters RETRAIN from its checkpoints. -/
def execFloodClear (c : Fin 5) (e : Fin 64) (s : State) : Host.Outcome State Fault Refusal :=
  .next (s.runC c.val (fun t => t.floodClear c.val e.val))

/-- FLOOD_HOLD_TIMEOUT (R134): FLOOD_HOLD_MS passes before the flood clears, and the port aborts with cause
FLOOD_TIMEOUT. -/
def execFloodHoldTimeout (c : Fin 5) (e : Fin 64) (s : State) : Host.Outcome State Fault Refusal :=
  .next (s.runC c.val (fun t => t.holdTimeout c.val e.val))

/-- RETRAIN_TIMEOUT (R133): RETRAIN does not reach UP within 60 ms, and the port aborts and trains from presets. -/
def execRetrainTimeout (c : Fin 5) (e : Fin 64) (s : State) : Host.Outcome State Fault Refusal :=
  .next (s.runC c.val (fun t => t.retrainTimeout c.val e.val))

/-- PARTNER_LINK_LOSS (R135): LINK_OK = 0 from the partner for 1 ms while UP, without FLOOD_NOTE, takes the port down
with cause PARTNER. -/
def execPartnerLinkLoss (c : Fin 5) (e : Fin 64) (s : State) : Host.Outcome State Fault Refusal :=
  .next (s.runC c.val (fun t => t.linkLoss c.val e.val))

/-- FREEZE_LOS_TIMEOUT (R136): With CART_FAULT raised, a freeze that lasts 10 µs is treated as LOS. -/
def execFreezeLosTimeout (c : Fin 5) (n : Fin 256) (s : State) : Host.Outcome State Fault Refusal :=
  .next (s.runC c.val (fun t => t.freezeLos c.val n.val))

/-- WEAR_READ (R137): Every 60 s the tray reads each laser's bias, updates LANE_WEAR, and raises wear alarms or spares
a lane. -/
def execWearRead (c : Fin 5) (n : Fin 256) (bias bol : BitVec 16) (hours : BitVec 32) (failed : Bool)
    (s : State) : Host.Outcome State Fault Refusal :=
  .next (s.runC c.val (fun t => t.wearRead c.val n.val bias.toNat bol.toNat hours.toNat failed))

/-- LANE_SPARE (R138): Writing PORT_SPARE.GO switches a lane to its group's spare laser through RETRAIN, and the port
is UP within 60 ms. -/
def execLaneSpare (c : Fin 5) (e : Fin 64) (v : Word) (s : State) : Host.Outcome State Fault Refusal :=
  .next (s.run (fun t => t.write8 0 c.val (0x010 + e.val) A.PORT_SPARE v))

/-- WEAR_FORECAST (R139): Halvoren firmware fits the wear trends and forecasts the days until a group runs out of
spares. -/
def execWearForecast (b : Fin 40) (samples : List (List (Nat × Nat)))
    (s : State) : Host.Outcome State Fault Refusal :=
  .next (s.run (fun t => t.wearForecast b.val samples))

/-- LANE_SLIP (R141): A write to LANE_SLIP moves the receive word boundary by SLIP_UI symbols, or is refused with
SLIP_REFUSED. -/
def execLaneSlip (c : Fin 5) (n : Fin 256) (v : Word) (s : State) : Host.Outcome State Fault Refusal :=
  .next (s.run (fun t => t.write8 0 c.val (0x100 + n.val) A.LANE_SLIP v))

/-- PORT_RESTART (R146): Writing PORT_TRAIN_CTL.RESTART aborts the port if it is live, leaves HELD and trains from
presets. -/
def execPortRestart (c : Fin 5) (e : Fin 64) (s : State) : Host.Outcome State Fault Refusal :=
  .next (s.run (fun t => t.write8 0 c.val (0x010 + e.val) A.PORT_TRAIN_CTL
    (F.PORT_TRAIN_CTL_RESTART.put (t.rd (portPg c.val e.val) A.PORT_TRAIN_CTL) 1)))

/-- PORT_DIAG (R146): Setting PORT_TRAIN_CTL.DIAG holds the port in DIAG, with a port abort first if it is live. -/
def execPortDiag (c : Fin 5) (e : Fin 64) (set : Bool) (s : State) : Host.Outcome State Fault Refusal :=
  .next (s.run (fun t => t.write8 0 c.val (0x010 + e.val) A.PORT_TRAIN_CTL
    (F.PORT_TRAIN_CTL_DIAG.put (t.rd (portPg c.val e.val) A.PORT_TRAIN_CTL) (b2n set))))

/-- CART_INSERT (R144): PRESENT_N going low starts cartridge reset release, identity read, power-up and data path
activation. -/
def execCartInsert (b : Fin 40) (info : CartInfo) (s : State) : Host.Outcome State Fault Refusal :=
  .next (s.runD (fun t => t.cartInsert b.val info))

/-- CART_READY (R144): The cartridge reaches Ready and its eight data paths are activated, so the bay's ports can
train. -/
def execCartReady (b : Fin 40) (s : State) : Host.Outcome State Fault Refusal :=
  .next (s.run (fun t => t.cartReady b.val))

/-- CART_REMOVE (R144): Removal of a cartridge takes every port of its bay down with cause CART within 50 µs. -/
def execCartRemove (b : Fin 40) (s : State) : Host.Outcome State Fault Refusal :=
  .next (s.runD (fun t => t.cartRemove b.val))

/-- CMIS_INTERRUPT (R142): A cartridge asserts IntL and the tray services its flags within 1 ms. -/
def execCmisInterrupt (b : Fin 40) (fl : CmisFlags) (s : State) : Host.Outcome State Fault Refusal :=
  .next (s.runD (fun t => t.cmisInterrupt b.val fl))

/-- CMIS_TRANSACTION (R147): Writing PORT_CMIS_CMD.GO starts a software two-wire transaction, refused for tray-owned
controls or while BUSY. -/
def execCmisTransaction (b : Fin 40) (v : Word) (s : State) : Host.Outcome State Fault Refusal :=
  .next (s.run (fun t => t.write8 0 (b.val / 8) (0x010 + 8 * (b.val % 8)) A.PORT_CMIS_CMD v))

/-- CMIS_DONE (R147): A software CMIS transaction ends with its RESULT and raises CMIS_DONE. -/
def execCmisDone (b : Fin 40) (r : CmisEnd) (s : State) : Host.Outcome State Fault Refusal :=
  .next (s.run (fun t => t.cmisDone b.val r))

/-- PRBS_LOCK (R141): In DIAG, the lane's PRBS checker gains or loses lock on the received pattern, sets
LANE_STS.PRBS_LOCK and raises the PRBS_LOCK changed interrupt. -/
def execPrbsLock (c : Fin 5) (n : Fin 256) (lock : Bool) (s : State) : Host.Outcome State Fault Refusal :=
  .next (s.run (fun t => t.prbsLock c.val n.val lock))

end Sys2Proof.Machine
end

