-- ==== Sys2Proof/Machine/ExecMgmt.lean ====
section
/-! DEFINITION. Meanings: managers, time, Redfish, log, firmware, zhctl. -/
namespace Sys2Proof.Machine

/-- HELLO (R433): The tray sends HELLO with its identity, leases and map state, every 1 s while headless. -/
def execHello (s : State) : Host.Outcome State Fault Refusal :=
  .next (s.runL (fun l t => t.helloEvent l))

/-- LEASE_REQ (R427): A LEASE_REQ is granted as PRIMARY or SECONDARY by term, or refused with STALE_TERM. -/
def execLeaseReq (m : Fin 2) (z : ZMsg) (s : State) : Host.Outcome State Fault Refusal :=
  .next (s.runLease (zgate Z.LEASE_REQ m.val z (leaseReqAct m.val z)))

/-- LEASE_RENEW (R428): A LEASE_RENEW extends the manager's lease for 2,000 ms. -/
def execLeaseRenew (m : Fin 2) (z : ZMsg) (s : State) : Host.Outcome State Fault Refusal :=
  .next (s.runLease (zgate Z.LEASE_RENEW m.val z (leaseRenewAct m.val)))

/-- LEASE_RELEASE (R440): A LEASE_RELEASE ends the manager's lease at once. -/
def execLeaseRelease (m : Fin 2) (z : ZMsg) (s : State) : Host.Outcome State Fault Refusal :=
  .next (s.runLease (zgate Z.LEASE_RELEASE m.val z (leaseReleaseAct m.val)))

/-- LEASE_LAPSE (R428): A lease not renewed within 2,000 ms lapses and the lapse is reported and logged. -/
def execLeaseLapse (m : Fin 2) (s : State) : Host.Outcome State Fault Refusal :=
  .next (s.runLease (leaseLapse m.val))

/-- IDENTITY (R430): IDENTITY gives the rack identity and cabled bitmaps and starts the placement procedure, or is
refused once set. -/
def execIdentity (m : Fin 2) (z : ZMsg) (s : State) : Host.Outcome State Fault Refusal :=
  .next (s.runLease (fromPrimary Z.IDENTITY m.val z (identityAct z)))

/-- PLANE_MAP (R431): A PLANE_MAP with a newer MAP_GEN is checked and the tray applies its own role transition,
answering MAP_ACK. -/
def execPlaneMap (m : Fin 2) (z : ZMsg) (s : State) : Host.Outcome State Fault Refusal :=
  .next (s.runLease (zgate Z.PLANE_MAP m.val z (planeMapAct m.val z)))

/-- LOG_READ (R440): LOG_READ returns event-log entries from FROM_SEQ. -/
def execLogRead (m : Fin 2) (z : ZMsg) (s : State) : Host.Outcome State Fault Refusal :=
  .next (s.runLease (fromAny Z.LOG_READ m.val z (logReadAct z)))

/-- REG_READ (R440): REG_READ returns register values from consecutive offsets of one target. -/
def execRegRead (m : Fin 2) (z : ZMsg) (s : State) : Host.Outcome State Fault Refusal :=
  .next (s.runLease (fromAny Z.REG_READ m.val z (regReadAct z)))

/-- REG_WRITE (R442): REG_WRITE writes offset and value pairs in order to each target, with errors captured as ZMP
accesses. -/
def execRegWrite (m : Fin 2) (z : ZMsg) (s : State) : Host.Outcome State Fault Refusal :=
  .next (s.runLease (fromPrimary Z.REG_WRITE m.val z (regWriteAct z)))

/-- CFG_DIGEST (R446): CFG_DIGEST returns the SHA-384 of each chip's plane-uniform registers. -/
def execCfgDigest (m : Fin 2) (z : ZMsg) (s : State) : Host.Outcome State Fault Refusal :=
  .next (s.runLease (fromAny Z.CFG_DIGEST m.val z (cfgDigestAct)))

/-- DUMP_ACK (R441): DUMP_ACK lets records acknowledged by every leased manager leave their DRAM ring. -/
def execDumpAck (m : Fin 2) (z : ZMsg) (s : State) : Host.Outcome State Fault Refusal :=
  .next (s.runLease (fromAny Z.DUMP_ACK m.val z (dumpAckAct m.val z)))

/-- WIRE_TEST (R452): WIRE_TEST starts the IDLE and LOOP phases of a wiring test on ports of a non-ACTIVE tray. -/
def execWireTest (m : Fin 2) (z : ZMsg) (s : State) : Host.Outcome State Fault Refusal :=
  .next (s.runLease (fromPrimary Z.WIRE_TEST m.val z (wireTestAct z)))

/-- WIRE_TEST_PHASE_END (R452): At the end of a test phase the lanes are judged, LOOP follows where needed, and
WIRE_RESULT is sent. -/
def execWireTestPhaseEnd (loops : List (Nat × LoopRead)) (s : State) : Host.Outcome State Fault Refusal :=
  .next (s.runD (fun t => t.wirePhaseEnd loops))

/-- LANE_STATS (R453): Every 60 s the tray judges each lane's window and sends LANE_STATS with FAIL bits. -/
def execLaneStats (s : State) : Host.Outcome State Fault Refusal :=
  .next (s.run (fun t => t.laneStats))

/-- WEAR (R441): Every 24 h, and on a forecast change, the tray sends WEAR with forecasts and spares. -/
def execWear (s : State) : Host.Outcome State Fault Refusal :=
  .next (s.run (fun t => t.wearReport))

/-- FW_BEGIN (R440): FW_BEGIN starts staging a bundle of a given length and hash. -/
def execFwBegin (m : Fin 2) (z : ZMsg) (s : State) : Host.Outcome State Fault Refusal :=
  .next (s.runLease (fromPrimary Z.FW_BEGIN m.val z (fwBeginAct z)))

/-- FW_DATA (R440): FW_DATA writes a piece of the bundle being staged. -/
def execFwData (m : Fin 2) (z : ZMsg) (s : State) : Host.Outcome State Fault Refusal :=
  .next (s.runLease (fromPrimary Z.FW_DATA m.val z (fwDataAct z)))

/-- FW_END (R457): FW_END verifies the staged bundle's signature and security versions and answers OK or FAILED. -/
def execFwEnd (m : Fin 2) (z : ZMsg) (b : BundleInfo) (s : State) : Host.Outcome State Fault Refusal :=
  .next (s.runLease (fromPrimary Z.FW_END m.val z (fwEndAct b)))

/-- FW_ACTIVATE (R461): FW_ACTIVATE switches the named components, refused for microcode or cartridge firmware on an
ACTIVE tray. -/
def execFwActivate (m : Fin 2) (z : ZMsg) (s : State) : Host.Outcome State Fault Refusal :=
  .next (s.runLease (fromPrimary Z.FW_ACTIVATE m.val z (fwActivateAct z)))

/-- SPDM (R444): An SPDM request carried in ZMP is answered by the tray as SPDM responder. -/
def execSpdm (m : Fin 2) (z : ZMsg) (req : SpdmReq) (peerOk : Bool) (s : State) : Host.Outcome State Fault Refusal :=
  .next (s.runLease (zgate Z.SPDM m.val z (spdmAct m.val z req peerOk)))

/-- ZMP_RESEND (R438): A tray message needing acknowledgement is resent unchanged after 5 ms without response, at most
three times. -/
def execZmpResend (m : Fin 2) (seq : BitVec 32) (s : State) : Host.Outcome State Fault Refusal :=
  .next (s.run (fun t => t.zmpResend m.val seq.toNat))

/-- PTP_SYNC (R434): An accepted IEEE 1588 Sync disciplines the time master, stepping it once at first lock or slewing
it on relock. -/
def execPtpSync (m : Fin 2) (gm : Word) (s : State) : Host.Outcome State Fault Refusal :=
  .next (s.run (fun t => t.ptpSync m.val gm.toNat))

/-- PTP_HOLDOVER (R435): No Sync on either port for 2 s puts the time master in HOLDOVER. -/
def execPtpHoldover (s : State) : Host.Outcome State Fault Refusal :=
  .next (s.run (fun t => t.ptpHoldover))

/-- TIME_LOCK_TIMEOUT (R436): 30 s after the rack identity without lock, the chips are released on free-running time
with TIME_FAULT. -/
def execTimeLockTimeout (s : State) : Host.Outcome State Fault Refusal :=
  .next (s.run (fun t => t.timeLockTimeout))

/-- REDFISH_REQUEST (R443): A Redfish request on a supported resource is served, or answered 404 or 405. -/
def execRedfishRequest (res : RfResource) (meth : RfMethod) (readOnly : Bool)
    (s : State) : Host.Outcome State Fault Refusal :=
  .next (s.runL (fun l t => t.redfish l res meth readOnly))

/-- LOG_ENTRY_WRITE (R455): An event-log entry is written to FRAM, read back, copied to the last-gasp ring and sent to
the managers. -/
def execLogEntryWrite (r : FramResult) (s : State) : Host.Outcome State Fault Refusal :=
  .next (s.run (fun t => t.logEntryWrite r))

/-- HALVOREN_BOOT (R458): The boot ROM verifies and measures the selected image, falling back to the other, and runs
the compatibility decision. -/
def execHalvorenBoot (a b : ImageInfo) (d : CompatInfo) (hkf : Option (BitVec 5 × BitVec 5 × BitVec 5))
    (s : State) : Host.Outcome State Fault Refusal :=
  .next (s.runL (fun l t => t.halvorenBoot l a b d hkf))

/-- IMAGE_CONFIRM (R458): A trial image is confirmed once a manager holds a lease and service is FULL. -/
def execImageConfirm (s : State) : Host.Outcome State Fault Refusal :=
  .next (s.runL (fun l t => t.imageConfirm l))

/-- TRIAL_TIMEOUT (R458): A trial image not confirmed within 10 min is marked so that the next HALVOREN reset falls
back. -/
def execTrialTimeout (s : State) : Host.Outcome State Fault Refusal :=
  .next (s.run (fun t => t.trialTimeout))

/-- ZHCTL_STATUS (R462): The console command status shows HELLO contents, leases, map, time and alarms. -/
def execZhctlStatus (s : State) : Host.Outcome State Fault Refusal :=
  .next (s.runL (fun l t => t.zhStatus l))

/-- ZHCTL_LOG (R462): The console command log shows event-log entries. -/
def execZhctlLog (fromSeq : BitVec 32) (s : State) : Host.Outcome State Fault Refusal :=
  .next (s.run (fun t => t.zhLog fromSeq.toNat))

/-- ZHCTL_PORTS (R462): The console command ports shows port states, causes and FOM. -/
def execZhctlPorts (c : Option (Fin 5)) (s : State) : Host.Outcome State Fault Refusal :=
  .next (s.run (fun t => t.zhPorts (c.map (fun c => c.val))))

/-- ZHCTL_REG_READ (R462): The console command reg read reads registers with SERVICE access. -/
def execZhctlRegRead (target : Fin 6) (off : Word) (count : Nat) (s : State) : Host.Outcome State Fault Refusal :=
  .next (s.runL (fun l t => t.zhRegRead l target.val off.toNat count))

/-- ZHCTL_WIRE_TEST (R462): The console command wire-test starts a wiring test with SERVICE access on a non-ACTIVE
tray. -/
def execZhctlWireTest (ports : List Word) (duration : Nat) (phases fomMin : BitVec 8)
    (s : State) : Host.Outcome State Fault Refusal :=
  .next (s.runD (fun t => t.zhWireTest (ports.map (fun w => w.toNat)) duration phases.toNat fomMin.toNat))

/-- ZHCTL_FW_ACTIVATE (R462): The console command fw activate activates a staged bundle with SERVICE access. -/
def execZhctlFwActivate (comps : BitVec 32) (s : State) : Host.Outcome State Fault Refusal :=
  .next (s.run (fun t => t.zhActivate comps.toNat))

/-- ZHCTL_RESET (R462): The console command reset requests an HK_RESET type with SERVICE access, or records
RESET_REFUSED. -/
def execZhctlReset (type chip : BitVec 3) (s : State) : Host.Outcome State Fault Refusal :=
  .next (s.run (fun t => t.zhReset type.toNat chip.toNat))

/-- ZHCTL_LABEL_REPAINT (R462): The console command label repaint requests a full label update. -/
def execZhctlLabelRepaint (s : State) : Host.Outcome State Fault Refusal :=
  .next (s.run (fun t => t.zhRepaint))

/-- ZHCTL_LOGIN (R462): The console command login service raises console access to SERVICE with the tray's credential.
-/
def execZhctlLogin (ok : Bool) (s : State) : Host.Outcome State Fault Refusal :=
  .next (s.run (fun t => t.zhLogin ok))

end Sys2Proof.Machine
end

