-- ==== Sys2Proof/Machine/ExecPower.lean ====
section
/-! DEFINITION. Meanings: power, temperature, coolant, start-up, resets, panel, console receiver. -/
namespace Sys2Proof.Machine

/-- VIN_OV_TRIP (R392): V_IN above 57 V for 100 µs disconnects the input stage without a quiesce. -/
def execVinOvTrip (s : State) : Host.Outcome State Fault Refusal :=
  .next (s.run (fun t => t.vinOvTrip))

/-- VIN_UV_WARN (R392): V_IN between 44 and 48 V sets CAP_INPUT to 900 MHz. -/
def execVinUvWarn (v : BitVec 16) (s : State) : Host.Outcome State Fault Refusal :=
  .next (s.run (fun t => t.vinUvWarn v.toNat))

/-- VIN_UV_TRIP (R392): V_IN below 44 V for 200 µs quiesces all chips and switches off the Phobel and Halvoren rails.
-/
def execVinUvTrip (v : BitVec 16) (s : State) : Host.Outcome State Fault Refusal :=
  .next (s.run (fun t => t.vinUvTrip v.toNat))

/-- VIN_BROWNOUT (R455): V_IN falling below 36 V makes the housekeeper copy unlogged entries to the gasp area and
stop. -/
def execVinBrownout (s : State) : Host.Outcome State Fault Refusal :=
  .next (s.run (fun t => t.vinBrownout))

/-- VIN_RESTORE (R393): After UV_TRIP, V_IN at 48 V or more for 1 s restarts the cold-start sequence. -/
def execVinRestore (v : BitVec 16) (s : State) : Host.Outcome State Fault Refusal :=
  .next (s.run (fun t => t.vinRestore v.toNat))

/-- PHASE_FAIL (R396): A rail controller declares a phase failed, switches it off, shares its load and asserts
VR_ALERT for DEAL. -/
def execPhaseFail (c : Fin 5) (r : Fin 4) (i : Fin 16) (s : State) : Host.Outcome State Fault Refusal :=
  .next (s.run (fun t => t.phaseFail c.val r.val i.val))

/-- SENSE_UNTRUSTED (R397): A phase current sense out of range or out of line for 1 ms is marked untrusted and the
phase runs at a fixed share. -/
def execSenseUntrusted (c : Fin 5) (r : Fin 4) (i : Fin 16) (s : State) : Host.Outcome State Fault Refusal :=
  .next (s.run (fun t => t.senseUntrusted c.val r.val i.val))

/-- RAIL_OVERCURRENT (R397): A rail whose overcurrent sum stays above its limit for 20 µs is switched off and the chip
is handled as under R400. -/
def execRailOvercurrent (c : Fin 5) (r : Fin 4) (s : State) : Host.Outcome State Fault Refusal :=
  .next (s.run (fun t => t.railOvercurrent c.val r.val))

/-- CAP_PWR_SET (R399): Within 5 ms the housekeeper identifies the rail failure over PMBus and sets CAP_PWR. -/
def execCapPwrSet (c : Fin 5) (s : State) : Host.Outcome State Fault Refusal :=
  .next (s.run (fun t => t.capPwrSet c.val))

/-- THERMAL_CAP_STEP (R402): Every 10 ms above 95 °C CAP_THERM falls 25 MHz, and every 100 ms below 92 °C it rises 25
MHz. -/
def execThermalCapStep (c : Fin 5) (tj : BitVec 8) (s : State) : Host.Outcome State Fault Refusal :=
  .next (s.run (fun t => t.thermalCapStep c.val tj.toNat))

/-- DIE_OVERTEMP (R402): At 105 °C the cap drops to 600 MHz at once, and at 110 °C for 1 ms the chip is quiesced and
powered down. -/
def execDieOvertemp (c : Fin 5) (tj : BitVec 8) (ms1 : Bool) (s : State) : Host.Outcome State Fault Refusal :=
  .next (s.run (fun t => t.dieOvertemp c.val tj.toNat ms1))

/-- THERMAL_TRIP (R402): At 115 °C the Phobel's own trip switches off its rails within 100 µs without a quiesce. -/
def execThermalTrip (c : Fin 5) (s : State) : Host.Outcome State Fault Refusal :=
  .next (s.run (fun t => t.thermalTrip c.val))

/-- HBM_OVERTEMP (R403): HBM at 85 °C doubles refresh, and at 95 °C for 10 ms powers the chip down. -/
def execHbmOvertemp (c : Fin 5) (k : Fin 2) (t : BitVec 8) (ms10 : Bool)
    (s : State) : Host.Outcome State Fault Refusal :=
  .next (s.run (fun x => x.hbmOvertemp c.val k.val t.toNat ms10))

/-- COOLANT_READ (R404): Every 100 ms the coolant supply temperature and flow are judged, setting CAP_COOL or powering
the chips down. -/
def execCoolantRead (supply ret : BitVec 12) (flow : BitVec 16) (s : State) : Host.Outcome State Fault Refusal :=
  .next (s.run (fun t => t.coolantRead supply.toNat ret.toNat flow.toNat))

/-- LEAK (R404): A wet leak sensor powers all chips down within 1 s and raises LEAK. -/
def execLeak (s : State) : Host.Outcome State Fault Refusal :=
  .next (s.run (fun t => t.leak))

/-- PUMP_FAIL (R404): A failed pump runs the other at full speed and raises PUMP. -/
def execPumpFail (p : Fin 2) (s : State) : Host.Outcome State Fault Refusal :=
  .next (s.run (fun t => t.pumpFail p.val))

/-- COOLING_RECOVERY (R404): Chips powered down by a coolant or air condition power up again once it has cleared for
60 s. -/
def execCoolingRecovery (operator : Bool) (s : State) : Host.Outcome State Fault Refusal :=
  .next (s.run (fun t => t.coolingRecovery operator))

/-- FAN_FAIL (R405): A failed fan runs the others at full speed and raises FAN. -/
def execFanFail (f : Fin 6) (s : State) : Host.Outcome State Fault Refusal :=
  .next (s.run (fun t => t.fanFail f.val))

/-- CART_OVERTEMP (R405): A cartridge high-temperature alarm puts it in LowPwr and takes its bay's ports down with
cause CART. -/
def execCartOvertemp (b : Fin 40) (s : State) : Host.Outcome State Fault Refusal :=
  .next (s.runD (fun t => t.cartOvertemp b.val))

/-- AIR_READ (R406): Every 100 ms inlet air, fan speeds and airflow are judged, raising alarms or powering the chips
down. -/
def execAirRead (inlet airflow : BitVec 12) (s : State) : Host.Outcome State Fault Refusal :=
  .next (s.run (fun t => t.airRead inlet.toNat airflow.toNat))

/-- CHIP_POWER_UP (R409): The housekeeper ramps a chip's rails in order, each within 5 ms of its enable. -/
def execChipPowerUp (c : Fin 5) (bad : Word) (s : State) : Host.Outcome State Fault Refusal :=
  .next (s.run (fun t => t.chipPowerUp c.val bad))

/-- RAIL_PG_TIMEOUT (R409): A rail that misses power-good within 5 ms is switched off and retried once, then the chip
is left off. -/
def execRailPgTimeout (c : Fin 5) (r : Fin 4) (s : State) : Host.Outcome State Fault Refusal :=
  .next (s.run (fun t => t.railPgTimeout c.val r.val))

/-- PCIE_RELEASE (R410): After its rails are up the chip's PCIe endpoint leaves reset and the link trains. -/
def execPcieRelease (c : Fin 5) (s : State) : Host.Outcome State Fault Refusal :=
  .next (s.run (fun t => t.pcieRelease c.val))

/-- HBM_TRAINING_DONE (R475): HBM training ends READY or FAILED; a failed stack keeps its chip from core release. -/
def execHbmTrainingDone (c : Fin 5) (k : Fin 2) (ok : Bool) (s : State) : Host.Outcome State Fault Refusal :=
  .next (s.run (fun t => t.hbmTrainingDone c.val k.val ok))

/-- CORE_RELEASE (R410): Halvoren firmware releases the chip's core reset, which starts the Dealer clock change and
the blocks whose ENABLE is 1. -/
def execCoreRelease (c : Fin 5) (s : State) : Host.Outcome State Fault Refusal :=
  .next (s.run (fun t => t.coreRelease c.val))

/-- FABRIC_READY (R411): With every chip released and every cabled port UP or HELD, FABRIC_READY is set and both
managers are told. -/
def execFabricReady (s : State) : Host.Outcome State Fault Refusal :=
  .next (s.runL (fun l t => t.fabricReady l))

/-- POWER_ON_RESET (R412): Applying V_IN clears everything and starts the cold-start sequence, reading the slot
coding. -/
def execPowerOnReset (v : BitVec 16) (r0 r1 r2 : BitVec 5) (framOk : Bool)
    (s : State) : Host.Outcome State Fault Refusal :=
  .next (s.run (fun t => t.powerOn v.toNat r0 r1 r2 framOk))

/-- HK_RESET (R412): An HK reset clears the housekeeper and its pages, re-reads the slot and repaints the label. -/
def execHkReset (r0 r1 r2 : BitVec 5) (s : State) : Host.Outcome State Fault Refusal :=
  .next (s.run (fun t => t.hkReset r0 r1 r2))

/-- TRAY_RESET (R412): A TRAY reset resets the Halvoren and all five Phobels. -/
def execTrayReset (s : State) : Host.Outcome State Fault Refusal :=
  .next (s.run (fun t => t.trayReset))

/-- HALVOREN_RESET (R412): A HALVOREN reset clears the Halvoren cores, CK_CTRL pages and DRAM while the Phobels keep
forwarding. -/
def execHalvorenReset (s : State) : Host.Outcome State Fault Refusal :=
  .next (s.run (fun t => t.halvorenReset))

/-- CHIP_RESET (R412): A CHIP reset restores every register of one Phobel and clears its memories and counters under a
new BOOT. -/
def execChipReset (c : Fin 5) (s : State) : Host.Outcome State Fault Refusal :=
  .next (s.run (fun t => t.chipReset c.val))

/-- CHIP_POWER_RESET (R412): A CHIP_POWER reset is a CHIP reset with a power-down and power-up and the phase test. -/
def execChipPowerReset (c : Fin 5) (bad : Word) (s : State) : Host.Outcome State Fault Refusal :=
  .next (s.run (fun t => t.chipPowerReset c.val bad))

/-- HK_WATCHDOG (R412): The 2 s housekeeper watchdog expires and causes an HK reset. -/
def execHkWatchdog (r0 r1 r2 : BitVec 5) (s : State) : Host.Outcome State Fault Refusal :=
  .next (s.run (fun t => t.hkReset r0 r1 r2))

/-- HALVOREN_WATCHDOG (R412): The 10 s Halvoren watchdog expires and causes a HALVOREN reset. -/
def execHalvorenWatchdog (s : State) : Host.Outcome State Fault Refusal :=
  .next (s.run (fun t => t.halvorenWatchdog))

/-- LOCATE_TIMEOUT (R414): Locate mode ends by itself after 4 h. -/
def execLocateTimeout (s : State) : Host.Outcome State Fault Refusal :=
  .next (s.run (fun t => t.locateTimeout))

/-- LABEL_UPDATE (R416): The housekeeper repaints the label through its dirty marker, content, code and end bars. -/
def execLabelUpdate (s : State) : Host.Outcome State Fault Refusal :=
  .next (s.run (fun t => t.labelUpdate))

/-- LABEL_DONE (R416): The label's end bars are drawn, the dirty marker clears and LABEL_DONE is raised. -/
def execLabelDone (s : State) : Host.Outcome State Fault Refusal :=
  .next (s.run (fun t => t.labelDone))

/-- KEY_BASELINE (R418): The first 500 ms window of stable readings sets the key's baseline. -/
def execKeyBaseline (mean : BitVec 16) (s : State) : Host.Outcome State Fault Refusal :=
  .next (s.run (fun t => t.keyBaseline mean.toNat))

/-- KEY_FAULT (R418): No baseline within 60 s puts the key in FAULT and the attempt repeats every 60 s. -/
def execKeyFault (s : State) : Host.Outcome State Fault Refusal :=
  .next (s.run (fun t => t.keyFault))

/-- TOUCH_BEGIN (R419): A reading TOUCH_DELTA above the baseline for 50 ms begins a touch. -/
def execTouchBegin (raw : BitVec 16) (s : State) : Host.Outcome State Fault Refusal :=
  .next (s.run (fun t => t.touchBegin raw.toNat))

/-- TOUCH_END (R421): The end of a touch toggles locate mode or raises a service request, by its duration. -/
def execTouchEnd (raw : BitVec 16) (ms : Nat) (s : State) : Host.Outcome State Fault Refusal :=
  .next (s.run (fun t => t.touchEnd raw.toNat ms))

/-- KEY_BASELINE_RETAKE (R419): A reading below the baseline by TOUCH_DELTA / 2 for 100 ms retakes the baseline. -/
def execKeyBaselineRetake (raw : BitVec 16) (s : State) : Host.Outcome State Fault Refusal :=
  .next (s.run (fun t => t.keyRetake raw.toNat))

/-- KEY_STUCK (R420): A touch held over 20 s is stuck: the baseline is retaken, the event counted and reported, and no
action taken. -/
def execKeyStuck (raw : BitVec 16) (s : State) : Host.Outcome State Fault Refusal :=
  .next (s.run (fun t => t.keyStuck raw.toNat))

/-- CONSOLE_RX_BYTE (R422): The console receiver takes a byte into its FIFO, or discards it on a framing error or
overrun. -/
def execConsoleRxByte (b : Byte) (stopOk : Bool) (s : State) : Host.Outcome State Fault Refusal :=
  .next (s.run (fun t => t.consoleByte b stopOk))

/-- CONSOLE_BREAK (R422): A line held low for 20 bit times counts once as a break. -/
def execConsoleBreak (s : State) : Host.Outcome State Fault Refusal :=
  .next (s.run (fun t => t.consoleBreak))

/-- VIN_UV_WARN_CLEAR (R407): V_IN returning to 48 V or above leaves UV_WARN, and CAP_INPUT returns to 1,250 MHz. -/
def execVinUvWarnClear (v : BitVec 16) (s : State) : Host.Outcome State Fault Refusal :=
  .next (s.run (fun t => t.vinUvWarnClear v.toNat))

/-- CART_OVERTEMP_CLEAR (R405): A cartridge's high-temperature alarm clears, and its bay restarts under R144. -/
def execCartOvertempClear (b : Fin 40) (s : State) : Host.Outcome State Fault Refusal :=
  .next (s.run (fun t => t.cartOvertempClear b.val))

end Sys2Proof.Machine
end

