-- ==== Sys2Proof/Machine/ExecRegs.lean ====
section
/-! DEFINITION. Meanings: register accesses, staging, aborts, clocks. -/
namespace Sys2Proof.Machine

/-- REGISTER_WRITE (R77): An 8-byte write to the active offset of a register that has no row of its own sets its RW
fields, and clears W1C bits or sets W1S bits as written. -/
def execRegisterWrite (sp : Fin 6) (page off : BitVec 12) (v : Word) (s : State) : Host.Outcome State Fault Refusal :=
  .next (s.run (fun t => t.write8 0 sp.val page.toNat off.toNat v))

/-- SHADOW_WRITE (R78): A write to a shadow offset sets the shadows of the register's RWS fields, or is refused with
SHADOW_LOCKED while a COMMIT is pending. -/
def execShadowWrite (sp : Fin 6) (page off : BitVec 12) (v : Word) (s : State) : Host.Outcome State Fault Refusal :=
  .next (s.run (fun t => if off.toNat < 0x800 then t else t.write8 0 sp.val page.toNat off.toNat v))

/-- UNSUPPORTED_REQUEST (R76): An access that is not an aligned 8-byte access gets an Unsupported Request completion
or AER report, changes no state and records WIDTH or ALIGN. -/
def execUnsupportedRequest (sp : Fin 6) (page off : BitVec 12) (width : Nat) (isWrite : Bool)
    (s : State) : Host.Outcome State Fault Refusal :=
  .next (s.run (fun t => t.badAccess sp.val page.toNat off.toNat width isWrite))

/-- UNIMPLEMENTED_PAGE_ACCESS (R71): An access to an unimplemented Phobel page is an unsupported request and is
recorded in no PG_ERR_CAPT; on the Halvoren it raises a bus-error exception. -/
def execUnimplementedPageAccess (sp : Fin 6) (page off : BitVec 12) (isWrite : Bool)
    (s : State) : Host.Outcome State Fault Refusal :=
  .next (s.run (fun t => t.noPage sp.val page.toNat off.toNat isWrite))

/-- REGISTER_READ_CLEAR (R81): A read that reaches the Phobel returns the RC fields of the register and clears them.
-/
def execRegisterReadClear (sp : Fin 6) (page off : BitVec 12) (s : State) : Host.Outcome State Fault Refusal :=
  .next (s.runL (fun l t => t.registerRead l sp.val page.toNat off.toNat))

/-- BAR2_ACCESS (R480): A read or write of the MSI-X table or pending-bit array in BAR2 follows the PCIe MSI-X rules,
including unmasking a vector. -/
def execBar2Access (c : Fin 5) (off : BitVec 12) (width : Nat) (isWrite : Bool) (v : Word)
    (s : State) : Host.Outcome State Fault Refusal :=
  .next (s.run (fun t => t.bar2Access c.val off.toNat width isWrite v))

/-- MSIX_MESSAGE (R100): A 0 to 1 transition of a PG_IRQ_STS bit sends one MSI-X message on its vector within 500 ns,
or sets the pending bit while the vector is masked. -/
def execMsixMessage (c : Fin 5) (vec : Fin 16) (s : State) : Host.Outcome State Fault Refusal :=
  .next (s.run (fun t => t.msixMessage c.val vec.val))

/-- DOMAIN_DOWN (R68): An access to a register whose domain PLL is unlocked ends in Completer Abort within 2 µs,
changes no state and records DOMAIN_DOWN. -/
def execDomainDown (c : Fin 5) (page off : BitVec 12) (isWrite : Bool)
    (s : State) : Host.Outcome State Fault Refusal :=
  .next (s.run (fun t => t.downAccess c.val page.toNat off.toNat isWrite))

/-- CROSS_PARITY (R69): A parity error in a dual-clock FIFO entry discards that entry: a register write is lost, or a
packet or contribution is dropped. -/
def execCrossParity (c : Fin 5) (e : CrossEntry) (s : State) : Host.Outcome State Fault Refusal :=
  .next (s.runC c.val (fun t => t.crossParity c.val e))

/-- PG_CTL_ENABLE_WRITE (R85): A write to PG_CTL.ENABLE starts or stops the block accepting work; clearing it on an
abortable page starts the abort, and setting it on page 0x000 ends a whole-chip quiesce. -/
def execPgCtlEnableWrite (sp : Fin 6) (page : BitVec 12) (v : Word) (s : State) : Host.Outcome State Fault Refusal :=
  .next (s.run (fun t => t.write8 0 sp.val page.toNat A.PG_CTL v))

/-- COMMIT (R91): Writing PG_COMMIT.GO sets PENDING and freezes the shadows until the block's safe point. -/
def execCommit (sp : Fin 6) (page : BitVec 12) (s : State) : Host.Outcome State Fault Refusal :=
  .next (s.run (fun t => t.write8 0 sp.val page.toNat A.PG_COMMIT (F.PG_COMMIT_GO.put 0 1)))

/-- COMMIT_SAFE_POINT (R91): At the block's safe point every staged field takes its shadow value in one cycle, with
the profile derivation; DONE is then set and COMMIT_DONE is raised. -/
def execCommitSafePoint (sp : Fin 6) (page : BitVec 12) (s : State) : Host.Outcome State Fault Refusal :=
  .next (s.runD (fun t => t.commitSafePoint (sp.val * 4096 + page.toNat)))

/-- COMMIT_TIMEOUT (R94): A safe point that does not occur within its bound refuses the COMMIT and records
COMMIT_TIMEOUT. -/
def execCommitTimeout (sp : Fin 6) (page : BitVec 12) (s : State) : Host.Outcome State Fault Refusal :=
  .next (s.run (fun t => t.commitTimeout (sp.val * 4096 + page.toNat)))

/-- REDERIVE (R89): In basic mode a changed measured input re-derives the expert fields at the next safe point and
increments DERIVE_COUNT. -/
def execRederive (sp : Fin 6) (page : BitVec 12) (s : State) : Host.Outcome State Fault Refusal :=
  .next (s.run (fun t => t.rederive (sp.val * 4096 + page.toNat)))

/-- DUMP_ABORT (R382): PG_ABORT of page 0x340 stops the record being sent within 2 µs and advances the epoch; the
snapshot becomes a gap with cause ABORT. -/
def execDumpAbort (c : Fin 5) (s : State) : Host.Outcome State Fault Refusal :=
  .next (s.run (fun t => t.write8 0 c.val (0x340) A.PG_ABORT (F.PG_ABORT_GO.put 0 1)))

/-- CIRCUIT_ABORT_ALL (R185): PG_ABORT of page 0x3C0 tears down every circuit within 5 µs and drains the circuit
staging through the scheduler. -/
def execCircuitAbortAll (c : Fin 5) (s : State) : Host.Outcome State Fault Refusal :=
  .next (s.run (fun t => t.write8 0 c.val (0x3C0) A.PG_ABORT (F.PG_ABORT_GO.put 0 1)))

/-- DEALER_ABORT_ALL (R359): PG_ABORT of page 0x300 aborts every job slot within 10 µs. -/
def execDealerAbortAll (c : Fin 5) (s : State) : Host.Outcome State Fault Refusal :=
  .next (s.run (fun t => t.write8 0 c.val (0x300) A.PG_ABORT (F.PG_ABORT_GO.put 0 1)))

/-- TABLE_ABORT (R264): A table abort retires the held commands, frees all work in flight, issues TABLE_EVENT records
and resets OP_NEXT and the counters within 20 µs. -/
def execTableAbort (c : Fin 5) (tb : Fin 256) (s : State) : Host.Outcome State Fault Refusal :=
  .next (s.run (fun t => t.write8 0 c.val (0x200 + tb.val) A.PG_ABORT (F.PG_ABORT_GO.put 0 1)))

/-- SPILL_ABORT (R103): PG_ABORT of an HBM controller page aborts every spill stream of that stack within 30 µs. -/
def execSpillAbort (c : Fin 5) (k : Fin 2) (s : State) : Host.Outcome State Fault Refusal :=
  .next (s.run (fun t => t.write8 0 c.val (0x320 + 2 * k.val) A.PG_ABORT (F.PG_ABORT_GO.put 0 1)))

/-- PORT_ABORT (R122): A port abort takes the port out of UP, FLOOD_HOLD or RETRAIN, advances its epoch, flushes its
queues and frees its resources within 50 µs. -/
def execPortAbort (c : Fin 5) (e : Fin 64) (s : State) : Host.Outcome State Fault Refusal :=
  .next (s.run (fun t => t.write8 0 c.val (0x010 + e.val) A.PG_ABORT (F.PG_ABORT_GO.put 0 1)))

/-- WHOLE_CHIP_QUIESCE (R109): A whole-chip quiesce aborts every function, holds XOFF on every port and clears ENABLE
of page 0x000. -/
def execWholeChipQuiesce (c : Fin 5) (s : State) : Host.Outcome State Fault Refusal :=
  .next (s.run (fun t => t.write8 0 c.val (0x000) A.PG_ABORT (F.PG_ABORT_GO.put 0 1)))

/-- NO_FUNCTION (R102): PG_ABORT written on a page without an abortable function changes nothing and records
NO_FUNCTION. -/
def execNoFunction (sp : Fin 6) (page : BitVec 12) (s : State) : Host.Outcome State Fault Refusal :=
  .next (s.run (fun t => t.write8 0 sp.val page.toNat A.PG_ABORT (F.PG_ABORT_GO.put 0 1)))

/-- ABORT_DONE (R104): When an abort completes, the function holds no work and no resources, DONE is set and
ABORT_DONE is raised; a pending COMMIT swaps or is refused at that instant. -/
def execAbortDone (sp : Fin 6) (page : BitVec 12) (us : Nat) (s : State) : Host.Outcome State Fault Refusal :=
  .next (s.runD (fun t => t.abortEnds (sp.val * 4096 + page.toNat) us))

/-- ITEM_AGE_EXPIRY (R108): An epoch-carrying item held 5 ms in the tray is discarded and counted as stale. -/
def execItemAgeExpiry (c : Fin 5) (it : AgedItem) (s : State) : Host.Outcome State Fault Refusal :=
  .next (s.runC c.val (fun t => t.itemAge c.val it))

/-- CHIP_TOPO_WRITE (R27): A write to CHIP_TOPO sets ROLE, RACK_ID and TOPO_VALID; once TOPO_VALID is set, RACK_ID and
TOPO_VALID are locked. -/
def execChipTopoWrite (c : Fin 5) (v : Word) (s : State) : Host.Outcome State Fault Refusal :=
  .next (s.run (fun t => t.write8 0 c.val 0x000 A.CHIP_TOPO v))

/-- DEAL_CLK_REQUEST (R59): A write of CHIP_DEAL_CLK.REQ_MHZ changes the effective Dealer clock target, which the
controller takes within the crossing bound. -/
def execDealClkRequest (c : Fin 5) (v : Word) (s : State) : Host.Outcome State Fault Refusal :=
  .next (s.run (fun t => t.write8 0 c.val 0x000 A.CHIP_DEAL_CLK v))

/-- DEAL_CLK_CHANGE_DONE (R62): The standby PLL locks, the Dealer pauses at an instruction boundary, the clock
switches glitch-free and CUR_MHZ reaches the target. -/
def execDealClkChangeDone (c : Fin 5) (s : State) : Host.Outcome State Fault Refusal :=
  .next (s.run (fun t => t.dealDone c.val))

/-- DEAL_CAP_CHANGE (R64): A new CAP_MHZ below CUR_MHZ moves CK_DEAL to the floor PLL within 1 µs and then to the
capped target. -/
def execDealCapChange (c : Fin 5) (cap : Nat) (s : State) : Host.Outcome State Fault Refusal :=
  .next (s.run (fun t => t.dealCap c.val cap))

/-- SCRUB_REENABLE (R61): A scrub disabled through CHIP_BG_CTL re-enables itself PAUSE_S seconds after its COMMIT and
writes an event-log entry. -/
def execScrubReenable (c : Fin 5) (which : Fin 3) (s : State) : Host.Outcome State Fault Refusal :=
  .next (s.run (fun t => t.scrubReenable c.val which.val))

/-- REF_LOSS (R67): Loss of the tray reference makes the chip quiesce within 200 µs, with XOFF sent to every partner.
-/
def execRefLoss (c : Fin 5) (s : State) : Host.Outcome State Fault Refusal :=
  .next (s.runC c.val (fun t => t.refLoss c.val))

/-- CORE_PLL_UNLOCK (R67): The core PLL unlocks: the ports send XOFF, the switch core is held in reset and its
contents are lost. -/
def execCorePllUnlock (c : Fin 5) (s : State) : Host.Outcome State Fault Refusal :=
  .next (s.runC c.val (fun t => t.coreUnlock c.val))

/-- CORE_PLL_RELOCK (R67): The core PLL locks again and the switch core leaves reset. -/
def execCorePllRelock (c : Fin 5) (s : State) : Host.Outcome State Fault Refusal :=
  .next (s.run (fun t => t.coreRelock c.val))

/-- DEALER_PLL_UNLOCK (R67): A Dealer PLL unlocks and CK_DEAL moves to the floor PLL within 1 µs. -/
def execDealerPllUnlock (c : Fin 5) (s : State) : Host.Outcome State Fault Refusal :=
  .next (s.run (fun t => t.dealerUnlock c.val))

/-- ALL_DEALER_PLLS_UNLOCK (R67): The floor PLL and both Dealer PLLs unlock: every job aborts within 10 µs and every
table within 20 µs. -/
def execAllDealerPllsUnlock (c : Fin 5) (s : State) : Host.Outcome State Fault Refusal :=
  .next (s.runC c.val (fun t => t.allDealerUnlock c.val))

/-- HBM_PLL_UNLOCK (R67): An HBM PLL unlocks and the spill streams of that stack abort within 30 µs, with the jobs
that use them. -/
def execHbmPllUnlock (c : Fin 5) (k : Fin 2) (s : State) : Host.Outcome State Fault Refusal :=
  .next (s.runC c.val (fun t => t.hbmUnlock c.val k.val))

/-- TX_PLL_UNLOCK (R67): The TX PLL of a quad unlocks and its port goes down by port abort with cause TX_PLL. -/
def execTxPllUnlock (c : Fin 5) (q : Fin 64) (s : State) : Host.Outcome State Fault Refusal :=
  .next (s.runC c.val (fun t => t.txUnlock c.val q.val))

/-- PCIE_LINK_DOWN (R67): The PCIe PLL unlocks or the link goes down; forwarding and dumps continue and requests go
unanswered. -/
def execPcieLinkDown (c : Fin 5) (s : State) : Host.Outcome State Fault Refusal :=
  .next (s.run (fun t => t.pcieDown c.val))

/-- DISCIPLINE_LOSS (R57): The chip loses time discipline: TIME_LOCKED goes to 0 and CK_TIME runs freely from the tray
reference. -/
def execDisciplineLoss (c : Fin 5) (s : State) : Host.Outcome State Fault Refusal :=
  .next (s.run (fun t => t.timeLoss c.val))

/-- DISCIPLINE_REGAIN (R56): CK_TIME comes back within ±4 ns of the time master and TIME_LOCKED returns to 1. -/
def execDisciplineRegain (c : Fin 5) (time : Word) (s : State) : Host.Outcome State Fault Refusal :=
  .next (s.run (fun t => t.timeRegain c.val time.toNat))

/-- TX_PLL_RECAL (R131): A TX PLL recalibration after a 10 K temperature change fills the quad's ports with idle flits
for at most 1 µs. -/
def execTxPllRecal (c : Fin 5) (q : Fin 64) (s : State) : Host.Outcome State Fault Refusal :=
  .next (s.run (fun t => t.txRecal c.val q.val))

/-- PCIE_LINK_RETRAINED (R67): The Halvoren retrains a PCIe link that was down, and the Phobel's registers are
reachable again with the BAR2 table kept. -/
def execPcieLinkRetrained (c : Fin 5) (s : State) : Host.Outcome State Fault Refusal :=
  .next (s.run (fun t => t.pcieRetrained c.val))

end Sys2Proof.Machine
end

