-- ==== Sys2Proof/Machine/ExecTables.lean ====
section
/-! DEFINITION. Meanings: tables, queues, commands, tricks, snap path. -/
namespace Sys2Proof.Machine

/-- CMD_SLOT_WRITE (R235): A CMD packet writes commands into window slots and may ring the doorbell, or is rejected as
BAD_WIN or SLOT_HELD. -/
def execCmdSlotWrite (c : Fin 5) (e : Fin 64) (p : Pkt) (s : State) : Host.Outcome State Fault Refusal :=
  .next (s.runC c.val (fun t => t.arriveAs c.val e.val p (fun h => hPtype h == P.CMD && !ctlForm h)))

/-- DOORBELL (R238): A write of PI to DOORBELL makes the written slots held, or is answered BAD_PI or BUSY. -/
def execDoorbell (c : Fin 5) (e : Fin 64) (p : Pkt) (s : State) : Host.Outcome State Fault Refusal :=
  .next (s.runC c.val (fun t => t.arriveAs c.val e.val p (fun h => hPtype h == P.CMD && ctlForm h && hAddr h == 0xC00)))

/-- CQ_BASE_WRITE (R254): A control write sets the member's CQ_BASE, or is answered BAD_CQ while the CQ is in use. -/
def execCqBaseWrite (c : Fin 5) (e : Fin 64) (p : Pkt) (s : State) : Host.Outcome State Fault Refusal :=
  .next (s.runC c.val (fun t => t.arriveAs c.val e.val p (fun h => hPtype h == P.CMD && ctlForm h && hAddr h == 0xC08)))

/-- CQ_CFG_WRITE (R254): A control write of CQ_CFG sets the CQ size and enables it, issuing a TABLE_EVENT OK with the
epoch. -/
def execCqCfgWrite (c : Fin 5) (e : Fin 64) (p : Pkt) (s : State) : Host.Outcome State Fault Refusal :=
  .next (s.runC c.val (fun t => t.arriveAs c.val e.val p (fun h => hPtype h == P.CMD && ctlForm h && hAddr h == 0xC10)))

/-- CQ_HEAD_WRITE (R255): A control write of CQ_HEAD returns consumed CQ entries to the tray. -/
def execCqHeadWrite (c : Fin 5) (e : Fin 64) (p : Pkt) (s : State) : Host.Outcome State Fault Refusal :=
  .next (s.runC c.val (fun t => t.arriveAs c.val e.val p (fun h => hPtype h == P.CMD && ctlForm h && hAddr h == 0xC18)))

/-- COMMAND_HEAD (R244): A command reaching the head of its member queue is checked and either ends, runs locally or
waits for the other members. -/
def execCommandHead (c : Fin 5) (tb : Fin 256) (e : Fin 64) (s : State) : Host.Outcome State Fault Refusal :=
  .next (s.runC c.val (fun t => t.commandHead c.val tb.val e.val (fun o => o != O.NOP && o != O.CNT_ADD)))

/-- RS (R231): A reduce-scatter command delivers to each rank its shard of the element-wise reduction. -/
def execRs (c : Fin 5) (tb : Fin 256) (data : List (Fin 64 × List Byte))
    (s : State) : Host.Outcome State Fault Refusal :=
  .next (s.runC c.val (fun t => t.runOp c.val tb.val O.RS (data.map (fun a => (a.1.val, a.2)))))

/-- AG (R231): An all-gather command delivers to every member all contributions in rank order. -/
def execAg (c : Fin 5) (tb : Fin 256) (data : List (Fin 64 × List Byte))
    (s : State) : Host.Outcome State Fault Refusal :=
  .next (s.runC c.val (fun t => t.runOp c.val tb.val O.AG (data.map (fun a => (a.1.val, a.2)))))

/-- AR (R232): An all-reduce command runs as an RS chained to an AG through triggered-operation entries. -/
def execAr (c : Fin 5) (tb : Fin 256) (data : List (Fin 64 × List Byte))
    (s : State) : Host.Outcome State Fault Refusal :=
  .next (s.runC c.val (fun t => t.runOp c.val tb.val O.AR (data.map (fun a => (a.1.val, a.2)))))

/-- BARRIER (R231): A barrier command completes once every member's barrier has started. -/
def execBarrier (c : Fin 5) (tb : Fin 256) (s : State) : Host.Outcome State Fault Refusal :=
  .next (s.runC c.val (fun t => t.runOp c.val tb.val O.BARRIER []))

/-- NOP (R243): A NOP command ends with OK at the head of its queue. -/
def execNop (c : Fin 5) (tb : Fin 256) (e : Fin 64) (s : State) : Host.Outcome State Fault Refusal :=
  .next (s.runC c.val (fun t => t.commandHead c.val tb.val e.val (fun o => o == O.NOP)))

/-- CNT_ADD (R243): A CNT_ADD command adds ADD_VAL to a trigger counter of the named table and ends with OK. -/
def execCntAdd (c : Fin 5) (tb : Fin 256) (e : Fin 64) (s : State) : Host.Outcome State Fault Refusal :=
  .next (s.runC c.val (fun t => t.commandHead c.val tb.val e.val (fun o => o == O.CNT_ADD)))

/-- OPERATION_MATCH (R245): When every member's head holds OP_NEXT, the fields are compared and the operation starts
or parks, or every member ends with MISMATCH. -/
def execOperationMatch (c : Fin 5) (tb : Fin 256) (s : State) : Host.Outcome State Fault Refusal :=
  .next (s.runC c.val (fun t => (t.operationMatch c.val tb.val).afterStart c.val tb.val))

/-- OPERATION_START (R246): An operation that waited for its members' ports or CQs starts once they are live. -/
def execOperationStart (c : Fin 5) (tb : Fin 256) (s : State) : Host.Outcome State Fault Refusal :=
  .next (s.runC c.val (fun t => (t.operationStart c.val tb.val).afterStart c.val tb.val))

/-- PARKED_OP_START (R248): A parked operation starts in the first cycle in which its counter reaches WAIT_THRESH. -/
def execParkedOpStart (c : Fin 5) (tb : Fin 256) (s : State) : Host.Outcome State Fault Refusal :=
  .next (s.runC c.val (fun t => (t.parkedOpStart c.val tb.val).afterStart c.val tb.val))

/-- TBL_CTR_WRITE (R247): A software write to a trigger counter sets it, with any same-cycle increment added after it.
-/
def execTblCtrWrite (c : Fin 5) (tb : Fin 256) (i : Fin 16) (v : Word)
    (s : State) : Host.Outcome State Fault Refusal :=
  .next (s.run (fun t => t.write8 0 c.val (0x200 + tb.val) (A.TBL_CTR + 8 * i.val) v))

/-- CQ_RECORD_ISSUE (R255): A waiting completion record is written to the member's CQ once it has room, freeing its
slot. -/
def execCqRecordIssue (c : Fin 5) (tb : Fin 256) (e : Fin 64) (s : State) : Host.Outcome State Fault Refusal :=
  .next (s.run (fun t => t.issueNext c.val tb.val e.val))

/-- TABLE_ENABLE (R263): Setting ENABLE on a FREE table reserves reduction memory and makes it ACTIVE, or records
RES_POOL. -/
def execTableEnable (c : Fin 5) (tb : Fin 256) (s : State) : Host.Outcome State Fault Refusal :=
  .next (s.run (fun t => t.write8 0 c.val (0x200 + tb.val) A.PG_CTL (F.PG_CTL_ENABLE.put (t.rd (tblPg c.val tb.val) A.PG_CTL) 1)))

/-- CONTRIB_RECEIVE (R270): A contribution lump is checked, classified, and folded, held early, staged or discarded.
-/
def execContribReceive (c : Fin 5) (e : Fin 64) (p : Pkt) (s : State) : Host.Outcome State Fault Refusal :=
  .next (s.runC c.val (fun t => t.arriveAs c.val e.val p (fun h => hPtype h == P.CONTRIB)))

/-- TRICK_OPEN (R271): A trick opens when an accumulator, a tag and a link entry are free, and its staged lumps move
in. -/
def execTrickOpen (c : Fin 5) (tb : Fin 256) (s : State) : Host.Outcome State Fault Refusal :=
  .next (s.runC c.val (fun t => t.trickOpen c.val tb.val))

/-- LUMP_EXPIRY (R275): A lump held early or staged for 5 ms is discarded and its operation ends with DATA_FAIL. -/
def execLumpExpiry (c : Fin 5) (tb : Fin 256) (op : BitVec 16) (trick : BitVec 32) (piece : Fin 64) (lump : Fin 8) (e : Fin 64)
    (s : State) : Host.Outcome State Fault Refusal :=
  .next (s.runC c.val (fun t => t.lumpAge c.val tb.val op.toNat trick.toNat piece.val lump.val e.val))

/-- SNAP_RECEIVE (R285): A SNAP packet is checked and held in its snap context; when all payloads are present the
results are emitted. -/
def execSnapReceive (c : Fin 5) (e : Fin 64) (p : Pkt) (s : State) : Host.Outcome State Fault Refusal :=
  .next (s.runC c.val (fun t => t.arriveAs c.val e.val p (fun h => hPtype h == P.SNAP)))

/-- SNAP_EXPIRY (R284): A SNAP that waits 5 ms ends its snap operation with EXPIRED. -/
def execSnapExpiry (c : Fin 5) (tb : Fin 256) (e : Fin 64) (next : Bool)
    (s : State) : Host.Outcome State Fault Refusal :=
  .next (s.runC c.val (fun t => t.snapExpiry c.val tb.val e.val next))

end Sys2Proof.Machine
end

