-- ==== Sys2Proof/Machine/Dispatch.lean ====
section
/-! DEFINITION. The dispatch: one arm per command, one meaning per arm. -/
namespace Sys2Proof.Machine

/-- What a command does to everything but the queue. -/
def exec (i : Instr) (s : State) : Host.Outcome State Fault Refusal :=
  match i with
  | .registerWrite sp page off v => Sys2Proof.Machine.execRegisterWrite sp page off v s
  | .shadowWrite sp page off v => Sys2Proof.Machine.execShadowWrite sp page off v s
  | .unsupportedRequest sp page off width isWrite => Sys2Proof.Machine.execUnsupportedRequest sp page off width isWrite s
  | .unimplementedPageAccess sp page off isWrite => Sys2Proof.Machine.execUnimplementedPageAccess sp page off isWrite s
  | .registerReadClear sp page off => Sys2Proof.Machine.execRegisterReadClear sp page off s
  | .bar2Access c off width isWrite v => Sys2Proof.Machine.execBar2Access c off width isWrite v s
  | .msixMessage c vec => Sys2Proof.Machine.execMsixMessage c vec s
  | .domainDown c page off isWrite => Sys2Proof.Machine.execDomainDown c page off isWrite s
  | .crossParity c e => Sys2Proof.Machine.execCrossParity c e s
  | .pgCtlEnableWrite sp page v => Sys2Proof.Machine.execPgCtlEnableWrite sp page v s
  | .commit sp page => Sys2Proof.Machine.execCommit sp page s
  | .commitSafePoint sp page => Sys2Proof.Machine.execCommitSafePoint sp page s
  | .commitTimeout sp page => Sys2Proof.Machine.execCommitTimeout sp page s
  | .rederive sp page => Sys2Proof.Machine.execRederive sp page s
  | .dumpAbort c => Sys2Proof.Machine.execDumpAbort c s
  | .circuitAbortAll c => Sys2Proof.Machine.execCircuitAbortAll c s
  | .dealerAbortAll c => Sys2Proof.Machine.execDealerAbortAll c s
  | .tableAbort c tb => Sys2Proof.Machine.execTableAbort c tb s
  | .spillAbort c k => Sys2Proof.Machine.execSpillAbort c k s
  | .portAbort c e => Sys2Proof.Machine.execPortAbort c e s
  | .wholeChipQuiesce c => Sys2Proof.Machine.execWholeChipQuiesce c s
  | .noFunction sp page => Sys2Proof.Machine.execNoFunction sp page s
  | .abortDone sp page us => Sys2Proof.Machine.execAbortDone sp page us s
  | .itemAgeExpiry c it => Sys2Proof.Machine.execItemAgeExpiry c it s
  | .chipTopoWrite c v => Sys2Proof.Machine.execChipTopoWrite c v s
  | .dealClkRequest c v => Sys2Proof.Machine.execDealClkRequest c v s
  | .dealClkChangeDone c => Sys2Proof.Machine.execDealClkChangeDone c s
  | .dealCapChange c cap => Sys2Proof.Machine.execDealCapChange c cap s
  | .scrubReenable c which => Sys2Proof.Machine.execScrubReenable c which s
  | .refLoss c => Sys2Proof.Machine.execRefLoss c s
  | .corePllUnlock c => Sys2Proof.Machine.execCorePllUnlock c s
  | .corePllRelock c => Sys2Proof.Machine.execCorePllRelock c s
  | .dealerPllUnlock c => Sys2Proof.Machine.execDealerPllUnlock c s
  | .allDealerPllsUnlock c => Sys2Proof.Machine.execAllDealerPllsUnlock c s
  | .hbmPllUnlock c k => Sys2Proof.Machine.execHbmPllUnlock c k s
  | .txPllUnlock c q => Sys2Proof.Machine.execTxPllUnlock c q s
  | .pcieLinkDown c => Sys2Proof.Machine.execPcieLinkDown c s
  | .disciplineLoss c => Sys2Proof.Machine.execDisciplineLoss c s
  | .disciplineRegain c time => Sys2Proof.Machine.execDisciplineRegain c time s
  | .txPllRecal c q => Sys2Proof.Machine.execTxPllRecal c q s
  | .signalDetect c e => Sys2Proof.Machine.execSignalDetect c e s
  | .cdrLock c e => Sys2Proof.Machine.execCdrLock c e s
  | .trainingFrame c n cw ownReady wish => Sys2Proof.Machine.execTrainingFrame c n cw ownReady wish s
  | .codewordReceive c n r => Sys2Proof.Machine.execCodewordReceive c n r s
  | .ident c e f => Sys2Proof.Machine.execIdent c e f s
  | .identWaitRelease c e => Sys2Proof.Machine.execIdentWaitRelease c e s
  | .echoReq c e f residence => Sys2Proof.Machine.execEchoReq c e f residence s
  | .echoRsp c e f interval => Sys2Proof.Machine.execEchoRsp c e f interval s
  | .echoTimeout c e token => Sys2Proof.Machine.execEchoTimeout c e token s
  | .partnerLinkOk c e => Sys2Proof.Machine.execPartnerLinkOk c e s
  | .trainingPhaseTimeout c e => Sys2Proof.Machine.execTrainingPhaseTimeout c e s
  | .holdoffEnd c e => Sys2Proof.Machine.execHoldoffEnd c e s
  | .rttRemeasure c e r => Sys2Proof.Machine.execRttRemeasure c e r s
  | .loopReq c e f => Sys2Proof.Machine.execLoopReq c e f s
  | .loopAck c e f => Sys2Proof.Machine.execLoopAck c e f s
  | .floodNote c e f => Sys2Proof.Machine.execFloodNote c e f s
  | .retrainReq c e f => Sys2Proof.Machine.execRetrainReq c e f s
  | .fomInterval c n syms bits eye => Sys2Proof.Machine.execFomInterval c n syms bits eye s
  | .laneCheckpoint c n => Sys2Proof.Machine.execLaneCheckpoint c n s
  | .laneFreeze c n g => Sys2Proof.Machine.execLaneFreeze c n g s
  | .freezeExit c n => Sys2Proof.Machine.execFreezeExit c n s
  | .losDetect c n los => Sys2Proof.Machine.execLosDetect c n los s
  | .losTimeout c n => Sys2Proof.Machine.execLosTimeout c n s
  | .sidebandFrame b states crcOk => Sys2Proof.Machine.execSidebandFrame b states crcOk s
  | .floodDeclare c e => Sys2Proof.Machine.execFloodDeclare c e s
  | .floodClear c e => Sys2Proof.Machine.execFloodClear c e s
  | .floodHoldTimeout c e => Sys2Proof.Machine.execFloodHoldTimeout c e s
  | .retrainTimeout c e => Sys2Proof.Machine.execRetrainTimeout c e s
  | .partnerLinkLoss c e => Sys2Proof.Machine.execPartnerLinkLoss c e s
  | .freezeLosTimeout c n => Sys2Proof.Machine.execFreezeLosTimeout c n s
  | .wearRead c n bias bol hours failed => Sys2Proof.Machine.execWearRead c n bias bol hours failed s
  | .laneSpare c e v => Sys2Proof.Machine.execLaneSpare c e v s
  | .wearForecast b samples => Sys2Proof.Machine.execWearForecast b samples s
  | .laneSlip c n v => Sys2Proof.Machine.execLaneSlip c n v s
  | .portRestart c e => Sys2Proof.Machine.execPortRestart c e s
  | .portDiag c e set => Sys2Proof.Machine.execPortDiag c e set s
  | .cartInsert b info => Sys2Proof.Machine.execCartInsert b info s
  | .cartReady b => Sys2Proof.Machine.execCartReady b s
  | .cartRemove b => Sys2Proof.Machine.execCartRemove b s
  | .cmisInterrupt b fl => Sys2Proof.Machine.execCmisInterrupt b fl s
  | .cmisTransaction b v => Sys2Proof.Machine.execCmisTransaction b v s
  | .cmisDone b r => Sys2Proof.Machine.execCmisDone b r s
  | .flitReceive c e f sync => Sys2Proof.Machine.execFlitReceive c e f sync s
  | .dataReceive c e p => Sys2Proof.Machine.execDataReceive c e p s
  | .cellAdmit c e => Sys2Proof.Machine.execCellAdmit c e s
  | .xoffClear c e tc => Sys2Proof.Machine.execXoffClear c e tc s
  | .stageXoffClear c e => Sys2Proof.Machine.execStageXoffClear c e s
  | .carveOutGrant c e => Sys2Proof.Machine.execCarveOutGrant c e s
  | .origAdmit c e => Sys2Proof.Machine.execOrigAdmit c e s
  | .fenceRelease c e => Sys2Proof.Machine.execFenceRelease c e s
  | .schedSlot c held => Sys2Proof.Machine.execSchedSlot c held s
  | .requestAged c x e f => Sys2Proof.Machine.execRequestAged c x e f s
  | .residueRetry c => Sys2Proof.Machine.execResidueRetry c s
  | .egressSelect c e => Sys2Proof.Machine.execEgressSelect c e s
  | .pauseStorm c e tc => Sys2Proof.Machine.execPauseStorm c e tc s
  | .kittyEccError c id flit => Sys2Proof.Machine.execKittyEccError c id flit s
  | .mcgWrite c => Sys2Proof.Machine.execMcgWrite c s
  | .mcgRead c => Sys2Proof.Machine.execMcgRead c s
  | .ackReceive c e p => Sys2Proof.Machine.execAckReceive c e p s
  | .nakReceive c e p => Sys2Proof.Machine.execNakReceive c e p s
  | .ackSend c e ch => Sys2Proof.Machine.execAckSend c e ch s
  | .rtoExpiry c e ch => Sys2Proof.Machine.execRtoExpiry c e ch s
  | .circEntWrite c v => Sys2Proof.Machine.execCircEntWrite c v s
  | .circSetup c => Sys2Proof.Machine.execCircSetup c s
  | .circTeardown c => Sys2Proof.Machine.execCircTeardown c s
  | .deckPacketReceive node p => Sys2Proof.Machine.execDeckPacketReceive node p s
  | .deckInject node ccw ctrl => Sys2Proof.Machine.execDeckInject node ccw ctrl s
  | .deckHopDown node => Sys2Proof.Machine.execDeckHopDown node s
  | .deckRetrain c => Sys2Proof.Machine.execDeckRetrain c s
  | .cmdSlotWrite c e p => Sys2Proof.Machine.execCmdSlotWrite c e p s
  | .doorbell c e p => Sys2Proof.Machine.execDoorbell c e p s
  | .cqBaseWrite c e p => Sys2Proof.Machine.execCqBaseWrite c e p s
  | .cqCfgWrite c e p => Sys2Proof.Machine.execCqCfgWrite c e p s
  | .cqHeadWrite c e p => Sys2Proof.Machine.execCqHeadWrite c e p s
  | .commandHead c tb e => Sys2Proof.Machine.execCommandHead c tb e s
  | .rs c tb data => Sys2Proof.Machine.execRs c tb data s
  | .ag c tb data => Sys2Proof.Machine.execAg c tb data s
  | .ar c tb data => Sys2Proof.Machine.execAr c tb data s
  | .barrier c tb => Sys2Proof.Machine.execBarrier c tb s
  | .nop c tb e => Sys2Proof.Machine.execNop c tb e s
  | .cntAdd c tb e => Sys2Proof.Machine.execCntAdd c tb e s
  | .operationMatch c tb => Sys2Proof.Machine.execOperationMatch c tb s
  | .operationStart c tb => Sys2Proof.Machine.execOperationStart c tb s
  | .parkedOpStart c tb => Sys2Proof.Machine.execParkedOpStart c tb s
  | .tblCtrWrite c tb k v => Sys2Proof.Machine.execTblCtrWrite c tb k v s
  | .cqRecordIssue c tb e => Sys2Proof.Machine.execCqRecordIssue c tb e s
  | .tableEnable c tb => Sys2Proof.Machine.execTableEnable c tb s
  | .contribReceive c e p => Sys2Proof.Machine.execContribReceive c e p s
  | .trickOpen c tb => Sys2Proof.Machine.execTrickOpen c tb s
  | .lumpExpiry c tb op trick piece lump e => Sys2Proof.Machine.execLumpExpiry c tb op trick piece lump e s
  | .snapReceive c e p => Sys2Proof.Machine.execSnapReceive c e p s
  | .snapExpiry c tb e next => Sys2Proof.Machine.execSnapExpiry c tb e next s
  | .descCreateOp c => Sys2Proof.Machine.execDescCreateOp c s
  | .descDestroyOp c => Sys2Proof.Machine.execDescDestroyOp c s
  | .descReadOp c => Sys2Proof.Machine.execDescReadOp c s
  | .xltWrite c => Sys2Proof.Machine.execXltWrite c s
  | .xltRead c => Sys2Proof.Machine.execXltRead c s
  | .invalSeat c => Sys2Proof.Machine.execInvalSeat c s
  | .revocationDone c => Sys2Proof.Machine.execRevocationDone c s
  | .jobStart c j => Sys2Proof.Machine.execJobStart c j s
  | .jobAbort c j => Sys2Proof.Machine.execJobAbort c j s
  | .instrWaitEnd c j => Sys2Proof.Machine.execInstrWaitEnd c j s
  | .dealerNop c j => Sys2Proof.Machine.execDealerNop c j s
  | .descCreate c j => Sys2Proof.Machine.execDescCreate c j s
  | .descDestroy c j => Sys2Proof.Machine.execDescDestroy c j s
  | .ctrAdd c j => Sys2Proof.Machine.execCtrAdd c j s
  | .inWait c j => Sys2Proof.Machine.execInWait c j s
  | .inFree c j => Sys2Proof.Machine.execInFree c j s
  | .mix c j need cache => Sys2Proof.Machine.execMix c j need cache s
  | .vec c j => Sys2Proof.Machine.execVec c j s
  | .quant c j => Sys2Proof.Machine.execQuant c j s
  | .rsEpi c j need => Sys2Proof.Machine.execRsEpi c j need s
  | .agPro c j need => Sys2Proof.Machine.execAgPro c j need s
  | .moeRoute c j need => Sys2Proof.Machine.execMoeRoute c j need s
  | .moeBatch c j => Sys2Proof.Machine.execMoeBatch c j s
  | .shuffle c j need => Sys2Proof.Machine.execShuffle c j need s
  | .send c j => Sys2Proof.Machine.execSend c j s
  | .scatter c j => Sys2Proof.Machine.execScatter c j s
  | .endJob c j => Sys2Proof.Machine.execEndJob c j s
  | .inboxValid c ix v => Sys2Proof.Machine.execInboxValid c ix v s
  | .dealerInInbox c e p => Sys2Proof.Machine.execDealerInInbox c e p s
  | .dealerInShuffle c e p => Sys2Proof.Machine.execDealerInShuffle c e p s
  | .poolShort c j => Sys2Proof.Machine.execPoolShort c j s
  | .lendWrite c ix v => Sys2Proof.Machine.execLendWrite c ix v s
  | .sramEccError c w => Sys2Proof.Machine.execSramEccError c w s
  | .seatCfgWrite c m v => Sys2Proof.Machine.execSeatCfgWrite c m v s
  | .watchOverflow c ix => Sys2Proof.Machine.execWatchOverflow c ix s
  | .watchCapture c ix pos wh => Sys2Proof.Machine.execWatchCapture c ix pos wh s
  | .snapshot c => Sys2Proof.Machine.execSnapshot c s
  | .dumpRecordDeliver c => Sys2Proof.Machine.execDumpRecordDeliver c s
  | .calibration r => Sys2Proof.Machine.execCalibration r s
  | .kSet c k calSeq => Sys2Proof.Machine.execKSet c k calSeq s
  | .vinUvWarn v => Sys2Proof.Machine.execVinUvWarn v s
  | .vinUvTrip v => Sys2Proof.Machine.execVinUvTrip v s
  | .vinRestore v => Sys2Proof.Machine.execVinRestore v s
  | .phaseFail c r ix => Sys2Proof.Machine.execPhaseFail c r ix s
  | .senseUntrusted c r ix => Sys2Proof.Machine.execSenseUntrusted c r ix s
  | .railOvercurrent c r => Sys2Proof.Machine.execRailOvercurrent c r s
  | .capPwrSet c => Sys2Proof.Machine.execCapPwrSet c s
  | .thermalCapStep c tj => Sys2Proof.Machine.execThermalCapStep c tj s
  | .dieOvertemp c tj ms1 => Sys2Proof.Machine.execDieOvertemp c tj ms1 s
  | .thermalTrip c => Sys2Proof.Machine.execThermalTrip c s
  | .hbmOvertemp c k t ms10 => Sys2Proof.Machine.execHbmOvertemp c k t ms10 s
  | .coolantRead supply ret flow => Sys2Proof.Machine.execCoolantRead supply ret flow s
  | .pumpFail p => Sys2Proof.Machine.execPumpFail p s
  | .coolingRecovery operator => Sys2Proof.Machine.execCoolingRecovery operator s
  | .fanFail f => Sys2Proof.Machine.execFanFail f s
  | .cartOvertemp b => Sys2Proof.Machine.execCartOvertemp b s
  | .airRead inlet airflow => Sys2Proof.Machine.execAirRead inlet airflow s
  | .chipPowerUp c bad => Sys2Proof.Machine.execChipPowerUp c bad s
  | .railPgTimeout c r => Sys2Proof.Machine.execRailPgTimeout c r s
  | .pcieRelease c => Sys2Proof.Machine.execPcieRelease c s
  | .hbmTrainingDone c k ok => Sys2Proof.Machine.execHbmTrainingDone c k ok s
  | .coreRelease c => Sys2Proof.Machine.execCoreRelease c s
  | .powerOnReset v r0 r1 r2 framOk => Sys2Proof.Machine.execPowerOnReset v r0 r1 r2 framOk s
  | .hkReset r0 r1 r2 => Sys2Proof.Machine.execHkReset r0 r1 r2 s
  | .chipReset c => Sys2Proof.Machine.execChipReset c s
  | .chipPowerReset c bad => Sys2Proof.Machine.execChipPowerReset c bad s
  | .hkWatchdog r0 r1 r2 => Sys2Proof.Machine.execHkWatchdog r0 r1 r2 s
  | .keyBaseline mean => Sys2Proof.Machine.execKeyBaseline mean s
  | .touchBegin raw => Sys2Proof.Machine.execTouchBegin raw s
  | .touchEnd raw ms => Sys2Proof.Machine.execTouchEnd raw ms s
  | .keyBaselineRetake raw => Sys2Proof.Machine.execKeyBaselineRetake raw s
  | .keyStuck raw => Sys2Proof.Machine.execKeyStuck raw s
  | .consoleRxByte b stopOk => Sys2Proof.Machine.execConsoleRxByte b stopOk s
  | .leaseReq m z => Sys2Proof.Machine.execLeaseReq m z s
  | .leaseRenew m z => Sys2Proof.Machine.execLeaseRenew m z s
  | .leaseRelease m z => Sys2Proof.Machine.execLeaseRelease m z s
  | .leaseLapse m => Sys2Proof.Machine.execLeaseLapse m s
  | .identity m z => Sys2Proof.Machine.execIdentity m z s
  | .planeMap m z => Sys2Proof.Machine.execPlaneMap m z s
  | .logRead m z => Sys2Proof.Machine.execLogRead m z s
  | .regRead m z => Sys2Proof.Machine.execRegRead m z s
  | .regWrite m z => Sys2Proof.Machine.execRegWrite m z s
  | .cfgDigest m z => Sys2Proof.Machine.execCfgDigest m z s
  | .dumpAck m z => Sys2Proof.Machine.execDumpAck m z s
  | .wireTest m z => Sys2Proof.Machine.execWireTest m z s
  | .wireTestPhaseEnd loops => Sys2Proof.Machine.execWireTestPhaseEnd loops s
  | .fwBegin m z => Sys2Proof.Machine.execFwBegin m z s
  | .fwData m z => Sys2Proof.Machine.execFwData m z s
  | .fwEnd m z b => Sys2Proof.Machine.execFwEnd m z b s
  | .fwActivate m z => Sys2Proof.Machine.execFwActivate m z s
  | .spdm m z req peerOk => Sys2Proof.Machine.execSpdm m z req peerOk s
  | .zmpResend m seq => Sys2Proof.Machine.execZmpResend m seq s
  | .ptpSync m gm => Sys2Proof.Machine.execPtpSync m gm s
  | .redfishRequest res meth readOnly => Sys2Proof.Machine.execRedfishRequest res meth readOnly s
  | .logEntryWrite r => Sys2Proof.Machine.execLogEntryWrite r s
  | .halvorenBoot a b d hkf => Sys2Proof.Machine.execHalvorenBoot a b d hkf s
  | .zhctlLog fromSeq => Sys2Proof.Machine.execZhctlLog fromSeq s
  | .zhctlPorts c => Sys2Proof.Machine.execZhctlPorts c s
  | .zhctlRegRead target off count => Sys2Proof.Machine.execZhctlRegRead target off count s
  | .zhctlWireTest ports duration phases fomMin => Sys2Proof.Machine.execZhctlWireTest ports duration phases fomMin s
  | .zhctlFwActivate comps => Sys2Proof.Machine.execZhctlFwActivate comps s
  | .zhctlReset type chip => Sys2Proof.Machine.execZhctlReset type chip s
  | .zhctlLogin ok => Sys2Proof.Machine.execZhctlLogin ok s
  | .pcieLinkRetrained c => Sys2Proof.Machine.execPcieLinkRetrained c s
  | .deckHopUp node => Sys2Proof.Machine.execDeckHopUp node s
  | .vinUvWarnClear v => Sys2Proof.Machine.execVinUvWarnClear v s
  | .cartOvertempClear b => Sys2Proof.Machine.execCartOvertempClear b s
  | .prbsLock c n lock => Sys2Proof.Machine.execPrbsLock c n lock s
  | .seal => Sys2Proof.Machine.execSeal s
  | .vinOvTrip => Sys2Proof.Machine.execVinOvTrip s
  | .vinBrownout => Sys2Proof.Machine.execVinBrownout s
  | .leak => Sys2Proof.Machine.execLeak s
  | .fabricReady => Sys2Proof.Machine.execFabricReady s
  | .trayReset => Sys2Proof.Machine.execTrayReset s
  | .halvorenReset => Sys2Proof.Machine.execHalvorenReset s
  | .halvorenWatchdog => Sys2Proof.Machine.execHalvorenWatchdog s
  | .locateTimeout => Sys2Proof.Machine.execLocateTimeout s
  | .labelUpdate => Sys2Proof.Machine.execLabelUpdate s
  | .labelDone => Sys2Proof.Machine.execLabelDone s
  | .keyFault => Sys2Proof.Machine.execKeyFault s
  | .consoleBreak => Sys2Proof.Machine.execConsoleBreak s
  | .hello => Sys2Proof.Machine.execHello s
  | .laneStats => Sys2Proof.Machine.execLaneStats s
  | .wear => Sys2Proof.Machine.execWear s
  | .ptpHoldover => Sys2Proof.Machine.execPtpHoldover s
  | .timeLockTimeout => Sys2Proof.Machine.execTimeLockTimeout s
  | .imageConfirm => Sys2Proof.Machine.execImageConfirm s
  | .trialTimeout => Sys2Proof.Machine.execTrialTimeout s
  | .zhctlStatus => Sys2Proof.Machine.execZhctlStatus s
  | .zhctlLabelRepaint => Sys2Proof.Machine.execZhctlLabelRepaint s

end Sys2Proof.Machine
end

