-- ==== Sys2Proof/Machine/Time.lean ====
section
/-! DEFINITION. One nanosecond of time: what happens on an empty queue (log 2). -/
namespace Sys2Proof.Machine

/-- CHIP_TIME of a chip counts once it is clocked and released (R59); at the end of a period a scrub that is enabled has
completed a pass (R61, R65). -/
def Tray.chipTick (t : Tray) (c : Nat) : Tray :=
  if ¬ (t.chip c).coreUp then t
  else
    let pg := chip0 c
    let n := (t.rd pg A.CHIP_TIME).toNat + 1
    let t1 := t.wr pg A.CHIP_TIME (BitVec.ofNat 64 n)
    if n % 10 ^ 9 ≠ 0 then t1
    else
      let pass := fun (t : Tray) (per : Nat) (en done : Fld) =>
        if n % per = 0 ∧ t.is pg en then t.cnt pg done 1 else t
      let t2 := pass t1 (10 ^ 9) F.CHIP_BG_CTL_KITTY_SCRUB F.CHIP_BG_STS_KITTY_PASS
      let t3 := pass t2 (10 ^ 10) F.CHIP_BG_CTL_SRAM_SCRUB F.CHIP_BG_STS_SRAM_PASS
      pass t3 (86400 * 10 ^ 9) F.CHIP_BG_CTL_HBM_SCRUB F.CHIP_BG_STS_HBM_PASS

/-- At each whole microsecond a live port counts the time with XOFF shown and with XOFF held by its partner
(PORT_XOFF_TIME). -/
def Tray.xoffTick (t : Tray) : Tray :=
  if t.master % 1000 ≠ 0 then t
  else t.each t.ports (fun t a =>
    let c := a.1 / 64
    let e := a.1 % 64
    if t.live c e then
      (t.cnt (portPg c e) F.PORT_XOFF_TIME_TX_US (b2n (t.xoffTx c e != 0))).cnt (portPg c e) F.PORT_XOFF_TIME_RX_US
        (b2n (t.xoffRx c e != 0))
    else t)

/-- The time master removes its offset at 100 ppm: 1 ns each 10,000 ns (R435). -/
def Tray.slew (t : Tray) : Tray :=
  if t.hal.offset = 0 then t
  else if t.hal.slewTick + 1 < 10000 then { t with hal := { t.hal with slewTick := t.hal.slewTick + 1 } }
  else
    let o := t.hal.offset
    let d : Int := if 0 < o then 1 else -1
    { t with master := (t.master + d).toNat, hal := { t.hal with offset := o - d, slewTick := 0 } }

/-- One nanosecond: the time master, the housekeeper's clock, the chips' CK_TIME. -/
def Tray.tick (t : Tray) : Tray :=
  if ¬ t.hk.aon then t
  else
    let t1 := { t with master := t.master + 1, hk := { t.hk with rtc := t.hk.rtc + 1 } }
    ((t1.slew).each (List.range 5) (fun t c => t.chipTick c)).xoffTick

/-- A step on an empty queue: one nanosecond passes. -/
def State.tick (s : State) : State := s.run (fun t => t.tick)

end Sys2Proof.Machine
end

