-- ==== Sys2Proof/Machine/Step.lean ====
section
/-! DEFINITION. One step of the tray: the command at the front of the queue, or, on an empty queue, one nanosecond of
time. -/
namespace Sys2Proof.Machine

/-- The step: exec of the front command with the queue's rest; on an empty queue one tick of time. -/
def step (s : State) : Host.Outcome State Fault Refusal :=
  match s.pending with
  | [] => .next s.tick
  | c :: rest => exec c { s with pending := rest }

/-- `s` with the command that the word spells in front of its queue; the table gives no row any bits (log 21). -/
def State.withFetchWord (s : State) (nbits w : Nat) : State :=
  match decodeTableWord nbits w with
  | some c => { s with pending := c :: s.pending }
  | none => s

end Sys2Proof.Machine
end

