-- ==== Sys2Proof/WellFormed.lean ====
section
/-! DEFINITION. Which commands are well formed: an operand list has the length its rule gives, and a number fits the
field it is measured for. The meanings are total on every command; these checks say which ones the tray can be given. -/
namespace Sys2Proof

/-- A packet has at most 4,096 bytes of payload, 64 flits (R154). -/
def Pkt.wf (p : Pkt) : Bool := decide (p.pay.length ≤ 64)

/-- A ring packet's payload is at most 2,048 bytes in whole 32-byte units (R218). -/
def RingPkt.wf (p : RingPkt) : Bool := decide (p.pay.length ≤ 2048 ∧ p.pay.length % 32 = 0)

/-- A ZMP message is at most 8,192 bytes with its 32-byte header (R439). -/
def ZMsg.wf (z : ZMsg) : Bool := decide (z.body.length ≤ 8160)

/-- A bundle names the versions of components 0 to 3 (R457). -/
def BundleInfo.wf (b : BundleInfo) : Bool := decide (b.vers.length = 4)

/-- A cartridge's kind, lengths and groups fit the fields of PORT_CART (R142, R146). -/
def CartInfo.wf (i : CartInfo) : Bool :=
  decide (i.kind < 16 ∧ i.lenDm < 4096 ∧ i.spares < 16 ∧ i.fw < 65536 ∧ i.compat ≤ 2)

/-- A cartridge has 32 receive and 32 transmit lanes (R142). -/
def CmisFlags.wf (f : CmisFlags) : Bool := decide (f.mstate < 8 ∧ f.los < 2 ^ 32 ∧ f.txFail < 2 ^ 32)

/-- A codeword decodes with at most 15 symbols corrected (R113). -/
def CwResult.wf : CwResult → Bool
  | .decoded _ corr _ => decide (corr ≤ 15)
  | .failed => true

/-- Four rail energies of each of five chips, and their temperatures (R386). -/
def EnergyRead.wf (r : EnergyRead) : Bool :=
  decide (r.eRails.length = 5 ∧ r.temps.length = 5)
    && r.eRails.all (fun x => match x with | some l => decide (l.length = 4) | none => true)

/-- An 8-byte access at its natural alignment (R76). -/
def aligned8 (off : BitVec 12) : Bool := decide (off.toNat % 8 = 0)

/-- A port and the bytes it contributes are listed once (R230). -/
def dataWf (l : List (Fin 64 × List Byte)) : Bool := decide (l.map Prod.fst).Nodup

/-- The checks of each command's operands. -/
def Instr.wf : Instr → Bool
  | .registerWrite _ _ off _ => aligned8 off && decide (off.toNat < 0x800)
  | .shadowWrite _ _ off _ => aligned8 off && decide (0x800 ≤ off.toNat)
  | .registerReadClear _ _ off => aligned8 off
  | .unsupportedRequest _ _ off width _ =>
    decide (0 < width ∧ width ≤ 4096) && !(decide (width = 8) && aligned8 off)
  | .bar2Access _ _ width _ _ => decide (0 < width ∧ width ≤ 4096)
  | .domainDown _ _ off _ => aligned8 off
  | .codewordReceive _ _ r => r.wf
  | .fomInterval _ _ syms bits _ => decide (syms ≤ bits)
  | .wearForecast _ l => decide (l.length = 32)
  | .cartInsert _ i => i.wf
  | .cmisInterrupt _ f => f.wf
  | .dataReceive _ _ p | .ackReceive _ _ p | .nakReceive _ _ p | .cmdSlotWrite _ _ p | .doorbell _ _ p
  | .cqBaseWrite _ _ p | .cqCfgWrite _ _ p | .cqHeadWrite _ _ p | .contribReceive _ _ p | .snapReceive _ _ p
  | .dealerInInbox _ _ p | .dealerInShuffle _ _ p => p.wf
  | .schedSlot _ held => decide held.Nodup
  | .kittyEccError _ _ flit => decide (flit ≤ 64)
  | .deckPacketReceive _ p => p.wf
  | .rs _ _ l | .ag _ _ l | .ar _ _ l => dataWf l
  | .calibration r => r.wf
  | .leaseReq _ z | .leaseRenew _ z | .leaseRelease _ z | .identity _ z | .planeMap _ z | .logRead _ z | .regRead _ z
  | .regWrite _ z | .cfgDigest _ z | .dumpAck _ z | .wireTest _ z | .fwBegin _ z | .fwData _ z | .fwActivate _ z
  | .spdm _ z _ _ => z.wf
  | .fwEnd _ z b => z.wf && b.wf
  | .wireTestPhaseEnd l => l.all (fun x => decide (x.1 < 1280 ∧ x.2.errBits ≤ x.2.bits))
  | .halvorenBoot a b _ _ => a.bundle.wf && b.bundle.wf
  | .redfishRequest (.simpleUpdate _ b) _ _ => b.wf
  | .zhctlWireTest l _ _ _ => decide (l.length = 5)
  | .pgCtlEnableWrite .. | .msixMessage .. | .unimplementedPageAccess .. | .crossParity .. | .commit ..
  | .commitSafePoint .. | .commitTimeout .. | .rederive .. | .dumpAbort .. | .circuitAbortAll .. | .dealerAbortAll ..
  | .tableAbort .. | .spillAbort .. | .portAbort .. | .wholeChipQuiesce .. | .noFunction .. | .abortDone ..
  | .itemAgeExpiry .. => true
  | .chipTopoWrite .. | .dealClkRequest .. | .dealClkChangeDone .. | .scrubReenable .. | .refLoss .. => true
  | .dealCapChange _ cap => decide (cap < 2048)
  | .corePllUnlock .. | .corePllRelock .. | .dealerPllUnlock .. | .allDealerPllsUnlock .. | .hbmPllUnlock ..
  | .txPllUnlock .. | .pcieLinkDown .. | .disciplineLoss .. | .disciplineRegain .. | .txPllRecal .. => true
  | .signalDetect .. | .cdrLock .. | .trainingFrame .. | .ident .. | .identWaitRelease .. | .echoReq .. | .echoRsp ..
  | .echoTimeout .. | .partnerLinkOk .. | .trainingPhaseTimeout .. | .holdoffEnd .. | .rttRemeasure .. | .loopReq ..
  | .loopAck .. | .floodNote .. | .retrainReq .. => true
  | .laneCheckpoint .. | .laneFreeze .. | .freezeExit .. | .losDetect .. | .losTimeout .. | .sidebandFrame ..
  | .floodDeclare .. | .floodClear .. | .floodHoldTimeout .. | .retrainTimeout .. | .partnerLinkLoss ..
  | .freezeLosTimeout .. | .wearRead .. | .laneSpare .. | .laneSlip .. | .portRestart .. | .portDiag .. | .cartReady ..
  | .cartRemove .. | .cmisTransaction .. | .cmisDone .. => true
  | .flitReceive .. | .cellAdmit .. | .xoffClear .. | .stageXoffClear .. | .carveOutGrant .. | .origAdmit ..
  | .fenceRelease .. | .requestAged .. | .residueRetry .. | .egressSelect .. | .pauseStorm .. | .mcgWrite ..
  | .mcgRead .. | .ackSend .. | .rtoExpiry .. | .circEntWrite .. | .circSetup .. | .circTeardown .. | .deckInject ..
  | .deckHopDown .. | .deckRetrain .. | .commandHead .. | .barrier .. | .nop .. | .cntAdd .. | .operationMatch ..
  | .operationStart .. | .parkedOpStart .. | .tblCtrWrite .. | .cqRecordIssue .. | .tableEnable .. | .trickOpen ..
  | .lumpExpiry .. | .snapExpiry .. => true
  | .descCreateOp .. | .descDestroyOp .. | .descReadOp .. | .xltWrite .. | .xltRead .. | .invalSeat ..
  | .revocationDone .. | .jobStart .. | .jobAbort .. | .instrWaitEnd .. | .dealerNop .. | .descCreate ..
  | .descDestroy .. | .ctrAdd .. | .inWait .. | .inFree .. | .mix .. | .vec .. | .quant .. | .rsEpi .. | .agPro ..
  | .moeRoute .. | .moeBatch .. | .shuffle .. | .send .. | .scatter .. | .endJob .. | .inboxValid .. | .poolShort ..
  | .lendWrite .. | .sramEccError .. => true
  | .seatCfgWrite .. | .watchOverflow .. | .watchCapture .. | .snapshot .. | .dumpRecordDeliver .. | .kSet ..
  | .vinUvWarn .. | .vinUvTrip .. | .vinRestore .. | .phaseFail .. | .senseUntrusted .. | .railOvercurrent ..
  | .capPwrSet .. | .thermalCapStep .. | .dieOvertemp .. | .thermalTrip .. | .hbmOvertemp .. | .coolantRead ..
  | .pumpFail .. | .coolingRecovery .. | .fanFail .. | .cartOvertemp .. | .airRead .. | .chipPowerUp ..
  | .railPgTimeout .. | .pcieRelease .. | .hbmTrainingDone .. | .coreRelease .. | .powerOnReset .. | .hkReset ..
  | .chipReset .. | .chipPowerReset .. | .hkWatchdog .. | .keyBaseline .. | .touchBegin .. | .touchEnd ..
  | .keyBaselineRetake .. | .keyStuck .. | .consoleRxByte .. => true
  | .leaseLapse .. | .zmpResend .. | .ptpSync .. | .redfishRequest .. | .logEntryWrite .. | .zhctlLog ..
  | .zhctlPorts .. | .zhctlRegRead .. | .zhctlFwActivate .. | .zhctlReset .. | .zhctlLogin .. | .pcieLinkRetrained ..
  | .deckHopUp .. | .vinUvWarnClear .. | .cartOvertempClear .. | .prbsLock .. => true
  | .seal | .vinOvTrip | .vinBrownout | .leak | .fabricReady | .trayReset | .halvorenReset | .halvorenWatchdog
  | .locateTimeout | .labelUpdate | .labelDone | .keyFault | .consoleBreak | .hello | .laneStats | .wear | .ptpHoldover
  | .timeLockTimeout | .imageConfirm | .trialTimeout | .zhctlStatus | .zhctlLabelRepaint => true

end Sys2Proof
end

