-- ==== Sys2Proof/Safety.lean ====
section
/-! DEFINITION. What counts as a safe state and a safe run, and the terms in which the statements speak: a command
completes, an access is performed, a register is kept. -/
namespace Sys2Proof.Machine

/-- At most one manager holds the PRIMARY lease, and the current primary's term is one that has been seen (R427,
R429). -/
def Leases.sound (l : Leases) : Prop :=
  ¬ (l.a = .primary ∧ l.b = .primary) ∧ l.primTerm ≤ l.term

/-- An outcome that goes on. -/
def goesOn (o : Host.Outcome State Fault Refusal) : Prop := ∃ t, o = .next t

/-- The command completes at `s`, in a state that meets `P`. -/
def Completes (i : Instr) (s : State) (P : State → Prop) : Prop := ∃ t, exec i s = .next t ∧ P t

/-- An access to a register of a page is performed: its space is reached, the page implemented, the offset aligned and
the domain of the register clocked (R67, R68, R71, R76). -/
def Tray.accepts (t : Tray) (sp page off : Nat) : Bool :=
  t.reaches sp && (pageKind (sp * 4096 + page)).isSome && off % 8 == 0 && t.domainUp (sp * 4096 + page) off

/-- A page that no Dealer job of chip `c` writes: its jobs write the table, Dealer, layout, seat, watch and translation
pages of the chip. -/
def jobFree (c q : Nat) : Prop :=
  q / 4096 ≠ c ∨ q % 4096 < 0x200 ∨ (0x303 ≤ q % 4096 ∧ q % 4096 < 0x341) ∨ (0x3C0 ≤ q % 4096 ∧ q % 4096 < 0x3E0)

/-- A register of a common header other than its interrupt bits, or a shadow: no job writes these on any page. -/
def headOrShadow (o : Nat) : Prop := (o < 0x100 ∧ o ≠ 0x20) ∨ 0x800 ≤ o

/-- A register that dropping traffic of chip `c` does not write: of another space, of the chip-global or a lane page but
for its interrupt bits, a training register of a port page, a header register or shadow. -/
def trafficFree (c q o : Nat) : Prop :=
  (q / 4096 ≠ c ∧ o < 0x200) ∨ ((q % 4096 = 0 ∨ (0x100 ≤ q % 4096 ∧ q % 4096 < 0x200)) ∧ o < 0x200 ∧ o ≠ 0x20) ∨
    (0x010 ≤ q % 4096 ∧ q % 4096 < 0x050 ∧ 0x100 ≤ o ∧ o < 0x130) ∨ headOrShadow o

/-- A register that aborting functions of chip `c` does not write: no abort status of a table or of a page beyond. -/
def abortFree (c q o : Nat) : Prop := trafficFree c q o ∧ (o = 0x48 → q / 4096 ≠ c ∨ q % 4096 < 0x200)

/-- A register that charging a seat of chip `c` may write: the seats' counters, the watches' (R370, R373). -/
def chargeReg (c q o : Nat) : Prop := q / 4096 = c ∧ (0x380 ≤ q % 4096 ∧ q % 4096 < 0x3C0 ∨ q % 4096 = 0x341) ∧ 0x100 ≤ o

/-- Counter `k` of seat `m` of chip `c` has advanced by `n`, modulo 2^64 (R370–R372). -/
def Tray.counted (t u : Tray) (c m k n : Nat) : Prop :=
  u.rd (seatPg c m) (A.SEAT_CNT + 8 * k) = t.rd (seatPg c m) (A.SEAT_CNT + 8 * k) + BitVec.ofNat 64 n

/-- No job slot of chip `c` still has to note the end of its operation (R335). -/
def Tray.settled (t : Tray) (c : Nat) : Prop := ∀ j, j < 32 → ∀ st, (t.slot c j).wait ≠ .ended st

/-- Every register outside `R` reads in `u` as in `t`. -/
def Tray.keepsRegs (t u : Tray) (R : Nat → Nat → Prop) : Prop := ∀ q o, o < 4096 → ¬ R q o → u.rd q o = t.rd q o

/-- No byte of a tensor memory changes. -/
def Tray.keepsMem (t u : Tray) : Prop := ∀ a, u.memAt a = t.memAt a

/-- Beside the registers nothing inside the chips changes: switch core, ports, lanes, cartridges, tables, Dealers, deck
ring, tensor memory. -/
def Tray.keepsBlocks (t u : Tray) : Prop :=
  u.chips = t.chips ∧ u.ports = t.ports ∧ u.lanes = t.lanes ∧ u.bays = t.bays ∧ u.tables = t.tables ∧
  u.dealers = t.dealers ∧ u.nodes = t.nodes ∧ u.mem = t.mem

/-- The event log has one more entry to write, of event `ev` and chip `c` (R454). -/
def Tray.logs (t u : Tray) (ev : Ev) (c : Nat) (data : List Nat) : Prop :=
  ∃ e : LogEntry, u.logq = t.logq ++ [e] ∧ e.ev = ev ∧ e.src = 2 + c ∧ e.data = data

/-- Bit `b` of the page's PG_IRQ_RAW reads 1 (R98). -/
def Tray.irqUp (t : Tray) (pg b : Nat) : Prop := (t.rd pg A.PG_IRQ_RAW).getLsbD b = true

/-- The page's PG_ERR_CAPT holds an error: code, offset, source, direction and the time of its space (R101, R102, R479). -/
def Tray.holdsErr (t : Tray) (pg code off src : Nat) (isWrite : Bool) (time : Nat) : Prop :=
  t.rd pg A.PG_ERR_CAPT =
    BitVec.ofNat 64 (code + 2 ^ 8 * off + 2 ^ 20 * src + 2 ^ 22 * b2n isWrite + 2 ^ 24 * (time % 2 ^ 32) + 2 ^ 63)

/-- The register at `off` of page `pg`, described by `r`, has no rule of its own for a write: it takes its RW fields and
clears its W1C fields (R77). -/
def Tray.plainAt (t : Tray) (pg off : Nat) (r : RegDesc) (v : Word) (src : Nat) : Prop :=
  (isChipPg pg = true → ¬ (pageKind pg = some .chip0 ∧ off = A.CHIP_TOPO) ∧
    ((t.chip (pg / 4096)).coreUp = true → t.writeChip pg off r v (Origin.wr src off) = none)) ∧
  (isChipPg pg = false → t.writeHal pg off v (Origin.wr src off) = none)

/-- Registers of port `e` of chip `c`: its page, the pages of its lanes, and the registers of the chip-global page that
have a bit for each port (R99, R146). -/
def portArea (c e q o : Nat) : Prop :=
  q = portPg c e ∨ (lanePg c (4 * e) ≤ q ∧ q < lanePg c (4 * e) + 4) ∨
    (q = chip0 c ∧ (o = A.CHIP_WIRE_OK ∨ o = A.CHIP_WIRE_FAULT))

/-- Registers that may change when port `e` of chip `c` goes down: its own, and those that dropping traffic of the chip
writes. -/
def portDown (c e q o : Nat) : Prop := portArea c e q o ∨ ¬ abortFree c q o

/-- Beside the registers only port `e` of chip `c` and its lanes change inside the chips. -/
def Tray.keepsOtherPorts (t u : Tray) (c e : Nat) : Prop :=
  (∀ d g, g < 64 → ¬ (d = c ∧ g = e) → u.port d g = t.port d g) ∧
  (∀ d n, n < 256 → ¬ (d = c ∧ n / 4 = e) → u.lane d n = t.lane d n) ∧
  u.chips = t.chips ∧ u.bays = t.bays ∧ u.tables = t.tables ∧ u.dealers = t.dealers ∧ u.nodes = t.nodes ∧ u.mem = t.mem

/-- A port shows a state and, as the cause of its last failure, `cause` (R122, R123). -/
def Tray.portShows (t : Tray) (c e st cause : Nat) : Prop := t.pst c e = st ∧ t.pcause c e = cause

/-- Registers that moving packets through the switch core of chip `c` may write: those of the core's own pages and what
charging a seat writes. -/
def coreReg (c q o : Nat) : Prop :=
  (q / 4096 = c ∧ 0x050 ≤ q % 4096 ∧ q % 4096 < 0x070 ∧ (0x100 ≤ o ∨ o = 0x20)) ∨ chargeReg c q o

/-- Port `e` of chip `c` consumes a packet: it is whole, passes the header, seat and end-to-end checks, and is the next of
its stream (R155, R157, R173, R365). -/
def Tray.takes (t : Tray) (c e : Nat) (p : Pkt) : Prop :=
  t.pst c e = S.UP ∧ (t.chip c).coreUp = true ∧ p.pay.length = flitsOf (hLen p.hdr) ∧ hdrParses p.hdr = true ∧
  hdrAllowed p.hdr = true ∧ hDstKind p.hdr = 2 ∧ t.seatPasses c e p.hdr = true ∧ pE2eOk p = true ∧
  hSeq p.hdr = Assoc.get (fun _ => 0) (t.port c e).rxExp (hCh p.hdr)

/-- The packet is for an ACTIVE table of its seat of which the port is a member (R236). -/
def Tray.takesFor (t : Tray) (c e : Nat) (p : Pkt) : Prop :=
  t.takes c e p ∧ t.tst c (hTbl p.hdr) = T.ACTIVE ∧ t.isMember c (hTbl p.hdr) e = true ∧ hSeat p.hdr = t.tSeat c (hTbl p.hdr)

/-- Of the tables only table `tb` of chip `c` changes, and of the ports only those of the chip; beside that nothing inside
the chips but the switch core. -/
def Tray.keepsOtherTables (t u : Tray) (c tb : Nat) : Prop :=
  (∀ d k, k < 256 → ¬ (d = c ∧ k = tb) → u.table d k = t.table d k) ∧
  (∀ d g, g < 64 → d ≠ c → u.port d g = t.port d g) ∧
  u.lanes = t.lanes ∧ u.bays = t.bays ∧ u.dealers = t.dealers ∧ u.nodes = t.nodes ∧ u.mem = t.mem

/-- The window of member `e` of the table becomes `w`; the table's other windows and all else it holds stay. -/
def Tray.setsWin (t u : Tray) (c tb e : Nat) (w : Win) : Prop :=
  u.win c tb e = w ∧ (∀ g, g ≠ e → u.win c tb g = t.win c tb g) ∧
  { u.table c tb with wins := [] } = { t.table c tb with wins := [] } ∧ t.keepsOtherTables u c tb

/-- A completion record with a status leaves for member `e`: one more packet waits at its port, of CPL type (R250–R252). -/
def Tray.sendsRec (t u : Tray) (c e status : Nat) : Prop :=
  ∃ k, (u.port c e).origq = (t.port c e).origq ++ [k] ∧ hPtype k.pkt.hdr = P.CPL ∧
    (pBytes k.pkt)[1]? = some (BitVec.ofNat 8 status)

/-- Nothing waits for the start of an operation of the table: no lump, SHUFFLE data or expiry, and no SHUFFLE runs. -/
def Tray.nothingStaged (t : Tray) (c tb : Nat) : Prop :=
  (t.table c tb).staged = [] ∧ (t.table c tb).shuf = [] ∧ (t.table c tb).doomed = [] ∧
  ∀ o ∈ (t.table c tb).ops, o.opcode ≠ O.SHUFFLE

/-- Slot `j` of chip `c` executes instruction `w` of opcode `op`: the Dealer and the slot run, the slot waits for no counter
and no operation, and the instruction at its program counter passes the common checks and its WAIT_EN (R325, R329). -/
def Tray.executes (t : Tray) (c j : Nat) (w : BitVec 512) (op : Nat) : Prop :=
  t.dealerRuns c = true ∧ t.jobState c j ≠ J.IDLE ∧ (t.slot c j).wait ∈ [.none, .inbox, .issue, .pool] ∧
  t.fetchIns c j = .ok w ∧ insOp w = op ∧ t.insCheck c j w = 0 ∧
  (insWaitEn w = false ∨ (t.slot c j).passed = true ∨ insThresh w ≤ t.gf (tblPg c (insTbl w)) (ctrFld (insWaitCtr w)))

/-- The instruction of slot `j` completes: the slot's, the chip's and the seat's counts advance by one, and the next
instruction is due (R325, R327). -/
def Tray.retires (t u : Tray) (c j : Nat) : Prop :=
  (u.slot c j).pc = (t.slot c j).pc + 64 ∧ (u.slot c j).wait = .none ∧ u.jobState c j = J.RUNNING ∧
  u.gf (jobPg c) (F.DLR_JOB_CTL_RETIRED.nth j) = (t.gf (jobPg c) (F.DLR_JOB_CTL_RETIRED.nth j) + 1) % 2 ^ 32 ∧
  u.gf (dlrPg c) F.DLR_RETIRED_COUNT = (t.gf (dlrPg c) F.DLR_RETIRED_COUNT + 1) % 2 ^ 64 ∧
  t.counted u c (t.jobSeat c j) N.DLR_INSTR 1

/-- The job of slot `j` has ended with a status and a detail: the slot is IDLE, its bit of DLR_JOB_END set, JOB_DONE raised
(R358). -/
def Tray.jobEnded (t : Tray) (c j status detail : Nat) : Prop :=
  t.jobState c j = J.IDLE ∧ t.gf (jobPg c) (F.DLR_JOB_CTL_STATUS.nth j) = status ∧
  t.gf (jobPg c) (F.DLR_JOB_CTL_DETAIL.nth j) = detail ∧ bitOf (t.gf (dlrPg c) F.DLR_JOB_END_SLOTS) j = true ∧
  t.irqUp (dlrPg c) 8

/-- Registers that an instruction of slot `j` may write: those of the slot, counts and marks of the Dealer, layout and
translation pages, the counter INC_CTR of its table, what charging a seat writes. -/
def insReg (c j : Nat) (w : BitVec 512) (q o : Nat) : Prop :=
  (q = jobPg c ∧ A.DLR_JOB_CFG + 0x20 * j ≤ o ∧ o < A.DLR_JOB_CFG + 0x20 * j + 0x20) ∨
  ((q = dlrPg c ∨ q = layPg c ∨ q = xltPg c) ∧ 0x100 ≤ o) ∨
  (q = tblPg c (insTbl w) ∧ o = (ctrFld (insIncCtr w)).off) ∨ chargeReg c q o

/-- Of the Dealers only that of chip `c` changes; beside that nothing inside the chips but ports and tensor memory. -/
def Tray.keepsOtherDealers (t u : Tray) (c : Nat) : Prop :=
  (∀ d, d ≠ c → u.dealer d = t.dealer d) ∧ u.chips = t.chips ∧ u.lanes = t.lanes ∧ u.bays = t.bays ∧ u.tables = t.tables ∧
  u.nodes = t.nodes

/-- No packet waits in headroom for an inbox of chip `c` (R339). -/
def Tray.noneHeld (t : Tray) (c : Nat) : Prop := ∀ i, i < 16 → (t.inbox c i).held = []

/-- `n` and `cache` units of 4 KiB fit into the pool of chip `c`, and slot `j` has nothing spilled (R351, R352). -/
def Tray.poolRoom (t : Tray) (c j n cache : Nat) : Prop :=
  (∀ x ∈ (t.dealer c).pool, x.slot = j → x.spilled = false) ∧ (t.dealer c).poolUsed + n + cache ≤ t.poolCap c

/-- Nothing of an earlier command is left to do: no message waits to be formed, no Halvoren reset to end the leases. Every step
leaves it so. -/
abbrev Tray.quiet (t : Tray) : Prop := t.zq = [] ∧ t.wipe = false

/-- Manager, TYPE and body of a message for a manager (R439). -/
def Out.zmpOf : Out → Option (Nat × Nat × List Byte)
  | .zmp m h b => some (m, fieldOf h 8 8, b)
  | _ => none

/-- What has left the tray since `t` is these messages for the managers, in this order. -/
def Tray.says (t u : Tray) (l : List (Nat × Nat × List Byte)) : Prop :=
  ∃ k, u.out = k ++ t.out ∧ k.reverse.map Out.zmpOf = l.map some

/-- A request of type `ty` of manager `m` is taken, to be answered: firmware runs, the request is authentic in the manager's
session, well formed, and no duplicate (R437–R439). -/
def Tray.gets (t : Tray) (ty m : Nat) (z : ZMsg) : Prop :=
  t.hal.up = true ∧ z.auth = true ∧ t.sessionUp m = true ∧ fieldOf z.hdr 16 1 = 0 ∧ fieldOf z.hdr 17 1 = 1 ∧
  zFormed m z = true ∧ zType z = ty ∧ t.hal.dup m (zSeq z) = none

/-- The response to the request: its TYPE, SEQ in REPLY_TO, STATUS and body, and nothing else, leave for manager `m`
(R439). -/
def Tray.answers (t u : Tray) (m : Nat) (z : ZMsg) (status : Nat) (body : List Byte) : Prop :=
  ∃ h, u.out = .zmp m h body :: t.out ∧ fieldOf h 8 8 = zType z ∧ fieldOf h 16 1 = 1 ∧ fieldOf h 96 32 = zSeq z ∧
    fieldOf h 192 16 = status

/-- Manager `m` is the primary, and the request was sent under the current term (R429). -/
def Leases.obeys (l : Leases) (m : Nat) (z : ZMsg) : Prop := l.of m = .primary ∧ zTerm z = l.term

/-- Chip `c` is as after its reset: its records, tensor memory and registers but for CHIP_TOPO and CHIP_DEAL_CLK, into
which the housekeeper writes (R412, R473). -/
def Tray.bare (u : Tray) (c : Nat) : Prop :=
  u.chip c = {} ∧ u.dealer c = {} ∧ (∀ e, e < 64 → u.port c e = {}) ∧ (∀ n, n < 256 → u.lane c n = {} ∧ u.table c n = {}) ∧
  (∀ b, b < 8 → u.bay (8 * c + b) = {}) ∧ (∀ a, a < 2 ^ 40 → u.memAt (c * 2 ^ 40 + a) = 0) ∧
  ∀ q o, q / 4096 = c → o < 4096 → ¬ (q = chip0 c ∧ (o = A.CHIP_TOPO ∨ o = A.CHIP_DEAL_CLK)) → u.rd q o = regReset (regKey q o)

/-- No port of a chip other than `c` changes its state, no lane and no byte of tensor memory changes. -/
def Tray.sparesOthers (t u : Tray) (c : Nat) : Prop :=
  ∀ d, d < 5 → d ≠ c → (∀ e, e < 64 → u.pst d e = t.pst d e) ∧ (∀ n, n < 256 → u.lane d n = t.lane d n) ∧
    ∀ a, a < 2 ^ 40 → u.memAt (d * 2 ^ 40 + a) = t.memAt (d * 2 ^ 40 + a)

/-- The rails of chip `c` are off, the chip is as after its reset, and the other chips go on (R400, R409). -/
def Tray.losesPower (t u : Tray) (c : Nat) : Prop :=
  u.chipOn c = false ∧ (∀ r, r < 4 → u.gf (railPg c) (F.PWR_RAIL_STATE.nth r) ∈ [0, 3]) ∧ u.bare c ∧ t.sparesOthers u c

/-- The canonical form of tensor memory: addresses strictly rising, no byte listed that reads as an unlisted one. -/
abbrev Memory.wf (m : Assoc Byte) : Bool := Assoc.wf (fun _ => 0) m

end Sys2Proof.Machine
end

