-- ==== Sys2Proof/Certificates/Slice0/Obligations.lean ====
section
/-! DEFINITION. The statements for the provers: what the commands of each family and the machine as a whole do, by the
numbered rules of the spec. -/
open Sys2Proof Sys2Proof.Machine

/-! ### Register accesses (R67–R81, R98–R102, R480) -/

/-- R77: REGISTER_WRITE to a register without a rule of its own gives each RW field the value written, unless that is a
reserved encoding, and leaves its other fields; no other register changes but the page's error capture and interrupt
bits, and no block. -/
def Obligations.RegisterWriteSetsRwFields : Prop :=
  ∀ (s : State) (sp : Fin 6) (page off : BitVec 12) (v : Word) (r : RegDesc),
    let pg := sp.val * 4096 + page.toNat
    s.tray.accepts sp.val page.toNat off.toNat = true → 0x100 ≤ off.toNat → off.toNat < 0x800 →
    findReg pg off.toNat = some r → (v ^^^ s.tray.rd pg off.toNat) &&& r.rwsMask = 0 →
    s.tray.plainAt pg off.toNat r v 0 → (∀ f ∈ r.fields, f.acc ≠ .w1c) → s.tray.settled sp.val →
    Completes (.registerWrite sp page off v) s (fun t =>
      (∀ f ∈ r.fields, f.fld.get (t.tray.rd pg off.toNat) =
        if f.acc = .rw ∧ encOk pg f (f.fld.get v) = true then f.fld.get v else f.fld.get (s.tray.rd pg off.toNat)) ∧
      s.tray.keepsRegs t.tray (fun q o => q = pg ∧ (o = off.toNat ∨ o = 0x60 ∨ o = 0x20)) ∧
      s.tray.keepsBlocks t.tray)

/-- R98, R101: REGISTER_WRITE clears the interrupt bits written as 1 and no others; PG_ERR_CAPT with VALID written as 1
reads 0 as a whole. -/
def Obligations.RegisterWriteClears : Prop :=
  ∀ (s : State) (sp : Fin 6) (page : BitVec 12) (v : Word),
    let pg := sp.val * 4096 + page.toNat
    s.tray.settled sp.val →
    (s.tray.accepts sp.val page.toNat 0x20 = true →
      Completes (.registerWrite sp page 0x020#12 v) s (fun t =>
        t.tray.rd pg A.PG_IRQ_RAW = s.tray.rd pg A.PG_IRQ_RAW &&& ~~~v ∧
        s.tray.keepsRegs t.tray (fun q o => q = pg ∧ o = 0x20) ∧ s.tray.keepsBlocks t.tray)) ∧
    (s.tray.accepts sp.val page.toNat 0x60 = true → F.PG_ERR_CAPT_VALID.get v = 1 → pageKind pg ≠ some .xlt →
      Completes (.registerWrite sp page 0x060#12 v) s (fun t =>
        t.tray.rd pg A.PG_ERR_CAPT = 0 ∧
        s.tray.keepsRegs t.tray (fun q o => q = pg ∧ o = 0x60) ∧ s.tray.keepsBlocks t.tray))

/-- R76, R71, R68: an access of a wrong width or not aligned, one to a page that is not implemented, and one to a domain
that is down change no register but the error capture, and no block; a read of a chip is answered with Unsupported Request
or Completer Abort, a write is reported through AER, an access to the Halvoren ends in a bus-error exception. -/
def Obligations.AccessNotPerformed : Prop :=
  ∀ (s : State) (page off : BitVec 12) (isWrite : Bool),
    (∀ (sp : Fin 6) (width : Nat), let pg := sp.val * 4096 + page.toNat
      s.tray.reaches sp.val = true → ¬ (width = 8 ∧ off.toNat % 8 = 0) → pageKind pg ≠ none →
      s.tray.gf pg F.PG_ERR_CAPT_VALID = 0 →
      Completes (.unsupportedRequest sp page off width isWrite) s (fun t =>
        t.tray.holdsErr pg (if width = 8 then E.ALIGN else E.WIDTH) off.toNat 0 isWrite (s.tray.timeOf (pg / 4096)) ∧
        t.tray.irqUp pg 3 ∧
        s.tray.keepsRegs t.tray (fun q o => q = pg ∧ (o = 0x60 ∨ o = 0x20)) ∧ s.tray.keepsBlocks t.tray ∧
        (sp.val < 5 → if isWrite then ⟨sp.val, page.toNat, off.toNat, width, true, false⟩ ∈ t.tray.aer
          else Out.completion sp.val .unsupported 0 ∈ t.tray.out) ∧
        (sp.val = 5 → Out.busError page.toNat off.toNat ∈ t.tray.out))) ∧
    (∀ sp : Fin 6, let pg := sp.val * 4096 + page.toNat
      s.tray.reaches sp.val = true → pageKind pg = none →
      Completes (.unimplementedPageAccess sp page off isWrite) s (fun t =>
        s.tray.keepsRegs t.tray (fun _ _ => False) ∧ s.tray.keepsBlocks t.tray ∧
        (sp.val < 5 → if isWrite then ⟨sp.val, page.toNat, off.toNat, 8, true, false⟩ ∈ t.tray.aer
          else Out.completion sp.val .unsupported 0 ∈ t.tray.out) ∧
        (sp.val = 5 → Out.busError page.toNat off.toNat ∈ t.tray.out))) ∧
    (∀ c : Fin 5, let pg := c.val * 4096 + page.toNat
      s.tray.reaches c.val = true → pageKind pg ≠ none → off.toNat % 8 = 0 → s.tray.domainUp pg off.toNat = false →
      s.tray.gf (chip0 c.val) F.PG_ERR_CAPT_VALID = 0 →
      Completes (.domainDown c page off isWrite) s (fun t =>
        t.tray.holdsErr (chip0 c.val) E.DOMAIN_DOWN off.toNat 0 isWrite (s.tray.timeOf c.val) ∧
        t.tray.irqUp (chip0 c.val) 3 ∧
        s.tray.keepsRegs t.tray (fun q o => q = chip0 c.val ∧ (o = 0x60 ∨ o = 0x20)) ∧ s.tray.keepsBlocks t.tray ∧
        (if isWrite then ⟨c.val, page.toNat, off.toNat, 8, true, true⟩ ∈ t.tray.aer
          else Out.completion c.val .abort 0 ∈ t.tray.out)))

/-- R78, R81: REGISTER_READ_CLEAR of a register answers with its value, resets its RC fields and leaves its other fields;
at an offset without a register it answers 0 and records UNMAPPED. -/
def Obligations.ReadAnswersAndClears : Prop :=
  ∀ (s : State) (sp : Fin 6) (page off : BitVec 12),
    let pg := sp.val * 4096 + page.toNat
    s.tray.accepts sp.val page.toNat off.toNat = true → off.toNat < 0x800 →
    (∀ r, findReg pg off.toNat = some r → ¬ (pageKind pg = some .circ ∧ off.toNat = A.CIRC_XERR) →
      Completes (.registerReadClear sp page off) s (fun t =>
        Out.completion sp.val .ok (s.tray.viewReg s.leases pg off.toNat) ∈ t.tray.out ∧
        (∀ f ∈ r.fields, f.fld.get (t.tray.rd pg off.toNat) =
          if f.acc = .rc then f.fld.get (activeReset pg off.toNat) else f.fld.get (s.tray.rd pg off.toNat)) ∧
        s.tray.keepsRegs t.tray (fun q o => q = pg ∧ o = off.toNat) ∧ s.tray.keepsBlocks t.tray)) ∧
    (findReg pg off.toNat = none → s.tray.gf pg F.PG_ERR_CAPT_VALID = 0 →
      Completes (.registerReadClear sp page off) s (fun t =>
        Out.completion sp.val .ok 0 ∈ t.tray.out ∧
        t.tray.holdsErr pg E.UNMAPPED off.toNat 0 false (s.tray.timeOf (pg / 4096)) ∧
        s.tray.keepsRegs t.tray (fun q o => q = pg ∧ (o = 0x60 ∨ o = 0x20)) ∧ s.tray.keepsBlocks t.tray))

/-- R100, R480: BAR2_ACCESS reads and writes the dwords of the MSI-X table; MSIX_MESSAGE sends the message that the table
holds for a requested vector, or sets the pending bit while the vector is masked. -/
def Obligations.MsixTableAndMessages : Prop :=
  ∀ (s : State) (c : Fin 5), s.tray.reaches c.val = true →
    (∀ (off : BitVec 12) (v : Word), off.toNat % 4 = 0 →
      Completes (.bar2Access c off 4 false v) s (fun t =>
        Out.completion c.val .ok (BitVec.ofNat 64 (s.tray.bar2Rd c.val off.toNat).toNat) ∈ t.tray.out ∧
        t.tray.bar2 = s.tray.bar2 ∧ s.tray.keepsRegs t.tray (fun _ _ => False) ∧ s.tray.keepsBlocks t.tray) ∧
      Completes (.bar2Access c off 4 true v) s (fun t =>
        (off.toNat < 0x100 → t.tray.bar2Rd c.val off.toNat = BitVec.ofNat 32 v.toNat) ∧
        (∀ d o, o < 0x100 → off.toNat < 0x100 → d * 4096 + o ≠ c.val * 4096 + off.toNat →
          t.tray.bar2Rd d o = s.tray.bar2Rd d o) ∧
        s.tray.keepsRegs t.tray (fun _ _ => False) ∧ s.tray.keepsBlocks t.tray)) ∧
    (∀ vec : Fin 16, s.tray.msiReq.contains (c.val * 16 + vec.val) = true →
      Completes (.msixMessage c vec) s (fun t =>
        t.tray.msiReq.contains (c.val * 16 + vec.val) = false ∧
        (if s.tray.vecMasked c.val vec.val then bitOf (t.tray.bar2Rd c.val 0x800).toNat vec.val = true
         else Out.msi c.val vec.val ((s.tray.bar2Rd c.val (16 * vec.val)).toNat +
            2 ^ 32 * (s.tray.bar2Rd c.val (16 * vec.val + 4)).toNat) (s.tray.bar2Rd c.val (16 * vec.val + 8)).toNat
              ∈ t.tray.out) ∧
        s.tray.keepsRegs t.tray (fun _ _ => False) ∧ s.tray.keepsBlocks t.tray))

/-! ### Staging (R77–R95) -/

/-- R78, R92: SHADOW_WRITE gives each RWS field its shadow where the value is no reserved encoding; while a COMMIT is
pending it is refused with SHADOW_LOCKED and the shadow stays. -/
def Obligations.ShadowWriteStages : Prop :=
  ∀ (s : State) (sp : Fin 6) (page off : BitVec 12) (v : Word) (r : RegDesc),
    let pg := sp.val * 4096 + page.toNat
    s.tray.accepts sp.val page.toNat off.toNat = true → 0x800 ≤ off.toNat → findReg pg (off.toNat - 0x800) = some r →
    r.rwsMask ≠ 0 →
    (s.tray.gf pg F.PG_COMMIT_STS_PENDING = 0 → ¬ (r.off = A.CNT_DUMP_CFG ∧ pageKind pg = some .dump) →
      Completes (.shadowWrite sp page off v) s (fun t =>
        (∀ f ∈ r.fields, f.fld.get (t.tray.rd pg off.toNat) =
          if f.acc = .rws ∧ stagedOk pg f (f.fld.get v) = true then f.fld.get v else f.fld.get (s.tray.rd pg off.toNat)) ∧
        s.tray.keepsRegs t.tray (fun q o => q = pg ∧ (o = off.toNat ∨ o = 0x60 ∨ o = 0x20)) ∧
        s.tray.keepsBlocks t.tray)) ∧
    (s.tray.gf pg F.PG_COMMIT_STS_PENDING = 1 → s.tray.gf pg F.PG_ERR_CAPT_VALID = 0 →
      Completes (.shadowWrite sp page off v) s (fun t =>
        t.tray.holdsErr pg E.SHADOW_LOCKED off.toNat 0 true (s.tray.timeOf (pg / 4096)) ∧
        s.tray.keepsRegs t.tray (fun q o => q = pg ∧ (o = 0x60 ∨ o = 0x20)) ∧ s.tray.keepsBlocks t.tray))

/-- R91, R94, R106: COMMIT sets PENDING and clears DONE and REFUSED; on a lane whose port is not down it is refused at once
with COMMIT_UNAVAILABLE. COMMIT_TIMEOUT ends a COMMIT that waits with COMMIT_TIMEOUT, on a lane with COMMIT_UNAVAILABLE. -/
def Obligations.CommitPendsAndTimesOut : Prop :=
  ∀ (s : State) (sp : Fin 6) (page : BitVec 12),
    let pg := sp.val * 4096 + page.toNat
    (s.tray.accepts sp.val page.toNat A.PG_COMMIT = true → s.tray.settled sp.val →
      s.tray.gf pg F.PG_COMMIT_STS_PENDING = 0 →
      (¬ (pageKind pg = some .lane ∧ s.tray.laneDown pg = false) →
        Completes (.commit sp page) s (fun t =>
          t.tray.gf pg F.PG_COMMIT_STS_PENDING = 1 ∧ t.tray.gf pg F.PG_COMMIT_STS_DONE = 0 ∧
          t.tray.gf pg F.PG_COMMIT_STS_REFUSED = 0 ∧
          s.tray.keepsRegs t.tray (fun q o => q = pg ∧ o = 0x58) ∧ s.tray.keepsBlocks t.tray)) ∧
      (pageKind pg = some .lane → s.tray.laneDown pg = false → s.tray.gf pg F.PG_ERR_CAPT_VALID = 0 →
        Completes (.commit sp page) s (fun t =>
          t.tray.gf pg F.PG_COMMIT_STS_PENDING = 0 ∧ t.tray.gf pg F.PG_COMMIT_STS_DONE = 1 ∧
          t.tray.gf pg F.PG_COMMIT_STS_REFUSED = 1 ∧
          t.tray.holdsErr pg E.COMMIT_UNAVAILABLE 0x050 2 false (s.tray.timeOf (pg / 4096)) ∧
          s.tray.keepsRegs t.tray (fun q o => q = pg ∧ (o = 0x58 ∨ o = 0x60 ∨ o = 0x20)) ∧
          s.tray.keepsBlocks t.tray))) ∧
    (s.tray.gf pg F.PG_COMMIT_STS_PENDING = 1 → s.tray.aborting pg = false → s.tray.gf pg F.PG_ERR_CAPT_VALID = 0 →
      Completes (.commitTimeout sp page) s (fun t =>
        t.tray.gf pg F.PG_COMMIT_STS_PENDING = 0 ∧ t.tray.gf pg F.PG_COMMIT_STS_DONE = 1 ∧
        t.tray.gf pg F.PG_COMMIT_STS_REFUSED = 1 ∧
        t.tray.holdsErr pg (if pageKind pg = some .lane then E.COMMIT_UNAVAILABLE else E.COMMIT_TIMEOUT) 0x050 2 false
          (s.tray.timeOf (pg / 4096)) ∧
        s.tray.keepsRegs t.tray (fun q o => q = pg ∧ (o = 0x58 ∨ o = 0x60 ∨ o = 0x20)) ∧ s.tray.keepsBlocks t.tray))

/-! ### Clocks (R27, R55–R67, R131) -/

/-- R27: CHIP_TOPO takes RACK_ID and TOPO_VALID while TOPO_VALID is 0; once it is 1 a write may change only ROLE, and
another RACK_ID, or TOPO_VALID 0, records LOCKED_FIELD and leaves the identity. -/
def Obligations.ChipTopoLocksIdentity : Prop :=
  ∀ (s : State) (c : Fin 5) (v : Word), s.tray.accepts c.val 0x000 A.CHIP_TOPO = true → s.tray.settled c.val →
    (s.tray.gf (chip0 c.val) F.CHIP_TOPO_TOPO_VALID = 0 →
      Completes (.chipTopoWrite c v) s (fun t =>
        t.tray.gf (chip0 c.val) F.CHIP_TOPO_RACK_ID = F.CHIP_TOPO_RACK_ID.get v ∧
        t.tray.gf (chip0 c.val) F.CHIP_TOPO_TOPO_VALID = F.CHIP_TOPO_TOPO_VALID.get v ∧
        t.tray.gf (chip0 c.val) F.CHIP_TOPO_ROLE = F.CHIP_TOPO_ROLE.get v ∧
        s.tray.keepsRegs t.tray (fun q o => q = chip0 c.val ∧ o = A.CHIP_TOPO) ∧ s.tray.keepsBlocks t.tray)) ∧
    (s.tray.gf (chip0 c.val) F.CHIP_TOPO_TOPO_VALID = 1 →
      Completes (.chipTopoWrite c v) s (fun t =>
        t.tray.gf (chip0 c.val) F.CHIP_TOPO_RACK_ID = s.tray.gf (chip0 c.val) F.CHIP_TOPO_RACK_ID ∧
        t.tray.gf (chip0 c.val) F.CHIP_TOPO_TOPO_VALID = 1 ∧
        t.tray.gf (chip0 c.val) F.CHIP_TOPO_ROLE = F.CHIP_TOPO_ROLE.get v ∧
        (F.CHIP_TOPO_TOPO_VALID.get v = 0 ∨ F.CHIP_TOPO_RACK_ID.get v ≠ s.tray.gf (chip0 c.val) F.CHIP_TOPO_RACK_ID →
          s.tray.gf (chip0 c.val) F.PG_ERR_CAPT_VALID = 0 → t.tray.holdsErr (chip0 c.val) E.LOCKED_FIELD A.CHIP_TOPO 0 true (s.tray.timeOf c.val)) ∧
        s.tray.keepsRegs t.tray (fun q o => q = chip0 c.val ∧ (o = A.CHIP_TOPO ∨ o = 0x60 ∨ o = 0x20)) ∧
        s.tray.keepsBlocks t.tray))

/-- R59–R64: a request sets REQ_MHZ and, where no change is in progress and the effective target is another frequency,
starts the change to it; the change's end runs CK_DEAL at its target; a cap below the running frequency sends CK_DEAL to
the floor of 600 MHz. -/
def Obligations.DealerClockFollowsTarget : Prop :=
  ∀ (s : State) (c : Fin 5),
    (∀ v : Word, s.tray.accepts c.val 0x000 A.CHIP_DEAL_CLK = true → s.tray.settled c.val → (s.tray.chip c.val).coreUp = true →
      (Enc.step 600 1250 25).ok (F.CHIP_DEAL_CLK_REQ_MHZ.get v) = true → s.tray.gf (chip0 c.val) F.CHIP_DEAL_CLK_CHANGING = 0 →
      let goal := max 600 (min (F.CHIP_DEAL_CLK_REQ_MHZ.get v) (s.tray.gf (chip0 c.val) F.CHIP_DEAL_CLK_CAP_MHZ))
      Completes (.dealClkRequest c v) s (fun t =>
        t.tray.gf (chip0 c.val) F.CHIP_DEAL_CLK_REQ_MHZ = F.CHIP_DEAL_CLK_REQ_MHZ.get v ∧
        (if goal = s.tray.gf (chip0 c.val) F.CHIP_DEAL_CLK_CUR_MHZ then t.tray.gf (chip0 c.val) F.CHIP_DEAL_CLK_CHANGING = 0
          else t.tray.gf (chip0 c.val) F.CHIP_DEAL_CLK_CHANGING = 1 ∧ (t.tray.chip c.val).chgTarget = goal) ∧
        t.tray.gf (chip0 c.val) F.CHIP_DEAL_CLK_CUR_MHZ = s.tray.gf (chip0 c.val) F.CHIP_DEAL_CLK_CUR_MHZ ∧
        s.tray.keepsRegs t.tray (fun q o => q = chip0 c.val ∧ o = A.CHIP_DEAL_CLK) ∧ t.tray.mem = s.tray.mem)) ∧
    (s.tray.gf (chip0 c.val) F.CHIP_DEAL_CLK_CHANGING = 1 →
      (s.tray.chip c.val).chgTarget ≤ s.tray.gf (chip0 c.val) F.CHIP_DEAL_CLK_CAP_MHZ → (s.tray.chip c.val).chgTarget < 2 ^ 11 →
      Completes (.dealClkChangeDone c) s (fun t =>
        t.tray.gf (chip0 c.val) F.CHIP_DEAL_CLK_CUR_MHZ = (s.tray.chip c.val).chgTarget ∧
        t.tray.gf (chip0 c.val) F.CHIP_CLK_STS_ON_FLOOR = 0 ∧
        (if s.tray.dealTarget c.val = (s.tray.chip c.val).chgTarget then t.tray.gf (chip0 c.val) F.CHIP_DEAL_CLK_CHANGING = 0
          else t.tray.gf (chip0 c.val) F.CHIP_DEAL_CLK_CHANGING = 1 ∧
            (t.tray.chip c.val).chgTarget = s.tray.dealTarget c.val) ∧
        s.tray.keepsRegs t.tray (fun q o => q = chip0 c.val ∧ (o = A.CHIP_DEAL_CLK ∨ o = A.CHIP_CLK_STS)) ∧
        t.tray.mem = s.tray.mem)) ∧
    (∀ cap : Fin 2048, s.tray.chipOn c.val = true →
      Completes (.dealCapChange c cap) s (fun t =>
        t.tray.gf (chip0 c.val) F.CHIP_DEAL_CLK_CAP_MHZ = cap.val ∧
        (if cap.val < s.tray.gf (chip0 c.val) F.CHIP_DEAL_CLK_CUR_MHZ then
          t.tray.gf (chip0 c.val) F.CHIP_DEAL_CLK_CUR_MHZ = 600 ∧ t.tray.gf (chip0 c.val) F.CHIP_CLK_STS_ON_FLOOR = 1
         else t.tray.gf (chip0 c.val) F.CHIP_DEAL_CLK_CUR_MHZ = s.tray.gf (chip0 c.val) F.CHIP_DEAL_CLK_CUR_MHZ) ∧
        s.tray.keepsRegs t.tray (fun q o => q = chip0 c.val ∧ (o = A.CHIP_DEAL_CLK ∨ o = A.CHIP_CLK_STS)) ∧
        t.tray.mem = s.tray.mem)) ∧
    (∀ which : Fin 3, let f := match which.val with
        | 0 => F.CHIP_BG_CTL_KITTY_SCRUB | 1 => F.CHIP_BG_CTL_SRAM_SCRUB | _ => F.CHIP_BG_CTL_HBM_SCRUB
      s.tray.chipOn c.val = true → s.tray.gf (chip0 c.val) f = 0 →
      Completes (.scrubReenable c which) s (fun t =>
        t.tray.gf (chip0 c.val) f = 1 ∧ t.tray.gf (chip0 c.val) f.shadow = 1 ∧
        s.tray.logs t.tray .scrubReenabled c.val [which.val] ∧
        s.tray.keepsRegs t.tray (fun q o => q = chip0 c.val ∧ (o = A.CHIP_BG_CTL ∨ o = A.CHIP_BG_CTL + 0x800)) ∧
        s.tray.keepsBlocks t.tray))

/-- R56, R57, R67, R131: a loss of the Dealer PLL moves CK_DEAL to the floor and counts; a PCIe link loss cuts the chip off
and its retraining brings it back; a loss of discipline clears TIME_LOCKED, and within 4 ns of the time master it is
regained; each loss raises CLOCK_FAULT and is logged; a core PLL that locks again clears no more than its bit; a TX PLL
recalibration fills the port with idle flits. -/
def Obligations.ClockEvents : Prop :=
  ∀ (s : State) (c : Fin 5), let pg := chip0 c.val
    (s.tray.chipOn c.val = true → s.tray.gf pg F.CHIP_CLK_STS_DEAL_LOCK = 1 →
      Completes (.dealerPllUnlock c) s (fun t =>
        t.tray.gf pg F.CHIP_DEAL_CLK_CUR_MHZ = 600 ∧ t.tray.gf pg F.CHIP_CLK_STS_ON_FLOOR = 1 ∧
        t.tray.gf pg F.CHIP_CLK_STS_DEAL_LOCK = 1 ∧
        t.tray.gf pg F.CHIP_CLK_STS_LOSS_CNT = satTo 255 (s.tray.gf pg F.CHIP_CLK_STS_LOSS_CNT + 1) ∧
        t.tray.irqUp pg 8 ∧ s.tray.logs t.tray .dealerPll c.val [] ∧
        s.tray.keepsRegs t.tray (fun q o => q = pg ∧ (o = A.CHIP_DEAL_CLK ∨ o = A.CHIP_CLK_STS ∨ o = 0x20)) ∧
        s.tray.keepsBlocks t.tray)) ∧
    ((s.tray.chip c.val).pcieUp = true →
      Completes (.pcieLinkDown c) s (fun t =>
        t.tray.chip c.val = { s.tray.chip c.val with pcieUp := false } ∧ t.tray.reaches c.val = false ∧
        t.tray.irqUp pg 8 ∧ s.tray.logs t.tray .pcieDown c.val [] ∧
        s.tray.keepsRegs t.tray (fun q o => q = pg ∧ o = 0x20) ∧ t.tray.mem = s.tray.mem)) ∧
    (s.tray.chipOn c.val = true → (s.tray.chip c.val).released = true →
      Completes (.pcieLinkRetrained c) s (fun t =>
        t.tray.chip c.val = { s.tray.chip c.val with pcieUp := true } ∧
        s.tray.keepsRegs t.tray (fun _ _ => False) ∧ t.tray.mem = s.tray.mem)) ∧
    (s.tray.gf pg F.CHIP_CLK_STS_TIME_LOCKED = 1 →
      Completes (.disciplineLoss c) s (fun t =>
        t.tray.gf pg F.CHIP_CLK_STS_TIME_LOCKED = 0 ∧ t.tray.irqUp pg 8 ∧ s.tray.logs t.tray .discipline c.val [] ∧
        s.tray.keepsRegs t.tray (fun q o => q = pg ∧ (o = A.CHIP_CLK_STS ∨ o = 0x20)) ∧ s.tray.keepsBlocks t.tray)) ∧
    (∀ time : Word, (s.tray.chip c.val).coreUp = true → time.toNat ≤ s.tray.master + 4 → s.tray.master ≤ time.toNat + 4 →
      Completes (.disciplineRegain c time) s (fun t =>
        t.tray.rd pg A.CHIP_TIME = time ∧ t.tray.gf pg F.CHIP_CLK_STS_TIME_LOCKED = 1 ∧
        s.tray.keepsRegs t.tray (fun q o => q = pg ∧ (o = A.CHIP_TIME ∨ o = A.CHIP_CLK_STS)) ∧ s.tray.keepsBlocks t.tray)) ∧
    (s.tray.chipOn c.val = true → s.tray.gf pg F.CHIP_CLK_STS_CORE_LOCK = 0 →
      Completes (.corePllRelock c) s (fun t =>
        t.tray.gf pg F.CHIP_CLK_STS_CORE_LOCK = 1 ∧
        (s.tray.enabled pg = true → ∀ e, e < 64 → (t.tray.port c.val e).xoffHold = false) ∧
        s.tray.keepsRegs t.tray (fun q o => q = pg ∧ o = A.CHIP_CLK_STS) ∧ t.tray.mem = s.tray.mem)) ∧
    (∀ q : Fin 64, (s.tray.chip c.val).coreUp = true → bitOf (s.tray.gf pg F.CHIP_TXPLL_LOCK_LOCK) q.val = true →
      s.tray.live c.val q.val = true →
      Completes (.txPllRecal c q) s (fun t =>
        Out.recalIdle c.val q.val ∈ t.tray.out ∧ s.tray.keepsRegs t.tray (fun _ _ => False) ∧ s.tray.keepsBlocks t.tray))

/-! ### Aborts and quiesce (R102–R109) -/

/-- R104–R107: an abort that takes effect advances its function's epoch by one, modulo 2^16, sets IN_PROGRESS and clears
DONE; a port in a live state leaves it. Registers that no abort of the chip writes stay. -/
def Obligations.AbortAdvancesEpoch : Prop :=
  ∀ (s : State) (c : Fin 5),
    let aborts := fun (i : Instr) (p : Nat) => s.tray.accepts c.val p A.PG_ABORT = true →
      s.tray.aborting (chipPg c.val p) = false → Completes i s (fun t =>
        t.tray.gf (chipPg c.val p) F.PG_ABORT_STS_EPOCH = (s.tray.gf (chipPg c.val p) F.PG_ABORT_STS_EPOCH + 1) % 2 ^ 16 ∧
        t.tray.gf (chipPg c.val p) F.PG_ABORT_STS_IN_PROGRESS = 1 ∧ t.tray.gf (chipPg c.val p) F.PG_ABORT_STS_DONE = 0 ∧
        s.tray.keepsRegs t.tray (fun q o => ¬ abortFree c.val q o))
    aborts (.dumpAbort c) 0x340 ∧ aborts (.circuitAbortAll c) 0x3C0 ∧ aborts (.dealerAbortAll c) 0x300 ∧
    (∀ tb : Fin 256, aborts (.tableAbort c tb) (0x200 + tb.val)) ∧
    (∀ k : Fin 2, aborts (.spillAbort c k) (0x320 + 2 * k.val)) ∧
    (∀ e : Fin 64, s.tray.accepts c.val (0x010 + e.val) A.PG_ABORT = true → s.tray.aborting (portPg c.val e.val) = false →
      Completes (.portAbort c e) s (fun t =>
        t.tray.gf (portPg c.val e.val) F.PG_ABORT_STS_EPOCH = (s.tray.gf (portPg c.val e.val) F.PG_ABORT_STS_EPOCH + 1) % 2 ^ 16 ∧
        (s.tray.live c.val e.val = true → t.tray.pst c.val e.val =
            (if ¬ s.tray.enabled (portPg c.val e.val) then S.DISABLED
             else if s.tray.is (portPg c.val e.val) F.PORT_TRAIN_CTL_DIAG then S.DIAG else S.DOWN) ∧
          t.tray.gf (portPg c.val e.val) F.PORT_TRAIN_STS_CAUSE = 14) ∧
        (s.tray.live c.val e.val = false → t.tray.pst c.val e.val = s.tray.pst c.val e.val)))

/-- R106: an abort written while one is in progress changes nothing. -/
def Obligations.AbortInProgressIgnoresGo : Prop :=
  ∀ (s : State) (c : Fin 5), s.tray.settled c.val →
    let still := fun (i : Instr) (p : Nat) => s.tray.accepts c.val p A.PG_ABORT = true →
      s.tray.aborting (chipPg c.val p) = true → Completes i s (fun t =>
        s.tray.keepsRegs t.tray (fun _ _ => False) ∧ s.tray.keepsBlocks t.tray)
    still (.dumpAbort c) 0x340 ∧ still (.circuitAbortAll c) 0x3C0 ∧ still (.dealerAbortAll c) 0x300 ∧
    (∀ tb : Fin 256, still (.tableAbort c tb) (0x200 + tb.val)) ∧
    (∀ k : Fin 2, still (.spillAbort c k) (0x320 + 2 * k.val)) ∧
    (∀ e : Fin 64, still (.portAbort c e) (0x010 + e.val)) ∧ still (.wholeChipQuiesce c) 0x000

/-- R109, R102, R105: a whole-chip quiesce clears ENABLE of page 0x000 and advances the chip's epoch; GO on a page without an
abortable function records NO_FUNCTION; an abort's end clears IN_PROGRESS, sets DONE with the time it took and raises
ABORT_DONE. -/
def Obligations.QuiesceAndAbortEnd : Prop :=
  ∀ s : State,
    (∀ c : Fin 5, s.tray.accepts c.val 0x000 A.PG_ABORT = true → s.tray.aborting (chip0 c.val) = false →
      Completes (.wholeChipQuiesce c) s (fun t =>
        t.tray.gf (chip0 c.val) F.PG_CTL_ENABLE = 0 ∧
        t.tray.gf (chip0 c.val) F.PG_ABORT_STS_EPOCH = (s.tray.gf (chip0 c.val) F.PG_ABORT_STS_EPOCH + 1) % 2 ^ 16 ∧
        t.tray.gf (chip0 c.val) F.PG_ABORT_STS_IN_PROGRESS = 1 ∧
        (∀ e, e < 64 → t.tray.pst c.val e = s.tray.pst c.val e) ∧
        s.tray.keepsRegs t.tray (fun q o => ¬ abortFree c.val q o ∨ (q = chip0 c.val ∧ (o = A.PG_CTL ∨ o = 0x48)) ∨
          (q / 4096 = c.val ∧ o = 0x48)))) ∧
    (∀ (sp : Fin 6) (page : BitVec 12), let pg := sp.val * 4096 + page.toNat
      s.tray.accepts sp.val page.toNat A.PG_ABORT = true → abortable pg = false → s.tray.settled sp.val →
      s.tray.gf pg F.PG_ERR_CAPT_VALID = 0 →
      Completes (.noFunction sp page) s (fun t =>
        t.tray.holdsErr pg E.NO_FUNCTION A.PG_ABORT 0 true (s.tray.timeOf (pg / 4096)) ∧
        s.tray.keepsRegs t.tray (fun q o => q = pg ∧ (o = 0x60 ∨ o = 0x20)) ∧ s.tray.keepsBlocks t.tray)) ∧
    (∀ (sp : Fin 6) (page : BitVec 12) (us : Nat), let pg := sp.val * 4096 + page.toNat
      s.tray.aborting pg = true → s.tray.gf pg F.PG_COMMIT_STS_PENDING = 0 → pageKind pg ≠ some .table →
      (pageKind pg = some .chip0 → us ≤ 200) → (∀ d, d < 5 → s.tray.settled d) →
      Completes (.abortDone sp page us) s (fun t =>
        t.tray.gf pg F.PG_ABORT_STS_IN_PROGRESS = 0 ∧ t.tray.gf pg F.PG_ABORT_STS_DONE = 1 ∧
        t.tray.gf pg F.PG_ABORT_STS_ELAPSED_US = min us 65535 ∧
        t.tray.gf pg F.PG_ABORT_STS_EPOCH = s.tray.gf pg F.PG_ABORT_STS_EPOCH ∧ t.tray.irqUp pg 0 ∧
        s.tray.keepsRegs t.tray (fun q o => q = pg ∧ (o = 0x48 ∨ o = 0x20)) ∧ s.tray.keepsBlocks t.tray)) ∧
    (∀ (c : Fin 5) (tb : Fin 256) (us : Nat), let pg := tblPg c.val tb.val
      s.tray.aborting pg = true → s.tray.gf pg F.PG_COMMIT_STS_PENDING = 0 → s.tray.tst c.val tb.val = T.ABORTING →
      (∀ d, d < 5 → s.tray.settled d) →
      Completes (.abortDone ⟨c.val, by omega⟩ (BitVec.ofNat 12 (0x200 + tb.val)) us) s (fun t =>
        t.tray.tst c.val tb.val = (if s.tray.enabled pg then T.ACTIVE else T.FREE) ∧
        t.tray.gf pg F.PG_ABORT_STS_DONE = 1 ∧ t.tray.gf pg F.PG_ABORT_STS_IN_PROGRESS = 0))

/-- R67: a lost reference quiesces the chip; a core PLL that unlocks makes every live port hold XOFF; a Dealer domain without
PLLs aborts every table in use and every job; a stack's PLL aborts its spill streams; a TX PLL takes its port down. Each
loss clears its bit, counts, raises CLOCK_FAULT and is logged. -/
def Obligations.LockLossesCutTheirBlocks : Prop :=
  ∀ (s : State) (c : Fin 5), let pg := chip0 c.val
    s.tray.chipOn c.val = true →
    (s.tray.gf pg F.CHIP_CLK_STS_REF_OK = 1 → (s.tray.chip c.val).coreUp = true → s.tray.aborting pg = false →
      Completes (.refLoss c) s (fun t =>
        t.tray.gf pg F.CHIP_CLK_STS_REF_OK = 0 ∧ t.tray.gf pg F.PG_CTL_ENABLE = 0 ∧
        t.tray.gf pg F.PG_ABORT_STS_IN_PROGRESS = 1 ∧
        (∀ e, e < 64 → t.tray.pst c.val e = s.tray.pst c.val e) ∧
        (∃ e ∈ t.tray.logq, e.ev = .refLoss ∧ e.src = 2 + c.val))) ∧
    (s.tray.gf pg F.CHIP_CLK_STS_CORE_LOCK = 1 →
      Completes (.corePllUnlock c) s (fun t =>
        t.tray.gf pg F.CHIP_CLK_STS_CORE_LOCK = 0 ∧
        t.tray.gf pg F.CHIP_CLK_STS_LOSS_CNT = satTo 255 (s.tray.gf pg F.CHIP_CLK_STS_LOSS_CNT + 1) ∧
        (∀ e, e < 64 → s.tray.live c.val e = true → (t.tray.port c.val e).xoffHold = true) ∧
        s.tray.logs t.tray .corePll c.val [] ∧
        s.tray.keepsRegs t.tray (fun q o => ¬ trafficFree c.val q o ∨ (q = pg ∧ o = A.CHIP_CLK_STS)))) ∧
    (s.tray.gf pg F.CHIP_CLK_STS_DEAL_LOCK = 1 →
      Completes (.allDealerPllsUnlock c) s (fun t =>
        t.tray.gf pg F.CHIP_CLK_STS_DEAL_LOCK = 0 ∧
        t.tray.gf pg F.CHIP_CLK_STS_LOSS_CNT = satTo 255 (s.tray.gf pg F.CHIP_CLK_STS_LOSS_CNT + 1) ∧
        (∀ e, e < 64 → t.tray.pst c.val e = s.tray.pst c.val e) ∧
        s.tray.logs t.tray .allDealerPlls c.val [] ∧
        s.tray.keepsRegs t.tray (fun q o => ¬ abortFree c.val q o ∨ (q = pg ∧ o = A.CHIP_CLK_STS)))) ∧
    (∀ k : Fin 2, let f := if k.val = 0 then F.CHIP_CLK_STS_HBM0_LOCK else F.CHIP_CLK_STS_HBM1_LOCK
      s.tray.gf pg f = 1 → s.tray.aborting (hbmPg c.val k.val) = false →
      Completes (.hbmPllUnlock c k) s (fun t =>
        t.tray.gf pg f = 0 ∧
        t.tray.gf pg F.CHIP_CLK_STS_LOSS_CNT = satTo 255 (s.tray.gf pg F.CHIP_CLK_STS_LOSS_CNT + 1) ∧
        t.tray.gf (hbmPg c.val k.val) F.PG_ABORT_STS_EPOCH =
          (s.tray.gf (hbmPg c.val k.val) F.PG_ABORT_STS_EPOCH + 1) % 2 ^ 16 ∧
        s.tray.logs t.tray .hbmPll c.val [k.val] ∧
        s.tray.keepsRegs t.tray (fun q o => ¬ abortFree c.val q o ∨ (q = pg ∧ o = A.CHIP_CLK_STS)))) ∧
    (∀ e : Fin 64, bitOf (s.tray.gf pg F.CHIP_TXPLL_LOCK_LOCK) e.val = true → s.tray.live c.val e.val = true →
      Completes (.txPllUnlock c e) s (fun t =>
        bitOf (t.tray.gf pg F.CHIP_TXPLL_LOCK_LOCK) e.val = false ∧
        t.tray.gf pg F.CHIP_CLK_STS_LOSS_CNT = satTo 255 (s.tray.gf pg F.CHIP_CLK_STS_LOSS_CNT + 1) ∧
        t.tray.pst c.val e.val = (if ¬ s.tray.enabled (portPg c.val e.val) then S.DISABLED
             else if s.tray.is (portPg c.val e.val) F.PORT_TRAIN_CTL_DIAG then S.DIAG else S.DOWN) ∧
        t.tray.gf (portPg c.val e.val) F.PORT_TRAIN_STS_CAUSE = 13 ∧
        s.tray.logs t.tray .txPll c.val [e.val]))

/-- R85, R91, R93, R89: a write of PG_CTL sets ENABLE of a page without a function of its own; a COMMIT at the safe point
gives every staged field its shadow and counts, or, where an agreement rule fails, changes no field and records
COMMIT_INVALID; a page with a pending derivation and no profiles drops it. -/
def Obligations.StagedFieldsSwapTogether : Prop :=
  ∀ (s : State) (sp : Fin 6) (page : BitVec 12), let pg := sp.val * 4096 + page.toNat
    (∀ v : Word, s.tray.accepts sp.val page.toNat A.PG_CTL = true → abortable pg = false → sp.val < 5 →
      (v ^^^ s.tray.rd pg A.PG_CTL) &&& 0xFF02 = 0 → s.tray.settled sp.val →
      Completes (.pgCtlEnableWrite sp page v) s (fun t =>
        t.tray.gf pg F.PG_CTL_ENABLE = F.PG_CTL_ENABLE.get v ∧
        s.tray.keepsRegs t.tray (fun q o => q = pg ∧ o = A.PG_CTL) ∧ s.tray.keepsBlocks t.tray)) ∧
    (s.tray.gf pg F.PG_COMMIT_STS_PENDING = 1 → s.tray.aborting pg = false → s.tray.blockUp pg = true →
      s.tray.atSafePoint pg = true → pageKind pg ≠ some .lane → pageKind pg ≠ some .port →
      (hasProfiles pg = true → F.PG_CTL_EXPERT.get (s.tray.rd pg (A.PG_CTL + 0x800)) = 1) → (∀ d, d < 5 → s.tray.settled d) →
      (((s.tray.swapped pg).agreement s.tray pg).all (fun r => r.1) = true →
        Completes (.commitSafePoint sp page) s (fun t =>
          (∀ a ∈ stagedRegs pg, t.tray.rd pg a.1 = (s.tray.rd pg a.1 &&& ~~~a.2) ||| (s.tray.rd pg (a.1 + 0x800) &&& a.2)) ∧
          t.tray.gf pg F.PG_COMMIT_STS_PENDING = 0 ∧ t.tray.gf pg F.PG_COMMIT_STS_DONE = 1 ∧
          t.tray.gf pg F.PG_COMMIT_STS_COUNT = (s.tray.gf pg F.PG_COMMIT_STS_COUNT + 1) % 2 ^ 16 ∧ t.tray.irqUp pg 1 ∧
          s.tray.keepsRegs t.tray (fun q o => q = pg ∧ (o = 0x58 ∨ o = 0x20 ∨
            ∃ a ∈ stagedRegs pg, o = a.1 ∨ o = a.1 + 0x800)) ∧ s.tray.keepsBlocks t.tray)) ∧
      (((s.tray.swapped pg).agreement s.tray pg).all (fun r => r.1) = false → s.tray.gf pg F.PG_ERR_CAPT_VALID = 0 →
        Completes (.commitSafePoint sp page) s (fun t =>
          t.tray.gf pg F.PG_COMMIT_STS_PENDING = 0 ∧ t.tray.gf pg F.PG_COMMIT_STS_DONE = 1 ∧
          t.tray.gf pg F.PG_COMMIT_STS_REFUSED = 1 ∧ t.tray.irqUp pg 2 ∧
          s.tray.keepsRegs t.tray (fun q o => q = pg ∧ (o = 0x58 ∨ o = 0x60 ∨ o = 0x20)) ∧ s.tray.keepsBlocks t.tray))) ∧
    (s.tray.dirty.contains pg = true → s.tray.aborting pg = false → s.tray.blockUp pg = true → s.tray.atSafePoint pg = true →
      s.tray.gf pg F.PG_COMMIT_STS_PENDING = 0 → hasProfiles pg = false ∨ s.tray.is pg F.PG_CTL_EXPERT = true →
      Completes (.rederive sp page) s (fun t =>
        t.tray.dirty.contains pg = false ∧ s.tray.keepsRegs t.tray (fun _ _ => False) ∧ s.tray.keepsBlocks t.tray))

/-- R69, R108: a register write lost to crossing parity is recorded in the page it was for, which keeps its values; a packet
or a contribution lost counts in the seat's counter; an item that reaches its age counts as stale. -/
def Obligations.LostCrossingsAndAgedItems : Prop :=
  ∀ (s : State) (c : Fin 5), s.tray.settled c.val →
    (∀ page off : BitVec 12, let pg := chipPg c.val page.toNat
      pageKind pg ≠ none → s.tray.gf pg F.PG_ERR_CAPT_VALID = 0 →
      Completes (.crossParity c (.regWrite page off)) s (fun t =>
        t.tray.holdsErr pg E.CROSS_PARITY off.toNat 0 true (s.tray.timeOf (pg / 4096)) ∧
        s.tray.keepsRegs t.tray (fun q o => q = pg ∧ (o = 0x60 ∨ o = 0x20)) ∧ s.tray.keepsBlocks t.tray)) ∧
    (∀ tb : Fin 256, Completes (.crossParity c (.contribution tb)) s (fun t =>
        s.tray.counted t.tray c.val (s.tray.tSeat c.val tb.val) N.CROSS_PARITY 1 ∧
        s.tray.keepsRegs t.tray (chargeReg c.val) ∧ s.tray.keepsBlocks t.tray)) ∧
    (∀ (i : Fin 16) (e : Fin 64) (h : Nat × Pkt), (s.tray.inbox c.val i.val).held.find? (fun h => h.1 == e.val) = some h →
      Completes (.itemAgeExpiry c (.inbox i e)) s (fun t =>
        s.tray.counted t.tray c.val (hSeat h.2.hdr) N.STALE 1 ∧
        (t.tray.inbox c.val i.val).held = (s.tray.inbox c.val i.val).held.erase h ∧
        s.tray.keepsRegs t.tray (chargeReg c.val) ∧ t.tray.mem = s.tray.mem)) ∧
    (∀ id p, s.tray.findPkt c.val id = some p →
      Completes (.itemAgeExpiry c (.core id)) s (fun t =>
        s.tray.counted t.tray c.val p.seat N.STALE 1 ∧ t.tray.mem = s.tray.mem ∧
        s.tray.keepsRegs t.tray (fun q o => ¬ trafficFree c.val q o)))

/-! ### Lanes, ports, cartridges (R110–R147, R482) -/

/-- R122: SIGNAL_DETECT takes a port from DOWN to SIGNAL with the lanes' presets, CDR_LOCK to TUNE, IDENT_WAIT_RELEASE
from IDENT_WAIT to MEASURE with 16 round-trip requests, PARTNER_LINK_OK from MEASURE to UP, HOLDOFF_END from HOLDOFF to
DOWN or HELD; nothing of another port changes. -/
def Obligations.TrainingAdvances : Prop :=
  ∀ (s : State) (c : Fin 5) (e : Fin 64), s.tray.settled c.val →
    (s.tray.pst c.val e.val = S.DOWN → (s.tray.chip c.val).coreUp = true →
      bitOf (s.tray.gf (chip0 c.val) F.CHIP_TXPLL_LOCK_LOCK) e.val = true →
      1 ≤ s.tray.cartType c.val e.val → s.tray.cartType c.val e.val ≤ 3 → s.tray.cartState c.val e.val = 3 →
      (s.tray.port c.val e.val).floodBlock = false → s.tray.lanesPlain c.val e.val = true →
      Completes (.signalDetect c e) s (fun t =>
        t.tray.pst c.val e.val = S.SIGNAL ∧
        (∀ n ∈ lanesOf e.val, t.tray.gf (lanePg c.val n) F.LANE_EQ_STS_TAPS =
          presetTaps (s.tray.gf (lanePg c.val n) F.LANE_CFG_TX_PRESET)) ∧
        s.tray.keepsRegs t.tray (portArea c.val e.val) ∧ s.tray.keepsOtherPorts t.tray c.val e.val)) ∧
    (s.tray.pst c.val e.val = S.SIGNAL →
      Completes (.cdrLock c e) s (fun t =>
        t.tray.pst c.val e.val = S.TUNE ∧
        (∀ n ∈ lanesOf e.val, t.tray.is (lanePg c.val n) F.LANE_STS_CDR_LOCK = true) ∧
        s.tray.keepsRegs t.tray (portArea c.val e.val) ∧ s.tray.keepsOtherPorts t.tray c.val e.val)) ∧
    (∀ x, (s.tray.port c.val e.val).ident = some x → s.tray.pst c.val e.val = S.IDENT_WAIT →
      s.tray.topoOk c.val = true → s.tray.identWired c.val e.val x = true → x.react ≤ 200 → x.rxLat ≤ 500 →
      x.txLat ≤ 500 →
      Completes (.identWaitRelease c e) s (fun t =>
        t.tray.pst c.val e.val = S.MEASURE ∧ (t.tray.port c.val e.val).tokens.length = 16 ∧
        s.tray.keepsRegs t.tray (portArea c.val e.val) ∧ s.tray.keepsOtherPorts t.tray c.val e.val)) ∧
    (s.tray.pst c.val e.val = S.MEASURE → (s.tray.port c.val e.val).linkOk = true → s.tray.hal.waitPorts = false →
      Completes (.partnerLinkOk c e) s (fun t =>
        t.tray.pst c.val e.val = S.UP ∧ t.tray.gf (portPg c.val e.val) F.PORT_TRAIN_STS_ATTEMPTS = 0 ∧
        s.tray.keepsRegs t.tray (portArea c.val e.val) ∧ s.tray.keepsOtherPorts t.tray c.val e.val)) ∧
    (s.tray.pst c.val e.val = S.HOLDOFF →
      Completes (.holdoffEnd c e) s (fun t =>
        t.tray.pst c.val e.val =
          (if s.tray.is (portPg c.val e.val) F.PORT_TRAIN_CTL_AUTO_RETRY then S.DOWN else S.HELD) ∧
        s.tray.keepsRegs t.tray (portArea c.val e.val) ∧ s.tray.keepsOtherPorts t.tray c.val e.val))

/-- R120: TRAINING_FRAME in TUNE with a new request to raise or lower a tap within its range moves that tap of the live
equaliser by one and no other, and the lane's next frame acknowledges it as done; R116: CODEWORD_RECEIVE of an UP port counts
the codeword, takes its XOFF bits and LINK_OK where it decodes, and counts it as uncorrectable with ten flits dropped where
it does not. -/
def Obligations.TrainingFramesAndCodewords : Prop :=
  ∀ (s : State) (c : Fin 5) (n : Fin 256), s.tray.settled c.val →
    (∀ (cw : Word) (ready : Bool) (wish : BitVec 9), ctrlOk cw = true → s.tray.pst c.val (n.val / 4) = S.TUNE →
      let tap := fieldOf cw 0 3
      let old := s.tray.gf (lanePg c.val n.val) F.LANE_EQ_STS_TAPS
      let v := tapAt old tap + (if fieldOf cw 3 2 = 1 then 1 else -1)
      (fieldOf cw 3 2 = 1 ∨ fieldOf cw 3 2 = 2) → fieldOf cw 0 9 ≠ (s.tray.lane c.val n.val).peerReq → tap ≤ 4 →
      -16 ≤ v → v ≤ 63 → (s.tray.lane c.val n.val).switchOut = false →
      Completes (.trainingFrame c n cw ready wish) s (fun t =>
        tapAt (t.tray.gf (lanePg c.val n.val) F.LANE_EQ_STS_TAPS) tap = v ∧
        (∀ i, i ≤ 4 → i ≠ tap → tapAt (t.tray.gf (lanePg c.val n.val) F.LANE_EQ_STS_TAPS) i = tapAt old i) ∧
        (∃ w, Out.train c.val n.val w ∈ t.tray.out ∧ fieldOf w 9 2 = 1 ∧ ctrlOk w = true) ∧
        s.tray.keepsRegs t.tray (portArea c.val (n.val / 4)) ∧
        s.tray.keepsOtherPorts t.tray c.val (n.val / 4))) ∧
    (s.tray.pst c.val (n.val / 4) = S.UP →
      (∀ ccf corr skew,
        Completes (.codewordReceive c n (.decoded ccf corr skew)) s (fun t =>
          t.tray.gf (lanePg c.val n.val) F.LANE_FEC_CW_COUNT =
            (s.tray.gf (lanePg c.val n.val) F.LANE_FEC_CW_COUNT + 1) % 2 ^ 64 ∧
          t.tray.gf (lanePg c.val n.val) F.LANE_FEC_SYM_COUNT =
            (s.tray.gf (lanePg c.val n.val) F.LANE_FEC_SYM_COUNT + corr) % 2 ^ 64 ∧
          (t.tray.port c.val (n.val / 4)).xoffRx = fieldOf ccf 6 4 ∧
          (t.tray.port c.val (n.val / 4)).peerLinkOk = (fieldOf ccf 11 1 == 1) ∧
          t.tray.pst c.val (n.val / 4) = S.UP ∧
          s.tray.keepsRegs t.tray (fun q o => portArea c.val (n.val / 4) q o ∨ ¬ trafficFree c.val q o))) ∧
      Completes (.codewordReceive c n .failed) s (fun t =>
        t.tray.gf (lanePg c.val n.val) F.LANE_FEC_CW_COUNT =
          (s.tray.gf (lanePg c.val n.val) F.LANE_FEC_CW_COUNT + 1) % 2 ^ 64 ∧
        t.tray.gf (lanePg c.val n.val) F.LANE_FEC_UNC_COUNT =
          (s.tray.gf (lanePg c.val n.val) F.LANE_FEC_UNC_COUNT + 1) % 2 ^ 64 ∧
        t.tray.gf (portPg c.val (n.val / 4)) F.PORT_CW_DROP_FLITS =
          (s.tray.gf (portPg c.val (n.val / 4)) F.PORT_CW_DROP_FLITS + 10) % 2 ^ 64 ∧
        t.tray.pst c.val (n.val / 4) = S.UP ∧
        s.tray.keepsRegs t.tray (fun q o => portArea c.val (n.val / 4) q o ∨ ¬ trafficFree c.val q o)))

/-- R122, R43: IDENT in its state shows what the partner declares and, where the tray does not know its own place, waits in
IDENT_WAIT; R119: ECHO_REQ is answered with its token; R126: ECHO_TIMEOUT sends another request under a new token,
ECHO_RSP gives an interval, and the sixteenth the cable delay of the lower median, above 160 ns failing the attempt with
CABLE_LENGTH; RTT_REMEASURE begins a measurement. -/
def Obligations.IdentAndRoundTrip : Prop :=
  ∀ (s : State) (c : Fin 5) (e : Fin 64), s.tray.settled c.val →
    (∀ f : MFrame, fOk f = true → fByte f 0 = M.IDENT → s.tray.pst c.val e.val = S.IDENT → s.tray.topoOk c.val = false →
      Completes (.ident c e f) s (fun t =>
        t.tray.pst c.val e.val = S.IDENT_WAIT ∧
        t.tray.gf (portPg c.val e.val) F.PORT_PARTNER_EP = (identOf f).ep % 64 ∧
        t.tray.gf (portPg c.val e.val) F.PORT_PARTNER_RACK_ID = (identOf f).rack ∧
        (t.tray.port c.val e.val).ident = some (identOf f) ∧
        s.tray.keepsRegs t.tray (portArea c.val e.val) ∧ s.tray.keepsOtherPorts t.tray c.val e.val)) ∧
    (∀ (f : MFrame) (r : BitVec 32), fOk f = true → fByte f 0 = M.ECHO_REQ → s.tray.pst c.val e.val = S.MEASURE →
      Completes (.echoReq c e f r) s (fun t =>
        (∃ g, Out.maint c.val e.val g ∈ t.tray.out ∧ fOk g = true ∧ fByte g 0 = M.ECHO_RSP ∧ fNum g 2 2 = fNum f 2 2 ∧
          fNum g 4 4 = r.toNat) ∧
        s.tray.keepsRegs t.tray (fun _ _ => False) ∧ s.tray.keepsBlocks t.tray)) ∧
    (∀ tok : BitVec 16, (s.tray.port c.val e.val).tokens.any (fun a => a.1 == tok.toNat) = true →
      Completes (.echoTimeout c e tok) s (fun t =>
        (t.tray.port c.val e.val).tokens = (s.tray.port c.val e.val).tokens.filter (fun b => b.1 != tok.toNat) ++
          [((s.tray.port c.val e.val).nextToken, (s.tray.port c.val e.val).nextOrder)] ∧
        (∃ g, Out.maint c.val e.val g ∈ t.tray.out ∧ fByte g 0 = M.ECHO_REQ) ∧
        s.tray.keepsRegs t.tray (fun _ _ => False) ∧ s.tray.keepsOtherPorts t.tray c.val e.val)) ∧
    (∀ (f : MFrame) (interval : Nat) (a : Nat × Nat), fOk f = true → fByte f 0 = M.ECHO_RSP → interval ≤ 8000 →
      (s.tray.port c.val e.val).tokens.find? (fun a => a.1 == fNum f 2 2) = some a →
      let es := (s.tray.port c.val e.val).echoes ++ [⟨a.2, interval, fNum f 4 4⟩]
      (es.length < 16 →
        Completes (.echoRsp c e f interval) s (fun t =>
          (t.tray.port c.val e.val).echoes = es ∧
          s.tray.keepsRegs t.tray (fun _ _ => False) ∧ s.tray.keepsOtherPorts t.tray c.val e.val)) ∧
      (16 ≤ es.length → s.tray.pst c.val e.val = S.MEASURE → s.tray.hal.waitPorts = false → ∀ m, medianEcho es = some m →
        640 < m.cable →
        Completes (.echoRsp c e f interval) s (fun t =>
          t.tray.portShows c.val e.val S.HELD Cz.CABLE_LENGTH ∧
          t.tray.gf (portPg c.val e.val) F.PORT_RTT_CABLE = m.cable % 2 ^ F.PORT_RTT_CABLE.w ∧
          bitOf (t.tray.gf (portPg c.val e.val) F.PORT_ALARM_ALARMS) Al.CABLE_LEN = true ∧
          s.tray.logs t.tray .cableLength c.val [e.val, m.cable] ∧
          s.tray.keepsRegs t.tray (portDown c.val e.val))) ∧
      (16 ≤ es.length → s.tray.pst c.val e.val = S.MEASURE → (s.tray.port c.val e.val).peerLinkOk = false →
        ∀ m, medianEcho es = some m → m.cable ≤ 640 →
        Completes (.echoRsp c e f interval) s (fun t =>
          t.tray.gf (portPg c.val e.val) F.PORT_RTT_CABLE = m.cable ∧ (t.tray.port c.val e.val).linkOk = true ∧
          s.tray.keepsRegs t.tray (portArea c.val e.val) ∧ s.tray.keepsOtherPorts t.tray c.val e.val))) ∧
    (s.tray.pst c.val e.val = S.UP → (s.tray.port c.val e.val).remeasuring = false →
      Completes (.rttRemeasure c e .begins) s (fun t =>
        (t.tray.port c.val e.val).remeasuring = true ∧ (t.tray.port c.val e.val).tokens.length = 16 ∧
        s.tray.keepsRegs t.tray (fun _ _ => False) ∧ s.tray.keepsOtherPorts t.tray c.val e.val))

/-- R140: LOOP_REQ is answered with LOOP_ACK: refused unless allowed, otherwise the port enters DIAG in far-end loopback;
LOOP_ACK keeps the partner's answer. R135: FLOOD_NOTE holds an UP port. R117: RETRAIN_REQ of reason 1 begins RETRAIN, of
reason 2 takes the port down to train from presets. -/
def Obligations.MaintenanceRequests : Prop :=
  ∀ (s : State) (c : Fin 5) (e : Fin 64) (f : MFrame), s.tray.settled c.val → fOk f = true →
    (fByte f 0 = M.LOOP_REQ → s.tray.pst c.val e.val ≠ S.DISABLED →
      (s.tray.is (portPg c.val e.val) F.PORT_TRAIN_CTL_ALLOW_REMOTE_LOOP = false →
        Completes (.loopReq c e f) s (fun t =>
          (∃ g, Out.maint c.val e.val g ∈ t.tray.out ∧ fByte g 0 = M.LOOP_ACK ∧ fByte g 2 = 1) ∧
          s.tray.keepsRegs t.tray (fun _ _ => False) ∧ s.tray.keepsBlocks t.tray)) ∧
      (s.tray.is (portPg c.val e.val) F.PORT_TRAIN_CTL_ALLOW_REMOTE_LOOP = true → s.tray.role c.val ≠ 1 → fByte f 2 = 1 →
        Completes (.loopReq c e f) s (fun t =>
          (∃ g, Out.maint c.val e.val g ∈ t.tray.out ∧ fByte g 0 = M.LOOP_ACK ∧ fByte g 2 = 0) ∧
          t.tray.pst c.val e.val = S.DIAG ∧ t.tray.is (portPg c.val e.val) F.PORT_TRAIN_CTL_FAR_LOOP = true ∧
          s.tray.keepsRegs t.tray (portDown c.val e.val)))) ∧
    (fByte f 0 = M.LOOP_ACK →
      Completes (.loopAck c e f) s (fun t =>
        (t.tray.port c.val e.val).loopAck = some (fByte f 2 == 0) ∧
        s.tray.keepsRegs t.tray (fun _ _ => False) ∧ s.tray.keepsOtherPorts t.tray c.val e.val)) ∧
    (fByte f 0 = M.FLOOD_NOTE → s.tray.pst c.val e.val = S.UP → fByte f 2 = 1 →
      Completes (.floodNote c e f) s (fun t =>
        t.tray.pst c.val e.val = S.FLOOD_HOLD ∧ (t.tray.port c.val e.val).floodPeer = true ∧
        s.tray.keepsRegs t.tray (fun q o => portArea c.val e.val q o ∨ ¬ trafficFree c.val q o))) ∧
    (fByte f 0 = M.RETRAIN_REQ → s.tray.pst c.val e.val = S.UP →
      (fByte f 2 = 1 →
        Completes (.retrainReq c e f) s (fun t =>
          t.tray.pst c.val e.val = S.RETRAIN ∧ (t.tray.port c.val e.val).sub = S.TUNE ∧
          s.tray.keepsRegs t.tray (portArea c.val e.val) ∧ s.tray.keepsOtherPorts t.tray c.val e.val)) ∧
      (fByte f 2 = 2 →
        Completes (.retrainReq c e f) s (fun t =>
          t.tray.portShows c.val e.val (s.tray.leaveTo c.val e.val Cz.ABORT) Cz.ABORT ∧
          s.tray.keepsRegs t.tray (portDown c.val e.val))))

/-- R122, R133: a training attempt whose phase exceeds its bound fails with the phase's cause and goes to HOLDOFF with one
more attempt counted; RETRAIN beyond 60 ms, FLOOD_HOLD beyond FLOOD_HOLD_MS (R134), LINK_OK lost for 1 ms (R135) and LOS of
1 ms (R482) take the port out of the live states with their cause and one more port abort epoch. -/
def Obligations.PortFailures : Prop :=
  ∀ (s : State) (c : Fin 5) (e : Fin 64),
    let leaves := fun (t : State) (cause : Nat) =>
      t.tray.portShows c.val e.val (s.tray.leaveTo c.val e.val cause) cause ∧
      (s.tray.aborting (portPg c.val e.val) = false →
        t.tray.gf (portPg c.val e.val) F.PG_ABORT_STS_EPOCH = (s.tray.gf (portPg c.val e.val) F.PG_ABORT_STS_EPOCH + 1) % 2 ^ 16) ∧
      s.tray.keepsRegs t.tray (portDown c.val e.val)
    (∀ cause, (s.tray.pst c.val e.val, cause) ∈ [(S.SIGNAL, Cz.SIGNAL_TIMEOUT), (S.TUNE, Cz.TUNE_TIMEOUT),
        (S.ALIGN, Cz.ALIGN_TIMEOUT), (S.IDENT, Cz.IDENT_TIMEOUT),
        (S.MEASURE, if (s.tray.port c.val e.val).linkOk then Cz.PARTNER else Cz.MEASURE_TIMEOUT)] →
      s.tray.hal.waitPorts = false →
      Completes (.trainingPhaseTimeout c e) s (fun t =>
        t.tray.portShows c.val e.val S.HOLDOFF cause ∧
        t.tray.gf (portPg c.val e.val) F.PORT_TRAIN_STS_ATTEMPTS =
          min (2 ^ F.PORT_TRAIN_STS_ATTEMPTS.w - 1) (s.tray.gf (portPg c.val e.val) F.PORT_TRAIN_STS_ATTEMPTS + 1) ∧
        s.tray.keepsRegs t.tray (portDown c.val e.val))) ∧
    (s.tray.pst c.val e.val = S.RETRAIN → ∀ cause, ((s.tray.port c.val e.val).sub, cause) ∈ [(S.TUNE, Cz.TUNE_TIMEOUT),
        (S.ALIGN, Cz.ALIGN_TIMEOUT), (S.IDENT, Cz.IDENT_TIMEOUT), (S.IDENT_WAIT, Cz.IDENT_TIMEOUT)] →
      Completes (.retrainTimeout c e) s (fun t => leaves t cause)) ∧
    (s.tray.pst c.val e.val = S.FLOOD_HOLD →
      Completes (.floodHoldTimeout c e) s (fun t => leaves t Cz.FLOOD_TIMEOUT ∧ s.tray.logs t.tray .floodTimeout c.val [e.val])) ∧
    (s.tray.pst c.val e.val = S.UP → (s.tray.port c.val e.val).peerLinkOk = false →
      Completes (.partnerLinkLoss c e) s (fun t => leaves t Cz.PARTNER ∧ s.tray.logs t.tray .partner c.val [e.val])) ∧
    (∀ n : Fin 256, n.val / 4 = e.val → s.tray.is (lanePg c.val n.val) F.LANE_STS_LOS = true → s.tray.pst c.val e.val = S.UP →
      Completes (.losTimeout c n) s (fun t => leaves t Cz.LOS ∧ s.tray.logs t.tray .los c.val [e.val, n.val]))

/-- R127, R128: FOM_INTERVAL shows the value, its mean over the last eight and its minimum, and of an UP port whose mean
falls below FOM_FAIL takes the port down with FOM_FAIL; R129: LANE_CHECKPOINT saves the live equaliser; R130: LANE_FREEZE
restores it and counts, FREEZE_EXIT ends the freeze; R482, R136: LOS_DETECT and FREEZE_LOS_TIMEOUT raise LOS and count it;
R141: PRBS_LOCK shows and LANE_SLIP moves the word boundary in DIAG. -/
def Obligations.LaneHealth : Prop :=
  ∀ (s : State) (c : Fin 5) (n : Fin 256), s.tray.settled c.val →
    let e := n.val / 4
    let lp := lanePg c.val n.val
    (∀ syms bits eye, s.tray.gf lp F.LANE_STS_STATE ≠ 0 →
      let cur := if 100 ≤ syms then fomOf syms bits else eye.toNat
      let foms := (cur :: (s.tray.lane c.val n.val).foms).take 8
      let avg := sumL foms / foms.length
      (s.tray.pst c.val e ≠ S.UP ∨ s.tray.gf lp F.LANE_FOM_FOM_FAIL ≤ avg →
        Completes (.fomInterval c n syms bits eye) s (fun t =>
          t.tray.gf lp F.LANE_FOM_CUR = cur % 2 ^ 8 ∧ t.tray.gf lp F.LANE_FOM_AVG = avg % 2 ^ 8 ∧
          (t.tray.lane c.val n.val).foms = foms ∧ t.tray.pst c.val e = s.tray.pst c.val e ∧
          s.tray.keepsRegs t.tray (portArea c.val e) ∧ s.tray.keepsOtherPorts t.tray c.val e)) ∧
      (s.tray.pst c.val e = S.UP → avg < s.tray.gf lp F.LANE_FOM_FOM_FAIL →
        Completes (.fomInterval c n syms bits eye) s (fun t =>
          t.tray.portShows c.val e (s.tray.leaveTo c.val e Cz.FOM_FAIL) Cz.FOM_FAIL ∧
          bitOf (t.tray.gf (portPg c.val e) F.PORT_ALARM_ALARMS) Al.FOM_FAIL = true ∧
          s.tray.logs t.tray .laneFail c.val [e, n.val, avg] ∧ s.tray.keepsRegs t.tray (portDown c.val e)))) ∧
    (s.tray.gf lp F.LANE_STS_STATE = 3 → (s.tray.lane c.val n.val).foms ≠ [] →
      s.tray.gf lp F.LANE_FOM_FOM_WARN ≤ s.tray.gf lp F.LANE_FOM_AVG → (s.tray.lane c.val n.val).uncSeen = false →
      Completes (.laneCheckpoint c n) s (fun t =>
        (t.tray.lane c.val n.val).checkpoint = some ⟨s.tray.gf lp F.LANE_EQ_STS_TAPS, s.tray.gf lp F.LANE_EQ_STS_CTLE⟩ ∧
        s.tray.keepsRegs t.tray (fun _ _ => False) ∧ s.tray.keepsOtherPorts t.tray c.val e)) ∧
    (∀ g q, s.tray.gf lp F.LANE_STS_STATE = 3 → (s.tray.lane c.val n.val).checkpoint = some q →
      Completes (.laneFreeze c n g) s (fun t =>
        t.tray.gf lp F.LANE_STS_STATE = 4 ∧ t.tray.gf lp F.LANE_EQ_STS_TAPS = q.taps % 2 ^ F.LANE_EQ_STS_TAPS.w ∧
        t.tray.gf lp F.LANE_EVT_FREEZES = min 65535 (s.tray.gf lp F.LANE_EVT_FREEZES + 1) ∧ t.tray.irqUp lp 9 ∧
        s.tray.keepsRegs t.tray (fun q _ => q = lp) ∧ s.tray.keepsBlocks t.tray)) ∧
    (s.tray.gf lp F.LANE_STS_STATE = 4 → (s.tray.lane c.val n.val).side = 0 →
      Completes (.freezeExit c n) s (fun t =>
        t.tray.gf lp F.LANE_STS_STATE = laneStateOf (s.tray.pst c.val e) ∧ t.tray.is lp F.LANE_STS_SAT = false ∧
        s.tray.keepsRegs t.tray (fun q o => q = lp ∧ o = A.LANE_STS) ∧ s.tray.keepsBlocks t.tray)) ∧
    (s.tray.is lp F.LANE_STS_LOS = false → s.tray.pst c.val e ≠ S.FLOOD_HOLD → s.tray.pst c.val e ≠ S.RETRAIN →
      Completes (.losDetect c n true) s (fun t =>
        t.tray.is lp F.LANE_STS_LOS = true ∧ t.tray.gf lp F.LANE_EVT_LOS_CNT = min 65535 (s.tray.gf lp F.LANE_EVT_LOS_CNT + 1) ∧
        bitOf (t.tray.gf (portPg c.val e) F.PORT_ALARM_ALARMS) Al.LOS = true ∧
        s.tray.keepsRegs t.tray (portArea c.val e) ∧ s.tray.keepsBlocks t.tray) ∧
      ((s.tray.bay (bayOf c.val e)).cartFault = true → s.tray.gf lp F.LANE_STS_STATE = 4 →
        Completes (.freezeLosTimeout c n) s (fun t =>
          t.tray.is lp F.LANE_STS_LOS = true ∧ s.tray.keepsRegs t.tray (portArea c.val e) ∧ s.tray.keepsBlocks t.tray))) ∧
    (∀ lock, s.tray.pst c.val e = S.DIAG → s.tray.is lp F.LANE_STS_PRBS_LOCK ≠ lock →
      Completes (.prbsLock c n lock) s (fun t =>
        t.tray.is lp F.LANE_STS_PRBS_LOCK = lock ∧
        s.tray.keepsRegs t.tray (fun q o => q = lp ∧ (o = A.LANE_STS ∨ o = 0x20)) ∧ s.tray.keepsBlocks t.tray)) ∧
    (∀ v, s.tray.accepts c.val (0x100 + n.val) A.LANE_SLIP = true → (s.tray.chip c.val).coreUp = true → s.tray.pst c.val e = S.DIAG →
      s.tray.is lp F.LANE_DIAG_AUTO_ALIGN = false →
      Completes (.laneSlip c n v) s (fun t =>
        (t.tray.lane c.val n.val).slip = (s.tray.lane c.val n.val).slip + fieldOf v 0 8 ∧
        s.tray.keepsRegs t.tray (fun q o => q = lp ∧ o = A.LANE_SLIP) ∧ s.tray.keepsOtherPorts t.tray c.val e))

/-- R132: FLOOD_DECLARE on an UP port of an SC-L cartridge raises the flood alarm, counts the flood on the lanes, freezes them,
sends FLOOD_NOTE and enters FLOOD_HOLD; R133: FLOOD_CLEAR with every lane normal clears it and begins RETRAIN; R136: a fourth
failing SIDEBAND_FRAME raises CART_FAULT. -/
def Obligations.Floods : Prop :=
  ∀ (s : State) (c : Fin 5) (e : Fin 64), s.tray.settled c.val →
    (s.tray.cartType c.val e.val = 3 → s.tray.pst c.val e.val = S.UP →
      Completes (.floodDeclare c e) s (fun t =>
        t.tray.pst c.val e.val = S.FLOOD_HOLD ∧ (t.tray.port c.val e.val).floodOwn = true ∧
        bitOf (t.tray.gf (portPg c.val e.val) F.PORT_ALARM_ALARMS) Al.FLOOD = true ∧
        s.tray.logs t.tray .flood c.val [e.val] ∧
        (∃ g, Out.maint c.val e.val g ∈ t.tray.out ∧ fByte g 0 = M.FLOOD_NOTE ∧ fByte g 2 = 1) ∧
        s.tray.keepsRegs t.tray (fun q o => portArea c.val e.val q o ∨ ¬ trafficFree c.val q o))) ∧
    ((lanesOf e.val).all (fun n => (s.tray.lane c.val n).side == 0) = true →
      s.tray.pst c.val e.val = S.FLOOD_HOLD → (s.tray.port c.val e.val).floodPeer = false →
      Completes (.floodClear c e) s (fun t =>
        t.tray.pst c.val e.val = S.RETRAIN ∧
        bitOf (t.tray.gf (portPg c.val e.val) F.PORT_ALARM_ALARMS) Al.FLOOD = false ∧
        ((s.tray.port c.val e.val).floodOwn = true →
          ∃ g, Out.maint c.val e.val g ∈ t.tray.out ∧ fByte g 0 = M.FLOOD_NOTE ∧ fByte g 2 = 0) ∧
        s.tray.keepsRegs t.tray (portArea c.val e.val) ∧ s.tray.keepsOtherPorts t.tray c.val e.val)) ∧
    (∀ (b : Fin 40) (states : Word), (∀ d, d < 5 → s.tray.settled d) → s.tray.gf (bayPg b.val) F.PORT_CART_TYPE = 3 → (s.tray.bay b.val).sideFail = 3 →
      Completes (.sidebandFrame b states false) s (fun t =>
        (t.tray.bay b.val).cartFault = true ∧
        (∀ k, k < 8 → bitOf (t.tray.gf (portPg (b.val / 8) (8 * (b.val % 8) + k)) F.PORT_ALARM_ALARMS) Al.CART_FAULT = true) ∧
        s.tray.keepsRegs t.tray (fun q o => portPg (b.val / 8) (8 * (b.val % 8)) ≤ q ∧
          q < portPg (b.val / 8) (8 * (b.val % 8)) + 8 ∧ (o = A.PORT_ALARM ∨ o = 0x20))))

/-- R142–R144: CART_INSERT shows what the cartridge declares and frees its held ports, CART_READY makes it Ready; CART_REMOVE
empties PORT_CART and takes every live port down with cause CART; CMIS_INTERRUPT shows the module state. -/
def Obligations.CartridgesComeAndGo : Prop :=
  ∀ (s : State) (b : Fin 40), (∀ d, d < 5 → s.tray.settled d) →
    let c := b.val / 8
    let ours := fun (q o : Nat) => ∃ k, k < 8 ∧ portDown c (8 * (b.val % 8) + k) q o
    (∀ x : CartInfo, x.wf = true → (s.tray.bay b.val).info = none → (s.tray.chip c).coreUp = true → 1 ≤ x.kind → x.kind ≤ 3 →
      x.answers = true → x.hasApp = true → x.compat = 0 →
      Completes (.cartInsert b x) s (fun t =>
        (t.tray.bay b.val).info = some x ∧ t.tray.gf (bayPg b.val) F.PORT_CART_TYPE = x.kind ∧
        t.tray.gf (bayPg b.val) F.PORT_CART_LEN_DM = x.lenDm ∧
        (∀ k, k < 8 → s.tray.pst c (8 * (b.val % 8) + k) = S.HELD → t.tray.pst c (8 * (b.val % 8) + k) = S.DOWN) ∧
        (∀ k, k < 8 → s.tray.pst c (8 * (b.val % 8) + k) ≠ S.HELD →
          t.tray.pst c (8 * (b.val % 8) + k) = s.tray.pst c (8 * (b.val % 8) + k)) ∧
        s.tray.keepsRegs t.tray ours)) ∧
    (∀ x : CartInfo, (s.tray.bay b.val).info = some x → 1 ≤ s.tray.gf (bayPg b.val) F.PORT_CART_TYPE →
      s.tray.gf (bayPg b.val) F.PORT_CART_TYPE ≤ 3 → x.compat ≠ 2 → (s.tray.bay b.val).hot = false →
      Completes (.cartReady b) s (fun t =>
        t.tray.gf (bayPg b.val) F.PORT_CART_MSTATE = 3 ∧
        s.tray.keepsRegs t.tray (fun q o => q = bayPg b.val ∧ o = A.PORT_CART) ∧ s.tray.keepsBlocks t.tray)) ∧
    (∀ x : CartInfo, (s.tray.bay b.val).info = some x →
      Completes (.cartRemove b) s (fun t =>
        t.tray.rd (bayPg b.val) A.PORT_CART = 0 ∧ (t.tray.bay b.val).info = none ∧
        (∀ k, k < 8 → s.tray.live c (8 * (b.val % 8) + k) = true → t.tray.pcause c (8 * (b.val % 8) + k) = Cz.CART) ∧
        (∀ k, k < 8 → t.tray.live c (8 * (b.val % 8) + k) = false) ∧ s.tray.keepsRegs t.tray ours)) ∧
    (∀ (x : CartInfo) (fl : CmisFlags), (s.tray.bay b.val).info = some x → fl.wf = true → fl.txFail = 0 →
      Completes (.cmisInterrupt b fl) s (fun t =>
        t.tray.gf (bayPg b.val) F.PORT_CART_MSTATE = fl.mstate ∧
        s.tray.keepsRegs t.tray (fun q o => q = bayPg b.val ∧ o = A.PORT_CART) ∧ s.tray.keepsBlocks t.tray))

/-- R147: CMIS_TRANSACTION starts a transaction or refuses a control that the tray owns with RESULT 3; CMIS_DONE ends it
with its result and CMIS_DONE raised. R137: WEAR_READ shows bias, ratio and hours; R138: LANE_SPARE without an SC-L
cartridge answers 3, without a spare 2; R139: WEAR_FORECAST keeps the worst ratio. -/
def Obligations.CartridgeServices : Prop :=
  ∀ (s : State) (b : Fin 40),
    let pg := bayPg b.val
    (∀ v, s.tray.accepts (b.val / 8) (0x010 + 8 * (b.val % 8)) A.PORT_CMIS_CMD = true →
      (s.tray.chip (b.val / 8)).coreUp = true → s.tray.settled (b.val / 8) →
      s.tray.is pg F.PORT_CMIS_STS_BUSY = false → F.PORT_CMIS_CMD_GO.get v = 1 → 1 ≤ F.PORT_CMIS_CMD_LEN.get v →
      F.PORT_CMIS_CMD_LEN.get v ≤ 8 →
      let owned := F.PORT_CMIS_CMD_WRITE.get v = 1 ∧
        trayOwned (F.PORT_CMIS_CMD_PAGE.get v) (F.PORT_CMIS_CMD_ADDR.get v) (F.PORT_CMIS_CMD_LEN.get v) = true
      (owned → Completes (.cmisTransaction b v) s (fun t =>
        t.tray.gf pg F.PORT_CMIS_STS_RESULT = 3 ∧ t.tray.is pg F.PORT_CMIS_STS_DONE = true ∧ t.tray.irqUp pg 22 ∧
        s.tray.keepsRegs t.tray (fun q o => q = pg ∧ (o = A.PORT_CMIS_CMD ∨ o = A.PORT_CMIS_STS ∨ o = 0x20)) ∧
        s.tray.keepsBlocks t.tray)) ∧
      (¬ owned → Completes (.cmisTransaction b v) s (fun t =>
        t.tray.is pg F.PORT_CMIS_STS_BUSY = true ∧ (t.tray.bay b.val).cmis.isSome = true ∧
        s.tray.keepsRegs t.tray (fun q o => q = pg ∧ (o = A.PORT_CMIS_CMD ∨ o = A.PORT_CMIS_STS))))) ∧
    (∀ v, (s.tray.bay b.val).cmis = some v →
      Completes (.cmisDone b .pageNotAdvertised) s (fun t =>
        t.tray.is pg F.PORT_CMIS_STS_BUSY = false ∧ t.tray.is pg F.PORT_CMIS_STS_DONE = true ∧
        t.tray.gf pg F.PORT_CMIS_STS_RESULT = 2 ∧ t.tray.irqUp pg 22 ∧ (t.tray.bay b.val).cmis = none ∧
        s.tray.keepsRegs t.tray (fun q o => q = pg ∧ (o = A.PORT_CMIS_STS ∨ o = 0x20)))) ∧
    (∀ (c : Fin 5) (n : Fin 256) (bias bol : BitVec 16) (hours : BitVec 32), s.tray.settled c.val →
      s.tray.cartType c.val (n.val / 4) = 3 → s.tray.cartState c.val (n.val / 4) = 3 →
      (s.tray.bay (bayOf c.val (n.val / 4))).cmisFail = false → bol ≠ 0 → 2 * bias.toNat < 3 * bol.toNat →
      Completes (.wearRead c n bias bol hours false) s (fun t =>
        t.tray.gf (lanePg c.val n.val) F.LANE_WEAR_BIAS = bias.toNat ∧
        t.tray.gf (lanePg c.val n.val) F.LANE_WEAR_RATIO = min 65535 (bias.toNat * 1024 / bol.toNat) ∧
        t.tray.gf (lanePg c.val n.val) F.LANE_WEAR_HOURS = hours.toNat ∧
        (t.tray.lane c.val n.val).worn = decide (13 * bol.toNat ≤ 10 * bias.toNat) ∧
        (t.tray.lane c.val n.val).eol = false ∧
        s.tray.keepsRegs t.tray (portArea c.val (n.val / 4)) ∧ s.tray.keepsOtherPorts t.tray c.val (n.val / 4))) ∧
    (∀ (c : Fin 5) (e : Fin 64) (v : Word), s.tray.accepts c.val (0x010 + e.val) A.PORT_SPARE = true →
      (s.tray.chip c.val).coreUp = true → s.tray.settled c.val →
      F.PORT_SPARE_GO.get v = 1 → s.tray.is (portPg c.val e.val) F.PORT_SPARE_BUSY = false →
      ∀ r, r = (if s.tray.cartType c.val e.val ≠ 3 then 3 else 2) →
      (s.tray.cartType c.val e.val = 3 → s.tray.spareFree c.val e.val = false) →
      Completes (.laneSpare c e v) s (fun t =>
        t.tray.gf (portPg c.val e.val) F.PORT_SPARE_RESULT = r ∧ t.tray.irqUp (portPg c.val e.val) 23 ∧
        s.tray.keepsRegs t.tray (fun q o => q = portPg c.val e.val ∧ (o = A.PORT_SPARE ∨ o = 0x20)) ∧
        s.tray.keepsBlocks t.tray)) ∧
    (∀ samples : List (List (Nat × Nat)), s.tray.gf pg F.PORT_CART_TYPE = 3 →
      Completes (.wearForecast b samples) s (fun t =>
        (t.tray.bay b.val).worst = maxL (samples.map (fun l => ((l.getLast?).map (fun a => a.2)).getD 0)) ∧
        s.tray.keepsRegs t.tray (fun _ _ => False)))

/-- R146: PORT_RESTART of a live port performs a port abort and the port leaves with cause ABORT, of a held or waiting port
starts training again; PORT_DIAG holds a port that is not live in DIAG. -/
def Obligations.OperatorRestartsPorts : Prop :=
  ∀ (s : State) (c : Fin 5) (e : Fin 64), s.tray.accepts c.val (0x010 + e.val) A.PORT_TRAIN_CTL = true →
    (s.tray.chip c.val).coreUp = true →
    (s.tray.live c.val e.val = true →
      Completes (.portRestart c e) s (fun t =>
        t.tray.portShows c.val e.val (s.tray.leaveTo c.val e.val Cz.ABORT) Cz.ABORT ∧
        s.tray.keepsRegs t.tray (portDown c.val e.val))) ∧
    (s.tray.pst c.val e.val = S.HELD ∨ s.tray.pst c.val e.val = S.HOLDOFF ∨ isTraining (s.tray.pst c.val e.val) = true →
      Completes (.portRestart c e) s (fun t =>
        t.tray.portShows c.val e.val S.DOWN (s.tray.pcause c.val e.val) ∧ s.tray.keepsRegs t.tray (portDown c.val e.val))) ∧
    (s.tray.pst c.val e.val ≠ S.DISABLED → s.tray.live c.val e.val = false →
      s.tray.is (portPg c.val e.val) F.PORT_TRAIN_CTL_DIAG = false →
      Completes (.portDiag c e true) s (fun t =>
        t.tray.pst c.val e.val = S.DIAG ∧ t.tray.is (portPg c.val e.val) F.PORT_TRAIN_CTL_DIAG = true ∧
        s.tray.keepsRegs t.tray (portDown c.val e.val)))

/-! ### Packets, switch core, replay, circuits, deck ring (R148–R228) -/

/-- R199: CELL_ADMIT takes the next cell of a TC1 or TC3 packet for a live output into the shared pool where the threshold of
R198 passes, otherwise into the reserved headroom with XOFF of its class set; R165, R193: XOFF_CLEAR and STAGE_XOFF_CLEAR
release XOFF; R168: CARVE_OUT_GRANT gives a waiting port its reservation. -/
def Obligations.CellsAreAdmitted : Prop :=
  ∀ (s : State) (c : Fin 5) (e : Fin 64),
    (∀ p x l, s.tray.enabled (chipPg c.val 0x060) = true → s.tray.nextCell c.val e.val = some p →
      s.tray.findPkt c.val p.id = some p → p.multi = false → p.copies = x :: l → p.circ = none → p.cls ≠ 2 →
      s.tray.live c.val x.port = true → s.tray.storm c.val x.port p.cls = false →
      (s.tray.passes c.val x.port p.cls = true →
        Completes (.cellAdmit c e) s (fun t =>
          (∃ q, t.tray.findPkt c.val p.id = some q ∧ q.accts = p.accts ++ [false] ∧ q.hdr = p.hdr ∧ q.pay = p.pay) ∧
          s.tray.keepsRegs t.tray (coreReg c.val) ∧ t.tray.mem = s.tray.mem ∧ t.tray.tables = s.tray.tables)) ∧
      (s.tray.passes c.val x.port p.cls = false → s.tray.kitHdrm c.val e.val p.cls < s.tray.resvOf c.val e.val p.cls →
        Completes (.cellAdmit c e) s (fun t =>
          (∃ q, t.tray.findPkt c.val p.id = some q ∧ q.accts = p.accts ++ [true] ∧ q.hdr = p.hdr ∧ q.pay = p.pay) ∧
          bitOf (t.tray.port c.val e.val).xoffKit p.cls = true ∧
          s.tray.keepsRegs t.tray (coreReg c.val) ∧ t.tray.mem = s.tray.mem ∧ t.tray.tables = s.tray.tables))) ∧
    (∀ tc : Fin 4, tc.val ≠ 0 → s.tray.kitHdrm c.val e.val tc.val = 0 → s.tray.wouldAdmit c.val e.val tc.val = true →
      Completes (.xoffClear c e tc) s (fun t =>
        bitOf (t.tray.port c.val e.val).xoffKit tc.val = false ∧
        (∀ k, k ≠ tc.val → bitOf (t.tray.port c.val e.val).xoffKit k = bitOf (s.tray.port c.val e.val).xoffKit k) ∧
        s.tray.keepsRegs t.tray (fun _ _ => False) ∧ s.tray.keepsOtherPorts t.tray c.val e.val)) ∧
    (s.tray.stageOcc c.val e.val ≤ s.tray.stageMark c.val e.val / 2 →
      Completes (.stageXoffClear c e) s (fun t =>
        (t.tray.port c.val e.val).xoffStage = false ∧
        bitOf (t.tray.gf (chipPg c.val 0x050) F.SCHED_STAGE_XOFF_PORTS) e.val = false ∧
        s.tray.keepsRegs t.tray (fun q o => q = chipPg c.val 0x050 ∧ o = A.SCHED_STAGE_XOFF) ∧
        s.tray.keepsOtherPorts t.tray c.val e.val)) ∧
    (s.tray.is (portPg c.val e.val) F.PORT_FC_STS_HDRM_WAIT = true → s.tray.live c.val e.val = true →
      s.tray.hdrm c.val e.val 1 + s.tray.hdrm c.val e.val 2 + s.tray.hdrm c.val e.val 3 ≤ s.tray.kitFree c.val →
      Completes (.carveOutGrant c e) s (fun t =>
        t.tray.is (portPg c.val e.val) F.PORT_FC_STS_HDRM_WAIT = false ∧
        (∀ tc, 1 ≤ tc → tc ≤ 3 → s.tray.hdrm c.val e.val tc ≤ t.tray.resvOf c.val e.val tc) ∧
        s.tray.keepsRegs t.tray (fun q o => q = portPg c.val e.val ∧ o = A.PORT_FC_STS) ∧
        s.tray.keepsOtherPorts t.tray c.val e.val))

/-- R194: ORIG_ADMIT takes the agent's waiting packet: a TC0 packet that is not stored goes to the output; R161:
FENCE_RELEASE passes a FENCE that has no earlier packet of its pair; R196: REQUEST_AGED promotes a request and counts it;
R170: PAUSE_STORM shows the class and raises its interrupt. -/
def Obligations.QueuesMoveOn : Prop :=
  ∀ (s : State) (c : Fin 5) (e : Fin 64),
    (∀ o, s.tray.enabled (chipPg c.val 0x060) = true →
      (s.tray.pkts c.val).any (fun p => p.inPort == e.val && p.orig && decide (p.accts.length < p.cells)) = false →
      (s.tray.port c.val e.val).origq = [o] → storedType o.pkt.hdr = false → hCh o.pkt.hdr = 0 →
      Completes (.origAdmit c e) s (fun t =>
        (t.tray.port c.val e.val).origq = [] ∧ (t.tray.port c.val e.val).snapq = (s.tray.port c.val e.val).snapq ++ [o.pkt] ∧
        s.tray.keepsRegs t.tray (fun _ _ => False) ∧ s.tray.keepsOtherPorts t.tray c.val e.val)) ∧
    (∀ l1 p l2, s.tray.pkts c.val = l1 ++ p :: l2 → p.held = true → p.inPort = e.val → hFence p.hdr = true → p.copies ≠ [] →
      (∀ q ∈ l1, ¬ (q.inPort = e.val ∧ q.orig = false ∧ q.multi = false ∧ hDst q.hdr = hDst p.hdr)) →
      Completes (.fenceRelease c e) s (fun t =>
        { p with held := false } ∈ t.tray.pkts c.val ∧
        s.tray.keepsRegs t.tray (fun _ _ => False) ∧ t.tray.ports = s.tray.ports ∧ t.tray.mem = s.tray.mem)) ∧
    (∀ (x : Fin 4) (f : Fin 64), (s.tray.requests c.val x.val).any (fun a => a.inp == e.val && a.out == f.val) = true →
      (s.tray.chip c.val).aged.contains (x.val * 4096 + e.val * 64 + f.val) = false →
      Completes (.requestAged c x e f) s (fun t =>
        (t.tray.chip c.val).aged = (s.tray.chip c.val).aged ++ [x.val * 4096 + e.val * 64 + f.val] ∧
        t.tray.gf (chipPg c.val 0x050) F.SCHED_AGED_COUNT =
          min (2 ^ F.SCHED_AGED_COUNT.w - 1) (s.tray.gf (chipPg c.val 0x050) F.SCHED_AGED_COUNT + 1) ∧
        s.tray.keepsRegs t.tray (fun q o => q = chipPg c.val 0x050 ∧ o = A.SCHED_AGED) ∧ t.tray.ports = s.tray.ports ∧
        t.tray.mem = s.tray.mem)) ∧
    (∀ tc : Fin 4, s.tray.settled c.val → s.tray.pst c.val e.val = S.UP → bitOf (s.tray.xoffRx c.val e.val) tc.val = true →
      s.tray.storm c.val e.val tc.val = false →
      Completes (.pauseStorm c e tc) s (fun t =>
        t.tray.storm c.val e.val tc.val = true ∧ t.tray.irqUp (portPg c.val e.val) 25 ∧
        s.tray.keepsRegs t.tray (fun q o => q = portPg c.val e.val ∨ ¬ trafficFree c.val q o)))

/-- R195: in a SCHED_SLOT a lone staged packet that waits for one output is matched: its cell crosses, the output is linked,
the rotating pointers move past the pair; R211: RESIDUE_RETRY links a lone residue entry to its member once that is ready. -/
def Obligations.SlotsMatchRequests : Prop :=
  ∀ (s : State) (c : Fin 5),
    (∀ (p : CorePkt) (f : Nat), s.tray.chipRuns c.val = true → s.tray.enabled (chipPg c.val 0x050) = true →
      1 ≤ s.tray.gf (chipPg c.val 0x050) F.SCHED_CFG_ITER → s.tray.pkts c.val = [p] → p.circ = none → p.held = false →
      p.copies = [{ port := f }] → p.residue = [] → p.inPort < 64 → f < 64 → p.crossed < p.accts.length →
      let x := (hSrc p.hdr + hDst p.hdr + hCh p.hdr) % 4
      Completes (.schedSlot c []) s (fun t =>
        (let y : Copy := { port := f, linked := true, order := (s.tray.chip c.val).nextLink }
         t.tray.pkts c.val = [{ p with crossed := p.crossed + 1, copies := [y] }]) ∧
        Assoc.get (fun _ => 0) (t.tray.chip c.val).gptr (x * 64 + f) = (p.inPort + 1) % 64 ∧
        Assoc.get (fun _ => 0) (t.tray.chip c.val).aptr (x * 64 + p.inPort) = (f + 1) % 64 ∧
        s.tray.keepsRegs t.tray (coreReg c.val) ∧ t.tray.ports = s.tray.ports ∧ t.tray.mem = s.tray.mem)) ∧
    (∀ (p : CorePkt) (f : Nat), s.tray.chipRuns c.val = true → s.tray.pkts c.val = [p] → p.inResidue = true → p.judged = true →
      p.residue = [f] → p.copies = [] → s.tray.pst c.val f = S.UP → s.tray.storm c.val f p.cls = false →
      s.tray.passes c.val f p.cls = true → (s.tray.chip c.val).resWait = [] →
      Completes (.residueRetry c) s (fun t =>
        (let y : Copy := { port := f, linked := true, order := (s.tray.chip c.val).nextLink }
         t.tray.pkts c.val = [{ p with residue := [], inResidue := false, via := none, copies := [y] }]) ∧
        s.tray.keepsRegs t.tray (fun _ _ => False) ∧ t.tray.ports = s.tray.ports ∧ t.tray.mem = s.tray.mem))

/-- R205, R148: EGRESS_SELECT at a header position sends an IDLE header where nothing waits, and the header of the first
waiting TC0 packet ahead of everything else; R215: KITTY_ECC_ERROR counts, raises its interrupt and discards a packet not yet
started. -/
def Obligations.EgressAndKittyErrors : Prop :=
  ∀ (s : State) (c : Fin 5),
    (∀ e : Fin 64, s.tray.settled c.val → s.tray.pst c.val e.val = S.UP → (s.tray.port c.val e.val).tx = {} →
      (s.tray.pkts c.val = [] → (s.tray.port c.val e.val).snapq = [] →
        Completes (.egressSelect c e) s (fun t =>
          Out.flit c.val e.val idleHdr ∈ t.tray.out ∧ (t.tray.port c.val e.val).tx.pos = 1 ∧
          s.tray.keepsRegs t.tray (fun _ _ => False) ∧ s.tray.keepsOtherPorts t.tray c.val e.val)) ∧
      (∀ p rest, (s.tray.port c.val e.val).snapq = p :: rest → bitOf (s.tray.xoffRx c.val e.val) 0 = false →
        s.tray.is (portPg c.val e.val) F.PG_COMMIT_STS_PENDING = false →
        Completes (.egressSelect c e) s (fun t =>
          Out.flit c.val e.val p.hdr ∈ t.tray.out ∧ (t.tray.port c.val e.val).snapq = rest ∧
          s.tray.counted t.tray c.val (hSeat p.hdr) N.TX_PKTS 1 ∧ s.tray.counted t.tray c.val (hSeat p.hdr) N.TX_BYTES 64 ∧
          s.tray.keepsRegs t.tray (chargeReg c.val) ∧ s.tray.keepsOtherPorts t.tray c.val e.val))) ∧
    (∀ flit, s.tray.settled c.val →
      Completes (.kittyEccError c none flit) s (fun t =>
        t.tray.gf (chipPg c.val 0x060) F.KIT_ECC_UNCORR =
          (s.tray.gf (chipPg c.val 0x060) F.KIT_ECC_UNCORR + 1) % 2 ^ F.KIT_ECC_UNCORR.w ∧
        t.tray.irqUp (chipPg c.val 0x060) 8 ∧
        s.tray.keepsRegs t.tray (fun q o => q = chipPg c.val 0x060 ∧ (o = A.KIT_ECC ∨ o = 0x20)) ∧ s.tray.keepsBlocks t.tray)) ∧
    (∀ i p flit, s.tray.settled c.val → s.tray.findPkt c.val i = some p → p.copies.any (fun x => x.started) = false →
      (∀ q ∈ s.tray.pkts c.val, q.id = i → q = p) →
      Completes (.kittyEccError c (some i) flit) s (fun t =>
        s.tray.counted t.tray c.val p.seat N.DOWN_DROP 1 ∧ t.tray.irqUp (chipPg c.val 0x060) 8 ∧
        t.tray.findPkt c.val i = none ∧ t.tray.mem = s.tray.mem))

/-- R157, R484: DATA_RECEIVE of an allowed unicast packet of its seat puts the packet, header and payload unchanged, into the
switch core and counts it for the seat; R365: one that fails the seat check is counted for seat 0, held where no earlier one
is, and enters nothing; R152: FLIT_RECEIVE of a header that fails HDR_CRC sends the receiver into HUNT. -/
def Obligations.PacketsArrive : Prop :=
  ∀ (s : State) (c : Fin 5) (e : Fin 64), s.tray.settled c.val → s.tray.pst c.val e.val = S.UP →
    (s.tray.chip c.val).coreUp = true →
    (∀ p : Pkt, p.pay.length = flitsOf (hLen p.hdr) → hdrParses p.hdr = true → hdrAllowed p.hdr = true → hPtype p.hdr = P.DATA →
      hDstKind p.hdr = 0 →
      (s.tray.seatPasses c.val e.val p.hdr = true → s.tray.findPkt c.val (s.tray.chip c.val).nextPkt = none →
        s.tray.circOf c.val e.val p.hdr = none → s.tray.stageOcc c.val e.val + cellsOf (hLen p.hdr) ≤ 320 →
        Completes (.dataReceive c e p) s (fun t =>
          (∃ q, t.tray.findPkt c.val (s.tray.chip c.val).nextPkt = some q ∧ q.hdr = p.hdr ∧ q.pay = p.pay ∧ q.inPort = e.val ∧
            q.arrived = cellsOf (hLen p.hdr) ∧ q.dropped = false) ∧
          s.tray.counted t.tray c.val (hSeat p.hdr) N.RX_PKTS 1 ∧
          s.tray.keepsRegs t.tray (fun q o => coreReg c.val q o ∨ (q = portPg c.val e.val ∧ o = A.PORT_RX_ERR)) ∧
          t.tray.mem = s.tray.mem ∧ t.tray.tables = s.tray.tables)) ∧
      (s.tray.seatPasses c.val e.val p.hdr = false →
        Completes (.dataReceive c e p) s (fun t =>
          t.tray.gf (portPg c.val e.val) F.PORT_RX_ERR_BAD_PKT =
            min (2 ^ F.PORT_RX_ERR_BAD_PKT.w - 1) (s.tray.gf (portPg c.val e.val) F.PORT_RX_ERR_BAD_PKT + 1) ∧
          s.tray.counted t.tray c.val 0 N.SEAT_REJECT 1 ∧ s.tray.counted t.tray c.val 0 N.RX_PKTS 1 ∧
          (s.tray.is (seatPg c.val 0) F.SEAT_REJ_CAPT_VALID = false →
            t.tray.is (seatPg c.val 0) F.SEAT_REJ_CAPT_VALID = true ∧ t.tray.irqUp (seatPg c.val 0) 8) ∧
          s.tray.keepsBlocks t.tray))) ∧
    (∀ f : Flit, (s.tray.port c.val e.val).rx = { hunt := false } → f ≠ breakFlit → hdrOk f = false →
      Completes (.flitReceive c e f false) s (fun t =>
        (t.tray.port c.val e.val).rx.hunt = true ∧
        t.tray.gf (portPg c.val e.val) F.PORT_RX_ERR_HDR_CRC =
          min (2 ^ F.PORT_RX_ERR_HDR_CRC.w - 1) (s.tray.gf (portPg c.val e.val) F.PORT_RX_ERR_HDR_CRC + 1) ∧
        t.tray.gf (portPg c.val e.val) F.PORT_RX_ERR_FRAME =
          min (2 ^ F.PORT_RX_ERR_FRAME.w - 1) (s.tray.gf (portPg c.val e.val) F.PORT_RX_ERR_FRAME + 1) ∧
        s.tray.keepsRegs t.tray (fun q o => q = portPg c.val e.val ∧ (o = A.PORT_RX_ERR ∨ o = 0x20)) ∧
        s.tray.keepsOtherPorts t.tray c.val e.val))

/-- R174: ACK_RECEIVE moves the oldest unacknowledged SEQ to ACK_SEQ and frees the replay entries below it; NAK_RECEIVE at
the oldest SEQ sends every stored packet of the stream again; ACK_SEND sends the cumulative ACK; RTO_EXPIRY counts an expiry
and sends the stream again, and the MAX_RETRY-th takes the port down with cause ABORT. -/
def Obligations.ReplayFollowsAcknowledgements : Prop :=
  ∀ (s : State) (c : Fin 5) (e : Fin 64), s.tray.settled c.val → s.tray.pst c.val e.val = S.UP →
    (s.tray.chip c.val).coreUp = true →
    let p := s.tray.port c.val e.val
    let una := fun ch => Assoc.get (fun _ => 0) p.txUna ch
    let nxt := fun ch => Assoc.get (fun _ => 0) p.txNxt ch
    (∀ k : Pkt, k.pay = [] → flitsOf (hLen k.hdr) = 0 → hdrParses k.hdr = true → hdrAllowed k.hdr = true → hDstKind k.hdr = 2 →
      s.tray.seatPasses c.val e.val k.hdr = true → pE2eOk k = true →
      let ch := hArg k.hdr % 8
      let seq := hArg k.hdr / 2 ^ 8 % 2 ^ 24
      let below := fun (r : ReplayEnt) => r.ch == ch && decide ((r.seq + 2 ^ 24 - una ch) % 2 ^ 24 < (seq + 2 ^ 24 - una ch) % 2 ^ 24)
      (hPtype k.hdr = P.ACK → (seq + 2 ^ 24 - una ch) % 2 ^ 24 ≤ (nxt ch + 2 ^ 24 - una ch) % 2 ^ 24 →
        (∀ r ∈ p.replay, below r = true → r.owner = .none ∧ r.freed = false) →
        Completes (.ackReceive c e k) s (fun t =>
          Assoc.get (fun _ => 0) (t.tray.port c.val e.val).txUna ch = seq ∧
          (t.tray.port c.val e.val).replay = p.replay.filter (fun r => !below r) ∧
          s.tray.counted t.tray c.val (hSeat k.hdr) N.RX_PKTS 1 ∧
          s.tray.keepsRegs t.tray (fun q o => chargeReg c.val q o ∨ (q = portPg c.val e.val ∧ o = A.PORT_REPLAY)) ∧
          s.tray.keepsOtherPorts t.tray c.val e.val)) ∧
      (hPtype k.hdr = P.NAK → seq = una ch →
        Completes (.nakReceive c e k) s (fun t =>
          (t.tray.port c.val e.val).replay = p.replay ∧
          (t.tray.port c.val e.val).origq.length =
            p.origq.length + (p.replay.filter (fun r => r.ch == ch && !r.freed)).length ∧
          t.tray.gf (portPg c.val e.val) F.PORT_REPLAY_RESENDS = (s.tray.gf (portPg c.val e.val) F.PORT_REPLAY_RESENDS +
            (p.replay.filter (fun r => r.ch == ch && !r.freed)).length) % 2 ^ F.PORT_REPLAY_RESENDS.w ∧
          s.tray.keepsRegs t.tray (fun q o => chargeReg c.val q o ∨ (q = portPg c.val e.val ∧ o = A.PORT_REPLAY)) ∧
          s.tray.keepsOtherPorts t.tray c.val e.val))) ∧
    (∀ ch : Fin 8, Assoc.get (fun _ => 0) p.unacked ch.val ≠ 0 →
      Completes (.ackSend c e ch) s (fun t =>
        Assoc.get (fun _ => 0) (t.tray.port c.val e.val).unacked ch.val = 0 ∧
        (∃ k, (t.tray.port c.val e.val).origq = p.origq ++ [k] ∧ hPtype k.pkt.hdr = P.ACK ∧
          hArg k.pkt.hdr = ackArg ch.val (Assoc.get (fun _ => 0) p.rxExp ch.val) 0) ∧
        s.tray.keepsRegs t.tray (fun _ _ => False) ∧ s.tray.keepsOtherPorts t.tray c.val e.val)) ∧
    (∀ ch : Fin 8, una ch.val ≠ nxt ch.val →
      let n := Assoc.get (fun _ => 0) p.retries ch.val + 1
      (n < s.tray.gf (portPg c.val e.val) F.PORT_FC_CTL_MAX_RETRY →
        Completes (.rtoExpiry c e ch) s (fun t =>
          Assoc.get (fun _ => 0) (t.tray.port c.val e.val).retries ch.val = n ∧
          (t.tray.port c.val e.val).origq.length =
            p.origq.length + (p.replay.filter (fun r => r.ch == ch.val && !r.freed)).length ∧
          s.tray.keepsRegs t.tray (fun q o => q = portPg c.val e.val ∧ o = A.PORT_REPLAY) ∧
          s.tray.keepsOtherPorts t.tray c.val e.val)) ∧
      (s.tray.gf (portPg c.val e.val) F.PORT_FC_CTL_MAX_RETRY ≤ n →
        Completes (.rtoExpiry c e ch) s (fun t =>
          t.tray.portShows c.val e.val (s.tray.leaveTo c.val e.val Cz.ABORT) Cz.ABORT ∧ t.tray.irqUp (portPg c.val e.val) 26 ∧
          s.tray.keepsRegs t.tray (portDown c.val e.val))))

/-- R186: CIRC_ENT_WRITE sets the selected circuit's fields, refused while it exists; CIRC_SETUP installs it or answers the
code of the first condition that fails; R185: CIRC_TEARDOWN removes it. R225: MCG_WRITE installs the holding registers as the
selected group, MCG_READ loads them from it. -/
def Obligations.CircuitsAndGroups : Prop :=
  ∀ (s : State) (c : Fin 5), (s.tray.chip c.val).coreUp = true → s.tray.settled c.val →
    let pg := circPg c.val
    let k := s.tray.circSel c.val
    (∀ v, s.tray.accepts c.val 0x3C0 A.CIRC_ENT = true →
      (s.tray.circ c.val k ≠ none → s.tray.gf pg F.PG_ERR_CAPT_VALID = 0 →
        Completes (.circEntWrite c v) s (fun t =>
          t.tray.holdsErr pg 0x40 A.CIRC_ENT 0 true (s.tray.timeOf c.val) ∧
          s.tray.keepsRegs t.tray (fun q o => q = pg ∧ (o = 0x60 ∨ o = 0x20)) ∧ s.tray.keepsBlocks t.tray)) ∧
      (s.tray.circ c.val k = none → 5 ≤ F.CIRC_ENT_CH.get v → 1 ≤ F.CIRC_ENT_SLOTS.get v → F.CIRC_ENT_SLOTS.get v ≤ 128 →
        Completes (.circEntWrite c v) s (fun t =>
          t.tray.rd pg A.CIRC_ENT = v &&& maskW 32 ∧
          s.tray.keepsRegs t.tray (fun q o => q = pg ∧ o = A.CIRC_ENT) ∧ s.tray.keepsBlocks t.tray))) ∧
    (s.tray.accepts c.val 0x3C0 A.CIRC_OP = true → s.tray.is pg F.CIRC_OP_BUSY = false →
      (let f := fun (x : Fld) => s.tray.gf pg x
       let x : Circ := { inPort := f F.CIRC_ENT_IN_PORT, outPort := f F.CIRC_ENT_OUT_PORT, seat := f F.CIRC_ENT_SEAT,
                         ch := f F.CIRC_ENT_CH, slots := f F.CIRC_ENT_SLOTS, slice := f F.CIRC_ENT_SLICE,
                         cmp := f F.CIRC_ENT_CMP }
       s.tray.enabled pg = true →
       Completes (.circSetup c) s (fun t =>
        t.tray.gf pg F.CIRC_OP_RESULT = s.tray.setupResult c.val x ∧ t.tray.is pg F.CIRC_OP_DONE = true ∧
        t.tray.circ c.val k = (if s.tray.setupResult c.val x = 0 then some x else s.tray.circ c.val k) ∧
        (∀ j, j ≠ k → t.tray.circ c.val j = s.tray.circ c.val j) ∧
        s.tray.keepsRegs t.tray (fun q o => q = pg ∧ o = A.CIRC_OP) ∧ t.tray.ports = s.tray.ports ∧ t.tray.mem = s.tray.mem)) ∧
      Completes (.circTeardown c) s (fun t =>
        t.tray.circ c.val k = none ∧ (∀ j, j ≠ k → t.tray.circ c.val j = s.tray.circ c.val j) ∧
        (∀ q ∈ t.tray.pkts c.val, q.circ ≠ some k) ∧ t.tray.is pg F.CIRC_OP_DONE = true ∧
        s.tray.keepsRegs t.tray (fun q o => q = pg ∧ o = A.CIRC_OP) ∧ t.tray.ports = s.tray.ports ∧
        t.tray.mem = s.tray.mem)) ∧
    (let mp := mcgPg c.val
     let g := s.tray.gf mp F.KIT_MCG_SEL_IDX
     s.tray.accepts c.val 0x061 A.KIT_MCG_OP = true → s.tray.is mp F.KIT_MCG_OP_BUSY = false → s.tray.enabled mp = true →
     Completes (.mcgWrite c) s (fun t =>
        Assoc.get (fun _ => {}) (t.tray.chip c.val).mcgs g =
          { valid := s.tray.is mp F.KIT_MCG_ENT_VALID, selfIn := s.tray.is mp F.KIT_MCG_ENT_SELF,
            seat := s.tray.gf mp F.KIT_MCG_ENT_SEAT, members := s.tray.gf mp F.KIT_MCG_MEMB_MEMBERS } ∧
        (∀ j, j ≠ g → Assoc.get (fun _ => ({} : Mcg)) (t.tray.chip c.val).mcgs j =
          Assoc.get (fun _ => {}) (s.tray.chip c.val).mcgs j) ∧
        s.tray.keepsRegs t.tray (fun q o => q = mp ∧ o = A.KIT_MCG_OP) ∧ t.tray.ports = s.tray.ports) ∧
     Completes (.mcgRead c) s (fun t =>
        t.tray.is mp F.KIT_MCG_ENT_VALID = (Assoc.get (fun _ => ({} : Mcg)) (s.tray.chip c.val).mcgs g).valid ∧
        t.tray.gf mp F.KIT_MCG_MEMB_MEMBERS =
          (Assoc.get (fun _ => ({} : Mcg)) (s.tray.chip c.val).mcgs g).members % 2 ^ 64 ∧
        s.tray.keepsRegs t.tray (fun q o => q = mp ∧ (o = A.KIT_MCG_OP ∨ o = A.KIT_MCG_ENT ∨ o = A.KIT_MCG_MEMB)) ∧
        s.tray.keepsBlocks t.tray))

/-- R219: DECK_INJECT sends the node's next packet where two transit buffers are free; R220: DECK_PACKET_RECEIVE forwards a
good packet for another node, and counts and has resent one that fails its CRC; DECK_HOP_DOWN takes the hop out of the ring,
raises CHAIN and logs it; R228: DECK_RETRAIN retrains it, DECK_HOP_UP ends that with the ring whole. -/
def Obligations.DeckRing : Prop :=
  ∀ (s : State) (n : Fin 6),
    (∀ (ccw : Bool) p rest, (n.val < 5 → s.tray.enabled (deckPg n.val) = true) → s.tray.hopUp n.val ccw = true →
      (NodeSt.q (s.tray.node n.val).transit (ringQ ccw true)).length ≤ 2 →
      NodeSt.q (s.tray.node n.val).inject (ringQ ccw true) = p :: rest → rCcw p = ccw → rCtrl p = true → rSeat p < 64 →
      Completes (.deckInject n ccw true) s (fun t =>
        Out.ring n.val (b2n ccw) p ∈ t.tray.out ∧
        NodeSt.q (t.tray.node n.val).inject (ringQ ccw true) = rest ∧
        s.tray.keepsRegs t.tray (fun q o => (q = deckPg n.val ∧ 0x100 ≤ o) ∨ chargeReg n.val q o) ∧ t.tray.mem = s.tray.mem)) ∧
    (∀ p : RingPkt, (∀ d, d < 5 → s.tray.settled d) → s.tray.hopUp n.val (!rCcw p) = true →
      (ringOk p = true → ringFieldsOk p = true → rDst p ≠ n.val → s.tray.hopUp n.val (rCcw p) = true → rSeat p < 64 →
        Completes (.deckPacketReceive n p) s (fun t =>
          Out.ring n.val (b2n (rCcw p)) p ∈ t.tray.out ∧
          p ∈ NodeSt.q (t.tray.node n.val).transit (ringQ (rCcw p) (rCtrl p)) ∧
          s.tray.keepsRegs t.tray (fun q o => (q = deckPg n.val ∧ 0x100 ≤ o) ∨ chargeReg n.val q o) ∧ t.tray.mem = s.tray.mem)) ∧
      (∀ k rest, ringOk p = false →
        Assoc.get (fun _ => 0) (s.tray.node n.val).fails (ringQ (rCcw p) (rCtrl p)) < 15 →
        NodeSt.q (s.tray.node (hopTo n.val (!rCcw p))).retry (ringQ (rCcw p) (rCtrl p)) = k :: rest →
        Completes (.deckPacketReceive n p) s (fun t =>
          Out.ring (hopTo n.val (!rCcw p)) (b2n (rCcw p)) k ∈ t.tray.out ∧
          (n.val < 5 → t.tray.gf (deckPg n.val) F.DECK_ERR_CRC =
            min (2 ^ F.DECK_ERR_CRC.w - 1) (s.tray.gf (deckPg n.val) F.DECK_ERR_CRC + 1)) ∧
          s.tray.keepsRegs t.tray (fun q o => (q = deckPg n.val ∨ q = deckPg (hopTo n.val (!rCcw p))) ∧ o = A.DECK_ERR) ∧
          t.tray.mem = s.tray.mem))) ∧
    ((∀ d, d < 5 → s.tray.settled d) → (s.tray.node n.val).cwHop = 2 → s.tray.ringHeld n.val false = [] →
      s.tray.ringHeld (cwOf n.val) true = [] →
      Completes (.deckHopDown n) s (fun t =>
        (t.tray.node n.val).cwHop = 0 ∧ (∀ d, d < 5 → (s.tray.chip d).coreUp = true → t.tray.is (deckPg d) F.DECK_STS_CHAIN = true) ∧
        (n.val < 5 → t.tray.irqUp (deckPg n.val) 8 ∧
          ((s.tray.chip n.val).coreUp = true → t.tray.is (deckPg n.val) F.DECK_STS_CW_UP = false)) ∧
        (∃ x, t.tray.logq = s.tray.logq ++ [x] ∧ x.ev = .deckHopDown) ∧
        s.tray.keepsRegs t.tray (fun q o => q % 4096 = 0x330 ∧ (o = A.DECK_STS ∨ o = A.DECK_ERR ∨ o = 0x20)) ∧
        t.tray.mem = s.tray.mem)) ∧
    (∀ c : Fin 5, s.tray.accepts c.val 0x330 A.DECK_CTL = true → (s.tray.chip c.val).coreUp = true → s.tray.settled c.val →
      (s.tray.node c.val).cwHop = 0 →
      Completes (.deckRetrain c) s (fun t =>
        (t.tray.node c.val).cwHop = 1 ∧
        (∀ j, j ≠ c.val → j ≠ ccwOf c.val → t.tray.node j = s.tray.node j) ∧
        s.tray.keepsRegs t.tray (fun q o => q = deckPg c.val ∧ o = A.DECK_CTL) ∧ t.tray.mem = s.tray.mem)) ∧
    (s.tray.nodeUp n.val = true → s.tray.nodeUp ((n.val + 1) % 6) = true → (s.tray.node n.val).cwHop = 1 →
      (∀ j, j < 6 → j ≠ n.val → (s.tray.node j).cwHop = 2) →
      Completes (.deckHopUp n) s (fun t =>
        (t.tray.node n.val).cwHop = 2 ∧
        (∀ d, d < 5 → (s.tray.chip d).coreUp = true → t.tray.is (deckPg d) F.DECK_STS_CHAIN = false ∧ t.tray.is (deckPg d) F.DECK_STS_CW_UP = true ∧
          t.tray.is (deckPg d) F.DECK_STS_CCW_UP = true) ∧
        s.tray.keepsRegs t.tray (fun q o => q % 4096 = 0x330 ∧ (o = A.DECK_STS ∨ o = 0x20)) ∧ t.tray.mem = s.tray.mem))

/-! ### Tables, windows, operations, snap path (R229–R295) -/

/-- R235, R237: CMD_SLOT_WRITE puts commands into slots that are not held; R238: DOORBELL makes the written slots held; R254,
R255: CQ_BASE_WRITE, CQ_CFG_WRITE and CQ_HEAD_WRITE set the member's completion queue, which issues a record when it is enabled;
a packet that fails leaves the window as it was. -/
def Obligations.WindowsTakeCommands : Prop :=
  ∀ (s : State) (c : Fin 5) (e : Fin 64) (p : Pkt), s.tray.settled c.val → s.tray.takesFor c.val e.val p → hPtype p.hdr = P.CMD →
    let tb := hTbl p.hdr
    let w := s.tray.win c.val tb e.val
    let v := leVal (pBytes p)
    let n := diff16 (v % 65536) w.pi
    (slotForm p.hdr = true → hArg p.hdr % 2 = 0 → w.cqEn = true →
      let first := hAddr p.hdr / 48
      let k := hLen p.hdr / 48
      ((∀ i, i < k → w.isHeld (first + i) = false) →
        Completes (.cmdSlotWrite c e p) s (fun t =>
          (∀ i, i < k → (t.tray.win c.val tb e.val).slot (first + i) =
            { cmd := BitVec.ofNat 384 (leVal (((pBytes p).drop (48 * i)).take 48)), written := true }) ∧
          (∀ i, i < 64 → (i < first ∨ first + k ≤ i) → (t.tray.win c.val tb e.val).slot i = w.slot i) ∧
          s.tray.setsWin t.tray c.val tb e.val { w with slots := (t.tray.win c.val tb e.val).slots } ∧
          s.tray.keepsRegs t.tray (chargeReg c.val))) ∧
      (∀ i, i < k → w.isHeld (first + i) = true → 2 ≤ w.cqFree →
        Completes (.cmdSlotWrite c e p) s (fun t =>
          s.tray.setsWin t.tray c.val tb e.val { w with tail := (w.tail + 1) % 65536 } ∧
          s.tray.sendsRec t.tray c.val e.val St.SLOT_HELD ∧ t.tray.irqUp (tblPg c.val tb) 8))) ∧
    (ctlForm p.hdr = true →
      (hAddr p.hdr = 0xC00 → w.cqEn = true → n ≠ 0 → n ≤ 64 - w.heldCnt →
        (∀ k, k < n → (w.slot (w.pi + k)).written = true) → s.tray.dbBusy c.val tb = false →
        Completes (.doorbell c e p) s (fun t =>
          s.tray.setsWin t.tray c.val tb e.val { w with pi := v % 65536 } ∧ s.tray.keepsRegs t.tray (chargeReg c.val))) ∧
      (hAddr p.hdr = 0xC00 → w.cqEn = true → n ≠ 0 → 2 ≤ w.cqFree →
        (64 - w.heldCnt < n →
          Completes (.doorbell c e p) s (fun t =>
            s.tray.setsWin t.tray c.val tb e.val { w with tail := (w.tail + 1) % 65536 } ∧
            s.tray.sendsRec t.tray c.val e.val St.BAD_PI)) ∧
        (n ≤ 64 - w.heldCnt → (∀ k, k < n → (w.slot (w.pi + k)).written = true) → s.tray.dbBusy c.val tb = true →
          Completes (.doorbell c e p) s (fun t =>
            s.tray.setsWin t.tray c.val tb e.val { w with tail := (w.tail + 1) % 65536 } ∧
            s.tray.sendsRec t.tray c.val e.val St.BUSY))) ∧
      (hAddr p.hdr = 0xC08 → (w.cqEn = false ∨ w.pi = w.ci) →
        Completes (.cqBaseWrite c e p) s (fun t =>
          s.tray.setsWin t.tray c.val tb e.val { w with cqBase := v } ∧ s.tray.keepsRegs t.tray (chargeReg c.val))) ∧
      (hAddr p.hdr = 0xC08 → w.cqEn = true → w.pi ≠ w.ci →
        Completes (.cqBaseWrite c e p) s (fun t => (t.tray.win c.val tb e.val).cqBase = w.cqBase)) ∧
      (hAddr p.hdr = 0xC10 → (w.cqEn = false ∨ w.pi = w.ci) → bitOf v 8 = true → 4 ≤ v % 16 → v % 16 ≤ 12 →
        Completes (.cqCfgWrite c e p) s (fun t =>
          s.tray.setsWin t.tray c.val tb e.val { w with cqEn := true, cqLog := v % 16, tail := 1, cqHead := 0 } ∧
          s.tray.sendsRec t.tray c.val e.val St.OK ∧ s.tray.keepsRegs t.tray (chargeReg c.val))) ∧
      (hAddr p.hdr = 0xC10 → (w.cqEn = false ∨ w.pi = w.ci) → bitOf v 8 = false →
        Completes (.cqCfgWrite c e p) s (fun t =>
          s.tray.setsWin t.tray c.val tb e.val { w with cqEn := false, cqLog := v % 16 } ∧
          s.tray.keepsRegs t.tray (chargeReg c.val))) ∧
      (hAddr p.hdr = 0xC18 →
        Completes (.cqHeadWrite c e p) s (fun t =>
          s.tray.setsWin t.tray c.val tb e.val { w with cqHead := v % 65536 } ∧ s.tray.keepsRegs t.tray (chargeReg c.val))))

/-- R244, R239: COMMAND_HEAD ends a command that fails a check with the status of the first one and a record; R243: NOP ends
with OK, CNT_ADD adds to a trigger counter first; R247: TBL_CTR_WRITE sets a counter; R255: CQ_RECORD_ISSUE writes a waiting
record once two entries are free; R263: TABLE_ENABLE makes a FREE table ACTIVE with its reservation, or records RES_POOL. -/
def Obligations.CommandsEndAndTablesStart : Prop :=
  ∀ (s : State) (c : Fin 5) (tb : Fin 256),
    let pg := tblPg c.val tb.val
    (∀ (e : Fin 64) i x st, s.tray.settled c.val → s.tray.tRuns c.val tb.val = true →
      s.tray.headOf c.val tb.val e.val = some (i, x) → s.tray.headDue c.val tb.val x = .ends st →
      let w := s.tray.win c.val tb.val e.val
      (cmdOpcode x ≠ O.NOP → cmdOpcode x ≠ O.CNT_ADD → st ≠ St.OK → w.cqEn = true → 2 ≤ w.cqFree →
        Completes (.commandHead c tb e) s (fun t =>
          (t.tray.win c.val tb.val e.val).head = (w.head + 1) % 65536 ∧ s.tray.sendsRec t.tray c.val e.val st ∧
          t.tray.gf pg F.TBL_OPS_ERR = (s.tray.gf pg F.TBL_OPS_ERR + 1) % 2 ^ F.TBL_OPS_ERR.w ∧
          t.tray.irqUp pg 8 ∧
          s.tray.keepsRegs t.tray (fun q o => q = pg ∧ (o = A.TBL_OPS ∨ o = 0x20)) ∧
          s.tray.keepsOtherTables t.tray c.val tb.val)) ∧
      (cmdOpcode x = O.NOP → st = St.OK → w.cqEn = true → 2 ≤ w.cqFree →
        Completes (.nop c tb e) s (fun t =>
          (t.tray.win c.val tb.val e.val).head = (w.head + 1) % 65536 ∧
          (cmdSilent x = false → s.tray.sendsRec t.tray c.val e.val St.OK) ∧
          (cmdSilent x = true → t.tray.ports = s.tray.ports) ∧
          s.tray.keepsRegs t.tray (fun _ _ => False) ∧ s.tray.keepsOtherTables t.tray c.val tb.val)) ∧
      (cmdOpcode x = O.CNT_ADD → st = St.OK →
        Completes (.cntAdd c tb e) s (fun t =>
          let f := ctrFld (cmdIncCtr x)
          t.tray.gf (tblPg c.val (cmdWaitTbl x)) f =
            (s.tray.gf (tblPg c.val (cmdWaitTbl x)) f + cmdAddVal x) % 2 ^ 32 ∧
          (t.tray.win c.val tb.val e.val).head = (w.head + 1) % 65536 ∧
          s.tray.keepsRegs t.tray (fun q o => q = tblPg c.val (cmdWaitTbl x) ∧ o = f.off) ∧
          s.tray.keepsOtherTables t.tray c.val tb.val))) ∧
    (∀ (i : Fin 16) v, s.tray.accepts c.val (0x200 + tb.val) (A.TBL_CTR + 8 * i.val) = true →
      (s.tray.chip c.val).coreUp = true → s.tray.settled c.val →
      Completes (.tblCtrWrite c tb i v) s (fun t =>
        t.tray.gf pg (ctrFld i.val) = v.toNat % 2 ^ 32 ∧
        s.tray.keepsRegs t.tray (fun q o => q = pg ∧ o = A.TBL_CTR + 8 * i.val) ∧ s.tray.keepsBlocks t.tray)) ∧
    (∀ (e : Fin 64) r, let w := s.tray.win c.val tb.val e.val
      w.cqEn = true → 2 ≤ w.cqFree → (∀ k, k < w.heldCnt → (w.slot (w.ci + k)).wait = none) → w.waitOps = [] →
      w.waitErr = some r →
      Completes (.cqRecordIssue c tb e) s (fun t =>
        s.tray.setsWin t.tray c.val tb.val e.val { w with waitErr := none, tail := (w.tail + 1) % 65536 } ∧
        s.tray.sendsRec t.tray c.val e.val r.status ∧
        s.tray.keepsRegs t.tray (fun q o => q = pg ∧ o = 0x20))) ∧
    (s.tray.accepts c.val (0x200 + tb.val) A.PG_CTL = true → (s.tray.chip c.val).coreUp = true → s.tray.settled c.val →
      s.tray.enabled pg = false → s.tray.tst c.val tb.val = T.FREE →
      let need := sumL ((s.tray.reservations c.val).map (fun r => r.2)) + s.tray.gf pg F.TBL_TRICK_RES_KIB
      (s.tray.service = 0 → need ≤ s.tray.redKiB c.val →
        Completes (.tableEnable c tb) s (fun t =>
          t.tray.tst c.val tb.val = T.ACTIVE ∧ t.tray.enabled pg = true ∧ t.tray.opNext c.val tb.val = 0 ∧
          (∀ i, i < 16 → t.tray.gf pg (ctrFld i) = 0) ∧ t.tray.irqUp pg 11 ∧
          s.tray.keepsRegs t.tray (fun q o => q = pg ∧
            (o = A.PG_CTL ∨ o = A.TBL_STS ∨ (A.TBL_CTR ≤ o ∧ o < A.TBL_CTR + 128) ∨ o = 0x20)) ∧
          s.tray.keepsOtherTables t.tray c.val tb.val)) ∧
      (s.tray.redKiB c.val < need → s.tray.gf pg F.PG_ERR_CAPT_VALID = 0 →
        Completes (.tableEnable c tb) s (fun t =>
          t.tray.tst c.val tb.val = T.FREE ∧ t.tray.enabled pg = false ∧
          t.tray.holdsErr pg 0x40 A.PG_CTL 0 true (s.tray.timeOf c.val) ∧
          s.tray.keepsRegs t.tray (fun q o => q = pg ∧ (o = A.PG_CTL ∨ o = 0x60 ∨ o = 0x20)) ∧ s.tray.keepsBlocks t.tray)))

/-- R245: OPERATION_MATCH starts the operation of agreeing heads, parks it where its counter has not reached the threshold
(R248), or ends every member's command with MISMATCH; OP_NEXT advances; R246, R248: OPERATION_START and PARKED_OP_START start the
first operation that waits, once its members are live and its counter is reached. -/
def Obligations.OperationsStart : Prop :=
  ∀ (s : State) (c : Fin 5) (tb : Fin 256), s.tray.settled c.val → s.tray.nothingStaged c.val tb.val →
    s.tray.tRuns c.val tb.val = true →
    let pg := tblPg c.val tb.val
    let seq := s.tray.opNext c.val tb.val
    let ops := (s.tray.table c.val tb.val).ops
    (∀ a l, s.tray.unstarted c.val tb.val = [] → s.tray.heads c.val tb.val = some (a :: l) →
      let o := opOf seq a.2.2 (a :: l)
      let moved := fun (t : State) => (∀ e ∈ s.tray.tMembers c.val tb.val,
        (t.tray.win c.val tb.val e).head = ((s.tray.win c.val tb.val e).head + 1) % 65536) ∧
        t.tray.opNext c.val tb.val = (seq + 1) % 65536
      ((∃ b ∈ l, cmdAgree a.2.2 b.2.2 = false) →
        Completes (.operationMatch c tb) s (fun t => moved t ∧ (t.tray.table c.val tb.val).ops = ops ∧
          t.tray.gf pg F.TBL_OPS_ERR =
            (s.tray.gf pg F.TBL_OPS_ERR + (a :: l).length) % 2 ^ F.TBL_OPS_ERR.w ∧
          s.tray.keepsRegs t.tray (fun q o => q = pg ∧ (o = A.TBL_STS ∨ o = A.TBL_OPS ∨ o = 0x20)) ∧
          s.tray.keepsOtherTables t.tray c.val tb.val)) ∧
      ((∀ b ∈ a :: l, cmdAgree a.2.2 b.2.2 = true) →
        (s.tray.fired c.val o = true → s.tray.membersLive c.val tb.val = true → (ops.filter (fun z => z.started)).length < 16 →
          Completes (.operationMatch c tb) s (fun t => moved t ∧
            (t.tray.table c.val tb.val).ops = ops ++ [{ o with started := true, wait := none }] ∧
            t.tray.is pg F.TBL_STS_WAIT_MEMBER = false ∧ t.tray.ports = s.tray.ports ∧
            s.tray.keepsRegs t.tray (fun q o => q = pg ∧ o = A.TBL_STS) ∧ s.tray.keepsOtherTables t.tray c.val tb.val)) ∧
        (s.tray.fired c.val o = false → s.tray.trigUsed c.val < 65536 →
          Completes (.operationMatch c tb) s (fun t => moved t ∧ (t.tray.table c.val tb.val).ops = ops ++ [o] ∧
            t.tray.ports = s.tray.ports ∧
            s.tray.keepsRegs t.tray (fun q o => (q = pg ∧ o = A.TBL_STS) ∨ (q = chipPg c.val 1 ∧ o = A.CHIP_COLL_MAX)) ∧
            s.tray.keepsOtherTables t.tray c.val tb.val)) ∧
        (s.tray.fired c.val o = true → s.tray.membersLive c.val tb.val = false →
          Completes (.operationMatch c tb) s (fun t => t.tray.is pg F.TBL_STS_WAIT_MEMBER = true ∧
            t.tray.table c.val tb.val = s.tray.table c.val tb.val ∧ t.tray.ports = s.tray.ports ∧
            s.tray.keepsRegs t.tray (fun q o => q = pg ∧ o = A.TBL_STS) ∧ s.tray.keepsOtherTables t.tray c.val tb.val)))) ∧
    (∀ o l, s.tray.unstarted c.val tb.val = o :: l → o.launch = .endpoints → s.tray.fired c.val o = true →
      let begun := fun (t : State) =>
        (t.tray.table c.val tb.val).ops = ops.map (fun z => if z.seq = o.seq then { z with started := true, wait := none } else z) ∧
        t.tray.is pg F.TBL_STS_WAIT_MEMBER = false ∧ t.tray.ports = s.tray.ports ∧
        s.tray.keepsRegs t.tray (fun q o => q = pg ∧ o = A.TBL_STS) ∧ s.tray.keepsOtherTables t.tray c.val tb.val
      (s.tray.membersLive c.val tb.val = true →
        Completes (.operationStart c tb) s begun ∧ (o.wait ≠ none → Completes (.parkedOpStart c tb) s begun)) ∧
      (s.tray.membersLive c.val tb.val = false →
        Completes (.operationStart c tb) s (fun t => t.tray.is pg F.TBL_STS_WAIT_MEMBER = true ∧
          t.tray.ports = s.tray.ports ∧ t.tray.table c.val tb.val = s.tray.table c.val tb.val ∧
          s.tray.keepsRegs t.tray (fun q o => q = pg ∧ o = A.TBL_STS) ∧ s.tray.keepsOtherTables t.tray c.val tb.val)))

/-- R231, R232, R266, R276: RS, AG and AR deliver to every member the pieces of its rank, each position folded over the members'
contributions in rank order, by RESULTs at its address; BARRIER sends one empty RESULT to each member; contributions that do
not fit end the operation with DATA_FAIL (R280, R281). R271: TRICK_OPEN opens the next trick. -/
def Obligations.OperationsDeliver : Prop :=
  ∀ (s : State) (c : Fin 5) (tb : Fin 256) (o : OpSt), s.tray.settled c.val → s.tray.tRuns c.val tb.val = true →
    s.tray.is (tblPg c.val tb.val) F.PG_COMMIT_STS_PENDING = false →
    (s.tray.table c.val tb.val).ops = [o] → o.started = true → o.failed = false → o.opened = 0 → o.fuse = .none →
    (s.tray.table c.val tb.val).tricks = [] → (s.tray.table c.val tb.val).staged = [] →
    (o.members.map (fun m => m.port)).Perm (s.tray.tRanks c.val tb.val) → (s.tray.tRanks c.val tb.val).Nodup →
    (s.tray.tRanks c.val tb.val).length = s.tray.tN c.val tb.val →
    let g := s.tray.geo c.val tb.val o
    let r := s.tray.redCfg c.val tb.val
    let now := fun (t : State) => (t.tray.table c.val tb.val).findOp o.seq
    -- a RESULT of the operation waits at port `e`, with these bytes for this address
    let sent := fun (t : State) (e a : Nat) (data : List Byte) =>
      ∃ k ∈ (t.tray.port c.val e).origq, hPtype k.pkt.hdr = P.RESULT ∧ hAddr k.pkt.hdr = a % 2 ^ 64 ∧ pBytes k.pkt = data
    (∀ (data : List (Fin 64 × List Byte)) (i : Instr),
      (i = .rs c tb data ∧ o.opcode = O.RS) ∨ (i = .ag c tb data ∧ o.opcode = O.AG) ∨ (i = .ar c tb data ∧ o.opcode = O.AR) →
      (data.map (fun d => d.1.val) = s.tray.tRanks c.val tb.val → (∀ d ∈ data, d.2.length = g.contribBytes) →
        let src := data.zipIdx.map (fun d => (d.2, d.1.2))
        Completes i s (fun t =>
          (∀ x ∈ o.members, ∀ rank q j l, s.tray.rankOf c.val tb.val x.port = some rank → q ∈ g.recvPieces rank → j < g.m → l < g.lumps q j →
            sent t x.port (x.dst + g.dstOff q j + 4096 * l) (g.posnOf r j (q, l) src).1.acc) ∧
          (∃ z, now t = some z ∧ z.opened = g.m) ∧
          s.tray.keepsRegs t.tray (fun q o => chargeReg c.val q o ∨ (q = chipPg c.val 1 ∧ o = A.CHIP_COLL_MAX)) ∧
          s.tray.keepsOtherTables t.tray c.val tb.val)) ∧
      (data.length ≠ g.n → o.launch = .endpoints → (∀ e ∈ s.tray.tRanks c.val tb.val, (s.tray.port c.val e).owns (Owner.ofOp tb.val o.seq) = true) →
        Completes i s (fun t =>
          (∃ z, now t = some z ∧ z.failed = true) ∧
          t.tray.gf (tblPg c.val tb.val) F.TBL_CONTRIB_ERR_MALFORMED = min (2 ^ F.TBL_CONTRIB_ERR_MALFORMED.w - 1)
            (s.tray.gf (tblPg c.val tb.val) F.TBL_CONTRIB_ERR_MALFORMED + 1) ∧
          s.tray.keepsRegs t.tray (fun q o => chargeReg c.val q o ∨ (q = tblPg c.val tb.val ∧ o = A.TBL_CONTRIB_ERR)) ∧
          s.tray.keepsOtherTables t.tray c.val tb.val))) ∧
    (o.opcode = O.BARRIER →
      Completes (.barrier c tb) s (fun t =>
        (∀ x ∈ o.members, sent t x.port x.dst []) ∧ (∃ z, now t = some z ∧ z.opened = 1) ∧
        s.tray.keepsRegs t.tray (fun q o => chargeReg c.val q o ∨ (q = chipPg c.val 1 ∧ o = A.CHIP_COLL_MAX)) ∧
        s.tray.keepsOtherTables t.tray c.val tb.val)) ∧
    (1 ≤ o.opcode → o.opcode ≤ 3 → 0 < g.m → 0 < s.tray.tricksInfl c.val tb.val → s.tray.tagsUsed c.val < 16384 →
      s.tray.trigUsed c.val < 65536 → (∃ q l, (q, l) ∈ g.positions 0) →
      Completes (.trickOpen c tb) s (fun t =>
        (∃ k, (t.tray.table c.val tb.val).tricks = [k] ∧ k.op = o.seq ∧ k.j = 0 ∧ k.emitted = false) ∧
        (t.tray.table c.val tb.val).ops = [{ o with opened := 1 }] ∧ t.tray.ports = s.tray.ports ∧
        s.tray.keepsRegs t.tray (fun q o => q = chipPg c.val 1 ∧ o = A.CHIP_COLL_MAX) ∧
        s.tray.keepsOtherTables t.tray c.val tb.val))

/-- R270: CONTRIB_RECEIVE of a lump for an operation not yet started stages it; R275: LUMP_EXPIRY discards it, counts it and
dooms its operation; R284, R285: SNAP_RECEIVE holds a payload, and with the last one folds them in rank order into a result for
every member; SNAP_EXPIRY ends the snap operation with EXPIRED. -/
def Obligations.LumpsAndSnaps : Prop :=
  ∀ (s : State) (c : Fin 5) (tb : Fin 256) (e : Fin 64), s.tray.settled c.val →
    let x := s.tray.table c.val tb.val
    let pg := tblPg c.val tb.val
    let seq := s.tray.snapNext c.val tb.val
    -- a snap result for `z` leaves: its status and payload
    let answers := fun (t : State) (z : SnapIn) (st : Nat) (data : List Byte) =>
      ∃ k ∈ (t.tray.port c.val z.port).origq, hPtype k.pkt.hdr = P.SNAP ∧ hAddr k.pkt.hdr = z.addr % 2 ^ 64 ∧
        hArg k.pkt.hdr % 65536 = seq % 65536 ∧ hArg k.pkt.hdr / 2 ^ 16 % 8 = st ∧ pBytes k.pkt = data
    (∀ p : Pkt, s.tray.takesFor c.val e.val p → hTbl p.hdr = tb.val → hEpoch p.hdr = s.tray.tEpoch c.val tb.val →
      (hPtype p.hdr = P.CONTRIB → x.findOp (lumpOf e.val p).op = none →
        (lumpOf e.val p).op = s.tray.opNext c.val tb.val → (lumpOf e.val p).trick < s.tray.tricksInfl c.val tb.val →
        Completes (.contribReceive c e p) s (fun t =>
          t.tray.table c.val tb.val = { x with staged := x.staged ++ [lumpOf e.val p] } ∧
          s.tray.keepsRegs t.tray (chargeReg c.val) ∧ s.tray.keepsOtherTables t.tray c.val tb.val)) ∧
      (∀ o k rank, hPtype p.hdr = P.CONTRIB → x.findOp (lumpOf e.val p).op = some o → o.failed = false → o.started = true →
        o.opcode ≠ O.AG → (s.tray.redCfg c.val tb.val).arrival = false → x.staged = [] →
        (lumpOf e.val p).trick < s.tray.lowTrick c.val tb.val o e.val + s.tray.tricksInfl c.val tb.val →
        s.tray.lumpFits c.val tb.val o (lumpOf e.val p) = true → s.tray.lumpDup c.val tb.val o (lumpOf e.val p) = false →
        x.findTrick (lumpOf e.val p).op (lumpOf e.val p).trick = some k → s.tray.rankOf c.val tb.val e.val = some rank →
        let key := posKey (lumpOf e.val p).piece (lumpOf e.val p).lump
        rank = (k.posn key).next → rank + 1 < s.tray.tN c.val tb.val →
        Completes (.contribReceive c e p) s (fun t =>
          (∃ y, (t.tray.table c.val tb.val).findTrick (lumpOf e.val p).op (lumpOf e.val p).trick = some y ∧
            (y.posn key).next = rank + 1 ∧
            (y.posn key).acc = ((s.tray.redCfg c.val tb.val).fold (rank == 0) (k.posn key).acc (pBytes p)).1) ∧
          s.tray.counted t.tray c.val (s.tray.tSeat c.val tb.val) N.RED_BYTES (hLen p.hdr) ∧
          s.tray.keepsRegs t.tray (chargeReg c.val) ∧ s.tray.keepsOtherTables t.tray c.val tb.val)) ∧
      (hPtype p.hdr = P.SNAP → s.tray.service = 0 → hLen p.hdr ≤ 256 → hLen p.hdr % fmtSize (s.tray.tFmt c.val tb.val) = 0 →
        hAddr p.hdr % fmtSize (s.tray.tFmt c.val tb.val) = 0 → hArg p.hdr % 65536 = seq →
        x.snap0.any (fun z => z.port == e.val) = false →
        (let all := x.snap0 ++ [⟨e.val, hAddr p.hdr, pBytes p⟩]
         (all.length < s.tray.tN c.val tb.val →
          Completes (.snapReceive c e p) s (fun t =>
            t.tray.table c.val tb.val = { x with snap0 := all } ∧
            s.tray.keepsRegs t.tray (chargeReg c.val) ∧ s.tray.keepsOtherTables t.tray c.val tb.val)) ∧
         (all.length = s.tray.tN c.val tb.val → x.snap1 = [] → (∀ z ∈ all, z.data.length = hLen p.hdr ∧ z.port < 64) →
          Completes (.snapReceive c e p) s (fun t =>
            (∀ z ∈ all, answers t z SS.OK ((s.tray.redCfg c.val tb.val).snapFold (s.tray.snapOrder c.val tb.val all)).1) ∧
            t.tray.snapNext c.val tb.val = (seq + 1) % 65536 ∧ (t.tray.table c.val tb.val).snap0 = [] ∧
            s.tray.counted t.tray c.val (s.tray.tSeat c.val tb.val) N.SNAP_OPS 1 ∧
            s.tray.keepsRegs t.tray (fun q o => chargeReg c.val q o ∨ (q = pg ∧ (o = A.TBL_SNAP ∨ o = 0x20)) ∨
              (q = snapPg c.val ∧ 0x100 ≤ o)) ∧ s.tray.keepsOtherTables t.tray c.val tb.val))))) ∧
    (∀ (op : BitVec 16) (trick : BitVec 32) (piece : Fin 64) (lump : Fin 8) (z : Lump),
      let hit := fun (l : Lump) => l.op == op.toNat && l.trick == trick.toNat && l.piece == piece.val && l.lump == lump.val &&
        l.port == e.val
      x.staged.find? hit = some z → z.seat < 64 → (∀ o, x.findOp op.toNat = some o → o.started = false) →
      Completes (.lumpExpiry c tb op trick piece lump e) s (fun t =>
        t.tray.table c.val tb.val = { x with staged := x.staged.filter (fun l => !hit l), doomed := x.doomed ++ [op.toNat] } ∧
        t.tray.gf pg F.TBL_CONTRIB_ERR_EXPIRED = min (2 ^ F.TBL_CONTRIB_ERR_EXPIRED.w - 1)
          (s.tray.gf pg F.TBL_CONTRIB_ERR_EXPIRED + 1) ∧ s.tray.counted t.tray c.val z.seat N.STALE 1 ∧
        s.tray.keepsRegs t.tray (fun q o => chargeReg c.val q o ∨ (q = pg ∧ o = A.TBL_CONTRIB_ERR)) ∧
        t.tray.ports = s.tray.ports ∧ s.tray.keepsOtherTables t.tray c.val tb.val)) ∧
    (∀ nxt : Bool, (if nxt then x.snap1 else x.snap0).any (fun z => z.port == e.val) = true → (∀ z ∈ x.snap0, z.port < 64) →
      x.snap1.length < s.tray.tN c.val tb.val →
      Completes (.snapExpiry c tb e nxt) s (fun t =>
        (∀ z ∈ x.snap0, answers t z SS.EXPIRED []) ∧ t.tray.snapNext c.val tb.val = (seq + 1) % 65536 ∧
        (let rest := if nxt then x.snap1.filter (fun z => z.port != e.val) else x.snap1
         t.tray.table c.val tb.val = { x with snap0 := rest, snap1 := [] }) ∧
        s.tray.keepsRegs t.tray (fun q o => chargeReg c.val q o ∨ (q = pg ∧ o = A.TBL_SNAP) ∨
          (q = snapPg c.val ∧ 0x100 ≤ o)) ∧ s.tray.keepsOtherTables t.tray c.val tb.val))

/-! ### Dealer, layout and translation (R296–R363) -/

/-- R299, R300: DESC_CREATE_OP checks LAY_DATA and gives a free slot's handle, or the status of the first check that fails; R301:
DESC_DESTROY_OP makes a handle unknown and frees the slot no job holds; R321: DESC_READ_OP copies a descriptor. R314: XLT_WRITE
installs an entry, refusing a page not mappable or mapped; R318: one that narrows, and INVAL_SEAT, revoke until REVOCATION_DONE;
R322: XLT_READ reads one. R354: LEND_WRITE lends pages that nothing local uses. -/
def Obligations.DescriptorsAndTranslation : Prop :=
  ∀ (s : State) (c : Fin 5), (s.tray.chip c.val).coreUp = true → s.tray.settled c.val →
    (s.tray.accepts c.val 0x310 A.LAY_OP = true → s.tray.enabled (layPg c.val) = true →
      let pg := layPg c.val
      let m := s.tray.gf pg F.LAY_OP_SEAT
      let made := s.tray.createDesc c.val m none (s.tray.layData c.val)
      let keeps := fun (t : State) => s.tray.keepsRegs t.tray (fun q o => q = pg ∧
        (o = 0x20 ∨ o = A.LAY_OP ∨ o = A.LAY_HANDLE ∨ o = A.LAY_USE ∨ o = A.LAY_CNT ∨
          (A.LAY_DATA ≤ o ∧ o < A.LAY_DATA + 128))) ∧ s.tray.keepsOtherDealers t.tray c.val ∧ t.tray.mem = s.tray.mem ∧
        t.tray.ports = s.tray.ports
      let done := fun (t : State) (st : Nat) => t.tray.gf pg F.LAY_OP_STATUS = st ∧ t.tray.is pg F.LAY_OP_DONE = true ∧
        t.tray.irqUp pg 8 ∧ keeps t
      (made.1 = D.OK → Completes (.descCreateOp c) s (fun t => done t D.OK ∧
        (let k := t.tray.gf pg F.LAY_HANDLE_HANDLE % 4096
         let d := t.tray.desc c.val k
         (s.tray.desc c.val k).held = false ∧ d.held = true ∧ d.live = true ∧ d.seat = m ∧ d.revoked = false ∧ d.users = [] ∧
         t.tray.gf pg F.LAY_HANDLE_HANDLE / 4096 = d.gen % 16 ∧
         d.words = (if descKind (s.tray.layData c.val) = 2 then s.tray.layData c.val
           else BitVec.ofNat 1024 ((s.tray.layData c.val).toNat % 2 ^ 512)) ∧
         (∀ i, i ≠ k → i ≠ k + 1 → t.tray.desc c.val i = s.tray.desc c.val i)))) ∧
      (made.1 ≠ D.OK → Completes (.descCreateOp c) s (fun t => done t made.1 ∧
        (∀ i, t.tray.desc c.val i = s.tray.desc c.val i))) ∧
      (∀ k d, s.tray.findDesc c.val m none (s.tray.gf pg F.LAY_HANDLE_HANDLE) = some (k, d) →
        Completes (.descDestroyOp c) s (fun t => done t D.OK ∧
          t.tray.desc c.val k = (if d.users = [] then { gen := (d.gen + 1) % 16 } else { d with live := false }) ∧
          (∀ i, i ≠ k → i ≠ k + 1 → t.tray.desc c.val i = s.tray.desc c.val i)) ∧
        Completes (.descReadOp c) s (fun t => done t D.OK ∧
          (∀ i, i < 8 → t.tray.rd pg (A.LAY_DATA + 8 * i) = BitVec.ofNat 64 (fieldOf d.words (64 * i) 64)) ∧
          (∀ i, t.tray.desc c.val i = s.tray.desc c.val i))) ∧
      (s.tray.findDesc c.val m none (s.tray.gf pg F.LAY_HANDLE_HANDLE) = none →
        Completes (.descDestroyOp c) s (fun t => done t D.BAD_HANDLE) ∧
        Completes (.descReadOp c) s (fun t => done t D.BAD_HANDLE))) ∧
    (let pg := xltPg c.val
     let m := s.tray.gf pg F.XLT_SEL_SEAT
     let i := s.tray.gf pg F.XLT_SEL_INDEX
     let w := s.tray.rd pg A.XLT_ENT
     let old := s.tray.xltEnt c.val m i
     let usable := s.tray.mappable c.val (entPage w * page2M)
     let mapped := (s.tray.dealer c.val).xlt.any (fun a => a.1 != m * 32768 + i && entValid a.2 && entPage a.2 == entPage w)
     let narrows := entValid old && (!entValid w || (entRd old && !entRd w) || (entWr old && !entWr w) || entPage old != entPage w)
     let others := fun (t : State) => ∀ n k, k < 32768 → ¬ (n = m ∧ k = i) → t.tray.xltEnt c.val n k = s.tray.xltEnt c.val n k
     let keeps := fun (t : State) => s.tray.keepsRegs t.tray (fun q o => q = pg ∧ (o = 0x20 ∨ o = A.XLT_ENT ∨ o = A.XLT_OP)) ∧
       s.tray.keepsOtherDealers t.tray c.val ∧ t.tray.mem = s.tray.mem ∧ t.tray.ports = s.tray.ports
     let ended := fun (t : State) (r : Nat) => t.tray.gf pg F.XLT_OP_RESULT = r ∧ t.tray.is pg F.XLT_OP_BUSY = false ∧
       t.tray.is pg F.XLT_OP_DONE = true ∧ t.tray.irqUp pg 9 ∧ keeps t
     (s.tray.accepts c.val 0x3E0 A.XLT_OP = true → s.tray.enabled pg = true → s.tray.is pg F.XLT_OP_BUSY = false →
       (entValid w = true → usable = false →
         Completes (.xltWrite c) s (fun t => ended t 1 ∧ t.tray.dealers = s.tray.dealers)) ∧
       (entValid w = true → usable = true → mapped = true →
         Completes (.xltWrite c) s (fun t => ended t 2 ∧ t.tray.dealers = s.tray.dealers)) ∧
       (entValid w = false ∨ (usable = true ∧ mapped = false) →
         (narrows = false → Completes (.xltWrite c) s (fun t => ended t 0 ∧ t.tray.xltEnt c.val m i = w ∧ others t)) ∧
         (narrows = true → Completes (.xltWrite c) s (fun t => t.tray.xltEnt c.val m i = w ∧ others t ∧
           (t.tray.dealer c.val).revoking = true ∧ t.tray.is pg F.XLT_OP_BUSY = true ∧
           t.tray.is pg F.XLT_OP_DONE = false ∧ keeps t))) ∧
       Completes (.xltRead c) s (fun t => ended t 0 ∧ t.tray.rd pg A.XLT_ENT = old ∧ t.tray.dealers = s.tray.dealers) ∧
       Completes (.invalSeat c) s (fun t =>
         (∀ k, k < 32768 → entValid (t.tray.xltEnt c.val m k) = false) ∧
         (∀ n k, n ≠ m → k < 32768 → t.tray.xltEnt c.val n k = s.tray.xltEnt c.val n k) ∧
         (∀ k, s.tray.validates c.val m = true → (s.tray.desc c.val k).held = true → (s.tray.desc c.val k).seat = m →
           (∃ x, x < 32768 ∧ entValid (s.tray.xltEnt c.val m x) = true ∧
             entPage (s.tray.xltEnt c.val m x) ∈ descPages (s.tray.desc c.val k).words) →
           (t.tray.desc c.val k).revoked = true) ∧
         (t.tray.dealer c.val).revoking = true ∧ t.tray.is pg F.XLT_OP_BUSY = true ∧ t.tray.is pg F.XLT_OP_DONE = false ∧
         keeps t)) ∧
     ((s.tray.dealer c.val).revoking = true →
       Completes (.revocationDone c) s (fun t => ended t (s.tray.gf pg F.XLT_OP_RESULT) ∧
         (t.tray.dealer c.val).revoking = false))) ∧
    (∀ (i : Fin 4) v, s.tray.accepts c.val 0x300 (A.DLR_LEND + 8 * i.val) = true →
      F.DLR_LEND_BORROWER.get v ≠ c.val → F.DLR_LEND_BORROWER.get v ≤ 4 →
      let pg := dlrPg c.val
      let base := F.DLR_LEND_BASE_2M.get v
      let n := F.DLR_LEND_PAGES.get v
      let inUse := (s.tray.dealer c.val).xlt.any (fun a => entValid a.2 && decide (base ≤ entPage a.2) &&
          decide (entPage a.2 < base + n)) ||
        (s.tray.is pg F.DLR_SPILL_VALID && decide (base < s.tray.gf pg F.DLR_SPILL_BASE_2M + s.tray.gf pg F.DLR_SPILL_PAGES) &&
          decide (s.tray.gf pg F.DLR_SPILL_BASE_2M < base + n))
      ((F.DLR_LEND_VALID.get v = 0 ∨ inUse = false) →
        Completes (.lendWrite c i v) s (fun t =>
          F.DLR_LEND_BASE_2M.get (t.tray.rd pg (A.DLR_LEND + 8 * i.val)) = base ∧
          F.DLR_LEND_PAGES.get (t.tray.rd pg (A.DLR_LEND + 8 * i.val)) = n ∧
          F.DLR_LEND_BORROWER.get (t.tray.rd pg (A.DLR_LEND + 8 * i.val)) = F.DLR_LEND_BORROWER.get v ∧
          F.DLR_LEND_VALID.get (t.tray.rd pg (A.DLR_LEND + 8 * i.val)) = F.DLR_LEND_VALID.get v ∧
          s.tray.keepsRegs t.tray (fun q o => q = pg ∧ o = A.DLR_LEND + 8 * i.val) ∧ s.tray.keepsBlocks t.tray)) ∧
      (F.DLR_LEND_VALID.get v = 1 → inUse = true → s.tray.gf pg F.PG_ERR_CAPT_VALID = 0 →
        Completes (.lendWrite c i v) s (fun t =>
          t.tray.holdsErr pg 0x41 (A.DLR_LEND + 8 * i.val) 0 true (s.tray.timeOf c.val) ∧
          s.tray.keepsRegs t.tray (fun q o => q = pg ∧ (o = 0x60 ∨ o = 0x20)) ∧ s.tray.keepsBlocks t.tray)))

/-- R324: JOB_START starts the program of an IDLE slot and records JOB_BUSY on another; R359: JOB_ABORT ends a job with ABORTED
and advances the epoch; R329: an instruction waits while its counter is below WAIT_THRESH, until INSTR_WAIT_END; R328: NOP, CTR_ADD
and END; an opcode that no row has ends the job with BAD_INSTR; R352: POOL_SHORT ends it. -/
def Obligations.JobsRun : Prop :=
  ∀ (s : State) (c : Fin 5) (j : Fin 32), s.tray.settled c.val →
    let pg := jobPg c.val
    let off := A.DLR_JOB_CTL + 0x20 * j.val
    let fld := fun (t : State) (f : Fld) => t.tray.gf pg (f.nth j.val)
    let others := fun (t : State) => (∀ i, i ≠ j.val → t.tray.slot c.val i = s.tray.slot c.val i) ∧
      s.tray.keepsOtherDealers t.tray c.val ∧ t.tray.ports = s.tray.ports ∧ t.tray.mem = s.tray.mem
    (s.tray.accepts c.val 0x301 off = true → (s.tray.chip c.val).coreUp = true →
      (s.tray.jobState c.val j.val = J.IDLE → s.tray.enabled (dlrPg c.val) = true →
        s.tray.is (dlrPg c.val) F.PG_COMMIT_STS_PENDING = false →
        Completes (.jobStart c j) s (fun t =>
          t.tray.jobState c.val j.val = J.RUNNING ∧ fld t F.DLR_JOB_CTL_STATUS = 0 ∧ fld t F.DLR_JOB_CTL_DETAIL = 0 ∧
          fld t F.DLR_JOB_CTL_NUMFLAGS = 0 ∧ fld t F.DLR_JOB_CTL_RETIRED = 0 ∧
          fld t F.DLR_JOB_CTL_EPOCH = fld s F.DLR_JOB_CTL_EPOCH ∧
          t.tray.slot c.val j.val = { pc := fld s F.DLR_JOB_PROG_PROG } ∧
          s.tray.keepsRegs t.tray (fun q o => q = pg ∧ o = off) ∧ others t)) ∧
      (s.tray.jobState c.val j.val ≠ J.IDLE → s.tray.gf pg F.PG_ERR_CAPT_VALID = 0 →
        Completes (.jobStart c j) s (fun t => t.tray.holdsErr pg 0x40 off 0 true (s.tray.timeOf c.val) ∧
          s.tray.keepsRegs t.tray (fun q o => q = pg ∧ (o = 0x60 ∨ o = 0x20)) ∧ s.tray.keepsBlocks t.tray)) ∧
      (s.tray.jobState c.val j.val = J.IDLE →
        Completes (.jobAbort c j) s (fun t => fld t F.DLR_JOB_CTL_STATUS = JS.ABORTED ∧
          fld t F.DLR_JOB_CTL_EPOCH = (fld s F.DLR_JOB_CTL_EPOCH + 1) % 65536 ∧
          s.tray.keepsRegs t.tray (fun q o => q = pg ∧ o = off) ∧ s.tray.keepsBlocks t.tray)) ∧
      (s.tray.jobState c.val j.val ≠ J.IDLE → (∀ tb op, (s.tray.slot c.val j.val).wait ≠ .op tb op) → s.tray.noneHeld c.val →
        Completes (.jobAbort c j) s (fun t => t.tray.jobEnded c.val j.val JS.ABORTED 0 ∧
          fld t F.DLR_JOB_CTL_EPOCH = (fld s F.DLR_JOB_CTL_EPOCH + 1) % 65536 ∧
          (∀ x ∈ (t.tray.dealer c.val).pool, x.slot ≠ j.val) ∧ t.tray.mem = s.tray.mem ∧ t.tray.tables = s.tray.tables ∧
          s.tray.keepsRegs t.tray (fun q o => (q = pg ∧ o = off) ∨ (q = dlrPg c.val ∧ (o = A.DLR_JOB_END ∨ o = 0x20)) ∨
            (q = inPg c.val ∧ 0x100 ≤ o))))) ∧
    ((s.tray.slot c.val j.val).wait = .ctr → ∀ w, s.tray.fetchIns c.val j.val = .ok w →
      insThresh w ≤ s.tray.gf (tblPg c.val (insTbl w)) (ctrFld (insWaitCtr w)) →
      Completes (.instrWaitEnd c j) s (fun t => (t.tray.slot c.val j.val).wait = .none ∧
        (t.tray.slot c.val j.val).passed = true ∧ t.tray.jobState c.val j.val = J.RUNNING ∧
        s.tray.keepsRegs t.tray (fun q o => q = pg ∧ o = off) ∧ others t)) ∧
    ((s.tray.slot c.val j.val).wait = .pool → s.tray.noneHeld c.val →
      Completes (.poolShort c j) s (fun t => t.tray.jobEnded c.val j.val JS.POOL_SHORT 0 ∧ t.tray.irqUp (dlrPg c.val) 10 ∧
        s.tray.counted t.tray c.val (s.tray.jobSeat c.val j.val) N.JOB_FAIL 1 ∧ t.tray.mem = s.tray.mem)) ∧
    (∀ w, let ctr := fun (t : State) => t.tray.gf (tblPg c.val (insTbl w)) (ctrFld (insIncCtr w))
      (s.tray.executes c.val j.val w I.NOP →
        Completes (.dealerNop c j) s (fun t => s.tray.retires t.tray c.val j.val ∧
          ctr t = (ctr s + b2n (insIncEn w)) % 2 ^ 32 ∧ s.tray.keepsRegs t.tray (insReg c.val j.val w) ∧ others t)) ∧
      (s.tray.executes c.val j.val w I.CTR_ADD →
        Completes (.ctrAdd c j) s (fun t => s.tray.retires t.tray c.val j.val ∧
          ctr t = (ctr s + insP w 0 % 2 ^ 32 + b2n (insIncEn w)) % 2 ^ 32 ∧
          s.tray.keepsRegs t.tray (insReg c.val j.val w) ∧ others t)) ∧
      (s.tray.executes c.val j.val w I.END → s.tray.noneHeld c.val →
        Completes (.endJob c j) s (fun t => t.tray.jobEnded c.val j.val JS.OK 0 ∧
          fld t F.DLR_JOB_CTL_RETIRED = (fld s F.DLR_JOB_CTL_RETIRED + 1) % 2 ^ 32 ∧ t.tray.mem = s.tray.mem ∧
          (fld s F.DLR_JOB_CFG_NOTIFY_EN = 0 → t.tray.ports = s.tray.ports) ∧
          (fld s F.DLR_JOB_CFG_NOTIFY_EN = 1 → ∃ k, hPtype k.pkt.hdr = P.RESULT ∧
            (t.tray.port c.val (fld s F.DLR_JOB_CFG_NOTIFY_EP)).origq =
              (s.tray.port c.val (fld s F.DLR_JOB_CFG_NOTIFY_EP)).origq ++ [k]))) ∧
      (s.tray.dealerRuns c.val = true → s.tray.jobState c.val j.val ≠ J.IDLE → (s.tray.slot c.val j.val).wait = .none →
        s.tray.fetchIns c.val j.val = .ok w →
        (opcodeOk (insOp w) = false → s.tray.noneHeld c.val →
          Completes (.dealerNop c j) s (fun t => t.tray.jobEnded c.val j.val JS.BAD_INSTR 1 ∧ t.tray.mem = s.tray.mem)) ∧
        (insOp w = I.NOP → s.tray.insCheck c.val j.val w = 0 → insWaitEn w = true → (s.tray.slot c.val j.val).passed = false →
          s.tray.gf (tblPg c.val (insTbl w)) (ctrFld (insWaitCtr w)) < insThresh w →
          Completes (.dealerNop c j) s (fun t => t.tray.jobState c.val j.val = J.WAITING ∧
            (t.tray.slot c.val j.val).wait = .ctr ∧ s.tray.keepsRegs t.tray (fun q o => q = pg ∧ o = off) ∧ others t))))

/-- R328, R320: the DESC_CREATE instruction creates the descriptor at P0 and places its handle in a JH entry, or ends the job with
DESC_FAIL; DESC_DESTROY destroys one. R338: INBOX_VALID brings an inbox into use; IN_WAIT takes its oldest ready half, or waits; IN_FREE
gives it back; R339: a DEALER_IN packet in MODE 0 fills its port's assembly place, and a complete record moves to the filling half. -/
def Obligations.DescriptorsAndInboxesOfJobs : Prop :=
  ∀ (s : State) (c : Fin 5) (j : Fin 32), s.tray.settled c.val →
    let others := fun (t : State) => (∀ i, i ≠ j.val → t.tray.slot c.val i = s.tray.slot c.val i) ∧
      s.tray.keepsOtherDealers t.tray c.val ∧ t.tray.ports = s.tray.ports ∧ t.tray.mem = s.tray.mem
    (∀ w, let jh := fun (t : State) => Assoc.get (fun _ => 0) (t.tray.slot c.val j.val).jh (insH w 2 % 16)
      (s.tray.executes c.val j.val w I.DESC_CREATE → ∀ d, s.tray.fetchDesc c.val j.val w = .ok d →
        let made := s.tray.createDesc c.val (s.tray.jobSeat c.val j.val) (some j.val) d
        (made.1 = D.OK →
          Completes (.descCreate c j) s (fun t => s.tray.retires t.tray c.val j.val ∧
            (t.tray.desc c.val (jh t % 4096)).held = true ∧ (t.tray.desc c.val (jh t % 4096)).live = true ∧
            (t.tray.desc c.val (jh t % 4096)).creator = some j.val ∧
            (t.tray.desc c.val (jh t % 4096)).seat = s.tray.jobSeat c.val j.val ∧
            s.tray.keepsRegs t.tray (insReg c.val j.val w) ∧ others t)) ∧
        (made.1 ≠ D.OK → s.tray.noneHeld c.val →
          Completes (.descCreate c j) s (fun t => t.tray.jobEnded c.val j.val JS.DESC_FAIL made.1 ∧ t.tray.mem = s.tray.mem))) ∧
      (s.tray.executes c.val j.val w I.DESC_DESTROY →
        (∀ h k d, s.tray.operand c.val j.val w 0 0 = some (h, k, d) →
          Completes (.descDestroy c j) s (fun t => s.tray.retires t.tray c.val j.val ∧
            t.tray.desc c.val k = (if d.users = [] then { gen := (d.gen + 1) % 16 } else { d with live := false }) ∧
            (∀ i, i ≠ k → i ≠ k + 1 → t.tray.desc c.val i = s.tray.desc c.val i) ∧
            s.tray.keepsRegs t.tray (insReg c.val j.val w) ∧ others t)) ∧
        (s.tray.operand c.val j.val w 0 0 = none → s.tray.noneHeld c.val →
          Completes (.descDestroy c j) s (fun t => t.tray.jobEnded c.val j.val JS.BAD_HANDLE 0 ∧ t.tray.mem = s.tray.mem))) ∧
      (let i := insP w 0 % 16
       let x := s.tray.inbox c.val i
       s.tray.inboxBound c.val j.val i = true →
        (s.tray.executes c.val j.val w I.IN_WAIT →
          (∀ h rest, x.taken = none → x.ready = h :: rest → h ∉ rest → (s.tray.inTake c.val i h).1 = D.OK →
            Completes (.inWait c j) s (fun t => s.tray.retires t.tray c.val j.val ∧
              (let y := { x with taken := some (h, jh t), ready := rest }
               t.tray.inbox c.val i = y) ∧ t.tray.gf (inPg c.val) (F.DLR_IN_TD_HANDLE.nth i) = jh t % 65536 ∧
              (∀ k, k ≠ i → t.tray.inbox c.val k = s.tray.inbox c.val k) ∧
              s.tray.keepsRegs t.tray (fun q o => insReg c.val j.val w q o ∨ (q = inPg c.val ∧ o = A.DLR_IN_TD + 0x20 * i)) ∧
              others t)) ∧
          (x.taken = none → x.ready = [] →
            Completes (.inWait c j) s (fun t => t.tray.jobState c.val j.val = J.WAITING ∧
              (t.tray.slot c.val j.val).wait = .inbox ∧ (t.tray.slot c.val j.val).pc = (s.tray.slot c.val j.val).pc ∧
              s.tray.keepsRegs t.tray (fun q o => q = jobPg c.val ∧ o = A.DLR_JOB_CTL + 0x20 * j.val) ∧ others t))) ∧
        (s.tray.executes c.val j.val w I.IN_FREE → ∀ h td, x.taken = some (h, td) → x.held = [] →
          Completes (.inFree c j) s (fun t => s.tray.retires t.tray c.val j.val ∧
            t.tray.inbox c.val i = { x with taken := none, recs := Assoc.set (fun _ => 0) x.recs h 0,
                                            fill := some (x.fill.getD h) } ∧
            t.tray.gf (inPg c.val) (F.DLR_IN_TD_HANDLE.nth i) = 0 ∧
            s.tray.keepsRegs t.tray (fun q o => insReg c.val j.val w q o ∨ (q = inPg c.val ∧ o = A.DLR_IN_TD + 0x20 * i)) ∧
            others t)))) ∧
    (∀ (i : Fin 16) v, s.tray.accepts c.val 0x302 (A.DLR_IN_CFG + 0x20 * i.val) = true → (s.tray.chip c.val).coreUp = true →
      let pg := inPg c.val
      let off := A.DLR_IN_CFG + 0x20 * i.val
      let m := F.DLR_IN_CFG_SEAT.get v
      let base := s.tray.inBase c.val i.val
      let len := (2 * F.DLR_IN_CFG_HALF_RECS.get v + 64) * F.DLR_IN_CFG_REC_64.get v * 64
      let pageOk := fun (p : Nat) =>
        let v : Via := { seat := m, direct := true }
        match s.tray.xlat c.val v (p * page2M) false, s.tray.xlat c.val v (p * page2M) true with
        | .ok pa, .ok _ => memOf pa == .sram && decide ((pa - sramBase) / page2M < s.tray.grantPages c.val)
        | _, _ => false
      let fits := base % 64 = 0 ∧ (∀ p ∈ pagesOf ((base : Int), (base : Int) + len - 1), pageOk p = true) ∧
        s.tray.descSeat c.val m + 2 ≤ s.tray.gf (layPg c.val) (F.LAY_SEAT_QUOTA.at (8 * m))
      s.tray.inValid c.val i.val = false → F.DLR_IN_CFG_REC_64.get v ≠ 0 → F.DLR_IN_CFG_HALF_RECS.get v ≠ 0 →
      F.DLR_IN_CFG_VALID.get v = 1 →
      (fits → Completes (.inboxValid c i v) s (fun t =>
        t.tray.inValid c.val i.val = true ∧ t.tray.inbox c.val i.val = {} ∧ t.tray.inSeat c.val i.val = m ∧
        t.tray.recBytes c.val i.val = 64 * F.DLR_IN_CFG_REC_64.get v ∧
        t.tray.halfRecs c.val i.val = F.DLR_IN_CFG_HALF_RECS.get v ∧
        s.tray.keepsRegs t.tray (fun q o => q = pg ∧ o = off) ∧ s.tray.keepsOtherDealers t.tray c.val ∧
        t.tray.mem = s.tray.mem)) ∧
      (base % 64 ≠ 0 → s.tray.gf pg F.PG_ERR_CAPT_VALID = 0 →
        Completes (.inboxValid c i v) s (fun t => t.tray.holdsErr pg 0x42 off 0 true (s.tray.timeOf c.val) ∧
          s.tray.keepsRegs t.tray (fun q o => q = pg ∧ (o = 0x60 ∨ o = 0x20)) ∧ s.tray.keepsBlocks t.tray))) ∧
    (∀ (e : Fin 64) (p : Pkt), s.tray.takes c.val e.val p → hPtype p.hdr = P.DEALER_IN → hAddr p.hdr / 2 ^ 60 = 0 →
      let i := hAddr p.hdr % 16
      let x := s.tray.inbox c.val i
      let n := s.tray.recBytes c.val i
      let place := s.tray.inBase c.val i + (2 * s.tray.halfRecs c.val i + e.val) * n
      let w := s.tray.writeBytes c.val (s.tray.inVia c.val i) place (pBytes p)
      let keeps := fun (t : State) => s.tray.keepsRegs t.tray (chargeReg c.val) ∧ s.tray.keepsOtherDealers t.tray c.val ∧
        (∀ k, k ≠ i → t.tray.inbox c.val k = s.tray.inbox c.val k)
      s.tray.inValid c.val i = true → hSeat p.hdr = s.tray.inSeat c.val i → x.asm = [] → x.held = [] →
      (pBytes p).length % 64 = 0 → w.1 = none →
      ((x.fill ≠ none → (pBytes p).length < n →
        Completes (.dealerInInbox c e p) s (fun t => t.tray.mem = w.2.mem ∧ keeps t ∧
          t.tray.inbox c.val i = { x with asm := [⟨e.val, (pBytes p).length, bitOf (hAddr p.hdr) 5⟩] })) ∧
       (∀ h l, x.fill = some h → (pBytes p).length = n → w.2.readBytes c.val (s.tray.inVia c.val i) place n = .ok l →
        let k := x.recsIn h
        let z := w.2.writeBytes c.val (s.tray.inVia c.val i) (s.tray.inBase c.val i + (h * s.tray.halfRecs c.val i + k) * n)
          (l.set 15 (BitVec.ofNat 8 e.val))
        z.1 = none →
        Completes (.dealerInInbox c e p) s (fun t => t.tray.mem = z.2.mem ∧ keeps t ∧
          (t.tray.inbox c.val i).recsIn h = k + 1 ∧ (t.tray.inbox c.val i).asm = [] ∧
          (t.tray.inbox c.val i).ready = (if s.tray.halfRecs c.val i ≤ k + 1 ∨ bitOf (hAddr p.hdr) 5 = true then x.ready ++ [h]
            else x.ready)))))

/-! ### Dealer instructions that compute, send and issue (R328–R348) -/

/-- R330: MIX writes the product of A and B to C, each element as its grouped sums give it, a free value where the format states
none; R331: VEC its element-wise or row operation; R333: QUANT the quantized blocks and their scales. Every byte outside the
elements stored stays. -/
def Obligations.DealerComputes : Prop :=
  ∀ (s : State) (c : Fin 5) (j : Fin 32) (w : BitVec 512), s.tray.settled c.val →
    let use := fun (x : Nat × Nat × DescSt) => useOf (s.tray.jobSeat c.val j.val) x.1 x.2.2.revoked x.2.2.words
    let keeps := fun (t : State) => s.tray.retires t.tray c.val j.val ∧ s.tray.keepsRegs t.tray (insReg c.val j.val w) ∧
      (∀ i, i ≠ j.val → t.tray.slot c.val i = s.tray.slot c.val i) ∧ s.tray.keepsOtherDealers t.tray c.val ∧
      t.tray.ports = s.tray.ports
    -- every element of the tensor can be stored
    let storable := fun (u : TdUse) => (s.tray.writeElems c.val u ((u.td.elemSeq 0).map (fun x => (x, 0)))).1 = none
    -- memory as it is once these codes are stored in the tensor
    let stored := fun (t : State) (u : TdUse) (codes : List Nat) =>
      t.tray.mem = (s.tray.writeElems c.val u (List.zip (u.td.elemSeq 0) codes)).2.mem
    (∀ x y z need cache as_ bs cs, s.tray.executes c.val j.val w I.MIX →
      s.tray.operand c.val j.val w 0 1 = some x → s.tray.operand c.val j.val w 1 1 = some y →
      s.tray.operand c.val j.val w 2 1 = some z →
      let a := use x
      let b := use y
      let u := use z
      let k := a.td.size0
      let m := a.td.size 1
      let n := b.td.size 1
      let kind := mixKind a.td.fmt b.td.fmt
      u.td.wr = true → a.td.flat = true → b.td.flat = true → u.td.flat = true → b.td.size0 = k → u.td.size0 = n →
      u.td.size 1 = m → m ≤ 4096 → n ≤ 4096 → k ≤ 65536 →
      (kind = 1 ∧ u.td.fmt ∈ [1, 2, 3] ∨ kind = 2 ∧ u.td.fmt = 6) → s.tray.poolRoom c.val j.val need cache →
      s.tray.readElems c.val a (a.td.elemSeq 0) = .ok as_ → s.tray.readElems c.val b (b.td.elemSeq 0) = .ok bs →
      (if insAcc w then s.tray.readElems c.val u (u.td.elemSeq 0) else .ok []) = .ok cs → storable u →
      let r := mixAll a.td.fmt b.td.fmt u.td.fmt (rowsOf k as_) (rowsOf k bs) (rowsOf n cs) (insAcc w)
      Completes (.mix c j need cache) s (fun t => keeps t ∧
        ∃ codes : List Nat, codes.length = r.length ∧ (∀ (i v fl : Nat), r[i]? = some (some v, fl) → codes[i]? = some v) ∧ stored t u codes)) ∧
    (∀ x z as_ bs cs, s.tray.executes c.val j.val w I.VEC → insVar w ≤ 12 →
      let var := insVar w
      let a := use x
      let u := use z
      s.tray.operand c.val j.val w 0 1 = some x → s.tray.operand c.val j.val w 2 1 = some z →
      ∀ b : Option TdUse, (if 1 ≤ var ∧ var ≤ 5 then ∃ y, s.tray.operand c.val j.val w 1 1 = some y ∧ b = some (use y) else b = none) →
      let ins := [a.td.fmt] ++ (match b with | some y => [y.td.fmt] | none => []) ++ (if var = 3 then [u.td.fmt] else [])
      let dbl := ins.all (· == 0)
      let row := 11 ≤ var
      u.td.wr = true → u.td.count = (if row then a.td.count / a.td.size0 else a.td.count) →
      (∀ y, b = some y → y.td.count = u.td.count) → isMx u.td.fmt = false → (dbl = true ∨ ∀ f ∈ ins, f ≠ 0) →
      (5 < var → a.td.fmt ≠ 0 ∧ u.td.fmt ≠ 0) →
      s.tray.readVals c.val a (insOrder w) = .ok as_ →
      (match b with | some y => s.tray.readVals c.val y 0 | none => .ok []) = .ok bs →
      (if var = 3 then s.tray.readVals c.val u 0 else .ok []) = .ok cs → storable u →
      let out := fun (r : FV × Nat) => (fvConv u.td.fmt (insSat8 w) r.1).1
      let z0 : FV := .num false 0 0
      Completes (.vec c j) s (fun t => keeps t ∧ ∃ codes, stored t u codes ∧
        (dbl = true ∨ (∀ v ∈ as_ ++ bs ++ cs, exact32 v = true) →
          codes = (if row then (rowRuns (List.zip (a.td.elemSeq (insOrder w)) as_)).map (fun l => out (rowRed var l))
            else (as_.zipIdx).map (fun v =>
              out (vecElem var dbl (insP w 0) v.1 ((bs[v.2]?).getD z0) ((cs[v.2]?).getD z0))))))) ∧
    (∀ x z vs, s.tray.executes c.val j.val w I.QUANT →
      s.tray.operand c.val j.val w 0 1 = some x → s.tray.operand c.val j.val w 2 1 = some z →
      let a := use x
      let u := use z
      u.td.wr = true → u.td.count = a.td.count → isMx u.td.fmt = true → s.tray.readVals c.val a (insOrder w) = .ok vs →
      storable u →
      let blocks := (rowsOf 32 vs).map (quantBlock u.td.fmt)
      let scales := s.tray.writeScales c.val u
        (List.zip ((rowsOf 32 (u.td.elemSeq 0)).filterMap (fun l => l.head?)) (blocks.map (fun b => b.1)))
      scales.1 = none →
      Completes (.quant c j) s (fun t => keeps t ∧
        t.tray.mem = (scales.2.writeElems c.val u (List.zip (u.td.elemSeq 0) (blocks.flatMap (fun b => b.2.1)))).2.mem))

/-- R328, R481: SEND sends A's traversal bytes to its endpoint in RESULTs of up to 4,096 B; R310: SCATTER sends each BCL entry's block
to its DEST. R341, R343: MOE_ROUTE waits for its inbox; MOE_BATCH routes each token of a ready half to its experts, sends dispatch,
route and batch records, and gives the half back. -/
def Obligations.DealerSends : Prop :=
  ∀ (s : State) (c : Fin 5) (j : Fin 32) (w : BitVec 512), s.tray.settled c.val →
    let use := fun (x : Nat × Nat × DescSt) => useOf (s.tray.jobSeat c.val j.val) x.1 x.2.2.revoked x.2.2.words
    let keeps := fun (t : State) => s.tray.keepsRegs t.tray (insReg c.val j.val w) ∧
      (∀ i, i ≠ j.val → t.tray.slot c.val i = s.tray.slot c.val i) ∧ s.tray.keepsOtherDealers t.tray c.val ∧
      (∀ d g, g < 64 → d ≠ c.val → t.tray.port d g = s.tray.port d g)
    -- the RESULTs that leave for an endpoint, in order
    let sends := fun (t : State) (l : List JobPart) => ∀ e, e < 64 → ∃ k,
      (t.tray.port c.val e).origq = (s.tray.port c.val e).origq ++ k ∧
      k.map (fun q => (hPtype q.pkt.hdr, hAddr q.pkt.hdr, pBytes q.pkt)) =
        (l.filter (fun q => q.ep == e)).map (fun q => (P.RESULT, q.addr % 2 ^ 64, q.data))
    (∀ x l, s.tray.executes c.val j.val w I.SEND → s.tray.operand c.val j.val w 0 1 = some x → chOk (insP w 2 % 8) = true →
      s.tray.readElems c.val (use x) ((use x).td.elemSeq 0) = .ok l →
      Completes (.send c j) s (fun t => s.tray.retires t.tray c.val j.val ∧ keeps t ∧ t.tray.mem = s.tray.mem ∧
        sends t (jobParts (insP w 0 % 64) (insP w 1) (packBits (use x).td.bits (l.map (fun a => a.1)))))) ∧
    (∀ x h k d, s.tray.executes c.val j.val w I.SCATTER → s.tray.operand c.val j.val w 0 1 = some x →
      s.tray.operand c.val j.val w 3 3 = some (h, k, d) → chOk (insP w 2 % 8) = true →
      (bclOf d.words).td = s.tray.opHandle c.val j.val w 0 →
      let b := bclOf d.words
      let r := s.tray.scatterParts c.val (use x) { seat := s.tray.jobSeat c.val j.val, handle := h, revoked := d.revoked } b
        (insP w 1) (ceilDiv (b.blk.foldl (· * ·) (use x).td.bits) 8) b.count 0
      r.2 = none →
      Completes (.scatter c j) s (fun t => s.tray.retires t.tray c.val j.val ∧ keeps t ∧ t.tray.mem = s.tray.mem ∧
        sends t r.1)) ∧
    (∀ x b z, s.tray.operand c.val j.val w 0 1 = some x → s.tray.operand c.val j.val w 3 1 = some z →
      (if (moeOf w).bias then ∃ y, s.tray.operand c.val j.val w 1 1 = some y ∧ b = some (use y) else b = none) →
      let m := moeOf w
      let d : MoeTds := ⟨use x, b, use z⟩
      let i := m.inbox
      let y := s.tray.inbox c.val i
      (∀ need, s.tray.executes c.val j.val w I.MOE_ROUTE → (s.tray.slot c.val j.val).moe = false →
        firstFail (s.tray.moeBad c.val j.val m d) = 0 → s.tray.poolRoom c.val j.val need 0 →
        Completes (.moeRoute c j need) s (fun t => keeps t ∧ t.tray.ports = s.tray.ports ∧ t.tray.mem = s.tray.mem ∧
          (t.tray.slot c.val j.val).moe = true ∧ (t.tray.slot c.val j.val).batch = 0 ∧
          (t.tray.slot c.val j.val).pc = (s.tray.slot c.val j.val).pc ∧
          (t.tray.slot c.val j.val).wait = (if y.next = none then .inbox else .none))) ∧
      (∀ h ws bs es recs, s.tray.dealerRuns c.val = true → s.tray.jobState c.val j.val ≠ J.IDLE →
        (s.tray.slot c.val j.val).moe = true → s.tray.fetchIns c.val j.val = .ok w → s.tray.inboxBound c.val j.val i = true →
        y.next = some h → y.held = [] → (s.tray.inTake c.val i h).1 = D.OK → m.bcl = 0 →
        s.tray.readVals c.val d.wt 0 = .ok ws → (match b with | some u => s.tray.readVals c.val u 0 | none => .ok []) = .ok bs →
        s.tray.readElems c.val d.map (d.map.td.elemSeq 0) = .ok es →
        s.tray.readRecs c.val { seat := s.tray.inSeat c.val i }
          (s.tray.inBase c.val i + h * s.tray.halfRecs c.val i * s.tray.recBytes c.val i) (s.tray.recBytes c.val i)
          (y.recsIn h) = .ok recs →
        let cols := (List.range d.e).map (fun e => (rowsOf d.e ws).map (fun r => (r[e]?).getD (.num false 0 0)))
        let ex := expertsOf (es.map (fun a => BitVec.ofNat 8 a.1))
        let r := (recs.zipIdx).foldl (fun (r : MoeRun) a => r.token m d cols (b.map (fun _ => bs)) ex a.2 a.1) {}
        let n := (s.tray.slot c.val j.val).batch
        Completes (.moeBatch c j) s (fun t =>
          sends t ((r.parts ++ r.batchRecs ex n).map (fun q => q.2)) ∧ t.tray.mem = s.tray.mem ∧
          (t.tray.inbox c.val i).taken = none ∧ (t.tray.inbox c.val i).recsIn h = 0 ∧
          s.tray.keepsRegs t.tray (fun q o => insReg c.val j.val w q o ∨ (q = inPg c.val ∧ o = A.DLR_IN_TD + 0x20 * i)) ∧
          (∀ k, k ≠ j.val → t.tray.slot c.val k = s.tray.slot c.val k) ∧ s.tray.keepsOtherDealers t.tray c.val ∧
          (m.limit ≠ 0 ∧ m.limit ≤ n + 1 → s.tray.retires t.tray c.val j.val) ∧
          (m.limit = 0 ∨ n + 1 < m.limit → (t.tray.slot c.val j.val).batch = n + 1 ∧
            (t.tray.slot c.val j.val).pc = (s.tray.slot c.val j.val).pc))))

/-- R257, R335: RS_EPI, AG_PRO and SHUFFLE take the table's next OP_SEQ for an operation on every member, which starts as soon as
it may, and the slot waits for its end; R340: a DEALER_IN packet in MODE 1 for the next operation is staged, one in a reserved MODE is
a BAD_PKT. -/
def Obligations.FusedOperationsIssue : Prop :=
  ∀ (s : State) (c : Fin 5) (j : Fin 32) (w : BitVec 512), s.tray.settled c.val →
    let tb := insTbl w
    let seq := s.tray.opNext c.val tb
    let x := s.tray.table c.val tb
    let keeps := fun (t : State) => s.tray.keepsRegs t.tray (fun q o => insReg c.val j.val w q o ∨
        (q = tblPg c.val tb ∧ o = A.TBL_STS)) ∧ (∀ i, i ≠ j.val → t.tray.slot c.val i = s.tray.slot c.val i) ∧
      (∀ d k, k < 256 → ¬ (d = c.val ∧ k = tb) → t.tray.table d k = s.tray.table d k) ∧
      t.tray.ports = s.tray.ports ∧ t.tray.mem = s.tray.mem
    -- the operation is the last of the table's, matched and perhaps started; the slot waits for it
    let issued := fun (t : State) (opcode count dst : Nat) (fz : Fuse) =>
      (∃ z, (t.tray.table c.val tb).ops = x.ops ++ [z] ∧ z.seq = seq ∧ z.opcode = opcode ∧ z.count = count ∧
        z.launch = .dealer j.val (s.tray.jobEpoch c.val j.val) (insTag w) ∧ z.fuse = fz ∧
        z.members.map (fun y => (y.port, y.dst, y.userTag, y.idx)) =
          (s.tray.tMembers c.val tb).map (fun e => (e, dst, insTag w, none)) ∧
        (s.tray.membersLive c.val tb = true → s.tray.cqsOn c.val tb = true → z.started = true)) ∧
      t.tray.opNext c.val tb = (seq + 1) % 65536 ∧ (t.tray.slot c.val j.val).wait = .op tb seq ∧
      t.tray.jobState c.val j.val = J.RUNNING ∧ keeps t
    -- the table takes the operation and nothing waits for it; no other operation has its number
    let ready := s.tray.tDealer c.val tb = true ∧ s.tray.issueFull c.val tb = false ∧ s.tray.nothingStaged c.val tb ∧
      s.tray.tRuns c.val tb = true ∧ (∀ o ∈ x.ops, o.seq ≠ seq ∧ o.started = true)
    (∀ need o, ready → s.tray.poolRoom c.val j.val need 0 →
      (if insP w 2 / 2 ^ 9 % 2 = 1 then ∃ k d h, s.tray.operand c.val j.val w 1 1 = some (h, k, d) ∧ o = some (h, d.words) else o = none) →
      let cnt := insP w 0 % 2 ^ 32
      let f := insP w 2 / 2 ^ 16 % 16
      let h := (o.map (fun y => y.1)).getD 0
      let b := (o.map (fun y => y.2)).getD 0
      cnt ≠ 0 → (∀ y, o = some y → (tdOf y.2).fmt = 1) →
      (s.tray.executes c.val j.val w I.RS_EPI → f ≤ 13 →
        (∀ y, o = some y → (tdOf y.2).count = s.tray.tN c.val tb * cnt) →
        (isMx f = true → cnt % 32 = 0 ∧ (s.tray.geo c.val tb { seq := 0, opcode := O.RS, count := cnt }).e % 32 = 0) →
        Completes (.rsEpi c j need) s (fun t => issued t O.RS cnt (insP w 1) (.epi w h b))) ∧
      (s.tray.executes c.val j.val w I.AG_PRO → f ≤ 7 → (∀ y, o = some y → s.tray.tN c.val tb ≤ (tdOf y.2).count) →
        (insP w 2 / 2 ^ 20 % 2 ^ 12 ≠ 0 → cnt % (insP w 2 / 2 ^ 20 % 2 ^ 12) = 0) →
        Completes (.agPro c j need) s (fun t => issued t O.AG cnt (insP w 1) (.pro w h b)))) ∧
    (∀ need (y z : Nat × Nat × DescSt), ready → s.tray.poolRoom c.val j.val need 0 → s.tray.executes c.val j.val w I.SHUFFLE →
      s.tray.operand c.val j.val w 0 2 = some y → s.tray.operand c.val j.val w 1 2 = some z →
      dtdsAgree (dtdOf y.2.2.words) (dtdOf z.2.2.words) (s.tray.tN c.val tb) = true →
      (dtdOf y.2.2.words).fmt = (dtdOf z.2.2.words).fmt →
      0 < (dtdOf y.2.2.words).q * shufSource (dtdOf y.2.2.words) (shufSpan w) c.val →
      Completes (.shuffle c j need) s (fun t => issued t O.SHUFFLE 0 0 (.shuffle w y.2.2.words z.2.2.words))) ∧
    (∀ (e : Fin 64) (p : Pkt), s.tray.takes c.val e.val p → hPtype p.hdr = P.DEALER_IN →
      let a := hAddr p.hdr
      let tb := a / 2 ^ 16 % 256
      (a / 2 ^ 60 = 1 → s.tray.tst c.val tb = T.ACTIVE → s.tray.isMember c.val tb e.val = true → hSeat p.hdr = s.tray.tSeat c.val tb →
        hEpoch p.hdr = s.tray.tEpoch c.val tb →
        s.tray.tDealer c.val tb = true → (s.tray.table c.val tb).findOp (a % 65536) = none →
        a % 65536 = s.tray.opNext c.val tb →
        Completes (.dealerInShuffle c e p) s (fun t =>
          t.tray.table c.val tb = { s.tray.table c.val tb with shuf := (s.tray.table c.val tb).shuf ++
            [⟨a % 65536, e.val, hCh p.hdr, a / 2 ^ 24 % 2 ^ 36, pBytes p⟩] } ∧
          s.tray.keepsRegs t.tray (chargeReg c.val) ∧ s.tray.keepsOtherTables t.tray c.val tb)) ∧
      (1 < a / 2 ^ 60 →
        Completes (.dealerInShuffle c e p) s (fun t =>
          t.tray.gf (portPg c.val e.val) F.PORT_RX_ERR_BAD_PKT = min (2 ^ F.PORT_RX_ERR_BAD_PKT.w - 1)
            (s.tray.gf (portPg c.val e.val) F.PORT_RX_ERR_BAD_PKT + 1) ∧
          s.tray.counted t.tray c.val (hSeat p.hdr) N.TBL_DISCARD 1 ∧
          s.tray.keepsRegs t.tray (fun q o => chargeReg c.val q o ∨ (q = portPg c.val e.val ∧ o = A.PORT_RX_ERR)) ∧
          t.tray.tables = s.tray.tables ∧ t.tray.dealers = s.tray.dealers ∧ t.tray.mem = s.tray.mem)))

/-! ### Dealer errors, seats, observability (R360–R391) -/

/-- R360, R280: SRAM_ECC_ERROR counts, raises ECC_UNCORR and fails the reading job, or the operation, or poisons the line; R368:
SEAT_CFG_WRITE sets weights and VALID, which does not clear while the seat is in use; R373: WATCH_OVERFLOW raises the watch's bit and
reloads, WATCH_CAPTURE captures once and counts what it misses; R375, R376: SNAPSHOT takes the next SEQ and sends the record, or counts a
gap; R379: DUMP_RECORD_DELIVER moves a whole record into the chip's ring; R383: SEAL signs a record; R386: CALIBRATION writes the CAL
record, and K_SET gives a chip its K. -/
def Obligations.ErrorsAndObservability : Prop :=
  ∀ (s : State) (c : Fin 5), s.tray.settled c.val →
    let hal := s.tray.hal
    let ring := fun (t : State) (i : Nat) => Assoc.get (fun _ => []) t.tray.hal.bridge.rings i
    ((s.tray.chip c.val).coreUp = true →
      let ecc := fun (t : State) => t.tray.gf (dlrPg c.val) F.DLR_ECC_UNCORR =
          (s.tray.gf (dlrPg c.val) F.DLR_ECC_UNCORR + 1) % 2 ^ 32 ∧
        t.tray.irqUp (dlrPg c.val) 9 ∧ s.tray.logs t.tray .ecc c.val [2] ∧ t.tray.mem = s.tray.mem
      (∀ j : Fin 32, s.tray.jobState c.val j.val ≠ J.IDLE → s.tray.noneHeld c.val →
        Completes (.sramEccError c (.jobData j)) s (fun t => ecc t ∧ t.tray.jobEnded c.val j.val JS.MEM_UNCORR 0)) ∧
      (∀ (tb : Fin 256) op o, (s.tray.table c.val tb.val).findOp op.toNat = some o → o.started = true → o.failed = false →
        o.launch = .endpoints →
        Completes (.sramEccError c (.collective tb op)) s (fun t => ecc t ∧
          (∀ k ∈ (t.tray.table c.val tb.val).tricks, k.op ≠ op.toNat) ∧
          (∀ z, (t.tray.table c.val tb.val).findOp op.toNat = some z → z.failed = true) ∧
          s.tray.counted t.tray c.val (s.tray.tSeat c.val tb.val) N.DATA_FAIL 1 ∧
          (∀ d k, k < 256 → ¬ (d = c.val ∧ k = tb.val) → t.tray.table d k = s.tray.table d k))) ∧
      (∀ l, let k := (c.val * 2 ^ 40 + sramBase + 64 * l.toNat) / 64
        Completes (.sramEccError c (.grantLine l)) s (fun t => ecc t ∧ k ∈ (t.tray.dealer c.val).poison ∧
          (∀ i ∈ (t.tray.dealer c.val).poison, i = k ∨ i ∈ (s.tray.dealer c.val).poison) ∧ t.tray.ports = s.tray.ports ∧
          s.tray.keepsRegs t.tray (fun q o => q = dlrPg c.val ∧ (o = 0x20 ∨ o = F.DLR_ECC_UNCORR.off)) ∧
          s.tray.keepsOtherDealers t.tray c.val))) ∧
    (∀ (m : Fin 64) v, s.tray.accepts c.val (0x380 + m.val) A.SEAT_CFG = true → (s.tray.chip c.val).coreUp = true →
      let pg := seatPg c.val m.val
      let weights := fun (t : State) => t.tray.gf pg F.SEAT_CFG_W_TC2 = F.SEAT_CFG_W_TC2.get v ∧
        t.tray.gf pg F.SEAT_CFG_W_TC3 = F.SEAT_CFG_W_TC3.get v ∧ s.tray.keepsBlocks t.tray
      let busy := s.tray.is pg F.SEAT_CFG_VALID = true ∧ s.tray.seatBusy c.val m.val = true ∧ F.SEAT_CFG_VALID.get v = 0
      F.SEAT_CFG_W_TC2.get v ≠ 0 → F.SEAT_CFG_W_TC3.get v ≠ 0 →
      (m.val = 0 → Completes (.seatCfgWrite c m v) s (fun t => weights t ∧
        t.tray.gf pg F.SEAT_CFG_VALID = s.tray.gf pg F.SEAT_CFG_VALID ∧
        s.tray.keepsRegs t.tray (fun q o => q = pg ∧ o = A.SEAT_CFG))) ∧
      (m.val ≠ 0 → ¬ busy → Completes (.seatCfgWrite c m v) s (fun t => weights t ∧
        t.tray.gf pg F.SEAT_CFG_VALID = F.SEAT_CFG_VALID.get v ∧
        s.tray.keepsRegs t.tray (fun q o => q = pg ∧ o = A.SEAT_CFG))) ∧
      (m.val ≠ 0 → busy → s.tray.gf pg F.PG_ERR_CAPT_VALID = 0 →
        Completes (.seatCfgWrite c m v) s (fun t => weights t ∧ t.tray.is pg F.SEAT_CFG_VALID = true ∧
          t.tray.holdsErr pg 0x40 A.SEAT_CFG 0 true (s.tray.timeOf c.val) ∧
          s.tray.keepsRegs t.tray (fun q o => q = pg ∧ (o = A.SEAT_CFG ∨ o = 0x60 ∨ o = 0x20))))) ∧
    (∀ i : Fin 8,
      let pg := watchPg c.val
      let f := fun (t : State) (f : Fld) => t.tray.gf pg (f.at (0x20 * i.val))
      let others := fun (t : State) => (∀ k, k < 8 → k ≠ i.val → t.tray.watch c.val k = s.tray.watch c.val k) ∧ s.tray.keepsBlocks t.tray
      (∀ past, (s.tray.watch c.val i.val).carry = some past →
        Completes (.watchOverflow c i) s (fun t => t.tray.irqUp pg (8 + i.val) ∧
          f t F.CNT_WATCH_CNT_COUNT = (if f s F.CNT_WATCH_CFG_RELOAD_EN = 1
            then (f s F.CNT_WATCH_RELOAD_RELOAD + past) % 2 ^ 48 else f s F.CNT_WATCH_CNT_COUNT) ∧
          t.tray.watch c.val i.val = { carry := none, due := some past } ∧
          s.tray.keepsRegs t.tray (fun q o => q = pg ∧ (o = 0x20 ∨ o = A.CNT_WATCH_CNT + 0x20 * i.val)) ∧ others t)) ∧
      (∀ skid pos wh, (s.tray.watch c.val i.val).due = some skid → f s F.CNT_WATCH_CAPT_VALID = 0 →
        Completes (.watchCapture c i pos wh) s (fun t => f t F.CNT_WATCH_CAPT_SKID = skid % 65536 ∧
          f t F.CNT_WATCH_CAPT_SKID_POS = pos.toNat ∧ f t F.CNT_WATCH_CAPT_WHERE = wh.val ∧ f t F.CNT_WATCH_CAPT_VALID = 1 ∧
          f t F.CNT_WATCH_CAPT_MISSED = f s F.CNT_WATCH_CAPT_MISSED ∧ (t.tray.watch c.val i.val).due = none ∧
          s.tray.keepsRegs t.tray (fun q o => q = pg ∧ o = A.CNT_WATCH_CAPT + 0x20 * i.val) ∧ others t)) ∧
      (∀ skid pos wh, (s.tray.watch c.val i.val).due = some skid → f s F.CNT_WATCH_CAPT_VALID = 1 →
        Completes (.watchCapture c i pos wh) s (fun t =>
          f t F.CNT_WATCH_CAPT_MISSED = min 65535 (f s F.CNT_WATCH_CAPT_MISSED + 1) ∧
          f t F.CNT_WATCH_CAPT_SKID = f s F.CNT_WATCH_CAPT_SKID ∧ f t F.CNT_WATCH_CAPT_WHERE = f s F.CNT_WATCH_CAPT_WHERE ∧
          s.tray.keepsRegs t.tray (fun q o => q = pg ∧ o = A.CNT_WATCH_CAPT + 0x20 * i.val) ∧ others t))) ∧
    (s.tray.chipRuns c.val = true → s.tray.enabled (dumpPg c.val) = true →
      let pg := dumpPg c.val
      let d := (s.tray.chip c.val).dump
      let req := s.tray.gf pg F.CNT_DUMP_CFG_INTERVAL
      let sec := s.tray.gf pg F.CNT_DUMP_CFG_SECTIONS
      let i := effInterval req (recordLen sec) (s.tray.is (deckPg c.val) F.DECK_STS_CHAIN)
      let seq := if d.started then (s.tray.gf pg F.CNT_DUMP_SEQ_SEQ + 1) % 2 ^ 64 else 0
      let dump := fun (t : State) => (t.tray.chip c.val).dump
      let taken := fun (t : State) => t.tray.gf pg F.CNT_DUMP_SEQ_SEQ = seq ∧ t.tray.gf pg F.CNT_DUMP_STS_EFF_INTERVAL = i ∧
        t.tray.is pg F.CNT_DUMP_STS_LENGTHENED = decide (req < i) ∧ (dump t).kForce = s.tray.gf (telPg c.val) F.TEL_EKFACT_K ∧
        t.tray.gf pg F.CNT_DUMP_T_T = (s.tray.rd (chip0 c.val) A.CHIP_TIME).toNat /
          intervalNs (s.tray.gf pg F.CNT_DUMP_STS_EFF_INTERVAL) * intervalNs (s.tray.gf pg F.CNT_DUMP_STS_EFF_INTERVAL) ∧
        (dump t).started = true ∧ s.tray.keepsRegs t.tray (fun q o => q = pg ∧
          (o = 0x20 ∨ o = A.CNT_DUMP_STS ∨ o = A.CNT_DUMP_SEQ ∨ o = A.CNT_DUMP_T)) ∧ t.tray.ports = s.tray.ports ∧
        t.tray.tables = s.tray.tables ∧ t.tray.dealers = s.tray.dealers ∧ t.tray.mem = s.tray.mem
      (d.sending = none → s.tray.bridgeTakes c.val = true →
        Completes (.snapshot c) s (fun t => taken t ∧ (∃ rcd, (dump t).sending = some rcd ∧ rcd.length = recordLen sec ∧
          recSeq rcd = seq ∧ (dump t).carried = d.gaps) ∧ (dump t).gaps = d.gaps)) ∧
      (d.sending ≠ none ∨ s.tray.bridgeTakes c.val = false →
        Completes (.snapshot c) s (fun t => taken t ∧ (dump t).sending = d.sending ∧ (dump t).gaps = d.gaps + 1 ∧
          (dump t).cause = (if d.sending = none then 2 else 1) ∧
          t.tray.gf pg F.CNT_DUMP_STS_GAPS = (s.tray.gf pg F.CNT_DUMP_STS_GAPS + 1) % 2 ^ 32 ∧ t.tray.irqUp pg 8))) ∧
    (hal.up = true →
      (∀ sent rcd, (s.tray.chip c.val).dump.sending = some sent → s.tray.wholeRecord c.val sent = some rcd →
        Completes (.dumpRecordDeliver c) s (fun t => ring t c.val = ring s c.val ++ [⟨recSeq rcd, rcd⟩] ∧
          (t.tray.chip c.val).dump.sending = none ∧ (t.tray.chip c.val).dump.prev = sha384 rcd ∧
          s.tray.keepsRegs t.tray (fun _ _ => False) ∧ t.tray.mem = s.tray.mem ∧
          (s.leases.headless = true → s.tray.quiet → t.tray.out = s.tray.out))) ∧
      Completes .seal s (fun t => (∃ rcd, ring t 7 = ring s 7 ++ [⟨hal.bridge.sealSeq, rcd⟩] ∧ rcd.length = 640 ∧
          (rcd.drop 512).take 96 = leBytes 96 (Config.sealSign (rcd.take 512)).toNat ∧
          ∀ k, k < 6 → leVal ((rcd.drop (128 + 64 * k)).take 8) = Assoc.get (fun _ => 0) hal.bridge.lastSeq k % 2 ^ 64) ∧
        t.tray.hal.bridge.sealSeq = hal.bridge.sealSeq + 1 ∧
        s.tray.keepsRegs t.tray (fun _ _ => False) ∧ s.tray.keepsBlocks t.tray) ∧
      (∀ r, let tm := s.tray.master / 10 ^ 10 * 10 ^ 10
        hal.bridge.calT < tm → (∀ k, k < 5 → (s.tray.calChip k tm).on = false ∨ (s.tray.calChip k tm).atT = true) →
        Completes (.calibration r) s (fun t => (∃ rcd, ring t 7 = ring s 7 ++ [⟨hal.bridge.calSeq, rcd⟩] ∧ rcd.length = 864 ∧
            leVal ((rcd.drop 16).take 8) = tm % 2 ^ 64 ∧
            (∀ e, r.eTray = some e → leVal ((rcd.drop 136).take 8) = e % 2 ^ 64)) ∧
          t.tray.hal.bridge.calSeq = hal.bridge.calSeq + 1 ∧ t.tray.hal.bridge.calT = tm ∧
          t.tray.rd pwrPg A.PWR_EIN = s.tray.rd pwrPg A.PWR_EIN + BitVec.ofNat 64 (r.eTray.getD 0) ∧
          s.tray.keepsRegs t.tray (fun q o => (q = pwrPg ∧ o = A.PWR_EIN) ∨
            ∃ d k, d < 5 ∧ k < 4 ∧ q = railPg d ∧ o = A.PWR_ERAIL + 0x20 * k) ∧ t.tray.mem = s.tray.mem ∧
          t.tray.ports = s.tray.ports))) ∧
    (∀ k cal, s.tray.chipRuns c.val = true →
      Completes (.kSet c k cal) s (fun t => t.tray.gf (telPg c.val) F.TEL_EKFACT_K = k.toNat ∧
        s.tray.keepsRegs t.tray (fun q o => q = telPg c.val ∧ o = A.TEL_EKFACT) ∧ s.tray.keepsBlocks t.tray))

/-! ### Power input, rails, temperatures, cooling (R392–R407) -/

/-- R392, R393, R407, R412: the commands of V_IN show it and its state, cap every chip, stop the tray or start it again; R396, R397,
R399: a first failure on a rail is counted, reported and marks the calibration window, R400: a second one, or a rail that trips its
overcurrent test, leaves the chip off; CAP_PWR_SET combines the caps; R409: CHIP_POWER_UP turns the rails on, and a rail that twice misses
power-good leaves the chip off. -/
def Obligations.InputAndRails : Prop :=
  ∀ (s : State), s.tray.hk.aon = true → s.tray.quiet →
    let vst := fun (t : State) => t.tray.gf pwrPg F.PWR_IN_STATE
    let noted := fun (t : State) (ev : Ev) (data : List Nat) => ∃ e ∈ t.tray.logq, e.ev = ev ∧ e.src = 0 ∧ e.data = data
    let cap := fun (t : State) (f : Fld) (d : Nat) => t.tray.gf hkPg (capFld f d)
    -- the housekeeper has written the least component of the cap of a chip
    let combined := fun (t : State) (d : Nat) => cap t F.HK_CAP_EFFECTIVE d = min 1250 (min (min (cap t F.HK_CAP_CAP_PWR d)
        (cap t F.HK_CAP_CAP_THERM d)) (min (cap t F.HK_CAP_CAP_COOL d) (cap t F.HK_CAP_CAP_INPUT d))) ∧
      (t.tray.chipOn d = true → t.tray.gf (chip0 d) F.CHIP_DEAL_CLK_CAP_MHZ = cap t F.HK_CAP_EFFECTIVE d)
    let inputCap := fun (t : State) (v : Nat) => ∀ d, d < 5 → cap t F.HK_CAP_CAP_INPUT d = v ∧
      (cap s F.HK_CAP_CAP_INPUT d ≠ v → combined t d)
    let dead := fun (t : State) => t.tray.hk.aon = false ∧ t.tray.hal = {} ∧ t.leases = {} ∧ t.tray.fram.log = s.tray.fram.log ∧
      ∀ d, d < 5 → t.tray.chipOn d = false ∧ t.tray.bare d
    let goesOn := fun (t : State) => t.tray.ports = s.tray.ports ∧ t.tray.lanes = s.tray.lanes ∧ t.tray.tables = s.tray.tables ∧
      t.tray.dealers = s.tray.dealers ∧ t.tray.mem = s.tray.mem ∧ t.leases = s.leases
    Completes .vinOvTrip s (fun t => dead t ∧ t.tray.hk.ovSeen = true) ∧
    Completes .vinBrownout s (fun t => dead t ∧
      (s.tray.logq = [] → t.tray.fram.gasp = (let g := (s.tray.hk.ring.filter (fun a => !a.2)).map (fun a => a.1)
        g.drop (g.length - 16)))) ∧
    (∀ v, (4400 ≤ v.toNat → v.toNat < 4800 → vst s ≠ Vin.UV_TRIP →
        Completes (.vinUvWarn v) s (fun t => vst t = Vin.UV_WARN ∧ t.tray.gf pwrPg F.PWR_IN_VIN = v.toNat ∧ inputCap t 900 ∧
          noted t .vinUvWarn [v.toNat] ∧ goesOn t)) ∧
      (4800 ≤ v.toNat → vst s = Vin.UV_WARN →
        Completes (.vinUvWarnClear v) s (fun t => vst t = (if v.toNat ≤ 5400 then Vin.NORMAL else Vin.OV_WARN) ∧
          t.tray.gf pwrPg F.PWR_IN_VIN = v.toNat ∧ inputCap t 1250 ∧ goesOn t)) ∧
      (v.toNat < 4400 → vst s ≠ Vin.UV_TRIP →
        Completes (.vinUvTrip v) s (fun t => vst t = Vin.UV_TRIP ∧ noted t .vinUvTrip [v.toNat] ∧ t.tray.hk.aon = true ∧
          t.tray.hal = {} ∧ t.leases = {} ∧ t.tray.phase0 = Ph.INPUT_OFF ∧
          ∀ d, d < 5 → t.tray.chipOn d = false ∧ (s.tray.chipOn d = true → t.tray.bare d))) ∧
      (4800 ≤ v.toNat → (s.tray.phase0 = Ph.INPUT_OFF ∨ s.tray.phase0 = Ph.AON_ONLY) →
        Completes (.vinRestore v) s (fun t => vst t = (if v.toNat ≤ 5400 then Vin.NORMAL else Vin.OV_WARN) ∧
          t.tray.phase0 = Ph.COOL_CHECK ∧ t.tray.gf hkPg F.HK_COOL_PUMP_OK = 3 ∧ t.tray.gf hkPg F.HK_FAN_FAN_OK = 63 ∧
          noted t .vinRestore [v.toNat] ∧ goesOn t))) ∧
    (∀ (c : Fin 5),
      let pg := railPg c.val
      (∀ (r : Fin 4) (i : Fin 16),
        let n := s.tray.gf pg (F.PWR_RAIL_FAILURES.nth r.val)
        let failed := F.PWR_PHASE_FAILED.nth r.val
        let doubt := F.PWR_PHASE_UNTRUSTED.nth r.val
        let first := fun (t : State) (ev : Ev) (b : Nat) => t.tray.gf pg (F.PWR_RAIL_FAILURES.nth r.val) = 1 ∧
          t.tray.irqUp pg b ∧ t.tray.irqUp hkPg 9 ∧ t.tray.hk.degraded = true ∧ noted t ev [c.val, r.val, i.val] ∧
          t.tray.chipOn c.val = true ∧ goesOn t
        let gone := fun (t : State) => s.tray.losesPower t.tray c.val ∧ t.tray.chipFault c.val = true ∧ t.tray.irqUp pg 10 ∧
          t.tray.irqUp hkPg 9 ∧ t.tray.hk.degraded = true
        (s.tray.phaseLive c.val r.val i.val = true →
          (n = 0 → Completes (.phaseFail c r i) s (fun t => first t .phaseFail 8 ∧
            t.tray.gf pg failed = s.tray.gf pg failed ||| 2 ^ i.val ∧
            (r.val = 0 → t.tray.gf (chip0 c.val) F.CHIP_DEAL_CLK_CAP_MHZ = 600) ∧
            s.tray.keepsRegs t.tray (fun q o => (q = pg ∧ (o = (F.PWR_RAIL_FAILURES.nth r.val).off ∨ o = failed.off ∨ o = 0x20)) ∨
              (q = hkPg ∧ o = 0x20) ∨ (r.val = 0 ∧ q = chip0 c.val)))) ∧
          (1 ≤ n → Completes (.phaseFail c r i) s gone) ∧
          (bitOf (s.tray.gf pg doubt) i.val = false →
            (n = 0 → Completes (.senseUntrusted c r i) s (fun t => first t .senseUntrusted 9 ∧
              t.tray.gf pg doubt = s.tray.gf pg doubt ||| 2 ^ i.val ∧
              s.tray.keepsRegs t.tray (fun q o => (q = pg ∧ (o = (F.PWR_RAIL_FAILURES.nth r.val).off ∨ o = doubt.off ∨ o = 0x20)) ∨
                (q = hkPg ∧ o = 0x20)))) ∧
            (1 ≤ n → Completes (.senseUntrusted c r i) s gone))) ∧
        (s.tray.chipOn c.val = true → s.tray.gf pg (F.PWR_RAIL_STATE.nth r.val) = 2 → s.tray.aborting (chip0 c.val) = false →
          Completes (.railOvercurrent c r) s (fun t => gone t ∧ t.tray.gf pg (F.PWR_RAIL_STATE.nth r.val) = 3 ∧
            noted t .railOvercurrent [c.val, r.val])) ∧
        (s.tray.mayPower c.val = true →
          let miss := Assoc.get (fun _ => 0) s.tray.hk.pgMiss c.val
          (miss = 0 → Completes (.railPgTimeout c r) s (fun t => Assoc.get (fun _ => 0) t.tray.hk.pgMiss c.val = 1 ∧
            noted t .railPgTimeout [c.val, r.val, 0] ∧ s.tray.keepsRegs t.tray (fun _ _ => False) ∧ s.tray.keepsBlocks t.tray)) ∧
          (miss ≠ 0 → Completes (.railPgTimeout c r) s (fun t => t.tray.chipFault c.val = true ∧ t.tray.chipOn c.val = false ∧
            t.tray.gf pg (F.PWR_RAIL_STATE.nth r.val) = 3 ∧ t.tray.irqUp pg 10 ∧ s.tray.keepsBlocks t.tray)))) ∧
      (s.tray.chipOn c.val = true →
        Completes (.capPwrSet c) s (fun t => combined t c.val ∧ cap t F.HK_CAP_CAP_PWR c.val =
            (if s.tray.gf pg (F.PWR_PHASE_UNTRUSTED.nth 0) ≠ 0 then 1100
              else if s.tray.gf pg (F.PWR_PHASE_FAILED.nth 0) ≠ 0 then 1150 else 1250) ∧ goesOn t)) ∧
      (∀ bad, s.tray.mayPower c.val = true →
        let fails := fun (r : Nat) => bad.toNat / 2 ^ (16 * r) % 2 ^ railPhases r
        ((∀ r, r < 4 → popCount 16 (fails r) ≤ 1) →
          Completes (.chipPowerUp c bad) s (fun t => t.tray.chipOn c.val = true ∧ combined t c.val ∧
            (∀ r, r < 4 → t.tray.gf pg (F.PWR_RAIL_STATE.nth r) = 2 ∧ t.tray.gf pg (F.PWR_PHASE_FAILED.nth r) = fails r ∧
              t.tray.gf pg (F.PWR_PHASE_UNTRUSTED.nth r) = 0) ∧
            t.tray.gf (chip0 c.val) F.CHIP_TOPO_SLOT = s.tray.gf hkPg F.HK_SLOT_SLOT ∧ goesOn t)) ∧
        ((∃ r, r < 4 ∧ 2 ≤ popCount 16 (fails r)) →
          Completes (.chipPowerUp c bad) s (fun t => t.tray.chipOn c.val = false ∧ t.tray.chipFault c.val = true ∧ goesOn t))))

/-- R402: a die reading moves CAP_THERM by 25 MHz, 105 °C floors it, 110 °C for 1 ms or the chip's trip takes the chip's power; R403: a
stack reading sets refresh, 95 °C for 10 ms takes the power; R404: COOLANT_READ sets CAP_COOL to the lowest value called for, supply above
45 °C for 10 s, low flow for 2 s or a leak takes the power of every chip, until COOLING_RECOVERY; pump, fan and cartridge alarms
(R405); R406: AIR_READ sets the fans, and 45 °C for 10 s takes the power. -/
def Obligations.TemperaturesAndCooling : Prop :=
  ∀ (s : State), s.tray.hk.aon = true → s.tray.quiet →
    let noted := fun (t : State) (ev : Ev) (data : List Nat) => ∃ e ∈ t.tray.logq, e.ev = ev ∧ e.src = 0 ∧ e.data = data
    let cap := fun (t : State) (f : Fld) (d : Nat) => t.tray.gf hkPg (capFld f d)
    let combined := fun (t : State) (d : Nat) => cap t F.HK_CAP_EFFECTIVE d = min 1250 (min (min (cap t F.HK_CAP_CAP_PWR d)
        (cap t F.HK_CAP_CAP_THERM d)) (min (cap t F.HK_CAP_CAP_COOL d) (cap t F.HK_CAP_CAP_INPUT d))) ∧
      (t.tray.chipOn d = true → t.tray.gf (chip0 d) F.CHIP_DEAL_CLK_CAP_MHZ = cap t F.HK_CAP_EFFECTIVE d)
    let goesOn := fun (t : State) => t.tray.ports = s.tray.ports ∧ t.tray.lanes = s.tray.lanes ∧ t.tray.tables = s.tray.tables ∧
      t.tray.dealers = s.tray.dealers ∧ t.tray.mem = s.tray.mem ∧ t.tray.hal = s.tray.hal ∧ t.leases = s.leases ∧
      ∀ d, d < 5 → t.tray.chipOn d = s.tray.chipOn d
    -- every chip that was on has lost its power for condition `i`; Halvoren and housekeeper go on
    let allOff := fun (t : State) (i : Nat) => bitOf t.tray.hk.envOff i = true ∧ t.tray.hk.aon = true ∧ t.leases = s.leases ∧
      t.tray.hal.up = s.tray.hal.up ∧ ∀ d, d < 5 → t.tray.chipOn d = false ∧ (s.tray.chipOn d = true → t.tray.bare d ∧
        t.tray.chipFault d = s.tray.chipFault d)
    let fld := fun (t : State) (f : Fld) => t.tray.gf hkPg f
    (∀ (c : Fin 5), s.tray.chipOn c.val = true →
      let gone := fun (t : State) => s.tray.losesPower t.tray c.val ∧ t.tray.chipFault c.val = true ∧ t.tray.irqUp hkPg 10
      let v := cap s F.HK_CAP_CAP_THERM c.val
      let capped := fun (t : State) (w : Nat) => cap t F.HK_CAP_CAP_THERM c.val = w ∧ (w ≠ v → combined t c.val) ∧ goesOn t
      (∀ tj, let w := if 105 ≤ tj.toNat then 600 else if 95 ≤ tj.toNat then max 600 (v - 25)
          else if tj.toNat ≤ 92 then min 1250 (v + 25) else v
        Completes (.thermalCapStep c tj) s (fun t => fld t (F.HK_TEMP_DIE_MAX.at (8 * c.val)) = tj.toNat ∧ capped t w ∧
          (95 ≤ tj.toNat → fld s (F.HK_TEMP_DIE_MAX.at (8 * c.val)) < 95 → t.tray.irqUp hkPg 10 ∧ noted t .dieOvertemp [c.val, tj.toNat]))) ∧
      (∀ tj ms1, 105 ≤ tj.toNat →
        (¬ (ms1 = true ∧ 110 ≤ tj.toNat) → Completes (.dieOvertemp c tj ms1) s (fun t =>
          fld t (F.HK_TEMP_DIE_MAX.at (8 * c.val)) = tj.toNat ∧ capped t 600)) ∧
        (ms1 = true → 110 ≤ tj.toNat → Completes (.dieOvertemp c tj ms1) s gone)) ∧
      Completes (.thermalTrip c) s (fun t => gone t ∧ noted t .thermalTrip [c.val]) ∧
      (∀ (k : Fin 2) tmp ms10,
        (¬ (ms10 = true ∧ 95 ≤ tmp.toNat) → Completes (.hbmOvertemp c k tmp ms10) s (fun t =>
          fld t ((if k.val = 0 then F.HK_TEMP_HBM0 else F.HK_TEMP_HBM1).at (8 * c.val)) = tmp.toNat ∧
          t.tray.gf (hbmPg c.val k.val) F.HBM_STS_TEMP = tmp.toNat ∧
          t.tray.is (hbmPg c.val k.val) F.HBM_STS_EXT_REFRESH = decide (85 ≤ tmp.toNat) ∧
          s.tray.keepsRegs t.tray (fun q o => (q = hkPg ∧ (o = A.HK_TEMP + 8 * c.val ∨ o = 0x20)) ∨
            (q = hbmPg c.val k.val ∧ o = A.HBM_STS)) ∧ goesOn t)) ∧
        (ms10 = true → 95 ≤ tmp.toNat → Completes (.hbmOvertemp c k tmp ms10) s gone))) ∧
    (∀ supply ret flow,
      let h := s.tray.hk
      let run := decide (Ph.CTRL_BOOT ≤ s.tray.phase0 ∨ s.tray.phase0 = Ph.COOL_CHECK ∧ 1200 ≤ flow.toNat) && decide (s.tray.phase0 ≠ Ph.INPUT_OFF)
      let n8 := if run = true ∧ flow.toNat < 800 then h.flow8 + 1 else 0
      let n4 := if run = true ∧ flow.toNat < 400 then h.flow4 + 1 else 0
      let hot := if 450 < supply.toNat then h.supHot + 1 else 0
      let shown := fun (t : State) => fld t F.HK_COOL_SUPPLY = supply.toNat ∧ fld t F.HK_COOL_RETURN = ret.toNat ∧
        fld t F.HK_COOL_FLOW = flow.toNat ∧ t.tray.hk.flow8 = n8 ∧ t.tray.hk.flow4 = n4 ∧ t.tray.hk.supHot = hot
      (hot < 100 → n4 < 20 →
        let w := min (if 400 < supply.toNat then 1250 - 50 * ceilDiv (min supply.toNat 450 - 400) 10 else 1250)
          (if 20 ≤ n8 then 600 else if run = true ∧ flow.toNat < 1200 then 1000 else 1250)
        Completes (.coolantRead supply ret flow) s (fun t => shown t ∧ goesOn t ∧
          (∀ d, d < 5 → cap t F.HK_CAP_CAP_COOL d = w ∧ (cap s F.HK_CAP_CAP_COOL d ≠ w → combined t d)) ∧
          bitOf t.tray.hk.alarms 0 = decide (supply.toNat < 200) ∧
          (run = true → flow.toNat < 1200 → t.tray.hk.pumpsFull = true) ∧
          (s.tray.phase0 = Ph.COOL_CHECK → t.tray.phase0 = (if 1200 ≤ flow.toNat then Ph.CTRL_BOOT else Ph.COOL_CHECK)))) ∧
      (100 ≤ hot → bitOf h.envOff 0 = false →
        Completes (.coolantRead supply ret flow) s (fun t => shown t ∧ allOff t 0 ∧ t.tray.irqUp hkPg 11 ∧ noted t .coolant [0])) ∧
      (hot < 100 → 20 ≤ n4 → bitOf h.envOff 1 = false →
        Completes (.coolantRead supply ret flow) s (fun t => shown t ∧ allOff t 1 ∧ t.tray.irqUp hkPg 11 ∧ noted t .coolant [1]))) ∧
    (bitOf s.tray.hk.envOff 2 = false →
      Completes .leak s (fun t => allOff t 2 ∧ t.tray.is hkPg F.HK_COOL_LEAK = true ∧ bitOf t.tray.hk.alarms 2 = true)) ∧
    (∀ operator, s.tray.hk.envOff ≠ 0 →
      (operator = true ∨ (bitOf s.tray.hk.envOff 2 = false ∧ fld s F.HK_COOL_SUPPLY ≤ 450 ∧ 400 ≤ fld s F.HK_COOL_FLOW ∧
        s.tray.inletC ≤ 450)) →
      Completes (.coolingRecovery operator) s (fun t => t.tray.hk.envOff = 0 ∧ t.tray.is hkPg F.HK_COOL_LEAK = false ∧
        noted t .coolingRecovery [b2n operator] ∧ s.tray.keepsRegs t.tray (fun q o => q = hkPg ∧ (o = A.HK_COOL ∨ o = A.HK_STS)) ∧
        goesOn t)) ∧
    (∀ p : Fin 2, bitOf (fld s F.HK_COOL_PUMP_OK) p.val = true →
      Completes (.pumpFail p) s (fun t => fld t F.HK_COOL_PUMP_OK + 2 ^ p.val = fld s F.HK_COOL_PUMP_OK ∧
        t.tray.hk.pumpsFull = true ∧ t.tray.irqUp hkPg 11 ∧ noted t .pump [p.val] ∧
        s.tray.keepsRegs t.tray (fun q o => q = hkPg ∧ (o = A.HK_COOL ∨ o = 0x20)) ∧ goesOn t)) ∧
    (∀ f : Fin 6, bitOf (fld s F.HK_FAN_FAN_OK) f.val = true →
      Completes (.fanFail f) s (fun t => fld t F.HK_FAN_FAN_OK + 2 ^ f.val = fld s F.HK_FAN_FAN_OK ∧ fld t F.HK_FAN_DUTY = 100 ∧
        t.tray.irqUp hkPg 12 ∧ noted t .fan [f.val] ∧
        s.tray.keepsRegs t.tray (fun q o => q = hkPg ∧ (o = A.HK_FAN ∨ o = 0x20)) ∧ goesOn t)) ∧
    (∀ inlet air, let v : Int := inlet.toInt
      let shown := fun (t : State) => fld t F.HK_FAN_INLET = inlet.toNat ∧ fld t F.HK_FAN_AIRFLOW = air.toNat ∧
        fld t F.HK_FAN_DUTY = (if fld s F.HK_FAN_FAN_OK ≠ 63 ∨ 350 ≤ v then 100 else 60) ∧
        bitOf t.tray.hk.alarms 5 = (decide (v < 100) || decide (350 ≤ v)) ∧
        t.tray.hk.in45 = (if 450 < v then s.tray.hk.in45 + 1 else 0) ∧ t.tray.hk.in40 = (if 400 < v then s.tray.hk.in40 + 1 else 0)
      ((450 < v → s.tray.hk.in45 < 99) → Completes (.airRead inlet air) s (fun t => shown t ∧ goesOn t ∧
        s.tray.keepsRegs t.tray (fun q o => q = hkPg ∧ (o = A.HK_FAN ∨ o = 0x20)))) ∧
      (450 < v → 99 ≤ s.tray.hk.in45 → bitOf s.tray.hk.envOff 3 = false →
        Completes (.airRead inlet air) s (fun t => shown t ∧ allOff t 3 ∧ t.tray.irqUp hkPg 14))) ∧
    (∀ (b : Fin 40) x, (s.tray.bay b.val).info = some x → (∀ c, c < 5 → s.tray.settled c) →
      ((s.tray.bay b.val).hot = false →
        Completes (.cartOvertemp b) s (fun t => (t.tray.bay b.val).hot = true ∧ t.tray.gf (bayPg b.val) F.PORT_CART_MSTATE = 1 ∧
          .lowPwr b.val ∈ t.tray.out ∧ ∀ e ∈ bayPorts b.val, t.tray.pst (b.val / 8) e = S.HELD ∧ t.tray.pcause (b.val / 8) e = Cz.CART ∨
            s.tray.pst (b.val / 8) e = S.DISABLED ∧ t.tray.pst (b.val / 8) e = S.DISABLED)) ∧
      ((s.tray.bay b.val).hot = true → s.tray.gf (bayPg b.val) F.PORT_CART_TYPE ∈ [1, 2, 3] → x.compat ≠ 2 →
        Completes (.cartOvertempClear b) s (fun t => (t.tray.bay b.val).hot = false ∧
          t.tray.gf (bayPg b.val) F.PORT_CART_MSTATE = 2 ∧ ∀ e ∈ bayPorts b.val,
            t.tray.pst (b.val / 8) e = (if s.tray.pst (b.val / 8) e = S.HELD then S.DOWN else s.tray.pst (b.val / 8) e))))

/-! ### Start-up, resets, panel (R408–R422) -/

/-- R410, R475: PCIE_RELEASE brings up the link and starts HBM training, HBM_TRAINING_DONE ends it, CORE_RELEASE starts a chip that may
be released; R411: FABRIC_READY is set and told once every cabled port is up; R412, R413: what each reset clears, what it keeps, what
LAST_RESET shows; R408: the slot is read from its contacts. -/
def Obligations.ChipsStartAndReset : Prop :=
  ∀ (s : State), s.tray.quiet →
    let last := fun (t : State) (ty : Nat) => t.tray.gf hkPg F.HK_STS_LAST_RESET = ty ∧
      ∃ e ∈ t.tray.logq, e.ev = .resetDone ∧ e.src = 0 ∧ e.data = [ty]
    let kept := fun (t : State) => t.tray.ports = s.tray.ports ∧ t.tray.lanes = s.tray.lanes ∧ t.tray.bays = s.tray.bays ∧
      t.tray.tables = s.tray.tables ∧ t.tray.dealers = s.tray.dealers ∧ t.tray.mem = s.tray.mem
    let noHal := fun (t : State) => t.tray.hal = {} ∧ t.leases = {}
    (∀ (c : Fin 5),
      (s.tray.chipOn c.val = true → s.tray.hal.up = true → (s.tray.chip c.val).released = false →
        Completes (.pcieRelease c) s (fun t => t.tray.chip c.val = { s.tray.chip c.val with released := true, pcieUp := true } ∧
          t.tray.gf (hbmPg c.val 0) F.HBM_STS_STATE = 1 ∧ t.tray.gf (hbmPg c.val 1) F.HBM_STS_STATE = 1 ∧
          s.tray.keepsRegs t.tray (fun q o => (q = hbmPg c.val 0 ∨ q = hbmPg c.val 1) ∧ o = A.HBM_STS) ∧ kept t)) ∧
      (∀ (k : Fin 2) ok, s.tray.gf (hbmPg c.val k.val) F.HBM_STS_STATE = 1 →
        let ph := hbmPhyPg c.val k.val
        Completes (.hbmTrainingDone c k ok) s (fun t => t.tray.gf (hbmPg c.val k.val) F.HBM_STS_STATE = (if ok = true then 2 else 3) ∧
          t.tray.is ph F.HBM_PHY_STS_TRAINED = ok ∧ t.tray.is ph F.HBM_PHY_STS_FAILED = !ok ∧
          t.tray.gf ph F.HBM_PHY_STS_TRAIN_CNT = (s.tray.gf ph F.HBM_PHY_STS_TRAIN_CNT + 1) % 65536 ∧
          (ok = false → t.tray.irqUp ph 8 ∧ ∃ e ∈ t.tray.logq, e.ev = .hbmTrainFail ∧ e.data = [c.val, k.val]) ∧
          s.tray.keepsRegs t.tray (fun q o => (q = hbmPg c.val k.val ∧ o = A.HBM_STS) ∨ (q = ph ∧ (o = A.HBM_PHY_STS ∨ o = 0x20))) ∧
          s.tray.keepsBlocks t.tray)) ∧
      (s.tray.mayRelease c.val = true →
        Completes (.coreRelease c) s (fun t => (t.tray.chip c.val).coreUp = true ∧
          t.tray.is (chip0 c.val) F.CHIP_TOPO_TOPO_VALID = true ∧
          t.tray.gf (chip0 c.val) F.CHIP_TOPO_RACK_ID = s.tray.hal.rack.getD 0 % 2 ^ 32 ∧
          t.tray.gf (chip0 c.val) F.CHIP_TOPO_ROLE = s.tray.hal.role.getD 0 % 4 ∧
          t.tray.fram.boot = (s.tray.fram.boot + 1) % 2 ^ 32 ∧ t.tray.gf (dumpPg c.val) F.CNT_DUMP_ID_BOOT = t.tray.fram.boot ∧
          t.tray.rd (chip0 c.val) A.CHIP_TIME = BitVec.ofNat 64 s.tray.master ∧
          t.tray.is (chip0 c.val) F.CHIP_CLK_STS_TIME_LOCKED = true ∧
          (s.tray.hal.role = some 1 → s.tray.hal.waitPorts = false →
            t.tray.enabled (chip0 c.val) = s.tray.enabled (chip0 c.val)) ∧
          (s.tray.hal.role ≠ some 1 ∨ s.tray.hal.waitPorts = true → t.tray.enabled (chip0 c.val) = false) ∧
          (∀ e, e < 64 → bitOf ((s.tray.hal.cabled[c.val]?).getD 0) e = true → t.tray.enabled (portPg c.val e) = true) ∧
          s.tray.sparesOthers t.tray c.val)) ∧
      (s.tray.hk.aon = true →
        (s.tray.chipOn c.val = true →
          Completes (.chipReset c) s (fun t => t.tray.bare c.val ∧ s.tray.sparesOthers t.tray c.val ∧ last t 4 ∧
            t.tray.is hkPg F.HK_STS_FABRIC_READY = false ∧ t.tray.chipOn c.val = true ∧ t.leases = s.leases)) ∧
        (∀ bad, s.tray.hal.up = true → s.tray.hk.envOff = 0 → Ph.CHIP_RAILS ≤ s.tray.phase0 → s.tray.phase0 ≠ Ph.INPUT_OFF →
          (∀ r, r < 4 → popCount 16 (bad.toNat / 2 ^ (16 * r) % 2 ^ railPhases r) ≤ 1) →
          Completes (.chipPowerReset c bad) s (fun t => t.tray.bare c.val ∧ s.tray.sparesOthers t.tray c.val ∧ last t 5 ∧
            t.tray.chipOn c.val = true ∧ t.tray.chipFault c.val = false ∧ t.leases = s.leases ∧
            (∀ r, r < 4 → t.tray.gf (railPg c.val) (F.PWR_RAIL_STATE.nth r) = 2 ∧
              t.tray.gf (railPg c.val) (F.PWR_PHASE_FAILED.nth r) = bad.toNat / 2 ^ (16 * r) % 2 ^ railPhases r))))) ∧
    ((∀ d, d < 5 → (s.tray.chip d).coreUp = true ∧ s.tray.is (chip0 d) F.CHIP_TOPO_TOPO_VALID = true) → s.tray.cabledReady = true →
      s.tray.is hkPg F.HK_STS_FABRIC_READY = false → s.tray.hal.waitPorts = false → s.tray.hal.up = true →
      let hello := s.tray.helloBody s.leases
      Completes .fabricReady s (fun t => t.tray.is hkPg F.HK_STS_FABRIC_READY = true ∧ t.tray.irqUp hkPg 13 ∧
        s.tray.says t.tray [(0, Z.HELLO, hello), (1, Z.HELLO, hello)] ∧
        s.tray.keepsRegs t.tray (fun q o => q = hkPg ∧ (o = A.HK_STS ∨ o = 0x20)) ∧ s.tray.keepsBlocks t.tray)) ∧
    (∀ r0 r1 r2 : BitVec 5,
      let slot := fun (t : State) =>
        let ok := decide (r0 = r1 ∧ r1 = r2 ∧ popCount 5 r2.toNat % 2 = 1 ∧ r2.toNat % 16 ≤ 8)
        t.tray.is hkPg F.HK_SLOT_ACCEPTED = ok ∧ t.tray.gf hkPg F.HK_SLOT_RAW = r2.toNat ∧
        t.tray.gf hkPg F.HK_SLOT_SLOT = (if ok = true then r2.toNat % 16 else 15)
      (∀ v framOk,
        (v.toNat < 3600 → Completes (.powerOnReset v r0 r1 r2 framOk) s (fun t => t.tray.hk.aon = false ∧ noHal t ∧
          t.tray.fram = s.tray.fram ∧ ∀ d, d < 5 → t.tray.chipOn d = false ∧ t.tray.bare d)) ∧
        (3600 ≤ v.toNat → Completes (.powerOnReset v r0 r1 r2 framOk) s (fun t => t.tray.hk.aon = true ∧ noHal t ∧ last t 0 ∧ slot t ∧
          t.tray.gf pwrPg F.PWR_IN_VIN = v.toNat ∧
          t.tray.gf pwrPg F.PWR_IN_STATE = (if s.tray.hk.ovSeen = true then Vin.OV_TRIP else if v.toNat < 4400 then Vin.UV_TRIP
            else if v.toNat < 4800 then Vin.UV_WARN else if v.toNat ≤ 5400 then Vin.NORMAL else Vin.OV_WARN) ∧
          t.tray.phase0 = (if 4800 ≤ v.toNat then Ph.COOL_CHECK else Ph.AON_ONLY) ∧ t.tray.hk.label.want = true ∧
          t.tray.fram.log = s.tray.fram.log ∧ t.tray.fram.lost = (s.tray.fram.lost && !framOk) ∧
          ∀ d, d < 5 → t.tray.chipOn d = false ∧ t.tray.bare d))) ∧
      (s.tray.hk.aon = true →
        let restarted := fun (t : State) => last t 1 ∧ slot t ∧ s.tray.keepsBlocks t.tray ∧ t.tray.hal = s.tray.hal ∧
          t.leases = s.leases ∧ t.tray.hk.label.want = true ∧ t.tray.hk.fifo = [] ∧ t.tray.fram = s.tray.fram ∧
          s.tray.keepsRegs t.tray (fun q _ => hkPage q = true) ∧ ∀ d, d < 5 → t.tray.chipOn d = s.tray.chipOn d
        Completes (.hkReset r0 r1 r2) s restarted ∧ Completes (.hkWatchdog r0 r1 r2) s restarted)) ∧
    (s.tray.hk.aon = true →
      Completes .trayReset s (fun t => noHal t ∧ last t 2 ∧ ∀ d, d < 5 → t.tray.chipOn d = s.tray.chipOn d ∧
        (s.tray.chipOn d = true → t.tray.bare d)) ∧
      ((∀ d, d < 5 → (s.tray.chip d).dump.sending = none) →
        let reset := fun (t : State) => noHal t ∧ last t 3 ∧ s.tray.keepsBlocks t.tray ∧
          (∀ q o, halPg 0x030 ≤ q → q < halPg 0x060 → o < 4096 → t.tray.rd q o = regReset (regKey q o)) ∧
          s.tray.keepsRegs t.tray (fun q o => (halPg 0x030 ≤ q ∧ q < halPg 0x060) ∨ (q = hkPg ∧ o = A.HK_STS))
        Completes .halvorenReset s reset ∧ Completes .halvorenWatchdog s reset))

/-- R414, R421: locate mode ends by LOCATE_TIMEOUT and is toggled by a touch of 50 ms to 3 s, a longer one asks for service; R416: LABEL_UPDATE
and LABEL_DONE; R418–R420: the key's baseline, its faults, a touch that begins, a key that is stuck; R422: the console receiver. -/
def Obligations.PanelAndConsoleReceiver : Prop :=
  ∀ (s : State), s.tray.hk.aon = true → s.tray.quiet →
    let noted := fun (t : State) (ev : Ev) (data : List Nat) => ∃ e ∈ t.tray.logq, e.ev = ev ∧ e.src = 0 ∧ e.data = data
    let only := fun (t : State) (pg : Nat) (l : List Nat) => s.tray.keepsRegs t.tray (fun q o => q = pg ∧ o ∈ l) ∧
      s.tray.keepsBlocks t.tray ∧ t.leases = s.leases
    let f := fun (t : State) (x : Fld) => t.tray.gf pnlPg x
    -- state, reading and baseline of the key
    let key := fun (t : State) (st raw base : Nat) => f t F.PNL_KEY_STS_STATE = st ∧ f t F.PNL_KEY_STS_RAW = raw ∧ f t F.PNL_KEY_STS_BASE = base
    let base := f s F.PNL_KEY_STS_BASE
    let delta := f s F.PNL_KEY_CFG_TOUCH_DELTA
    let l := s.tray.hk.label
    Completes .locateTimeout s (fun t => t.tray.is pnlPg F.PNL_LED_LOCATE = false ∧ only t pnlPg [A.PNL_LED]) ∧
    (l.want = true → s.tray.is pnlPg F.PNL_LABEL_BUSY = false →
      let x := s.tray.labelContent
      Completes .labelUpdate s (fun t => t.tray.is pnlPg F.PNL_LABEL_BUSY = true ∧
        t.tray.fram.dirty = some (s.tray.fram.labelGen + 1, crc16 x) ∧
        t.tray.hk.label = { l with want := false, bars := false, drawing := x, code := crc16 x } ∧ only t pnlPg [A.PNL_LABEL])) ∧
    (s.tray.is pnlPg F.PNL_LABEL_BUSY = true →
      Completes .labelDone s (fun t => t.tray.is pnlPg F.PNL_LABEL_BUSY = false ∧ f t F.PNL_LABEL_GEN = s.tray.fram.labelGen % 256 ∧
        f t F.PNL_LABEL_CHECK = l.code % 65536 ∧ t.tray.fram.dirty = none ∧ t.tray.irqUp pnlPg 11 ∧
        t.tray.hk.label = { l with shown := l.drawing, bars := true } ∧ only t pnlPg [A.PNL_LABEL, 0x20])) ∧
    (s.tray.key = Key.UNCAL ∨ s.tray.key = Key.FAULT →
      (∀ mean : BitVec 16, Completes (.keyBaseline mean) s (fun t => key t Key.IDLE mean.toNat mean.toNat ∧ only t pnlPg [A.PNL_KEY_STS])) ∧
      Completes .keyFault s (fun t => f t F.PNL_KEY_STS_STATE = Key.FAULT ∧ t.tray.irqUp pnlPg 10 ∧ noted t .keyFault [] ∧
        only t pnlPg [A.PNL_KEY_STS, 0x20])) ∧
    (∀ raw : BitVec 16,
      (s.tray.key = Key.IDLE → base + delta ≤ raw.toNat →
        Completes (.touchBegin raw) s (fun t => key t Key.TOUCHED raw.toNat base ∧ only t pnlPg [A.PNL_KEY_STS])) ∧
      (s.tray.key = Key.IDLE → 2 * raw.toNat + delta < 2 * base →
        Completes (.keyBaselineRetake raw) s (fun t => key t Key.IDLE raw.toNat raw.toNat ∧ only t pnlPg [A.PNL_KEY_STS])) ∧
      (s.tray.key = Key.TOUCHED →
        Completes (.keyStuck raw) s (fun t => key t Key.IDLE raw.toNat raw.toNat ∧
          f t F.PNL_KEY_STS_STUCK_CNT = min 255 (f s F.PNL_KEY_STS_STUCK_CNT + 1) ∧ t.tray.irqUp pnlPg 9 ∧
          noted t .keyStuck [raw.toNat] ∧ f t F.PNL_LED_LOCATE = f s F.PNL_LED_LOCATE ∧ only t pnlPg [A.PNL_KEY_STS, 0x20]) ∧
        (∀ ms, 2 * raw.toNat < 2 * base + delta →
          (50 ≤ ms → ms < 3000 → Completes (.touchEnd raw ms) s (fun t => key t Key.IDLE raw.toNat base ∧
            t.tray.is pnlPg F.PNL_LED_LOCATE = !s.tray.is pnlPg F.PNL_LED_LOCATE ∧
            f t F.PNL_KEY_STS_LOCATE_CNT = min 255 (f s F.PNL_KEY_STS_LOCATE_CNT + 1) ∧ only t pnlPg [A.PNL_KEY_STS, A.PNL_LED])) ∧
          (3000 ≤ ms → ms ≤ 20000 → Completes (.touchEnd raw ms) s (fun t => key t Key.IDLE raw.toNat base ∧ t.tray.irqUp pnlPg 8 ∧
            f t F.PNL_KEY_STS_SERVICE_CNT = min 255 (f s F.PNL_KEY_STS_SERVICE_CNT + 1) ∧ noted t .serviceReq [ms] ∧
            f t F.PNL_LED_LOCATE = f s F.PNL_LED_LOCATE ∧
            (let body := leBytes 8 s.tray.master ++ leBytes 8 ms
             s.tray.hal.up = true → s.tray.sessionUp 0 = true → s.tray.sessionUp 1 = true →
              s.tray.says t.tray [(0, Z.SERVICE_REQ, body), (1, Z.SERVICE_REQ, body)]) ∧
            only t pnlPg [A.PNL_KEY_STS, 0x20]))))) ∧
    (∀ b stopOk,
      let err := fun (x : Fld) => Completes (.consoleRxByte b stopOk) s (fun t =>
        t.tray.gf conPg x = min 65535 (s.tray.gf conPg x + 1) ∧ t.tray.hk = s.tray.hk ∧ only t conPg [A.CON_ERR])
      (stopOk = false → err F.CON_ERR_FRAMING) ∧
      (stopOk = true → 64 ≤ s.tray.hk.fifo.length → err F.CON_ERR_OVERRUN) ∧
      (stopOk = true → s.tray.hk.fifo.length < 64 →
        Completes (.consoleRxByte b stopOk) s (fun t => t.tray.hk = { s.tray.hk with fifo := s.tray.hk.fifo ++ [b] } ∧ only t conPg []))) ∧
    Completes .consoleBreak s (fun t => t.tray.gf conPg F.CON_ERR_BREAK = min 65535 (s.tray.gf conPg F.CON_ERR_BREAK + 1) ∧
      t.tray.hk = s.tray.hk ∧ only t conPg [A.CON_ERR])

/-! ### Managers, time, log, firmware (R427–R463) -/

/-- R433: HELLO; R427, R428: what LEASE_REQ, LEASE_RENEW, LEASE_RELEASE and LEASE_LAPSE do to the leases, and their answers; R437, R439: a message
that is not authentic counts, one ill formed is answered BAD_MSG; R438: ZMP_RESEND; R430, R431, R429: IDENTITY and PLANE_MAP are taken from the
managers who may send them; R444: SPDM is answered, a session begins at FINISH and ends with END_SESSION. -/
def Obligations.LeasesAndIdentity : Prop :=
  ∀ (s : State) (m : Fin 2) (z : ZMsg), s.tray.quiet →
    let l := s.leases
    let still := fun (t : State) => s.tray.keepsRegs t.tray (fun q o => q = mgrPg ∧ o = 0x20) ∧ s.tray.keepsBlocks t.tray
    -- refused without effect
    let no := fun (t : State) (st : Nat) => s.tray.answers t.tray m.val z st [] ∧ t.leases = l ∧
      s.tray.keepsRegs t.tray (fun _ _ => False) ∧ s.tray.keepsBlocks t.tray
    (l.headless = true ∨ s.tray.hal.failed = true → s.tray.hal.up = true ∨ s.tray.hal.failed = true →
      let b := s.tray.helloBody l
      Completes .hello s (fun t => s.tray.says t.tray [(0, Z.HELLO, b), (1, Z.HELLO, b)] ∧ t.leases = l ∧
        s.tray.keepsRegs t.tray (fun _ _ => False) ∧ s.tray.keepsBlocks t.tray)) ∧
    (s.tray.gets Z.LEASE_REQ m.val z →
      (zTerm z < l.term → Completes (.leaseReq m z) s (fun t => no t Zs.STALE_TERM)) ∧
      (l.term ≤ zTerm z → (l.of m.val ≠ .none ∨ s.tray.hal.held = [] ∧ s.tray.hal.bridge.rings = []) →
        Completes (.leaseReq m z) s (fun t => s.tray.answers t.tray m.val z Zs.OK (t.leases.body m.val) ∧ still t ∧
          t.leases.term = zTerm z ∧
          (let mine := t.leases.of m.val
           let other := t.leases.of (1 - m.val)
           let was := l.of (1 - m.val)
           (zb z.body 0 1 = 1 → mine = .secondary ∧ other = was) ∧
           (zb z.body 0 1 = 2 → was ≠ .primary → mine = .primary ∧ other = was ∧ t.leases.primTerm = zTerm z) ∧
           (zb z.body 0 1 = 2 → was = .primary → l.primTerm < zTerm z →
             mine = .primary ∧ other = .secondary ∧ t.leases.primTerm = zTerm z) ∧
           (zb z.body 0 1 = 2 → was = .primary → zTerm z ≤ l.primTerm → mine = .secondary ∧ other = was))))) ∧
    (s.tray.gets Z.LEASE_RENEW m.val z →
      (l.of m.val = .none → Completes (.leaseRenew m z) s (fun t => no t Zs.REFUSED)) ∧
      (l.of m.val ≠ .none → Completes (.leaseRenew m z) s (fun t => s.tray.answers t.tray m.val z Zs.OK (l.body m.val) ∧
        t.leases = l ∧ still t))) ∧
    (let ended := fun (t : State) => t.leases = l.put m.val .none ∧ t.tray.irqUp mgrPg 8 ∧
       (∃ e ∈ t.tray.logq, e.ev = .leaseLapsed ∧ e.src = 1) ∧ still t
     l.of m.val ≠ .none →
      (s.tray.gets Z.LEASE_RELEASE m.val z →
        Completes (.leaseRelease m z) s (fun t => s.tray.answers t.tray m.val z Zs.OK [] ∧ ended t)) ∧
      (s.tray.hal.up = true → Completes (.leaseLapse m) s (fun t => ended t ∧
        ∃ b, s.tray.says t.tray [(0, Z.HELLO, b), (1, Z.HELLO, b)]))) ∧
    (s.tray.hal.up = true → fieldOf z.hdr 160 4 = m.val → fieldOf z.hdr 16 1 = 0 →
      (z.auth = false ∨ s.tray.sessionUp m.val = false →
        let bad := fun (t : State) => t.tray.gf mgrPg F.MGR_LINK_AUTH_FAIL = min 65535 (s.tray.gf mgrPg F.MGR_LINK_AUTH_FAIL + 1) ∧
          t.leases = l ∧ t.tray.out = s.tray.out ∧ s.tray.keepsRegs t.tray (fun q o => q = mgrPg ∧ o = A.MGR_LINK) ∧
          s.tray.keepsBlocks t.tray
        Completes (.leaseReq m z) s bad ∧ Completes (.regWrite m z) s bad ∧ Completes (.planeMap m z) s bad) ∧
      (z.auth = true → s.tray.sessionUp m.val = true → fieldOf z.hdr 17 1 = 1 → zFormed m.val z = false →
        Completes (.leaseReq m z) s (fun t => no t Zs.BAD_MSG) ∧ Completes (.regWrite m z) s (fun t => no t Zs.BAD_MSG))) ∧
    (∀ (seq : BitVec 32) w, s.tray.hal.waits.find? (fun w => w.mgr == m.val && w.seq == seq.toNat) = some w →
      (w.resends < 3 → Completes (.zmpResend m seq) s (fun t => t.tray.out = .zmp m.val w.hdr w.body :: s.tray.out ∧
        t.tray.hal.waits.find? (fun w => w.mgr == m.val && w.seq == seq.toNat) = some { w with resends := w.resends + 1 } ∧
        t.tray.logq = s.tray.logq ∧ s.tray.keepsRegs t.tray (fun _ _ => False))) ∧
      (3 ≤ w.resends → Completes (.zmpResend m seq) s (fun t => t.tray.out = s.tray.out ∧
        t.tray.hal.waits.find? (fun w => w.mgr == m.val && w.seq == seq.toNat) = none ∧
        (∃ e ∈ t.tray.logq, e.ev = .zmpSilent) ∧ s.tray.keepsRegs t.tray (fun _ _ => False)))) ∧
    (s.tray.gets Z.IDENTITY m.val z →
      let rack := zb z.body 0 4
      (l.of m.val ≠ .primary → Completes (.identity m z) s (fun t => no t Zs.NOT_PRIMARY)) ∧
      (l.of m.val = .primary → zTerm z ≠ l.term → Completes (.identity m z) s (fun t => no t Zs.STALE_TERM)) ∧
      (l.obeys m.val z → (∃ r, s.tray.rackNow = some r ∧ r ≠ rack) → Completes (.identity m z) s (fun t => no t Zs.REFUSED)) ∧
      (l.obeys m.val z → (s.tray.rackNow = none ∨ s.tray.rackNow = some rack) → s.tray.hal.waitPorts = false →
        Completes (.identity m z) s (fun t => s.tray.answers t.tray m.val z Zs.OK [] ∧ t.leases = l ∧
          t.tray.hal.rack = some rack ∧ t.tray.hal.cabled = (List.range 5).map (fun c => zb z.body (8 + 8 * c) 8) ∧
          (∀ c, c < 5 → (s.tray.chip c).coreUp = true → t.tray.is (chip0 c) F.CHIP_TOPO_TOPO_VALID = true ∧
            (s.tray.is (chip0 c) F.CHIP_TOPO_TOPO_VALID = false → t.tray.gf (chip0 c) F.CHIP_TOPO_RACK_ID = rack) ∧
            ∀ e, e < 64 → bitOf (zb z.body (8 + 8 * c) 8) e = true → t.tray.enabled (portPg c e) = true) ∧
          t.tray.mem = s.tray.mem))) ∧
    (s.tray.gets Z.PLANE_MAP m.val z →
      let gen := zb z.body 0 4
      let cur := s.tray.gf mgrPg F.MGR_MAP_MAP_GEN
      let k := s.tray.gf hkPg F.HK_SLOT_SLOT
      (l.of m.val = .none → Completes (.planeMap m z) s (fun t => no t Zs.NOT_PRIMARY)) ∧
      (l.of m.val ≠ .none → zTerm z ≠ l.term → Completes (.planeMap m z) s (fun t => no t Zs.STALE_TERM)) ∧
      (l.of m.val ≠ .none → zTerm z = l.term →
        (gen < cur → Completes (.planeMap m z) s (fun t => no t Zs.STALE_TERM)) ∧
        (gen = cur → Completes (.planeMap m z) s (fun t => no t Zs.CONFLICT)) ∧
        (cur < gen → mapBad z.body = true ∨ s.tray.entryRefused z.body = true →
          Completes (.planeMap m z) s (fun t => no t Zs.REFUSED ∧ ∃ e ∈ t.tray.logq, e.ev = .mapRejected ∧ e.data = [gen])) ∧
        (cur < gen → mapBad z.body = false → s.tray.entryRefused z.body = false → s.tray.spareForced z.body = false →
          Completes (.planeMap m z) s (fun t => s.tray.answers t.tray m.val z Zs.OK (leBytes 4 gen) ∧ t.leases = l ∧
            t.tray.gf mgrPg F.MGR_MAP_MAP_GEN = gen ∧ t.tray.irqUp mgrPg 9 ∧ t.tray.hk.label.want = true ∧
            (k < 9 → t.tray.gf mgrPg F.MGR_MAP_PLANE = mapPlane z.body k ∧ t.tray.hal.role = some (mapRole z.body k) ∧
              ∀ c, c < 5 → (s.tray.chip c).coreUp = true → t.tray.role c = mapRole z.body k))))) ∧
    (∀ req peerOk, s.tray.hal.up = true → fieldOf z.hdr 16 1 = 0 → fieldOf z.hdr 17 1 = 0 → zFormed m.val z = true → zType z = Z.SPDM →
      Completes (.spdm m z req peerOk) s (fun t => s.tray.says t.tray [(m.val, Z.SPDM, Config.spdmReply (spdmNum req) z.body)] ∧
        t.leases = l ∧ s.tray.keepsRegs t.tray (fun q o => q = mgrPg ∧ o = A.MGR_LINK) ∧ s.tray.keepsBlocks t.tray ∧
        (req = .keyExchange → t.tray.hal.kex m.val = peerOk) ∧
        (req = .finish → s.tray.hal.kex m.val = true → peerOk = true → t.tray.sessionUp m.val = true) ∧
        (req = .finish → s.tray.hal.kex m.val = false → t.tray.sessionUp m.val = s.tray.sessionUp m.val) ∧
        (req = .endSession → t.tray.sessionUp m.val = false)))

/-- R440, R442: LOG_READ, REG_READ and REG_WRITE answer with what they read and the errors captured; R446: CFG_DIGEST; R441: DUMP_ACK lets records
go that every leased manager has; R452: WIRE_TEST starts a test of a tray that is not ACTIVE, WIRE_TEST_PHASE_END judges it; R453: LANE_STATS
judges each lane's window; R441: WEAR; R455, R456: LOG_ENTRY_WRITE. -/
def Obligations.RegistersLogAndTests : Prop :=
  ∀ (s : State) (m : Fin 2) (z : ZMsg), s.tray.quiet →
    let l := s.leases
    let kept := fun (t : State) => t.leases = l ∧ s.tray.keepsRegs t.tray (fun _ _ => False) ∧ s.tray.keepsBlocks t.tray
    -- registers and blocks are those of another tray
    let as_ := fun (t : State) (u : Tray) => t.leases = l ∧ u.keepsRegs t.tray (fun _ _ => False) ∧ u.keepsBlocks t.tray
    (s.tray.gets Z.LOG_READ m.val z →
      Completes (.logRead m z) s (fun t => kept t ∧ s.tray.answers t.tray m.val z Zs.OK
        (((s.tray.fram.log.filter (fun w => decide (zb z.body 0 4 ≤ entrySeq w))).take (zb z.body 4 1)).flatMap
          (fun w => leBytes 64 w.toNat)))) ∧
    (s.tray.gets Z.REG_READ m.val z →
      let sp := zSpace (zb z.body 0 1)
      let off := zb z.body 8 8
      let r := s.tray.barReads l sp (zb z.body 1 1) off
      Completes (.regRead m z) s (fun t => as_ t r.2.2 ∧
        s.tray.answers t.tray m.val z (if r.2.1 = true then Zs.OK else Zs.FAILED) (r.1.flatMap (fun v => leBytes 8 v))) ∧
      (zb z.body 1 1 = 1 → off < 2 ^ 24 → s.tray.accepts sp (off / 4096) (off % 4096) = true →
        (findReg (sp * 4096 + off / 4096) (off % 4096)).isSome = true →
        Completes (.regRead m z) s (fun t => s.tray.answers t.tray m.val z Zs.OK
          (leBytes 8 (s.tray.viewReg l (sp * 4096 + off / 4096) (off % 4096)).toNat)))) ∧
    (s.tray.gets Z.REG_WRITE m.val z → l.obeys m.val z →
      let r := regWriteAct z l s.tray
      Completes (.regWrite m z) s (fun t => s.tray.answers t.tray m.val z r.1.status r.1.body) ∧
      (∀ sp, zTargets (zb z.body 0 1) = [sp] → zb z.body 1 1 = 1 →
        let off := zb z.body 8 8
        let pg := sp * 4096 + off / 4096
        off < 2 ^ 24 →
        let u := s.tray.write8 1 sp (off / 4096) (off % 4096) (BitVec.ofNat 64 (zb z.body 16 8))
        u.quiet → Completes (.regWrite m z) s (fun t => as_ t u ∧
          ∃ st, s.tray.answers t.tray m.val z st (leBytes 8 (u.rd pg A.PG_ERR_CAPT).toNat)))) ∧
    (s.tray.gets Z.REG_WRITE m.val z → l.of m.val ≠ .primary →
      Completes (.regWrite m z) s (fun t => kept t ∧ s.tray.answers t.tray m.val z Zs.NOT_PRIMARY [])) ∧
    (s.tray.gets Z.CFG_DIGEST m.val z →
      Completes (.cfgDigest m z) s (fun t => kept t ∧ s.tray.answers t.tray m.val z Zs.OK
        ((List.range 5).flatMap (fun c => leBytes 48 (Config.cfgDigest (s.tray.cfgOf c)).toNat)))) ∧
    (s.tray.gets Z.DUMP_ACK m.val z →
      let acked := fun (t : State) (k : Nat) => Assoc.get (fun _ => 0) t.tray.hal.bridge.acked k
      let ring := fun (t : State) (i : Nat) => Assoc.get (fun _ => []) t.tray.hal.bridge.rings i
      let src := zb z.body 0 1
      Completes (.dumpAck m z) s (fun t => kept t ∧ s.tray.answers t.tray m.val z Zs.OK [] ∧
        acked t (2 * src + m.val) = max (acked s (2 * src + m.val)) (zb z.body 8 8 + 1) ∧
        (∀ k, k ≠ 2 * src + m.val → acked t k = acked s k) ∧
        (Assoc.wf (fun _ => []) s.tray.hal.bridge.rings = true → ∀ i, ring t i = if l.headless = true then ring s i else
          (ring s i).filter (fun r => [0, 1].any (fun k => l.of k != .none && decide (acked t (2 * i + k) ≤ r.seq)))))) ∧
    (s.tray.gets Z.WIRE_TEST m.val z → l.obeys m.val z →
      (s.tray.roleNow = 1 → Completes (.wireTest m z) s (fun t => kept t ∧ s.tray.answers t.tray m.val z Zs.REFUSED [])) ∧
      (s.tray.roleNow ≠ 1 → s.tray.hal.wire.isSome = true →
        Completes (.wireTest m z) s (fun t => kept t ∧ s.tray.answers t.tray m.val z Zs.BUSY [])) ∧
      (s.tray.roleNow ≠ 1 → s.tray.hal.wire = none →
        Completes (.wireTest m z) s (fun t => s.tray.answers t.tray m.val z Zs.OK [] ∧ t.leases = l ∧
          ∃ w, t.tray.hal.wire = some w ∧ w.duration = zb z.body 40 4 ∧ w.phases = zb z.body 44 1 ∧
            w.fomMin = (if zb z.body 45 1 = 0 then 96 else zb z.body 45 1) ∧ w.loop = !bitOf (zb z.body 44 1) 0 ∧
            (∀ c e, c < 5 → e < 64 → (64 * c + e ∈ w.ports ↔ bitOf (zb z.body (8 * c) 8) e = true)) ∧
            (∀ k ∈ w.ports, s.tray.upAt k = false → (k, Wr.NOT_UP) ∈ w.results) ∧
            (w.loop = false → s.tray.keepsRegs t.tray (fun _ _ => False) ∧ ∀ k ∈ w.ports, s.tray.upAt k = true →
              ∀ n ∈ lanesOf (k % 64), (t.tray.lane (k / 64) n).tMin = 255 ∧ (t.tray.lane (k / 64) n).tUnc = 0)))) ∧
    (∀ loops w, s.tray.hal.up = true → (∀ c, c < 5 → s.tray.settled c) → s.tray.hal.wire = some w → w.loop = false →
      ((∀ k ∈ w.open, s.tray.upAt k = true ∧ s.tray.idlePass w k = true) → w.before = [] →
        Completes (.wireTestPhaseEnd loops) s (fun t => t.tray.hal.wire = none ∧
          (s.tray.sessionUp 0 = true → s.tray.sessionUp 1 = true → ∃ b, b.length = 8 * (w.results ++ w.open.map (fun k => (k, 0))).length ∧
            s.tray.says t.tray [(0, Z.WIRE_RESULT, b), (1, Z.WIRE_RESULT, b)]) ∧ kept t)) ∧
      ((∃ k ∈ w.open, s.tray.upAt k = true ∧ s.tray.idlePass w k = false ∧ s.tray.canLoop k = true) → bitOf w.phases 1 = true →
        Completes (.wireTestPhaseEnd loops) s (fun t => (∃ x, t.tray.hal.wire = some x ∧ x.loop = true ∧ x.ports = w.ports ∧
          ∀ k ∈ w.open, s.tray.upAt k = true → s.tray.idlePass w k = true → (k, Wr.PASS) ∈ x.results) ∧ t.leases = l))) ∧
    (s.tray.hal.up = true →
      Completes .laneStats s (fun t => t.leases = l ∧ s.tray.keepsRegs t.tray (fun _ _ => False) ∧ t.tray.ports = s.tray.ports ∧
        t.tray.mem = s.tray.mem ∧ ∀ c n, c < 5 → n < 256 →
          t.tray.lane c n = (if (s.tray.chip c).coreUp = true
            then ({ s.tray.lane c n with fail := (s.tray.lane c n).windowFails s.tray.roleNow } : LaneSt).fresh
            else s.tray.lane c n)) ∧
      Completes .wear s (fun t => kept t ∧ (s.tray.sessionUp 0 = true → s.tray.sessionUp 1 = true →
        ∃ b, b.length = 8 * ((List.range 40).filter (fun b => s.tray.gf (bayPg b) F.PORT_CART_TYPE == 3)).length ∧
          s.tray.says t.tray [(0, Z.WEAR, b), (1, Z.WEAR, b)]))) ∧
    (∀ e rest, s.tray.hk.aon = true → s.tray.logq = e :: rest → s.tray.fram.lost = false →
      let w := BitVec.ofNat 512 (leVal (e.bytes s.tray.fram.nextSeq))
      let log := s.tray.fram.log ++ [w]
      let written := fun (t : State) => t.tray.logq = rest ∧ t.tray.fram.log = log.drop (log.length - 32704) ∧
        t.tray.fram.nextSeq = (s.tray.fram.nextSeq + 1) % 2 ^ 32 ∧ t.tray.fram.lost = false ∧ t.tray.hk.ring.getLast? = some (w, true) ∧
        s.tray.keepsBlocks t.tray
      let failed := fun (t : State) => t.tray.logq = rest ∧ t.tray.fram.log = s.tray.fram.log ∧ t.tray.fram.lost = true ∧
        t.tray.irqUp logPg 8 ∧ s.tray.keepsRegs t.tray (fun q o => q = logPg ∧ (o = A.LOG_STS ∨ o = 0x20)) ∧ s.tray.keepsBlocks t.tray
      Completes (.logEntryWrite .first) s (fun t => written t ∧ kept t) ∧
      Completes (.logEntryWrite .second) s (fun t => written t ∧ s.tray.keepsRegs t.tray (fun q o => q = logPg ∧ o = A.LOG_STS) ∧
        t.tray.gf logPg F.LOG_STS_FRAM_ERR = min 65535 (s.tray.gf logPg F.LOG_STS_FRAM_ERR + 1)) ∧
      Completes (.logEntryWrite .fails) s failed ∧ Completes (.logEntryWrite .timesOut) s failed)

/-- R440, R457, R461: FW_BEGIN, FW_DATA, FW_END and FW_ACTIVATE stage, verify and activate a bundle; R458, R459, R436: HALVOREN_BOOT runs the image
that verifies, in trial where it was activated, and decides what service the tray gives; IMAGE_CONFIRM and TRIAL_TIMEOUT end the trial; R434, R435,
R436: PTP_SYNC steps the time master once or leaves it an offset, PTP_HOLDOVER and TIME_LOCK_TIMEOUT. -/
def Obligations.FirmwareAndTime : Prop :=
  ∀ (s : State) (m : Fin 2) (z : ZMsg), s.tray.quiet →
    let l := s.leases
    let same := fun (t : State) => t.leases = l ∧ s.tray.keepsBlocks t.tray ∧ t.tray.master = s.tray.master
    let kept := fun (t : State) => same t ∧ s.tray.keepsRegs t.tray (fun _ _ => False)
    let no := fun (t : State) (st : Nat) => kept t ∧ s.tray.answers t.tray m.val z st [] ∧ t.tray.fram = s.tray.fram
    let ok := fun (t : State) => s.tray.answers t.tray m.val z Zs.OK []
    (s.tray.gets Z.FW_BEGIN m.val z → l.obeys m.val z → Completes (.fwBegin m z) s (fun t => ok t ∧ kept t ∧ t.tray.fram = s.tray.fram ∧
      t.tray.hal.staging = some { len := zb z.body 0 8, hash := (z.body.drop 8).take 48 })) ∧
    (s.tray.gets Z.FW_DATA m.val z → l.obeys m.val z →
      let off := zb z.body 0 8
      let data := z.body.drop 8
      (s.tray.hal.staging = none → Completes (.fwData m z) s (fun t => no t Zs.REFUSED)) ∧
      (∀ st, s.tray.hal.staging = some st → st.len < off + data.length → Completes (.fwData m z) s (fun t => no t Zs.REFUSED ∧
        t.tray.hal.staging = some st)) ∧
      (∀ st, s.tray.hal.staging = some st → off + data.length ≤ st.len → Completes (.fwData m z) s (fun t => ok t ∧ kept t ∧
        ∃ x, t.tray.hal.staging = some x ∧ x.len = st.len ∧ x.hash = st.hash ∧ x.verified = none ∧
          ∀ i, x.byte i = (if off ≤ i ∧ i < off + data.length then data[i - off]? else st.byte i)))) ∧
    (s.tray.gets Z.FW_END m.val z → l.obeys m.val z → ∀ (b : BundleInfo) st, s.tray.hal.staging = some st →
      let good := st.whole = true ∧ b.sigOk = true ∧
        ∀ k v, k < 4 → b.vers[k]? = some v → (s.tray.fram.svn[k]?).getD 0 ≤ v.svn
      b.vers.length = 4 →
      (good → Completes (.fwEnd m z b) s (fun t => ok t ∧ kept t ∧ t.tray.fram = { s.tray.fram with other := some b })) ∧
      (¬ good → Completes (.fwEnd m z b) s (fun t => no t Zs.FAILED ∧ ∃ e ∈ t.tray.logq, e.ev = .fwVerify))) ∧
    (s.tray.gets Z.FW_ACTIVATE m.val z → l.obeys m.val z →
      let comps := zb z.body 0 1
      (s.tray.fram.other = none → Completes (.fwActivate m z) s (fun t => no t Zs.REFUSED)) ∧
      (4 ≤ comps → s.tray.roleNow = 1 → Completes (.fwActivate m z) s (fun t => no t Zs.REFUSED)) ∧
      (∀ b, s.tray.fram.other = some b →
        (comps = 1 → Completes (.fwActivate m z) s (fun t => ok t ∧ kept t ∧
          t.tray.fram = { s.tray.fram with image := 1 - s.tray.gf fwPg F.FW_STS_IMAGE, trial := true, fallback := false })) ∧
        (comps = 4 ∨ comps = 8 ∨ comps = 12 → s.tray.roleNow ≠ 1 → Completes (.fwActivate m z) s (fun t => t.leases = l ∧
          ∀ c, c < 5 → (s.tray.chipOn c = true → t.tray.bare c) ∧ t.tray.chipOn c = s.tray.chipOn c)))) ∧
    (s.tray.gets Z.FW_ACTIVATE m.val z → l.of m.val ≠ .primary → Completes (.fwActivate m z) s (fun t => no t Zs.NOT_PRIMARY)) ∧
    (∀ (a b : ImageInfo) (d : CompatInfo) hkf, s.tray.hk.aon = true → s.tray.hal.up = false → s.tray.hal.failed = false →
      Ph.CTRL_BOOT ≤ s.tray.phase0 → s.tray.phase0 ≠ Ph.INPUT_OFF →
      let img := if s.tray.fram.fallback = true then 1 - s.tray.fram.image else s.tray.fram.image
      let trial := s.tray.fram.trial && !s.tray.fram.fallback
      let sel := if img = 0 then a else b
      let alt := if img = 0 then b else a
      let runs := fun (t : State) (im : Nat) (i : ImageInfo) (tr : Bool) => t.leases = l ∧ s.tray.keepsBlocks t.tray ∧ t.tray.hal.up = true ∧
        t.tray.fram.image = im ∧ t.tray.fram.trial = tr ∧ t.tray.fram.fallback = false ∧
        t.tray.gf fwPg F.FW_STS_IMAGE = im % 2 ∧ t.tray.is fwPg F.FW_STS_TRIAL = tr ∧
        t.tray.gf fwPg F.FW_STS_YEAR = i.bundle.year % 2 ^ 16 ∧ t.tray.gf fwPg F.FW_STS_NN = i.bundle.nn % 2 ^ 8 ∧
        (∀ k v, k < 4 → i.bundle.vers[k]? = some v → let w := t.tray.rd fwPg (A.FW_VER + 8 * k)
          F.FW_VER_MAJOR.get w = v.major % 2 ^ 16 ∧ F.FW_VER_MINOR.get w = v.minor % 2 ^ 16 ∧
          F.FW_VER_PATCH.get w = v.patch % 2 ^ 16 ∧ F.FW_VER_SVN.get w = v.svn % 2 ^ 16) ∧
        t.tray.service = (if d.chipBad ≠ 0 ∨ d.cls = 2 then 2 else if d.dmcUnlisted = true ∨ d.cls = 1 then 1 else 0) ∧
        t.tray.gf fwPg F.FW_COMPAT_REASON = d.reason.toNat ∧ t.tray.gf fwPg F.FW_COMPAT_CHIP_BAD = d.chipBad.toNat ∧
        (t.tray.service ≠ 0 → t.tray.irqUp fwPg 8) ∧
        ((∀ c, c < 5 → (s.tray.chip c).coreUp = false) → t.tray.master = 0) ∧
        (∀ c, c < 5 → (s.tray.chip c).coreUp = true → (∀ e, e < c → (s.tray.chip e).coreUp = false) →
          t.tray.master = (s.tray.rd (chip0 c) A.CHIP_TIME).toNat ∧ t.tray.stepOver = true)
      (sel.verifies = true → Completes (.halvorenBoot a b d hkf) s (fun t => runs t img sel trial)) ∧
      (sel.verifies = false → alt.verifies = true → Completes (.halvorenBoot a b d hkf) s (fun t => runs t (1 - img) alt false ∧
        ∃ e ∈ t.tray.logq, e.ev = .fwVerify)) ∧
      (sel.verifies = false → alt.verifies = false → Completes (.halvorenBoot a b d hkf) s (fun t => t.leases = l ∧ s.tray.keepsBlocks t.tray ∧
        t.tray.hal.up = false ∧ t.tray.hal.failed = true ∧ t.tray.service = 2 ∧ t.tray.irqUp fwPg 8 ∧
        (∃ x, s.tray.says t.tray [(0, Z.HELLO, x), (1, Z.HELLO, x)]) ∧ s.tray.keepsRegs t.tray (fun q _ => q = fwPg)))) ∧
    (s.tray.hal.up = true →
      (s.tray.fram.trial = true → s.tray.fram.fallback = false → l.headless = false → s.tray.service = 0 →
        Completes .imageConfirm s (fun t => same t ∧ s.tray.keepsRegs t.tray (fun q o => q = fwPg ∧ o = A.FW_STS) ∧
          t.tray.is fwPg F.FW_STS_TRIAL = false ∧ t.tray.fram.trial = false ∧ t.tray.fram.image = s.tray.fram.image ∧
          ∀ k, k < 4 → t.tray.fram.svn[k]? =
            some (max ((s.tray.fram.svn[k]?).getD 0) (F.FW_VER_SVN.get (s.tray.rd fwPg (A.FW_VER + 8 * k)))))) ∧
      (s.tray.fram.trial = false ∨ l.headless = true ∨ s.tray.service ≠ 0 →
        Completes .imageConfirm s (fun t => kept t ∧ t.tray.fram = s.tray.fram)) ∧
      (s.tray.fram.trial = true → Completes .trialTimeout s (fun t => kept t ∧ t.tray.fram = { s.tray.fram with fallback := true })) ∧
      (let time := fun (q o : Nat) => q = mgrPg ∧ (o = A.MGR_TIME ∨ o = 0x20)
       let st := s.tray.gf mgrPg F.MGR_TIME_STATE
       let block := fun (t : State) => t.leases = l ∧ s.tray.keepsBlocks t.tray ∧ s.tray.keepsRegs t.tray time
       let locked := fun (t : State) => t.tray.gf mgrPg F.MGR_TIME_STATE = Ts.LOCKED ∧ t.tray.gf mgrPg F.MGR_TIME_PORT = m.val ∧
         (st ≠ Ts.LOCKED → t.tray.irqUp mgrPg 10 ∧ ∃ e ∈ t.tray.logq, e.ev = .timeState) ∧ t.tray.stepOver = true ∧ block t
       (∀ gm : Word,
         (st = Ts.NONE → s.tray.stepOver = false → Completes (.ptpSync m gm) s (fun t => locked t ∧ t.tray.master = gm.toNat ∧
           t.tray.hal.offset = 0)) ∧
         (st ≠ Ts.NONE ∨ s.tray.stepOver = true → Completes (.ptpSync m gm) s (fun t => locked t ∧ t.tray.master = s.tray.master ∧
           t.tray.hal.offset = (gm.toNat : Int) - s.tray.master ∧
           (st ≠ Ts.LOCKED → 10 ^ 10 < t.tray.hal.offset.natAbs → t.tray.is mgrPg F.MGR_TIME_TIME_FAULT = true) ∧
           (t.tray.hal.offset.natAbs < 1000 → t.tray.is mgrPg F.MGR_TIME_TIME_FAULT = false) ∧
           (1000 ≤ t.tray.hal.offset.natAbs → s.tray.is mgrPg F.MGR_TIME_TIME_FAULT = true →
             t.tray.is mgrPg F.MGR_TIME_TIME_FAULT = true)))) ∧
       (st = Ts.LOCKED → Completes .ptpHoldover s (fun t => t.tray.gf mgrPg F.MGR_TIME_STATE = Ts.HOLDOVER ∧ t.tray.irqUp mgrPg 10 ∧
         t.tray.master = s.tray.master ∧ t.tray.hal.offset = s.tray.hal.offset ∧ block t ∧ ∃ e ∈ t.tray.logq, e.ev = .timeState)) ∧
       (st ≠ Ts.LOCKED → s.tray.hal.rack.isSome = true → s.tray.hal.timeWaited = false →
         Completes .timeLockTimeout s (fun t => t.tray.is mgrPg F.MGR_TIME_TIME_FAULT = true ∧ t.tray.hal.timeWaited = true ∧
           t.tray.gf mgrPg F.MGR_TIME_STATE = st ∧ t.tray.master = s.tray.master ∧ t.leases = l ∧ s.tray.keepsBlocks t.tray ∧
           s.tray.keepsRegs t.tray (fun q o => time q o ∨ (q = hkPg ∧ o = A.HK_STS))))))

/-- R443: a Redfish request is answered as its resource and the user's role say; R462: the console commands show, and with SERVICE access read
registers, start a wiring test, activate a staged bundle and reset; R424: reset without SERVICE is refused and recorded. -/
def Obligations.RedfishAndConsole : Prop :=
  ∀ (s : State), s.tray.quiet → s.tray.hal.up = true →
    let l := s.leases
    let kept := fun (t : State) => t.leases = l ∧ s.tray.keepsRegs t.tray (fun _ _ => False) ∧ s.tray.keepsBlocks t.tray
    let rf := fun (t : State) (st : Nat) => ∃ b, t.tray.out = .redfish st b :: s.tray.out
    let con := fun (t : State) (ok : Bool) (b : List Nat) => t.tray.out = .console ok b :: s.tray.out ∧ t.tray.hk.fifo = []
    (∀ meth ro, Completes (.redfishRequest .systems meth ro) s (fun t => kept t ∧ rf t 404) ∧
      Completes (.redfishRequest .other meth ro) s (fun t => kept t ∧ rf t 404)) ∧
    (∀ res meth, res ≠ .systems → res ≠ .other →
      (meth ≠ .get → res ≠ .sessions → (∀ i, res ≠ .session i) →
        Completes (.redfishRequest res meth true) s (fun t => kept t ∧ rf t 403))) ∧
    (∀ ro, ∀ res ∈ ([.serviceRoot, .sessionService, .accountService, .sessions, .accounts, .chassisTray, .sensors, .power, .thermal,
        .managersHalvoren, .eventLog, .updateService, .eventService, .subscriptions, .oemTilviard] : List RfResource),
      Completes (.redfishRequest res .get ro) s (fun t => kept t ∧ rf t 200)) ∧
    (∀ ro (c : Fin 5) (e : Fin 64), Completes (.redfishRequest (.port c e) .get ro) s (fun t => kept t ∧
      ∃ b, t.tray.out = .redfish 200 b :: s.tray.out ∧ b.take 2 = [s.tray.pst c.val e.val, s.tray.pcause c.val e.val])) ∧
    (∀ res ∈ ([.managerReset true, .managerReset false, .clearLog] : List RfResource), ∀ ro,
      Completes (.redfishRequest res .get ro) s (fun t => kept t ∧ rf t 405)) ∧
    (Completes (.redfishRequest .clearLog .post false) s (fun t => kept t ∧ rf t 405 ∧ t.tray.fram = s.tray.fram)) ∧
    (∀ on, Completes (.redfishRequest .chassisTray (.patch on) false) s (fun t => rf t 200 ∧ t.leases = l ∧ s.tray.keepsBlocks t.tray ∧
      t.tray.is pnlPg F.PNL_LED_LOCATE = on ∧ s.tray.keepsRegs t.tray (fun q o => q = pnlPg ∧ o = A.PNL_LED))) ∧
    (let i := s.tray.hal.nextRf
     let new := fun (t : State) => kept t ∧ t.tray.out = .redfish 201 [i] :: s.tray.out
     (∀ ro, Completes (.redfishRequest .sessions .post ro) s (fun t => new t ∧ t.tray.hal.sessions = s.tray.hal.sessions ++ [i])) ∧
     Completes (.redfishRequest .accounts .post false) s (fun t => new t ∧ t.tray.hal.accounts = s.tray.hal.accounts ++ [i]) ∧
     (s.tray.hal.subs.length < 8 → Completes (.redfishRequest .subscriptions .post false) s (fun t => new t ∧
       t.tray.hal.subs = s.tray.hal.subs ++ [i])) ∧
     (8 ≤ s.tray.hal.subs.length → Completes (.redfishRequest .subscriptions .post false) s (fun t => kept t ∧ rf t 405 ∧
       t.tray.hal.subs = s.tray.hal.subs))) ∧
    (∀ i, (i ∈ s.tray.hal.sessions → ∀ ro, Completes (.redfishRequest (.session i) .delete ro) s (fun t => kept t ∧ rf t 204 ∧
        t.tray.hal.sessions = s.tray.hal.sessions.filter (fun x => x ≠ i))) ∧
      (i ∉ s.tray.hal.sessions → ∀ ro, Completes (.redfishRequest (.session i) .delete ro) s (fun t => kept t ∧ rf t 404))) ∧
    (s.tray.roleNow = 1 → ∀ tray, Completes (.redfishRequest (.managerReset tray) .post false) s (fun t => kept t ∧ rf t 405)) ∧
    (s.tray.roleNow ≠ 1 → s.tray.hk.aon = true →
      Completes (.redfishRequest (.managerReset false) .post false) s (fun t => rf t 200 ∧ t.tray.hal = {} ∧ t.leases = {} ∧
        s.tray.keepsBlocks t.tray ∧ t.tray.gf hkPg F.HK_STS_LAST_RESET = 3)) ∧
    (∀ bytes (b : BundleInfo), b.vers.length = 4 → b.sigOk = true →
      (∀ k v, k < 4 → b.vers[k]? = some v → (s.tray.fram.svn[k]?).getD 0 ≤ v.svn) →
      Completes (.redfishRequest (.simpleUpdate bytes b) .post false) s (fun t => kept t ∧ rf t 200 ∧
        t.tray.fram = { s.tray.fram with other := some b })) ∧
    (s.tray.hk.aon = true →
      Completes .zhctlStatus s (fun t => kept t ∧ ∃ b, con t true b) ∧
      (∀ n : BitVec 32, Completes (.zhctlLog n) s (fun t => kept t ∧
        con t true ((s.tray.fram.log.filter (fun w => decide (n.toNat ≤ entrySeq w))).map (fun w => w.toNat)))) ∧
      (∀ c : Option (Fin 5), Completes (.zhctlPorts c) s (fun t => kept t ∧ ∃ b, con t true b ∧
        b.length = 384 * (match c with | none => 5 | some _ => 1))) ∧
      Completes .zhctlLabelRepaint s (fun t => kept t ∧ con t true [] ∧ t.tray.hk.label.want = true) ∧
      (∀ ok, Completes (.zhctlLogin ok) s (fun t => kept t ∧ con t ok [] ∧ t.tray.hal.service = (ok || s.tray.hal.service))) ∧
      (∀ sp off n, s.tray.hal.service = false → Completes (.zhctlRegRead sp off n) s (fun t => kept t ∧ con t false [])) ∧
      (∀ (sp : Fin 6) (off : Word), s.tray.hal.service = true →
        let r := { s.tray with hk := { s.tray.hk with fifo := [] } }.barReads l sp.val 1 off.toNat
        r.2.2.out = s.tray.out → Completes (.zhctlRegRead sp off 1) s (fun t => t.leases = l ∧ r.2.2.keepsRegs t.tray (fun _ _ => False) ∧
          r.2.2.keepsBlocks t.tray ∧ con t r.2.1 r.1)) ∧
      (∀ maps d ph f, (∀ c, c < 5 → s.tray.settled c) → (s.tray.hal.service = false ∨ s.tray.roleNow = 1 ∨ s.tray.hal.wire.isSome = true) →
        Completes (.zhctlWireTest maps d ph f) s (fun t => kept t ∧ con t false [] ∧ t.tray.hal.wire = s.tray.hal.wire)) ∧
      (∀ (maps : List Word) d (ph f : BitVec 8), (∀ c, c < 5 → s.tray.settled c) → s.tray.hal.service = true → s.tray.roleNow ≠ 1 → s.tray.hal.wire = none →
        ph = 1 ∨ ph = 3 → Completes (.zhctlWireTest maps d ph f) s (fun t => con t true [] ∧ t.leases = l ∧
          s.tray.keepsRegs t.tray (fun _ _ => False) ∧ t.tray.ports = s.tray.ports ∧ t.tray.mem = s.tray.mem ∧
          ∃ w, t.tray.hal.wire = some w ∧ w.duration = d ∧ w.phases = ph.toNat ∧ w.loop = false)) ∧
      (∀ comps : BitVec 32, (s.tray.hal.service = false ∨ s.tray.fram.other = none ∨ 4 ≤ comps.toNat ∧ s.tray.roleNow = 1) →
        Completes (.zhctlFwActivate comps) s (fun t => kept t ∧ con t false [] ∧ t.tray.fram = s.tray.fram)) ∧
      (s.tray.hal.service = true → s.tray.fram.other.isSome = true → Completes (.zhctlFwActivate 1) s (fun t => kept t ∧ con t true [] ∧
        t.tray.fram = { s.tray.fram with image := 1 - s.tray.gf fwPg F.FW_STS_IMAGE, trial := true, fallback := false })) ∧
      (s.tray.hal.service = false → ∀ ty chip : BitVec 3,
        (1 ≤ ty.toNat ∧ ty.toNat ≤ 3 → (s.tray.rd hkPg A.PG_ERR_CAPT).getLsbD 63 = false →
          Completes (.zhctlReset ty chip) s (fun t => con t false [] ∧ t.leases = l ∧ s.tray.keepsBlocks t.tray ∧
            s.tray.keepsRegs t.tray (fun q o => q = hkPg ∧ (o = A.PG_ERR_CAPT ∨ o = 0x20)) ∧
            F.PG_ERR_CAPT_CODE.get (t.tray.rd hkPg A.PG_ERR_CAPT) = 0x40)) ∧
        (4 ≤ ty.toNat → Completes (.zhctlReset ty chip) s (fun t => kept t ∧ con t false []))) ∧
      (s.tray.hal.service = true → Completes (.zhctlReset 3 0) s (fun t => t.tray.hal = {} ∧ t.leases = {} ∧ s.tray.keepsBlocks t.tray ∧
        t.tray.gf hkPg F.HK_STS_LAST_RESET = 3)))

/-! ### Empty offsets and pending COMMITs; the machine as a whole -/

/-- R79: an access to an offset of an implemented page that holds no register completes: a read answers 0, a write changes nothing, either records
UNMAPPED. R92: while a COMMIT is pending a write to a shadow offset changes nothing and records SHADOW_LOCKED, and a further GO changes and records
nothing. An error is recorded where PG_ERR_CAPT holds none, and counted in MORE where it holds one. -/
def Obligations.EmptyOffsetsAndPendingCommits : Prop :=
  ∀ (s : State) (sp : Fin 6) (page off : BitVec 12) (v : Word),
    let pg := sp.val * 4096 + page.toNat
    let recorded := fun (t : State) (code : Nat) (isWrite : Bool) =>
      (s.tray.gf pg F.PG_ERR_CAPT_VALID = 0 → t.tray.holdsErr pg code off.toNat 0 isWrite (s.tray.timeOf (pg / 4096))) ∧
      (s.tray.gf pg F.PG_ERR_CAPT_VALID = 1 → t.tray.gf pg F.PG_ERR_CAPT_MORE = min 63 (s.tray.gf pg F.PG_ERR_CAPT_MORE + 1) ∧
        t.tray.gf pg F.PG_ERR_CAPT_CODE = s.tray.gf pg F.PG_ERR_CAPT_CODE) ∧
      s.tray.keepsRegs t.tray (fun q o => q = pg ∧ (o = 0x60 ∨ o = 0x20)) ∧ s.tray.keepsBlocks t.tray
    s.tray.accepts sp.val page.toNat off.toNat = true → s.tray.settled sp.val →
    ((off.toNat < 0x800 → findReg pg off.toNat = none) →
      (0x800 ≤ off.toNat → ∀ r, findReg pg (off.toNat - 0x800) = some r → r.rwsMask = 0) →
      Completes (.registerWrite sp page off v) s (fun t => recorded t E.UNMAPPED true) ∧
      Completes (.registerReadClear sp page off) s (fun t => recorded t E.UNMAPPED false ∧
        t.tray.out = .completion sp.val .ok 0 :: s.tray.out)) ∧
    (s.tray.gf pg F.PG_COMMIT_STS_PENDING = 1 →
      (∀ r, 0x800 ≤ off.toNat → findReg pg (off.toNat - 0x800) = some r → r.rwsMask ≠ 0 →
        Completes (.shadowWrite sp page off v) s (fun t => recorded t E.SHADOW_LOCKED true)) ∧
      (s.tray.accepts sp.val page.toNat A.PG_COMMIT = true →
        Completes (.commit sp page) s (fun t => s.tray.keepsRegs t.tray (fun _ _ => False) ∧ s.tray.keepsBlocks t.tray)))

/-- A step takes the command at the front of the queue and is exec of it on the state with the queue's rest. -/
def Obligations.StepRunsTheFrontCommand : Prop :=
  ∀ (s : State) (c : Instr) (rest : List Instr), s.pending = c :: rest → step s = exec c { s with pending := rest }

/-- R59, R435: on an empty queue one nanosecond passes (the model's choice, log 2): the time master, and the CHIP_TIME of each chip that is
released, advance by one; an offset that is being removed moves by 1 ns in 10,000 ns. Nothing passes while the housekeeper has no power. -/
def Obligations.EmptyQueueTicks : Prop :=
  ∀ s : State, s.tray.quiet → s.pending = [] → ∃ t, step s = .next t ∧ t.pending = [] ∧ t.leases = s.leases ∧ s.tray.keepsBlocks t.tray ∧
    s.tray.keepsRegs t.tray (fun q o => q % 4096 = 0 ∧ (o = A.CHIP_TIME ∨ o = A.CHIP_BG_STS) ∨ o = A.PORT_XOFF_TIME) ∧
    (s.tray.hk.aon = false → t.tray = s.tray) ∧
    (s.tray.hk.aon = true → t.tray.hk.rtc = s.tray.hk.rtc + 1 ∧ t.tray.out = s.tray.out ∧ t.tray.logq = s.tray.logq ∧
      (∀ c, c < 5 → (s.tray.chip c).coreUp = true → t.tray.rd (chip0 c) A.CHIP_TIME = s.tray.rd (chip0 c) A.CHIP_TIME + 1) ∧
      (∀ c, c < 5 → (s.tray.chip c).coreUp = false → t.tray.rd (chip0 c) A.CHIP_TIME = s.tray.rd (chip0 c) A.CHIP_TIME) ∧
      (s.tray.hal.offset = 0 → t.tray.master = s.tray.master + 1 ∧ t.tray.hal = s.tray.hal) ∧
      (s.tray.hal.slewTick = 9999 → 0 < s.tray.hal.offset → t.tray.master = s.tray.master + 2 ∧
        t.tray.hal.offset = s.tray.hal.offset - 1 ∧ t.tray.hal.slewTick = 0) ∧
      (s.tray.hal.slewTick = 9999 → s.tray.hal.offset < 0 → t.tray.master = s.tray.master ∧
        t.tray.hal.offset = s.tray.hal.offset + 1 ∧ t.tray.hal.slewTick = 0) ∧
      (s.tray.hal.slewTick < 9999 → s.tray.hal.offset ≠ 0 → t.tray.master = s.tray.master + 1 ∧
        t.tray.hal = { s.tray.hal with slewTick := s.tray.hal.slewTick + 1 }))

/-- R427, R428, R433: every command completes and leaves the queue as it is; no command but LEASE_REQ, LEASE_RELEASE and LEASE_LAPSE changes a
manager's lease, unless it resets the Halvoren, which ends both. -/
def Obligations.EveryCommandCompletes : Prop :=
  ∀ (c : Instr) (s : State), ∃ t, exec c s = .next t ∧ t.pending = s.pending ∧
    ((∀ m z, c ≠ .leaseReq m z) → (∀ m z, c ≠ .leaseRelease m z) → (∀ m, c ≠ .leaseLapse m) → t.leases = s.leases ∨ t.leases = {}) ∧
    ((∀ m z, c ≠ .leaseReq m z) → ∀ k, t.leases.of k = .primary → s.leases.of k = .primary)

/-- R427, R429: from every state in which at most one manager holds PRIMARY, under a term that has been seen, a step leads to such a state, and to
one in which no message of a command waits to be formed. -/
def Obligations.LeasesStaySound : Prop :=
  ∀ s : State, s.leases.sound → ∃ t, step s = .next t ∧ t.leases.sound ∧ t.tray.quiet ∧
    (s.leases.term ≤ t.leases.term ∨ t.leases = {})

/-- R82, R463, R469: at reset nothing waits and no lease is held; ENABLE is 0 on port, table and Dealer pages and the dump page and 1 on every other
page; no map, no port up, no table in use; tensor memory lists nothing and reads 0 (the model's choice, log 5). -/
def Obligations.ResetState : Prop :=
  let t := State.reset.tray
  State.reset.pending = [] ∧ State.reset.leases = {} ∧ State.reset.leases.sound ∧ t.quiet ∧ Memory.wf t.mem = true ∧
  (∀ a, t.memAt a = 0) ∧
  t.viewReg State.reset.leases mgrPg A.MGR_LEASE = 0x10 ∧ t.rd mgrPg A.MGR_MAP = 0xF00000000 ∧ t.rd mgrPg A.MGR_TIME = 0 ∧
  (∀ pg k, pageKind pg = some k → t.enabled pg = !([.port, .table, .dlr, .dump].contains k)) ∧
  (∀ c, c < 5 → (t.chip c).coreUp = false ∧ (∀ e, t.pst c e = S.DISABLED) ∧ (∀ k, t.tst c k = T.FREE))
end

