-- ==== Sys2Proof/Laws/Assoc.lean ====
section
/-! SUPPORT. Laws of the sparse storage: reading after writing, and the canonical form. -/
namespace Sys2Proof.Machine

variable {α : Type}

@[simp] theorem Assoc.get_nil (d : Nat → α) (k : Nat) : Assoc.get d [] k = d k := rfl

theorem Assoc.get_insert (d : Nat → α) (k : Nat) (v : α) (m : Assoc α) (q : Nat) :
    Assoc.get d (Assoc.insert k v m) q = if q = k then v else Assoc.get d m q := by
  induction m with
  | nil => rfl
  | cons a m ih =>
    obtain ⟨k', v'⟩ := a
    simp only [Assoc.insert]
    split_ifs with h1 h2 h3 <;> simp only [Assoc.get, ih] <;> split_ifs <;> simp_all

theorem Assoc.get_erase (d : Nat → α) (k : Nat) (m : Assoc α) (q : Nat) :
    Assoc.get d (Assoc.erase k m) q = if q = k then d k else Assoc.get d m q := by
  induction m with
  | nil => by_cases h : q = k <;> simp [Assoc.erase, Assoc.get, h]
  | cons a m ih =>
    obtain ⟨k', v'⟩ := a
    simp only [Assoc.erase]
    split_ifs with h1 h2 h2 <;> simp only [Assoc.get, ih] <;> split_ifs <;> simp_all

/-- Reading after writing. -/
theorem Assoc.get_set [DecidableEq α] (d : Nat → α) (m : Assoc α) (k : Nat) (v : α) (q : Nat) :
    Assoc.get d (Assoc.set d m k v) q = if q = k then v else Assoc.get d m q := by
  unfold Assoc.set
  split_ifs with h1 h2
  · subst h2; simp [Assoc.get_erase, h1]
  · simp [Assoc.get_erase, h2]
  · simp [Assoc.get_insert, *]
  · simp [Assoc.get_insert, *]

@[simp] theorem Assoc.get_set_self [DecidableEq α] (d : Nat → α) (m : Assoc α) (k : Nat) (v : α) :
    Assoc.get d (Assoc.set d m k v) k = v := by simp [Assoc.get_set]

theorem Assoc.get_set_ne [DecidableEq α] (d : Nat → α) (m : Assoc α) (k : Nat) (v : α) {q : Nat} (h : q ≠ k) :
    Assoc.get d (Assoc.set d m k v) q = Assoc.get d m q := by simp [Assoc.get_set, h]

/-- Keeping some keys: every other key reads as unlisted. -/
theorem Assoc.get_keep (d : Nat → α) (p : Nat → Bool) (m : Assoc α) (q : Nat) :
    Assoc.get d (Assoc.keep p m) q = if p q then Assoc.get d m q else d q := by
  unfold Assoc.keep
  induction m with
  | nil => simp
  | cons a m ih =>
    obtain ⟨k', v'⟩ := a
    by_cases hp : p k' = true <;> simp only [List.filter, hp] at ih ⊢ <;>
      simp only [Assoc.get, ih] <;> split_ifs <;> simp_all

theorem Assoc.rising_mono {b b' : Nat} (h : b ≤ b') {m : Assoc α} (hm : Assoc.rising b' m = true) :
    Assoc.rising b m = true := by
  cases m with
  | nil => rfl
  | cons a m => simp only [Assoc.rising, Bool.and_eq_true, decide_eq_true_eq] at hm ⊢; exact ⟨by omega, hm.2⟩

theorem Assoc.rising_insert {b k : Nat} {v : α} (h : b ≤ k) {m : Assoc α} (hm : Assoc.rising b m = true) :
    Assoc.rising b (Assoc.insert k v m) = true := by
  induction m generalizing b with
  | nil => simp [Assoc.insert, Assoc.rising, h]
  | cons a m ih =>
    obtain ⟨k', v'⟩ := a
    simp only [Assoc.rising, Bool.and_eq_true, decide_eq_true_eq] at hm
    simp only [Assoc.insert]
    split_ifs with h1 h2
    · simp [Assoc.rising, h, hm.2]; omega
    · subst h2; simp [Assoc.rising, h, hm.2]
    · simp only [Assoc.rising, Bool.and_eq_true, decide_eq_true_eq]
      exact ⟨hm.1, ih (by omega) hm.2⟩

theorem Assoc.rising_erase {b k : Nat} {m : Assoc α} (hm : Assoc.rising b m = true) :
    Assoc.rising b (Assoc.erase k m) = true := by
  induction m generalizing b with
  | nil => rfl
  | cons a m ih =>
    obtain ⟨k', v'⟩ := a
    simp only [Assoc.rising, Bool.and_eq_true, decide_eq_true_eq] at hm
    simp only [Assoc.erase]
    split_ifs
    · exact Assoc.rising_mono (by omega) (ih hm.2)
    · simp [Assoc.rising, hm.1, ih hm.2]

theorem Assoc.rising_keep {b : Nat} {p : Nat → Bool} {m : Assoc α} (hm : Assoc.rising b m = true) :
    Assoc.rising b (Assoc.keep p m) = true := by
  unfold Assoc.keep
  induction m generalizing b with
  | nil => rfl
  | cons a m ih =>
    obtain ⟨k', v'⟩ := a
    simp only [Assoc.rising, Bool.and_eq_true, decide_eq_true_eq] at hm
    by_cases hp : p k' = true <;> simp only [List.filter, hp]
    · simp [Assoc.rising, hm.1, ih hm.2]
    · exact Assoc.rising_mono (by omega) (ih hm.2)

theorem Assoc.mem_insert {k : Nat} {v : α} {m : Assoc α} {x : Nat × α} (hx : x ∈ Assoc.insert k v m) :
    x = (k, v) ∨ x ∈ m := by
  induction m with
  | nil => simp [Assoc.insert] at hx; exact .inl hx
  | cons a m ih =>
    obtain ⟨k', v'⟩ := a
    simp only [Assoc.insert] at hx
    split_ifs at hx
    · simpa using hx
    · simp only [List.mem_cons] at hx ⊢; tauto
    · simp only [List.mem_cons] at hx ⊢
      rcases hx with h | h
      · tauto
      · rcases ih h with h | h <;> tauto

theorem Assoc.mem_erase {k : Nat} {m : Assoc α} {x : Nat × α} (hx : x ∈ Assoc.erase k m) : x ∈ m := by
  induction m with
  | nil => simpa [Assoc.erase] using hx
  | cons a m ih =>
    obtain ⟨k', v'⟩ := a
    simp only [Assoc.erase] at hx
    split_ifs at hx
    · exact List.mem_cons_of_mem _ (ih hx)
    · simp only [List.mem_cons] at hx ⊢; tauto

/-- A write keeps the canonical form. -/
theorem Assoc.wf_set [DecidableEq α] {d : Nat → α} {m : Assoc α} (h : Assoc.wf d m = true) (k : Nat) (v : α) :
    Assoc.wf d (Assoc.set d m k v) = true := by
  simp only [Assoc.wf, Bool.and_eq_true, List.all_eq_true, decide_eq_true_eq] at h ⊢
  unfold Assoc.set
  split_ifs with hv
  · exact ⟨Assoc.rising_erase h.1, fun x hx => h.2 x (Assoc.mem_erase hx)⟩
  · refine ⟨Assoc.rising_insert (Nat.zero_le _) h.1, fun x hx => ?_⟩
    rcases Assoc.mem_insert hx with rfl | hx
    · exact hv
    · exact h.2 x hx

/-- A reset of some keys keeps the canonical form. -/
theorem Assoc.wf_keep [DecidableEq α] {d : Nat → α} {m : Assoc α} (h : Assoc.wf d m = true) (p : Nat → Bool) :
    Assoc.wf d (Assoc.keep p m) = true := by
  simp only [Assoc.wf, Bool.and_eq_true, List.all_eq_true, decide_eq_true_eq] at h ⊢
  refine ⟨Assoc.rising_keep h.1, fun x hx => h.2 x ?_⟩
  exact List.mem_of_mem_filter hx

/-- In canonical form, equal reads are equal storage. -/
theorem Assoc.eq_of_get [DecidableEq α] {d : Nat → α} {m n : Assoc α} (hm : Assoc.wf d m = true)
    (hn : Assoc.wf d n = true) (h : ∀ k, Assoc.get d m k = Assoc.get d n k) : m = n := by
  have low : ∀ (b : Nat) (m : Assoc α), Assoc.rising b m = true → ∀ k, k < b → Assoc.get d m k = d k := by
    intro b m
    induction m generalizing b with
    | nil => intros; rfl
    | cons a m ih =>
      obtain ⟨k', v'⟩ := a
      intro hr k hk
      simp only [Assoc.rising, Bool.and_eq_true, decide_eq_true_eq] at hr
      simp only [Assoc.get]
      rw [if_neg (by omega)]
      exact ih _ hr.2 k (by omega)
  suffices H : ∀ b (m n : Assoc α), Assoc.rising b m = true → Assoc.rising b n = true →
      (∀ x ∈ m, x.2 ≠ d x.1) → (∀ x ∈ n, x.2 ≠ d x.1) → (∀ k, Assoc.get d m k = Assoc.get d n k) → m = n by
    simp only [Assoc.wf, Bool.and_eq_true, List.all_eq_true, decide_eq_true_eq] at hm hn
    exact H 0 m n hm.1 hn.1 hm.2 hn.2 h
  intro b m
  induction m generalizing b with
  | nil =>
    intro n _ hn _ hne h
    cases n with
    | nil => rfl
    | cons a n =>
      obtain ⟨k, v⟩ := a
      have := h k
      simp only [Assoc.get, if_true] at this
      exact absurd this.symm (hne (k, v) (by simp))
  | cons a m ih =>
    obtain ⟨k, v⟩ := a
    intro n hm hn hme hne h
    simp only [Assoc.rising, Bool.and_eq_true, decide_eq_true_eq] at hm
    have hk := h k
    simp only [Assoc.get, if_true] at hk
    cases n with
    | nil => exact absurd hk (hme (k, v) (by simp))
    | cons a' n =>
      obtain ⟨k', v'⟩ := a'
      simp only [Assoc.rising, Bool.and_eq_true, decide_eq_true_eq] at hn
      have hk' := h k'
      simp only [Assoc.get, if_true] at hk hk'
      have e : k = k' := by
        by_contra hne'
        rcases Nat.lt_or_gt_of_ne hne' with hlt | hgt
        · rw [if_neg hne', low _ _ hn.2 k (by omega)] at hk
          exact hme (k, v) (by simp) hk
        · rw [if_neg (by omega), low _ _ hm.2 k' (by omega)] at hk'
          exact hne (k', v') (by simp) hk'.symm
      subst e
      simp only [if_true] at hk
      subst hk
      congr 1
      refine ih (k + 1) n hm.2 hn.2 (fun x hx => hme x (by simp [hx])) (fun x hx => hne x (by simp [hx])) ?_
      intro q
      by_cases hq : q = k
      · subst hq; rw [low _ _ hm.2 q (by omega), low _ _ hn.2 q (by omega)]
      · have := h q
        simpa [Assoc.get, hq] using this

end Sys2Proof.Machine
end

