-- ==== Sys2Proof/Laws/Field.lean ====
section
/-! SUPPORT. Laws of the fields of a register word: what a field reads after a field of the same register is set, and
when two registers are different keys of the register file. -/
namespace Sys2Proof.Machine

theorem maskW_bit (w i : Nat) (hw : w ≤ 64) : (maskW w).getLsbD i = decide (i < w) := by
  unfold maskW
  rw [BitVec.getLsbD_ofNat, Nat.testBit_two_pow_sub_one]
  by_cases h : i < w
  · simp [h]; omega
  · simp [h]

/-- Bit `i` of a field is bit `lo + i` of the word. -/
theorem Fld.get_testBit (f : Fld) (x : Word) (hf : f.lo + f.w ≤ 64) (i : Nat) :
    (f.get x).testBit i = (decide (i < f.w) && x.getLsbD (f.lo + i)) := by
  unfold Fld.get
  rw [← BitVec.getLsbD, BitVec.getLsbD_and, maskW_bit _ _ (by omega), BitVec.getLsbD_ushiftRight, Bool.and_comm]

theorem Fld.put_bit (f : Fld) (x : Word) (v : Nat) (hf : f.lo + f.w ≤ 64) (i : Nat) (hi : i < 64) :
    (f.put x v).getLsbD i = if f.lo ≤ i ∧ i < f.lo + f.w then v.testBit (i - f.lo) else x.getLsbD i := by
  unfold Fld.put
  simp only [BitVec.getLsbD_or, BitVec.getLsbD_and, BitVec.getLsbD_not, BitVec.getLsbD_shiftLeft,
    maskW_bit _ _ (show f.w ≤ 64 by omega), BitVec.getLsbD_ofNat]
  by_cases h1 : f.lo ≤ i <;> by_cases h2 : i < f.lo + f.w
  · have : i - f.lo < f.w := by omega
    have : i - f.lo < 64 := by omega
    simp [*, Nat.not_lt.2 h1]
  · have : ¬ (i - f.lo < f.w) := by omega
    simp [*]
  · have : i < f.lo := by omega
    simp [*]
  · have : i < f.lo := by omega
    simp [*]

theorem Fld.get_lt (f : Fld) (x : Word) (hf : f.lo + f.w ≤ 64) : f.get x < 2 ^ f.w := by
  refine Nat.lt_pow_two_of_testBit _ (fun i hi => ?_)
  rw [f.get_testBit x hf, decide_eq_false (by omega), Bool.false_and]

/-- A field that is set reads as the value modulo its width. -/
theorem Fld.get_put (f : Fld) (x : Word) (v : Nat) (hf : f.lo + f.w ≤ 64) : f.get (f.put x v) = v % 2 ^ f.w := by
  refine Nat.eq_of_testBit_eq (fun i => ?_)
  rw [f.get_testBit _ hf, Nat.testBit_mod_two_pow]
  by_cases h : i < f.w
  · rw [f.put_bit x v hf _ (by omega), if_pos (by omega)]; simp
  · simp [h]

/-- A field keeps its value when another field of its register is set. -/
theorem Fld.get_put_ne (f g : Fld) (x : Word) (v : Nat) (hf : f.lo + f.w ≤ 64) (hg : g.lo + g.w ≤ 64)
    (h : g.lo + g.w ≤ f.lo ∨ f.lo + f.w ≤ g.lo) : g.get (f.put x v) = g.get x := by
  refine Nat.eq_of_testBit_eq (fun i => ?_)
  rw [g.get_testBit _ hg, g.get_testBit _ hg]
  by_cases hi : i < g.w
  · rw [f.put_bit x v hf _ (by omega), if_neg (by omega)]
  · simp [hi]

/-- Setting a field twice is setting it the second time. -/
theorem Fld.put_put (f : Fld) (x : Word) (v w : Nat) (hf : f.lo + f.w ≤ 64) : f.put (f.put x v) w = f.put x w := by
  refine BitVec.eq_of_getLsbD_eq (fun i hi => ?_)
  rw [f.put_bit _ w hf _ hi, f.put_bit x v hf _ hi, f.put_bit x w hf _ hi]
  split_ifs <;> rfl

@[simp] theorem Fld.at_off (f : Fld) (d : Nat) : (f.at d).off = f.off + d := rfl
@[simp] theorem Fld.at_lo (f : Fld) (d : Nat) : (f.at d).lo = f.lo := rfl
@[simp] theorem Fld.at_w (f : Fld) (d : Nat) : (f.at d).w = f.w := rfl
@[simp] theorem Fld.at_get (f : Fld) (d : Nat) (x : Word) : (f.at d).get x = f.get x := rfl
@[simp] theorem Fld.at_put (f : Fld) (d : Nat) (x : Word) (v : Nat) : (f.at d).put x v = f.put x v := rfl

/-- Registers of one page at different offsets are different keys. -/
theorem regKey_off_ne (pg : Nat) {a b : Nat} (h : a ≠ b) : regKey pg a ≠ regKey pg b := by unfold regKey; omega

/-- Registers of different pages are different keys. -/
theorem regKey_pg_ne {p q a b : Nat} (h : p ≠ q) (ha : a < 4096) (hb : b < 4096) : regKey p a ≠ regKey q b := by
  unfold regKey; omega

theorem regKey_inj {p q a b : Nat} (ha : a < 4096) (hb : b < 4096) : regKey p a = regKey q b ↔ p = q ∧ a = b := by
  unfold regKey; omega

end Sys2Proof.Machine
end

