-- ==== Sys2Proof/Laws/State.lean ====
section
/-! SUPPORT. One lemma per field of the tray per update: what an update of one field leaves of the others; and what each
field reads as after it. -/
namespace Sys2Proof.Machine

@[simp] theorem Tray.wr_chips (t : Tray) (pg off : Nat) (v : Word) : (t.wr pg off v).chips = t.chips := rfl
@[simp] theorem Tray.wr_ports (t : Tray) (pg off : Nat) (v : Word) : (t.wr pg off v).ports = t.ports := rfl
@[simp] theorem Tray.wr_lanes (t : Tray) (pg off : Nat) (v : Word) : (t.wr pg off v).lanes = t.lanes := rfl
@[simp] theorem Tray.wr_bays (t : Tray) (pg off : Nat) (v : Word) : (t.wr pg off v).bays = t.bays := rfl
@[simp] theorem Tray.wr_tables (t : Tray) (pg off : Nat) (v : Word) : (t.wr pg off v).tables = t.tables := rfl
@[simp] theorem Tray.wr_dealers (t : Tray) (pg off : Nat) (v : Word) : (t.wr pg off v).dealers = t.dealers := rfl
@[simp] theorem Tray.wr_mem (t : Tray) (pg off : Nat) (v : Word) : (t.wr pg off v).mem = t.mem := rfl
@[simp] theorem Tray.wr_nodes (t : Tray) (pg off : Nat) (v : Word) : (t.wr pg off v).nodes = t.nodes := rfl
@[simp] theorem Tray.wr_watches (t : Tray) (pg off : Nat) (v : Word) : (t.wr pg off v).watches = t.watches := rfl
@[simp] theorem Tray.wr_bar2 (t : Tray) (pg off : Nat) (v : Word) : (t.wr pg off v).bar2 = t.bar2 := rfl
@[simp] theorem Tray.wr_msiReq (t : Tray) (pg off : Nat) (v : Word) : (t.wr pg off v).msiReq = t.msiReq := rfl
@[simp] theorem Tray.wr_aer (t : Tray) (pg off : Nat) (v : Word) : (t.wr pg off v).aer = t.aer := rfl
@[simp] theorem Tray.wr_dirty (t : Tray) (pg off : Nat) (v : Word) : (t.wr pg off v).dirty = t.dirty := rfl
@[simp] theorem Tray.wr_master (t : Tray) (pg off : Nat) (v : Word) : (t.wr pg off v).master = t.master := rfl
@[simp] theorem Tray.wr_logq (t : Tray) (pg off : Nat) (v : Word) : (t.wr pg off v).logq = t.logq := rfl
@[simp] theorem Tray.wr_out (t : Tray) (pg off : Nat) (v : Word) : (t.wr pg off v).out = t.out := rfl
@[simp] theorem Tray.wr_hal (t : Tray) (pg off : Nat) (v : Word) : (t.wr pg off v).hal = t.hal := rfl
@[simp] theorem Tray.wr_hk (t : Tray) (pg off : Nat) (v : Word) : (t.wr pg off v).hk = t.hk := rfl
@[simp] theorem Tray.wr_fram (t : Tray) (pg off : Nat) (v : Word) : (t.wr pg off v).fram = t.fram := rfl
@[simp] theorem Tray.wr_zq (t : Tray) (pg off : Nat) (v : Word) : (t.wr pg off v).zq = t.zq := rfl
@[simp] theorem Tray.wr_act (t : Tray) (pg off : Nat) (v : Word) : (t.wr pg off v).act = t.act := rfl
@[simp] theorem Tray.wr_wipe (t : Tray) (pg off : Nat) (v : Word) : (t.wr pg off v).wipe = t.wipe := rfl
@[simp] theorem Tray.wr_freeCtr (t : Tray) (pg off : Nat) (v : Word) : (t.wr pg off v).freeCtr = t.freeCtr := rfl

@[simp] theorem Tray.sf_chips (t : Tray) (pg : Nat) (f : Fld) (v : Nat) : (t.sf pg f v).chips = t.chips := rfl
@[simp] theorem Tray.sf_ports (t : Tray) (pg : Nat) (f : Fld) (v : Nat) : (t.sf pg f v).ports = t.ports := rfl
@[simp] theorem Tray.sf_lanes (t : Tray) (pg : Nat) (f : Fld) (v : Nat) : (t.sf pg f v).lanes = t.lanes := rfl
@[simp] theorem Tray.sf_bays (t : Tray) (pg : Nat) (f : Fld) (v : Nat) : (t.sf pg f v).bays = t.bays := rfl
@[simp] theorem Tray.sf_tables (t : Tray) (pg : Nat) (f : Fld) (v : Nat) : (t.sf pg f v).tables = t.tables := rfl
@[simp] theorem Tray.sf_dealers (t : Tray) (pg : Nat) (f : Fld) (v : Nat) : (t.sf pg f v).dealers = t.dealers := rfl
@[simp] theorem Tray.sf_mem (t : Tray) (pg : Nat) (f : Fld) (v : Nat) : (t.sf pg f v).mem = t.mem := rfl
@[simp] theorem Tray.sf_nodes (t : Tray) (pg : Nat) (f : Fld) (v : Nat) : (t.sf pg f v).nodes = t.nodes := rfl
@[simp] theorem Tray.sf_watches (t : Tray) (pg : Nat) (f : Fld) (v : Nat) : (t.sf pg f v).watches = t.watches := rfl
@[simp] theorem Tray.sf_bar2 (t : Tray) (pg : Nat) (f : Fld) (v : Nat) : (t.sf pg f v).bar2 = t.bar2 := rfl
@[simp] theorem Tray.sf_msiReq (t : Tray) (pg : Nat) (f : Fld) (v : Nat) : (t.sf pg f v).msiReq = t.msiReq := rfl
@[simp] theorem Tray.sf_aer (t : Tray) (pg : Nat) (f : Fld) (v : Nat) : (t.sf pg f v).aer = t.aer := rfl
@[simp] theorem Tray.sf_dirty (t : Tray) (pg : Nat) (f : Fld) (v : Nat) : (t.sf pg f v).dirty = t.dirty := rfl
@[simp] theorem Tray.sf_master (t : Tray) (pg : Nat) (f : Fld) (v : Nat) : (t.sf pg f v).master = t.master := rfl
@[simp] theorem Tray.sf_logq (t : Tray) (pg : Nat) (f : Fld) (v : Nat) : (t.sf pg f v).logq = t.logq := rfl
@[simp] theorem Tray.sf_out (t : Tray) (pg : Nat) (f : Fld) (v : Nat) : (t.sf pg f v).out = t.out := rfl
@[simp] theorem Tray.sf_hal (t : Tray) (pg : Nat) (f : Fld) (v : Nat) : (t.sf pg f v).hal = t.hal := rfl
@[simp] theorem Tray.sf_hk (t : Tray) (pg : Nat) (f : Fld) (v : Nat) : (t.sf pg f v).hk = t.hk := rfl
@[simp] theorem Tray.sf_fram (t : Tray) (pg : Nat) (f : Fld) (v : Nat) : (t.sf pg f v).fram = t.fram := rfl
@[simp] theorem Tray.sf_zq (t : Tray) (pg : Nat) (f : Fld) (v : Nat) : (t.sf pg f v).zq = t.zq := rfl
@[simp] theorem Tray.sf_act (t : Tray) (pg : Nat) (f : Fld) (v : Nat) : (t.sf pg f v).act = t.act := rfl
@[simp] theorem Tray.sf_wipe (t : Tray) (pg : Nat) (f : Fld) (v : Nat) : (t.sf pg f v).wipe = t.wipe := rfl
@[simp] theorem Tray.sf_freeCtr (t : Tray) (pg : Nat) (f : Fld) (v : Nat) : (t.sf pg f v).freeCtr = t.freeCtr := rfl

@[simp] theorem Tray.sb_chips (t : Tray) (pg : Nat) (f : Fld) (b : Bool) : (t.sb pg f b).chips = t.chips := rfl
@[simp] theorem Tray.sb_ports (t : Tray) (pg : Nat) (f : Fld) (b : Bool) : (t.sb pg f b).ports = t.ports := rfl
@[simp] theorem Tray.sb_lanes (t : Tray) (pg : Nat) (f : Fld) (b : Bool) : (t.sb pg f b).lanes = t.lanes := rfl
@[simp] theorem Tray.sb_bays (t : Tray) (pg : Nat) (f : Fld) (b : Bool) : (t.sb pg f b).bays = t.bays := rfl
@[simp] theorem Tray.sb_tables (t : Tray) (pg : Nat) (f : Fld) (b : Bool) : (t.sb pg f b).tables = t.tables := rfl
@[simp] theorem Tray.sb_dealers (t : Tray) (pg : Nat) (f : Fld) (b : Bool) : (t.sb pg f b).dealers = t.dealers := rfl
@[simp] theorem Tray.sb_mem (t : Tray) (pg : Nat) (f : Fld) (b : Bool) : (t.sb pg f b).mem = t.mem := rfl
@[simp] theorem Tray.sb_nodes (t : Tray) (pg : Nat) (f : Fld) (b : Bool) : (t.sb pg f b).nodes = t.nodes := rfl
@[simp] theorem Tray.sb_watches (t : Tray) (pg : Nat) (f : Fld) (b : Bool) : (t.sb pg f b).watches = t.watches := rfl
@[simp] theorem Tray.sb_bar2 (t : Tray) (pg : Nat) (f : Fld) (b : Bool) : (t.sb pg f b).bar2 = t.bar2 := rfl
@[simp] theorem Tray.sb_msiReq (t : Tray) (pg : Nat) (f : Fld) (b : Bool) : (t.sb pg f b).msiReq = t.msiReq := rfl
@[simp] theorem Tray.sb_aer (t : Tray) (pg : Nat) (f : Fld) (b : Bool) : (t.sb pg f b).aer = t.aer := rfl
@[simp] theorem Tray.sb_dirty (t : Tray) (pg : Nat) (f : Fld) (b : Bool) : (t.sb pg f b).dirty = t.dirty := rfl
@[simp] theorem Tray.sb_master (t : Tray) (pg : Nat) (f : Fld) (b : Bool) : (t.sb pg f b).master = t.master := rfl
@[simp] theorem Tray.sb_logq (t : Tray) (pg : Nat) (f : Fld) (b : Bool) : (t.sb pg f b).logq = t.logq := rfl
@[simp] theorem Tray.sb_out (t : Tray) (pg : Nat) (f : Fld) (b : Bool) : (t.sb pg f b).out = t.out := rfl
@[simp] theorem Tray.sb_hal (t : Tray) (pg : Nat) (f : Fld) (b : Bool) : (t.sb pg f b).hal = t.hal := rfl
@[simp] theorem Tray.sb_hk (t : Tray) (pg : Nat) (f : Fld) (b : Bool) : (t.sb pg f b).hk = t.hk := rfl
@[simp] theorem Tray.sb_fram (t : Tray) (pg : Nat) (f : Fld) (b : Bool) : (t.sb pg f b).fram = t.fram := rfl
@[simp] theorem Tray.sb_zq (t : Tray) (pg : Nat) (f : Fld) (b : Bool) : (t.sb pg f b).zq = t.zq := rfl
@[simp] theorem Tray.sb_act (t : Tray) (pg : Nat) (f : Fld) (b : Bool) : (t.sb pg f b).act = t.act := rfl
@[simp] theorem Tray.sb_wipe (t : Tray) (pg : Nat) (f : Fld) (b : Bool) : (t.sb pg f b).wipe = t.wipe := rfl
@[simp] theorem Tray.sb_freeCtr (t : Tray) (pg : Nat) (f : Fld) (b : Bool) : (t.sb pg f b).freeCtr = t.freeCtr := rfl

@[simp] theorem Tray.cnt_chips (t : Tray) (pg : Nat) (f : Fld) (n : Nat) : (t.cnt pg f n).chips = t.chips := rfl
@[simp] theorem Tray.cnt_ports (t : Tray) (pg : Nat) (f : Fld) (n : Nat) : (t.cnt pg f n).ports = t.ports := rfl
@[simp] theorem Tray.cnt_lanes (t : Tray) (pg : Nat) (f : Fld) (n : Nat) : (t.cnt pg f n).lanes = t.lanes := rfl
@[simp] theorem Tray.cnt_bays (t : Tray) (pg : Nat) (f : Fld) (n : Nat) : (t.cnt pg f n).bays = t.bays := rfl
@[simp] theorem Tray.cnt_tables (t : Tray) (pg : Nat) (f : Fld) (n : Nat) : (t.cnt pg f n).tables = t.tables := rfl
@[simp] theorem Tray.cnt_dealers (t : Tray) (pg : Nat) (f : Fld) (n : Nat) : (t.cnt pg f n).dealers = t.dealers := rfl
@[simp] theorem Tray.cnt_mem (t : Tray) (pg : Nat) (f : Fld) (n : Nat) : (t.cnt pg f n).mem = t.mem := rfl
@[simp] theorem Tray.cnt_nodes (t : Tray) (pg : Nat) (f : Fld) (n : Nat) : (t.cnt pg f n).nodes = t.nodes := rfl
@[simp] theorem Tray.cnt_watches (t : Tray) (pg : Nat) (f : Fld) (n : Nat) : (t.cnt pg f n).watches = t.watches := rfl
@[simp] theorem Tray.cnt_bar2 (t : Tray) (pg : Nat) (f : Fld) (n : Nat) : (t.cnt pg f n).bar2 = t.bar2 := rfl
@[simp] theorem Tray.cnt_msiReq (t : Tray) (pg : Nat) (f : Fld) (n : Nat) : (t.cnt pg f n).msiReq = t.msiReq := rfl
@[simp] theorem Tray.cnt_aer (t : Tray) (pg : Nat) (f : Fld) (n : Nat) : (t.cnt pg f n).aer = t.aer := rfl
@[simp] theorem Tray.cnt_dirty (t : Tray) (pg : Nat) (f : Fld) (n : Nat) : (t.cnt pg f n).dirty = t.dirty := rfl
@[simp] theorem Tray.cnt_master (t : Tray) (pg : Nat) (f : Fld) (n : Nat) : (t.cnt pg f n).master = t.master := rfl
@[simp] theorem Tray.cnt_logq (t : Tray) (pg : Nat) (f : Fld) (n : Nat) : (t.cnt pg f n).logq = t.logq := rfl
@[simp] theorem Tray.cnt_out (t : Tray) (pg : Nat) (f : Fld) (n : Nat) : (t.cnt pg f n).out = t.out := rfl
@[simp] theorem Tray.cnt_hal (t : Tray) (pg : Nat) (f : Fld) (n : Nat) : (t.cnt pg f n).hal = t.hal := rfl
@[simp] theorem Tray.cnt_hk (t : Tray) (pg : Nat) (f : Fld) (n : Nat) : (t.cnt pg f n).hk = t.hk := rfl
@[simp] theorem Tray.cnt_fram (t : Tray) (pg : Nat) (f : Fld) (n : Nat) : (t.cnt pg f n).fram = t.fram := rfl
@[simp] theorem Tray.cnt_zq (t : Tray) (pg : Nat) (f : Fld) (n : Nat) : (t.cnt pg f n).zq = t.zq := rfl
@[simp] theorem Tray.cnt_act (t : Tray) (pg : Nat) (f : Fld) (n : Nat) : (t.cnt pg f n).act = t.act := rfl
@[simp] theorem Tray.cnt_wipe (t : Tray) (pg : Nat) (f : Fld) (n : Nat) : (t.cnt pg f n).wipe = t.wipe := rfl
@[simp] theorem Tray.cnt_freeCtr (t : Tray) (pg : Nat) (f : Fld) (n : Nat) : (t.cnt pg f n).freeCtr = t.freeCtr := rfl

@[simp] theorem Tray.sat_chips (t : Tray) (pg : Nat) (f : Fld) (n : Nat) : (t.sat pg f n).chips = t.chips := rfl
@[simp] theorem Tray.sat_ports (t : Tray) (pg : Nat) (f : Fld) (n : Nat) : (t.sat pg f n).ports = t.ports := rfl
@[simp] theorem Tray.sat_lanes (t : Tray) (pg : Nat) (f : Fld) (n : Nat) : (t.sat pg f n).lanes = t.lanes := rfl
@[simp] theorem Tray.sat_bays (t : Tray) (pg : Nat) (f : Fld) (n : Nat) : (t.sat pg f n).bays = t.bays := rfl
@[simp] theorem Tray.sat_tables (t : Tray) (pg : Nat) (f : Fld) (n : Nat) : (t.sat pg f n).tables = t.tables := rfl
@[simp] theorem Tray.sat_dealers (t : Tray) (pg : Nat) (f : Fld) (n : Nat) : (t.sat pg f n).dealers = t.dealers := rfl
@[simp] theorem Tray.sat_mem (t : Tray) (pg : Nat) (f : Fld) (n : Nat) : (t.sat pg f n).mem = t.mem := rfl
@[simp] theorem Tray.sat_nodes (t : Tray) (pg : Nat) (f : Fld) (n : Nat) : (t.sat pg f n).nodes = t.nodes := rfl
@[simp] theorem Tray.sat_watches (t : Tray) (pg : Nat) (f : Fld) (n : Nat) : (t.sat pg f n).watches = t.watches := rfl
@[simp] theorem Tray.sat_bar2 (t : Tray) (pg : Nat) (f : Fld) (n : Nat) : (t.sat pg f n).bar2 = t.bar2 := rfl
@[simp] theorem Tray.sat_msiReq (t : Tray) (pg : Nat) (f : Fld) (n : Nat) : (t.sat pg f n).msiReq = t.msiReq := rfl
@[simp] theorem Tray.sat_aer (t : Tray) (pg : Nat) (f : Fld) (n : Nat) : (t.sat pg f n).aer = t.aer := rfl
@[simp] theorem Tray.sat_dirty (t : Tray) (pg : Nat) (f : Fld) (n : Nat) : (t.sat pg f n).dirty = t.dirty := rfl
@[simp] theorem Tray.sat_master (t : Tray) (pg : Nat) (f : Fld) (n : Nat) : (t.sat pg f n).master = t.master := rfl
@[simp] theorem Tray.sat_logq (t : Tray) (pg : Nat) (f : Fld) (n : Nat) : (t.sat pg f n).logq = t.logq := rfl
@[simp] theorem Tray.sat_out (t : Tray) (pg : Nat) (f : Fld) (n : Nat) : (t.sat pg f n).out = t.out := rfl
@[simp] theorem Tray.sat_hal (t : Tray) (pg : Nat) (f : Fld) (n : Nat) : (t.sat pg f n).hal = t.hal := rfl
@[simp] theorem Tray.sat_hk (t : Tray) (pg : Nat) (f : Fld) (n : Nat) : (t.sat pg f n).hk = t.hk := rfl
@[simp] theorem Tray.sat_fram (t : Tray) (pg : Nat) (f : Fld) (n : Nat) : (t.sat pg f n).fram = t.fram := rfl
@[simp] theorem Tray.sat_zq (t : Tray) (pg : Nat) (f : Fld) (n : Nat) : (t.sat pg f n).zq = t.zq := rfl
@[simp] theorem Tray.sat_act (t : Tray) (pg : Nat) (f : Fld) (n : Nat) : (t.sat pg f n).act = t.act := rfl
@[simp] theorem Tray.sat_wipe (t : Tray) (pg : Nat) (f : Fld) (n : Nat) : (t.sat pg f n).wipe = t.wipe := rfl
@[simp] theorem Tray.sat_freeCtr (t : Tray) (pg : Nat) (f : Fld) (n : Nat) : (t.sat pg f n).freeCtr = t.freeCtr := rfl

@[simp] theorem Tray.sfBoth_chips (t : Tray) (pg : Nat) (f : Fld) (v : Nat) : (t.sfBoth pg f v).chips = t.chips := by simp [Tray.sfBoth]
@[simp] theorem Tray.sfBoth_ports (t : Tray) (pg : Nat) (f : Fld) (v : Nat) : (t.sfBoth pg f v).ports = t.ports := by simp [Tray.sfBoth]
@[simp] theorem Tray.sfBoth_lanes (t : Tray) (pg : Nat) (f : Fld) (v : Nat) : (t.sfBoth pg f v).lanes = t.lanes := by simp [Tray.sfBoth]
@[simp] theorem Tray.sfBoth_bays (t : Tray) (pg : Nat) (f : Fld) (v : Nat) : (t.sfBoth pg f v).bays = t.bays := by simp [Tray.sfBoth]
@[simp] theorem Tray.sfBoth_tables (t : Tray) (pg : Nat) (f : Fld) (v : Nat) : (t.sfBoth pg f v).tables = t.tables := by simp [Tray.sfBoth]
@[simp] theorem Tray.sfBoth_dealers (t : Tray) (pg : Nat) (f : Fld) (v : Nat) : (t.sfBoth pg f v).dealers = t.dealers := by simp [Tray.sfBoth]
@[simp] theorem Tray.sfBoth_mem (t : Tray) (pg : Nat) (f : Fld) (v : Nat) : (t.sfBoth pg f v).mem = t.mem := by simp [Tray.sfBoth]
@[simp] theorem Tray.sfBoth_nodes (t : Tray) (pg : Nat) (f : Fld) (v : Nat) : (t.sfBoth pg f v).nodes = t.nodes := by simp [Tray.sfBoth]
@[simp] theorem Tray.sfBoth_watches (t : Tray) (pg : Nat) (f : Fld) (v : Nat) : (t.sfBoth pg f v).watches = t.watches := by simp [Tray.sfBoth]
@[simp] theorem Tray.sfBoth_bar2 (t : Tray) (pg : Nat) (f : Fld) (v : Nat) : (t.sfBoth pg f v).bar2 = t.bar2 := by simp [Tray.sfBoth]
@[simp] theorem Tray.sfBoth_msiReq (t : Tray) (pg : Nat) (f : Fld) (v : Nat) : (t.sfBoth pg f v).msiReq = t.msiReq := by simp [Tray.sfBoth]
@[simp] theorem Tray.sfBoth_aer (t : Tray) (pg : Nat) (f : Fld) (v : Nat) : (t.sfBoth pg f v).aer = t.aer := by simp [Tray.sfBoth]
@[simp] theorem Tray.sfBoth_dirty (t : Tray) (pg : Nat) (f : Fld) (v : Nat) : (t.sfBoth pg f v).dirty = t.dirty := by simp [Tray.sfBoth]
@[simp] theorem Tray.sfBoth_master (t : Tray) (pg : Nat) (f : Fld) (v : Nat) : (t.sfBoth pg f v).master = t.master := by simp [Tray.sfBoth]
@[simp] theorem Tray.sfBoth_logq (t : Tray) (pg : Nat) (f : Fld) (v : Nat) : (t.sfBoth pg f v).logq = t.logq := by simp [Tray.sfBoth]
@[simp] theorem Tray.sfBoth_out (t : Tray) (pg : Nat) (f : Fld) (v : Nat) : (t.sfBoth pg f v).out = t.out := by simp [Tray.sfBoth]
@[simp] theorem Tray.sfBoth_hal (t : Tray) (pg : Nat) (f : Fld) (v : Nat) : (t.sfBoth pg f v).hal = t.hal := by simp [Tray.sfBoth]
@[simp] theorem Tray.sfBoth_hk (t : Tray) (pg : Nat) (f : Fld) (v : Nat) : (t.sfBoth pg f v).hk = t.hk := by simp [Tray.sfBoth]
@[simp] theorem Tray.sfBoth_fram (t : Tray) (pg : Nat) (f : Fld) (v : Nat) : (t.sfBoth pg f v).fram = t.fram := by simp [Tray.sfBoth]
@[simp] theorem Tray.sfBoth_zq (t : Tray) (pg : Nat) (f : Fld) (v : Nat) : (t.sfBoth pg f v).zq = t.zq := by simp [Tray.sfBoth]
@[simp] theorem Tray.sfBoth_act (t : Tray) (pg : Nat) (f : Fld) (v : Nat) : (t.sfBoth pg f v).act = t.act := by simp [Tray.sfBoth]
@[simp] theorem Tray.sfBoth_wipe (t : Tray) (pg : Nat) (f : Fld) (v : Nat) : (t.sfBoth pg f v).wipe = t.wipe := by simp [Tray.sfBoth]
@[simp] theorem Tray.sfBoth_freeCtr (t : Tray) (pg : Nat) (f : Fld) (v : Nat) : (t.sfBoth pg f v).freeCtr = t.freeCtr := by simp [Tray.sfBoth]

@[simp] theorem Tray.setChip_regs (t : Tray) (c : Nat) (x : ChipSt) : (t.setChip c x).regs = t.regs := rfl
@[simp] theorem Tray.setChip_ports (t : Tray) (c : Nat) (x : ChipSt) : (t.setChip c x).ports = t.ports := rfl
@[simp] theorem Tray.setChip_lanes (t : Tray) (c : Nat) (x : ChipSt) : (t.setChip c x).lanes = t.lanes := rfl
@[simp] theorem Tray.setChip_bays (t : Tray) (c : Nat) (x : ChipSt) : (t.setChip c x).bays = t.bays := rfl
@[simp] theorem Tray.setChip_tables (t : Tray) (c : Nat) (x : ChipSt) : (t.setChip c x).tables = t.tables := rfl
@[simp] theorem Tray.setChip_dealers (t : Tray) (c : Nat) (x : ChipSt) : (t.setChip c x).dealers = t.dealers := rfl
@[simp] theorem Tray.setChip_mem (t : Tray) (c : Nat) (x : ChipSt) : (t.setChip c x).mem = t.mem := rfl
@[simp] theorem Tray.setChip_nodes (t : Tray) (c : Nat) (x : ChipSt) : (t.setChip c x).nodes = t.nodes := rfl
@[simp] theorem Tray.setChip_watches (t : Tray) (c : Nat) (x : ChipSt) : (t.setChip c x).watches = t.watches := rfl
@[simp] theorem Tray.setChip_bar2 (t : Tray) (c : Nat) (x : ChipSt) : (t.setChip c x).bar2 = t.bar2 := rfl
@[simp] theorem Tray.setChip_msiReq (t : Tray) (c : Nat) (x : ChipSt) : (t.setChip c x).msiReq = t.msiReq := rfl
@[simp] theorem Tray.setChip_aer (t : Tray) (c : Nat) (x : ChipSt) : (t.setChip c x).aer = t.aer := rfl
@[simp] theorem Tray.setChip_dirty (t : Tray) (c : Nat) (x : ChipSt) : (t.setChip c x).dirty = t.dirty := rfl
@[simp] theorem Tray.setChip_master (t : Tray) (c : Nat) (x : ChipSt) : (t.setChip c x).master = t.master := rfl
@[simp] theorem Tray.setChip_logq (t : Tray) (c : Nat) (x : ChipSt) : (t.setChip c x).logq = t.logq := rfl
@[simp] theorem Tray.setChip_out (t : Tray) (c : Nat) (x : ChipSt) : (t.setChip c x).out = t.out := rfl
@[simp] theorem Tray.setChip_hal (t : Tray) (c : Nat) (x : ChipSt) : (t.setChip c x).hal = t.hal := rfl
@[simp] theorem Tray.setChip_hk (t : Tray) (c : Nat) (x : ChipSt) : (t.setChip c x).hk = t.hk := rfl
@[simp] theorem Tray.setChip_fram (t : Tray) (c : Nat) (x : ChipSt) : (t.setChip c x).fram = t.fram := rfl
@[simp] theorem Tray.setChip_zq (t : Tray) (c : Nat) (x : ChipSt) : (t.setChip c x).zq = t.zq := rfl
@[simp] theorem Tray.setChip_act (t : Tray) (c : Nat) (x : ChipSt) : (t.setChip c x).act = t.act := rfl
@[simp] theorem Tray.setChip_wipe (t : Tray) (c : Nat) (x : ChipSt) : (t.setChip c x).wipe = t.wipe := rfl
@[simp] theorem Tray.setChip_freeCtr (t : Tray) (c : Nat) (x : ChipSt) : (t.setChip c x).freeCtr = t.freeCtr := rfl

@[simp] theorem Tray.modChip_regs (t : Tray) (c : Nat) (f : ChipSt → ChipSt) : (t.modChip c f).regs = t.regs := rfl
@[simp] theorem Tray.modChip_ports (t : Tray) (c : Nat) (f : ChipSt → ChipSt) : (t.modChip c f).ports = t.ports := rfl
@[simp] theorem Tray.modChip_lanes (t : Tray) (c : Nat) (f : ChipSt → ChipSt) : (t.modChip c f).lanes = t.lanes := rfl
@[simp] theorem Tray.modChip_bays (t : Tray) (c : Nat) (f : ChipSt → ChipSt) : (t.modChip c f).bays = t.bays := rfl
@[simp] theorem Tray.modChip_tables (t : Tray) (c : Nat) (f : ChipSt → ChipSt) : (t.modChip c f).tables = t.tables := rfl
@[simp] theorem Tray.modChip_dealers (t : Tray) (c : Nat) (f : ChipSt → ChipSt) : (t.modChip c f).dealers = t.dealers := rfl
@[simp] theorem Tray.modChip_mem (t : Tray) (c : Nat) (f : ChipSt → ChipSt) : (t.modChip c f).mem = t.mem := rfl
@[simp] theorem Tray.modChip_nodes (t : Tray) (c : Nat) (f : ChipSt → ChipSt) : (t.modChip c f).nodes = t.nodes := rfl
@[simp] theorem Tray.modChip_watches (t : Tray) (c : Nat) (f : ChipSt → ChipSt) : (t.modChip c f).watches = t.watches := rfl
@[simp] theorem Tray.modChip_bar2 (t : Tray) (c : Nat) (f : ChipSt → ChipSt) : (t.modChip c f).bar2 = t.bar2 := rfl
@[simp] theorem Tray.modChip_msiReq (t : Tray) (c : Nat) (f : ChipSt → ChipSt) : (t.modChip c f).msiReq = t.msiReq := rfl
@[simp] theorem Tray.modChip_aer (t : Tray) (c : Nat) (f : ChipSt → ChipSt) : (t.modChip c f).aer = t.aer := rfl
@[simp] theorem Tray.modChip_dirty (t : Tray) (c : Nat) (f : ChipSt → ChipSt) : (t.modChip c f).dirty = t.dirty := rfl
@[simp] theorem Tray.modChip_master (t : Tray) (c : Nat) (f : ChipSt → ChipSt) : (t.modChip c f).master = t.master := rfl
@[simp] theorem Tray.modChip_logq (t : Tray) (c : Nat) (f : ChipSt → ChipSt) : (t.modChip c f).logq = t.logq := rfl
@[simp] theorem Tray.modChip_out (t : Tray) (c : Nat) (f : ChipSt → ChipSt) : (t.modChip c f).out = t.out := rfl
@[simp] theorem Tray.modChip_hal (t : Tray) (c : Nat) (f : ChipSt → ChipSt) : (t.modChip c f).hal = t.hal := rfl
@[simp] theorem Tray.modChip_hk (t : Tray) (c : Nat) (f : ChipSt → ChipSt) : (t.modChip c f).hk = t.hk := rfl
@[simp] theorem Tray.modChip_fram (t : Tray) (c : Nat) (f : ChipSt → ChipSt) : (t.modChip c f).fram = t.fram := rfl
@[simp] theorem Tray.modChip_zq (t : Tray) (c : Nat) (f : ChipSt → ChipSt) : (t.modChip c f).zq = t.zq := rfl
@[simp] theorem Tray.modChip_act (t : Tray) (c : Nat) (f : ChipSt → ChipSt) : (t.modChip c f).act = t.act := rfl
@[simp] theorem Tray.modChip_wipe (t : Tray) (c : Nat) (f : ChipSt → ChipSt) : (t.modChip c f).wipe = t.wipe := rfl
@[simp] theorem Tray.modChip_freeCtr (t : Tray) (c : Nat) (f : ChipSt → ChipSt) : (t.modChip c f).freeCtr = t.freeCtr := rfl

@[simp] theorem Tray.setPort_regs (t : Tray) (c e : Nat) (x : PortSt) : (t.setPort c e x).regs = t.regs := rfl
@[simp] theorem Tray.setPort_chips (t : Tray) (c e : Nat) (x : PortSt) : (t.setPort c e x).chips = t.chips := rfl
@[simp] theorem Tray.setPort_lanes (t : Tray) (c e : Nat) (x : PortSt) : (t.setPort c e x).lanes = t.lanes := rfl
@[simp] theorem Tray.setPort_bays (t : Tray) (c e : Nat) (x : PortSt) : (t.setPort c e x).bays = t.bays := rfl
@[simp] theorem Tray.setPort_tables (t : Tray) (c e : Nat) (x : PortSt) : (t.setPort c e x).tables = t.tables := rfl
@[simp] theorem Tray.setPort_dealers (t : Tray) (c e : Nat) (x : PortSt) : (t.setPort c e x).dealers = t.dealers := rfl
@[simp] theorem Tray.setPort_mem (t : Tray) (c e : Nat) (x : PortSt) : (t.setPort c e x).mem = t.mem := rfl
@[simp] theorem Tray.setPort_nodes (t : Tray) (c e : Nat) (x : PortSt) : (t.setPort c e x).nodes = t.nodes := rfl
@[simp] theorem Tray.setPort_watches (t : Tray) (c e : Nat) (x : PortSt) : (t.setPort c e x).watches = t.watches := rfl
@[simp] theorem Tray.setPort_bar2 (t : Tray) (c e : Nat) (x : PortSt) : (t.setPort c e x).bar2 = t.bar2 := rfl
@[simp] theorem Tray.setPort_msiReq (t : Tray) (c e : Nat) (x : PortSt) : (t.setPort c e x).msiReq = t.msiReq := rfl
@[simp] theorem Tray.setPort_aer (t : Tray) (c e : Nat) (x : PortSt) : (t.setPort c e x).aer = t.aer := rfl
@[simp] theorem Tray.setPort_dirty (t : Tray) (c e : Nat) (x : PortSt) : (t.setPort c e x).dirty = t.dirty := rfl
@[simp] theorem Tray.setPort_master (t : Tray) (c e : Nat) (x : PortSt) : (t.setPort c e x).master = t.master := rfl
@[simp] theorem Tray.setPort_logq (t : Tray) (c e : Nat) (x : PortSt) : (t.setPort c e x).logq = t.logq := rfl
@[simp] theorem Tray.setPort_out (t : Tray) (c e : Nat) (x : PortSt) : (t.setPort c e x).out = t.out := rfl
@[simp] theorem Tray.setPort_hal (t : Tray) (c e : Nat) (x : PortSt) : (t.setPort c e x).hal = t.hal := rfl
@[simp] theorem Tray.setPort_hk (t : Tray) (c e : Nat) (x : PortSt) : (t.setPort c e x).hk = t.hk := rfl
@[simp] theorem Tray.setPort_fram (t : Tray) (c e : Nat) (x : PortSt) : (t.setPort c e x).fram = t.fram := rfl
@[simp] theorem Tray.setPort_zq (t : Tray) (c e : Nat) (x : PortSt) : (t.setPort c e x).zq = t.zq := rfl
@[simp] theorem Tray.setPort_act (t : Tray) (c e : Nat) (x : PortSt) : (t.setPort c e x).act = t.act := rfl
@[simp] theorem Tray.setPort_wipe (t : Tray) (c e : Nat) (x : PortSt) : (t.setPort c e x).wipe = t.wipe := rfl
@[simp] theorem Tray.setPort_freeCtr (t : Tray) (c e : Nat) (x : PortSt) : (t.setPort c e x).freeCtr = t.freeCtr := rfl

@[simp] theorem Tray.modPort_regs (t : Tray) (c e : Nat) (f : PortSt → PortSt) : (t.modPort c e f).regs = t.regs := rfl
@[simp] theorem Tray.modPort_chips (t : Tray) (c e : Nat) (f : PortSt → PortSt) : (t.modPort c e f).chips = t.chips := rfl
@[simp] theorem Tray.modPort_lanes (t : Tray) (c e : Nat) (f : PortSt → PortSt) : (t.modPort c e f).lanes = t.lanes := rfl
@[simp] theorem Tray.modPort_bays (t : Tray) (c e : Nat) (f : PortSt → PortSt) : (t.modPort c e f).bays = t.bays := rfl
@[simp] theorem Tray.modPort_tables (t : Tray) (c e : Nat) (f : PortSt → PortSt) : (t.modPort c e f).tables = t.tables := rfl
@[simp] theorem Tray.modPort_dealers (t : Tray) (c e : Nat) (f : PortSt → PortSt) : (t.modPort c e f).dealers = t.dealers := rfl
@[simp] theorem Tray.modPort_mem (t : Tray) (c e : Nat) (f : PortSt → PortSt) : (t.modPort c e f).mem = t.mem := rfl
@[simp] theorem Tray.modPort_nodes (t : Tray) (c e : Nat) (f : PortSt → PortSt) : (t.modPort c e f).nodes = t.nodes := rfl
@[simp] theorem Tray.modPort_watches (t : Tray) (c e : Nat) (f : PortSt → PortSt) : (t.modPort c e f).watches = t.watches := rfl
@[simp] theorem Tray.modPort_bar2 (t : Tray) (c e : Nat) (f : PortSt → PortSt) : (t.modPort c e f).bar2 = t.bar2 := rfl
@[simp] theorem Tray.modPort_msiReq (t : Tray) (c e : Nat) (f : PortSt → PortSt) : (t.modPort c e f).msiReq = t.msiReq := rfl
@[simp] theorem Tray.modPort_aer (t : Tray) (c e : Nat) (f : PortSt → PortSt) : (t.modPort c e f).aer = t.aer := rfl
@[simp] theorem Tray.modPort_dirty (t : Tray) (c e : Nat) (f : PortSt → PortSt) : (t.modPort c e f).dirty = t.dirty := rfl
@[simp] theorem Tray.modPort_master (t : Tray) (c e : Nat) (f : PortSt → PortSt) : (t.modPort c e f).master = t.master := rfl
@[simp] theorem Tray.modPort_logq (t : Tray) (c e : Nat) (f : PortSt → PortSt) : (t.modPort c e f).logq = t.logq := rfl
@[simp] theorem Tray.modPort_out (t : Tray) (c e : Nat) (f : PortSt → PortSt) : (t.modPort c e f).out = t.out := rfl
@[simp] theorem Tray.modPort_hal (t : Tray) (c e : Nat) (f : PortSt → PortSt) : (t.modPort c e f).hal = t.hal := rfl
@[simp] theorem Tray.modPort_hk (t : Tray) (c e : Nat) (f : PortSt → PortSt) : (t.modPort c e f).hk = t.hk := rfl
@[simp] theorem Tray.modPort_fram (t : Tray) (c e : Nat) (f : PortSt → PortSt) : (t.modPort c e f).fram = t.fram := rfl
@[simp] theorem Tray.modPort_zq (t : Tray) (c e : Nat) (f : PortSt → PortSt) : (t.modPort c e f).zq = t.zq := rfl
@[simp] theorem Tray.modPort_act (t : Tray) (c e : Nat) (f : PortSt → PortSt) : (t.modPort c e f).act = t.act := rfl
@[simp] theorem Tray.modPort_wipe (t : Tray) (c e : Nat) (f : PortSt → PortSt) : (t.modPort c e f).wipe = t.wipe := rfl
@[simp] theorem Tray.modPort_freeCtr (t : Tray) (c e : Nat) (f : PortSt → PortSt) : (t.modPort c e f).freeCtr = t.freeCtr := rfl

@[simp] theorem Tray.setLane_regs (t : Tray) (c n : Nat) (x : LaneSt) : (t.setLane c n x).regs = t.regs := rfl
@[simp] theorem Tray.setLane_chips (t : Tray) (c n : Nat) (x : LaneSt) : (t.setLane c n x).chips = t.chips := rfl
@[simp] theorem Tray.setLane_ports (t : Tray) (c n : Nat) (x : LaneSt) : (t.setLane c n x).ports = t.ports := rfl
@[simp] theorem Tray.setLane_bays (t : Tray) (c n : Nat) (x : LaneSt) : (t.setLane c n x).bays = t.bays := rfl
@[simp] theorem Tray.setLane_tables (t : Tray) (c n : Nat) (x : LaneSt) : (t.setLane c n x).tables = t.tables := rfl
@[simp] theorem Tray.setLane_dealers (t : Tray) (c n : Nat) (x : LaneSt) : (t.setLane c n x).dealers = t.dealers := rfl
@[simp] theorem Tray.setLane_mem (t : Tray) (c n : Nat) (x : LaneSt) : (t.setLane c n x).mem = t.mem := rfl
@[simp] theorem Tray.setLane_nodes (t : Tray) (c n : Nat) (x : LaneSt) : (t.setLane c n x).nodes = t.nodes := rfl
@[simp] theorem Tray.setLane_watches (t : Tray) (c n : Nat) (x : LaneSt) : (t.setLane c n x).watches = t.watches := rfl
@[simp] theorem Tray.setLane_bar2 (t : Tray) (c n : Nat) (x : LaneSt) : (t.setLane c n x).bar2 = t.bar2 := rfl
@[simp] theorem Tray.setLane_msiReq (t : Tray) (c n : Nat) (x : LaneSt) : (t.setLane c n x).msiReq = t.msiReq := rfl
@[simp] theorem Tray.setLane_aer (t : Tray) (c n : Nat) (x : LaneSt) : (t.setLane c n x).aer = t.aer := rfl
@[simp] theorem Tray.setLane_dirty (t : Tray) (c n : Nat) (x : LaneSt) : (t.setLane c n x).dirty = t.dirty := rfl
@[simp] theorem Tray.setLane_master (t : Tray) (c n : Nat) (x : LaneSt) : (t.setLane c n x).master = t.master := rfl
@[simp] theorem Tray.setLane_logq (t : Tray) (c n : Nat) (x : LaneSt) : (t.setLane c n x).logq = t.logq := rfl
@[simp] theorem Tray.setLane_out (t : Tray) (c n : Nat) (x : LaneSt) : (t.setLane c n x).out = t.out := rfl
@[simp] theorem Tray.setLane_hal (t : Tray) (c n : Nat) (x : LaneSt) : (t.setLane c n x).hal = t.hal := rfl
@[simp] theorem Tray.setLane_hk (t : Tray) (c n : Nat) (x : LaneSt) : (t.setLane c n x).hk = t.hk := rfl
@[simp] theorem Tray.setLane_fram (t : Tray) (c n : Nat) (x : LaneSt) : (t.setLane c n x).fram = t.fram := rfl
@[simp] theorem Tray.setLane_zq (t : Tray) (c n : Nat) (x : LaneSt) : (t.setLane c n x).zq = t.zq := rfl
@[simp] theorem Tray.setLane_act (t : Tray) (c n : Nat) (x : LaneSt) : (t.setLane c n x).act = t.act := rfl
@[simp] theorem Tray.setLane_wipe (t : Tray) (c n : Nat) (x : LaneSt) : (t.setLane c n x).wipe = t.wipe := rfl
@[simp] theorem Tray.setLane_freeCtr (t : Tray) (c n : Nat) (x : LaneSt) : (t.setLane c n x).freeCtr = t.freeCtr := rfl

@[simp] theorem Tray.modLane_regs (t : Tray) (c n : Nat) (f : LaneSt → LaneSt) : (t.modLane c n f).regs = t.regs := rfl
@[simp] theorem Tray.modLane_chips (t : Tray) (c n : Nat) (f : LaneSt → LaneSt) : (t.modLane c n f).chips = t.chips := rfl
@[simp] theorem Tray.modLane_ports (t : Tray) (c n : Nat) (f : LaneSt → LaneSt) : (t.modLane c n f).ports = t.ports := rfl
@[simp] theorem Tray.modLane_bays (t : Tray) (c n : Nat) (f : LaneSt → LaneSt) : (t.modLane c n f).bays = t.bays := rfl
@[simp] theorem Tray.modLane_tables (t : Tray) (c n : Nat) (f : LaneSt → LaneSt) : (t.modLane c n f).tables = t.tables := rfl
@[simp] theorem Tray.modLane_dealers (t : Tray) (c n : Nat) (f : LaneSt → LaneSt) : (t.modLane c n f).dealers = t.dealers := rfl
@[simp] theorem Tray.modLane_mem (t : Tray) (c n : Nat) (f : LaneSt → LaneSt) : (t.modLane c n f).mem = t.mem := rfl
@[simp] theorem Tray.modLane_nodes (t : Tray) (c n : Nat) (f : LaneSt → LaneSt) : (t.modLane c n f).nodes = t.nodes := rfl
@[simp] theorem Tray.modLane_watches (t : Tray) (c n : Nat) (f : LaneSt → LaneSt) : (t.modLane c n f).watches = t.watches := rfl
@[simp] theorem Tray.modLane_bar2 (t : Tray) (c n : Nat) (f : LaneSt → LaneSt) : (t.modLane c n f).bar2 = t.bar2 := rfl
@[simp] theorem Tray.modLane_msiReq (t : Tray) (c n : Nat) (f : LaneSt → LaneSt) : (t.modLane c n f).msiReq = t.msiReq := rfl
@[simp] theorem Tray.modLane_aer (t : Tray) (c n : Nat) (f : LaneSt → LaneSt) : (t.modLane c n f).aer = t.aer := rfl
@[simp] theorem Tray.modLane_dirty (t : Tray) (c n : Nat) (f : LaneSt → LaneSt) : (t.modLane c n f).dirty = t.dirty := rfl
@[simp] theorem Tray.modLane_master (t : Tray) (c n : Nat) (f : LaneSt → LaneSt) : (t.modLane c n f).master = t.master := rfl
@[simp] theorem Tray.modLane_logq (t : Tray) (c n : Nat) (f : LaneSt → LaneSt) : (t.modLane c n f).logq = t.logq := rfl
@[simp] theorem Tray.modLane_out (t : Tray) (c n : Nat) (f : LaneSt → LaneSt) : (t.modLane c n f).out = t.out := rfl
@[simp] theorem Tray.modLane_hal (t : Tray) (c n : Nat) (f : LaneSt → LaneSt) : (t.modLane c n f).hal = t.hal := rfl
@[simp] theorem Tray.modLane_hk (t : Tray) (c n : Nat) (f : LaneSt → LaneSt) : (t.modLane c n f).hk = t.hk := rfl
@[simp] theorem Tray.modLane_fram (t : Tray) (c n : Nat) (f : LaneSt → LaneSt) : (t.modLane c n f).fram = t.fram := rfl
@[simp] theorem Tray.modLane_zq (t : Tray) (c n : Nat) (f : LaneSt → LaneSt) : (t.modLane c n f).zq = t.zq := rfl
@[simp] theorem Tray.modLane_act (t : Tray) (c n : Nat) (f : LaneSt → LaneSt) : (t.modLane c n f).act = t.act := rfl
@[simp] theorem Tray.modLane_wipe (t : Tray) (c n : Nat) (f : LaneSt → LaneSt) : (t.modLane c n f).wipe = t.wipe := rfl
@[simp] theorem Tray.modLane_freeCtr (t : Tray) (c n : Nat) (f : LaneSt → LaneSt) : (t.modLane c n f).freeCtr = t.freeCtr := rfl

@[simp] theorem Tray.modBay_regs (t : Tray) (b : Nat) (f : BaySt → BaySt) : (t.modBay b f).regs = t.regs := rfl
@[simp] theorem Tray.modBay_chips (t : Tray) (b : Nat) (f : BaySt → BaySt) : (t.modBay b f).chips = t.chips := rfl
@[simp] theorem Tray.modBay_ports (t : Tray) (b : Nat) (f : BaySt → BaySt) : (t.modBay b f).ports = t.ports := rfl
@[simp] theorem Tray.modBay_lanes (t : Tray) (b : Nat) (f : BaySt → BaySt) : (t.modBay b f).lanes = t.lanes := rfl
@[simp] theorem Tray.modBay_tables (t : Tray) (b : Nat) (f : BaySt → BaySt) : (t.modBay b f).tables = t.tables := rfl
@[simp] theorem Tray.modBay_dealers (t : Tray) (b : Nat) (f : BaySt → BaySt) : (t.modBay b f).dealers = t.dealers := rfl
@[simp] theorem Tray.modBay_mem (t : Tray) (b : Nat) (f : BaySt → BaySt) : (t.modBay b f).mem = t.mem := rfl
@[simp] theorem Tray.modBay_nodes (t : Tray) (b : Nat) (f : BaySt → BaySt) : (t.modBay b f).nodes = t.nodes := rfl
@[simp] theorem Tray.modBay_watches (t : Tray) (b : Nat) (f : BaySt → BaySt) : (t.modBay b f).watches = t.watches := rfl
@[simp] theorem Tray.modBay_bar2 (t : Tray) (b : Nat) (f : BaySt → BaySt) : (t.modBay b f).bar2 = t.bar2 := rfl
@[simp] theorem Tray.modBay_msiReq (t : Tray) (b : Nat) (f : BaySt → BaySt) : (t.modBay b f).msiReq = t.msiReq := rfl
@[simp] theorem Tray.modBay_aer (t : Tray) (b : Nat) (f : BaySt → BaySt) : (t.modBay b f).aer = t.aer := rfl
@[simp] theorem Tray.modBay_dirty (t : Tray) (b : Nat) (f : BaySt → BaySt) : (t.modBay b f).dirty = t.dirty := rfl
@[simp] theorem Tray.modBay_master (t : Tray) (b : Nat) (f : BaySt → BaySt) : (t.modBay b f).master = t.master := rfl
@[simp] theorem Tray.modBay_logq (t : Tray) (b : Nat) (f : BaySt → BaySt) : (t.modBay b f).logq = t.logq := rfl
@[simp] theorem Tray.modBay_out (t : Tray) (b : Nat) (f : BaySt → BaySt) : (t.modBay b f).out = t.out := rfl
@[simp] theorem Tray.modBay_hal (t : Tray) (b : Nat) (f : BaySt → BaySt) : (t.modBay b f).hal = t.hal := rfl
@[simp] theorem Tray.modBay_hk (t : Tray) (b : Nat) (f : BaySt → BaySt) : (t.modBay b f).hk = t.hk := rfl
@[simp] theorem Tray.modBay_fram (t : Tray) (b : Nat) (f : BaySt → BaySt) : (t.modBay b f).fram = t.fram := rfl
@[simp] theorem Tray.modBay_zq (t : Tray) (b : Nat) (f : BaySt → BaySt) : (t.modBay b f).zq = t.zq := rfl
@[simp] theorem Tray.modBay_act (t : Tray) (b : Nat) (f : BaySt → BaySt) : (t.modBay b f).act = t.act := rfl
@[simp] theorem Tray.modBay_wipe (t : Tray) (b : Nat) (f : BaySt → BaySt) : (t.modBay b f).wipe = t.wipe := rfl
@[simp] theorem Tray.modBay_freeCtr (t : Tray) (b : Nat) (f : BaySt → BaySt) : (t.modBay b f).freeCtr = t.freeCtr := rfl

@[simp] theorem Tray.setTable_regs (t : Tray) (c tb : Nat) (x : TableSt) : (t.setTable c tb x).regs = t.regs := rfl
@[simp] theorem Tray.setTable_chips (t : Tray) (c tb : Nat) (x : TableSt) : (t.setTable c tb x).chips = t.chips := rfl
@[simp] theorem Tray.setTable_ports (t : Tray) (c tb : Nat) (x : TableSt) : (t.setTable c tb x).ports = t.ports := rfl
@[simp] theorem Tray.setTable_lanes (t : Tray) (c tb : Nat) (x : TableSt) : (t.setTable c tb x).lanes = t.lanes := rfl
@[simp] theorem Tray.setTable_bays (t : Tray) (c tb : Nat) (x : TableSt) : (t.setTable c tb x).bays = t.bays := rfl
@[simp] theorem Tray.setTable_dealers (t : Tray) (c tb : Nat) (x : TableSt) : (t.setTable c tb x).dealers = t.dealers := rfl
@[simp] theorem Tray.setTable_mem (t : Tray) (c tb : Nat) (x : TableSt) : (t.setTable c tb x).mem = t.mem := rfl
@[simp] theorem Tray.setTable_nodes (t : Tray) (c tb : Nat) (x : TableSt) : (t.setTable c tb x).nodes = t.nodes := rfl
@[simp] theorem Tray.setTable_watches (t : Tray) (c tb : Nat) (x : TableSt) : (t.setTable c tb x).watches = t.watches := rfl
@[simp] theorem Tray.setTable_bar2 (t : Tray) (c tb : Nat) (x : TableSt) : (t.setTable c tb x).bar2 = t.bar2 := rfl
@[simp] theorem Tray.setTable_msiReq (t : Tray) (c tb : Nat) (x : TableSt) : (t.setTable c tb x).msiReq = t.msiReq := rfl
@[simp] theorem Tray.setTable_aer (t : Tray) (c tb : Nat) (x : TableSt) : (t.setTable c tb x).aer = t.aer := rfl
@[simp] theorem Tray.setTable_dirty (t : Tray) (c tb : Nat) (x : TableSt) : (t.setTable c tb x).dirty = t.dirty := rfl
@[simp] theorem Tray.setTable_master (t : Tray) (c tb : Nat) (x : TableSt) : (t.setTable c tb x).master = t.master := rfl
@[simp] theorem Tray.setTable_logq (t : Tray) (c tb : Nat) (x : TableSt) : (t.setTable c tb x).logq = t.logq := rfl
@[simp] theorem Tray.setTable_out (t : Tray) (c tb : Nat) (x : TableSt) : (t.setTable c tb x).out = t.out := rfl
@[simp] theorem Tray.setTable_hal (t : Tray) (c tb : Nat) (x : TableSt) : (t.setTable c tb x).hal = t.hal := rfl
@[simp] theorem Tray.setTable_hk (t : Tray) (c tb : Nat) (x : TableSt) : (t.setTable c tb x).hk = t.hk := rfl
@[simp] theorem Tray.setTable_fram (t : Tray) (c tb : Nat) (x : TableSt) : (t.setTable c tb x).fram = t.fram := rfl
@[simp] theorem Tray.setTable_zq (t : Tray) (c tb : Nat) (x : TableSt) : (t.setTable c tb x).zq = t.zq := rfl
@[simp] theorem Tray.setTable_act (t : Tray) (c tb : Nat) (x : TableSt) : (t.setTable c tb x).act = t.act := rfl
@[simp] theorem Tray.setTable_wipe (t : Tray) (c tb : Nat) (x : TableSt) : (t.setTable c tb x).wipe = t.wipe := rfl
@[simp] theorem Tray.setTable_freeCtr (t : Tray) (c tb : Nat) (x : TableSt) : (t.setTable c tb x).freeCtr = t.freeCtr := rfl

@[simp] theorem Tray.modTable_regs (t : Tray) (c tb : Nat) (f : TableSt → TableSt) : (t.modTable c tb f).regs = t.regs := rfl
@[simp] theorem Tray.modTable_chips (t : Tray) (c tb : Nat) (f : TableSt → TableSt) : (t.modTable c tb f).chips = t.chips := rfl
@[simp] theorem Tray.modTable_ports (t : Tray) (c tb : Nat) (f : TableSt → TableSt) : (t.modTable c tb f).ports = t.ports := rfl
@[simp] theorem Tray.modTable_lanes (t : Tray) (c tb : Nat) (f : TableSt → TableSt) : (t.modTable c tb f).lanes = t.lanes := rfl
@[simp] theorem Tray.modTable_bays (t : Tray) (c tb : Nat) (f : TableSt → TableSt) : (t.modTable c tb f).bays = t.bays := rfl
@[simp] theorem Tray.modTable_dealers (t : Tray) (c tb : Nat) (f : TableSt → TableSt) : (t.modTable c tb f).dealers = t.dealers := rfl
@[simp] theorem Tray.modTable_mem (t : Tray) (c tb : Nat) (f : TableSt → TableSt) : (t.modTable c tb f).mem = t.mem := rfl
@[simp] theorem Tray.modTable_nodes (t : Tray) (c tb : Nat) (f : TableSt → TableSt) : (t.modTable c tb f).nodes = t.nodes := rfl
@[simp] theorem Tray.modTable_watches (t : Tray) (c tb : Nat) (f : TableSt → TableSt) : (t.modTable c tb f).watches = t.watches := rfl
@[simp] theorem Tray.modTable_bar2 (t : Tray) (c tb : Nat) (f : TableSt → TableSt) : (t.modTable c tb f).bar2 = t.bar2 := rfl
@[simp] theorem Tray.modTable_msiReq (t : Tray) (c tb : Nat) (f : TableSt → TableSt) : (t.modTable c tb f).msiReq = t.msiReq := rfl
@[simp] theorem Tray.modTable_aer (t : Tray) (c tb : Nat) (f : TableSt → TableSt) : (t.modTable c tb f).aer = t.aer := rfl
@[simp] theorem Tray.modTable_dirty (t : Tray) (c tb : Nat) (f : TableSt → TableSt) : (t.modTable c tb f).dirty = t.dirty := rfl
@[simp] theorem Tray.modTable_master (t : Tray) (c tb : Nat) (f : TableSt → TableSt) : (t.modTable c tb f).master = t.master := rfl
@[simp] theorem Tray.modTable_logq (t : Tray) (c tb : Nat) (f : TableSt → TableSt) : (t.modTable c tb f).logq = t.logq := rfl
@[simp] theorem Tray.modTable_out (t : Tray) (c tb : Nat) (f : TableSt → TableSt) : (t.modTable c tb f).out = t.out := rfl
@[simp] theorem Tray.modTable_hal (t : Tray) (c tb : Nat) (f : TableSt → TableSt) : (t.modTable c tb f).hal = t.hal := rfl
@[simp] theorem Tray.modTable_hk (t : Tray) (c tb : Nat) (f : TableSt → TableSt) : (t.modTable c tb f).hk = t.hk := rfl
@[simp] theorem Tray.modTable_fram (t : Tray) (c tb : Nat) (f : TableSt → TableSt) : (t.modTable c tb f).fram = t.fram := rfl
@[simp] theorem Tray.modTable_zq (t : Tray) (c tb : Nat) (f : TableSt → TableSt) : (t.modTable c tb f).zq = t.zq := rfl
@[simp] theorem Tray.modTable_act (t : Tray) (c tb : Nat) (f : TableSt → TableSt) : (t.modTable c tb f).act = t.act := rfl
@[simp] theorem Tray.modTable_wipe (t : Tray) (c tb : Nat) (f : TableSt → TableSt) : (t.modTable c tb f).wipe = t.wipe := rfl
@[simp] theorem Tray.modTable_freeCtr (t : Tray) (c tb : Nat) (f : TableSt → TableSt) : (t.modTable c tb f).freeCtr = t.freeCtr := rfl

@[simp] theorem Tray.modDealer_regs (t : Tray) (c : Nat) (f : DealerSt → DealerSt) : (t.modDealer c f).regs = t.regs := rfl
@[simp] theorem Tray.modDealer_chips (t : Tray) (c : Nat) (f : DealerSt → DealerSt) : (t.modDealer c f).chips = t.chips := rfl
@[simp] theorem Tray.modDealer_ports (t : Tray) (c : Nat) (f : DealerSt → DealerSt) : (t.modDealer c f).ports = t.ports := rfl
@[simp] theorem Tray.modDealer_lanes (t : Tray) (c : Nat) (f : DealerSt → DealerSt) : (t.modDealer c f).lanes = t.lanes := rfl
@[simp] theorem Tray.modDealer_bays (t : Tray) (c : Nat) (f : DealerSt → DealerSt) : (t.modDealer c f).bays = t.bays := rfl
@[simp] theorem Tray.modDealer_tables (t : Tray) (c : Nat) (f : DealerSt → DealerSt) : (t.modDealer c f).tables = t.tables := rfl
@[simp] theorem Tray.modDealer_mem (t : Tray) (c : Nat) (f : DealerSt → DealerSt) : (t.modDealer c f).mem = t.mem := rfl
@[simp] theorem Tray.modDealer_nodes (t : Tray) (c : Nat) (f : DealerSt → DealerSt) : (t.modDealer c f).nodes = t.nodes := rfl
@[simp] theorem Tray.modDealer_watches (t : Tray) (c : Nat) (f : DealerSt → DealerSt) : (t.modDealer c f).watches = t.watches := rfl
@[simp] theorem Tray.modDealer_bar2 (t : Tray) (c : Nat) (f : DealerSt → DealerSt) : (t.modDealer c f).bar2 = t.bar2 := rfl
@[simp] theorem Tray.modDealer_msiReq (t : Tray) (c : Nat) (f : DealerSt → DealerSt) : (t.modDealer c f).msiReq = t.msiReq := rfl
@[simp] theorem Tray.modDealer_aer (t : Tray) (c : Nat) (f : DealerSt → DealerSt) : (t.modDealer c f).aer = t.aer := rfl
@[simp] theorem Tray.modDealer_dirty (t : Tray) (c : Nat) (f : DealerSt → DealerSt) : (t.modDealer c f).dirty = t.dirty := rfl
@[simp] theorem Tray.modDealer_master (t : Tray) (c : Nat) (f : DealerSt → DealerSt) : (t.modDealer c f).master = t.master := rfl
@[simp] theorem Tray.modDealer_logq (t : Tray) (c : Nat) (f : DealerSt → DealerSt) : (t.modDealer c f).logq = t.logq := rfl
@[simp] theorem Tray.modDealer_out (t : Tray) (c : Nat) (f : DealerSt → DealerSt) : (t.modDealer c f).out = t.out := rfl
@[simp] theorem Tray.modDealer_hal (t : Tray) (c : Nat) (f : DealerSt → DealerSt) : (t.modDealer c f).hal = t.hal := rfl
@[simp] theorem Tray.modDealer_hk (t : Tray) (c : Nat) (f : DealerSt → DealerSt) : (t.modDealer c f).hk = t.hk := rfl
@[simp] theorem Tray.modDealer_fram (t : Tray) (c : Nat) (f : DealerSt → DealerSt) : (t.modDealer c f).fram = t.fram := rfl
@[simp] theorem Tray.modDealer_zq (t : Tray) (c : Nat) (f : DealerSt → DealerSt) : (t.modDealer c f).zq = t.zq := rfl
@[simp] theorem Tray.modDealer_act (t : Tray) (c : Nat) (f : DealerSt → DealerSt) : (t.modDealer c f).act = t.act := rfl
@[simp] theorem Tray.modDealer_wipe (t : Tray) (c : Nat) (f : DealerSt → DealerSt) : (t.modDealer c f).wipe = t.wipe := rfl
@[simp] theorem Tray.modDealer_freeCtr (t : Tray) (c : Nat) (f : DealerSt → DealerSt) : (t.modDealer c f).freeCtr = t.freeCtr := rfl

@[simp] theorem Tray.modNode_regs (t : Tray) (n : Nat) (f : NodeSt → NodeSt) : (t.modNode n f).regs = t.regs := rfl
@[simp] theorem Tray.modNode_chips (t : Tray) (n : Nat) (f : NodeSt → NodeSt) : (t.modNode n f).chips = t.chips := rfl
@[simp] theorem Tray.modNode_ports (t : Tray) (n : Nat) (f : NodeSt → NodeSt) : (t.modNode n f).ports = t.ports := rfl
@[simp] theorem Tray.modNode_lanes (t : Tray) (n : Nat) (f : NodeSt → NodeSt) : (t.modNode n f).lanes = t.lanes := rfl
@[simp] theorem Tray.modNode_bays (t : Tray) (n : Nat) (f : NodeSt → NodeSt) : (t.modNode n f).bays = t.bays := rfl
@[simp] theorem Tray.modNode_tables (t : Tray) (n : Nat) (f : NodeSt → NodeSt) : (t.modNode n f).tables = t.tables := rfl
@[simp] theorem Tray.modNode_dealers (t : Tray) (n : Nat) (f : NodeSt → NodeSt) : (t.modNode n f).dealers = t.dealers := rfl
@[simp] theorem Tray.modNode_mem (t : Tray) (n : Nat) (f : NodeSt → NodeSt) : (t.modNode n f).mem = t.mem := rfl
@[simp] theorem Tray.modNode_watches (t : Tray) (n : Nat) (f : NodeSt → NodeSt) : (t.modNode n f).watches = t.watches := rfl
@[simp] theorem Tray.modNode_bar2 (t : Tray) (n : Nat) (f : NodeSt → NodeSt) : (t.modNode n f).bar2 = t.bar2 := rfl
@[simp] theorem Tray.modNode_msiReq (t : Tray) (n : Nat) (f : NodeSt → NodeSt) : (t.modNode n f).msiReq = t.msiReq := rfl
@[simp] theorem Tray.modNode_aer (t : Tray) (n : Nat) (f : NodeSt → NodeSt) : (t.modNode n f).aer = t.aer := rfl
@[simp] theorem Tray.modNode_dirty (t : Tray) (n : Nat) (f : NodeSt → NodeSt) : (t.modNode n f).dirty = t.dirty := rfl
@[simp] theorem Tray.modNode_master (t : Tray) (n : Nat) (f : NodeSt → NodeSt) : (t.modNode n f).master = t.master := rfl
@[simp] theorem Tray.modNode_logq (t : Tray) (n : Nat) (f : NodeSt → NodeSt) : (t.modNode n f).logq = t.logq := rfl
@[simp] theorem Tray.modNode_out (t : Tray) (n : Nat) (f : NodeSt → NodeSt) : (t.modNode n f).out = t.out := rfl
@[simp] theorem Tray.modNode_hal (t : Tray) (n : Nat) (f : NodeSt → NodeSt) : (t.modNode n f).hal = t.hal := rfl
@[simp] theorem Tray.modNode_hk (t : Tray) (n : Nat) (f : NodeSt → NodeSt) : (t.modNode n f).hk = t.hk := rfl
@[simp] theorem Tray.modNode_fram (t : Tray) (n : Nat) (f : NodeSt → NodeSt) : (t.modNode n f).fram = t.fram := rfl
@[simp] theorem Tray.modNode_zq (t : Tray) (n : Nat) (f : NodeSt → NodeSt) : (t.modNode n f).zq = t.zq := rfl
@[simp] theorem Tray.modNode_act (t : Tray) (n : Nat) (f : NodeSt → NodeSt) : (t.modNode n f).act = t.act := rfl
@[simp] theorem Tray.modNode_wipe (t : Tray) (n : Nat) (f : NodeSt → NodeSt) : (t.modNode n f).wipe = t.wipe := rfl
@[simp] theorem Tray.modNode_freeCtr (t : Tray) (n : Nat) (f : NodeSt → NodeSt) : (t.modNode n f).freeCtr = t.freeCtr := rfl

@[simp] theorem Tray.setWatch_regs (t : Tray) (c i : Nat) (w : WatchSt) : (t.setWatch c i w).regs = t.regs := rfl
@[simp] theorem Tray.setWatch_chips (t : Tray) (c i : Nat) (w : WatchSt) : (t.setWatch c i w).chips = t.chips := rfl
@[simp] theorem Tray.setWatch_ports (t : Tray) (c i : Nat) (w : WatchSt) : (t.setWatch c i w).ports = t.ports := rfl
@[simp] theorem Tray.setWatch_lanes (t : Tray) (c i : Nat) (w : WatchSt) : (t.setWatch c i w).lanes = t.lanes := rfl
@[simp] theorem Tray.setWatch_bays (t : Tray) (c i : Nat) (w : WatchSt) : (t.setWatch c i w).bays = t.bays := rfl
@[simp] theorem Tray.setWatch_tables (t : Tray) (c i : Nat) (w : WatchSt) : (t.setWatch c i w).tables = t.tables := rfl
@[simp] theorem Tray.setWatch_dealers (t : Tray) (c i : Nat) (w : WatchSt) : (t.setWatch c i w).dealers = t.dealers := rfl
@[simp] theorem Tray.setWatch_mem (t : Tray) (c i : Nat) (w : WatchSt) : (t.setWatch c i w).mem = t.mem := rfl
@[simp] theorem Tray.setWatch_nodes (t : Tray) (c i : Nat) (w : WatchSt) : (t.setWatch c i w).nodes = t.nodes := rfl
@[simp] theorem Tray.setWatch_bar2 (t : Tray) (c i : Nat) (w : WatchSt) : (t.setWatch c i w).bar2 = t.bar2 := rfl
@[simp] theorem Tray.setWatch_msiReq (t : Tray) (c i : Nat) (w : WatchSt) : (t.setWatch c i w).msiReq = t.msiReq := rfl
@[simp] theorem Tray.setWatch_aer (t : Tray) (c i : Nat) (w : WatchSt) : (t.setWatch c i w).aer = t.aer := rfl
@[simp] theorem Tray.setWatch_dirty (t : Tray) (c i : Nat) (w : WatchSt) : (t.setWatch c i w).dirty = t.dirty := rfl
@[simp] theorem Tray.setWatch_master (t : Tray) (c i : Nat) (w : WatchSt) : (t.setWatch c i w).master = t.master := rfl
@[simp] theorem Tray.setWatch_logq (t : Tray) (c i : Nat) (w : WatchSt) : (t.setWatch c i w).logq = t.logq := rfl
@[simp] theorem Tray.setWatch_out (t : Tray) (c i : Nat) (w : WatchSt) : (t.setWatch c i w).out = t.out := rfl
@[simp] theorem Tray.setWatch_hal (t : Tray) (c i : Nat) (w : WatchSt) : (t.setWatch c i w).hal = t.hal := rfl
@[simp] theorem Tray.setWatch_hk (t : Tray) (c i : Nat) (w : WatchSt) : (t.setWatch c i w).hk = t.hk := rfl
@[simp] theorem Tray.setWatch_fram (t : Tray) (c i : Nat) (w : WatchSt) : (t.setWatch c i w).fram = t.fram := rfl
@[simp] theorem Tray.setWatch_zq (t : Tray) (c i : Nat) (w : WatchSt) : (t.setWatch c i w).zq = t.zq := rfl
@[simp] theorem Tray.setWatch_act (t : Tray) (c i : Nat) (w : WatchSt) : (t.setWatch c i w).act = t.act := rfl
@[simp] theorem Tray.setWatch_wipe (t : Tray) (c i : Nat) (w : WatchSt) : (t.setWatch c i w).wipe = t.wipe := rfl
@[simp] theorem Tray.setWatch_freeCtr (t : Tray) (c i : Nat) (w : WatchSt) : (t.setWatch c i w).freeCtr = t.freeCtr := rfl

@[simp] theorem Tray.emit_regs (t : Tray) (o : Out) : (t.emit o).regs = t.regs := rfl
@[simp] theorem Tray.emit_chips (t : Tray) (o : Out) : (t.emit o).chips = t.chips := rfl
@[simp] theorem Tray.emit_ports (t : Tray) (o : Out) : (t.emit o).ports = t.ports := rfl
@[simp] theorem Tray.emit_lanes (t : Tray) (o : Out) : (t.emit o).lanes = t.lanes := rfl
@[simp] theorem Tray.emit_bays (t : Tray) (o : Out) : (t.emit o).bays = t.bays := rfl
@[simp] theorem Tray.emit_tables (t : Tray) (o : Out) : (t.emit o).tables = t.tables := rfl
@[simp] theorem Tray.emit_dealers (t : Tray) (o : Out) : (t.emit o).dealers = t.dealers := rfl
@[simp] theorem Tray.emit_mem (t : Tray) (o : Out) : (t.emit o).mem = t.mem := rfl
@[simp] theorem Tray.emit_nodes (t : Tray) (o : Out) : (t.emit o).nodes = t.nodes := rfl
@[simp] theorem Tray.emit_watches (t : Tray) (o : Out) : (t.emit o).watches = t.watches := rfl
@[simp] theorem Tray.emit_bar2 (t : Tray) (o : Out) : (t.emit o).bar2 = t.bar2 := rfl
@[simp] theorem Tray.emit_msiReq (t : Tray) (o : Out) : (t.emit o).msiReq = t.msiReq := rfl
@[simp] theorem Tray.emit_aer (t : Tray) (o : Out) : (t.emit o).aer = t.aer := rfl
@[simp] theorem Tray.emit_dirty (t : Tray) (o : Out) : (t.emit o).dirty = t.dirty := rfl
@[simp] theorem Tray.emit_master (t : Tray) (o : Out) : (t.emit o).master = t.master := rfl
@[simp] theorem Tray.emit_logq (t : Tray) (o : Out) : (t.emit o).logq = t.logq := rfl
@[simp] theorem Tray.emit_hal (t : Tray) (o : Out) : (t.emit o).hal = t.hal := rfl
@[simp] theorem Tray.emit_hk (t : Tray) (o : Out) : (t.emit o).hk = t.hk := rfl
@[simp] theorem Tray.emit_fram (t : Tray) (o : Out) : (t.emit o).fram = t.fram := rfl
@[simp] theorem Tray.emit_zq (t : Tray) (o : Out) : (t.emit o).zq = t.zq := rfl
@[simp] theorem Tray.emit_act (t : Tray) (o : Out) : (t.emit o).act = t.act := rfl
@[simp] theorem Tray.emit_wipe (t : Tray) (o : Out) : (t.emit o).wipe = t.wipe := rfl
@[simp] theorem Tray.emit_freeCtr (t : Tray) (o : Out) : (t.emit o).freeCtr = t.freeCtr := rfl

@[simp] theorem Tray.logEv_regs (t : Tray) (ev : Ev) (src : Nat) (data : List Nat) : (t.logEv ev src data).regs = t.regs := rfl
@[simp] theorem Tray.logEv_chips (t : Tray) (ev : Ev) (src : Nat) (data : List Nat) : (t.logEv ev src data).chips = t.chips := rfl
@[simp] theorem Tray.logEv_ports (t : Tray) (ev : Ev) (src : Nat) (data : List Nat) : (t.logEv ev src data).ports = t.ports := rfl
@[simp] theorem Tray.logEv_lanes (t : Tray) (ev : Ev) (src : Nat) (data : List Nat) : (t.logEv ev src data).lanes = t.lanes := rfl
@[simp] theorem Tray.logEv_bays (t : Tray) (ev : Ev) (src : Nat) (data : List Nat) : (t.logEv ev src data).bays = t.bays := rfl
@[simp] theorem Tray.logEv_tables (t : Tray) (ev : Ev) (src : Nat) (data : List Nat) : (t.logEv ev src data).tables = t.tables := rfl
@[simp] theorem Tray.logEv_dealers (t : Tray) (ev : Ev) (src : Nat) (data : List Nat) : (t.logEv ev src data).dealers = t.dealers := rfl
@[simp] theorem Tray.logEv_mem (t : Tray) (ev : Ev) (src : Nat) (data : List Nat) : (t.logEv ev src data).mem = t.mem := rfl
@[simp] theorem Tray.logEv_nodes (t : Tray) (ev : Ev) (src : Nat) (data : List Nat) : (t.logEv ev src data).nodes = t.nodes := rfl
@[simp] theorem Tray.logEv_watches (t : Tray) (ev : Ev) (src : Nat) (data : List Nat) : (t.logEv ev src data).watches = t.watches := rfl
@[simp] theorem Tray.logEv_bar2 (t : Tray) (ev : Ev) (src : Nat) (data : List Nat) : (t.logEv ev src data).bar2 = t.bar2 := rfl
@[simp] theorem Tray.logEv_msiReq (t : Tray) (ev : Ev) (src : Nat) (data : List Nat) : (t.logEv ev src data).msiReq = t.msiReq := rfl
@[simp] theorem Tray.logEv_aer (t : Tray) (ev : Ev) (src : Nat) (data : List Nat) : (t.logEv ev src data).aer = t.aer := rfl
@[simp] theorem Tray.logEv_dirty (t : Tray) (ev : Ev) (src : Nat) (data : List Nat) : (t.logEv ev src data).dirty = t.dirty := rfl
@[simp] theorem Tray.logEv_master (t : Tray) (ev : Ev) (src : Nat) (data : List Nat) : (t.logEv ev src data).master = t.master := rfl
@[simp] theorem Tray.logEv_out (t : Tray) (ev : Ev) (src : Nat) (data : List Nat) : (t.logEv ev src data).out = t.out := rfl
@[simp] theorem Tray.logEv_hal (t : Tray) (ev : Ev) (src : Nat) (data : List Nat) : (t.logEv ev src data).hal = t.hal := rfl
@[simp] theorem Tray.logEv_hk (t : Tray) (ev : Ev) (src : Nat) (data : List Nat) : (t.logEv ev src data).hk = t.hk := rfl
@[simp] theorem Tray.logEv_fram (t : Tray) (ev : Ev) (src : Nat) (data : List Nat) : (t.logEv ev src data).fram = t.fram := rfl
@[simp] theorem Tray.logEv_zq (t : Tray) (ev : Ev) (src : Nat) (data : List Nat) : (t.logEv ev src data).zq = t.zq := rfl
@[simp] theorem Tray.logEv_act (t : Tray) (ev : Ev) (src : Nat) (data : List Nat) : (t.logEv ev src data).act = t.act := rfl
@[simp] theorem Tray.logEv_wipe (t : Tray) (ev : Ev) (src : Nat) (data : List Nat) : (t.logEv ev src data).wipe = t.wipe := rfl
@[simp] theorem Tray.logEv_freeCtr (t : Tray) (ev : Ev) (src : Nat) (data : List Nat) : (t.logEv ev src data).freeCtr = t.freeCtr := rfl

@[simp] theorem Tray.logChip_regs (t : Tray) (ev : Ev) (c : Nat) (data : List Nat) : (t.logChip ev c data).regs = t.regs := rfl
@[simp] theorem Tray.logChip_chips (t : Tray) (ev : Ev) (c : Nat) (data : List Nat) : (t.logChip ev c data).chips = t.chips := rfl
@[simp] theorem Tray.logChip_ports (t : Tray) (ev : Ev) (c : Nat) (data : List Nat) : (t.logChip ev c data).ports = t.ports := rfl
@[simp] theorem Tray.logChip_lanes (t : Tray) (ev : Ev) (c : Nat) (data : List Nat) : (t.logChip ev c data).lanes = t.lanes := rfl
@[simp] theorem Tray.logChip_bays (t : Tray) (ev : Ev) (c : Nat) (data : List Nat) : (t.logChip ev c data).bays = t.bays := rfl
@[simp] theorem Tray.logChip_tables (t : Tray) (ev : Ev) (c : Nat) (data : List Nat) : (t.logChip ev c data).tables = t.tables := rfl
@[simp] theorem Tray.logChip_dealers (t : Tray) (ev : Ev) (c : Nat) (data : List Nat) : (t.logChip ev c data).dealers = t.dealers := rfl
@[simp] theorem Tray.logChip_mem (t : Tray) (ev : Ev) (c : Nat) (data : List Nat) : (t.logChip ev c data).mem = t.mem := rfl
@[simp] theorem Tray.logChip_nodes (t : Tray) (ev : Ev) (c : Nat) (data : List Nat) : (t.logChip ev c data).nodes = t.nodes := rfl
@[simp] theorem Tray.logChip_watches (t : Tray) (ev : Ev) (c : Nat) (data : List Nat) : (t.logChip ev c data).watches = t.watches := rfl
@[simp] theorem Tray.logChip_bar2 (t : Tray) (ev : Ev) (c : Nat) (data : List Nat) : (t.logChip ev c data).bar2 = t.bar2 := rfl
@[simp] theorem Tray.logChip_msiReq (t : Tray) (ev : Ev) (c : Nat) (data : List Nat) : (t.logChip ev c data).msiReq = t.msiReq := rfl
@[simp] theorem Tray.logChip_aer (t : Tray) (ev : Ev) (c : Nat) (data : List Nat) : (t.logChip ev c data).aer = t.aer := rfl
@[simp] theorem Tray.logChip_dirty (t : Tray) (ev : Ev) (c : Nat) (data : List Nat) : (t.logChip ev c data).dirty = t.dirty := rfl
@[simp] theorem Tray.logChip_master (t : Tray) (ev : Ev) (c : Nat) (data : List Nat) : (t.logChip ev c data).master = t.master := rfl
@[simp] theorem Tray.logChip_out (t : Tray) (ev : Ev) (c : Nat) (data : List Nat) : (t.logChip ev c data).out = t.out := rfl
@[simp] theorem Tray.logChip_hal (t : Tray) (ev : Ev) (c : Nat) (data : List Nat) : (t.logChip ev c data).hal = t.hal := rfl
@[simp] theorem Tray.logChip_hk (t : Tray) (ev : Ev) (c : Nat) (data : List Nat) : (t.logChip ev c data).hk = t.hk := rfl
@[simp] theorem Tray.logChip_fram (t : Tray) (ev : Ev) (c : Nat) (data : List Nat) : (t.logChip ev c data).fram = t.fram := rfl
@[simp] theorem Tray.logChip_zq (t : Tray) (ev : Ev) (c : Nat) (data : List Nat) : (t.logChip ev c data).zq = t.zq := rfl
@[simp] theorem Tray.logChip_act (t : Tray) (ev : Ev) (c : Nat) (data : List Nat) : (t.logChip ev c data).act = t.act := rfl
@[simp] theorem Tray.logChip_wipe (t : Tray) (ev : Ev) (c : Nat) (data : List Nat) : (t.logChip ev c data).wipe = t.wipe := rfl
@[simp] theorem Tray.logChip_freeCtr (t : Tray) (ev : Ev) (c : Nat) (data : List Nat) : (t.logChip ev c data).freeCtr = t.freeCtr := rfl

@[simp] theorem Tray.zsend_regs (t : Tray) (m type : Nat) (body : List Byte) (ack : Bool) : (t.zsend m type body ack).regs = t.regs := rfl
@[simp] theorem Tray.zsend_chips (t : Tray) (m type : Nat) (body : List Byte) (ack : Bool) : (t.zsend m type body ack).chips = t.chips := rfl
@[simp] theorem Tray.zsend_ports (t : Tray) (m type : Nat) (body : List Byte) (ack : Bool) : (t.zsend m type body ack).ports = t.ports := rfl
@[simp] theorem Tray.zsend_lanes (t : Tray) (m type : Nat) (body : List Byte) (ack : Bool) : (t.zsend m type body ack).lanes = t.lanes := rfl
@[simp] theorem Tray.zsend_bays (t : Tray) (m type : Nat) (body : List Byte) (ack : Bool) : (t.zsend m type body ack).bays = t.bays := rfl
@[simp] theorem Tray.zsend_tables (t : Tray) (m type : Nat) (body : List Byte) (ack : Bool) : (t.zsend m type body ack).tables = t.tables := rfl
@[simp] theorem Tray.zsend_dealers (t : Tray) (m type : Nat) (body : List Byte) (ack : Bool) : (t.zsend m type body ack).dealers = t.dealers := rfl
@[simp] theorem Tray.zsend_mem (t : Tray) (m type : Nat) (body : List Byte) (ack : Bool) : (t.zsend m type body ack).mem = t.mem := rfl
@[simp] theorem Tray.zsend_nodes (t : Tray) (m type : Nat) (body : List Byte) (ack : Bool) : (t.zsend m type body ack).nodes = t.nodes := rfl
@[simp] theorem Tray.zsend_watches (t : Tray) (m type : Nat) (body : List Byte) (ack : Bool) : (t.zsend m type body ack).watches = t.watches := rfl
@[simp] theorem Tray.zsend_bar2 (t : Tray) (m type : Nat) (body : List Byte) (ack : Bool) : (t.zsend m type body ack).bar2 = t.bar2 := rfl
@[simp] theorem Tray.zsend_msiReq (t : Tray) (m type : Nat) (body : List Byte) (ack : Bool) : (t.zsend m type body ack).msiReq = t.msiReq := rfl
@[simp] theorem Tray.zsend_aer (t : Tray) (m type : Nat) (body : List Byte) (ack : Bool) : (t.zsend m type body ack).aer = t.aer := rfl
@[simp] theorem Tray.zsend_dirty (t : Tray) (m type : Nat) (body : List Byte) (ack : Bool) : (t.zsend m type body ack).dirty = t.dirty := rfl
@[simp] theorem Tray.zsend_master (t : Tray) (m type : Nat) (body : List Byte) (ack : Bool) : (t.zsend m type body ack).master = t.master := rfl
@[simp] theorem Tray.zsend_logq (t : Tray) (m type : Nat) (body : List Byte) (ack : Bool) : (t.zsend m type body ack).logq = t.logq := rfl
@[simp] theorem Tray.zsend_out (t : Tray) (m type : Nat) (body : List Byte) (ack : Bool) : (t.zsend m type body ack).out = t.out := rfl
@[simp] theorem Tray.zsend_hal (t : Tray) (m type : Nat) (body : List Byte) (ack : Bool) : (t.zsend m type body ack).hal = t.hal := rfl
@[simp] theorem Tray.zsend_hk (t : Tray) (m type : Nat) (body : List Byte) (ack : Bool) : (t.zsend m type body ack).hk = t.hk := rfl
@[simp] theorem Tray.zsend_fram (t : Tray) (m type : Nat) (body : List Byte) (ack : Bool) : (t.zsend m type body ack).fram = t.fram := rfl
@[simp] theorem Tray.zsend_act (t : Tray) (m type : Nat) (body : List Byte) (ack : Bool) : (t.zsend m type body ack).act = t.act := rfl
@[simp] theorem Tray.zsend_wipe (t : Tray) (m type : Nat) (body : List Byte) (ack : Bool) : (t.zsend m type body ack).wipe = t.wipe := rfl
@[simp] theorem Tray.zsend_freeCtr (t : Tray) (m type : Nat) (body : List Byte) (ack : Bool) : (t.zsend m type body ack).freeCtr = t.freeCtr := rfl

@[simp] theorem Tray.zboth_regs (t : Tray) (type : Nat) (body : List Byte) (ack : Bool) : (t.zboth type body ack).regs = t.regs := rfl
@[simp] theorem Tray.zboth_chips (t : Tray) (type : Nat) (body : List Byte) (ack : Bool) : (t.zboth type body ack).chips = t.chips := rfl
@[simp] theorem Tray.zboth_ports (t : Tray) (type : Nat) (body : List Byte) (ack : Bool) : (t.zboth type body ack).ports = t.ports := rfl
@[simp] theorem Tray.zboth_lanes (t : Tray) (type : Nat) (body : List Byte) (ack : Bool) : (t.zboth type body ack).lanes = t.lanes := rfl
@[simp] theorem Tray.zboth_bays (t : Tray) (type : Nat) (body : List Byte) (ack : Bool) : (t.zboth type body ack).bays = t.bays := rfl
@[simp] theorem Tray.zboth_tables (t : Tray) (type : Nat) (body : List Byte) (ack : Bool) : (t.zboth type body ack).tables = t.tables := rfl
@[simp] theorem Tray.zboth_dealers (t : Tray) (type : Nat) (body : List Byte) (ack : Bool) : (t.zboth type body ack).dealers = t.dealers := rfl
@[simp] theorem Tray.zboth_mem (t : Tray) (type : Nat) (body : List Byte) (ack : Bool) : (t.zboth type body ack).mem = t.mem := rfl
@[simp] theorem Tray.zboth_nodes (t : Tray) (type : Nat) (body : List Byte) (ack : Bool) : (t.zboth type body ack).nodes = t.nodes := rfl
@[simp] theorem Tray.zboth_watches (t : Tray) (type : Nat) (body : List Byte) (ack : Bool) : (t.zboth type body ack).watches = t.watches := rfl
@[simp] theorem Tray.zboth_bar2 (t : Tray) (type : Nat) (body : List Byte) (ack : Bool) : (t.zboth type body ack).bar2 = t.bar2 := rfl
@[simp] theorem Tray.zboth_msiReq (t : Tray) (type : Nat) (body : List Byte) (ack : Bool) : (t.zboth type body ack).msiReq = t.msiReq := rfl
@[simp] theorem Tray.zboth_aer (t : Tray) (type : Nat) (body : List Byte) (ack : Bool) : (t.zboth type body ack).aer = t.aer := rfl
@[simp] theorem Tray.zboth_dirty (t : Tray) (type : Nat) (body : List Byte) (ack : Bool) : (t.zboth type body ack).dirty = t.dirty := rfl
@[simp] theorem Tray.zboth_master (t : Tray) (type : Nat) (body : List Byte) (ack : Bool) : (t.zboth type body ack).master = t.master := rfl
@[simp] theorem Tray.zboth_logq (t : Tray) (type : Nat) (body : List Byte) (ack : Bool) : (t.zboth type body ack).logq = t.logq := rfl
@[simp] theorem Tray.zboth_out (t : Tray) (type : Nat) (body : List Byte) (ack : Bool) : (t.zboth type body ack).out = t.out := rfl
@[simp] theorem Tray.zboth_hal (t : Tray) (type : Nat) (body : List Byte) (ack : Bool) : (t.zboth type body ack).hal = t.hal := rfl
@[simp] theorem Tray.zboth_hk (t : Tray) (type : Nat) (body : List Byte) (ack : Bool) : (t.zboth type body ack).hk = t.hk := rfl
@[simp] theorem Tray.zboth_fram (t : Tray) (type : Nat) (body : List Byte) (ack : Bool) : (t.zboth type body ack).fram = t.fram := rfl
@[simp] theorem Tray.zboth_act (t : Tray) (type : Nat) (body : List Byte) (ack : Bool) : (t.zboth type body ack).act = t.act := rfl
@[simp] theorem Tray.zboth_wipe (t : Tray) (type : Nat) (body : List Byte) (ack : Bool) : (t.zboth type body ack).wipe = t.wipe := rfl
@[simp] theorem Tray.zboth_freeCtr (t : Tray) (type : Nat) (body : List Byte) (ack : Bool) : (t.zboth type body ack).freeCtr = t.freeCtr := rfl

theorem Tray.wmMax_shape (t : Tray) (pg : Nat) (f : Fld) (v : Nat) :
    ∃ x0 : Assoc Word, t.wmMax pg f v = { t with regs := x0 } := by
  unfold Tray.wmMax; split
  · exact ⟨_, rfl⟩
  · exact ⟨t.regs, rfl⟩
@[simp] theorem Tray.wmMax_chips (t : Tray) (pg : Nat) (f : Fld) (v : Nat) : (t.wmMax pg f v).chips = t.chips := by
  obtain ⟨_, h⟩ := t.wmMax_shape pg f v; rw [h]
@[simp] theorem Tray.wmMax_ports (t : Tray) (pg : Nat) (f : Fld) (v : Nat) : (t.wmMax pg f v).ports = t.ports := by
  obtain ⟨_, h⟩ := t.wmMax_shape pg f v; rw [h]
@[simp] theorem Tray.wmMax_lanes (t : Tray) (pg : Nat) (f : Fld) (v : Nat) : (t.wmMax pg f v).lanes = t.lanes := by
  obtain ⟨_, h⟩ := t.wmMax_shape pg f v; rw [h]
@[simp] theorem Tray.wmMax_bays (t : Tray) (pg : Nat) (f : Fld) (v : Nat) : (t.wmMax pg f v).bays = t.bays := by
  obtain ⟨_, h⟩ := t.wmMax_shape pg f v; rw [h]
@[simp] theorem Tray.wmMax_tables (t : Tray) (pg : Nat) (f : Fld) (v : Nat) : (t.wmMax pg f v).tables = t.tables := by
  obtain ⟨_, h⟩ := t.wmMax_shape pg f v; rw [h]
@[simp] theorem Tray.wmMax_dealers (t : Tray) (pg : Nat) (f : Fld) (v : Nat) : (t.wmMax pg f v).dealers = t.dealers := by
  obtain ⟨_, h⟩ := t.wmMax_shape pg f v; rw [h]
@[simp] theorem Tray.wmMax_mem (t : Tray) (pg : Nat) (f : Fld) (v : Nat) : (t.wmMax pg f v).mem = t.mem := by
  obtain ⟨_, h⟩ := t.wmMax_shape pg f v; rw [h]
@[simp] theorem Tray.wmMax_nodes (t : Tray) (pg : Nat) (f : Fld) (v : Nat) : (t.wmMax pg f v).nodes = t.nodes := by
  obtain ⟨_, h⟩ := t.wmMax_shape pg f v; rw [h]
@[simp] theorem Tray.wmMax_watches (t : Tray) (pg : Nat) (f : Fld) (v : Nat) : (t.wmMax pg f v).watches = t.watches := by
  obtain ⟨_, h⟩ := t.wmMax_shape pg f v; rw [h]
@[simp] theorem Tray.wmMax_bar2 (t : Tray) (pg : Nat) (f : Fld) (v : Nat) : (t.wmMax pg f v).bar2 = t.bar2 := by
  obtain ⟨_, h⟩ := t.wmMax_shape pg f v; rw [h]
@[simp] theorem Tray.wmMax_msiReq (t : Tray) (pg : Nat) (f : Fld) (v : Nat) : (t.wmMax pg f v).msiReq = t.msiReq := by
  obtain ⟨_, h⟩ := t.wmMax_shape pg f v; rw [h]
@[simp] theorem Tray.wmMax_aer (t : Tray) (pg : Nat) (f : Fld) (v : Nat) : (t.wmMax pg f v).aer = t.aer := by
  obtain ⟨_, h⟩ := t.wmMax_shape pg f v; rw [h]
@[simp] theorem Tray.wmMax_dirty (t : Tray) (pg : Nat) (f : Fld) (v : Nat) : (t.wmMax pg f v).dirty = t.dirty := by
  obtain ⟨_, h⟩ := t.wmMax_shape pg f v; rw [h]
@[simp] theorem Tray.wmMax_master (t : Tray) (pg : Nat) (f : Fld) (v : Nat) : (t.wmMax pg f v).master = t.master := by
  obtain ⟨_, h⟩ := t.wmMax_shape pg f v; rw [h]
@[simp] theorem Tray.wmMax_logq (t : Tray) (pg : Nat) (f : Fld) (v : Nat) : (t.wmMax pg f v).logq = t.logq := by
  obtain ⟨_, h⟩ := t.wmMax_shape pg f v; rw [h]
@[simp] theorem Tray.wmMax_out (t : Tray) (pg : Nat) (f : Fld) (v : Nat) : (t.wmMax pg f v).out = t.out := by
  obtain ⟨_, h⟩ := t.wmMax_shape pg f v; rw [h]
@[simp] theorem Tray.wmMax_hal (t : Tray) (pg : Nat) (f : Fld) (v : Nat) : (t.wmMax pg f v).hal = t.hal := by
  obtain ⟨_, h⟩ := t.wmMax_shape pg f v; rw [h]
@[simp] theorem Tray.wmMax_hk (t : Tray) (pg : Nat) (f : Fld) (v : Nat) : (t.wmMax pg f v).hk = t.hk := by
  obtain ⟨_, h⟩ := t.wmMax_shape pg f v; rw [h]
@[simp] theorem Tray.wmMax_fram (t : Tray) (pg : Nat) (f : Fld) (v : Nat) : (t.wmMax pg f v).fram = t.fram := by
  obtain ⟨_, h⟩ := t.wmMax_shape pg f v; rw [h]
@[simp] theorem Tray.wmMax_zq (t : Tray) (pg : Nat) (f : Fld) (v : Nat) : (t.wmMax pg f v).zq = t.zq := by
  obtain ⟨_, h⟩ := t.wmMax_shape pg f v; rw [h]
@[simp] theorem Tray.wmMax_act (t : Tray) (pg : Nat) (f : Fld) (v : Nat) : (t.wmMax pg f v).act = t.act := by
  obtain ⟨_, h⟩ := t.wmMax_shape pg f v; rw [h]
@[simp] theorem Tray.wmMax_wipe (t : Tray) (pg : Nat) (f : Fld) (v : Nat) : (t.wmMax pg f v).wipe = t.wipe := by
  obtain ⟨_, h⟩ := t.wmMax_shape pg f v; rw [h]
@[simp] theorem Tray.wmMax_freeCtr (t : Tray) (pg : Nat) (f : Fld) (v : Nat) : (t.wmMax pg f v).freeCtr = t.freeCtr := by
  obtain ⟨_, h⟩ := t.wmMax_shape pg f v; rw [h]

theorem Tray.wmMin_shape (t : Tray) (pg : Nat) (f : Fld) (v : Nat) :
    ∃ x0 : Assoc Word, t.wmMin pg f v = { t with regs := x0 } := by
  unfold Tray.wmMin; split
  · exact ⟨_, rfl⟩
  · exact ⟨t.regs, rfl⟩
@[simp] theorem Tray.wmMin_chips (t : Tray) (pg : Nat) (f : Fld) (v : Nat) : (t.wmMin pg f v).chips = t.chips := by
  obtain ⟨_, h⟩ := t.wmMin_shape pg f v; rw [h]
@[simp] theorem Tray.wmMin_ports (t : Tray) (pg : Nat) (f : Fld) (v : Nat) : (t.wmMin pg f v).ports = t.ports := by
  obtain ⟨_, h⟩ := t.wmMin_shape pg f v; rw [h]
@[simp] theorem Tray.wmMin_lanes (t : Tray) (pg : Nat) (f : Fld) (v : Nat) : (t.wmMin pg f v).lanes = t.lanes := by
  obtain ⟨_, h⟩ := t.wmMin_shape pg f v; rw [h]
@[simp] theorem Tray.wmMin_bays (t : Tray) (pg : Nat) (f : Fld) (v : Nat) : (t.wmMin pg f v).bays = t.bays := by
  obtain ⟨_, h⟩ := t.wmMin_shape pg f v; rw [h]
@[simp] theorem Tray.wmMin_tables (t : Tray) (pg : Nat) (f : Fld) (v : Nat) : (t.wmMin pg f v).tables = t.tables := by
  obtain ⟨_, h⟩ := t.wmMin_shape pg f v; rw [h]
@[simp] theorem Tray.wmMin_dealers (t : Tray) (pg : Nat) (f : Fld) (v : Nat) : (t.wmMin pg f v).dealers = t.dealers := by
  obtain ⟨_, h⟩ := t.wmMin_shape pg f v; rw [h]
@[simp] theorem Tray.wmMin_mem (t : Tray) (pg : Nat) (f : Fld) (v : Nat) : (t.wmMin pg f v).mem = t.mem := by
  obtain ⟨_, h⟩ := t.wmMin_shape pg f v; rw [h]
@[simp] theorem Tray.wmMin_nodes (t : Tray) (pg : Nat) (f : Fld) (v : Nat) : (t.wmMin pg f v).nodes = t.nodes := by
  obtain ⟨_, h⟩ := t.wmMin_shape pg f v; rw [h]
@[simp] theorem Tray.wmMin_watches (t : Tray) (pg : Nat) (f : Fld) (v : Nat) : (t.wmMin pg f v).watches = t.watches := by
  obtain ⟨_, h⟩ := t.wmMin_shape pg f v; rw [h]
@[simp] theorem Tray.wmMin_bar2 (t : Tray) (pg : Nat) (f : Fld) (v : Nat) : (t.wmMin pg f v).bar2 = t.bar2 := by
  obtain ⟨_, h⟩ := t.wmMin_shape pg f v; rw [h]
@[simp] theorem Tray.wmMin_msiReq (t : Tray) (pg : Nat) (f : Fld) (v : Nat) : (t.wmMin pg f v).msiReq = t.msiReq := by
  obtain ⟨_, h⟩ := t.wmMin_shape pg f v; rw [h]
@[simp] theorem Tray.wmMin_aer (t : Tray) (pg : Nat) (f : Fld) (v : Nat) : (t.wmMin pg f v).aer = t.aer := by
  obtain ⟨_, h⟩ := t.wmMin_shape pg f v; rw [h]
@[simp] theorem Tray.wmMin_dirty (t : Tray) (pg : Nat) (f : Fld) (v : Nat) : (t.wmMin pg f v).dirty = t.dirty := by
  obtain ⟨_, h⟩ := t.wmMin_shape pg f v; rw [h]
@[simp] theorem Tray.wmMin_master (t : Tray) (pg : Nat) (f : Fld) (v : Nat) : (t.wmMin pg f v).master = t.master := by
  obtain ⟨_, h⟩ := t.wmMin_shape pg f v; rw [h]
@[simp] theorem Tray.wmMin_logq (t : Tray) (pg : Nat) (f : Fld) (v : Nat) : (t.wmMin pg f v).logq = t.logq := by
  obtain ⟨_, h⟩ := t.wmMin_shape pg f v; rw [h]
@[simp] theorem Tray.wmMin_out (t : Tray) (pg : Nat) (f : Fld) (v : Nat) : (t.wmMin pg f v).out = t.out := by
  obtain ⟨_, h⟩ := t.wmMin_shape pg f v; rw [h]
@[simp] theorem Tray.wmMin_hal (t : Tray) (pg : Nat) (f : Fld) (v : Nat) : (t.wmMin pg f v).hal = t.hal := by
  obtain ⟨_, h⟩ := t.wmMin_shape pg f v; rw [h]
@[simp] theorem Tray.wmMin_hk (t : Tray) (pg : Nat) (f : Fld) (v : Nat) : (t.wmMin pg f v).hk = t.hk := by
  obtain ⟨_, h⟩ := t.wmMin_shape pg f v; rw [h]
@[simp] theorem Tray.wmMin_fram (t : Tray) (pg : Nat) (f : Fld) (v : Nat) : (t.wmMin pg f v).fram = t.fram := by
  obtain ⟨_, h⟩ := t.wmMin_shape pg f v; rw [h]
@[simp] theorem Tray.wmMin_zq (t : Tray) (pg : Nat) (f : Fld) (v : Nat) : (t.wmMin pg f v).zq = t.zq := by
  obtain ⟨_, h⟩ := t.wmMin_shape pg f v; rw [h]
@[simp] theorem Tray.wmMin_act (t : Tray) (pg : Nat) (f : Fld) (v : Nat) : (t.wmMin pg f v).act = t.act := by
  obtain ⟨_, h⟩ := t.wmMin_shape pg f v; rw [h]
@[simp] theorem Tray.wmMin_wipe (t : Tray) (pg : Nat) (f : Fld) (v : Nat) : (t.wmMin pg f v).wipe = t.wipe := by
  obtain ⟨_, h⟩ := t.wmMin_shape pg f v; rw [h]
@[simp] theorem Tray.wmMin_freeCtr (t : Tray) (pg : Nat) (f : Fld) (v : Nat) : (t.wmMin pg f v).freeCtr = t.freeCtr := by
  obtain ⟨_, h⟩ := t.wmMin_shape pg f v; rw [h]

theorem Tray.markDirty_shape (t : Tray) (pg : Nat) :
    ∃ x0 : List Nat, t.markDirty pg = { t with dirty := x0 } := by
  unfold Tray.markDirty; split
  · exact ⟨t.dirty, rfl⟩
  · exact ⟨_, rfl⟩
@[simp] theorem Tray.markDirty_regs (t : Tray) (pg : Nat) : (t.markDirty pg).regs = t.regs := by
  obtain ⟨_, h⟩ := t.markDirty_shape pg; rw [h]
@[simp] theorem Tray.markDirty_chips (t : Tray) (pg : Nat) : (t.markDirty pg).chips = t.chips := by
  obtain ⟨_, h⟩ := t.markDirty_shape pg; rw [h]
@[simp] theorem Tray.markDirty_ports (t : Tray) (pg : Nat) : (t.markDirty pg).ports = t.ports := by
  obtain ⟨_, h⟩ := t.markDirty_shape pg; rw [h]
@[simp] theorem Tray.markDirty_lanes (t : Tray) (pg : Nat) : (t.markDirty pg).lanes = t.lanes := by
  obtain ⟨_, h⟩ := t.markDirty_shape pg; rw [h]
@[simp] theorem Tray.markDirty_bays (t : Tray) (pg : Nat) : (t.markDirty pg).bays = t.bays := by
  obtain ⟨_, h⟩ := t.markDirty_shape pg; rw [h]
@[simp] theorem Tray.markDirty_tables (t : Tray) (pg : Nat) : (t.markDirty pg).tables = t.tables := by
  obtain ⟨_, h⟩ := t.markDirty_shape pg; rw [h]
@[simp] theorem Tray.markDirty_dealers (t : Tray) (pg : Nat) : (t.markDirty pg).dealers = t.dealers := by
  obtain ⟨_, h⟩ := t.markDirty_shape pg; rw [h]
@[simp] theorem Tray.markDirty_mem (t : Tray) (pg : Nat) : (t.markDirty pg).mem = t.mem := by
  obtain ⟨_, h⟩ := t.markDirty_shape pg; rw [h]
@[simp] theorem Tray.markDirty_nodes (t : Tray) (pg : Nat) : (t.markDirty pg).nodes = t.nodes := by
  obtain ⟨_, h⟩ := t.markDirty_shape pg; rw [h]
@[simp] theorem Tray.markDirty_watches (t : Tray) (pg : Nat) : (t.markDirty pg).watches = t.watches := by
  obtain ⟨_, h⟩ := t.markDirty_shape pg; rw [h]
@[simp] theorem Tray.markDirty_bar2 (t : Tray) (pg : Nat) : (t.markDirty pg).bar2 = t.bar2 := by
  obtain ⟨_, h⟩ := t.markDirty_shape pg; rw [h]
@[simp] theorem Tray.markDirty_msiReq (t : Tray) (pg : Nat) : (t.markDirty pg).msiReq = t.msiReq := by
  obtain ⟨_, h⟩ := t.markDirty_shape pg; rw [h]
@[simp] theorem Tray.markDirty_aer (t : Tray) (pg : Nat) : (t.markDirty pg).aer = t.aer := by
  obtain ⟨_, h⟩ := t.markDirty_shape pg; rw [h]
@[simp] theorem Tray.markDirty_master (t : Tray) (pg : Nat) : (t.markDirty pg).master = t.master := by
  obtain ⟨_, h⟩ := t.markDirty_shape pg; rw [h]
@[simp] theorem Tray.markDirty_logq (t : Tray) (pg : Nat) : (t.markDirty pg).logq = t.logq := by
  obtain ⟨_, h⟩ := t.markDirty_shape pg; rw [h]
@[simp] theorem Tray.markDirty_out (t : Tray) (pg : Nat) : (t.markDirty pg).out = t.out := by
  obtain ⟨_, h⟩ := t.markDirty_shape pg; rw [h]
@[simp] theorem Tray.markDirty_hal (t : Tray) (pg : Nat) : (t.markDirty pg).hal = t.hal := by
  obtain ⟨_, h⟩ := t.markDirty_shape pg; rw [h]
@[simp] theorem Tray.markDirty_hk (t : Tray) (pg : Nat) : (t.markDirty pg).hk = t.hk := by
  obtain ⟨_, h⟩ := t.markDirty_shape pg; rw [h]
@[simp] theorem Tray.markDirty_fram (t : Tray) (pg : Nat) : (t.markDirty pg).fram = t.fram := by
  obtain ⟨_, h⟩ := t.markDirty_shape pg; rw [h]
@[simp] theorem Tray.markDirty_zq (t : Tray) (pg : Nat) : (t.markDirty pg).zq = t.zq := by
  obtain ⟨_, h⟩ := t.markDirty_shape pg; rw [h]
@[simp] theorem Tray.markDirty_act (t : Tray) (pg : Nat) : (t.markDirty pg).act = t.act := by
  obtain ⟨_, h⟩ := t.markDirty_shape pg; rw [h]
@[simp] theorem Tray.markDirty_wipe (t : Tray) (pg : Nat) : (t.markDirty pg).wipe = t.wipe := by
  obtain ⟨_, h⟩ := t.markDirty_shape pg; rw [h]
@[simp] theorem Tray.markDirty_freeCtr (t : Tray) (pg : Nat) : (t.markDirty pg).freeCtr = t.freeCtr := by
  obtain ⟨_, h⟩ := t.markDirty_shape pg; rw [h]

theorem Tray.msiIfRose_shape (t : Tray) (pg : Nat) (w : Word) :
    ∃ x0 : List Nat, t.msiIfRose pg w = { t with msiReq := x0 } := by
  unfold Tray.msiIfRose; dsimp only; split
  · exact ⟨_, rfl⟩
  · exact ⟨t.msiReq, rfl⟩
@[simp] theorem Tray.msiIfRose_regs (t : Tray) (pg : Nat) (w : Word) : (t.msiIfRose pg w).regs = t.regs := by
  obtain ⟨_, h⟩ := t.msiIfRose_shape pg w; rw [h]
@[simp] theorem Tray.msiIfRose_chips (t : Tray) (pg : Nat) (w : Word) : (t.msiIfRose pg w).chips = t.chips := by
  obtain ⟨_, h⟩ := t.msiIfRose_shape pg w; rw [h]
@[simp] theorem Tray.msiIfRose_ports (t : Tray) (pg : Nat) (w : Word) : (t.msiIfRose pg w).ports = t.ports := by
  obtain ⟨_, h⟩ := t.msiIfRose_shape pg w; rw [h]
@[simp] theorem Tray.msiIfRose_lanes (t : Tray) (pg : Nat) (w : Word) : (t.msiIfRose pg w).lanes = t.lanes := by
  obtain ⟨_, h⟩ := t.msiIfRose_shape pg w; rw [h]
@[simp] theorem Tray.msiIfRose_bays (t : Tray) (pg : Nat) (w : Word) : (t.msiIfRose pg w).bays = t.bays := by
  obtain ⟨_, h⟩ := t.msiIfRose_shape pg w; rw [h]
@[simp] theorem Tray.msiIfRose_tables (t : Tray) (pg : Nat) (w : Word) : (t.msiIfRose pg w).tables = t.tables := by
  obtain ⟨_, h⟩ := t.msiIfRose_shape pg w; rw [h]
@[simp] theorem Tray.msiIfRose_dealers (t : Tray) (pg : Nat) (w : Word) : (t.msiIfRose pg w).dealers = t.dealers := by
  obtain ⟨_, h⟩ := t.msiIfRose_shape pg w; rw [h]
@[simp] theorem Tray.msiIfRose_mem (t : Tray) (pg : Nat) (w : Word) : (t.msiIfRose pg w).mem = t.mem := by
  obtain ⟨_, h⟩ := t.msiIfRose_shape pg w; rw [h]
@[simp] theorem Tray.msiIfRose_nodes (t : Tray) (pg : Nat) (w : Word) : (t.msiIfRose pg w).nodes = t.nodes := by
  obtain ⟨_, h⟩ := t.msiIfRose_shape pg w; rw [h]
@[simp] theorem Tray.msiIfRose_watches (t : Tray) (pg : Nat) (w : Word) : (t.msiIfRose pg w).watches = t.watches := by
  obtain ⟨_, h⟩ := t.msiIfRose_shape pg w; rw [h]
@[simp] theorem Tray.msiIfRose_bar2 (t : Tray) (pg : Nat) (w : Word) : (t.msiIfRose pg w).bar2 = t.bar2 := by
  obtain ⟨_, h⟩ := t.msiIfRose_shape pg w; rw [h]
@[simp] theorem Tray.msiIfRose_aer (t : Tray) (pg : Nat) (w : Word) : (t.msiIfRose pg w).aer = t.aer := by
  obtain ⟨_, h⟩ := t.msiIfRose_shape pg w; rw [h]
@[simp] theorem Tray.msiIfRose_dirty (t : Tray) (pg : Nat) (w : Word) : (t.msiIfRose pg w).dirty = t.dirty := by
  obtain ⟨_, h⟩ := t.msiIfRose_shape pg w; rw [h]
@[simp] theorem Tray.msiIfRose_master (t : Tray) (pg : Nat) (w : Word) : (t.msiIfRose pg w).master = t.master := by
  obtain ⟨_, h⟩ := t.msiIfRose_shape pg w; rw [h]
@[simp] theorem Tray.msiIfRose_logq (t : Tray) (pg : Nat) (w : Word) : (t.msiIfRose pg w).logq = t.logq := by
  obtain ⟨_, h⟩ := t.msiIfRose_shape pg w; rw [h]
@[simp] theorem Tray.msiIfRose_out (t : Tray) (pg : Nat) (w : Word) : (t.msiIfRose pg w).out = t.out := by
  obtain ⟨_, h⟩ := t.msiIfRose_shape pg w; rw [h]
@[simp] theorem Tray.msiIfRose_hal (t : Tray) (pg : Nat) (w : Word) : (t.msiIfRose pg w).hal = t.hal := by
  obtain ⟨_, h⟩ := t.msiIfRose_shape pg w; rw [h]
@[simp] theorem Tray.msiIfRose_hk (t : Tray) (pg : Nat) (w : Word) : (t.msiIfRose pg w).hk = t.hk := by
  obtain ⟨_, h⟩ := t.msiIfRose_shape pg w; rw [h]
@[simp] theorem Tray.msiIfRose_fram (t : Tray) (pg : Nat) (w : Word) : (t.msiIfRose pg w).fram = t.fram := by
  obtain ⟨_, h⟩ := t.msiIfRose_shape pg w; rw [h]
@[simp] theorem Tray.msiIfRose_zq (t : Tray) (pg : Nat) (w : Word) : (t.msiIfRose pg w).zq = t.zq := by
  obtain ⟨_, h⟩ := t.msiIfRose_shape pg w; rw [h]
@[simp] theorem Tray.msiIfRose_act (t : Tray) (pg : Nat) (w : Word) : (t.msiIfRose pg w).act = t.act := by
  obtain ⟨_, h⟩ := t.msiIfRose_shape pg w; rw [h]
@[simp] theorem Tray.msiIfRose_wipe (t : Tray) (pg : Nat) (w : Word) : (t.msiIfRose pg w).wipe = t.wipe := by
  obtain ⟨_, h⟩ := t.msiIfRose_shape pg w; rw [h]
@[simp] theorem Tray.msiIfRose_freeCtr (t : Tray) (pg : Nat) (w : Word) : (t.msiIfRose pg w).freeCtr = t.freeCtr := by
  obtain ⟨_, h⟩ := t.msiIfRose_shape pg w; rw [h]

theorem Tray.raise_shape (t : Tray) (pg b : Nat) :
    ∃ x0 : Assoc Word, ∃ x1 : List Nat, t.raise pg b = { t with regs := x0, msiReq := x1 } := by
  unfold Tray.raise; split
  · obtain ⟨m, h⟩ := Tray.msiIfRose_shape (t.wr pg A.PG_IRQ_RAW (t.rd pg A.PG_IRQ_RAW ||| (1 <<< b))) pg (t.irqSts pg)
    exact ⟨_, m, by rw [h]; rfl⟩
  · exact ⟨t.regs, t.msiReq, rfl⟩
@[simp] theorem Tray.raise_chips (t : Tray) (pg b : Nat) : (t.raise pg b).chips = t.chips := by
  obtain ⟨_, _, h⟩ := t.raise_shape pg b; rw [h]
@[simp] theorem Tray.raise_ports (t : Tray) (pg b : Nat) : (t.raise pg b).ports = t.ports := by
  obtain ⟨_, _, h⟩ := t.raise_shape pg b; rw [h]
@[simp] theorem Tray.raise_lanes (t : Tray) (pg b : Nat) : (t.raise pg b).lanes = t.lanes := by
  obtain ⟨_, _, h⟩ := t.raise_shape pg b; rw [h]
@[simp] theorem Tray.raise_bays (t : Tray) (pg b : Nat) : (t.raise pg b).bays = t.bays := by
  obtain ⟨_, _, h⟩ := t.raise_shape pg b; rw [h]
@[simp] theorem Tray.raise_tables (t : Tray) (pg b : Nat) : (t.raise pg b).tables = t.tables := by
  obtain ⟨_, _, h⟩ := t.raise_shape pg b; rw [h]
@[simp] theorem Tray.raise_dealers (t : Tray) (pg b : Nat) : (t.raise pg b).dealers = t.dealers := by
  obtain ⟨_, _, h⟩ := t.raise_shape pg b; rw [h]
@[simp] theorem Tray.raise_mem (t : Tray) (pg b : Nat) : (t.raise pg b).mem = t.mem := by
  obtain ⟨_, _, h⟩ := t.raise_shape pg b; rw [h]
@[simp] theorem Tray.raise_nodes (t : Tray) (pg b : Nat) : (t.raise pg b).nodes = t.nodes := by
  obtain ⟨_, _, h⟩ := t.raise_shape pg b; rw [h]
@[simp] theorem Tray.raise_watches (t : Tray) (pg b : Nat) : (t.raise pg b).watches = t.watches := by
  obtain ⟨_, _, h⟩ := t.raise_shape pg b; rw [h]
@[simp] theorem Tray.raise_bar2 (t : Tray) (pg b : Nat) : (t.raise pg b).bar2 = t.bar2 := by
  obtain ⟨_, _, h⟩ := t.raise_shape pg b; rw [h]
@[simp] theorem Tray.raise_aer (t : Tray) (pg b : Nat) : (t.raise pg b).aer = t.aer := by
  obtain ⟨_, _, h⟩ := t.raise_shape pg b; rw [h]
@[simp] theorem Tray.raise_dirty (t : Tray) (pg b : Nat) : (t.raise pg b).dirty = t.dirty := by
  obtain ⟨_, _, h⟩ := t.raise_shape pg b; rw [h]
@[simp] theorem Tray.raise_master (t : Tray) (pg b : Nat) : (t.raise pg b).master = t.master := by
  obtain ⟨_, _, h⟩ := t.raise_shape pg b; rw [h]
@[simp] theorem Tray.raise_logq (t : Tray) (pg b : Nat) : (t.raise pg b).logq = t.logq := by
  obtain ⟨_, _, h⟩ := t.raise_shape pg b; rw [h]
@[simp] theorem Tray.raise_out (t : Tray) (pg b : Nat) : (t.raise pg b).out = t.out := by
  obtain ⟨_, _, h⟩ := t.raise_shape pg b; rw [h]
@[simp] theorem Tray.raise_hal (t : Tray) (pg b : Nat) : (t.raise pg b).hal = t.hal := by
  obtain ⟨_, _, h⟩ := t.raise_shape pg b; rw [h]
@[simp] theorem Tray.raise_hk (t : Tray) (pg b : Nat) : (t.raise pg b).hk = t.hk := by
  obtain ⟨_, _, h⟩ := t.raise_shape pg b; rw [h]
@[simp] theorem Tray.raise_fram (t : Tray) (pg b : Nat) : (t.raise pg b).fram = t.fram := by
  obtain ⟨_, _, h⟩ := t.raise_shape pg b; rw [h]
@[simp] theorem Tray.raise_zq (t : Tray) (pg b : Nat) : (t.raise pg b).zq = t.zq := by
  obtain ⟨_, _, h⟩ := t.raise_shape pg b; rw [h]
@[simp] theorem Tray.raise_act (t : Tray) (pg b : Nat) : (t.raise pg b).act = t.act := by
  obtain ⟨_, _, h⟩ := t.raise_shape pg b; rw [h]
@[simp] theorem Tray.raise_wipe (t : Tray) (pg b : Nat) : (t.raise pg b).wipe = t.wipe := by
  obtain ⟨_, _, h⟩ := t.raise_shape pg b; rw [h]
@[simp] theorem Tray.raise_freeCtr (t : Tray) (pg b : Nat) : (t.raise pg b).freeCtr = t.freeCtr := by
  obtain ⟨_, _, h⟩ := t.raise_shape pg b; rw [h]

theorem Tray.sat_shape (t : Tray) (pg : Nat) (f : Fld) (n : Nat) : ∃ x0 : Assoc Word, t.sat pg f n = { t with regs := x0 } :=
  ⟨_, rfl⟩

theorem Tray.wr_raise_shape (t : Tray) (pg off : Nat) (v : Word) (q b : Nat) :
    ∃ x0 : Assoc Word, ∃ x1 : List Nat, (t.wr pg off v).raise q b = { t with regs := x0, msiReq := x1 } := by
  obtain ⟨r, m, h⟩ := Tray.raise_shape (t.wr pg off v) q b
  exact ⟨r, m, by rw [h]; rfl⟩

theorem Tray.recErr_shape (t : Tray) (pg code : Nat) (o : Origin) :
    ∃ x0 : Assoc Word, ∃ x1 : List Nat, t.recErr pg code o = { t with regs := x0, msiReq := x1 } := by
  unfold Tray.recErr; split
  · obtain ⟨r, h⟩ := t.sat_shape pg F.PG_ERR_CAPT_MORE 1
    exact ⟨r, t.msiReq, by rw [h]⟩
  · obtain ⟨r, m, h⟩ := t.wr_raise_shape pg A.PG_ERR_CAPT _ pg 3
    exact ⟨r, m, h⟩
@[simp] theorem Tray.recErr_chips (t : Tray) (pg code : Nat) (o : Origin) : (t.recErr pg code o).chips = t.chips := by
  obtain ⟨_, _, h⟩ := t.recErr_shape pg code o; rw [h]
@[simp] theorem Tray.recErr_ports (t : Tray) (pg code : Nat) (o : Origin) : (t.recErr pg code o).ports = t.ports := by
  obtain ⟨_, _, h⟩ := t.recErr_shape pg code o; rw [h]
@[simp] theorem Tray.recErr_lanes (t : Tray) (pg code : Nat) (o : Origin) : (t.recErr pg code o).lanes = t.lanes := by
  obtain ⟨_, _, h⟩ := t.recErr_shape pg code o; rw [h]
@[simp] theorem Tray.recErr_bays (t : Tray) (pg code : Nat) (o : Origin) : (t.recErr pg code o).bays = t.bays := by
  obtain ⟨_, _, h⟩ := t.recErr_shape pg code o; rw [h]
@[simp] theorem Tray.recErr_tables (t : Tray) (pg code : Nat) (o : Origin) : (t.recErr pg code o).tables = t.tables := by
  obtain ⟨_, _, h⟩ := t.recErr_shape pg code o; rw [h]
@[simp] theorem Tray.recErr_dealers (t : Tray) (pg code : Nat) (o : Origin) : (t.recErr pg code o).dealers = t.dealers := by
  obtain ⟨_, _, h⟩ := t.recErr_shape pg code o; rw [h]
@[simp] theorem Tray.recErr_mem (t : Tray) (pg code : Nat) (o : Origin) : (t.recErr pg code o).mem = t.mem := by
  obtain ⟨_, _, h⟩ := t.recErr_shape pg code o; rw [h]
@[simp] theorem Tray.recErr_nodes (t : Tray) (pg code : Nat) (o : Origin) : (t.recErr pg code o).nodes = t.nodes := by
  obtain ⟨_, _, h⟩ := t.recErr_shape pg code o; rw [h]
@[simp] theorem Tray.recErr_watches (t : Tray) (pg code : Nat) (o : Origin) : (t.recErr pg code o).watches = t.watches := by
  obtain ⟨_, _, h⟩ := t.recErr_shape pg code o; rw [h]
@[simp] theorem Tray.recErr_bar2 (t : Tray) (pg code : Nat) (o : Origin) : (t.recErr pg code o).bar2 = t.bar2 := by
  obtain ⟨_, _, h⟩ := t.recErr_shape pg code o; rw [h]
@[simp] theorem Tray.recErr_aer (t : Tray) (pg code : Nat) (o : Origin) : (t.recErr pg code o).aer = t.aer := by
  obtain ⟨_, _, h⟩ := t.recErr_shape pg code o; rw [h]
@[simp] theorem Tray.recErr_dirty (t : Tray) (pg code : Nat) (o : Origin) : (t.recErr pg code o).dirty = t.dirty := by
  obtain ⟨_, _, h⟩ := t.recErr_shape pg code o; rw [h]
@[simp] theorem Tray.recErr_master (t : Tray) (pg code : Nat) (o : Origin) : (t.recErr pg code o).master = t.master := by
  obtain ⟨_, _, h⟩ := t.recErr_shape pg code o; rw [h]
@[simp] theorem Tray.recErr_logq (t : Tray) (pg code : Nat) (o : Origin) : (t.recErr pg code o).logq = t.logq := by
  obtain ⟨_, _, h⟩ := t.recErr_shape pg code o; rw [h]
@[simp] theorem Tray.recErr_out (t : Tray) (pg code : Nat) (o : Origin) : (t.recErr pg code o).out = t.out := by
  obtain ⟨_, _, h⟩ := t.recErr_shape pg code o; rw [h]
@[simp] theorem Tray.recErr_hal (t : Tray) (pg code : Nat) (o : Origin) : (t.recErr pg code o).hal = t.hal := by
  obtain ⟨_, _, h⟩ := t.recErr_shape pg code o; rw [h]
@[simp] theorem Tray.recErr_hk (t : Tray) (pg code : Nat) (o : Origin) : (t.recErr pg code o).hk = t.hk := by
  obtain ⟨_, _, h⟩ := t.recErr_shape pg code o; rw [h]
@[simp] theorem Tray.recErr_fram (t : Tray) (pg code : Nat) (o : Origin) : (t.recErr pg code o).fram = t.fram := by
  obtain ⟨_, _, h⟩ := t.recErr_shape pg code o; rw [h]
@[simp] theorem Tray.recErr_zq (t : Tray) (pg code : Nat) (o : Origin) : (t.recErr pg code o).zq = t.zq := by
  obtain ⟨_, _, h⟩ := t.recErr_shape pg code o; rw [h]
@[simp] theorem Tray.recErr_act (t : Tray) (pg code : Nat) (o : Origin) : (t.recErr pg code o).act = t.act := by
  obtain ⟨_, _, h⟩ := t.recErr_shape pg code o; rw [h]
@[simp] theorem Tray.recErr_wipe (t : Tray) (pg code : Nat) (o : Origin) : (t.recErr pg code o).wipe = t.wipe := by
  obtain ⟨_, _, h⟩ := t.recErr_shape pg code o; rw [h]
@[simp] theorem Tray.recErr_freeCtr (t : Tray) (pg code : Nat) (o : Origin) : (t.recErr pg code o).freeCtr = t.freeCtr := by
  obtain ⟨_, _, h⟩ := t.recErr_shape pg code o; rw [h]

theorem Tray.energy_shape (t : Tray) (c m i n : Nat) :
    ∃ x0 : Assoc Nat, t.energy c m i n = { t with act := x0 } := by
  unfold Tray.energy; split
  · exact ⟨t.act, rfl⟩
  · exact ⟨_, rfl⟩
@[simp] theorem Tray.energy_regs (t : Tray) (c m i n : Nat) : (t.energy c m i n).regs = t.regs := by
  obtain ⟨_, h⟩ := t.energy_shape c m i n; rw [h]
@[simp] theorem Tray.energy_chips (t : Tray) (c m i n : Nat) : (t.energy c m i n).chips = t.chips := by
  obtain ⟨_, h⟩ := t.energy_shape c m i n; rw [h]
@[simp] theorem Tray.energy_ports (t : Tray) (c m i n : Nat) : (t.energy c m i n).ports = t.ports := by
  obtain ⟨_, h⟩ := t.energy_shape c m i n; rw [h]
@[simp] theorem Tray.energy_lanes (t : Tray) (c m i n : Nat) : (t.energy c m i n).lanes = t.lanes := by
  obtain ⟨_, h⟩ := t.energy_shape c m i n; rw [h]
@[simp] theorem Tray.energy_bays (t : Tray) (c m i n : Nat) : (t.energy c m i n).bays = t.bays := by
  obtain ⟨_, h⟩ := t.energy_shape c m i n; rw [h]
@[simp] theorem Tray.energy_tables (t : Tray) (c m i n : Nat) : (t.energy c m i n).tables = t.tables := by
  obtain ⟨_, h⟩ := t.energy_shape c m i n; rw [h]
@[simp] theorem Tray.energy_dealers (t : Tray) (c m i n : Nat) : (t.energy c m i n).dealers = t.dealers := by
  obtain ⟨_, h⟩ := t.energy_shape c m i n; rw [h]
@[simp] theorem Tray.energy_mem (t : Tray) (c m i n : Nat) : (t.energy c m i n).mem = t.mem := by
  obtain ⟨_, h⟩ := t.energy_shape c m i n; rw [h]
@[simp] theorem Tray.energy_nodes (t : Tray) (c m i n : Nat) : (t.energy c m i n).nodes = t.nodes := by
  obtain ⟨_, h⟩ := t.energy_shape c m i n; rw [h]
@[simp] theorem Tray.energy_watches (t : Tray) (c m i n : Nat) : (t.energy c m i n).watches = t.watches := by
  obtain ⟨_, h⟩ := t.energy_shape c m i n; rw [h]
@[simp] theorem Tray.energy_bar2 (t : Tray) (c m i n : Nat) : (t.energy c m i n).bar2 = t.bar2 := by
  obtain ⟨_, h⟩ := t.energy_shape c m i n; rw [h]
@[simp] theorem Tray.energy_msiReq (t : Tray) (c m i n : Nat) : (t.energy c m i n).msiReq = t.msiReq := by
  obtain ⟨_, h⟩ := t.energy_shape c m i n; rw [h]
@[simp] theorem Tray.energy_aer (t : Tray) (c m i n : Nat) : (t.energy c m i n).aer = t.aer := by
  obtain ⟨_, h⟩ := t.energy_shape c m i n; rw [h]
@[simp] theorem Tray.energy_dirty (t : Tray) (c m i n : Nat) : (t.energy c m i n).dirty = t.dirty := by
  obtain ⟨_, h⟩ := t.energy_shape c m i n; rw [h]
@[simp] theorem Tray.energy_master (t : Tray) (c m i n : Nat) : (t.energy c m i n).master = t.master := by
  obtain ⟨_, h⟩ := t.energy_shape c m i n; rw [h]
@[simp] theorem Tray.energy_logq (t : Tray) (c m i n : Nat) : (t.energy c m i n).logq = t.logq := by
  obtain ⟨_, h⟩ := t.energy_shape c m i n; rw [h]
@[simp] theorem Tray.energy_out (t : Tray) (c m i n : Nat) : (t.energy c m i n).out = t.out := by
  obtain ⟨_, h⟩ := t.energy_shape c m i n; rw [h]
@[simp] theorem Tray.energy_hal (t : Tray) (c m i n : Nat) : (t.energy c m i n).hal = t.hal := by
  obtain ⟨_, h⟩ := t.energy_shape c m i n; rw [h]
@[simp] theorem Tray.energy_hk (t : Tray) (c m i n : Nat) : (t.energy c m i n).hk = t.hk := by
  obtain ⟨_, h⟩ := t.energy_shape c m i n; rw [h]
@[simp] theorem Tray.energy_fram (t : Tray) (c m i n : Nat) : (t.energy c m i n).fram = t.fram := by
  obtain ⟨_, h⟩ := t.energy_shape c m i n; rw [h]
@[simp] theorem Tray.energy_zq (t : Tray) (c m i n : Nat) : (t.energy c m i n).zq = t.zq := by
  obtain ⟨_, h⟩ := t.energy_shape c m i n; rw [h]
@[simp] theorem Tray.energy_wipe (t : Tray) (c m i n : Nat) : (t.energy c m i n).wipe = t.wipe := by
  obtain ⟨_, h⟩ := t.energy_shape c m i n; rw [h]
@[simp] theorem Tray.energy_freeCtr (t : Tray) (c m i n : Nat) : (t.energy c m i n).freeCtr = t.freeCtr := by
  obtain ⟨_, h⟩ := t.energy_shape c m i n; rw [h]

theorem Tray.counterEnergy_shape (t : Tray) (c m k n : Nat) :
    ∃ x0 : Assoc Nat, t.counterEnergy c m k n = { t with act := x0 } := by
  unfold Tray.counterEnergy; split_ifs
  · exact t.energy_shape ..
  · exact t.energy_shape ..
  · exact t.energy_shape ..
  · exact ⟨t.act, rfl⟩
@[simp] theorem Tray.counterEnergy_regs (t : Tray) (c m k n : Nat) : (t.counterEnergy c m k n).regs = t.regs := by
  obtain ⟨_, h⟩ := t.counterEnergy_shape c m k n; rw [h]
@[simp] theorem Tray.counterEnergy_chips (t : Tray) (c m k n : Nat) : (t.counterEnergy c m k n).chips = t.chips := by
  obtain ⟨_, h⟩ := t.counterEnergy_shape c m k n; rw [h]
@[simp] theorem Tray.counterEnergy_ports (t : Tray) (c m k n : Nat) : (t.counterEnergy c m k n).ports = t.ports := by
  obtain ⟨_, h⟩ := t.counterEnergy_shape c m k n; rw [h]
@[simp] theorem Tray.counterEnergy_lanes (t : Tray) (c m k n : Nat) : (t.counterEnergy c m k n).lanes = t.lanes := by
  obtain ⟨_, h⟩ := t.counterEnergy_shape c m k n; rw [h]
@[simp] theorem Tray.counterEnergy_bays (t : Tray) (c m k n : Nat) : (t.counterEnergy c m k n).bays = t.bays := by
  obtain ⟨_, h⟩ := t.counterEnergy_shape c m k n; rw [h]
@[simp] theorem Tray.counterEnergy_tables (t : Tray) (c m k n : Nat) : (t.counterEnergy c m k n).tables = t.tables := by
  obtain ⟨_, h⟩ := t.counterEnergy_shape c m k n; rw [h]
@[simp] theorem Tray.counterEnergy_dealers (t : Tray) (c m k n : Nat) : (t.counterEnergy c m k n).dealers = t.dealers := by
  obtain ⟨_, h⟩ := t.counterEnergy_shape c m k n; rw [h]
@[simp] theorem Tray.counterEnergy_mem (t : Tray) (c m k n : Nat) : (t.counterEnergy c m k n).mem = t.mem := by
  obtain ⟨_, h⟩ := t.counterEnergy_shape c m k n; rw [h]
@[simp] theorem Tray.counterEnergy_nodes (t : Tray) (c m k n : Nat) : (t.counterEnergy c m k n).nodes = t.nodes := by
  obtain ⟨_, h⟩ := t.counterEnergy_shape c m k n; rw [h]
@[simp] theorem Tray.counterEnergy_watches (t : Tray) (c m k n : Nat) : (t.counterEnergy c m k n).watches = t.watches := by
  obtain ⟨_, h⟩ := t.counterEnergy_shape c m k n; rw [h]
@[simp] theorem Tray.counterEnergy_bar2 (t : Tray) (c m k n : Nat) : (t.counterEnergy c m k n).bar2 = t.bar2 := by
  obtain ⟨_, h⟩ := t.counterEnergy_shape c m k n; rw [h]
@[simp] theorem Tray.counterEnergy_msiReq (t : Tray) (c m k n : Nat) : (t.counterEnergy c m k n).msiReq = t.msiReq := by
  obtain ⟨_, h⟩ := t.counterEnergy_shape c m k n; rw [h]
@[simp] theorem Tray.counterEnergy_aer (t : Tray) (c m k n : Nat) : (t.counterEnergy c m k n).aer = t.aer := by
  obtain ⟨_, h⟩ := t.counterEnergy_shape c m k n; rw [h]
@[simp] theorem Tray.counterEnergy_dirty (t : Tray) (c m k n : Nat) : (t.counterEnergy c m k n).dirty = t.dirty := by
  obtain ⟨_, h⟩ := t.counterEnergy_shape c m k n; rw [h]
@[simp] theorem Tray.counterEnergy_master (t : Tray) (c m k n : Nat) : (t.counterEnergy c m k n).master = t.master := by
  obtain ⟨_, h⟩ := t.counterEnergy_shape c m k n; rw [h]
@[simp] theorem Tray.counterEnergy_logq (t : Tray) (c m k n : Nat) : (t.counterEnergy c m k n).logq = t.logq := by
  obtain ⟨_, h⟩ := t.counterEnergy_shape c m k n; rw [h]
@[simp] theorem Tray.counterEnergy_out (t : Tray) (c m k n : Nat) : (t.counterEnergy c m k n).out = t.out := by
  obtain ⟨_, h⟩ := t.counterEnergy_shape c m k n; rw [h]
@[simp] theorem Tray.counterEnergy_hal (t : Tray) (c m k n : Nat) : (t.counterEnergy c m k n).hal = t.hal := by
  obtain ⟨_, h⟩ := t.counterEnergy_shape c m k n; rw [h]
@[simp] theorem Tray.counterEnergy_hk (t : Tray) (c m k n : Nat) : (t.counterEnergy c m k n).hk = t.hk := by
  obtain ⟨_, h⟩ := t.counterEnergy_shape c m k n; rw [h]
@[simp] theorem Tray.counterEnergy_fram (t : Tray) (c m k n : Nat) : (t.counterEnergy c m k n).fram = t.fram := by
  obtain ⟨_, h⟩ := t.counterEnergy_shape c m k n; rw [h]
@[simp] theorem Tray.counterEnergy_zq (t : Tray) (c m k n : Nat) : (t.counterEnergy c m k n).zq = t.zq := by
  obtain ⟨_, h⟩ := t.counterEnergy_shape c m k n; rw [h]
@[simp] theorem Tray.counterEnergy_wipe (t : Tray) (c m k n : Nat) : (t.counterEnergy c m k n).wipe = t.wipe := by
  obtain ⟨_, h⟩ := t.counterEnergy_shape c m k n; rw [h]
@[simp] theorem Tray.counterEnergy_freeCtr (t : Tray) (c m k n : Nat) : (t.counterEnergy c m k n).freeCtr = t.freeCtr := by
  obtain ⟨_, h⟩ := t.counterEnergy_shape c m k n; rw [h]

theorem Tray.sf_setWatch_shape (t : Tray) (pg : Nat) (f : Fld) (v c i : Nat) (w : WatchSt) :
    ∃ (x0 : Assoc Word) (x1 : Assoc WatchSt), (t.sf pg f v).setWatch c i w = { t with regs := x0, watches := x1 } :=
  ⟨(t.sf pg f v).regs, ((t.sf pg f v).setWatch c i w).watches, rfl⟩

theorem Tray.watchCount_shape (t : Tray) (c m k n i : Nat) :
    ∃ x0 : Assoc Word, ∃ x1 : Assoc WatchSt, t.watchCount c m k n i = { t with regs := x0, watches := x1 } := by
  unfold Tray.watchCount
  extract_lets pg d v w w1 w2
  split
  · exact Tray.sf_setWatch_shape t pg _ v c i w2
  · exact ⟨t.regs, t.watches, rfl⟩
@[simp] theorem Tray.watchCount_chips (t : Tray) (c m k n i : Nat) : (t.watchCount c m k n i).chips = t.chips := by
  obtain ⟨_, _, h⟩ := t.watchCount_shape c m k n i; rw [h]
@[simp] theorem Tray.watchCount_ports (t : Tray) (c m k n i : Nat) : (t.watchCount c m k n i).ports = t.ports := by
  obtain ⟨_, _, h⟩ := t.watchCount_shape c m k n i; rw [h]
@[simp] theorem Tray.watchCount_lanes (t : Tray) (c m k n i : Nat) : (t.watchCount c m k n i).lanes = t.lanes := by
  obtain ⟨_, _, h⟩ := t.watchCount_shape c m k n i; rw [h]
@[simp] theorem Tray.watchCount_bays (t : Tray) (c m k n i : Nat) : (t.watchCount c m k n i).bays = t.bays := by
  obtain ⟨_, _, h⟩ := t.watchCount_shape c m k n i; rw [h]
@[simp] theorem Tray.watchCount_tables (t : Tray) (c m k n i : Nat) : (t.watchCount c m k n i).tables = t.tables := by
  obtain ⟨_, _, h⟩ := t.watchCount_shape c m k n i; rw [h]
@[simp] theorem Tray.watchCount_dealers (t : Tray) (c m k n i : Nat) : (t.watchCount c m k n i).dealers = t.dealers := by
  obtain ⟨_, _, h⟩ := t.watchCount_shape c m k n i; rw [h]
@[simp] theorem Tray.watchCount_mem (t : Tray) (c m k n i : Nat) : (t.watchCount c m k n i).mem = t.mem := by
  obtain ⟨_, _, h⟩ := t.watchCount_shape c m k n i; rw [h]
@[simp] theorem Tray.watchCount_nodes (t : Tray) (c m k n i : Nat) : (t.watchCount c m k n i).nodes = t.nodes := by
  obtain ⟨_, _, h⟩ := t.watchCount_shape c m k n i; rw [h]
@[simp] theorem Tray.watchCount_bar2 (t : Tray) (c m k n i : Nat) : (t.watchCount c m k n i).bar2 = t.bar2 := by
  obtain ⟨_, _, h⟩ := t.watchCount_shape c m k n i; rw [h]
@[simp] theorem Tray.watchCount_msiReq (t : Tray) (c m k n i : Nat) : (t.watchCount c m k n i).msiReq = t.msiReq := by
  obtain ⟨_, _, h⟩ := t.watchCount_shape c m k n i; rw [h]
@[simp] theorem Tray.watchCount_aer (t : Tray) (c m k n i : Nat) : (t.watchCount c m k n i).aer = t.aer := by
  obtain ⟨_, _, h⟩ := t.watchCount_shape c m k n i; rw [h]
@[simp] theorem Tray.watchCount_dirty (t : Tray) (c m k n i : Nat) : (t.watchCount c m k n i).dirty = t.dirty := by
  obtain ⟨_, _, h⟩ := t.watchCount_shape c m k n i; rw [h]
@[simp] theorem Tray.watchCount_master (t : Tray) (c m k n i : Nat) : (t.watchCount c m k n i).master = t.master := by
  obtain ⟨_, _, h⟩ := t.watchCount_shape c m k n i; rw [h]
@[simp] theorem Tray.watchCount_logq (t : Tray) (c m k n i : Nat) : (t.watchCount c m k n i).logq = t.logq := by
  obtain ⟨_, _, h⟩ := t.watchCount_shape c m k n i; rw [h]
@[simp] theorem Tray.watchCount_out (t : Tray) (c m k n i : Nat) : (t.watchCount c m k n i).out = t.out := by
  obtain ⟨_, _, h⟩ := t.watchCount_shape c m k n i; rw [h]
@[simp] theorem Tray.watchCount_hal (t : Tray) (c m k n i : Nat) : (t.watchCount c m k n i).hal = t.hal := by
  obtain ⟨_, _, h⟩ := t.watchCount_shape c m k n i; rw [h]
@[simp] theorem Tray.watchCount_hk (t : Tray) (c m k n i : Nat) : (t.watchCount c m k n i).hk = t.hk := by
  obtain ⟨_, _, h⟩ := t.watchCount_shape c m k n i; rw [h]
@[simp] theorem Tray.watchCount_fram (t : Tray) (c m k n i : Nat) : (t.watchCount c m k n i).fram = t.fram := by
  obtain ⟨_, _, h⟩ := t.watchCount_shape c m k n i; rw [h]
@[simp] theorem Tray.watchCount_zq (t : Tray) (c m k n i : Nat) : (t.watchCount c m k n i).zq = t.zq := by
  obtain ⟨_, _, h⟩ := t.watchCount_shape c m k n i; rw [h]
@[simp] theorem Tray.watchCount_act (t : Tray) (c m k n i : Nat) : (t.watchCount c m k n i).act = t.act := by
  obtain ⟨_, _, h⟩ := t.watchCount_shape c m k n i; rw [h]
@[simp] theorem Tray.watchCount_wipe (t : Tray) (c m k n i : Nat) : (t.watchCount c m k n i).wipe = t.wipe := by
  obtain ⟨_, _, h⟩ := t.watchCount_shape c m k n i; rw [h]
@[simp] theorem Tray.watchCount_freeCtr (t : Tray) (c m k n i : Nat) : (t.watchCount c m k n i).freeCtr = t.freeCtr := by
  obtain ⟨_, _, h⟩ := t.watchCount_shape c m k n i; rw [h]

end Sys2Proof.Machine
end

