-- ==== Sys2Proof/Laws/Read.lean ====
section
/-! SUPPORT. What a register reads as after each named operation: two registers at different offsets of their pages are
never the same register, so most reads pass through an operation on another offset. -/
namespace Sys2Proof.Machine

theorem regKey_ne_of_off {p q a b : Nat} (h : a % 4096 ≠ b % 4096) : regKey p a ≠ regKey q b := by
  unfold regKey; omega

theorem Tray.rd_def (t : Tray) (pg off : Nat) : t.rd pg off = Assoc.get regReset t.regs (regKey pg off) := rfl
theorem Tray.gf_def (t : Tray) (pg : Nat) (f : Fld) : t.gf pg f = f.get (t.rd pg f.off) := rfl
theorem Tray.is_iff (t : Tray) (pg : Nat) (f : Fld) : t.is pg f = true ↔ t.gf pg f = 1 := by simp [Tray.is]

/-- Registers read alike where the register files are equal. -/
theorem Tray.rd_congr {t u : Tray} (h : t.regs = u.regs) (pg off : Nat) : t.rd pg off = u.rd pg off := by
  unfold Tray.rd; rw [h]

theorem Tray.rd_wr (t : Tray) (pg off : Nat) (v : Word) (q o : Nat) :
    (t.wr pg off v).rd q o = if regKey q o = regKey pg off then v else t.rd q o := Assoc.get_set ..

@[simp] theorem Tray.rd_wr_self (t : Tray) (pg off : Nat) (v : Word) : (t.wr pg off v).rd pg off = v := by
  simp [Tray.rd_wr]

theorem Tray.rd_wr_off (t : Tray) (pg off : Nat) (v : Word) (q o : Nat) (h : o % 4096 ≠ off % 4096) :
    (t.wr pg off v).rd q o = t.rd q o := by rw [Tray.rd_wr, if_neg (regKey_ne_of_off h)]

theorem Tray.rd_wr_pg (t : Tray) (pg off : Nat) (v : Word) (q o : Nat) (h : q ≠ pg) (ho : o < 4096) (hf : off < 4096) :
    (t.wr pg off v).rd q o = t.rd q o := by rw [Tray.rd_wr, if_neg (regKey_pg_ne h ho hf)]

@[simp] theorem Tray.rd_sf_self (t : Tray) (pg : Nat) (f : Fld) (v : Nat) :
    (t.sf pg f v).rd pg f.off = f.put (t.rd pg f.off) v := Tray.rd_wr_self ..

theorem Tray.rd_sf_off (t : Tray) (pg : Nat) (f : Fld) (v : Nat) (q o : Nat) (h : o % 4096 ≠ f.off % 4096) :
    (t.sf pg f v).rd q o = t.rd q o := Tray.rd_wr_off _ _ _ _ _ _ h

theorem Tray.rd_sf_pg (t : Tray) (pg : Nat) (f : Fld) (v : Nat) (q o : Nat) (h : q ≠ pg) (ho : o < 4096)
    (hf : f.off < 4096) : (t.sf pg f v).rd q o = t.rd q o := Tray.rd_wr_pg _ _ _ _ _ _ h ho hf

/-- A field that is set reads as the value modulo its width. -/
theorem Tray.gf_sf_self (t : Tray) (pg : Nat) (f : Fld) (v : Nat) (hf : f.lo + f.w ≤ 64) :
    (t.sf pg f v).gf pg f = v % 2 ^ f.w := by rw [Tray.gf_def, Tray.rd_sf_self, f.get_put _ _ hf]

/-- Another field of the same page keeps its value. -/
theorem Tray.gf_sf_ne (t : Tray) (pg : Nat) (f : Fld) (v : Nat) (g : Fld) (hf : f.lo + f.w ≤ 64) (hg : g.lo + g.w ≤ 64)
    (h : g.off % 4096 ≠ f.off % 4096 ∨ g.off = f.off ∧ (g.lo + g.w ≤ f.lo ∨ f.lo + f.w ≤ g.lo)) :
    (t.sf pg f v).gf pg g = t.gf pg g := by
  rw [Tray.gf_def, Tray.gf_def]
  rcases h with h | ⟨h, hd⟩
  · rw [Tray.rd_sf_off _ _ _ _ _ _ h]
  · rw [h, Tray.rd_sf_self, f.get_put_ne g _ _ hf hg hd]

theorem Tray.gf_sf_off (t : Tray) (pg : Nat) (f : Fld) (v : Nat) (q : Nat) (g : Fld) (h : g.off % 4096 ≠ f.off % 4096) :
    (t.sf pg f v).gf q g = t.gf q g := by rw [Tray.gf_def, Tray.gf_def, Tray.rd_sf_off _ _ _ _ _ _ h]

theorem Tray.gf_sf_pg (t : Tray) (pg : Nat) (f : Fld) (v : Nat) (q : Nat) (g : Fld) (h : q ≠ pg) (ho : g.off < 4096)
    (hf : f.off < 4096) : (t.sf pg f v).gf q g = t.gf q g := by
  rw [Tray.gf_def, Tray.gf_def, Tray.rd_sf_pg _ _ _ _ _ _ h ho hf]

theorem Tray.rd_cnt_off (t : Tray) (pg : Nat) (f : Fld) (n : Nat) (q o : Nat) (h : o % 4096 ≠ f.off % 4096) :
    (t.cnt pg f n).rd q o = t.rd q o := Tray.rd_sf_off _ _ _ _ _ _ h

theorem Tray.rd_sat_off (t : Tray) (pg : Nat) (f : Fld) (n : Nat) (q o : Nat) (h : o % 4096 ≠ f.off % 4096) :
    (t.sat pg f n).rd q o = t.rd q o := Tray.rd_sf_off _ _ _ _ _ _ h

theorem Tray.rd_sat_pg (t : Tray) (pg : Nat) (f : Fld) (n : Nat) (q o : Nat) (h : q ≠ pg) (ho : o < 4096)
    (hf : f.off < 4096) : (t.sat pg f n).rd q o = t.rd q o := Tray.rd_sf_pg _ _ _ _ _ _ h ho hf

theorem Tray.rd_sb_off (t : Tray) (pg : Nat) (f : Fld) (b : Bool) (q o : Nat) (h : o % 4096 ≠ f.off % 4096) :
    (t.sb pg f b).rd q o = t.rd q o := Tray.rd_sf_off _ _ _ _ _ _ h

/-! ### Interrupts and first errors -/

@[simp] theorem Tray.rd_msiIfRose (t : Tray) (pg : Nat) (w : Word) (q o : Nat) : (t.msiIfRose pg w).rd q o = t.rd q o :=
  Tray.rd_congr (by simp) ..

/-- Raising an interrupt bit changes no register but PG_IRQ_RAW of its page. -/
theorem Tray.rd_raise (t : Tray) (pg b q o : Nat) (h : regKey q o ≠ regKey pg A.PG_IRQ_RAW) :
    (t.raise pg b).rd q o = t.rd q o := by
  unfold Tray.raise
  split
  · rw [Tray.rd_msiIfRose, Tray.rd_wr, if_neg h]
  · rfl

theorem Tray.rd_raise_off (t : Tray) (pg b q o : Nat) (h : o % 4096 ≠ 0x20) : (t.raise pg b).rd q o = t.rd q o :=
  Tray.rd_raise t pg b q o (regKey_ne_of_off h)

theorem Tray.rd_raise_pg (t : Tray) (pg b q o : Nat) (h : q ≠ pg) (ho : o < 4096) : (t.raise pg b).rd q o = t.rd q o :=
  Tray.rd_raise t pg b q o (regKey_pg_ne h ho (by decide))

theorem one_shl_bit (b i : Nat) (hb : b < 64) :
    ((1 <<< b : Nat) : BitVec 64).getLsbD i = decide (i = b) := by
  have : ((1 <<< b : Nat) : BitVec 64) = BitVec.twoPow 64 b := by
    apply BitVec.eq_of_toNat_eq; simp [BitVec.toNat_twoPow, Nat.shiftLeft_eq]
  rw [this, BitVec.getLsbD_twoPow]
  by_cases h : i = b
  · simp [h, hb]
  · simp [h]; omega

/-- The raised bit of PG_IRQ_RAW reads 1 (R98). -/
theorem Tray.raise_sets (t : Tray) (pg b : Nat) (hd : bitOf (irqDefined pg) b = true) (hb : b < 64) :
    ((t.raise pg b).rd pg A.PG_IRQ_RAW).getLsbD b = true := by
  unfold Tray.raise
  rw [if_pos hd, Tray.rd_msiIfRose, Tray.rd_wr_self, BitVec.getLsbD_or, one_shl_bit b b hb]
  simp

/-- A bit of PG_IRQ_RAW that is set stays set when another is raised. -/
theorem Tray.raise_keeps (t : Tray) (pg b q i : Nat) (h : (t.rd q A.PG_IRQ_RAW).getLsbD i = true) :
    ((t.raise pg b).rd q A.PG_IRQ_RAW).getLsbD i = true := by
  unfold Tray.raise
  split
  · rw [Tray.rd_msiIfRose, Tray.rd_wr]
    split
    · rename_i hk
      have : q = pg := by unfold regKey at hk; omega
      subst this
      rw [BitVec.getLsbD_or, h, Bool.true_or]
    · exact h
  · exact h

/-- Recording an error changes no register but PG_ERR_CAPT and PG_IRQ_RAW of its page. -/
theorem Tray.rd_recErr (t : Tray) (pg code : Nat) (or : Origin) (q o : Nat) (h1 : regKey q o ≠ regKey pg A.PG_ERR_CAPT)
    (h2 : regKey q o ≠ regKey pg A.PG_IRQ_RAW) : (t.recErr pg code or).rd q o = t.rd q o := by
  unfold Tray.recErr
  split
  · exact (Tray.rd_wr ..).trans (if_neg h1)
  · rw [Tray.rd_raise _ _ _ _ _ h2, Tray.rd_wr, if_neg h1]

theorem Tray.rd_recErr_off (t : Tray) (pg code : Nat) (or : Origin) (q o : Nat) (h : o % 4096 ≠ 0x60 ∧ o % 4096 ≠ 0x20) :
    (t.recErr pg code or).rd q o = t.rd q o :=
  Tray.rd_recErr _ _ _ _ _ _ (regKey_ne_of_off h.1) (regKey_ne_of_off h.2)

theorem Tray.rd_recErr_pg (t : Tray) (pg code : Nat) (or : Origin) (q o : Nat) (h : q ≠ pg) (ho : o < 4096) :
    (t.recErr pg code or).rd q o = t.rd q o :=
  Tray.rd_recErr _ _ _ _ _ _ (regKey_pg_ne h ho (by decide)) (regKey_pg_ne h ho (by decide))

/-- The first error on a page whose capture is clear is held, with its code, offset, source and direction (R101, R479). -/
theorem Tray.recErr_first (t : Tray) (pg code : Nat) (o : Origin) (h : t.gf pg F.PG_ERR_CAPT_VALID = 0) :
    (t.recErr pg code o).rd pg A.PG_ERR_CAPT = BitVec.ofNat 64 (code + 2 ^ 8 * (o.off % 4096) + 2 ^ 20 * o.src
      + 2 ^ 22 * b2n o.isWrite + 2 ^ 24 * (t.timeOf (pg / 4096) % 2 ^ 32) + 2 ^ 63) := by
  unfold Tray.recErr
  have : t.is pg F.PG_ERR_CAPT_VALID = false := by simp [Tray.is, h]
  rw [this, if_neg (by simp), Tray.rd_raise_off _ _ _ _ _ (by decide), Tray.rd_wr_self]

/-! ### Records other than the register file -/

@[simp] theorem Tray.chip_setChip (t : Tray) (c : Nat) (x : ChipSt) : (t.setChip c x).chip c = x := Assoc.get_set_self ..
@[simp] theorem Tray.chip_modChip (t : Tray) (c : Nat) (f : ChipSt → ChipSt) : (t.modChip c f).chip c = f (t.chip c) :=
  Assoc.get_set_self ..
theorem Tray.chip_modChip_ne (t : Tray) (c d : Nat) (f : ChipSt → ChipSt) (h : d ≠ c) :
    (t.modChip c f).chip d = t.chip d := Assoc.get_set_ne _ _ _ _ h
@[simp] theorem Tray.port_setPort (t : Tray) (c e : Nat) (x : PortSt) : (t.setPort c e x).port c e = x :=
  Assoc.get_set_self ..
@[simp] theorem Tray.port_modPort (t : Tray) (c e : Nat) (f : PortSt → PortSt) :
    (t.modPort c e f).port c e = f (t.port c e) := Assoc.get_set_self ..
theorem Tray.port_modPort_ne (t : Tray) (c e d g : Nat) (f : PortSt → PortSt) (h : d * 64 + g ≠ c * 64 + e) :
    (t.modPort c e f).port d g = t.port d g := Assoc.get_set_ne _ _ _ _ h
@[simp] theorem Tray.lane_setLane (t : Tray) (c n : Nat) (x : LaneSt) : (t.setLane c n x).lane c n = x :=
  Assoc.get_set_self ..
@[simp] theorem Tray.lane_modLane (t : Tray) (c n : Nat) (f : LaneSt → LaneSt) :
    (t.modLane c n f).lane c n = f (t.lane c n) := Assoc.get_set_self ..
theorem Tray.lane_modLane_ne (t : Tray) (c n d m : Nat) (f : LaneSt → LaneSt) (h : d * 256 + m ≠ c * 256 + n) :
    (t.modLane c n f).lane d m = t.lane d m := Assoc.get_set_ne _ _ _ _ h
@[simp] theorem Tray.bay_modBay (t : Tray) (b : Nat) (f : BaySt → BaySt) : (t.modBay b f).bay b = f (t.bay b) :=
  Assoc.get_set_self ..
@[simp] theorem Tray.table_setTable (t : Tray) (c tb : Nat) (x : TableSt) : (t.setTable c tb x).table c tb = x :=
  Assoc.get_set_self ..
@[simp] theorem Tray.table_modTable (t : Tray) (c tb : Nat) (f : TableSt → TableSt) :
    (t.modTable c tb f).table c tb = f (t.table c tb) := Assoc.get_set_self ..
@[simp] theorem Tray.dealer_modDealer (t : Tray) (c : Nat) (f : DealerSt → DealerSt) :
    (t.modDealer c f).dealer c = f (t.dealer c) := Assoc.get_set_self ..
@[simp] theorem Tray.node_modNode (t : Tray) (n : Nat) (f : NodeSt → NodeSt) : (t.modNode n f).node n = f (t.node n) :=
  Assoc.get_set_self ..
@[simp] theorem Tray.watch_setWatch (t : Tray) (c i : Nat) (w : WatchSt) : (t.setWatch c i w).watch c i = w :=
  Assoc.get_set_self ..

/-- What holds before a list of updates and is kept by each of them holds after. -/
theorem Tray.each_keeps {α : Type} (P : Tray → Prop) (f : Tray → α → Tray) (l : List α)
    (h : ∀ t a, a ∈ l → P t → P (f t a)) (t : Tray) (ht : P t) : P (t.each l f) := by
  unfold Tray.each
  induction l generalizing t with
  | nil => exact ht
  | cons a l ih =>
    exact ih (fun t b hb => h t b (List.mem_cons_of_mem _ hb)) _ (h t a (List.mem_cons_self ..) ht)

/-- What every update of a list leaves unchanged, the list leaves unchanged. -/
theorem Tray.each_same {α β : Type} (g : Tray → β) (f : Tray → α → Tray) (l : List α)
    (h : ∀ t a, a ∈ l → g (f t a) = g t) (t : Tray) : g (t.each l f) = g t :=
  Tray.each_keeps (fun u => g u = g t) f l (fun u a ha hu => (h u a ha).trans hu) t rfl

end Sys2Proof.Machine
end

