-- ==== Sys2Proof/Laws/Run.lean ====
section
/-! SUPPORT. What running a command on the state does around the change of the tray: the messages of the command get their
headers and leave, which touches the Halvoren's sequence numbers and the outputs alone; the queue stays; the leases stay,
or end where the Halvoren has been reset. -/
namespace Sys2Proof.Machine

/-- What forming messages may change of the Halvoren's record. -/
def HalSt.sameBut (h g : HalSt) : Prop :=
  ∃ a b w k, g = { h with zseqA := a, zseqB := b, waits := w, held := k }

theorem HalSt.sameBut_refl (h : HalSt) : h.sameBut h := ⟨h.zseqA, h.zseqB, h.waits, h.held, rfl⟩

theorem HalSt.sameBut_trans {h g k : HalSt} (a : h.sameBut g) (b : g.sameBut k) : h.sameBut k := by
  obtain ⟨a1, a2, a3, a4, rfl⟩ := a
  obtain ⟨b1, b2, b3, b4, rfl⟩ := b
  exact ⟨b1, b2, b3, b4, rfl⟩

theorem HalSt.sameBut_seqNext (h : HalSt) (m : Nat) : h.sameBut (h.seqNext m) := by
  unfold HalSt.seqNext
  split
  · exact ⟨_, h.zseqB, h.waits, h.held, rfl⟩
  · exact ⟨h.zseqA, _, h.waits, h.held, rfl⟩

/-- Forming one message changes the Halvoren's sequence numbers, waits and held messages, and the outputs, alone. -/
theorem Tray.zout_shape (t : Tray) (l : Leases) (z : ZSend) :
    ∃ h o, t.zout l z = { t with hal := h, out := o ++ t.out } ∧ t.hal.sameBut h := by
  unfold Tray.zout
  split
  · exact ⟨_, [], rfl, t.hal.zseqA, t.hal.zseqB, t.hal.waits, _, rfl⟩
  · split
    · exact ⟨t.hal, [], rfl, t.hal.sameBut_refl⟩
    · split
      · exact ⟨t.hal, [], rfl, t.hal.sameBut_refl⟩
      · refine ⟨_, [_], rfl, ?_⟩
        dsimp only
        split
        · obtain ⟨a, b, w, k, e⟩ := t.hal.sameBut_seqNext z.mgr
          rw [e]; exact ⟨a, b, _, k, rfl⟩
        · exact t.hal.sameBut_seqNext z.mgr

theorem Tray.each_zout_shape (l : Leases) (q : List ZSend) (t : Tray) :
    ∃ h o, t.each q (fun t z => t.zout l z) = { t with hal := h, out := o ++ t.out } ∧ t.hal.sameBut h := by
  induction q generalizing t with
  | nil => exact ⟨t.hal, [], rfl, t.hal.sameBut_refl⟩
  | cons z q ih =>
    obtain ⟨h, o, e, hs⟩ := t.zout_shape l z
    obtain ⟨h', o', e', hs'⟩ := ih (t.zout l z)
    refine ⟨h', o' ++ o, ?_, ?_⟩
    · unfold Tray.each at e' ⊢
      rw [List.foldl_cons, e', e]; simp
    · rw [e] at hs'; exact HalSt.sameBut_trans hs hs'

theorem Tray.flush_shape (t : Tray) (l : Leases) :
    ∃ h o, t.flush l = { t with hal := h, out := o ++ t.out, zq := [] } ∧ t.hal.sameBut h := by
  obtain ⟨h, o, e, hs⟩ := Tray.each_zout_shape l t.zq { t with zq := [] }
  exact ⟨h, o, by unfold Tray.flush; rw [e], hs⟩

/-- The leases that a command leaves that gives none. -/
def leasesAfter (t : Tray) (l : Leases) : Leases := if t.wipe then {} else l

/-- A tray whose messages have left. -/
def Tray.sent (t : Tray) (h : HalSt) (o : List Out) : Tray :=
  { t with wipe := false, hal := h, out := o ++ t.out, zq := [] }

theorem State.run_shape (s : State) (f : Tray → Tray) :
    ∃ h o, s.run f = ⟨(f s.tray).sent h o, leasesAfter (f s.tray) s.leases, s.pending⟩ ∧ (f s.tray).hal.sameBut h := by
  unfold State.run leasesAfter
  generalize f s.tray = t
  obtain ⟨h, o, e, hs⟩ := Tray.flush_shape { t with wipe := false } (if t.wipe then {} else s.leases)
  refine ⟨h, o, ?_, hs⟩
  dsimp only
  rw [e]; rfl

theorem State.runLease_shape (s : State) (f : Leases → Tray → Leases × Tray) :
    ∃ h o, s.runLease f = ⟨(f s.leases s.tray).2.sent h o, leasesAfter (f s.leases s.tray).2 (f s.leases s.tray).1,
      s.pending⟩ ∧ (f s.leases s.tray).2.hal.sameBut h := by
  unfold State.runLease leasesAfter
  generalize f s.leases s.tray = r
  obtain ⟨h, o, e, hs⟩ := Tray.flush_shape { r.2 with wipe := false } (if r.2.wipe then {} else r.1)
  refine ⟨h, o, ?_, hs⟩
  dsimp only
  rw [e]; rfl

@[simp] theorem State.run_pending (s : State) (f : Tray → Tray) : (s.run f).pending = s.pending := by unfold State.run; rfl

@[simp] theorem State.run_leases (s : State) (f : Tray → Tray) :
    (s.run f).leases = leasesAfter (f s.tray) s.leases := by unfold State.run; rfl

@[simp] theorem State.run_wipe (s : State) (f : Tray → Tray) : (s.run f).tray.wipe = false := by
  obtain ⟨h, o, e, _⟩ := s.run_shape f; rw [e]; rfl

@[simp] theorem State.run_zq (s : State) (f : Tray → Tray) : (s.run f).tray.zq = [] := by
  obtain ⟨h, o, e, _⟩ := s.run_shape f; rw [e]; rfl

theorem State.run_out (s : State) (f : Tray → Tray) : ∃ o, (s.run f).tray.out = o ++ (f s.tray).out := by
  obtain ⟨h, o, e, _⟩ := s.run_shape f; exact ⟨o, by rw [e]; rfl⟩

/-- What a command sends leaves. -/
theorem State.run_emits (s : State) (f : Tray → Tray) {x : Out} (h : x ∈ (f s.tray).out) : x ∈ (s.run f).tray.out := by
  obtain ⟨o, e⟩ := s.run_out f
  rw [e]; exact List.mem_append_right _ h

theorem State.run_hal (s : State) (f : Tray → Tray) : (f s.tray).hal.sameBut (s.run f).tray.hal := by
  obtain ⟨h, o, e, hs⟩ := s.run_shape f; rw [e]; exact hs

@[simp] theorem State.run_regs (s : State) (f : Tray → Tray) : (s.run f).tray.regs = (f s.tray).regs := by
  obtain ⟨h, o, e, _⟩ := s.run_shape f; rw [e]; rfl

@[simp] theorem State.run_chips (s : State) (f : Tray → Tray) : (s.run f).tray.chips = (f s.tray).chips := by
  obtain ⟨h, o, e, _⟩ := s.run_shape f; rw [e]; rfl

@[simp] theorem State.run_ports (s : State) (f : Tray → Tray) : (s.run f).tray.ports = (f s.tray).ports := by
  obtain ⟨h, o, e, _⟩ := s.run_shape f; rw [e]; rfl

@[simp] theorem State.run_lanes (s : State) (f : Tray → Tray) : (s.run f).tray.lanes = (f s.tray).lanes := by
  obtain ⟨h, o, e, _⟩ := s.run_shape f; rw [e]; rfl

@[simp] theorem State.run_bays (s : State) (f : Tray → Tray) : (s.run f).tray.bays = (f s.tray).bays := by
  obtain ⟨h, o, e, _⟩ := s.run_shape f; rw [e]; rfl

@[simp] theorem State.run_tables (s : State) (f : Tray → Tray) : (s.run f).tray.tables = (f s.tray).tables := by
  obtain ⟨h, o, e, _⟩ := s.run_shape f; rw [e]; rfl

@[simp] theorem State.run_dealers (s : State) (f : Tray → Tray) : (s.run f).tray.dealers = (f s.tray).dealers := by
  obtain ⟨h, o, e, _⟩ := s.run_shape f; rw [e]; rfl

@[simp] theorem State.run_mem (s : State) (f : Tray → Tray) : (s.run f).tray.mem = (f s.tray).mem := by
  obtain ⟨h, o, e, _⟩ := s.run_shape f; rw [e]; rfl

@[simp] theorem State.run_nodes (s : State) (f : Tray → Tray) : (s.run f).tray.nodes = (f s.tray).nodes := by
  obtain ⟨h, o, e, _⟩ := s.run_shape f; rw [e]; rfl

@[simp] theorem State.run_watches (s : State) (f : Tray → Tray) : (s.run f).tray.watches = (f s.tray).watches := by
  obtain ⟨h, o, e, _⟩ := s.run_shape f; rw [e]; rfl

@[simp] theorem State.run_bar2 (s : State) (f : Tray → Tray) : (s.run f).tray.bar2 = (f s.tray).bar2 := by
  obtain ⟨h, o, e, _⟩ := s.run_shape f; rw [e]; rfl

@[simp] theorem State.run_msiReq (s : State) (f : Tray → Tray) : (s.run f).tray.msiReq = (f s.tray).msiReq := by
  obtain ⟨h, o, e, _⟩ := s.run_shape f; rw [e]; rfl

@[simp] theorem State.run_aer (s : State) (f : Tray → Tray) : (s.run f).tray.aer = (f s.tray).aer := by
  obtain ⟨h, o, e, _⟩ := s.run_shape f; rw [e]; rfl

@[simp] theorem State.run_dirty (s : State) (f : Tray → Tray) : (s.run f).tray.dirty = (f s.tray).dirty := by
  obtain ⟨h, o, e, _⟩ := s.run_shape f; rw [e]; rfl

@[simp] theorem State.run_master (s : State) (f : Tray → Tray) : (s.run f).tray.master = (f s.tray).master := by
  obtain ⟨h, o, e, _⟩ := s.run_shape f; rw [e]; rfl

@[simp] theorem State.run_logq (s : State) (f : Tray → Tray) : (s.run f).tray.logq = (f s.tray).logq := by
  obtain ⟨h, o, e, _⟩ := s.run_shape f; rw [e]; rfl

@[simp] theorem State.run_hk (s : State) (f : Tray → Tray) : (s.run f).tray.hk = (f s.tray).hk := by
  obtain ⟨h, o, e, _⟩ := s.run_shape f; rw [e]; rfl

@[simp] theorem State.run_fram (s : State) (f : Tray → Tray) : (s.run f).tray.fram = (f s.tray).fram := by
  obtain ⟨h, o, e, _⟩ := s.run_shape f; rw [e]; rfl

@[simp] theorem State.run_act (s : State) (f : Tray → Tray) : (s.run f).tray.act = (f s.tray).act := by
  obtain ⟨h, o, e, _⟩ := s.run_shape f; rw [e]; rfl

@[simp] theorem State.run_freeCtr (s : State) (f : Tray → Tray) : (s.run f).tray.freeCtr = (f s.tray).freeCtr := by
  obtain ⟨h, o, e, _⟩ := s.run_shape f; rw [e]; rfl

@[simp] theorem State.run_hal_up (s : State) (f : Tray → Tray) : (s.run f).tray.hal.up = (f s.tray).hal.up := by
  obtain ⟨a, b, w, k, e⟩ := s.run_hal f; rw [e]

@[simp] theorem State.run_hal_failed (s : State) (f : Tray → Tray) : (s.run f).tray.hal.failed = (f s.tray).hal.failed := by
  obtain ⟨a, b, w, k, e⟩ := s.run_hal f; rw [e]

@[simp] theorem State.run_hal_kexA (s : State) (f : Tray → Tray) : (s.run f).tray.hal.kexA = (f s.tray).hal.kexA := by
  obtain ⟨a, b, w, k, e⟩ := s.run_hal f; rw [e]

@[simp] theorem State.run_hal_kexB (s : State) (f : Tray → Tray) : (s.run f).tray.hal.kexB = (f s.tray).hal.kexB := by
  obtain ⟨a, b, w, k, e⟩ := s.run_hal f; rw [e]

@[simp] theorem State.run_hal_rack (s : State) (f : Tray → Tray) : (s.run f).tray.hal.rack = (f s.tray).hal.rack := by
  obtain ⟨a, b, w, k, e⟩ := s.run_hal f; rw [e]

@[simp] theorem State.run_hal_cabled (s : State) (f : Tray → Tray) : (s.run f).tray.hal.cabled = (f s.tray).hal.cabled := by
  obtain ⟨a, b, w, k, e⟩ := s.run_hal f; rw [e]

@[simp] theorem State.run_hal_role (s : State) (f : Tray → Tray) : (s.run f).tray.hal.role = (f s.tray).hal.role := by
  obtain ⟨a, b, w, k, e⟩ := s.run_hal f; rw [e]

@[simp] theorem State.run_hal_waitPorts (s : State) (f : Tray → Tray) : (s.run f).tray.hal.waitPorts = (f s.tray).hal.waitPorts := by
  obtain ⟨a, b, w, k, e⟩ := s.run_hal f; rw [e]

@[simp] theorem State.run_hal_timeWaited (s : State) (f : Tray → Tray) : (s.run f).tray.hal.timeWaited = (f s.tray).hal.timeWaited := by
  obtain ⟨a, b, w, k, e⟩ := s.run_hal f; rw [e]

@[simp] theorem State.run_hal_noStep (s : State) (f : Tray → Tray) : (s.run f).tray.hal.noStep = (f s.tray).hal.noStep := by
  obtain ⟨a, b, w, k, e⟩ := s.run_hal f; rw [e]

@[simp] theorem State.run_hal_offset (s : State) (f : Tray → Tray) : (s.run f).tray.hal.offset = (f s.tray).hal.offset := by
  obtain ⟨a, b, w, k, e⟩ := s.run_hal f; rw [e]

@[simp] theorem State.run_hal_slewTick (s : State) (f : Tray → Tray) : (s.run f).tray.hal.slewTick = (f s.tray).hal.slewTick := by
  obtain ⟨a, b, w, k, e⟩ := s.run_hal f; rw [e]

@[simp] theorem State.run_hal_answered (s : State) (f : Tray → Tray) : (s.run f).tray.hal.answered = (f s.tray).hal.answered := by
  obtain ⟨a, b, w, k, e⟩ := s.run_hal f; rw [e]

@[simp] theorem State.run_hal_staging (s : State) (f : Tray → Tray) : (s.run f).tray.hal.staging = (f s.tray).hal.staging := by
  obtain ⟨a, b, w, k, e⟩ := s.run_hal f; rw [e]

@[simp] theorem State.run_hal_wire (s : State) (f : Tray → Tray) : (s.run f).tray.hal.wire = (f s.tray).hal.wire := by
  obtain ⟨a, b, w, k, e⟩ := s.run_hal f; rw [e]

@[simp] theorem State.run_hal_sessions (s : State) (f : Tray → Tray) : (s.run f).tray.hal.sessions = (f s.tray).hal.sessions := by
  obtain ⟨a, b, w, k, e⟩ := s.run_hal f; rw [e]

@[simp] theorem State.run_hal_accounts (s : State) (f : Tray → Tray) : (s.run f).tray.hal.accounts = (f s.tray).hal.accounts := by
  obtain ⟨a, b, w, k, e⟩ := s.run_hal f; rw [e]

@[simp] theorem State.run_hal_subs (s : State) (f : Tray → Tray) : (s.run f).tray.hal.subs = (f s.tray).hal.subs := by
  obtain ⟨a, b, w, k, e⟩ := s.run_hal f; rw [e]

@[simp] theorem State.run_hal_nextRf (s : State) (f : Tray → Tray) : (s.run f).tray.hal.nextRf = (f s.tray).hal.nextRf := by
  obtain ⟨a, b, w, k, e⟩ := s.run_hal f; rw [e]

@[simp] theorem State.run_hal_service (s : State) (f : Tray → Tray) : (s.run f).tray.hal.service = (f s.tray).hal.service := by
  obtain ⟨a, b, w, k, e⟩ := s.run_hal f; rw [e]

@[simp] theorem State.run_hal_bridge (s : State) (f : Tray → Tray) : (s.run f).tray.hal.bridge = (f s.tray).hal.bridge := by
  obtain ⟨a, b, w, k, e⟩ := s.run_hal f; rw [e]

@[simp] theorem State.run_chip (s : State) (f : Tray → Tray) (c : Nat) : (s.run f).tray.chip c = (f s.tray).chip c := by
  simp [Tray.chip]

@[simp] theorem State.run_port (s : State) (f : Tray → Tray) (c e : Nat) : (s.run f).tray.port c e = (f s.tray).port c e := by
  simp [Tray.port]

@[simp] theorem State.run_lane (s : State) (f : Tray → Tray) (c n : Nat) : (s.run f).tray.lane c n = (f s.tray).lane c n := by
  simp [Tray.lane]

@[simp] theorem State.run_bay (s : State) (f : Tray → Tray) (b : Nat) : (s.run f).tray.bay b = (f s.tray).bay b := by
  simp [Tray.bay]

@[simp] theorem State.run_table (s : State) (f : Tray → Tray) (c tb : Nat) : (s.run f).tray.table c tb = (f s.tray).table c tb := by
  simp [Tray.table]

@[simp] theorem State.run_dealer (s : State) (f : Tray → Tray) (c : Nat) : (s.run f).tray.dealer c = (f s.tray).dealer c := by
  simp [Tray.dealer]

@[simp] theorem State.run_node (s : State) (f : Tray → Tray) (n : Nat) : (s.run f).tray.node n = (f s.tray).node n := by
  simp [Tray.node]

@[simp] theorem State.run_watch (s : State) (f : Tray → Tray) (c i : Nat) : (s.run f).tray.watch c i = (f s.tray).watch c i := by
  simp [Tray.watch]

@[simp] theorem State.runLease_pending (s : State) (f : Leases → Tray → Leases × Tray) :
    (s.runLease f).pending = s.pending := by unfold State.runLease; rfl

@[simp] theorem State.runLease_leases (s : State) (f : Leases → Tray → Leases × Tray) :
    (s.runLease f).leases = leasesAfter (f s.leases s.tray).2 (f s.leases s.tray).1 := by
  unfold State.runLease; rfl

theorem State.runLease_emits (s : State) (f : Leases → Tray → Leases × Tray) {x : Out}
    (h : x ∈ (f s.leases s.tray).2.out) : x ∈ (s.runLease f).tray.out := by
  obtain ⟨k, o, e, _⟩ := s.runLease_shape f; rw [e]
  exact List.mem_append_right _ h

theorem State.runLease_hal (s : State) (f : Leases → Tray → Leases × Tray) :
    (f s.leases s.tray).2.hal.sameBut (s.runLease f).tray.hal := by
  obtain ⟨h, o, e, hs⟩ := s.runLease_shape f; rw [e]; exact hs

@[simp] theorem State.runLease_regs (s : State) (f : Leases → Tray → Leases × Tray) :
    (s.runLease f).tray.regs = (f s.leases s.tray).2.regs := by
  obtain ⟨h, o, e, _⟩ := s.runLease_shape f; rw [e]; rfl

@[simp] theorem State.runLease_chips (s : State) (f : Leases → Tray → Leases × Tray) :
    (s.runLease f).tray.chips = (f s.leases s.tray).2.chips := by
  obtain ⟨h, o, e, _⟩ := s.runLease_shape f; rw [e]; rfl

@[simp] theorem State.runLease_ports (s : State) (f : Leases → Tray → Leases × Tray) :
    (s.runLease f).tray.ports = (f s.leases s.tray).2.ports := by
  obtain ⟨h, o, e, _⟩ := s.runLease_shape f; rw [e]; rfl

@[simp] theorem State.runLease_lanes (s : State) (f : Leases → Tray → Leases × Tray) :
    (s.runLease f).tray.lanes = (f s.leases s.tray).2.lanes := by
  obtain ⟨h, o, e, _⟩ := s.runLease_shape f; rw [e]; rfl

@[simp] theorem State.runLease_bays (s : State) (f : Leases → Tray → Leases × Tray) :
    (s.runLease f).tray.bays = (f s.leases s.tray).2.bays := by
  obtain ⟨h, o, e, _⟩ := s.runLease_shape f; rw [e]; rfl

@[simp] theorem State.runLease_tables (s : State) (f : Leases → Tray → Leases × Tray) :
    (s.runLease f).tray.tables = (f s.leases s.tray).2.tables := by
  obtain ⟨h, o, e, _⟩ := s.runLease_shape f; rw [e]; rfl

@[simp] theorem State.runLease_dealers (s : State) (f : Leases → Tray → Leases × Tray) :
    (s.runLease f).tray.dealers = (f s.leases s.tray).2.dealers := by
  obtain ⟨h, o, e, _⟩ := s.runLease_shape f; rw [e]; rfl

@[simp] theorem State.runLease_mem (s : State) (f : Leases → Tray → Leases × Tray) :
    (s.runLease f).tray.mem = (f s.leases s.tray).2.mem := by
  obtain ⟨h, o, e, _⟩ := s.runLease_shape f; rw [e]; rfl

@[simp] theorem State.runLease_nodes (s : State) (f : Leases → Tray → Leases × Tray) :
    (s.runLease f).tray.nodes = (f s.leases s.tray).2.nodes := by
  obtain ⟨h, o, e, _⟩ := s.runLease_shape f; rw [e]; rfl

@[simp] theorem State.runLease_watches (s : State) (f : Leases → Tray → Leases × Tray) :
    (s.runLease f).tray.watches = (f s.leases s.tray).2.watches := by
  obtain ⟨h, o, e, _⟩ := s.runLease_shape f; rw [e]; rfl

@[simp] theorem State.runLease_bar2 (s : State) (f : Leases → Tray → Leases × Tray) :
    (s.runLease f).tray.bar2 = (f s.leases s.tray).2.bar2 := by
  obtain ⟨h, o, e, _⟩ := s.runLease_shape f; rw [e]; rfl

@[simp] theorem State.runLease_msiReq (s : State) (f : Leases → Tray → Leases × Tray) :
    (s.runLease f).tray.msiReq = (f s.leases s.tray).2.msiReq := by
  obtain ⟨h, o, e, _⟩ := s.runLease_shape f; rw [e]; rfl

@[simp] theorem State.runLease_aer (s : State) (f : Leases → Tray → Leases × Tray) :
    (s.runLease f).tray.aer = (f s.leases s.tray).2.aer := by
  obtain ⟨h, o, e, _⟩ := s.runLease_shape f; rw [e]; rfl

@[simp] theorem State.runLease_dirty (s : State) (f : Leases → Tray → Leases × Tray) :
    (s.runLease f).tray.dirty = (f s.leases s.tray).2.dirty := by
  obtain ⟨h, o, e, _⟩ := s.runLease_shape f; rw [e]; rfl

@[simp] theorem State.runLease_master (s : State) (f : Leases → Tray → Leases × Tray) :
    (s.runLease f).tray.master = (f s.leases s.tray).2.master := by
  obtain ⟨h, o, e, _⟩ := s.runLease_shape f; rw [e]; rfl

@[simp] theorem State.runLease_logq (s : State) (f : Leases → Tray → Leases × Tray) :
    (s.runLease f).tray.logq = (f s.leases s.tray).2.logq := by
  obtain ⟨h, o, e, _⟩ := s.runLease_shape f; rw [e]; rfl

@[simp] theorem State.runLease_hk (s : State) (f : Leases → Tray → Leases × Tray) :
    (s.runLease f).tray.hk = (f s.leases s.tray).2.hk := by
  obtain ⟨h, o, e, _⟩ := s.runLease_shape f; rw [e]; rfl

@[simp] theorem State.runLease_fram (s : State) (f : Leases → Tray → Leases × Tray) :
    (s.runLease f).tray.fram = (f s.leases s.tray).2.fram := by
  obtain ⟨h, o, e, _⟩ := s.runLease_shape f; rw [e]; rfl

@[simp] theorem State.runLease_act (s : State) (f : Leases → Tray → Leases × Tray) :
    (s.runLease f).tray.act = (f s.leases s.tray).2.act := by
  obtain ⟨h, o, e, _⟩ := s.runLease_shape f; rw [e]; rfl

@[simp] theorem State.runLease_freeCtr (s : State) (f : Leases → Tray → Leases × Tray) :
    (s.runLease f).tray.freeCtr = (f s.leases s.tray).2.freeCtr := by
  obtain ⟨h, o, e, _⟩ := s.runLease_shape f; rw [e]; rfl

@[simp] theorem State.runLease_hal_up (s : State) (f : Leases → Tray → Leases × Tray) :
    (s.runLease f).tray.hal.up = (f s.leases s.tray).2.hal.up := by
  obtain ⟨a, b, w, k, e⟩ := s.runLease_hal f; rw [e]

@[simp] theorem State.runLease_hal_failed (s : State) (f : Leases → Tray → Leases × Tray) :
    (s.runLease f).tray.hal.failed = (f s.leases s.tray).2.hal.failed := by
  obtain ⟨a, b, w, k, e⟩ := s.runLease_hal f; rw [e]

@[simp] theorem State.runLease_hal_kexA (s : State) (f : Leases → Tray → Leases × Tray) :
    (s.runLease f).tray.hal.kexA = (f s.leases s.tray).2.hal.kexA := by
  obtain ⟨a, b, w, k, e⟩ := s.runLease_hal f; rw [e]

@[simp] theorem State.runLease_hal_kexB (s : State) (f : Leases → Tray → Leases × Tray) :
    (s.runLease f).tray.hal.kexB = (f s.leases s.tray).2.hal.kexB := by
  obtain ⟨a, b, w, k, e⟩ := s.runLease_hal f; rw [e]

@[simp] theorem State.runLease_hal_rack (s : State) (f : Leases → Tray → Leases × Tray) :
    (s.runLease f).tray.hal.rack = (f s.leases s.tray).2.hal.rack := by
  obtain ⟨a, b, w, k, e⟩ := s.runLease_hal f; rw [e]

@[simp] theorem State.runLease_hal_cabled (s : State) (f : Leases → Tray → Leases × Tray) :
    (s.runLease f).tray.hal.cabled = (f s.leases s.tray).2.hal.cabled := by
  obtain ⟨a, b, w, k, e⟩ := s.runLease_hal f; rw [e]

@[simp] theorem State.runLease_hal_role (s : State) (f : Leases → Tray → Leases × Tray) :
    (s.runLease f).tray.hal.role = (f s.leases s.tray).2.hal.role := by
  obtain ⟨a, b, w, k, e⟩ := s.runLease_hal f; rw [e]

@[simp] theorem State.runLease_hal_waitPorts (s : State) (f : Leases → Tray → Leases × Tray) :
    (s.runLease f).tray.hal.waitPorts = (f s.leases s.tray).2.hal.waitPorts := by
  obtain ⟨a, b, w, k, e⟩ := s.runLease_hal f; rw [e]

@[simp] theorem State.runLease_hal_timeWaited (s : State) (f : Leases → Tray → Leases × Tray) :
    (s.runLease f).tray.hal.timeWaited = (f s.leases s.tray).2.hal.timeWaited := by
  obtain ⟨a, b, w, k, e⟩ := s.runLease_hal f; rw [e]

@[simp] theorem State.runLease_hal_noStep (s : State) (f : Leases → Tray → Leases × Tray) :
    (s.runLease f).tray.hal.noStep = (f s.leases s.tray).2.hal.noStep := by
  obtain ⟨a, b, w, k, e⟩ := s.runLease_hal f; rw [e]

@[simp] theorem State.runLease_hal_offset (s : State) (f : Leases → Tray → Leases × Tray) :
    (s.runLease f).tray.hal.offset = (f s.leases s.tray).2.hal.offset := by
  obtain ⟨a, b, w, k, e⟩ := s.runLease_hal f; rw [e]

@[simp] theorem State.runLease_hal_slewTick (s : State) (f : Leases → Tray → Leases × Tray) :
    (s.runLease f).tray.hal.slewTick = (f s.leases s.tray).2.hal.slewTick := by
  obtain ⟨a, b, w, k, e⟩ := s.runLease_hal f; rw [e]

@[simp] theorem State.runLease_hal_answered (s : State) (f : Leases → Tray → Leases × Tray) :
    (s.runLease f).tray.hal.answered = (f s.leases s.tray).2.hal.answered := by
  obtain ⟨a, b, w, k, e⟩ := s.runLease_hal f; rw [e]

@[simp] theorem State.runLease_hal_staging (s : State) (f : Leases → Tray → Leases × Tray) :
    (s.runLease f).tray.hal.staging = (f s.leases s.tray).2.hal.staging := by
  obtain ⟨a, b, w, k, e⟩ := s.runLease_hal f; rw [e]

@[simp] theorem State.runLease_hal_wire (s : State) (f : Leases → Tray → Leases × Tray) :
    (s.runLease f).tray.hal.wire = (f s.leases s.tray).2.hal.wire := by
  obtain ⟨a, b, w, k, e⟩ := s.runLease_hal f; rw [e]

@[simp] theorem State.runLease_hal_sessions (s : State) (f : Leases → Tray → Leases × Tray) :
    (s.runLease f).tray.hal.sessions = (f s.leases s.tray).2.hal.sessions := by
  obtain ⟨a, b, w, k, e⟩ := s.runLease_hal f; rw [e]

@[simp] theorem State.runLease_hal_accounts (s : State) (f : Leases → Tray → Leases × Tray) :
    (s.runLease f).tray.hal.accounts = (f s.leases s.tray).2.hal.accounts := by
  obtain ⟨a, b, w, k, e⟩ := s.runLease_hal f; rw [e]

@[simp] theorem State.runLease_hal_subs (s : State) (f : Leases → Tray → Leases × Tray) :
    (s.runLease f).tray.hal.subs = (f s.leases s.tray).2.hal.subs := by
  obtain ⟨a, b, w, k, e⟩ := s.runLease_hal f; rw [e]

@[simp] theorem State.runLease_hal_nextRf (s : State) (f : Leases → Tray → Leases × Tray) :
    (s.runLease f).tray.hal.nextRf = (f s.leases s.tray).2.hal.nextRf := by
  obtain ⟨a, b, w, k, e⟩ := s.runLease_hal f; rw [e]

@[simp] theorem State.runLease_hal_service (s : State) (f : Leases → Tray → Leases × Tray) :
    (s.runLease f).tray.hal.service = (f s.leases s.tray).2.hal.service := by
  obtain ⟨a, b, w, k, e⟩ := s.runLease_hal f; rw [e]

@[simp] theorem State.runLease_hal_bridge (s : State) (f : Leases → Tray → Leases × Tray) :
    (s.runLease f).tray.hal.bridge = (f s.leases s.tray).2.hal.bridge := by
  obtain ⟨a, b, w, k, e⟩ := s.runLease_hal f; rw [e]

@[simp] theorem State.runLease_rd (s : State) (f : Leases → Tray → Leases × Tray) (pg off : Nat) :
    (s.runLease f).tray.rd pg off = (f s.leases s.tray).2.rd pg off := Tray.rd_congr (by simp) ..

@[simp] theorem State.runLease_gf (s : State) (f : Leases → Tray → Leases × Tray) (pg : Nat) (g : Fld) :
    (s.runLease f).tray.gf pg g = (f s.leases s.tray).2.gf pg g := by simp [Tray.gf]

@[simp] theorem State.run_rd (s : State) (f : Tray → Tray) (pg off : Nat) :
    (s.run f).tray.rd pg off = (f s.tray).rd pg off := Tray.rd_congr (by simp) ..

@[simp] theorem State.run_gf (s : State) (f : Tray → Tray) (pg : Nat) (g : Fld) :
    (s.run f).tray.gf pg g = (f s.tray).gf pg g := by simp [Tray.gf]

@[simp] theorem State.run_is (s : State) (f : Tray → Tray) (pg : Nat) (g : Fld) :
    (s.run f).tray.is pg g = (f s.tray).is pg g := by simp [Tray.is]

end Sys2Proof.Machine
end

