-- ==== Sys2Proof/Laws/Sweep.lean ====
section
/-! SUPPORT. What a Dealer job can change when it goes on or ends: registers of the Dealer's, table, watch, seat and
translation pages of its chip, descriptors, memory, packets waiting in the port agents; nothing of links, lanes, tables,
the switch core, the management. Stated once for every operation of the Dealer that ends with `dealerSweep`. -/
namespace Sys2Proof.Machine

/-- `u` differs from `t` at most where jobs of chip `c` write. -/
structure JobSide (c : Nat) (t u : Tray) : Prop where
  keeps : ∀ q o, o < 4096 → jobFree c q ∨ headOrShadow o → u.rd q o = t.rd q o
  ports : ∀ d e, ∃ q, u.port d e = { t.port d e with origq := q }
  chips : u.chips = t.chips
  lanes : u.lanes = t.lanes
  bays : u.bays = t.bays
  tables : u.tables = t.tables
  nodes : u.nodes = t.nodes
  bar2 : u.bar2 = t.bar2
  aer : u.aer = t.aer
  dirty : u.dirty = t.dirty
  master : u.master = t.master
  logq : u.logq = t.logq
  out : u.out = t.out
  hal : u.hal = t.hal
  hk : u.hk = t.hk
  fram : u.fram = t.fram
  zq : u.zq = t.zq
  wipe : u.wipe = t.wipe

theorem JobSide.rd {c : Nat} {t u : Tray} (h : JobSide c t u) (q o : Nat) (ho : o < 4096) (hq : jobFree c q) :
    u.rd q o = t.rd q o := h.keeps q o ho (.inl hq)

theorem JobSide.refl (c : Nat) (t : Tray) : JobSide c t t :=
  ⟨fun _ _ _ _ => rfl, fun d e => ⟨(t.port d e).origq, rfl⟩, rfl, rfl, rfl, rfl, rfl, rfl, rfl, rfl, rfl, rfl, rfl,
   rfl, rfl, rfl, rfl, rfl⟩

theorem JobSide.trans {c : Nat} {t u v : Tray} (a : JobSide c t u) (b : JobSide c u v) : JobSide c t v where
  keeps q o ho hq := (b.keeps q o ho hq).trans (a.keeps q o ho hq)
  ports d e := by
    obtain ⟨q, hq⟩ := a.ports d e
    obtain ⟨r, hr⟩ := b.ports d e
    exact ⟨r, by rw [hr, hq]⟩
  chips := b.chips.trans a.chips
  lanes := b.lanes.trans a.lanes
  bays := b.bays.trans a.bays
  tables := b.tables.trans a.tables
  nodes := b.nodes.trans a.nodes
  bar2 := b.bar2.trans a.bar2
  aer := b.aer.trans a.aer
  dirty := b.dirty.trans a.dirty
  master := b.master.trans a.master
  logq := b.logq.trans a.logq
  out := b.out.trans a.out
  hal := b.hal.trans a.hal
  hk := b.hk.trans a.hk
  fram := b.fram.trans a.fram
  zq := b.zq.trans a.zq
  wipe := b.wipe.trans a.wipe

/-- An update of the tray's Dealers, memory, watches, activity counts, free values and requested messages. -/
theorem JobSide.of_eq {c : Nat} {t u : Tray} (hr : u.regs = t.regs) (hp : u.ports = t.ports) (h1 : u.chips = t.chips)
    (h2 : u.lanes = t.lanes) (h3 : u.bays = t.bays) (h4 : u.tables = t.tables) (h5 : u.nodes = t.nodes)
    (h6 : u.bar2 = t.bar2) (h7 : u.aer = t.aer) (h8 : u.dirty = t.dirty) (h9 : u.master = t.master)
    (h10 : u.logq = t.logq) (h11 : u.out = t.out) (h12 : u.hal = t.hal) (h13 : u.hk = t.hk) (h14 : u.fram = t.fram)
    (h15 : u.zq = t.zq) (h16 : u.wipe = t.wipe) : JobSide c t u :=
  ⟨fun q o _ _ => Tray.rd_congr hr q o, fun d e => ⟨(t.port d e).origq, by unfold Tray.port; rw [hp]⟩, h1, h2, h3, h4, h5,
   h6, h7, h8, h9, h10, h11, h12, h13, h14, h15, h16⟩

theorem JobSide.wr (c : Nat) (t : Tray) (pg off : Nat) (v : Word) (h : ¬ jobFree c pg)
    (ho : 0x100 ≤ off ∧ off < 0x800) : JobSide c t (t.wr pg off v) :=
  ⟨fun q o hq hf => (Tray.rd_wr ..).trans (if_neg (by
    rw [regKey_inj hq (by omega)]
    rintro ⟨rfl, rfl⟩
    unfold headOrShadow at hf
    rcases hf with hf | hf
    · exact h hf
    · omega)), fun d e => ⟨(t.port d e).origq, rfl⟩, rfl,
   rfl, rfl, rfl, rfl, rfl, rfl, rfl, rfl, rfl, rfl, rfl, rfl, rfl, rfl, rfl⟩

theorem JobSide.sf (c : Nat) (t : Tray) (pg : Nat) (f : Fld) (v : Nat) (h : ¬ jobFree c pg)
    (ho : 0x100 ≤ f.off ∧ f.off < 0x800) : JobSide c t (t.sf pg f v) := JobSide.wr c t pg f.off _ h ho

theorem JobSide.raise (c : Nat) (t : Tray) (pg b : Nat) (h : ¬ jobFree c pg) : JobSide c t (t.raise pg b) := by
  refine ⟨fun q o ho hf => Tray.rd_raise t pg b q o (by
      rw [Ne, regKey_inj ho (by decide)]
      rintro ⟨rfl, rfl⟩
      unfold headOrShadow at hf
      rcases hf with hf | hf
      · exact h hf
      · exact absurd hf (by decide)), fun d e => ⟨(t.port d e).origq, ?_⟩,
    ?_, ?_, ?_, ?_, ?_, ?_, ?_, ?_, ?_, ?_, ?_, ?_, ?_, ?_, ?_, ?_⟩ <;> simp [Tray.port]

theorem JobSide.modDealer (c : Nat) (t : Tray) (d : Nat) (f : DealerSt → DealerSt) : JobSide c t (t.modDealer d f) :=
  ⟨fun _ _ _ _ => rfl, fun d e => ⟨(t.port d e).origq, rfl⟩, rfl, rfl, rfl, rfl, rfl, rfl, rfl, rfl, rfl, rfl, rfl, rfl,
   rfl, rfl, rfl, rfl⟩

theorem JobSide.memPut (c : Nat) (t : Tray) (k : Nat) (b : Byte) : JobSide c t (t.memPut k b) :=
  ⟨fun _ _ _ _ => rfl, fun d e => ⟨(t.port d e).origq, rfl⟩, rfl, rfl, rfl, rfl, rfl, rfl, rfl, rfl, rfl, rfl, rfl, rfl,
   rfl, rfl, rfl, rfl⟩

theorem JobSide.setWatch (c : Nat) (t : Tray) (d i : Nat) (w : WatchSt) : JobSide c t (t.setWatch d i w) :=
  ⟨fun _ _ _ _ => rfl, fun d e => ⟨(t.port d e).origq, rfl⟩, rfl, rfl, rfl, rfl, rfl, rfl, rfl, rfl, rfl, rfl, rfl, rfl,
   rfl, rfl, rfl, rfl⟩

theorem JobSide.energy (c : Nat) (t : Tray) (d m i n : Nat) : JobSide c t (t.energy d m i n) := by
  apply JobSide.of_eq <;> simp

theorem JobSide.counterEnergy (c : Nat) (t : Tray) (d m k n : Nat) : JobSide c t (t.counterEnergy d m k n) := by
  apply JobSide.of_eq <;> simp

theorem JobSide.each {α : Type} {c : Nat} (l : List α) (f : Tray → α → Tray)
    (h : ∀ t a, a ∈ l → JobSide c t (f t a)) (t : Tray) : JobSide c t (t.each l f) :=
  Tray.each_keeps (JobSide c t) f l (fun u a ha hu => hu.trans (h u a ha)) t (JobSide.refl c t)

/-- Pages of chip `c` are told apart by the page number. -/
theorem jobFree_chipPg (c p : Nat) (hp : p < 4096) :
    jobFree c (chipPg c p) ↔ p < 0x200 ∨ (0x303 ≤ p ∧ p < 0x341) ∨ (0x3C0 ≤ p ∧ p < 0x3E0) := by
  unfold jobFree chipPg; omega

theorem JobSide.charge (c : Nat) (t : Tray) (m k n : Nat) (hm : m < 64) (hk : k < 31) : JobSide c t (t.charge c m k n) := by
  unfold Tray.charge
  split
  · exact JobSide.refl c t
  · have hs : ¬ jobFree c (seatPg c m) := by
      unfold seatPg; rw [jobFree_chipPg _ _ (by omega)]; omega
    have hw : ¬ jobFree c (watchPg c) := by
      unfold watchPg; rw [jobFree_chipPg _ _ (by omega)]; omega
    refine ((JobSide.wr c t _ _ _ hs (by unfold A.SEAT_CNT; omega)).trans (JobSide.each _ _ (fun t i hi => ?_) _)).trans
      (JobSide.counterEnergy ..)
    have hi8 : i < 8 := List.mem_range.1 hi
    unfold Tray.watchCount
    extract_lets pg d v w w1 w2
    split
    · exact (JobSide.sf c t pg _ v hw (by
        show 0x100 ≤ 0x108 + d ∧ 0x108 + d < 0x800
        omega)).trans (JobSide.setWatch ..)
    · exact JobSide.refl c t

theorem Tray.gf_lt (t : Tray) (pg : Nat) (f : Fld) (hf : f.lo + f.w ≤ 64) : t.gf pg f < 2 ^ f.w := f.get_lt _ hf

theorem Tray.jobSeat_lt (t : Tray) (c j : Nat) : t.jobSeat c j < 64 := 
  t.gf_lt _ (F.DLR_JOB_CFG_SEAT.nth j) (by show 0 + 6 ≤ 64; decide)
theorem Tray.inSeat_lt (t : Tray) (c i : Nat) : t.inSeat c i < 64 := 
  t.gf_lt _ (F.DLR_IN_CFG_SEAT.nth i) (by show 16 + 6 ≤ 64; decide)

theorem jobFree_jobPg (c : Nat) : ¬ jobFree c (jobPg c) := by
  unfold jobPg; rw [jobFree_chipPg _ _ (by omega)]; omega
theorem jobFree_dlrPg (c : Nat) : ¬ jobFree c (dlrPg c) := by
  unfold dlrPg; rw [jobFree_chipPg _ _ (by omega)]; omega
theorem jobFree_inPg (c : Nat) : ¬ jobFree c (inPg c) := by
  unfold inPg; rw [jobFree_chipPg _ _ (by omega)]; omega
theorem jobFree_xltPg (c : Nat) : ¬ jobFree c (xltPg c) := by
  unfold xltPg; rw [jobFree_chipPg _ _ (by omega)]; omega
theorem jobFree_tblPg (c tb : Nat) (h : tb < 256) : ¬ jobFree c (tblPg c tb) := by
  unfold tblPg; rw [jobFree_chipPg _ _ (by omega)]; omega

theorem JobSide.writeBytes (c : Nat) (t : Tray) (d : Nat) (v : Via) (addr : Nat) (l : List Byte) :
    JobSide c t (t.writeBytes d v addr l).2 := by
  induction l generalizing t addr with
  | nil => exact JobSide.refl c t
  | cons b l ih =>
    unfold Tray.writeBytes
    split
    · exact JobSide.refl c t
    · exact (JobSide.memPut c t _ b).trans (ih _ _)

theorem JobSide.noteFault (c : Nat) (t : Tray) (m : Nat) (f : Flt) (hm : m < 64) : JobSide c t (t.noteFault c m f) := by
  unfold Tray.noteFault
  have hx := jobFree_xltPg c
  split
  · refine JobSide.trans ?_ (JobSide.raise c _ _ _ hx)
    have h1 : JobSide c t ((t.charge c m N.LAYOUT_FAULT 1).cnt (xltPg c) F.XLT_TLB_FAULTS 1) :=
      (JobSide.charge c t m N.LAYOUT_FAULT 1 hm (by decide)).trans (JobSide.sf c _ (xltPg c) _ _ hx (by decide))
    split
    · exact h1
    · exact h1.trans ((JobSide.wr c _ _ _ _ hx (by decide)).trans (JobSide.wr c _ _ _ _ hx (by decide)))
  · exact JobSide.charge c t m N.LAYOUT_FAULT 1 hm (by decide)
  · exact JobSide.refl c t

theorem JobSide.setDesc (c : Nat) (t : Tray) (d s : Nat) (x : DescSt) : JobSide c t (t.setDesc d s x) :=
  JobSide.modDealer ..

theorem JobSide.reapDesc (c : Nat) (t : Tray) (d s : Nat) : JobSide c t (t.reapDesc d s) := by
  unfold Tray.reapDesc Tray.freeDesc
  dsimp only
  split
  · split
    · exact (JobSide.setDesc ..).trans (JobSide.setDesc ..)
    · exact JobSide.setDesc ..
  · exact JobSide.refl c t

theorem JobSide.destroyDesc (c : Nat) (t : Tray) (d s : Nat) : JobSide c t (t.destroyDesc d s) := by
  unfold Tray.destroyDesc
  dsimp only
  refine JobSide.trans ?_ (JobSide.reapDesc ..)
  split
  · exact (JobSide.setDesc ..).trans (JobSide.setDesc ..)
  · exact JobSide.setDesc ..

theorem JobSide.dropJobDescs (c : Nat) (t : Tray) (d j : Nat) : JobSide c t (t.dropJobDescs d j) := by
  unfold Tray.dropJobDescs
  refine JobSide.each _ _ (fun t s _ => ?_) _
  dsimp only
  split
  · exact (JobSide.setDesc ..).trans (JobSide.destroyDesc ..)
  · exact (JobSide.setDesc ..).trans (JobSide.reapDesc ..)

theorem JobSide.setInbox (c : Nat) (t : Tray) (d i : Nat) (x : InboxSt) : JobSide c t (t.setInbox d i x) :=
  JobSide.modDealer ..
theorem JobSide.setSlot (c : Nat) (t : Tray) (d j : Nat) (x : SlotSt) : JobSide c t (t.setSlot d j x) :=
  JobSide.modDealer ..

/-- A write by the Dealer whose fault, if any, is noted. -/
theorem JobSide.storeNoted (c : Nat) (t : Tray) (v : Via) (addr : Nat) (l : List Byte) (m : Nat) (hm : m < 64) :
    JobSide c t (match (t.writeBytes c v addr l).1 with
      | some f => (t.writeBytes c v addr l).2.noteFault c m f
      | none => (t.writeBytes c v addr l).2) := by
  split
  · exact (JobSide.writeBytes ..).trans (JobSide.noteFault c _ m _ hm)
  · exact JobSide.writeBytes ..

theorem JobSide.recordDone (c : Nat) (t : Tray) (i e : Nat) (b : Bool) : JobSide c t (t.recordDone c i e b) := by
  unfold Tray.recordDone
  have hm := t.inSeat_lt c i
  dsimp only
  split
  · exact JobSide.refl c t
  · refine JobSide.trans ?_ (JobSide.setInbox ..)
    split
    · exact JobSide.noteFault c t _ _ hm
    · exact JobSide.storeNoted c t _ _ _ _ hm

theorem JobSide.inBad (c : Nat) (t : Tray) (i : Nat) (hi : i < 16) : JobSide c t (t.inBad c i) :=
  JobSide.sf c t (inPg c) (F.DLR_IN_STS_BAD.nth i) _ (jobFree_inPg c) (by show 0x100 ≤ 0x110 + 0x20 * i ∧ 0x110 + 0x20 * i < 0x800; omega)

theorem JobSide.inStore (c : Nat) (t : Tray) (i e : Nat) (p : Pkt) (hi : i < 16) : JobSide c t (t.inStore c i e p) := by
  unfold Tray.inStore
  have hm := t.inSeat_lt c i
  extract_lets x n cur have_ close data
  split
  · exact (JobSide.setInbox ..).trans (JobSide.inBad c _ i hi)
  · rename_i w t1 a t2 _
    have h1 : JobSide c t t1 := JobSide.storeNoted c t _ _ _ _ hm
    split
    · exact (h1.trans (JobSide.setInbox ..)).trans (JobSide.recordDone ..)
    · exact h1.trans (JobSide.setInbox ..)

theorem JobSide.inResume (c i : Nat) (hi : i < 16) (n : Nat) (t : Tray) : JobSide c t (t.inResume c i n) := by
  induction n generalizing t with
  | zero => exact JobSide.refl c t
  | succ n ih =>
    unfold Tray.inResume
    dsimp only
    split
    · exact ((JobSide.setInbox ..).trans (JobSide.inStore c _ i _ _ hi)).trans (ih _)
    · exact JobSide.refl c t

theorem JobSide.inReturn (c : Nat) (t : Tray) (i : Nat) (hi : i < 16) : JobSide c t (t.inReturn c i) := by
  unfold Tray.inReturn
  dsimp only
  split
  · exact JobSide.refl c t
  · exact (((JobSide.destroyDesc ..).trans (JobSide.setInbox ..)).trans
      (JobSide.sf c _ (inPg c) (F.DLR_IN_TD_HANDLE.nth i) _ (jobFree_inPg c) (by
        show 0x100 ≤ 0x118 + 0x20 * i ∧ 0x118 + 0x20 * i < 0x800; omega))).trans (JobSide.inResume c i hi _ _)

theorem JobSide.originate (c : Nat) (t : Tray) (d e : Nat) (o : Owner) (p : Pkt) : JobSide c t (t.originate d e o p) := by
  refine ⟨fun _ _ _ _ => rfl, fun d' e' => ?_, rfl, rfl, rfl, rfl, rfl, rfl, rfl, rfl, rfl, rfl, rfl, rfl, rfl, rfl,
    rfl, rfl⟩
  unfold Tray.originate Tray.modPort Tray.setPort Tray.port
  simp only [Assoc.get_set]
  by_cases h : d' * 64 + e' = d * 64 + e
  · exact ⟨_, by rw [if_pos h, h]⟩
  · exact ⟨(Assoc.get (fun _ => {}) t.ports (d' * 64 + e')).origq, by rw [if_neg h]⟩

theorem JobSide.jobEnd (c : Nat) (t : Tray) (j st detail : Nat) (hj : j < 32) : JobSide c t (t.jobEnd c j st detail) := by
  unfold Tray.jobEnd
  have hp := jobFree_jobPg c
  have hd := jobFree_dlrPg c
  have ho : ∀ f : Fld, f.off = 0x110 → 0x100 ≤ (f.nth j).off ∧ (f.nth j).off < 0x800 := fun f h => by
    show 0x100 ≤ f.off + 0x20 * j ∧ f.off + 0x20 * j < 0x800; omega
  extract_lets pg m s t1 t2 t3 t4 t5 t6
  have h1 : JobSide c t t1 := ((JobSide.sf c t (jobPg c) (F.DLR_JOB_CTL_STATE.nth j) J.IDLE hp (ho _ rfl)).trans
    (JobSide.sf c _ (jobPg c) (F.DLR_JOB_CTL_STATUS.nth j) st hp (ho _ rfl))).trans
    (JobSide.sf c _ (jobPg c) (F.DLR_JOB_CTL_DETAIL.nth j) detail hp (ho _ rfl))
  have h2 : JobSide c t t2 := h1.trans ((JobSide.sf c _ (dlrPg c) F.DLR_JOB_END_SLOTS _ hd (by decide)).trans
    (JobSide.raise c _ (dlrPg c) 8 hd))
  have h3 : JobSide c t t3 := h2.trans (JobSide.each _ _ (fun t i hi => JobSide.inReturn c t i
    (List.mem_range.1 (List.mem_filter.1 hi).1)) _)
  have h5 : JobSide c t t5 := ((h3.trans (JobSide.modDealer ..)).trans (JobSide.dropJobDescs ..)).trans
    (JobSide.setSlot ..)
  have h6 : JobSide c t t6 := by
    show JobSide c t (if _ then t5 else _)
    split
    · exact h5
    · exact h5.trans (JobSide.charge c _ m N.JOB_FAIL 1 (t.jobSeat_lt c j) (by decide))
  split
  · exact h6.trans (JobSide.originate ..)
  · exact h6

theorem JobSide.jobFault (c : Nat) (t : Tray) (j : Nat) (f : Flt) (hj : j < 32) : JobSide c t (t.jobFault c j f) := by
  unfold Tray.jobFault
  refine (JobSide.noteFault c t (t.jobSeat c j) f (t.jobSeat_lt c j)).trans ?_
  split <;> exact JobSide.jobEnd c _ j _ _ hj

theorem JobSide.slotWait (c : Nat) (t : Tray) (j : Nat) (w : SlotWait) (hj : j < 32) :
    JobSide c t (t.slotWait c j w) := by
  unfold Tray.slotWait
  exact ((JobSide.setSlot ..).trans (JobSide.sf c _ (jobPg c) (F.DLR_JOB_CTL_STATE.nth j) _ (jobFree_jobPg c) (by
    show 0x100 ≤ 0x110 + 0x20 * j ∧ 0x110 + 0x20 * j < 0x800; omega))).trans (JobSide.modDealer ..)

theorem insTbl_lt (w : BitVec 512) : insTbl w < 256 := Nat.mod_lt _ (by decide)
theorem insIncCtr_lt (w : BitVec 512) : insIncCtr w < 16 := Nat.mod_lt _ (by decide)

theorem JobSide.incCtr (c : Nat) (t : Tray) (tb i n : Nat) (ht : tb < 256) (hi : i < 16) :
    JobSide c t (t.incCtr c tb i n) :=
  JobSide.sf c t (tblPg c tb) (ctrFld i) _ (jobFree_tblPg c tb ht) (by show 0x100 ≤ 0x180 + 8 * i ∧ 0x180 + 8 * i < 0x800; omega)

theorem JobSide.retire (c : Nat) (t : Tray) (j : Nat) (w : BitVec 512) (hj : j < 32) : JobSide c t (t.retire c j w) := by
  unfold Tray.retire
  have h1 : JobSide c t (((t.cnt (jobPg c) (F.DLR_JOB_CTL_RETIRED.nth j) 1).cnt (dlrPg c) F.DLR_RETIRED_COUNT 1).charge c
      (t.jobSeat c j) N.DLR_INSTR 1) := ((JobSide.sf c t (jobPg c) (F.DLR_JOB_CTL_RETIRED.nth j) (t.gf _ (F.DLR_JOB_CTL_RETIRED.nth j) + 1) (jobFree_jobPg c) (by
    show 0x100 ≤ 0x110 + 0x20 * j ∧ 0x110 + 0x20 * j < 0x800; omega)).trans
    (JobSide.sf c _ (dlrPg c) F.DLR_RETIRED_COUNT _ (jobFree_dlrPg c) (by decide))).trans
    (JobSide.charge c _ (t.jobSeat c j) N.DLR_INSTR 1 (t.jobSeat_lt c j) (by decide))
  dsimp only
  refine (JobSide.trans ?_ (JobSide.slotWait c _ j .none hj)).trans (JobSide.setSlot ..)
  split
  · exact h1.trans (JobSide.incCtr c _ _ _ 1 (insTbl_lt w) (insIncCtr_lt w))
  · exact h1

/-- Noting the operations that have ended touches what jobs touch. -/
theorem JobSide.dealerSweep (c : Nat) (t : Tray) : JobSide c t (t.dealerSweep c) := by
  unfold Tray.dealerSweep
  refine JobSide.each _ _ (fun t j hj => ?_) _
  have hj : j < 32 := List.mem_range.1 hj
  split
  · split
    · split
      · exact JobSide.jobFault c t j _ hj
      · exact JobSide.retire c t j _ hj
    · exact JobSide.jobEnd c t j _ _ hj
  · exact JobSide.refl c t

end Sys2Proof.Machine
end

