-- ==== Sys2Proof/Laws/RunC.lean ====
section
/-! SUPPORT. What a command leaves after the job slots have noted the operations that ended: everything outside the places
that jobs write is as the command's own change leaves it. -/
namespace Sys2Proof.Machine

/-- A page that no Dealer job of any chip writes. -/
def jobFreeAll (q : Nat) : Prop := ∀ c, c < 5 → jobFree c q

theorem jobFreeAll_of (q : Nat) (h : q % 4096 < 0x200 ∨ 5 * 4096 ≤ q) : jobFreeAll q := by
  intro c hc; unfold jobFree; omega

theorem State.runC_eq (s : State) (c : Nat) (f : Tray → Tray) :
    s.runC c f = s.run (fun t => (f t).dealerSweep c) := rfl

theorem State.runC_rd (s : State) (c : Nat) (f : Tray → Tray) (q o : Nat) (hq : jobFree c q) (ho : o < 4096) :
    (s.runC c f).tray.rd q o = (f s.tray).rd q o := by
  rw [State.runC_eq, State.run_rd]; exact (JobSide.dealerSweep c _).rd q o ho hq

/-- Noting the ends leaves the header registers and the shadows of every page. -/
theorem State.runC_keeps (s : State) (c : Nat) (f : Tray → Tray) (q o : Nat) (hq : jobFree c q ∨ headOrShadow o)
    (ho : o < 4096) : (s.runC c f).tray.rd q o = (f s.tray).rd q o := by
  rw [State.runC_eq, State.run_rd]; exact (JobSide.dealerSweep c _).keeps q o ho hq

theorem State.runC_gf (s : State) (c : Nat) (f : Tray → Tray) (q : Nat) (g : Fld) (hq : jobFree c q) (ho : g.off < 4096) :
    (s.runC c f).tray.gf q g = (f s.tray).gf q g := by unfold Tray.gf; rw [s.runC_rd c f q _ hq ho]

theorem State.runC_port (s : State) (c : Nat) (f : Tray → Tray) (d e : Nat) :
    ∃ q, (s.runC c f).tray.port d e = { (f s.tray).port d e with origq := q } := by
  rw [State.runC_eq, State.run_port]; exact (JobSide.dealerSweep c _).ports d e

@[simp] theorem State.runC_chips (s : State) (c : Nat) (f : Tray → Tray) : (s.runC c f).tray.chips = (f s.tray).chips := by
  rw [State.runC_eq, State.run_chips]; exact (JobSide.dealerSweep c _).chips

@[simp] theorem State.runC_lanes (s : State) (c : Nat) (f : Tray → Tray) : (s.runC c f).tray.lanes = (f s.tray).lanes := by
  rw [State.runC_eq, State.run_lanes]; exact (JobSide.dealerSweep c _).lanes

@[simp] theorem State.runC_bays (s : State) (c : Nat) (f : Tray → Tray) : (s.runC c f).tray.bays = (f s.tray).bays := by
  rw [State.runC_eq, State.run_bays]; exact (JobSide.dealerSweep c _).bays

@[simp] theorem State.runC_tables (s : State) (c : Nat) (f : Tray → Tray) : (s.runC c f).tray.tables = (f s.tray).tables := by
  rw [State.runC_eq, State.run_tables]; exact (JobSide.dealerSweep c _).tables

@[simp] theorem State.runC_nodes (s : State) (c : Nat) (f : Tray → Tray) : (s.runC c f).tray.nodes = (f s.tray).nodes := by
  rw [State.runC_eq, State.run_nodes]; exact (JobSide.dealerSweep c _).nodes

@[simp] theorem State.runC_bar2 (s : State) (c : Nat) (f : Tray → Tray) : (s.runC c f).tray.bar2 = (f s.tray).bar2 := by
  rw [State.runC_eq, State.run_bar2]; exact (JobSide.dealerSweep c _).bar2

@[simp] theorem State.runC_aer (s : State) (c : Nat) (f : Tray → Tray) : (s.runC c f).tray.aer = (f s.tray).aer := by
  rw [State.runC_eq, State.run_aer]; exact (JobSide.dealerSweep c _).aer

@[simp] theorem State.runC_dirty (s : State) (c : Nat) (f : Tray → Tray) : (s.runC c f).tray.dirty = (f s.tray).dirty := by
  rw [State.runC_eq, State.run_dirty]; exact (JobSide.dealerSweep c _).dirty

@[simp] theorem State.runC_master (s : State) (c : Nat) (f : Tray → Tray) : (s.runC c f).tray.master = (f s.tray).master := by
  rw [State.runC_eq, State.run_master]; exact (JobSide.dealerSweep c _).master

@[simp] theorem State.runC_logq (s : State) (c : Nat) (f : Tray → Tray) : (s.runC c f).tray.logq = (f s.tray).logq := by
  rw [State.runC_eq, State.run_logq]; exact (JobSide.dealerSweep c _).logq

@[simp] theorem State.runC_hk (s : State) (c : Nat) (f : Tray → Tray) : (s.runC c f).tray.hk = (f s.tray).hk := by
  rw [State.runC_eq, State.run_hk]; exact (JobSide.dealerSweep c _).hk

@[simp] theorem State.runC_fram (s : State) (c : Nat) (f : Tray → Tray) : (s.runC c f).tray.fram = (f s.tray).fram := by
  rw [State.runC_eq, State.run_fram]; exact (JobSide.dealerSweep c _).fram

@[simp] theorem State.runC_chip (s : State) (c : Nat) (f : Tray → Tray) (d : Nat) :
    (s.runC c f).tray.chip d = (f s.tray).chip d := by simp [Tray.chip]

@[simp] theorem State.runC_lane (s : State) (c : Nat) (f : Tray → Tray) (d n : Nat) :
    (s.runC c f).tray.lane d n = (f s.tray).lane d n := by simp [Tray.lane]

@[simp] theorem State.runC_bay (s : State) (c : Nat) (f : Tray → Tray) (b : Nat) :
    (s.runC c f).tray.bay b = (f s.tray).bay b := by simp [Tray.bay]

@[simp] theorem State.runC_table (s : State) (c : Nat) (f : Tray → Tray) (d tb : Nat) :
    (s.runC c f).tray.table d tb = (f s.tray).table d tb := by simp [Tray.table]

@[simp] theorem State.runC_node (s : State) (c : Nat) (f : Tray → Tray) (n : Nat) :
    (s.runC c f).tray.node n = (f s.tray).node n := by simp [Tray.node]

@[simp] theorem State.runC_pending (s : State) (c : Nat) (f : Tray → Tray) : (s.runC c f).pending = s.pending := by
  rw [State.runC_eq, State.run_pending]

theorem State.runC_emits (s : State) (c : Nat) (f : Tray → Tray) {x : Out} (h : x ∈ (f s.tray).out) :
    x ∈ (s.runC c f).tray.out := State.run_emits _ _ (by rw [(JobSide.dealerSweep c _).out]; exact h)

@[simp] theorem State.runC_leases (s : State) (c : Nat) (f : Tray → Tray) :
    (s.runC c f).leases = leasesAfter (f s.tray) s.leases := by
  rw [State.runC_eq, State.run_leases]; unfold leasesAfter; rw [(JobSide.dealerSweep c _).wipe]

theorem State.runC_hal (s : State) (c : Nat) (f : Tray → Tray) : (f s.tray).hal.sameBut (s.runC c f).tray.hal := by
  have := State.run_hal s (fun t => (f t).dealerSweep c)
  rw [(JobSide.dealerSweep c _).hal] at this; exact this

/-! ### Every chip's slots -/

/-- What every chip's sweep leaves, sweepAll leaves. -/
theorem Tray.sweepAll_same {β : Type} (g : Tray → β) (h : ∀ c t, c < 5 → g (t.dealerSweep c) = g t) (t : Tray) :
    g t.sweepAll = g t := by
  unfold Tray.sweepAll
  exact Tray.each_same g (fun t c => t.dealerSweep c) (List.range 5) (fun t c hc => h c t (List.mem_range.1 hc)) t

theorem State.runD_eq (s : State) (f : Tray → Tray) : s.runD f = s.run (fun t => (f t).sweepAll) := rfl

theorem State.runD_rd (s : State) (f : Tray → Tray) (q o : Nat) (hq : jobFreeAll q) (ho : o < 4096) :
    (s.runD f).tray.rd q o = (f s.tray).rd q o := by
  rw [State.runD_eq, State.run_rd]
  exact Tray.sweepAll_same (fun t => t.rd q o) (fun c t hc => (JobSide.dealerSweep c t).rd q o ho (hq c hc)) _

/-- Noting the ends leaves the header registers and the shadows of every page. -/
theorem State.runD_keeps (s : State) (f : Tray → Tray) (q o : Nat) (hq : headOrShadow o) (ho : o < 4096) :
    (s.runD f).tray.rd q o = (f s.tray).rd q o := by
  rw [State.runD_eq, State.run_rd]
  exact Tray.sweepAll_same (fun t => t.rd q o) (fun c t _ => (JobSide.dealerSweep c t).keeps q o ho (.inr hq)) _

theorem State.runD_gf (s : State) (f : Tray → Tray) (q : Nat) (g : Fld) (hq : jobFreeAll q) (ho : g.off < 4096) :
    (s.runD f).tray.gf q g = (f s.tray).gf q g := by unfold Tray.gf; rw [s.runD_rd f q _ hq ho]

theorem Tray.sweepAll_chips (t : Tray) : t.sweepAll.chips = t.chips :=
  Tray.sweepAll_same (fun t => t.chips) (fun c t _ => (JobSide.dealerSweep c t).chips) t

theorem Tray.sweepAll_lanes (t : Tray) : t.sweepAll.lanes = t.lanes :=
  Tray.sweepAll_same (fun t => t.lanes) (fun c t _ => (JobSide.dealerSweep c t).lanes) t

theorem Tray.sweepAll_bays (t : Tray) : t.sweepAll.bays = t.bays :=
  Tray.sweepAll_same (fun t => t.bays) (fun c t _ => (JobSide.dealerSweep c t).bays) t

theorem Tray.sweepAll_tables (t : Tray) : t.sweepAll.tables = t.tables :=
  Tray.sweepAll_same (fun t => t.tables) (fun c t _ => (JobSide.dealerSweep c t).tables) t

theorem Tray.sweepAll_nodes (t : Tray) : t.sweepAll.nodes = t.nodes :=
  Tray.sweepAll_same (fun t => t.nodes) (fun c t _ => (JobSide.dealerSweep c t).nodes) t

theorem Tray.sweepAll_bar2 (t : Tray) : t.sweepAll.bar2 = t.bar2 :=
  Tray.sweepAll_same (fun t => t.bar2) (fun c t _ => (JobSide.dealerSweep c t).bar2) t

theorem Tray.sweepAll_aer (t : Tray) : t.sweepAll.aer = t.aer :=
  Tray.sweepAll_same (fun t => t.aer) (fun c t _ => (JobSide.dealerSweep c t).aer) t

theorem Tray.sweepAll_dirty (t : Tray) : t.sweepAll.dirty = t.dirty :=
  Tray.sweepAll_same (fun t => t.dirty) (fun c t _ => (JobSide.dealerSweep c t).dirty) t

theorem Tray.sweepAll_master (t : Tray) : t.sweepAll.master = t.master :=
  Tray.sweepAll_same (fun t => t.master) (fun c t _ => (JobSide.dealerSweep c t).master) t

theorem Tray.sweepAll_logq (t : Tray) : t.sweepAll.logq = t.logq :=
  Tray.sweepAll_same (fun t => t.logq) (fun c t _ => (JobSide.dealerSweep c t).logq) t

theorem Tray.sweepAll_hk (t : Tray) : t.sweepAll.hk = t.hk :=
  Tray.sweepAll_same (fun t => t.hk) (fun c t _ => (JobSide.dealerSweep c t).hk) t

theorem Tray.sweepAll_fram (t : Tray) : t.sweepAll.fram = t.fram :=
  Tray.sweepAll_same (fun t => t.fram) (fun c t _ => (JobSide.dealerSweep c t).fram) t

theorem Tray.sweepAll_out (t : Tray) : t.sweepAll.out = t.out :=
  Tray.sweepAll_same (fun t => t.out) (fun c t _ => (JobSide.dealerSweep c t).out) t

theorem Tray.sweepAll_zq (t : Tray) : t.sweepAll.zq = t.zq :=
  Tray.sweepAll_same (fun t => t.zq) (fun c t _ => (JobSide.dealerSweep c t).zq) t

theorem Tray.sweepAll_wipe (t : Tray) : t.sweepAll.wipe = t.wipe :=
  Tray.sweepAll_same (fun t => t.wipe) (fun c t _ => (JobSide.dealerSweep c t).wipe) t

/-- What every sweep leaves, a command that sweeps leaves as its own change does. The sweep stands as a variable so that no
check has to look into it. -/
theorem State.run_after_same {β : Type} (g : Tray → β) (hg : ∀ (s : State) (k : Tray → Tray), g (s.run k).tray = g (k s.tray))
    (s : State) (f w : Tray → Tray) (h : ∀ t, g (w t) = g t) : g (s.run (fun t => w (f t))).tray = g (f s.tray) :=
  (hg s _).trans (h _)

@[simp] theorem State.runD_chips (s : State) (f : Tray → Tray) : (s.runD f).tray.chips = (f s.tray).chips :=
  State.run_after_same (fun t => t.chips) (fun s k => s.run_chips k) s f Tray.sweepAll Tray.sweepAll_chips

@[simp] theorem State.runD_lanes (s : State) (f : Tray → Tray) : (s.runD f).tray.lanes = (f s.tray).lanes :=
  State.run_after_same (fun t => t.lanes) (fun s k => s.run_lanes k) s f Tray.sweepAll Tray.sweepAll_lanes

@[simp] theorem State.runD_bays (s : State) (f : Tray → Tray) : (s.runD f).tray.bays = (f s.tray).bays :=
  State.run_after_same (fun t => t.bays) (fun s k => s.run_bays k) s f Tray.sweepAll Tray.sweepAll_bays

@[simp] theorem State.runD_tables (s : State) (f : Tray → Tray) : (s.runD f).tray.tables = (f s.tray).tables :=
  State.run_after_same (fun t => t.tables) (fun s k => s.run_tables k) s f Tray.sweepAll Tray.sweepAll_tables

@[simp] theorem State.runD_nodes (s : State) (f : Tray → Tray) : (s.runD f).tray.nodes = (f s.tray).nodes :=
  State.run_after_same (fun t => t.nodes) (fun s k => s.run_nodes k) s f Tray.sweepAll Tray.sweepAll_nodes

@[simp] theorem State.runD_bar2 (s : State) (f : Tray → Tray) : (s.runD f).tray.bar2 = (f s.tray).bar2 :=
  State.run_after_same (fun t => t.bar2) (fun s k => s.run_bar2 k) s f Tray.sweepAll Tray.sweepAll_bar2

@[simp] theorem State.runD_aer (s : State) (f : Tray → Tray) : (s.runD f).tray.aer = (f s.tray).aer :=
  State.run_after_same (fun t => t.aer) (fun s k => s.run_aer k) s f Tray.sweepAll Tray.sweepAll_aer

@[simp] theorem State.runD_dirty (s : State) (f : Tray → Tray) : (s.runD f).tray.dirty = (f s.tray).dirty :=
  State.run_after_same (fun t => t.dirty) (fun s k => s.run_dirty k) s f Tray.sweepAll Tray.sweepAll_dirty

@[simp] theorem State.runD_master (s : State) (f : Tray → Tray) : (s.runD f).tray.master = (f s.tray).master :=
  State.run_after_same (fun t => t.master) (fun s k => s.run_master k) s f Tray.sweepAll Tray.sweepAll_master

@[simp] theorem State.runD_logq (s : State) (f : Tray → Tray) : (s.runD f).tray.logq = (f s.tray).logq :=
  State.run_after_same (fun t => t.logq) (fun s k => s.run_logq k) s f Tray.sweepAll Tray.sweepAll_logq

@[simp] theorem State.runD_hk (s : State) (f : Tray → Tray) : (s.runD f).tray.hk = (f s.tray).hk :=
  State.run_after_same (fun t => t.hk) (fun s k => s.run_hk k) s f Tray.sweepAll Tray.sweepAll_hk

@[simp] theorem State.runD_fram (s : State) (f : Tray → Tray) : (s.runD f).tray.fram = (f s.tray).fram :=
  State.run_after_same (fun t => t.fram) (fun s k => s.run_fram k) s f Tray.sweepAll Tray.sweepAll_fram

@[simp] theorem State.runD_chip (s : State) (f : Tray → Tray) (d : Nat) :
    (s.runD f).tray.chip d = (f s.tray).chip d := by simp [Tray.chip]

@[simp] theorem State.runD_lane (s : State) (f : Tray → Tray) (d n : Nat) :
    (s.runD f).tray.lane d n = (f s.tray).lane d n := by simp [Tray.lane]

@[simp] theorem State.runD_bay (s : State) (f : Tray → Tray) (b : Nat) :
    (s.runD f).tray.bay b = (f s.tray).bay b := by simp [Tray.bay]

@[simp] theorem State.runD_table (s : State) (f : Tray → Tray) (d tb : Nat) :
    (s.runD f).tray.table d tb = (f s.tray).table d tb := by simp [Tray.table]

@[simp] theorem State.runD_node (s : State) (f : Tray → Tray) (n : Nat) :
    (s.runD f).tray.node n = (f s.tray).node n := by simp [Tray.node]

@[simp] theorem State.runD_pending (s : State) (f : Tray → Tray) : (s.runD f).pending = s.pending := by
  rw [State.runD_eq, State.run_pending]

theorem State.run_after_emits (s : State) (f w : Tray → Tray) (h : ∀ t, (w t).out = t.out) {x : Out}
    (hx : x ∈ (f s.tray).out) : x ∈ (s.run (fun t => w (f t))).tray.out := by
  have := h (f s.tray)
  exact State.run_emits s _ (this.symm ▸ hx)

theorem State.runD_emits (s : State) (f : Tray → Tray) {x : Out} (h : x ∈ (f s.tray).out) :
    x ∈ (s.runD f).tray.out := State.run_after_emits s f Tray.sweepAll Tray.sweepAll_out h

theorem State.run_after_leases (s : State) (f w : Tray → Tray) (h : ∀ t, (w t).wipe = t.wipe) :
    (s.run (fun t => w (f t))).leases = leasesAfter (f s.tray) s.leases := by
  have := h (f s.tray)
  rw [State.run_leases]; unfold leasesAfter; rw [this]

@[simp] theorem State.runD_leases (s : State) (f : Tray → Tray) :
    (s.runD f).leases = leasesAfter (f s.tray) s.leases := State.run_after_leases s f Tray.sweepAll Tray.sweepAll_wipe

end Sys2Proof.Machine
end

