-- ==== Sys2Proof/Laws/Access.lean ====
section
/-! SUPPORT. Accesses: what a write that is performed does, field by field; an access that is not performed. -/
namespace Sys2Proof.Machine

@[simp] theorem chipPg_div (c p : Nat) (h : p < 4096) : chipPg c p / 4096 = c := by unfold chipPg; omega
@[simp] theorem chipPg_mod (c p : Nat) (h : p < 4096) : chipPg c p % 4096 = p := by unfold chipPg; omega
@[simp] theorem chip0_div (c : Nat) : chip0 c / 4096 = c := chipPg_div c 0 (by decide)
@[simp] theorem chip0_mod (c : Nat) : chip0 c % 4096 = 0 := chipPg_mod c 0 (by decide)

/-! ### A settled chip -/

theorem Tray.settled_congr {t u : Tray} (h : u.dealers = t.dealers) (c : Nat) : u.settled c ↔ t.settled c := by
  unfold Tray.settled Tray.slot Tray.dealer; rw [h]

/-- Where no slot has an end to note, noting the ends changes nothing. -/
theorem Tray.dealerSweep_settled (t : Tray) (c : Nat) (h : t.settled c) : t.dealerSweep c = t := by
  unfold Tray.dealerSweep
  refine Tray.each_keeps (fun u => u = t) _ _ (fun u j hj hu => ?_) t rfl
  subst hu
  have := h j (List.mem_range.1 hj)
  split
  · rename_i st e; exact absurd e (this st)
  · rfl

theorem State.runC_settled (s : State) (c : Nat) (f : Tray → Tray) (h : (f s.tray).settled c) : s.runC c f = s.run f := by
  rw [State.runC_eq]
  unfold State.run
  simp only [Tray.dealerSweep_settled _ c h]

/-- A write's ends are noted where jobs write, and nowhere else. -/
theorem Tray.sweep_rd (t : Tray) (sp q o : Nat) (hq : jobFree sp q) (ho : o < 4096) : (t.sweep sp).rd q o = t.rd q o := by
  unfold Tray.sweep
  split
  · exact (JobSide.dealerSweep sp t).rd q o ho hq
  · rfl

theorem Tray.sweep_side (t : Tray) (sp : Nat) : JobSide sp t (t.sweep sp) := by
  unfold Tray.sweep
  split
  · exact JobSide.dealerSweep sp t
  · exact JobSide.refl sp t

theorem Tray.sweep_settled (t : Tray) (sp : Nat) (h : t.settled sp) : t.sweep sp = t := by
  unfold Tray.sweep
  split
  · exact t.dealerSweep_settled sp h
  · rfl

/-! ### Accesses that are performed -/

theorem Tray.accepts_iff (t : Tray) (sp page off : Nat) : t.accepts sp page off = true ↔
    t.reaches sp = true ∧ pageKind (sp * 4096 + page) ≠ none ∧ off % 8 = 0 ∧
      t.domainUp (sp * 4096 + page) off = true := by
  simp [Tray.accepts, Option.isSome_iff_ne_none, and_assoc]

theorem Tray.write8_active (t : Tray) (src sp page off : Nat) (v : Word) (h : t.accepts sp page off = true)
    (ho : off < 0x800) :
    t.write8 src sp page off v = (t.writeActive (sp * 4096 + page) off v src).sweep sp := by
  obtain ⟨h1, h2, h3, h4⟩ := (t.accepts_iff ..).1 h
  simp only [Tray.write8, h1, h2, h3, h4, not_true_eq_false, if_false, ne_eq, if_pos ho]

theorem Tray.write8_shadow (t : Tray) (src sp page off : Nat) (v : Word) (h : t.accepts sp page off = true)
    (ho : 0x800 ≤ off) : t.write8 src sp page off v = t.writeShadow (sp * 4096 + page) off v src := by
  obtain ⟨h1, h2, h3, h4⟩ := (t.accepts_iff ..).1 h
  simp only [Tray.write8, h1, h2, h3, h4, not_true_eq_false, if_false, ne_eq, if_neg (Nat.not_lt.2 ho)]

/-- A write that changes no staged field goes to the header or the block. -/
theorem Tray.writeActive_found (t : Tray) (pg off : Nat) (v : Word) (src : Nat) (r : RegDesc) (h : findReg pg off = some r)
    (hs : (v ^^^ t.rd pg off) &&& r.rwsMask = 0) :
    t.writeActive pg off v src = if off < 0x100 then t.writeHeader pg off r v (Origin.wr src off)
      else t.writeBlock pg off r v (Origin.wr src off) := by
  unfold Tray.writeActive
  rw [h]
  simp only [hs, ne_eq, not_true_eq_false, if_false]

/-! ### The fields of a register -/

/-- The fields lie in the word and do not overlap. -/
def fieldsFit (l : List FieldDesc) : Bool :=
  l.all (fun f => decide (f.fld.lo + f.fld.w ≤ 64)) &&
    decide (l.Pairwise (fun f g => f.fld.lo + f.fld.w ≤ g.fld.lo ∨ g.fld.lo + g.fld.w ≤ f.fld.lo))

theorem fieldsFit_cons (f : FieldDesc) (l : List FieldDesc) (h : fieldsFit (f :: l) = true) :
    f.fld.lo + f.fld.w ≤ 64 ∧ fieldsFit l = true ∧
      ∀ g ∈ l, f.fld.lo + f.fld.w ≤ g.fld.lo ∨ g.fld.lo + g.fld.w ≤ f.fld.lo := by
  simp only [fieldsFit, List.all_cons, Bool.and_eq_true, decide_eq_true_eq, List.pairwise_cons] at h ⊢
  tauto

theorem fieldsFit_mem {l : List FieldDesc} (h : fieldsFit l = true) {f : FieldDesc} (hf : f ∈ l) :
    f.fld.lo + f.fld.w ≤ 64 := by
  simp only [fieldsFit, Bool.and_eq_true, List.all_eq_true, decide_eq_true_eq] at h
  exact h.1 f hf

/-- Values put into some of the fields: a field put reads as its value, any other as before. -/
theorem foldFields_get (p : FieldDesc → Bool) (q : FieldDesc → Nat → Bool) (x v : Word) (n : Nat) (l : List FieldDesc)
    (hl : fieldsFit l = true) (g : FieldDesc) (hg : g ∈ l ∨ (g.fld.lo + g.fld.w ≤ 64 ∧
      ∀ f ∈ l, f.fld.lo + f.fld.w ≤ g.fld.lo ∨ g.fld.lo + g.fld.w ≤ f.fld.lo)) :
    g.fld.get (l.foldl (fun (a : Word × Nat) f =>
      if p f then (if q f (f.fld.get v) then (f.fld.put a.1 (f.fld.get v), a.2) else (a.1, a.2 + 1)) else a)
        (x, n)).1 =
      if g ∈ l ∧ p g = true ∧ q g (g.fld.get v) = true then g.fld.get v else g.fld.get x := by
  induction l generalizing x n with
  | nil => simp
  | cons f l ih =>
    obtain ⟨hf, hl', hd⟩ := fieldsFit_cons f l hl
    rw [List.foldl_cons]
    have tail : ∀ y m, g ∈ l ∨ (g.fld.lo + g.fld.w ≤ 64 ∧
        ∀ f ∈ l, f.fld.lo + f.fld.w ≤ g.fld.lo ∨ g.fld.lo + g.fld.w ≤ f.fld.lo) → _ := fun y m hg => ih y m hl' hg
    by_cases hgl : g ∈ l
    · have hne := hd g hgl
      have hgw := fieldsFit_mem hl' hgl
      by_cases hp : p f = true
      · by_cases hq : q f (f.fld.get v) = true
        · simp only [hp, hq, if_true]
          rw [tail _ _ (.inl hgl)]
          simp only [hgl, true_and, List.mem_cons, or_true]
          rw [f.fld.get_put_ne g.fld _ _ hf hgw hne.symm]
        · simp only [hp, hq, if_true]
          rw [if_neg (by simp), tail _ _ (.inl hgl)]
          simp only [hgl, true_and, List.mem_cons, or_true]
      · simp only [hp]
        rw [if_neg (by simp), tail _ _ (.inl hgl)]
        simp only [hgl, true_and, List.mem_cons, or_true]
    · by_cases he : g = f
      · subst he
        have hfree : g ∈ l ∨ (g.fld.lo + g.fld.w ≤ 64 ∧
            ∀ f ∈ l, f.fld.lo + f.fld.w ≤ g.fld.lo ∨ g.fld.lo + g.fld.w ≤ f.fld.lo) :=
          .inr ⟨hf, fun f' hf' => (hd f' hf').symm⟩
        by_cases hp : p g = true
        · by_cases hq : q g (g.fld.get v) = true
          · simp only [hp, hq, if_true]
            rw [tail _ _ hfree]
            simp only [hgl, false_and, if_false, List.mem_cons, or_false, hp, hq, and_self, if_true]
            rw [g.fld.get_put _ _ hf, Nat.mod_eq_of_lt (g.fld.get_lt v hf)]
          · simp only [hp, hq, if_true]
            rw [if_neg (by simp), tail _ _ hfree]
            simp [hgl, hq]
        · simp only [hp]
          rw [if_neg (by simp), tail _ _ hfree]
          simp [hgl, hp]
      · have hgf := (hg.resolve_left (by simp [he, hgl]))
        have hfree : g ∈ l ∨ (g.fld.lo + g.fld.w ≤ 64 ∧
            ∀ f ∈ l, f.fld.lo + f.fld.w ≤ g.fld.lo ∨ g.fld.lo + g.fld.w ≤ f.fld.lo) :=
          .inr ⟨hgf.1, fun f' hf' => hgf.2 f' (List.mem_cons_of_mem _ hf')⟩
        have hmem : ¬ g ∈ f :: l := by simp [he, hgl]
        simp only [hmem, false_and, if_false]
        by_cases hp : p f = true
        · by_cases hq : q f (f.fld.get v) = true
          · simp only [hp, hq, if_true]
            rw [tail _ _ hfree]
            simp only [hgl, false_and, if_false]
            exact f.fld.get_put_ne g.fld _ _ hf hgf.1 (hgf.2 f (List.mem_cons_self ..)).symm
          · simp only [hp, hq, if_true]
            rw [if_neg (by simp), tail _ _ hfree]
            simp [hgl]
        · simp only [hp]
          rw [if_neg (by simp), tail _ _ hfree]
          simp [hgl]

/-- The fields of every register of the map fit (R464). -/
theorem blockRegs_fit (k : PageKind) : ∀ r ∈ blockRegs k, fieldsFit r.fields = true := by
  cases k <;> decide +kernel

theorem hdrRegs_fit : ∀ r ∈ hdrRegs, fieldsFit r.fields = true := by decide +kernel

theorem findReg_fit {pg off : Nat} {r : RegDesc} (h : findReg pg off = some r) : fieldsFit r.fields = true := by
  unfold findReg at h
  split at h
  · exact absurd h (by simp)
  · split at h
    · exact hdrRegs_fit r (List.mem_of_find?_eq_some h)
    · split at h
      · exact blockRegs_fit _ r (List.mem_of_find?_eq_some h)
      · exact absurd h (by simp)

/-! ### RW and W1C fields of a write -/

theorem Tray.each_recErr_rd (t : Tray) (pg code n : Nat) (og : Origin) (q o : Nat) (h : o % 4096 ≠ 0x60 ∧ o % 4096 ≠ 0x20) :
    (t.each (List.range n) (fun t _ => t.recErr pg code og)).rd q o = t.rd q o :=
  Tray.each_same (fun u => u.rd q o) _ _ (fun u _ _ => u.rd_recErr_off pg code og q o h) t

/-- Errors recorded on a page change no register but PG_ERR_CAPT and PG_IRQ_RAW of the page, and no block. -/
theorem Tray.each_recErr_keeps (t : Tray) (pg code n : Nat) (og : Origin) (q o : Nat)
    (h1 : regKey q o ≠ regKey pg A.PG_ERR_CAPT) (h2 : regKey q o ≠ regKey pg A.PG_IRQ_RAW) :
    (t.each (List.range n) (fun t _ => t.recErr pg code og)).rd q o = t.rd q o :=
  Tray.each_same (fun u => u.rd q o) _ _ (fun u _ _ => u.rd_recErr pg code og q o h1 h2) t

theorem Tray.keepsBlocks_refl (t : Tray) : t.keepsBlocks t := ⟨rfl, rfl, rfl, rfl, rfl, rfl, rfl, rfl⟩

theorem Tray.keepsBlocks.trans {t u v : Tray} (a : t.keepsBlocks u) (b : u.keepsBlocks v) : t.keepsBlocks v :=
  ⟨b.1.trans a.1, b.2.1.trans a.2.1, b.2.2.1.trans a.2.2.1, b.2.2.2.1.trans a.2.2.2.1, b.2.2.2.2.1.trans a.2.2.2.2.1,
   b.2.2.2.2.2.1.trans a.2.2.2.2.2.1, b.2.2.2.2.2.2.1.trans a.2.2.2.2.2.2.1, b.2.2.2.2.2.2.2.trans a.2.2.2.2.2.2.2⟩

theorem Tray.keepsBlocks_wr (t : Tray) (pg off : Nat) (v : Word) : t.keepsBlocks (t.wr pg off v) :=
  ⟨rfl, rfl, rfl, rfl, rfl, rfl, rfl, rfl⟩
theorem Tray.keepsBlocks_sf (t : Tray) (pg : Nat) (f : Fld) (v : Nat) : t.keepsBlocks (t.sf pg f v) :=
  ⟨rfl, rfl, rfl, rfl, rfl, rfl, rfl, rfl⟩
theorem Tray.keepsBlocks_raise (t : Tray) (pg b : Nat) : t.keepsBlocks (t.raise pg b) := by
  refine ⟨?_, ?_, ?_, ?_, ?_, ?_, ?_, ?_⟩ <;> simp
theorem Tray.keepsBlocks_recErr (t : Tray) (pg code : Nat) (o : Origin) : t.keepsBlocks (t.recErr pg code o) := by
  refine ⟨?_, ?_, ?_, ?_, ?_, ?_, ?_, ?_⟩ <;> simp
theorem Tray.keepsBlocks_logEv (t : Tray) (ev : Ev) (src : Nat) (d : List Nat) : t.keepsBlocks (t.logEv ev src d) :=
  ⟨rfl, rfl, rfl, rfl, rfl, rfl, rfl, rfl⟩
theorem Tray.keepsBlocks_emit (t : Tray) (o : Out) : t.keepsBlocks (t.emit o) := ⟨rfl, rfl, rfl, rfl, rfl, rfl, rfl, rfl⟩

theorem Tray.keepsBlocks_each {α : Type} (l : List α) (f : Tray → α → Tray) (h : ∀ (t : Tray) a, a ∈ l → t.keepsBlocks (f t a))
    (t : Tray) : t.keepsBlocks (t.each l f) :=
  Tray.each_keeps (t.keepsBlocks) f l (fun u a ha hu => hu.trans (h u a ha)) t t.keepsBlocks_refl

theorem Tray.keepsBlocks.run {s : State} {f : Tray → Tray} (h : s.tray.keepsBlocks (f s.tray)) :
    s.tray.keepsBlocks (s.run f).tray := by
  obtain ⟨h1, h2, h3, h4, h5, h6, h7, h8⟩ := h
  refine ⟨?_, ?_, ?_, ?_, ?_, ?_, ?_, ?_⟩ <;> simp [*]

/-- The RW fields of a register take their values where these are no reserved encodings; its other fields stay. -/
theorem Tray.putRw_get (t : Tray) (pg off : Nat) (r : RegDesc) (v : Word) (og : Origin) (hr : fieldsFit r.fields = true)
    (ho : off % 4096 ≠ 0x60 ∧ off % 4096 ≠ 0x20) (g : FieldDesc) (hg : g ∈ r.fields) :
    g.fld.get ((t.putRw pg off r v og).rd pg off) =
      if g.acc = .rw ∧ encOk pg g (g.fld.get v) = true then g.fld.get v else g.fld.get (t.rd pg off) := by
  unfold Tray.putRw
  dsimp only
  rw [Tray.each_recErr_rd _ _ _ _ _ _ _ ho, Tray.rd_wr_self]
  have := foldFields_get (fun f => decide (f.acc = .rw)) (fun f x => encOk pg f x) (t.rd pg off) v 0 r.fields hr g (.inl hg)
  simp only [decide_eq_true_eq] at this
  rw [this]
  simp only [hg, true_and]

theorem Tray.putRw_rd (t : Tray) (pg off : Nat) (r : RegDesc) (v : Word) (og : Origin) (q o : Nat)
    (h : regKey q o ≠ regKey pg off) (h1 : regKey q o ≠ regKey pg A.PG_ERR_CAPT)
    (h2 : regKey q o ≠ regKey pg A.PG_IRQ_RAW) : (t.putRw pg off r v og).rd q o = t.rd q o := by
  unfold Tray.putRw
  dsimp only
  rw [Tray.each_recErr_keeps _ _ _ _ _ _ _ h1 h2, Tray.rd_wr, if_neg h]

theorem Tray.putRw_blocks (t : Tray) (pg off : Nat) (r : RegDesc) (v : Word) (og : Origin) :
    t.keepsBlocks (t.putRw pg off r v og) :=
  (t.keepsBlocks_wr ..).trans (Tray.keepsBlocks_each _ _ (fun u _ _ => u.keepsBlocks_recErr ..) _)

/-- A register without W1C fields: the W1C pass changes nothing. -/
theorem Tray.putW1c_none (t : Tray) (pg off : Nat) (r : RegDesc) (v : Word) (h : ∀ f ∈ r.fields, f.acc ≠ .w1c) :
    t.putW1c pg off r v = t := by
  unfold Tray.putW1c
  rw [List.filter_eq_nil_iff.2 (fun f hf => by simpa using h f hf)]
  rfl

/-- A register without a rule of its own takes its RW fields and clears its W1C fields. -/
theorem Tray.writeBlock_plain (t : Tray) (pg off : Nat) (r : RegDesc) (v : Word) (src : Nat) (h : t.plainAt pg off r v src) :
    t.writeBlock pg off r v (Origin.wr src off) = (t.putRw pg off r v (Origin.wr src off)).putW1c pg off r v := by
  unfold Tray.writeBlock
  by_cases hc : isChipPg pg = true
  · obtain ⟨h1, h2⟩ := h.1 hc
    simp only [hc, not_true_eq_false, if_false, if_neg h1]
    by_cases hu : (t.chip (pg / 4096)).coreUp = true
    · rw [if_pos hu, h2 hu, Option.getD_none]
    · rw [if_neg hu]
  · have hc' : isChipPg pg = false := by simpa using hc
    simp only [hc', Bool.false_eq_true, not_false_eq_true, if_true]
    rw [h.2 hc', Option.getD_none]

theorem findReg_hdr {pg off : Nat} (h : pageKind pg ≠ none) (ho : off < 0x100) :
    findReg pg off = hdrRegs.find? (fun r => r.has off) := by
  unfold findReg
  split
  · exact absurd (by assumption) h
  · rw [if_pos ho]

/-- A write to PG_IRQ_RAW clears the bits written as 1 (R98). -/
theorem Tray.writeActive_irqRaw (t : Tray) (pg : Nat) (v : Word) (src : Nat) (h : pageKind pg ≠ none) :
    t.writeActive pg 0x20 v src = t.wr pg 0x20 (t.rd pg 0x20 &&& ~~~v) := by
  obtain ⟨r, hr, e1, e2⟩ : ∃ r, hdrRegs.find? (fun r => r.has 0x20) = some r ∧ r.rwsMask = 0 ∧
      r.fields.filter (fun f => decide (f.acc = .w1c)) = [⟨F.PG_IRQ_RAW_RAW, .w1c, false, .any⟩] := by decide +kernel
  rw [t.writeActive_found pg 0x20 v src r ((findReg_hdr h (by decide)).trans hr) (by rw [e1]; simp), if_pos (by decide)]
  unfold Tray.writeHeader
  rw [if_neg (by decide), if_neg (by decide), if_neg (by decide), if_neg (by decide)]
  unfold Tray.putW1c
  rw [e2]
  have : v &&& maskW F.PG_IRQ_RAW_RAW.w <<< F.PG_IRQ_RAW_RAW.lo = v := by
    have : maskW F.PG_IRQ_RAW_RAW.w <<< F.PG_IRQ_RAW_RAW.lo = BitVec.allOnes 64 := by decide +kernel
    rw [this, BitVec.and_allOnes]
  simp only [Tray.each, List.foldl_cons, List.foldl_nil]
  rw [if_neg (by decide), this]

/-- A write of VALID to PG_ERR_CAPT clears the register (R101). -/
theorem Tray.writeActive_errCapt (t : Tray) (pg : Nat) (v : Word) (src : Nat) (h : pageKind pg ≠ none)
    (hx : pageKind pg ≠ some .xlt) (hv : F.PG_ERR_CAPT_VALID.get v = 1) :
    t.writeActive pg 0x60 v src = t.wr pg 0x60 0 := by
  obtain ⟨r, hr, e1, e2⟩ : ∃ r, hdrRegs.find? (fun r => r.has 0x60) = some r ∧ r.rwsMask = 0 ∧
      r.fields.filter (fun f => decide (f.acc = .w1c)) = [⟨F.PG_ERR_CAPT_VALID, .w1c, false, .any⟩] := by decide +kernel
  rw [t.writeActive_found pg 0x60 v src r ((findReg_hdr h (by decide)).trans hr) (by rw [e1]; simp), if_pos (by decide)]
  unfold Tray.writeHeader
  rw [if_neg (by decide), if_neg (by decide), if_neg (by decide), if_neg (by decide)]
  unfold Tray.putW1c
  rw [e2]
  simp only [Tray.each, List.foldl_cons, List.foldl_nil]
  rw [if_pos (by decide), if_pos hv, if_neg hx]

/-! ### Accesses that are not performed -/

@[simp] theorem Tray.unsupported_regs (t : Tray) (pg off width : Nat) (w : Bool) :
    (t.unsupported pg off width w).regs = t.regs := by
  unfold Tray.unsupported Tray.aerWrite; split_ifs <;> rfl

@[simp] theorem Tray.unsupported_rd (t : Tray) (pg off width : Nat) (w : Bool) (q o : Nat) :
    (t.unsupported pg off width w).rd q o = t.rd q o := Tray.rd_congr (by simp) ..

theorem Tray.unsupported_blocks (t : Tray) (pg off width : Nat) (w : Bool) :
    t.keepsBlocks (t.unsupported pg off width w) := by
  unfold Tray.unsupported Tray.aerWrite
  split_ifs <;> exact ⟨rfl, rfl, rfl, rfl, rfl, rfl, rfl, rfl⟩

/-- How an unsupported request shows: a read of a chip is answered, a write reported, the Halvoren's core gets a bus error
(R73, R76). -/
theorem Tray.unsupported_shows (t : Tray) (sp page off width : Nat) (w : Bool) (hp : page < 4096) :
    (sp < 5 → if w then ⟨sp, page, off, width, true, false⟩ ∈ (t.unsupported (sp * 4096 + page) off width w).aer
      else Out.completion sp .unsupported 0 ∈ (t.unsupported (sp * 4096 + page) off width w).out) ∧
    (sp = 5 → Out.busError page off ∈ (t.unsupported (sp * 4096 + page) off width w).out) := by
  have h1 : (sp * 4096 + page) / 4096 = sp := by omega
  have h2 : (sp * 4096 + page) % 4096 = page := by omega
  refine ⟨fun h => ?_, fun h => ?_⟩
  · have : isChipPg (sp * 4096 + page) = true := by unfold isChipPg; simp; omega
    unfold Tray.unsupported Tray.aerWrite
    cases w <;> simp [this, h1, h2, Tray.emit]
  · have : isChipPg (sp * 4096 + page) = false := by unfold isChipPg; simp; omega
    unfold Tray.unsupported
    simp [this, h2, Tray.emit]

/-- An error recorded on a page whose capture is clear raises the page's bit 3 (R101). -/
theorem Tray.recErr_irq (t : Tray) (pg code : Nat) (o : Origin) (h : t.gf pg F.PG_ERR_CAPT_VALID = 0) :
    (t.recErr pg code o).irqUp pg 3 := by
  unfold Tray.recErr
  rw [if_neg (by simp [Tray.is, h])]
  refine Tray.raise_sets _ _ _ ?_ (by decide)
  unfold irqDefined bitOf irqMask
  split <;> first | rfl | skip
  split <;> rfl

theorem Tray.recErr_holds (t : Tray) (pg code : Nat) (o : Origin) (h : t.gf pg F.PG_ERR_CAPT_VALID = 0) (ho : o.off < 4096) :
    (t.recErr pg code o).holdsErr pg code o.off o.src o.isWrite (t.timeOf (pg / 4096)) := by
  unfold Tray.holdsErr
  rw [t.recErr_first pg code o h, Nat.mod_eq_of_lt ho]

theorem Tray.recErr_keepsRegs (t : Tray) (pg code : Nat) (og : Origin) :
    t.keepsRegs (t.recErr pg code og) (fun q o => q = pg ∧ (o = 0x60 ∨ o = 0x20)) := fun q o ho hn => by
  refine t.rd_recErr pg code og q o ?_ ?_ <;> rw [Ne, regKey_inj ho (by decide)] <;>
    intro e <;> exact hn ⟨e.1, by simp [e.2, A.PG_ERR_CAPT, A.PG_IRQ_RAW]⟩

theorem Tray.wr_keepsRegs (t : Tray) (pg off : Nat) (v : Word) (h : off < 4096) :
    t.keepsRegs (t.wr pg off v) (fun q o => q = pg ∧ o = off) := fun q o ho hn => by
  rw [Tray.rd_wr, if_neg]; rw [regKey_inj ho h]; exact hn

theorem Tray.domainAbort_rd (t : Tray) (pg off src : Nat) (w : Bool) (q o : Nat) :
    (t.domainAbort pg off src w).rd q o = (t.recErr (chip0 (pg / 4096)) E.DOMAIN_DOWN ⟨src, off, w⟩).rd q o := by
  unfold Tray.domainAbort Tray.aerWrite
  cases w <;> exact Tray.rd_congr rfl ..

theorem Tray.domainAbort_blocks (t : Tray) (pg off src : Nat) (w : Bool) : t.keepsBlocks (t.domainAbort pg off src w) := by
  have h := t.keepsBlocks_recErr (chip0 (pg / 4096)) E.DOMAIN_DOWN ⟨src, off, w⟩
  unfold Tray.domainAbort Tray.aerWrite
  cases w <;> exact ⟨h.1, h.2.1, h.2.2.1, h.2.2.2.1, h.2.2.2.2.1, h.2.2.2.2.2.1, h.2.2.2.2.2.2.1, h.2.2.2.2.2.2.2⟩

theorem Tray.domainAbort_shows (t : Tray) (pg off src : Nat) (w : Bool) :
    if w then ⟨pg / 4096, pg % 4096, off, 8, true, true⟩ ∈ (t.domainAbort pg off src w).aer
      else Out.completion (pg / 4096) .abort 0 ∈ (t.domainAbort pg off src w).out := by
  unfold Tray.domainAbort Tray.aerWrite
  cases w <;> simp [Tray.emit]

/-! ### Chains of updates that stay within a set of registers -/

/-- Only registers in `R` change, and no block. -/
structure Tray.Stays (t u : Tray) (R : Nat → Nat → Prop) : Prop where
  regs : t.keepsRegs u R
  blocks : t.keepsBlocks u

namespace Tray.Stays
variable {t u v : Tray} {R : Nat → Nat → Prop}

theorem refl (t : Tray) (R : Nat → Nat → Prop) : t.Stays t R := ⟨fun _ _ _ _ => rfl, t.keepsBlocks_refl⟩
theorem trans (a : t.Stays u R) (b : u.Stays v R) : t.Stays v R :=
  ⟨fun q o ho hq => (b.regs q o ho hq).trans (a.regs q o ho hq), a.blocks.trans b.blocks⟩
theorem mono {Q : Nat → Nat → Prop} (a : t.Stays u R) (h : ∀ q o, R q o → Q q o) : t.Stays u Q :=
  ⟨fun q o ho hq => a.regs q o ho (fun hr => hq (h q o hr)), a.blocks⟩
theorem wr (a : t.Stays u R) {pg off : Nat} (x : Word) (hR : R pg off) (ho : off < 4096) : t.Stays (u.wr pg off x) R :=
  a.trans ⟨fun _ _ hq hn => u.wr_keepsRegs pg off x ho _ _ hq (fun e => hn (e.1 ▸ e.2 ▸ hR)), u.keepsBlocks_wr ..⟩
theorem sf (a : t.Stays u R) {pg : Nat} {f : Fld} (x : Nat) (hR : R pg f.off) (ho : f.off < 4096) :
    t.Stays (u.sf pg f x) R := a.wr _ hR ho
theorem sb (a : t.Stays u R) {pg : Nat} {f : Fld} (x : Bool) (hR : R pg f.off) (ho : f.off < 4096) :
    t.Stays (u.sb pg f x) R := a.wr _ hR ho
theorem cnt (a : t.Stays u R) {pg : Nat} {f : Fld} (x : Nat) (hR : R pg f.off) (ho : f.off < 4096) :
    t.Stays (u.cnt pg f x) R := a.wr _ hR ho
theorem sat (a : t.Stays u R) {pg : Nat} {f : Fld} (x : Nat) (hR : R pg f.off) (ho : f.off < 4096) :
    t.Stays (u.sat pg f x) R := a.wr _ hR ho
theorem raise (a : t.Stays u R) {pg : Nat} (b : Nat) (hR : R pg 0x20) : t.Stays (u.raise pg b) R :=
  a.trans ⟨fun q o ho hn => u.rd_raise pg b q o (by
    rw [Ne, regKey_inj ho (by decide)]; intro e; exact hn (e.1 ▸ e.2 ▸ hR)), u.keepsBlocks_raise ..⟩
theorem recErr (a : t.Stays u R) {pg : Nat} (code : Nat) (og : Origin) (h1 : R pg 0x60) (h2 : R pg 0x20) :
    t.Stays (u.recErr pg code og) R :=
  a.trans ⟨fun q o ho hn => u.recErr_keepsRegs pg code og q o ho (fun ⟨e, k⟩ => hn (by
    rcases k with k | k <;> rw [e, k] <;> assumption)), u.keepsBlocks_recErr ..⟩
theorem logEv (a : t.Stays u R) (ev : Ev) (src : Nat) (d : List Nat) : t.Stays (u.logEv ev src d) R :=
  a.trans ⟨fun _ _ _ _ => rfl, u.keepsBlocks_logEv ..⟩
theorem logChip (a : t.Stays u R) (ev : Ev) (c : Nat) (d : List Nat) : t.Stays (u.logChip ev c d) R := a.logEv ..
theorem emit (a : t.Stays u R) (x : Out) : t.Stays (u.emit x) R := a.trans ⟨fun _ _ _ _ => rfl, u.keepsBlocks_emit ..⟩
theorem each {α : Type} (l : List α) (f : Tray → α → Tray) (h : ∀ (t : Tray) a, a ∈ l → t.Stays (f t a) R)
    (a : t.Stays u R) : t.Stays (u.each l f) R :=
  Tray.each_keeps (fun w => t.Stays w R) f l (fun w x hx hw => hw.trans (h w x hx)) u a
theorem bar2Wr (a : t.Stays u R) (c o : Nat) (x : BitVec 32) : t.Stays (u.bar2Wr c o x) R :=
  a.trans ⟨fun _ _ _ _ => rfl, rfl, rfl, rfl, rfl, rfl, rfl, rfl, rfl⟩
theorem setMsi (a : t.Stays u R) (l : List Nat) : t.Stays { u with msiReq := l } R :=
  a.trans ⟨fun _ _ _ _ => rfl, rfl, rfl, rfl, rfl, rfl, rfl, rfl, rfl⟩
theorem setHk (a : t.Stays u R) (x : HkSt) : t.Stays { u with hk := x } R :=
  a.trans ⟨fun _ _ _ _ => rfl, rfl, rfl, rfl, rfl, rfl, rfl, rfl, rfl⟩
theorem setHal (a : t.Stays u R) (x : HalSt) : t.Stays { u with hal := x } R :=
  a.trans ⟨fun _ _ _ _ => rfl, rfl, rfl, rfl, rfl, rfl, rfl, rfl, rfl⟩
theorem setFram (a : t.Stays u R) (x : FramSt) : t.Stays { u with fram := x } R :=
  a.trans ⟨fun _ _ _ _ => rfl, rfl, rfl, rfl, rfl, rfl, rfl, rfl, rfl⟩
theorem setLogq (a : t.Stays u R) (x : List LogEntry) : t.Stays { u with logq := x } R :=
  a.trans ⟨fun _ _ _ _ => rfl, rfl, rfl, rfl, rfl, rfl, rfl, rfl, rfl⟩
theorem setZq (a : t.Stays u R) (x : List ZSend) : t.Stays { u with zq := x } R :=
  a.trans ⟨fun _ _ _ _ => rfl, rfl, rfl, rfl, rfl, rfl, rfl, rfl, rfl⟩
theorem setMaster (a : t.Stays u R) (x : Nat) : t.Stays { u with master := x } R :=
  a.trans ⟨fun _ _ _ _ => rfl, rfl, rfl, rfl, rfl, rfl, rfl, rfl, rfl⟩
theorem setDirty (a : t.Stays u R) (x : List Nat) : t.Stays { u with dirty := x } R :=
  a.trans ⟨fun _ _ _ _ => rfl, rfl, rfl, rfl, rfl, rfl, rfl, rfl, rfl⟩
theorem setWatch (a : t.Stays u R) (c i : Nat) (w : WatchSt) : t.Stays (u.setWatch c i w) R :=
  a.trans ⟨fun _ _ _ _ => rfl, rfl, rfl, rfl, rfl, rfl, rfl, rfl, rfl⟩
theorem zsend (a : t.Stays u R) (m ty : Nat) (b : List Byte) (k : Bool) : t.Stays (u.zsend m ty b k) R :=
  a.trans ⟨fun _ _ _ _ => rfl, rfl, rfl, rfl, rfl, rfl, rfl, rfl, rfl⟩
theorem zboth (a : t.Stays u R) (ty : Nat) (b : List Byte) (k : Bool) : t.Stays (u.zboth ty b k) R :=
  (a.zsend ..).zsend ..
/-- An update of the records that are no block: the management, the log, the outputs. -/
theorem of_eq (hr : u.regs = t.regs) (h : t.keepsBlocks u) : t.Stays u R := ⟨fun q o _ _ => Tray.rd_congr hr q o, h⟩

theorem run {s : State} {f : Tray → Tray} (h : s.tray.Stays (f s.tray) R) :
    s.tray.keepsRegs (s.run f).tray R ∧ s.tray.keepsBlocks (s.run f).tray :=
  ⟨fun q o ho hq => by rw [State.run_rd]; exact h.regs q o ho hq, h.blocks.run⟩

theorem settled (h : t.Stays u R) {c : Nat} (hc : t.settled c) : u.settled c :=
  (Tray.settled_congr h.blocks.2.2.2.2.2.1 c).2 hc
end Tray.Stays

/-! ### Reads -/

/-- Values of a word put into the fields that `p` picks, one register write each. -/
theorem each_put_rd (pg off : Nat) (v : Word) (p : FieldDesc → Bool) (l : List FieldDesc) (t : Tray) (n : Nat) :
    (t.each (l.filter p) (fun t f => t.wr pg off (f.fld.put (t.rd pg off) (f.fld.get v)))).rd pg off =
      (l.foldl (fun (a : Word × Nat) f =>
        if p f then (if (fun _ _ => true : FieldDesc → Nat → Bool) f (f.fld.get v) then
          (f.fld.put a.1 (f.fld.get v), a.2) else (a.1, a.2 + 1)) else a) (t.rd pg off, n)).1 := by
  unfold Tray.each
  induction l generalizing t with
  | nil => rfl
  | cons f l ih =>
    by_cases h : p f = true
    · rw [List.filter_cons_of_pos h, List.foldl_cons, List.foldl_cons, ih]
      simp only [h, if_true, Tray.rd_wr_self]
    · rw [List.filter_cons_of_neg h, List.foldl_cons, ih]
      rw [if_neg h]

/-- A read resets the RC fields of its register and leaves the others (R81). -/
theorem Tray.clearRc_get (t : Tray) (pg off : Nat) (r : RegDesc) (hr : fieldsFit r.fields = true)
    (hx : ¬ (pageKind pg = some .circ ∧ off = A.CIRC_XERR)) (g : FieldDesc) (hg : g ∈ r.fields) :
    g.fld.get ((t.clearRc pg off r).rd pg off) =
      if g.acc = .rc then g.fld.get (activeReset pg off) else g.fld.get (t.rd pg off) := by
  unfold Tray.clearRc
  dsimp only
  rw [if_neg hx, each_put_rd pg off _ _ r.fields t 0, foldFields_get _ (fun _ _ => true) _ _ _ _ hr g (.inl hg)]
  simp only [hg, true_and, decide_eq_true_eq, and_true]

theorem Tray.clearRc_stays (t : Tray) (pg off : Nat) (r : RegDesc) (ho : off < 4096)
    (hx : ¬ (pageKind pg = some .circ ∧ off = A.CIRC_XERR)) :
    t.Stays (t.clearRc pg off r) (fun q o => q = pg ∧ o = off) := by
  unfold Tray.clearRc
  dsimp only
  rw [if_neg hx]
  exact Tray.Stays.each _ _ (fun u f _ => (Tray.Stays.refl u _).wr _ ⟨rfl, rfl⟩ ho) (Tray.Stays.refl t _)

theorem Tray.read8_ok (t : Tray) (l : Leases) (src sp page off : Nat) (h : t.accepts sp page off = true) :
    t.read8 l src sp page off = (some (t.readPage l (sp * 4096 + page) off src).1,
      (t.readPage l (sp * 4096 + page) off src).2) := by
  obtain ⟨h1, h2, h3, h4⟩ := (t.accepts_iff ..).1 h
  simp only [Tray.read8, h1, h2, h3, h4, not_true_eq_false, if_false, ne_eq]

/-! ### Staging -/

/-- A shadow write while no COMMIT is pending. -/
theorem Tray.writeShadow_free (t : Tray) (pg off : Nat) (v : Word) (src : Nat) (r : RegDesc)
    (h : findReg pg (off - 0x800) = some r) (hm : r.rwsMask ≠ 0) (hp : t.gf pg F.PG_COMMIT_STS_PENDING = 0)
    (hd : ¬ (r.off = A.CNT_DUMP_CFG ∧ pageKind pg = some .dump)) :
    ∃ n, t.writeShadow pg off v src =
      (t.wr pg off (r.fields.foldl (fun (a : Word × Nat) f =>
        if decide (f.acc = .rws) then
          (if stagedOk pg f (f.fld.get v) then (f.fld.put a.1 (f.fld.get v), a.2) else (a.1, a.2 + 1))
        else a) (t.rd pg off, 0)).1).each (List.range n) (fun t _ => t.recErr pg E.RESERVED_ENC (Origin.wr src off)) := by
  refine ⟨(r.fields.foldl (fun (a : Word × Nat) f =>
    if f.acc = .rws then
      (if stagedOk pg f (f.fld.get v) then (f.fld.put a.1 (f.fld.get v), a.2) else (a.1, a.2 + 1))
    else a) (t.rd pg off, 0)).2, ?_⟩
  unfold Tray.writeShadow
  rw [h]
  simp only [Option.filter, bne_iff_ne, ne_eq, hm, not_false_eq_true, if_true, Tray.is, hp, hd, if_false, beq_iff_eq,
    zero_ne_one, decide_eq_true_eq]

/-- While a COMMIT is pending a shadow write changes nothing (R92). -/
theorem Tray.writeShadow_locked (t : Tray) (pg off : Nat) (v : Word) (src : Nat) (r : RegDesc)
    (h : findReg pg (off - 0x800) = some r) (hm : r.rwsMask ≠ 0) (hp : t.gf pg F.PG_COMMIT_STS_PENDING = 1) :
    t.writeShadow pg off v src = t.recErr pg E.SHADOW_LOCKED (Origin.wr src off) := by
  unfold Tray.writeShadow
  rw [h]
  simp only [Option.filter, bne_iff_ne, ne_eq, hm, not_false_eq_true, if_true, Tray.is, hp, beq_self_eq_true]

/-- A page of the common header's registers: a write of PG_COMMIT with GO (R91). -/
theorem Tray.writeActive_commit (t : Tray) (pg src : Nat) (h : pageKind pg ≠ none) :
    t.writeActive pg A.PG_COMMIT (F.PG_COMMIT_GO.put 0 1) src = t.commitGo pg := by
  obtain ⟨r, hr, e1⟩ : ∃ r, hdrRegs.find? (fun r => r.has A.PG_COMMIT) = some r ∧ r.rwsMask = 0 := by decide +kernel
  rw [t.writeActive_found pg _ _ src r ((findReg_hdr h (by decide)).trans hr) (by rw [e1]; simp), if_pos (by decide)]
  unfold Tray.writeHeader
  rw [if_neg (by decide), if_neg (by decide), if_neg (by decide), if_pos rfl, if_pos (by decide +kernel)]

/-- A write of PG_ABORT with GO (R103). -/
theorem Tray.writeActive_abort (t : Tray) (pg src : Nat) (h : pageKind pg ≠ none) :
    t.writeActive pg A.PG_ABORT (F.PG_ABORT_GO.put 0 1) src = t.abortGo pg (Origin.wr src A.PG_ABORT) := by
  obtain ⟨r, hr, e1⟩ : ∃ r, hdrRegs.find? (fun r => r.has A.PG_ABORT) = some r ∧ r.rwsMask = 0 := by decide +kernel
  rw [t.writeActive_found pg _ _ src r ((findReg_hdr h (by decide)).trans hr) (by rw [e1]; simp), if_pos (by decide)]
  unfold Tray.writeHeader
  rw [if_neg (by decide), if_neg (by decide), if_pos rfl, if_pos (by decide +kernel)]

/-- A COMMIT that is refused ends with its code held (R91, R93, R94). -/
theorem Tray.commitEnd_refused (t : Tray) (pg code off : Nat) (h : t.gf pg F.PG_ERR_CAPT_VALID = 0) (ho : off < 4096) :
    let u := t.commitEnd pg (some (code, off))
    u.gf pg F.PG_COMMIT_STS_PENDING = 0 ∧ u.gf pg F.PG_COMMIT_STS_DONE = 1 ∧ u.gf pg F.PG_COMMIT_STS_REFUSED = 1 ∧
    u.holdsErr pg code off 2 false (t.timeOf (pg / 4096)) ∧
    t.Stays u (fun q o => q = pg ∧ (o = 0x58 ∨ o = 0x60 ∨ o = 0x20)) := by
  have hoff : ∀ f : Fld, f.off = 0x58 → ∀ x : Tray, ((x.recErr pg code (Origin.commit off)).raise pg 2).gf pg f = x.gf pg f :=
    fun f hf x => by
      rw [Tray.gf_def, Tray.gf_def, hf, Tray.rd_raise_off _ _ _ _ _ (by decide), Tray.rd_recErr_off _ _ _ _ _ _ (by decide)]
  unfold Tray.commitEnd
  dsimp only
  refine ⟨?_, ?_, ?_, ?_, ?_⟩
  · rw [hoff _ rfl]; simp (disch := decide) only [Tray.sb, Tray.gf_sf_ne, Tray.gf_sf_self]; rfl
  · rw [hoff _ rfl]; simp (disch := decide) only [Tray.sb, Tray.gf_sf_ne, Tray.gf_sf_self]; rfl
  · rw [hoff _ rfl]; simp (disch := decide) only [Tray.sb, Tray.gf_sf_self]; rfl
  · unfold Tray.holdsErr
    rw [Tray.rd_raise_off _ _ _ _ _ (by decide), Tray.recErr_first _ _ _ _ (by
      unfold Tray.sb
      rw [Tray.gf_sf_off _ _ _ _ _ _ (by decide), Tray.gf_sf_off _ _ _ _ _ _ (by decide),
        Tray.gf_sf_off _ _ _ _ _ _ (by decide)]; exact h)]
    have : ∀ x : Tray, ∀ b1 b2 b3, (((x.sb pg F.PG_COMMIT_STS_PENDING b1).sb pg F.PG_COMMIT_STS_DONE b2).sb pg
        F.PG_COMMIT_STS_REFUSED b3).timeOf (pg / 4096) = x.timeOf (pg / 4096) := fun x b1 b2 b3 => by
      unfold Tray.timeOf
      split
      · rw [Tray.rd_sb_off _ _ _ _ _ _ (by decide), Tray.rd_sb_off _ _ _ _ _ _ (by decide),
          Tray.rd_sb_off _ _ _ _ _ _ (by decide)]
      · rfl
    rw [this, show (Origin.commit off).off = off from rfl, Nat.mod_eq_of_lt ho]
    rfl
  · exact (((((Tray.Stays.refl t _).sb _ ⟨rfl, .inl rfl⟩ (by decide)).sb _ ⟨rfl, .inl rfl⟩ (by decide)).sb _
      ⟨rfl, .inl rfl⟩ (by decide)).recErr _ _ ⟨rfl, .inr (.inl rfl)⟩ ⟨rfl, .inr (.inr rfl)⟩).raise _ ⟨rfl, .inr (.inr rfl)⟩

/-! ### BAR2 -/

theorem Tray.bar2Rd_bar2Wr (t : Tray) (c o : Nat) (v : BitVec 32) (d k : Nat) :
    (t.bar2Wr c o v).bar2Rd d k = if d * 4096 + k = c * 4096 + o then v else t.bar2Rd d k := Assoc.get_set ..
theorem Tray.bar2Rd_setMsi (t : Tray) (l : List Nat) (d k : Nat) : ({ t with msiReq := l } : Tray).bar2Rd d k = t.bar2Rd d k :=
  rfl

/-- A dword written to the MSI-X table reads back, and the table's other dwords stay. -/
theorem Tray.bar2Rd_table (t : Tray) (c off : Nat) (x : BitVec 32) (d k : Nat) (hk : k < 0x100) :
    (t.bar2Table c off x).bar2Rd d k = if d * 4096 + k = c * 4096 + off then x else t.bar2Rd d k := by
  have h1 : ∀ (t : Tray) (y : BitVec 32), (t.bar2Wr c 0x800 y).bar2Rd d k = t.bar2Rd d k := fun t y => by
    rw [Tray.bar2Rd_bar2Wr, if_neg (by omega)]
  unfold Tray.bar2Table
  dsimp only
  split
  · split
    · rw [h1, Tray.bar2Rd_bar2Wr]
    · rw [Tray.bar2Rd_setMsi, h1, Tray.bar2Rd_bar2Wr]
  · rw [Tray.bar2Rd_bar2Wr]

theorem Tray.bar2Table_stays (t : Tray) (c off : Nat) (x : BitVec 32) (R : Nat → Nat → Prop) :
    t.Stays (t.bar2Table c off x) R := by
  unfold Tray.bar2Table
  dsimp only
  split
  · split
    · exact ((Tray.Stays.refl t R).bar2Wr ..).bar2Wr ..
    · exact (((Tray.Stays.refl t R).bar2Wr ..).bar2Wr ..).setMsi _
  · exact (Tray.Stays.refl t R).bar2Wr ..

theorem bitOf_setBitOf (n i : Nat) : bitOf (setBitOf n i) i = true := by
  unfold setBitOf
  split
  · assumption
  · rename_i h
    unfold bitOf at h ⊢
    have hp : 0 < 2 ^ i := Nat.two_pow_pos i
    rw [Nat.add_div_right _ hp]
    simp only [beq_iff_eq] at h ⊢
    have := Nat.mod_two_eq_zero_or_one (n / 2 ^ i)
    omega

theorem bitOf_eq_testBit (n i : Nat) : bitOf n i = n.testBit i := by
  unfold bitOf
  rw [Nat.testBit_eq_decide_div_mod_eq]
  exact beq_eq_decide _ _

theorem setBitOf_lt (n i w : Nat) (hn : n < 2 ^ w) (hi : i < w) : setBitOf n i < 2 ^ w := by
  unfold setBitOf
  split
  · exact hn
  · rename_i h
    have h0 : n / 2 ^ i % 2 = 0 := by
      unfold bitOf at h
      have := Nat.mod_two_eq_zero_or_one (n / 2 ^ i)
      simp only [beq_iff_eq] at h
      omega
    obtain ⟨k, rfl⟩ : ∃ k, w = i + (k + 1) := ⟨w - i - 1, by omega⟩
    have hp : 0 < 2 ^ i := Nat.two_pow_pos i
    have hq : n / 2 ^ i < 2 ^ (k + 1) := by
      rw [Nat.div_lt_iff_lt_mul hp, Nat.mul_comm, ← Nat.pow_add]; exact hn
    have hq' : n / 2 ^ i + 1 < 2 ^ (k + 1) := by
      rw [Nat.pow_succ] at hq ⊢; omega
    have : (n + 2 ^ i) / 2 ^ i < 2 ^ (k + 1) := by rw [Nat.add_div_right _ hp]; exact hq'
    rw [Nat.div_lt_iff_lt_mul hp, Nat.mul_comm, ← Nat.pow_add] at this
    exact this

/-! ### Block registers -/

theorem pageKindOf_chip (c p : Nat) (hc : c < 5) : pageKindOf c p = pageKindOf 0 p := by
  simp only [pageKindOf, if_pos hc, if_pos (show (0 : Nat) < 5 by decide)]

theorem pageKind_chipPg (c p : Nat) (hc : c < 5) (hp : p < 4096) : pageKind (chipPg c p) = pageKindOf 0 p := by
  unfold pageKind
  rw [chipPg_div c p hp, chipPg_mod c p hp, pageKindOf_chip c p hc]

theorem isChipPg_chipPg (c p : Nat) (hc : c < 5) (hp : p < 4096) : isChipPg (chipPg c p) = true := by
  unfold isChipPg chipPg; simp; omega

/-- Pages of the repeated kinds. -/
theorem pageKind_portPg (c e : Nat) (hc : c < 5) (he : e < 64) : pageKind (portPg c e) = some .port := by
  unfold portPg
  rw [pageKind_chipPg c _ hc (by omega)]
  simp only [pageKindOf]
  repeat (first | rw [if_pos (by omega)] | rw [if_neg (by omega)])
theorem pageKind_lanePg (c n : Nat) (hc : c < 5) (hn : n < 256) : pageKind (lanePg c n) = some .lane := by
  unfold lanePg
  rw [pageKind_chipPg c _ hc (by omega)]
  simp only [pageKindOf]
  repeat (first | rw [if_pos (by omega)] | rw [if_neg (by omega)])
theorem pageKind_tblPg (c n : Nat) (hc : c < 5) (hn : n < 256) : pageKind (tblPg c n) = some .table := by
  unfold tblPg
  rw [pageKind_chipPg c _ hc (by omega)]
  simp only [pageKindOf]
  repeat (first | rw [if_pos (by omega)] | rw [if_neg (by omega)])
theorem pageKind_seatPg (c n : Nat) (hc : c < 5) (hn : n < 64) : pageKind (seatPg c n) = some .seat := by
  unfold seatPg
  rw [pageKind_chipPg c _ hc (by omega)]
  simp only [pageKindOf]
  repeat (first | rw [if_pos (by omega)] | rw [if_neg (by omega)])

theorem findReg_block {pg off : Nat} {k : PageKind} (h : pageKind pg = some k) (ho : 0x100 ≤ off)
    (he : regExists pg off = true) : findReg pg off = (blockRegs k).find? (fun r => r.has off) := by
  unfold findReg
  rw [h]
  simp only [he, if_true, if_neg (Nat.not_lt.2 ho)]

/-- A write to a block register without staged fields. -/
theorem Tray.writeActive_block (t : Tray) (pg off : Nat) (v : Word) (src : Nat) {k : PageKind} (h : pageKind pg = some k)
    (ho : 0x100 ≤ off) (he : regExists pg off = true)
    (hr : ∃ r, (blockRegs k).find? (fun r => r.has off) = some r ∧ r.rwsMask = 0) :
    ∃ r, (blockRegs k).find? (fun r => r.has off) = some r ∧
      t.writeActive pg off v src = t.writeBlock pg off r v (Origin.wr src off) := by
  obtain ⟨r, hf, hm⟩ := hr
  refine ⟨r, hf, ?_⟩
  rw [t.writeActive_found pg off v src r ((findReg_block h ho he).trans hf) (by rw [hm]; simp), if_neg (by omega)]

/-- A block register of a released chip with a rule of its own. -/
theorem Tray.writeBlock_own (t u : Tray) (pg off : Nat) (r : RegDesc) (v : Word) (o : Origin) (hc : isChipPg pg = true)
    (h0 : ¬ (pageKind pg = some .chip0 ∧ off = A.CHIP_TOPO)) (hu : (t.chip (pg / 4096)).coreUp = true)
    (hw : t.writeChip pg off r v o = some u) : t.writeBlock pg off r v o = u := by
  unfold Tray.writeBlock
  simp only [hc, not_true_eq_false, if_false, if_neg h0, hu, if_true, hw, Option.getD_some]

/-- A write that is performed to a register of a released chip with a rule of its own. -/
theorem Tray.write8_own (t u : Tray) (src c p off : Nat) (v : Word) (k : PageKind) (hc : c < 5) (hp : p < 4096)
    (ha : t.accepts c p off = true) (ho : 0x100 ≤ off) (ho' : off < 0x800) (hk : pageKindOf 0 p = some k)
    (he : regExists (chipPg c p) off = true)
    (hr : ∃ r, (blockRegs k).find? (fun r => r.has off) = some r ∧ r.rwsMask = 0)
    (h0 : ¬ (k = .chip0 ∧ off = A.CHIP_TOPO)) (hu : (t.chip c).coreUp = true)
    (hw : ∀ r, (blockRegs k).find? (fun r => r.has off) = some r →
      t.writeChip (chipPg c p) off r v (Origin.wr src off) = some u) :
    t.write8 src c p off v = u.sweep c := by
  have hk' := (pageKind_chipPg c p hc hp).trans hk
  obtain ⟨r, hf, e⟩ := t.writeActive_block (chipPg c p) off v src hk' ho he hr
  rw [Tray.write8_active _ _ _ _ _ _ ha ho']
  show (t.writeActive (chipPg c p) off v src).sweep c = _
  rw [e, t.writeBlock_own u (chipPg c p) off r v _ (isChipPg_chipPg c p hc hp) (by
    rw [hk']; intro h; exact h0 ⟨Option.some.inj h.1, h.2⟩) (by rw [chipPg_div c p hp]; exact hu) (hw r hf)]

theorem regExists_of (pg off : Nat) (h : pageKind pg ≠ some .port) (h' : pageKind pg ≠ some .seat) :
    regExists pg off = true := by
  unfold regExists
  rw [if_neg (fun e => h e.1), if_neg (fun e => h' e.1)]

end Sys2Proof.Machine
end

