-- ==== Sys2Proof/Laws/Like.lean ====
section
/-! SUPPORT. How a statement about a command follows from the tray that its change leaves: `Like s u` says that the state
`s` holds `u` but for what sending the command's messages touches. -/
namespace Sys2Proof.Machine

/-- The tray of the state is `u`, its messages sent. -/
def State.Like (s : State) (u : Tray) : Prop :=
  ∃ h o, s.tray = { u with hal := h, out := o ++ u.out, zq := [], wipe := false } ∧ u.hal.sameBut h

namespace State.Like
variable {s : State} {u : Tray}

theorem regs (h : s.Like u) : s.tray.regs = u.regs := by obtain ⟨_, _, e, _⟩ := h; rw [e]
theorem chips (h : s.Like u) : s.tray.chips = u.chips := by obtain ⟨_, _, e, _⟩ := h; rw [e]
theorem ports (h : s.Like u) : s.tray.ports = u.ports := by obtain ⟨_, _, e, _⟩ := h; rw [e]
theorem lanes (h : s.Like u) : s.tray.lanes = u.lanes := by obtain ⟨_, _, e, _⟩ := h; rw [e]
theorem bays (h : s.Like u) : s.tray.bays = u.bays := by obtain ⟨_, _, e, _⟩ := h; rw [e]
theorem tables (h : s.Like u) : s.tray.tables = u.tables := by obtain ⟨_, _, e, _⟩ := h; rw [e]
theorem dealers (h : s.Like u) : s.tray.dealers = u.dealers := by obtain ⟨_, _, e, _⟩ := h; rw [e]
theorem mem (h : s.Like u) : s.tray.mem = u.mem := by obtain ⟨_, _, e, _⟩ := h; rw [e]
theorem nodes (h : s.Like u) : s.tray.nodes = u.nodes := by obtain ⟨_, _, e, _⟩ := h; rw [e]
theorem watches (h : s.Like u) : s.tray.watches = u.watches := by obtain ⟨_, _, e, _⟩ := h; rw [e]
theorem bar2 (h : s.Like u) : s.tray.bar2 = u.bar2 := by obtain ⟨_, _, e, _⟩ := h; rw [e]
theorem msiReq (h : s.Like u) : s.tray.msiReq = u.msiReq := by obtain ⟨_, _, e, _⟩ := h; rw [e]
theorem aer (h : s.Like u) : s.tray.aer = u.aer := by obtain ⟨_, _, e, _⟩ := h; rw [e]
theorem dirty (h : s.Like u) : s.tray.dirty = u.dirty := by obtain ⟨_, _, e, _⟩ := h; rw [e]
theorem master (h : s.Like u) : s.tray.master = u.master := by obtain ⟨_, _, e, _⟩ := h; rw [e]
theorem logq (h : s.Like u) : s.tray.logq = u.logq := by obtain ⟨_, _, e, _⟩ := h; rw [e]
theorem hk (h : s.Like u) : s.tray.hk = u.hk := by obtain ⟨_, _, e, _⟩ := h; rw [e]
theorem fram (h : s.Like u) : s.tray.fram = u.fram := by obtain ⟨_, _, e, _⟩ := h; rw [e]
theorem act (h : s.Like u) : s.tray.act = u.act := by obtain ⟨_, _, e, _⟩ := h; rw [e]
theorem freeCtr (h : s.Like u) : s.tray.freeCtr = u.freeCtr := by obtain ⟨_, _, e, _⟩ := h; rw [e]
theorem rd (h : s.Like u) (q o : Nat) : s.tray.rd q o = u.rd q o := by obtain ⟨_, _, e, _⟩ := h; rw [e]; rfl
theorem gf (h : s.Like u) (q : Nat) (f : Fld) : s.tray.gf q f = u.gf q f := by obtain ⟨_, _, e, _⟩ := h; rw [e]; rfl
theorem is (h : s.Like u) (q : Nat) (f : Fld) : s.tray.is q f = u.is q f := by obtain ⟨_, _, e, _⟩ := h; rw [e]; rfl
theorem chip (h : s.Like u) (c : Nat) : s.tray.chip c = u.chip c := by obtain ⟨_, _, e, _⟩ := h; rw [e]; rfl
theorem port (h : s.Like u) (c e : Nat) : s.tray.port c e = u.port c e := by obtain ⟨_, _, e, _⟩ := h; rw [e]; rfl
theorem lane (h : s.Like u) (c n : Nat) : s.tray.lane c n = u.lane c n := by obtain ⟨_, _, e, _⟩ := h; rw [e]; rfl
theorem bay (h : s.Like u) (b : Nat) : s.tray.bay b = u.bay b := by obtain ⟨_, _, e, _⟩ := h; rw [e]; rfl
theorem table (h : s.Like u) (c tb : Nat) : s.tray.table c tb = u.table c tb := by obtain ⟨_, _, e, _⟩ := h; rw [e]; rfl
theorem dealer (h : s.Like u) (c : Nat) : s.tray.dealer c = u.dealer c := by obtain ⟨_, _, e, _⟩ := h; rw [e]; rfl
theorem node (h : s.Like u) (n : Nat) : s.tray.node n = u.node n := by obtain ⟨_, _, e, _⟩ := h; rw [e]; rfl
theorem watch (h : s.Like u) (c i : Nat) : s.tray.watch c i = u.watch c i := by obtain ⟨_, _, e, _⟩ := h; rw [e]; rfl
theorem memAt (h : s.Like u) (k : Nat) : s.tray.memAt k = u.memAt k := by obtain ⟨_, _, e, _⟩ := h; rw [e]; rfl
theorem bar2Rd (h : s.Like u) (c o : Nat) : s.tray.bar2Rd c o = u.bar2Rd c o := by obtain ⟨_, _, e, _⟩ := h; rw [e]; rfl
theorem slot (h : s.Like u) (c j : Nat) : s.tray.slot c j = u.slot c j := by obtain ⟨_, _, e, _⟩ := h; rw [e]; rfl
theorem hal_up (h : s.Like u) : s.tray.hal.up = u.hal.up := by
  obtain ⟨_, _, e, _, _, _, _, e'⟩ := h; rw [e]; simp only [e']
theorem hal_failed (h : s.Like u) : s.tray.hal.failed = u.hal.failed := by
  obtain ⟨_, _, e, _, _, _, _, e'⟩ := h; rw [e]; simp only [e']
theorem hal_kexA (h : s.Like u) : s.tray.hal.kexA = u.hal.kexA := by
  obtain ⟨_, _, e, _, _, _, _, e'⟩ := h; rw [e]; simp only [e']
theorem hal_kexB (h : s.Like u) : s.tray.hal.kexB = u.hal.kexB := by
  obtain ⟨_, _, e, _, _, _, _, e'⟩ := h; rw [e]; simp only [e']
theorem hal_rack (h : s.Like u) : s.tray.hal.rack = u.hal.rack := by
  obtain ⟨_, _, e, _, _, _, _, e'⟩ := h; rw [e]; simp only [e']
theorem hal_cabled (h : s.Like u) : s.tray.hal.cabled = u.hal.cabled := by
  obtain ⟨_, _, e, _, _, _, _, e'⟩ := h; rw [e]; simp only [e']
theorem hal_role (h : s.Like u) : s.tray.hal.role = u.hal.role := by
  obtain ⟨_, _, e, _, _, _, _, e'⟩ := h; rw [e]; simp only [e']
theorem hal_waitPorts (h : s.Like u) : s.tray.hal.waitPorts = u.hal.waitPorts := by
  obtain ⟨_, _, e, _, _, _, _, e'⟩ := h; rw [e]; simp only [e']
theorem hal_timeWaited (h : s.Like u) : s.tray.hal.timeWaited = u.hal.timeWaited := by
  obtain ⟨_, _, e, _, _, _, _, e'⟩ := h; rw [e]; simp only [e']
theorem hal_noStep (h : s.Like u) : s.tray.hal.noStep = u.hal.noStep := by
  obtain ⟨_, _, e, _, _, _, _, e'⟩ := h; rw [e]; simp only [e']
theorem hal_offset (h : s.Like u) : s.tray.hal.offset = u.hal.offset := by
  obtain ⟨_, _, e, _, _, _, _, e'⟩ := h; rw [e]; simp only [e']
theorem hal_slewTick (h : s.Like u) : s.tray.hal.slewTick = u.hal.slewTick := by
  obtain ⟨_, _, e, _, _, _, _, e'⟩ := h; rw [e]; simp only [e']
theorem hal_answered (h : s.Like u) : s.tray.hal.answered = u.hal.answered := by
  obtain ⟨_, _, e, _, _, _, _, e'⟩ := h; rw [e]; simp only [e']
theorem hal_staging (h : s.Like u) : s.tray.hal.staging = u.hal.staging := by
  obtain ⟨_, _, e, _, _, _, _, e'⟩ := h; rw [e]; simp only [e']
theorem hal_wire (h : s.Like u) : s.tray.hal.wire = u.hal.wire := by
  obtain ⟨_, _, e, _, _, _, _, e'⟩ := h; rw [e]; simp only [e']
theorem hal_sessions (h : s.Like u) : s.tray.hal.sessions = u.hal.sessions := by
  obtain ⟨_, _, e, _, _, _, _, e'⟩ := h; rw [e]; simp only [e']
theorem hal_accounts (h : s.Like u) : s.tray.hal.accounts = u.hal.accounts := by
  obtain ⟨_, _, e, _, _, _, _, e'⟩ := h; rw [e]; simp only [e']
theorem hal_subs (h : s.Like u) : s.tray.hal.subs = u.hal.subs := by
  obtain ⟨_, _, e, _, _, _, _, e'⟩ := h; rw [e]; simp only [e']
theorem hal_nextRf (h : s.Like u) : s.tray.hal.nextRf = u.hal.nextRf := by
  obtain ⟨_, _, e, _, _, _, _, e'⟩ := h; rw [e]; simp only [e']
theorem hal_service (h : s.Like u) : s.tray.hal.service = u.hal.service := by
  obtain ⟨_, _, e, _, _, _, _, e'⟩ := h; rw [e]; simp only [e']
theorem hal_bridge (h : s.Like u) : s.tray.hal.bridge = u.hal.bridge := by
  obtain ⟨_, _, e, _, _, _, _, e'⟩ := h; rw [e]; simp only [e']
theorem emits (h : s.Like u) {x : Out} (hx : x ∈ u.out) : x ∈ s.tray.out := by
  obtain ⟨_, _, e, _⟩ := h; rw [e]; exact List.mem_append_right _ hx
theorem holdsErr (h : s.Like u) {pg code off src : Nat} {w : Bool} {tm : Nat} (hx : u.holdsErr pg code off src w tm) :
    s.tray.holdsErr pg code off src w tm := by unfold Tray.holdsErr; rw [h.rd]; exact hx
theorem irqUp (h : s.Like u) {pg b : Nat} (hx : u.irqUp pg b) : s.tray.irqUp pg b := by
  unfold Tray.irqUp; rw [h.rd]; exact hx
theorem keepsRegs (h : s.Like u) {t : Tray} {R : Nat → Nat → Prop} (hx : t.keepsRegs u R) : t.keepsRegs s.tray R :=
  fun q o ho hq => (h.rd q o).trans (hx q o ho hq)
theorem keepsBlocks (h : s.Like u) {t : Tray} (hx : t.keepsBlocks u) : t.keepsBlocks s.tray := by
  obtain ⟨h1, h2, h3, h4, h5, h6, h7, h8⟩ := hx
  exact ⟨h.chips.trans h1, h.ports.trans h2, h.lanes.trans h3, h.bays.trans h4, h.tables.trans h5, h.dealers.trans h6,
    h.nodes.trans h7, h.mem.trans h8⟩
theorem stays (h : s.Like u) {t : Tray} {R : Nat → Nat → Prop} (hx : t.Stays u R) :
    t.keepsRegs s.tray R ∧ t.keepsBlocks s.tray := ⟨h.keepsRegs hx.regs, h.keepsBlocks hx.blocks⟩
end State.Like

theorem State.run_like (s : State) (f : Tray → Tray) (u : Tray) (hu : f s.tray = u) : (s.run f).Like u := by
  obtain ⟨h, o, e, hs⟩ := s.run_shape f
  subst hu
  exact ⟨h, o, by rw [e]; rfl, hs⟩

/-- A command whose meaning changes the tray to `u` completes in a state like `u`. -/
theorem completes_run {i : Instr} {s : State} {P : State → Prop} {f : Tray → Tray} (he : exec i s = .next (s.run f))
    {u : Tray} (hu : f s.tray = u) (hP : ∀ t : State, t.Like u → P t) : Completes i s P :=
  ⟨_, he, hP _ (s.run_like f u hu)⟩

theorem completes_runL {i : Instr} {s : State} {P : State → Prop} {f : Leases → Tray → Tray}
    (he : exec i s = .next (s.runL f)) {u : Tray} (hu : f s.leases s.tray = u) (hP : ∀ t : State, t.Like u → P t) :
    Completes i s P := completes_run he hu hP

/-- With every slot of the chip settled, noting the ends adds nothing. -/
theorem completes_runC {i : Instr} {s : State} {P : State → Prop} {c : Nat} {f : Tray → Tray}
    (he : exec i s = .next (s.runC c f)) {u : Tray} (hu : f s.tray = u) (hc : u.settled c)
    (hP : ∀ t : State, t.Like u → P t) : Completes i s P := by
  rw [s.runC_settled c f (hu ▸ hc)] at he
  exact completes_run he hu hP

/-- Otherwise it adds what jobs may change. -/
theorem completes_runC_side {i : Instr} {s : State} {P : State → Prop} {c : Nat} {f : Tray → Tray}
    (he : exec i s = .next (s.runC c f)) {u : Tray} (hu : f s.tray = u)
    (hP : ∀ (w : Tray) (t : State), JobSide c u w → t.Like w → P t) : Completes i s P :=
  completes_run he rfl (fun t ht => hP _ t (hu ▸ JobSide.dealerSweep c (f s.tray)) ht)

theorem State.runLease_like (s : State) (f : Leases → Tray → Leases × Tray) (l : Leases) (u : Tray)
    (hu : f s.leases s.tray = (l, u)) :
    (s.runLease f).Like u ∧ (s.runLease f).leases = leasesAfter u l := by
  obtain ⟨h, o, e, hs⟩ := s.runLease_shape f
  rw [hu] at e hs
  exact ⟨⟨h, o, by rw [e]; rfl, hs⟩, by rw [e]⟩

theorem completes_runLease {i : Instr} {s : State} {P : State → Prop} {f : Leases → Tray → Leases × Tray}
    (he : exec i s = .next (s.runLease f)) {l : Leases} {u : Tray} (hu : f s.leases s.tray = (l, u))
    (hP : ∀ t : State, t.Like u → t.leases = leasesAfter u l → P t) : Completes i s P :=
  ⟨_, he, hP _ (s.runLease_like f l u hu).1 (s.runLease_like f l u hu).2⟩

/-- After a command that does not change leases they stay, but where the Halvoren has been reset. -/
theorem completes_run_leases {i : Instr} {s : State} {P : State → Prop} {f : Tray → Tray} (he : exec i s = .next (s.run f))
    {u : Tray} (hu : f s.tray = u) (hP : ∀ t : State, t.Like u → t.leases = leasesAfter u s.leases → P t) :
    Completes i s P :=
  ⟨_, he, hP _ (s.run_like f u hu) (by rw [State.run_leases, hu])⟩

/-- With the slots of every chip settled, noting the ends adds nothing. -/
theorem Tray.sweepAll_quiet (t : Tray) (h : ∀ d, d < 5 → t.settled d) : t.sweepAll = t := by
  unfold Tray.sweepAll
  refine Tray.each_keeps (fun u => u = t) _ _ (fun u c hc e => ?_) t rfl
  rw [e]; exact t.dealerSweep_settled c (h c (List.mem_range.1 hc))

theorem completes_runD {i : Instr} {s : State} {P : State → Prop} {f : Tray → Tray}
    (he : exec i s = .next (s.runD f)) {u : Tray} (hu : f s.tray = u) (hc : ∀ d, d < 5 → u.settled d)
    (hP : ∀ t : State, t.Like u → P t) : Completes i s P := by
  rw [s.runD_eq] at he
  exact completes_run (u := u) he (by rw [hu]; exact u.sweepAll_quiet hc) hP

end Sys2Proof.Machine
end

