-- ==== Sys2Proof/Laws/Reads.lean ====
section
/-! SUPPORT. What each accessor reads after each named operation: the small lemmas that let a chain of updates be read
from its end. Register reads pass an update at another offset of whatever page. -/
namespace Sys2Proof.Machine

theorem Tray.gf_wr_off (t : Tray) (pg off : Nat) (v : Word) (q : Nat) (g : Fld) (h : g.off % 4096 ≠ off % 4096) :
    (t.wr pg off v).gf q g = t.gf q g := by unfold Tray.gf; rw [Tray.rd_wr_off _ _ _ _ _ _ h]
theorem Tray.is_wr_off (t : Tray) (pg off : Nat) (v : Word) (q : Nat) (g : Fld) (h : g.off % 4096 ≠ off % 4096) :
    (t.wr pg off v).is q g = t.is q g := by unfold Tray.is; rw [Tray.gf_wr_off _ _ _ _ _ _ h]
@[simp] theorem Tray.chip_wr (t : Tray) (pg off : Nat) (v : Word) (c' : Nat) : (t.wr pg off v).chip c' = t.chip c' := rfl
@[simp] theorem Tray.port_wr (t : Tray) (pg off : Nat) (v : Word) (c' e' : Nat) : (t.wr pg off v).port c' e' = t.port c' e' := rfl
@[simp] theorem Tray.lane_wr (t : Tray) (pg off : Nat) (v : Word) (c' n' : Nat) : (t.wr pg off v).lane c' n' = t.lane c' n' := rfl
@[simp] theorem Tray.bay_wr (t : Tray) (pg off : Nat) (v : Word) (b' : Nat) : (t.wr pg off v).bay b' = t.bay b' := rfl
@[simp] theorem Tray.table_wr (t : Tray) (pg off : Nat) (v : Word) (c' t' : Nat) : (t.wr pg off v).table c' t' = t.table c' t' := rfl
@[simp] theorem Tray.dealer_wr (t : Tray) (pg off : Nat) (v : Word) (c' : Nat) : (t.wr pg off v).dealer c' = t.dealer c' := rfl
@[simp] theorem Tray.slot_wr (t : Tray) (pg off : Nat) (v : Word) (c' j' : Nat) : (t.wr pg off v).slot c' j' = t.slot c' j' := rfl
@[simp] theorem Tray.node_wr (t : Tray) (pg off : Nat) (v : Word) (n' : Nat) : (t.wr pg off v).node n' = t.node n' := rfl
@[simp] theorem Tray.watch_wr (t : Tray) (pg off : Nat) (v : Word) (c' i' : Nat) : (t.wr pg off v).watch c' i' = t.watch c' i' := rfl
@[simp] theorem Tray.memAt_wr (t : Tray) (pg off : Nat) (v : Word) (k' : Nat) : (t.wr pg off v).memAt k' = t.memAt k' := rfl
@[simp] theorem Tray.bar2Rd_wr (t : Tray) (pg off : Nat) (v : Word) (c' o' : Nat) : (t.wr pg off v).bar2Rd c' o' = t.bar2Rd c' o' := rfl
theorem Tray.is_sf_off (t : Tray) (pg : Nat) (f : Fld) (v : Nat) (q : Nat) (g : Fld) (h : g.off % 4096 ≠ f.off % 4096) :
    (t.sf pg f v).is q g = t.is q g := by unfold Tray.is; rw [Tray.gf_sf_off _ _ _ _ _ _ h]
@[simp] theorem Tray.chip_sf (t : Tray) (pg : Nat) (f : Fld) (v : Nat) (c' : Nat) : (t.sf pg f v).chip c' = t.chip c' := rfl
@[simp] theorem Tray.port_sf (t : Tray) (pg : Nat) (f : Fld) (v : Nat) (c' e' : Nat) : (t.sf pg f v).port c' e' = t.port c' e' := rfl
@[simp] theorem Tray.lane_sf (t : Tray) (pg : Nat) (f : Fld) (v : Nat) (c' n' : Nat) : (t.sf pg f v).lane c' n' = t.lane c' n' := rfl
@[simp] theorem Tray.bay_sf (t : Tray) (pg : Nat) (f : Fld) (v : Nat) (b' : Nat) : (t.sf pg f v).bay b' = t.bay b' := rfl
@[simp] theorem Tray.table_sf (t : Tray) (pg : Nat) (f : Fld) (v : Nat) (c' t' : Nat) : (t.sf pg f v).table c' t' = t.table c' t' := rfl
@[simp] theorem Tray.dealer_sf (t : Tray) (pg : Nat) (f : Fld) (v : Nat) (c' : Nat) : (t.sf pg f v).dealer c' = t.dealer c' := rfl
@[simp] theorem Tray.slot_sf (t : Tray) (pg : Nat) (f : Fld) (v : Nat) (c' j' : Nat) : (t.sf pg f v).slot c' j' = t.slot c' j' := rfl
@[simp] theorem Tray.node_sf (t : Tray) (pg : Nat) (f : Fld) (v : Nat) (n' : Nat) : (t.sf pg f v).node n' = t.node n' := rfl
@[simp] theorem Tray.watch_sf (t : Tray) (pg : Nat) (f : Fld) (v : Nat) (c' i' : Nat) : (t.sf pg f v).watch c' i' = t.watch c' i' := rfl
@[simp] theorem Tray.memAt_sf (t : Tray) (pg : Nat) (f : Fld) (v : Nat) (k' : Nat) : (t.sf pg f v).memAt k' = t.memAt k' := rfl
@[simp] theorem Tray.bar2Rd_sf (t : Tray) (pg : Nat) (f : Fld) (v : Nat) (c' o' : Nat) : (t.sf pg f v).bar2Rd c' o' = t.bar2Rd c' o' := rfl
theorem Tray.gf_sb_off (t : Tray) (pg : Nat) (f : Fld) (b : Bool) (q : Nat) (g : Fld) (h : g.off % 4096 ≠ f.off % 4096) :
    (t.sb pg f b).gf q g = t.gf q g := by unfold Tray.gf; rw [Tray.rd_sb_off _ _ _ _ _ _ h]
theorem Tray.is_sb_off (t : Tray) (pg : Nat) (f : Fld) (b : Bool) (q : Nat) (g : Fld) (h : g.off % 4096 ≠ f.off % 4096) :
    (t.sb pg f b).is q g = t.is q g := by unfold Tray.is; rw [Tray.gf_sb_off _ _ _ _ _ _ h]
@[simp] theorem Tray.chip_sb (t : Tray) (pg : Nat) (f : Fld) (b : Bool) (c' : Nat) : (t.sb pg f b).chip c' = t.chip c' := rfl
@[simp] theorem Tray.port_sb (t : Tray) (pg : Nat) (f : Fld) (b : Bool) (c' e' : Nat) : (t.sb pg f b).port c' e' = t.port c' e' := rfl
@[simp] theorem Tray.lane_sb (t : Tray) (pg : Nat) (f : Fld) (b : Bool) (c' n' : Nat) : (t.sb pg f b).lane c' n' = t.lane c' n' := rfl
@[simp] theorem Tray.bay_sb (t : Tray) (pg : Nat) (f : Fld) (b : Bool) (b' : Nat) : (t.sb pg f b).bay b' = t.bay b' := rfl
@[simp] theorem Tray.table_sb (t : Tray) (pg : Nat) (f : Fld) (b : Bool) (c' t' : Nat) : (t.sb pg f b).table c' t' = t.table c' t' := rfl
@[simp] theorem Tray.dealer_sb (t : Tray) (pg : Nat) (f : Fld) (b : Bool) (c' : Nat) : (t.sb pg f b).dealer c' = t.dealer c' := rfl
@[simp] theorem Tray.slot_sb (t : Tray) (pg : Nat) (f : Fld) (b : Bool) (c' j' : Nat) : (t.sb pg f b).slot c' j' = t.slot c' j' := rfl
@[simp] theorem Tray.node_sb (t : Tray) (pg : Nat) (f : Fld) (b : Bool) (n' : Nat) : (t.sb pg f b).node n' = t.node n' := rfl
@[simp] theorem Tray.watch_sb (t : Tray) (pg : Nat) (f : Fld) (b : Bool) (c' i' : Nat) : (t.sb pg f b).watch c' i' = t.watch c' i' := rfl
@[simp] theorem Tray.memAt_sb (t : Tray) (pg : Nat) (f : Fld) (b : Bool) (k' : Nat) : (t.sb pg f b).memAt k' = t.memAt k' := rfl
@[simp] theorem Tray.bar2Rd_sb (t : Tray) (pg : Nat) (f : Fld) (b : Bool) (c' o' : Nat) : (t.sb pg f b).bar2Rd c' o' = t.bar2Rd c' o' := rfl
theorem Tray.gf_cnt_off (t : Tray) (pg : Nat) (f : Fld) (n : Nat) (q : Nat) (g : Fld) (h : g.off % 4096 ≠ f.off % 4096) :
    (t.cnt pg f n).gf q g = t.gf q g := by unfold Tray.gf; rw [Tray.rd_cnt_off _ _ _ _ _ _ h]
theorem Tray.is_cnt_off (t : Tray) (pg : Nat) (f : Fld) (n : Nat) (q : Nat) (g : Fld) (h : g.off % 4096 ≠ f.off % 4096) :
    (t.cnt pg f n).is q g = t.is q g := by unfold Tray.is; rw [Tray.gf_cnt_off _ _ _ _ _ _ h]
@[simp] theorem Tray.chip_cnt (t : Tray) (pg : Nat) (f : Fld) (n : Nat) (c' : Nat) : (t.cnt pg f n).chip c' = t.chip c' := rfl
@[simp] theorem Tray.port_cnt (t : Tray) (pg : Nat) (f : Fld) (n : Nat) (c' e' : Nat) : (t.cnt pg f n).port c' e' = t.port c' e' := rfl
@[simp] theorem Tray.lane_cnt (t : Tray) (pg : Nat) (f : Fld) (n : Nat) (c' n' : Nat) : (t.cnt pg f n).lane c' n' = t.lane c' n' := rfl
@[simp] theorem Tray.bay_cnt (t : Tray) (pg : Nat) (f : Fld) (n : Nat) (b' : Nat) : (t.cnt pg f n).bay b' = t.bay b' := rfl
@[simp] theorem Tray.table_cnt (t : Tray) (pg : Nat) (f : Fld) (n : Nat) (c' t' : Nat) : (t.cnt pg f n).table c' t' = t.table c' t' := rfl
@[simp] theorem Tray.dealer_cnt (t : Tray) (pg : Nat) (f : Fld) (n : Nat) (c' : Nat) : (t.cnt pg f n).dealer c' = t.dealer c' := rfl
@[simp] theorem Tray.slot_cnt (t : Tray) (pg : Nat) (f : Fld) (n : Nat) (c' j' : Nat) : (t.cnt pg f n).slot c' j' = t.slot c' j' := rfl
@[simp] theorem Tray.node_cnt (t : Tray) (pg : Nat) (f : Fld) (n : Nat) (n' : Nat) : (t.cnt pg f n).node n' = t.node n' := rfl
@[simp] theorem Tray.watch_cnt (t : Tray) (pg : Nat) (f : Fld) (n : Nat) (c' i' : Nat) : (t.cnt pg f n).watch c' i' = t.watch c' i' := rfl
@[simp] theorem Tray.memAt_cnt (t : Tray) (pg : Nat) (f : Fld) (n : Nat) (k' : Nat) : (t.cnt pg f n).memAt k' = t.memAt k' := rfl
@[simp] theorem Tray.bar2Rd_cnt (t : Tray) (pg : Nat) (f : Fld) (n : Nat) (c' o' : Nat) : (t.cnt pg f n).bar2Rd c' o' = t.bar2Rd c' o' := rfl
theorem Tray.gf_sat_off (t : Tray) (pg : Nat) (f : Fld) (n : Nat) (q : Nat) (g : Fld) (h : g.off % 4096 ≠ f.off % 4096) :
    (t.sat pg f n).gf q g = t.gf q g := by unfold Tray.gf; rw [Tray.rd_sat_off _ _ _ _ _ _ h]
theorem Tray.is_sat_off (t : Tray) (pg : Nat) (f : Fld) (n : Nat) (q : Nat) (g : Fld) (h : g.off % 4096 ≠ f.off % 4096) :
    (t.sat pg f n).is q g = t.is q g := by unfold Tray.is; rw [Tray.gf_sat_off _ _ _ _ _ _ h]
@[simp] theorem Tray.chip_sat (t : Tray) (pg : Nat) (f : Fld) (n : Nat) (c' : Nat) : (t.sat pg f n).chip c' = t.chip c' := rfl
@[simp] theorem Tray.port_sat (t : Tray) (pg : Nat) (f : Fld) (n : Nat) (c' e' : Nat) : (t.sat pg f n).port c' e' = t.port c' e' := rfl
@[simp] theorem Tray.lane_sat (t : Tray) (pg : Nat) (f : Fld) (n : Nat) (c' n' : Nat) : (t.sat pg f n).lane c' n' = t.lane c' n' := rfl
@[simp] theorem Tray.bay_sat (t : Tray) (pg : Nat) (f : Fld) (n : Nat) (b' : Nat) : (t.sat pg f n).bay b' = t.bay b' := rfl
@[simp] theorem Tray.table_sat (t : Tray) (pg : Nat) (f : Fld) (n : Nat) (c' t' : Nat) : (t.sat pg f n).table c' t' = t.table c' t' := rfl
@[simp] theorem Tray.dealer_sat (t : Tray) (pg : Nat) (f : Fld) (n : Nat) (c' : Nat) : (t.sat pg f n).dealer c' = t.dealer c' := rfl
@[simp] theorem Tray.slot_sat (t : Tray) (pg : Nat) (f : Fld) (n : Nat) (c' j' : Nat) : (t.sat pg f n).slot c' j' = t.slot c' j' := rfl
@[simp] theorem Tray.node_sat (t : Tray) (pg : Nat) (f : Fld) (n : Nat) (n' : Nat) : (t.sat pg f n).node n' = t.node n' := rfl
@[simp] theorem Tray.watch_sat (t : Tray) (pg : Nat) (f : Fld) (n : Nat) (c' i' : Nat) : (t.sat pg f n).watch c' i' = t.watch c' i' := rfl
@[simp] theorem Tray.memAt_sat (t : Tray) (pg : Nat) (f : Fld) (n : Nat) (k' : Nat) : (t.sat pg f n).memAt k' = t.memAt k' := rfl
@[simp] theorem Tray.bar2Rd_sat (t : Tray) (pg : Nat) (f : Fld) (n : Nat) (c' o' : Nat) : (t.sat pg f n).bar2Rd c' o' = t.bar2Rd c' o' := rfl
@[simp] theorem Tray.rd_setChip (t : Tray) (c : Nat) (x : ChipSt) (q o : Nat) : (t.setChip c x).rd q o = t.rd q o := rfl
@[simp] theorem Tray.gf_setChip (t : Tray) (c : Nat) (x : ChipSt) (q : Nat) (f : Fld) : (t.setChip c x).gf q f = t.gf q f := rfl
@[simp] theorem Tray.is_setChip (t : Tray) (c : Nat) (x : ChipSt) (q : Nat) (f : Fld) : (t.setChip c x).is q f = t.is q f := rfl
@[simp] theorem Tray.port_setChip (t : Tray) (c : Nat) (x : ChipSt) (c' e' : Nat) : (t.setChip c x).port c' e' = t.port c' e' := rfl
@[simp] theorem Tray.lane_setChip (t : Tray) (c : Nat) (x : ChipSt) (c' n' : Nat) : (t.setChip c x).lane c' n' = t.lane c' n' := rfl
@[simp] theorem Tray.bay_setChip (t : Tray) (c : Nat) (x : ChipSt) (b' : Nat) : (t.setChip c x).bay b' = t.bay b' := rfl
@[simp] theorem Tray.table_setChip (t : Tray) (c : Nat) (x : ChipSt) (c' t' : Nat) : (t.setChip c x).table c' t' = t.table c' t' := rfl
@[simp] theorem Tray.dealer_setChip (t : Tray) (c : Nat) (x : ChipSt) (c' : Nat) : (t.setChip c x).dealer c' = t.dealer c' := rfl
@[simp] theorem Tray.slot_setChip (t : Tray) (c : Nat) (x : ChipSt) (c' j' : Nat) : (t.setChip c x).slot c' j' = t.slot c' j' := rfl
@[simp] theorem Tray.node_setChip (t : Tray) (c : Nat) (x : ChipSt) (n' : Nat) : (t.setChip c x).node n' = t.node n' := rfl
@[simp] theorem Tray.watch_setChip (t : Tray) (c : Nat) (x : ChipSt) (c' i' : Nat) : (t.setChip c x).watch c' i' = t.watch c' i' := rfl
@[simp] theorem Tray.memAt_setChip (t : Tray) (c : Nat) (x : ChipSt) (k' : Nat) : (t.setChip c x).memAt k' = t.memAt k' := rfl
@[simp] theorem Tray.bar2Rd_setChip (t : Tray) (c : Nat) (x : ChipSt) (c' o' : Nat) : (t.setChip c x).bar2Rd c' o' = t.bar2Rd c' o' := rfl
@[simp] theorem Tray.rd_modChip (t : Tray) (c : Nat) (g : ChipSt → ChipSt) (q o : Nat) : (t.modChip c g).rd q o = t.rd q o := rfl
@[simp] theorem Tray.gf_modChip (t : Tray) (c : Nat) (g : ChipSt → ChipSt) (q : Nat) (f : Fld) : (t.modChip c g).gf q f = t.gf q f := rfl
@[simp] theorem Tray.is_modChip (t : Tray) (c : Nat) (g : ChipSt → ChipSt) (q : Nat) (f : Fld) : (t.modChip c g).is q f = t.is q f := rfl
@[simp] theorem Tray.port_modChip (t : Tray) (c : Nat) (g : ChipSt → ChipSt) (c' e' : Nat) : (t.modChip c g).port c' e' = t.port c' e' := rfl
@[simp] theorem Tray.lane_modChip (t : Tray) (c : Nat) (g : ChipSt → ChipSt) (c' n' : Nat) : (t.modChip c g).lane c' n' = t.lane c' n' := rfl
@[simp] theorem Tray.bay_modChip (t : Tray) (c : Nat) (g : ChipSt → ChipSt) (b' : Nat) : (t.modChip c g).bay b' = t.bay b' := rfl
@[simp] theorem Tray.table_modChip (t : Tray) (c : Nat) (g : ChipSt → ChipSt) (c' t' : Nat) : (t.modChip c g).table c' t' = t.table c' t' := rfl
@[simp] theorem Tray.dealer_modChip (t : Tray) (c : Nat) (g : ChipSt → ChipSt) (c' : Nat) : (t.modChip c g).dealer c' = t.dealer c' := rfl
@[simp] theorem Tray.slot_modChip (t : Tray) (c : Nat) (g : ChipSt → ChipSt) (c' j' : Nat) : (t.modChip c g).slot c' j' = t.slot c' j' := rfl
@[simp] theorem Tray.node_modChip (t : Tray) (c : Nat) (g : ChipSt → ChipSt) (n' : Nat) : (t.modChip c g).node n' = t.node n' := rfl
@[simp] theorem Tray.watch_modChip (t : Tray) (c : Nat) (g : ChipSt → ChipSt) (c' i' : Nat) : (t.modChip c g).watch c' i' = t.watch c' i' := rfl
@[simp] theorem Tray.memAt_modChip (t : Tray) (c : Nat) (g : ChipSt → ChipSt) (k' : Nat) : (t.modChip c g).memAt k' = t.memAt k' := rfl
@[simp] theorem Tray.bar2Rd_modChip (t : Tray) (c : Nat) (g : ChipSt → ChipSt) (c' o' : Nat) : (t.modChip c g).bar2Rd c' o' = t.bar2Rd c' o' := rfl
@[simp] theorem Tray.rd_setPort (t : Tray) (c e : Nat) (x : PortSt) (q o : Nat) : (t.setPort c e x).rd q o = t.rd q o := rfl
@[simp] theorem Tray.gf_setPort (t : Tray) (c e : Nat) (x : PortSt) (q : Nat) (f : Fld) : (t.setPort c e x).gf q f = t.gf q f := rfl
@[simp] theorem Tray.is_setPort (t : Tray) (c e : Nat) (x : PortSt) (q : Nat) (f : Fld) : (t.setPort c e x).is q f = t.is q f := rfl
@[simp] theorem Tray.chip_setPort (t : Tray) (c e : Nat) (x : PortSt) (c' : Nat) : (t.setPort c e x).chip c' = t.chip c' := rfl
@[simp] theorem Tray.lane_setPort (t : Tray) (c e : Nat) (x : PortSt) (c' n' : Nat) : (t.setPort c e x).lane c' n' = t.lane c' n' := rfl
@[simp] theorem Tray.bay_setPort (t : Tray) (c e : Nat) (x : PortSt) (b' : Nat) : (t.setPort c e x).bay b' = t.bay b' := rfl
@[simp] theorem Tray.table_setPort (t : Tray) (c e : Nat) (x : PortSt) (c' t' : Nat) : (t.setPort c e x).table c' t' = t.table c' t' := rfl
@[simp] theorem Tray.dealer_setPort (t : Tray) (c e : Nat) (x : PortSt) (c' : Nat) : (t.setPort c e x).dealer c' = t.dealer c' := rfl
@[simp] theorem Tray.slot_setPort (t : Tray) (c e : Nat) (x : PortSt) (c' j' : Nat) : (t.setPort c e x).slot c' j' = t.slot c' j' := rfl
@[simp] theorem Tray.node_setPort (t : Tray) (c e : Nat) (x : PortSt) (n' : Nat) : (t.setPort c e x).node n' = t.node n' := rfl
@[simp] theorem Tray.watch_setPort (t : Tray) (c e : Nat) (x : PortSt) (c' i' : Nat) : (t.setPort c e x).watch c' i' = t.watch c' i' := rfl
@[simp] theorem Tray.memAt_setPort (t : Tray) (c e : Nat) (x : PortSt) (k' : Nat) : (t.setPort c e x).memAt k' = t.memAt k' := rfl
@[simp] theorem Tray.bar2Rd_setPort (t : Tray) (c e : Nat) (x : PortSt) (c' o' : Nat) : (t.setPort c e x).bar2Rd c' o' = t.bar2Rd c' o' := rfl
@[simp] theorem Tray.rd_modPort (t : Tray) (c e : Nat) (g : PortSt → PortSt) (q o : Nat) : (t.modPort c e g).rd q o = t.rd q o := rfl
@[simp] theorem Tray.gf_modPort (t : Tray) (c e : Nat) (g : PortSt → PortSt) (q : Nat) (f : Fld) : (t.modPort c e g).gf q f = t.gf q f := rfl
@[simp] theorem Tray.is_modPort (t : Tray) (c e : Nat) (g : PortSt → PortSt) (q : Nat) (f : Fld) : (t.modPort c e g).is q f = t.is q f := rfl
@[simp] theorem Tray.chip_modPort (t : Tray) (c e : Nat) (g : PortSt → PortSt) (c' : Nat) : (t.modPort c e g).chip c' = t.chip c' := rfl
@[simp] theorem Tray.lane_modPort (t : Tray) (c e : Nat) (g : PortSt → PortSt) (c' n' : Nat) : (t.modPort c e g).lane c' n' = t.lane c' n' := rfl
@[simp] theorem Tray.bay_modPort (t : Tray) (c e : Nat) (g : PortSt → PortSt) (b' : Nat) : (t.modPort c e g).bay b' = t.bay b' := rfl
@[simp] theorem Tray.table_modPort (t : Tray) (c e : Nat) (g : PortSt → PortSt) (c' t' : Nat) : (t.modPort c e g).table c' t' = t.table c' t' := rfl
@[simp] theorem Tray.dealer_modPort (t : Tray) (c e : Nat) (g : PortSt → PortSt) (c' : Nat) : (t.modPort c e g).dealer c' = t.dealer c' := rfl
@[simp] theorem Tray.slot_modPort (t : Tray) (c e : Nat) (g : PortSt → PortSt) (c' j' : Nat) : (t.modPort c e g).slot c' j' = t.slot c' j' := rfl
@[simp] theorem Tray.node_modPort (t : Tray) (c e : Nat) (g : PortSt → PortSt) (n' : Nat) : (t.modPort c e g).node n' = t.node n' := rfl
@[simp] theorem Tray.watch_modPort (t : Tray) (c e : Nat) (g : PortSt → PortSt) (c' i' : Nat) : (t.modPort c e g).watch c' i' = t.watch c' i' := rfl
@[simp] theorem Tray.memAt_modPort (t : Tray) (c e : Nat) (g : PortSt → PortSt) (k' : Nat) : (t.modPort c e g).memAt k' = t.memAt k' := rfl
@[simp] theorem Tray.bar2Rd_modPort (t : Tray) (c e : Nat) (g : PortSt → PortSt) (c' o' : Nat) : (t.modPort c e g).bar2Rd c' o' = t.bar2Rd c' o' := rfl
@[simp] theorem Tray.rd_setLane (t : Tray) (c e : Nat) (x : LaneSt) (q o : Nat) : (t.setLane c e x).rd q o = t.rd q o := rfl
@[simp] theorem Tray.gf_setLane (t : Tray) (c e : Nat) (x : LaneSt) (q : Nat) (f : Fld) : (t.setLane c e x).gf q f = t.gf q f := rfl
@[simp] theorem Tray.is_setLane (t : Tray) (c e : Nat) (x : LaneSt) (q : Nat) (f : Fld) : (t.setLane c e x).is q f = t.is q f := rfl
@[simp] theorem Tray.chip_setLane (t : Tray) (c e : Nat) (x : LaneSt) (c' : Nat) : (t.setLane c e x).chip c' = t.chip c' := rfl
@[simp] theorem Tray.port_setLane (t : Tray) (c e : Nat) (x : LaneSt) (c' e' : Nat) : (t.setLane c e x).port c' e' = t.port c' e' := rfl
@[simp] theorem Tray.bay_setLane (t : Tray) (c e : Nat) (x : LaneSt) (b' : Nat) : (t.setLane c e x).bay b' = t.bay b' := rfl
@[simp] theorem Tray.table_setLane (t : Tray) (c e : Nat) (x : LaneSt) (c' t' : Nat) : (t.setLane c e x).table c' t' = t.table c' t' := rfl
@[simp] theorem Tray.dealer_setLane (t : Tray) (c e : Nat) (x : LaneSt) (c' : Nat) : (t.setLane c e x).dealer c' = t.dealer c' := rfl
@[simp] theorem Tray.slot_setLane (t : Tray) (c e : Nat) (x : LaneSt) (c' j' : Nat) : (t.setLane c e x).slot c' j' = t.slot c' j' := rfl
@[simp] theorem Tray.node_setLane (t : Tray) (c e : Nat) (x : LaneSt) (n' : Nat) : (t.setLane c e x).node n' = t.node n' := rfl
@[simp] theorem Tray.watch_setLane (t : Tray) (c e : Nat) (x : LaneSt) (c' i' : Nat) : (t.setLane c e x).watch c' i' = t.watch c' i' := rfl
@[simp] theorem Tray.memAt_setLane (t : Tray) (c e : Nat) (x : LaneSt) (k' : Nat) : (t.setLane c e x).memAt k' = t.memAt k' := rfl
@[simp] theorem Tray.bar2Rd_setLane (t : Tray) (c e : Nat) (x : LaneSt) (c' o' : Nat) : (t.setLane c e x).bar2Rd c' o' = t.bar2Rd c' o' := rfl
@[simp] theorem Tray.rd_modLane (t : Tray) (c e : Nat) (g : LaneSt → LaneSt) (q o : Nat) : (t.modLane c e g).rd q o = t.rd q o := rfl
@[simp] theorem Tray.gf_modLane (t : Tray) (c e : Nat) (g : LaneSt → LaneSt) (q : Nat) (f : Fld) : (t.modLane c e g).gf q f = t.gf q f := rfl
@[simp] theorem Tray.is_modLane (t : Tray) (c e : Nat) (g : LaneSt → LaneSt) (q : Nat) (f : Fld) : (t.modLane c e g).is q f = t.is q f := rfl
@[simp] theorem Tray.chip_modLane (t : Tray) (c e : Nat) (g : LaneSt → LaneSt) (c' : Nat) : (t.modLane c e g).chip c' = t.chip c' := rfl
@[simp] theorem Tray.port_modLane (t : Tray) (c e : Nat) (g : LaneSt → LaneSt) (c' e' : Nat) : (t.modLane c e g).port c' e' = t.port c' e' := rfl
@[simp] theorem Tray.bay_modLane (t : Tray) (c e : Nat) (g : LaneSt → LaneSt) (b' : Nat) : (t.modLane c e g).bay b' = t.bay b' := rfl
@[simp] theorem Tray.table_modLane (t : Tray) (c e : Nat) (g : LaneSt → LaneSt) (c' t' : Nat) : (t.modLane c e g).table c' t' = t.table c' t' := rfl
@[simp] theorem Tray.dealer_modLane (t : Tray) (c e : Nat) (g : LaneSt → LaneSt) (c' : Nat) : (t.modLane c e g).dealer c' = t.dealer c' := rfl
@[simp] theorem Tray.slot_modLane (t : Tray) (c e : Nat) (g : LaneSt → LaneSt) (c' j' : Nat) : (t.modLane c e g).slot c' j' = t.slot c' j' := rfl
@[simp] theorem Tray.node_modLane (t : Tray) (c e : Nat) (g : LaneSt → LaneSt) (n' : Nat) : (t.modLane c e g).node n' = t.node n' := rfl
@[simp] theorem Tray.watch_modLane (t : Tray) (c e : Nat) (g : LaneSt → LaneSt) (c' i' : Nat) : (t.modLane c e g).watch c' i' = t.watch c' i' := rfl
@[simp] theorem Tray.memAt_modLane (t : Tray) (c e : Nat) (g : LaneSt → LaneSt) (k' : Nat) : (t.modLane c e g).memAt k' = t.memAt k' := rfl
@[simp] theorem Tray.bar2Rd_modLane (t : Tray) (c e : Nat) (g : LaneSt → LaneSt) (c' o' : Nat) : (t.modLane c e g).bar2Rd c' o' = t.bar2Rd c' o' := rfl
@[simp] theorem Tray.rd_modBay (t : Tray) (b : Nat) (g : BaySt → BaySt) (q o : Nat) : (t.modBay b g).rd q o = t.rd q o := rfl
@[simp] theorem Tray.gf_modBay (t : Tray) (b : Nat) (g : BaySt → BaySt) (q : Nat) (f : Fld) : (t.modBay b g).gf q f = t.gf q f := rfl
@[simp] theorem Tray.is_modBay (t : Tray) (b : Nat) (g : BaySt → BaySt) (q : Nat) (f : Fld) : (t.modBay b g).is q f = t.is q f := rfl
@[simp] theorem Tray.chip_modBay (t : Tray) (b : Nat) (g : BaySt → BaySt) (c' : Nat) : (t.modBay b g).chip c' = t.chip c' := rfl
@[simp] theorem Tray.port_modBay (t : Tray) (b : Nat) (g : BaySt → BaySt) (c' e' : Nat) : (t.modBay b g).port c' e' = t.port c' e' := rfl
@[simp] theorem Tray.lane_modBay (t : Tray) (b : Nat) (g : BaySt → BaySt) (c' n' : Nat) : (t.modBay b g).lane c' n' = t.lane c' n' := rfl
@[simp] theorem Tray.table_modBay (t : Tray) (b : Nat) (g : BaySt → BaySt) (c' t' : Nat) : (t.modBay b g).table c' t' = t.table c' t' := rfl
@[simp] theorem Tray.dealer_modBay (t : Tray) (b : Nat) (g : BaySt → BaySt) (c' : Nat) : (t.modBay b g).dealer c' = t.dealer c' := rfl
@[simp] theorem Tray.slot_modBay (t : Tray) (b : Nat) (g : BaySt → BaySt) (c' j' : Nat) : (t.modBay b g).slot c' j' = t.slot c' j' := rfl
@[simp] theorem Tray.node_modBay (t : Tray) (b : Nat) (g : BaySt → BaySt) (n' : Nat) : (t.modBay b g).node n' = t.node n' := rfl
@[simp] theorem Tray.watch_modBay (t : Tray) (b : Nat) (g : BaySt → BaySt) (c' i' : Nat) : (t.modBay b g).watch c' i' = t.watch c' i' := rfl
@[simp] theorem Tray.memAt_modBay (t : Tray) (b : Nat) (g : BaySt → BaySt) (k' : Nat) : (t.modBay b g).memAt k' = t.memAt k' := rfl
@[simp] theorem Tray.bar2Rd_modBay (t : Tray) (b : Nat) (g : BaySt → BaySt) (c' o' : Nat) : (t.modBay b g).bar2Rd c' o' = t.bar2Rd c' o' := rfl
@[simp] theorem Tray.rd_setTable (t : Tray) (c e : Nat) (x : TableSt) (q o : Nat) : (t.setTable c e x).rd q o = t.rd q o := rfl
@[simp] theorem Tray.gf_setTable (t : Tray) (c e : Nat) (x : TableSt) (q : Nat) (f : Fld) : (t.setTable c e x).gf q f = t.gf q f := rfl
@[simp] theorem Tray.is_setTable (t : Tray) (c e : Nat) (x : TableSt) (q : Nat) (f : Fld) : (t.setTable c e x).is q f = t.is q f := rfl
@[simp] theorem Tray.chip_setTable (t : Tray) (c e : Nat) (x : TableSt) (c' : Nat) : (t.setTable c e x).chip c' = t.chip c' := rfl
@[simp] theorem Tray.port_setTable (t : Tray) (c e : Nat) (x : TableSt) (c' e' : Nat) : (t.setTable c e x).port c' e' = t.port c' e' := rfl
@[simp] theorem Tray.lane_setTable (t : Tray) (c e : Nat) (x : TableSt) (c' n' : Nat) : (t.setTable c e x).lane c' n' = t.lane c' n' := rfl
@[simp] theorem Tray.bay_setTable (t : Tray) (c e : Nat) (x : TableSt) (b' : Nat) : (t.setTable c e x).bay b' = t.bay b' := rfl
@[simp] theorem Tray.dealer_setTable (t : Tray) (c e : Nat) (x : TableSt) (c' : Nat) : (t.setTable c e x).dealer c' = t.dealer c' := rfl
@[simp] theorem Tray.slot_setTable (t : Tray) (c e : Nat) (x : TableSt) (c' j' : Nat) : (t.setTable c e x).slot c' j' = t.slot c' j' := rfl
@[simp] theorem Tray.node_setTable (t : Tray) (c e : Nat) (x : TableSt) (n' : Nat) : (t.setTable c e x).node n' = t.node n' := rfl
@[simp] theorem Tray.watch_setTable (t : Tray) (c e : Nat) (x : TableSt) (c' i' : Nat) : (t.setTable c e x).watch c' i' = t.watch c' i' := rfl
@[simp] theorem Tray.memAt_setTable (t : Tray) (c e : Nat) (x : TableSt) (k' : Nat) : (t.setTable c e x).memAt k' = t.memAt k' := rfl
@[simp] theorem Tray.bar2Rd_setTable (t : Tray) (c e : Nat) (x : TableSt) (c' o' : Nat) : (t.setTable c e x).bar2Rd c' o' = t.bar2Rd c' o' := rfl
@[simp] theorem Tray.rd_modTable (t : Tray) (c e : Nat) (g : TableSt → TableSt) (q o : Nat) : (t.modTable c e g).rd q o = t.rd q o := rfl
@[simp] theorem Tray.gf_modTable (t : Tray) (c e : Nat) (g : TableSt → TableSt) (q : Nat) (f : Fld) : (t.modTable c e g).gf q f = t.gf q f := rfl
@[simp] theorem Tray.is_modTable (t : Tray) (c e : Nat) (g : TableSt → TableSt) (q : Nat) (f : Fld) : (t.modTable c e g).is q f = t.is q f := rfl
@[simp] theorem Tray.chip_modTable (t : Tray) (c e : Nat) (g : TableSt → TableSt) (c' : Nat) : (t.modTable c e g).chip c' = t.chip c' := rfl
@[simp] theorem Tray.port_modTable (t : Tray) (c e : Nat) (g : TableSt → TableSt) (c' e' : Nat) : (t.modTable c e g).port c' e' = t.port c' e' := rfl
@[simp] theorem Tray.lane_modTable (t : Tray) (c e : Nat) (g : TableSt → TableSt) (c' n' : Nat) : (t.modTable c e g).lane c' n' = t.lane c' n' := rfl
@[simp] theorem Tray.bay_modTable (t : Tray) (c e : Nat) (g : TableSt → TableSt) (b' : Nat) : (t.modTable c e g).bay b' = t.bay b' := rfl
@[simp] theorem Tray.dealer_modTable (t : Tray) (c e : Nat) (g : TableSt → TableSt) (c' : Nat) : (t.modTable c e g).dealer c' = t.dealer c' := rfl
@[simp] theorem Tray.slot_modTable (t : Tray) (c e : Nat) (g : TableSt → TableSt) (c' j' : Nat) : (t.modTable c e g).slot c' j' = t.slot c' j' := rfl
@[simp] theorem Tray.node_modTable (t : Tray) (c e : Nat) (g : TableSt → TableSt) (n' : Nat) : (t.modTable c e g).node n' = t.node n' := rfl
@[simp] theorem Tray.watch_modTable (t : Tray) (c e : Nat) (g : TableSt → TableSt) (c' i' : Nat) : (t.modTable c e g).watch c' i' = t.watch c' i' := rfl
@[simp] theorem Tray.memAt_modTable (t : Tray) (c e : Nat) (g : TableSt → TableSt) (k' : Nat) : (t.modTable c e g).memAt k' = t.memAt k' := rfl
@[simp] theorem Tray.bar2Rd_modTable (t : Tray) (c e : Nat) (g : TableSt → TableSt) (c' o' : Nat) : (t.modTable c e g).bar2Rd c' o' = t.bar2Rd c' o' := rfl
@[simp] theorem Tray.rd_modDealer (t : Tray) (c : Nat) (g : DealerSt → DealerSt) (q o : Nat) : (t.modDealer c g).rd q o = t.rd q o := rfl
@[simp] theorem Tray.gf_modDealer (t : Tray) (c : Nat) (g : DealerSt → DealerSt) (q : Nat) (f : Fld) : (t.modDealer c g).gf q f = t.gf q f := rfl
@[simp] theorem Tray.is_modDealer (t : Tray) (c : Nat) (g : DealerSt → DealerSt) (q : Nat) (f : Fld) : (t.modDealer c g).is q f = t.is q f := rfl
@[simp] theorem Tray.chip_modDealer (t : Tray) (c : Nat) (g : DealerSt → DealerSt) (c' : Nat) : (t.modDealer c g).chip c' = t.chip c' := rfl
@[simp] theorem Tray.port_modDealer (t : Tray) (c : Nat) (g : DealerSt → DealerSt) (c' e' : Nat) : (t.modDealer c g).port c' e' = t.port c' e' := rfl
@[simp] theorem Tray.lane_modDealer (t : Tray) (c : Nat) (g : DealerSt → DealerSt) (c' n' : Nat) : (t.modDealer c g).lane c' n' = t.lane c' n' := rfl
@[simp] theorem Tray.bay_modDealer (t : Tray) (c : Nat) (g : DealerSt → DealerSt) (b' : Nat) : (t.modDealer c g).bay b' = t.bay b' := rfl
@[simp] theorem Tray.table_modDealer (t : Tray) (c : Nat) (g : DealerSt → DealerSt) (c' t' : Nat) : (t.modDealer c g).table c' t' = t.table c' t' := rfl
@[simp] theorem Tray.node_modDealer (t : Tray) (c : Nat) (g : DealerSt → DealerSt) (n' : Nat) : (t.modDealer c g).node n' = t.node n' := rfl
@[simp] theorem Tray.watch_modDealer (t : Tray) (c : Nat) (g : DealerSt → DealerSt) (c' i' : Nat) : (t.modDealer c g).watch c' i' = t.watch c' i' := rfl
@[simp] theorem Tray.memAt_modDealer (t : Tray) (c : Nat) (g : DealerSt → DealerSt) (k' : Nat) : (t.modDealer c g).memAt k' = t.memAt k' := rfl
@[simp] theorem Tray.bar2Rd_modDealer (t : Tray) (c : Nat) (g : DealerSt → DealerSt) (c' o' : Nat) : (t.modDealer c g).bar2Rd c' o' = t.bar2Rd c' o' := rfl
@[simp] theorem Tray.rd_modNode (t : Tray) (n : Nat) (g : NodeSt → NodeSt) (q o : Nat) : (t.modNode n g).rd q o = t.rd q o := rfl
@[simp] theorem Tray.gf_modNode (t : Tray) (n : Nat) (g : NodeSt → NodeSt) (q : Nat) (f : Fld) : (t.modNode n g).gf q f = t.gf q f := rfl
@[simp] theorem Tray.is_modNode (t : Tray) (n : Nat) (g : NodeSt → NodeSt) (q : Nat) (f : Fld) : (t.modNode n g).is q f = t.is q f := rfl
@[simp] theorem Tray.chip_modNode (t : Tray) (n : Nat) (g : NodeSt → NodeSt) (c' : Nat) : (t.modNode n g).chip c' = t.chip c' := rfl
@[simp] theorem Tray.port_modNode (t : Tray) (n : Nat) (g : NodeSt → NodeSt) (c' e' : Nat) : (t.modNode n g).port c' e' = t.port c' e' := rfl
@[simp] theorem Tray.lane_modNode (t : Tray) (n : Nat) (g : NodeSt → NodeSt) (c' n' : Nat) : (t.modNode n g).lane c' n' = t.lane c' n' := rfl
@[simp] theorem Tray.bay_modNode (t : Tray) (n : Nat) (g : NodeSt → NodeSt) (b' : Nat) : (t.modNode n g).bay b' = t.bay b' := rfl
@[simp] theorem Tray.table_modNode (t : Tray) (n : Nat) (g : NodeSt → NodeSt) (c' t' : Nat) : (t.modNode n g).table c' t' = t.table c' t' := rfl
@[simp] theorem Tray.dealer_modNode (t : Tray) (n : Nat) (g : NodeSt → NodeSt) (c' : Nat) : (t.modNode n g).dealer c' = t.dealer c' := rfl
@[simp] theorem Tray.slot_modNode (t : Tray) (n : Nat) (g : NodeSt → NodeSt) (c' j' : Nat) : (t.modNode n g).slot c' j' = t.slot c' j' := rfl
@[simp] theorem Tray.watch_modNode (t : Tray) (n : Nat) (g : NodeSt → NodeSt) (c' i' : Nat) : (t.modNode n g).watch c' i' = t.watch c' i' := rfl
@[simp] theorem Tray.memAt_modNode (t : Tray) (n : Nat) (g : NodeSt → NodeSt) (k' : Nat) : (t.modNode n g).memAt k' = t.memAt k' := rfl
@[simp] theorem Tray.bar2Rd_modNode (t : Tray) (n : Nat) (g : NodeSt → NodeSt) (c' o' : Nat) : (t.modNode n g).bar2Rd c' o' = t.bar2Rd c' o' := rfl
@[simp] theorem Tray.rd_setWatch (t : Tray) (c i : Nat) (x : WatchSt) (q o : Nat) : (t.setWatch c i x).rd q o = t.rd q o := rfl
@[simp] theorem Tray.gf_setWatch (t : Tray) (c i : Nat) (x : WatchSt) (q : Nat) (f : Fld) : (t.setWatch c i x).gf q f = t.gf q f := rfl
@[simp] theorem Tray.is_setWatch (t : Tray) (c i : Nat) (x : WatchSt) (q : Nat) (f : Fld) : (t.setWatch c i x).is q f = t.is q f := rfl
@[simp] theorem Tray.chip_setWatch (t : Tray) (c i : Nat) (x : WatchSt) (c' : Nat) : (t.setWatch c i x).chip c' = t.chip c' := rfl
@[simp] theorem Tray.port_setWatch (t : Tray) (c i : Nat) (x : WatchSt) (c' e' : Nat) : (t.setWatch c i x).port c' e' = t.port c' e' := rfl
@[simp] theorem Tray.lane_setWatch (t : Tray) (c i : Nat) (x : WatchSt) (c' n' : Nat) : (t.setWatch c i x).lane c' n' = t.lane c' n' := rfl
@[simp] theorem Tray.bay_setWatch (t : Tray) (c i : Nat) (x : WatchSt) (b' : Nat) : (t.setWatch c i x).bay b' = t.bay b' := rfl
@[simp] theorem Tray.table_setWatch (t : Tray) (c i : Nat) (x : WatchSt) (c' t' : Nat) : (t.setWatch c i x).table c' t' = t.table c' t' := rfl
@[simp] theorem Tray.dealer_setWatch (t : Tray) (c i : Nat) (x : WatchSt) (c' : Nat) : (t.setWatch c i x).dealer c' = t.dealer c' := rfl
@[simp] theorem Tray.slot_setWatch (t : Tray) (c i : Nat) (x : WatchSt) (c' j' : Nat) : (t.setWatch c i x).slot c' j' = t.slot c' j' := rfl
@[simp] theorem Tray.node_setWatch (t : Tray) (c i : Nat) (x : WatchSt) (n' : Nat) : (t.setWatch c i x).node n' = t.node n' := rfl
@[simp] theorem Tray.memAt_setWatch (t : Tray) (c i : Nat) (x : WatchSt) (k' : Nat) : (t.setWatch c i x).memAt k' = t.memAt k' := rfl
@[simp] theorem Tray.bar2Rd_setWatch (t : Tray) (c i : Nat) (x : WatchSt) (c' o' : Nat) : (t.setWatch c i x).bar2Rd c' o' = t.bar2Rd c' o' := rfl
@[simp] theorem Tray.rd_emit (t : Tray) (x : Out) (q o : Nat) : (t.emit x).rd q o = t.rd q o := rfl
@[simp] theorem Tray.gf_emit (t : Tray) (x : Out) (q : Nat) (f : Fld) : (t.emit x).gf q f = t.gf q f := rfl
@[simp] theorem Tray.is_emit (t : Tray) (x : Out) (q : Nat) (f : Fld) : (t.emit x).is q f = t.is q f := rfl
@[simp] theorem Tray.chip_emit (t : Tray) (x : Out) (c' : Nat) : (t.emit x).chip c' = t.chip c' := rfl
@[simp] theorem Tray.port_emit (t : Tray) (x : Out) (c' e' : Nat) : (t.emit x).port c' e' = t.port c' e' := rfl
@[simp] theorem Tray.lane_emit (t : Tray) (x : Out) (c' n' : Nat) : (t.emit x).lane c' n' = t.lane c' n' := rfl
@[simp] theorem Tray.bay_emit (t : Tray) (x : Out) (b' : Nat) : (t.emit x).bay b' = t.bay b' := rfl
@[simp] theorem Tray.table_emit (t : Tray) (x : Out) (c' t' : Nat) : (t.emit x).table c' t' = t.table c' t' := rfl
@[simp] theorem Tray.dealer_emit (t : Tray) (x : Out) (c' : Nat) : (t.emit x).dealer c' = t.dealer c' := rfl
@[simp] theorem Tray.slot_emit (t : Tray) (x : Out) (c' j' : Nat) : (t.emit x).slot c' j' = t.slot c' j' := rfl
@[simp] theorem Tray.node_emit (t : Tray) (x : Out) (n' : Nat) : (t.emit x).node n' = t.node n' := rfl
@[simp] theorem Tray.watch_emit (t : Tray) (x : Out) (c' i' : Nat) : (t.emit x).watch c' i' = t.watch c' i' := rfl
@[simp] theorem Tray.memAt_emit (t : Tray) (x : Out) (k' : Nat) : (t.emit x).memAt k' = t.memAt k' := rfl
@[simp] theorem Tray.bar2Rd_emit (t : Tray) (x : Out) (c' o' : Nat) : (t.emit x).bar2Rd c' o' = t.bar2Rd c' o' := rfl
@[simp] theorem Tray.rd_logEv (t : Tray) (ev : Ev) (src : Nat) (d : List Nat) (q o : Nat) : (t.logEv ev src d).rd q o = t.rd q o := rfl
@[simp] theorem Tray.gf_logEv (t : Tray) (ev : Ev) (src : Nat) (d : List Nat) (q : Nat) (f : Fld) : (t.logEv ev src d).gf q f = t.gf q f := rfl
@[simp] theorem Tray.is_logEv (t : Tray) (ev : Ev) (src : Nat) (d : List Nat) (q : Nat) (f : Fld) : (t.logEv ev src d).is q f = t.is q f := rfl
@[simp] theorem Tray.chip_logEv (t : Tray) (ev : Ev) (src : Nat) (d : List Nat) (c' : Nat) : (t.logEv ev src d).chip c' = t.chip c' := rfl
@[simp] theorem Tray.port_logEv (t : Tray) (ev : Ev) (src : Nat) (d : List Nat) (c' e' : Nat) : (t.logEv ev src d).port c' e' = t.port c' e' := rfl
@[simp] theorem Tray.lane_logEv (t : Tray) (ev : Ev) (src : Nat) (d : List Nat) (c' n' : Nat) : (t.logEv ev src d).lane c' n' = t.lane c' n' := rfl
@[simp] theorem Tray.bay_logEv (t : Tray) (ev : Ev) (src : Nat) (d : List Nat) (b' : Nat) : (t.logEv ev src d).bay b' = t.bay b' := rfl
@[simp] theorem Tray.table_logEv (t : Tray) (ev : Ev) (src : Nat) (d : List Nat) (c' t' : Nat) : (t.logEv ev src d).table c' t' = t.table c' t' := rfl
@[simp] theorem Tray.dealer_logEv (t : Tray) (ev : Ev) (src : Nat) (d : List Nat) (c' : Nat) : (t.logEv ev src d).dealer c' = t.dealer c' := rfl
@[simp] theorem Tray.slot_logEv (t : Tray) (ev : Ev) (src : Nat) (d : List Nat) (c' j' : Nat) : (t.logEv ev src d).slot c' j' = t.slot c' j' := rfl
@[simp] theorem Tray.node_logEv (t : Tray) (ev : Ev) (src : Nat) (d : List Nat) (n' : Nat) : (t.logEv ev src d).node n' = t.node n' := rfl
@[simp] theorem Tray.watch_logEv (t : Tray) (ev : Ev) (src : Nat) (d : List Nat) (c' i' : Nat) : (t.logEv ev src d).watch c' i' = t.watch c' i' := rfl
@[simp] theorem Tray.memAt_logEv (t : Tray) (ev : Ev) (src : Nat) (d : List Nat) (k' : Nat) : (t.logEv ev src d).memAt k' = t.memAt k' := rfl
@[simp] theorem Tray.bar2Rd_logEv (t : Tray) (ev : Ev) (src : Nat) (d : List Nat) (c' o' : Nat) : (t.logEv ev src d).bar2Rd c' o' = t.bar2Rd c' o' := rfl
@[simp] theorem Tray.rd_logChip (t : Tray) (ev : Ev) (c : Nat) (d : List Nat) (q o : Nat) : (t.logChip ev c d).rd q o = t.rd q o := rfl
@[simp] theorem Tray.gf_logChip (t : Tray) (ev : Ev) (c : Nat) (d : List Nat) (q : Nat) (f : Fld) : (t.logChip ev c d).gf q f = t.gf q f := rfl
@[simp] theorem Tray.is_logChip (t : Tray) (ev : Ev) (c : Nat) (d : List Nat) (q : Nat) (f : Fld) : (t.logChip ev c d).is q f = t.is q f := rfl
@[simp] theorem Tray.chip_logChip (t : Tray) (ev : Ev) (c : Nat) (d : List Nat) (c' : Nat) : (t.logChip ev c d).chip c' = t.chip c' := rfl
@[simp] theorem Tray.port_logChip (t : Tray) (ev : Ev) (c : Nat) (d : List Nat) (c' e' : Nat) : (t.logChip ev c d).port c' e' = t.port c' e' := rfl
@[simp] theorem Tray.lane_logChip (t : Tray) (ev : Ev) (c : Nat) (d : List Nat) (c' n' : Nat) : (t.logChip ev c d).lane c' n' = t.lane c' n' := rfl
@[simp] theorem Tray.bay_logChip (t : Tray) (ev : Ev) (c : Nat) (d : List Nat) (b' : Nat) : (t.logChip ev c d).bay b' = t.bay b' := rfl
@[simp] theorem Tray.table_logChip (t : Tray) (ev : Ev) (c : Nat) (d : List Nat) (c' t' : Nat) : (t.logChip ev c d).table c' t' = t.table c' t' := rfl
@[simp] theorem Tray.dealer_logChip (t : Tray) (ev : Ev) (c : Nat) (d : List Nat) (c' : Nat) : (t.logChip ev c d).dealer c' = t.dealer c' := rfl
@[simp] theorem Tray.slot_logChip (t : Tray) (ev : Ev) (c : Nat) (d : List Nat) (c' j' : Nat) : (t.logChip ev c d).slot c' j' = t.slot c' j' := rfl
@[simp] theorem Tray.node_logChip (t : Tray) (ev : Ev) (c : Nat) (d : List Nat) (n' : Nat) : (t.logChip ev c d).node n' = t.node n' := rfl
@[simp] theorem Tray.watch_logChip (t : Tray) (ev : Ev) (c : Nat) (d : List Nat) (c' i' : Nat) : (t.logChip ev c d).watch c' i' = t.watch c' i' := rfl
@[simp] theorem Tray.memAt_logChip (t : Tray) (ev : Ev) (c : Nat) (d : List Nat) (k' : Nat) : (t.logChip ev c d).memAt k' = t.memAt k' := rfl
@[simp] theorem Tray.bar2Rd_logChip (t : Tray) (ev : Ev) (c : Nat) (d : List Nat) (c' o' : Nat) : (t.logChip ev c d).bar2Rd c' o' = t.bar2Rd c' o' := rfl
@[simp] theorem Tray.rd_zsend (t : Tray) (m ty : Nat) (b : List Byte) (k : Bool) (q o : Nat) : (t.zsend m ty b k).rd q o = t.rd q o := rfl
@[simp] theorem Tray.gf_zsend (t : Tray) (m ty : Nat) (b : List Byte) (k : Bool) (q : Nat) (f : Fld) : (t.zsend m ty b k).gf q f = t.gf q f := rfl
@[simp] theorem Tray.is_zsend (t : Tray) (m ty : Nat) (b : List Byte) (k : Bool) (q : Nat) (f : Fld) : (t.zsend m ty b k).is q f = t.is q f := rfl
@[simp] theorem Tray.chip_zsend (t : Tray) (m ty : Nat) (b : List Byte) (k : Bool) (c' : Nat) : (t.zsend m ty b k).chip c' = t.chip c' := rfl
@[simp] theorem Tray.port_zsend (t : Tray) (m ty : Nat) (b : List Byte) (k : Bool) (c' e' : Nat) : (t.zsend m ty b k).port c' e' = t.port c' e' := rfl
@[simp] theorem Tray.lane_zsend (t : Tray) (m ty : Nat) (b : List Byte) (k : Bool) (c' n' : Nat) : (t.zsend m ty b k).lane c' n' = t.lane c' n' := rfl
@[simp] theorem Tray.bay_zsend (t : Tray) (m ty : Nat) (b : List Byte) (k : Bool) (b' : Nat) : (t.zsend m ty b k).bay b' = t.bay b' := rfl
@[simp] theorem Tray.table_zsend (t : Tray) (m ty : Nat) (b : List Byte) (k : Bool) (c' t' : Nat) : (t.zsend m ty b k).table c' t' = t.table c' t' := rfl
@[simp] theorem Tray.dealer_zsend (t : Tray) (m ty : Nat) (b : List Byte) (k : Bool) (c' : Nat) : (t.zsend m ty b k).dealer c' = t.dealer c' := rfl
@[simp] theorem Tray.slot_zsend (t : Tray) (m ty : Nat) (b : List Byte) (k : Bool) (c' j' : Nat) : (t.zsend m ty b k).slot c' j' = t.slot c' j' := rfl
@[simp] theorem Tray.node_zsend (t : Tray) (m ty : Nat) (b : List Byte) (k : Bool) (n' : Nat) : (t.zsend m ty b k).node n' = t.node n' := rfl
@[simp] theorem Tray.watch_zsend (t : Tray) (m ty : Nat) (b : List Byte) (k : Bool) (c' i' : Nat) : (t.zsend m ty b k).watch c' i' = t.watch c' i' := rfl
@[simp] theorem Tray.memAt_zsend (t : Tray) (m ty : Nat) (b : List Byte) (k : Bool) (k' : Nat) : (t.zsend m ty b k).memAt k' = t.memAt k' := rfl
@[simp] theorem Tray.bar2Rd_zsend (t : Tray) (m ty : Nat) (b : List Byte) (k : Bool) (c' o' : Nat) : (t.zsend m ty b k).bar2Rd c' o' = t.bar2Rd c' o' := rfl
@[simp] theorem Tray.rd_zboth (t : Tray) (ty : Nat) (b : List Byte) (k : Bool) (q o : Nat) : (t.zboth ty b k).rd q o = t.rd q o := rfl
@[simp] theorem Tray.gf_zboth (t : Tray) (ty : Nat) (b : List Byte) (k : Bool) (q : Nat) (f : Fld) : (t.zboth ty b k).gf q f = t.gf q f := rfl
@[simp] theorem Tray.is_zboth (t : Tray) (ty : Nat) (b : List Byte) (k : Bool) (q : Nat) (f : Fld) : (t.zboth ty b k).is q f = t.is q f := rfl
@[simp] theorem Tray.chip_zboth (t : Tray) (ty : Nat) (b : List Byte) (k : Bool) (c' : Nat) : (t.zboth ty b k).chip c' = t.chip c' := rfl
@[simp] theorem Tray.port_zboth (t : Tray) (ty : Nat) (b : List Byte) (k : Bool) (c' e' : Nat) : (t.zboth ty b k).port c' e' = t.port c' e' := rfl
@[simp] theorem Tray.lane_zboth (t : Tray) (ty : Nat) (b : List Byte) (k : Bool) (c' n' : Nat) : (t.zboth ty b k).lane c' n' = t.lane c' n' := rfl
@[simp] theorem Tray.bay_zboth (t : Tray) (ty : Nat) (b : List Byte) (k : Bool) (b' : Nat) : (t.zboth ty b k).bay b' = t.bay b' := rfl
@[simp] theorem Tray.table_zboth (t : Tray) (ty : Nat) (b : List Byte) (k : Bool) (c' t' : Nat) : (t.zboth ty b k).table c' t' = t.table c' t' := rfl
@[simp] theorem Tray.dealer_zboth (t : Tray) (ty : Nat) (b : List Byte) (k : Bool) (c' : Nat) : (t.zboth ty b k).dealer c' = t.dealer c' := rfl
@[simp] theorem Tray.slot_zboth (t : Tray) (ty : Nat) (b : List Byte) (k : Bool) (c' j' : Nat) : (t.zboth ty b k).slot c' j' = t.slot c' j' := rfl
@[simp] theorem Tray.node_zboth (t : Tray) (ty : Nat) (b : List Byte) (k : Bool) (n' : Nat) : (t.zboth ty b k).node n' = t.node n' := rfl
@[simp] theorem Tray.watch_zboth (t : Tray) (ty : Nat) (b : List Byte) (k : Bool) (c' i' : Nat) : (t.zboth ty b k).watch c' i' = t.watch c' i' := rfl
@[simp] theorem Tray.memAt_zboth (t : Tray) (ty : Nat) (b : List Byte) (k : Bool) (k' : Nat) : (t.zboth ty b k).memAt k' = t.memAt k' := rfl
@[simp] theorem Tray.bar2Rd_zboth (t : Tray) (ty : Nat) (b : List Byte) (k : Bool) (c' o' : Nat) : (t.zboth ty b k).bar2Rd c' o' = t.bar2Rd c' o' := rfl
@[simp] theorem Tray.rd_bar2Wr (t : Tray) (c o : Nat) (x : BitVec 32) (q o : Nat) : (t.bar2Wr c o x).rd q o = t.rd q o := rfl
@[simp] theorem Tray.gf_bar2Wr (t : Tray) (c o : Nat) (x : BitVec 32) (q : Nat) (f : Fld) : (t.bar2Wr c o x).gf q f = t.gf q f := rfl
@[simp] theorem Tray.is_bar2Wr (t : Tray) (c o : Nat) (x : BitVec 32) (q : Nat) (f : Fld) : (t.bar2Wr c o x).is q f = t.is q f := rfl
@[simp] theorem Tray.chip_bar2Wr (t : Tray) (c o : Nat) (x : BitVec 32) (c' : Nat) : (t.bar2Wr c o x).chip c' = t.chip c' := rfl
@[simp] theorem Tray.port_bar2Wr (t : Tray) (c o : Nat) (x : BitVec 32) (c' e' : Nat) : (t.bar2Wr c o x).port c' e' = t.port c' e' := rfl
@[simp] theorem Tray.lane_bar2Wr (t : Tray) (c o : Nat) (x : BitVec 32) (c' n' : Nat) : (t.bar2Wr c o x).lane c' n' = t.lane c' n' := rfl
@[simp] theorem Tray.bay_bar2Wr (t : Tray) (c o : Nat) (x : BitVec 32) (b' : Nat) : (t.bar2Wr c o x).bay b' = t.bay b' := rfl
@[simp] theorem Tray.table_bar2Wr (t : Tray) (c o : Nat) (x : BitVec 32) (c' t' : Nat) : (t.bar2Wr c o x).table c' t' = t.table c' t' := rfl
@[simp] theorem Tray.dealer_bar2Wr (t : Tray) (c o : Nat) (x : BitVec 32) (c' : Nat) : (t.bar2Wr c o x).dealer c' = t.dealer c' := rfl
@[simp] theorem Tray.slot_bar2Wr (t : Tray) (c o : Nat) (x : BitVec 32) (c' j' : Nat) : (t.bar2Wr c o x).slot c' j' = t.slot c' j' := rfl
@[simp] theorem Tray.node_bar2Wr (t : Tray) (c o : Nat) (x : BitVec 32) (n' : Nat) : (t.bar2Wr c o x).node n' = t.node n' := rfl
@[simp] theorem Tray.watch_bar2Wr (t : Tray) (c o : Nat) (x : BitVec 32) (c' i' : Nat) : (t.bar2Wr c o x).watch c' i' = t.watch c' i' := rfl
@[simp] theorem Tray.memAt_bar2Wr (t : Tray) (c o : Nat) (x : BitVec 32) (k' : Nat) : (t.bar2Wr c o x).memAt k' = t.memAt k' := rfl
@[simp] theorem Tray.rd_memPut (t : Tray) (k : Nat) (b : Byte) (q o : Nat) : (t.memPut k b).rd q o = t.rd q o := rfl
@[simp] theorem Tray.gf_memPut (t : Tray) (k : Nat) (b : Byte) (q : Nat) (f : Fld) : (t.memPut k b).gf q f = t.gf q f := rfl
@[simp] theorem Tray.is_memPut (t : Tray) (k : Nat) (b : Byte) (q : Nat) (f : Fld) : (t.memPut k b).is q f = t.is q f := rfl
@[simp] theorem Tray.chip_memPut (t : Tray) (k : Nat) (b : Byte) (c' : Nat) : (t.memPut k b).chip c' = t.chip c' := rfl
@[simp] theorem Tray.port_memPut (t : Tray) (k : Nat) (b : Byte) (c' e' : Nat) : (t.memPut k b).port c' e' = t.port c' e' := rfl
@[simp] theorem Tray.lane_memPut (t : Tray) (k : Nat) (b : Byte) (c' n' : Nat) : (t.memPut k b).lane c' n' = t.lane c' n' := rfl
@[simp] theorem Tray.bay_memPut (t : Tray) (k : Nat) (b : Byte) (b' : Nat) : (t.memPut k b).bay b' = t.bay b' := rfl
@[simp] theorem Tray.table_memPut (t : Tray) (k : Nat) (b : Byte) (c' t' : Nat) : (t.memPut k b).table c' t' = t.table c' t' := rfl
@[simp] theorem Tray.dealer_memPut (t : Tray) (k : Nat) (b : Byte) (c' : Nat) : (t.memPut k b).dealer c' = t.dealer c' := rfl
@[simp] theorem Tray.slot_memPut (t : Tray) (k : Nat) (b : Byte) (c' j' : Nat) : (t.memPut k b).slot c' j' = t.slot c' j' := rfl
@[simp] theorem Tray.node_memPut (t : Tray) (k : Nat) (b : Byte) (n' : Nat) : (t.memPut k b).node n' = t.node n' := rfl
@[simp] theorem Tray.watch_memPut (t : Tray) (k : Nat) (b : Byte) (c' i' : Nat) : (t.memPut k b).watch c' i' = t.watch c' i' := rfl
@[simp] theorem Tray.bar2Rd_memPut (t : Tray) (k : Nat) (b : Byte) (c' o' : Nat) : (t.memPut k b).bar2Rd c' o' = t.bar2Rd c' o' := rfl
@[simp] theorem Tray.chip_raise (t : Tray) (pg b : Nat) (c' : Nat) : (t.raise pg b).chip c' = t.chip c' := by
  unfold Tray.chip; rw [show (t.raise pg b).chips = t.chips by simp]
@[simp] theorem Tray.port_raise (t : Tray) (pg b : Nat) (c' e' : Nat) : (t.raise pg b).port c' e' = t.port c' e' := by
  unfold Tray.port; rw [show (t.raise pg b).ports = t.ports by simp]
@[simp] theorem Tray.lane_raise (t : Tray) (pg b : Nat) (c' n' : Nat) : (t.raise pg b).lane c' n' = t.lane c' n' := by
  unfold Tray.lane; rw [show (t.raise pg b).lanes = t.lanes by simp]
@[simp] theorem Tray.bay_raise (t : Tray) (pg b : Nat) (b' : Nat) : (t.raise pg b).bay b' = t.bay b' := by
  unfold Tray.bay; rw [show (t.raise pg b).bays = t.bays by simp]
@[simp] theorem Tray.table_raise (t : Tray) (pg b : Nat) (c' t' : Nat) : (t.raise pg b).table c' t' = t.table c' t' := by
  unfold Tray.table; rw [show (t.raise pg b).tables = t.tables by simp]
@[simp] theorem Tray.dealer_raise (t : Tray) (pg b : Nat) (c' : Nat) : (t.raise pg b).dealer c' = t.dealer c' := by
  unfold Tray.dealer; rw [show (t.raise pg b).dealers = t.dealers by simp]
@[simp] theorem Tray.slot_raise (t : Tray) (pg b : Nat) (c' j' : Nat) : (t.raise pg b).slot c' j' = t.slot c' j' := by
  unfold Tray.slot Tray.dealer; rw [show (t.raise pg b).dealers = t.dealers by simp]
@[simp] theorem Tray.node_raise (t : Tray) (pg b : Nat) (n' : Nat) : (t.raise pg b).node n' = t.node n' := by
  unfold Tray.node; rw [show (t.raise pg b).nodes = t.nodes by simp]
@[simp] theorem Tray.watch_raise (t : Tray) (pg b : Nat) (c' i' : Nat) : (t.raise pg b).watch c' i' = t.watch c' i' := by
  unfold Tray.watch; rw [show (t.raise pg b).watches = t.watches by simp]
@[simp] theorem Tray.memAt_raise (t : Tray) (pg b : Nat) (k' : Nat) : (t.raise pg b).memAt k' = t.memAt k' := by
  unfold Tray.memAt; rw [show (t.raise pg b).mem = t.mem by simp]
@[simp] theorem Tray.bar2Rd_raise (t : Tray) (pg b : Nat) (c' o' : Nat) : (t.raise pg b).bar2Rd c' o' = t.bar2Rd c' o' := by
  unfold Tray.bar2Rd; rw [show (t.raise pg b).bar2 = t.bar2 by simp]
@[simp] theorem Tray.chip_recErr (t : Tray) (pg code : Nat) (og : Origin) (c' : Nat) : (t.recErr pg code og).chip c' = t.chip c' := by
  unfold Tray.chip; rw [show (t.recErr pg code og).chips = t.chips by simp]
@[simp] theorem Tray.port_recErr (t : Tray) (pg code : Nat) (og : Origin) (c' e' : Nat) : (t.recErr pg code og).port c' e' = t.port c' e' := by
  unfold Tray.port; rw [show (t.recErr pg code og).ports = t.ports by simp]
@[simp] theorem Tray.lane_recErr (t : Tray) (pg code : Nat) (og : Origin) (c' n' : Nat) : (t.recErr pg code og).lane c' n' = t.lane c' n' := by
  unfold Tray.lane; rw [show (t.recErr pg code og).lanes = t.lanes by simp]
@[simp] theorem Tray.bay_recErr (t : Tray) (pg code : Nat) (og : Origin) (b' : Nat) : (t.recErr pg code og).bay b' = t.bay b' := by
  unfold Tray.bay; rw [show (t.recErr pg code og).bays = t.bays by simp]
@[simp] theorem Tray.table_recErr (t : Tray) (pg code : Nat) (og : Origin) (c' t' : Nat) : (t.recErr pg code og).table c' t' = t.table c' t' := by
  unfold Tray.table; rw [show (t.recErr pg code og).tables = t.tables by simp]
@[simp] theorem Tray.dealer_recErr (t : Tray) (pg code : Nat) (og : Origin) (c' : Nat) : (t.recErr pg code og).dealer c' = t.dealer c' := by
  unfold Tray.dealer; rw [show (t.recErr pg code og).dealers = t.dealers by simp]
@[simp] theorem Tray.slot_recErr (t : Tray) (pg code : Nat) (og : Origin) (c' j' : Nat) : (t.recErr pg code og).slot c' j' = t.slot c' j' := by
  unfold Tray.slot Tray.dealer; rw [show (t.recErr pg code og).dealers = t.dealers by simp]
@[simp] theorem Tray.node_recErr (t : Tray) (pg code : Nat) (og : Origin) (n' : Nat) : (t.recErr pg code og).node n' = t.node n' := by
  unfold Tray.node; rw [show (t.recErr pg code og).nodes = t.nodes by simp]
@[simp] theorem Tray.watch_recErr (t : Tray) (pg code : Nat) (og : Origin) (c' i' : Nat) : (t.recErr pg code og).watch c' i' = t.watch c' i' := by
  unfold Tray.watch; rw [show (t.recErr pg code og).watches = t.watches by simp]
@[simp] theorem Tray.memAt_recErr (t : Tray) (pg code : Nat) (og : Origin) (k' : Nat) : (t.recErr pg code og).memAt k' = t.memAt k' := by
  unfold Tray.memAt; rw [show (t.recErr pg code og).mem = t.mem by simp]
@[simp] theorem Tray.bar2Rd_recErr (t : Tray) (pg code : Nat) (og : Origin) (c' o' : Nat) : (t.recErr pg code og).bar2Rd c' o' = t.bar2Rd c' o' := by
  unfold Tray.bar2Rd; rw [show (t.recErr pg code og).bar2 = t.bar2 by simp]
@[simp] theorem Tray.chip_markDirty (t : Tray) (pg : Nat) (c' : Nat) : (t.markDirty pg).chip c' = t.chip c' := by
  unfold Tray.chip; rw [show (t.markDirty pg).chips = t.chips by simp]
@[simp] theorem Tray.port_markDirty (t : Tray) (pg : Nat) (c' e' : Nat) : (t.markDirty pg).port c' e' = t.port c' e' := by
  unfold Tray.port; rw [show (t.markDirty pg).ports = t.ports by simp]
@[simp] theorem Tray.lane_markDirty (t : Tray) (pg : Nat) (c' n' : Nat) : (t.markDirty pg).lane c' n' = t.lane c' n' := by
  unfold Tray.lane; rw [show (t.markDirty pg).lanes = t.lanes by simp]
@[simp] theorem Tray.bay_markDirty (t : Tray) (pg : Nat) (b' : Nat) : (t.markDirty pg).bay b' = t.bay b' := by
  unfold Tray.bay; rw [show (t.markDirty pg).bays = t.bays by simp]
@[simp] theorem Tray.table_markDirty (t : Tray) (pg : Nat) (c' t' : Nat) : (t.markDirty pg).table c' t' = t.table c' t' := by
  unfold Tray.table; rw [show (t.markDirty pg).tables = t.tables by simp]
@[simp] theorem Tray.dealer_markDirty (t : Tray) (pg : Nat) (c' : Nat) : (t.markDirty pg).dealer c' = t.dealer c' := by
  unfold Tray.dealer; rw [show (t.markDirty pg).dealers = t.dealers by simp]
@[simp] theorem Tray.slot_markDirty (t : Tray) (pg : Nat) (c' j' : Nat) : (t.markDirty pg).slot c' j' = t.slot c' j' := by
  unfold Tray.slot Tray.dealer; rw [show (t.markDirty pg).dealers = t.dealers by simp]
@[simp] theorem Tray.node_markDirty (t : Tray) (pg : Nat) (n' : Nat) : (t.markDirty pg).node n' = t.node n' := by
  unfold Tray.node; rw [show (t.markDirty pg).nodes = t.nodes by simp]
@[simp] theorem Tray.watch_markDirty (t : Tray) (pg : Nat) (c' i' : Nat) : (t.markDirty pg).watch c' i' = t.watch c' i' := by
  unfold Tray.watch; rw [show (t.markDirty pg).watches = t.watches by simp]
@[simp] theorem Tray.memAt_markDirty (t : Tray) (pg : Nat) (k' : Nat) : (t.markDirty pg).memAt k' = t.memAt k' := by
  unfold Tray.memAt; rw [show (t.markDirty pg).mem = t.mem by simp]
@[simp] theorem Tray.bar2Rd_markDirty (t : Tray) (pg : Nat) (c' o' : Nat) : (t.markDirty pg).bar2Rd c' o' = t.bar2Rd c' o' := by
  unfold Tray.bar2Rd; rw [show (t.markDirty pg).bar2 = t.bar2 by simp]
@[simp] theorem Tray.rd_markDirty (t : Tray) (pg : Nat) (q o : Nat) : (t.markDirty pg).rd q o = t.rd q o := Tray.rd_congr (by simp) ..
@[simp] theorem Tray.gf_markDirty (t : Tray) (pg : Nat) (q : Nat) (f : Fld) : (t.markDirty pg).gf q f = t.gf q f := by
  unfold Tray.gf; rw [Tray.rd_markDirty]
@[simp] theorem Tray.chip_energy (t : Tray) (c m i n : Nat) (c' : Nat) : (t.energy c m i n).chip c' = t.chip c' := by
  unfold Tray.chip; rw [show (t.energy c m i n).chips = t.chips by simp]
@[simp] theorem Tray.port_energy (t : Tray) (c m i n : Nat) (c' e' : Nat) : (t.energy c m i n).port c' e' = t.port c' e' := by
  unfold Tray.port; rw [show (t.energy c m i n).ports = t.ports by simp]
@[simp] theorem Tray.lane_energy (t : Tray) (c m i n : Nat) (c' n' : Nat) : (t.energy c m i n).lane c' n' = t.lane c' n' := by
  unfold Tray.lane; rw [show (t.energy c m i n).lanes = t.lanes by simp]
@[simp] theorem Tray.bay_energy (t : Tray) (c m i n : Nat) (b' : Nat) : (t.energy c m i n).bay b' = t.bay b' := by
  unfold Tray.bay; rw [show (t.energy c m i n).bays = t.bays by simp]
@[simp] theorem Tray.table_energy (t : Tray) (c m i n : Nat) (c' t' : Nat) : (t.energy c m i n).table c' t' = t.table c' t' := by
  unfold Tray.table; rw [show (t.energy c m i n).tables = t.tables by simp]
@[simp] theorem Tray.dealer_energy (t : Tray) (c m i n : Nat) (c' : Nat) : (t.energy c m i n).dealer c' = t.dealer c' := by
  unfold Tray.dealer; rw [show (t.energy c m i n).dealers = t.dealers by simp]
@[simp] theorem Tray.slot_energy (t : Tray) (c m i n : Nat) (c' j' : Nat) : (t.energy c m i n).slot c' j' = t.slot c' j' := by
  unfold Tray.slot Tray.dealer; rw [show (t.energy c m i n).dealers = t.dealers by simp]
@[simp] theorem Tray.node_energy (t : Tray) (c m i n : Nat) (n' : Nat) : (t.energy c m i n).node n' = t.node n' := by
  unfold Tray.node; rw [show (t.energy c m i n).nodes = t.nodes by simp]
@[simp] theorem Tray.watch_energy (t : Tray) (c m i n : Nat) (c' i' : Nat) : (t.energy c m i n).watch c' i' = t.watch c' i' := by
  unfold Tray.watch; rw [show (t.energy c m i n).watches = t.watches by simp]
@[simp] theorem Tray.memAt_energy (t : Tray) (c m i n : Nat) (k' : Nat) : (t.energy c m i n).memAt k' = t.memAt k' := by
  unfold Tray.memAt; rw [show (t.energy c m i n).mem = t.mem by simp]
@[simp] theorem Tray.bar2Rd_energy (t : Tray) (c m i n : Nat) (c' o' : Nat) : (t.energy c m i n).bar2Rd c' o' = t.bar2Rd c' o' := by
  unfold Tray.bar2Rd; rw [show (t.energy c m i n).bar2 = t.bar2 by simp]
@[simp] theorem Tray.rd_energy (t : Tray) (c m i n : Nat) (q o : Nat) : (t.energy c m i n).rd q o = t.rd q o := Tray.rd_congr (by simp) ..
@[simp] theorem Tray.gf_energy (t : Tray) (c m i n : Nat) (q : Nat) (f : Fld) : (t.energy c m i n).gf q f = t.gf q f := by
  unfold Tray.gf; rw [Tray.rd_energy]
@[simp] theorem Tray.chip_counterEnergy (t : Tray) (c m k n : Nat) (c' : Nat) : (t.counterEnergy c m k n).chip c' = t.chip c' := by
  unfold Tray.chip; rw [show (t.counterEnergy c m k n).chips = t.chips by simp]
@[simp] theorem Tray.port_counterEnergy (t : Tray) (c m k n : Nat) (c' e' : Nat) : (t.counterEnergy c m k n).port c' e' = t.port c' e' := by
  unfold Tray.port; rw [show (t.counterEnergy c m k n).ports = t.ports by simp]
@[simp] theorem Tray.lane_counterEnergy (t : Tray) (c m k n : Nat) (c' n' : Nat) : (t.counterEnergy c m k n).lane c' n' = t.lane c' n' := by
  unfold Tray.lane; rw [show (t.counterEnergy c m k n).lanes = t.lanes by simp]
@[simp] theorem Tray.bay_counterEnergy (t : Tray) (c m k n : Nat) (b' : Nat) : (t.counterEnergy c m k n).bay b' = t.bay b' := by
  unfold Tray.bay; rw [show (t.counterEnergy c m k n).bays = t.bays by simp]
@[simp] theorem Tray.table_counterEnergy (t : Tray) (c m k n : Nat) (c' t' : Nat) : (t.counterEnergy c m k n).table c' t' = t.table c' t' := by
  unfold Tray.table; rw [show (t.counterEnergy c m k n).tables = t.tables by simp]
@[simp] theorem Tray.dealer_counterEnergy (t : Tray) (c m k n : Nat) (c' : Nat) : (t.counterEnergy c m k n).dealer c' = t.dealer c' := by
  unfold Tray.dealer; rw [show (t.counterEnergy c m k n).dealers = t.dealers by simp]
@[simp] theorem Tray.slot_counterEnergy (t : Tray) (c m k n : Nat) (c' j' : Nat) : (t.counterEnergy c m k n).slot c' j' = t.slot c' j' := by
  unfold Tray.slot Tray.dealer; rw [show (t.counterEnergy c m k n).dealers = t.dealers by simp]
@[simp] theorem Tray.node_counterEnergy (t : Tray) (c m k n : Nat) (n' : Nat) : (t.counterEnergy c m k n).node n' = t.node n' := by
  unfold Tray.node; rw [show (t.counterEnergy c m k n).nodes = t.nodes by simp]
@[simp] theorem Tray.watch_counterEnergy (t : Tray) (c m k n : Nat) (c' i' : Nat) : (t.counterEnergy c m k n).watch c' i' = t.watch c' i' := by
  unfold Tray.watch; rw [show (t.counterEnergy c m k n).watches = t.watches by simp]
@[simp] theorem Tray.memAt_counterEnergy (t : Tray) (c m k n : Nat) (k' : Nat) : (t.counterEnergy c m k n).memAt k' = t.memAt k' := by
  unfold Tray.memAt; rw [show (t.counterEnergy c m k n).mem = t.mem by simp]
@[simp] theorem Tray.bar2Rd_counterEnergy (t : Tray) (c m k n : Nat) (c' o' : Nat) : (t.counterEnergy c m k n).bar2Rd c' o' = t.bar2Rd c' o' := by
  unfold Tray.bar2Rd; rw [show (t.counterEnergy c m k n).bar2 = t.bar2 by simp]
@[simp] theorem Tray.rd_counterEnergy (t : Tray) (c m k n : Nat) (q o : Nat) : (t.counterEnergy c m k n).rd q o = t.rd q o := Tray.rd_congr (by simp) ..
@[simp] theorem Tray.gf_counterEnergy (t : Tray) (c m k n : Nat) (q : Nat) (f : Fld) : (t.counterEnergy c m k n).gf q f = t.gf q f := by
  unfold Tray.gf; rw [Tray.rd_counterEnergy]
theorem Tray.gf_raise_off (t : Tray) (pg b q : Nat) (g : Fld) (h : g.off % 4096 ≠ 0x20) :
    (t.raise pg b).gf q g = t.gf q g := by unfold Tray.gf; rw [Tray.rd_raise_off _ _ _ _ _ h]
theorem Tray.is_raise_off (t : Tray) (pg b q : Nat) (g : Fld) (h : g.off % 4096 ≠ 0x20) :
    (t.raise pg b).is q g = t.is q g := by unfold Tray.is; rw [Tray.gf_raise_off _ _ _ _ _ h]
theorem Tray.gf_recErr_off (t : Tray) (pg code : Nat) (og : Origin) (q : Nat) (g : Fld)
    (h : g.off % 4096 ≠ 0x60 ∧ g.off % 4096 ≠ 0x20) : (t.recErr pg code og).gf q g = t.gf q g := by
  unfold Tray.gf; rw [Tray.rd_recErr_off _ _ _ _ _ _ h]
theorem Tray.is_recErr_off (t : Tray) (pg code : Nat) (og : Origin) (q : Nat) (g : Fld)
    (h : g.off % 4096 ≠ 0x60 ∧ g.off % 4096 ≠ 0x20) : (t.recErr pg code og).is q g = t.is q g := by
  unfold Tray.is; rw [Tray.gf_recErr_off _ _ _ _ _ _ h]
theorem Tray.gf_sb_self (t : Tray) (pg : Nat) (f : Fld) (b : Bool) (hf : f.lo + f.w ≤ 64) :
    (t.sb pg f b).gf pg f = b2n b % 2 ^ f.w := t.gf_sf_self pg f _ hf
theorem Tray.gf_cnt_self (t : Tray) (pg : Nat) (f : Fld) (n : Nat) (hf : f.lo + f.w ≤ 64) :
    (t.cnt pg f n).gf pg f = (t.gf pg f + n) % 2 ^ f.w := t.gf_sf_self pg f _ hf
theorem Tray.gf_sat_self (t : Tray) (pg : Nat) (f : Fld) (n : Nat) (hf : f.lo + f.w ≤ 64) :
    (t.sat pg f n).gf pg f = satTo (2 ^ f.w - 1) (t.gf pg f + n) := by
  unfold Tray.sat
  rw [t.gf_sf_self pg f _ hf, Nat.mod_eq_of_lt]
  have := Nat.two_pow_pos f.w
  unfold satTo; split <;> omega
theorem Tray.gf_sb_ne (t : Tray) (pg : Nat) (f : Fld) (b : Bool) (g : Fld) (hf : f.lo + f.w ≤ 64) (hg : g.lo + g.w ≤ 64)
    (h : g.off % 4096 ≠ f.off % 4096 ∨ g.off = f.off ∧ (g.lo + g.w ≤ f.lo ∨ f.lo + f.w ≤ g.lo)) :
    (t.sb pg f b).gf pg g = t.gf pg g := t.gf_sf_ne pg f _ g hf hg h
theorem Tray.gf_cnt_ne (t : Tray) (pg : Nat) (f : Fld) (n : Nat) (g : Fld) (hf : f.lo + f.w ≤ 64) (hg : g.lo + g.w ≤ 64)
    (h : g.off % 4096 ≠ f.off % 4096 ∨ g.off = f.off ∧ (g.lo + g.w ≤ f.lo ∨ f.lo + f.w ≤ g.lo)) :
    (t.cnt pg f n).gf pg g = t.gf pg g := t.gf_sf_ne pg f _ g hf hg h
theorem Tray.gf_sat_ne (t : Tray) (pg : Nat) (f : Fld) (n : Nat) (g : Fld) (hf : f.lo + f.w ≤ 64) (hg : g.lo + g.w ≤ 64)
    (h : g.off % 4096 ≠ f.off % 4096 ∨ g.off = f.off ∧ (g.lo + g.w ≤ f.lo ∨ f.lo + f.w ≤ g.lo)) :
    (t.sat pg f n).gf pg g = t.gf pg g := t.gf_sf_ne pg f _ g hf hg h

/-- A bit raised stays raised through updates at other offsets. -/
theorem Tray.irqUp_raise (t : Tray) (pg b : Nat) (hd : bitOf (irqDefined pg) b = true) (hb : b < 64) :
    (t.raise pg b).irqUp pg b := t.raise_sets pg b hd hb
theorem Tray.irqUp_congr {t u : Tray} {pg b : Nat} (h : u.rd pg A.PG_IRQ_RAW = t.rd pg A.PG_IRQ_RAW) (ht : t.irqUp pg b) :
    u.irqUp pg b := by unfold Tray.irqUp; rw [h]; exact ht

/-- The log grows by one entry of the chip. -/
theorem Tray.logs_logChip (t : Tray) (u : Tray) (ev : Ev) (c : Nat) (d : List Nat) (h : u.logq = t.logq) :
    t.logs (u.logChip ev c d) ev c d := 
  ⟨⟨ev, 2 + c, u.master, d, u.hk.rtc / 10 ^ 9, u.fram.halBoot⟩, by rw [← h]; rfl, rfl, rfl, rfl⟩

end Sys2Proof.Machine
end

