-- ==== Sys2Proof/Laws/Traffic.lean ====
section
/-! SUPPORT. What dropping traffic of a chip can change: packets, queues, tables, jobs, counters and the registers that
count them; not the chip-global page, the lane pages, the training registers of the port pages, nor anything outside the
chip's blocks. Stated once for every operation that flushes or aborts. -/
namespace Sys2Proof.Machine

/-- What lies outside the chips' packets, tables and jobs. -/
def Tray.still (t : Tray) := (t.lanes, t.bays, t.bar2, t.aer, t.dirty, t.master, t.logq, t.out, t.hal, t.hk, t.fram, t.zq,
  t.wipe)

/-- `u` keeps the registers `K` names and all that is neither a register nor inside a chip's packets, tables and jobs. -/
structure Keeping (K : Nat → Nat → Prop) (t u : Tray) : Prop where
  rd : ∀ q o, o < 4096 → K q o → u.rd q o = t.rd q o
  hold : ∀ d e, (u.port d e).xoffHold = (t.port d e).xoffHold
  ident : ∀ d e, (u.port d e).ident = (t.port d e).ident
  core : ∀ d, (u.chip d).coreUp = (t.chip d).coreUp
  pcie : ∀ d, (u.chip d).pcieUp = (t.chip d).pcieUp
  still : u.still = t.still

/-- `u` differs from `t` at most where dropping traffic of chip `c` writes. -/
abbrev TrafficSide (c : Nat) : Tray → Tray → Prop := Keeping (trafficFree c)

/-- `u` differs from `t` at most where aborts of chip `c` write. -/
abbrev AbortSide (c : Nat) : Tray → Tray → Prop := Keeping (abortFree c)

theorem Keeping.trans {K : Nat → Nat → Prop} {t u v : Tray} (a : Keeping K t u) (b : Keeping K u v) : Keeping K t v :=
  ⟨fun q o ho hq => (b.rd q o ho hq).trans (a.rd q o ho hq), fun d e => (b.hold d e).trans (a.hold d e),
   fun d e => (b.ident d e).trans (a.ident d e), fun d => (b.core d).trans (a.core d), fun d => (b.pcie d).trans (a.pcie d),
   b.still.trans a.still⟩

theorem Keeping.each {K : Nat → Nat → Prop} {α : Type} (l : List α) (f : Tray → α → Tray)
    (h : ∀ t a, a ∈ l → Keeping K t (f t a)) (t : Tray) : Keeping K t (t.each l f) :=
  Tray.each_keeps (Keeping K t) f l (fun u a ha hu => hu.trans (h u a ha)) t
    ⟨fun _ _ _ _ => rfl, fun _ _ => rfl, fun _ _ => rfl, fun _ => rfl, fun _ => rfl, rfl⟩

theorem Keeping.weak {c : Nat} {t u : Tray} (h : TrafficSide c t u) : AbortSide c t u :=
  ⟨fun q o ho hq => h.rd q o ho hq.1, h.hold, h.ident, h.core, h.pcie, h.still⟩

namespace TrafficSide
variable {c : Nat} {t u v : Tray}

theorem refl (c : Nat) (t : Tray) : TrafficSide c t t :=
  ⟨fun _ _ _ _ => rfl, fun _ _ => rfl, fun _ _ => rfl, fun _ => rfl, fun _ => rfl, rfl⟩

theorem each {α : Type} (l : List α) (f : Tray → α → Tray) (h : ∀ t a, a ∈ l → TrafficSide c t (f t a)) (t : Tray) :
    TrafficSide c t (t.each l f) := Keeping.each l f h t

theorem ite {p : Prop} [Decidable p] {a b : Tray} (ha : TrafficSide c t a) (hb : TrafficSide c t b) :
    TrafficSide c t (if p then a else b) := by split <;> assumption

theorem jobFree_of {q o : Nat} (h : trafficFree c q o) : jobFree c q ∨ headOrShadow o := by
  rcases h with h | h | h | h
  · exact .inl (.inl h.1)
  · unfold jobFree; omega
  · unfold jobFree; omega
  · exact .inr h

/-- What jobs change, dropping traffic may change. -/
theorem of_job (h : JobSide c t u) : TrafficSide c t u where
  rd q o ho hq := h.keeps q o ho (jobFree_of hq)
  hold d e := by obtain ⟨q, hq⟩ := h.ports d e; rw [hq]
  ident d e := by obtain ⟨q, hq⟩ := h.ports d e; rw [hq]
  core d := by unfold Tray.chip; rw [h.chips]
  pcie d := by unfold Tray.chip; rw [h.chips]
  still := by
    unfold Tray.still
    rw [h.lanes, h.bays, h.bar2, h.aer, h.dirty, h.master, h.logq, h.out, h.hal, h.hk, h.fram, h.zq, h.wipe]

theorem wr (c : Nat) (t : Tray) (pg off : Nat) (x : Word) (ho : off < 4096) (h : ¬ trafficFree c pg off) :
    TrafficSide c t (t.wr pg off x) where
  rd q o hq hf := by
    rw [Tray.rd_wr, if_neg]
    rw [regKey_inj hq ho]
    rintro ⟨rfl, rfl⟩; exact h hf
  hold _ _ := rfl
  ident _ _ := rfl
  core _ := rfl
  pcie _ := rfl
  still := rfl

theorem sf (c : Nat) (t : Tray) (pg : Nat) (f : Fld) (x : Nat) (ho : f.off < 4096) (h : ¬ trafficFree c pg f.off) :
    TrafficSide c t (t.sf pg f x) := wr c t pg f.off _ ho h

theorem raise (c : Nat) (t : Tray) (pg b : Nat) (h : ¬ trafficFree c pg 0x20) : TrafficSide c t (t.raise pg b) where
  rd q o hq hf := Tray.rd_raise t pg b q o (by
    rw [Ne, regKey_inj hq (by decide)]
    rintro ⟨rfl, rfl⟩; exact h hf)
  hold _ _ := by simp
  ident _ _ := by simp
  core _ := by simp
  pcie _ := by simp
  still := by simp [Tray.still]

theorem modPort (c : Nat) (t : Tray) (d e : Nat) (f : PortSt → PortSt) (h1 : ∀ p, (f p).xoffHold = p.xoffHold)
    (h2 : ∀ p, (f p).ident = p.ident) : TrafficSide c t (t.modPort d e f) where
  rd _ _ _ _ := rfl
  hold d' e' := by
    show ((t.modPort d e f).port d' e').xoffHold = _
    unfold Tray.modPort Tray.setPort Tray.port
    simp only [Assoc.get_set]
    split
    · rename_i hk; rw [h1, hk]
    · rfl
  ident d' e' := by
    show ((t.modPort d e f).port d' e').ident = _
    unfold Tray.modPort Tray.setPort Tray.port
    simp only [Assoc.get_set]
    split
    · rename_i hk; rw [h2, hk]
    · rfl
  core _ := rfl
  pcie _ := rfl
  still := rfl

theorem modChip (c : Nat) (t : Tray) (d : Nat) (f : ChipSt → ChipSt) (h1 : ∀ p, (f p).coreUp = p.coreUp)
    (h2 : ∀ p, (f p).pcieUp = p.pcieUp) : TrafficSide c t (t.modChip d f) where
  rd _ _ _ _ := rfl
  hold _ _ := rfl
  ident _ _ := rfl
  core d' := by
    show ((t.modChip d f).chip d').coreUp = _
    unfold Tray.modChip Tray.setChip Tray.chip
    simp only [Assoc.get_set]
    split
    · rename_i hk; rw [h1, hk]
    · rfl
  pcie d' := by
    show ((t.modChip d f).chip d').pcieUp = _
    unfold Tray.modChip Tray.setChip Tray.chip
    simp only [Assoc.get_set]
    split
    · rename_i hk; rw [h2, hk]
    · rfl
  still := rfl

theorem modTable (c : Nat) (t : Tray) (d tb : Nat) (f : TableSt → TableSt) : TrafficSide c t (t.modTable d tb f) :=
  ⟨fun _ _ _ _ => rfl, fun _ _ => rfl, fun _ _ => rfl, fun _ => rfl, fun _ => rfl, rfl⟩
theorem setTable (c : Nat) (t : Tray) (d tb : Nat) (x : TableSt) : TrafficSide c t (t.setTable d tb x) :=
  ⟨fun _ _ _ _ => rfl, fun _ _ => rfl, fun _ _ => rfl, fun _ => rfl, fun _ => rfl, rfl⟩
theorem modDealer (c : Nat) (t : Tray) (d : Nat) (f : DealerSt → DealerSt) : TrafficSide c t (t.modDealer d f) :=
  of_job (JobSide.modDealer c t d f)
theorem modNode (c : Nat) (t : Tray) (d : Nat) (f : NodeSt → NodeSt) : TrafficSide c t (t.modNode d f) :=
  ⟨fun _ _ _ _ => rfl, fun _ _ => rfl, fun _ _ => rfl, fun _ => rfl, fun _ => rfl, rfl⟩
theorem originate (c : Nat) (t : Tray) (d e : Nat) (o : Owner) (p : Pkt) : TrafficSide c t (t.originate d e o p) :=
  of_job (JobSide.originate c t d e o p)
theorem charge (c : Nat) (t : Tray) (m k n : Nat) (hm : m < 64) (hk : k < 31) : TrafficSide c t (t.charge c m k n) :=
  of_job (JobSide.charge c t m k n hm hk)

/-- A page of the chip that is neither the chip-global, a lane's nor a port's is written freely. -/
theorem busy_page {p : Nat} (hp : p < 4096) (h : (0x050 ≤ p ∧ p < 0x100) ∨ 0x200 ≤ p) {o : Nat}
    (ho : o = 0x20 ∨ (0x100 ≤ o ∧ o < 0x800)) : ¬ trafficFree c (chipPg c p) o := by
  unfold trafficFree chipPg headOrShadow; omega
theorem not_free_tbl {tb : Nat} (h : tb < 256) {o : Nat} (ho : o = 0x20 ∨ (0x100 ≤ o ∧ o < 0x800)) :
    ¬ trafficFree c (tblPg c tb) o := busy_page (by omega) (.inr (by omega)) ho
/-- Counters and flow control of a port page, whatever its number. -/
theorem not_free_high (q : Nat) {o : Nat} (h : 0x200 ≤ o ∧ o < 0x800) : ¬ trafficFree c q o := by
  unfold trafficFree headOrShadow; omega

/-! ### The switch core -/

theorem setPkts (c : Nat) (t : Tray) (d : Nat) (l : List CorePkt) : TrafficSide c t (t.setPkts d l) :=
  modChip c t d _ (by intro _; rfl) (by intro _; rfl)
theorem modPkt (c : Nat) (t : Tray) (d id : Nat) (f : CorePkt → CorePkt) : TrafficSide c t (t.modPkt d id f) :=
  setPkts c t d _

theorem hSeat_lt (h : Flit) : hSeat h < 64 := Nat.mod_lt _ (by decide)
theorem seat_lt (p : CorePkt) : p.seat < 64 := hSeat_lt _
theorem tSeat_lt (t : Tray) (d tb : Nat) : t.tSeat d tb < 64 := Fld.get_lt _ _ (by decide)

theorem updResv (c : Nat) (t : Tray) (e : Nat) : TrafficSide c t (t.updResv c e) := by
  unfold Tray.updResv
  extract_lets nxt grow pg
  split
  · exact sf c t pg F.PORT_FC_STS_HDRM_WAIT _ (by decide) (not_free_high pg (by decide))
  · exact (modPort c t c e _ (by intro _; rfl) (by intro _; rfl)).trans
      (sf c _ pg F.PORT_FC_STS_HDRM_WAIT _ (by decide) (not_free_high pg (by decide)))

theorem updAll (c : Nat) (t : Tray) :
    TrafficSide c t (t.each (List.range 64) (fun t e => if t.port c e = {} then t else t.updResv c e)) :=
  each _ _ (fun t e _ => ite (refl c t) (updResv c t e)) t

theorem discard (c : Nat) (t : Tray) (id : Nat) : TrafficSide c t (t.discard c id) := by
  unfold Tray.discard
  split
  · exact refl c t
  · exact (modPkt c t c id _).trans (updResv c _ _)

theorem coreLost (c : Nat) (t : Tray) (id : Nat) : TrafficSide c t (t.coreLost c id) := by
  unfold Tray.coreLost
  split
  · exact refl c t
  · exact ite (refl c t) (discard c t id)

theorem countDown (c : Nat) (t : Tray) (f m : Nat) (hm : m < 64) : TrafficSide c t (t.countDown c f m) := by
  unfold Tray.countDown
  refine (sf c t (chipPg c (0x064 + f % 64 / 8)) (F.KIT_OQ_UNDER_DOWN_DROP.at (0x20 * (f % 8))) _ ?_ ?_).trans
    (charge c _ m N.DOWN_DROP 1 hm (by decide))
  · show 0x118 + 0x20 * (f % 8) < 4096; omega
  · exact busy_page (by omega) (.inl (by omega)) (by
      show 0x118 + 0x20 * (f % 8) = 0x20 ∨ (0x100 ≤ 0x118 + 0x20 * (f % 8) ∧ 0x118 + 0x20 * (f % 8) < 0x800); omega)

theorem countMember (c : Nat) (t : Tray) (m n : Nat) (hm : m < 64) : TrafficSide c t (t.countMember c m n) :=
  (sf c t (chipPg c 0x061) F.KIT_MC_DROP_MEMBERS _ (by decide) (busy_page (by decide) (.inl (by decide)) (by decide))).trans
    (charge c _ m N.DOWN_DROP n hm (by decide))

theorem countStorm (c : Nat) (t : Tray) (f m : Nat) (hm : m < 64) : TrafficSide c t (t.countStorm c f m) :=
  (sf c t (portPg c f) F.PORT_DROP_STORM _ (by decide) (not_free_high _ (by decide))).trans
    (charge c _ m N.STORM 1 hm (by decide))

theorem flushOutput (c : Nat) (t : Tray) (f : Nat) : TrafficSide c t (t.flushOutput c f) := by
  unfold Tray.flushOutput
  extract_lets hit res t1 t2 t3
  have h1 : TrafficSide c t t1 := each hit _ (fun t p _ => countDown c t f p.seat (seat_lt p)) t
  have h2 : TrafficSide c t t2 := h1.trans (each res _ (fun t p _ => countMember c t p.seat 1 (seat_lt p)) _)
  have h3 : TrafficSide c t t3 := h2.trans (setPkts c _ c _)
  exact h3.trans (updAll c _)

theorem flushInput (c : Nat) (t : Tray) (e : Nat) : TrafficSide c t (t.flushInput c e) := by
  unfold Tray.flushInput
  extract_lets hit t1
  have h1 : TrafficSide c t t1 := each hit _ (fun t p _ =>
    each _ _ (fun t f _ => countDown c t f p.seat (seat_lt p)) t) t
  exact h1.trans (each hit _ (fun t p _ => discard c t p.id) _)

theorem flushCore (c : Nat) (t : Tray) (b : Bool) : TrafficSide c t (t.flushCore c b) := by
  unfold Tray.flushCore
  extract_lets t1 t2
  have h1 : TrafficSide c t t1 := each _ _ (fun t p _ => charge c t p.seat N.DOWN_DROP 1 (seat_lt p) (by decide)) t
  have h2 : TrafficSide c t t2 := by
    show TrafficSide c t (if b then _ else _)
    exact ite (h1.trans (setPkts c _ c _)) (h1.trans (setPkts c _ c _))
  exact (h2.trans (modChip c t2 c _ (by intro _; rfl) (by intro _; rfl))).trans (updAll c _)

theorem stormEnd (c : Nat) (t : Tray) (e : Nat) : TrafficSide c t (t.stormEnd c e) := by
  unfold Tray.stormEnd
  dsimp only
  exact ite (refl c t) (sf c t (portPg c e) F.PORT_FC_STS_STORM _ (by decide) (not_free_high _ (by decide)))

theorem circDrop (c : Nat) (t : Tray) (k : Nat) : TrafficSide c t (t.circDrop c k) := by
  unfold Tray.circDrop Tray.setCirc
  exact (modChip c t c _ (by intro _; rfl) (by intro _; rfl)).trans (setPkts c _ c _)

theorem circPortDown (c : Nat) (t : Tray) (e : Nat) : TrafficSide c t (t.circPortDown c e) :=
  each _ _ (fun t a _ => circDrop c t a.1) t

theorem syncReplay (c : Nat) (t : Tray) (e : Nat) : TrafficSide c t (t.syncReplay c e) :=
  sf c t (portPg c e) F.PORT_REPLAY_USED _ (by decide) (not_free_high _ (by decide))

theorem freeOwned (c : Nat) (t : Tray) (own : Owner → Bool) : TrafficSide c t (t.freeOwned c own) := by
  unfold Tray.freeOwned
  refine each _ _ (fun t e _ => ?_) t
  dsimp only
  refine ite ?_ (refl c t)
  refine (Keeping.trans ?_ (syncReplay c _ e))
  have := modPort c t c e (fun p => { p with
    origq := p.origq.filter (fun o => !own o.owner),
    replay := p.replay.map (fun r => if own r.owner then { r with freed := true } else r) }) (by intro _; rfl) (by intro _; rfl)
  exact this

theorem rxLost (c : Nat) (t : Tray) (e : Nat) : TrafficSide c t (t.rxLost c e) := by
  unfold Tray.rxLost
  extract_lets x one
  have h : ∀ (t : Tray) (r : Option RxPkt), TrafficSide c t (one t r) := fun t r => by
    show TrafficSide c t (match r.bind (fun r => r.core) with | some id => t.coreLost c id | none => t)
    split
    · exact coreLost c t _
    · exact refl c t
  exact ((h t x.cur).trans (h _ x.ins)).trans (modPort c _ c e _ (by intro _; rfl) (by intro _; rfl))

/-! ### Tables -/

/-- The abort of a page whose registers traffic may write takes effect. -/
theorem startAbort (c : Nat) (t : Tray) (p : Nat) (hp : p < 4096) (h : 0x200 ≤ p) : AbortSide c t (t.startAbort (chipPg c p)) where
  rd q o ho hq := by
    have hk : ¬ (q = chipPg c p ∧ o = 0x48) := by
      rintro ⟨rfl, rfl⟩
      have := hq.2 rfl
      unfold chipPg at this; omega
    unfold Tray.startAbort Tray.sb Tray.cnt
    have one : ∀ (w : Tray) (f : Fld) (x : Nat), f.off = 0x48 → (w.sf (chipPg c p) f x).rd q o = w.rd q o :=
      fun w f x hf => (Tray.rd_wr ..).trans (if_neg (by rw [hf, regKey_inj ho (by decide)]; exact hk))
    rw [one _ _ _ rfl, one _ _ _ rfl, one _ _ _ rfl, one _ _ _ rfl]
  hold _ _ := rfl
  ident _ _ := rfl
  core _ := rfl
  pcie _ := rfl
  still := rfl

theorem slotEnded (c : Nat) (t : Tray) (l : Launch) (st : Nat) : TrafficSide c t (t.slotEnded c l st) := by
  unfold Tray.slotEnded
  split
  · exact refl c t
  · exact modDealer c t c _

theorem setWin (c : Nat) (t : Tray) (d tb e : Nat) (w : Win) : TrafficSide c t (t.setWin d tb e w) :=
  modTable c t d tb _

theorem writeRec (c : Nat) (t : Tray) (tb e : Nat) (r : Rec) (h : tb < 256) : TrafficSide c t (t.writeRec c tb e r) := by
  unfold Tray.writeRec
  extract_lets w ep pk t1
  have h1 : TrafficSide c t t1 := (setWin c t c tb e _).trans (originate c _ c e _ _)
  exact ite h1 (h1.trans (raise c _ _ 8 (not_free_tbl h (by decide))))

theorem issueSlot (c : Nat) (t : Tray) (tb e i : Nat) (h : tb < 256) : TrafficSide c t (t.issueSlot c tb e i) := by
  unfold Tray.issueSlot
  dsimp only
  split
  · exact refl c t
  · exact (setWin c t c tb e _).trans (writeRec c _ tb e _ h)

theorem tableEvent (c : Nat) (t : Tray) (tb e st d : Nat) (h : tb < 256) : TrafficSide c t (t.tableEvent c tb e st d) := by
  unfold Tray.tableEvent
  dsimp only
  refine ite (refl c t) (ite (writeRec c t tb e _ h) ?_)
  exact (sf c t (tblPg c tb) F.TBL_ERR_REC_LOST _ (by decide) (not_free_tbl h (by decide))).trans (raise c _ _ 10 (not_free_tbl h (by decide)))

theorem endCmd (c : Nat) (t : Tray) (tb e i : Nat) (b : Bool) (r : Rec) (h : tb < 256) :
    TrafficSide c t (t.endCmd c tb e i b r) := by
  unfold Tray.endCmd
  dsimp only
  have h0 : TrafficSide c t (if r.status = 0 then t else t.cnt (tblPg c tb) F.TBL_OPS_ERR 1) :=
    ite (refl c t) (sf c t _ F.TBL_OPS_ERR _ (by decide) (not_free_tbl h (by decide)))
  exact ite (h0.trans (setWin c _ c tb e _))
    (ite ((h0.trans (setWin c _ c tb e _)).trans (issueSlot c _ tb e i h)) (h0.trans (setWin c _ c tb e _)))

theorem opRecord (c : Nat) (t : Tray) (tb : Nat) (o : OpSt) (x : OpMember) (st : Nat) (h : tb < 256) :
    TrafficSide c t (t.opRecord c tb o x st) := by
  unfold Tray.opRecord
  dsimp only
  split
  · exact endCmd c t tb _ _ _ _ h
  · have h1 : TrafficSide c t (if st = 0 then t else t.cnt (tblPg c tb) F.TBL_OPS_ERR 1) :=
      ite (refl c t) (sf c t _ F.TBL_OPS_ERR _ (by decide) (not_free_tbl h (by decide)))
    exact ite (h1.trans (writeRec c _ tb _ _ h)) (h1.trans (setWin c _ c tb _ _))

theorem finishFailed (c : Nat) (t : Tray) (tb : Nat) (o : OpSt) (h : tb < 256) : TrafficSide c t (t.finishFailed c tb o) := by
  unfold Tray.finishFailed
  extract_lets due left t1
  have h1 : TrafficSide c t t1 := each due _ (fun t x _ => opRecord c t tb o x _ h) t
  exact ite (h1.trans (modTable c _ c tb _)) (h1.trans (modTable c _ c tb _))

/-- Operations are told apart by their sequence number, which failing one keeps. -/
theorem findOp_map (x : TableSt) (seq : Nat) (f : OpSt → OpSt) (hf : ∀ o, (f o).seq = o.seq) (l : List OpSt)
    (hl : x.ops = l.map f) (o : OpSt) (ho : x.findOp seq = some o) : ∃ z ∈ l, z.seq = seq ∧ o = f z := by
  unfold TableSt.findOp at ho
  rw [hl, List.find?_map] at ho
  obtain ⟨z, hz, rfl⟩ := Option.map_eq_some_iff.1 ho
  have := List.find?_some hz
  refine ⟨z, List.mem_of_find?_eq_some hz, ?_, rfl⟩
  simpa [hf] using this

theorem failOp (c : Nat) (t : Tray) (tb seq : Nat) (h : tb < 256) : TrafficSide c t (t.failOp c tb seq) := by
  unfold Tray.failOp
  split
  · exact refl c t
  · rename_i o _
    refine ite (refl c t) ?_
    extract_lets cut lost t1 t2
    have h1 : TrafficSide c t t1 := each _ _ (fun t e _ => modPort c t c e _ (by intro _; rfl) (by intro _; rfl)) t
    have h2 : TrafficSide c t t2 := h1.trans (modTable c _ c tb _)
    have h3 : TrafficSide c t ((t2.charge c (t.tSeat c tb) N.DATA_FAIL 1).slotEnded c o.launch St.DATA_FAIL) :=
      (h2.trans (charge c _ _ _ _ (tSeat_lt t c tb) (by decide))).trans (slotEnded c _ _ _)
    refine h3.trans ?_
    have htb : ((t2.charge c (t.tSeat c tb) N.DATA_FAIL 1).slotEnded c o.launch St.DATA_FAIL).table c tb = t2.table c tb := by
      have e1 : ∀ (w : Tray), (w.slotEnded c o.launch St.DATA_FAIL).table c tb = w.table c tb := fun w => by
        unfold Tray.slotEnded; split <;> simp
      have e2 : (t2.charge c (t.tSeat c tb) N.DATA_FAIL 1).tables = t2.tables :=
        (JobSide.charge c t2 _ _ _ (tSeat_lt t c tb) (by decide)).tables
      rw [e1]; unfold Tray.table; rw [e2]
    unfold Tray.checkOp
    split
    · exact refl c _
    · rename_i o' ho'
      rw [htb] at ho'
      obtain ⟨z, _, hz, rfl⟩ := findOp_map (t2.table c tb) seq (fun z => if z.seq = seq then
          { z with failed := true, members := z.members.map (fun y => { y with bytes := y.bytes - lost y.port }) } else z)
        (fun z => by split <;> rfl) (t1.table c tb).ops (by
          show ((t1.modTable c tb _).table c tb).ops = _
          rw [Tray.table_modTable]) o' ho'
      simp only [hz, if_true]
      exact finishFailed c _ tb _ h

theorem snapAbort (c : Nat) (t : Tray) (tb : Nat) (h : tb < 256) : TrafficSide c t (t.snapAbort c tb) := by
  unfold Tray.snapAbort
  extract_lets x s t1 t2
  have h1 : TrafficSide c t t1 := each _ _ (fun t z _ => originate c t c _ _ _) t
  have h2 : TrafficSide c t t2 := h1.trans (each _ _ (fun t z _ => originate c t c _ _ _) _)
  exact (h2.trans (modTable c _ c tb _)).trans
    (sf c _ (tblPg c tb) F.TBL_SNAP_SNAP_NEXT _ (by decide) (not_free_tbl h (by decide)))

theorem tableAbort (c : Nat) (t : Tray) (tb st : Nat) (skip : Option Nat) (h : tb < 256) :
    TrafficSide c (if t.aborting (tblPg c tb) then t else t.startAbort (tblPg c tb)) (t.tableAbort c tb st skip) := by
  unfold Tray.tableAbort
  extract_lets pg x ms held was t1 t2 t3 t4 t5 t6 t7
  have nf : ∀ {o}, (o = 0x20 ∨ (0x100 ≤ o ∧ o < 0x800)) → ¬ trafficFree c pg o := fun {o} => not_free_tbl h
  by_cases ha : t.aborting (tblPg c tb) = true
  · rw [if_pos ha, if_pos ha]; exact refl c t
  rw [if_neg ha, if_neg ha]
  have h1 : TrafficSide c (t.startAbort (tblPg c tb)) t1 := freeOwned c _ _
  have h2 : TrafficSide c (t.startAbort (tblPg c tb)) t2 := h1.trans (setTable c _ c tb _)
  have h3 : TrafficSide c (t.startAbort (tblPg c tb)) t3 := h2.trans (each x.ops _ (fun t o _ => slotEnded c t o.launch st) _)
  have h4 : TrafficSide c (t.startAbort (tblPg c tb)) t4 := ((h3.trans (sf c _ pg F.TBL_STS_OP_NEXT _ (by decide) (nf (by decide)))).trans
    (each _ _ (fun t i hi => sf c t pg (ctrFld i) _ (by
      have := List.mem_range.1 hi
      show 0x180 + 8 * i < 4096; omega) (nf (by
        have := List.mem_range.1 hi
        show 0x180 + 8 * i = 0x20 ∨ (0x100 ≤ 0x180 + 8 * i ∧ 0x180 + 8 * i < 0x800); omega))) _)).trans (snapAbort c _ tb h)
  have h5 : TrafficSide c (t.startAbort (tblPg c tb)) t5 := (h4.trans (sf c _ pg F.TBL_STS_WAIT_MEMBER _ (by decide) (nf (by decide)))).trans
    (sf c _ pg F.TBL_STS_CQ_WAIT _ (by decide) (nf (by decide)))
  have h6 : TrafficSide c (t.startAbort (tblPg c tb)) t6 := ite h5 ((h5.trans (sf c _ pg F.TBL_STS_STATE _ (by decide) (nf (by decide)))).trans
    (raise c _ pg 11 (nf (by decide))))
  have h7 : TrafficSide c (t.startAbort (tblPg c tb)) t7 := h6.trans (each _ _ (fun t a _ => tableEvent c t tb a.1 st a.2 h) _)
  exact (ite (h7.trans (raise c _ pg 9 (nf (by decide)))) h7).trans (of_job (JobSide.dealerSweep c _))

theorem tableAbort_abort (c : Nat) (t : Tray) (tb st : Nat) (skip : Option Nat) (h : tb < 256) :
    AbortSide c t (t.tableAbort c tb st skip) := by
  refine Keeping.trans ?_ (Keeping.weak (tableAbort c t tb st skip h))
  split
  · exact Keeping.weak (refl c t)
  · exact startAbort c t (0x200 + tb) (by omega) (by omega)

/-! ### Jobs, circuits, the dump -/

theorem jobAbort (c : Nat) (t : Tray) (j : Nat) (h : j < 32) : TrafficSide c t (t.jobAbort c j) := by
  unfold Tray.jobAbort
  extract_lets pg t1
  have nf : ∀ f : Fld, f.off = 0x110 → ¬ trafficFree c pg (f.nth j).off := fun f h => busy_page (by decide) (.inr (by decide)) (by
    show f.off + 0x20 * j = 0x20 ∨ (0x100 ≤ f.off + 0x20 * j ∧ f.off + 0x20 * j < 0x800); omega)
  have ho : ∀ f : Fld, f.off = 0x110 → (f.nth j).off < 4096 := fun f h => by
    show f.off + 0x20 * j < 4096; omega
  have h1 : TrafficSide c t t1 := sf c t pg (F.DLR_JOB_CTL_EPOCH.nth j) _ (ho _ rfl) (nf _ rfl)
  refine ite (h1.trans (sf c _ pg (F.DLR_JOB_CTL_STATUS.nth j) _ (ho _ rfl) (nf _ rfl))) ?_
  refine (h1.trans ?_).trans (of_job (JobSide.jobEnd c _ j _ _ h))
  unfold Tray.failIssued
  split
  · exact (modTable c _ c _ _).trans (failOp c _ _ _ (Nat.mod_lt _ (by decide)))
  · exact refl c _

theorem dealerAbort (c : Nat) (t : Tray) :
    TrafficSide c (if t.aborting (dlrPg c) then t else t.startAbort (dlrPg c)) (t.dealerAbort c) := by
  unfold Tray.dealerAbort
  by_cases ha : t.aborting (dlrPg c) = true
  · rw [if_pos ha, if_pos ha]; exact refl c t
  rw [if_neg ha, if_neg ha]
  exact (each _ _ (fun t j hj => jobAbort c t j (List.mem_range.1 hj)) _).trans (of_job (JobSide.dealerSweep c _))

theorem circuitAbort (c : Nat) (t : Tray) :
    TrafficSide c (if t.aborting (circPg c) then t else t.startAbort (circPg c)) (t.circuitAbort c) := by
  unfold Tray.circuitAbort
  by_cases ha : t.aborting (circPg c) = true
  · rw [if_pos ha, if_pos ha]; exact refl c t
  rw [if_neg ha, if_neg ha]
  exact each _ _ (fun t a _ => circDrop c t a.1) _

theorem dumpLose (c : Nat) (t : Tray) (cause : Nat) : TrafficSide c t (t.dumpLose c cause) := by
  unfold Tray.dumpLose
  refine ite (refl c t) ?_
  unfold Tray.dumpGap Tray.dumpUnqueue
  have nf : ∀ {o}, (o = 0x20 ∨ (0x100 ≤ o ∧ o < 0x800)) → ¬ trafficFree c (dumpPg c) o := fun {o} =>
    busy_page (by decide) (.inr (by decide))
  exact ((((modChip c t c _ (by intro _; rfl) (by intro _; rfl)).trans (modNode c _ c _)).trans
    (sf c _ (dumpPg c) F.CNT_DUMP_STS_GAPS _ (by decide) (nf (by decide)))).trans (raise c _ _ 8 (nf (by decide)))).trans
    (modChip c _ c _ (by intro _; rfl) (by intro _; rfl))

theorem dumpAbort (c : Nat) (t : Tray) :
    TrafficSide c (if t.aborting (dumpPg c) then t else t.startAbort (dumpPg c)) (t.dumpAbort c) := by
  unfold Tray.dumpAbort
  by_cases ha : t.aborting (dumpPg c) = true
  · rw [if_pos ha, if_pos ha]; exact refl c t
  rw [if_neg ha, if_neg ha]
  exact dumpLose c _ _

/-- A port drops all it carried. -/
theorem portDrop (c : Nat) (t : Tray) (e : Nat) (he : e < 64) : AbortSide c t (t.portDrop c e) := by
  unfold Tray.portDrop
  extract_lets p t0 p' t1 t2 t3 tbs
  have nf : ∀ o, (o = 0x20 ∨ o = 0x130) → ¬ trafficFree c (portPg c e) o := fun o ho => by
    unfold trafficFree portPg chipPg headOrShadow; omega
  have h0 : TrafficSide c t t0 := ite ((sf c t (portPg c e) F.PORT_SPARE_BUSY _ (by decide) (nf _ (.inr rfl))).trans
    (raise c _ _ 23 (nf _ (.inl rfl)))) (refl c t)
  have h1 : TrafficSide c t t1 := by
    have hp : t0.port c e = p := by
      show (if p.spareLane.isSome then (t.sb (portPg c e) F.PORT_SPARE_BUSY false).raise (portPg c e) 23 else t).port c e = _
      split <;> simp [p]
    refine h0.trans ?_
    have := modPort c t0 c e (fun q => { p with
      linkOk := false, peerLinkOk := false, remeasuring := false, tokens := [], echoes := [], floodOwn := false,
      floodPeer := false, spareLane := none, groupSeen := [], groupGood := false, xoffForced := false, xoffRx := 0,
      xoffKit := 0, xoffStage := false, refused := [], rx := {}, tx := {}, rxExp := [], nakSent := [], unacked := [],
      rxSeat := [], txUna := [], txNxt := [], retries := [], replay := [], origq := [], snapq := [], sub := 0,
      xoffHold := q.xoffHold, ident := q.ident }) (by intro _; rfl) (by intro _; rfl)
    unfold Tray.modPort at this
    rw [hp] at this
    exact this
  have h2 : TrafficSide c t t2 := ((h1.trans (syncReplay c _ e)).trans (flushOutput c _ e)).trans (flushInput c _ e)
  have h3 : TrafficSide c t t3 := (h2.trans (modDealer c _ c _)).trans (circPortDown c _ e)
  refine (Keeping.weak h3).trans (Keeping.each tbs _ (fun t a ha => tableAbort_abort c t a.1 _ _ ?_) _)
  obtain ⟨y, _, hy⟩ := List.mem_map.1 (List.mem_filter.1 ha).1
  rw [← hy]; exact Nat.mod_lt _ (by decide)
end TrafficSide

/-! ### A port changes state (R122, R123) -/

/-- Registers of a chip are told apart by page and offset. -/
theorem portPg_ne_chip0 (c e : Nat) : portPg c e ≠ chip0 c := by unfold portPg chip0 chipPg; omega
theorem portPg_ne_lanePg (c e n : Nat) (he : e < 64) : portPg c e ≠ lanePg c n := by unfold portPg lanePg chipPg; omega

/-- The lanes of a port show a state: their LANE_STS alone. -/
theorem Tray.showLanes_rd (t : Tray) (c e st q o : Nat) (ho : o < 4096)
    (h : ∀ j, j < 4 → ¬ (q = lanePg c (4 * e + j) ∧ o = A.LANE_STS)) : (t.showLanes c e st).rd q o = t.rd q o := by
  unfold Tray.showLanes
  refine Tray.each_same (fun u => u.rd q o) _ _ (fun u j hj => ?_) t
  have hk : regKey q o ≠ regKey (lanePg c (4 * e + j)) A.LANE_STS := by
    rw [Ne, regKey_inj ho (by decide)]; exact h j (List.mem_range.1 hj)
  have one : ∀ (w : Tray) (f : Fld) (v : Nat), f.off = A.LANE_STS → (w.sf (lanePg c (4 * e + j)) f v).rd q o = w.rd q o :=
    fun w f v hf => (Tray.rd_wr ..).trans (if_neg (by rw [hf]; exact hk))
  dsimp only
  split
  · rfl
  · split
    · unfold Tray.sb; rw [one _ _ _ rfl, one _ _ _ rfl, one _ _ _ rfl]
    · split
      · unfold Tray.sb; rw [one _ _ _ rfl, one _ _ _ rfl]
      · rw [one _ _ _ rfl]

@[simp] theorem Tray.showLanes_ports (t : Tray) (c e st : Nat) : (t.showLanes c e st).ports = t.ports := by
  unfold Tray.showLanes
  refine Tray.each_same (fun u => u.ports) _ _ (fun u j _ => ?_) t
  dsimp only; split_ifs <;> simp
@[simp] theorem Tray.showLanes_chips (t : Tray) (c e st : Nat) : (t.showLanes c e st).chips = t.chips := by
  unfold Tray.showLanes
  refine Tray.each_same (fun u => u.chips) _ _ (fun u j _ => ?_) t
  dsimp only; split_ifs <;> simp
@[simp] theorem Tray.showLanes_still (t : Tray) (c e st : Nat) : (t.showLanes c e st).still = t.still := by
  unfold Tray.showLanes
  refine Tray.each_same (fun u => u.still) _ _ (fun u j _ => ?_) t
  dsimp only; split_ifs <;> simp [Tray.still]

/-- A register that a change of state of port `e` may write: its page's PORT_TRAIN_STS and interrupt bits, CHIP_WIRE_OK,
LANE_STS of its lanes. -/
def stateReg (c e q o : Nat) : Prop :=
  (q = portPg c e ∧ (o = A.PORT_TRAIN_STS ∨ o = 0x20)) ∨ (q = chip0 c ∧ o = A.CHIP_WIRE_OK) ∨
    ∃ j, j < 4 ∧ q = lanePg c (4 * e + j) ∧ o = A.LANE_STS

theorem Tray.setPst_rd (t : Tray) (c e st q o : Nat) (ho : o < 4096) (h : ¬ stateReg c e q o) :
    (t.setPst c e st).rd q o = t.rd q o := by
  unfold stateReg at h
  push Not at h
  obtain ⟨h1, h2, h3⟩ := h
  unfold Tray.setPst
  dsimp only
  split
  · rfl
  · refine ((Tray.rd_wr ..).trans (if_neg ?_)).trans ?_
    · rw [regKey_inj ho (by decide)]; exact fun e => h2 e.1 e.2
    · rw [Tray.showLanes_rd _ _ _ _ _ _ ho (fun j hj => fun e => h3 j hj e.1 e.2), Tray.rd_raise _ _ _ _ _ (by
        rw [Ne, regKey_inj ho (by decide)]; exact fun e => (h1 e.1).2 e.2)]
      refine (Tray.rd_wr ..).trans (if_neg ?_)
      rw [regKey_inj ho (by decide)]; exact fun e => (h1 e.1).1 e.2

@[simp] theorem Tray.setPst_ports (t : Tray) (c e st : Nat) : (t.setPst c e st).ports = t.ports := by
  unfold Tray.setPst; dsimp only; split <;> simp
@[simp] theorem Tray.setPst_chips (t : Tray) (c e st : Nat) : (t.setPst c e st).chips = t.chips := by
  unfold Tray.setPst; dsimp only; split <;> simp
@[simp] theorem Tray.setPst_still (t : Tray) (c e st : Nat) : (t.setPst c e st).still = t.still := by
  have h1 : ∀ (u : Tray) (pg : Nat) (f : Fld) (v : Nat), (u.sf pg f v).still = u.still := fun _ _ _ _ => rfl
  have h2 : ∀ (u : Tray) (pg b : Nat), (u.raise pg b).still = u.still := fun u pg b => by simp [Tray.still]
  unfold Tray.setPst; dsimp only; split
  · rfl
  · rw [h1, Tray.showLanes_still, h2, h1]

/-- The port is in the state it has gone to. -/
theorem Tray.setPst_pst (t : Tray) (c e st : Nat) (he : e < 64) (hs : st < 16) : (t.setPst c e st).pst c e = st := by
  unfold Tray.setPst
  dsimp only
  split
  · assumption
  · unfold Tray.pst
    rw [Tray.gf_sf_pg _ _ _ _ _ _ (portPg_ne_chip0 c e) (by decide) (by decide), Tray.gf_def,
      Tray.showLanes_rd _ _ _ _ _ _ (by decide) (fun j _ => fun h => portPg_ne_lanePg c e _ he h.1), ← Tray.gf_def,
      Tray.gf_raise_off _ _ _ _ _ (by decide), Tray.gf_sf_self _ _ _ _ (by decide)]
    exact Nat.mod_eq_of_lt hs

/-- The state of another port stays. -/
theorem Tray.setPst_pst_ne (t : Tray) (c e st d g : Nat)
    (hg : ¬ stateReg c e (portPg d g) A.PORT_TRAIN_STS) : (t.setPst c e st).pst d g = t.pst d g := by
  exact congrArg F.PORT_TRAIN_STS_STATE.get (Tray.setPst_rd _ _ _ _ _ _ (by decide) hg)

/-- How a port goes to a state: the state and cause are set, what it carried is dropped, its lanes' handshake ends. -/
theorem Tray.portTo_shape (t : Tray) (c e st cause : Nat) (he : e < 64) :
    let u := (t.setPst c e st).sf (portPg c e) F.PORT_TRAIN_STS_CAUSE cause
    ∃ v, AbortSide c (if t.live c e then (if u.aborting (portPg c e) then u else u.startAbort (portPg c e)) else u) v ∧
      (t.portTo c e st cause).regs = v.regs ∧ (t.portTo c e st cause).ports = v.ports ∧
      (t.portTo c e st cause).chips = v.chips ∧ (t.portTo c e st cause).hal = v.hal ∧
      (t.portTo c e st cause).logq = v.logq := by
  intro u
  have hl : ∀ (w : Tray) (g : Nat → LaneSt → LaneSt),
      (w.each (List.range 4) (fun t j => t.modLane c (4 * e + j) (g j))).regs = w.regs ∧
      (w.each (List.range 4) (fun t j => t.modLane c (4 * e + j) (g j))).ports = w.ports ∧
      (w.each (List.range 4) (fun t j => t.modLane c (4 * e + j) (g j))).chips = w.chips ∧
      (w.each (List.range 4) (fun t j => t.modLane c (4 * e + j) (g j))).hal = w.hal ∧
      (w.each (List.range 4) (fun t j => t.modLane c (4 * e + j) (g j))).logq = w.logq := fun w g =>
    ⟨Tray.each_same (fun u => u.regs) (fun t j => t.modLane c (4 * e + j) (g j)) (List.range 4) (fun _ _ _ => rfl) w,
     Tray.each_same (fun u => u.ports) (fun t j => t.modLane c (4 * e + j) (g j)) (List.range 4) (fun _ _ _ => rfl) w,
     Tray.each_same (fun u => u.chips) (fun t j => t.modLane c (4 * e + j) (g j)) (List.range 4) (fun _ _ _ => rfl) w,
     Tray.each_same (fun u => u.hal) (fun t j => t.modLane c (4 * e + j) (g j)) (List.range 4) (fun _ _ _ => rfl) w,
     Tray.each_same (fun u => u.logq) (fun t j => t.modLane c (4 * e + j) (g j)) (List.range 4) (fun _ _ _ => rfl) w⟩
  unfold Tray.portTo
  extract_lets pg was t1 t2 t3
  refine ⟨t3, ?_, hl t3 _⟩
  have h2 : AbortSide c (if t.live c e then (if u.aborting (portPg c e) then u else u.startAbort (portPg c e)) else u) t2 := by
    show AbortSide c _ (if t.live c e then _ else _)
    split
    · exact TrafficSide.portDrop c _ e he
    · exact Keeping.weak (TrafficSide.modPort c t1 c e _ (by intro _; rfl) (by intro _; rfl))
  exact (h2.trans (Keeping.weak (TrafficSide.stormEnd c _ e))).trans (Keeping.weak (TrafficSide.updResv c _ e))

/-- The registers of a port that has gone to a state. -/
theorem Tray.portTo_goes (t : Tray) (c e st cause : Nat) (he : e < 64) (hs : st < 16) :
    (t.portTo c e st cause).pst c e = st ∧
    (t.portTo c e st cause).gf (portPg c e) F.PORT_TRAIN_STS_CAUSE = cause % 2 ^ F.PORT_TRAIN_STS_CAUSE.w ∧
    (t.portTo c e st cause).gf (portPg c e) F.PG_ABORT_STS_EPOCH =
      (if t.live c e = true ∧ t.aborting (portPg c e) = false then (t.gf (portPg c e) F.PG_ABORT_STS_EPOCH + 1) % 2 ^ 16
       else t.gf (portPg c e) F.PG_ABORT_STS_EPOCH) := by
  obtain ⟨v, hv, hr, _⟩ := t.portTo_shape c e st cause he
  have hf : ∀ o, (o = 0x48 ∨ o = 0x108) → abortFree c (portPg c e) o := fun o ho => by
    unfold abortFree trafficFree portPg chipPg headOrShadow; omega
  have hgf : ∀ f : Fld, (f.off = 0x48 ∨ f.off = 0x108) → (t.portTo c e st cause).gf (portPg c e) f = v.gf (portPg c e) f :=
    fun f _ => by unfold Tray.gf; rw [Tray.rd_congr hr]
  have hgv := fun (f : Fld) (h : f.off = 0x48 ∨ f.off = 0x108) =>
    (congrArg f.get (hv.rd (portPg c e) f.off (by omega) (hf _ h)))
  have hab : ((t.setPst c e st).sf (portPg c e) F.PORT_TRAIN_STS_CAUSE cause).aborting (portPg c e) =
      t.aborting (portPg c e) := by
    unfold Tray.aborting Tray.is
    rw [Tray.gf_sf_off _ _ _ _ _ _ (by decide), Tray.gf_def, Tray.setPst_rd _ _ _ _ _ _ (by decide) (by
      unfold stateReg
      rintro (⟨_, h | h⟩ | ⟨h, _⟩ | ⟨j, _, h, _⟩)
      · exact absurd h (by decide)
      · exact absurd h (by decide)
      · exact portPg_ne_chip0 c e h
      · exact portPg_ne_lanePg c e _ he h), ← Tray.gf_def]
  have hepo : ((t.setPst c e st).sf (portPg c e) F.PORT_TRAIN_STS_CAUSE cause).gf (portPg c e) F.PG_ABORT_STS_EPOCH =
      t.gf (portPg c e) F.PG_ABORT_STS_EPOCH := by
    rw [Tray.gf_sf_off _ _ _ _ _ _ (by decide), Tray.gf_def, Tray.setPst_rd _ _ _ _ _ _ (by decide) (by
      unfold stateReg
      rintro (⟨_, h | h⟩ | ⟨h, _⟩ | ⟨j, _, h, _⟩)
      · exact absurd h (by decide)
      · exact absurd h (by decide)
      · exact portPg_ne_chip0 c e h
      · exact portPg_ne_lanePg c e _ he h), ← Tray.gf_def]
  refine ⟨?_, ?_, ?_⟩
  · show (t.portTo c e st cause).gf (portPg c e) F.PORT_TRAIN_STS_STATE = st
    rw [hgf _ (.inr rfl)]
    refine (hgv F.PORT_TRAIN_STS_STATE (.inr rfl)).trans ?_
    rw [← Tray.gf_def]
    have h0 : ((t.setPst c e st).sf (portPg c e) F.PORT_TRAIN_STS_CAUSE cause).gf (portPg c e) F.PORT_TRAIN_STS_STATE = st := by
      rw [Tray.gf_sf_ne _ _ _ _ _ (by decide) (by decide) (by decide)]
      exact t.setPst_pst c e st he hs
    unfold Tray.startAbort
    split
    · split
      · exact h0
      · simp (disch := decide) only [Tray.gf_sf_ne, Tray.gf_sb_ne, Tray.gf_cnt_ne]; exact (by rwa [Tray.gf_sf_ne _ _ _ _ _ (by decide) (by decide) (by decide)] at h0)
    · exact h0
  · rw [hgf _ (.inr rfl)]
    refine (hgv F.PORT_TRAIN_STS_CAUSE (.inr rfl)).trans ?_
    rw [← Tray.gf_def]
    have h0 := Tray.gf_sf_self (t.setPst c e st) (portPg c e) F.PORT_TRAIN_STS_CAUSE cause (by decide)
    unfold Tray.startAbort
    split
    · split
      · exact h0
      · simp (disch := decide) only [Tray.gf_sf_ne, Tray.gf_sb_ne, Tray.gf_cnt_ne]; exact h0
    · exact h0
  · rw [hgf _ (.inl rfl)]
    refine (hgv F.PG_ABORT_STS_EPOCH (.inl rfl)).trans ?_
    rw [← Tray.gf_def, hab]
    by_cases h1 : t.live c e = true
    · rw [if_pos h1]
      by_cases h2 : t.aborting (portPg c e) = true
      · rw [if_pos h2, if_neg (by simp [h2]), hepo]
      · rw [if_neg h2, if_pos ⟨h1, by simpa using h2⟩]
        unfold Tray.startAbort
        simp (disch := decide) only [Tray.gf_sf_ne, Tray.gf_sb_ne, Tray.gf_cnt_self]
        rw [Tray.gf_sf_ne _ _ _ _ _ (by decide) (by decide) (by decide)] at hepo; rw [hepo]; rfl
    · rw [if_neg h1, if_neg (fun h => h1 h.1), hepo]

/-- A register that the going of port `e` to a state leaves. -/
theorem Tray.portTo_rd (t : Tray) (c e st cause q o : Nat) (he : e < 64) (ho : o < 4096) (hf : abortFree c q o)
    (hs : ¬ stateReg c e q o) (ha : ¬ (q = portPg c e ∧ o = 0x48)) : (t.portTo c e st cause).rd q o = t.rd q o := by
  obtain ⟨v, hv, hr, _⟩ := t.portTo_shape c e st cause he
  have hc : ¬ (q = portPg c e ∧ o = A.PORT_TRAIN_STS) := fun h => hs (.inl ⟨h.1, .inl h.2⟩)
  have h1 : ((t.setPst c e st).sf (portPg c e) F.PORT_TRAIN_STS_CAUSE cause).rd q o = t.rd q o := by
    refine ((Tray.rd_wr ..).trans (if_neg ?_)).trans (Tray.setPst_rd _ _ _ _ _ _ ho hs)
    rw [regKey_inj ho (by decide)]; exact hc
  rw [Tray.rd_congr hr, hv.rd q o ho hf]
  have hk : regKey q o ≠ regKey (portPg c e) 0x48 := by rw [Ne, regKey_inj ho (by decide)]; exact ha
  have one : ∀ (w : Tray) (f : Fld) (x : Nat), f.off = 0x48 → (w.sf (portPg c e) f x).rd q o = w.rd q o :=
    fun w f x hf => (Tray.rd_wr ..).trans (if_neg (by rw [hf]; exact hk))
  unfold Tray.startAbort Tray.sb Tray.cnt
  split
  · split
    · exact h1
    · rw [one _ _ _ rfl, one _ _ _ rfl, one _ _ _ rfl, one _ _ _ rfl, h1]
  · exact h1

/-- The management part and the log stay. -/
theorem Tray.portTo_mgmt (t : Tray) (c e st cause : Nat) (he : e < 64) :
    (t.portTo c e st cause).hal = t.hal ∧ (t.portTo c e st cause).logq = t.logq := by
  obtain ⟨v, hv, _, _, _, hh, hl⟩ := t.portTo_shape c e st cause he
  have h1 : ∀ {u w : Tray}, w.still = u.still → w.hal = u.hal ∧ w.logq = u.logq := fun h => by
    unfold Tray.still at h; simp only [Prod.mk.injEq] at h; exact ⟨h.2.2.2.2.2.2.2.2.1, h.2.2.2.2.2.2.1⟩
  obtain ⟨k1, k2⟩ := h1 hv.still
  obtain ⟨p1, p2⟩ := h1 (t.setPst_still c e st)
  have h2 : ((t.setPst c e st).sf (portPg c e) F.PORT_TRAIN_STS_CAUSE cause).hal = t.hal := (Tray.sf_hal ..).trans p1
  have h2' : ((t.setPst c e st).sf (portPg c e) F.PORT_TRAIN_STS_CAUSE cause).logq = t.logq := (Tray.sf_logq ..).trans p2
  have h3 : ∀ w : Tray, ∀ pg, (w.startAbort pg).hal = w.hal ∧ (w.startAbort pg).logq = w.logq := fun w pg => by
    simp only [Tray.startAbort, Tray.sb, Tray.cnt, Tray.sf_hal, Tray.sf_logq, and_self]
  rw [hh, hl, k1, k2]
  split_ifs
  · exact ⟨h2, h2'⟩
  · rw [(h3 _ _).1, (h3 _ _).2]; exact ⟨h2, h2'⟩
  · exact ⟨h2, h2'⟩

/-! ### Aborts take effect (R104–R109) -/

/-- Where an abort starts on a page that is not aborting. -/
theorem Tray.startAbort_gf (t : Tray) (pg : Nat) :
    (t.startAbort pg).gf pg F.PG_ABORT_STS_EPOCH = (t.gf pg F.PG_ABORT_STS_EPOCH + 1) % 2 ^ 16 ∧
    (t.startAbort pg).gf pg F.PG_ABORT_STS_IN_PROGRESS = 1 ∧ (t.startAbort pg).gf pg F.PG_ABORT_STS_DONE = 0 := by
  unfold Tray.startAbort
  refine ⟨?_, ?_, ?_⟩
  · simp (disch := decide) only [Tray.gf_sf_ne, Tray.gf_sb_ne, Tray.gf_cnt_self]; rfl
  · simp (disch := decide) only [Tray.gf_sf_ne, Tray.gf_sb_self]; rfl
  · simp (disch := decide) only [Tray.gf_sf_ne, Tray.gf_sb_ne, Tray.gf_sb_self]; rfl

/-- What keeps a page's header keeps its abort status. -/
theorem TrafficSide.abortSts {c : Nat} {t u : Tray} (h : TrafficSide c t u) (pg : Nat) (f : Fld) (hf : f.off = 0x48) :
    u.gf pg f = t.gf pg f :=
  congrArg f.get (h.rd pg f.off (by omega) (.inr (.inr (.inr (.inl (by omega))))))

/-- A port at a quiesce. -/
theorem Tray.portQuiesce_side (c : Nat) (t : Tray) (e : Nat) (q o : Nat) (ho : o < 4096) (hf : abortFree c q o)
    (h48 : o = 0x48 → q / 4096 ≠ c ∨ q % 4096 < 0x010 ∨ 0x050 ≤ q % 4096) (he : e < 64) :
    (t.portQuiesce c e).rd q o = t.rd q o := by
  unfold Tray.portQuiesce
  dsimp only
  have h1 : ∀ u : Tray, ((u.setPort c e { u.port c e with
      xoffHold := true, origq := [], snapq := [], replay := (u.port c e).replay.map (fun r => { r with freed := true }) }).syncReplay
        c e).rd q o = u.rd q o := fun u => by
    rw [(TrafficSide.syncReplay c _ e).rd q o ho hf.1]; rfl
  rw [h1]
  split
  · rfl
  · unfold Tray.startAbort Tray.sb Tray.cnt
    have hk : ¬ (q = portPg c e ∧ o = 0x48) := by
      rintro ⟨rfl, rfl⟩
      have := h48 rfl
      unfold portPg chipPg at this; omega
    have one : ∀ (w : Tray) (f : Fld) (x : Nat), f.off = 0x48 → (w.sf (portPg c e) f x).rd q o = w.rd q o :=
      fun w f x hf => (Tray.rd_wr ..).trans (if_neg (by rw [hf, regKey_inj ho (by decide)]; exact hk))
    rw [one _ _ _ rfl, one _ _ _ rfl, one _ _ _ rfl, one _ _ _ rfl]

/-- A whole-chip quiesce leaves, beside page 0x000 of its chip, what aborts leave; page 0x000 is disabled and aborting. -/
theorem Tray.quiesceChip_rd (c : Nat) (t : Tray) (ha : t.aborting (chip0 c) = false) (q o : Nat) (ho : o < 4096)
    (hf : abortFree c q o) (h48 : o = 0x48 → q / 4096 ≠ c ∨ q % 4096 < 0x010 ∨ 0x050 ≤ q % 4096) :
    (t.quiesceChip c).rd q o = ((t.startAbort (chip0 c)).sb (chip0 c) F.PG_CTL_ENABLE false).rd q o := by
  unfold Tray.quiesceChip Tray.quiesce
  rw [if_neg (by rw [ha]; decide)]
  extract_lets t1 t2 t3 t4 t5
  have weak : ∀ {w u : Tray} {pg : Nat} {p : Nat}, pg = chipPg c p → p < 4096 → 0x200 ≤ p →
      TrafficSide c (if w.aborting pg then w else w.startAbort pg) u → AbortSide c w u := fun {w u pg p} h1 h2 h3 h => by
    refine Keeping.trans ?_ (Keeping.weak h)
    split
    · exact Keeping.weak (TrafficSide.refl c w)
    · rw [h1]; exact TrafficSide.startAbort c w p h2 h3
  have hs : ∀ (w : Tray) (k : Nat), k < 2 → AbortSide c w (w.spillAbort c k) := fun w k hk => by
    unfold Tray.spillAbort
    split
    · exact Keeping.weak (TrafficSide.refl c w)
    · exact TrafficSide.startAbort c w (0x320 + 2 * k) (by omega) (by omega)
  have h1 := weak rfl (by decide) (by decide) (TrafficSide.dumpAbort c t1)
  have h2 := h1.trans (weak rfl (by decide) (by decide) (TrafficSide.circuitAbort c _))
  have h3 := h2.trans (weak rfl (by decide) (by decide) (TrafficSide.dealerAbort c _))
  have h4 : AbortSide c t1 t3 := h3.trans (Keeping.each _ _ (fun t tb hb => TrafficSide.tableAbort_abort c t tb _ _ (List.mem_range.1 hb)) _)
  have h5 : AbortSide c t1 t4 := (h4.trans (hs _ 0 (by decide))).trans (hs _ 1 (by decide))
  have h6 : (t4.each (List.range 64) (fun t e => t.portQuiesce c e)).rd q o = t4.rd q o :=
    Tray.each_same (fun u => u.rd q o) _ _ (fun u e he => u.portQuiesce_side c e q o ho hf h48 (List.mem_range.1 he)) t4
  show (t5.logChip .quiesce c []).rd q o = t1.rd q o
  rw [Tray.rd_logChip, (TrafficSide.flushCore c _ true).rd q o ho hf.1, h6, h5.rd q o ho hf]

end Sys2Proof.Machine
end

