-- ==== Sys2Proof/Laws/Charge.lean ====
section
/-! SUPPORT. What charging a seat does (R370–R373): one counter advances, watches of it count, nothing else. -/
namespace Sys2Proof.Machine

theorem Tray.watchCount_rd (t : Tray) (c m k n i q o : Nat) (ho : o < 4096) (hi : i < 8)
    (h : ¬ (q = watchPg c ∧ 0x100 ≤ o)) : (t.watchCount c m k n i).rd q o = t.rd q o := by
  unfold Tray.watchCount
  dsimp only
  split
  · have ho' : (F.CNT_WATCH_CNT_COUNT.at (0x20 * i)).off = 0x108 + 0x20 * i := rfl
    rw [Tray.rd_setWatch]
    generalize F.CNT_WATCH_CNT_COUNT.at (0x20 * i) = f at ho' ⊢
    refine (Tray.rd_wr ..).trans (if_neg ?_)
    rw [regKey_inj ho (by rw [ho']; omega)]
    rintro ⟨e1, e2⟩
    exact h ⟨e1, by rw [e2, ho']; omega⟩
  · rfl

/-- Charging leaves every register but the seat counters and the watches. -/
theorem Tray.charge_rd (t : Tray) (c m k n q o : Nat) (hm : m < 64) (hk : k < 31) (ho : o < 4096) (h : ¬ chargeReg c q o) :
    (t.charge c m k n).rd q o = t.rd q o := by
  unfold Tray.charge
  split
  · rfl
  · rw [Tray.rd_congr (Tray.counterEnergy_regs ..),
      Tray.each_same (fun u => u.rd q o) _ _ (fun u i hi => u.watchCount_rd c m k n i q o ho (List.mem_range.1 hi) (by
        rintro ⟨e0, e⟩
        have hq : q = c * 4096 + 0x341 := e0
        refine h ?_
        unfold chargeReg; clear h e0; omega))]
    refine (Tray.rd_wr ..).trans (if_neg ?_)
    rw [regKey_inj ho (by unfold A.SEAT_CNT; omega)]
    rintro ⟨e1, e2⟩
    refine h ?_
    have hq : q = c * 4096 + (0x380 + m) := e1
    have h2 : o = 0x200 + 8 * k := e2
    unfold chargeReg; clear h e1 e2; omega

/-- The counter charged advances. -/
theorem Tray.charge_counted (t : Tray) (c m k n : Nat) (hm : m < 64) (hk : k < 31) : t.counted (t.charge c m k n) c m k n := by
  unfold Tray.counted Tray.charge
  split
  · rename_i h; subst h; simp
  · rw [Tray.rd_congr (Tray.counterEnergy_regs ..),
      Tray.each_same (fun u => u.rd (seatPg c m) (A.SEAT_CNT + 8 * k)) _ _ (fun u i hi =>
        u.watchCount_rd c m k n i _ _ (by unfold A.SEAT_CNT; omega) (List.mem_range.1 hi) (by
        rintro ⟨e, _⟩
        have e' : c * 4096 + (0x380 + m) = c * 4096 + 0x341 := e
        clear e; omega))]
    exact Tray.rd_wr_self ..

theorem Tray.Stays.charge {t u : Tray} {R : Nat → Nat → Prop} (h : t.Stays u R) (c m k n : Nat) (hm : m < 64) (hk : k < 31)
    (hR : ∀ q o, chargeReg c q o → R q o) : t.Stays (u.charge c m k n) R := by
  refine h.trans ⟨fun q o ho hn => u.charge_rd c m k n q o hm hk ho (fun hc => hn (hR q o hc)), ?_⟩
  have := JobSide.charge c u m k n hm hk
  unfold Tray.keepsBlocks
  have key : (u.charge c m k n).ports = u.ports ∧ (u.charge c m k n).dealers = u.dealers ∧ (u.charge c m k n).mem = u.mem := by
    unfold Tray.charge
    split
    · exact ⟨rfl, rfl, rfl⟩
    · refine ⟨(Tray.counterEnergy_ports ..).trans ?_, (Tray.counterEnergy_dealers ..).trans ?_,
        (Tray.counterEnergy_mem ..).trans ?_⟩
      · rw [Tray.each_same (fun w => w.ports) _ _ (fun w i _ => w.watchCount_ports c m k n i)]; simp
      · rw [Tray.each_same (fun w => w.dealers) _ _ (fun w i _ => w.watchCount_dealers c m k n i)]; simp
      · rw [Tray.each_same (fun w => w.mem) _ _ (fun w i _ => w.watchCount_mem c m k n i)]; simp
  exact ⟨this.chips, key.1, this.lanes, this.bays, this.tables, key.2.1, this.nodes, key.2.2⟩

end Sys2Proof.Machine
end

