-- ==== Sys2Proof/Laws/Aborts.lean ====
section
/-! SUPPORT. How commands that abort or drop traffic end: what their next state keeps after the jobs' sweep. -/
namespace Sys2Proof.Machine

theorem Keeping.logq {K : Nat → Nat → Prop} {u v : Tray} (h : Keeping K u v) : v.logq = u.logq := by
  have := h.still; unfold Tray.still at this; simp only [Prod.mk.injEq] at this; exact this.2.2.2.2.2.2.1

/-- A register that no abort writes, after an aborting command and the sweep. -/
theorem AbortSide.after {t : State} {c : Nat} {v u w : Tray} (hs : AbortSide c v u) (hw : JobSide c u w) (h : t.Like w)
    (q o : Nat) (ho : o < 4096) (hf : abortFree c q o) : t.tray.rd q o = v.rd q o := by
  rw [h.rd, hw.keeps q o ho (TrafficSide.jobFree_of hf.1), hs.rd q o ho hf]

theorem TrafficSide.after {t : State} {c : Nat} {v u w : Tray} (hs : TrafficSide c v u) (hw : JobSide c u w) (h : t.Like w)
    (q o : Nat) (ho : o < 4096) (hf : trafficFree c q o) : t.tray.rd q o = v.rd q o := by
  rw [h.rd, hw.keeps q o ho (TrafficSide.jobFree_of hf), hs.rd q o ho hf]

theorem abortFree_chip0 (c o : Nat) (h : o < 0x200) (h2 : o ≠ 0x20) : abortFree c (chip0 c) o :=
  ⟨.inr (.inl ⟨.inl (chip0_mod c), h, h2⟩), fun _ => .inr (by rw [chip0_mod]; decide)⟩

theorem abortFree_port (c e : Nat) (he : e < 64) (o : Nat) (h : 0x100 ≤ o ∧ o < 0x130) : abortFree c (portPg c e) o := by
  have hpm : portPg c e % 4096 = 0x010 + e := by unfold portPg chipPg; omega
  exact ⟨.inr (.inr (.inl ⟨by omega, by omega, h.1, h.2⟩)), fun x => by omega⟩

/-- A log entry that waits goes on waiting through what aborts do. -/
theorem Tray.logs_after {t u w : Tray} {s : State} {c d : Nat} {ev : Ev} {data : List Nat} (h : t.logs u ev d data)
    (hw : JobSide c u w) (hs : s.Like w) : t.logs s.tray ev d data := by
  obtain ⟨e, e1, e2⟩ := h; exact ⟨e, by rw [hs.logq, hw.logq]; exact e1, e2⟩

theorem Tray.logs_keeping {K : Nat → Nat → Prop} {t u w : Tray} {d : Nat} {ev : Ev} {data : List Nat}
    (h : t.logs u ev d data) (hw : Keeping K u w) : t.logs w ev d data := by
  obtain ⟨e, e1, e2⟩ := h; exact ⟨e, by rw [hw.logq]; exact e1, e2⟩

/-- A spill stack's abort. -/
theorem TrafficSide.spillAbort (c : Nat) (t : Tray) (k : Nat) (hk : k < 2) : AbortSide c t (t.spillAbort c k) := by
  unfold Tray.spillAbort
  split
  · exact Keeping.weak (TrafficSide.refl c t)
  · exact TrafficSide.startAbort c t (0x320 + 2 * k) (by omega) (by omega)

/-- From a function's abort to what it keeps of the state before. -/
theorem AbortSide.of_start {c : Nat} {w u : Tray} {p : Nat} (hp : p < 4096) (h : 0x200 ≤ p)
    (hs : TrafficSide c (if w.aborting (chipPg c p) then w else w.startAbort (chipPg c p)) u) : AbortSide c w u := by
  refine Keeping.trans ?_ (Keeping.weak hs)
  split
  · exact Keeping.weak (TrafficSide.refl c w)
  · exact TrafficSide.startAbort c w p hp h

/-- What a lost lock does to page 0x000: its bit falls, the losses count, CLOCK_FAULT rises, the log has an entry. -/
theorem Tray.lockLost_fault (t : Tray) (c : Nat) (hc : c < 5) (f : Fld) (hf : f.off = A.CHIP_CLK_STS)
    (hw : f.lo + f.w ≤ F.CHIP_CLK_STS_LOSS_CNT.lo) (ev : Ev) (data : List Nat) :
    let v := (t.lockLost c f).clockFault c ev data
    v.gf (chip0 c) f = 0 ∧ v.gf (chip0 c) F.CHIP_CLK_STS_LOSS_CNT = satTo 255 (t.gf (chip0 c) F.CHIP_CLK_STS_LOSS_CNT + 1) ∧
    v.irqUp (chip0 c) 8 ∧ t.logs v ev c data ∧
    t.Stays v (fun q o => q = chip0 c ∧ (o = A.CHIP_CLK_STS ∨ o = 0x20)) := by
  have h64 : f.lo + f.w ≤ 64 := le_trans hw (by decide)
  have ho : f.off < 4096 := by rw [hf]; decide
  have hirq : bitOf (irqDefined (chip0 c)) 8 = true := by
    unfold irqDefined irqMask
    rw [show pageKind (chip0 c) = some .chip0 from pageKind_chipPg c 0 hc (by decide)]
    show bitOf 0x10F 8 = true
    decide
  unfold Tray.clockFault Tray.lockLost
  refine ⟨?_, ?_, ?_, Tray.logs_logChip _ _ _ _ _ (by simp), ?_⟩
  · rw [Tray.gf_logChip, Tray.gf_raise_off _ _ _ _ _ (by rw [hf]; decide),
      Tray.gf_sat_ne _ _ _ _ _ (by decide) h64 (.inr ⟨hf, .inl hw⟩), Tray.gf_sb_self _ _ _ _ h64]
    simp [b2n]
  · rw [Tray.gf_logChip, Tray.gf_raise_off _ _ _ _ _ (by decide), Tray.gf_sat_self _ _ _ _ (by decide),
      Tray.gf_sb_ne _ _ _ _ _ h64 (by decide) (.inr ⟨hf.symm, .inr hw⟩)]
    rfl
  · rw [Tray.irqUp, Tray.rd_logChip]; exact Tray.irqUp_raise _ _ _ hirq (by decide)
  · exact ((((Tray.Stays.refl t _).sb _ ⟨rfl, .inl hf⟩ ho).sat _ ⟨rfl, .inl rfl⟩ (by decide)).raise _ ⟨rfl, .inr rfl⟩).logChip _ _ _

theorem Tray.startAbort_logq (t : Tray) (pg : Nat) : (t.startAbort pg).logq = t.logq := by
  simp only [Tray.startAbort, Tray.sb, Tray.cnt, Tray.sf_logq]
theorem Tray.dumpAbort_logq (t : Tray) (c : Nat) : (t.dumpAbort c).logq = t.logq :=
  (AbortSide.of_start (p := 0x340) (by decide) (by decide) (TrafficSide.dumpAbort c t)).logq
theorem Tray.circuitAbort_logq (t : Tray) (c : Nat) : (t.circuitAbort c).logq = t.logq :=
  (AbortSide.of_start (p := 0x3C0) (by decide) (by decide) (TrafficSide.circuitAbort c t)).logq
theorem Tray.dealerAbort_logq (t : Tray) (c : Nat) : (t.dealerAbort c).logq = t.logq :=
  (AbortSide.of_start (p := 0x300) (by decide) (by decide) (TrafficSide.dealerAbort c t)).logq
theorem Tray.portQuiesce_logq (t : Tray) (c e : Nat) : (t.portQuiesce c e).logq = t.logq := by
  unfold Tray.portQuiesce
  dsimp only
  rw [(TrafficSide.syncReplay c _ e).logq, Tray.setPort_logq]
  split
  · rfl
  · exact Tray.startAbort_logq ..
theorem Tray.logChip_logq (t : Tray) (ev : Ev) (c : Nat) (data : List Nat) :
    ∃ e : LogEntry, (t.logChip ev c data).logq = t.logq ++ [e] ∧ e.ev = ev ∧ e.src = 2 + c := by
  obtain ⟨e, e1, e2, e3, _⟩ := Tray.logs_logChip t t ev c data rfl
  exact ⟨e, e1, e2, e3⟩

/-- The log after a whole-chip quiesce. -/
theorem Tray.quiesceChip_logq (c : Nat) (t : Tray) (ha : t.aborting (chip0 c) = false) :
    ∃ e : LogEntry, (t.quiesceChip c).logq = t.logq ++ [e] ∧ e.ev = .quiesce ∧ e.src = 2 + c := by
  unfold Tray.quiesceChip Tray.quiesce
  rw [if_neg (by rw [ha]; decide)]
  dsimp only
  obtain ⟨e, e1, e2⟩ := Tray.logChip_logq ((((((((((t.startAbort (chip0 c)).sb (chip0 c) F.PG_CTL_ENABLE false).dumpAbort c).circuitAbort c).dealerAbort
    c).each (List.range 256) (fun t tb => t.tableAbort c tb St.ABORTED none)).spillAbort c 0).spillAbort c 1).each (List.range 64)
      (fun t e => t.portQuiesce c e)).flushCore c true) .quiesce c []
  refine ⟨e, e1.trans (congrArg (· ++ [e]) ?_), e2⟩
  rw [(TrafficSide.flushCore c _ true).logq, Tray.each_same (fun u => u.logq) _ _ (fun u e _ => u.portQuiesce_logq c e),
    (TrafficSide.spillAbort c _ 1 (by decide)).logq, (TrafficSide.spillAbort c _ 0 (by decide)).logq,
    Tray.each_same (fun u => u.logq) _ _ (fun u tb hb => (TrafficSide.tableAbort_abort c u tb _ _ (List.mem_range.1 hb)).logq),
    Tray.dealerAbort_logq, Tray.circuitAbort_logq, Tray.dumpAbort_logq, Tray.sb, Tray.sf_logq, Tray.startAbort_logq]

end Sys2Proof.Machine
end

