-- ==== Sys2Proof/Laws/Memory.lean ====
section
/-! SUPPORT. Tensor memory: what a store and a reset of a chip do to it, and that each keeps its canonical form. -/
namespace Sys2Proof.Machine

/-- A byte stored is the byte read; every other byte reads as before. -/
theorem Tray.memAt_memPut (t : Tray) (k : Nat) (b : Byte) (q : Nat) :
    (t.memPut k b).memAt q = if q = k then b else t.memAt q := Assoc.get_set (fun _ => 0) t.mem k b q

theorem Tray.memAt_memPut_ne (t : Tray) {k q : Nat} (b : Byte) (h : q ≠ k) : (t.memPut k b).memAt q = t.memAt q := by
  rw [Tray.memAt_memPut, if_neg h]

/-- A store keeps the canonical form. -/
theorem Tray.memPut_wf {t : Tray} (h : Memory.wf t.mem = true) (k : Nat) (b : Byte) : Memory.wf (t.memPut k b).mem = true :=
  Assoc.wf_set h k b

/-- What a chip's reset leaves of memory keeps the canonical form. -/
theorem Memory.wf_keep {m : Assoc Byte} (h : Memory.wf m = true) (p : Nat → Bool) : Memory.wf (Assoc.keep p m) = true :=
  Assoc.wf_keep h p

/-- Stores in a row keep the canonical form. -/
theorem Tray.memPuts_wf {α : Type} (l : List α) (key : α → Nat) (val : α → Byte) {t : Tray} (h : Memory.wf t.mem = true) :
    Memory.wf (t.each l (fun t a => t.memPut (key a) (val a))).mem = true := by
  induction l generalizing t with
  | nil => exact h
  | cons a l ih => exact ih (Tray.memPut_wf h (key a) (val a))

/-- A list of bytes stored keeps the canonical form. -/
theorem Tray.memStore_wf {t : Tray} (h : Memory.wf t.mem = true) (k : Nat) (l : List Byte) :
    Memory.wf (t.memStore k l).mem = true := by
  unfold Tray.memStore
  exact Tray.memPuts_wf l.zipIdx (fun a => k + a.2) (fun a => a.1) h

/-- Bytes written through translation keep the canonical form. -/
theorem Tray.writeBytes_wf (l : List Byte) {t : Tray} (h : Memory.wf t.mem = true) (c : Nat) (v : Via) (addr : Nat) :
    Memory.wf (t.writeBytes c v addr l).2.mem = true := by
  induction l generalizing t addr with
  | nil => exact h
  | cons b l ih =>
    unfold Tray.writeBytes
    split
    · exact h
    · exact ih (Tray.memPut_wf h _ b) (addr + 1)

/-- Memory at reset has the canonical form. -/
theorem Memory.wf_reset : Memory.wf State.reset.tray.mem = true := rfl

end Sys2Proof.Machine
end

