-- ==== Sys2Proof/Laws/Ports.lean ====
section
/-! SUPPORT. The states of a port (R122): which state an operation leaves it in, and which registers it may touch. -/
namespace Sys2Proof.Machine
variable {t u v : Tray} {R : Nat → Nat → Prop}

/-! ### Chains of register updates -/

theorem Tray.keepsRegs_refl (t : Tray) (R : Nat → Nat → Prop) : t.keepsRegs t R := fun _ _ _ _ => rfl
theorem Tray.keepsRegs_trans (a : t.keepsRegs u R) (b : u.keepsRegs v R) : t.keepsRegs v R :=
  fun q o ho hn => (b q o ho hn).trans (a q o ho hn)
theorem Tray.keepsRegs_mono {Q : Nat → Nat → Prop} (a : t.keepsRegs u R) (h : ∀ q o, R q o → Q q o) : t.keepsRegs u Q :=
  fun q o ho hn => a q o ho (fun hr => hn (h q o hr))
theorem Tray.keepsRegs_of (hr : u.regs = t.regs) : t.keepsRegs u R := fun q o _ _ => Tray.rd_congr hr q o
theorem Tray.keepsRegs_sf (a : t.keepsRegs u R) {pg : Nat} {f : Fld} (x : Nat) (hR : R pg f.off) (ho : f.off < 4096) :
    t.keepsRegs (u.sf pg f x) R :=
  Tray.keepsRegs_trans a (fun q o hq hn => u.wr_keepsRegs pg f.off _ ho q o hq (fun e => hn (e.1 ▸ e.2 ▸ hR)))
theorem Tray.keepsRegs_sb (a : t.keepsRegs u R) {pg : Nat} {f : Fld} (x : Bool) (hR : R pg f.off) (ho : f.off < 4096) :
    t.keepsRegs (u.sb pg f x) R := Tray.keepsRegs_sf a _ hR ho
theorem Tray.keepsRegs_raise (a : t.keepsRegs u R) {pg : Nat} (b : Nat) (hR : R pg 0x20) : t.keepsRegs (u.raise pg b) R :=
  Tray.keepsRegs_trans a (fun q o ho hn => u.rd_raise pg b q o (by
    rw [Ne, regKey_inj ho (by decide)]; intro e; exact hn (e.1 ▸ e.2 ▸ hR)))
theorem Tray.keepsRegs_each {α : Type} (l : List α) (f : Tray → α → Tray) (h : ∀ (w : Tray) a, a ∈ l → w.keepsRegs (f w a) R)
    (a : t.keepsRegs u R) : t.keepsRegs (u.each l f) R :=
  Tray.each_keeps (fun w => t.keepsRegs w R) f l (fun w x hx hw => Tray.keepsRegs_trans hw (h w x hx)) u a
theorem Tray.keepsRegs_gf (a : t.keepsRegs u R) (pg : Nat) (f : Fld) (hf : f.off < 4096) (hn : ¬ R pg f.off) :
    u.gf pg f = t.gf pg f := congrArg f.get (a pg f.off hf hn)

/-! ### The registers of a port -/

theorem mem_lanesOf {e n : Nat} (h : n ∈ lanesOf e) : n / 4 = e ∧ n < 4 * e + 4 ∧ 4 * e ≤ n := by
  unfold lanesOf at h
  obtain ⟨j, hj, rfl⟩ := List.mem_map.1 h
  have := List.mem_range.1 hj
  omega

/-- A register of the pages of a port's lanes. -/
def laneArea (c e q : Nat) : Prop := q / 4096 = c ∧ 0x100 + 4 * e ≤ q % 4096 ∧ q % 4096 < 0x104 + 4 * e

theorem laneArea_lane (c e n : Nat) (he : e < 64) (h : n ∈ lanesOf e) : laneArea c e (lanePg c n) := by
  have := mem_lanesOf h
  unfold laneArea lanePg chipPg; omega

theorem not_laneArea_port (c e d : Nat) (hd : d < 64) : ¬ laneArea c e (portPg c d) := by
  unfold laneArea portPg chipPg; omega

theorem Tray.setEq_keeps (c e n : Nat) (he : e < 64) (h : n ∈ lanesOf e) (t : Tray) (q : EqState) :
    t.keepsRegs (t.setEq c n q) (fun q _ => laneArea c e q) := by
  unfold Tray.setEq
  exact Tray.keepsRegs_sf (Tray.keepsRegs_sf (Tray.keepsRegs_refl _ _) _ (laneArea_lane c e n he h) (by decide)) _
    (laneArea_lane c e n he h) (by decide)

theorem Tray.loadPreset_keeps (c e n : Nat) (he : e < 64) (h : n ∈ lanesOf e) (t : Tray) :
    t.keepsRegs (t.loadPreset c n) (fun q _ => laneArea c e q) := by
  unfold Tray.loadPreset
  exact Tray.keepsRegs_sf (Tray.keepsRegs_refl _ _) _ (laneArea_lane c e n he h) (by decide)

/-- Beside the state itself, entering RETRAIN or SIGNAL touches the lane pages alone. -/
theorem Tray.enterRetrain_keeps (t : Tray) (c e : Nat) (he : e < 64) :
    (t.setPst c e S.RETRAIN).keepsRegs (t.enterRetrain c e) (fun q _ => laneArea c e q) := by
  unfold Tray.enterRetrain
  refine Tray.keepsRegs_each _ _ (fun w n hn => ?_) (fun _ _ _ _ => Tray.rd_modPort ..)
  dsimp only
  refine Tray.keepsRegs_trans (u := match (w.lane c n).checkpoint with | some q => w.setEq c n q | none => w.loadPreset c n) ?_
    (fun _ _ _ _ => Tray.rd_setLane ..)
  split
  · exact Tray.setEq_keeps c e n he hn w _
  · exact Tray.loadPreset_keeps c e n he hn w

theorem Tray.enterSignal_keeps (t : Tray) (c e : Nat) (he : e < 64) :
    (t.setPst c e S.SIGNAL).keepsRegs (t.enterSignal c e) (fun q _ => laneArea c e q) := by
  unfold Tray.enterSignal
  refine Tray.keepsRegs_trans (u := (t.setPst c e S.SIGNAL).each (lanesOf e) (fun t n => (t.loadPreset c n).modLane c n LaneSt.restart)) ?_
    (fun _ _ _ _ => Tray.rd_modPort ..)
  refine Tray.keepsRegs_each _ _ (fun w n hn => ?_) (Tray.keepsRegs_refl _ _)
  exact Tray.keepsRegs_trans (Tray.loadPreset_keeps c e n he hn w) (fun _ _ _ _ => Tray.rd_modLane ..)

theorem Tray.keeps_pst {c e : Nat} (d : Nat) (hd : d < 64) (h : t.keepsRegs u (fun q _ => laneArea c e q)) :
    u.pst c d = t.pst c d :=
  Tray.keepsRegs_gf h _ _ (by decide) (not_laneArea_port c e d hd)

theorem Tray.enterRetrain_pst (t : Tray) (c e : Nat) (he : e < 64) : (t.enterRetrain c e).pst c e = S.RETRAIN :=
  (Tray.keeps_pst e he (t.enterRetrain_keeps c e he)).trans (t.setPst_pst c e _ he (by decide))
theorem Tray.enterSignal_pst (t : Tray) (c e : Nat) (he : e < 64) : (t.enterSignal c e).pst c e = S.SIGNAL :=
  (Tray.keeps_pst e he (t.enterSignal_keeps c e he)).trans (t.setPst_pst c e _ he (by decide))

/-! ### Alarms and phases -/

theorem bitOf_clrBitOf (n i : Nat) : bitOf (clrBitOf n i) i = false := by
  unfold clrBitOf
  split
  · rename_i h
    unfold bitOf at h ⊢
    have hp := Nat.two_pow_pos i
    have h1 : n / 2 ^ i % 2 = 1 := by simpa using h
    have h2 : 2 ^ i ≤ n := by
      by_contra hc
      rw [Nat.div_eq_of_lt (by omega)] at h1; omega
    have h3 : (n - 2 ^ i) / 2 ^ i = n / 2 ^ i - 1 := by
      have := Nat.sub_mul_div n (2 ^ i) 1
      rwa [Nat.mul_one] at this
    rw [h3]; simp; omega
  · rename_i h; simpa using h

theorem bitOf_mod (n i w : Nat) (h : i < w) : bitOf (n % 2 ^ w) i = bitOf n i := by
  rw [bitOf_eq_testBit, bitOf_eq_testBit, Nat.testBit_mod_two_pow]; simp [h]

theorem bitOf_putBitOf_mod (n i w : Nat) (b : Bool) (h : i < w) : bitOf (putBitOf n i b % 2 ^ w) i = b := by
  rw [bitOf_mod _ _ _ h]
  unfold putBitOf
  split
  · rename_i hb; rw [bitOf_setBitOf, hb]
  · rename_i hb; rw [bitOf_clrBitOf]; simpa using hb

theorem Tray.setAlarm_keeps (t : Tray) (c e i : Nat) (b : Bool) :
    t.keepsRegs (t.setAlarm c e i b) (fun q o => q = portPg c e ∧ (o = A.PORT_ALARM ∨ o = 0x20)) := by
  unfold Tray.setAlarm
  dsimp only
  split
  · exact Tray.keepsRegs_refl _ _
  · have h := Tray.keepsRegs_sf (Tray.keepsRegs_refl t (fun q o => q = portPg c e ∧ (o = A.PORT_ALARM ∨ o = 0x20)))
      (pg := portPg c e) (f := F.PORT_ALARM_ALARMS) (putBitOf (t.gf (portPg c e) F.PORT_ALARM_ALARMS) i b) ⟨rfl, .inl rfl⟩ (by decide)
    split
    · exact Tray.keepsRegs_raise h _ ⟨rfl, .inr rfl⟩
    · exact h

/-- The alarm shows what it was set to. -/
theorem Tray.setAlarm_shows (t : Tray) (c e i : Nat) (b : Bool) (hi : i < 13) :
    bitOf ((t.setAlarm c e i b).gf (portPg c e) F.PORT_ALARM_ALARMS) i = b := by
  unfold Tray.setAlarm
  dsimp only
  split
  · assumption
  · have h : bitOf ((t.sf (portPg c e) F.PORT_ALARM_ALARMS (putBitOf (t.gf (portPg c e) F.PORT_ALARM_ALARMS) i b)).gf (portPg c e)
        F.PORT_ALARM_ALARMS) i = b := by
      rw [Tray.gf_sf_self _ _ _ _ (by decide)]
      exact bitOf_putBitOf_mod _ i 13 b hi
    split
    · rw [Tray.gf_raise_off _ _ _ _ _ (by decide)]; exact h
    · exact h

theorem Tray.roleGo_regs (t : Tray) (h : t.hal.waitPorts = false) : t.roleGo = t := by
  unfold Tray.roleGo; rw [if_neg (by simp [h])]

/-- Where a failed training attempt leaves the port (R122). -/
theorem Tray.trainFail_goes (t : Tray) (c e cause : Nat) (he : e < 64) (hr : t.pst c e ≠ S.RETRAIN) (hc : cause < 2 ^ F.PORT_TRAIN_STS_CAUSE.w)
    (hw : t.hal.waitPorts = false) :
    (t.trainFail c e cause).pst c e = (if heldCause cause then S.HELD else S.HOLDOFF) ∧
    (t.trainFail c e cause).gf (portPg c e) F.PORT_TRAIN_STS_CAUSE = cause := by
  have hp : ((t.sat (portPg c e) F.PORT_TRAIN_STS_ATTEMPTS 1).portTo c e (if heldCause cause then S.HELD else S.HOLDOFF)
      cause).hal.waitPorts = false := by
    rw [(Tray.portTo_mgmt _ _ _ _ _ he).1, Tray.sat, Tray.sf_hal]; exact hw
  unfold Tray.trainFail
  rw [if_neg hr]
  dsimp only
  rw [Tray.roleGo_regs _ hp]
  obtain ⟨g1, g2, _⟩ := (t.sat (portPg c e) F.PORT_TRAIN_STS_ATTEMPTS 1).portTo_goes c e
    (if heldCause cause then S.HELD else S.HOLDOFF) cause he (by split <;> decide)
  exact ⟨g1, g2.trans (Nat.mod_eq_of_lt hc)⟩

/-- The state a port goes to on leaving the live states with a cause that does not hold it. -/
theorem Tray.leaveTo_eq (t : Tray) (c e cause : Nat) (h : heldCause cause = false) :
    t.leaveTo c e cause = (if ¬ t.enabled (portPg c e) then S.DISABLED
      else if t.is (portPg c e) F.PORT_TRAIN_CTL_DIAG then S.DIAG else S.DOWN) := by
  unfold Tray.leaveTo
  rw [h]; simp

theorem Tray.leaveTo_lt (t : Tray) (c e cause : Nat) : t.leaveTo c e cause < 16 := by
  unfold Tray.leaveTo
  split_ifs <;> decide

/-- What a port that leaves shows. -/
theorem Tray.portLeave_goes (t : Tray) (c e cause : Nat) (he : e < 64) :
    (t.portLeave c e cause).pst c e = t.leaveTo c e cause ∧
    (t.portLeave c e cause).gf (portPg c e) F.PORT_TRAIN_STS_CAUSE = cause % 2 ^ F.PORT_TRAIN_STS_CAUSE.w ∧
    (t.portLeave c e cause).hal = t.hal ∧ (t.portLeave c e cause).logq = t.logq := by
  unfold Tray.portLeave
  obtain ⟨g1, g2, _⟩ := t.portTo_goes c e _ cause he (t.leaveTo_lt c e cause)
  obtain ⟨g3, g4⟩ := t.portTo_mgmt c e (t.leaveTo c e cause) cause he
  exact ⟨g1, g2, g3, g4⟩

end Sys2Proof.Machine
end

