-- ==== Sys2Proof/Laws/Staging.lean ====
section
/-! SUPPORT. The swap of a page's staged fields (R91): each takes its shadow, all at once, and nothing else changes. -/
namespace Sys2Proof.Machine

/-- The staged registers of a kind of page. -/
def stagedOf (k : PageKind) : List (Nat × Word) :=
  ((hdrRegs ++ blockRegs k).filter (fun r => r.rwsMask != 0)).flatMap (fun r =>
    (List.range r.cnt).map (fun i => (r.off + r.stride * i, r.rwsMask)))

/-- Staged registers lie in the active half, each listed once, clear of the COMMIT, interrupt and error registers. -/
theorem stagedOf_ok (k : PageKind) : ((stagedOf k).map (fun a => a.1)).Nodup ∧
    ∀ a ∈ stagedOf k, a.1 < 0x800 ∧ a.1 ≠ 0x58 ∧ a.1 ≠ 0x20 ∧ a.1 ≠ 0x60 ∧ a.1 ≠ 0x48 := by
  cases k <;> decide +kernel

theorem stagedRegs_eq (pg : Nat) (k : PageKind) (h : pageKind pg = some k) : stagedRegs pg = stagedOf k := by
  unfold stagedRegs; rw [h]; rfl

theorem stagedRegs_ok (pg : Nat) : ((stagedRegs pg).map (fun a => a.1)).Nodup ∧
    ∀ a ∈ stagedRegs pg, a.1 < 0x800 ∧ a.1 ≠ 0x58 ∧ a.1 ≠ 0x20 ∧ a.1 ≠ 0x60 ∧ a.1 ≠ 0x48 := by
  cases h : pageKind pg with
  | none => unfold stagedRegs; rw [h]; exact ⟨List.nodup_nil, fun a ha => absurd ha (List.not_mem_nil)⟩
  | some k => rw [stagedRegs_eq pg k h]; exact stagedOf_ok k

/-- One write per listed register: what each reads afterwards. -/
theorem Tray.each_wr (pg : Nat) (l : List (Nat × Word)) (off : Nat → Nat) (g : Tray → Nat × Word → Word) (hoff : ∀ a ∈ l, off a.1 < 4096)
    (hn : (l.map (fun a => off a.1)).Nodup) (hg : ∀ (u v : Tray) a, a ∈ l → (∀ o, o < 4096 → (∀ b ∈ l, off b.1 ≠ o) → u.rd pg o = v.rd pg o) →
      u.rd pg (off a.1) = v.rd pg (off a.1) → g u a = g v a) (t : Tray) :
    (∀ a ∈ l, (t.each l (fun t a => t.wr pg (off a.1) (g t a))).rd pg (off a.1) = g t a) ∧
    (∀ q o, o < 4096 → ¬ (q = pg ∧ ∃ a ∈ l, o = off a.1) →
      (t.each l (fun t a => t.wr pg (off a.1) (g t a))).rd q o = t.rd q o) := by
  induction l generalizing t with
  | nil => exact ⟨fun a ha => absurd ha (List.not_mem_nil), fun _ _ _ _ => rfl⟩
  | cons a l ih =>
    have e0 : t.each (a :: l) (fun t a => t.wr pg (off a.1) (g t a)) =
        (t.wr pg (off a.1) (g t a)).each l (fun t a => t.wr pg (off a.1) (g t a)) := rfl
    have hn1 : off a.1 ∉ l.map (fun a => off a.1) := (List.nodup_cons.1 hn).1
    have hn2 := (List.nodup_cons.1 hn).2
    have hoa := hoff a (List.mem_cons_self ..)
    have hnot : ∀ b ∈ l, off b.1 ≠ off a.1 := fun b hb e => hn1 (e ▸ List.mem_map_of_mem (f := fun a => off a.1) hb)
    -- the inner list sees a tray that differs at `off a.1` alone
    have hg' : ∀ (u v : Tray) b, b ∈ l → (∀ o, o < 4096 → (∀ x ∈ a :: l, off x.1 ≠ o) → u.rd pg o = v.rd pg o) →
        u.rd pg (off b.1) = v.rd pg (off b.1) → g u b = g v b := fun u v b hb => hg u v b (List.mem_cons_of_mem _ hb)
    have wr_o : ∀ q o, o < 4096 → ¬ (q = pg ∧ o = off a.1) → (t.wr pg (off a.1) (g t a)).rd q o = t.rd q o := fun q o ho h =>
      (Tray.rd_wr ..).trans (if_neg (by rw [regKey_inj ho hoa]; exact h))
    have ih := ih (fun b hb => hoff b (List.mem_cons_of_mem _ hb)) hn2 (fun u v b hb h1 h2 => by
      refine hg' u v b hb (fun o hlt ho => h1 o hlt (fun x hx => ho x (List.mem_cons_of_mem _ hx))) h2) (t.wr pg (off a.1) (g t a))
    obtain ⟨i1, i2⟩ := ih
    rw [e0]
    refine ⟨fun b hb => ?_, fun q o ho h => ?_⟩
    · rcases List.mem_cons.1 hb with rfl | hb'
      · rw [i2 pg _ hoa (by rintro ⟨_, x, hx, e⟩; exact hnot x hx e.symm)]
        exact Tray.rd_wr_self ..
      · rw [i1 b hb']
        refine hg' _ _ b hb' (fun o hlt ho => ?_) ?_
        · exact wr_o pg o hlt (fun h => ho a (List.mem_cons_self ..) h.2.symm)
        · exact wr_o pg _ (hoff b (List.mem_cons_of_mem _ hb')) (fun h => hnot b hb' h.2)
    · rw [i2 q o ho (fun ⟨h1, x, hx, e⟩ => h ⟨h1, x, List.mem_cons_of_mem _ hx, e⟩)]
      exact wr_o q o ho (fun h' => h ⟨h'.1, a, List.mem_cons_self .., h'.2⟩)

/-- The set that a swap makes active (R91). -/
theorem Tray.swapped_rd (t : Tray) (pg : Nat) :
    (∀ a ∈ stagedRegs pg, (t.swapped pg).rd pg a.1 = (t.rd pg a.1 &&& ~~~a.2) ||| (t.rd pg (a.1 + 0x800) &&& a.2)) ∧
    (∀ q o, o < 4096 → ¬ (q = pg ∧ ∃ a ∈ stagedRegs pg, o = a.1) → (t.swapped pg).rd q o = t.rd q o) := by
  obtain ⟨hn, hb⟩ := stagedRegs_ok pg
  exact Tray.each_wr pg (stagedRegs pg) (fun o => o)
    (fun t a => (t.rd pg a.1 &&& ~~~a.2) ||| (t.rd pg (a.1 + 0x800) &&& a.2)) (fun a ha => by have := (hb a ha).1; omega) hn
    (fun u v a ha h1 h2 => by
      have h2' : u.rd pg a.1 = v.rd pg a.1 := h2
      have hlt := (hb a ha).1
      show (u.rd pg a.1 &&& ~~~a.2) ||| (u.rd pg (a.1 + 0x800) &&& a.2) = (v.rd pg a.1 &&& ~~~a.2) ||| (v.rd pg (a.1 + 0x800) &&& a.2)
      rw [h2', h1 (a.1 + 0x800) (by omega) (fun b hb' => by have := (hb b hb').1; show b.1 ≠ _; omega)]) t

/-- The shadows after a swap (R95). -/
theorem Tray.alignShadows_rd (t : Tray) (pg q o : Nat) (ho : o < 4096)
    (h : ¬ (q = pg ∧ ∃ a ∈ stagedRegs pg, o = a.1 + 0x800)) : (t.alignShadows pg).rd q o = t.rd q o := by
  obtain ⟨hn, hb⟩ := stagedRegs_ok pg
  refine (Tray.each_wr pg (stagedRegs pg) (fun o => o + 0x800) (fun t a => t.rd pg a.1 &&& a.2)
    (fun a ha => by have := (hb a ha).1; show a.1 + 0x800 < 4096; omega) ?_ (fun u v a ha h1 h2 => ?_) t).2 q o ho h
  · have e : (stagedRegs pg).map (fun a => a.1 + 0x800) = ((stagedRegs pg).map (fun a => a.1)).map (fun x => x + 0x800) := by
      rw [List.map_map]; rfl
    rw [e]
    exact hn.map (fun a b h => by simpa using h)
  · have hlt := (hb a ha).1
    show u.rd pg a.1 &&& a.2 = v.rd pg a.1 &&& a.2
    rw [h1 a.1 (by omega) (fun b hb' => by have := (hb b hb').1; show b.1 + 0x800 ≠ _; omega)]

theorem Tray.swapped_blocks (t : Tray) (pg : Nat) : t.keepsBlocks (t.swapped pg) := by
  unfold Tray.swapped
  exact (Tray.Stays.each (R := fun _ _ => True) _ _ (fun w a _ => ⟨fun _ _ _ h => absurd trivial h, w.keepsBlocks_wr ..⟩) (Tray.Stays.refl t _)).blocks
theorem Tray.alignShadows_blocks (t : Tray) (pg : Nat) : t.keepsBlocks (t.alignShadows pg) := by
  unfold Tray.alignShadows
  exact (Tray.Stays.each (R := fun _ _ => True) _ _ (fun w a _ => ⟨fun _ _ _ h => absurd trivial h, w.keepsBlocks_wr ..⟩) (Tray.Stays.refl t _)).blocks

end Sys2Proof.Machine
end

