-- ==== Sys2Proof/Tests/Slice0.lean ====
section
/-! SUPPORT. Tests: commands that are not well formed are refused by each check of WellFormed; for every statement, states and commands
that meet its hypotheses. -/
set_option Elab.async false
namespace Sys2Proof.Tests
open Sys2Proof Sys2Proof.Machine


/-- A state from the reset state by a change of the tray. -/
def mkS (f : Tray → Tray) : State := { State.reset with tray := f State.reset.tray }

/-- Chip `c` runs: PCIe link, core, TX PLLs, ENABLE of the chip-global page. -/
def runs (c : Nat) (t : Tray) : Tray :=
  ((t.modChip c (fun x => { x with coreUp := true, pcieUp := true, released := true })).sf (chip0 c) F.CHIP_TXPLL_LOCK_LOCK
    (2 ^ 64 - 1)).sb (chip0 c) F.PG_CTL_ENABLE true

/-- Port 5 of chip 1, in bay 8 with an SC-L cartridge that is Ready, in a state. -/
def wPort (st : Nat) (f : Tray → Tray := id) : State :=
  mkS (fun t => f ((((((runs 1 t).sf (bayPg 8) F.PORT_CART_TYPE 3).sf (bayPg 8) F.PORT_CART_MSTATE 3).sf (bayPg 8)
    F.PORT_CART_SPARES_LEFT 15).sb (portPg 1 5) F.PG_CTL_ENABLE true).setPst 1 5 st))

/-- Where no Dealer holds anything, no job has an end to note. -/
theorem settled_of (t : Tray) (h : t.dealers = []) (c : Nat) : t.settled c := by
  intro j _ st
  unfold Tray.slot Tray.dealer
  rw [h]
  exact fun e => by cases e

theorem ends {i : Instr} {s : State} {P : State → Prop} (h : Completes i s P) : ∃ t, exec i s = .next t :=
  h.imp fun _ x => x.1

/-- A change of port 5's record. -/
def asked (f : PortSt → PortSt) (t : Tray) : Tray := t.modPort 1 5 f

/-! ### Ill-formed commands, one for each check of WellFormed -/

def xPkt (n : Nat) : Pkt := ⟨0, List.replicate n 0⟩
def xMsg (n : Nat) : ZMsg := ⟨0, List.replicate n 0, true⟩
def xBundle (n : Nat) : BundleInfo := ⟨2030, 1, List.replicate n ⟨1, 0, 0, 0⟩, true⟩
theorem test_wf_packet : (Instr.dataReceive 0 0 (xPkt 64)).wf = true ∧ (Instr.dataReceive 0 0 (xPkt 65)).wf = false := by decide +kernel
theorem test_wf_ring_packet : (Instr.deckPacketReceive 0 ⟨0, List.replicate 33 0⟩).wf = false ∧
    (Instr.deckPacketReceive 0 ⟨0, List.replicate 2080 0⟩).wf = false := by decide +kernel
theorem test_wf_message : (Instr.leaseReq 0 (xMsg 8160)).wf = true ∧ (Instr.leaseReq 0 (xMsg 8161)).wf = false := by decide +kernel
theorem test_wf_bundle : (Instr.fwEnd 0 (xMsg 0) (xBundle 3)).wf = false ∧
    (Instr.redfishRequest (.simpleUpdate [] (xBundle 5)) .post false).wf = false := by decide +kernel
theorem test_wf_images : (Instr.halvorenBoot ⟨true, xBundle 4⟩ ⟨true, xBundle 3⟩ ⟨0, false, 0, 0⟩ none).wf = false := by decide +kernel
theorem test_wf_cartridge : (Instr.cartInsert 0 ⟨16, true, true, 0, 0, 0, 0⟩).wf = false ∧
    (Instr.cartInsert 0 ⟨3, true, true, 4096, 0, 0, 0⟩).wf = false ∧ (Instr.cartInsert 0 ⟨3, true, true, 0, 16, 0, 0⟩).wf = false ∧
    (Instr.cartInsert 0 ⟨3, true, true, 0, 0, 65536, 0⟩).wf = false ∧ (Instr.cartInsert 0 ⟨3, true, true, 0, 0, 0, 3⟩).wf = false := by decide
theorem test_wf_flags : (Instr.cmisInterrupt 0 ⟨8, 0, 0⟩).wf = false ∧ (Instr.cmisInterrupt 0 ⟨0, 2 ^ 32, 0⟩).wf = false ∧
    (Instr.cmisInterrupt 0 ⟨0, 0, 2 ^ 32⟩).wf = false := by decide
theorem test_wf_codeword : (Instr.codewordReceive 0 0 (.decoded 0 15 0)).wf = true ∧ (Instr.codewordReceive 0 0 (.decoded 0 16 0)).wf = false := by decide
theorem test_wf_offsets : (Instr.registerWrite 0 0 0x7F8 0).wf = true ∧ (Instr.registerWrite 0 0 0x7FC 0).wf = false ∧
    (Instr.registerWrite 0 0 0x800 0).wf = false ∧ (Instr.shadowWrite 0 0 0x7F8 0).wf = false ∧ (Instr.shadowWrite 0 0 0x804 0).wf = false ∧
    (Instr.registerReadClear 0 0 0x104).wf = false ∧ (Instr.domainDown 0 0 0x104 true).wf = false := by decide
theorem test_wf_width : (Instr.unsupportedRequest 0 0 0x100 8 true).wf = false ∧ (Instr.unsupportedRequest 0 0 0x100 0 true).wf = false ∧
    (Instr.unsupportedRequest 0 0 0x104 8 true).wf = true ∧ (Instr.bar2Access 0 0 4097 true 0).wf = false := by decide
theorem test_wf_counts : (Instr.fomInterval 0 0 5 4 0).wf = false ∧ (Instr.wearForecast 0 (List.replicate 31 [])).wf = false ∧
    (Instr.kittyEccError 0 none 65).wf = false ∧ (Instr.schedSlot 0 [1, 1]).wf = false ∧ (Instr.rs 0 0 [(3, []), (3, [])]).wf = false ∧
    (Instr.dealCapChange 0 2048).wf = false ∧ (Instr.zhctlWireTest [0, 0, 0, 0] 1 1 0).wf = false := by decide
theorem test_wf_energy : (Instr.calibration ⟨none, List.replicate 4 none, [0, 0, 0, 0, 0], 0⟩).wf = false ∧
    (Instr.calibration ⟨none, List.replicate 5 none, [0, 0, 0, 0], 0⟩).wf = false ∧
    (Instr.calibration ⟨none, [some [1, 2, 3], none, none, none, none], [0, 0, 0, 0, 0], 0⟩).wf = false := by decide
theorem test_wf_loop : (Instr.wireTestPhaseEnd [(1280, ⟨0, 1⟩)]).wf = false ∧ (Instr.wireTestPhaseEnd [(0, ⟨2, 1⟩)]).wf = false := by decide

/-! ### Ports: the hypotheses of the statements are met -/

/-- Witnesses apply a statement to a concrete state and operands that meet its hypotheses. -/
def wIdent : IdentInfo := { rack := 7, ep := 5, slot := 2, chip := 1 }
/-- The chip's place in the rack is known. -/
def placed (t : Tray) : Tray :=
  ((((t.sf (chip0 1) F.CHIP_TOPO_CHIP_IDX 1).sf (chip0 1) F.CHIP_TOPO_SLOT 2).sf (chip0 1) F.CHIP_TOPO_RACK_ID 7).sf
    (chip0 1) F.CHIP_TOPO_TOPO_VALID 1)

theorem wit_training_signal (h : Obligations.TrainingAdvances) : ∃ t, exec (.signalDetect 1 5) (wPort S.DOWN) = .next t :=
  ends ((h (wPort S.DOWN) 1 5 (settled_of _ (by decide +kernel) _)).1 (by decide +kernel) (by decide +kernel)
    (by decide +kernel) (by decide +kernel) (by decide +kernel) (by decide +kernel) (by decide +kernel) (by decide +kernel))
theorem wit_training_cdr (h : Obligations.TrainingAdvances) : ∃ t, exec (.cdrLock 1 5) (wPort S.SIGNAL) = .next t :=
  ends ((h (wPort S.SIGNAL) 1 5 (settled_of _ (by decide +kernel) _)).2.1 (by decide +kernel))
def wWait : State := wPort S.IDENT_WAIT (placed ∘ asked (fun p => { p with ident := some wIdent }))
theorem wit_training_ident (h : Obligations.TrainingAdvances) : ∃ t, exec (.identWaitRelease 1 5) wWait = .next t :=
  ends ((h wWait 1 5 (settled_of _ (by decide +kernel) _)).2.2.1 wIdent (by decide +kernel) (by decide +kernel)
    (by decide +kernel) (by decide +kernel) (by decide +kernel) (by decide +kernel) (by decide +kernel))
def wMeasure : State := wPort S.MEASURE (asked (fun p => { p with linkOk := true }))
theorem wit_training_up (h : Obligations.TrainingAdvances) : ∃ t, exec (.partnerLinkOk 1 5) wMeasure = .next t :=
  ends ((h wMeasure 1 5 (settled_of _ (by decide +kernel) _)).2.2.2.1 (by decide +kernel) (by decide +kernel) (by decide +kernel))
theorem wit_training_holdoff (h : Obligations.TrainingAdvances) : ∃ t, exec (.holdoffEnd 1 5) (wPort S.HOLDOFF) = .next t :=
  ends ((h (wPort S.HOLDOFF) 1 5 (settled_of _ (by decide +kernel) _)).2.2.2.2 (by decide +kernel))

/-- A control word of a training frame: tap, operation, RX_READY. -/
def cwOf (tap op : Nat) : Word := ctrlWord (tap + 8 * op) 0 true false 0 0
theorem wit_training_frame (h : Obligations.TrainingFramesAndCodewords) :
    ∃ t, exec (.trainingFrame 1 20 (cwOf 3 2) true 0) (wPort S.TUNE) = .next t :=
  ends ((h (wPort S.TUNE) 1 20 (settled_of _ (by decide +kernel) _)).1 (cwOf 3 2) true 0 (by decide +kernel) (by decide +kernel)
    (by decide +kernel) (by decide +kernel) (by decide +kernel) (by decide +kernel) (by decide +kernel) (by decide +kernel))
theorem wit_codeword_decoded (h : Obligations.TrainingFramesAndCodewords) :
    ∃ t, exec (.codewordReceive 1 20 (.decoded 0x80 3 0)) (wPort S.UP) = .next t :=
  ends (((h (wPort S.UP) 1 20 (settled_of _ (by decide +kernel) _)).2 (by decide +kernel)).1 0x80 3 0)
theorem wit_codeword_failed (h : Obligations.TrainingFramesAndCodewords) :
    ∃ t, exec (.codewordReceive 1 20 .failed) (wPort S.UP) = .next t :=
  ends (((h (wPort S.UP) 1 20 (settled_of _ (by decide +kernel) _)).2 (by decide +kernel)).2)

def fIdent : MFrame := identFrame 7 5 2 1 false
theorem wit_ident_wait (h : Obligations.IdentAndRoundTrip) : ∃ t, exec (.ident 1 5 fIdent) (wPort S.IDENT) = .next t :=
  ends ((h (wPort S.IDENT) 1 5 (settled_of _ (by decide +kernel) _)).1 fIdent (by decide +kernel) (by decide +kernel)
    (by decide +kernel) (by decide +kernel))
theorem wit_echo_req (h : Obligations.IdentAndRoundTrip) :
    ∃ t, exec (.echoReq 1 5 (noteFrame M.ECHO_REQ 77) 9) (wPort S.MEASURE) = .next t :=
  ends ((h (wPort S.MEASURE) 1 5 (settled_of _ (by decide +kernel) _)).2.1 (noteFrame M.ECHO_REQ 77) 9 (by decide +kernel)
    (by decide +kernel) (by decide +kernel))
/-- Port 5 measures: `k` echoes have arrived, token 21 is awaited. -/
def wEcho (k interval : Nat) : State := wPort S.MEASURE (asked (fun p => { p with
  tokens := [(21, 15)], nextToken := 22, nextOrder := 16, echoes := (List.range k).map (fun i => ⟨i, interval, 10⟩) }))
def fEcho : MFrame := mkFrame (M.ECHO_RSP + 2 ^ 16 * 21 + 2 ^ 32 * 10)
theorem wit_echo_timeout (h : Obligations.IdentAndRoundTrip) : ∃ t, exec (.echoTimeout 1 5 21) (wEcho 3 100) = .next t :=
  ends ((h (wEcho 3 100) 1 5 (settled_of _ (by decide +kernel) _)).2.2.1 21 (by decide +kernel))
theorem wit_echo_rsp (h : Obligations.IdentAndRoundTrip) : ∃ t, exec (.echoRsp 1 5 fEcho 8000) (wEcho 14 100) = .next t :=
  ends (((h (wEcho 14 100) 1 5 (settled_of _ (by decide +kernel) _)).2.2.2.1 fEcho 8000 (21, 15) (by decide +kernel)
    (by decide +kernel) (by decide +kernel) (by decide +kernel)).1 (by decide +kernel))
theorem wit_echo_rsp_long (h : Obligations.IdentAndRoundTrip) : ∃ t, exec (.echoRsp 1 5 fEcho 1292) (wEcho 15 1292) = .next t :=
  ends (((h (wEcho 15 1292) 1 5 (settled_of _ (by decide +kernel) _)).2.2.2.1 fEcho 1292 (21, 15) (by decide +kernel)
    (by decide +kernel) (by decide +kernel) (by decide +kernel)).2.1 (by decide +kernel) (by decide +kernel) (by decide +kernel)
    ⟨7, 1292, 10⟩ (by decide +kernel) (by decide +kernel))
theorem wit_echo_rsp_good (h : Obligations.IdentAndRoundTrip) : ∃ t, exec (.echoRsp 1 5 fEcho 1290) (wEcho 15 1290) = .next t :=
  ends (((h (wEcho 15 1290) 1 5 (settled_of _ (by decide +kernel) _)).2.2.2.1 fEcho 1290 (21, 15) (by decide +kernel)
    (by decide +kernel) (by decide +kernel) (by decide +kernel)).2.2 (by decide +kernel) (by decide +kernel) (by decide +kernel)
    ⟨7, 1290, 10⟩ (by decide +kernel) (by decide +kernel))
theorem wit_remeasure (h : Obligations.IdentAndRoundTrip) : ∃ t, exec (.rttRemeasure 1 5 .begins) (wPort S.UP) = .next t :=
  ends ((h (wPort S.UP) 1 5 (settled_of _ (by decide +kernel) _)).2.2.2.2 (by decide +kernel) (by decide +kernel))

theorem wit_loop_refused (h : Obligations.MaintenanceRequests) :
    ∃ t, exec (.loopReq 1 5 (noteFrame M.LOOP_REQ 1)) (wPort S.UP) = .next t :=
  ends (((h (wPort S.UP) 1 5 (noteFrame M.LOOP_REQ 1) (settled_of _ (by decide +kernel) _) (by decide +kernel)).1
    (by decide +kernel) (by decide +kernel)).1 (by decide +kernel))
def wLoop : State := wPort S.UP (fun t => t.sb (portPg 1 5) F.PORT_TRAIN_CTL_ALLOW_REMOTE_LOOP true)
theorem wit_loop_accepted (h : Obligations.MaintenanceRequests) :
    ∃ t, exec (.loopReq 1 5 (noteFrame M.LOOP_REQ 1)) wLoop = .next t :=
  ends (((h wLoop 1 5 (noteFrame M.LOOP_REQ 1) (settled_of _ (by decide +kernel) _) (by decide +kernel)).1
    (by decide +kernel) (by decide +kernel)).2 (by decide +kernel) (by decide +kernel) (by decide +kernel))
theorem wit_loop_ack (h : Obligations.MaintenanceRequests) :
    ∃ t, exec (.loopAck 1 5 (noteFrame M.LOOP_ACK 0)) (wPort S.DIAG) = .next t :=
  ends ((h (wPort S.DIAG) 1 5 (noteFrame M.LOOP_ACK 0) (settled_of _ (by decide +kernel) _) (by decide +kernel)).2.1
    (by decide +kernel))
theorem wit_flood_note (h : Obligations.MaintenanceRequests) :
    ∃ t, exec (.floodNote 1 5 (noteFrame M.FLOOD_NOTE 1)) (wPort S.UP) = .next t :=
  ends ((h (wPort S.UP) 1 5 (noteFrame M.FLOOD_NOTE 1) (settled_of _ (by decide +kernel) _) (by decide +kernel)).2.2.1
    (by decide +kernel) (by decide +kernel) (by decide +kernel))
theorem wit_retrain_req_1 (h : Obligations.MaintenanceRequests) :
    ∃ t, exec (.retrainReq 1 5 (noteFrame M.RETRAIN_REQ 1)) (wPort S.UP) = .next t :=
  ends (((h (wPort S.UP) 1 5 (noteFrame M.RETRAIN_REQ 1) (settled_of _ (by decide +kernel) _) (by decide +kernel)).2.2.2
    (by decide +kernel) (by decide +kernel)).1 (by decide +kernel))
theorem wit_retrain_req_2 (h : Obligations.MaintenanceRequests) :
    ∃ t, exec (.retrainReq 1 5 (noteFrame M.RETRAIN_REQ 2)) (wPort S.UP) = .next t :=
  ends (((h (wPort S.UP) 1 5 (noteFrame M.RETRAIN_REQ 2) (settled_of _ (by decide +kernel) _) (by decide +kernel)).2.2.2
    (by decide +kernel) (by decide +kernel)).2 (by decide +kernel))

theorem wit_phase_timeout (h : Obligations.PortFailures) : ∃ t, exec (.trainingPhaseTimeout 1 5) (wPort S.ALIGN) = .next t :=
  ends ((h (wPort S.ALIGN) 1 5).1 Cz.ALIGN_TIMEOUT (by decide +kernel) (by decide +kernel))
def wRetrain : State := wPort S.RETRAIN (asked (fun p => { p with sub := S.IDENT }))
theorem wit_retrain_timeout (h : Obligations.PortFailures) : ∃ t, exec (.retrainTimeout 1 5) wRetrain = .next t :=
  ends ((h wRetrain 1 5).2.1 (by decide +kernel) Cz.IDENT_TIMEOUT (by decide +kernel))
theorem wit_hold_timeout (h : Obligations.PortFailures) : ∃ t, exec (.floodHoldTimeout 1 5) (wPort S.FLOOD_HOLD) = .next t :=
  ends ((h (wPort S.FLOOD_HOLD) 1 5).2.2.1 (by decide +kernel))
theorem wit_link_loss (h : Obligations.PortFailures) : ∃ t, exec (.partnerLinkLoss 1 5) (wPort S.UP) = .next t :=
  ends ((h (wPort S.UP) 1 5).2.2.2.1 (by decide +kernel) (by decide +kernel))
def wLos : State := wPort S.UP (fun t => t.sb (lanePg 1 23) F.LANE_STS_LOS true)
theorem wit_los_timeout (h : Obligations.PortFailures) : ∃ t, exec (.losTimeout 1 23) wLos = .next t :=
  ends ((h wLos 1 5).2.2.2.2 23 (by decide +kernel) (by decide +kernel) (by decide +kernel))

theorem wit_fom (h : Obligations.LaneHealth) : ∃ t, exec (.fomInterval 1 20 100 1000000000 0) (wPort S.UP) = .next t :=
  ends (((h (wPort S.UP) 1 20 (settled_of _ (by decide +kernel) _)).1 100 1000000000 0 (by decide +kernel)).1 (by decide +kernel))
theorem wit_fom_fail (h : Obligations.LaneHealth) : ∃ t, exec (.fomInterval 1 20 99 1000000000 57) (wPort S.UP) = .next t :=
  ends (((h (wPort S.UP) 1 20 (settled_of _ (by decide +kernel) _)).1 99 1000000000 57 (by decide +kernel)).2 (by decide +kernel)
    (by decide +kernel))
def wLane (f : LaneSt → LaneSt) (g : Tray → Tray := id) : State := wPort S.UP (fun t => g (t.modLane 1 20 f))
def wChk : State := wLane (fun l => { l with foms := [200] }) (fun t => t.sf (lanePg 1 20) F.LANE_FOM_AVG 200)
theorem wit_checkpoint (h : Obligations.LaneHealth) : ∃ t, exec (.laneCheckpoint 1 20) wChk = .next t :=
  ends ((h wChk 1 20 (settled_of _ (by decide +kernel) _)).2.1 (by decide +kernel) (by decide +kernel) (by decide +kernel)
    (by decide +kernel))
def wFreeze : State := wLane (fun l => { l with checkpoint := some ⟨0x4000000000, 3⟩ })
theorem wit_freeze (h : Obligations.LaneHealth) : ∃ t, exec (.laneFreeze 1 20 .saturation) wFreeze = .next t :=
  ends ((h wFreeze 1 20 (settled_of _ (by decide +kernel) _)).2.2.1 .saturation ⟨0x4000000000, 3⟩ (by decide +kernel)
    (by decide +kernel))
def wFrozen : State := wLane id (fun t => (t.sf (lanePg 1 20) F.LANE_STS_STATE 4).modBay 8 (fun b => { b with cartFault := true }))
theorem wit_freeze_exit (h : Obligations.LaneHealth) : ∃ t, exec (.freezeExit 1 20) wFrozen = .next t :=
  ends ((h wFrozen 1 20 (settled_of _ (by decide +kernel) _)).2.2.2.1 (by decide +kernel) (by decide +kernel))
theorem wit_los (h : Obligations.LaneHealth) : ∃ t, exec (.losDetect 1 20 true) wFrozen = .next t :=
  ends ((h wFrozen 1 20 (settled_of _ (by decide +kernel) _)).2.2.2.2.1 (by decide +kernel) (by decide +kernel)
    (by decide +kernel)).1
theorem wit_freeze_los (h : Obligations.LaneHealth) : ∃ t, exec (.freezeLosTimeout 1 20) wFrozen = .next t :=
  ends (((h wFrozen 1 20 (settled_of _ (by decide +kernel) _)).2.2.2.2.1 (by decide +kernel) (by decide +kernel)
    (by decide +kernel)).2 (by decide +kernel) (by decide +kernel))
theorem wit_prbs (h : Obligations.LaneHealth) : ∃ t, exec (.prbsLock 1 20 true) (wPort S.DIAG) = .next t :=
  ends ((h (wPort S.DIAG) 1 20 (settled_of _ (by decide +kernel) _)).2.2.2.2.2.1 true (by decide +kernel) (by decide +kernel))
def wSlip : State := wPort S.DIAG (fun t => t.sb (lanePg 1 20) F.LANE_DIAG_AUTO_ALIGN false)
theorem wit_slip (h : Obligations.LaneHealth) : ∃ t, exec (.laneSlip 1 20 5) wSlip = .next t :=
  ends ((h wSlip 1 20 (settled_of _ (by decide +kernel) _)).2.2.2.2.2.2 5 (by decide +kernel) (by decide +kernel) (by decide +kernel)
    (by decide +kernel))

theorem wit_flood_declare (h : Obligations.Floods) : ∃ t, exec (.floodDeclare 1 5) (wPort S.UP) = .next t :=
  ends ((h (wPort S.UP) 1 5 (settled_of _ (by decide +kernel) _)).1 (by decide +kernel) (by decide +kernel))
def wHold : State := wPort S.FLOOD_HOLD (fun t => asked (fun p => { p with floodOwn := true }) (t.setAlarm 1 5 Al.FLOOD true))
theorem wit_flood_clear (h : Obligations.Floods) : ∃ t, exec (.floodClear 1 5) wHold = .next t :=
  ends ((h wHold 1 5 (settled_of _ (by decide +kernel) _)).2.1 (by decide +kernel) (by decide +kernel) (by decide +kernel))
def wSide : State := wPort S.UP (fun t => t.modBay 8 (fun b => { b with sideFail := 3 }))
theorem wit_sideband (h : Obligations.Floods) : ∃ t, exec (.sidebandFrame 8 0 false) wSide = .next t :=
  ends ((h wSide 1 5 (settled_of _ (by decide +kernel) _)).2.2 8 0 (fun d _ => settled_of _ (by decide +kernel) d)
    (by decide +kernel) (by decide +kernel))

def wCart : CartInfo := ⟨3, true, true, 50, 15, 0x102, 0⟩
def wBay (i : Option CartInfo) (st : Nat) : State := wPort st (fun t => t.modBay 8 (fun b => { b with info := i }))
theorem wit_cart_insert (h : Obligations.CartridgesComeAndGo) : ∃ t, exec (.cartInsert 8 wCart) (wBay none S.HELD) = .next t :=
  ends ((h (wBay none S.HELD) 8 (fun d _ => settled_of _ (by decide +kernel) d)).1 wCart (by decide +kernel) (by decide +kernel)
    (by decide +kernel) (by decide +kernel) (by decide +kernel) (by decide +kernel) (by decide +kernel) (by decide +kernel))
theorem wit_cart_ready (h : Obligations.CartridgesComeAndGo) :
    ∃ t, exec (.cartReady 8) (wBay (some wCart) S.DOWN) = .next t :=
  ends ((h (wBay (some wCart) S.DOWN) 8 (fun d _ => settled_of _ (by decide +kernel) d)).2.1 wCart (by decide +kernel)
    (by decide +kernel) (by decide +kernel) (by decide +kernel) (by decide +kernel))
theorem wit_cart_remove (h : Obligations.CartridgesComeAndGo) :
    ∃ t, exec (.cartRemove 8) (wBay (some wCart) S.UP) = .next t :=
  ends ((h (wBay (some wCart) S.UP) 8 (fun d _ => settled_of _ (by decide +kernel) d)).2.2.1 wCart (by decide +kernel))
theorem wit_cmis_interrupt (h : Obligations.CartridgesComeAndGo) :
    ∃ t, exec (.cmisInterrupt 8 ⟨5, 0, 0⟩) (wBay (some wCart) S.UP) = .next t :=
  ends ((h (wBay (some wCart) S.UP) 8 (fun d _ => settled_of _ (by decide +kernel) d)).2.2.2 wCart ⟨5, 0, 0⟩ (by decide +kernel)
    (by decide +kernel) (by decide +kernel))

/-- GO of a two-wire transaction: a read, a write, the page, the address, the length. -/
def cmisGo (wr page addr len : Nat) : Word :=
  F.PORT_CMIS_CMD_GO.put (F.PORT_CMIS_CMD_WRITE.put (F.PORT_CMIS_CMD_PAGE.put (F.PORT_CMIS_CMD_ADDR.put
    (F.PORT_CMIS_CMD_LEN.put 0 len) addr) page) wr) 1
theorem wit_cmis_owned (h : Obligations.CartridgeServices) :
    ∃ t, exec (.cmisTransaction 8 (cmisGo 1 0x10 121 8)) (wPort S.UP) = .next t :=
  ends (((h (wPort S.UP) 8).1 (cmisGo 1 0x10 121 8) (by decide +kernel) (by decide +kernel) (settled_of _ (by decide +kernel) _) (by decide +kernel)
    (by decide +kernel) (by decide +kernel) (by decide +kernel)).1 (by decide +kernel))
theorem wit_cmis_go (h : Obligations.CartridgeServices) :
    ∃ t, exec (.cmisTransaction 8 (cmisGo 1 0x10 120 8)) (wPort S.UP) = .next t :=
  ends (((h (wPort S.UP) 8).1 (cmisGo 1 0x10 120 8) (by decide +kernel) (by decide +kernel) (settled_of _ (by decide +kernel) _) (by decide +kernel)
    (by decide +kernel) (by decide +kernel) (by decide +kernel)).2 (by decide +kernel))
def wCmis : State := wPort S.UP (fun t => (t.modBay 8 (fun b => { b with cmis := some 1 })).sb (bayPg 8) F.PORT_CMIS_STS_BUSY true)
theorem wit_cmis_done (h : Obligations.CartridgeServices) : ∃ t, exec (.cmisDone 8 .pageNotAdvertised) wCmis = .next t :=
  ends ((h wCmis 8).2.1 1 (by decide +kernel))
theorem wit_wear (h : Obligations.CartridgeServices) : ∃ t, exec (.wearRead 1 20 1300 1000 7 false) (wPort S.UP) = .next t :=
  ends ((h (wPort S.UP) 8).2.2.1 1 20 1300 1000 7 (settled_of _ (by decide +kernel) _) (by decide +kernel) (by decide +kernel)
    (by decide +kernel) (by decide +kernel) (by decide +kernel))
def wNoSpare : State := wPort S.UP (fun t => t.sf (bayPg 8) F.PORT_CART_SPARES_LEFT 0)
theorem wit_spare (h : Obligations.CartridgeServices) : ∃ t, exec (.laneSpare 1 5 (F.PORT_SPARE_GO.put 2 1)) wNoSpare = .next t :=
  ends ((h wNoSpare 8).2.2.2.1 1 5 (F.PORT_SPARE_GO.put 2 1) (by decide +kernel) (by decide +kernel)
    (settled_of _ (by decide +kernel) _) (by decide +kernel) (by decide +kernel) 2
    (by decide +kernel) (by decide +kernel))
theorem wit_forecast (h : Obligations.CartridgeServices) :
    ∃ t, exec (.wearForecast 8 [[(0, 1024), (5, 1100)]]) (wPort S.UP) = .next t :=
  ends ((h (wPort S.UP) 8).2.2.2.2 [[(0, 1024), (5, 1100)]] (by decide +kernel))

theorem wit_restart_live (h : Obligations.OperatorRestartsPorts) : ∃ t, exec (.portRestart 1 5) (wPort S.UP) = .next t :=
  ends ((h (wPort S.UP) 1 5 (by decide +kernel) (by decide +kernel)).1 (by decide +kernel))
theorem wit_restart_held (h : Obligations.OperatorRestartsPorts) : ∃ t, exec (.portRestart 1 5) (wPort S.HELD) = .next t :=
  ends ((h (wPort S.HELD) 1 5 (by decide +kernel) (by decide +kernel)).2.1 (by decide +kernel))
theorem wit_diag (h : Obligations.OperatorRestartsPorts) : ∃ t, exec (.portDiag 1 5 true) (wPort S.TUNE) = .next t :=
  ends ((h (wPort S.TUNE) 1 5 (by decide +kernel) (by decide +kernel)).2.2 (by decide +kernel) (by decide +kernel) (by decide +kernel))

/-! ### Packets, switch core, replay, circuits, deck ring: the hypotheses of the statements are met -/

/-- A DATA packet of channel 6 and seat 2 from endpoint 3 for port 5, 60 bytes of 7, as a partner sends it. -/
def pData : Pkt := ⟨0x6c4e0000d020e9dc000000000000000000000000000000000000000000000000000000000000000000000000000000000000000000000000003c020005030061,
  [0x70707070707070707070707070707070707070707070707070707070707070707070707070707070707070707070707070707070707070707070707]⟩
def hData : Flit := pData.hdr
/-- A packet in staging of port 9 of chip 1 for port 5. -/
def kData : CorePkt := { id := 4, hdr := hData, pay := pData.pay, inPort := 9, arrived := 1, copies := [{ port := 5 }] }
/-- Port 5 of chip 1 UP, the core enabled, with packets. -/
def wCore (l : List CorePkt) (f : Tray → Tray := id) : State :=
  wPort S.UP (fun t => f (((t.sb (chipPg 1 0x060) F.PG_CTL_ENABLE true).sb (chipPg 1 0x050) F.PG_CTL_ENABLE true).modChip 1
    (fun x => { x with pkts := l, nextPkt := 5 })))

theorem wit_admit_shared (h : Obligations.CellsAreAdmitted) : ∃ t, exec (.cellAdmit 1 9) (wCore [kData]) = .next t :=
  ends (((h (wCore [kData]) 1 9).1 kData { port := 5 } [] (by decide +kernel) (by decide +kernel) (by decide +kernel)
    (by decide +kernel) (by decide +kernel) (by decide +kernel) (by decide +kernel) (by decide +kernel) (by decide +kernel)).1
    (by decide +kernel))
/-- The shared pool has no free cell, input 9 has headroom. -/
def wFull : State := wCore [kData] (fun t => (t.modPort 1 9 (fun p => { p with resv := [(3, 10)] })).modPort 1 5
  (fun p => { p with resv := [(1, 262144)] }))
theorem wit_admit_headroom (h : Obligations.CellsAreAdmitted) : ∃ t, exec (.cellAdmit 1 9) wFull = .next t :=
  ends (((h wFull 1 9).1 kData { port := 5 } [] (by decide +kernel) (by decide +kernel) (by decide +kernel)
    (by decide +kernel) (by decide +kernel) (by decide +kernel) (by decide +kernel) (by decide +kernel) (by decide +kernel)).2
    (by decide +kernel) (by decide +kernel))
def wXoff : State := wCore [] (fun t => t.modPort 1 9 (fun p => { p with xoffKit := 12, refused := [(3, 5)], xoffStage := true }))
theorem wit_xoff_clear (h : Obligations.CellsAreAdmitted) : ∃ t, exec (.xoffClear 1 9 3) wXoff = .next t :=
  ends ((h wXoff 1 9).2.1 3 (by decide +kernel) (by decide +kernel) (by decide +kernel))
theorem wit_stage_clear (h : Obligations.CellsAreAdmitted) : ∃ t, exec (.stageXoffClear 1 9) wXoff = .next t :=
  ends ((h wXoff 1 9).2.2.1 (by decide +kernel))
def wCarve : State := wCore [] (fun t => t.sb (portPg 1 5) F.PORT_FC_STS_HDRM_WAIT true)
theorem wit_carve (h : Obligations.CellsAreAdmitted) : ∃ t, exec (.carveOutGrant 1 5) wCarve = .next t :=
  ends ((h wCarve 1 5).2.2.2 (by decide +kernel) (by decide +kernel) (by decide +kernel))

def pSnap : Pkt := ⟨0x25a100009c3bbb4f0000000000000000000000000000000000000000000000000000000000000000000000000000000000000000000000000000020005050002, []⟩
def wOrig : State := wCore [] (asked (fun p => { p with origq := [⟨pSnap, .none⟩] }))
theorem wit_orig (h : Obligations.QueuesMoveOn) : ∃ t, exec (.origAdmit 1 5) wOrig = .next t :=
  ends ((h wOrig 1 5).1 ⟨pSnap, .none⟩ (by decide +kernel) (by decide +kernel) (by decide +kernel) (by decide +kernel)
    (by decide +kernel))
def hFenced : Flit := 0xe23600001a7ac6fd00000000000000000000000000000000000000000000000000000000000000000000000000000000000000000000000000000200050300e1
def kFence : CorePkt := { id := 4, hdr := hFenced, pay := [], inPort := 9, arrived := 1, copies := [{ port := 5 }], held := true }
theorem wit_fence (h : Obligations.QueuesMoveOn) : ∃ t, exec (.fenceRelease 1 9) (wCore [kFence]) = .next t :=
  ends ((h (wCore [kFence]) 1 9).2.1 [] kFence [] (by decide +kernel) (by decide +kernel) (by decide +kernel)
    (by decide +kernel) (by decide +kernel) (by decide +kernel))
def kStaged : CorePkt := { kData with accts := [false] }
theorem wit_aged (h : Obligations.QueuesMoveOn) : ∃ t, exec (.requestAged 1 2 9 5) (wCore [kStaged]) = .next t :=
  ends ((h (wCore [kStaged]) 1 9).2.2.1 2 5 (by decide +kernel) (by decide +kernel))
def wStorm : State := wCore [kStaged] (asked (fun p => { p with xoffRx := 8 }))
theorem wit_storm (h : Obligations.QueuesMoveOn) : ∃ t, exec (.pauseStorm 1 5 3) wStorm = .next t :=
  ends ((h wStorm 1 5).2.2.2 3 (settled_of _ (by decide +kernel) _) (by decide +kernel) (by decide +kernel) (by decide +kernel))

theorem wit_slot (h : Obligations.SlotsMatchRequests) : ∃ t, exec (.schedSlot 1 []) (wCore [kStaged]) = .next t :=
  ends ((h (wCore [kStaged]) 1).1 kStaged 5 (by decide +kernel) (by decide +kernel) (by decide +kernel) (by decide +kernel)
    (by decide +kernel) (by decide +kernel) (by decide +kernel) (by decide +kernel) (by decide +kernel) (by decide +kernel)
    (by decide +kernel))
def kResid : CorePkt := 
  { kStaged with crossed := 1, copies := [], residue := [5], inResidue := true, judged := true }
theorem wit_residue (h : Obligations.SlotsMatchRequests) : ∃ t, exec (.residueRetry 1) (wCore [kResid]) = .next t :=
  ends ((h (wCore [kResid]) 1).2 kResid 5 (by decide +kernel) (by decide +kernel) (by decide +kernel) (by decide +kernel)
    (by decide +kernel) (by decide +kernel) (by decide +kernel) (by decide +kernel) (by decide +kernel) (by decide +kernel))

theorem wit_egress_idle (h : Obligations.EgressAndKittyErrors) : ∃ t, exec (.egressSelect 1 5) (wCore []) = .next t :=
  ends (((h (wCore []) 1).1 5 (settled_of _ (by decide +kernel) _) (by decide +kernel) (by decide +kernel)).1 (by decide +kernel)
    (by decide +kernel))
def wSnapq : State := wCore [kStaged] (asked (fun p => { p with snapq := [pSnap] }))
theorem wit_egress_snap (h : Obligations.EgressAndKittyErrors) : ∃ t, exec (.egressSelect 1 5) wSnapq = .next t :=
  ends (((h wSnapq 1).1 5 (settled_of _ (by decide +kernel) _) (by decide +kernel) (by decide +kernel)).2 pSnap []
    (by decide +kernel) (by decide +kernel) (by decide +kernel))
theorem wit_kitty_none (h : Obligations.EgressAndKittyErrors) : ∃ t, exec (.kittyEccError 1 none 0) (wCore []) = .next t :=
  ends ((h (wCore []) 1).2.1 0 (settled_of _ (by decide +kernel) _))
theorem wit_kitty_some (h : Obligations.EgressAndKittyErrors) :
    ∃ t, exec (.kittyEccError 1 (some 4) 1) (wCore [kStaged]) = .next t :=
  ends ((h (wCore [kStaged]) 1).2.2 4 kStaged 1 (settled_of _ (by decide +kernel) _) (by decide +kernel) (by decide +kernel)
    (by decide +kernel))

/-- Seat 2 of chip 1 is valid, its members are all ports but port 9. -/
def seated (t : Tray) : Tray :=
  (t.sb (seatPg 1 2) F.SEAT_CFG_VALID true).sf (seatPg 1 2) F.SEAT_MEMB_MEMB (2 ^ 64 - 1 - 2 ^ 9)
theorem wit_data (h : Obligations.PacketsArrive) : ∃ t, exec (.dataReceive 1 5 pData) (wCore [] seated) = .next t :=
  ends (((h (wCore [] seated) 1 5 (settled_of _ (by decide +kernel) _) (by decide +kernel) (by decide +kernel)).1 pData
    (by decide +kernel) (by decide +kernel) (by decide +kernel) (by decide +kernel) (by decide +kernel)).1 (by decide +kernel)
    (by decide +kernel) (by decide +kernel) (by decide +kernel))
theorem wit_data_reject (h : Obligations.PacketsArrive) : ∃ t, exec (.dataReceive 1 5 pData) (wCore []) = .next t :=
  ends (((h (wCore []) 1 5 (settled_of _ (by decide +kernel) _) (by decide +kernel) (by decide +kernel)).1 pData
    (by decide +kernel) (by decide +kernel) (by decide +kernel) (by decide +kernel) (by decide +kernel)).2 (by decide +kernel))
def wRx : State := wCore [] (asked (fun p => { p with rx := { hunt := false } }))
theorem wit_flit (h : Obligations.PacketsArrive) : ∃ t, exec (.flitReceive 1 5 3 false) wRx = .next t :=
  ends ((h wRx 1 5 (settled_of _ (by decide +kernel) _) (by decide +kernel) (by decide +kernel)).2 3
    (by decide +kernel) (by decide +kernel) (by decide +kernel))

/-- ACK of channel 3 up to SEQ 0, NAK of channel 3 at SEQ 16,777,215, of seat 2. -/
def pAck : Pkt := ⟨0x84cc0000fa94d8ac0000000000000000000000000000000000000000000000000000000000000003000000000000000000000000000000000000022000050023, []⟩
def pNak : Pkt := ⟨0xeb8100009a61d96f00000000000000000000000000000000000000000000000000000000ffffff03000000000000000000000000000000000000022000050024, []⟩
/-- Two packets of channel 3 are stored, SEQ 16,777,215 and 0: the numbers wrap. -/
def wReplay : State := wCore [] (fun t => seated (asked (fun p => { p with
  txUna := [(3, 2 ^ 24 - 1)], txNxt := [(3, 1)], unacked := [(3, 2)], replay := [{ ch := 3, seq := 2 ^ 24 - 1, pkt := pSnap, owner := .none }, { ch := 3, seq := 0, pkt := pSnap, owner := .none }] }) t))
theorem wit_ack (h : Obligations.ReplayFollowsAcknowledgements) : ∃ t, exec (.ackReceive 1 5 pAck) wReplay = .next t :=
  ends (((h wReplay 1 5 (settled_of _ (by decide +kernel) _) (by decide +kernel) (by decide +kernel)).1 pAck
    (by decide +kernel) (by decide +kernel) (by decide +kernel) (by decide +kernel) (by decide +kernel) (by decide +kernel)
    (by decide +kernel)).1 (by decide +kernel) (by decide +kernel) (by decide +kernel))
theorem wit_nak (h : Obligations.ReplayFollowsAcknowledgements) :
    ∃ t, exec (.nakReceive 1 5 pNak) wReplay = .next t :=
  ends (((h wReplay 1 5 (settled_of _ (by decide +kernel) _) (by decide +kernel) (by decide +kernel)).1 pNak
    (by decide +kernel) (by decide +kernel) (by decide +kernel) (by decide +kernel) (by decide +kernel) (by decide +kernel)
    (by decide +kernel)).2 (by decide +kernel) (by decide +kernel))
theorem wit_ack_send (h : Obligations.ReplayFollowsAcknowledgements) : ∃ t, exec (.ackSend 1 5 3) wReplay = .next t :=
  ends ((h wReplay 1 5 (settled_of _ (by decide +kernel) _) (by decide +kernel) (by decide +kernel)).2.1 3 (by decide +kernel))
theorem wit_rto (h : Obligations.ReplayFollowsAcknowledgements) : ∃ t, exec (.rtoExpiry 1 5 3) wReplay = .next t :=
  ends (((h wReplay 1 5 (settled_of _ (by decide +kernel) _) (by decide +kernel) (by decide +kernel)).2.2 3
    (by decide +kernel)).1 (by decide +kernel))
def wRto : State := { wReplay with tray := asked (fun p => { p with retries := [(3, 15)] }) wReplay.tray }
theorem wit_rto_last (h : Obligations.ReplayFollowsAcknowledgements) : ∃ t, exec (.rtoExpiry 1 5 3) wRto = .next t :=
  ends (((h wRto 1 5 (settled_of _ (by decide +kernel) _) (by decide +kernel) (by decide +kernel)).2.2 3
    (by decide +kernel)).2 (by decide +kernel))

def vCirc : Word := F.CIRC_ENT_SLOTS.put (F.CIRC_ENT_CH.put (F.CIRC_ENT_OUT_PORT.put (F.CIRC_ENT_IN_PORT.put 0 9) 5) 5) 128
/-- Circuit page of chip 1 enabled; the selected circuit as described, and perhaps in existence. -/
def wCirc (x : Option Circ) : State :=
  wCore [{ kStaged with circ := some 0 }] (fun t => (((t.sb (circPg 1) F.PG_CTL_ENABLE true).sb (mcgPg 1) F.PG_CTL_ENABLE true).wr
    (circPg 1) A.CIRC_ENT vCirc).setCirc 1 0 x)
def xCirc : Circ := { inPort := 9, outPort := 5, seat := 0, ch := 5, slots := 128, slice := 0, cmp := 0 }
theorem wit_circ_busy (h : Obligations.CircuitsAndGroups) : ∃ t, exec (.circEntWrite 1 vCirc) (wCirc (some xCirc)) = .next t :=
  ends (((h (wCirc (some xCirc)) 1 (by decide +kernel) (settled_of _ (by decide +kernel) _)).1 vCirc (by decide +kernel)).1
    (by decide +kernel) (by decide +kernel))
theorem wit_circ_ent (h : Obligations.CircuitsAndGroups) : ∃ t, exec (.circEntWrite 1 vCirc) (wCirc none) = .next t :=
  ends (((h (wCirc none) 1 (by decide +kernel) (settled_of _ (by decide +kernel) _)).1 vCirc (by decide +kernel)).2
    (by decide +kernel) (by decide +kernel) (by decide +kernel) (by decide +kernel))
theorem wit_circ_setup (h : Obligations.CircuitsAndGroups) : ∃ t, exec (.circSetup 1) (wCirc none) = .next t :=
  ends (((h (wCirc none) 1 (by decide +kernel) (settled_of _ (by decide +kernel) _)).2.1 (by decide +kernel)
    (by decide +kernel)).1 (by decide +kernel))
theorem wit_circ_teardown (h : Obligations.CircuitsAndGroups) : ∃ t, exec (.circTeardown 1) (wCirc (some xCirc)) = .next t :=
  ends ((h (wCirc (some xCirc)) 1 (by decide +kernel) (settled_of _ (by decide +kernel) _)).2.1 (by decide +kernel)
    (by decide +kernel)).2
theorem wit_mcg (h : Obligations.CircuitsAndGroups) :
    (∃ t, exec (.mcgWrite 1) (wCirc none) = .next t) ∧ ∃ t, exec (.mcgRead 1) (wCirc none) = .next t :=
  ⟨ends ((h (wCirc none) 1 (by decide +kernel) (settled_of _ (by decide +kernel) _)).2.2 (by decide +kernel)
    (by decide +kernel) (by decide +kernel)).1,
   ends ((h (wCirc none) 1 (by decide +kernel) (settled_of _ (by decide +kernel) _)).2.2 (by decide +kernel)
    (by decide +kernel) (by decide +kernel)).2⟩

/-- The ring is whole and chip 1's node enabled. -/
def wRing (f : Tray → Tray := id) : State :=
  wPort S.UP (fun t => f ((t.sb (deckPg 1) F.PG_CTL_ENABLE true).each (List.range 6) (fun t n =>
    t.modNode n (fun x => { x with cwHop := 2 }))))
/-- A ring packet of KIND 4 from node 0 for node 4. -/
def rCtrlPkt : RingPkt := ⟨0x20bfc785000000000000000000000000000000000000000000002444, []⟩
def wInject : State := wRing (fun t => t.modNode 1 (fun x => { x with inject := [(1, [rCtrlPkt])] }))
theorem wit_inject (h : Obligations.DeckRing) : ∃ t, exec (.deckInject 1 false true) wInject = .next t :=
  ends ((h wInject 1).1 false rCtrlPkt [] (by decide +kernel) (by decide +kernel) (by decide +kernel) (by decide +kernel)
    (by decide +kernel) (by decide +kernel) (by decide +kernel))
theorem wit_forward (h : Obligations.DeckRing) : ∃ t, exec (.deckPacketReceive 1 rCtrlPkt) (wRing) = .next t :=
  ends (((h wRing 1).2.1 rCtrlPkt (fun d _ => settled_of _ (by decide +kernel) d) (by decide +kernel)).1 (by decide +kernel)
    (by decide +kernel) (by decide +kernel) (by decide +kernel) (by decide +kernel))
def rBad : RingPkt := ⟨rCtrlPkt.hdr ^^^ BitVec.ofNat 256 (2 ^ 60), []⟩
def wRetry : State := wRing (fun t => (t.modNode 0 (fun x => { x with retry := [(1, [rCtrlPkt])] })).modNode 1
  (fun x => { x with fails := [(1, 14)] }))
theorem wit_ring_crc (h : Obligations.DeckRing) : ∃ t, exec (.deckPacketReceive 1 rBad) wRetry = .next t :=
  ends (((h wRetry 1).2.1 rBad (fun d _ => settled_of _ (by decide +kernel) d) (by decide +kernel)).2 rCtrlPkt []
    (by decide +kernel) (by decide +kernel) (by decide +kernel))
theorem wit_hop_down (h : Obligations.DeckRing) : ∃ t, exec (.deckHopDown 4) (wRing) = .next t :=
  ends ((h wRing 4).2.2.1 (fun d _ => settled_of _ (by decide +kernel) d) (by decide +kernel) (by decide +kernel)
    (by decide +kernel))
def wDownHop (k : Nat) : State := wRing (fun t => (t.modNode 1 (fun x => { x with cwHop := k })).modChip 2
  (fun x => { x with coreUp := true }))
theorem wit_hop_retrain (h : Obligations.DeckRing) : ∃ t, exec (.deckRetrain 1) (wDownHop 0) = .next t :=
  ends ((h (wDownHop 0) 1).2.2.2.1 1 (by decide +kernel) (by decide +kernel) (settled_of _ (by decide +kernel) _)
    (by decide +kernel))
theorem wit_hop_up (h : Obligations.DeckRing) : ∃ t, exec (.deckHopUp 1) (wDownHop 1) = .next t :=
  ends ((h (wDownHop 1) 1).2.2.2.2 (by decide +kernel) (by decide +kernel) (by decide +kernel) (by decide +kernel))

/-! ### Tables, windows, operations, snap path: the hypotheses of the statements are met -/

/-- Table 7 of chip 1: ACTIVE, FP32, seat 2, members at ports 5 and 9, tricks of 4 KiB, two in flight. -/
def wTbl (x : TableSt) (f : Tray → Tray := id) : State :=
  wPort S.UP (fun t => f (((seated ((((((((t.sf (tblPg 1 7) F.TBL_CFG_FORMAT 1).sf (tblPg 1 7) F.TBL_CFG_SEAT 2).sf (tblPg 1 7)
    F.TBL_MEMB_MEMB 0x220).sf (tblPg 1 7) F.TBL_STS_STATE T.ACTIVE).sf (tblPg 1 7) F.TBL_TRICK_TRICK_4K 1).sf (tblPg 1 7)
    F.TBL_TRICK_TRICKS_INFL 2).sb (tblPg 1 7) F.PG_CTL_ENABLE true).setPst 1 9 S.UP)).sb (chip0 1) F.CHIP_CLK_STS_CORE_LOCK
    true).setTable 1 7 x))

/-- CMD packets of port 5 for table 7: two commands for slots 62 and 63; writes of the four control offsets. -/
def pSlots : Pkt := ⟨0xf6d600002e0f8c1500000000000000000000000000000000000000000000000000000000000000000000000000000ba000000700000000000060022000050015, [0x4e00000010000000000000000000000000000000000000000000001000000000000000000000000000000000030000004d00000001, 0x0]⟩
def pBell : Pkt := ⟨0xd9a60000e6b0f33900000000000000000000000000000000000000000000000000000000000000000000000000000c0000000700000000000008022000050015, [0x2]⟩
def pBase : Pkt := ⟨0xa49500008d3bc87000000000000000000000000000000000000000000000000000000000000000000000000000000c0800000700000000000008022000050015, [0x123456789a0]⟩
def pCfg : Pkt := ⟨0x49850000faab016300000000000000000000000000000000000000000000000000000000000000000000000000000c1000000700000000000008022000050015, [0x104]⟩
def pCfgOff : Pkt := ⟨0xf12c0000db94508c00000000000000000000000000000000000000000000000000000000000000000000000000000c1000000700000000000008022000050015, [0x5]⟩
def pHead : Pkt := ⟨0x304d000089b9c08f00000000000000000000000000000000000000000000000000000000000000000000000000000c1800000700000000000008022000050015, [0x3]⟩
/-- A window whose queue of 16 records is enabled, `pi` slots in use from 62 on. -/
def wWin (pi : Nat) (written : Bool) : Win :=
  { cqEn := true, cqLog := 4, ci := 62, head := 62, pi := pi, slots := [(62, { cmd := 0x10, written := written }), (63, { cmd := 0x10, written := written })] }
def wWindow (w : Win) : State := wTbl { wins := [(5, w)] }

theorem wit_slots (h : Obligations.WindowsTakeCommands) :
    ∃ t, exec (.cmdSlotWrite 1 5 pSlots) (wWindow (wWin 62 false)) = .next t :=
  ends (((h (wWindow (wWin 62 false)) 1 5 pSlots (settled_of _ (by decide +kernel) _)
    (by unfold Tray.takesFor Tray.takes; decide +kernel) (by decide +kernel)).1 (by decide +kernel) (by decide +kernel)
    (by decide +kernel)).1 (by decide +kernel))
theorem wit_slots_held (h : Obligations.WindowsTakeCommands) :
    ∃ t, exec (.cmdSlotWrite 1 5 pSlots) (wWindow (wWin 64 true)) = .next t :=
  ends (((h (wWindow (wWin 64 true)) 1 5 pSlots (settled_of _ (by decide +kernel) _)
    (by unfold Tray.takesFor Tray.takes; decide +kernel) (by decide +kernel)).1 (by decide +kernel) (by decide +kernel)
    (by decide +kernel)).2 1 (by decide +kernel) (by decide +kernel) (by decide +kernel))
/-- Two written slots before the index wraps to 2. -/
def wWrap : Win :=
  { wWin 0 true with ci := 0, head := 0, slots := [(0, { cmd := 0x10, written := true }), (1, { cmd := 0x10, written := true })] }
theorem wit_bell (h : Obligations.WindowsTakeCommands) : ∃ t, exec (.doorbell 1 5 pBell) (wWindow wWrap) = .next t :=
  ends (((h (wWindow wWrap) 1 5 pBell (settled_of _ (by decide +kernel) _)
    (by unfold Tray.takesFor Tray.takes; decide +kernel) (by decide +kernel)).2 (by decide +kernel)).1 (by decide +kernel)
    (by decide +kernel) (by decide +kernel) (by decide +kernel) (by decide +kernel) (by decide +kernel))
def wFullWin : Win := { wWrap with pi := 65536 - 10, ci := 65536 - 63 }
theorem wit_bell_bad (h : Obligations.WindowsTakeCommands) : ∃ t, exec (.doorbell 1 5 pBell) (wWindow wFullWin) = .next t :=
  ends ((((h (wWindow wFullWin) 1 5 pBell (settled_of _ (by decide +kernel) _)
    (by unfold Tray.takesFor Tray.takes; decide +kernel) (by decide +kernel)).2 (by decide +kernel)).2.1 (by decide +kernel)
    (by decide +kernel) (by decide +kernel) (by decide +kernel)).1 (by decide +kernel))
def wBusy : State := { wWindow wWrap with tray := (wWindow wWrap).tray.sb (tblPg 1 7) F.PG_COMMIT_STS_PENDING true }
theorem wit_bell_busy (h : Obligations.WindowsTakeCommands) : ∃ t, exec (.doorbell 1 5 pBell) wBusy = .next t :=
  ends ((((h wBusy 1 5 pBell (settled_of _ (by decide +kernel) _)
    (by unfold Tray.takesFor Tray.takes; decide +kernel) (by decide +kernel)).2 (by decide +kernel)).2.1 (by decide +kernel)
    (by decide +kernel) (by decide +kernel) (by decide +kernel)).2 (by decide +kernel) (by decide +kernel) (by decide +kernel))
theorem wit_base (h : Obligations.WindowsTakeCommands) : ∃ t, exec (.cqBaseWrite 1 5 pBase) (wWindow (wWin 62 false)) = .next t :=
  ends (((h (wWindow (wWin 62 false)) 1 5 pBase (settled_of _ (by decide +kernel) _)
    (by unfold Tray.takesFor Tray.takes; decide +kernel) (by decide +kernel)).2 (by decide +kernel)).2.2.1 (by decide +kernel)
    (by decide +kernel))
theorem wit_base_used (h : Obligations.WindowsTakeCommands) :
    ∃ t, exec (.cqBaseWrite 1 5 pBase) (wWindow (wWin 64 true)) = .next t :=
  ends (((h (wWindow (wWin 64 true)) 1 5 pBase (settled_of _ (by decide +kernel) _)
    (by unfold Tray.takesFor Tray.takes; decide +kernel) (by decide +kernel)).2 (by decide +kernel)).2.2.2.1 (by decide +kernel)
    (by decide +kernel) (by decide +kernel))
theorem wit_cfg (h : Obligations.WindowsTakeCommands) : ∃ t, exec (.cqCfgWrite 1 5 pCfg) (wWindow {}) = .next t :=
  ends (((h (wWindow {}) 1 5 pCfg (settled_of _ (by decide +kernel) _)
    (by unfold Tray.takesFor Tray.takes; decide +kernel) (by decide +kernel)).2 (by decide +kernel)).2.2.2.2.1 (by decide +kernel)
    (by decide +kernel) (by decide +kernel) (by decide +kernel) (by decide +kernel))
theorem wit_cfg_off (h : Obligations.WindowsTakeCommands) :
    ∃ t, exec (.cqCfgWrite 1 5 pCfgOff) (wWindow (wWin 62 false)) = .next t :=
  ends (((h (wWindow (wWin 62 false)) 1 5 pCfgOff (settled_of _ (by decide +kernel) _)
    (by unfold Tray.takesFor Tray.takes; decide +kernel) (by decide +kernel)).2 (by decide +kernel)).2.2.2.2.2.1
    (by decide +kernel) (by decide +kernel) (by decide +kernel))
theorem wit_head (h : Obligations.WindowsTakeCommands) : ∃ t, exec (.cqHeadWrite 1 5 pHead) (wWindow (wWin 64 true)) = .next t :=
  ends (((h (wWindow (wWin 64 true)) 1 5 pHead (settled_of _ (by decide +kernel) _)
    (by unfold Tray.takesFor Tray.takes; decide +kernel) (by decide +kernel)).2 (by decide +kernel)).2.2.2.2.2.2
    (by decide +kernel))

/-- A window with one command at its head. -/
def wCmd (x : Nat) : Win := { cqEn := true, cqLog := 4, pi := 1, slots := [(0, { cmd := BitVec.ofNat 384 x, written := true })] }
def cmdBad : Nat := 5
/-- RS of three elements with OP_SEQ `q`, INC and WAIT fields, DST_ADDR 0x1000. -/
def cmdRs (q : Nat) : Nat := 1 + 2 ^ 16 * q + 2 ^ 32 * 77 + 2 ^ 64 * 3 + 2 ^ 192 * 0x1000
def cmdNop : Nat := 0x10 + 2 ^ 8
/-- CNT_ADD of 5 to counter 15 of table 7. -/
def cmdAdd : Nat := 0x11 + 2 ^ 96 * 15 + 2 ^ 104 * 7 + 2 ^ 160 * (2 ^ 32 - 1)
theorem wit_cmd_bad (h : Obligations.CommandsEndAndTablesStart) :
    ∃ t, exec (.commandHead 1 7 5) (wWindow (wCmd cmdBad)) = .next t :=
  ends (((h (wWindow (wCmd cmdBad)) 1 7).1 5 0 cmdBad St.BAD_CMD (settled_of _ (by decide +kernel) _) (by decide +kernel)
    (by decide +kernel) (by decide +kernel)).1 (by decide +kernel) (by decide +kernel) (by decide +kernel) (by decide +kernel)
    (by decide +kernel))
theorem wit_cmd_seq (h : Obligations.CommandsEndAndTablesStart) :
    ∃ t, exec (.commandHead 1 7 5) (wWindow (wCmd (cmdRs 9))) = .next t :=
  ends (((h (wWindow (wCmd (cmdRs 9))) 1 7).1 5 0 (BitVec.ofNat 384 (cmdRs 9)) St.BAD_SEQ (settled_of _ (by decide +kernel) _)
    (by decide +kernel) (by decide +kernel) (by decide +kernel)).1 (by decide +kernel) (by decide +kernel) (by decide +kernel)
    (by decide +kernel) (by decide +kernel))
theorem wit_nop (h : Obligations.CommandsEndAndTablesStart) : ∃ t, exec (.nop 1 7 5) (wWindow (wCmd cmdNop)) = .next t :=
  ends (((h (wWindow (wCmd cmdNop)) 1 7).1 5 0 (BitVec.ofNat 384 cmdNop) St.OK (settled_of _ (by decide +kernel) _)
    (by decide +kernel) (by decide +kernel) (by decide +kernel)).2.1 (by decide +kernel) (by decide +kernel) (by decide +kernel)
    (by decide +kernel))
def wAdd : State := { wWindow (wCmd cmdAdd) with tray := (wWindow (wCmd cmdAdd)).tray.sf (tblPg 1 7) (ctrFld 15) 6 }
theorem wit_cnt_add (h : Obligations.CommandsEndAndTablesStart) : ∃ t, exec (.cntAdd 1 7 5) wAdd = .next t :=
  ends (((h wAdd 1 7).1 5 0 (BitVec.ofNat 384 cmdAdd) St.OK (settled_of _ (by decide +kernel) _)
    (by decide +kernel) (by decide +kernel) (by decide +kernel)).2.2 (by decide +kernel) (by decide +kernel))
theorem wit_ctr_write (h : Obligations.CommandsEndAndTablesStart) :
    ∃ t, exec (.tblCtrWrite 1 7 15 (2 ^ 32 + 9)) (wTbl {}) = .next t :=
  ends ((h (wTbl {}) 1 7).2.1 15 (2 ^ 32 + 9) (by decide +kernel) (by decide +kernel) (settled_of _ (by decide +kernel) _))
def wWaiting : Win := { wWin 62 false with waitErr := some { kind := K.CMD_ERR, status := St.BAD_WIN } }
theorem wit_rec_issue (h : Obligations.CommandsEndAndTablesStart) : ∃ t, exec (.cqRecordIssue 1 7 5) (wWindow wWaiting) = .next t :=
  ends ((h (wWindow wWaiting) 1 7).2.2.1 5 { kind := K.CMD_ERR, status := St.BAD_WIN } (by decide +kernel) (by decide +kernel)
    (by decide +kernel) (by decide +kernel) (by decide +kernel))
/-- Table 7 is FREE, disabled, and asks for `n` KiB. -/
def wFree (n : Nat) : State :=
  wTbl {} (fun t => (((t.sf (tblPg 1 7) F.TBL_STS_STATE T.FREE).sb (tblPg 1 7) F.PG_CTL_ENABLE false).sf (tblPg 1 7)
    F.TBL_TRICK_RES_KIB n).sf (chipPg 1 0x300) F.DLR_SRAM_RED_BANKS 2)
theorem wit_enable (h : Obligations.CommandsEndAndTablesStart) : ∃ t, exec (.tableEnable 1 7) (wFree 4096) = .next t :=
  ends (((h (wFree 4096) 1 7).2.2.2 (by decide +kernel) (by decide +kernel) (settled_of _ (by decide +kernel) _)
    (by decide +kernel) (by decide +kernel)).1 (by decide +kernel) (by decide +kernel))
theorem wit_enable_pool (h : Obligations.CommandsEndAndTablesStart) : ∃ t, exec (.tableEnable 1 7) (wFree 4097) = .next t :=
  ends (((h (wFree 4097) 1 7).2.2.2 (by decide +kernel) (by decide +kernel) (settled_of _ (by decide +kernel) _)
    (by decide +kernel) (by decide +kernel)).2 (by decide +kernel) (by decide +kernel))

theorem staged_of {s : State} (h : (s.tray.table 1 7).staged = [] ∧ (s.tray.table 1 7).shuf = [] ∧
    (s.tray.table 1 7).doomed = [] ∧ (s.tray.table 1 7).ops.all (fun o => o.opcode != O.SHUFFLE) = true) :
    s.tray.nothingStaged 1 7 :=
  ⟨h.1, h.2.1, h.2.2.1, fun o ho => by
    have := List.all_eq_true.1 h.2.2.2 o ho
    simpa using this⟩
/-- Both members hold an RS; port 9's waits on counter `k` reaching `th` where `th` is not 0. -/
def wHeads (a b : Nat) (f : Tray → Tray := id) : State := wTbl { wins := [(5, wCmd a), (9, wCmd b)] } f
def cmdWait (th : Nat) : Nat := cmdRs 0 + 2 ^ 10 + 2 ^ 100 * 3 + 2 ^ 104 * 7 + 2 ^ 128 * th
def hd (a b : Nat) : List (Nat × Nat × BitVec 384) := [(5, 0, BitVec.ofNat 384 a), (9, 0, BitVec.ofNat 384 b)]
theorem wit_match (h : Obligations.OperationsStart) :
    ∃ t, exec (.operationMatch 1 7) (wHeads (cmdRs 0) (cmdRs 0)) = .next t :=
  ends ((((h (wHeads (cmdRs 0) (cmdRs 0)) 1 7 (settled_of _ (by decide +kernel) _) (staged_of (by decide +kernel))
    (by decide +kernel)).1 (5, 0, BitVec.ofNat 384 (cmdRs 0)) [(9, 0, BitVec.ofNat 384 (cmdRs 0))] (by decide +kernel)
    (by decide +kernel)).2 (by decide +kernel)).1 (by decide +kernel) (by decide +kernel) (by decide +kernel))
theorem wit_mismatch (h : Obligations.OperationsStart) :
    ∃ t, exec (.operationMatch 1 7) (wHeads (cmdRs 0) (cmdRs 0 + 2 ^ 64)) = .next t :=
  ends (((h (wHeads (cmdRs 0) (cmdRs 0 + 2 ^ 64)) 1 7 (settled_of _ (by decide +kernel) _) (staged_of (by decide +kernel))
    (by decide +kernel)).1 (5, 0, BitVec.ofNat 384 (cmdRs 0)) [(9, 0, BitVec.ofNat 384 (cmdRs 0 + 2 ^ 64))] (by decide +kernel)
    (by decide +kernel)).1 (by decide +kernel))
theorem wit_park (h : Obligations.OperationsStart) :
    ∃ t, exec (.operationMatch 1 7) (wHeads (cmdWait 4) (cmdWait 4)) = .next t :=
  ends ((((h (wHeads (cmdWait 4) (cmdWait 4)) 1 7 (settled_of _ (by decide +kernel) _) (staged_of (by decide +kernel))
    (by decide +kernel)).1 (5, 0, BitVec.ofNat 384 (cmdWait 4)) [(9, 0, BitVec.ofNat 384 (cmdWait 4))] (by decide +kernel)
    (by decide +kernel)).2 (by decide +kernel)).2.1 (by decide +kernel) (by decide +kernel))
def wDown : State := wHeads (cmdRs 0) (cmdRs 0) (fun t => t.setPst 1 9 S.DOWN)
theorem wit_not_live (h : Obligations.OperationsStart) : ∃ t, exec (.operationMatch 1 7) wDown = .next t :=
  ends ((((h wDown 1 7 (settled_of _ (by decide +kernel) _) (staged_of (by decide +kernel))
    (by decide +kernel)).1 (5, 0, BitVec.ofNat 384 (cmdRs 0)) [(9, 0, BitVec.ofNat 384 (cmdRs 0))] (by decide +kernel)
    (by decide +kernel)).2 (by decide +kernel)).2.2 (by decide +kernel) (by decide +kernel))
/-- A parked operation whose counter has reached its threshold. -/
def oWait : OpSt := { opOf 3 (BitVec.ofNat 384 (cmdWait 4)) (hd (cmdWait 4) (cmdWait 4)) with seq := 3 }
def wParked (f : Tray → Tray := id) : State := wTbl { ops := [oWait] } (fun t => f (t.sf (tblPg 1 7) (ctrFld 3) 4))
theorem wit_start (h : Obligations.OperationsStart) :
    (∃ t, exec (.operationStart 1 7) (wParked) = .next t) ∧ ∃ t, exec (.parkedOpStart 1 7) wParked = .next t :=
  let x := ((h wParked 1 7 (settled_of _ (by decide +kernel) _) (staged_of (by decide +kernel)) (by decide +kernel)).2 oWait []
    (by decide +kernel) (by decide +kernel) (by decide +kernel)).1 (by decide +kernel)
  ⟨ends x.1, ends (x.2 (by decide +kernel))⟩
theorem wit_start_wait (h : Obligations.OperationsStart) :
    ∃ t, exec (.operationStart 1 7) (wParked (fun t => t.setPst 1 5 S.DOWN)) = .next t :=
  ends (((h (wParked (fun t => t.setPst 1 5 S.DOWN)) 1 7 (settled_of _ (by decide +kernel) _) (staged_of (by decide +kernel))
    (by decide +kernel)).2 oWait [] (by decide +kernel) (by decide +kernel) (by decide +kernel)).2 (by decide +kernel))

/-- A started operation of three elements for the ports in rank order. -/
def oRun (opcode count : Nat) : OpSt :=
  { seq := 3, opcode := opcode, count := count, started := true, members := [{ port := 5, dst := 0x1000 }, { port := 9, dst := 0x2000 }] }
def wRun (opcode count : Nat) (f : Tray → Tray := id) : State := wTbl { ops := [oRun opcode count] } f
/-- Contributions of `n` elements 1.0 and 2.0. -/
def dOnes (n : Nat) : List (Fin 64 × List Byte) :=
  [(5, (List.replicate n [0, 0, 0x80, 0x3F]).flatten), (9, (List.replicate n [0, 0, 0, 0x40]).flatten)]
theorem wit_rs (h : Obligations.OperationsDeliver) : ∃ t, exec (.rs 1 7 (dOnes 6)) (wRun O.RS 3) = .next t :=
  ends (((h (wRun O.RS 3) 1 7 (oRun O.RS 3) (settled_of _ (by decide +kernel) _) (by decide +kernel) (by decide +kernel)
    (by decide +kernel) (by decide +kernel) (by decide +kernel) (by decide +kernel) (by decide +kernel) (by decide +kernel)
    (by decide +kernel) (by decide +kernel) (by decide +kernel) (by decide +kernel)).1 (dOnes 6) _
    (.inl ⟨rfl, by decide +kernel⟩)).1 (by decide +kernel) (by decide +kernel))
theorem wit_ag (h : Obligations.OperationsDeliver) : ∃ t, exec (.ag 1 7 (dOnes 3)) (wRun O.AG 3) = .next t :=
  ends (((h (wRun O.AG 3) 1 7 (oRun O.AG 3) (settled_of _ (by decide +kernel) _) (by decide +kernel) (by decide +kernel)
    (by decide +kernel) (by decide +kernel) (by decide +kernel) (by decide +kernel) (by decide +kernel) (by decide +kernel)
    (by decide +kernel) (by decide +kernel) (by decide +kernel) (by decide +kernel)).1 (dOnes 3) _
    (.inr (.inl ⟨rfl, by decide +kernel⟩))).1 (by decide +kernel) (by decide +kernel))
theorem wit_ar (h : Obligations.OperationsDeliver) : ∃ t, exec (.ar 1 7 (dOnes 3)) (wRun O.AR 3) = .next t :=
  ends (((h (wRun O.AR 3) 1 7 (oRun O.AR 3) (settled_of _ (by decide +kernel) _) (by decide +kernel) (by decide +kernel)
    (by decide +kernel) (by decide +kernel) (by decide +kernel) (by decide +kernel) (by decide +kernel) (by decide +kernel)
    (by decide +kernel) (by decide +kernel) (by decide +kernel) (by decide +kernel)).1 (dOnes 3) _
    (.inr (.inr ⟨rfl, by decide +kernel⟩))).1 (by decide +kernel) (by decide +kernel))
/-- RESULTs of the operation wait unacknowledged at both members. -/
def wOwned : State :=
  let own : PortSt → PortSt := fun p => { p with replay := [{ ch := 3, seq := 0, pkt := pSnap, owner := .result 7 3 0 0 }] }
  wRun O.RS 3 (fun t => (t.modPort 1 5 own).modPort 1 9 own)
theorem wit_misfit (h : Obligations.OperationsDeliver) : ∃ t, exec (.rs 1 7 []) wOwned = .next t :=
  ends (((h wOwned 1 7 (oRun O.RS 3) (settled_of _ (by decide +kernel) _) (by decide +kernel) (by decide +kernel)
    (by decide +kernel) (by decide +kernel) (by decide +kernel) (by decide +kernel) (by decide +kernel) (by decide +kernel)
    (by decide +kernel) (by decide +kernel) (by decide +kernel) (by decide +kernel)).1 [] _
    (.inl ⟨rfl, by decide +kernel⟩)).2 (by decide +kernel) (by decide +kernel) (by decide +kernel))
theorem wit_barrier (h : Obligations.OperationsDeliver) : ∃ t, exec (.barrier 1 7) (wRun O.BARRIER 0) = .next t :=
  ends ((h (wRun O.BARRIER 0) 1 7 (oRun O.BARRIER 0) (settled_of _ (by decide +kernel) _) (by decide +kernel) (by decide +kernel)
    (by decide +kernel) (by decide +kernel) (by decide +kernel) (by decide +kernel) (by decide +kernel) (by decide +kernel)
    (by decide +kernel) (by decide +kernel) (by decide +kernel) (by decide +kernel)).2.1 (by decide +kernel))
theorem wit_trick (h : Obligations.OperationsDeliver) : ∃ t, exec (.trickOpen 1 7) (wRun O.RS 3) = .next t :=
  ends ((h (wRun O.RS 3) 1 7 (oRun O.RS 3) (settled_of _ (by decide +kernel) _) (by decide +kernel) (by decide +kernel)
    (by decide +kernel) (by decide +kernel) (by decide +kernel) (by decide +kernel) (by decide +kernel) (by decide +kernel)
    (by decide +kernel) (by decide +kernel) (by decide +kernel) (by decide +kernel)).2.2 (by decide +kernel) (by decide +kernel)
    (by decide +kernel) (by decide +kernel) (by decide +kernel) (by decide +kernel) ⟨0, 0, by decide +kernel⟩)

/-- CONTRIB of three elements, operation 0, trick, piece and lump 0; SNAP of two elements for address 0x2000. -/
def pContrib : Pkt := ⟨0x1b3a0000812bba34000000000000000000000000000000000000000000000000000000000000000000000000000000000000070000000000000c022000050046, [0x40400000400000003f800000]⟩
def pSnapIn : Pkt := ⟨0xd1d100004154af3e0000000000000000000000000000000000000000000000000000000000000000000000000000200000000700000000000008022000050002, [0x400000003f800000]⟩
theorem wit_stage (h : Obligations.LumpsAndSnaps) : ∃ t, exec (.contribReceive 1 5 pContrib) (wTbl {}) = .next t :=
  ends (((h (wTbl {}) 1 7 5 (settled_of _ (by decide +kernel) _)).1 pContrib
    (by unfold Tray.takesFor Tray.takes; decide +kernel) (by decide +kernel) (by decide +kernel)).1 (by decide +kernel)
    (by decide +kernel) (by decide +kernel) (by decide +kernel))
/-- The operation runs, its first trick is open. -/
def wFold : State := wTbl { ops := [{ oRun O.RS 3 with seq := 0, opened := 1 }], tricks := [{ op := 0, j := 0, tag := 4 }] }
theorem wit_fold (h : Obligations.LumpsAndSnaps) : ∃ t, exec (.contribReceive 1 5 pContrib) wFold = .next t :=
  ends (((h wFold 1 7 5 (settled_of _ (by decide +kernel) _)).1 pContrib
    (by unfold Tray.takesFor Tray.takes; decide +kernel) (by decide +kernel) (by decide +kernel)).2.1
    { oRun O.RS 3 with seq := 0, opened := 1 } { op := 0, j := 0, tag := 4 } 0 (by decide +kernel) (by decide +kernel)
    (by decide +kernel) (by decide +kernel) (by decide +kernel) (by decide +kernel) (by decide +kernel) (by decide +kernel)
    (by decide +kernel) (by decide +kernel) (by decide +kernel) (by decide +kernel) (by decide +kernel) (by decide +kernel))
theorem wit_snap_hold (h : Obligations.LumpsAndSnaps) : ∃ t, exec (.snapReceive 1 5 pSnapIn) (wTbl {}) = .next t :=
  ends ((((h (wTbl {}) 1 7 5 (settled_of _ (by decide +kernel) _)).1 pSnapIn
    (by unfold Tray.takesFor Tray.takes; decide +kernel) (by decide +kernel) (by decide +kernel)).2.2 (by decide +kernel)
    (by decide +kernel) (by decide +kernel) (by decide +kernel) (by decide +kernel) (by decide +kernel)
    (by decide +kernel)).1 (by decide +kernel))
def wSnap0 : State := wTbl { snap0 := [⟨9, 0x3000, [0, 0, 0x80, 0x3F, 0, 0, 0x80, 0x3F]⟩] }
theorem wit_snap_last (h : Obligations.LumpsAndSnaps) : ∃ t, exec (.snapReceive 1 5 pSnapIn) wSnap0 = .next t :=
  ends ((((h wSnap0 1 7 5 (settled_of _ (by decide +kernel) _)).1 pSnapIn
    (by unfold Tray.takesFor Tray.takes; decide +kernel) (by decide +kernel) (by decide +kernel)).2.2 (by decide +kernel)
    (by decide +kernel) (by decide +kernel) (by decide +kernel) (by decide +kernel) (by decide +kernel)
    (by decide +kernel)).2 (by decide +kernel) (by decide +kernel) (by decide +kernel))
def zLump : Lump := lumpOf 5 pContrib
def wStaged : State := wTbl { staged := [zLump] }
theorem wit_lump_expiry (h : Obligations.LumpsAndSnaps) : ∃ t, exec (.lumpExpiry 1 7 0 0 0 0 5) wStaged = .next t :=
  ends ((h wStaged 1 7 5 (settled_of _ (by decide +kernel) _)).2.1 0 0 0 0 zLump (by decide +kernel) (by decide +kernel)
    (fun o ho => by
      have : (wStaged.tray.table 1 7).findOp 0 = none := by decide +kernel
      have ho' : (wStaged.tray.table 1 7).findOp 0 = some o := ho
      rw [this] at ho'
      cases ho'))
theorem wit_snap_expiry (h : Obligations.LumpsAndSnaps) : ∃ t, exec (.snapExpiry 1 7 9 false) wSnap0 = .next t :=
  ends ((h wSnap0 1 7 9 (settled_of _ (by decide +kernel) _)).2.2 false (by decide +kernel) (by decide +kernel)
    (by decide +kernel))
def wSnap1 : State := wTbl { snap1 := [⟨9, 0x3000, []⟩] }
theorem wit_snap_expiry_next (h : Obligations.LumpsAndSnaps) : ∃ t, exec (.snapExpiry 1 7 9 true) wSnap1 = .next t :=
  ends ((h wSnap1 1 7 9 (settled_of _ (by decide +kernel) _)).2.2 true (by decide +kernel) (by decide +kernel)
    (by decide +kernel))

/-! ### Dealer, layout and translation: the hypotheses of the statements are met -/

/-- A translation entry for a page, readable and writable. -/
def entOf (page : Nat) : Word := BitVec.ofNat 64 (7 + 2 ^ 21 * page)
/-- Page 2 of the HBM and page 0 of the tensor SRAM are granted to seat 2, which is in VALIDATE mode. -/
def grants : Assoc Word := [(2 * 32768, entOf 2), (2 * 32768 + 1, entOf 0x8000)]
/-- The Dealer of chip 1 runs; slot 3 of seat 2 runs at the HBM address 0x400000, where these bytes stand. -/
def wDeal (prog : List Byte) (d : DealerSt) (f : Tray → Tray := id) : State :=
  wTbl {} (fun t => f (((((((((((((t.sb (chip0 1) F.CHIP_CLK_STS_DEAL_LOCK true).sf (xltPg 1) F.XLT_MODE_MODE 4).sb (xltPg 1)
    F.PG_CTL_ENABLE true).sb (layPg 1) F.PG_CTL_ENABLE true).sb (dlrPg 1) F.PG_CTL_ENABLE true).sf (layPg 1)
    (F.LAY_SEAT_QUOTA.at 16) 8).sf (layPg 1) F.LAY_OP_SEAT 2).sf (jobPg 1) (F.DLR_JOB_CFG_SEAT.nth 3) 2).sf (jobPg 1)
    (F.DLR_JOB_CTL_STATE.nth 3) J.RUNNING).sf (dlrPg 1) F.DLR_SRAM_POOL_PAGES 4).sb (tblPg 1 7) F.TBL_CFG_LAUNCH true).modDealer 1
    (fun _ => d)).each prog.zipIdx (fun t a => t.memPut (2 ^ 40 + 0x400000 + a.2) a.1)))
/-- The job at its instruction. -/
def dJob (s : SlotSt := { pc := 0x400000 }) : DealerSt := { xlt := grants, slots := [(3, s)] }
/-- An instruction for a slot whose job runs. -/
def wIns (w : Nat) (d : DealerSt := dJob) (f : Tray → Tray := id) : State := wDeal (leBytes 64 w) d f
theorem runs_of {s : State} {w : BitVec 512} {op : Nat} (h : s.tray.dealerRuns 1 = true ∧ s.tray.jobState 1 3 ≠ J.IDLE ∧
    (s.tray.slot 1 3).wait ∈ [SlotWait.none, .inbox, .issue, .pool] ∧ s.tray.fetchIns 1 3 = .ok w ∧ insOp w = op ∧
    s.tray.insCheck 1 3 w = 0 ∧ (insWaitEn w = false ∨ (s.tray.slot 1 3).passed = true ∨
      insThresh w ≤ s.tray.gf (tblPg 1 (insTbl w)) (ctrFld (insWaitCtr w)))) : s.tray.executes 1 3 w op := h
/-- No job has an end to note where slot 3 alone holds anything and waits for no ended operation. -/
theorem settled_d {t : Tray} (h : (t.dealers.map (fun a => (a.1, a.2.slots.map (fun b => b.2.wait)))).all (fun a => a.2.all (fun w =>
    match w with | .ended _ => false | _ => true)) = true) (c : Nat) : t.settled c := by
  have key : ∀ {α : Type} (dflt : Nat → α) (l : Assoc α) (k : Nat), (Assoc.get dflt l k = dflt k) ∨ ∃ a ∈ l, Assoc.get dflt l k = a.2 := by
    intro α dflt l k
    induction l with
    | nil => exact .inl rfl
    | cons x xs ih =>
      unfold Assoc.get
      split
      · exact .inr ⟨x, List.mem_cons_self .., rfl⟩
      · exact ih.imp id fun ⟨a, ha, e⟩ => ⟨a, List.mem_cons_of_mem _ ha, e⟩
  intro j _ st e
  unfold Tray.slot Tray.dealer at e
  obtain h0 | ⟨a, ha, e1⟩ := key (fun _ => ({} : DealerSt)) t.dealers c
  · rw [h0] at e; cases e
  · rw [e1] at e
    obtain h0 | ⟨b, hb, e2⟩ := key (fun _ => ({} : SlotSt)) a.2.slots j
    · rw [h0] at e; cases e
    · rw [e2] at e
      have h1 := List.all_eq_true.1 h _ (List.mem_map_of_mem ha)
      have h2 := List.all_eq_true.1 h1 _ (List.mem_map_of_mem hb)
      rw [e] at h2
      cases h2

/-- The descriptor of an FP32, or other, tensor of `n` rows of `k` elements, writable, 64 bytes apart, of seat 2. -/
def tdWord (fmt k n base : Nat) : Nat :=
  1 + 2 ^ 4 * fmt + 2 ^ 8 * 2 + 2 ^ 12 + 2 ^ 20 * 2 + 2 ^ 32 * k + 2 ^ 64 * base + 2 ^ 128 * n + 2 ^ 152 * 64 + 2 ^ 192 + 2 ^ 256 +
    2 ^ 320 + 2 ^ 384
/-- LAY_DATA holds a descriptor. -/
def layWords (w : Nat) (t : Tray) : Tray :=
  t.each (List.range 16) (fun t i => t.wr (layPg 1) (A.LAY_DATA + 8 * i) (BitVec.ofNat 64 (w / 2 ^ (64 * i))))
def wLay (w : Nat) (d : DealerSt := dJob) : State := wDeal [] d (layWords w)
def dDesc (users : List Nat) : DealerSt :=
  { xlt := grants, descs := [(9, { gen := 15, held := true, live := true, seat := 2, users := users, words := BitVec.ofNat 1024 (tdWord 1 4 2 0x1000000000) })] }
/-- A descriptor at slot 9 with the handle 0xF009 in LAY_HANDLE. -/
def wHeld (users : List Nat) : State := wDeal [] (dDesc users) (fun t => t.sf (layPg 1) F.LAY_HANDLE_HANDLE 0xF009)
def kDesc : DescSt := { gen := 15, held := true, live := true, seat := 2, users := [3], words := BitVec.ofNat 1024 (tdWord 1 4 2 0x1000000000) }
theorem wit_create (h : Obligations.DescriptorsAndTranslation) :
    ∃ t, exec (.descCreateOp 1) (wLay (tdWord 1 4 2 0x1000000000)) = .next t :=
  ends (((h (wLay (tdWord 1 4 2 0x1000000000)) 1 (by decide +kernel) (settled_d (by decide +kernel) _)).1 (by decide +kernel)
    (by decide +kernel)).1 (by decide +kernel))
theorem wit_create_bad (h : Obligations.DescriptorsAndTranslation) :
    ∃ t, exec (.descCreateOp 1) (wLay (tdWord 1 4 0 0x1000000000)) = .next t :=
  ends (((h (wLay (tdWord 1 4 0 0x1000000000)) 1 (by decide +kernel) (settled_d (by decide +kernel) _)).1 (by decide +kernel)
    (by decide +kernel)).2.1 (by decide +kernel))
theorem wit_destroy_read (h : Obligations.DescriptorsAndTranslation) :
    (∃ t, exec (.descDestroyOp 1) (wHeld [3]) = .next t) ∧ ∃ t, exec (.descReadOp 1) (wHeld [3]) = .next t :=
  let x := ((h (wHeld [3]) 1 (by decide +kernel) (settled_d (by decide +kernel) _)).1 (by decide +kernel)
    (by decide +kernel)).2.2.1 9 kDesc (by decide +kernel)
  ⟨ends x.1, ends x.2⟩
theorem wit_no_desc (h : Obligations.DescriptorsAndTranslation) :
    (∃ t, exec (.descDestroyOp 1) (wLay 0) = .next t) ∧ ∃ t, exec (.descReadOp 1) (wLay 0) = .next t :=
  let x := ((h (wLay 0) 1 (by decide +kernel) (settled_d (by decide +kernel) _)).1 (by decide +kernel)
    (by decide +kernel)).2.2.2 (by decide +kernel)
  ⟨ends x.1, ends x.2⟩

/-- XLT_SEL names entry `i` of seat 2, XLT_ENT holds `w`. -/
def wXlt (i : Nat) (w : Word) (d : DealerSt := dDesc []) : State :=
  wDeal [] d (fun t => ((t.sf (xltPg 1) F.XLT_SEL_SEAT 2).sf (xltPg 1) F.XLT_SEL_INDEX i).wr (xltPg 1) A.XLT_ENT w)
theorem wit_xlt_bad (h : Obligations.DescriptorsAndTranslation) :
    ∃ t, exec (.xltWrite 1) (wXlt 5 (entOf 0x8040)) = .next t :=
  ends (((h (wXlt 5 (entOf 0x8040)) 1 (by decide +kernel) (settled_d (by decide +kernel) _)).2.1.1 (by decide +kernel)
    (by decide +kernel) (by decide +kernel)).1 (by decide +kernel) (by decide +kernel))
theorem wit_xlt_mapped (h : Obligations.DescriptorsAndTranslation) :
    ∃ t, exec (.xltWrite 1) (wXlt 5 (entOf 2)) = .next t :=
  ends (((h (wXlt 5 (entOf 2)) 1 (by decide +kernel) (settled_d (by decide +kernel) _)).2.1.1 (by decide +kernel)
    (by decide +kernel) (by decide +kernel)).2.1 (by decide +kernel) (by decide +kernel) (by decide +kernel))
theorem wit_xlt_new (h : Obligations.DescriptorsAndTranslation) :
    ∃ t, exec (.xltWrite 1) (wXlt 32767 (entOf 3)) = .next t :=
  ends ((((h (wXlt 32767 (entOf 3)) 1 (by decide +kernel) (settled_d (by decide +kernel) _)).2.1.1 (by decide +kernel)
    (by decide +kernel) (by decide +kernel)).2.2.1 (by decide +kernel)).1 (by decide +kernel))
theorem wit_xlt_narrow (h : Obligations.DescriptorsAndTranslation) :
    ∃ t, exec (.xltWrite 1) (wXlt 1 0) = .next t :=
  ends ((((h (wXlt 1 0) 1 (by decide +kernel) (settled_d (by decide +kernel) _)).2.1.1 (by decide +kernel)
    (by decide +kernel) (by decide +kernel)).2.2.1 (by decide +kernel)).2 (by decide +kernel))
theorem wit_xlt_read (h : Obligations.DescriptorsAndTranslation) :
    (∃ t, exec (.xltRead 1) (wXlt 1 0) = .next t) ∧ ∃ t, exec (.invalSeat 1) (wXlt 1 0) = .next t :=
  let x := ((h (wXlt 1 0) 1 (by decide +kernel) (settled_d (by decide +kernel) _)).2.1.1 (by decide +kernel)
    (by decide +kernel) (by decide +kernel)).2.2.2
  ⟨ends x.1, ends x.2⟩
theorem wit_revoked (h : Obligations.DescriptorsAndTranslation) :
    ∃ t, exec (.revocationDone 1) (wXlt 1 0 { dDesc [] with revoking := true }) = .next t :=
  ends ((h (wXlt 1 0 { dDesc [] with revoking := true }) 1 (by decide +kernel) (settled_d (by decide +kernel) _)).2.1.2
    (by decide +kernel))
/-- Pages 2 to 4, or 3 and 4, are lent to chip 4. -/
def vLend (base n : Nat) : Word := BitVec.ofNat 64 (2 ^ 21 * base + 2 ^ 40 * n + 2 ^ 56 * 4 + 2 ^ 63)
theorem wit_lend (h : Obligations.DescriptorsAndTranslation) :
    ∃ t, exec (.lendWrite 1 3 (vLend 3 2)) (wLay 0) = .next t :=
  ends (((h (wLay 0) 1 (by decide +kernel) (settled_d (by decide +kernel) _)).2.2 3 (vLend 3 2) (by decide +kernel)
    (by decide +kernel) (by decide +kernel)).1 (by decide +kernel))
theorem wit_lend_used (h : Obligations.DescriptorsAndTranslation) :
    ∃ t, exec (.lendWrite 1 3 (vLend 2 3)) (wLay 0) = .next t :=
  ends (((h (wLay 0) 1 (by decide +kernel) (settled_d (by decide +kernel) _)).2.2 3 (vLend 2 3) (by decide +kernel)
    (by decide +kernel) (by decide +kernel)).2 (by decide +kernel) (by decide +kernel) (by decide +kernel))

/-- Slot 3 is IDLE. -/
def wIdle : State := wDeal [] {} (fun t => t.sf (jobPg 1) (F.DLR_JOB_CTL_STATE.nth 3) J.IDLE)
theorem wit_go (h : Obligations.JobsRun) : ∃ t, exec (.jobStart 1 3) wIdle = .next t :=
  ends (((h wIdle 1 3 (settled_d (by decide +kernel) _)).1 (by decide +kernel) (by decide +kernel)).1 (by decide +kernel)
    (by decide +kernel) (by decide +kernel))
theorem wit_go_busy (h : Obligations.JobsRun) : ∃ t, exec (.jobStart 1 3) (wIns 0) = .next t :=
  ends (((h (wIns 0) 1 3 (settled_d (by decide +kernel) _)).1 (by decide +kernel) (by decide +kernel)).2.1 (by decide +kernel)
    (by decide +kernel))
theorem wit_abort_idle (h : Obligations.JobsRun) : ∃ t, exec (.jobAbort 1 3) wIdle = .next t :=
  ends (((h wIdle 1 3 (settled_d (by decide +kernel) _)).1 (by decide +kernel) (by decide +kernel)).2.2.1 (by decide +kernel))
theorem free_of {s : State} (h : (List.range 16).all (fun i => (s.tray.inbox 1 i).held.isEmpty) = true) : s.tray.noneHeld 1 :=
  fun i hi => List.isEmpty_iff.1 (List.all_eq_true.1 h i (List.mem_range.2 hi))
theorem wit_abort (h : Obligations.JobsRun) : ∃ t, exec (.jobAbort 1 3) (wIns 0) = .next t :=
  ends (((h (wIns 0) 1 3 (settled_d (by decide +kernel) _)).1 (by decide +kernel) (by decide +kernel)).2.2.2 (by decide +kernel)
    (fun tb op e => by
      have : ((wIns 0).tray.slot 1 3).wait = .none := by decide +kernel
      have e' : ((wIns 0).tray.slot 1 3).wait = .op tb op := e
      rw [this] at e'; cases e') (free_of (by decide +kernel)))
/-- The slot waits for counter 3 of table 7 to reach 4. -/
def insWaits : Nat := 2 ^ 16 + 2 ^ 17 + 2 ^ 24 * 3 + 2 ^ 28 * 15 + 2 ^ 32 * 7 + 2 ^ 96 * 4
def wCtrWait (n : Nat) (k : SlotWait) : State := wIns insWaits (dJob { pc := 0x400000, wait := k }) (fun t => t.sf (tblPg 1 7) (ctrFld 3) n)
theorem wit_wait_end (h : Obligations.JobsRun) : ∃ t, exec (.instrWaitEnd 1 3) (wCtrWait 4 .ctr) = .next t :=
  ends ((h (wCtrWait 4 .ctr) 1 3 (settled_d (by decide +kernel) _)).2.1 (by decide +kernel) (BitVec.ofNat 512 insWaits)
    (by decide +kernel) (by decide +kernel))
theorem wit_pool (h : Obligations.JobsRun) : ∃ t, exec (.poolShort 1 3) (wCtrWait 4 .pool) = .next t :=
  ends ((h (wCtrWait 4 .pool) 1 3 (settled_d (by decide +kernel) _)).2.2.1 (by decide +kernel) (free_of (by decide +kernel)))
theorem wit_job_nop (h : Obligations.JobsRun) : ∃ t, exec (.dealerNop 1 3) (wCtrWait 4 .none) = .next t :=
  ends (((h (wCtrWait 4 .none) 1 3 (settled_d (by decide +kernel) _)).2.2.2 (BitVec.ofNat 512 insWaits)).1
    (runs_of (by decide +kernel)))
theorem wit_job_waits (h : Obligations.JobsRun) : ∃ t, exec (.dealerNop 1 3) (wCtrWait 3 .none) = .next t :=
  ends ((((h (wCtrWait 3 .none) 1 3 (settled_d (by decide +kernel) _)).2.2.2 (BitVec.ofNat 512 insWaits)).2.2.2
    (by decide +kernel) (by decide +kernel) (by decide +kernel) (by decide +kernel)).2 (by decide +kernel) (by decide +kernel)
    (by decide +kernel) (by decide +kernel) (by decide +kernel))
def insAdd : Nat := 3 + 2 ^ 17 + 2 ^ 28 * 15 + 2 ^ 32 * 7 + 2 ^ 256 * (2 ^ 32 - 1)
theorem wit_ctr_add (h : Obligations.JobsRun) : ∃ t, exec (.ctrAdd 1 3) (wIns insAdd) = .next t :=
  ends (((h (wIns insAdd) 1 3 (settled_d (by decide +kernel) _)).2.2.2 (BitVec.ofNat 512 insAdd)).2.1
    (runs_of (by decide +kernel)))
def wEnd : State := wIns 0x3F dJob (fun t => (t.sb (jobPg 1) (F.DLR_JOB_CFG_NOTIFY_EN.nth 3) true).sf (jobPg 1)
  (F.DLR_JOB_CFG_NOTIFY_EP.nth 3) 5)
theorem wit_end (h : Obligations.JobsRun) : ∃ t, exec (.endJob 1 3) wEnd = .next t :=
  ends (((h wEnd 1 3 (settled_d (by decide +kernel) _)).2.2.2 0x3F).2.2.1 (runs_of (by decide +kernel))
    (free_of (by decide +kernel)))
theorem wit_bad_opcode (h : Obligations.JobsRun) : ∃ t, exec (.dealerNop 1 3) (wIns 0x3E) = .next t :=
  ends ((((h (wIns 0x3E) 1 3 (settled_d (by decide +kernel) _)).2.2.2 0x3E).2.2.2 (by decide +kernel) (by decide +kernel)
    (by decide +kernel) (by decide +kernel)).1 (by decide +kernel) (free_of (by decide +kernel)))

/-- DESC_CREATE of the descriptor 64 bytes behind the instruction, handle into JH entry 5. -/
def insCreate : Nat := 1 + 2 ^ 160 * 5 + 2 ^ 256 * 0x400040
def wMake (td : Nat) : State := wDeal (leBytes 64 insCreate ++ leBytes 64 td) dJob
theorem wit_desc_create (h : Obligations.DescriptorsAndInboxesOfJobs) :
    ∃ t, exec (.descCreate 1 3) (wMake (tdWord 1 4 2 0x1000000000)) = .next t :=
  ends ((((h (wMake (tdWord 1 4 2 0x1000000000)) 1 3 (settled_d (by decide +kernel) _)).1 (BitVec.ofNat 512 insCreate)).1
    (runs_of (by decide +kernel)) (BitVec.ofNat 1024 (tdWord 1 4 2 0x1000000000)) (by decide +kernel)).1 (by decide +kernel))
theorem wit_desc_create_bad (h : Obligations.DescriptorsAndInboxesOfJobs) :
    ∃ t, exec (.descCreate 1 3) (wMake (tdWord 1 0 2 0x1000000000)) = .next t :=
  ends ((((h (wMake (tdWord 1 0 2 0x1000000000)) 1 3 (settled_d (by decide +kernel) _)).1 (BitVec.ofNat 512 insCreate)).1
    (runs_of (by decide +kernel)) (BitVec.ofNat 1024 (tdWord 1 0 2 0x1000000000)) (by decide +kernel)).2 (by decide +kernel)
    (free_of (by decide +kernel)))
def insDestroy : Nat := 2 + 2 ^ 128 * 0xF009
def wDestroy (h : Nat) : State := wIns (2 + 2 ^ 128 * h) { dDesc [] with slots := [(3, { pc := 0x400000 })] }
theorem wit_desc_destroy (h : Obligations.DescriptorsAndInboxesOfJobs) :
    ∃ t, exec (.descDestroy 1 3) (wDestroy 0xF009) = .next t :=
  ends ((((h (wDestroy 0xF009) 1 3 (settled_d (by decide +kernel) _)).1 (BitVec.ofNat 512 (2 + 2 ^ 128 * 0xF009))).2.1
    (runs_of (by decide +kernel))).1 0xF009 9 { kDesc with users := [] } (by decide +kernel))
theorem wit_desc_destroy_bad (h : Obligations.DescriptorsAndInboxesOfJobs) :
    ∃ t, exec (.descDestroy 1 3) (wDestroy 0xE009) = .next t :=
  ends ((((h (wDestroy 0xE009) 1 3 (settled_d (by decide +kernel) _)).1 (BitVec.ofNat 512 (2 + 2 ^ 128 * 0xE009))).2.1
    (runs_of (by decide +kernel))).2 (by decide +kernel) (free_of (by decide +kernel)))
/-- Inbox 15 of seat 2, bound to slot 3: records of 128 B, two a half, in the granted SRAM page. -/
def wInbox (op : Nat) (x : InboxSt) : State :=
  wIns (op + 2 ^ 160 * 4 + 2 ^ 256 * 15) { dJob with inboxes := [(15, x)] } (fun t => ((((((t.sf (inPg 1) (F.DLR_IN_CFG_VALID.nth 15)
    1).sf (inPg 1) (F.DLR_IN_CFG_SLOT.nth 15) 3).sf (inPg 1) (F.DLR_IN_CFG_SEAT.nth 15) 2).sf (inPg 1)
    (F.DLR_IN_CFG_REC_64.nth 15) 2).sf (inPg 1) (F.DLR_IN_CFG_HALF_RECS.nth 15) 2).sf (inPg 1) (F.DLR_IN_BASE_BASE.nth 15)
    0x1000000000))
def insIn (op : Nat) : BitVec 512 := BitVec.ofNat 512 (op + 2 ^ 160 * 4 + 2 ^ 256 * 15)
def xReady : InboxSt := { fill := some 1, recs := [(0, 2)], ready := [0] }
theorem wit_in_wait (h : Obligations.DescriptorsAndInboxesOfJobs) : ∃ t, exec (.inWait 1 3) (wInbox 8 xReady) = .next t :=
  ends (((((h (wInbox 8 xReady) 1 3 (settled_d (by decide +kernel) _)).1 (insIn 8)).2.2 (by decide +kernel)).1
    (runs_of (by decide +kernel))).1 0 [] (by decide +kernel) (by decide +kernel) (by decide +kernel) (by decide +kernel))
theorem wit_in_wait_none (h : Obligations.DescriptorsAndInboxesOfJobs) : ∃ t, exec (.inWait 1 3) (wInbox 8 {}) = .next t :=
  ends (((((h (wInbox 8 {}) 1 3 (settled_d (by decide +kernel) _)).1 (insIn 8)).2.2 (by decide +kernel)).1
    (runs_of (by decide +kernel))).2 (by decide +kernel) (by decide +kernel))
def xTaken : InboxSt := { fill := none, recs := [(0, 2), (1, 2)], ready := [1], taken := some (0, 9) }
theorem wit_in_free (h : Obligations.DescriptorsAndInboxesOfJobs) : ∃ t, exec (.inFree 1 3) (wInbox 9 xTaken) = .next t :=
  ends ((((h (wInbox 9 xTaken) 1 3 (settled_d (by decide +kernel) _)).1 (insIn 9)).2.2 (by decide +kernel)).2
    (runs_of (by decide +kernel)) 0 9 (by decide +kernel) (by decide +kernel))
/-- A write that makes inbox 15 valid with records of 128 B, two a half, for seat 2. -/
def vInbox : Word := BitVec.ofNat 64 (1 + 2 ^ 8 * 3 + 2 ^ 16 * 2 + 2 ^ 24 * 2 + 2 ^ 36 * 2)
def wNewInbox (base : Nat) : State := wDeal [] dJob (fun t => t.sf (inPg 1) (F.DLR_IN_BASE_BASE.nth 15) base)
theorem wit_inbox (h : Obligations.DescriptorsAndInboxesOfJobs) :
    ∃ t, exec (.inboxValid 1 15 vInbox) (wNewInbox 0x1000000000) = .next t :=
  ends (((h (wNewInbox 0x1000000000) 1 3 (settled_d (by decide +kernel) _)).2.1 15 vInbox (by decide +kernel) (by decide +kernel)
    (by decide +kernel) (by decide +kernel) (by decide +kernel) (by decide +kernel)).1
    (by decide +kernel))
theorem wit_inbox_bad (h : Obligations.DescriptorsAndInboxesOfJobs) :
    ∃ t, exec (.inboxValid 1 15 vInbox) (wNewInbox 0x1000000020) = .next t :=
  ends (((h (wNewInbox 0x1000000020) 1 3 (settled_d (by decide +kernel) _)).2.1 15 vInbox (by decide +kernel) (by decide +kernel)
    (by decide +kernel) (by decide +kernel) (by decide +kernel) (by decide +kernel)).2 (by decide +kernel) (by decide +kernel))

/-- DEALER_IN in MODE 0 for inbox 15: 64 of 128 bytes; a whole record that closes the half. -/
def pHalf : Pkt := ⟨0x7cfb00000c5107110000000000000000000000000000000000000000000000000000000000000000000000000000000f0000070000000000004002200005004b, [0x7070707070707070707070707070707070707070707070707070707070707070707070707070707070707070707070707070707070707070707070707070707]⟩
def pWhole : Pkt := ⟨0xb9e90000f3d49ee70000000000000000000000000000000000000000000000000000000000000000000000000000002f0000070000000000008002200005004b, [0x9090909090909090909090909090909090909090909090909090909090909090909090909090909090909090909090909090909090909090909090909090909, 0x9090909090909090909090909090909090909090909090909090909090909090909090909090909090909090909090909090909090909090909090909090909]⟩
theorem wit_in_half (h : Obligations.DescriptorsAndInboxesOfJobs) : ∃ t, exec (.dealerInInbox 1 5 pHalf) (wInbox 8 {}) = .next t :=
  ends (((h (wInbox 8 {}) 1 3 (settled_d (by decide +kernel) _)).2.2 5 pHalf (by unfold Tray.takes; decide +kernel)
    (by decide +kernel) (by decide +kernel) (by decide +kernel) (by decide +kernel) (by decide +kernel) (by decide +kernel)
    (by decide +kernel) (by decide +kernel)).1 (by decide +kernel) (by decide +kernel))
theorem wit_in_whole (h : Obligations.DescriptorsAndInboxesOfJobs) : ∃ t, exec (.dealerInInbox 1 5 pWhole) (wInbox 8 {}) = .next t :=
  ends (((h (wInbox 8 {}) 1 3 (settled_d (by decide +kernel) _)).2.2 5 pWhole (by unfold Tray.takes; decide +kernel)
    (by decide +kernel) (by decide +kernel) (by decide +kernel) (by decide +kernel) (by decide +kernel) (by decide +kernel)
    (by decide +kernel) (by decide +kernel)).2 0 (List.replicate 128 9) (by decide +kernel) (by decide +kernel)
    (by decide +kernel) (by decide +kernel))

/-! ### Dealer instructions that compute, send and issue: the hypotheses of the statements are met -/

/-- Descriptors of seat 2 at slots 4 on: tensors of `(format, elements a row, rows)` 4 KiB apart in the granted SRAM page. -/
def descsOf (l : List (Nat × Nat × Nat)) : Assoc DescSt :=
  (l.zipIdx).map (fun a => (4 + a.2, { held := true, live := true, seat := 2, words := BitVec.ofNat 1024 (tdWord a.1.1 a.1.2.1 a.1.2.2 (0x1000000000 + 4096 * a.2)) }))
/-- A job at an instruction, with these tensors; the FP32 values 2.0 and 3.0 begin the first one, −1.0 the second. -/
def wTd (w : Nat) (l : List (Nat × Nat × Nat)) (f : Tray → Tray := id) : State :=
  wIns w { dJob with descs := descsOf l } (fun t => f ((([0, 0, 0, 0x40, 0, 0, 0x40, 0x40].zipIdx).foldl (fun t a => t.memPut (2 ^ 40 +
    sramBase + a.2) a.1) t).memPut (2 ^ 40 + sramBase + 4099) 0xBF))
def kTd (i fmt k n : Nat) : DescSt :=
  { held := true, live := true, seat := 2, words := BitVec.ofNat 1024 (tdWord fmt k n (0x1000000000 + 4096 * i)) }
/-- MIX of handles 4 and 5 into 6: 1 × 2 by 1 × 2, into 1 × 1. -/
def insMix1 : Nat := 0x10 + 2 ^ 128 * 4 + 2 ^ 144 * 5 + 2 ^ 160 * 6
def wMix : State := wTd insMix1 [(1, 2, 1), (1, 2, 1), (1, 1, 1)]
theorem wit_mix (h : Obligations.DealerComputes) : ∃ t, exec (.mix 1 3 1 1) wMix = .next t :=
  ends ((h wMix 1 3 (BitVec.ofNat 512 insMix1) (settled_d (by decide +kernel) _)).1 (4, 4, kTd 0 1 2 1) (5, 5, kTd 1 1 2 1)
    (6, 6, kTd 2 1 1 1) 1 1 [(0x40000000, 127), (0x40400000, 127)] [(0xBF000000, 127), (0, 127)] [] (runs_of (by decide +kernel))
    (by decide +kernel) (by decide +kernel) (by decide +kernel) (by decide +kernel) (by decide +kernel) (by decide +kernel)
    (by decide +kernel) (by decide +kernel) (by decide +kernel) (by decide +kernel) (by decide +kernel) (by decide +kernel)
    (by decide +kernel) (by decide +kernel) ⟨by decide +kernel, by decide +kernel⟩ (by decide +kernel) (by decide +kernel)
    (by decide +kernel) (by decide +kernel))
/-- VEC ADD of handles 4 and 5 into 6, VEC of the sum of the row of handle 4. -/
def insVec1 (v : Nat) : Nat := 0x18 + 2 ^ 8 * v + 2 ^ 128 * 4 + 2 ^ 144 * 5 + 2 ^ 160 * 6
def wVec (v k : Nat) : State := wTd (insVec1 v) [(1, 2, 1), (1, 2, 1), (1, k, 1)]
set_option maxRecDepth 20000 in
theorem wit_vec (h : Obligations.DealerComputes) : ∃ t, exec (.vec 1 3) (wVec 1 2) = .next t :=
  ends ((h (wVec 1 2) 1 3 (BitVec.ofNat 512 (insVec1 1)) (settled_d (by decide +kernel) _)).2.1 (4, 4, kTd 0 1 2 1)
    (6, 6, kTd 2 1 2 1) [fvDec 1 0x40000000, fvDec 1 0x40400000] [fvDec 1 0xBF000000, fvDec 1 0] [] (runs_of (by decide +kernel))
    (by decide +kernel) (by decide +kernel) (by decide +kernel) (some (useOf 2 5 false (kTd 1 1 2 1).words))
    ((if_pos (by decide +kernel)).mpr ⟨(5, 5, kTd 1 1 2 1), by decide +kernel, by decide +kernel⟩) (by decide +kernel) (by decide +kernel)
    (fun y hy => by rw [← Option.some.inj hy]; decide +kernel) (by decide +kernel) (by decide +kernel) (by decide +kernel) (by decide +kernel)
    (by decide +kernel) (by decide +kernel) (by decide +kernel))
theorem wit_vec_row (h : Obligations.DealerComputes) : ∃ t, exec (.vec 1 3) (wVec 11 1) = .next t :=
  ends ((h (wVec 11 1) 1 3 (BitVec.ofNat 512 (insVec1 11)) (settled_d (by decide +kernel) _)).2.1 (4, 4, kTd 0 1 2 1)
    (6, 6, kTd 2 1 1 1) [fvDec 1 0x40000000, fvDec 1 0x40400000] [] [] (runs_of (by decide +kernel))
    (by decide +kernel) (by decide +kernel) (by decide +kernel) none (by decide +kernel) (by decide +kernel) (by decide +kernel)
    (fun y hy => by cases hy) (by decide +kernel) (by decide +kernel) (by decide +kernel) (by decide +kernel)
    (by decide +kernel) (by decide +kernel) (by decide +kernel))
/-- QUANT of 32 FP32 elements into MXFP8 with its scale byte at 0x1000002000. -/
def wQuant : State :=
  wIns (0x19 + 2 ^ 128 * 4 + 2 ^ 160 * 5) { dJob with descs := [(4, kTd 0 1 32 1), (5, kMx)] }
where kMx : DescSt := { kTd 1 11 32 1 with words := BitVec.ofNat 1024 (tdWord 11 32 1 0x1000001000 + 2 ^ 448 * 0x1000002000) }
theorem wit_quant (h : Obligations.DealerComputes) : ∃ t, exec (.quant 1 3) wQuant = .next t :=
  ends ((h wQuant 1 3 (BitVec.ofNat 512 (0x19 + 2 ^ 128 * 4 + 2 ^ 160 * 5)) (settled_d (by decide +kernel) _)).2.2
    (4, 4, kTd 0 1 32 1) (5, 5, wQuant.kMx) (List.replicate 32 (fvDec 1 0)) (runs_of (by decide +kernel))
    (by decide +kernel) (by decide +kernel) (by decide +kernel) (by decide +kernel) (by decide +kernel) (by decide +kernel)
    (by decide +kernel) (by decide +kernel))

/-- SEND of the tensor of handle 4 to endpoint 9 on channel 5. -/
def insSend1 : Nat := 0x38 + 2 ^ 128 * 4 + 2 ^ 256 * 9 + 2 ^ 320 * 0x7000 + 2 ^ 384 * 5
def wSend : State := wTd insSend1 [(1, 2, 1)]
theorem wit_send (h : Obligations.DealerSends) : ∃ t, exec (.send 1 3) wSend = .next t :=
  ends ((h wSend 1 3 (BitVec.ofNat 512 insSend1) (settled_d (by decide +kernel) _)).1 (4, 4, kTd 0 1 2 1)
    [(0x40000000, 127), (0x40400000, 127)] (runs_of (by decide +kernel)) (by decide +kernel) (by decide +kernel)
    (by decide +kernel))
/-- SCATTER of one 64-byte block of an INT8 tensor to endpoint 9; the list's entry stands at 0x1000003000. -/
def insScat : Nat := 0x39 + 2 ^ 128 * 4 + 2 ^ 176 * 5 + 2 ^ 320 * 0x7000 + 2 ^ 384 * 5
def kBcl : DescSt :=
  { held := true, live := true, seat := 2, words := BitVec.ofNat 1024 (3 + 2 ^ 8 * 4 + 2 ^ 24 * 2 + 2 ^ 32 + 2 ^ 64 * 0x1000003000 + 2 ^ 128 * 64 + 2 ^ 144 + 2 ^ 160 + 2 ^ 176) }
def wScat : State :=
  wIns insScat { dJob with descs := [(4, kTd 0 7 64 1), (5, kBcl)] } (fun t => t.memPut (2 ^ 40 + sramBase + 0x3007) 9)
theorem wit_scatter (h : Obligations.DealerSends) : ∃ t, exec (.scatter 1 3) wScat = .next t :=
  ends ((h wScat 1 3 (BitVec.ofNat 512 insScat) (settled_d (by decide +kernel) _)).2.1 (4, 4, kTd 0 7 64 1) 5 5 kBcl
    (runs_of (by decide +kernel)) (by decide +kernel) (by decide +kernel) (by decide +kernel) (by decide +kernel)
    (by decide +kernel))
/-- MOE_ROUTE on inbox 15: FP8 tokens of 16 elements, one of two FP8 experts, channel 5; weights, map. -/
def insMoe : Nat := 0x28 + 2 ^ 128 * 4 + 2 ^ 176 * 5 + 2 ^ 256 * (15 + 2 ^ 8 * 4) + 2 ^ 320 * (1 + 2 ^ 20 * 5) + 2 ^ 384 * 1
def wMoe (x : InboxSt) (k : SlotSt) : State :=
  wIns insMoe { dJob k with inboxes := [(15, x)], descs := [(4, kTd 0 4 2 16), (5, kTd 1 7 64 1)] } (fun t => ((((((t.sf (inPg 1)
    (F.DLR_IN_CFG_VALID.nth 15) 1).sf (inPg 1) (F.DLR_IN_CFG_SLOT.nth 15) 3).sf (inPg 1) (F.DLR_IN_CFG_SEAT.nth 15) 2).sf (inPg 1)
    (F.DLR_IN_CFG_REC_64.nth 15) 2).sf (inPg 1) (F.DLR_IN_CFG_HALF_RECS.nth 15) 2).sf (inPg 1) (F.DLR_IN_BASE_BASE.nth 15)
    0x1000004000))
theorem wit_moe (h : Obligations.DealerSends) : ∃ t, exec (.moeRoute 1 3 0) (wMoe {} { pc := 0x400000 }) = .next t :=
  ends (((h (wMoe {} { pc := 0x400000 }) 1 3 (BitVec.ofNat 512 insMoe) (settled_d (by decide +kernel) _)).2.2 (4, 4, kTd 0 4 2 16)
    none (5, 5, kTd 1 7 64 1) (by decide +kernel) (by decide +kernel) (by decide +kernel)).1 0 (runs_of (by decide +kernel))
    (by decide +kernel) (by decide +kernel) (by unfold Tray.poolRoom; decide +kernel))
def xOne : InboxSt := { fill := some 1, recs := [(0, 1)], ready := [0] }
def wBatch : State := wMoe xOne { pc := 0x400000, moe := true }
/-- A search that finds something at one of its first three places. -/
theorem firstFree_of {ok : Nat → Bool} {n fuel r : Nat} (h : ok (r % n) = true ∨ ok ((r + 1) % n) = true ∨ ok ((r + 1 + 1) % n) = true) :
    firstFree ok n 1 (fuel + 3) r ≠ none := by
  unfold firstFree
  split
  · simp
  · unfold firstFree
    split
    · simp
    · unfold firstFree
      rw [if_pos (by simp_all)]
      simp
theorem free_but {t : Tray} {c : Nat} (h2 : (t.dealer c).descs.map (fun a => a.1) = [4, 5]) (k : Nat) (h4 : k ≠ 4) (h5 : k ≠ 5) :
    (t.desc c k).held = false := by
  have key : ∀ (l : Assoc DescSt), l.map (fun a => a.1) = [4, 5] → Assoc.get (fun _ => {}) l k = ({} : DescSt) := by
    intro l e
    rcases l with _ | ⟨⟨x, u⟩, _ | ⟨⟨y, v⟩, z⟩⟩
    · cases e
    · cases e
    · obtain ⟨e1, e2⟩ := List.cons.inj e
      obtain ⟨e3, e4⟩ := List.cons.inj e2
      have hz : z = [] := List.map_eq_nil_iff.1 e4
      have x4 : x = 4 := e1
      have y5 : y = 5 := e3
      subst hz x4 y5
      unfold Assoc.get
      rw [if_neg h4]
      unfold Assoc.get
      rw [if_neg h5]
      rfl
  unfold Tray.desc
  exact congrArg DescSt.held (key _ h2)
/-- Where only slots 4 and 5 are held, a descriptor finds a slot, whichever the free value starts from. -/
theorem create_ok {t : Tray} {c m : Nat} {w w' : BitVec 1024} (hw : BitVec.ofNat 1024 (w.toNat % 2 ^ 512) = w')
    (k1 : descKind w ≠ 2) (k2 : t.checkDesc c m none w' = D.OK) (k3 : descKind w' ≠ 2)
    (k4 : ¬ t.gf (layPg c) (F.LAY_SEAT_QUOTA.at (8 * m)) < t.descSeat c m + 1)
    (free : ∀ k, k ≠ 4 → k ≠ 5 → (t.desc c k).held = false) : (t.createDesc c m none w).1 = D.OK := by
  unfold Tray.createDesc
  simp only [if_neg k1, hw, if_neg k3, k2, if_neg k4, ne_eq, not_true_eq_false, if_false]
  unfold Tray.free
  dsimp only
  generalize (Config.freeValue t.freeCtr).toNat % 2 ^ 12 / 1 * 1 = r
  split
  · rename_i g
    refine absurd g (firstFree_of (fuel := 4093) ?_)
    have f := fun (k : Nat) (h : k ≠ 4 ∧ k ≠ 5) => free k h.1 h.2
    have q : ∀ k, (k ≠ 4 ∧ k ≠ 5) → (!(({ t with freeCtr := t.freeCtr + 1 } : Tray).desc c k).held && ((1 : Nat) == 1 ||
        !(({ t with freeCtr := t.freeCtr + 1 } : Tray).desc c (k + 1)).held)) = true := fun k hk => by
      have e : ({ t with freeCtr := t.freeCtr + 1 } : Tray).desc c k = t.desc c k := rfl
      rw [e, f k hk]
      rfl
    have three : (r % 4096 ≠ 4 ∧ r % 4096 ≠ 5) ∨ ((r + 1) % 4096 ≠ 4 ∧ (r + 1) % 4096 ≠ 5) ∨
        ((r + 1 + 1) % 4096 ≠ 4 ∧ (r + 1 + 1) % 4096 ≠ 5) := by clear q f g k2 hw k1 k3 k4 free; omega
    exact three.imp (q _) (Or.imp (q _) (q _))
  · rfl
theorem take_ok {t : Tray} {c i h : Nat} {w : BitVec 1024}
    (hw : halfTd (t.inSeat c i) (t.inBase c i + h * t.halfRecs c i * t.recBytes c i) (t.recBytes c i) ((t.inbox c i).recsIn h) = w)
    (hc : (t.createDesc c (t.inSeat c i) none w).1 = D.OK) : (t.inTake c i h).1 = D.OK := by
  unfold Tray.inTake
  simp only [hw]
  rw [if_neg (by rw [hc]; exact fun e => e rfl)]
  exact hc
theorem wit_batch (h : Obligations.DealerSends) : ∃ t, exec (.moeBatch 1 3) wBatch = .next t :=
  ends (((h wBatch 1 3 (BitVec.ofNat 512 insMoe) (settled_d (by decide +kernel) _)).2.2 (4, 4, kTd 0 4 2 16)
    none (5, 5, kTd 1 7 64 1) (by decide +kernel) (by decide +kernel) (by decide +kernel)).2 0 (List.replicate 32 (fvDec 4 0)) []
    (List.replicate 64 (0, 127)) [List.replicate 128 0] (by decide +kernel) (by decide +kernel) (by decide +kernel) (by decide +kernel)
    (by decide +kernel) (by decide +kernel) (by decide +kernel) (take_ok rfl (create_ok rfl (by decide +kernel)
      (by decide +kernel) (by decide +kernel) (by decide +kernel) (free_but (by decide +kernel)))) (by decide +kernel) (by decide +kernel)
    (by decide +kernel) (by decide +kernel) (by decide +kernel))

/-- RS_EPI and AG_PRO of 32 elements on table 7, BF16 and FP32 outputs. -/
def insFuse (op f : Nat) : Nat := op + 2 ^ 32 * 7 + 2 ^ 256 * 32 + 2 ^ 320 * 0x9000 + 2 ^ 384 * (2 ^ 16 * f)
def wFuse (op f : Nat) : State := wIns (insFuse op f)
theorem ready_of {s : State} {c tb : Nat} (h : s.tray.tDealer c tb = true ∧ s.tray.issueFull c tb = false ∧ ((s.tray.table c tb).staged = [] ∧
    (s.tray.table c tb).shuf = [] ∧ (s.tray.table c tb).doomed = [] ∧ (s.tray.table c tb).ops = []) ∧ s.tray.tRuns c tb = true) :
    s.tray.tDealer c tb = true ∧ s.tray.issueFull c tb = false ∧ s.tray.nothingStaged c tb ∧ s.tray.tRuns c tb = true ∧
      (∀ o ∈ (s.tray.table c tb).ops, o.seq ≠ s.tray.opNext c tb ∧ o.started = true) :=
  ⟨h.1, h.2.1, ⟨h.2.2.1.1, h.2.2.1.2.1, h.2.2.1.2.2.1, fun o ho => by rw [h.2.2.1.2.2.2] at ho; cases ho⟩, h.2.2.2,
    fun o ho => by rw [h.2.2.1.2.2.2] at ho; cases ho⟩
theorem wit_rs_epi (h : Obligations.FusedOperationsIssue) : ∃ t, exec (.rsEpi 1 3 1) (wFuse 0x20 3) = .next t :=
  ends (((h (wFuse 0x20 3) 1 3 (BitVec.ofNat 512 (insFuse 0x20 3)) (settled_d (by decide +kernel) _)).1 1 none
    (ready_of (by decide +kernel)) (by unfold Tray.poolRoom; decide +kernel) ((if_neg (by decide +kernel)).mpr rfl) (by decide +kernel) (fun y hy => by cases hy)).1
    (runs_of (by decide +kernel)) (by decide +kernel) (fun y hy => by cases hy) (by decide +kernel))
theorem wit_ag_pro (h : Obligations.FusedOperationsIssue) : ∃ t, exec (.agPro 1 3 0) (wFuse 0x21 1) = .next t :=
  ends (((h (wFuse 0x21 1) 1 3 (BitVec.ofNat 512 (insFuse 0x21 1)) (settled_d (by decide +kernel) _)).1 0 none
    (ready_of (by decide +kernel)) (by unfold Tray.poolRoom; decide +kernel) ((if_neg (by decide +kernel)).mpr rfl) (by decide +kernel) (fun y hy => by cases hy)).2
    (runs_of (by decide +kernel)) (by decide +kernel) (fun y hy => by cases hy) (by decide +kernel))
/-- A DTD of `g` FP32 elements split over `p` of two ranks. -/
def kDtd (g p : Nat) : DescSt :=
  { held := true, live := true, seat := 2, words := BitVec.ofNat 1024 (2 + 2 ^ 4 * 1 + 2 ^ 8 + 2 ^ 16 * 2 + 2 ^ 24 * 2 + 2 ^ 128 * g + 2 ^ 160 * (if p = 1 then 0 else 1) + 2 ^ 162 * p + 2 ^ 256 + 2 ^ 290 + 2 ^ 384 + 2 ^ 418 + 2 ^ 512 + 2 ^ 546) }
def insShuf : Nat := 0x30 + 2 ^ 32 * 7 + 2 ^ 128 * 4 + 2 ^ 144 * 6
def wShuf : State := wIns insShuf { dJob with descs := [(4, kDtd 8 2), (6, kDtd 8 1)] }
theorem wit_shuffle (h : Obligations.FusedOperationsIssue) : ∃ t, exec (.shuffle 1 3 0) wShuf = .next t :=
  ends ((h wShuf 1 3 (BitVec.ofNat 512 insShuf) (settled_d (by decide +kernel) _)).2.1 0 (4, 4, kDtd 8 2) (6, 6, kDtd 8 1)
    (ready_of (by decide +kernel)) (by unfold Tray.poolRoom; decide +kernel) (runs_of (by decide +kernel)) (by decide +kernel) (by decide +kernel)
    (by decide +kernel) (by decide +kernel) (by decide +kernel))
def pMode1 : Pkt := ⟨0x57460000d01fe542000000000000000000000000000000000000000000000000000000000000000010000001000700000000070000000000004002200005004b, [0x9090909090909090909090909090909090909090909090909090909090909090909090909090909090909090909090909090909090909090909090909090909]⟩
def pMode9 : Pkt := ⟨0x99b10000c7eac7bc000000000000000000000000000000000000000000000000000000000000000090000000000000000000070000000000004002200005004b, [0x9090909090909090909090909090909090909090909090909090909090909090909090909090909090909090909090909090909090909090909090909090909]⟩
theorem wit_mode1 (h : Obligations.FusedOperationsIssue) : ∃ t, exec (.dealerInShuffle 1 5 pMode1) (wFuse 0 0) = .next t :=
  ends (((h (wFuse 0 0) 1 3 0 (settled_d (by decide +kernel) _)).2.2 5 pMode1 (by unfold Tray.takes; decide +kernel)
    (by decide +kernel)).1 (by decide +kernel) (by decide +kernel) (by decide +kernel) (by decide +kernel) (by decide +kernel)
    (by decide +kernel) (by decide +kernel) (by decide +kernel))
theorem wit_mode9 (h : Obligations.FusedOperationsIssue) : ∃ t, exec (.dealerInShuffle 1 5 pMode9) (wFuse 0 0) = .next t :=
  ends (((h (wFuse 0 0) 1 3 0 (settled_d (by decide +kernel) _)).2.2 5 pMode9 (by unfold Tray.takes; decide +kernel)
    (by decide +kernel)).2 (by decide +kernel))

/-! ### Dealer errors, seats, observability: the hypotheses of the statement are met -/

theorem wit_ecc_job (h : Obligations.ErrorsAndObservability) : ∃ t, exec (.sramEccError 1 (.jobData 3)) (wIns 0) = .next t :=
  ends (((h (wIns 0) 1 (settled_d (by decide +kernel) _)).1 (by decide +kernel)).1 3 (by decide +kernel)
    (free_of (by decide +kernel)))
theorem wit_ecc_line (h : Obligations.ErrorsAndObservability) : ∃ t, exec (.sramEccError 1 (.grantLine 9)) (wIns 0) = .next t :=
  ends (((h (wIns 0) 1 (settled_d (by decide +kernel) _)).1 (by decide +kernel)).2.2 9)
theorem wit_ecc_op (h : Obligations.ErrorsAndObservability) : ∃ t, exec (.sramEccError 1 (.collective 7 3)) (wRun O.RS 3) = .next t :=
  ends (((h (wRun O.RS 3) 1 (settled_of _ (by decide +kernel) _)).1 (by decide +kernel)).2.1 7 3 (oRun O.RS 3) (by decide +kernel)
    (by decide +kernel) (by decide +kernel) (by decide +kernel))
/-- SEAT_CFG of seat 2 with weights 3 and 5, VALID 0; the seat owns the job of slot 3. -/
theorem wit_seat (h : Obligations.ErrorsAndObservability) : ∃ t, exec (.seatCfgWrite 1 4 0x5300) (wIns 0) = .next t :=
  ends (((h (wIns 0) 1 (settled_d (by decide +kernel) _)).2.1 4 0x5300 (by decide +kernel) (by decide +kernel) (by decide +kernel)
    (by decide +kernel)).2.1 (by decide +kernel) (by decide +kernel))
theorem wit_seat0 (h : Obligations.ErrorsAndObservability) : ∃ t, exec (.seatCfgWrite 1 0 0x5300) (wIns 0) = .next t :=
  ends (((h (wIns 0) 1 (settled_d (by decide +kernel) _)).2.1 0 0x5300 (by decide +kernel) (by decide +kernel) (by decide +kernel)
    (by decide +kernel)).1 (by decide +kernel))
def wSeat2 : State := wIns 0 dJob (fun t => t.sb (seatPg 1 2) F.SEAT_CFG_VALID true)
theorem wit_seat_busy (h : Obligations.ErrorsAndObservability) : ∃ t, exec (.seatCfgWrite 1 2 0x5300) wSeat2 = .next t :=
  ends (((h wSeat2 1 (settled_d (by decide +kernel) _)).2.1 2 0x5300 (by decide +kernel) (by decide +kernel) (by decide +kernel)
    (by decide +kernel)).2.2 (by decide +kernel) (by decide +kernel) (by decide +kernel))
/-- Watch 7 of chip 1 in a state, with VALID of its capture register. -/
def wWatch (w : WatchSt) (v : Nat) : State := wTbl {} (fun t => ((((t.setWatch 1 7 w).sf (watchPg 1) (F.CNT_WATCH_CAPT_VALID.at 0xE0) v).sf
  (watchPg 1) (F.CNT_WATCH_CFG_RELOAD_EN.at 0xE0) 1).sf (watchPg 1) (F.CNT_WATCH_RELOAD_RELOAD.at 0xE0) 100))
theorem wit_watch (h : Obligations.ErrorsAndObservability) : ∃ t, exec (.watchOverflow 1 7) (wWatch { carry := some 5 } 0) = .next t :=
  ends (((h (wWatch { carry := some 5 } 0) 1 (settled_of _ (by decide +kernel) _)).2.2.1 7).1 5 (by decide +kernel))
theorem wit_capture (h : Obligations.ErrorsAndObservability) : ∃ t, exec (.watchCapture 1 7 3 5) (wWatch { due := some 6 } 0) = .next t :=
  ends (((h (wWatch { due := some 6 } 0) 1 (settled_of _ (by decide +kernel) _)).2.2.1 7).2.1 6 3 5 (by decide +kernel) (by decide +kernel))
theorem wit_missed (h : Obligations.ErrorsAndObservability) : ∃ t, exec (.watchCapture 1 7 3 5) (wWatch { due := some 6 } 1) = .next t :=
  ends (((h (wWatch { due := some 6 } 1) 1 (settled_of _ (by decide +kernel) _)).2.2.1 7).2.2 6 3 5 (by decide +kernel) (by decide +kernel))
/-- Chip 1 takes snapshots; the Halvoren's firmware runs, or not. -/
def wDump (up : Bool) (d : DumpSt := {}) (b : BridgeSt := {}) : State :=
  wTbl {} (fun t => ({ t with hal := { t.hal with up := up, bridge := b }, master := 25000000000 } : Tray).sb (dumpPg 1) F.PG_CTL_ENABLE true
    |>.modChip 1 (fun x => { x with dump := d }))
theorem bridge_takes {t : Tray} {c : Nat} (h : t.hal.up = true ∧ Assoc.get (fun _ => []) t.hal.bridge.rings c = []) :
    t.bridgeTakes c = true := by
  unfold Tray.bridgeTakes
  rw [h.1, h.2]
  simp
theorem wit_snapshot (h : Obligations.ErrorsAndObservability) : ∃ t, exec (.snapshot 1) (wDump true) = .next t :=
  ends (((h (wDump true) 1 (settled_of _ (by decide +kernel) _)).2.2.2.1 (by decide +kernel) (by decide +kernel)).1 (by decide +kernel)
    (bridge_takes (by decide +kernel)))
theorem wit_gap (h : Obligations.ErrorsAndObservability) : ∃ t, exec (.snapshot 1) (wDump false) = .next t :=
  ends (((h (wDump false) 1 (settled_of _ (by decide +kernel) _)).2.2.2.1 (by decide +kernel) (by decide +kernel)).2 (.inr (by decide +kernel)))
/-- A record of 300 bytes being sent, all its packets with the bridge. -/
def wArrived : State := wDump true { sending := some (List.replicate 300 1) }
  { parts := [⟨1, 0, 0x1010101, 256, List.replicate 44 1⟩, ⟨1, 0, 0x1010101, 0, List.replicate 256 1⟩] }
theorem wit_deliver_rec (h : Obligations.ErrorsAndObservability) : ∃ t, exec (.dumpRecordDeliver 1) wArrived = .next t :=
  ends (((h wArrived 1 (settled_of _ (by decide +kernel) _)).2.2.2.2.1 (by decide +kernel)).1 (List.replicate 300 1) (List.replicate 300 1)
    (by decide +kernel) (by decide +kernel))
theorem wit_seal (h : Obligations.ErrorsAndObservability) : ∃ t, exec .seal (wDump true) = .next t :=
  ends (((h (wDump true) 1 (settled_of _ (by decide +kernel) _)).2.2.2.2.1 (by decide +kernel)).2.1)
/-- Energies of a window: input, rails, temperatures. -/
def eRead : EnergyRead := ⟨some 1000, [some [1, 2, 3, 4], some [5, 6, 7, 8], some [9], some [1], none], [400, 400, 400, 400, 400], 50⟩
def wCal : State := wTbl {} (fun t => { t with hal := { t.hal with up := true }, master := 25000000000 })
theorem wit_cal (h : Obligations.ErrorsAndObservability) : ∃ t, exec (.calibration eRead) wCal = .next t :=
  ends (((h wCal 1 (settled_of _ (by decide +kernel) _)).2.2.2.2.1 (by decide +kernel)).2.2 eRead (by decide +kernel) (by decide +kernel))
theorem wit_k (h : Obligations.ErrorsAndObservability) : ∃ t, exec (.kSet 1 0x430000 8) (wDump true) = .next t :=
  ends ((h (wDump true) 1 (settled_of _ (by decide +kernel) _)).2.2.2.2.2 0x430000 8 (by decide +kernel))

/-! ### Power input, rails, temperatures, cooling: the hypotheses of the statements are met -/

/-- The housekeeper runs; chip 1 has power and runs, port 5 of it is UP. -/
def wHk (f : Tray → Tray := id) : State :=
  wPort S.UP (fun t => f ((({ t with hk := { t.hk with aon := true } } : Tray).setChipOn 1 true).each (List.range 4) (fun t r =>
    t.sf (railPg 1) (F.PWR_RAIL_STATE.nth r) 2)))
theorem wit_ov (h : Obligations.InputAndRails) : ∃ t, exec .vinOvTrip wHk = .next t := ends (h wHk (by decide +kernel) (by decide +kernel)).1
theorem wit_brown (h : Obligations.InputAndRails) : ∃ t, exec .vinBrownout wHk = .next t := ends (h wHk (by decide +kernel) (by decide +kernel)).2.1
theorem wit_uv_warn (h : Obligations.InputAndRails) : ∃ t, exec (.vinUvWarn 4799) wHk = .next t :=
  ends (((h wHk (by decide +kernel) (by decide +kernel)).2.2.1 4799).1 (by decide +kernel) (by decide +kernel) (by decide +kernel))
def wUv : State := wHk (fun t => t.sf pwrPg F.PWR_IN_STATE Vin.UV_WARN)
theorem wit_uv_clear (h : Obligations.InputAndRails) : ∃ t, exec (.vinUvWarnClear 4800) wUv = .next t :=
  ends (((h wUv (by decide +kernel) (by decide +kernel)).2.2.1 4800).2.1 (by decide +kernel) (by decide +kernel))
theorem wit_uv_trip (h : Obligations.InputAndRails) : ∃ t, exec (.vinUvTrip 4399) wHk = .next t :=
  ends (((h wHk (by decide +kernel) (by decide +kernel)).2.2.1 4399).2.2.1 (by decide +kernel) (by decide +kernel))
theorem wit_restore (h : Obligations.InputAndRails) : ∃ t, exec (.vinRestore 4800) wHk = .next t :=
  ends (((h wHk (by decide +kernel) (by decide +kernel)).2.2.1 4800).2.2.2 (by decide +kernel) (by decide +kernel))
theorem wit_phase (h : Obligations.InputAndRails) : ∃ t, exec (.phaseFail 1 0 15) wHk = .next t :=
  ends (((((h wHk (by decide +kernel) (by decide +kernel)).2.2.2 1).1 0 15).1 (by decide +kernel)).1 (by decide +kernel))
def wFailed : State := wHk (fun t => t.sf (railPg 1) (F.PWR_RAIL_FAILURES.nth 3) 1)
theorem wit_phase2 (h : Obligations.InputAndRails) : ∃ t, exec (.phaseFail 1 3 4) wFailed = .next t :=
  ends (((((h wFailed (by decide +kernel) (by decide +kernel)).2.2.2 1).1 3 4).1 (by decide +kernel)).2.1 (by decide +kernel))
theorem wit_sense (h : Obligations.InputAndRails) : ∃ t, exec (.senseUntrusted 1 1 11) wHk = .next t :=
  ends ((((((h wHk (by decide +kernel) (by decide +kernel)).2.2.2 1).1 1 11).1 (by decide +kernel)).2.2 (by decide +kernel)).1 (by decide +kernel))
theorem wit_sense2 (h : Obligations.InputAndRails) : ∃ t, exec (.senseUntrusted 1 3 4) wFailed = .next t :=
  ends ((((((h wFailed (by decide +kernel) (by decide +kernel)).2.2.2 1).1 3 4).1 (by decide +kernel)).2.2 (by decide +kernel)).2 (by decide +kernel))
theorem wit_over (h : Obligations.InputAndRails) : ∃ t, exec (.railOvercurrent 1 2) wHk = .next t :=
  ends ((((h wHk (by decide +kernel) (by decide +kernel)).2.2.2 1).1 2 0).2.1 (by decide +kernel) (by decide +kernel) (by decide +kernel))
theorem wit_cap (h : Obligations.InputAndRails) : ∃ t, exec (.capPwrSet 1) wHk = .next t :=
  ends (((h wHk (by decide +kernel) (by decide +kernel)).2.2.2 1).2.1 (by decide +kernel))
/-- Chip 2 may be powered. -/
def wOff (n : Nat) : State := wHk (fun t => ({ t with hal := { t.hal with up := true }, hk := { t.hk with pgMiss := [(2, n)] } } : Tray).sf hkPg
  F.HK_STS_PHASE Ph.CHIP_RAILS)
theorem wit_miss (h : Obligations.InputAndRails) : ∃ t, exec (.railPgTimeout 2 3) (wOff 0) = .next t :=
  ends (((((h (wOff 0) (by decide +kernel) (by decide +kernel)).2.2.2 2).1 3 0).2.2 (by decide +kernel)).1 (by decide +kernel))
theorem wit_miss2 (h : Obligations.InputAndRails) : ∃ t, exec (.railPgTimeout 2 3) (wOff 1) = .next t :=
  ends (((((h (wOff 1) (by decide +kernel) (by decide +kernel)).2.2.2 2).1 3 0).2.2 (by decide +kernel)).2 (by decide +kernel))
theorem wit_power (h : Obligations.InputAndRails) : ∃ t, exec (.chipPowerUp 2 0x10008000) (wOff 0) = .next t :=
  ends ((((h (wOff 0) (by decide +kernel) (by decide +kernel)).2.2.2 2).2.2 0x10008000 (by decide +kernel)).1 (by decide +kernel))
theorem wit_power2 (h : Obligations.InputAndRails) : ∃ t, exec (.chipPowerUp 2 3) (wOff 0) = .next t :=
  ends ((((h (wOff 0) (by decide +kernel) (by decide +kernel)).2.2.2 2).2.2 3 (by decide +kernel)).2 ⟨0, by decide +kernel, by decide +kernel⟩)

theorem wit_therm (h : Obligations.TemperaturesAndCooling) : ∃ t, exec (.thermalCapStep 1 95) wHk = .next t :=
  ends (((h wHk (by decide +kernel) (by decide +kernel)).1 1 (by decide +kernel)).1 95)
theorem wit_die (h : Obligations.TemperaturesAndCooling) : ∃ t, exec (.dieOvertemp 1 105 true) wHk = .next t :=
  ends ((((h wHk (by decide +kernel) (by decide +kernel)).1 1 (by decide +kernel)).2.1 105 true (by decide +kernel)).1 (by decide +kernel))
theorem wit_die2 (h : Obligations.TemperaturesAndCooling) : ∃ t, exec (.dieOvertemp 1 110 true) wHk = .next t :=
  ends ((((h wHk (by decide +kernel) (by decide +kernel)).1 1 (by decide +kernel)).2.1 110 true (by decide +kernel)).2 rfl (by decide +kernel))
theorem wit_trip (h : Obligations.TemperaturesAndCooling) : ∃ t, exec (.thermalTrip 1) wHk = .next t :=
  ends (((h wHk (by decide +kernel) (by decide +kernel)).1 1 (by decide +kernel)).2.2.1)
theorem wit_hbm (h : Obligations.TemperaturesAndCooling) : ∃ t, exec (.hbmOvertemp 1 1 85 true) wHk = .next t :=
  ends ((((h wHk (by decide +kernel) (by decide +kernel)).1 1 (by decide +kernel)).2.2.2 1 85 true).1 (by decide +kernel))
theorem wit_hbm2 (h : Obligations.TemperaturesAndCooling) : ∃ t, exec (.hbmOvertemp 1 1 95 true) wHk = .next t :=
  ends ((((h wHk (by decide +kernel) (by decide +kernel)).1 1 (by decide +kernel)).2.2.2 1 95 true).2 rfl (by decide +kernel))
/-- The coolant has been read before; the phase is RUNNING. -/
def wCool (hot n4 : Nat) (ph : Nat := Ph.RUNNING) : State :=
  wHk (fun t => ({ t with hk := { t.hk with supHot := hot, flow4 := n4 } } : Tray).sf hkPg F.HK_STS_PHASE ph)
theorem wit_cool (h : Obligations.TemperaturesAndCooling) : ∃ t, exec (.coolantRead 425 500 1199) (wCool 0 0) = .next t :=
  ends (((h (wCool 0 0) (by decide +kernel) (by decide +kernel)).2.1 425 500 1199).1 (by decide +kernel) (by decide +kernel))
theorem wit_cool_hot (h : Obligations.TemperaturesAndCooling) : ∃ t, exec (.coolantRead 451 500 1500) (wCool 99 0) = .next t :=
  ends (((h (wCool 99 0) (by decide +kernel) (by decide +kernel)).2.1 451 500 1500).2.1 (by decide +kernel) (by decide +kernel))
theorem wit_cool_low (h : Obligations.TemperaturesAndCooling) : ∃ t, exec (.coolantRead 300 500 399) (wCool 0 19) = .next t :=
  ends (((h (wCool 0 19) (by decide +kernel) (by decide +kernel)).2.1 300 500 399).2.2 (by decide +kernel) (by decide +kernel) (by decide +kernel))
theorem wit_leak (h : Obligations.TemperaturesAndCooling) : ∃ t, exec .leak wHk = .next t :=
  ends ((h wHk (by decide +kernel) (by decide +kernel)).2.2.1 (by decide +kernel))
def wEnv : State := wHk (fun t => { t with hk := { t.hk with envOff := 4 } })
theorem wit_recovery (h : Obligations.TemperaturesAndCooling) : ∃ t, exec (.coolingRecovery true) wEnv = .next t :=
  ends ((h wEnv (by decide +kernel) (by decide +kernel)).2.2.2.1 true (by decide +kernel) (.inl rfl))
def wPumps : State := wHk (fun t => (t.sf hkPg F.HK_COOL_PUMP_OK 3).sf hkPg F.HK_FAN_FAN_OK 63)
theorem wit_pump (h : Obligations.TemperaturesAndCooling) : ∃ t, exec (.pumpFail 1) wPumps = .next t :=
  ends ((h wPumps (by decide +kernel) (by decide +kernel)).2.2.2.2.1 1 (by decide +kernel))
theorem wit_fan (h : Obligations.TemperaturesAndCooling) : ∃ t, exec (.fanFail 5) wPumps = .next t :=
  ends ((h wPumps (by decide +kernel) (by decide +kernel)).2.2.2.2.2.1 5 (by decide +kernel))
theorem wit_air (h : Obligations.TemperaturesAndCooling) : ∃ t, exec (.airRead 4090 100) wPumps = .next t :=
  ends (((h wPumps (by decide +kernel) (by decide +kernel)).2.2.2.2.2.2.1 4090 100).1 (by decide +kernel))
def wAir : State := wHk (fun t => { t with hk := { t.hk with in45 := 99 } })
theorem wit_air_hot (h : Obligations.TemperaturesAndCooling) : ∃ t, exec (.airRead 451 100) wAir = .next t :=
  ends (((h wAir (by decide +kernel) (by decide +kernel)).2.2.2.2.2.2.1 451 100).2 (by decide +kernel) (by decide +kernel) (by decide +kernel))
/-- The SC-L cartridge of bay 8, with or without its alarm. -/
def wHot (hot : Bool) : State := wHk (fun t => t.modBay 8 (fun x => { x with info := some wCart, hot := hot }))
theorem wit_cart_hot (h : Obligations.TemperaturesAndCooling) : ∃ t, exec (.cartOvertemp 8) (wHot false) = .next t :=
  ends (((h (wHot false) (by decide +kernel) (by decide +kernel)).2.2.2.2.2.2.2 8 wCart (by decide +kernel) (fun _ _ => settled_of _ (by decide +kernel) _)).1
    (by decide +kernel))
theorem wit_cart_cool (h : Obligations.TemperaturesAndCooling) : ∃ t, exec (.cartOvertempClear 8) (wHot true) = .next t :=
  ends (((h (wHot true) (by decide +kernel) (by decide +kernel)).2.2.2.2.2.2.2 8 wCart (by decide +kernel) (fun _ _ => settled_of _ (by decide +kernel) _)).2
    (by decide +kernel) (by decide +kernel) (by decide +kernel))

/-! ### Managers' messages: the hypotheses of the statements are met -/

/-- A message of manager `m`: TYPE, TERM, NEED_ACK, SEQ 5, body. -/
def zm (ty : Nat) (body : List Byte) (term : Nat := 4) (m : Nat := 0) (ack : Nat := 1) : ZMsg :=
  { hdr := BitVec.ofNat 256 (1 + ty * 2 ^ 8 + ack * 2 ^ 17 + body.length * 2 ^ 32 + 5 * 2 ^ 64 + term * 2 ^ 128 + m * 2 ^ 160)
    body := body, auth := true }
/-- Firmware runs, both sessions are up, term 4, the managers hold these leases; port 5 of chip 1 is UP. -/
def wMgr (a b : LeaseMode) (f : Tray → Tray := id) : State :=
  { wHk (fun t => f ((({ t with hal := { t.hal with up := true } } : Tray).sb mgrPg F.MGR_LINK_A_UP true).sb mgrPg F.MGR_LINK_B_UP true)) with
    leases := { a := a, b := b, term := 4, primTerm := if a = .primary ∨ b = .primary then 4 else 0 } }
theorem gets_of {t : Tray} {ty m : Nat} {z : ZMsg} (h : t.hal.up = true ∧ z.auth = true ∧ t.sessionUp m = true ∧
    fieldOf z.hdr 16 1 = 0 ∧ fieldOf z.hdr 17 1 = 1 ∧ zFormed m z = true ∧ zType z = ty ∧ t.hal.dup m (zSeq z) = none) : t.gets ty m z := h
theorem obeys_of {l : Leases} {m : Nat} {z : ZMsg} (h : l.of m = .primary ∧ zTerm z = l.term) : l.obeys m z := h
/-- A tray in which no chip runs. -/
def wDark : State := { mkS (fun t => (({ t with hal := { t.hal with up := true } } : Tray).sb mgrPg F.MGR_LINK_A_UP true).sb mgrPg
  F.MGR_LINK_B_UP true) with leases := { a := .primary, term := 4, primTerm := 4 } }

theorem wit_hello (h : Obligations.LeasesAndIdentity) : ∃ t, exec .hello (wMgr .none .none) = .next t :=
  ends ((h (wMgr .none .none) 0 (zm Z.LEASE_REQ [1]) (by decide +kernel)).1 (by decide +kernel) (by decide +kernel))
theorem wit_stale (h : Obligations.LeasesAndIdentity) : ∃ t, exec (.leaseReq 0 (zm Z.LEASE_REQ [1] 3)) (wMgr .none .none) = .next t :=
  ends (((h (wMgr .none .none) 0 (zm Z.LEASE_REQ [1] 3) (by decide +kernel)).2.1 (gets_of (by decide +kernel))).1 (by decide +kernel))
theorem wit_lease (h : Obligations.LeasesAndIdentity) :
    ∃ t, exec (.leaseReq 1 (zm Z.LEASE_REQ [2] 5 1)) (wMgr .primary .none) = .next t :=
  ends (((h (wMgr .primary .none) 1 (zm Z.LEASE_REQ [2] 5 1) (by decide +kernel)).2.1 (gets_of (by decide +kernel))).2 (by decide +kernel)
    (by decide +kernel))
theorem wit_renew_refused (h : Obligations.LeasesAndIdentity) :
    ∃ t, exec (.leaseRenew 1 (zm Z.LEASE_RENEW [] 4 1)) (wMgr .primary .none) = .next t :=
  ends (((h (wMgr .primary .none) 1 (zm Z.LEASE_RENEW [] 4 1) (by decide +kernel)).2.2.1 (gets_of (by decide +kernel))).1 (by decide +kernel))
theorem wit_renew (h : Obligations.LeasesAndIdentity) : ∃ t, exec (.leaseRenew 0 (zm Z.LEASE_RENEW [])) (wMgr .primary .none) = .next t :=
  ends (((h (wMgr .primary .none) 0 (zm Z.LEASE_RENEW []) (by decide +kernel)).2.2.1 (gets_of (by decide +kernel))).2 (by decide +kernel))
theorem wit_release_lease (h : Obligations.LeasesAndIdentity) :
    ∃ t, exec (.leaseRelease 0 (zm Z.LEASE_RELEASE [])) (wMgr .primary .secondary) = .next t :=
  ends (((h (wMgr .primary .secondary) 0 (zm Z.LEASE_RELEASE []) (by decide +kernel)).2.2.2.1 (by decide +kernel)).1 (gets_of (by decide +kernel)))
theorem wit_lapse (h : Obligations.LeasesAndIdentity) : ∃ t, exec (.leaseLapse 0) (wMgr .primary .none) = .next t :=
  ends (((h (wMgr .primary .none) 0 (zm Z.LEASE_RELEASE []) (by decide +kernel)).2.2.2.1 (by decide +kernel)).2 (by decide +kernel))
theorem wit_auth (h : Obligations.LeasesAndIdentity) :
    ∃ t, exec (.regWrite 0 { zm Z.REG_WRITE [] with auth := false }) (wMgr .primary .none) = .next t :=
  ends (((h (wMgr .primary .none) 0 { zm Z.REG_WRITE [] with auth := false } (by decide +kernel)).2.2.2.2.1 (by decide +kernel) (by decide +kernel)
    (by decide +kernel)).1 (by decide +kernel)).2.1
theorem wit_bad_msg (h : Obligations.LeasesAndIdentity) : ∃ t, exec (.leaseReq 0 (zm Z.LEASE_REQ [3])) (wMgr .primary .none) = .next t :=
  ends (((h (wMgr .primary .none) 0 (zm Z.LEASE_REQ [3]) (by decide +kernel)).2.2.2.2.1 (by decide +kernel) (by decide +kernel)
    (by decide +kernel)).2 (by decide +kernel) (by decide +kernel) (by decide +kernel) (by decide +kernel)).1
def wWaits (n : Nat) : ZWait := { mgr := 0, seq := 9, hdr := 3, body := [1], resends := n }
def wResend (n : Nat) : State := wMgr .none .none (fun t => { t with hal := { t.hal with waits := [wWaits n] } })
theorem wit_resend (h : Obligations.LeasesAndIdentity) : ∃ t, exec (.zmpResend 0 9) (wResend 2) = .next t :=
  ends (((h (wResend 2) 0 (zm Z.LEASE_REQ [1]) (by decide +kernel)).2.2.2.2.2.1 9 (wWaits 2) (by decide +kernel)).1 (by decide +kernel))
theorem wit_silent (h : Obligations.LeasesAndIdentity) : ∃ t, exec (.zmpResend 0 9) (wResend 3) = .next t :=
  ends (((h (wResend 3) 0 (zm Z.LEASE_REQ [1]) (by decide +kernel)).2.2.2.2.2.1 9 (wWaits 3) (by decide +kernel)).2 (by decide +kernel))
/-- Rack 0x1234; port 5 of chip 1 cabled. -/
def idBody : List Byte := leBytes 4 0x1234 ++ leBytes 4 0 ++ leBytes 8 0 ++ leBytes 8 32 ++ leBytes 24 0
theorem wit_identity_np (h : Obligations.LeasesAndIdentity) :
    ∃ t, exec (.identity 0 (zm Z.IDENTITY idBody)) (wMgr .secondary .primary) = .next t :=
  ends (((h (wMgr .secondary .primary) 0 (zm Z.IDENTITY idBody) (by decide +kernel)).2.2.2.2.2.2.1 (gets_of (by decide +kernel))).1 (by decide +kernel))
theorem wit_identity_stale (h : Obligations.LeasesAndIdentity) :
    ∃ t, exec (.identity 0 (zm Z.IDENTITY idBody 5)) (wMgr .primary .none) = .next t :=
  ends (((h (wMgr .primary .none) 0 (zm Z.IDENTITY idBody 5) (by decide +kernel)).2.2.2.2.2.2.1 (gets_of (by decide +kernel))).2.1
    (by decide +kernel) (by decide +kernel))
def wRack (n : Nat) : State := wMgr .primary .none (fun t => { t with hal := { t.hal with rack := some n } })
theorem wit_identity_other (h : Obligations.LeasesAndIdentity) : ∃ t, exec (.identity 0 (zm Z.IDENTITY idBody)) (wRack 7) = .next t :=
  ends (((h (wRack 7) 0 (zm Z.IDENTITY idBody) (by decide +kernel)).2.2.2.2.2.2.1 (gets_of (by decide +kernel))).2.2.1
    (obeys_of (by decide +kernel)) ⟨7, by decide +kernel, by decide +kernel⟩)
theorem wit_identity (h : Obligations.LeasesAndIdentity) : ∃ t, exec (.identity 0 (zm Z.IDENTITY idBody)) (wRack 0x1234) = .next t :=
  ends (((h (wRack 0x1234) 0 (zm Z.IDENTITY idBody) (by decide +kernel)).2.2.2.2.2.2.1 (gets_of (by decide +kernel))).2.2.2
    (obeys_of (by decide +kernel)) (by decide +kernel) (by decide +kernel))
/-- A map of generation `g`: `e` for slot 3, the other slots unassigned. -/
def mapBody (g e : Nat) : List Byte :=
  leBytes 4 g ++ leBytes 4 0 ++ [0xF0, 0, 0xF0, 0, 0xF0, 0] ++ leBytes 2 e ++ [0xF0, 0, 0xF0, 0, 0xF0, 0, 0xF0, 0, 0xF0, 0]
def wSlot (f : Tray → Tray := id) : State :=
  wMgr .primary .secondary (fun t => f ((t.sf hkPg F.HK_SLOT_SLOT 3).sf mgrPg F.MGR_MAP_MAP_GEN 6))
theorem wit_map_np (h : Obligations.LeasesAndIdentity) :
    ∃ t, exec (.planeMap 0 (zm Z.PLANE_MAP (mapBody 7 0x21))) (wMgr .none .primary) = .next t :=
  ends (((h (wMgr .none .primary) 0 (zm Z.PLANE_MAP (mapBody 7 0x21)) (by decide +kernel)).2.2.2.2.2.2.2.1 (gets_of (by decide +kernel))).1 (by decide +kernel))
theorem wit_map_term (h : Obligations.LeasesAndIdentity) : ∃ t, exec (.planeMap 1 (zm Z.PLANE_MAP (mapBody 7 0x21) 3 1)) wSlot = .next t :=
  ends (((h wSlot 1 (zm Z.PLANE_MAP (mapBody 7 0x21) 3 1) (by decide +kernel)).2.2.2.2.2.2.2.1 (gets_of (by decide +kernel))).2.1 (by decide +kernel)
    (by decide +kernel))
theorem wit_map_stale (h : Obligations.LeasesAndIdentity) : ∃ t, exec (.planeMap 0 (zm Z.PLANE_MAP (mapBody 5 0x21))) wSlot = .next t :=
  ends ((((h wSlot 0 (zm Z.PLANE_MAP (mapBody 5 0x21)) (by decide +kernel)).2.2.2.2.2.2.2.1 (gets_of (by decide +kernel))).2.2 (by decide +kernel)
    (by decide +kernel)).1 (by decide +kernel))
theorem wit_map_conflict (h : Obligations.LeasesAndIdentity) : ∃ t, exec (.planeMap 0 (zm Z.PLANE_MAP (mapBody 6 0x21))) wSlot = .next t :=
  ends ((((h wSlot 0 (zm Z.PLANE_MAP (mapBody 6 0x21)) (by decide +kernel)).2.2.2.2.2.2.2.1 (gets_of (by decide +kernel))).2.2 (by decide +kernel)
    (by decide +kernel)).2.1 (by decide +kernel))
theorem wit_map_refused (h : Obligations.LeasesAndIdentity) : ∃ t, exec (.planeMap 0 (zm Z.PLANE_MAP (mapBody 7 0x91))) wSlot = .next t :=
  ends ((((h wSlot 0 (zm Z.PLANE_MAP (mapBody 7 0x91)) (by decide +kernel)).2.2.2.2.2.2.2.1 (gets_of (by decide +kernel))).2.2 (by decide +kernel)
    (by decide +kernel)).2.2.1 (by decide +kernel) (by decide +kernel))
theorem wit_map (h : Obligations.LeasesAndIdentity) : ∃ t, exec (.planeMap 1 (zm Z.PLANE_MAP (mapBody 7 0x21) 4 1)) wSlot = .next t :=
  ends ((((h wSlot 1 (zm Z.PLANE_MAP (mapBody 7 0x21) 4 1) (by decide +kernel)).2.2.2.2.2.2.2.1 (gets_of (by decide +kernel))).2.2 (by decide +kernel)
    (by decide +kernel)).2.2.2 (by decide +kernel) (by decide +kernel) (by decide +kernel) (by decide +kernel))
theorem wit_spdm (h : Obligations.LeasesAndIdentity) :
    ∃ t, exec (.spdm 0 (zm Z.SPDM [1, 2] 0 0 0) .finish true) (wMgr .none .none (fun t => { t with hal := { t.hal with kexA := true } })) = .next t :=
  ends ((h (wMgr .none .none (fun t => { t with hal := { t.hal with kexA := true } })) 0 (zm Z.SPDM [1, 2] 0 0 0) (by decide +kernel)).2.2.2.2.2.2.2.2
    .finish true (by decide +kernel) (by decide +kernel) (by decide +kernel) (by decide +kernel) (by decide +kernel))

def wLog : State := wMgr .secondary .none (fun t => { t with fram := { t.fram with log := [5, 9], nextSeq := 2 } })
theorem wit_log_read (h : Obligations.RegistersLogAndTests) : ∃ t, exec (.logRead 0 (zm Z.LOG_READ [0, 0, 0, 0, 1])) wLog = .next t :=
  ends ((h wLog 0 (zm Z.LOG_READ [0, 0, 0, 0, 1]) (by decide +kernel)).1 (gets_of (by decide +kernel)))
/-- TRAIN_CTL of port 5 of chip 1. -/
def rdBody (n : Nat) : List Byte := [1, BitVec.ofNat 8 n, 0, 0, 0, 0, 0, 0] ++ leBytes 8 ((portPg 1 5 - 4096) * 4096 + A.PORT_TRAIN_CTL)
theorem wit_reg_read (h : Obligations.RegistersLogAndTests) :
    ∃ t, exec (.regRead 0 (zm Z.REG_READ (rdBody 2))) (wMgr .secondary .none) = .next t :=
  ends (((h (wMgr .secondary .none) 0 (zm Z.REG_READ (rdBody 2)) (by decide +kernel)).2.1 (gets_of (by decide +kernel))).1)
theorem wit_reg_read_one (h : Obligations.RegistersLogAndTests) :
    ∃ t, exec (.regRead 0 (zm Z.REG_READ (rdBody 1))) (wMgr .secondary .none) = .next t :=
  ends (((h (wMgr .secondary .none) 0 (zm Z.REG_READ (rdBody 1)) (by decide +kernel)).2.1 (gets_of (by decide +kernel))).2
    (by decide +kernel) (by decide +kernel) (by decide +kernel) (by decide +kernel))
def wrBody (tgt : Byte) (v : Nat) : List Byte :=
  [tgt, 1, 0, 0, 0, 0, 0, 0] ++ leBytes 8 ((portPg 1 5 - 4096) * 4096 + A.PORT_TRAIN_CTL) ++ leBytes 8 v
theorem wit_reg_write (h : Obligations.RegistersLogAndTests) :
    ∃ t, exec (.regWrite 0 (zm Z.REG_WRITE (wrBody 1 9))) (wMgr .primary .none) = .next t :=
  ends (((h (wMgr .primary .none) 0 (zm Z.REG_WRITE (wrBody 1 9)) (by decide +kernel)).2.2.1 (gets_of (by decide +kernel)) (obeys_of (by decide +kernel))).1)
theorem wit_reg_write_one (h : Obligations.RegistersLogAndTests) :
    ∃ t, exec (.regWrite 0 (zm Z.REG_WRITE (wrBody 2 9))) (wMgr .primary .none) = .next t :=
  ends (((h (wMgr .primary .none) 0 (zm Z.REG_WRITE (wrBody 2 9)) (by decide +kernel)).2.2.1 (gets_of (by decide +kernel)) (obeys_of (by decide +kernel))).2
    1 (by decide +kernel) (by decide +kernel) (by decide +kernel) (by decide +kernel))
theorem wit_reg_write_np (h : Obligations.RegistersLogAndTests) :
    ∃ t, exec (.regWrite 0 (zm Z.REG_WRITE (wrBody 2 9))) (wMgr .secondary .primary) = .next t :=
  ends ((h (wMgr .secondary .primary) 0 (zm Z.REG_WRITE (wrBody 2 9)) (by decide +kernel)).2.2.2.1 (gets_of (by decide +kernel)) (by decide +kernel))
theorem wit_digest (h : Obligations.RegistersLogAndTests) :
    ∃ t, exec (.cfgDigest 1 (zm Z.CFG_DIGEST [] 4 1)) (wMgr .none .secondary) = .next t :=
  ends ((h (wMgr .none .secondary) 1 (zm Z.CFG_DIGEST [] 4 1) (by decide +kernel)).2.2.2.2.1 (gets_of (by decide +kernel)))
def wDumps : State := wMgr .primary .secondary (fun t => { t with hal := { t.hal with bridge := { t.hal.bridge with
  rings := [(2, [{ seq := 3, data := [1] }, { seq := 4, data := [2] }])], acked := [(4, 3), (5, 4)] } } })
theorem wit_dump_ack (h : Obligations.RegistersLogAndTests) :
    ∃ t, exec (.dumpAck 0 (zm Z.DUMP_ACK ([2, 0, 0, 0, 0, 0, 0, 0] ++ leBytes 8 4))) wDumps = .next t :=
  ends ((h wDumps 0 (zm Z.DUMP_ACK ([2, 0, 0, 0, 0, 0, 0, 0] ++ leBytes 8 4)) (by decide +kernel)).2.2.2.2.2.1 (gets_of (by decide +kernel)))
/-- Ports 5 of chips 1 and 2 listed, 10 s, both phases. -/
def wtBody (ph : Byte) : List Byte := leBytes 8 0 ++ leBytes 8 32 ++ leBytes 8 32 ++ leBytes 16 0 ++ leBytes 4 10000 ++ [ph, 0]
def wTester (role : Nat) (w : Option WireTest) (f : Tray → Tray := id) : State := wMgr .primary .none (fun t =>
  f ({ t with hal := { t.hal with wire := w } }.each (List.range 5) (fun t c => t.sf (chip0 c) F.CHIP_TOPO_ROLE role)))
theorem wit_wire_refused (h : Obligations.RegistersLogAndTests) :
    ∃ t, exec (.wireTest 0 (zm Z.WIRE_TEST (wtBody 3))) (wTester 1 none) = .next t :=
  ends (((h (wTester 1 none) 0 (zm Z.WIRE_TEST (wtBody 3)) (by decide +kernel)).2.2.2.2.2.2.1 (gets_of (by decide +kernel)) (obeys_of (by decide +kernel))).1
    (by decide +kernel))
def wtRun (ph : Nat) : WireTest := { ports := [69], duration := 10000, phases := ph, fomMin := 96 }
theorem wit_wire_busy (h : Obligations.RegistersLogAndTests) :
    ∃ t, exec (.wireTest 0 (zm Z.WIRE_TEST (wtBody 3))) (wTester 2 (some (wtRun 3))) = .next t :=
  ends (((h (wTester 2 (some (wtRun 3))) 0 (zm Z.WIRE_TEST (wtBody 3)) (by decide +kernel)).2.2.2.2.2.2.1 (gets_of (by decide +kernel))
    (obeys_of (by decide +kernel))).2.1 (by decide +kernel) (by decide +kernel))
theorem wit_wire (h : Obligations.RegistersLogAndTests) :
    ∃ t, exec (.wireTest 0 (zm Z.WIRE_TEST (wtBody 3))) (wTester 2 none) = .next t :=
  ends (((h (wTester 2 none) 0 (zm Z.WIRE_TEST (wtBody 3)) (by decide +kernel)).2.2.2.2.2.2.1 (gets_of (by decide +kernel))
    (obeys_of (by decide +kernel))).2.2 (by decide +kernel) (by decide +kernel))
/-- A test runs; the lanes of port 5 of chip 1 counted codewords, each at FOM 200. -/
def wtGood (g : Nat) : State := wTester 2 (some (wtRun 3)) (fun t =>
  t.each (lanesOf 5) (fun t n => t.modLane 1 n (fun l => { l with tMin := g, tUnc := 0 })))
def wtBad (g : Nat) : State := { wtGood g with tray := (wtGood g).tray.modPort 1 5 (fun p => { p with ident := some { wIdent with caps := 1 } }) }
theorem wit_phase_pass (h : Obligations.RegistersLogAndTests) : ∃ t, exec (.wireTestPhaseEnd []) (wtGood 200) = .next t :=
  ends (((h (wtGood 200) 0 (zm Z.WIRE_TEST (wtBody 3)) (by decide +kernel)).2.2.2.2.2.2.2.1 [] (wtRun 3) (by decide +kernel)
    (fun c _ => settled_of _ (by decide +kernel) c) (by decide +kernel) (by decide +kernel)).1 (by decide +kernel) (by decide +kernel))
theorem wit_phase_loop (h : Obligations.RegistersLogAndTests) : ∃ t, exec (.wireTestPhaseEnd []) (wtBad 90) = .next t :=
  ends (((h (wtBad 90) 0 (zm Z.WIRE_TEST (wtBody 3)) (by decide +kernel)).2.2.2.2.2.2.2.1 [] (wtRun 3) (by decide +kernel)
    (fun c _ => settled_of _ (by decide +kernel) c) (by decide +kernel) (by decide +kernel)).2 (by decide +kernel) (by decide +kernel))
theorem wit_lane_stats (h : Obligations.RegistersLogAndTests) : ∃ t, exec .laneStats (wtGood 200) = .next t :=
  ends ((h (wtGood 200) 0 (zm Z.WIRE_TEST (wtBody 3)) (by decide +kernel)).2.2.2.2.2.2.2.2.1 (by decide +kernel)).1
theorem wit_wear_msg (h : Obligations.RegistersLogAndTests) : ∃ t, exec .wear (wMgr .none .none) = .next t :=
  ends ((h (wMgr .none .none) 0 (zm Z.WIRE_TEST (wtBody 3)) (by decide +kernel)).2.2.2.2.2.2.2.2.1 (by decide +kernel)).2
def wEntry : LogEntry := { ev := .authFail, src := 1, time := 3, data := [1] }
def wQueue : State := wHk (fun t => { t with logq := [wEntry], fram := { t.fram with log := [5], nextSeq := 1 } })
theorem wit_entry (h : Obligations.RegistersLogAndTests) (r : FramResult) : ∃ t, exec (.logEntryWrite r) wQueue = .next t := by
  have x := (h wQueue 0 (zm Z.WIRE_TEST (wtBody 3)) (by decide +kernel)).2.2.2.2.2.2.2.2.2 wEntry [] (by decide +kernel) (by decide +kernel)
    (by decide +kernel)
  cases r
  · exact ends x.1
  · exact ends x.2.1
  · exact ends x.2.2.1
  · exact ends x.2.2.2

/-! ### Registers, staging, clocks, aborts: the hypotheses of the statements are met -/

/-- Chip 1 runs with every lock; port 5 of it is UP. -/
def wReg (f : Tray → Tray := id) : State := wPort S.UP (fun t => f (t.each
  [F.CHIP_CLK_STS_REF_OK, F.CHIP_CLK_STS_CORE_LOCK, F.CHIP_CLK_STS_PCI_LOCK, F.CHIP_CLK_STS_DEAL_LOCK, F.CHIP_CLK_STS_HBM0_LOCK,
   F.CHIP_CLK_STS_HBM1_LOCK, F.CHIP_CLK_STS_TIME_LOCKED] (fun t g => t.sb (chip0 1) g true) |>.setChipOn 1 true))
theorem wReg_settled (c : Nat) : wReg.tray.settled c := settled_of _ (by decide +kernel) c
/-- A register that the table describes. -/
theorem found_of {pg off : Nat} (h : (findReg pg off).isSome = true) : ∃ r, findReg pg off = some r := Option.isSome_iff_exists.1 h

theorem wit_write (h : Obligations.RegisterWriteSetsRwFields) : ∃ t, exec (.registerWrite 1 0x060 0x118 77) wReg = .next t := by
  obtain ⟨r, hr⟩ := found_of (pg := 4096 + 0x060) (off := 0x118) (by decide +kernel)
  have e : (findReg (4096 + 0x060) 0x118).map (fun r => (r.rwsMask, r.fields.all (fun f => f.acc != .w1c))) = some (0, true) := by decide +kernel
  rw [hr, Option.map_some, Option.some.injEq, Prod.mk.injEq] at e
  have k : pageKind (4096 + 0x060) = some .kit0 := by decide +kernel
  refine ends (h wReg 1 0x060 0x118 77 r (by decide +kernel) (by decide +kernel) (by decide +kernel) hr (by rw [e.1]; exact BitVec.and_zero)
    ⟨fun _ => ⟨fun a => absurd (k ▸ a.1) (by decide +kernel), fun _ => ?_⟩, fun a => absurd a (by decide +kernel)⟩
    (fun f hf => by have := List.all_eq_true.1 e.2 f hf; simpa using this) (wReg_settled 1))
  show wReg.tray.writeChip (4096 + 0x060) 0x118 r 77 (Origin.wr 0 0x118) = none
  unfold Tray.writeChip
  rw [k]
theorem wit_irq_clear (h : Obligations.RegisterWriteClears) : ∃ t, exec (.registerWrite 1 0x015 0x020 3) wReg = .next t :=
  ends ((h wReg 1 0x015 3 (wReg_settled 1)).1 (by decide +kernel))
theorem wit_capt_clear (h : Obligations.RegisterWriteClears) : ∃ t, exec (.registerWrite 1 0x015 0x060 (2 ^ 63)) wReg = .next t :=
  ends ((h wReg 1 0x015 (2 ^ 63) (wReg_settled 1)).2 (by decide +kernel) (by decide +kernel) (by decide +kernel))
theorem wit_width (h : Obligations.AccessNotPerformed) : ∃ t, exec (.unsupportedRequest 1 0x015 0x104 4 true) wReg = .next t :=
  ends ((h wReg 0x015 0x104 true).1 1 4 (by decide +kernel) (by decide +kernel) (by decide +kernel) (by decide +kernel))
theorem wit_page (h : Obligations.AccessNotPerformed) : ∃ t, exec (.unimplementedPageAccess 1 0x070 0x100 false) wReg = .next t :=
  ends ((h wReg 0x070 0x100 false).2.1 1 (by decide +kernel) (by decide +kernel))
def wNoDeal : State := wReg (fun t => t.sb (chip0 1) F.CHIP_CLK_STS_DEAL_LOCK false)
theorem wit_down (h : Obligations.AccessNotPerformed) : ∃ t, exec (.domainDown 1 0x300 0x100 true) wNoDeal = .next t :=
  ends ((h wNoDeal 0x300 0x100 true).2.2 1 (by decide +kernel) (by decide +kernel) (by decide +kernel) (by decide +kernel) (by decide +kernel))
theorem wit_read (h : Obligations.ReadAnswersAndClears) : ∃ t, exec (.registerReadClear 1 0x040 0x118) wReg = .next t := by
  obtain ⟨r, hr⟩ := found_of (pg := 4096 + 0x040) (off := 0x118) (by decide +kernel)
  exact ends ((h wReg 1 0x040 0x118 (by decide +kernel) (by decide +kernel)).1 r hr (by decide +kernel))
theorem wit_read_empty (h : Obligations.ReadAnswersAndClears) : ∃ t, exec (.registerReadClear 1 0x040 0x7F8) wReg = .next t :=
  ends ((h wReg 1 0x040 0x7F8 (by decide +kernel) (by decide +kernel)).2 (by decide +kernel) (by decide +kernel))
theorem wit_bar2 (h : Obligations.MsixTableAndMessages) : ∃ t, exec (.bar2Access 1 0x034 4 true 9) wReg = .next t :=
  ends ((h wReg 1 (by decide +kernel)).1 0x034 9 (by decide +kernel)).2
def wMsi : State := wReg (fun t => { t with msiReq := [19] })
theorem wit_msix (h : Obligations.MsixTableAndMessages) : ∃ t, exec (.msixMessage 1 3) wMsi = .next t :=
  ends ((h wMsi 1 (by decide +kernel)).2 3 (by decide +kernel))
def wPend (p : Nat) (f : Tray → Tray := id) : State := wReg (fun t => f (t.sb (4096 + p) F.PG_COMMIT_STS_PENDING true))
theorem staged_reg_of {pg off : Nat} (h : (findReg pg off).map (fun r => (r.rwsMask != 0, r.off == A.CNT_DUMP_CFG)) = some (true, false)) :
    ∃ r, findReg pg off = some r ∧ r.rwsMask ≠ 0 ∧ r.off ≠ A.CNT_DUMP_CFG := by
  cases e : findReg pg off with
  | none => rw [e] at h; cases h
  | some r =>
    rw [e, Option.map_some, Option.some.injEq, Prod.mk.injEq] at h
    exact ⟨r, rfl, by simpa using h.1, by simpa using h.2⟩
theorem wit_shadow (h : Obligations.ShadowWriteStages) : ∃ t, exec (.shadowWrite 1 0x015 0x810 3) wReg = .next t := by
  obtain ⟨r, hr, hm, ho⟩ := staged_reg_of (pg := 4117) (off := 0x010) (by decide +kernel)
  exact ends ((h wReg 1 0x015 0x810 3 r (by decide +kernel) (by decide +kernel) hr hm).1 (by decide +kernel) (fun a => ho a.1))
theorem wit_shadow_locked (h : Obligations.ShadowWriteStages) : ∃ t, exec (.shadowWrite 1 0x015 0x810 3) (wPend 0x015) = .next t := by
  obtain ⟨r, hr, hm, _⟩ := staged_reg_of (pg := 4117) (off := 0x010) (by decide +kernel)
  exact ends ((h (wPend 0x015) 1 0x015 0x810 3 r (by decide +kernel) (by decide +kernel) hr hm).2 (by decide +kernel) (by decide +kernel))
theorem wit_commit (h : Obligations.CommitPendsAndTimesOut) : ∃ t, exec (.commit 1 0x015) wReg = .next t :=
  ends (((h wReg 1 0x015).1 (by decide +kernel) (wReg_settled 1) (by decide +kernel)).1 (by decide +kernel))
theorem wit_commit_lane (h : Obligations.CommitPendsAndTimesOut) : ∃ t, exec (.commit 1 0x114) wReg = .next t :=
  ends (((h wReg 1 0x114).1 (by decide +kernel) (wReg_settled 1) (by decide +kernel)).2 (by decide +kernel) (by decide +kernel) (by decide +kernel))
theorem wit_commit_timeout (h : Obligations.CommitPendsAndTimesOut) : ∃ t, exec (.commitTimeout 1 0x015) (wPend 0x015) = .next t :=
  ends ((h (wPend 0x015) 1 0x015).2 (by decide +kernel) (by decide +kernel) (by decide +kernel))
theorem wit_topo_first (h : Obligations.ChipTopoLocksIdentity) : ∃ t, exec (.chipTopoWrite 1 0x123456789) wReg = .next t :=
  ends ((h wReg 1 0x123456789 (by decide +kernel) (wReg_settled 1)).1 (by decide +kernel))
def wTopo : State := wReg (fun t => t.sb (chip0 1) F.CHIP_TOPO_TOPO_VALID true)
theorem wit_topo (h : Obligations.ChipTopoLocksIdentity) : ∃ t, exec (.chipTopoWrite 1 0x123456789) wTopo = .next t :=
  ends ((h wTopo 1 0x123456789 (by decide +kernel) (settled_of _ (by decide +kernel) 1)).2 (by decide +kernel))
theorem wit_clk (h : Obligations.DealerClockFollowsTarget) : ∃ t, exec (.dealClkRequest 1 1000) wReg = .next t :=
  ends ((h wReg 1).1 1000 (by decide +kernel) (wReg_settled 1) (by decide +kernel) (by decide +kernel) (by decide +kernel))
def wChanging : State := wReg (fun t => ((t.sb (chip0 1) F.CHIP_DEAL_CLK_CHANGING true).sf (chip0 1) F.CHIP_DEAL_CLK_CAP_MHZ 1250).modChip 1
  (fun x => { x with chgTarget := 900 }))
theorem wit_clk_done (h : Obligations.DealerClockFollowsTarget) : ∃ t, exec (.dealClkChangeDone 1) wChanging = .next t :=
  ends ((h wChanging 1).2.1 (by decide +kernel) (by decide +kernel) (by decide +kernel))
theorem wit_clk_cap (h : Obligations.DealerClockFollowsTarget) : ∃ t, exec (.dealCapChange 1 700) wReg = .next t :=
  ends ((h wReg 1).2.2.1 700 (by decide +kernel))
def wScrub : State := wReg (fun t => t.sb (chip0 1) F.CHIP_BG_CTL_HBM_SCRUB false)
theorem wit_scrub (h : Obligations.DealerClockFollowsTarget) : ∃ t, exec (.scrubReenable 1 2) wScrub = .next t :=
  ends ((h wScrub 1).2.2.2 2 (by decide +kernel) (by decide +kernel))
theorem wit_dealer_pll (h : Obligations.ClockEvents) : ∃ t, exec (.dealerPllUnlock 1) wReg = .next t :=
  ends ((h wReg 1).1 (by decide +kernel) (by decide +kernel))
theorem wit_pcie_down (h : Obligations.ClockEvents) : ∃ t, exec (.pcieLinkDown 1) wReg = .next t := ends ((h wReg 1).2.1 (by decide +kernel))
theorem wit_pcie_up (h : Obligations.ClockEvents) : ∃ t, exec (.pcieLinkRetrained 1) wReg = .next t :=
  ends ((h wReg 1).2.2.1 (by decide +kernel) (by decide +kernel))
theorem wit_discipline (h : Obligations.ClockEvents) : ∃ t, exec (.disciplineLoss 1) wReg = .next t := ends ((h wReg 1).2.2.2.1 (by decide +kernel))
theorem wit_regain (h : Obligations.ClockEvents) : ∃ t, exec (.disciplineRegain 1 4) wReg = .next t :=
  ends ((h wReg 1).2.2.2.2.1 4 (by decide +kernel) (by decide +kernel) (by decide +kernel))
def wNoCore : State := wReg (fun t => t.sb (chip0 1) F.CHIP_CLK_STS_CORE_LOCK false)
theorem wit_core_relock (h : Obligations.ClockEvents) : ∃ t, exec (.corePllRelock 1) wNoCore = .next t :=
  ends ((h wNoCore 1).2.2.2.2.2.1 (by decide +kernel) (by decide +kernel))
theorem wit_recal (h : Obligations.ClockEvents) : ∃ t, exec (.txPllRecal 1 5) wReg = .next t :=
  ends ((h wReg 1).2.2.2.2.2.2 5 (by decide +kernel) (by decide +kernel) (by decide +kernel))
theorem wit_abort_table (h : Obligations.AbortAdvancesEpoch) : ∃ t, exec (.tableAbort 1 7) wReg = .next t :=
  ends ((h wReg 1).2.2.2.1 7 (by decide +kernel) (by decide +kernel))
theorem wit_abort_port (h : Obligations.AbortAdvancesEpoch) : ∃ t, exec (.portAbort 1 5) wReg = .next t :=
  ends ((h wReg 1).2.2.2.2.2 5 (by decide +kernel) (by decide +kernel))
def wAborting (p : Nat) (f : Tray → Tray := id) : State := wReg (fun t => f (t.sb (4096 + p) F.PG_ABORT_STS_IN_PROGRESS true))
theorem wit_abort_again (h : Obligations.AbortInProgressIgnoresGo) : ∃ t, exec (.dumpAbort 1) (wAborting 0x340) = .next t :=
  ends ((h (wAborting 0x340) 1 (settled_of _ (by decide +kernel) 1)).1 (by decide +kernel) (by decide +kernel))
theorem wit_quiesce (h : Obligations.QuiesceAndAbortEnd) : ∃ t, exec (.wholeChipQuiesce 1) wReg = .next t :=
  ends ((h wReg).1 1 (by decide +kernel) (by decide +kernel))
theorem wit_no_function (h : Obligations.QuiesceAndAbortEnd) : ∃ t, exec (.noFunction 1 0x060) wReg = .next t :=
  ends ((h wReg).2.1 1 0x060 (by decide +kernel) (by decide +kernel) (wReg_settled 1) (by decide +kernel))
theorem wit_abort_done (h : Obligations.QuiesceAndAbortEnd) : ∃ t, exec (.abortDone 1 0x000 200) (wAborting 0) = .next t :=
  ends ((h (wAborting 0)).2.2.1 1 0x000 200 (by decide +kernel) (by decide +kernel) (by decide +kernel) (by decide +kernel)
    (fun d _ => settled_of _ (by decide +kernel) d))
def wTblAbort : State := wAborting 0x207 (fun t => t.sf (tblPg 1 7) F.TBL_STS_STATE T.ABORTING)
theorem wit_table_done (h : Obligations.QuiesceAndAbortEnd) : ∃ t, exec (.abortDone 1 0x207 30) wTblAbort = .next t :=
  ends ((h wTblAbort).2.2.2 1 7 30 (by decide +kernel) (by decide +kernel) (by decide +kernel) (fun d _ => settled_of _ (by decide +kernel) d))
theorem wit_ref (h : Obligations.LockLossesCutTheirBlocks) : ∃ t, exec (.refLoss 1) wReg = .next t :=
  ends ((h wReg 1 (by decide +kernel)).1 (by decide +kernel) (by decide +kernel) (by decide +kernel))
theorem wit_core_unlock (h : Obligations.LockLossesCutTheirBlocks) : ∃ t, exec (.corePllUnlock 1) wReg = .next t :=
  ends ((h wReg 1 (by decide +kernel)).2.1 (by decide +kernel))
theorem wit_dealer_plls (h : Obligations.LockLossesCutTheirBlocks) : ∃ t, exec (.allDealerPllsUnlock 1) wReg = .next t :=
  ends ((h wReg 1 (by decide +kernel)).2.2.1 (by decide +kernel))
theorem wit_hbm_pll (h : Obligations.LockLossesCutTheirBlocks) : ∃ t, exec (.hbmPllUnlock 1 1) wReg = .next t :=
  ends ((h wReg 1 (by decide +kernel)).2.2.2.1 1 (by decide +kernel) (by decide +kernel))
theorem wit_tx_pll (h : Obligations.LockLossesCutTheirBlocks) : ∃ t, exec (.txPllUnlock 1 5) wReg = .next t :=
  ends ((h wReg 1 (by decide +kernel)).2.2.2.2 5 (by decide +kernel) (by decide +kernel))
theorem wit_page_enable (h : Obligations.StagedFieldsSwapTogether) : ∃ t, exec (.pgCtlEnableWrite 1 0x060 0) wReg = .next t :=
  ends ((h wReg 1 0x060).1 0 (by decide +kernel) (by decide +kernel) (by decide +kernel) (by decide +kernel) (wReg_settled 1))
def wSeatCommit : State := wPend 0x383
theorem wit_swap (h : Obligations.StagedFieldsSwapTogether) : ∃ t, exec (.commitSafePoint 1 0x383) wSeatCommit = .next t :=
  ends (((h wSeatCommit 1 0x383).2.1 (by decide +kernel) (by decide +kernel) (by decide +kernel) (by decide +kernel) (by decide +kernel)
    (by decide +kernel) (by decide +kernel) (fun d _ => settled_of _ (by decide +kernel) d)).1 (by decide +kernel))
def wDirty : State := wReg (fun t => { t with dirty := [4096 + 0x383] })
theorem wit_rederive (h : Obligations.StagedFieldsSwapTogether) : ∃ t, exec (.rederive 1 0x383) wDirty = .next t :=
  ends ((h wDirty 1 0x383).2.2 (by decide +kernel) (by decide +kernel) (by decide +kernel) (by decide +kernel) (by decide +kernel) (by decide +kernel))
theorem wit_parity (h : Obligations.LostCrossingsAndAgedItems) : ∃ t, exec (.crossParity 1 (.regWrite 0x015 0x118)) wReg = .next t :=
  ends ((h wReg 1 (wReg_settled 1)).1 0x015 0x118 (by decide +kernel) (by decide +kernel))
theorem wit_parity_sum (h : Obligations.LostCrossingsAndAgedItems) : ∃ t, exec (.crossParity 1 (.contribution 7)) wReg = .next t :=
  ends ((h wReg 1 (wReg_settled 1)).2.1 7)
def wSeatBad : State := wPend 0x383 (fun t => t.sf (4096 + 0x383) F.SEAT_XLT_SIZE_SIZE.shadow 32769)
theorem wit_swap_bad (h : Obligations.StagedFieldsSwapTogether) : ∃ t, exec (.commitSafePoint 1 0x383) wSeatBad = .next t :=
  ends (((h wSeatBad 1 0x383).2.1 (by decide +kernel) (by decide +kernel) (by decide +kernel) (by decide +kernel) (by decide +kernel)
    (by decide +kernel) (by decide +kernel) (fun d _ => settled_of _ (by decide +kernel) d)).2 (by decide +kernel) (by decide +kernel))
theorem wit_aged_core (h : Obligations.LostCrossingsAndAgedItems) : ∃ t, exec (.itemAgeExpiry 1 (.core 4)) (wCore [kData]) = .next t :=
  ends ((h (wCore [kData]) 1 (settled_of _ (by decide +kernel) 1)).2.2.2 4 kData (by decide +kernel))
def wHeldIn : State := mkS (fun t => (runs 1 t).modDealer 1 (fun d => { d with inboxes := [(3, { held := [(5, pData)] })] }))
theorem wit_aged_inbox (h : Obligations.LostCrossingsAndAgedItems) : ∃ t, exec (.itemAgeExpiry 1 (.inbox 3 5)) wHeldIn = .next t :=
  ends ((h wHeldIn 1 (settled_d (by decide +kernel) 1)).2.2.1 3 5 (5, pData) (by decide +kernel))

/-! ### Firmware, time, Redfish, console: the hypotheses of the statements are met -/

def wFw (f : Tray → Tray := id) (a : LeaseMode := .primary) : State := wMgr a .none f
/-- A bundle whose components all have version 1.2.3, security version 4. -/
def wBundle : BundleInfo := { year := 2031, nn := 7, vers := List.replicate 4 ⟨1, 2, 3, 4⟩, sigOk := true }
def zBegin : ZMsg := zm Z.FW_BEGIN (leBytes 8 3 ++ List.replicate 48 1)
theorem wit_fw_begin (h : Obligations.FirmwareAndTime) : ∃ t, exec (.fwBegin 0 zBegin) wFw = .next t :=
  ends ((h wFw 0 zBegin (by decide +kernel)).1 (gets_of (by decide +kernel)) (obeys_of (by decide +kernel)))
def zData (off : Nat) : ZMsg := zm Z.FW_DATA (leBytes 8 off ++ [97, 98])
def wBundleStaged (st : Staging) (f : FramSt → FramSt := id) : State := wFw (fun t => { t with hal := { t.hal with staging := some st }, fram := f t.fram })
def st3 : Staging := { len := 3, hash := [], pieces := [(0, [1, 2, 3])] }
theorem wit_fw_data_none (h : Obligations.FirmwareAndTime) : ∃ t, exec (.fwData 0 (zData 0)) wFw = .next t :=
  ends (((h wFw 0 (zData 0) (by decide +kernel)).2.1 (gets_of (by decide +kernel)) (obeys_of (by decide +kernel))).1 (by decide +kernel))
theorem wit_fw_data_long (h : Obligations.FirmwareAndTime) : ∃ t, exec (.fwData 0 (zData 2)) (wBundleStaged st3) = .next t :=
  ends (((h (wBundleStaged st3) 0 (zData 2) (by decide +kernel)).2.1 (gets_of (by decide +kernel)) (obeys_of (by decide +kernel))).2.1 st3
    (by decide +kernel) (by decide +kernel))
theorem wit_fw_data (h : Obligations.FirmwareAndTime) : ∃ t, exec (.fwData 0 (zData 1)) (wBundleStaged st3) = .next t :=
  ends (((h (wBundleStaged st3) 0 (zData 1) (by decide +kernel)).2.1 (gets_of (by decide +kernel)) (obeys_of (by decide +kernel))).2.2 st3
    (by decide +kernel) (by decide +kernel))
def zEnd : ZMsg := zm Z.FW_END []
def stWhole : Staging := { len := 3, hash := sha384 [97, 98, 99], pieces := [(1, [98, 99]), (0, [97])] }
theorem wit_fw_end (h : Obligations.FirmwareAndTime) : ∃ t, exec (.fwEnd 0 zEnd wBundle) (wBundleStaged stWhole) = .next t :=
  ends (((h (wBundleStaged stWhole) 0 zEnd (by decide +kernel)).2.2.1 (gets_of (by decide +kernel)) (obeys_of (by decide +kernel)) wBundle stWhole
    (by decide +kernel) (by decide +kernel)).1
      ⟨by decide +kernel, by decide +kernel, fun k _ _ _ => by
        have e : (wBundleStaged stWhole).tray.fram.svn = [0, 0, 0, 0] := by decide +kernel
        rw [e]
        match k with
        | 0 | 1 | 2 | 3 => exact Nat.zero_le _
        | _ + 4 => exact Nat.zero_le _⟩)
theorem wit_fw_end_bad (h : Obligations.FirmwareAndTime) : ∃ t, exec (.fwEnd 0 zEnd { wBundle with sigOk := false }) (wBundleStaged st3) = .next t :=
  ends (((h (wBundleStaged st3) 0 zEnd (by decide +kernel)).2.2.1 (gets_of (by decide +kernel)) (obeys_of (by decide +kernel))
    { wBundle with sigOk := false } st3 (by decide +kernel) (by decide +kernel)).2 (fun a => absurd a.2.1 (by decide +kernel)))
def zAct (n : Byte) : ZMsg := zm Z.FW_ACTIVATE [n]
/-- A verified bundle waits; the tray has this role. -/
def wBdl (role : Nat) (g : Tray → Tray := id) : State :=
  wFw (fun t => g ({ t with hal := { t.hal with role := some role }, fram := { t.fram with other := some wBundle } } : Tray))
theorem wit_activate_none (h : Obligations.FirmwareAndTime) : ∃ t, exec (.fwActivate 0 (zAct 1)) wFw = .next t :=
  ends (((h wFw 0 (zAct 1) (by decide +kernel)).2.2.2.1 (gets_of (by decide +kernel)) (obeys_of (by decide +kernel))).1 (by decide +kernel))
theorem wit_activate_active (h : Obligations.FirmwareAndTime) : ∃ t, exec (.fwActivate 0 (zAct 4)) (wBdl 1) = .next t :=
  ends (((h (wBdl 1) 0 (zAct 4) (by decide +kernel)).2.2.2.1 (gets_of (by decide +kernel)) (obeys_of (by decide +kernel))).2.1 (by decide +kernel)
    (by decide +kernel))
theorem wit_activate (h : Obligations.FirmwareAndTime) : ∃ t, exec (.fwActivate 0 (zAct 1)) (wBdl 1) = .next t :=
  ends ((((h (wBdl 1) 0 (zAct 1) (by decide +kernel)).2.2.2.1 (gets_of (by decide +kernel)) (obeys_of (by decide +kernel))).2.2 wBundle
    (by decide +kernel)).1 (by decide +kernel))
theorem wit_activate_chips (h : Obligations.FirmwareAndTime) : ∃ t, exec (.fwActivate 0 (zAct 12)) (wBdl 2) = .next t :=
  ends ((((h (wBdl 2) 0 (zAct 12) (by decide +kernel)).2.2.2.1 (gets_of (by decide +kernel)) (obeys_of (by decide +kernel))).2.2 wBundle
    (by decide +kernel)).2 (by decide +kernel) (by decide +kernel))
theorem wit_activate_np (h : Obligations.FirmwareAndTime) : ∃ t, exec (.fwActivate 0 (zAct 1)) (wFw id .secondary) = .next t :=
  ends ((h (wFw id .secondary) 0 (zAct 1) (by decide +kernel)).2.2.2.2.1 (gets_of (by decide +kernel)) (by decide +kernel))
/-- The housekeeper runs and waits for the Halvoren. -/
def wBoot (f : Tray → Tray := id) : State := wHk (fun t => f (t.sf hkPg F.HK_STS_PHASE Ph.CTRL_BOOT))
def wImg (v : Bool) : ImageInfo := { verifies := v, bundle := wBundle }
def wCompat : CompatInfo := { chipBad := 2, dmcUnlisted := false, cls := 1, reason := 77 }
theorem wit_boot (h : Obligations.FirmwareAndTime) : ∃ t, exec (.halvorenBoot (wImg true) (wImg false) wCompat (some (1, 1, 1))) wBoot = .next t :=
  ends (((h wBoot 0 zEnd (by decide +kernel)).2.2.2.2.2.1 (wImg true) (wImg false) wCompat (some (1, 1, 1)) (by decide +kernel) (by decide +kernel)
    (by decide +kernel) (by decide +kernel) (by decide +kernel)).1 (by decide +kernel))
theorem wit_boot_other (h : Obligations.FirmwareAndTime) : ∃ t, exec (.halvorenBoot (wImg false) (wImg true) wCompat none) wBoot = .next t :=
  ends (((h wBoot 0 zEnd (by decide +kernel)).2.2.2.2.2.1 (wImg false) (wImg true) wCompat none (by decide +kernel) (by decide +kernel)
    (by decide +kernel) (by decide +kernel) (by decide +kernel)).2.1 (by decide +kernel) (by decide +kernel))
theorem wit_boot_none (h : Obligations.FirmwareAndTime) : ∃ t, exec (.halvorenBoot (wImg false) (wImg false) wCompat none) wBoot = .next t :=
  ends (((h wBoot 0 zEnd (by decide +kernel)).2.2.2.2.2.1 (wImg false) (wImg false) wCompat none (by decide +kernel) (by decide +kernel)
    (by decide +kernel) (by decide +kernel) (by decide +kernel)).2.2 (by decide +kernel) (by decide +kernel))
def wTrial (fb : Bool) : State := wFw (fun t => { t with fram := { t.fram with image := 1, trial := true, fallback := fb } })
theorem wit_confirm (h : Obligations.FirmwareAndTime) : ∃ t, exec .imageConfirm (wTrial false) = .next t :=
  ends (((h (wTrial false) 0 zEnd (by decide +kernel)).2.2.2.2.2.2 (by decide +kernel)).1 (by decide +kernel) (by decide +kernel) (by decide +kernel)
    (by decide +kernel))
theorem wit_confirm_no (h : Obligations.FirmwareAndTime) : ∃ t, exec .imageConfirm wFw = .next t :=
  ends (((h wFw 0 zEnd (by decide +kernel)).2.2.2.2.2.2 (by decide +kernel)).2.1 (by decide +kernel))
theorem wit_trial (h : Obligations.FirmwareAndTime) : ∃ t, exec .trialTimeout (wTrial false) = .next t :=
  ends (((h (wTrial false) 0 zEnd (by decide +kernel)).2.2.2.2.2.2 (by decide +kernel)).2.2.1 (by decide +kernel))
theorem wit_sync_step (h : Obligations.FirmwareAndTime) : ∃ t, exec (.ptpSync 0 5000) wDark = .next t :=
  ends ((((h wDark 0 zEnd (by decide +kernel)).2.2.2.2.2.2 (by decide +kernel)).2.2.2.1 5000).1 (by decide +kernel) (by decide +kernel))
theorem wit_sync (h : Obligations.FirmwareAndTime) : ∃ t, exec (.ptpSync 0 5000) wFw = .next t :=
  ends ((((h wFw 0 zEnd (by decide +kernel)).2.2.2.2.2.2 (by decide +kernel)).2.2.2.1 5000).2 (by decide +kernel))
def wLocked : State := wFw (fun t => t.sf mgrPg F.MGR_TIME_STATE Ts.LOCKED)
theorem wit_holdover (h : Obligations.FirmwareAndTime) : ∃ t, exec .ptpHoldover wLocked = .next t :=
  ends (((h wLocked 0 zEnd (by decide +kernel)).2.2.2.2.2.2 (by decide +kernel)).2.2.2.2.1 (by decide +kernel))
theorem wit_time_out (h : Obligations.FirmwareAndTime) : ∃ t, exec .timeLockTimeout (wRack 7) = .next t :=
  ends (((h (wRack 7) 0 zEnd (by decide +kernel)).2.2.2.2.2.2 (by decide +kernel)).2.2.2.2.2 (by decide +kernel) (by decide +kernel) (by decide +kernel))

theorem wit_rf_systems (h : Obligations.RedfishAndConsole) : ∃ t, exec (.redfishRequest .systems .get true) wFw = .next t :=
  ends ((h wFw (by decide +kernel) (by decide +kernel)).1 .get true).1
theorem wit_rf_read_only (h : Obligations.RedfishAndConsole) : ∃ t, exec (.redfishRequest .chassisTray (.patch true) true) wFw = .next t :=
  ends ((h wFw (by decide +kernel) (by decide +kernel)).2.1 .chassisTray (.patch true) (by decide +kernel) (by decide +kernel) (by decide +kernel)
    (by decide +kernel) (fun i e => by cases e))
theorem wit_rf_get (h : Obligations.RedfishAndConsole) : ∃ t, exec (.redfishRequest .power .get true) wFw = .next t :=
  ends ((h wFw (by decide +kernel) (by decide +kernel)).2.2.1 true .power (by decide +kernel))
theorem wit_rf_port (h : Obligations.RedfishAndConsole) : ∃ t, exec (.redfishRequest (.port 1 5) .get true) wFw = .next t :=
  ends ((h wFw (by decide +kernel) (by decide +kernel)).2.2.2.1 true 1 5)
theorem wit_rf_405 (h : Obligations.RedfishAndConsole) : ∃ t, exec (.redfishRequest .clearLog .get true) wFw = .next t :=
  ends ((h wFw (by decide +kernel) (by decide +kernel)).2.2.2.2.1 .clearLog (by decide +kernel) true)
def wSubs (n : Nat) : State := wFw (fun t => { t with hal := { t.hal with sessions := [3], subs := List.range n, nextRf := 12 } })
theorem wit_rf_subs (h : Obligations.RedfishAndConsole) : ∃ t, exec (.redfishRequest .subscriptions .post false) (wSubs 7) = .next t :=
  ends ((h (wSubs 7) (by decide +kernel) (by decide +kernel)).2.2.2.2.2.2.2.1.2.2.1 (by decide +kernel))
theorem wit_rf_subs_full (h : Obligations.RedfishAndConsole) : ∃ t, exec (.redfishRequest .subscriptions .post false) (wSubs 8) = .next t :=
  ends ((h (wSubs 8) (by decide +kernel) (by decide +kernel)).2.2.2.2.2.2.2.1.2.2.2 (by decide +kernel))
theorem wit_rf_session (h : Obligations.RedfishAndConsole) : ∃ t, exec (.redfishRequest (.session 3) .delete true) (wSubs 7) = .next t :=
  ends (((h (wSubs 7) (by decide +kernel) (by decide +kernel)).2.2.2.2.2.2.2.2.1 3).1 (by decide +kernel) true)
theorem wit_rf_no_session (h : Obligations.RedfishAndConsole) : ∃ t, exec (.redfishRequest (.session 4) .delete true) (wSubs 7) = .next t :=
  ends (((h (wSubs 7) (by decide +kernel) (by decide +kernel)).2.2.2.2.2.2.2.2.1 4).2 (by decide +kernel) true)
theorem wit_rf_reset_active (h : Obligations.RedfishAndConsole) : ∃ t, exec (.redfishRequest (.managerReset false) .post false) (wBdl 1) = .next t :=
  ends ((h (wBdl 1) (by decide +kernel) (by decide +kernel)).2.2.2.2.2.2.2.2.2.1 (by decide +kernel) false)
theorem wit_rf_reset (h : Obligations.RedfishAndConsole) : ∃ t, exec (.redfishRequest (.managerReset false) .post false) (wBdl 2) = .next t :=
  ends ((h (wBdl 2) (by decide +kernel) (by decide +kernel)).2.2.2.2.2.2.2.2.2.2.1 (by decide +kernel) (by decide +kernel))
theorem wit_rf_update (h : Obligations.RedfishAndConsole) :
    ∃ t, exec (.redfishRequest (.simpleUpdate [97, 98, 99] wBundle) .post false) wFw = .next t :=
  ends ((h wFw (by decide +kernel) (by decide +kernel)).2.2.2.2.2.2.2.2.2.2.2.1 [97, 98, 99] wBundle (by decide +kernel) (by decide +kernel)
    (fun k _ _ _ => by
        have e : wFw.tray.fram.svn = [0, 0, 0, 0] := by decide +kernel
        rw [e]
        match k with
        | 0 | 1 | 2 | 3 => exact Nat.zero_le _
        | _ + 4 => exact Nat.zero_le _))
theorem wit_zh_status (h : Obligations.RedfishAndConsole) : ∃ t, exec .zhctlStatus wFw = .next t :=
  ends ((h wFw (by decide +kernel) (by decide +kernel)).2.2.2.2.2.2.2.2.2.2.2.2 (by decide +kernel)).1
/-- The console has SERVICE access, and bytes wait in its FIFO. -/
def wSvc (role : Nat) : State := wBdl role (fun t => { t with hal := { t.hal with service := true }, hk := { t.hk with fifo := [65] } })
theorem wit_zh_reg_no (h : Obligations.RedfishAndConsole) : ∃ t, exec (.zhctlRegRead 1 0 1) wFw = .next t :=
  ends (((h wFw (by decide +kernel) (by decide +kernel)).2.2.2.2.2.2.2.2.2.2.2.2 (by decide +kernel)).2.2.2.2.2.1 1 0 1 (by decide +kernel))
theorem wit_zh_reg (h : Obligations.RedfishAndConsole) : ∃ t, exec (.zhctlRegRead 1 0 1) (wSvc 2) = .next t :=
  ends (((h (wSvc 2) (by decide +kernel) (by decide +kernel)).2.2.2.2.2.2.2.2.2.2.2.2 (by decide +kernel)).2.2.2.2.2.2.1 1 0 (by decide +kernel)
    (by decide +kernel))
theorem wit_zh_wire_no (h : Obligations.RedfishAndConsole) : ∃ t, exec (.zhctlWireTest [32] 5 1 0) (wSvc 1) = .next t :=
  ends (((h (wSvc 1) (by decide +kernel) (by decide +kernel)).2.2.2.2.2.2.2.2.2.2.2.2 (by decide +kernel)).2.2.2.2.2.2.2.1 [32] 5 1 0
    (fun c _ => settled_of _ (by decide +kernel) c) (by decide +kernel))
theorem wit_zh_wire (h : Obligations.RedfishAndConsole) : ∃ t, exec (.zhctlWireTest [0, 32] 5 3 0) (wSvc 2) = .next t :=
  ends (((h (wSvc 2) (by decide +kernel) (by decide +kernel)).2.2.2.2.2.2.2.2.2.2.2.2 (by decide +kernel)).2.2.2.2.2.2.2.2.1 [0, 32] 5 3 0
    (fun c _ => settled_of _ (by decide +kernel) c) (by decide +kernel) (by decide +kernel) (by decide +kernel) (by decide +kernel))
theorem wit_zh_fw_no (h : Obligations.RedfishAndConsole) : ∃ t, exec (.zhctlFwActivate 1) (wBdl 1) = .next t :=
  ends (((h (wBdl 1) (by decide +kernel) (by decide +kernel)).2.2.2.2.2.2.2.2.2.2.2.2 (by decide +kernel)).2.2.2.2.2.2.2.2.2.1 1 (by decide +kernel))
theorem wit_zh_fw (h : Obligations.RedfishAndConsole) : ∃ t, exec (.zhctlFwActivate 1) (wSvc 1) = .next t :=
  ends (((h (wSvc 1) (by decide +kernel) (by decide +kernel)).2.2.2.2.2.2.2.2.2.2.2.2 (by decide +kernel)).2.2.2.2.2.2.2.2.2.2.1 (by decide +kernel)
    (by decide +kernel))
theorem wit_zh_reset_refused (h : Obligations.RedfishAndConsole) : ∃ t, exec (.zhctlReset 2 0) wFw = .next t :=
  ends ((((h wFw (by decide +kernel) (by decide +kernel)).2.2.2.2.2.2.2.2.2.2.2.2 (by decide +kernel)).2.2.2.2.2.2.2.2.2.2.2.1 (by decide +kernel) 2 0).1
    (by decide +kernel) (by decide +kernel))
theorem wit_zh_reset_no (h : Obligations.RedfishAndConsole) : ∃ t, exec (.zhctlReset 4 1) wFw = .next t :=
  ends ((((h wFw (by decide +kernel) (by decide +kernel)).2.2.2.2.2.2.2.2.2.2.2.2 (by decide +kernel)).2.2.2.2.2.2.2.2.2.2.2.1 (by decide +kernel) 4 1).2
    (by decide +kernel))
theorem wit_zh_reset (h : Obligations.RedfishAndConsole) : ∃ t, exec (.zhctlReset 3 0) (wSvc 1) = .next t :=
  ends (((h (wSvc 1) (by decide +kernel) (by decide +kernel)).2.2.2.2.2.2.2.2.2.2.2.2 (by decide +kernel)).2.2.2.2.2.2.2.2.2.2.2.2 (by decide +kernel))

/-! ### Start-up, resets, panel: the hypotheses of the statements are met -/

/-- Chip 2 has power, firmware runs; the chip's endpoint is not released. -/
def wStart (f : Tray → Tray := id) : State := wHk (fun t => f ((({ t with hal := { t.hal with up := true } } : Tray).setChipOn 2 true).sf hkPg
  F.HK_STS_PHASE Ph.CHIP_START))
theorem wit_pcie (h : Obligations.ChipsStartAndReset) : ∃ t, exec (.pcieRelease 2) wStart = .next t :=
  ends (((h wStart (by decide +kernel)).1 2).1 (by decide +kernel) (by decide +kernel) (by decide +kernel))
def wTrain : State := wStart (fun t => t.sf (hbmPg 2 1) F.HBM_STS_STATE 1)
theorem wit_train (h : Obligations.ChipsStartAndReset) : ∃ t, exec (.hbmTrainingDone 2 1 false) wTrain = .next t :=
  ends (((h wTrain (by decide +kernel)).1 2).2.1 1 false (by decide +kernel))
/-- Chip 2 waits for its core release only; its ports 0 and 63 are cabled; the role of the tray, and whether ENABLE waits. -/
def wRelease (role : Nat) (w : Bool) : State :=
  wStart (fun t =>
    let h := { t.hal with rack := some 0x12345678, role := some role, waitPorts := w, timeWaited := true, cabled := [0, 0, 2 ^ 63 + 1, 0, 0] }
    let u := ({ t with hal := h, master := 777 } : Tray)
    let v := u.modChip 2 (fun x => { x with released := true, pcieUp := true })
    (v.sf (hbmPg 2 0) F.HBM_STS_STATE 2).sf (hbmPg 2 1) F.HBM_STS_STATE 2)
theorem wit_release (h : Obligations.ChipsStartAndReset) : ∃ t, exec (.coreRelease 2) (wRelease 1 false) = .next t :=
  ends (((h (wRelease 1 false) (by decide +kernel)).1 2).2.2.1 (by decide +kernel))
theorem wit_chip_reset (h : Obligations.ChipsStartAndReset) : ∃ t, exec (.chipReset 1) wHk = .next t :=
  ends ((((h wHk (by decide +kernel)).1 1).2.2.2 (by decide +kernel)).1 (by decide +kernel))
theorem wit_power_reset (h : Obligations.ChipsStartAndReset) : ∃ t, exec (.chipPowerReset 1 2) wStart = .next t :=
  ends ((((h wStart (by decide +kernel)).1 1).2.2.2 (by decide +kernel)).2 2 (by decide +kernel) (by decide +kernel) (by decide +kernel)
    (by decide +kernel) (by decide +kernel))
/-- Every chip is released with its topology; port 5 of chip 1 is cabled and UP. -/
def wFabric : State := wHk (fun t => ({ t with hal := { t.hal with up := true, cabled := [0, 32, 0, 0, 0] } } : Tray).each (List.range 5) (fun t c =>
  (t.modChip c (fun x => { x with coreUp := true })).sb (chip0 c) F.CHIP_TOPO_TOPO_VALID true))
theorem wit_fabric (h : Obligations.ChipsStartAndReset) : ∃ t, exec .fabricReady wFabric = .next t :=
  ends ((h wFabric (by decide +kernel)).2.1 (by decide +kernel) (by decide +kernel) (by decide +kernel) (by decide +kernel) (by decide +kernel))
theorem wit_power_on (h : Obligations.ChipsStartAndReset) : ∃ t, exec (.powerOnReset 4800 19 19 19 true) wHk = .next t :=
  ends (((h wHk (by decide +kernel)).2.2.1 19 19 19).1 4800 true |>.2 (by decide +kernel))
theorem wit_power_low (h : Obligations.ChipsStartAndReset) : ∃ t, exec (.powerOnReset 3599 19 19 19 true) wHk = .next t :=
  ends (((h wHk (by decide +kernel)).2.2.1 19 19 19).1 3599 true |>.1 (by decide +kernel))
theorem wit_hk_reset (h : Obligations.ChipsStartAndReset) : ∃ t, exec (.hkReset 8 8 8) wHk = .next t :=
  ends ((((h wHk (by decide +kernel)).2.2.1 8 8 8).2 (by decide +kernel)).1)
theorem wit_hk_dog (h : Obligations.ChipsStartAndReset) : ∃ t, exec (.hkWatchdog 8 8 9) wHk = .next t :=
  ends ((((h wHk (by decide +kernel)).2.2.1 8 8 9).2 (by decide +kernel)).2)
theorem wit_tray_reset (h : Obligations.ChipsStartAndReset) : ∃ t, exec .trayReset wHk = .next t :=
  ends (((h wHk (by decide +kernel)).2.2.2 (by decide +kernel)).1)
theorem wit_hal_reset (h : Obligations.ChipsStartAndReset) : ∃ t, exec .halvorenReset wHk = .next t :=
  ends (((h wHk (by decide +kernel)).2.2.2 (by decide +kernel)).2 (by decide +kernel)).1
theorem wit_hal_dog (h : Obligations.ChipsStartAndReset) : ∃ t, exec .halvorenWatchdog wHk = .next t :=
  ends (((h wHk (by decide +kernel)).2.2.2 (by decide +kernel)).2 (by decide +kernel)).2

/-- The key in a state, with baseline 1,000 and TOUCH_DELTA 64. -/
def wKey (st : Nat) (f : Tray → Tray := id) : State :=
  wHk (fun t => f ((t.keySet st 1000 1000).sf pnlPg F.PNL_KEY_CFG_TOUCH_DELTA 64))
theorem wit_locate (h : Obligations.PanelAndConsoleReceiver) : ∃ t, exec .locateTimeout wHk = .next t :=
  ends (h wHk (by decide +kernel) (by decide +kernel)).1
def wWant : State := wHk (fun t => t.labelChanged)
theorem wit_label (h : Obligations.PanelAndConsoleReceiver) : ∃ t, exec .labelUpdate wWant = .next t :=
  ends ((h wWant (by decide +kernel) (by decide +kernel)).2.1 (by decide +kernel) (by decide +kernel))
def wLabelBusy : State := wHk (fun t => t.sb pnlPg F.PNL_LABEL_BUSY true)
theorem wit_label_done (h : Obligations.PanelAndConsoleReceiver) : ∃ t, exec .labelDone wLabelBusy = .next t :=
  ends ((h wLabelBusy (by decide +kernel) (by decide +kernel)).2.2.1 (by decide +kernel))
theorem wit_baseline (h : Obligations.PanelAndConsoleReceiver) : ∃ t, exec (.keyBaseline 900) (wKey Key.UNCAL) = .next t :=
  ends (((h (wKey Key.UNCAL) (by decide +kernel) (by decide +kernel)).2.2.2.1 (.inl (by decide +kernel))).1 900)
theorem wit_key_fault (h : Obligations.PanelAndConsoleReceiver) : ∃ t, exec .keyFault (wKey Key.UNCAL) = .next t :=
  ends (((h (wKey Key.UNCAL) (by decide +kernel) (by decide +kernel)).2.2.2.1 (.inl (by decide +kernel))).2)
theorem wit_touch (h : Obligations.PanelAndConsoleReceiver) : ∃ t, exec (.touchBegin 1064) (wKey Key.IDLE) = .next t :=
  ends (((h (wKey Key.IDLE) (by decide +kernel) (by decide +kernel)).2.2.2.2.1 1064).1 (by decide +kernel) (by decide +kernel))
theorem wit_retake (h : Obligations.PanelAndConsoleReceiver) : ∃ t, exec (.keyBaselineRetake 967) (wKey Key.IDLE) = .next t :=
  ends (((h (wKey Key.IDLE) (by decide +kernel) (by decide +kernel)).2.2.2.2.1 967).2.1 (by decide +kernel) (by decide +kernel))
theorem wit_stuck (h : Obligations.PanelAndConsoleReceiver) : ∃ t, exec (.keyStuck 1500) (wKey Key.TOUCHED) = .next t :=
  ends ((((h (wKey Key.TOUCHED) (by decide +kernel) (by decide +kernel)).2.2.2.2.1 1500).2.2 (by decide +kernel)).1)
theorem wit_touch_locate (h : Obligations.PanelAndConsoleReceiver) : ∃ t, exec (.touchEnd 1031 2999) (wKey Key.TOUCHED) = .next t :=
  ends (((((h (wKey Key.TOUCHED) (by decide +kernel) (by decide +kernel)).2.2.2.2.1 1031).2.2 (by decide +kernel)).2 2999 (by decide +kernel)).1
    (by decide +kernel) (by decide +kernel))
def wService : State := wKey Key.TOUCHED (fun t => (({ t with hal := { t.hal with up := true } } : Tray).sb mgrPg F.MGR_LINK_A_UP true).sb mgrPg
  F.MGR_LINK_B_UP true)
theorem wit_touch_service (h : Obligations.PanelAndConsoleReceiver) : ∃ t, exec (.touchEnd 1031 3000) wService = .next t :=
  ends (((((h wService (by decide +kernel) (by decide +kernel)).2.2.2.2.1 1031).2.2 (by decide +kernel)).2 3000 (by decide +kernel)).2
    (by decide +kernel) (by decide +kernel))
theorem wit_rx (h : Obligations.PanelAndConsoleReceiver) : ∃ t, exec (.consoleRxByte 65 true) wHk = .next t :=
  ends (((h wHk (by decide +kernel) (by decide +kernel)).2.2.2.2.2.1 65 true).2.2 rfl (by decide +kernel))
def wFifo : State := wHk (fun t => { t with hk := { t.hk with fifo := List.replicate 64 0 } })
theorem wit_rx_full (h : Obligations.PanelAndConsoleReceiver) : ∃ t, exec (.consoleRxByte 65 true) wFifo = .next t :=
  ends (((h wFifo (by decide +kernel) (by decide +kernel)).2.2.2.2.2.1 65 true).2.1 rfl (by decide +kernel))
theorem wit_rx_frame (h : Obligations.PanelAndConsoleReceiver) : ∃ t, exec (.consoleRxByte 65 false) wFifo = .next t :=
  ends (((h wFifo (by decide +kernel) (by decide +kernel)).2.2.2.2.2.1 65 false).1 rfl)
theorem wit_break (h : Obligations.PanelAndConsoleReceiver) : ∃ t, exec .consoleBreak wHk = .next t :=
  ends (h wHk (by decide +kernel) (by decide +kernel)).2.2.2.2.2.2

/-! ### Empty offsets, pending COMMITs, steps: the hypotheses of the statements are met -/

def wErr (v : Bool) (p : Bool := false) : State :=
  wHk (fun t => (if v then t.wr (portPg 1 5) A.PG_ERR_CAPT (BitVec.ofNat 64 (7 + 2 ^ 56 * 62 + 2 ^ 63)) else t).sb (portPg 1 5)
    F.PG_COMMIT_STS_PENDING p)
theorem wit_empty_write (h : Obligations.EmptyOffsetsAndPendingCommits) (v : Bool) (x : Word) :
    ∃ t, exec (.registerWrite 1 0x015 0x7F8 x) (wErr v) = .next t :=
  ends (((h (wErr v) 1 0x015 0x7F8 x (by cases v <;> decide +kernel) (settled_of _ (by cases v <;> decide +kernel) 1)).1 (by decide +kernel)
    (fun a => absurd a (by decide +kernel))).1)
theorem wit_empty_read (h : Obligations.EmptyOffsetsAndPendingCommits) : ∃ t, exec (.registerReadClear 1 0x015 0xF08) (wErr true) = .next t :=
  ends (((h (wErr true) 1 0x015 0xF08 0 (by decide +kernel) (settled_of _ (by decide +kernel) 1)).1 (fun a => absurd a (by decide +kernel))
    (fun _ r e => by
      have n : findReg 4117 1800 = none := by decide +kernel
      have e' : findReg 4117 1800 = some r := e
      rw [n] at e'
      cases e')).2)
theorem wit_locked (h : Obligations.EmptyOffsetsAndPendingCommits) : ∃ t, exec (.shadowWrite 1 0x015 0x810 3) (wErr true true) = .next t := by
  obtain ⟨r, hr, hm⟩ : ∃ r, findReg 4117 0x010 = some r ∧ r.rwsMask ≠ 0 := by
    cases e : findReg 4117 0x010 with
    | none => exact absurd e (by decide +kernel)
    | some r =>
      refine ⟨r, rfl, ?_⟩
      have x : (findReg 4117 0x010).map (fun r => r.rwsMask) ≠ some 0 := by decide +kernel
      rw [e] at x
      exact fun y => x (by rw [Option.map_some, y])
  exact ends (((h (wErr true true) 1 0x015 0x810 3 (by decide +kernel) (settled_of _ (by decide +kernel) 1)).2 (by decide +kernel)).1 r
    (by decide +kernel) hr hm)
theorem wit_commit_again (h : Obligations.EmptyOffsetsAndPendingCommits) : ∃ t, exec (.commit 1 0x015) (wErr false true) = .next t :=
  ends (((h (wErr false true) 1 0x015 0x810 3 (by decide +kernel) (settled_of _ (by decide +kernel) 1)).2 (by decide +kernel)).2 (by decide +kernel))
theorem wit_front (h : Obligations.StepRunsTheFrontCommand) : step { wHk with pending := [.hello] } = exec .hello wHk :=
  h { wHk with pending := [.hello] } .hello [] rfl
def wTime (o : Int) (k : Nat) : State := wHk (fun t => { t with hal := { t.hal with offset := o, slewTick := k } })
theorem wit_tick (h : Obligations.EmptyQueueTicks) (o : Int) (k : Nat) : ∃ t, step (wTime o k) = .next t :=
  (h (wTime o k) ⟨rfl, rfl⟩ rfl).imp fun _ x => x.1
theorem wit_tick_dark (h : Obligations.EmptyQueueTicks) : ∃ t, step State.reset = .next t :=
  (h State.reset ⟨rfl, rfl⟩ rfl).imp fun _ x => x.1
theorem wit_sound (h : Obligations.LeasesStaySound) : ∃ t, step wFw = .next t :=
  (h wFw ⟨by decide +kernel, by decide +kernel⟩).imp fun _ x => x.1

end Sys2Proof.Tests
end

section
/-! SUPPORT. The MSI-X table in BAR2 and its messages (R100, R480): what a dword access of BAR2 and MSIX_MESSAGE leave. -/
namespace Sys2Proof.Machine

/-! ### BAR2_ACCESS of an aligned dword -/

theorem exec_bar2Access (c : Fin 5) (off : BitVec 12) (width : Nat) (isWrite : Bool) (v : Word) (s : State) :
    exec (.bar2Access c off width isWrite v) s =
      .next (s.run (fun t => t.bar2Access c.val off.toNat width isWrite v)) := rfl

theorem Tray.bar2Access_readDword {t : Tray} {c off : Nat} (hr : t.reaches c = true) (ha : off % 4 = 0) (v : Word) :
    t.bar2Access c off 4 false v = t.emit (.completion c .ok (BitVec.ofNat 64 (t.bar2Rd c off).toNat)) := by
  simp [Tray.bar2Access, hr, ha, sumL]

/-- Beyond the table a write changes nothing: the pending-bit array is read-only (R480). -/
theorem Tray.bar2Access_writeDword {t : Tray} {c off : Nat} (hr : t.reaches c = true) (ha : off % 4 = 0) (v : Word) :
    t.bar2Access c off 4 true v = if off < 0x100 then t.bar2Table c off (BitVec.ofNat 32 v.toNat) else t := by
  simp [Tray.bar2Access, hr, ha, Tray.each]

/-- Of the tables of all chips the write changes the addressed dword alone. -/
theorem Tray.bar2Rd_writeDword {t : Tray} {c off : Nat} (hr : t.reaches c = true) (ha : off % 4 = 0) (v : Word)
    (ho : off < 0x100) (d k : Nat) (hk : k < 0x100) :
    (t.bar2Access c off 4 true v).bar2Rd d k =
      if d * 4096 + k = c * 4096 + off then BitVec.ofNat 32 v.toNat else t.bar2Rd d k := by
  rw [Tray.bar2Access_writeDword hr ha, if_pos ho, Tray.bar2Rd_table _ _ _ _ _ _ hk]

theorem Tray.bar2Access_writeDword_stays {t : Tray} {c off : Nat} (hr : t.reaches c = true) (ha : off % 4 = 0) (v : Word)
    (R : Nat → Nat → Prop) : t.Stays (t.bar2Access c off 4 true v) R := by
  rw [Tray.bar2Access_writeDword hr ha]
  split
  · exact Tray.bar2Table_stays ..
  · exact Tray.Stays.refl ..

/-! ### MSIX_MESSAGE of a requested vector -/

theorem exec_msixMessage (c : Fin 5) (vec : Fin 16) (s : State) :
    exec (.msixMessage c vec) s = .next (s.run (fun t => t.msixMessage c.val vec.val)) := rfl

/-- The tray with the request of vector `vec` of chip `c` taken. -/
def Tray.takeMsi (t : Tray) (c vec : Nat) : Tray :=
  { t with msiReq := t.msiReq.filter (fun x => x != c * 16 + vec) }

theorem Tray.takeMsi_contains (t : Tray) (c vec : Nat) : (t.takeMsi c vec).msiReq.contains (c * 16 + vec) = false := by
  simp [Tray.takeMsi]

theorem Tray.takeMsi_stays (t : Tray) (c vec : Nat) (R : Nat → Nat → Prop) : t.Stays (t.takeMsi c vec) R :=
  (Tray.Stays.refl t R).setMsi _

theorem Tray.msixMessage_requested {t : Tray} {c vec : Nat} (hr : t.reaches c = true)
    (hq : t.msiReq.contains (c * 16 + vec) = true) :
    t.msixMessage c vec =
      if t.vecMasked c vec then
        (t.takeMsi c vec).bar2Wr c 0x800 (BitVec.ofNat 32 (putBitOf (t.bar2Rd c 0x800).toNat vec true))
      else (t.takeMsi c vec).msiSend c vec := by
  unfold Tray.msixMessage
  dsimp only
  rw [if_neg (not_or.2 ⟨not_not.2 hq, not_not.2 hr⟩)]
  rfl

/-- The message has the address and the data that the table holds for the vector. -/
theorem Tray.msiSend_out (t : Tray) (c vec : Nat) :
    Out.msi c vec ((t.bar2Rd c (16 * vec)).toNat + 2 ^ 32 * (t.bar2Rd c (16 * vec + 4)).toNat)
      (t.bar2Rd c (16 * vec + 8)).toNat ∈ (t.msiSend c vec).out := List.mem_cons_self

/-- A pending bit that is set reads 1. -/
theorem Tray.bar2Wr_setsPending (t : Tray) (c n : Nat) {vec : Nat} (h : vec < 32) :
    bitOf ((t.bar2Wr c 0x800 (BitVec.ofNat 32 (putBitOf n vec true))).bar2Rd c 0x800).toNat vec = true := by
  rw [Tray.bar2Rd_bar2Wr, if_pos rfl, BitVec.toNat_ofNat]
  exact bitOf_putBitOf_mod n vec 32 true h

/-- Settles O5: accesses by what a dword read and a dword write leave, messages by whether the vector is masked. -/
theorem msixTableAndMessages : Obligations.MsixTableAndMessages := by
  intro s c hr
  refine ⟨fun off v ha => ⟨?read, ?write⟩, fun vec hq => ?message⟩
  case read =>
    exact completes_run (exec_bar2Access ..) (Tray.bar2Access_readDword hr ha v) fun t ht =>
      ⟨ht.emits List.mem_cons_self, ht.bar2, ht.stays ((Tray.Stays.refl ..).emit _)⟩
  case write =>
    refine completes_run (exec_bar2Access ..) rfl fun t ht =>
      ⟨fun ho => ?_, fun d o hd ho hne => ?_, ht.stays (Tray.bar2Access_writeDword_stays hr ha v _)⟩
    · rw [ht.bar2Rd, Tray.bar2Rd_writeDword hr ha v ho _ _ ho, if_pos rfl]
    · rw [ht.bar2Rd, Tray.bar2Rd_writeDword hr ha v ho _ _ hd, if_neg hne]
  case message =>
    have stays := s.tray.takeMsi_stays c.val vec.val (fun _ _ => False)
    have taken := s.tray.takeMsi_contains c.val vec.val
    by_cases hm : s.tray.vecMasked c.val vec.val = true
    · refine completes_run (exec_msixMessage ..) ((Tray.msixMessage_requested hr hq).trans (if_pos hm)) fun t ht =>
        ⟨ht.msiReq ▸ taken, ?_, ht.stays (stays.bar2Wr ..)⟩
      rw [if_pos hm, ht.bar2Rd]
      exact Tray.bar2Wr_setsPending _ _ _ (by omega)
    · refine completes_run (exec_msixMessage ..) ((Tray.msixMessage_requested hr hq).trans (if_neg hm)) fun t ht =>
        ⟨ht.msiReq ▸ taken, ?_, ht.stays (stays.emit _)⟩
      rw [if_neg hm]
      exact ht.emits (Tray.msiSend_out ..)

end Sys2Proof.Machine
end

section
/-! SUPPORT. CHIP_TOPO (R27): what a write of it leaves, before the identity is locked and after. -/
namespace Sys2Proof.Machine

theorem exec_chipTopoWrite (c : Fin 5) (v : Word) (s : State) :
    exec (.chipTopoWrite c v) s = .next (s.run (fun t => t.write8 0 c.val 0x000 A.CHIP_TOPO v)) := rfl

/-- A write that is performed reaches CHIP_TOPO's own rule, released chip or not. -/
theorem Tray.write8_chipTopo {t : Tray} {c : Nat} (v : Word) (hc : c < 5) (ha : t.accepts c 0x000 A.CHIP_TOPO = true) :
    t.write8 0 c 0x000 A.CHIP_TOPO v = (t.chipTopoWrite c v (Origin.wr 0 A.CHIP_TOPO)).sweep c := by
  have hk : pageKind (chip0 c) = some .chip0 := pageKind_chipPg c 0 hc (by decide)
  obtain ⟨r, -, hw⟩ := t.writeActive_block (chip0 c) A.CHIP_TOPO v 0 hk (by decide)
    (regExists_of _ _ (by rw [hk]; decide) (by rw [hk]; decide)) (by decide +kernel)
  rw [Tray.write8_active _ _ _ _ _ _ ha (by decide)]
  show (t.writeActive (chip0 c) A.CHIP_TOPO v 0).sweep c = _
  have hpg : isChipPg (chip0 c) = true := isChipPg_chipPg c 0 hc (by decide)
  rw [hw]
  unfold Tray.writeBlock
  dsimp only
  rw [if_neg (not_not.2 hpg), if_pos ⟨hk, rfl⟩, chip0_div]

/-- A command that writes CHIP_TOPO of a settled chip completes as the rule leaves the tray, where that changes no block. -/
theorem completes_chipTopoWrite {s : State} {c : Fin 5} {v : Word} {P : State → Prop} {R : Nat → Nat → Prop} {u : Tray}
    (ha : s.tray.accepts c.val 0x000 A.CHIP_TOPO = true) (hs : s.tray.settled c.val)
    (hu : s.tray.chipTopoWrite c.val v (Origin.wr 0 A.CHIP_TOPO) = u) (hR : s.tray.Stays u R)
    (hP : ∀ t : State, t.Like u → P t) : Completes (.chipTopoWrite c v) s P :=
  completes_run (exec_chipTopoWrite c v s)
    ((Tray.write8_chipTopo v c.isLt ha).trans (by rw [hu]; exact u.sweep_settled c.val (hR.settled hs))) hP

/-! ### The identity is open -/

/-- The tray with the three fields of CHIP_TOPO that software writes. -/
def Tray.topoTaken (t : Tray) (c : Nat) (v : Word) : Tray :=
  ((t.sf (chip0 c) F.CHIP_TOPO_ROLE (F.CHIP_TOPO_ROLE.get v)).sf (chip0 c) F.CHIP_TOPO_RACK_ID
    (F.CHIP_TOPO_RACK_ID.get v)).sf (chip0 c) F.CHIP_TOPO_TOPO_VALID (F.CHIP_TOPO_TOPO_VALID.get v)

theorem Tray.chipTopoWrite_open {t : Tray} {c : Nat} (v : Word) (o : Origin)
    (h : t.gf (chip0 c) F.CHIP_TOPO_TOPO_VALID = 0) : t.chipTopoWrite c v o = t.topoTaken c v := by
  simp [Tray.chipTopoWrite, Tray.is, h, Tray.topoTaken]

theorem Tray.topoTaken_reads (t : Tray) (c : Nat) (v : Word) :
    (t.topoTaken c v).gf (chip0 c) F.CHIP_TOPO_RACK_ID = F.CHIP_TOPO_RACK_ID.get v ∧
    (t.topoTaken c v).gf (chip0 c) F.CHIP_TOPO_TOPO_VALID = F.CHIP_TOPO_TOPO_VALID.get v ∧
    (t.topoTaken c v).gf (chip0 c) F.CHIP_TOPO_ROLE = F.CHIP_TOPO_ROLE.get v := by
  unfold Tray.topoTaken
  refine ⟨?_, ?_, ?_⟩ <;> simp (disch := decide) only [Tray.gf_sf_ne, Tray.gf_sf_self] <;>
    exact Nat.mod_eq_of_lt (Fld.get_lt _ v (by decide))

theorem Tray.topoTaken_stays (t : Tray) (c : Nat) (v : Word) :
    t.Stays (t.topoTaken c v) (fun q o => q = chip0 c ∧ o = A.CHIP_TOPO) :=
  (((Tray.Stays.refl ..).sf _ ⟨rfl, rfl⟩ (by decide)).sf _ ⟨rfl, rfl⟩ (by decide)).sf _ ⟨rfl, rfl⟩ (by decide)

/-! ### The identity is locked -/

/-- The write names another rack or clears TOPO_VALID (R27). -/
def Tray.topoClash (t : Tray) (c : Nat) (v : Word) : Prop :=
  F.CHIP_TOPO_TOPO_VALID.get v = 0 ∨ F.CHIP_TOPO_RACK_ID.get v ≠ t.gf (chip0 c) F.CHIP_TOPO_RACK_ID

/-- The tray with another role. -/
def Tray.roleTaken (t : Tray) (c : Nat) (v : Word) : Tray :=
  t.sf (chip0 c) F.CHIP_TOPO_ROLE (F.CHIP_TOPO_ROLE.get v)

theorem Tray.chipTopoWrite_clash {t : Tray} {c : Nat} {v : Word} (o : Origin)
    (h : t.gf (chip0 c) F.CHIP_TOPO_TOPO_VALID = 1) (hx : t.topoClash c v) :
    t.chipTopoWrite c v o = (t.roleTaken c v).recErr (chip0 c) E.LOCKED_FIELD o := by
  unfold Tray.chipTopoWrite
  exact (if_pos ((Tray.is_iff ..).2 h)).trans (if_pos hx)

theorem Tray.chipTopoWrite_agrees {t : Tray} {c : Nat} {v : Word} (o : Origin)
    (h : t.gf (chip0 c) F.CHIP_TOPO_TOPO_VALID = 1) (hx : ¬ t.topoClash c v) :
    t.chipTopoWrite c v o = t.roleTaken c v := by
  unfold Tray.chipTopoWrite
  exact (if_pos ((Tray.is_iff ..).2 h)).trans (if_neg hx)

theorem Tray.roleTaken_reads (t : Tray) (c : Nat) (v : Word) :
    (t.roleTaken c v).gf (chip0 c) F.CHIP_TOPO_RACK_ID = t.gf (chip0 c) F.CHIP_TOPO_RACK_ID ∧
    (t.roleTaken c v).gf (chip0 c) F.CHIP_TOPO_TOPO_VALID = t.gf (chip0 c) F.CHIP_TOPO_TOPO_VALID ∧
    (t.roleTaken c v).gf (chip0 c) F.CHIP_TOPO_ROLE = F.CHIP_TOPO_ROLE.get v := by
  unfold Tray.roleTaken
  refine ⟨?_, ?_, ?_⟩ <;> simp (disch := decide) only [Tray.gf_sf_ne, Tray.gf_sf_self]
  exact Nat.mod_eq_of_lt (Fld.get_lt _ v (by decide))

/-- The registers that a write of a locked CHIP_TOPO may change: it, the page's error capture and interrupt bits. -/
def lockedTopoReg (c q o : Nat) : Prop := q = chip0 c ∧ (o = A.CHIP_TOPO ∨ o = 0x60 ∨ o = 0x20)

theorem Tray.roleTaken_stays (t : Tray) (c : Nat) (v : Word) : t.Stays (t.roleTaken c v) (lockedTopoReg c) :=
  (Tray.Stays.refl ..).sf _ ⟨rfl, .inl rfl⟩ (by decide)

/-- CHIP_TIME, which stamps errors, is another register of the page. -/
theorem Tray.roleTaken_timeOf (t : Tray) {c : Nat} (v : Word) (hc : c < 5) : (t.roleTaken c v).timeOf c = t.timeOf c := by
  unfold Tray.timeOf Tray.roleTaken
  rw [if_pos hc, if_pos hc, Tray.rd_sf_off _ _ _ _ _ _ (by decide)]

/-- An error recorded on the page leaves CHIP_TOPO. -/
theorem Tray.gf_recErr_topo (t : Tray) (c code : Nat) (o : Origin) (f : Fld) (hf : f.off = A.CHIP_TOPO) :
    (t.recErr (chip0 c) code o).gf (chip0 c) f = t.gf (chip0 c) f :=
  Tray.gf_recErr_off _ _ _ _ _ _ (by rw [hf]; decide)

/-- The clash is held as the page's first error, with the time of the access. -/
theorem Tray.roleTaken_recErr_holds {t : Tray} {c : Nat} (v : Word) (hc : c < 5)
    (he : t.gf (chip0 c) F.PG_ERR_CAPT_VALID = 0) :
    ((t.roleTaken c v).recErr (chip0 c) E.LOCKED_FIELD (Origin.wr 0 A.CHIP_TOPO)).holdsErr (chip0 c) E.LOCKED_FIELD
      A.CHIP_TOPO 0 true (t.timeOf c) := by
  have h := (t.roleTaken c v).recErr_holds (chip0 c) E.LOCKED_FIELD (Origin.wr 0 A.CHIP_TOPO)
    ((Tray.gf_sf_off _ _ _ _ _ _ (by decide)).trans he) (by decide)
  rw [chip0_div, t.roleTaken_timeOf v hc] at h
  exact h

/-- Settles O8, by whether the identity is locked and, where it is, whether the write clashes with it. -/
theorem chipTopoLocksIdentity : Obligations.ChipTopoLocksIdentity := by
  intro s c v ha hs
  refine ⟨fun hopen => ?_, fun hlocked => ?_⟩
  · obtain ⟨hrack, hvalid, hrole⟩ := s.tray.topoTaken_reads c.val v
    have hstay := s.tray.topoTaken_stays c.val v
    exact completes_chipTopoWrite ha hs (Tray.chipTopoWrite_open v _ hopen) hstay fun t ht =>
      ⟨(ht.gf ..).trans hrack, (ht.gf ..).trans hvalid, (ht.gf ..).trans hrole, ht.stays hstay⟩
  · obtain ⟨hrack, hvalid, hrole⟩ := s.tray.roleTaken_reads c.val v
    have hstay := s.tray.roleTaken_stays c.val v
    by_cases hx : s.tray.topoClash c.val v
    · have hrec := fun f hf => Tray.gf_recErr_topo (s.tray.roleTaken c.val v) c.val E.LOCKED_FIELD (Origin.wr 0 A.CHIP_TOPO) f hf
      have hstay' := hstay.recErr E.LOCKED_FIELD (Origin.wr 0 A.CHIP_TOPO) ⟨rfl, .inr (.inl rfl)⟩ ⟨rfl, .inr (.inr rfl)⟩
      exact completes_chipTopoWrite ha hs (Tray.chipTopoWrite_clash _ hlocked hx) hstay' fun t ht =>
        ⟨(ht.gf ..).trans ((hrec _ rfl).trans hrack), (ht.gf ..).trans ((hrec _ rfl).trans (hvalid.trans hlocked)),
          (ht.gf ..).trans ((hrec _ rfl).trans hrole),
          fun _ he => ht.holdsErr (Tray.roleTaken_recErr_holds v c.isLt he), ht.stays hstay'⟩
    · exact completes_chipTopoWrite ha hs (Tray.chipTopoWrite_agrees _ hlocked hx) hstay fun t ht =>
        ⟨(ht.gf ..).trans hrack, (ht.gf ..).trans (hvalid.trans hlocked), (ht.gf ..).trans hrole,
          fun hy => absurd hy hx, ht.stays hstay⟩

end Sys2Proof.Machine
end

section
/-! SUPPORT. Maintenance frames (R117) that the tray forms, read back. -/
namespace Sys2Proof.Machine

theorem crc16Bit_lt {x : Nat} (b : Bool) : crc16Bit x b < 2 ^ 16 := by
  have hx : x * 2 % 65536 < 2 ^ 16 := Nat.mod_lt _ (by decide)
  unfold crc16Bit
  dsimp only
  split
  · exact Nat.xor_lt_two_pow hx (by decide)
  · exact hx

theorem crc16Byte_lt (x : Nat) (b : Byte) : crc16Byte x b < 2 ^ 16 := crc16Bit_lt _

theorem crc16_lt (l : List Byte) : crc16 l < 2 ^ 16 := by
  unfold crc16
  exact List.foldlRecOn l crc16Byte (motive := fun x => x < 2 ^ 16) (by decide) (fun _ _ b _ => crc16Byte_lt _ b)

/-- A frame that the tray forms passes its CRC. -/
theorem fOk_mkFrame (n : Nat) : fOk (mkFrame n) = true := by
  unfold fOk mkFrame
  dsimp only
  rw [BitVec.toNat_ofNat, Nat.mod_eq_of_lt (crc16_lt _), beq_self_eq_true]

theorem fNum_mkFrame (n i k : Nat) (h : 8 * i + 8 * k ≤ 240) :
    fNum (mkFrame n) i k = n / 2 ^ (8 * i) % 2 ^ (8 * k) := by
  unfold fNum fieldOf mkFrame
  dsimp only
  rw [BitVec.toNat_ofNat]
  refine Nat.eq_of_testBit_eq fun j => ?_
  rw [Nat.testBit_mod_two_pow, Nat.testBit_mod_two_pow, Nat.testBit_div_two_pow, Nat.testBit_div_two_pow,
    Nat.testBit_mod_two_pow]
  by_cases hj : j < 8 * k
  · rw [decide_eq_true (show j + 8 * i < 240 by omega), Bool.true_and]
  · rw [decide_eq_false hj, Bool.false_and, Bool.false_and]

theorem fByte_eq_fNum (f : MFrame) (i : Nat) : fByte f i = fNum f i 1 := rfl

/-- A note's first byte is its type. -/
theorem fByte_noteFrame (ty v : Nat) (h : ty < 256) : fByte (noteFrame ty v) 0 = ty := by
  rw [fByte_eq_fNum]
  unfold noteFrame
  rw [fNum_mkFrame _ _ _ (by decide)]
  omega

/-- The answer to an ECHO_REQ: its token and the residence (R119). -/
def echoReply (tok residence : Nat) : MFrame := mkFrame (M.ECHO_RSP + 2 ^ 16 * tok + 2 ^ 32 * residence)

theorem echoReply_reads {tok residence : Nat} (ht : tok < 2 ^ 16) (hr : residence < 2 ^ 32) :
    fOk (echoReply tok residence) = true ∧ fByte (echoReply tok residence) 0 = M.ECHO_RSP ∧
    fNum (echoReply tok residence) 2 2 = tok ∧ fNum (echoReply tok residence) 4 4 = residence := by
  unfold echoReply M.ECHO_RSP
  refine ⟨fOk_mkFrame _, ?_, ?_, ?_⟩
  · rw [fByte_eq_fNum, fNum_mkFrame _ _ _ (by decide)]; omega
  · rw [fNum_mkFrame _ _ _ (by decide)]; omega
  · rw [fNum_mkFrame _ _ _ (by decide)]; omega

theorem fNum_lt (f : MFrame) (i n : Nat) : fNum f i n < 2 ^ (8 * n) := Nat.mod_lt _ (Nat.two_pow_pos _)

end Sys2Proof.Machine
end

section
/-! SUPPORT. Updates that stay with one port: of the registers they change those of a set, and of the blocks the port and
its lanes alone. -/
namespace Sys2Proof.Machine

/-- Only registers in `R` change, and of the blocks port `e` of chip `c` and its lanes alone. -/
structure Tray.StaysBut (t u : Tray) (c e : Nat) (R : Nat → Nat → Prop) : Prop where
  regs : t.keepsRegs u R
  others : t.keepsOtherPorts u c e

theorem Tray.Stays.butPort {t u : Tray} {R : Nat → Nat → Prop} (h : t.Stays u R) (c e : Nat) : t.StaysBut u c e R := by
  obtain ⟨hchips, hports, hlanes, hbays, htables, hdealers, hnodes, hmem⟩ := h.blocks
  exact ⟨h.regs, fun d g _ _ => by unfold Tray.port; rw [hports], fun d n _ _ => by unfold Tray.lane; rw [hlanes], hchips,
    hbays, htables, hdealers, hnodes, hmem⟩

namespace Tray.StaysBut
variable {t u v : Tray} {c e : Nat} {R Q : Nat → Nat → Prop}

theorem refl (t : Tray) (c e : Nat) (R : Nat → Nat → Prop) : t.StaysBut t c e R := (Tray.Stays.refl t R).butPort c e

theorem trans (a : t.StaysBut u c e R) (b : u.StaysBut v c e R) : t.StaysBut v c e R := by
  obtain ⟨ar, ap, al, achips, abays, atables, adealers, anodes, amem⟩ := a
  obtain ⟨br, bp, bl, bchips, bbays, btables, bdealers, bnodes, bmem⟩ := b
  exact ⟨Tray.keepsRegs_trans ar br, fun d g hg hn => (bp d g hg hn).trans (ap d g hg hn),
    fun d n hn he => (bl d n hn he).trans (al d n hn he), bchips.trans achips, bbays.trans abays, btables.trans atables,
    bdealers.trans adealers, bnodes.trans anodes, bmem.trans amem⟩

theorem mono (a : t.StaysBut u c e R) (h : ∀ q o, R q o → Q q o) : t.StaysBut u c e Q :=
  ⟨Tray.keepsRegs_mono a.regs h, a.others⟩

theorem setPort (a : t.StaysBut u c e R) (he : e < 64) (x : PortSt) : t.StaysBut (u.setPort c e x) c e R :=
  a.trans ⟨fun _ _ _ _ => rfl, fun d g hg hn => Assoc.get_set_ne _ _ _ _ (by omega), fun _ _ _ _ => rfl, rfl, rfl, rfl, rfl,
    rfl, rfl⟩

theorem modPort (a : t.StaysBut u c e R) (he : e < 64) (f : PortSt → PortSt) : t.StaysBut (u.modPort c e f) c e R :=
  a.setPort he _

theorem emit (a : t.StaysBut u c e R) (x : Out) : t.StaysBut (u.emit x) c e R :=
  a.trans (((Tray.Stays.refl u R).emit x).butPort c e)

theorem each {α : Type} (l : List α) (f : Tray → α → Tray) (h : ∀ w a, a ∈ l → Tray.StaysBut w (f w a) c e R) (t : Tray) :
    t.StaysBut (t.each l f) c e R :=
  Tray.each_keeps (fun w => t.StaysBut w c e R) f l (fun w x hx hw => hw.trans (h w x hx)) t (refl t c e R)

/-- No job slot is touched. -/
theorem settled (a : t.StaysBut u c e R) {d : Nat} (h : t.settled d) : u.settled d := by
  obtain ⟨-, -, -, -, -, -, hdealers, -, -⟩ := a
  exact (Tray.settled_congr hdealers d).2 h

end Tray.StaysBut

theorem State.Like.staysBut {s : State} {t u : Tray} {c e : Nat} {R : Nat → Nat → Prop} (h : s.Like u)
    (a : t.StaysBut u c e R) : t.keepsRegs s.tray R ∧ t.keepsOtherPorts s.tray c e := by
  obtain ⟨hregs, hports, hlanes, hchips, hbays, htables, hdealers, hnodes, hmem⟩ := a
  exact ⟨h.keepsRegs hregs, fun d g hg hn => (h.port d g).trans (hports d g hg hn),
    fun d n hn he => (h.lane d n).trans (hlanes d n hn he), h.chips.trans hchips, h.bays.trans hbays,
    h.tables.trans htables, h.dealers.trans hdealers, h.nodes.trans hnodes, h.mem.trans hmem⟩

/-! ### A port's registers and its change of state -/

theorem Tray.showLanes_blocks (t : Tray) (c e st : Nat) : t.keepsBlocks (t.showLanes c e st) := by
  unfold Tray.showLanes
  refine Tray.keepsBlocks_each _ _ (fun u j _ => ?_) t
  dsimp only
  split
  · exact u.keepsBlocks_refl
  · split
    · exact ((u.keepsBlocks_sf ..).trans (Tray.keepsBlocks_sf ..)).trans (Tray.keepsBlocks_sf ..)
    · split
      · exact (u.keepsBlocks_sf ..).trans (Tray.keepsBlocks_sf ..)
      · exact u.keepsBlocks_sf ..

theorem Tray.setPst_stays (t : Tray) (c e st : Nat) : t.Stays (t.setPst c e st) (stateReg c e) := by
  refine ⟨fun q o ho h => Tray.setPst_rd t c e st q o ho h, ?_⟩
  unfold Tray.setPst
  dsimp only
  split
  · exact t.keepsBlocks_refl
  · exact (((t.keepsBlocks_sf ..).trans (Tray.keepsBlocks_raise ..)).trans (Tray.showLanes_blocks ..)).trans
      (Tray.keepsBlocks_sf ..)

theorem portArea_of_stateReg {c e q o : Nat} (h : stateReg c e q o) : portArea c e q o := by
  unfold portArea
  rcases h with h | h | ⟨j, hj, rfl, -⟩
  · exact .inl h.1
  · exact .inr (.inr ⟨h.1, .inl h.2⟩)
  · refine .inr (.inl ?_)
    unfold lanePg chipPg
    omega

/-- Of the registers of a port's page a change of its state writes two. -/
theorem not_stateReg_portPg {c e o : Nat} (he : e < 64) (h : o ≠ A.PORT_TRAIN_STS) (h' : o ≠ 0x20) :
    ¬ stateReg c e (portPg c e) o := by
  rintro (⟨-, h1 | h1⟩ | ⟨h1, -⟩ | ⟨j, -, h1, -⟩)
  · exact h h1
  · exact h' h1
  · exact portPg_ne_chip0 c e h1
  · exact portPg_ne_lanePg c e _ he h1

/-! ### Phases outside RETRAIN -/

theorem Tray.phase_of_pst {t : Tray} {c e st : Nat} (h : t.pst c e = st) (hr : st ≠ S.RETRAIN) : t.phase c e = st := by
  unfold Tray.phase
  rw [if_neg (h ▸ hr), h]

theorem Tray.setPhase_of_pst {t : Tray} {c e : Nat} (st : Nat) (hr : t.pst c e ≠ S.RETRAIN) :
    t.setPhase c e st = t.setPst c e st := if_neg hr

theorem Tray.up_iff (t : Tray) (c e : Nat) : t.up c e = true ↔ t.pst c e = S.UP := by simp [Tray.up]

/-- What leaves PORT_TRAIN_STS leaves the port's state. -/
theorem Tray.keepsRegs_pst {t u : Tray} {R : Nat → Nat → Prop} (h : t.keepsRegs u R) {c e : Nat}
    (hR : ¬ R (portPg c e) A.PORT_TRAIN_STS) : u.pst c e = t.pst c e := Tray.keepsRegs_gf h _ _ (by decide) hR

end Sys2Proof.Machine
end

section
/-! SUPPORT. IDENT in a tray that does not know its place (R28, R122). -/
namespace Sys2Proof.Machine

theorem exec_ident (c : Fin 5) (e : Fin 64) (f : MFrame) (s : State) :
    exec (.ident c e f) s = .next (s.runC c.val (fun t => t.identFrameIn c.val e.val f)) := rfl

/-- The registers that show the partner. -/
def partnerReg (c e q o : Nat) : Prop := q = portPg c e ∧ (o = A.PORT_PARTNER ∨ o = A.PORT_PARTNER_LAT)

theorem Tray.showPartner_stays (t : Tray) (c e : Nat) (x : IdentInfo) :
    t.Stays (t.showPartner c e x) (partnerReg c e) := by
  have one : ∀ (u : Tray) (f : Fld) (n : Nat), f.off = A.PORT_PARTNER ∨ f.off = A.PORT_PARTNER_LAT →
      u.Stays (u.sf (portPg c e) f n) (partnerReg c e) := fun u f n hf =>
    (Tray.Stays.refl u _).sf n ⟨rfl, hf⟩ (by rcases hf with h | h <;> rw [h] <;> decide)
  unfold Tray.showPartner
  exact (one _ _ _ (.inl rfl)).trans <| (one _ _ _ (.inl rfl)).trans <| (one _ _ _ (.inl rfl)).trans <|
    (one _ _ _ (.inl rfl)).trans <| (one _ _ _ (.inl rfl)).trans <| (one _ _ _ (.inl rfl)).trans <|
    (one _ _ _ (.inr rfl)).trans <| (one _ _ _ (.inr rfl)).trans <| (one _ _ _ (.inr rfl)).trans (one _ _ _ (.inr rfl))

theorem Tray.showPartner_reads (t : Tray) (c e : Nat) (x : IdentInfo) :
    (t.showPartner c e x).gf (portPg c e) F.PORT_PARTNER_EP = x.ep % 64 ∧
    (t.showPartner c e x).gf (portPg c e) F.PORT_PARTNER_RACK_ID = x.rack % 2 ^ 32 := by
  unfold Tray.showPartner
  constructor <;> simp (disch := decide) only [Tray.gf_sf_ne, Tray.gf_sf_self] <;> rfl

/-- The tray with the partner of an IDENT shown and kept. -/
def Tray.knowsPartner (t : Tray) (c e : Nat) (x : IdentInfo) : Tray :=
  (t.showPartner c e x).modPort c e (fun p => { p with ident := some x })

theorem Tray.knowsPartner_stays (t : Tray) (c : Nat) {e : Nat} (he : e < 64) (x : IdentInfo) :
    t.StaysBut (t.knowsPartner c e x) c e (partnerReg c e) :=
  ((t.showPartner_stays c e x).butPort c e).modPort he _

theorem Tray.knowsPartner_pst (t : Tray) (c : Nat) {e : Nat} (he : e < 64) (x : IdentInfo) :
    (t.knowsPartner c e x).pst c e = t.pst c e :=
  Tray.keepsRegs_pst (t.knowsPartner_stays c he x).regs (by rintro ⟨-, h | h⟩ <;> exact absurd h (by decide))

theorem identOf_rack_lt (f : MFrame) : (identOf f).rack < 2 ^ 32 := fNum_lt f 2 4

/-- The tray with the partner known and the port waiting for the chip's place. -/
def Tray.waitsPlace (t : Tray) (c e : Nat) (x : IdentInfo) : Tray := (t.knowsPartner c e x).setPst c e S.IDENT_WAIT

/-- An IDENT while the chip's place is not known. -/
theorem Tray.identFrameIn_waits {t : Tray} {c e : Nat} {f : MFrame} (he : e < 64) (hok : fOk f = true)
    (hf : fByte f 0 = M.IDENT) (hp : t.pst c e = S.IDENT) (ht : t.topoOk c = false) :
    t.identFrameIn c e f = t.waitsPlace c e (identOf f) := by
  have hph : t.phase c e = S.IDENT := Tray.phase_of_pst hp (by decide)
  have hp' : (t.knowsPartner c e (identOf f)).pst c e ≠ S.RETRAIN := by
    rw [t.knowsPartner_pst c he, hp]; decide
  unfold Tray.identFrameIn Tray.waitsPlace
  rw [if_pos ⟨hok, hf, .inl hph⟩, ← Tray.setPhase_of_pst _ hp']
  exact if_neg (by rw [ht]; decide)

theorem Tray.waitsPlace_pst (t : Tray) (c : Nat) {e : Nat} (he : e < 64) (x : IdentInfo) :
    (t.waitsPlace c e x).pst c e = S.IDENT_WAIT := Tray.setPst_pst _ _ _ _ he (by decide)

theorem Tray.waitsPlace_port (t : Tray) (c e : Nat) (x : IdentInfo) :
    (t.waitsPlace c e x).port c e = { t.port c e with ident := some x } := by
  have hports : (t.waitsPlace c e x).ports = (t.knowsPartner c e x).ports := Tray.setPst_ports ..
  have hport : (t.knowsPartner c e x).port c e = { (t.showPartner c e x).port c e with ident := some x } := by
    unfold Tray.knowsPartner
    rw [Tray.port_modPort]
  have hshow : (t.showPartner c e x).port c e = t.port c e := by
    unfold Tray.port
    rw [(t.showPartner_stays c e x).blocks.2.1]
  rw [← hshow, ← hport]
  unfold Tray.port
  rw [hports]

theorem Tray.waitsPlace_reads (t : Tray) (c : Nat) {e : Nat} (he : e < 64) (x : IdentInfo) :
    (t.waitsPlace c e x).gf (portPg c e) F.PORT_PARTNER_EP = x.ep % 64 ∧
    (t.waitsPlace c e x).gf (portPg c e) F.PORT_PARTNER_RACK_ID = x.rack % 2 ^ 32 := by
  have hrd : (t.waitsPlace c e x).rd (portPg c e) A.PORT_PARTNER = (t.showPartner c e x).rd (portPg c e) A.PORT_PARTNER := by
    unfold Tray.waitsPlace Tray.knowsPartner
    rw [Tray.setPst_rd _ _ _ _ _ _ (by decide) (not_stateReg_portPg he (by decide) (by decide)), Tray.rd_modPort]
  obtain ⟨hep, hrack⟩ := t.showPartner_reads c e x
  exact ⟨(congrArg F.PORT_PARTNER_EP.get hrd).trans hep, (congrArg F.PORT_PARTNER_RACK_ID.get hrd).trans hrack⟩

theorem Tray.waitsPlace_stays (t : Tray) (c : Nat) {e : Nat} (he : e < 64) (x : IdentInfo) :
    t.StaysBut (t.waitsPlace c e x) c e (portArea c e) :=
  ((t.knowsPartner_stays c he x).mono fun _ _ h => .inl h.1).trans
    ((((t.knowsPartner c e x).setPst_stays c e S.IDENT_WAIT).mono fun _ _ h => portArea_of_stateReg h).butPort c e)

/-- IDENT, R122 and R28: the partner is shown and the port waits. -/
theorem ident_waits {s : State} {c : Fin 5} {e : Fin 64} (hs : s.tray.settled c.val) {f : MFrame} (hok : fOk f = true)
    (hf : fByte f 0 = M.IDENT) (hp : s.tray.pst c.val e.val = S.IDENT) (ht : s.tray.topoOk c.val = false) :
    Completes (.ident c e f) s (fun t =>
      t.tray.pst c.val e.val = S.IDENT_WAIT ∧
      t.tray.gf (portPg c.val e.val) F.PORT_PARTNER_EP = (identOf f).ep % 64 ∧
      t.tray.gf (portPg c.val e.val) F.PORT_PARTNER_RACK_ID = (identOf f).rack ∧
      (t.tray.port c.val e.val).ident = some (identOf f) ∧
      s.tray.keepsRegs t.tray (portArea c.val e.val) ∧ s.tray.keepsOtherPorts t.tray c.val e.val) := by
  have he := e.isLt
  obtain ⟨hep, hrack⟩ := s.tray.waitsPlace_reads c.val he (identOf f)
  have hstay := s.tray.waitsPlace_stays c.val he (identOf f)
  refine completes_runC (exec_ident ..) (Tray.identFrameIn_waits he hok hf hp ht) (hstay.settled hs) fun t ht =>
    ⟨(ht.gf ..).trans (Tray.waitsPlace_pst _ _ he _), (ht.gf ..).trans hep,
      (ht.gf ..).trans (hrack.trans (Nat.mod_eq_of_lt (identOf_rack_lt f))), ?_, ht.staysBut hstay⟩
  rw [ht.port, Tray.waitsPlace_port]

end Sys2Proof.Machine
end

section
/-! SUPPORT. The echoes of the round-trip measurement (R119, R126): requests, answers, intervals. -/
namespace Sys2Proof.Machine

theorem exec_echoReq (c : Fin 5) (e : Fin 64) (f : MFrame) (r : BitVec 32) (s : State) :
    exec (.echoReq c e f r) s = .next (s.run (fun t => t.echoReq c.val e.val f r.toNat)) := rfl
theorem exec_echoTimeout (c : Fin 5) (e : Fin 64) (tok : BitVec 16) (s : State) :
    exec (.echoTimeout c e tok) s = .next (s.run (fun t => t.echoTimeout c.val e.val tok.toNat)) := rfl
theorem exec_echoRsp (c : Fin 5) (e : Fin 64) (f : MFrame) (interval : Nat) (s : State) :
    exec (.echoRsp c e f interval) s = .next (s.runC c.val (fun t => t.echoRsp c.val e.val f interval)) := rfl
theorem exec_rttRemeasure (c : Fin 5) (e : Fin 64) (r : Remeasure) (s : State) :
    exec (.rttRemeasure c e r) s = .next (s.run (fun t => t.remeasure c.val e.val r)) := rfl

/-! ### Requests -/

theorem Tray.echoReq_answered {t : Tray} {c e : Nat} {f : MFrame} (r : Nat) (hok : fOk f = true)
    (hf : fByte f 0 = M.ECHO_REQ) (hp : t.pst c e = S.MEASURE) :
    t.echoReq c e f r = t.emit (.maint c e (echoReply (fNum f 2 2) r)) := by
  have hph : t.phase c e = S.MEASURE := Tray.phase_of_pst hp (by decide)
  unfold Tray.echoReq
  exact if_pos ⟨hok, hf, .inr (.inr (.inl hph))⟩

/-- ECHO_REQ, R119: answered under its token. -/
theorem echoReq_answered {s : State} {c : Fin 5} {e : Fin 64} {f : MFrame} (r : BitVec 32) (hok : fOk f = true)
    (hf : fByte f 0 = M.ECHO_REQ) (hp : s.tray.pst c.val e.val = S.MEASURE) :
    Completes (.echoReq c e f r) s (fun t =>
      (∃ g, Out.maint c.val e.val g ∈ t.tray.out ∧ fOk g = true ∧ fByte g 0 = M.ECHO_RSP ∧ fNum g 2 2 = fNum f 2 2 ∧
        fNum g 4 4 = r.toNat) ∧
      s.tray.keepsRegs t.tray (fun _ _ => False) ∧ s.tray.keepsBlocks t.tray) :=
  completes_run (exec_echoReq ..) (Tray.echoReq_answered r.toNat hok hf hp) fun _ ht =>
    ⟨⟨_, ht.emits List.mem_cons_self, echoReply_reads (fNum_lt f 2 2) r.isLt⟩, ht.stays ((Tray.Stays.refl ..).emit _)⟩

theorem Tray.sendEcho_port (t : Tray) (c e : Nat) :
    (t.sendEcho c e).port c e = { t.port c e with
      tokens := (t.port c e).tokens ++ [((t.port c e).nextToken, (t.port c e).nextOrder)]
      nextToken := ((t.port c e).nextToken + 1) % 65536
      nextOrder := (t.port c e).nextOrder + 1 } := Tray.port_setPort ..

theorem Tray.sendEcho_emits (t : Tray) (c e : Nat) :
    Out.maint c e (noteFrame M.ECHO_REQ (t.port c e).nextToken) ∈ (t.sendEcho c e).out := List.mem_cons_self

theorem Tray.sendEcho_stays (t : Tray) (c : Nat) {e : Nat} (he : e < 64) (R : Nat → Nat → Prop) :
    t.StaysBut (t.sendEcho c e) c e R := ((Tray.StaysBut.refl ..).setPort he _).emit _

/-- The port no longer awaits the answer to a token. -/
def Tray.dropToken (t : Tray) (c e tok : Nat) : Tray :=
  t.setPort c e { t.port c e with tokens := (t.port c e).tokens.filter (fun b => b.1 != tok) }

theorem Tray.echoTimeout_awaited {t : Tray} {c e tok : Nat} (h : (t.port c e).tokens.any (fun a => a.1 == tok) = true) :
    t.echoTimeout c e tok = (t.dropToken c e tok).sendEcho c e := if_pos h

/-- ECHO_TIMEOUT, R126: a request under a new token for the one that is missing. -/
theorem echoTimeout_asksAgain {s : State} {c : Fin 5} {e : Fin 64} {tok : BitVec 16}
    (h : (s.tray.port c.val e.val).tokens.any (fun a => a.1 == tok.toNat) = true) :
    Completes (.echoTimeout c e tok) s (fun t =>
      (t.tray.port c.val e.val).tokens = (s.tray.port c.val e.val).tokens.filter (fun b => b.1 != tok.toNat) ++
        [((s.tray.port c.val e.val).nextToken, (s.tray.port c.val e.val).nextOrder)] ∧
      (∃ g, Out.maint c.val e.val g ∈ t.tray.out ∧ fByte g 0 = M.ECHO_REQ) ∧
      s.tray.keepsRegs t.tray (fun _ _ => False) ∧ s.tray.keepsOtherPorts t.tray c.val e.val) := by
  have he := e.isLt
  refine completes_run (exec_echoTimeout ..) (Tray.echoTimeout_awaited h) fun t ht =>
    ⟨?_, ⟨_, ht.emits (Tray.sendEcho_emits ..), fByte_noteFrame _ _ (by decide)⟩,
      ht.staysBut (((Tray.StaysBut.refl ..).setPort he _).trans (Tray.sendEcho_stays _ _ he _))⟩
  rw [ht.port, Tray.sendEcho_port]
  unfold Tray.dropToken
  rw [Tray.port_setPort]

/-! ### A measurement begins -/

theorem Tray.each_sendEcho_tokens (c e : Nat) (l : List Nat) (t : Tray) :
    ((t.each l (fun t _ => t.sendEcho c e)).port c e).tokens.length = (t.port c e).tokens.length + l.length := by
  induction l generalizing t with
  | nil => rfl
  | cons a l ih =>
    refine (ih (t.sendEcho c e)).trans ?_
    rw [Tray.sendEcho_port, List.length_append, List.length_cons, List.length_cons, List.length_nil]
    omega

theorem Tray.beginEchoes_tokens (t : Tray) (c e : Nat) : ((t.beginEchoes c e).port c e).tokens.length = 16 := by
  unfold Tray.beginEchoes
  rw [Tray.each_sendEcho_tokens, Tray.port_modPort, List.length_range]
  rfl

theorem Tray.beginEchoes_remeasuring (t : Tray) (c e : Nat) :
    ((t.beginEchoes c e).port c e).remeasuring = (t.port c e).remeasuring := by
  unfold Tray.beginEchoes
  rw [Tray.each_same (fun u => (u.port c e).remeasuring) _ _ (fun u _ _ => by rw [Tray.sendEcho_port]), Tray.port_modPort]

theorem Tray.beginEchoes_stays (t : Tray) (c : Nat) {e : Nat} (he : e < 64) (R : Nat → Nat → Prop) :
    t.StaysBut (t.beginEchoes c e) c e R :=
  ((Tray.StaysBut.refl t c e R).modPort he _).trans
    (Tray.StaysBut.each _ _ (fun u _ _ => u.sendEcho_stays c he R) _)

theorem Tray.remeasure_begins {t : Tray} {c e : Nat} (hp : t.pst c e = S.UP) (hr : (t.port c e).remeasuring = false) :
    t.remeasure c e .begins = (t.setPort c e { t.port c e with remeasuring := true }).beginEchoes c e := by
  unfold Tray.remeasure
  exact (if_neg (not_not.2 ((t.up_iff c e).2 hp))).trans (if_neg (by rw [hr]; decide))

/-- RTT_REMEASURE, R126: sixteen requests are out. -/
theorem rttRemeasure_begins {s : State} {c : Fin 5} {e : Fin 64} (hp : s.tray.pst c.val e.val = S.UP)
    (hr : (s.tray.port c.val e.val).remeasuring = false) :
    Completes (.rttRemeasure c e .begins) s (fun t =>
      (t.tray.port c.val e.val).remeasuring = true ∧ (t.tray.port c.val e.val).tokens.length = 16 ∧
      s.tray.keepsRegs t.tray (fun _ _ => False) ∧ s.tray.keepsOtherPorts t.tray c.val e.val) := by
  have he := e.isLt
  refine completes_run (exec_rttRemeasure ..) (Tray.remeasure_begins hp hr) fun t ht =>
    ⟨?_, ?_, ht.staysBut (((Tray.StaysBut.refl ..).setPort he _).trans (Tray.beginEchoes_stays _ _ he _))⟩
  · rw [ht.port, Tray.beginEchoes_remeasuring, Tray.port_setPort]
  · rw [ht.port, Tray.beginEchoes_tokens]

/-! ### An interval arrives -/

/-- The port with one more interval, its token no longer awaited. -/
def Tray.tookEcho (t : Tray) (c e tok : Nat) (x : Echo) : Tray :=
  t.setPort c e { t.port c e with
    tokens := (t.port c e).tokens.filter (fun b => b.1 != tok), echoes := (t.port c e).echoes ++ [x] }

theorem Tray.tookEcho_stays (t : Tray) (c : Nat) {e : Nat} (he : e < 64) (tok : Nat) (x : Echo) (R : Nat → Nat → Prop) :
    t.StaysBut (t.tookEcho c e tok x) c e R := (Tray.StaysBut.refl ..).setPort he _

/-- The echo of the request `a` = (token, place in the order of sending), by its response `f`. -/
abbrev Echo.heard (a : Nat × Nat) (interval : Nat) (f : MFrame) : Echo := ⟨a.2, interval, fNum f 4 4⟩

/-- The frame is an ECHO_RSP in time that answers the request `a` (R126). -/
def Tray.hears (t : Tray) (c e : Nat) (f : MFrame) (interval : Nat) (a : Nat × Nat) : Prop :=
  fOk f = true ∧ fByte f 0 = M.ECHO_RSP ∧ interval ≤ 8000 ∧
    (t.port c e).tokens.find? (fun a => a.1 == fNum f 2 2) = some a

/-- The intervals of the port with that of a response. -/
abbrev Tray.echoesWith (t : Tray) (c e : Nat) (x : Echo) : List Echo := (t.port c e).echoes ++ [x]

/-- The interval of a response is kept; with the sixteenth the measurement ends. -/
theorem Tray.echoRsp_heard {t : Tray} {c e : Nat} {f : MFrame} {interval : Nat} {a : Nat × Nat}
    (h : t.hears c e f interval a) :
    let x := Echo.heard a interval f
    let u := t.tookEcho c e (fNum f 2 2) x
    t.echoRsp c e f interval = if (t.echoesWith c e x).length < 16 then u
      else match medianEcho (t.echoesWith c e x) with
        | some m => u.echoesDone c e m
        | none => u := by
  obtain ⟨hok, hf, hi, ha⟩ := h
  unfold Tray.echoRsp
  dsimp only
  rw [if_neg (by simp [hok, hf, hi]), ha]
  rfl

/-- With the sixteenth interval the measurement ends on the median. -/
theorem Tray.echoRsp_sixteenth {t : Tray} {c e : Nat} {f : MFrame} {interval : Nat} {a : Nat × Nat} {m : Echo}
    (h : t.hears c e f interval a) (hlen : 16 ≤ (t.echoesWith c e (.heard a interval f)).length)
    (hm : medianEcho (t.echoesWith c e (.heard a interval f)) = some m) :
    t.echoRsp c e f interval = (t.tookEcho c e (fNum f 2 2) (.heard a interval f)).echoesDone c e m := by
  rw [Tray.echoRsp_heard h, if_neg (Nat.not_lt.2 hlen), hm]

/-- The registers of a finished measurement, which waits for no echo (R126). -/
def Tray.measured (t : Tray) (c e : Nat) (m : Echo) : Tray :=
  ((((t.sf (portPg c e) F.PORT_RTT_RTT_RAW m.interval).sf (portPg c e) F.PORT_RTT_RESIDENCE m.residence).sf (portPg c e)
    F.PORT_RTT_CABLE m.cable).cnt (portPg c e) F.PORT_RTT_MEAS_CNT 1).modPort c e (fun p =>
      { p with tokens := [], echoes := [], remeasuring := false })

theorem Tray.measured_cable (t : Tray) (c e : Nat) (m : Echo) :
    (t.measured c e m).gf (portPg c e) F.PORT_RTT_CABLE = m.cable % 2 ^ F.PORT_RTT_CABLE.w := by
  unfold Tray.measured
  simp (disch := decide) only [Tray.gf_modPort, Tray.gf_cnt_ne, Tray.gf_sf_self]

theorem Tray.measured_stays (t : Tray) (c : Nat) {e : Nat} (he : e < 64) (m : Echo) :
    t.StaysBut (t.measured c e m) c e (fun q o => q = portPg c e ∧ o = A.PORT_RTT) := by
  have hregs := (((((Tray.Stays.refl t (fun q o => q = portPg c e ∧ o = A.PORT_RTT)).sf (f := F.PORT_RTT_RTT_RAW) m.interval
    ⟨rfl, rfl⟩ (by decide)).sf (f := F.PORT_RTT_RESIDENCE) m.residence ⟨rfl, rfl⟩ (by decide)).sf (f := F.PORT_RTT_CABLE)
    m.cable ⟨rfl, rfl⟩ (by decide)).cnt (f := F.PORT_RTT_MEAS_CNT) 1 ⟨rfl, rfl⟩ (by decide))
  exact (hregs.butPort c e).modPort he _

theorem Tray.measured_pst (t : Tray) (c : Nat) {e : Nat} (he : e < 64) (m : Echo) :
    (t.measured c e m).pst c e = t.pst c e :=
  Tray.keepsRegs_pst (t.measured_stays c he m).regs (fun h => absurd h.2 (by decide))

theorem Tray.measured_mgmt (t : Tray) (c e : Nat) (m : Echo) :
    (t.measured c e m).hal = t.hal ∧ (t.measured c e m).logq = t.logq := ⟨rfl, rfl⟩

/-- The tray whose port has failed training for the length of its cable (R31, R126). -/
def Tray.cableFailed (t : Tray) (c e : Nat) (m : Echo) : Tray :=
  (((t.measured c e m).trainFail c e Cz.CABLE_LENGTH).setAlarm c e Al.CABLE_LEN true).logChip .cableLength c [e, m.cable]

theorem Tray.echoesDone_long {t : Tray} {c e : Nat} {m : Echo} (hp : t.pst c e = S.MEASURE) (hm : 640 < m.cable) :
    t.echoesDone c e m = t.cableFailed c e m := by
  have hup : ¬ t.up c e = true := by rw [Tray.up_iff, hp]; decide
  unfold Tray.echoesDone
  dsimp only
  rw [if_pos hm, if_neg hup]
  rfl

/-- A cable that is short enough gives LINK_OK, and the port waits for the partner's. -/
theorem Tray.echoesDone_waits {t : Tray} {c e : Nat} {m : Echo} (hp : t.pst c e = S.MEASURE) (hm : m.cable ≤ 640)
    (hl : (t.port c e).peerLinkOk = false) :
    t.echoesDone c e m = (t.measured c e m).modPort c e (fun p => { p with linkOk := true }) := by
  have hup : ¬ t.up c e = true := by rw [Tray.up_iff, hp]; decide
  have hl' : (((t.measured c e m).modPort c e (fun p => { p with linkOk := true })).port c e).peerLinkOk = false := by
    unfold Tray.measured
    rw [Tray.port_modPort, Tray.port_modPort]
    exact hl
  unfold Tray.echoesDone
  dsimp only
  rw [if_neg (by omega), if_neg hup]
  exact if_neg fun h => absurd (hl'.symm.trans h.2.2) (by decide)

/-- ECHO_RSP before the sixteenth, R126: the interval is kept. -/
theorem echoRsp_keepsInterval {s : State} {c : Fin 5} {e : Fin 64} (hs : s.tray.settled c.val) {f : MFrame}
    {interval : Nat} {a : Nat × Nat} (h : s.tray.hears c.val e.val f interval a)
    (hlen : (s.tray.echoesWith c.val e.val (.heard a interval f)).length < 16) :
    Completes (.echoRsp c e f interval) s (fun t =>
      (t.tray.port c.val e.val).echoes = s.tray.echoesWith c.val e.val (.heard a interval f) ∧
      s.tray.keepsRegs t.tray (fun _ _ => False) ∧ s.tray.keepsOtherPorts t.tray c.val e.val) := by
  have hstay := s.tray.tookEcho_stays c.val e.isLt (fNum f 2 2) (.heard a interval f) (fun _ _ => False)
  refine completes_runC (exec_echoRsp ..) ((Tray.echoRsp_heard h).trans (if_pos hlen)) (hstay.settled hs)
    fun t ht => ⟨?_, ht.staysBut hstay⟩
  rw [ht.port]
  unfold Tray.tookEcho
  rw [Tray.port_setPort]

theorem Tray.tookEcho_pst (t : Tray) (c e tok : Nat) (x : Echo) : (t.tookEcho c e tok x).pst c e = t.pst c e := rfl

theorem Tray.tookEcho_mgmt (t : Tray) (c e tok : Nat) (x : Echo) :
    (t.tookEcho c e tok x).hal = t.hal ∧ (t.tookEcho c e tok x).logq = t.logq := ⟨rfl, rfl⟩

theorem Tray.tookEcho_peerLinkOk (t : Tray) (c e tok : Nat) (x : Echo) :
    ((t.tookEcho c e tok x).port c e).peerLinkOk = (t.port c e).peerLinkOk := by
  unfold Tray.tookEcho
  rw [Tray.port_setPort]

/-- ECHO_RSP with the sixteenth, R126: a cable within 160 ns is shown, and the tray's own steps are complete. -/
theorem echoRsp_linkOk {s : State} {c : Fin 5} {e : Fin 64} (hs : s.tray.settled c.val) {f : MFrame}
    {interval : Nat} {a : Nat × Nat} {m : Echo} (h : s.tray.hears c.val e.val f interval a)
    (hlen : 16 ≤ (s.tray.echoesWith c.val e.val (.heard a interval f)).length)
    (hm : medianEcho (s.tray.echoesWith c.val e.val (.heard a interval f)) = some m)
    (hp : s.tray.pst c.val e.val = S.MEASURE) (hl : (s.tray.port c.val e.val).peerLinkOk = false)
    (hcable : m.cable ≤ 640) :
    Completes (.echoRsp c e f interval) s (fun t =>
      t.tray.gf (portPg c.val e.val) F.PORT_RTT_CABLE = m.cable ∧ (t.tray.port c.val e.val).linkOk = true ∧
      s.tray.keepsRegs t.tray (portArea c.val e.val) ∧ s.tray.keepsOtherPorts t.tray c.val e.val) := by
  have he := e.isLt
  have hdone := (Tray.echoRsp_sixteenth h hlen hm).trans
    (Tray.echoesDone_waits hp hcable ((Tray.tookEcho_peerLinkOk ..).trans hl))
  have hstay := ((s.tray.tookEcho_stays c.val he (fNum f 2 2) (.heard a interval f) (portArea c.val e.val)).trans
    ((Tray.measured_stays _ c.val he m).mono fun _ _ h => .inl h.1)).modPort he (fun p => { p with linkOk := true })
  refine completes_runC (exec_echoRsp ..) hdone (hstay.settled hs) fun t ht => ⟨?_, ?_, ht.staysBut hstay⟩
  · rw [ht.gf, Tray.gf_modPort, Tray.measured_cable]
    exact Nat.mod_eq_of_lt (lt_of_le_of_lt hcable (by decide))
  · rw [ht.port, Tray.port_modPort]

end Sys2Proof.Machine
end

section
/-! SUPPORT. A training attempt that fails outside RETRAIN (R122, R123), and the cable that is too long (R31, R126). -/
namespace Sys2Proof.Machine

theorem Tray.trainFail_eq {t : Tray} {c e : Nat} (cause : Nat) (he : e < 64) (hr : t.pst c e ≠ S.RETRAIN)
    (hw : t.hal.waitPorts = false) :
    t.trainFail c e cause = (t.sat (portPg c e) F.PORT_TRAIN_STS_ATTEMPTS 1).portTo c e
      (if heldCause cause then S.HELD else S.HOLDOFF) cause := by
  unfold Tray.trainFail
  rw [if_neg hr]
  refine Tray.roleGo_regs _ ?_
  rw [(Tray.portTo_mgmt _ _ _ _ _ he).1]
  exact hw

/-- A register that a failed attempt leaves. -/
theorem Tray.trainFail_rd {t : Tray} {c e : Nat} (cause : Nat) (he : e < 64) (hr : t.pst c e ≠ S.RETRAIN)
    (hw : t.hal.waitPorts = false) {q o : Nat} (ho : o < 4096) (hf : abortFree c q o) (hst : ¬ stateReg c e q o)
    (ha : ¬ (q = portPg c e ∧ o = 0x48)) : (t.trainFail c e cause).rd q o = t.rd q o := by
  rw [Tray.trainFail_eq cause he hr hw, Tray.portTo_rd _ _ _ _ _ _ _ he ho hf hst ha]
  refine (Tray.rd_wr ..).trans (if_neg ?_)
  rw [regKey_inj ho (by decide)]
  exact fun h => hst (.inl ⟨h.1, .inl h.2⟩)

theorem Tray.trainFail_keeps {t : Tray} {c e : Nat} (cause : Nat) (he : e < 64) (hr : t.pst c e ≠ S.RETRAIN)
    (hw : t.hal.waitPorts = false) : t.keepsRegs (t.trainFail c e cause) (portDown c e) := by
  intro q o ho hn
  obtain ⟨harea, hfree⟩ := not_or.1 hn
  exact Tray.trainFail_rd cause he hr hw ho (not_not.1 hfree) (fun h => harea (portArea_of_stateReg h))
    (fun h => harea (.inl h.1))

theorem Tray.trainFail_logq {t : Tray} {c e : Nat} (cause : Nat) (he : e < 64) (hr : t.pst c e ≠ S.RETRAIN)
    (hw : t.hal.waitPorts = false) : (t.trainFail c e cause).logq = t.logq := by
  rw [Tray.trainFail_eq cause he hr hw]
  exact (Tray.portTo_mgmt _ _ _ _ _ he).2

theorem Tray.setAlarm_logq (t : Tray) (c e i : Nat) (b : Bool) : (t.setAlarm c e i b).logq = t.logq := by
  unfold Tray.setAlarm
  dsimp only
  split
  · rfl
  · split
    · exact Tray.raise_logq ..
    · rfl

theorem Tray.logs_of_logq {t v u : Tray} {ev : Ev} {c : Nat} {data : List Nat} (h : v.logq = t.logq)
    (hl : v.logs u ev c data) : t.logs u ev c data := by
  obtain ⟨x, hx, hsays⟩ := hl
  exact ⟨x, h ▸ hx, hsays⟩

/-! ### What the jobs' sweep leaves of a port that went down -/

theorem JobSide.rd_portPg {c : Nat} {u w : Tray} (h : JobSide c u w) {e o : Nat} (he : e < 64) (ho : o < 4096) :
    w.rd (portPg c e) o = u.rd (portPg c e) o :=
  h.rd _ _ ho ((jobFree_chipPg c _ (by omega)).2 (.inl (by omega)))

theorem JobSide.gf_portPg {c : Nat} {u w : Tray} (h : JobSide c u w) {e : Nat} (he : e < 64) (f : Fld)
    (ho : f.off < 4096) : w.gf (portPg c e) f = u.gf (portPg c e) f := congrArg f.get (h.rd_portPg he ho)

theorem JobSide.keepsDown {c e : Nat} {t u w : Tray} (h : JobSide c u w) (hk : t.keepsRegs u (portDown c e)) :
    t.keepsRegs w (portDown c e) := by
  intro q o ho hn
  have hfree : abortFree c q o := not_not.1 (not_or.1 hn).2
  exact (h.keeps q o ho (TrafficSide.jobFree_of hfree.1)).trans (hk q o ho hn)

/-! ### The cable is too long -/

/-- The alarm and the log entry leave the other registers of the port's page as the failed attempt left them. -/
theorem Tray.cableFailed_rd (t : Tray) (c e : Nat) (m : Echo) {o : Nat} (ho : o < 4096) (h : o ≠ A.PORT_ALARM) (h' : o ≠ 0x20) :
    (t.cableFailed c e m).rd (portPg c e) o = ((t.measured c e m).trainFail c e Cz.CABLE_LENGTH).rd (portPg c e) o :=
  Tray.setAlarm_keeps _ _ _ _ _ _ _ ho (fun hr => hr.2.elim h h')

section
variable {t : Tray} {c e : Nat} {m : Echo} (he : e < 64) (hp : t.pst c e = S.MEASURE) (hw : t.hal.waitPorts = false)
include he hp

theorem Tray.measured_not_retrain : (t.measured c e m).pst c e ≠ S.RETRAIN := by
  rw [t.measured_pst c he m, hp]; decide

include hw

theorem Tray.cableFailed_keeps : t.keepsRegs (t.cableFailed c e m) (portDown c e) := by
  have hmeas : t.keepsRegs (t.measured c e m) (portDown c e) :=
    Tray.keepsRegs_mono (t.measured_stays c he m).regs fun _ _ h => .inl (.inl h.1)
  have hfail := Tray.trainFail_keeps (t := t.measured c e m) Cz.CABLE_LENGTH he (Tray.measured_not_retrain he hp) hw
  have halarm := Tray.keepsRegs_mono (Q := portDown c e)
    (((t.measured c e m).trainFail c e Cz.CABLE_LENGTH).setAlarm_keeps c e Al.CABLE_LEN true) fun _ _ h => .inl (.inl h.1)
  exact Tray.keepsRegs_trans (Tray.keepsRegs_trans hmeas hfail) halarm

theorem Tray.cableFailed_shows : (t.cableFailed c e m).portShows c e S.HELD Cz.CABLE_LENGTH := by
  obtain ⟨hst, hcause⟩ := (t.measured c e m).trainFail_goes c e Cz.CABLE_LENGTH he (Tray.measured_not_retrain he hp)
    (by decide) hw
  have hrd := t.cableFailed_rd c e m (o := A.PORT_TRAIN_STS) (by decide) (by decide) (by decide)
  exact ⟨(congrArg F.PORT_TRAIN_STS_STATE.get hrd).trans hst, (congrArg F.PORT_TRAIN_STS_CAUSE.get hrd).trans hcause⟩

theorem Tray.cableFailed_cable :
    (t.cableFailed c e m).gf (portPg c e) F.PORT_RTT_CABLE = m.cable % 2 ^ F.PORT_RTT_CABLE.w := by
  have hfail := Tray.trainFail_rd (t := t.measured c e m) Cz.CABLE_LENGTH he (Tray.measured_not_retrain he hp) hw
    (q := portPg c e) (o := A.PORT_RTT) (by decide) (abortFree_port c e he _ (by decide))
    (not_stateReg_portPg he (by decide) (by decide)) (fun h => absurd h.2 (by decide))
  have hrd := (t.cableFailed_rd c e m (o := A.PORT_RTT) (by decide) (by decide) (by decide)).trans hfail
  exact (congrArg F.PORT_RTT_CABLE.get hrd).trans (t.measured_cable c e m)

theorem Tray.cableFailed_logs : t.logs (t.cableFailed c e m) .cableLength c [e, m.cable] := by
  refine Tray.logs_logChip _ _ _ _ _ ?_
  rw [Tray.setAlarm_logq, Tray.trainFail_logq _ he (Tray.measured_not_retrain he hp) hw]
  exact (t.measured_mgmt c e m).2

end

theorem Tray.cableFailed_alarm (t : Tray) (c e : Nat) (m : Echo) :
    bitOf ((t.cableFailed c e m).gf (portPg c e) F.PORT_ALARM_ALARMS) Al.CABLE_LEN = true :=
  Tray.setAlarm_shows _ _ _ _ _ (by decide)

/-- ECHO_RSP with the sixteenth, R126: a cable above 160 ns holds the port. -/
theorem echoRsp_cableLength {s : State} {c : Fin 5} {e : Fin 64} {f : MFrame} {interval : Nat} {a : Nat × Nat} {m : Echo}
    (h : s.tray.hears c.val e.val f interval a)
    (hlen : 16 ≤ (s.tray.echoesWith c.val e.val (.heard a interval f)).length)
    (hm : medianEcho (s.tray.echoesWith c.val e.val (.heard a interval f)) = some m)
    (hp : s.tray.pst c.val e.val = S.MEASURE) (hw : s.tray.hal.waitPorts = false) (hcable : 640 < m.cable) :
    Completes (.echoRsp c e f interval) s (fun t =>
      t.tray.portShows c.val e.val S.HELD Cz.CABLE_LENGTH ∧
      t.tray.gf (portPg c.val e.val) F.PORT_RTT_CABLE = m.cable % 2 ^ F.PORT_RTT_CABLE.w ∧
      bitOf (t.tray.gf (portPg c.val e.val) F.PORT_ALARM_ALARMS) Al.CABLE_LEN = true ∧
      s.tray.logs t.tray .cableLength c.val [e.val, m.cable] ∧
      s.tray.keepsRegs t.tray (portDown c.val e.val)) := by
  have he := e.isLt
  have hdone := (Tray.echoRsp_sixteenth h hlen hm).trans (Tray.echoesDone_long hp hcable)
  have htook := (s.tray.tookEcho_stays c.val he (fNum f 2 2) (.heard a interval f) (portDown c.val e.val)).regs
  have hpv := (s.tray.tookEcho_pst c.val e.val (fNum f 2 2) (.heard a interval f)).trans hp
  obtain ⟨hhal, hlogq⟩ := s.tray.tookEcho_mgmt c.val e.val (fNum f 2 2) (.heard a interval f)
  generalize s.tray.tookEcho c.val e.val (fNum f 2 2) (.heard a interval f) = v at hdone htook hpv hhal hlogq
  have hwv : v.hal.waitPorts = false := by rw [hhal, hw]
  have hlogs := Tray.logs_of_logq hlogq (Tray.cableFailed_logs (m := m) he hpv hwv)
  obtain ⟨hst, hcause⟩ := Tray.cableFailed_shows (m := m) he hpv hwv
  refine completes_runC_side (exec_echoRsp ..) hdone fun w t hside ht =>
    ⟨⟨?_, ?_⟩, ?_, ?_, Tray.logs_after hlogs hside ht,
      ht.keepsRegs (hside.keepsDown (Tray.keepsRegs_trans htook (Tray.cableFailed_keeps he hpv hwv)))⟩
  · exact (ht.gf ..).trans ((hside.gf_portPg he _ (by decide)).trans hst)
  · exact (ht.gf ..).trans ((hside.gf_portPg he _ (by decide)).trans hcause)
  · exact (ht.gf ..).trans ((hside.gf_portPg he _ (by decide)).trans (Tray.cableFailed_cable he hpv hwv))
  · rw [ht.gf, hside.gf_portPg he _ (by decide)]
    exact Tray.cableFailed_alarm ..

/-- Settles O19, command by command; ECHO_RSP by whether it is the sixteenth and how long the cable is. -/
theorem identAndRoundTrip : Obligations.IdentAndRoundTrip := by
  intro s c e hs
  refine ⟨fun f => ident_waits hs, fun f r => echoReq_answered r, fun tok => echoTimeout_asksAgain,
    fun f interval a hok hf hi ha => ⟨?few, ?long, ?short⟩, rttRemeasure_begins⟩
  case few => exact echoRsp_keepsInterval hs ⟨hok, hf, hi, ha⟩
  case long => exact fun hlen hp hw m hm => echoRsp_cableLength ⟨hok, hf, hi, ha⟩ hlen hm hp hw
  case short => exact fun hlen hp hl m hm => echoRsp_linkOk hs ⟨hok, hf, hi, ha⟩ hlen hm hp hl

end Sys2Proof.Machine
end

section
/-! SUPPORT. Accesses that are not performed (R68, R71, R76): what each leaves of the tray, and how it is answered. -/
namespace Sys2Proof.Machine

theorem exec_unsupportedRequest (sp : Fin 6) (page off : BitVec 12) (width : Nat) (w : Bool) (s : State) :
    exec (.unsupportedRequest sp page off width w) s =
      .next (s.run (fun t => t.badAccess sp.val page.toNat off.toNat width w)) := rfl

theorem exec_unimplementedPageAccess (sp : Fin 6) (page off : BitVec 12) (w : Bool) (s : State) :
    exec (.unimplementedPageAccess sp page off w) s =
      .next (s.run (fun t => t.noPage sp.val page.toNat off.toNat w)) := rfl

theorem exec_domainDown (c : Fin 5) (page off : BitVec 12) (w : Bool) (s : State) :
    exec (.domainDown c page off w) s = .next (s.run (fun t => t.downAccess c.val page.toNat off.toNat w)) := rfl

/-! ### Which accesses are refused -/

theorem Tray.badAccess_refused {t : Tray} {sp page off width : Nat} (w : Bool) (hr : t.reaches sp = true)
    (ha : ¬ (width = 8 ∧ off % 8 = 0)) (hk : pageKind (sp * 4096 + page) ≠ none) :
    t.badAccess sp page off width w =
      (t.recErr (sp * 4096 + page) (if width = 8 then E.ALIGN else E.WIDTH) ⟨0, off, w⟩).unsupported (sp * 4096 + page)
        off width w := by
  unfold Tray.badAccess
  dsimp only
  rw [if_neg (not_or.2 ⟨not_not.2 hr, ha⟩), if_neg hk]

theorem Tray.noPage_refused {t : Tray} {sp page : Nat} (off : Nat) (w : Bool) (hr : t.reaches sp = true)
    (hk : pageKind (sp * 4096 + page) = none) :
    t.noPage sp page off w = t.unsupported (sp * 4096 + page) off 8 w := by
  unfold Tray.noPage
  exact if_neg (not_or.2 ⟨not_not.2 hr, not_not.2 hk⟩)

theorem Tray.downAccess_refused {t : Tray} {c page off : Nat} (w : Bool) (hr : t.reaches c = true)
    (hk : pageKind (c * 4096 + page) ≠ none) (ha : off % 8 = 0) (hd : t.domainUp (c * 4096 + page) off = false) :
    t.downAccess c page off w = t.domainAbort (c * 4096 + page) off 0 w := by
  unfold Tray.downAccess
  exact if_neg (by simp [hr, hk, ha, hd])

/-! ### What a refused access leaves -/

theorem Tray.unsupported_stays (t : Tray) (pg off width : Nat) (w : Bool) (R : Nat → Nat → Prop) :
    t.Stays (t.unsupported pg off width w) R := .of_eq (t.unsupported_regs ..) (t.unsupported_blocks ..)

/-- The page's error capture and interrupt bits. -/
def captReg (pg q o : Nat) : Prop := q = pg ∧ (o = 0x60 ∨ o = 0x20)

/-- An error on a page whose capture is clear is held and raised, and changes nothing else (R101, R479). -/
theorem Tray.recErr_records (t : Tray) (pg code off : Nat) (w : Bool) (h : t.gf pg F.PG_ERR_CAPT_VALID = 0) (ho : off < 4096) :
    (t.recErr pg code ⟨0, off, w⟩).holdsErr pg code off 0 w (t.timeOf (pg / 4096)) ∧
    (t.recErr pg code ⟨0, off, w⟩).irqUp pg 3 ∧ t.Stays (t.recErr pg code ⟨0, off, w⟩) (captReg pg) :=
  ⟨t.recErr_holds pg code _ h ho, t.recErr_irq pg code _ h,
    (Tray.Stays.refl t _).recErr code _ ⟨rfl, .inl rfl⟩ ⟨rfl, .inr rfl⟩⟩

theorem Tray.holdsErr_congr {t u : Tray} {pg code off src : Nat} {w : Bool} {time : Nat}
    (hu : u.rd pg A.PG_ERR_CAPT = t.rd pg A.PG_ERR_CAPT) (h : t.holdsErr pg code off src w time) :
    u.holdsErr pg code off src w time := hu.trans h

/-- A refused access that is reported or answered in the tray shows so in the state that sends its messages. -/
theorem State.Like.answered {s : State} {u : Tray} (h : s.Like u) {w : Bool} {a : AerEntry} {x : Out}
    (hu : if w then a ∈ u.aer else x ∈ u.out) : if w then a ∈ s.tray.aer else x ∈ s.tray.out := by
  cases w with
  | true => exact h.aer ▸ hu
  | false => exact h.emits hu

/-- Settles O3, by why the access is not performed: width or alignment, page, domain. -/
theorem accessNotPerformed : Obligations.AccessNotPerformed := by
  intro s page off w
  refine ⟨fun sp width hr ha hk hv => ?width, fun sp hr hk => ?page, fun c hr hk ha hd hv => ?domain⟩
  case width =>
    obtain ⟨hheld, hirq, hstay⟩ := s.tray.recErr_records (sp.val * 4096 + page.toNat)
      (if width = 8 then E.ALIGN else E.WIDTH) off.toNat w hv off.isLt
    refine completes_run (exec_unsupportedRequest ..) (Tray.badAccess_refused w hr ha hk) fun t ht => ?_
    obtain ⟨hregs, hblocks⟩ := ht.stays (hstay.trans (Tray.unsupported_stays ..))
    obtain ⟨hchip, hhal⟩ := Tray.unsupported_shows _ sp.val page.toNat off.toNat width w page.isLt
    exact ⟨ht.holdsErr (Tray.holdsErr_congr (Tray.unsupported_rd ..) hheld),
      ht.irqUp (Tray.irqUp_congr (Tray.unsupported_rd ..) hirq), hregs, hblocks, fun hc => ht.answered (hchip hc),
      fun hc => ht.emits (hhal hc)⟩
  case page =>
    refine completes_run (exec_unimplementedPageAccess ..) (Tray.noPage_refused off.toNat w hr hk) fun t ht => ?_
    obtain ⟨hregs, hblocks⟩ := ht.stays (Tray.unsupported_stays ..)
    obtain ⟨hchip, hhal⟩ := Tray.unsupported_shows _ sp.val page.toNat off.toNat 8 w page.isLt
    exact ⟨hregs, hblocks, fun hc => ht.answered (hchip hc), fun hc => ht.emits (hhal hc)⟩
  case domain =>
    obtain ⟨hheld, hirq, hstay⟩ := s.tray.recErr_records (chip0 c.val) E.DOMAIN_DOWN off.toNat w hv off.isLt
    have hrd := s.tray.domainAbort_rd (chipPg c.val page.toNat) off.toNat 0 w
    have hshows := s.tray.domainAbort_shows (chipPg c.val page.toNat) off.toNat 0 w
    rw [chip0_div] at hheld
    rw [chipPg_div _ _ page.isLt, chipPg_mod _ _ page.isLt] at hshows
    simp only [chipPg_div _ _ page.isLt] at hrd
    refine completes_run (exec_domainDown ..) (Tray.downAccess_refused w hr hk ha hd) fun t ht => ?_
    exact ⟨ht.holdsErr (Tray.holdsErr_congr (hrd ..) hheld), ht.irqUp (Tray.irqUp_congr (hrd ..) hirq),
      ht.keepsRegs fun q o ho hn => (hrd q o).trans (hstay.regs q o ho hn), ht.keepsBlocks (s.tray.domainAbort_blocks ..),
      ht.answered hshows⟩

end Sys2Proof.Machine
end

section
/-! SUPPORT. One nanosecond (R59, R435, log 2): what the tick of an empty queue changes of the time master, of CHIP_TIME and of
the counts of XOFF and of scrub passes. -/
namespace Sys2Proof.Machine

/-! ### A change that leaves nothing to send -/

/-- A change that leaves no message and no Halvoren reset is all that running it does. -/
theorem State.run_quiet {s : State} {f : Tray → Tray} (h : (f s.tray).quiet) : s.run f = { s with tray := f s.tray } := by
  obtain ⟨hz, hw⟩ := h
  unfold State.run Tray.flush
  generalize f s.tray = t at hz hw
  cases t
  simp only at hz hw
  subst hz hw
  rfl

/-! ### Updates of registers alone -/

/-- Nothing but the register file differs. -/
def Tray.onlyRegs (t u : Tray) : Prop := u = { t with regs := u.regs }

namespace Tray.onlyRegs
variable {t u v : Tray}

theorem refl (t : Tray) : t.onlyRegs t := rfl
theorem trans (a : t.onlyRegs u) (b : u.onlyRegs v) : t.onlyRegs v := by
  unfold Tray.onlyRegs at a b ⊢
  rw [b, a]
theorem wr (a : t.onlyRegs u) (pg off : Nat) (x : Word) : t.onlyRegs (u.wr pg off x) := a.trans rfl
theorem cnt (a : t.onlyRegs u) (pg : Nat) (f : Fld) (n : Nat) : t.onlyRegs (u.cnt pg f n) := a.wr ..
theorem each {α : Type} (l : List α) (f : Tray → α → Tray) (h : ∀ (w : Tray) a, w.onlyRegs (f w a)) (t : Tray) :
    t.onlyRegs (t.each l f) := Tray.each_keeps t.onlyRegs f l (fun w a _ hw => hw.trans (h w a)) t (refl t)

theorem blocks (a : t.onlyRegs u) : t.keepsBlocks u := by
  rw [a]; exact ⟨rfl, rfl, rfl, rfl, rfl, rfl, rfl, rfl⟩
theorem chip (a : t.onlyRegs u) (c : Nat) : u.chip c = t.chip c := by rw [a]; rfl
theorem quiet (a : t.onlyRegs u) (h : t.quiet) : u.quiet := by rw [a]; exact h
theorem mgmt (a : t.onlyRegs u) :
    u.master = t.master ∧ u.hal = t.hal ∧ u.hk = t.hk ∧ u.out = t.out ∧ u.logq = t.logq := by
  rw [a]; exact ⟨rfl, rfl, rfl, rfl, rfl⟩
end Tray.onlyRegs

/-! ### The chips' clocks -/

/-- A scrub that is enabled completes a pass at the end of its period (R61, R65). -/
def Tray.scrubPass (t : Tray) (pg n per : Nat) (en done : Fld) : Tray :=
  if n % per = 0 ∧ t.is pg en then t.cnt pg done 1 else t

/-- The passes that end when CHIP_TIME becomes `n`. -/
def Tray.scrubPasses (t : Tray) (pg n : Nat) : Tray :=
  ((t.scrubPass pg n (10 ^ 9) F.CHIP_BG_CTL_KITTY_SCRUB F.CHIP_BG_STS_KITTY_PASS).scrubPass pg n (10 ^ 10)
    F.CHIP_BG_CTL_SRAM_SCRUB F.CHIP_BG_STS_SRAM_PASS).scrubPass pg n (86400 * 10 ^ 9) F.CHIP_BG_CTL_HBM_SCRUB
    F.CHIP_BG_STS_HBM_PASS

/-- CHIP_TIME of chip `c` advances by one. -/
def Tray.timeCounts (t : Tray) (c : Nat) : Tray := t.wr (chip0 c) A.CHIP_TIME (t.rd (chip0 c) A.CHIP_TIME + 1)

theorem Tray.chipTick_held {t : Tray} {c : Nat} (h : (t.chip c).coreUp = false) : t.chipTick c = t := by
  unfold Tray.chipTick
  rw [h]; exact if_pos (by decide)

theorem Tray.chipTick_released {t : Tray} {c : Nat} (h : (t.chip c).coreUp = true) :
    t.chipTick c = if ((t.rd (chip0 c) A.CHIP_TIME).toNat + 1) % 10 ^ 9 ≠ 0 then t.timeCounts c
      else (t.timeCounts c).scrubPasses (chip0 c) ((t.rd (chip0 c) A.CHIP_TIME).toNat + 1) := by
  have hn : t.rd (chip0 c) A.CHIP_TIME + 1 = BitVec.ofNat 64 ((t.rd (chip0 c) A.CHIP_TIME).toNat + 1) := by
    rw [BitVec.ofNat_add, BitVec.ofNat_toNat, BitVec.setWidth_eq]; rfl
  unfold Tray.timeCounts Tray.chipTick
  rw [if_neg (not_not.2 h), hn]
  rfl

/-- The register of scrub passes of page `pg`. -/
def passReg (pg q o : Nat) : Prop := q = pg ∧ o = A.CHIP_BG_STS

theorem Tray.scrubPass_onlyRegs (t : Tray) (pg n per : Nat) (en done : Fld) : t.onlyRegs (t.scrubPass pg n per en done) := by
  unfold Tray.scrubPass
  split
  · exact (Tray.onlyRegs.refl t).cnt ..
  · exact Tray.onlyRegs.refl t

theorem Tray.scrubPass_stays (t : Tray) (pg n per : Nat) (en done : Fld) (h : done.off = A.CHIP_BG_STS) :
    t.Stays (t.scrubPass pg n per en done) (passReg pg) := by
  unfold Tray.scrubPass
  split
  · exact (Tray.Stays.refl t _).cnt 1 ⟨rfl, h⟩ (by rw [h]; decide)
  · exact Tray.Stays.refl t _

theorem Tray.scrubPasses_onlyRegs (t : Tray) (pg n : Nat) : t.onlyRegs (t.scrubPasses pg n) :=
  ((Tray.scrubPass_onlyRegs ..).trans (Tray.scrubPass_onlyRegs ..)).trans (Tray.scrubPass_onlyRegs ..)

theorem Tray.scrubPasses_stays (t : Tray) (pg n : Nat) : t.Stays (t.scrubPasses pg n) (passReg pg) :=
  ((Tray.scrubPass_stays _ _ _ _ _ _ rfl).trans (Tray.scrubPass_stays _ _ _ _ _ _ rfl)).trans
    (Tray.scrubPass_stays _ _ _ _ _ _ rfl)

theorem Tray.chipTick_onlyRegs (t : Tray) (c : Nat) : t.onlyRegs (t.chipTick c) := by
  have counts : t.onlyRegs (t.timeCounts c) := (Tray.onlyRegs.refl t).wr ..
  cases h : (t.chip c).coreUp with
  | false => rw [Tray.chipTick_held h]; exact Tray.onlyRegs.refl t
  | true =>
    rw [Tray.chipTick_released h]
    split
    · exact counts
    · exact counts.trans (Tray.scrubPasses_onlyRegs ..)

/-- CHIP_TIME and the scrub passes of chip `c`. -/
def clockReg (c q o : Nat) : Prop := q = chip0 c ∧ (o = A.CHIP_TIME ∨ o = A.CHIP_BG_STS)

theorem Tray.chipTick_stays (t : Tray) (c : Nat) : t.Stays (t.chipTick c) (clockReg c) := by
  have counts : t.Stays (t.timeCounts c) (clockReg c) := (Tray.Stays.refl t _).wr _ ⟨rfl, .inl rfl⟩ (by decide)
  cases h : (t.chip c).coreUp with
  | false => rw [Tray.chipTick_held h]; exact Tray.Stays.refl t _
  | true =>
    rw [Tray.chipTick_released h]
    split
    · exact counts
    · exact counts.trans ((Tray.scrubPasses_stays ..).mono fun _ _ ⟨hq, ho⟩ => ⟨hq, .inr ho⟩)

/-- CHIP_TIME of a released chip counts. -/
theorem Tray.chipTick_time (t : Tray) (c : Nat) : (t.chipTick c).rd (chip0 c) A.CHIP_TIME =
    if (t.chip c).coreUp then t.rd (chip0 c) A.CHIP_TIME + 1 else t.rd (chip0 c) A.CHIP_TIME := by
  have counts : (t.timeCounts c).rd (chip0 c) A.CHIP_TIME = t.rd (chip0 c) A.CHIP_TIME + 1 := Tray.rd_wr_self ..
  cases h : (t.chip c).coreUp with
  | false => rw [Tray.chipTick_held h]; rfl
  | true =>
    rw [Tray.chipTick_released h, if_pos rfl]
    split
    · exact counts
    · exact ((Tray.scrubPasses_stays ..).regs _ _ (by decide) fun h => absurd h.2 (by decide)).trans counts

theorem chip0_inj {c d : Nat} (h : chip0 c = chip0 d) : c = d := by unfold chip0 chipPg at h; omega

theorem Tray.chipTick_time_ne (t : Tray) {c d : Nat} (h : c ≠ d) :
    (t.chipTick d).rd (chip0 c) A.CHIP_TIME = t.rd (chip0 c) A.CHIP_TIME :=
  (t.chipTick_stays d).regs _ _ (by decide) fun e => h (chip0_inj e.1)

/-- Of chips that tick once each, CHIP_TIME of the released ones counts. -/
theorem Tray.each_chipTick_time (l : List Nat) (hl : l.Nodup) (t : Tray) (c : Nat) :
    (t.each l fun t c => t.chipTick c).rd (chip0 c) A.CHIP_TIME =
      if c ∈ l ∧ (t.chip c).coreUp = true then t.rd (chip0 c) A.CHIP_TIME + 1 else t.rd (chip0 c) A.CHIP_TIME := by
  induction l generalizing t with
  | nil => simp [Tray.each]
  | cons d l ih =>
    obtain ⟨hd, hl⟩ := List.nodup_cons.1 hl
    show ((t.chipTick d).each l fun t c => t.chipTick c).rd (chip0 c) A.CHIP_TIME = _
    rw [ih hl, (t.chipTick_onlyRegs d).chip]
    by_cases h : c = d
    · subst h
      simp [hd, t.chipTick_time c]
    · simp [h, t.chipTick_time_ne h]

/-- All chips of the tray tick. -/
def Tray.chipsTick (t : Tray) : Tray := t.each (List.range 5) fun t c => t.chipTick c

theorem Tray.chipsTick_onlyRegs (t : Tray) : t.onlyRegs t.chipsTick := .each _ _ Tray.chipTick_onlyRegs t

theorem Tray.chipsTick_time (t : Tray) {c : Nat} (hc : c < 5) : t.chipsTick.rd (chip0 c) A.CHIP_TIME =
    if (t.chip c).coreUp then t.rd (chip0 c) A.CHIP_TIME + 1 else t.rd (chip0 c) A.CHIP_TIME := by
  rw [Tray.chipsTick, Tray.each_chipTick_time _ List.nodup_range]
  simp [hc]

/-- The registers that a nanosecond may change. -/
def tickReg (q o : Nat) : Prop := q % 4096 = 0 ∧ (o = A.CHIP_TIME ∨ o = A.CHIP_BG_STS) ∨ o = A.PORT_XOFF_TIME

theorem Tray.chipsTick_stays (t : Tray) : t.Stays t.chipsTick tickReg :=
  Tray.Stays.each _ _ (fun w c _ => (w.chipTick_stays c).mono fun _ _ ⟨hq, ho⟩ => .inl ⟨hq ▸ chip0_mod c, ho⟩)
    (Tray.Stays.refl t _)

/-! ### The counts of XOFF -/

theorem Tray.xoffTick_onlyRegs (t : Tray) : t.onlyRegs t.xoffTick := by
  unfold Tray.xoffTick
  split
  · exact Tray.onlyRegs.refl t
  · refine Tray.onlyRegs.each _ _ (fun w a => ?_) t
    dsimp only
    split
    · exact ((Tray.onlyRegs.refl w).cnt ..).cnt ..
    · exact Tray.onlyRegs.refl w

/-- A port's counts of XOFF. -/
def xoffReg (_q o : Nat) : Prop := o = A.PORT_XOFF_TIME

theorem Tray.xoffTick_stays (t : Tray) : t.Stays t.xoffTick xoffReg := by
  unfold Tray.xoffTick
  split
  · exact Tray.Stays.refl t _
  · refine Tray.Stays.each _ _ (fun w a _ => ?_) (Tray.Stays.refl t _)
    dsimp only
    split
    · exact ((Tray.Stays.refl w xoffReg).cnt (f := F.PORT_XOFF_TIME_TX_US) _ rfl (by decide)).cnt
        (f := F.PORT_XOFF_TIME_RX_US) _ rfl (by decide)
    · exact Tray.Stays.refl w _

/-! ### The time master -/

/-- The time master and the housekeeper's clock advance by one. -/
def Tray.masterTick (t : Tray) : Tray := { t with master := t.master + 1, hk := { t.hk with rtc := t.hk.rtc + 1 } }

theorem Tray.masterTick_stays (t : Tray) {R : Nat → Nat → Prop} : t.Stays t.masterTick R :=
  .of_eq rfl ⟨rfl, rfl, rfl, rfl, rfl, rfl, rfl, rfl⟩

theorem Tray.tick_powered {t : Tray} (h : t.hk.aon = true) : t.tick = t.masterTick.slew.chipsTick.xoffTick := by
  unfold Tray.tick
  exact if_neg (not_not.2 h)

theorem Tray.tick_dark {t : Tray} (h : t.hk.aon = false) : t.tick = t := by
  unfold Tray.tick
  exact if_pos (by rw [h]; decide)

theorem Tray.slew_settled {t : Tray} (h : t.hal.offset = 0) : t.slew = t := by
  unfold Tray.slew
  exact if_pos h

theorem Tray.slew_waits {t : Tray} (h : t.hal.offset ≠ 0) (hk : t.hal.slewTick < 9999) :
    t.slew = { t with hal := { t.hal with slewTick := t.hal.slewTick + 1 } } := by
  unfold Tray.slew
  rw [if_neg h, if_pos (by omega)]

theorem Tray.slew_ahead {t : Tray} (h : 0 < t.hal.offset) (hk : t.hal.slewTick = 9999) :
    t.slew = { t with master := t.master + 1, hal := { t.hal with offset := t.hal.offset - 1, slewTick := 0 } } := by
  have hm : ((t.master : Int) + 1).toNat = t.master + 1 := by omega
  unfold Tray.slew
  dsimp only
  rw [if_neg (ne_of_gt h), if_neg (by omega), if_pos h, hm]

theorem Tray.slew_behind {t : Tray} (h : t.hal.offset < 0) (hk : t.hal.slewTick = 9999) :
    t.slew = { t with master := t.master - 1, hal := { t.hal with offset := t.hal.offset + 1, slewTick := 0 } } := by
  have hm : ((t.master : Int) + -1).toNat = t.master - 1 := by omega
  unfold Tray.slew
  dsimp only
  rw [if_neg (ne_of_lt h), if_neg (by omega), if_neg (by omega), hm, Int.sub_neg]

/-- Removing an offset touches the time master and the Halvoren's record of the offset alone. -/
theorem Tray.slew_shape (t : Tray) :
    ∃ m o k, t.slew = { t with master := m, hal := { t.hal with offset := o, slewTick := k } } := by
  unfold Tray.slew
  split_ifs
  · exact ⟨t.master, t.hal.offset, t.hal.slewTick, rfl⟩
  · exact ⟨t.master, t.hal.offset, _, rfl⟩
  · exact ⟨_, _, _, rfl⟩

theorem Tray.slew_quiet {t : Tray} (h : t.quiet) : t.slew.quiet := by
  obtain ⟨m, o, k, e⟩ := t.slew_shape
  rw [e]; exact h

theorem Tray.slew_stays (t : Tray) (R : Nat → Nat → Prop) : t.Stays t.slew R := by
  obtain ⟨m, o, k, e⟩ := t.slew_shape
  rw [e]; exact .of_eq rfl ⟨rfl, rfl, rfl, rfl, rfl, rfl, rfl, rfl⟩

theorem Tray.tick_onlyRegs {t : Tray} (h : t.hk.aon = true) : t.masterTick.slew.onlyRegs t.tick := by
  rw [Tray.tick_powered h]
  exact (Tray.chipsTick_onlyRegs _).trans (Tray.xoffTick_onlyRegs _)

theorem Tray.tick_stays (t : Tray) : t.Stays t.tick tickReg := by
  cases h : t.hk.aon with
  | false => rw [Tray.tick_dark h]; exact Tray.Stays.refl t _
  | true =>
    rw [Tray.tick_powered h]
    exact (t.masterTick_stays.trans (Tray.slew_stays ..)).trans
      ((Tray.chipsTick_stays _).trans ((Tray.xoffTick_stays _).mono fun _ _ ho => .inr ho))

theorem Tray.tick_quiet {t : Tray} (h : t.quiet) : t.tick.quiet := by
  cases hp : t.hk.aon with
  | false => rw [Tray.tick_dark hp]; exact h
  | true => exact (Tray.tick_onlyRegs hp).quiet (Tray.slew_quiet (t := t.masterTick) h)

theorem Tray.tick_time {t : Tray} (h : t.hk.aon = true) {c : Nat} (hc : c < 5) : t.tick.rd (chip0 c) A.CHIP_TIME =
    if (t.chip c).coreUp then t.rd (chip0 c) A.CHIP_TIME + 1 else t.rd (chip0 c) A.CHIP_TIME := by
  have hchip : t.masterTick.slew.chip c = t.chip c := by
    obtain ⟨m, o, k, e⟩ := t.masterTick.slew_shape
    rw [e]; rfl
  have hrd : t.masterTick.slew.rd (chip0 c) A.CHIP_TIME = t.rd (chip0 c) A.CHIP_TIME := by
    obtain ⟨m, o, k, e⟩ := t.masterTick.slew_shape
    rw [e]; rfl
  have hxoff : ¬ xoffReg (chip0 c) A.CHIP_TIME := by unfold xoffReg; decide
  rw [Tray.tick_powered h, (Tray.xoffTick_stays _).regs _ _ (by decide) hxoff, Tray.chipsTick_time _ hc, hchip, hrd]

/-- Settles O57: the tick by whether the housekeeper has power, the time master by the offset that is left to remove. -/
theorem emptyQueueTicks : Obligations.EmptyQueueTicks := by
  intro s hq hp
  have hstep : step s = .next { s with tray := s.tray.tick } := by
    rw [← State.run_quiet (Tray.tick_quiet hq)]
    unfold step
    rw [hp]
    rfl
  obtain ⟨hregs, hblocks⟩ := s.tray.tick_stays
  refine ⟨_, hstep, hp, rfl, hblocks, hregs, fun hdark => Tray.tick_dark hdark, fun haon => ?_⟩
  obtain ⟨hmaster, hhal, hhk, hout, hlogq⟩ := (Tray.tick_onlyRegs haon).mgmt
  obtain ⟨m, o, k, hslew⟩ := s.tray.masterTick.slew_shape
  refine ⟨?rtc, ?out, ?log, fun c hc hu => ?released, fun c hc hu => ?held, fun ho => ?settled, fun hk ho => ?ahead,
    fun hk ho => ?behind, fun hk ho => ?waits⟩
  case rtc => exact (congrArg HkSt.rtc hhk).trans (by rw [hslew]; rfl)
  case out => exact hout.trans (by rw [hslew]; rfl)
  case log => exact hlogq.trans (by rw [hslew]; rfl)
  case released => rw [Tray.tick_time haon hc, if_pos hu]
  case held => rw [Tray.tick_time haon hc, if_neg (by simp [hu])]
  case settled => rw [hmaster, hhal, Tray.slew_settled (t := s.tray.masterTick) ho]; exact ⟨rfl, rfl⟩
  case ahead => rw [hmaster, hhal, Tray.slew_ahead (t := s.tray.masterTick) ho hk]; exact ⟨rfl, rfl, rfl⟩
  case behind => rw [hmaster, hhal, Tray.slew_behind (t := s.tray.masterTick) ho hk]; exact ⟨rfl, rfl, rfl⟩
  case waits => rw [hmaster, hhal, Tray.slew_waits (t := s.tray.masterTick) ho hk]; exact ⟨rfl, rfl⟩

end Sys2Proof.Machine
end

section
/-! SUPPORT. The Dealer clock (R59, R62–R64) and the scrubs that enable themselves again (R61): what a request, the end of a
change and a new cap leave of CHIP_DEAL_CLK and CHIP_CLK_STS. -/
namespace Sys2Proof.Machine

theorem exec_dealClkRequest (c : Fin 5) (v : Word) (s : State) :
    exec (.dealClkRequest c v) s = .next (s.run (fun t => t.write8 0 c.val 0x000 A.CHIP_DEAL_CLK v)) := rfl
theorem exec_dealClkChangeDone (c : Fin 5) (s : State) :
    exec (.dealClkChangeDone c) s = .next (s.run (fun t => t.dealDone c.val)) := rfl
theorem exec_dealCapChange (c : Fin 5) (cap : Nat) (s : State) :
    exec (.dealCapChange c cap) s = .next (s.run (fun t => t.dealCap c.val cap)) := rfl
theorem exec_scrubReenable (c : Fin 5) (which : Fin 3) (s : State) :
    exec (.scrubReenable c which) s = .next (s.run (fun t => t.scrubReenable c.val which.val)) := rfl

/-! ### Updates of registers and of chips' records -/

/-- Only registers in `R` and records of chips change: no job slot, no byte of tensor memory. -/
structure Tray.ChipStays (t u : Tray) (R : Nat → Nat → Prop) : Prop where
  regs : t.keepsRegs u R
  dealers : u.dealers = t.dealers
  mem : u.mem = t.mem

namespace Tray.ChipStays
variable {t u v : Tray} {R Q : Nat → Nat → Prop}

theorem refl (t : Tray) (R : Nat → Nat → Prop) : t.ChipStays t R := ⟨t.keepsRegs_refl R, rfl, rfl⟩
theorem of_stays (h : t.Stays u R) : t.ChipStays u R := by
  obtain ⟨hregs, -, -, -, -, -, hdealers, -, hmem⟩ := h
  exact ⟨hregs, hdealers, hmem⟩
theorem trans (a : t.ChipStays u R) (b : u.ChipStays v R) : t.ChipStays v R :=
  ⟨Tray.keepsRegs_trans a.regs b.regs, b.dealers.trans a.dealers, b.mem.trans a.mem⟩
theorem mono (a : t.ChipStays u R) (h : ∀ q o, R q o → Q q o) : t.ChipStays u Q :=
  ⟨Tray.keepsRegs_mono a.regs h, a.dealers, a.mem⟩
theorem modChip (a : t.ChipStays u R) (c : Nat) (f : ChipSt → ChipSt) : t.ChipStays (u.modChip c f) R :=
  ⟨a.regs, a.dealers, a.mem⟩
theorem settled (a : t.ChipStays u R) {c : Nat} (h : t.settled c) : u.settled c := (Tray.settled_congr a.dealers c).2 h
end Tray.ChipStays

theorem State.Like.chipStays {s : State} {t u : Tray} {R : Nat → Nat → Prop} (h : s.Like u) (hx : t.ChipStays u R) :
    t.keepsRegs s.tray R ∧ s.tray.mem = t.mem := ⟨h.keepsRegs hx.regs, h.mem.trans hx.mem⟩

theorem State.Like.logs {s : State} {t u : Tray} {ev : Ev} {c : Nat} {data : List Nat} (h : s.Like u)
    (hx : t.logs u ev c data) : t.logs s.tray ev c data := by
  obtain ⟨e, hq, he⟩ := hx
  exact ⟨e, h.logq.trans hq, he⟩

/-! ### The start of a change -/

/-- CHIP_DEAL_CLK of chip `c`. -/
def dealReg (c q o : Nat) : Prop := q = chip0 c ∧ o = A.CHIP_DEAL_CLK

/-- A change to the effective target is in progress. -/
def Tray.changeStarts (t : Tray) (c : Nat) : Tray :=
  (t.sb (chip0 c) F.CHIP_DEAL_CLK_CHANGING true).modChip c (fun x => { x with chgTarget := t.dealTarget c })

theorem Tray.dealChange_cases (t : Tray) (c : Nat) : t.dealChange c = t ∨ t.dealChange c = t.changeStarts c := by
  unfold Tray.dealChange
  dsimp only
  split
  · exact .inl rfl
  · exact .inr rfl

theorem Tray.changeStarts_stays (t : Tray) (c : Nat) : t.ChipStays (t.changeStarts c) (dealReg c) :=
  (Tray.ChipStays.of_stays ((Tray.Stays.refl t _).sb true ⟨rfl, rfl⟩ (by decide))).modChip c _

theorem Tray.dealChange_stays (t : Tray) (c : Nat) : t.ChipStays (t.dealChange c) (dealReg c) := by
  rcases t.dealChange_cases c with h | h <;> rw [h]
  · exact Tray.ChipStays.refl t _
  · exact t.changeStarts_stays c

/-- The frequencies stay: a change only begins. -/
theorem Tray.dealChange_gf (t : Tray) (c : Nat) {f : Fld} (hf : f.off = A.CHIP_DEAL_CLK) (hw : f.lo + f.w ≤ 48) :
    (t.dealChange c).gf (chip0 c) f = t.gf (chip0 c) f := by
  rcases t.dealChange_cases c with h | h <;> rw [h]
  exact Tray.gf_sb_ne _ _ _ _ _ (by decide) (by omega) (.inr ⟨hf, .inl hw⟩)

/-- With no change in progress one starts, unless the target runs. -/
theorem Tray.dealChange_idle {t : Tray} {c : Nat} (h : t.gf (chip0 c) F.CHIP_DEAL_CLK_CHANGING = 0) :
    if t.dealTarget c = t.gf (chip0 c) F.CHIP_DEAL_CLK_CUR_MHZ then
      (t.dealChange c).gf (chip0 c) F.CHIP_DEAL_CLK_CHANGING = 0
    else (t.dealChange c).gf (chip0 c) F.CHIP_DEAL_CLK_CHANGING = 1 ∧
      ((t.dealChange c).chip c).chgTarget = t.dealTarget c := by
  have hidle : t.is (chip0 c) F.CHIP_DEAL_CLK_CHANGING = false := by simp [Tray.is, h]
  unfold Tray.dealChange
  dsimp only
  split
  next hrun => rw [if_pos (.inr hrun)]; exact h
  next hother =>
    rw [if_neg (by simp [hidle, hother])]
    exact ⟨(Tray.gf_modChip ..).trans (Tray.gf_sb_self _ _ _ _ (by decide)), by rw [Tray.chip_modChip]⟩

/-! ### DEAL_CLK_REQUEST -/

/-- The tray with another requested frequency. -/
def Tray.requested (t : Tray) (c : Nat) (v : Word) : Tray :=
  t.sf (chip0 c) F.CHIP_DEAL_CLK_REQ_MHZ (F.CHIP_DEAL_CLK_REQ_MHZ.get v)

theorem Tray.requested_stays (t : Tray) (c : Nat) (v : Word) : t.ChipStays (t.requested c v) (dealReg c) :=
  .of_stays ((Tray.Stays.refl t _).sf _ ⟨rfl, rfl⟩ (by decide))

theorem Tray.requested_reads (t : Tray) (c : Nat) (v : Word) :
    (t.requested c v).gf (chip0 c) F.CHIP_DEAL_CLK_REQ_MHZ = F.CHIP_DEAL_CLK_REQ_MHZ.get v ∧
    (t.requested c v).gf (chip0 c) F.CHIP_DEAL_CLK_CAP_MHZ = t.gf (chip0 c) F.CHIP_DEAL_CLK_CAP_MHZ ∧
    (t.requested c v).gf (chip0 c) F.CHIP_DEAL_CLK_CUR_MHZ = t.gf (chip0 c) F.CHIP_DEAL_CLK_CUR_MHZ ∧
    (t.requested c v).gf (chip0 c) F.CHIP_DEAL_CLK_CHANGING = t.gf (chip0 c) F.CHIP_DEAL_CLK_CHANGING := by
  unfold Tray.requested
  refine ⟨?_, ?_, ?_, ?_⟩ <;> simp (disch := decide) only [Tray.gf_sf_ne, Tray.gf_sf_self]
  exact Nat.mod_eq_of_lt (Fld.get_lt _ v (by decide))

theorem Tray.dealRequest_taken {t : Tray} {c : Nat} {v : Word} (o : Origin) (hu : (t.chip c).coreUp = true)
    (hv : (Enc.step 600 1250 25).ok (F.CHIP_DEAL_CLK_REQ_MHZ.get v) = true) :
    t.dealRequest c v o = (t.requested c v).dealChange c := by
  unfold Tray.dealRequest
  dsimp only
  rw [if_neg (not_not.2 hv), if_pos hu]
  rfl

/-- A write that is performed reaches CHIP_DEAL_CLK's own rule on a released chip. -/
theorem Tray.write8_dealClk {t : Tray} {c : Nat} (v : Word) (hc : c < 5) (ha : t.accepts c 0x000 A.CHIP_DEAL_CLK = true)
    (hu : (t.chip c).coreUp = true) :
    t.write8 0 c 0x000 A.CHIP_DEAL_CLK v = (t.dealRequest c v (Origin.wr 0 A.CHIP_DEAL_CLK)).sweep c := by
  have hk : pageKind (chip0 c) = some .chip0 := pageKind_chipPg c 0 hc (by decide)
  refine t.write8_own _ 0 c 0x000 A.CHIP_DEAL_CLK v .chip0 hc (by decide) ha (by decide) (by decide) rfl
    (regExists_of _ _ (by rw [show chipPg c 0 = chip0 c from rfl, hk]; decide)
      (by rw [show chipPg c 0 = chip0 c from rfl, hk]; decide)) (by decide +kernel) (by decide) hu fun r _ => ?_
  unfold Tray.writeChip
  rw [show chipPg c 0 = chip0 c from rfl, hk, chip0_div]
  exact if_pos rfl

/-! ### DEAL_CLK_CHANGE_DONE and DEAL_CAP_CHANGE -/

/-- CHIP_DEAL_CLK and CHIP_CLK_STS of chip `c`. -/
def dealClkReg (c q o : Nat) : Prop := q = chip0 c ∧ (o = A.CHIP_DEAL_CLK ∨ o = A.CHIP_CLK_STS)

theorem dealClkReg_of_dealReg {c q o : Nat} (h : dealReg c q o) : dealClkReg c q o := ⟨h.1, .inl h.2⟩

theorem Tray.dealFloor_stays (t : Tray) (c : Nat) : t.Stays (t.dealFloor c) (dealClkReg c) :=
  ((Tray.Stays.refl t _).sf 600 ⟨rfl, .inl rfl⟩ (by decide)).sb true ⟨rfl, .inr rfl⟩ (by decide)

theorem Tray.dealFloor_reads (t : Tray) (c : Nat) :
    (t.dealFloor c).gf (chip0 c) F.CHIP_DEAL_CLK_CUR_MHZ = 600 ∧ (t.dealFloor c).gf (chip0 c) F.CHIP_CLK_STS_ON_FLOOR = 1 ∧
    (t.dealFloor c).gf (chip0 c) F.CHIP_DEAL_CLK_CAP_MHZ = t.gf (chip0 c) F.CHIP_DEAL_CLK_CAP_MHZ := by
  unfold Tray.dealFloor
  refine ⟨?_, ?_, ?_⟩ <;> simp (disch := decide) only [Tray.gf_sb_ne, Tray.gf_sb_self, Tray.gf_sf_ne, Tray.gf_sf_self] <;> rfl

theorem Tray.dealCapCheck_above {t : Tray} {c : Nat}
    (h : t.gf (chip0 c) F.CHIP_DEAL_CLK_CAP_MHZ < t.gf (chip0 c) F.CHIP_DEAL_CLK_CUR_MHZ) :
    t.dealCapCheck c = t.dealFloor c := if_pos h

theorem Tray.dealCapCheck_within {t : Tray} {c : Nat}
    (h : ¬ t.gf (chip0 c) F.CHIP_DEAL_CLK_CAP_MHZ < t.gf (chip0 c) F.CHIP_DEAL_CLK_CUR_MHZ) : t.dealCapCheck c = t := if_neg h

/-- CK_DEAL runs at the target of the change, which is over. -/
def Tray.switched (t : Tray) (c : Nat) : Tray :=
  ((t.sb (chip0 c) F.CHIP_DEAL_CLK_CHANGING false).sf (chip0 c) F.CHIP_DEAL_CLK_CUR_MHZ (t.chip c).chgTarget).sb (chip0 c)
    F.CHIP_CLK_STS_ON_FLOOR false

theorem Tray.switched_stays (t : Tray) (c : Nat) : t.ChipStays (t.switched c) (dealClkReg c) :=
  .of_stays ((((Tray.Stays.refl t _).sb false ⟨rfl, .inl rfl⟩ (by decide)).sf _ ⟨rfl, .inl rfl⟩ (by decide)).sb false
    ⟨rfl, .inr rfl⟩ (by decide))

theorem Tray.switched_reads (t : Tray) (c : Nat) (h : (t.chip c).chgTarget < 2 ^ 11) :
    (t.switched c).gf (chip0 c) F.CHIP_DEAL_CLK_CUR_MHZ = (t.chip c).chgTarget ∧
    (t.switched c).gf (chip0 c) F.CHIP_CLK_STS_ON_FLOOR = 0 ∧
    (t.switched c).gf (chip0 c) F.CHIP_DEAL_CLK_CHANGING = 0 ∧
    (t.switched c).gf (chip0 c) F.CHIP_DEAL_CLK_CAP_MHZ = t.gf (chip0 c) F.CHIP_DEAL_CLK_CAP_MHZ ∧
    (t.switched c).dealTarget c = t.dealTarget c := by
  unfold Tray.dealTarget Tray.switched
  refine ⟨?_, ?_, ?_, ?_, ?_⟩ <;>
    simp (disch := decide) only [Tray.gf_sb_ne, Tray.gf_sb_self, Tray.gf_sf_ne, Tray.gf_sf_self]
  · exact Nat.mod_eq_of_lt h
  · rfl
  · rfl

/-- A target that the cap allows runs when its change ends, and a further change starts where the target has moved. -/
theorem Tray.dealDone_within {t : Tray} {c : Nat} (hg : t.gf (chip0 c) F.CHIP_DEAL_CLK_CHANGING = 1)
    (hcap : (t.chip c).chgTarget ≤ t.gf (chip0 c) F.CHIP_DEAL_CLK_CAP_MHZ) (hw : (t.chip c).chgTarget < 2 ^ 11) :
    t.dealDone c = (t.switched c).dealChange c := by
  obtain ⟨hcur, -, -, hcapIs, -⟩ := t.switched_reads c hw
  have hwithin : (t.switched c).dealCapCheck c = t.switched c := Tray.dealCapCheck_within (by rw [hcur, hcapIs]; omega)
  unfold Tray.dealDone
  dsimp only
  rw [if_neg (not_not.2 ((Tray.is_iff ..).2 hg))]
  exact congrArg (Tray.dealChange · c) hwithin

/-- The tray with another cap. -/
def Tray.capped (t : Tray) (c cap : Nat) : Tray := t.sf (chip0 c) F.CHIP_DEAL_CLK_CAP_MHZ cap

theorem Tray.capped_stays (t : Tray) (c cap : Nat) : t.Stays (t.capped c cap) (dealClkReg c) :=
  (Tray.Stays.refl t _).sf cap ⟨rfl, .inl rfl⟩ (by decide)

theorem Tray.capped_reads (t : Tray) (c : Nat) {cap : Nat} (h : cap < 2 ^ 11) :
    (t.capped c cap).gf (chip0 c) F.CHIP_DEAL_CLK_CAP_MHZ = cap ∧
    (t.capped c cap).gf (chip0 c) F.CHIP_DEAL_CLK_CUR_MHZ = t.gf (chip0 c) F.CHIP_DEAL_CLK_CUR_MHZ := by
  unfold Tray.capped
  refine ⟨?_, ?_⟩ <;> simp (disch := decide) only [Tray.gf_sf_ne, Tray.gf_sf_self]
  exact Nat.mod_eq_of_lt h

/-- What a new cap does before a change to it starts. -/
theorem Tray.capCheck_capped (t : Tray) (c : Nat) {cap : Nat} (h : cap < 2 ^ 11) :
    let u := (t.capped c cap).dealCapCheck c
    u.gf (chip0 c) F.CHIP_DEAL_CLK_CAP_MHZ = cap ∧
    (if cap < t.gf (chip0 c) F.CHIP_DEAL_CLK_CUR_MHZ then
      u.gf (chip0 c) F.CHIP_DEAL_CLK_CUR_MHZ = 600 ∧ u.gf (chip0 c) F.CHIP_CLK_STS_ON_FLOOR = 1
    else u.gf (chip0 c) F.CHIP_DEAL_CLK_CUR_MHZ = t.gf (chip0 c) F.CHIP_DEAL_CLK_CUR_MHZ) ∧
    t.Stays u (dealClkReg c) := by
  obtain ⟨hcap, hcur⟩ := t.capped_reads c h
  have hstay := t.capped_stays c cap
  dsimp only
  split
  next hlow =>
    obtain ⟨h600, hfloor, hkeep⟩ := (t.capped c cap).dealFloor_reads c
    rw [Tray.dealCapCheck_above (by rw [hcap, hcur]; exact hlow)]
    exact ⟨hkeep.trans hcap, ⟨h600, hfloor⟩, hstay.trans (Tray.dealFloor_stays ..)⟩
  next hwithin =>
    rw [Tray.dealCapCheck_within (by rw [hcap, hcur]; exact hwithin)]
    exact ⟨hcap, hcur, hstay⟩

theorem Tray.dealCap_on {t : Tray} {c : Nat} (cap : Nat) (h : t.chipOn c = true) :
    t.dealCap c cap = if (t.chip c).coreUp then ((t.capped c cap).dealCapCheck c).dealChange c
      else (t.capped c cap).dealCapCheck c := by
  unfold Tray.dealCap
  exact if_neg (not_not.2 h)

/-- What a new cap does: CK_DEAL goes to the floor where it runs above the cap. -/
theorem Tray.dealCap_shows {t : Tray} {c cap : Nat} (hon : t.chipOn c = true) (h : cap < 2 ^ 11) :
    (t.dealCap c cap).gf (chip0 c) F.CHIP_DEAL_CLK_CAP_MHZ = cap ∧
    (if cap < t.gf (chip0 c) F.CHIP_DEAL_CLK_CUR_MHZ then
      (t.dealCap c cap).gf (chip0 c) F.CHIP_DEAL_CLK_CUR_MHZ = 600 ∧
        (t.dealCap c cap).gf (chip0 c) F.CHIP_CLK_STS_ON_FLOOR = 1
    else (t.dealCap c cap).gf (chip0 c) F.CHIP_DEAL_CLK_CUR_MHZ = t.gf (chip0 c) F.CHIP_DEAL_CLK_CUR_MHZ) ∧
    t.ChipStays (t.dealCap c cap) (dealClkReg c) := by
  obtain ⟨hcap, hcur, hstay⟩ := t.capCheck_capped c h
  rw [Tray.dealCap_on cap hon]
  split
  next =>
    have hchange := Tray.dealChange_stays ((t.capped c cap).dealCapCheck c) c
    rw [Tray.dealChange_gf (f := F.CHIP_DEAL_CLK_CAP_MHZ) _ _ rfl (by decide),
      Tray.dealChange_gf (f := F.CHIP_DEAL_CLK_CUR_MHZ) _ _ rfl (by decide),
      Tray.keepsRegs_gf hchange.regs _ F.CHIP_CLK_STS_ON_FLOOR (by decide) fun h => absurd h.2 (by decide)]
    exact ⟨hcap, hcur, (Tray.ChipStays.of_stays hstay).trans (hchange.mono fun _ _ => dealClkReg_of_dealReg)⟩
  next => exact ⟨hcap, hcur, .of_stays hstay⟩

/-! ### SCRUB_REENABLE -/

/-- The enable of a scrub: kitty, tensor SRAM, HBM (R61). -/
def scrubFld (which : Nat) : Fld :=
  match which with | 0 => F.CHIP_BG_CTL_KITTY_SCRUB | 1 => F.CHIP_BG_CTL_SRAM_SCRUB | _ => F.CHIP_BG_CTL_HBM_SCRUB

theorem scrubFld_is (which : Nat) :
    (scrubFld which).off = A.CHIP_BG_CTL ∧ (scrubFld which).w = 1 ∧ (scrubFld which).lo ≤ 2 := by
  unfold scrubFld
  split <;> decide

theorem Tray.scrubReenable_off {t : Tray} {c which : Nat} (h : t.chipOn c = true)
    (hf : t.gf (chip0 c) (scrubFld which) = 0) :
    t.scrubReenable c which = (t.sfBoth (chip0 c) (scrubFld which) 1).logChip .scrubReenabled c [which] := by
  unfold Tray.scrubReenable
  refine if_neg (not_or.2 ⟨not_not.2 h, fun hx => ?_⟩)
  have := (Tray.is_iff ..).1 hx
  exact absurd (hf.symm.trans this) (by decide)

/-- A flag set in both copies of a staged register reads 1 in both. -/
theorem Tray.sfBoth_reads (t : Tray) (pg : Nat) {f : Fld} (hl : f.lo < 64) (hw : f.w = 1) :
    (t.sfBoth pg f 1).gf pg f = 1 ∧ (t.sfBoth pg f 1).gf pg f.shadow = 1 := by
  have hoff : f.shadow.off = f.off + 0x800 := rfl
  have hfit : f.lo + f.w ≤ 64 := by omega
  unfold Tray.sfBoth
  refine ⟨?_, ?_⟩
  · rw [Tray.gf_sf_off _ _ _ _ _ _ (by omega), Tray.gf_sf_self _ _ _ _ hfit, hw]
    rfl
  · rw [Tray.gf_sf_self _ _ f.shadow _ hfit, show f.shadow.w = 1 from hw]
    rfl

/-- The two copies of the register of the scrubs' enables. -/
def scrubReg (c q o : Nat) : Prop := q = chip0 c ∧ (o = A.CHIP_BG_CTL ∨ o = A.CHIP_BG_CTL + 0x800)

theorem Tray.sfBoth_scrub_stays (t : Tray) (c which : Nat) :
    t.Stays (t.sfBoth (chip0 c) (scrubFld which) 1) (scrubReg c) := by
  obtain ⟨ho, -, -⟩ := scrubFld_is which
  have hs : (scrubFld which).shadow.off = A.CHIP_BG_CTL + 0x800 := congrArg (· + 0x800) ho
  exact ((Tray.Stays.refl t _).sf 1 ⟨rfl, .inl ho⟩ (by rw [ho]; decide)).sf 1 ⟨rfl, .inr hs⟩ (by rw [hs]; decide)

/-- Settles O9, command by command, by what starts a change and what the cap allows. -/
theorem dealerClockFollowsTarget : Obligations.DealerClockFollowsTarget := by
  intro s c
  refine ⟨fun v ha hs hu hv hidle => ?request, fun hg hcap hw => ?done, fun cap hon => ?cap, fun which => ?scrub⟩
  case request =>
    obtain ⟨hreq, hcap, hcur, hchg⟩ := s.tray.requested_reads c.val v
    have hstay := (s.tray.requested_stays c.val v).trans (Tray.dealChange_stays _ c.val)
    have hstart := Tray.dealChange_idle (hchg.trans hidle)
    unfold Tray.dealTarget at hstart
    rw [hreq, hcap, hcur] at hstart
    have hdone := (Tray.write8_dealClk v c.isLt ha hu).trans
      ((Tray.sweep_settled _ _ (by rw [Tray.dealRequest_taken _ hu hv]; exact hstay.settled hs)).trans
        (Tray.dealRequest_taken _ hu hv))
    refine completes_run (exec_dealClkRequest ..) hdone fun t ht => ⟨?_, ?_, ?_, ht.chipStays hstay⟩
    · exact (ht.gf ..).trans ((Tray.dealChange_gf _ _ rfl (by decide)).trans hreq)
    · rw [ht.gf, ht.chip]; exact hstart
    · exact (ht.gf ..).trans ((Tray.dealChange_gf _ _ rfl (by decide)).trans hcur)
  case done =>
    obtain ⟨hcur, hfloor, hchg, -, htarget⟩ := s.tray.switched_reads c.val hw
    have hstart := Tray.dealChange_idle hchg
    rw [htarget, hcur] at hstart
    have hchange := Tray.dealChange_stays (s.tray.switched c.val) c.val
    have hstay := (s.tray.switched_stays c.val).trans (hchange.mono fun _ _ => dealClkReg_of_dealReg)
    refine completes_run (exec_dealClkChangeDone ..) (Tray.dealDone_within hg hcap hw) fun t ht =>
      ⟨?_, ?_, ?_, ht.chipStays hstay⟩
    · exact (ht.gf ..).trans ((Tray.dealChange_gf _ _ rfl (by decide)).trans hcur)
    · exact (ht.gf ..).trans ((Tray.keepsRegs_gf hchange.regs _ _ (by decide) fun h => absurd h.2 (by decide)).trans hfloor)
    · rw [ht.gf, ht.chip]; exact hstart
  case cap =>
    obtain ⟨hcap, hcur, hstay⟩ := Tray.dealCap_shows hon cap.isLt
    refine completes_run (exec_dealCapChange ..) rfl fun t ht => ⟨(ht.gf ..).trans hcap, ?_, ht.chipStays hstay⟩
    rw [ht.gf, ht.gf]
    exact hcur
  case scrub =>
    intro f
    have hf : f = scrubFld which.val := rfl
    clear_value f
    subst hf
    intro hon hoff
    obtain ⟨-, hw, hl⟩ := scrubFld_is which.val
    obtain ⟨hset, hshadow⟩ := s.tray.sfBoth_reads (chip0 c.val) (f := scrubFld which.val) (by omega) hw
    have hlogs := s.tray.logs_logChip (s.tray.sfBoth (chip0 c.val) (scrubFld which.val) 1) .scrubReenabled c.val [which.val]
      (by simp [Tray.sfBoth])
    exact completes_run (exec_scrubReenable ..) (Tray.scrubReenable_off hon hoff) fun t ht =>
      ⟨(ht.gf ..).trans ((Tray.gf_logChip ..).trans hset), (ht.gf ..).trans ((Tray.gf_logChip ..).trans hshadow),
        ht.logs hlogs, ht.stays ((Tray.sfBoth_scrub_stays ..).logChip ..)⟩

end Sys2Proof.Machine
end

section
/-! SUPPORT. Clock events (R56, R57, R67, R131): what each leaves of CHIP_CLK_STS, CHIP_TIME, the chip's PCIe link and the XOFF
that its ports hold, and how a loss is reported. -/
namespace Sys2Proof.Machine

theorem exec_dealerPllUnlock (c : Fin 5) (s : State) :
    exec (.dealerPllUnlock c) s = .next (s.run (fun t => t.dealerUnlock c.val)) := rfl
theorem exec_pcieLinkDown (c : Fin 5) (s : State) :
    exec (.pcieLinkDown c) s = .next (s.run (fun t => t.pcieDown c.val)) := rfl
theorem exec_pcieLinkRetrained (c : Fin 5) (s : State) :
    exec (.pcieLinkRetrained c) s = .next (s.run (fun t => t.pcieRetrained c.val)) := rfl
theorem exec_disciplineLoss (c : Fin 5) (s : State) :
    exec (.disciplineLoss c) s = .next (s.run (fun t => t.timeLoss c.val)) := rfl
theorem exec_disciplineRegain (c : Fin 5) (time : Word) (s : State) :
    exec (.disciplineRegain c time) s = .next (s.run (fun t => t.timeRegain c.val time.toNat)) := rfl
theorem exec_corePllRelock (c : Fin 5) (s : State) :
    exec (.corePllRelock c) s = .next (s.run (fun t => t.coreRelock c.val)) := rfl
theorem exec_txPllRecal (c : Fin 5) (q : Fin 64) (s : State) :
    exec (.txPllRecal c q) s = .next (s.run (fun t => t.txRecal c.val q.val)) := rfl

/-! ### How a loss is reported -/

/-- The interrupt bits of page 0x000 of chip `c`. -/
def irqReg (c q o : Nat) : Prop := q = chip0 c ∧ o = 0x20

theorem irqDefined_clockFault {c : Nat} (hc : c < 5) : bitOf (irqDefined (chip0 c)) 8 = true := by
  unfold irqDefined irqMask
  rw [show pageKind (chip0 c) = some .chip0 from pageKind_chipPg c 0 hc (by decide)]
  show bitOf 0x10F 8 = true
  decide

/-- A fault raises CLOCK_FAULT, is logged, and changes nothing else (R67). -/
theorem Tray.clockFault_shows {t u : Tray} {c : Nat} (hc : c < 5) (ev : Ev) (data : List Nat) (h : u.logq = t.logq) :
    (u.clockFault c ev data).irqUp (chip0 c) 8 ∧ t.logs (u.clockFault c ev data) ev c data ∧
    u.Stays (u.clockFault c ev data) (irqReg c) := by
  unfold Tray.clockFault
  exact ⟨Tray.irqUp_raise _ _ _ (irqDefined_clockFault hc) (by decide),
    Tray.logs_logChip _ _ _ _ _ ((Tray.raise_logq ..).trans h),
    ((Tray.Stays.refl u _).raise 8 ⟨rfl, rfl⟩).logChip ev c data⟩

theorem Tray.clockFault_gf (t : Tray) (c : Nat) (ev : Ev) (data : List Nat) (q : Nat) {f : Fld} (h : f.off % 4096 ≠ 0x20) :
    (t.clockFault c ev data).gf q f = t.gf q f := Tray.gf_raise_off _ _ _ _ _ h

theorem Tray.clockFault_chip (t : Tray) (c : Nat) (ev : Ev) (data : List Nat) (d : Nat) :
    (t.clockFault c ev data).chip d = t.chip d := Tray.chip_raise ..

/-! ### DEALER_PLL_UNLOCK -/

/-- CK_DEAL runs from the floor PLL and the loss is counted. -/
def Tray.floorCounted (t : Tray) (c : Nat) : Tray := (t.dealFloor c).sat (chip0 c) F.CHIP_CLK_STS_LOSS_CNT 1

theorem Tray.dealerUnlock_locked {t : Tray} {c : Nat} (hon : t.chipOn c = true)
    (h : t.gf (chip0 c) F.CHIP_CLK_STS_DEAL_LOCK = 1) : t.dealerUnlock c = (t.floorCounted c).clockFault c .dealerPll [] := by
  unfold Tray.dealerUnlock
  exact if_neg (not_or.2 ⟨not_not.2 hon, not_not.2 ((Tray.is_iff ..).2 h)⟩)

theorem Tray.floorCounted_reads (t : Tray) (c : Nat) :
    (t.floorCounted c).gf (chip0 c) F.CHIP_DEAL_CLK_CUR_MHZ = 600 ∧
    (t.floorCounted c).gf (chip0 c) F.CHIP_CLK_STS_ON_FLOOR = 1 ∧
    (t.floorCounted c).gf (chip0 c) F.CHIP_CLK_STS_DEAL_LOCK = t.gf (chip0 c) F.CHIP_CLK_STS_DEAL_LOCK ∧
    (t.floorCounted c).gf (chip0 c) F.CHIP_CLK_STS_LOSS_CNT =
      satTo 255 (t.gf (chip0 c) F.CHIP_CLK_STS_LOSS_CNT + 1) := by
  obtain ⟨hcur, hfloor, -⟩ := t.dealFloor_reads c
  have hlock : (t.dealFloor c).gf (chip0 c) F.CHIP_CLK_STS_DEAL_LOCK = t.gf (chip0 c) F.CHIP_CLK_STS_DEAL_LOCK := by
    unfold Tray.dealFloor
    simp (disch := decide) only [Tray.gf_sb_ne, Tray.gf_sf_ne]
  have hloss : (t.dealFloor c).gf (chip0 c) F.CHIP_CLK_STS_LOSS_CNT = t.gf (chip0 c) F.CHIP_CLK_STS_LOSS_CNT := by
    unfold Tray.dealFloor
    simp (disch := decide) only [Tray.gf_sb_ne, Tray.gf_sf_ne]
  unfold Tray.floorCounted
  refine ⟨?_, ?_, ?_, ?_⟩ <;> simp (disch := decide) only [Tray.gf_sat_ne, Tray.gf_sat_self, hcur, hfloor, hlock, hloss]
  rfl

theorem Tray.floorCounted_stays (t : Tray) (c : Nat) : t.Stays (t.floorCounted c) (dealClkReg c) :=
  (t.dealFloor_stays c).sat 1 ⟨rfl, .inr rfl⟩ (by decide)

/-! ### The PCIe link -/

/-- The tray with the PCIe link of chip `c` up or down. -/
def Tray.linkSet (t : Tray) (c : Nat) (up : Bool) : Tray := t.modChip c (fun x => { x with pcieUp := up })

theorem Tray.linkSet_chip (t : Tray) (c : Nat) (up : Bool) :
    (t.linkSet c up).chip c = { t.chip c with pcieUp := up } := Tray.chip_modChip ..

theorem Tray.linkSet_stays (t : Tray) (c : Nat) (up : Bool) (R : Nat → Nat → Prop) : t.ChipStays (t.linkSet c up) R :=
  (Tray.ChipStays.refl t R).modChip ..

theorem Tray.pcieDown_linked {t : Tray} {c : Nat} (h : (t.chip c).pcieUp = true) :
    t.pcieDown c = (t.linkSet c false).clockFault c .pcieDown [] := by
  unfold Tray.pcieDown
  exact if_neg (not_not.2 h)

theorem Tray.pcieRetrained_released {t : Tray} {c : Nat} (hon : t.chipOn c = true) (h : (t.chip c).released = true) :
    t.pcieRetrained c = t.linkSet c true := by
  unfold Tray.pcieRetrained
  exact if_pos ⟨hon, h⟩

/-- No request reaches a chip whose link is down. -/
theorem Tray.reaches_unlinked {t : Tray} {c : Nat} (hc : c < 5) (h : (t.chip c).pcieUp = false) : t.reaches c = false := by
  unfold Tray.reaches
  rw [if_pos hc, h, Bool.false_and]

/-! ### Time discipline -/

/-- TIME_LOCKED as given. -/
def Tray.timeLock (t : Tray) (c : Nat) (on : Bool) : Tray := t.sb (chip0 c) F.CHIP_CLK_STS_TIME_LOCKED on

theorem Tray.timeLock_gf (t : Tray) (c : Nat) (on : Bool) :
    (t.timeLock c on).gf (chip0 c) F.CHIP_CLK_STS_TIME_LOCKED = b2n on := by
  cases on <;> exact Tray.gf_sb_self _ _ _ _ (by decide)

theorem Tray.timeLoss_locked {t : Tray} {c : Nat} (h : t.gf (chip0 c) F.CHIP_CLK_STS_TIME_LOCKED = 1) :
    t.timeLoss c = (t.timeLock c false).clockFault c .discipline [] := by
  unfold Tray.timeLoss
  exact if_neg (not_not.2 ((Tray.is_iff ..).2 h))

theorem Tray.timeRegain_near {t : Tray} {c : Nat} {time : Word} (hu : (t.chip c).coreUp = true)
    (hhi : time.toNat ≤ t.master + 4) (hlo : t.master ≤ time.toNat + 4) :
    t.timeRegain c time.toNat = (t.wr (chip0 c) A.CHIP_TIME time).timeLock c true := by
  unfold Tray.timeRegain
  rw [if_neg (not_or.2 ⟨not_not.2 hu, not_not.2 ⟨hhi, hlo⟩⟩), BitVec.ofNat_toNat, BitVec.setWidth_eq]
  rfl

/-! ### CORE_PLL_RELOCK -/

/-- The core PLL is locked. -/
def Tray.coreLocked (t : Tray) (c : Nat) : Tray := t.sb (chip0 c) F.CHIP_CLK_STS_CORE_LOCK true

theorem Tray.coreRelock_unlocked {t : Tray} {c : Nat} (hon : t.chipOn c = true)
    (h : t.gf (chip0 c) F.CHIP_CLK_STS_CORE_LOCK = 0) :
    t.coreRelock c = if t.enabled (chip0 c) then (t.coreLocked c).quiesceEnd c else t.coreLocked c := by
  unfold Tray.coreRelock
  refine if_neg (not_or.2 ⟨not_not.2 hon, fun hx => ?_⟩)
  exact absurd (h.symm.trans ((Tray.is_iff ..).1 hx)) (by decide)

/-- Port `e` of chip `c` holds no XOFF of its own. -/
def Tray.releasePort (t : Tray) (c e : Nat) : Tray :=
  if (t.port c e).xoffHold then t.modPort c e (fun p => { p with xoffHold := false }) else t

theorem Tray.quiesceEnd_eq (t : Tray) (c : Nat) : t.quiesceEnd c = t.each (List.range 64) fun t e => t.releasePort c e := rfl

theorem Tray.releasePort_releases (t : Tray) (c e : Nat) : ((t.releasePort c e).port c e).xoffHold = false := by
  unfold Tray.releasePort
  split
  · rw [Tray.port_modPort]
  · simp_all

theorem Tray.releasePort_keeps {t : Tray} {c e : Nat} (g : Nat) (h : (t.port c e).xoffHold = false) :
    ((t.releasePort c g).port c e).xoffHold = false := by
  by_cases hg : e = g
  · subst hg; exact t.releasePort_releases c e
  · unfold Tray.releasePort
    split
    · rw [Tray.port_modPort_ne _ _ _ _ _ _ (by omega)]; exact h
    · exact h

/-- Ports released one after another hold no XOFF. -/
theorem Tray.each_releasePort (l : List Nat) (t : Tray) (c : Nat) {e : Nat} (he : e ∈ l) :
    ((t.each l fun t e => t.releasePort c e).port c e).xoffHold = false := by
  induction l generalizing t with
  | nil => cases he
  | cons g l ih =>
    show (((t.releasePort c g).each l fun t e => t.releasePort c e).port c e).xoffHold = false
    rcases List.mem_cons.1 he with rfl | he
    · exact Tray.each_keeps (fun u => (u.port c e).xoffHold = false) _ l (fun _ k _ hu => Tray.releasePort_keeps k hu) _
        (t.releasePort_releases c e)
    · exact ih _ he

theorem Tray.quiesceEnd_same (t : Tray) (c : Nat) : (t.quiesceEnd c).regs = t.regs ∧ (t.quiesceEnd c).mem = t.mem := by
  have step (u : Tray) (e : Nat) : (u.releasePort c e).regs = u.regs ∧ (u.releasePort c e).mem = u.mem := by
    unfold Tray.releasePort
    split <;> exact ⟨rfl, rfl⟩
  exact ⟨Tray.each_same (·.regs) _ _ (fun u e _ => (step u e).1) t,
    Tray.each_same (·.mem) _ _ (fun u e _ => (step u e).2) t⟩

/-- The core PLL that locks again changes its bit; the ports of a chip that is enabled hold XOFF no longer. -/
theorem Tray.coreRelock_shows {t : Tray} {c : Nat} (hon : t.chipOn c = true)
    (h : t.gf (chip0 c) F.CHIP_CLK_STS_CORE_LOCK = 0) :
    (t.coreRelock c).regs = (t.coreLocked c).regs ∧ (t.coreRelock c).mem = t.mem ∧
    (t.enabled (chip0 c) = true → ∀ e, e < 64 → ((t.coreRelock c).port c e).xoffHold = false) := by
  rw [Tray.coreRelock_unlocked hon h]
  split
  next =>
    obtain ⟨hregs, hmem⟩ := (t.coreLocked c).quiesceEnd_same c
    exact ⟨hregs, hmem, fun _ e he => Tray.each_releasePort _ _ c (List.mem_range.2 he)⟩
  next hoff => exact ⟨rfl, rfl, fun hen => absurd hen hoff⟩

/-! ### TX_PLL_RECAL -/

theorem Tray.txRecal_live {t : Tray} {c q : Nat} (hu : (t.chip c).coreUp = true)
    (hl : bitOf (t.gf (chip0 c) F.CHIP_TXPLL_LOCK_LOCK) q = true) (hv : t.live c q = true) :
    t.txRecal c q = t.emit (.recalIdle c q) := if_pos ⟨hu, hl, hv⟩

/-- Settles O10, event by event. -/
theorem clockEvents : Obligations.ClockEvents := by
  intro s c
  refine ⟨fun hon hl => ?dealer, fun hup => ?down, fun hon hrel => ?up, fun hl => ?loss, fun time hu hhi hlo => ?regain,
    fun hon hl => ?relock, fun q hu hl hv => ?recal⟩
  case dealer =>
    obtain ⟨hcur, hfloor, hlock, hloss⟩ := s.tray.floorCounted_reads c.val
    obtain ⟨hirq, hlogs, hstay⟩ := Tray.clockFault_shows (t := s.tray) (u := s.tray.floorCounted c.val) c.isLt .dealerPll []
      (by simp [Tray.floorCounted, Tray.dealFloor, Tray.sb, Tray.sat])
    have keep (f : Fld) (hf : f.off % 4096 ≠ 0x20) :=
      Tray.clockFault_gf (s.tray.floorCounted c.val) c.val .dealerPll [] (chip0 c.val) hf
    exact completes_run (exec_dealerPllUnlock ..) (Tray.dealerUnlock_locked hon hl) fun t ht =>
      ⟨(ht.gf ..).trans ((keep _ (by decide)).trans hcur), (ht.gf ..).trans ((keep _ (by decide)).trans hfloor),
        (ht.gf ..).trans ((keep _ (by decide)).trans (hlock.trans hl)), (ht.gf ..).trans ((keep _ (by decide)).trans hloss),
        ht.irqUp hirq, ht.logs hlogs,
        ht.stays (((s.tray.floorCounted_stays c.val).mono fun _ _ ⟨hq, ho⟩ => ⟨hq, ho.imp_right .inl⟩).trans
          (hstay.mono fun _ _ ⟨hq, ho⟩ => ⟨hq, .inr (.inr ho)⟩))⟩
  case down =>
    obtain ⟨hirq, hlogs, hstay⟩ := Tray.clockFault_shows (t := s.tray) (u := s.tray.linkSet c.val false) c.isLt .pcieDown []
      rfl
    have hchip := (Tray.clockFault_chip _ c.val .pcieDown [] c.val).trans (s.tray.linkSet_chip c.val false)
    refine completes_run (exec_pcieLinkDown ..) (Tray.pcieDown_linked hup) fun t ht =>
      ⟨(ht.chip _).trans hchip, Tray.reaches_unlinked c.isLt (by rw [ht.chip, hchip]), ht.irqUp hirq, ht.logs hlogs,
        ht.chipStays ((Tray.linkSet_stays ..).trans (.of_stays hstay))⟩
  case up =>
    exact completes_run (exec_pcieLinkRetrained ..) (Tray.pcieRetrained_released hon hrel) fun t ht =>
      ⟨(ht.chip _).trans (s.tray.linkSet_chip c.val true), ht.chipStays (Tray.linkSet_stays ..)⟩
  case loss =>
    obtain ⟨hirq, hlogs, hstay⟩ := Tray.clockFault_shows (t := s.tray) (u := s.tray.timeLock c.val false) c.isLt .discipline []
      rfl
    have hlock : s.tray.Stays (s.tray.timeLock c.val false) fun q o => q = chip0 c.val ∧ (o = A.CHIP_CLK_STS ∨ o = 0x20) :=
      (Tray.Stays.refl ..).sb false ⟨rfl, .inl rfl⟩ (by decide)
    exact completes_run (exec_disciplineLoss ..) (Tray.timeLoss_locked hl) fun t ht =>
      ⟨(ht.gf ..).trans ((Tray.clockFault_gf _ _ _ _ _ (by decide)).trans (s.tray.timeLock_gf c.val false)), ht.irqUp hirq,
        ht.logs hlogs, ht.stays (hlock.trans (hstay.mono fun _ _ ⟨hq, ho⟩ => ⟨hq, .inr ho⟩))⟩
  case regain =>
    exact completes_run (exec_disciplineRegain ..) (Tray.timeRegain_near hu hhi hlo) fun t ht =>
      ⟨(ht.rd ..).trans ((Tray.rd_sb_off _ _ _ _ _ _ (by decide)).trans (Tray.rd_wr_self ..)),
        (ht.gf ..).trans (Tray.timeLock_gf _ c.val true),
        ht.stays (((Tray.Stays.refl ..).wr time ⟨rfl, .inl rfl⟩ (by decide)).sb true ⟨rfl, .inr rfl⟩ (by decide))⟩
  case relock =>
    obtain ⟨hregs, hmem, hports⟩ := Tray.coreRelock_shows hon hl
    have hlock : s.tray.keepsRegs (s.tray.coreLocked c.val) fun q o => q = chip0 c.val ∧ o = A.CHIP_CLK_STS :=
      Tray.keepsRegs_sb (Tray.keepsRegs_refl _ _) true ⟨rfl, rfl⟩ (by decide)
    exact completes_run (exec_corePllRelock ..) rfl fun t ht =>
      ⟨(ht.gf ..).trans ((congrArg _ (Tray.rd_congr hregs ..)).trans (Tray.gf_sb_self _ _ _ _ (by decide))),
        fun hen e he => by rw [ht.port]; exact hports hen e he,
        ht.keepsRegs (Tray.keepsRegs_trans hlock (Tray.keepsRegs_of hregs)), ht.mem.trans hmem⟩
  case recal =>
    exact completes_run (exec_txPllRecal ..) (Tray.txRecal_live hu hl hv) fun t ht =>
      ⟨ht.emits List.mem_cons_self, ht.stays ((Tray.Stays.refl ..).emit _)⟩

end Sys2Proof.Machine
end

section
/-! SUPPORT. Register accesses that are performed (R77–R81, R98, R101): what a write and a read of a register leave, and what an
access to an offset without a register does. -/
namespace Sys2Proof.Machine

theorem exec_registerWrite (sp : Fin 6) (page off : BitVec 12) (v : Word) (s : State) :
    exec (.registerWrite sp page off v) s = .next (s.run (fun t => t.write8 0 sp.val page.toNat off.toNat v)) := rfl

theorem exec_registerReadClear (sp : Fin 6) (page off : BitVec 12) (s : State) :
    exec (.registerReadClear sp page off) s =
      .next (s.runL (fun l t => t.registerRead l sp.val page.toNat off.toNat)) := rfl

/-- An access is performed on implemented pages only. -/
theorem Tray.accepts_page {t : Tray} {sp page off : Nat} (h : t.accepts sp page off = true) :
    pageKind (sp * 4096 + page) ≠ none := ((t.accepts_iff ..).1 h).2.1

/-! ### Writes to active offsets -/

/-- A command that writes an active offset of a settled space completes as the write leaves the tray, where that changes no
block. -/
theorem completes_write8 {i : Instr} {s : State} {sp page off : Nat} {v : Word} {P : State → Prop} {u : Tray}
    {R : Nat → Nat → Prop} (he : exec i s = .next (s.run (fun t => t.write8 0 sp page off v)))
    (ha : s.tray.accepts sp page off = true) (ho : off < 0x800) (hs : s.tray.settled sp)
    (hu : s.tray.writeActive (sp * 4096 + page) off v 0 = u) (hR : s.tray.Stays u R) (hP : ∀ t : State, t.Like u → P t) :
    Completes i s P :=
  completes_run he ((Tray.write8_active _ _ _ _ _ _ ha ho).trans (by rw [hu]; exact u.sweep_settled sp (hR.settled hs))) hP

/-- The register at `off` of page `pg`, and the page's error capture and interrupt bits. -/
def writtenReg (pg off q o : Nat) : Prop := q = pg ∧ (o = off ∨ o = 0x60 ∨ o = 0x20)

/-- Errors recorded on a page after a write of one of its registers. -/
theorem Tray.wr_each_recErr_stays (t : Tray) (pg : Nat) {off : Nat} (x : Word) (code n : Nat) (og : Origin) (ho : off < 4096) :
    t.Stays ((t.wr pg off x).each (List.range n) (fun t _ => t.recErr pg code og)) (writtenReg pg off) :=
  Tray.Stays.each _ _
    (fun w _ _ => (Tray.Stays.refl w _).recErr code og ⟨rfl, .inr (.inl rfl)⟩ ⟨rfl, .inr (.inr rfl)⟩)
    ((Tray.Stays.refl t _).wr x ⟨rfl, .inl rfl⟩ ho)

theorem Tray.putRw_stays (t : Tray) (pg off : Nat) (r : RegDesc) (v : Word) (og : Origin) (ho : off < 4096) :
    t.Stays (t.putRw pg off r v og) (writtenReg pg off) := t.wr_each_recErr_stays pg _ _ _ og ho

/-- A block register without a rule of its own and without W1C fields takes its RW fields alone. -/
theorem Tray.writeActive_plain {t : Tray} {pg off : Nat} {r : RegDesc} {v : Word} (hr : findReg pg off = some r)
    (hlo : 0x100 ≤ off) (hstaged : (v ^^^ t.rd pg off) &&& r.rwsMask = 0) (hplain : t.plainAt pg off r v 0)
    (hw1c : ∀ f ∈ r.fields, f.acc ≠ .w1c) : t.writeActive pg off v 0 = t.putRw pg off r v (Origin.wr 0 off) := by
  rw [Tray.writeActive_found _ _ _ _ _ r hr hstaged, if_neg (Nat.not_lt.2 hlo), Tray.writeBlock_plain _ _ _ _ _ _ hplain,
    Tray.putW1c_none _ _ _ _ _ hw1c]

/-- Settles O1, field by field of a register that has no rule of its own. -/
theorem registerWriteSetsRwFields : Obligations.RegisterWriteSetsRwFields := by
  intro s sp page off v r pg ha hlo hhi hr hstaged hplain hw1c hs
  have hstay := s.tray.putRw_stays pg off.toNat r v (Origin.wr 0 off.toNat) off.isLt
  refine completes_write8 (exec_registerWrite ..) ha hhi hs (Tray.writeActive_plain hr hlo hstaged hplain hw1c) hstay
    fun t ht => ⟨fun f hf => ?_, ht.stays hstay⟩
  rw [ht.rd]
  exact s.tray.putRw_get pg off.toNat r v _ (findReg_fit hr) (by omega) f hf

/-- A write that stores one value in its register, and does no more. -/
theorem registerWrite_stores {s : State} {sp : Fin 6} {page off : BitVec 12} {v x : Word}
    (ha : s.tray.accepts sp.val page.toNat off.toNat = true) (ho : off.toNat < 0x800) (hs : s.tray.settled sp.val)
    (hw : s.tray.writeActive (sp.val * 4096 + page.toNat) off.toNat v 0 = s.tray.wr (sp.val * 4096 + page.toNat) off.toNat x) :
    Completes (.registerWrite sp page off v) s (fun t =>
      t.tray.rd (sp.val * 4096 + page.toNat) off.toNat = x ∧
      s.tray.keepsRegs t.tray (fun q o => q = sp.val * 4096 + page.toNat ∧ o = off.toNat) ∧ s.tray.keepsBlocks t.tray) := by
  have hstay : s.tray.Stays _ _ := (Tray.Stays.refl ..).wr (R := fun q o => q = sp.val * 4096 + page.toNat ∧ o = off.toNat) x
    ⟨rfl, rfl⟩ off.isLt
  exact completes_write8 (exec_registerWrite ..) ha ho hs hw hstay fun t ht =>
    ⟨(ht.rd ..).trans (Tray.rd_wr_self ..), ht.stays hstay⟩

/-- Settles O2: the write of the interrupt bits, then that of the error capture. -/
theorem registerWriteClears : Obligations.RegisterWriteClears := by
  intro s sp page v pg hs
  refine ⟨fun ha => ?irq, fun ha hv hx => ?capt⟩
  case irq =>
    exact registerWrite_stores ha (by decide) hs (Tray.writeActive_irqRaw _ _ v 0 (Tray.accepts_page ha))
  case capt =>
    exact registerWrite_stores ha (by decide) hs (Tray.writeActive_errCapt _ _ v 0 (Tray.accepts_page ha) hx hv)

/-! ### Reads -/

/-- A read that is performed is answered with what its page returns. -/
theorem Tray.registerRead_performed {t : Tray} (l : Leases) {sp page off : Nat} (h : t.accepts sp page off = true) {v : Word}
    {u : Tray} (hu : t.readPage l (sp * 4096 + page) off 0 = (v, u)) :
    t.registerRead l sp page off = u.emit (.completion sp .ok v) := by
  unfold Tray.registerRead
  rw [Tray.read8_ok _ _ _ _ _ _ h, hu]

theorem Tray.readPage_register (t : Tray) (l : Leases) {pg off : Nat} (src : Nat) {r : RegDesc} (ho : off < 0x800)
    (h : findReg pg off = some r) : t.readPage l pg off src = (t.viewReg l pg off, t.clearRc pg off r) := by
  unfold Tray.readPage
  rw [if_pos ho, h]

theorem Tray.readPage_unmapped (t : Tray) (l : Leases) {pg off : Nat} (src : Nat) (ho : off < 0x800)
    (h : findReg pg off = none) : t.readPage l pg off src = (0, t.recErr pg E.UNMAPPED ⟨src, off, false⟩) := by
  unfold Tray.readPage
  rw [if_pos ho, h]

/-- Settles O4, by whether a register stands at the offset. -/
theorem readAnswersAndClears : Obligations.ReadAnswersAndClears := by
  intro s sp page off pg ha ho
  refine ⟨fun r hr hx => ?register, fun hr hv => ?unmapped⟩
  case register =>
    have hstay := s.tray.clearRc_stays pg off.toNat r off.isLt hx
    refine completes_runL (exec_registerReadClear ..) (Tray.registerRead_performed _ ha (Tray.readPage_register _ _ 0 ho hr))
      fun t ht => ⟨ht.emits List.mem_cons_self, fun f hf => ?_, ht.stays (hstay.emit _)⟩
    rw [ht.rd]
    exact s.tray.clearRc_get pg off.toNat r (findReg_fit hr) hx f hf
  case unmapped =>
    obtain ⟨hheld, -, hstay⟩ := s.tray.recErr_records pg E.UNMAPPED off.toNat false hv off.isLt
    exact completes_runL (exec_registerReadClear ..)
      (Tray.registerRead_performed _ ha (Tray.readPage_unmapped _ _ 0 ho hr)) fun t ht =>
        ⟨ht.emits List.mem_cons_self, ht.holdsErr hheld, ht.stays (hstay.emit _)⟩

end Sys2Proof.Machine
end

section
/-! SUPPORT. Staging (R78, R91, R92, R94): what a shadow write leaves, and a COMMIT that starts, that is refused at once, or whose
safe point does not come. -/
namespace Sys2Proof.Machine

theorem exec_shadowWrite (sp : Fin 6) (page off : BitVec 12) (v : Word) (s : State) :
    exec (.shadowWrite sp page off v) s =
      .next (s.run (fun t => if off.toNat < 0x800 then t else t.write8 0 sp.val page.toNat off.toNat v)) := rfl

theorem exec_commit (sp : Fin 6) (page : BitVec 12) (s : State) :
    exec (.commit sp page) s =
      .next (s.run (fun t => t.write8 0 sp.val page.toNat A.PG_COMMIT (F.PG_COMMIT_GO.put 0 1))) := rfl

theorem exec_commitTimeout (sp : Fin 6) (page : BitVec 12) (s : State) :
    exec (.commitTimeout sp page) s = .next (s.run (fun t => t.commitTimeout (sp.val * 4096 + page.toNat))) := rfl

/-! ### Shadow writes -/

theorem completes_shadowWrite {s : State} {sp : Fin 6} {page off : BitVec 12} {v : Word} {P : State → Prop} {u : Tray}
    (ha : s.tray.accepts sp.val page.toNat off.toNat = true) (ho : 0x800 ≤ off.toNat)
    (hu : s.tray.writeShadow (sp.val * 4096 + page.toNat) off.toNat v 0 = u) (hP : ∀ t : State, t.Like u → P t) :
    Completes (.shadowWrite sp page off v) s P :=
  completes_run (exec_shadowWrite ..)
    ((if_neg (Nat.not_lt.2 ho)).trans ((Tray.write8_shadow _ _ _ _ _ _ ha ho).trans hu)) hP

/-- While no COMMIT is pending the RWS fields take their values where these are no reserved encodings (R78). -/
theorem Tray.writeShadow_stages {t : Tray} {pg off : Nat} {r : RegDesc} (v : Word) (ho : 0x800 ≤ off) (ho' : off < 4096)
    (hr : findReg pg (off - 0x800) = some r) (hm : r.rwsMask ≠ 0) (hp : t.gf pg F.PG_COMMIT_STS_PENDING = 0)
    (hd : ¬ (r.off = A.CNT_DUMP_CFG ∧ pageKind pg = some .dump)) :
    (∀ f ∈ r.fields, f.fld.get ((t.writeShadow pg off v 0).rd pg off) =
      if f.acc = .rws ∧ stagedOk pg f (f.fld.get v) = true then f.fld.get v else f.fld.get (t.rd pg off)) ∧
    t.Stays (t.writeShadow pg off v 0) (writtenReg pg off) := by
  obtain ⟨n, hw⟩ := t.writeShadow_free pg off v 0 r hr hm hp hd
  rw [hw]
  refine ⟨fun f hf => ?_, Tray.wr_each_recErr_stays _ _ _ _ _ _ ho'⟩
  have hget := foldFields_get (fun f => decide (f.acc = .rws)) (stagedOk pg) (t.rd pg off) v 0 r.fields (findReg_fit hr) f
    (.inl hf)
  rw [Tray.each_recErr_rd _ _ _ _ _ _ _ (by omega), Tray.rd_wr_self, hget]
  simp only [hf, true_and, decide_eq_true_eq]

/-- Settles O6, by whether a COMMIT is pending. -/
theorem shadowWriteStages : Obligations.ShadowWriteStages := by
  intro s sp page off v r pg ha ho hr hm
  refine ⟨fun hp hd => ?free, fun hp hv => ?pending⟩
  case free =>
    obtain ⟨hget, hstay⟩ := Tray.writeShadow_stages v ho off.isLt hr hm hp hd
    refine completes_shadowWrite ha ho rfl fun t ht => ⟨fun f hf => ?_, ht.stays hstay⟩
    rw [ht.rd]
    exact hget f hf
  case pending =>
    obtain ⟨hheld, -, hstay⟩ := s.tray.recErr_records pg E.SHADOW_LOCKED off.toNat true hv off.isLt
    exact completes_shadowWrite ha ho (Tray.writeShadow_locked _ _ _ v 0 r hr hm hp) fun t ht =>
      ⟨ht.holdsErr hheld, ht.stays hstay⟩

/-! ### COMMIT -/

/-- The tray with a COMMIT of the page pending. -/
def Tray.commitPends (t : Tray) (pg : Nat) : Tray :=
  ((t.sb pg F.PG_COMMIT_STS_DONE false).sb pg F.PG_COMMIT_STS_REFUSED false).sb pg F.PG_COMMIT_STS_PENDING true

/-- PG_COMMIT_STS of the page. -/
def commitReg (pg q o : Nat) : Prop := q = pg ∧ o = 0x58

/-- What the end of a COMMIT that is refused may change beside it: the page's error capture and interrupt bits. -/
def refusedReg (pg q o : Nat) : Prop := q = pg ∧ (o = 0x58 ∨ o = 0x60 ∨ o = 0x20)

theorem Tray.commitPends_reads (t : Tray) (pg : Nat) :
    (t.commitPends pg).gf pg F.PG_COMMIT_STS_PENDING = 1 ∧ (t.commitPends pg).gf pg F.PG_COMMIT_STS_DONE = 0 ∧
    (t.commitPends pg).gf pg F.PG_COMMIT_STS_REFUSED = 0 := by
  unfold Tray.commitPends
  refine ⟨?_, ?_, ?_⟩ <;> simp (disch := decide) only [Tray.gf_sb_ne, Tray.gf_sb_self] <;> rfl

theorem Tray.commitPends_stays (t : Tray) (pg : Nat) : t.Stays (t.commitPends pg) (commitReg pg) :=
  (((Tray.Stays.refl ..).sb _ ⟨rfl, rfl⟩ (by decide)).sb _ ⟨rfl, rfl⟩ (by decide)).sb _ ⟨rfl, rfl⟩ (by decide)

/-- The time that stamps errors is no COMMIT status. -/
theorem Tray.commitPends_timeOf (t : Tray) (pg sp : Nat) : (t.commitPends pg).timeOf sp = t.timeOf sp := by
  unfold Tray.timeOf
  rw [(t.commitPends_stays pg).regs _ _ (by decide) fun h => absurd h.2 (by decide)]
  rfl

theorem Tray.commitGo_idle {t : Tray} {pg : Nat} (h : t.gf pg F.PG_COMMIT_STS_PENDING = 0) :
    t.commitGo pg = if pageKind pg = some .lane ∧ ¬ t.laneDown pg then
      (t.commitPends pg).commitEnd pg (some (E.COMMIT_UNAVAILABLE, 0x050)) else t.commitPends pg := by
  unfold Tray.commitGo
  exact if_neg fun hx => absurd (h.symm.trans ((Tray.is_iff ..).1 hx)) (by decide)

theorem Tray.commitTimeout_pending {t : Tray} {pg : Nat} (h : t.gf pg F.PG_COMMIT_STS_PENDING = 1)
    (ha : t.aborting pg = false) : t.commitTimeout pg = t.commitEnd pg
      (some (if pageKind pg = some .lane then E.COMMIT_UNAVAILABLE else E.COMMIT_TIMEOUT, 0x050)) := by
  unfold Tray.commitTimeout
  exact if_neg (not_or.2 ⟨not_not.2 ((Tray.is_iff ..).2 h), by rw [ha]; decide⟩)

/-- A command that gives GO on a settled space completes as COMMIT leaves the tray, where that changes no block. -/
theorem completes_commit {s : State} {sp : Fin 6} {page : BitVec 12} {P : State → Prop} {u : Tray} {R : Nat → Nat → Prop}
    (ha : s.tray.accepts sp.val page.toNat A.PG_COMMIT = true) (hs : s.tray.settled sp.val)
    (hu : s.tray.commitGo (sp.val * 4096 + page.toNat) = u) (hR : s.tray.Stays u R) (hP : ∀ t : State, t.Like u → P t) :
    Completes (.commit sp page) s P :=
  completes_write8 (exec_commit ..) ha (by decide) hs ((Tray.writeActive_commit _ _ 0 (Tray.accepts_page ha)).trans hu) hR hP

/-- Settles O7: a COMMIT by whether the page is a lane of a port that is not down, then its timeout. -/
theorem commitPendsAndTimesOut : Obligations.CommitPendsAndTimesOut := by
  intro s sp page pg
  refine ⟨fun ha hs hp => ⟨fun hfree => ?pends, fun hlane hup hv => ?refused⟩, fun hp hab hv => ?timeout⟩
  case pends =>
    obtain ⟨hpend, hdone, href⟩ := s.tray.commitPends_reads pg
    have hstay := s.tray.commitPends_stays pg
    have hgo := (Tray.commitGo_idle hp).trans (if_neg fun h => hfree ⟨h.1, Bool.eq_false_of_not_eq_true h.2⟩)
    exact completes_commit ha hs hgo hstay fun t ht =>
      ⟨(ht.gf ..).trans hpend, (ht.gf ..).trans hdone, (ht.gf ..).trans href, ht.stays hstay⟩
  case refused =>
    have hclear : (s.tray.commitPends pg).gf pg F.PG_ERR_CAPT_VALID = 0 :=
      (Tray.keepsRegs_gf (s.tray.commitPends_stays pg).regs _ _ (by decide) fun h => absurd h.2 (by decide)).trans hv
    obtain ⟨hpend, hdone, href, hheld, hend⟩ :=
      (s.tray.commitPends pg).commitEnd_refused pg E.COMMIT_UNAVAILABLE 0x050 hclear (by decide)
    rw [Tray.commitPends_timeOf] at hheld
    have hstay : s.tray.Stays _ (refusedReg pg) :=
      ((s.tray.commitPends_stays pg).mono fun _ _ ⟨hq, ho⟩ => ⟨hq, .inl ho⟩).trans hend
    have hgo := (Tray.commitGo_idle hp).trans (if_pos ⟨hlane, by rw [hup]; decide⟩)
    exact completes_commit ha hs hgo hstay fun t ht =>
      ⟨(ht.gf ..).trans hpend, (ht.gf ..).trans hdone, (ht.gf ..).trans href, ht.holdsErr hheld, ht.stays hstay⟩
  case timeout =>
    obtain ⟨hpend, hdone, href, hheld, hstay⟩ := s.tray.commitEnd_refused pg
      (if pageKind pg = some .lane then E.COMMIT_UNAVAILABLE else E.COMMIT_TIMEOUT) 0x050 hv (by decide)
    exact completes_run (exec_commitTimeout ..) (Tray.commitTimeout_pending hp hab) fun t ht =>
      ⟨(ht.gf ..).trans hpend, (ht.gf ..).trans hdone, (ht.gf ..).trans href, ht.holdsErr hheld, ht.stays hstay⟩

end Sys2Proof.Machine
end

section
/-! SUPPORT. Aborts (R102–R109): which function PG_ABORT.GO of a page starts, GO while an abort is in progress, the whole-chip
quiesce, and the end of an abort. -/
namespace Sys2Proof.Machine

theorem exec_noFunction (sp : Fin 6) (page : BitVec 12) (s : State) :
    exec (.noFunction sp page) s =
      .next (s.run (fun t => t.write8 0 sp.val page.toNat A.PG_ABORT (F.PG_ABORT_GO.put 0 1))) := rfl

theorem exec_wholeChipQuiesce (c : Fin 5) (s : State) :
    exec (.wholeChipQuiesce c) s =
      .next (s.run (fun t => t.write8 0 c.val 0x000 A.PG_ABORT (F.PG_ABORT_GO.put 0 1))) := rfl

theorem exec_abortDone (sp : Fin 6) (page : BitVec 12) (us : Nat) (s : State) :
    exec (.abortDone sp page us) s = .next (s.runD (fun t => t.abortEnds (sp.val * 4096 + page.toNat) us)) := rfl

/-! ### What GO starts -/

theorem Tray.abortGo_chip0 (t : Tray) {c : Nat} (hc : c < 5) (o : Origin) : t.abortGo (chip0 c) o = t.quiesceChip c := by
  unfold Tray.abortGo
  rw [show pageKind (chip0 c) = some .chip0 from pageKind_chipPg c 0 hc (by decide)]
  simp only [chip0_div]

theorem Tray.abortGo_port (t : Tray) {c e : Nat} (hc : c < 5) (he : e < 64) (o : Origin) :
    t.abortGo (portPg c e) o = t.portAbort c e := by
  unfold Tray.abortGo
  rw [pageKind_portPg c e hc he]
  simp only [portPg, chipPg_div c (0x010 + e) (by omega), chipPg_mod c (0x010 + e) (by omega), Nat.add_sub_cancel_left]

theorem Tray.abortGo_table (t : Tray) {c tb : Nat} (hc : c < 5) (ht : tb < 256) (o : Origin) :
    t.abortGo (tblPg c tb) o = t.tableAbortGo c tb := by
  unfold Tray.abortGo
  rw [pageKind_tblPg c tb hc ht]
  simp only [tblPg, chipPg_div c (0x200 + tb) (by omega), chipPg_mod c (0x200 + tb) (by omega), Nat.add_sub_cancel_left]

theorem Tray.abortGo_dealer (t : Tray) {c : Nat} (hc : c < 5) (o : Origin) : t.abortGo (dlrPg c) o = t.dealerAbort c := by
  unfold Tray.abortGo
  rw [show pageKind (dlrPg c) = some .dlr from pageKind_chipPg c 0x300 hc (by decide)]
  simp only [dlrPg, chipPg_div c 0x300 (by decide)]

theorem Tray.abortGo_hbm (t : Tray) {c k : Nat} (hc : c < 5) (hk : k < 2) (o : Origin) :
    t.abortGo (hbmPg c k) o = t.spillAbort c k := by
  have hkind : pageKind (hbmPg c k) = some .hbmCtl := by
    unfold hbmPg
    rw [pageKind_chipPg c _ hc (by omega)]
    match k, hk with
    | 0, _ => rfl
    | 1, _ => rfl
  unfold Tray.abortGo
  rw [hkind]
  simp only [hbmPg, chipPg_div c (0x320 + 2 * k) (by omega), chipPg_mod c (0x320 + 2 * k) (by omega), Nat.add_sub_cancel_left,
    Nat.mul_div_cancel_left k (show 0 < 2 by decide)]

theorem Tray.abortGo_dump (t : Tray) {c : Nat} (hc : c < 5) (o : Origin) : t.abortGo (dumpPg c) o = t.dumpAbort c := by
  unfold Tray.abortGo
  rw [show pageKind (dumpPg c) = some .dump from pageKind_chipPg c 0x340 hc (by decide)]
  simp only [dumpPg, chipPg_div c 0x340 (by decide)]

theorem Tray.abortGo_circ (t : Tray) {c : Nat} (hc : c < 5) (o : Origin) : t.abortGo (circPg c) o = t.circuitAbort c := by
  unfold Tray.abortGo
  rw [show pageKind (circPg c) = some .circ from pageKind_chipPg c 0x3C0 hc (by decide)]
  simp only [circPg, chipPg_div c 0x3C0 (by decide)]

/-- A page without an abortable function records NO_FUNCTION (R102). -/
theorem Tray.abortGo_none (t : Tray) {pg : Nat} (o : Origin) (hk : pageKind pg ≠ none) (ha : abortable pg = false) :
    t.abortGo pg o = t.recErr pg E.NO_FUNCTION o := by
  cases hkind : pageKind pg with
  | none => exact absurd hkind hk
  | some k =>
    have hno : t.noFunction pg o = t.recErr pg E.NO_FUNCTION o := by
      unfold Tray.noFunction
      exact if_neg (not_or.2 ⟨hk, by rw [ha]; decide⟩)
    unfold abortable at ha
    unfold Tray.abortGo
    rw [hkind] at ha ⊢
    cases k
    case chip0 | port | table | dlr | hbmCtl | dump | circ => exact absurd ha (by decide)
    all_goals exact hno

/-- A command that gives GO on a page is the function that GO starts, after which slots note the operations that ended. -/
theorem Tray.write8_abort {t u : Tray} {sp page : Nat} (ha : t.accepts sp page A.PG_ABORT = true)
    (hu : t.abortGo (sp * 4096 + page) (Origin.wr 0 A.PG_ABORT) = u) :
    t.write8 0 sp page A.PG_ABORT (F.PG_ABORT_GO.put 0 1) = u.sweep sp := by
  rw [Tray.write8_active _ _ _ _ _ _ ha (by decide), Tray.writeActive_abort _ _ 0 (Tray.accepts_page ha), hu]

/-- A GO that starts nothing, on a settled space, changes nothing. -/
theorem completes_ignoredGo {i : Instr} {s : State} {c p : Nat}
    (he : exec i s = .next (s.run (fun t => t.write8 0 c p A.PG_ABORT (F.PG_ABORT_GO.put 0 1))))
    (ha : s.tray.accepts c p A.PG_ABORT = true) (hs : s.tray.settled c)
    (hgo : s.tray.abortGo (chipPg c p) (Origin.wr 0 A.PG_ABORT) = s.tray) :
    Completes i s (fun t => s.tray.keepsRegs t.tray (fun _ _ => False) ∧ s.tray.keepsBlocks t.tray) :=
  completes_run he ((Tray.write8_abort ha hgo).trans (Tray.sweep_settled _ _ hs)) fun _ ht => ht.stays (.refl ..)

/-- Settles O12, function by function: each leaves the tray as it is while its page is aborting. -/
theorem abortInProgressIgnoresGo : Obligations.AbortInProgressIgnoresGo := by
  intro s c hs still
  refine ⟨fun ha hb => ?dump, fun ha hb => ?circuits, fun ha hb => ?dealer, fun tb ha hb => ?table, fun k ha hb => ?spill,
    fun e ha hb => ?port, fun ha hb => ?chip⟩
  case dump => exact completes_ignoredGo rfl ha hs ((Tray.abortGo_dump _ c.isLt _).trans (if_pos hb))
  case circuits => exact completes_ignoredGo rfl ha hs ((Tray.abortGo_circ _ c.isLt _).trans (if_pos hb))
  case dealer => exact completes_ignoredGo rfl ha hs ((Tray.abortGo_dealer _ c.isLt _).trans (if_pos hb))
  case table => exact completes_ignoredGo rfl ha hs ((Tray.abortGo_table _ c.isLt tb.isLt _).trans (if_pos hb))
  case spill => exact completes_ignoredGo rfl ha hs ((Tray.abortGo_hbm _ c.isLt k.isLt _).trans (if_pos hb))
  case port => exact completes_ignoredGo rfl ha hs ((Tray.abortGo_port _ c.isLt e.isLt _).trans (if_pos hb))
  case chip => exact completes_ignoredGo rfl ha hs ((Tray.abortGo_chip0 _ c.isLt _).trans (if_pos hb))

/-! ### The whole-chip quiesce -/

/-- Page 0x000 of the chip is disabled and aborting: what a quiesce begins with. -/
def Tray.quiesceStarts (t : Tray) (c : Nat) : Tray := (t.startAbort (chip0 c)).sb (chip0 c) F.PG_CTL_ENABLE false

theorem Tray.quiesceStarts_reads (t : Tray) (c : Nat) :
    (t.quiesceStarts c).gf (chip0 c) F.PG_CTL_ENABLE = 0 ∧
    (t.quiesceStarts c).gf (chip0 c) F.PG_ABORT_STS_EPOCH = (t.gf (chip0 c) F.PG_ABORT_STS_EPOCH + 1) % 2 ^ 16 ∧
    (t.quiesceStarts c).gf (chip0 c) F.PG_ABORT_STS_IN_PROGRESS = 1 := by
  obtain ⟨hepoch, hprog, -⟩ := t.startAbort_gf (chip0 c)
  unfold Tray.quiesceStarts
  exact ⟨Tray.gf_sb_self _ _ _ _ (by decide), (Tray.gf_sb_off _ _ _ _ _ _ (by decide)).trans hepoch,
    (Tray.gf_sb_off _ _ _ _ _ _ (by decide)).trans hprog⟩

/-- PG_CTL and PG_ABORT_STS of page 0x000. -/
def quiesceReg (c q o : Nat) : Prop := q = chip0 c ∧ (o = A.PG_CTL ∨ o = 0x48)

theorem Tray.quiesceStarts_keeps (t : Tray) (c : Nat) : t.keepsRegs (t.quiesceStarts c) (quiesceReg c) :=
  (((((Tray.Stays.refl t (quiesceReg c)).cnt (f := F.PG_ABORT_STS_EPOCH) 1 ⟨rfl, .inr rfl⟩ (by decide)).sb
    (f := F.PG_ABORT_STS_DONE) false ⟨rfl, .inr rfl⟩ (by decide)).sb (f := F.PG_ABORT_STS_IN_PROGRESS) true
      ⟨rfl, .inr rfl⟩ (by decide)).sf (f := F.PG_ABORT_STS_ELAPSED_US) 0 ⟨rfl, .inr rfl⟩ (by decide)).sb
        (f := F.PG_CTL_ENABLE) false ⟨rfl, .inl rfl⟩ (by decide) |>.regs

/-- What a quiesce leaves of registers that no abort writes, after the slots have noted the ends. -/
theorem Tray.quiesced_rd {t : Tray} {c : Nat} (ha : t.aborting (chip0 c) = false) {q o : Nat} (ho : o < 4096)
    (hf : abortFree c q o) (h48 : o = 0x48 → q / 4096 ≠ c ∨ q % 4096 < 0x010 ∨ 0x050 ≤ q % 4096) :
    ((t.quiesceChip c).sweep c).rd q o = (t.quiesceStarts c).rd q o :=
  ((Tray.sweep_side _ c).keeps q o ho (TrafficSide.jobFree_of hf.1)).trans (Tray.quiesceChip_rd c t ha q o ho hf h48)

/-- Of the header registers of page 0x000 all but the interrupt bits. -/
theorem Tray.quiesced_gf {t : Tray} {c : Nat} (ha : t.aborting (chip0 c) = false) (f : Fld) (hf : f.off < 0x100)
    (hi : f.off ≠ 0x20) : ((t.quiesceChip c).sweep c).gf (chip0 c) f = (t.quiesceStarts c).gf (chip0 c) f :=
  congrArg f.get (Tray.quiesced_rd ha (by omega) (abortFree_chip0 c _ (by omega) hi)
    fun _ => .inr (.inl (by rw [chip0_mod]; decide)))

/-- The ports stay in their states (R109). -/
theorem Tray.quiesced_pst {t : Tray} {c e : Nat} (ha : t.aborting (chip0 c) = false) (he : e < 64) :
    ((t.quiesceChip c).sweep c).pst c e = t.pst c e :=
  congrArg F.PORT_TRAIN_STS_STATE.get
    ((Tray.quiesced_rd ha (by decide) (abortFree_port c e he _ (by decide)) fun h => absurd h (by decide)).trans
      (t.quiesceStarts_keeps c _ _ (by decide) fun h => portPg_ne_chip0 c e h.1))

/-- A whole-chip quiesce that starts (R109). -/
theorem wholeChipQuiesce_starts {s : State} {c : Fin 5} (hgo : s.tray.accepts c.val 0x000 A.PG_ABORT = true)
    (ha : s.tray.aborting (chip0 c.val) = false) : Completes (.wholeChipQuiesce c) s (fun t =>
      t.tray.gf (chip0 c.val) F.PG_CTL_ENABLE = 0 ∧
      t.tray.gf (chip0 c.val) F.PG_ABORT_STS_EPOCH = (s.tray.gf (chip0 c.val) F.PG_ABORT_STS_EPOCH + 1) % 2 ^ 16 ∧
      t.tray.gf (chip0 c.val) F.PG_ABORT_STS_IN_PROGRESS = 1 ∧
      (∀ e, e < 64 → t.tray.pst c.val e = s.tray.pst c.val e) ∧
      s.tray.keepsRegs t.tray (fun q o => ¬ abortFree c.val q o ∨ quiesceReg c.val q o ∨ (q / 4096 = c.val ∧ o = 0x48))) := by
  obtain ⟨hen, hepoch, hprog⟩ := s.tray.quiesceStarts_reads c.val
  have hread (f : Fld) (hf : f.off < 0x100) (hi : f.off ≠ 0x20) := Tray.quiesced_gf ha f hf hi
  refine completes_run (exec_wholeChipQuiesce ..) (Tray.write8_abort hgo (Tray.abortGo_chip0 _ c.isLt _)) fun t ht =>
    ⟨(ht.gf ..).trans ((hread _ (by decide) (by decide)).trans hen),
      (ht.gf ..).trans ((hread _ (by decide) (by decide)).trans hepoch),
      (ht.gf ..).trans ((hread _ (by decide) (by decide)).trans hprog),
      fun e he => (ht.gf ..).trans (Tray.quiesced_pst ha he), ht.keepsRegs fun q o ho hn => ?_⟩
  obtain ⟨hfree, hhead, hsts⟩ : abortFree c.val q o ∧ ¬ quiesceReg c.val q o ∧ ¬ (q / 4096 = c.val ∧ o = 0x48) := by tauto
  exact (Tray.quiesced_rd ha ho hfree fun h => .inl fun hq => hsts ⟨hq, h⟩).trans (s.tray.quiesceStarts_keeps c.val q o ho hhead)

/-! ### The end of an abort -/

theorem irqMask_mod (pg : Nat) : irqMask pg % 256 = 0 := by
  unfold irqMask
  split
  case h_13 => split <;> rfl
  all_goals rfl

/-- Every page defines interrupt bits 0 to 3 (R98). -/
theorem bitOf_irqDefined (pg : Nat) {b : Nat} (hb : b < 4) : bitOf (irqDefined pg) b = true := by
  have hm := irqMask_mod pg
  unfold bitOf irqDefined
  interval_cases b <;> simp <;> omega

/-- The status of the page's abort shows its end (R105). -/
def Tray.abortEnded (t : Tray) (pg us : Nat) : Tray :=
  ((t.sb pg F.PG_ABORT_STS_IN_PROGRESS false).sb pg F.PG_ABORT_STS_DONE true).sf pg F.PG_ABORT_STS_ELAPSED_US (min us 65535)

/-- PG_ABORT_STS and the interrupt bits of the page. -/
def abortEndReg (pg q o : Nat) : Prop := q = pg ∧ (o = 0x48 ∨ o = 0x20)

theorem Tray.abortEnded_reads (t : Tray) (pg us : Nat) :
    (t.abortEnded pg us).gf pg F.PG_ABORT_STS_IN_PROGRESS = 0 ∧ (t.abortEnded pg us).gf pg F.PG_ABORT_STS_DONE = 1 ∧
    (t.abortEnded pg us).gf pg F.PG_ABORT_STS_ELAPSED_US = min us 65535 ∧
    (t.abortEnded pg us).gf pg F.PG_ABORT_STS_EPOCH = t.gf pg F.PG_ABORT_STS_EPOCH := by
  unfold Tray.abortEnded
  refine ⟨?_, ?_, ?_, ?_⟩ <;> simp (disch := decide) only [Tray.gf_sf_ne, Tray.gf_sb_ne, Tray.gf_sf_self, Tray.gf_sb_self]
  · rfl
  · rfl
  · exact Nat.mod_eq_of_lt (Nat.lt_succ_of_le (Nat.min_le_right ..))

theorem Tray.abortEnded_stays (t : Tray) (pg us : Nat) : t.Stays (t.abortEnded pg us) (abortEndReg pg) :=
  (((Tray.Stays.refl ..).sb _ ⟨rfl, .inl rfl⟩ (by decide)).sb _ ⟨rfl, .inl rfl⟩ (by decide)).sf _ ⟨rfl, .inl rfl⟩ (by decide)

theorem Tray.abortEnded_gf (t : Tray) (pg us q : Nat) (f : Fld) (h : f.off % 4096 ≠ 0x48) :
    (t.abortEnded pg us).gf q f = t.gf q f := by
  unfold Tray.abortEnded
  rw [Tray.gf_sf_off _ _ _ _ _ _ h, Tray.gf_sb_off _ _ _ _ _ _ h, Tray.gf_sb_off _ _ _ _ _ _ h]

/-- An abort that ends in its time has no further effect (R103). -/
theorem Tray.abortEnds_inTime {t : Tray} {pg us : Nat} (h : pageKind pg = some .chip0 → us ≤ 200) :
    t.abortEnds pg us = t.abortDone pg us := by
  unfold Tray.abortEnds
  exact if_neg fun ⟨_, hk, hus, _⟩ => absurd (h hk) (Nat.not_le.2 hus)

/-- What the end of an abort further does on a table's page (R263). -/
def Tray.abortReturns (t : Tray) (pg : Nat) : Tray :=
  match pageKind pg with
  | some .table => t.tableAbortDone (pg / 4096) (pg % 4096 - 0x200)
  | _ => t

theorem Tray.abortReturns_plain (t : Tray) {pg : Nat} (h : pageKind pg ≠ some .table) : t.abortReturns pg = t := by
  unfold Tray.abortReturns
  split
  · contradiction
  · rfl

theorem Tray.abortReturns_table (t : Tray) {c tb : Nat} (hc : c < 5) (ht : tb < 256) :
    t.abortReturns (tblPg c tb) = t.tableAbortDone c tb := by
  unfold Tray.abortReturns
  rw [pageKind_tblPg c tb hc ht]
  simp only [tblPg, chipPg_div c (0x200 + tb) (by omega), chipPg_mod c (0x200 + tb) (by omega), Nat.add_sub_cancel_left]

/-- The end of an abort while no COMMIT waits (R104). -/
theorem Tray.abortDone_idle {t : Tray} {pg us : Nat} (ha : t.aborting pg = true)
    (hp : t.gf pg F.PG_COMMIT_STS_PENDING = 0) :
    t.abortDone pg us = ((t.abortEnded pg us).abortReturns pg).raise pg 0 := by
  have hwait : ¬ (t.abortEnded pg us).is pg F.PG_COMMIT_STS_PENDING = true := fun h =>
    absurd (((t.abortEnded_gf pg us pg _ (by decide)).trans hp).symm.trans ((Tray.is_iff ..).1 h)) (by decide)
  unfold Tray.abortDone
  rw [if_neg (not_not.2 ha)]
  extract_lets t1 t2 t3
  have h2 : t2 = t.abortEnded pg us := if_neg hwait
  exact congrArg (fun u => (Tray.abortReturns u pg).raise pg 0) h2

theorem Tray.abortDone_plain {t : Tray} {pg us : Nat} (ha : t.aborting pg = true) (hp : t.gf pg F.PG_COMMIT_STS_PENDING = 0)
    (hk : pageKind pg ≠ some .table) : t.abortDone pg us = (t.abortEnded pg us).raise pg 0 := by
  rw [Tray.abortDone_idle ha hp, Tray.abortReturns_plain _ hk]

/-- The table of an ended abort is ACTIVE again, or FREE with its reservation and windows returned (R263, R264). -/
def Tray.tableReturns (t : Tray) (c tb : Nat) : Tray :=
  if t.enabled (tblPg c tb) then t.sf (tblPg c tb) F.TBL_STS_STATE T.ACTIVE
  else (t.sf (tblPg c tb) F.TBL_STS_STATE T.FREE).modTable c tb (fun x => { x with res := [], wins := [] })

theorem Tray.tableAbortDone_aborting {t : Tray} {c tb : Nat} (h : t.tst c tb = T.ABORTING) :
    t.tableAbortDone c tb = (t.tableReturns c tb).raise (tblPg c tb) 11 := by
  unfold Tray.tableAbortDone Tray.tableReturns
  dsimp only
  rw [if_neg (not_not.2 h)]
  split <;> rfl

theorem Tray.tableReturns_reads (t : Tray) (c tb : Nat) :
    (t.tableReturns c tb).tst c tb = (if t.enabled (tblPg c tb) then T.ACTIVE else T.FREE) ∧
    (t.tableReturns c tb).rd (tblPg c tb) 0x48 = t.rd (tblPg c tb) 0x48 ∧ (t.tableReturns c tb).dealers = t.dealers := by
  unfold Tray.tableReturns Tray.tst
  split
  · exact ⟨Tray.gf_sf_self _ _ _ _ (by decide), Tray.rd_sf_off _ _ _ _ _ _ (by decide), Tray.sf_dealers ..⟩
  · rw [Tray.gf_modTable, Tray.rd_modTable, Tray.modTable_dealers]
    exact ⟨Tray.gf_sf_self _ _ _ _ (by decide), Tray.rd_sf_off _ _ _ _ _ _ (by decide), Tray.sf_dealers ..⟩

/-- The end of a table's abort while no COMMIT waits (R104, R264). -/
theorem Tray.abortDone_table {t : Tray} {c tb us : Nat} (hc : c < 5) (ht : tb < 256) (ha : t.aborting (tblPg c tb) = true)
    (hp : t.gf (tblPg c tb) F.PG_COMMIT_STS_PENDING = 0) (hs : t.tst c tb = T.ABORTING) :
    t.abortDone (tblPg c tb) us =
      (((t.abortEnded (tblPg c tb) us).tableReturns c tb).raise (tblPg c tb) 11).raise (tblPg c tb) 0 := by
  have hst : (t.abortEnded (tblPg c tb) us).tst c tb = T.ABORTING := (t.abortEnded_gf _ us _ _ (by decide)).trans hs
  rw [Tray.abortDone_idle ha hp, Tray.abortReturns_table _ hc ht, Tray.tableAbortDone_aborting hst]

/-- A table's abort that ends (R263, R264). -/
theorem abortDone_returnsTable {s : State} {c : Fin 5} {tb : Fin 256} {us : Nat}
    (ha : s.tray.aborting (tblPg c.val tb.val) = true) (hp : s.tray.gf (tblPg c.val tb.val) F.PG_COMMIT_STS_PENDING = 0)
    (hst : s.tray.tst c.val tb.val = T.ABORTING) (hs : ∀ d, d < 5 → s.tray.settled d) :
    Completes (.abortDone ⟨c.val, by omega⟩ (BitVec.ofNat 12 (0x200 + tb.val)) us) s (fun t =>
      t.tray.tst c.val tb.val = (if s.tray.enabled (tblPg c.val tb.val) then T.ACTIVE else T.FREE) ∧
      t.tray.gf (tblPg c.val tb.val) F.PG_ABORT_STS_DONE = 1 ∧
      t.tray.gf (tblPg c.val tb.val) F.PG_ABORT_STS_IN_PROGRESS = 0) := by
  obtain ⟨hprog, hdone, -, -⟩ := s.tray.abortEnded_reads (tblPg c.val tb.val) us
  obtain ⟨htst, hsts, hdealers⟩ := (s.tray.abortEnded (tblPg c.val tb.val) us).tableReturns_reads c.val tb.val
  have hen : (s.tray.abortEnded (tblPg c.val tb.val) us).enabled (tblPg c.val tb.val) = s.tray.enabled (tblPg c.val tb.val) :=
    congrArg (· == 1) (s.tray.abortEnded_gf _ us _ _ (by decide))
  rw [hen] at htst
  have hpage : c.val * 4096 + (BitVec.ofNat 12 (0x200 + tb.val)).toNat = tblPg c.val tb.val := by
    rw [BitVec.toNat_ofNat, Nat.mod_eq_of_lt (by omega)]; rfl
  have hend := (Tray.abortEnds_inTime fun h => by rw [pageKind_tblPg _ _ c.isLt tb.isLt] at h; cases h).trans
    (Tray.abortDone_table (us := us) c.isLt tb.isLt ha hp hst)
  have hread (f : Fld) (hf : f.off % 4096 ≠ 0x20) (u : Tray) :
      ((u.raise (tblPg c.val tb.val) 11).raise (tblPg c.val tb.val) 0).gf (tblPg c.val tb.val) f = u.gf (tblPg c.val tb.val) f :=
    (Tray.gf_raise_off _ _ _ _ _ hf).trans (Tray.gf_raise_off _ _ _ _ _ hf)
  refine completes_runD (exec_abortDone ..) ((congrArg (s.tray.abortEnds · us) hpage).trans hend) (fun d hd => ?_)
    fun t ht => ⟨(ht.gf ..).trans ((hread _ (by decide) _).trans htst),
      (ht.gf ..).trans ((hread _ (by decide) _).trans ((congrArg F.PG_ABORT_STS_DONE.get hsts).trans hdone)),
      (ht.gf ..).trans ((hread _ (by decide) _).trans ((congrArg F.PG_ABORT_STS_IN_PROGRESS.get hsts).trans hprog))⟩
  refine (Tray.settled_congr ?_ d).2 ((s.tray.abortEnded_stays (tblPg c.val tb.val) us).settled (hs d hd))
  rw [Tray.raise_dealers, Tray.raise_dealers, hdealers]

/-- Settles O13: the quiesce, GO without a function, and the end of an abort, of a table and of another page. -/
theorem quiesceAndAbortEnd : Obligations.QuiesceAndAbortEnd := by
  intro s
  refine ⟨fun c hgo ha => wholeChipQuiesce_starts hgo ha, fun sp page hgo hno hs hv => ?noFunction,
    fun sp page us ha hp hk hus hs => ?done, fun c tb us ha hp hst hs => abortDone_returnsTable ha hp hst hs⟩
  case noFunction =>
    obtain ⟨hheld, -, hstay⟩ := s.tray.recErr_records (sp.val * 4096 + page.toNat) E.NO_FUNCTION A.PG_ABORT true hv (by decide)
    exact completes_write8 (exec_noFunction ..) hgo (by decide) hs
      ((Tray.writeActive_abort _ _ 0 (Tray.accepts_page hgo)).trans (Tray.abortGo_none _ _ (Tray.accepts_page hgo) hno)) hstay
      fun t ht => ⟨ht.holdsErr hheld, ht.stays hstay⟩
  case done =>
    have hread (f : Fld) (hf : f.off % 4096 ≠ 0x20) :=
      Tray.gf_raise_off (s.tray.abortEnded (sp.val * 4096 + page.toNat) us) (sp.val * 4096 + page.toNat) 0
        (sp.val * 4096 + page.toNat) f hf
    obtain ⟨hprog, hdone, helapsed, hepoch⟩ := s.tray.abortEnded_reads (sp.val * 4096 + page.toNat) us
    have hstay := (s.tray.abortEnded_stays (sp.val * 4096 + page.toNat) us).raise 0 ⟨rfl, .inr rfl⟩
    exact completes_runD (exec_abortDone ..) ((Tray.abortEnds_inTime hus).trans (Tray.abortDone_plain ha hp hk))
      (fun d hd => hstay.settled (hs d hd)) fun t ht =>
        ⟨(ht.gf ..).trans ((hread _ (by decide)).trans hprog), (ht.gf ..).trans ((hread _ (by decide)).trans hdone),
          (ht.gf ..).trans ((hread _ (by decide)).trans helapsed), (ht.gf ..).trans ((hread _ (by decide)).trans hepoch),
          ht.irqUp (Tray.irqUp_raise _ _ _ (bitOf_irqDefined _ (by decide)) (by decide)), ht.stays hstay⟩

end Sys2Proof.Machine
end

section
/-! SUPPORT. Two counterexamples: an access while a message waits to be formed (R437), and the state at reset, read beyond the
ports of a chip. -/
namespace Sys2Proof.Machine

/-! ### A message that waits -/

/-- The tray at reset, but that firmware runs and a HELLO for a manager waits to be formed; every step leaves none waiting. -/
def helloWaits : State :=
  { State.reset with tray := { State.reset.tray with
      hal := { State.reset.tray.hal with up := true }, zq := [{ mgr := 0, type := Z.HELLO, body := [] }] } }

/-- A HELLO that waits leaves the tray with whatever command runs while firmware is up (R437). -/
theorem State.run_sends_hello (s : State) {f : Tray → Tray} {u : Tray} {z : ZSend} (hu : f s.tray = u) (hz : u.zq = [z])
    (ht : z.type = Z.HELLO) (hup : u.hal.up = true) : ∃ hdr, (s.run f).tray.out = .zmp z.mgr hdr z.body :: u.out := by
  unfold State.run Tray.flush
  simp [hu, hz, Tray.each, Tray.zout, ht, hup, Tray.emit, Z.HELLO, Z.FAULT]

/-- Refutes O55: with a HELLO waiting, the read of the empty offset 0x7F8 of the Halvoren's page 0x000 is answered, and then the
HELLO leaves too, so that the answer is not all that has left the tray. The statement lacks the hypothesis that the tray is
quiet. -/
theorem not_emptyOffsetsAndPendingCommits : ¬ Obligations.EmptyOffsetsAndPendingCommits := by
  intro h
  have ha : helloWaits.tray.accepts 5 0x000 0x7F8 = true := by decide +kernel
  have hr : findReg (5 * 4096 + 0x000) 0x7F8 = none := by decide +kernel
  have hs : helloWaits.tray.settled 5 := fun _ _ _ hw => by cases hw
  obtain ⟨-, t, hexec, -, hout⟩ :=
    (h helloWaits 5 0x000 0x7F8 0 ha hs).1 (fun _ => hr) (fun ho => absurd ho (by decide))
  have hread := Tray.registerRead_performed helloWaits.leases ha (Tray.readPage_unmapped _ _ 0 (by decide) hr)
  obtain ⟨hdr, hsent⟩ := helloWaits.run_sends_hello (f := fun t => t.registerRead helloWaits.leases 5 0x000 0x7F8) hread
    (Tray.recErr_zq ..) rfl (congrArg HalSt.up (Tray.recErr_hal ..))
  obtain rfl : helloWaits.run _ = t := Host.Outcome.next.inj hexec
  have hlen := congrArg List.length (hsent.symm.trans hout)
  simp [Tray.emit] at hlen

/-! ### Pages beyond the ports -/

/-- Register 0x108 of page 0x060, the kitty's, is no training status and resets to another value than 0. -/
theorem reset_pst_beyond_ports : State.reset.tray.pst 0 0x50 ≠ S.DISABLED := by decide +kernel

/-- Refutes O60: the clause on the ports speaks of every number `e`, and page 0x010 + 0x50 of a chip is page 0x060, whose register
at the place of PORT_TRAIN_STS does not reset to DISABLED. A chip has ports 0 to 63 alone. -/
theorem not_resetState : ¬ Obligations.ResetState := by
  intro h
  obtain ⟨-, -, -, -, -, -, -, -, -, -, hchips⟩ := h
  obtain ⟨-, hports, -⟩ := hchips 0 (by decide)
  exact reset_pst_beyond_ports (hports 0x50)

end Sys2Proof.Machine
end

section
/-! SUPPORT. More updates that stay with one port, and what a list of updates brings about, one element each. -/
namespace Sys2Proof.Machine

/-- What each update of a list brings about for its own element, and the others keep, holds of every element after it; `Q` is
what all of them keep. -/
theorem Tray.each_all {α : Type} (Q : Tray → Prop) (P : α → Tray → Prop) (f : Tray → α → Tray) (l : List α)
    (hQ : ∀ t a, a ∈ l → Q t → Q (f t a)) (hP : ∀ t a, a ∈ l → Q t → P a (f t a))
    (hkeep : ∀ t a b, a ∈ l → b ∈ l → a ≠ b → Q t → P a t → P a (f t b)) (t : Tray) (ht : Q t) : ∀ a ∈ l, P a (t.each l f) := by
  have hstep : ∀ t a b, a ∈ l → b ∈ l → Q t ∧ P a t → Q (f t b) ∧ P a (f t b) := fun t a b ha hb ⟨hq, hp⟩ => by
    refine ⟨hQ t b hb hq, ?_⟩
    by_cases hab : a = b
    · exact hab ▸ hP t a ha hq
    · exact hkeep t a b ha hb hab hq hp
  have hrest : ∀ k : List α, (∀ b ∈ k, b ∈ l) → ∀ u, Q u → ∀ a ∈ k, P a (u.each k f) := by
    intro k
    induction k with
    | nil => exact fun _ _ _ a ha => absurd ha List.not_mem_nil
    | cons b k ih =>
      intro hk u hu a ha
      have hb : b ∈ l := hk b List.mem_cons_self
      have hk' : ∀ x ∈ k, x ∈ l := fun x hx => hk x (List.mem_cons_of_mem _ hx)
      rcases List.mem_cons.1 ha with rfl | ha
      · exact (Tray.each_keeps (fun w => Q w ∧ P a w) f k (fun w x hx hw => hstep w a x hb (hk' x hx) hw) (f u a)
          ⟨hQ u a hb hu, hP u a hb hu⟩).2
      · exact ih hk' (f u b) (hQ u b hb hu) a ha
  exact hrest l (fun _ hb => hb) t ht

namespace Tray.StaysBut
variable {t u v : Tray} {c e n : Nat} {R : Nat → Nat → Prop}

theorem stays (a : t.StaysBut u c e R) (b : u.Stays v R) : t.StaysBut v c e R := a.trans (b.butPort c e)

theorem setLane (a : t.StaysBut u c e R) (he : e < 64) (hn : n / 4 = e) (x : LaneSt) :
    t.StaysBut (u.setLane c n x) c e R :=
  a.trans ⟨fun _ _ _ _ => rfl, fun _ _ _ _ => rfl, fun d m hm hne => Assoc.get_set_ne _ _ _ _ (by omega), rfl, rfl, rfl, rfl,
    rfl, rfl⟩

theorem modLane (a : t.StaysBut u c e R) (he : e < 64) (hn : n / 4 = e) (f : LaneSt → LaneSt) :
    t.StaysBut (u.modLane c n f) c e R := a.setLane he hn _

end Tray.StaysBut

/-- What `still` holds of lanes, bays, log, outputs and the Halvoren, part by part. -/
structure Tray.SameStill (t u : Tray) : Prop where
  lanes : u.lanes = t.lanes
  bays : u.bays = t.bays
  logq : u.logq = t.logq
  out : u.out = t.out
  hal : u.hal = t.hal

theorem Tray.still_parts {t u : Tray} (h : u.still = t.still) : t.SameStill u := by
  simp only [Tray.still, Prod.mk.injEq] at h
  obtain ⟨hlanes, hbays, -, -, -, -, hlogq, hout, hhal, -, -, -, -⟩ := h
  exact ⟨hlanes, hbays, hlogq, hout, hhal⟩

/-! ### The registers of a port and of its lanes -/

theorem portArea_port (c e o : Nat) : portArea c e (portPg c e) o := .inl rfl

theorem portArea_lane {c e n : Nat} (hn : n / 4 = e) (o : Nat) : portArea c e (lanePg c n) o := by
  refine .inr (.inl ?_)
  unfold lanePg chipPg
  omega

theorem mem_lanesOf_iff {e n : Nat} : n ∈ lanesOf e ↔ n / 4 = e := by
  refine ⟨fun h => (mem_lanesOf h).1, fun h => List.mem_map.2 ⟨n % 4, List.mem_range.2 (by omega), by omega⟩⟩

theorem lanePg_inj {c n m : Nat} : lanePg c n = lanePg c m ↔ n = m := by
  unfold lanePg chipPg
  omega

/-- Updates of the registers of one lane each, for each lane of a port. -/
theorem Tray.each_lanes_stays {R : Nat → Nat → Prop} {c e : Nat} (f : Tray → Nat → Tray)
    (h : ∀ w n, n / 4 = e → Tray.StaysBut w (f w n) c e R) (t : Tray) : t.StaysBut (t.each (lanesOf e) f) c e R :=
  Tray.StaysBut.each _ _ (fun w n hn => h w n (mem_lanesOf hn).1) t

theorem Tray.setPst_staysBut (t : Tray) (c e st : Nat) : t.StaysBut (t.setPst c e st) c e (portArea c e) :=
  ((t.setPst_stays c e st).mono fun _ _ h => portArea_of_stateReg h).butPort c e

/-- A change of state writes no other register of a lane's page than LANE_STS. -/
theorem Tray.setPst_rd_lane (t : Tray) (c e st n : Nat) {o : Nat} (he : e < 64) (ho : o < 4096) (h : o ≠ A.LANE_STS) :
    (t.setPst c e st).rd (lanePg c n) o = t.rd (lanePg c n) o := by
  refine Tray.setPst_rd _ _ _ _ _ _ ho ?_
  rintro (⟨h1, -⟩ | ⟨h1, -⟩ | ⟨j, -, -, h1⟩)
  · exact portPg_ne_lanePg c e n he h1.symm
  · revert h1
    unfold lanePg chip0 chipPg
    omega
  · exact h h1

end Sys2Proof.Machine
end

section
/-! SUPPORT. Training goes on (R122): SIGNAL_DETECT, CDR_LOCK, IDENT_WAIT_RELEASE, PARTNER_LINK_OK, HOLDOFF_END. -/
namespace Sys2Proof.Machine

theorem exec_signalDetect (c : Fin 5) (e : Fin 64) (s : State) :
    exec (.signalDetect c e) s = .next (s.run (fun t => t.signalDetect c.val e.val)) := rfl
theorem exec_cdrLock (c : Fin 5) (e : Fin 64) (s : State) :
    exec (.cdrLock c e) s = .next (s.run (fun t => t.cdrLock c.val e.val)) := rfl
theorem exec_identWaitRelease (c : Fin 5) (e : Fin 64) (s : State) :
    exec (.identWaitRelease c e) s = .next (s.runC c.val (fun t => t.identRelease c.val e.val)) := rfl
theorem exec_partnerLinkOk (c : Fin 5) (e : Fin 64) (s : State) :
    exec (.partnerLinkOk c e) s = .next (s.runC c.val (fun t => t.partnerLinkOk c.val e.val)) := rfl
theorem exec_holdoffEnd (c : Fin 5) (e : Fin 64) (s : State) :
    exec (.holdoffEnd c e) s = .next (s.run (fun t => t.holdoffEnd c.val e.val)) := rfl

/-! ### SIGNAL -/

theorem presetTaps_lt (p : Nat) : presetTaps p < 2 ^ F.LANE_EQ_STS_TAPS.w := by
  unfold presetTaps
  split <;> decide

theorem Tray.loadPreset_staysBut (t : Tray) {c e n : Nat} (hn : n / 4 = e) :
    t.StaysBut (t.loadPreset c n) c e (portArea c e) :=
  (Tray.StaysBut.refl ..).stays ((Tray.Stays.refl ..).sf _ (portArea_lane hn _) (by decide))

theorem Tray.enterSignal_staysBut (t : Tray) (c : Nat) {e : Nat} (he : e < 64) :
    t.StaysBut (t.enterSignal c e) c e (portArea c e) :=
  ((t.setPst_staysBut c e S.SIGNAL).trans
    (Tray.each_lanes_stays _ (fun w _ hn => (w.loadPreset_staysBut hn).modLane he hn _) _)).modPort he _

/-- Lane `n` has in `w` the taps of the preset that it has in `t`. -/
def Tray.hasPreset (t : Tray) (c n : Nat) (w : Tray) : Prop :=
  w.gf (lanePg c n) F.LANE_EQ_STS_TAPS = presetTaps (t.gf (lanePg c n) F.LANE_CFG_TX_PRESET)

theorem Tray.loadPreset_hasPreset {t w : Tray} {c n : Nat} (h : w.rd (lanePg c n) A.LANE_CFG = t.rd (lanePg c n) A.LANE_CFG) :
    t.hasPreset c n (w.loadPreset c n) := by
  have hpreset : w.gf (lanePg c n) F.LANE_CFG_TX_PRESET = t.gf (lanePg c n) F.LANE_CFG_TX_PRESET :=
    congrArg F.LANE_CFG_TX_PRESET.get h
  unfold Tray.hasPreset Tray.loadPreset
  rw [Tray.gf_sf_self _ _ _ _ (by decide), hpreset, Nat.mod_eq_of_lt (presetTaps_lt _)]

theorem Tray.hasPreset_loadPreset {t w : Tray} {c n m : Nat} (hne : n ≠ m) (h : t.hasPreset c n w) :
    t.hasPreset c n (w.loadPreset c m) := by
  unfold Tray.hasPreset Tray.loadPreset
  rw [Tray.gf_sf_pg _ _ _ _ _ _ (fun h => hne (lanePg_inj.1 h)) (by decide) (by decide)]
  exact h

/-- Each lane takes the taps of its preset. -/
theorem Tray.presetLanes_presets (t u : Tray) (c e : Nat)
    (hu : ∀ n, n / 4 = e → u.rd (lanePg c n) A.LANE_CFG = t.rd (lanePg c n) A.LANE_CFG) :
    ∀ n ∈ lanesOf e, t.hasPreset c n (u.each (lanesOf e) fun t n => (t.loadPreset c n).modLane c n LaneSt.restart) := by
  have hcfg : ∀ (w : Tray) (m n : Nat),
      ((w.loadPreset c m).modLane c m LaneSt.restart).rd (lanePg c n) A.LANE_CFG = w.rd (lanePg c n) A.LANE_CFG :=
    fun w m n => (Tray.rd_modLane ..).trans (Tray.rd_sf_off _ _ _ _ _ _ (by decide))
  have hreg : ∀ (w : Tray) (m n : Nat), t.hasPreset c n w → t.hasPreset c n (w.modLane c m LaneSt.restart) :=
    fun w m n h => (Tray.gf_modLane ..).trans h
  refine Tray.each_all (fun w => ∀ n, n / 4 = e → w.rd (lanePg c n) A.LANE_CFG = t.rd (lanePg c n) A.LANE_CFG) (t.hasPreset c)
    _ (lanesOf e) (fun w m _ hw n hn => (hcfg w m n).trans (hw n hn)) (fun w n hn hw => ?_) (fun w n m _ _ hne _ hw => ?_) u hu
  · exact hreg _ _ _ (Tray.loadPreset_hasPreset (hw n (mem_lanesOf hn).1))
  · exact hreg _ _ _ (Tray.hasPreset_loadPreset hne hw)

theorem Tray.enterSignal_presets (t : Tray) (c : Nat) {e : Nat} (he : e < 64) :
    ∀ n ∈ lanesOf e, t.hasPreset c n (t.enterSignal c e) := fun n hn => by
  have heach := t.presetLanes_presets (t.setPst c e S.SIGNAL) c e
    (fun n _ => t.setPst_rd_lane c e _ n he (by decide) (by decide)) n hn
  unfold Tray.enterSignal
  exact (Tray.gf_modPort ..).trans heach

/-- SIGNAL_DETECT, R122. -/
theorem signalDetect_enters {s : State} {c : Fin 5} {e : Fin 64} (hp : s.tray.pst c.val e.val = S.DOWN)
    (hup : (s.tray.chip c.val).coreUp = true)
    (hpll : bitOf (s.tray.gf (chip0 c.val) F.CHIP_TXPLL_LOCK_LOCK) e.val = true)
    (hty : 1 ≤ s.tray.cartType c.val e.val) (hty' : s.tray.cartType c.val e.val ≤ 3)
    (hst : s.tray.cartState c.val e.val = 3) (hfl : (s.tray.port c.val e.val).floodBlock = false)
    (hpl : s.tray.lanesPlain c.val e.val = true) :
    Completes (.signalDetect c e) s (fun t =>
      t.tray.pst c.val e.val = S.SIGNAL ∧
      (∀ n ∈ lanesOf e.val, t.tray.gf (lanePg c.val n) F.LANE_EQ_STS_TAPS =
        presetTaps (s.tray.gf (lanePg c.val n) F.LANE_CFG_TX_PRESET)) ∧
      s.tray.keepsRegs t.tray (portArea c.val e.val) ∧ s.tray.keepsOtherPorts t.tray c.val e.val) := by
  have he := e.isLt
  have henter : s.tray.signalDetect c.val e.val = s.tray.enterSignal c.val e.val := by
    unfold Tray.signalDetect
    exact (if_pos ⟨hp, hup, hpll, hty, hty', hst, by simp [hfl]⟩).trans (if_pos hpl)
  exact completes_run (exec_signalDetect ..) henter fun t ht =>
    ⟨(ht.gf ..).trans (Tray.enterSignal_pst _ _ _ he), fun n hn => (ht.gf ..).trans (s.tray.enterSignal_presets c.val he n hn),
      ht.staysBut (s.tray.enterSignal_staysBut c.val he)⟩

/-! ### TUNE -/

/-- The port goes to TUNE, its lanes in CDR lock. -/
def Tray.cdrLocked (t : Tray) (c e : Nat) : Tray :=
  (t.setPst c e S.TUNE).each (lanesOf e) (fun t n => t.sb (lanePg c n) F.LANE_STS_CDR_LOCK true)

theorem Tray.cdrLocked_each (t : Tray) (c e : Nat) {R : Nat → Nat → Prop}
    (hR : ∀ n, n / 4 = e → R (lanePg c n) A.LANE_STS) : (t.setPst c e S.TUNE).StaysBut (t.cdrLocked c e) c e R :=
  Tray.each_lanes_stays _ (fun _ n hn => (Tray.StaysBut.refl ..).stays ((Tray.Stays.refl ..).sb true (hR n hn) (by decide))) _

theorem Tray.cdrLocked_pst (t : Tray) (c : Nat) {e : Nat} (he : e < 64) : (t.cdrLocked c e).pst c e = S.TUNE :=
  (Tray.keepsRegs_pst (t.cdrLocked_each c e (R := fun q _ => laneArea c e q)
    (fun n hn => laneArea_lane c e n he (mem_lanesOf_iff.2 hn))).regs (not_laneArea_port c e e he)).trans
    (t.setPst_pst c e _ he (by decide))

theorem Tray.cdrLocked_locks (t : Tray) (c e : Nat) :
    ∀ n ∈ lanesOf e, (t.cdrLocked c e).is (lanePg c n) F.LANE_STS_CDR_LOCK = true := by
  refine Tray.each_all (fun _ => True) (fun n w => w.is (lanePg c n) F.LANE_STS_CDR_LOCK = true) _ _ (fun _ _ _ _ => trivial)
    (fun w n _ _ => ?_) (fun w n m _ _ hne _ hw => ?_) _ trivial
  · rw [Tray.is_iff, Tray.gf_sb_self _ _ _ _ (by decide)]
    rfl
  · rw [Tray.is_iff] at hw ⊢
    unfold Tray.sb
    rw [Tray.gf_sf_pg _ _ _ _ _ _ (fun h => hne (lanePg_inj.1 h)) (by decide) (by decide)]
    exact hw

/-- CDR_LOCK, R122. -/
theorem cdrLock_tunes {s : State} {c : Fin 5} {e : Fin 64} (hp : s.tray.pst c.val e.val = S.SIGNAL) :
    Completes (.cdrLock c e) s (fun t =>
      t.tray.pst c.val e.val = S.TUNE ∧
      (∀ n ∈ lanesOf e.val, t.tray.is (lanePg c.val n) F.LANE_STS_CDR_LOCK = true) ∧
      s.tray.keepsRegs t.tray (portArea c.val e.val) ∧ s.tray.keepsOtherPorts t.tray c.val e.val) := by
  have he := e.isLt
  have hlock : s.tray.cdrLock c.val e.val = s.tray.cdrLocked c.val e.val := by
    unfold Tray.cdrLock Tray.cdrLocked
    rw [if_pos (Tray.phase_of_pst hp (by decide)), Tray.setPhase_of_pst _ (by rw [hp]; decide)]
  have hstay := (s.tray.setPst_staysBut c.val e.val S.TUNE).trans
    (s.tray.cdrLocked_each c.val e.val fun n hn => portArea_lane hn _)
  exact completes_run (exec_cdrLock ..) hlock fun t ht =>
    ⟨(ht.gf ..).trans (Tray.cdrLocked_pst _ _ he), fun n hn => (ht.is ..).trans (Tray.cdrLocked_locks _ _ _ n hn),
      ht.staysBut hstay⟩

/-! ### MEASURE -/

/-- An identity that passes its checks outside RETRAIN. -/
theorem Tray.identCheck_passes {t : Tray} {c e : Nat} {x : IdentInfo} (hp : t.pst c e ≠ S.RETRAIN)
    (hw : t.identWired c e x = true) (hreact : x.react ≤ 200) (hrx : x.rxLat ≤ 500) (htx : x.txLat ≤ 500) :
    t.identCheck c e x = (t.setPst c e S.MEASURE).beginEchoes c e := by
  unfold Tray.identCheck
  dsimp only
  rw [if_neg (by simp [hw, hp]), if_neg (by omega), if_neg (by simp [hp]), Tray.setPhase_of_pst _ hp]

/-- IDENT_WAIT_RELEASE, R122. -/
theorem identWaitRelease_measures {s : State} {c : Fin 5} {e : Fin 64} (hs : s.tray.settled c.val) {x : IdentInfo}
    (hx : (s.tray.port c.val e.val).ident = some x) (hp : s.tray.pst c.val e.val = S.IDENT_WAIT)
    (ht : s.tray.topoOk c.val = true) (hw : s.tray.identWired c.val e.val x = true) (hreact : x.react ≤ 200)
    (hrx : x.rxLat ≤ 500) (htx : x.txLat ≤ 500) :
    Completes (.identWaitRelease c e) s (fun t =>
      t.tray.pst c.val e.val = S.MEASURE ∧ (t.tray.port c.val e.val).tokens.length = 16 ∧
      s.tray.keepsRegs t.tray (portArea c.val e.val) ∧ s.tray.keepsOtherPorts t.tray c.val e.val) := by
  have he := e.isLt
  have hgo : s.tray.identRelease c.val e.val = (s.tray.setPst c.val e.val S.MEASURE).beginEchoes c.val e.val := by
    unfold Tray.identRelease
    rw [hx]
    exact (if_pos ⟨Tray.phase_of_pst hp (by decide), ht⟩).trans
      (Tray.identCheck_passes (by rw [hp]; decide) hw hreact hrx htx)
  have hechoes := (s.tray.setPst c.val e.val S.MEASURE).beginEchoes_stays c.val he
  have hstay := (s.tray.setPst_staysBut c.val e.val S.MEASURE).trans (hechoes _)
  refine completes_runC (exec_identWaitRelease ..) hgo (hstay.settled hs) fun t ht => ⟨?_, ?_, ht.staysBut hstay⟩
  · exact (ht.gf ..).trans ((Tray.keepsRegs_pst (hechoes (fun _ _ => False)).regs not_false).trans
      (Tray.setPst_pst _ _ _ _ he (by decide)))
  · rw [ht.port, Tray.beginEchoes_tokens]

/-! ### UP -/

/-- Beside PORT_TRAIN_STS and what goes with it, entering UP writes these registers of the port and CHIP_WIRE_FAULT. -/
def upReg (c e q o : Nat) : Prop :=
  (q = portPg c e ∧ (o = A.PORT_ALARM ∨ o = A.PORT_SPARE ∨ o = A.PORT_FC_STS ∨ o = 0x20)) ∨ (q = chip0 c ∧ o = A.CHIP_WIRE_FAULT)

theorem portArea_of_upReg {c e q o : Nat} (h : upReg c e q o) : portArea c e q o := by
  rcases h with ⟨rfl, -⟩ | ⟨rfl, rfl⟩
  · exact portArea_port ..
  · exact .inr (.inr ⟨rfl, .inr rfl⟩)

theorem not_upReg_trainSts {c e : Nat} : ¬ upReg c e (portPg c e) A.PORT_TRAIN_STS := by
  rintro (⟨-, h⟩ | ⟨h, -⟩)
  · revert h
    decide
  · exact portPg_ne_chip0 c e h

theorem Tray.setAlarm_stays (t : Tray) (c e i : Nat) (b : Bool) :
    t.Stays (t.setAlarm c e i b) (fun q o => q = portPg c e ∧ (o = A.PORT_ALARM ∨ o = 0x20)) := by
  refine ⟨t.setAlarm_keeps c e i b, ?_⟩
  unfold Tray.setAlarm
  dsimp only
  split
  · exact t.keepsBlocks_refl
  · split
    · exact (t.keepsBlocks_sf ..).trans (Tray.keepsBlocks_raise ..)
    · exact t.keepsBlocks_sf ..

theorem Tray.setAlarm_hal (t : Tray) (c e i : Nat) (b : Bool) : (t.setAlarm c e i b).hal = t.hal := by
  unfold Tray.setAlarm
  dsimp only
  split
  · rfl
  · split
    · exact Tray.raise_hal ..
    · rfl

theorem Tray.markDirty_stays (t : Tray) (pg : Nat) (R : Nat → Nat → Prop) : t.Stays (t.markDirty pg) R :=
  Tray.Stays.of_eq (by simp) (by refine ⟨?_, ?_, ?_, ?_, ?_, ?_, ?_, ?_⟩ <;> simp)

theorem Tray.updResv_staysBut (t : Tray) (c : Nat) {e : Nat} (he : e < 64) {R : Nat → Nat → Prop}
    (hR : R (portPg c e) A.PORT_FC_STS) : t.StaysBut (t.updResv c e) c e R := by
  unfold Tray.updResv
  extract_lets nxt grow pg
  split
  · exact (Tray.StaysBut.refl ..).stays ((Tray.Stays.refl ..).sb (f := F.PORT_FC_STS_HDRM_WAIT) _ hR (by decide))
  · exact ((Tray.StaysBut.refl ..).modPort he _).stays
      ((Tray.Stays.refl ..).sb (f := F.PORT_FC_STS_HDRM_WAIT) _ hR (by decide))

theorem Tray.updResv_hal (t : Tray) (c e : Nat) : (t.updResv c e).hal = t.hal :=
  (Tray.still_parts (TrafficSide.updResv c t e).still).hal

/-- The port's state and counts as it enters UP. -/
def Tray.countsUp (t : Tray) (c e : Nat) : Tray :=
  ((t.setPst c e S.UP).sf (portPg c e) F.PORT_TRAIN_STS_ATTEMPTS 0).cnt (portPg c e) F.PORT_TRAIN_STS_UP_COUNT 1

theorem Tray.countsUp_reads (t : Tray) (c : Nat) {e : Nat} (he : e < 64) :
    (t.countsUp c e).pst c e = S.UP ∧ (t.countsUp c e).gf (portPg c e) F.PORT_TRAIN_STS_ATTEMPTS = 0 := by
  have hup := t.setPst_pst c e S.UP he (by decide)
  unfold Tray.pst at hup ⊢
  unfold Tray.countsUp
  constructor
  · simp (disch := decide) only [Tray.gf_cnt_ne, Tray.gf_sf_ne, hup]
  · simp (disch := decide) only [Tray.gf_cnt_ne, Tray.gf_sf_self]
    rfl

theorem Tray.countsUp_staysBut (t : Tray) (c e : Nat) : t.StaysBut (t.countsUp c e) c e (portArea c e) :=
  (t.setPst_staysBut c e S.UP).stays
    (((Tray.Stays.refl ..).sf _ (portArea_port ..) (by decide)).cnt _ (portArea_port ..) (by decide))

/-- What else entering UP does, where no port of the tray is waited for. -/
theorem Tray.enterUp_after (t : Tray) (c : Nat) {e : Nat} (he : e < 64) (hw : t.hal.waitPorts = false) :
    (t.countsUp c e).StaysBut (t.enterUp c e) c e (upReg c e) := by
  unfold Tray.enterUp
  extract_lets pg c0 t1 t2 t3 sp t4 t5
  have h2 : t1.StaysBut t2 c e (upReg c e) :=
    (Tray.StaysBut.refl ..).stays ((Tray.Stays.refl ..).sf _ (.inr ⟨rfl, rfl⟩) (by decide))
  have h3 : t1.StaysBut t3 c e (upReg c e) := h2.stays (Tray.Stays.each _ _ (fun w i _ =>
    (w.setAlarm_stays c e i false).mono fun _ _ h => .inl ⟨h.1, h.2.imp_right fun h => .inr (.inr h)⟩) (Tray.Stays.refl ..))
  have h4 : t1.StaysBut t4 c e (upReg c e) := h3.modPort he _
  have h5 : t1.StaysBut t5 c e (upReg c e) := by
    show t1.StaysBut (if sp then _ else _) c e _
    split
    · exact h4.stays ((((Tray.Stays.refl ..).sb _ (.inl ⟨rfl, .inr (.inl rfl)⟩) (by decide)).sf _ (.inl ⟨rfl, .inr (.inl rfl)⟩)
        (by decide)).raise _ (.inl ⟨rfl, .inr (.inr (.inr rfl))⟩))
    · exact h4
  have hhal3 : t3.hal = t.hal := by
    refine (Tray.each_same (fun u => u.hal) _ _ (fun u i _ => u.setAlarm_hal c e i false) t2).trans ?_
    show (t.setPst c e S.UP).hal = t.hal
    exact (Tray.still_parts (t.setPst_still c e S.UP)).hal
  have hhal : ((t5.updResv c e).markDirty pg).hal = t.hal := by
    rw [Tray.markDirty_hal, Tray.updResv_hal]
    refine Eq.trans ?_ hhal3
    show (if sp then _ else _ : Tray).hal = _
    split
    · exact Tray.raise_hal ..
    · rfl
  rw [Tray.roleGo_regs _ (by rw [hhal]; exact hw)]
  exact (h5.trans (Tray.updResv_staysBut _ c he (.inl ⟨rfl, .inr (.inr (.inl rfl))⟩))).stays (Tray.markDirty_stays ..)

/-- PARTNER_LINK_OK, R122. -/
theorem partnerLinkOk_up {s : State} {c : Fin 5} {e : Fin 64} (hs : s.tray.settled c.val)
    (hp : s.tray.pst c.val e.val = S.MEASURE) (hl : (s.tray.port c.val e.val).linkOk = true)
    (hw : s.tray.hal.waitPorts = false) :
    Completes (.partnerLinkOk c e) s (fun t =>
      t.tray.pst c.val e.val = S.UP ∧ t.tray.gf (portPg c.val e.val) F.PORT_TRAIN_STS_ATTEMPTS = 0 ∧
      s.tray.keepsRegs t.tray (portArea c.val e.val) ∧ s.tray.keepsOtherPorts t.tray c.val e.val) := by
  have he := e.isLt
  have hlink := (Tray.StaysBut.refl s.tray c.val e.val (portArea c.val e.val)).modPort he
    (fun p => { p with peerLinkOk := true })
  have hwu : (s.tray.modPort c.val e.val (fun p => { p with peerLinkOk := true })).hal.waitPorts = false := hw
  have hgo : s.tray.partnerLinkOk c.val e.val =
      (s.tray.modPort c.val e.val (fun p => { p with peerLinkOk := true })).enterUp c.val e.val := by
    have hph := Tray.phase_of_pst hp (by decide)
    unfold Tray.partnerLinkOk Tray.tryUp
    refine (if_pos (.inr (.inr (.inl hph)))).trans (if_pos ⟨?_, ?_⟩)
    · exact Tray.phase_of_pst (t := s.tray.modPort ..) hp (by decide)
    · rw [Tray.port_modPort]
      exact ⟨hl, rfl⟩
  generalize s.tray.modPort c.val e.val (fun p => { p with peerLinkOk := true }) = u at hlink hwu hgo
  have hafter := u.enterUp_after c.val he hwu
  obtain ⟨hup, hatt⟩ := u.countsUp_reads c.val he
  have hsts : (u.enterUp c.val e.val).rd (portPg c.val e.val) A.PORT_TRAIN_STS = (u.countsUp c.val e.val).rd _ _ :=
    hafter.regs _ _ (by decide) not_upReg_trainSts
  have hstay := (hlink.trans (u.countsUp_staysBut c.val e.val)).trans (hafter.mono fun _ _ => portArea_of_upReg)
  exact completes_runC (exec_partnerLinkOk ..) hgo (hstay.settled hs) fun t ht =>
    ⟨(ht.gf ..).trans ((congrArg F.PORT_TRAIN_STS_STATE.get hsts).trans hup),
      (ht.gf ..).trans ((congrArg F.PORT_TRAIN_STS_ATTEMPTS.get hsts).trans hatt), ht.staysBut hstay⟩

/-! ### HOLDOFF -/

/-- HOLDOFF_END, R122. -/
theorem holdoffEnd_leaves {s : State} {c : Fin 5} {e : Fin 64} (hp : s.tray.pst c.val e.val = S.HOLDOFF) :
    Completes (.holdoffEnd c e) s (fun t =>
      t.tray.pst c.val e.val =
        (if s.tray.is (portPg c.val e.val) F.PORT_TRAIN_CTL_AUTO_RETRY then S.DOWN else S.HELD) ∧
      s.tray.keepsRegs t.tray (portArea c.val e.val) ∧ s.tray.keepsOtherPorts t.tray c.val e.val) :=
  completes_run (exec_holdoffEnd ..) (if_pos hp) fun _ ht =>
    ⟨(ht.gf ..).trans (Tray.setPst_pst _ _ _ _ e.isLt (by split <;> decide)), ht.staysBut (s.tray.setPst_staysBut ..)⟩

/-- Settles O17, command by command along the states of training. -/
theorem trainingAdvances : Obligations.TrainingAdvances := by
  intro s c e hs
  exact ⟨signalDetect_enters, cdrLock_tunes, fun x => identWaitRelease_measures hs, partnerLinkOk_up hs, holdoffEnd_leaves⟩

end Sys2Proof.Machine
end

section
/-! SUPPORT. What a port that goes to another state shows, counts and keeps (R122). -/
namespace Sys2Proof.Machine

theorem Tray.portTo_keeps (t : Tray) (c e st cause : Nat) (he : e < 64) :
    t.keepsRegs (t.portTo c e st cause) (portDown c e) := by
  intro q o ho hn
  obtain ⟨harea, hfree⟩ := not_or.1 hn
  exact Tray.portTo_rd _ _ _ _ _ _ _ he ho (not_not.1 hfree) (fun h => harea (portArea_of_stateReg h))
    (fun h => harea (.inl h.1))

/-- Changing a port's state leaves the other fields of PORT_TRAIN_STS. -/
theorem Tray.setPst_gf_trainSts (t : Tray) (c : Nat) {e : Nat} (st : Nat) (he : e < 64) {f : Fld} (hoff : f.off = A.PORT_TRAIN_STS)
    (hlo : 4 ≤ f.lo) (hhi : f.lo + f.w ≤ 64) : (t.setPst c e st).gf (portPg c e) f = t.gf (portPg c e) f := by
  unfold Tray.setPst
  dsimp only
  split
  · rfl
  · have hlane : ∀ j, j < 4 → ¬ (portPg c e = lanePg c (4 * e + j) ∧ f.off = A.LANE_STS) :=
      fun j _ h => portPg_ne_lanePg c e _ he h.1
    have hraise : f.off % 4096 ≠ 0x20 := by rw [hoff]; decide
    rw [Tray.gf_sf_pg _ _ _ _ _ _ (portPg_ne_chip0 c e) (by rw [hoff]; decide) (by decide), Tray.gf_def,
      Tray.showLanes_rd _ _ _ _ _ _ (by rw [hoff]; decide) hlane, ← Tray.gf_def, Tray.gf_raise_off _ _ _ _ _ hraise,
      Tray.gf_sf_ne _ _ F.PORT_TRAIN_STS_STATE _ _ (by decide) hhi (.inr ⟨hoff, .inr hlo⟩)]

/-- An abort's start leaves the registers beside PG_ABORT_STS. -/
theorem Tray.startAbort_rd (t : Tray) (pg q : Nat) {o : Nat} (h : o % 4096 ≠ 0x48) : (t.startAbort pg).rd q o = t.rd q o := by
  unfold Tray.startAbort
  simp only [Tray.sb, Tray.cnt]
  have one : ∀ (w : Tray) (f : Fld) (x : Nat), f.off = 0x48 → (w.sf pg f x).rd q o = w.rd q o :=
    fun w f x hf => Tray.rd_sf_off _ _ _ _ _ _ (by rw [hf]; exact h)
  rw [one _ _ _ rfl, one _ _ _ rfl, one _ _ _ rfl, one _ _ _ rfl]

/-- Going to a state leaves the fields of PORT_TRAIN_STS above the cause. -/
theorem Tray.portTo_gf_trainSts (t : Tray) (c : Nat) {e : Nat} (st cause : Nat) (he : e < 64) {f : Fld}
    (hoff : f.off = A.PORT_TRAIN_STS) (hlo : 16 ≤ f.lo) (hhi : f.lo + f.w ≤ 64) :
    (t.portTo c e st cause).gf (portPg c e) f = t.gf (portPg c e) f := by
  obtain ⟨v, hv, hregs, -⟩ := t.portTo_shape c e st cause he
  have hoff' : f.off < 4096 := by rw [hoff]; decide
  have hside := hv.rd (portPg c e) f.off hoff' (abortFree_port c e he _ (by rw [hoff]; decide))
  have hset : ((t.setPst c e st).sf (portPg c e) F.PORT_TRAIN_STS_CAUSE cause).gf (portPg c e) f = t.gf (portPg c e) f := by
    rw [Tray.gf_sf_ne _ _ F.PORT_TRAIN_STS_CAUSE _ _ (by decide) hhi (.inr ⟨hoff, .inr hlo⟩)]
    exact t.setPst_gf_trainSts c st he hoff (by omega) hhi
  have hab : f.off % 4096 ≠ 0x48 := by rw [hoff]; decide
  refine (congrArg f.get ((Tray.rd_congr hregs _ _).trans hside)).trans (Eq.trans ?_ hset)
  split_ifs
  · rfl
  · exact congrArg f.get (Tray.startAbort_rd _ _ _ hab)
  · rfl

/-- What `still` holds, but for the lanes, stays as a port goes to a state. -/
theorem Tray.portTo_parts (t : Tray) (c e st cause : Nat) (he : e < 64) :
    (t.portTo c e st cause).bays = t.bays ∧ (t.portTo c e st cause).out = t.out := by
  have hl : ∀ (w : Tray) (g : Nat → LaneSt → LaneSt),
      (w.each (List.range 4) (fun t j => t.modLane c (4 * e + j) (g j))).bays = w.bays ∧
      (w.each (List.range 4) (fun t j => t.modLane c (4 * e + j) (g j))).out = w.out := fun w g =>
    ⟨Tray.each_same (fun u => u.bays) (fun t j => t.modLane c (4 * e + j) (g j)) (List.range 4) (fun _ _ _ => rfl) w,
     Tray.each_same (fun u => u.out) (fun t j => t.modLane c (4 * e + j) (g j)) (List.range 4) (fun _ _ _ => rfl) w⟩
  unfold Tray.portTo
  extract_lets pg was t1 t2 t3
  have h1 : t1.still = t.still := t.setPst_still c e st
  have h2 : t2.still = t.still := by
    show (if was then _ else _ : Tray).still = _
    split
    · refine (TrafficSide.portDrop c _ e he).still.trans ?_
      split
      · exact h1
      · exact h1
    · exact h1
  have h3 : t3.still = t.still :=
    (TrafficSide.updResv c _ e).still.trans ((TrafficSide.stormEnd c _ e).still.trans h2)
  obtain ⟨hbays, hout⟩ := hl t3 _
  have h := Tray.still_parts h3
  exact ⟨hbays.trans h.bays, hout.trans h.out⟩

end Sys2Proof.Machine
end

section
/-! SUPPORT. Ports fail: an attempt's phase lasts too long (R122), a live port leaves (R133–R135, R482). -/
namespace Sys2Proof.Machine

theorem exec_trainingPhaseTimeout (c : Fin 5) (e : Fin 64) (s : State) :
    exec (.trainingPhaseTimeout c e) s = .next (s.runC c.val (fun t => t.phaseTimeout c.val e.val)) := rfl
theorem exec_retrainTimeout (c : Fin 5) (e : Fin 64) (s : State) :
    exec (.retrainTimeout c e) s = .next (s.runC c.val (fun t => t.retrainTimeout c.val e.val)) := rfl
theorem exec_floodHoldTimeout (c : Fin 5) (e : Fin 64) (s : State) :
    exec (.floodHoldTimeout c e) s = .next (s.runC c.val (fun t => t.holdTimeout c.val e.val)) := rfl
theorem exec_partnerLinkLoss (c : Fin 5) (e : Fin 64) (s : State) :
    exec (.partnerLinkLoss c e) s = .next (s.runC c.val (fun t => t.linkLoss c.val e.val)) := rfl
theorem exec_losTimeout (c : Fin 5) (n : Fin 256) (s : State) :
    exec (.losTimeout c n) s = .next (s.runC c.val (fun t => t.losTimeout c.val n.val)) := rfl

/-! ### A training attempt fails -/

/-- The bounds of the phases outside RETRAIN and the cause of each. -/
def Tray.attemptBounds (t : Tray) (c e : Nat) : List (Nat × Nat) :=
  [(S.SIGNAL, Cz.SIGNAL_TIMEOUT), (S.TUNE, Cz.TUNE_TIMEOUT), (S.ALIGN, Cz.ALIGN_TIMEOUT), (S.IDENT, Cz.IDENT_TIMEOUT),
    (S.MEASURE, if (t.port c e).linkOk then Cz.PARTNER else Cz.MEASURE_TIMEOUT)]

theorem Tray.attemptBounds_mem {t : Tray} {c e st cause : Nat} (h : (st, cause) ∈ t.attemptBounds c e) :
    st ≠ S.RETRAIN ∧ cause < 2 ^ F.PORT_TRAIN_STS_CAUSE.w ∧ heldCause cause = false := by
  simp only [Tray.attemptBounds, List.mem_cons, Prod.mk.injEq, List.not_mem_nil, or_false] at h
  rcases h with ⟨rfl, rfl⟩ | ⟨rfl, rfl⟩ | ⟨rfl, rfl⟩ | ⟨rfl, rfl⟩ | ⟨rfl, rfl⟩
  iterate 4 decide
  split <;> decide

theorem Tray.phaseTimeout_fails {t : Tray} {c e cause : Nat} (h : (t.pst c e, cause) ∈ t.attemptBounds c e) :
    t.phaseTimeout c e = t.trainFail c e cause := by
  have hr := (Tray.attemptBounds_mem h).1
  have hcause : t.phaseCause c e = some cause := by
    unfold Tray.phaseCause
    rw [Tray.phase_of_pst rfl hr]
    simp only [Tray.attemptBounds, List.mem_cons, Prod.mk.injEq, List.not_mem_nil, or_false] at h
    rcases h with ⟨hp, rfl⟩ | ⟨hp, rfl⟩ | ⟨hp, rfl⟩ | ⟨hp, rfl⟩ | ⟨hp, rfl⟩ <;> rw [hp] <;> rfl
  unfold Tray.phaseTimeout
  rw [if_neg (fun h => hr h.1), hcause]

theorem Tray.trainFail_attempts {t : Tray} {c e : Nat} (cause : Nat) (he : e < 64) (hr : t.pst c e ≠ S.RETRAIN)
    (hw : t.hal.waitPorts = false) :
    (t.trainFail c e cause).gf (portPg c e) F.PORT_TRAIN_STS_ATTEMPTS =
      min (2 ^ F.PORT_TRAIN_STS_ATTEMPTS.w - 1) (t.gf (portPg c e) F.PORT_TRAIN_STS_ATTEMPTS + 1) := by
  rw [Tray.trainFail_eq cause he hr hw, Tray.portTo_gf_trainSts _ _ _ _ he rfl (by decide) (by decide),
    Tray.gf_sat_self _ _ _ _ (by decide)]
  unfold satTo
  split <;> omega

/-- TRAINING_PHASE_TIMEOUT, R122. -/
theorem trainingPhaseTimeout_fails {s : State} {c : Fin 5} {e : Fin 64} {cause : Nat}
    (h : (s.tray.pst c.val e.val, cause) ∈ s.tray.attemptBounds c.val e.val) (hw : s.tray.hal.waitPorts = false) :
    Completes (.trainingPhaseTimeout c e) s (fun t =>
      t.tray.portShows c.val e.val S.HOLDOFF cause ∧
      t.tray.gf (portPg c.val e.val) F.PORT_TRAIN_STS_ATTEMPTS =
        min (2 ^ F.PORT_TRAIN_STS_ATTEMPTS.w - 1) (s.tray.gf (portPg c.val e.val) F.PORT_TRAIN_STS_ATTEMPTS + 1) ∧
      s.tray.keepsRegs t.tray (portDown c.val e.val)) := by
  have he := e.isLt
  obtain ⟨hr, hlt, hheld⟩ := Tray.attemptBounds_mem h
  obtain ⟨hst, hcause⟩ := Tray.trainFail_goes _ _ _ cause he hr hlt hw
  rw [hheld] at hst
  refine completes_runC_side (exec_trainingPhaseTimeout ..) (Tray.phaseTimeout_fails h) fun w t hside ht =>
    ⟨⟨?_, ?_⟩, ?_, ht.keepsRegs (hside.keepsDown (Tray.trainFail_keeps cause he hr hw))⟩
  · exact (ht.gf ..).trans ((hside.gf_portPg he _ (by decide)).trans hst)
  · exact (ht.gf ..).trans ((hside.gf_portPg he _ (by decide)).trans hcause)
  · exact (ht.gf ..).trans ((hside.gf_portPg he _ (by decide)).trans (Tray.trainFail_attempts cause he hr hw))

/-! ### A live port leaves -/

/-- In `u` port `e`, live in `t`, has left with a cause: R122's state, one more abort, the other registers as before. -/
structure Tray.HasLeft (t : Tray) (c e cause : Nat) (u : Tray) : Prop where
  shows : u.portShows c e (t.leaveTo c e cause) cause
  epoch : t.aborting (portPg c e) = false →
    u.gf (portPg c e) F.PG_ABORT_STS_EPOCH = (t.gf (portPg c e) F.PG_ABORT_STS_EPOCH + 1) % 2 ^ 16
  keeps : t.keepsRegs u (portDown c e)

theorem Tray.live_of_pst {t : Tray} {c e st : Nat} (h : t.pst c e = st) (hs : st ∈ [S.UP, S.FLOOD_HOLD, S.RETRAIN]) :
    t.live c e = true := by
  simpa [Tray.live, or_assoc, h] using hs

theorem Tray.portLeave_hasLeft {t : Tray} {c e cause : Nat} (he : e < 64) (hl : t.live c e = true)
    (hc : cause < 2 ^ F.PORT_TRAIN_STS_CAUSE.w) : t.HasLeft c e cause (t.portLeave c e cause) := by
  obtain ⟨hst, hcause, hepoch⟩ := t.portTo_goes c e _ cause he (t.leaveTo_lt c e cause)
  exact ⟨⟨hst, hcause.trans (Nat.mod_eq_of_lt hc)⟩, fun ha => hepoch.trans (if_pos ⟨hl, ha⟩), t.portTo_keeps c e _ cause he⟩

theorem Tray.HasLeft.of_regs {t u v : Tray} {c e cause : Nat} (h : t.HasLeft c e cause u) (hr : v.regs = u.regs) :
    t.HasLeft c e cause v := by
  have hgf : ∀ q f, v.gf q f = u.gf q f := fun q f => congrArg f.get (Tray.rd_congr hr q f.off)
  obtain ⟨⟨hst, hcause⟩, hepoch, hkeeps⟩ := h
  exact ⟨⟨(hgf ..).trans hst, (hgf ..).trans hcause⟩, fun ha => (hgf ..).trans (hepoch ha),
    Tray.keepsRegs_trans hkeeps (Tray.keepsRegs_of hr)⟩

/-- Ends of jobs and the answer of the command leave what the port shows. -/
theorem Tray.HasLeft.after {t u w : Tray} {s : State} {c e cause : Nat} (he : e < 64) (h : t.HasLeft c e cause u)
    (hw : JobSide c u w) (hs : s.Like w) : t.HasLeft c e cause s.tray := by
  have hgf : ∀ f : Fld, f.off < 4096 → s.tray.gf (portPg c e) f = u.gf (portPg c e) f :=
    fun f hf => (hs.gf ..).trans (hw.gf_portPg he f hf)
  obtain ⟨⟨hst, hcause⟩, hepoch, hkeeps⟩ := h
  exact ⟨⟨(hgf _ (by decide)).trans hst, (hgf _ (by decide)).trans hcause⟩, fun ha => (hgf _ (by decide)).trans (hepoch ha),
    hs.keepsRegs (hw.keepsDown hkeeps)⟩

theorem Tray.portLeave_logs {t : Tray} {c e cause : Nat} (he : e < 64) {u : Tray} (hu : u.logq = (t.portLeave c e cause).logq)
    (ev : Ev) (data : List Nat) : t.logs (u.logChip ev c data) ev c data :=
  Tray.logs_logChip _ _ _ _ _ (hu.trans (t.portTo_mgmt c e _ cause he).2)

/-- A command that makes a live port leave, and that logs it. -/
theorem completes_leave {i : Instr} {s : State} {c : Fin 5} {e : Fin 64} {f : Tray → Tray} {u : Tray} {cause : Nat} {ev : Ev}
    {data : List Nat} (he : exec i s = .next (s.runC c.val f)) (hu : f s.tray = u.logChip ev c.val data)
    (hl : s.tray.HasLeft c.val e.val cause u) (hlog : s.tray.logs (u.logChip ev c.val data) ev c.val data) :
    Completes i s (fun t => s.tray.HasLeft c.val e.val cause t.tray ∧ s.tray.logs t.tray ev c.val data) :=
  completes_runC_side he hu fun _ _ hside ht =>
    ⟨(hl.of_regs (Tray.logChip_regs ..)).after e.isLt hside ht, Tray.logs_after hlog hside ht⟩

/-- RETRAIN_TIMEOUT, R133. -/
theorem retrainTimeout_leaves {s : State} {c : Fin 5} {e : Fin 64} {cause : Nat} (hp : s.tray.pst c.val e.val = S.RETRAIN)
    (h : ((s.tray.port c.val e.val).sub, cause) ∈ [(S.TUNE, Cz.TUNE_TIMEOUT), (S.ALIGN, Cz.ALIGN_TIMEOUT),
      (S.IDENT, Cz.IDENT_TIMEOUT), (S.IDENT_WAIT, Cz.IDENT_TIMEOUT)]) :
    Completes (.retrainTimeout c e) s (fun t => s.tray.HasLeft c.val e.val cause t.tray) := by
  have hph : s.tray.phase c.val e.val = (s.tray.port c.val e.val).sub := if_pos hp
  simp only [List.mem_cons, Prod.mk.injEq, List.not_mem_nil, or_false] at h
  have hcause : s.tray.phaseCause c.val e.val = some cause := by
    unfold Tray.phaseCause
    rw [hph]
    rcases h with ⟨hsub, rfl⟩ | ⟨hsub, rfl⟩ | ⟨hsub, rfl⟩ | ⟨hsub, rfl⟩ <;> rw [hsub, hp] <;> rfl
  have hgo : s.tray.retrainTimeout c.val e.val = s.tray.portLeave c.val e.val cause := by
    unfold Tray.retrainTimeout
    rw [if_pos hp, hcause]
  have hlt : cause < 2 ^ F.PORT_TRAIN_STS_CAUSE.w := by
    rcases h with ⟨-, rfl⟩ | ⟨-, rfl⟩ | ⟨-, rfl⟩ | ⟨-, rfl⟩ <;> decide
  exact completes_runC_side (exec_retrainTimeout ..) hgo fun _ _ hside ht =>
    (Tray.portLeave_hasLeft e.isLt (Tray.live_of_pst hp (by decide)) hlt).after e.isLt hside ht

/-- FLOOD_HOLD_TIMEOUT, R134. -/
theorem floodHoldTimeout_leaves {s : State} {c : Fin 5} {e : Fin 64} (hp : s.tray.pst c.val e.val = S.FLOOD_HOLD) :
    Completes (.floodHoldTimeout c e) s (fun t =>
      s.tray.HasLeft c.val e.val Cz.FLOOD_TIMEOUT t.tray ∧ s.tray.logs t.tray .floodTimeout c.val [e.val]) := by
  have hleft := Tray.portLeave_hasLeft (cause := Cz.FLOOD_TIMEOUT) e.isLt (Tray.live_of_pst hp (by decide)) (by decide)
  exact completes_leave (exec_floodHoldTimeout ..) (if_pos hp) (hleft.of_regs (Tray.modPort_regs ..))
    (Tray.portLeave_logs (cause := Cz.FLOOD_TIMEOUT) e.isLt (Tray.modPort_logq ..) ..)

/-- PARTNER_LINK_LOSS, R135. -/
theorem partnerLinkLoss_leaves {s : State} {c : Fin 5} {e : Fin 64} (hp : s.tray.pst c.val e.val = S.UP)
    (hl : (s.tray.port c.val e.val).peerLinkOk = false) :
    Completes (.partnerLinkLoss c e) s (fun t =>
      s.tray.HasLeft c.val e.val Cz.PARTNER t.tray ∧ s.tray.logs t.tray .partner c.val [e.val]) := by
  have hleft := Tray.portLeave_hasLeft (cause := Cz.PARTNER) e.isLt (Tray.live_of_pst hp (by decide)) (by decide)
  exact completes_leave (exec_partnerLinkLoss ..) (if_pos ⟨(Tray.up_iff ..).2 hp, by simp [hl]⟩) hleft
    (Tray.portLeave_logs (cause := Cz.PARTNER) e.isLt rfl ..)

/-- LOS_TIMEOUT, R482. -/
theorem losTimeout_leaves {s : State} {c : Fin 5} {e : Fin 64} {n : Fin 256} (hn : n.val / 4 = e.val)
    (hlos : s.tray.is (lanePg c.val n.val) F.LANE_STS_LOS = true) (hp : s.tray.pst c.val e.val = S.UP) :
    Completes (.losTimeout c n) s (fun t =>
      s.tray.HasLeft c.val e.val Cz.LOS t.tray ∧ s.tray.logs t.tray .los c.val [e.val, n.val]) := by
  have hleft := Tray.portLeave_hasLeft (cause := Cz.LOS) e.isLt (Tray.live_of_pst hp (by decide)) (by decide)
  have hgo : s.tray.losTimeout c.val n.val = (s.tray.portLeave c.val e.val Cz.LOS).logChip .los c.val [e.val, n.val] := by
    unfold Tray.losTimeout
    rw [hn]
    exact (if_neg (by simp [hlos])).trans (if_pos ((Tray.up_iff ..).2 hp))
  exact completes_leave (exec_losTimeout ..) hgo hleft (Tray.portLeave_logs (cause := Cz.LOS) e.isLt rfl ..)

theorem Completes.mono {i : Instr} {s : State} {P Q : State → Prop} (h : Completes i s P) (hpq : ∀ t, P t → Q t) :
    Completes i s Q := by
  obtain ⟨t, he, hp⟩ := h
  exact ⟨t, he, hpq t hp⟩

/-- Settles O21, command by command: a training attempt that fails, and the four ways in which a live port leaves. -/
theorem portFailures : Obligations.PortFailures := by
  intro s c e leaves
  have hleaves : ∀ (t : State) cause, s.tray.HasLeft c.val e.val cause t.tray → leaves t cause :=
    fun _ _ ⟨hshows, hepoch, hkeeps⟩ => ⟨hshows, hepoch, hkeeps⟩
  exact ⟨fun _ h hw => trainingPhaseTimeout_fails h hw,
    fun hp cause h => (retrainTimeout_leaves hp h).mono fun t => hleaves t cause,
    fun hp => (floodHoldTimeout_leaves hp).mono fun t h => ⟨hleaves t _ h.1, h.2⟩,
    fun hp hl => (partnerLinkLoss_leaves hp hl).mono fun t h => ⟨hleaves t _ h.1, h.2⟩,
    fun _ hn hlos hp => (losTimeout_leaves hn hlos hp).mono fun t h => ⟨hleaves t _ h.1, h.2⟩⟩

end Sys2Proof.Machine
end

section
/-! SUPPORT. What the partner asks by maintenance messages: LOOP_REQ, LOOP_ACK (R140), FLOOD_NOTE (R135), RETRAIN_REQ (R117). -/
namespace Sys2Proof.Machine

theorem exec_loopReq (c : Fin 5) (e : Fin 64) (f : MFrame) (s : State) :
    exec (.loopReq c e f) s = .next (s.runC c.val (fun t => t.loopReq c.val e.val f)) := rfl
theorem exec_loopAck (c : Fin 5) (e : Fin 64) (f : MFrame) (s : State) :
    exec (.loopAck c e f) s = .next (s.run (fun t => t.loopAck c.val e.val f)) := rfl
theorem exec_floodNote (c : Fin 5) (e : Fin 64) (f : MFrame) (s : State) :
    exec (.floodNote c e f) s = .next (s.runC c.val (fun t => t.floodNote c.val e.val f)) := rfl
theorem exec_retrainReq (c : Fin 5) (e : Fin 64) (f : MFrame) (s : State) :
    exec (.retrainReq c e f) s = .next (s.runC c.val (fun t => t.retrainReq c.val e.val f)) := rfl

/-! ### LOOP_REQ and LOOP_ACK -/

/-- A note's third byte is its value. -/
theorem fByte_noteFrame_value {ty v : Nat} (ht : ty < 2 ^ 16) (hv : v < 2 ^ 8) : fByte (noteFrame ty v) 2 = v := by
  rw [fByte_eq_fNum]
  unfold noteFrame
  rw [fNum_mkFrame _ _ _ (by decide)]
  omega

/-- The answer to LOOP_REQ, of result `r`. -/
def Tray.answersLoop (u : Tray) (c e r : Nat) : Prop :=
  ∃ g, Out.maint c e g ∈ u.out ∧ fByte g 0 = M.LOOP_ACK ∧ fByte g 2 = r

theorem Tray.answersLoop_emit (t : Tray) (c e : Nat) {r : Nat} (hr : r < 2 ^ 8) :
    (t.emit (.maint c e (noteFrame M.LOOP_ACK r))).answersLoop c e r :=
  ⟨_, List.mem_cons_self, fByte_noteFrame _ _ (by decide),
    fByte_noteFrame_value (by decide) hr⟩

theorem Tray.answersLoop.of_out {t u : Tray} {c e r : Nat} (h : t.answersLoop c e r) (ho : u.out = t.out) :
    u.answersLoop c e r := by
  obtain ⟨g, hg, hbytes⟩ := h
  exact ⟨g, ho ▸ hg, hbytes⟩

theorem Tray.answersLoop.like {u : Tray} {s : State} {c e r : Nat} (h : u.answersLoop c e r) (hs : s.Like u) :
    s.tray.answersLoop c e r := by
  obtain ⟨g, hg, hbytes⟩ := h
  exact ⟨g, hs.emits hg, hbytes⟩

/-- LOOP_REQ that is not allowed, R140. -/
theorem loopReq_refused {s : State} {c : Fin 5} {e : Fin 64} {f : MFrame} (hs : s.tray.settled c.val) (hf : fOk f = true)
    (hty : fByte f 0 = M.LOOP_REQ) (hp : s.tray.pst c.val e.val ≠ S.DISABLED)
    (hallow : s.tray.is (portPg c.val e.val) F.PORT_TRAIN_CTL_ALLOW_REMOTE_LOOP = false) :
    Completes (.loopReq c e f) s (fun t => t.tray.answersLoop c.val e.val 1 ∧
      s.tray.keepsRegs t.tray (fun _ _ => False) ∧ s.tray.keepsBlocks t.tray) := by
  have hgo : s.tray.loopReq c.val e.val f = s.tray.emit (.maint c.val e.val (noteFrame M.LOOP_ACK 1)) := by
    unfold Tray.loopReq
    rw [if_neg (by simp [hf, hty, hp]), if_pos (.inl (by simp [hallow]))]
  have hstay : s.tray.Stays (s.tray.emit (.maint c.val e.val (noteFrame M.LOOP_ACK 1))) (fun _ _ => False) :=
    (Tray.Stays.refl ..).emit _
  exact completes_runC (exec_loopReq ..) hgo (hstay.settled hs) fun t ht =>
    ⟨(s.tray.answersLoop_emit _ _ (by decide)).like ht, ht.stays hstay⟩

/-- The port in far-end loopback, its last failure's cause `cause`. -/
def Tray.farLoop (t : Tray) (c e cause : Nat) : Tray :=
  (t.portTo c e S.DIAG cause).sb (portPg c e) F.PORT_TRAIN_CTL_FAR_LOOP true

theorem Tray.farLoop_loops (t : Tray) (c cause : Nat) {e : Nat} (he : e < 64) :
    (t.farLoop c e cause).pst c e = S.DIAG ∧ (t.farLoop c e cause).is (portPg c e) F.PORT_TRAIN_CTL_FAR_LOOP = true := by
  obtain ⟨hst, -⟩ := t.portTo_goes c e S.DIAG cause he (by decide)
  refine ⟨(Tray.gf_sf_off _ _ _ _ _ _ (by decide)).trans hst, ?_⟩
  rw [Tray.is_iff]
  exact Tray.gf_sb_self _ _ _ _ (by decide)

theorem Tray.farLoop_keeps (t : Tray) (c cause : Nat) {e : Nat} (he : e < 64) :
    t.keepsRegs (t.farLoop c e cause) (portDown c e) :=
  Tray.keepsRegs_sb (t.portTo_keeps c e S.DIAG cause he) _ (.inl (portArea_port ..)) (by decide)

/-- LOOP_REQ that is allowed, R140. -/
theorem loopReq_loops {s : State} {c : Fin 5} {e : Fin 64} {f : MFrame} (hf : fOk f = true) (hty : fByte f 0 = M.LOOP_REQ)
    (hp : s.tray.pst c.val e.val ≠ S.DISABLED)
    (hallow : s.tray.is (portPg c.val e.val) F.PORT_TRAIN_CTL_ALLOW_REMOTE_LOOP = true) (hrole : s.tray.role c.val ≠ 1)
    (hone : fByte f 2 = 1) :
    Completes (.loopReq c e f) s (fun t => t.tray.answersLoop c.val e.val 0 ∧ t.tray.pst c.val e.val = S.DIAG ∧
      t.tray.is (portPg c.val e.val) F.PORT_TRAIN_CTL_FAR_LOOP = true ∧
      s.tray.keepsRegs t.tray (portDown c.val e.val)) := by
  have he := e.isLt
  let v := s.tray.emit (.maint c.val e.val (noteFrame M.LOOP_ACK 0))
  obtain ⟨cause, hgo⟩ : ∃ cause, s.tray.loopReq c.val e.val f = v.farLoop c.val e.val cause := by
    unfold Tray.loopReq
    dsimp only
    rw [if_neg (by simp [hf, hty, hp]), if_neg (by simp [hallow, hrole]), if_pos hone]
    by_cases hl : s.tray.live c.val e.val = true
    · rw [if_pos hl]; exact ⟨_, rfl⟩
    · rw [if_neg hl]; exact ⟨_, rfl⟩
  obtain ⟨hst, hfar⟩ := v.farLoop_loops c.val cause he
  have hkeep : s.tray.keepsRegs (v.farLoop c.val e.val cause) (portDown c.val e.val) :=
    Tray.keepsRegs_trans (Tray.keepsRegs_of rfl) (v.farLoop_keeps c.val cause he)
  have hout : (v.farLoop c.val e.val cause).out = v.out := (v.portTo_parts c.val e.val S.DIAG cause he).2
  have hans : (v.farLoop c.val e.val cause).answersLoop c.val e.val 0 :=
    (s.tray.answersLoop_emit _ _ (by decide)).of_out hout
  refine completes_runC_side (exec_loopReq ..) hgo fun w t hside ht =>
    ⟨(hans.of_out hside.out).like ht, ?_, ?_, ht.keepsRegs (hside.keepsDown hkeep)⟩
  · exact (ht.gf ..).trans ((hside.gf_portPg he _ (by decide)).trans hst)
  · rw [Tray.is_iff] at hfar ⊢
    exact (ht.gf ..).trans ((hside.gf_portPg he _ (by decide)).trans hfar)

/-- LOOP_ACK, R140. -/
theorem loopAck_kept {s : State} {c : Fin 5} {e : Fin 64} {f : MFrame} (hf : fOk f = true) (hty : fByte f 0 = M.LOOP_ACK) :
    Completes (.loopAck c e f) s (fun t =>
      (t.tray.port c.val e.val).loopAck = some (fByte f 2 == 0) ∧
      s.tray.keepsRegs t.tray (fun _ _ => False) ∧ s.tray.keepsOtherPorts t.tray c.val e.val) :=
  completes_run (exec_loopAck ..) (if_pos ⟨hf, hty⟩) fun t ht =>
    ⟨by rw [ht.port, Tray.port_modPort], ht.staysBut ((Tray.StaysBut.refl ..).modPort e.isLt _)⟩

/-! ### FLOOD_NOTE -/

/-- What dropping traffic of chip `c` and ends of its jobs may write, beside the port's own registers. -/
def portTraffic (c e q o : Nat) : Prop := portArea c e q o ∨ ¬ trafficFree c q o

theorem TrafficSide.keepsRegs {c : Nat} {t u : Tray} (h : TrafficSide c t u) (e : Nat) : t.keepsRegs u (portTraffic c e) :=
  fun q o ho hn => h.rd q o ho (not_not.1 (not_or.1 hn).2)

theorem JobSide.keepsTraffic {c e : Nat} {t u w : Tray} (h : JobSide c u w) (hk : t.keepsRegs u (portTraffic c e)) :
    t.keepsRegs w (portTraffic c e) := fun q o ho hn =>
  (h.keeps q o ho (TrafficSide.jobFree_of (not_not.1 (not_or.1 hn).2))).trans (hk q o ho hn)

theorem trafficFree_port {c e o : Nat} (he : e < 64) (ho : 0x100 ≤ o ∧ o < 0x130) : trafficFree c (portPg c e) o :=
  (abortFree_port c e he o ho).1

theorem Tray.enterHold_keeps (t : Tray) (c e : Nat) : t.keepsRegs (t.enterHold c e) (portTraffic c e) :=
  Tray.keepsRegs_trans (Tray.keepsRegs_mono (t.setPst_staysBut c e S.FLOOD_HOLD).regs fun _ _ => .inl)
    ((TrafficSide.rxLost c _ e).keepsRegs e)

theorem Tray.enterHold_pst (t : Tray) (c : Nat) {e : Nat} (he : e < 64) : (t.enterHold c e).pst c e = S.FLOOD_HOLD :=
  (congrArg F.PORT_TRAIN_STS_STATE.get ((TrafficSide.rxLost c _ e).rd _ _ (by decide) (trafficFree_port he (by decide)))).trans
    (t.setPst_pst c e _ he (by decide))

/-- FLOOD_NOTE of an UP port, R135. -/
theorem floodNote_holds {s : State} {c : Fin 5} {e : Fin 64} {f : MFrame} (hf : fOk f = true) (hty : fByte f 0 = M.FLOOD_NOTE)
    (hp : s.tray.pst c.val e.val = S.UP) (hone : fByte f 2 = 1) :
    Completes (.floodNote c e f) s (fun t =>
      t.tray.pst c.val e.val = S.FLOOD_HOLD ∧ (t.tray.port c.val e.val).floodPeer = true ∧
      s.tray.keepsRegs t.tray (portTraffic c.val e.val)) := by
  have he := e.isLt
  have hgo : s.tray.floodNote c.val e.val f = (s.tray.enterHold c.val e.val).modPort c.val e.val
      (fun p => { p with floodPeer := true, floodOwn := false }) := by
    unfold Tray.floodNote
    rw [if_neg (by simp [hf, hty]), if_pos hone, if_pos ((Tray.up_iff ..).2 hp)]
  refine completes_runC_side (exec_floodNote ..) hgo fun w t hside ht =>
    ⟨?_, ?_, ht.keepsRegs (hside.keepsTraffic (Tray.keepsRegs_trans (s.tray.enterHold_keeps c.val e.val) (Tray.keepsRegs_of rfl)))⟩
  · exact (ht.gf ..).trans ((hside.gf_portPg he _ (by decide)).trans (s.tray.enterHold_pst c.val he))
  · obtain ⟨q, hq⟩ := hside.ports c.val e.val
    rw [ht.port, hq, Tray.port_modPort]

/-! ### RETRAIN_REQ -/

theorem Tray.setEq_stays (t : Tray) {c e n : Nat} (hn : n / 4 = e) (q : EqState) : t.Stays (t.setEq c n q) (portArea c e) :=
  ((Tray.Stays.refl ..).sf _ (portArea_lane hn _) (by decide)).sf _ (portArea_lane hn _) (by decide)

/-- A lane of a port that enters RETRAIN takes its checkpoint, or its preset where it has none (R117). -/
def Tray.resumeLane (t : Tray) (c n : Nat) : Tray :=
  (match (t.lane c n).checkpoint with | some q => t.setEq c n q | none => t.loadPreset c n).setLane c n (t.lane c n).restart

/-- The port in RETRAIN, before its lanes resume. -/
def Tray.retraining (t : Tray) (c e : Nat) : Tray :=
  (t.setPst c e S.RETRAIN).modPort c e (fun p => { p with
    sub := S.TUNE, linkOk := false, peerLinkOk := false, floodOwn := false, floodPeer := false, remeasuring := false,
    tokens := [], echoes := [], prev := p.ident })

theorem Tray.enterRetrain_eq (t : Tray) (c e : Nat) :
    t.enterRetrain c e = (t.retraining c e).each (lanesOf e) (fun w n => w.resumeLane c n) := rfl

theorem Tray.resumeLane_staysBut (t : Tray) (c : Nat) {e n : Nat} (he : e < 64) (hn : n / 4 = e) :
    t.StaysBut (t.resumeLane c n) c e (portArea c e) := by
  refine (Tray.StaysBut.stays (Tray.StaysBut.refl ..) ?_).setLane he hn _
  split
  · exact t.setEq_stays hn _
  · exact (Tray.Stays.refl ..).sf _ (portArea_lane hn _) (by decide)

theorem Tray.resumeLane_port (t : Tray) (c n d e : Nat) : (t.resumeLane c n).port d e = t.port d e := by
  unfold Tray.resumeLane
  rw [Tray.port_setLane]
  split <;> rfl

theorem Tray.enterRetrain_staysBut (t : Tray) (c : Nat) {e : Nat} (he : e < 64) :
    t.StaysBut (t.enterRetrain c e) c e (portArea c e) :=
  ((t.setPst_staysBut c e S.RETRAIN).modPort he _).trans
    (Tray.each_lanes_stays _ (fun w _ hn => w.resumeLane_staysBut c he hn) _)

theorem Tray.enterRetrain_sub (t : Tray) (c e : Nat) : ((t.enterRetrain c e).port c e).sub = S.TUNE := by
  have hlanes := Tray.each_same (fun u => u.port c e) (fun w n => w.resumeLane c n) (lanesOf e)
    (fun w n _ => w.resumeLane_port c n c e) (t.retraining c e)
  rw [Tray.enterRetrain_eq, hlanes]
  unfold Tray.retraining
  rw [Tray.port_modPort]

/-- RETRAIN_REQ of reason 1, R117. -/
theorem retrainReq_retrains {s : State} {c : Fin 5} {e : Fin 64} {f : MFrame} (hs : s.tray.settled c.val) (hf : fOk f = true)
    (hty : fByte f 0 = M.RETRAIN_REQ) (hp : s.tray.pst c.val e.val = S.UP) (hone : fByte f 2 = 1) :
    Completes (.retrainReq c e f) s (fun t =>
      t.tray.pst c.val e.val = S.RETRAIN ∧ (t.tray.port c.val e.val).sub = S.TUNE ∧
      s.tray.keepsRegs t.tray (portArea c.val e.val) ∧ s.tray.keepsOtherPorts t.tray c.val e.val) := by
  have he := e.isLt
  have hgo : s.tray.retrainReq c.val e.val f = s.tray.enterRetrain c.val e.val :=
    (if_pos ⟨hf, hty, (Tray.up_iff ..).2 hp⟩).trans (if_pos hone)
  have hstay := s.tray.enterRetrain_staysBut c.val he
  exact completes_runC (exec_retrainReq ..) hgo (hstay.settled hs) fun t ht =>
    ⟨(ht.gf ..).trans (s.tray.enterRetrain_pst c.val e.val he),
      (congrArg PortSt.sub (ht.port ..)).trans (s.tray.enterRetrain_sub c.val e.val), ht.staysBut hstay⟩

/-- RETRAIN_REQ of reason 2, R117. -/
theorem retrainReq_leaves {s : State} {c : Fin 5} {e : Fin 64} {f : MFrame} (hf : fOk f = true)
    (hty : fByte f 0 = M.RETRAIN_REQ) (hp : s.tray.pst c.val e.val = S.UP) (htwo : fByte f 2 = 2) :
    Completes (.retrainReq c e f) s (fun t => s.tray.HasLeft c.val e.val Cz.ABORT t.tray) := by
  have hgo : s.tray.retrainReq c.val e.val f = s.tray.portLeave c.val e.val Cz.ABORT :=
    (if_pos ⟨hf, hty, (Tray.up_iff ..).2 hp⟩).trans ((if_neg (by omega)).trans (if_pos htwo))
  exact completes_runC_side (exec_retrainReq ..) hgo fun _ _ hside ht =>
    (Tray.portLeave_hasLeft e.isLt (Tray.live_of_pst hp (by decide)) (by decide)).after e.isLt hside ht

/-- Settles O20, message by message. -/
theorem maintenanceRequests : Obligations.MaintenanceRequests := by
  intro s c e f hs hf
  exact ⟨fun hty hp => ⟨loopReq_refused hs hf hty hp, loopReq_loops hf hty hp⟩, loopAck_kept hf, floodNote_holds hf,
    fun hty hp => ⟨retrainReq_retrains hs hf hty hp, fun htwo =>
      (retrainReq_leaves hf hty hp htwo).mono fun _ h => ⟨h.shows, h.keeps⟩⟩⟩

end Sys2Proof.Machine
end

section
/-! SUPPORT. The operator restarts a port or holds it in DIAG by writes to PORT_TRAIN_CTL (R146). -/
namespace Sys2Proof.Machine

theorem exec_portRestart (c : Fin 5) (e : Fin 64) (s : State) :
    exec (.portRestart c e) s = .next (s.run (fun t => t.write8 0 c.val (0x010 + e.val) A.PORT_TRAIN_CTL
      (F.PORT_TRAIN_CTL_RESTART.put (t.rd (portPg c.val e.val) A.PORT_TRAIN_CTL) 1))) := rfl
theorem exec_portDiag (c : Fin 5) (e : Fin 64) (set : Bool) (s : State) :
    exec (.portDiag c e set) s = .next (s.run (fun t => t.write8 0 c.val (0x010 + e.val) A.PORT_TRAIN_CTL
      (F.PORT_TRAIN_CTL_DIAG.put (t.rd (portPg c.val e.val) A.PORT_TRAIN_CTL) (b2n set)))) := rfl

/-! ### Writes to registers of a port with a rule of their own -/

theorem portPg_div {c e : Nat} (he : e < 64) : portPg c e / 4096 = c := by unfold portPg chipPg; omega

theorem portPg_mod {c e : Nat} (he : e < 64) : portPg c e % 4096 = 0x010 + e := by unfold portPg chipPg; omega

/-- A write that is performed to a register of a port's page, of a released chip, that has a rule of its own. -/
theorem Tray.write8_port {t u : Tray} {c e off : Nat} {v : Word} {r : RegDesc} (hc : c < 5) (he : e < 64)
    (ha : t.accepts c (0x010 + e) off = true) (ho : 0x100 ≤ off) (ho' : off < 0x800) (hex : regExists (portPg c e) off = true)
    (hr : (blockRegs .port).find? (fun r => r.has off) = some r) (hm : r.rwsMask = 0) (hu : (t.chip c).coreUp = true)
    (hw : t.writeChip (portPg c e) off r v (Origin.wr 0 off) = some u) : t.write8 0 c (0x010 + e) off v = u.sweep c := by
  have hk : pageKindOf 0 (0x010 + e) = some .port :=
    (pageKind_chipPg c (0x010 + e) hc (by omega)).symm.trans (pageKind_portPg c e hc he)
  refine t.write8_own u 0 c (0x010 + e) off v .port hc (by omega) ha ho ho' hk hex ⟨r, hr, hm⟩ (fun h => by cases h.1) hu
    fun r' hr' => ?_
  rw [Option.some.inj (hr'.symm.trans hr)]
  exact hw

/-- The registers of a port with a rule of their own. -/
theorem Tray.writeChip_port (t : Tray) {c e : Nat} (hc : c < 5) (he : e < 64) (off : Nat) (r : RegDesc) (v : Word) (o : Origin) :
    t.writeChip (portPg c e) off r v o =
      if off = A.PORT_TRAIN_CTL then some (t.trainCtl c e r v o)
      else if off = A.PORT_SPARE then some (t.laneSpare c e v o)
      else if off = A.PORT_CMIS_CMD then some (t.cmisCmd (8 * c + e / 8) v o)
      else none := by
  have hnum : 0x010 + e - 0x010 = e := by omega
  unfold Tray.writeChip
  rw [pageKind_portPg c e hc he, portPg_div he, portPg_mod he]
  dsimp only
  rw [hnum]

/-- A command that ends with the notes of ended jobs of a space: they change what jobs may change. -/
theorem completes_sweep {i : Instr} {s : State} {P : State → Prop} {f : Tray → Tray} {u : Tray} {sp : Nat}
    (he : exec i s = .next (s.run f)) (hu : f s.tray = u.sweep sp)
    (hP : ∀ (w : Tray) (t : State), JobSide sp u w → t.Like w → P t) : Completes i s P :=
  completes_run he hu fun t ht => hP _ t (u.sweep_side sp) ht

/-! ### PORT_TRAIN_CTL -/

def trainCtlReg : RegDesc :=
  ⟨A.PORT_TRAIN_CTL, 0x0, 1, 0x7D00002,
    [⟨F.PORT_TRAIN_CTL_RESTART, .w1s, false, .any⟩, ⟨F.PORT_TRAIN_CTL_AUTO_RETRY, .rw, false, .any⟩,
      ⟨F.PORT_TRAIN_CTL_DIAG, .rw, false, .any⟩, ⟨F.PORT_TRAIN_CTL_FAR_LOOP, .rw, false, .any⟩,
      ⟨F.PORT_TRAIN_CTL_ALLOW_REMOTE_LOOP, .rw, false, .any⟩, ⟨F.PORT_TRAIN_CTL_SPARE_AUTO_EOL, .rw, false, .any⟩,
      ⟨F.PORT_TRAIN_CTL_FLOOD_HOLD_MS, .rw, false, .range 100 10000⟩]⟩

theorem trainCtlReg_found : (blockRegs .port).find? (fun r => r.has A.PORT_TRAIN_CTL) = some trainCtlReg := by rfl

/-- The tray once the RW fields of PORT_TRAIN_CTL have taken their values. -/
def Tray.trainCtlWritten (t : Tray) (c e : Nat) (v : Word) : Tray :=
  t.putRw (portPg c e) A.PORT_TRAIN_CTL trainCtlReg v (Origin.wr 0 A.PORT_TRAIN_CTL)

section
variable (t : Tray) (c : Nat) {e : Nat} (v : Word)

theorem Tray.trainCtlWritten_stays :
    t.Stays (t.trainCtlWritten c e v) (writtenReg (portPg c e) A.PORT_TRAIN_CTL) := t.putRw_stays _ _ _ _ _ (by decide)

theorem Tray.trainCtlWritten_diag :
    (t.trainCtlWritten c e v).gf (portPg c e) F.PORT_TRAIN_CTL_DIAG = F.PORT_TRAIN_CTL_DIAG.get v := by
  have henc : encOk (portPg c e) ⟨F.PORT_TRAIN_CTL_DIAG, .rw, false, .any⟩ (F.PORT_TRAIN_CTL_DIAG.get v) = true := by
    have hctl : (F.PORT_TRAIN_CTL_DIAG != F.PG_CTL_ENABLE) = true := by decide
    simp only [encOk, Enc.ok, hctl, Bool.or_true, Bool.true_or, Bool.and_self]
  exact (t.putRw_get (portPg c e) A.PORT_TRAIN_CTL trainCtlReg v _ (by decide) (by decide)
    ⟨F.PORT_TRAIN_CTL_DIAG, .rw, false, .any⟩ (by decide)).trans (if_pos ⟨rfl, henc⟩)

/-- The fields of the other registers of the port's page. -/
theorem Tray.trainCtlWritten_gf {f : Fld} (h : f.off = A.PORT_TRAIN_STS ∨ f.off = A.PG_CTL) :
    (t.trainCtlWritten c e v).gf (portPg c e) f = t.gf (portPg c e) f := by
  refine Tray.keepsRegs_gf (t.trainCtlWritten_stays c v).regs _ _ ?_ ?_
  · rcases h with h | h <;> rw [h] <;> decide
  · rintro ⟨-, ho⟩
    rcases h with h | h <;> rw [h] at ho <;> revert ho <;> decide

theorem Tray.trainCtlWritten_keeps : t.keepsRegs (t.trainCtlWritten c e v) (portDown c e) :=
  Tray.keepsRegs_mono (t.trainCtlWritten_stays c v).regs fun _ _ h => .inl (.inl h.1)

theorem Tray.trainCtlWritten_pst : (t.trainCtlWritten c e v).pst c e = t.pst c e :=
  t.trainCtlWritten_gf c v (f := F.PORT_TRAIN_STS_STATE) (.inl rfl)

theorem Tray.trainCtlWritten_pcause : (t.trainCtlWritten c e v).pcause c e = t.pcause c e :=
  t.trainCtlWritten_gf c v (f := F.PORT_TRAIN_STS_CAUSE) (.inl rfl)

theorem Tray.trainCtlWritten_live : (t.trainCtlWritten c e v).live c e = t.live c e := by
  unfold Tray.live
  rw [t.trainCtlWritten_pst]

/-- A write that leaves DIAG leaves where the port goes. -/
theorem Tray.trainCtlWritten_leaveTo (cause : Nat)
    (h : F.PORT_TRAIN_CTL_DIAG.get v = t.gf (portPg c e) F.PORT_TRAIN_CTL_DIAG) :
    (t.trainCtlWritten c e v).leaveTo c e cause = t.leaveTo c e cause := by
  unfold Tray.leaveTo Tray.enabled Tray.is
  rw [t.trainCtlWritten_diag, h, t.trainCtlWritten_gf c v (.inr rfl)]

end

theorem Tray.write8_trainCtl {t : Tray} {c e : Nat} (v : Word) (hc : c < 5) (he : e < 64)
    (ha : t.accepts c (0x010 + e) A.PORT_TRAIN_CTL = true) (hu : (t.chip c).coreUp = true) :
    t.write8 0 c (0x010 + e) A.PORT_TRAIN_CTL v =
      (t.trainCtl c e trainCtlReg v (Origin.wr 0 A.PORT_TRAIN_CTL)).sweep c := by
  refine Tray.write8_port hc he ha (by decide) (by decide) ?_ trainCtlReg_found rfl hu ?_
  · unfold regExists
    rw [if_neg (fun h => absurd h.2.1 (by decide)), if_neg (fun h => absurd h.2 (by decide))]
  · exact (t.writeChip_port hc he ..).trans (if_pos rfl)

/-! ### RESTART -/

theorem Tray.chip_trainCtlWritten (t : Tray) (c e : Nat) (v : Word) (d : Nat) : (t.trainCtlWritten c e v).chip d = t.chip d := by
  unfold Tray.chip
  rw [(t.trainCtlWritten_stays c v).blocks.1]

/-- 1 written to RESTART beside the register's own value. -/
theorem Tray.trainCtl_restarts {t : Tray} {c e : Nat} (hu : (t.chip c).coreUp = true) :
    let v := F.PORT_TRAIN_CTL_RESTART.put (t.rd (portPg c e) A.PORT_TRAIN_CTL) 1
    t.trainCtl c e trainCtlReg v (Origin.wr 0 A.PORT_TRAIN_CTL) = (t.trainCtlWritten c e v).portRestart c e := by
  intro v
  have hdiag : F.PORT_TRAIN_CTL_DIAG.get v = t.gf (portPg c e) F.PORT_TRAIN_CTL_DIAG :=
    Fld.get_put_ne _ _ _ _ (by decide) (by decide) (by decide)
  have hrestart : F.PORT_TRAIN_CTL_RESTART.get v = 1 := Fld.get_put _ _ _ (by decide)
  unfold Tray.trainCtl
  dsimp only
  rw [if_neg (by simp [hu]), if_pos hdiag, if_pos hrestart]
  rfl

theorem Tray.not_live_of_training {t : Tray} {c e : Nat}
    (h : t.pst c e = S.HELD ∨ t.pst c e = S.HOLDOFF ∨ isTraining (t.pst c e) = true) : t.live c e = false := by
  unfold isTraining at h
  unfold Tray.live
  simp only [Bool.and_eq_true, decide_eq_true_eq] at h
  simp only [Bool.or_eq_false_iff, beq_eq_false_iff_ne]
  simp only [S.HELD, S.HOLDOFF, S.SIGNAL, S.MEASURE, S.UP, S.FLOOD_HOLD, S.RETRAIN] at h ⊢
  omega

theorem Tray.portRestart_training {t : Tray} {c e : Nat}
    (h : t.pst c e = S.HELD ∨ t.pst c e = S.HOLDOFF ∨ isTraining (t.pst c e) = true) :
    t.portRestart c e = t.portTo c e S.DOWN (t.pcause c e) := by
  unfold Tray.portRestart
  dsimp only
  rw [if_neg (by rw [Tray.not_live_of_training h]; exact Bool.false_ne_true), if_pos (by tauto)]

theorem Tray.pcause_lt (t : Tray) (c e : Nat) : t.pcause c e < 2 ^ F.PORT_TRAIN_STS_CAUSE.w := Tray.gf_lt _ _ _ (by decide)

theorem Tray.portTo_portShows (t : Tray) {c e st cause : Nat} (he : e < 64) (hst : st < 16)
    (hcause : cause < 2 ^ F.PORT_TRAIN_STS_CAUSE.w) : (t.portTo c e st cause).portShows c e st cause := by
  obtain ⟨h, h', -⟩ := t.portTo_goes c e st cause he hst
  exact ⟨h, h'.trans (Nat.mod_eq_of_lt hcause)⟩

section
variable {s : State} {c : Fin 5} {e : Fin 64} (ha : s.tray.accepts c.val (0x010 + e.val) A.PORT_TRAIN_CTL = true)
  (hu : (s.tray.chip c.val).coreUp = true)
include ha hu

/-- A restart that takes the port to a state. -/
theorem portRestart_goes {st cause : Nat} (hst : st < 16) (hcause : cause < 2 ^ F.PORT_TRAIN_STS_CAUSE.w)
    (hgo : ∀ v, F.PORT_TRAIN_CTL_DIAG.get v = s.tray.gf (portPg c.val e.val) F.PORT_TRAIN_CTL_DIAG →
      (s.tray.trainCtlWritten c.val e.val v).portRestart c.val e.val =
        (s.tray.trainCtlWritten c.val e.val v).portTo c.val e.val st cause) :
    Completes (.portRestart c e) s (fun t =>
      t.tray.portShows c.val e.val st cause ∧ s.tray.keepsRegs t.tray (portDown c.val e.val)) := by
  have he := e.isLt
  have hdiag : F.PORT_TRAIN_CTL_DIAG.get (F.PORT_TRAIN_CTL_RESTART.put
      (s.tray.rd (portPg c.val e.val) A.PORT_TRAIN_CTL) 1) = s.tray.gf (portPg c.val e.val) F.PORT_TRAIN_CTL_DIAG :=
    Fld.get_put_ne _ _ _ _ (by decide) (by decide) (by decide)
  have hwrite := (Tray.write8_trainCtl _ c.isLt he ha hu).trans
    (congrArg (Tray.sweep · c.val) ((Tray.trainCtl_restarts hu).trans (hgo _ hdiag)))
  obtain ⟨hp, hcz⟩ := Tray.portTo_portShows _ he hst hcause
  exact completes_sweep (exec_portRestart ..) hwrite fun _ _ hside ht =>
    ⟨⟨(ht.gf ..).trans ((hside.gf_portPg he _ (by decide)).trans hp),
      (ht.gf ..).trans ((hside.gf_portPg he _ (by decide)).trans hcz)⟩,
      ht.keepsRegs (hside.keepsDown
        (Tray.keepsRegs_trans (s.tray.trainCtlWritten_keeps c.val _) (Tray.portTo_keeps _ _ _ _ _ he)))⟩

/-- PORT_RESTART of a live port, R146. -/
theorem portRestart_leaves (hl : s.tray.live c.val e.val = true) :
    Completes (.portRestart c e) s (fun t =>
      t.tray.portShows c.val e.val (s.tray.leaveTo c.val e.val Cz.ABORT) Cz.ABORT ∧
      s.tray.keepsRegs t.tray (portDown c.val e.val)) :=
  portRestart_goes ha hu (s.tray.leaveTo_lt ..) (by decide) fun v hdiag => by
    rw [← s.tray.trainCtlWritten_leaveTo c.val v Cz.ABORT hdiag]
    exact if_pos ((s.tray.trainCtlWritten_live c.val v).trans hl)

/-- PORT_RESTART of a port that is held, waits or trains, R146. -/
theorem portRestart_startsAgain
    (hp : s.tray.pst c.val e.val = S.HELD ∨ s.tray.pst c.val e.val = S.HOLDOFF ∨ isTraining (s.tray.pst c.val e.val) = true) :
    Completes (.portRestart c e) s (fun t =>
      t.tray.portShows c.val e.val S.DOWN (s.tray.pcause c.val e.val) ∧ s.tray.keepsRegs t.tray (portDown c.val e.val)) :=
  portRestart_goes ha hu (by decide) (s.tray.pcause_lt ..) fun v _ => by
    rw [← s.tray.trainCtlWritten_pcause c.val v]
    exact Tray.portRestart_training (by rwa [s.tray.trainCtlWritten_pst])

end

/-! ### DIAG -/

/-- The port's page once DIAG is set, the port's state as it was. -/
def Tray.diagSet (t : Tray) (c e : Nat) (v : Word) : Tray :=
  ((t.trainCtlWritten c e v).sf (portPg c e) F.PORT_TRAIN_CTL_DIAG 0).sb (portPg c e) F.PORT_TRAIN_CTL_DIAG true

section
variable (t : Tray) (c : Nat) {e : Nat} (v : Word)

theorem Tray.diagSet_diag : (t.diagSet c e v).gf (portPg c e) F.PORT_TRAIN_CTL_DIAG = 1 := Tray.gf_sb_self _ _ _ _ (by decide)

theorem Tray.diagSet_pst : (t.diagSet c e v).pst c e = t.pst c e := by
  refine Eq.trans ?_ (t.trainCtlWritten_pst c v)
  exact (Tray.gf_sf_off _ _ _ _ _ _ (by decide)).trans (Tray.gf_sf_off _ _ _ _ _ _ (by decide))

theorem Tray.diagSet_keeps : t.keepsRegs (t.diagSet c e v) (portDown c e) :=
  Tray.keepsRegs_sb (Tray.keepsRegs_sf (t.trainCtlWritten_keeps c v) _ (.inl (portArea_port ..)) (by decide)) _
    (.inl (portArea_port ..)) (by decide)

end

/-- In `u` the port is held in DIAG. -/
structure Tray.Diagnosed (t : Tray) (c e : Nat) (u : Tray) : Prop where
  pst : u.pst c e = S.DIAG
  diag : u.gf (portPg c e) F.PORT_TRAIN_CTL_DIAG = 1
  keeps : t.keepsRegs u (portDown c e)

/-- Setting DIAG of a port that is neither disabled nor live. -/
theorem Tray.portDiag_diagnoses {t : Tray} {c e : Nat} (v : Word) (he : e < 64) (hd : t.pst c e ≠ S.DISABLED)
    (hl : t.live c e = false) :
    t.Diagnosed c e (((t.trainCtlWritten c e v).sf (portPg c e) F.PORT_TRAIN_CTL_DIAG 0).portDiag c e true) := by
  have hp : ((t.trainCtlWritten c e v).sf (portPg c e) F.PORT_TRAIN_CTL_DIAG 0).pst c e = t.pst c e :=
    (Tray.gf_sf_off _ _ _ _ _ _ (by decide)).trans (t.trainCtlWritten_pst c v)
  have hlive : ((t.trainCtlWritten c e v).sf (portPg c e) F.PORT_TRAIN_CTL_DIAG 0).live c e = false := by
    unfold Tray.live at hl ⊢
    rw [hp, hl]
  unfold Tray.portDiag
  dsimp only
  rw [hp, if_neg hd, if_pos rfl]
  by_cases hdiag : t.pst c e = S.DIAG
  · rw [if_pos hdiag]
    exact ⟨(t.diagSet_pst c v).trans hdiag, t.diagSet_diag c v, t.diagSet_keeps c v⟩
  · rw [if_neg hdiag, if_neg (by rw [hlive]; exact Bool.false_ne_true)]
    generalize Tray.pcause _ c e = cause
    obtain ⟨hst, -⟩ := (t.diagSet c e v).portTo_goes c e S.DIAG cause he (by decide)
    have hctl := (t.diagSet c e v).portTo_rd c e S.DIAG cause (portPg c e) A.PORT_TRAIN_CTL he (by decide)
      (abortFree_port c e he _ (by decide)) (not_stateReg_portPg he (by decide) (by decide)) (fun h => absurd h.2 (by decide))
    exact ⟨hst, (congrArg F.PORT_TRAIN_CTL_DIAG.get hctl).trans (t.diagSet_diag c v),
      Tray.keepsRegs_trans (t.diagSet_keeps c v) (Tray.portTo_keeps _ _ _ _ _ he)⟩

/-- A restart leaves a port in DIAG there. -/
theorem Tray.portRestart_diag {t : Tray} {c e : Nat} (h : t.pst c e = S.DIAG) : t.portRestart c e = t := by
  have hl : t.live c e = false := by
    unfold Tray.live
    rw [h]
    rfl
  unfold Tray.portRestart
  dsimp only
  rw [h, if_neg (by rw [hl]; exact Bool.false_ne_true), if_neg (by decide)]

/-- DIAG written to 1 where it was 0. -/
theorem Tray.trainCtl_diagnoses {t : Tray} {c e : Nat} {v : Word} (he : e < 64) (hu : (t.chip c).coreUp = true)
    (hd : t.pst c e ≠ S.DISABLED) (hl : t.live c e = false) (hwas : t.gf (portPg c e) F.PORT_TRAIN_CTL_DIAG = 0)
    (hv : F.PORT_TRAIN_CTL_DIAG.get v = 1) :
    t.Diagnosed c e (t.trainCtl c e trainCtlReg v (Origin.wr 0 A.PORT_TRAIN_CTL)) := by
  have hset := Tray.portDiag_diagnoses v he hd hl
  have hgo : t.trainCtl c e trainCtlReg v (Origin.wr 0 A.PORT_TRAIN_CTL) =
      ((t.trainCtlWritten c e v).sf (portPg c e) F.PORT_TRAIN_CTL_DIAG 0).portDiag c e true := by
    unfold Tray.trainCtl
    dsimp only
    rw [if_neg (by simp [hu]), hv, hwas, if_neg Nat.one_ne_zero]
    split
    · exact Tray.portRestart_diag hset.pst
    · rfl
  rw [hgo]
  exact hset

/-- PORT_DIAG, R146. -/
theorem portDiag_holds {s : State} {c : Fin 5} {e : Fin 64}
    (ha : s.tray.accepts c.val (0x010 + e.val) A.PORT_TRAIN_CTL = true) (hu : (s.tray.chip c.val).coreUp = true)
    (hd : s.tray.pst c.val e.val ≠ S.DISABLED) (hl : s.tray.live c.val e.val = false)
    (hwas : s.tray.is (portPg c.val e.val) F.PORT_TRAIN_CTL_DIAG = false) :
    Completes (.portDiag c e true) s (fun t =>
      t.tray.pst c.val e.val = S.DIAG ∧ t.tray.is (portPg c.val e.val) F.PORT_TRAIN_CTL_DIAG = true ∧
      s.tray.keepsRegs t.tray (portDown c.val e.val)) := by
  have he := e.isLt
  have hzero : s.tray.gf (portPg c.val e.val) F.PORT_TRAIN_CTL_DIAG = 0 := by
    have hlt := s.tray.gf_lt (portPg c.val e.val) F.PORT_TRAIN_CTL_DIAG (by decide)
    have hne : s.tray.gf (portPg c.val e.val) F.PORT_TRAIN_CTL_DIAG ≠ 1 := by simpa [Tray.is] using hwas
    simp only [F.PORT_TRAIN_CTL_DIAG] at hlt hne ⊢
    omega
  obtain ⟨hst, hdiag, hkeeps⟩ := Tray.trainCtl_diagnoses he hu hd hl hzero
    (v := F.PORT_TRAIN_CTL_DIAG.put (s.tray.rd (portPg c.val e.val) A.PORT_TRAIN_CTL) (b2n true))
    (Fld.get_put _ _ _ (by decide))
  exact completes_sweep (exec_portDiag ..) (Tray.write8_trainCtl _ c.isLt he ha hu) fun _ _ hside ht =>
    ⟨(ht.gf ..).trans ((hside.gf_portPg he _ (by decide)).trans hst),
      (Tray.is_iff ..).2 ((ht.gf ..).trans ((hside.gf_portPg he _ (by decide)).trans hdiag)),
      ht.keepsRegs (hside.keepsDown hkeeps)⟩

/-- Settles O26, by what the port's state is when PORT_TRAIN_CTL is written. -/
theorem operatorRestartsPorts : Obligations.OperatorRestartsPorts := fun _ _ _ ha hu =>
  ⟨portRestart_leaves ha hu, portRestart_startsAgain ha hu, portDiag_holds ha hu⟩

end Sys2Proof.Machine
end

section
/-! SUPPORT. Services of a cartridge: management transactions (R147), wear and its forecast (R137, R139), sparing (R138). -/
namespace Sys2Proof.Machine

theorem exec_cmisTransaction (b : Fin 40) (v : Word) (s : State) :
    exec (.cmisTransaction b v) s =
      .next (s.run (fun t => t.write8 0 (b.val / 8) (0x010 + 8 * (b.val % 8)) A.PORT_CMIS_CMD v)) := rfl
theorem exec_cmisDone (b : Fin 40) (r : CmisEnd) (s : State) :
    exec (.cmisDone b r) s = .next (s.run (fun t => t.cmisDone b.val r)) := rfl
theorem exec_wearRead (c : Fin 5) (n : Fin 256) (bias bol : BitVec 16) (hours : BitVec 32) (failed : Bool) (s : State) :
    exec (.wearRead c n bias bol hours failed) s =
      .next (s.runC c.val (fun t => t.wearRead c.val n.val bias.toNat bol.toNat hours.toNat failed)) := rfl
theorem exec_laneSpare (c : Fin 5) (e : Fin 64) (v : Word) (s : State) :
    exec (.laneSpare c e v) s = .next (s.run (fun t => t.write8 0 c.val (0x010 + e.val) A.PORT_SPARE v)) := rfl
theorem exec_wearForecast (b : Fin 40) (samples : List (List (Nat × Nat))) (s : State) :
    exec (.wearForecast b samples) s = .next (s.run (fun t => t.wearForecast b.val samples)) := rfl

/-- A command that changes the tray to one that ends with the notes of ended jobs of a settled space. -/
theorem completes_sweep_settled {i : Instr} {s : State} {P : State → Prop} {f : Tray → Tray} {u : Tray} {sp : Nat}
    (he : exec i s = .next (s.run f)) (hu : f s.tray = u.sweep sp) (hs : u.settled sp) (hP : ∀ t : State, t.Like u → P t) :
    Completes i s P := completes_run he (hu.trans (u.sweep_settled sp hs)) hP

/-! ### Management transactions -/

theorem Fld.get_and (f : Fld) (x m : Word) (hf : f.lo + f.w ≤ 64) (hm : ∀ i < f.w, m.getLsbD (f.lo + i) = true) :
    f.get (x &&& m) = f.get x := by
  refine Nat.eq_of_testBit_eq fun i => ?_
  rw [f.get_testBit _ hf, f.get_testBit _ hf, BitVec.getLsbD_and]
  by_cases hi : i < f.w
  · rw [hm i hi, Bool.and_true]
  · rw [decide_eq_false hi, Bool.false_and, Bool.false_and]

/-- What PORT_CMIS_CMD holds of a write: every field but GO. -/
def cmisStored (v : Word) : Word := v &&& BitVec.ofNat 64 0xFFFFFFF02

theorem cmisStored_write (v : Word) : F.PORT_CMIS_CMD_WRITE.get (cmisStored v) = F.PORT_CMIS_CMD_WRITE.get v :=
  Fld.get_and _ _ _ (by decide) (by decide)
theorem cmisStored_page (v : Word) : F.PORT_CMIS_CMD_PAGE.get (cmisStored v) = F.PORT_CMIS_CMD_PAGE.get v :=
  Fld.get_and _ _ _ (by decide) (by decide)
theorem cmisStored_addr (v : Word) : F.PORT_CMIS_CMD_ADDR.get (cmisStored v) = F.PORT_CMIS_CMD_ADDR.get v :=
  Fld.get_and _ _ _ (by decide) (by decide)
theorem cmisStored_len (v : Word) : F.PORT_CMIS_CMD_LEN.get (cmisStored v) = F.PORT_CMIS_CMD_LEN.get v :=
  Fld.get_and _ _ _ (by decide) (by decide)

/-- The transaction writes a control that the tray owns. -/
def cmisOwned (v : Word) : Prop :=
  F.PORT_CMIS_CMD_WRITE.get v = 1 ∧
    trayOwned (F.PORT_CMIS_CMD_PAGE.get v) (F.PORT_CMIS_CMD_ADDR.get v) (F.PORT_CMIS_CMD_LEN.get v) = true

theorem cmisStored_owned (v : Word) : cmisOwned (cmisStored v) ↔ cmisOwned v := by
  unfold cmisOwned
  rw [cmisStored_write, cmisStored_page, cmisStored_addr, cmisStored_len]

/-- The tray once the transaction is refused. -/
def Tray.cmisRefused (t : Tray) (b : Nat) (v : Word) : Tray :=
  (((t.wr (bayPg b) A.PORT_CMIS_CMD (cmisStored v)).sf (bayPg b) F.PORT_CMIS_STS_RESULT 3).sb (bayPg b) F.PORT_CMIS_STS_DONE
    true).raise (bayPg b) 22

/-- The tray once the transaction has started. -/
def Tray.cmisStarted (t : Tray) (b : Nat) (v : Word) : Tray :=
  ((((t.wr (bayPg b) A.PORT_CMIS_CMD (cmisStored v)).sb (bayPg b) F.PORT_CMIS_STS_BUSY true).sb (bayPg b) F.PORT_CMIS_STS_DONE
    false).modBay b (fun x => { x with cmis := some (cmisStored v) })).emit
    (.cmis b (cmisStored v) (t.rd (bayPg b) A.PORT_CMIS_DATA))

section
variable {t : Tray} {b : Nat} {v : Word} (o : Origin) (hbusy : t.is (bayPg b) F.PORT_CMIS_STS_BUSY = false)
  (hgo : F.PORT_CMIS_CMD_GO.get v = 1) (hlen : 1 ≤ F.PORT_CMIS_CMD_LEN.get v) (hlen' : F.PORT_CMIS_CMD_LEN.get v ≤ 8)
include hbusy hgo hlen hlen'

/-- A GO of a transaction of 1 to 8 bytes while none is in progress. -/
theorem Tray.cmisCmd_goes [Decidable (cmisOwned (cmisStored v))] :
    t.cmisCmd b v o = if cmisOwned (cmisStored v) then t.cmisRefused b v else t.cmisStarted b v := by
  have hgood : ¬ (F.PORT_CMIS_CMD_LEN.get v = 0 ∨ 8 < F.PORT_CMIS_CMD_LEN.get v) := by omega
  unfold Tray.cmisCmd
  dsimp only
  rw [if_neg (by simp [hbusy]), if_neg hgood, if_neg hgood, if_neg (by simp [hgo])]
  exact if_congr Iff.rfl rfl rfl

end

theorem Tray.cmisRefused_stays (t : Tray) (b : Nat) (v : Word) : t.Stays (t.cmisRefused b v)
    (fun q o => q = bayPg b ∧ (o = A.PORT_CMIS_CMD ∨ o = A.PORT_CMIS_STS ∨ o = 0x20)) :=
  (((((Tray.Stays.refl ..).wr _ ⟨rfl, .inl rfl⟩ (by decide)).sf _ ⟨rfl, .inr (.inl rfl)⟩ (by decide)).sb _
    ⟨rfl, .inr (.inl rfl)⟩ (by decide))).raise _ ⟨rfl, .inr (.inr rfl)⟩

theorem Tray.cmisStarted_keeps (t : Tray) (b : Nat) (v : Word) : t.keepsRegs (t.cmisStarted b v)
    (fun q o => q = bayPg b ∧ (o = A.PORT_CMIS_CMD ∨ o = A.PORT_CMIS_STS)) := by
  have hstay := (((Tray.Stays.refl t (fun q o => q = bayPg b ∧ (o = A.PORT_CMIS_CMD ∨ o = A.PORT_CMIS_STS))).wr
    (cmisStored v) ⟨rfl, .inl rfl⟩ (by decide)).sb (f := F.PORT_CMIS_STS_BUSY) true ⟨rfl, .inr rfl⟩ (by decide)).sb
    (f := F.PORT_CMIS_STS_DONE) false ⟨rfl, .inr rfl⟩ (by decide)
  exact Tray.keepsRegs_trans hstay.regs (Tray.keepsRegs_of rfl)

theorem pageKind_bayPg {b : Nat} (hb : b < 40) : pageKind (bayPg b) = some .port :=
  pageKind_portPg _ _ (by omega) (by omega)

theorem regExists_bayPg {b : Nat} (hb : b < 40) (o : Nat) : regExists (bayPg b) o = true := by
  have hmod : bayPg b % 4096 = 0x010 + 8 * (b % 8) := portPg_mod (by omega)
  have hlead : (bayPg b % 4096 - 0x010) % 8 = 0 := by omega
  unfold regExists
  rw [pageKind_bayPg hb, hlead]
  split
  · rfl
  · rw [if_neg (fun h => by cases h.1)]

theorem Tray.write8_cmisCmd {t : Tray} {b : Nat} (v : Word) (hb : b < 40)
    (ha : t.accepts (b / 8) (0x010 + 8 * (b % 8)) A.PORT_CMIS_CMD = true) (hu : (t.chip (b / 8)).coreUp = true) :
    t.write8 0 (b / 8) (0x010 + 8 * (b % 8)) A.PORT_CMIS_CMD v =
      (t.cmisCmd b v (Origin.wr 0 A.PORT_CMIS_CMD)).sweep (b / 8) := by
  have hbay : 8 * (b / 8) + 8 * (b % 8) / 8 = b := by omega
  obtain ⟨r, hr, hm⟩ : ∃ r, (blockRegs .port).find? (fun r => r.has A.PORT_CMIS_CMD) = some r ∧ r.rwsMask = 0 := ⟨_, rfl, rfl⟩
  refine Tray.write8_port (by omega) (by omega) ha (by decide) (by decide) (regExists_bayPg hb _) hr hm hu ?_
  rw [t.writeChip_port (by omega) (by omega), if_neg (by decide), if_neg (by decide), if_pos rfl, hbay]

/-- A port's page defines its interrupt bits 8 to 27. -/
theorem irqUp_portPg (t : Tray) {c e i : Nat} (hc : c < 5) (he : e < 64) (hi : 8 ≤ i) (hi' : i < 28) :
    (t.raise (portPg c e) i).irqUp (portPg c e) i := by
  refine t.irqUp_raise _ _ ?_ (by omega)
  have hmask : irqMask (portPg c e) = 0xFFFFF00 := by
    unfold irqMask
    rw [pageKind_portPg c e hc he]
  unfold irqDefined
  rw [hmask]
  interval_cases i <;> rfl

section
variable {s : State} {b : Fin 40} {v : Word}
  (ha : s.tray.accepts (b.val / 8) (0x010 + 8 * (b.val % 8)) A.PORT_CMIS_CMD = true)
  (hu : (s.tray.chip (b.val / 8)).coreUp = true) (hs : s.tray.settled (b.val / 8))
  (hbusy : s.tray.is (bayPg b.val) F.PORT_CMIS_STS_BUSY = false) (hgo : F.PORT_CMIS_CMD_GO.get v = 1)
  (hlen : 1 ≤ F.PORT_CMIS_CMD_LEN.get v) (hlen' : F.PORT_CMIS_CMD_LEN.get v ≤ 8)
include ha hu hs hbusy hgo hlen hlen'

/-- CMIS_TRANSACTION that writes a control of the tray, R147. -/
theorem cmisTransaction_refused (ho : cmisOwned v) :
    Completes (.cmisTransaction b v) s (fun t =>
      t.tray.gf (bayPg b.val) F.PORT_CMIS_STS_RESULT = 3 ∧ t.tray.is (bayPg b.val) F.PORT_CMIS_STS_DONE = true ∧
      t.tray.irqUp (bayPg b.val) 22 ∧
      s.tray.keepsRegs t.tray (fun q o => q = bayPg b.val ∧ (o = A.PORT_CMIS_CMD ∨ o = A.PORT_CMIS_STS ∨ o = 0x20)) ∧
      s.tray.keepsBlocks t.tray) := by
  classical
  have hcmd := (Tray.cmisCmd_goes (Origin.wr 0 A.PORT_CMIS_CMD) hbusy hgo hlen hlen').trans
    (if_pos ((cmisStored_owned v).2 ho))
  have hstay := s.tray.cmisRefused_stays b.val v
  refine completes_sweep_settled (exec_cmisTransaction ..) ((Tray.write8_cmisCmd v b.isLt ha hu).trans (by rw [hcmd]))
    (hstay.settled hs) fun t ht => ⟨?_, ?_, ht.irqUp (irqUp_portPg _ (by omega) (by omega) (by decide) (by decide)), ht.stays hstay⟩
  · rw [ht.gf]
    unfold Tray.cmisRefused
    simp (disch := decide) only [Tray.gf_raise_off, Tray.gf_sb_ne, Tray.gf_sf_self]
    rfl
  · rw [Tray.is_iff, ht.gf]
    unfold Tray.cmisRefused
    simp (disch := decide) only [Tray.gf_raise_off, Tray.gf_sb_self]
    rfl

/-- CMIS_TRANSACTION that starts, R147. -/
theorem cmisTransaction_starts (ho : ¬ cmisOwned v) :
    Completes (.cmisTransaction b v) s (fun t =>
      t.tray.is (bayPg b.val) F.PORT_CMIS_STS_BUSY = true ∧ (t.tray.bay b.val).cmis.isSome = true ∧
      s.tray.keepsRegs t.tray (fun q o => q = bayPg b.val ∧ (o = A.PORT_CMIS_CMD ∨ o = A.PORT_CMIS_STS))) := by
  classical
  have hcmd := (Tray.cmisCmd_goes (Origin.wr 0 A.PORT_CMIS_CMD) hbusy hgo hlen hlen').trans
    (if_neg (mt (cmisStored_owned v).1 ho))
  have hset : (s.tray.cmisStarted b.val v).settled (b.val / 8) := (Tray.settled_congr rfl _).2 hs
  refine completes_sweep_settled (exec_cmisTransaction ..) ((Tray.write8_cmisCmd v b.isLt ha hu).trans (by rw [hcmd]))
    hset fun t ht => ⟨?_, ?_, ht.keepsRegs (s.tray.cmisStarted_keeps b.val v)⟩
  · rw [Tray.is_iff, ht.gf]
    unfold Tray.cmisStarted
    rw [Tray.gf_emit, Tray.gf_modBay]
    simp (disch := decide) only [Tray.gf_sb_ne, Tray.gf_sb_self]
    rfl
  · rw [ht.bay]
    unfold Tray.cmisStarted
    rw [Tray.bay_emit, Tray.bay_modBay]
    rfl

end

/-- CMIS_DONE of a page that is not advertised, R147. -/
theorem cmisDone_ends {s : State} {b : Fin 40} {v : Word} (hv : (s.tray.bay b.val).cmis = some v) :
    Completes (.cmisDone b .pageNotAdvertised) s (fun t =>
      t.tray.is (bayPg b.val) F.PORT_CMIS_STS_BUSY = false ∧ t.tray.is (bayPg b.val) F.PORT_CMIS_STS_DONE = true ∧
      t.tray.gf (bayPg b.val) F.PORT_CMIS_STS_RESULT = 2 ∧ t.tray.irqUp (bayPg b.val) 22 ∧
      (t.tray.bay b.val).cmis = none ∧
      s.tray.keepsRegs t.tray (fun q o => q = bayPg b.val ∧ (o = A.PORT_CMIS_STS ∨ o = 0x20))) := by
  let w := s.tray.modBay b.val (fun x => { x with cmis := none })
  have hgo : s.tray.cmisDone b.val .pageNotAdvertised = (((w.sb (bayPg b.val) F.PORT_CMIS_STS_BUSY false).sb (bayPg b.val)
      F.PORT_CMIS_STS_DONE true).sf (bayPg b.val) F.PORT_CMIS_STS_RESULT 2).raise (bayPg b.val) 22 := by
    unfold Tray.cmisDone
    rw [hv]
  have hstay : w.Stays _ (fun q o => q = bayPg b.val ∧ (o = A.PORT_CMIS_STS ∨ o = 0x20)) :=
    ((((Tray.Stays.refl ..).sb (f := F.PORT_CMIS_STS_BUSY) false ⟨rfl, .inl rfl⟩ (by decide)).sb
      (f := F.PORT_CMIS_STS_DONE) true ⟨rfl, .inl rfl⟩ (by decide)).sf (f := F.PORT_CMIS_STS_RESULT) 2 ⟨rfl, .inl rfl⟩
      (by decide)).raise 22 ⟨rfl, .inr rfl⟩
  refine completes_run (exec_cmisDone ..) hgo fun t ht => ⟨?_, ?_, ?_, ht.irqUp
    (irqUp_portPg _ (by omega) (by omega) (by decide) (by decide)), ?_,
    ht.keepsRegs (Tray.keepsRegs_trans (Tray.keepsRegs_of rfl) hstay.regs)⟩
  · rw [ht.is]
    unfold Tray.is
    simp (disch := decide) only [Tray.gf_raise_off, Tray.gf_sf_ne, Tray.gf_sb_ne, Tray.gf_sb_self]
    rfl
  · rw [Tray.is_iff, ht.gf]
    simp (disch := decide) only [Tray.gf_raise_off, Tray.gf_sf_ne, Tray.gf_sb_self]
    rfl
  · rw [ht.gf]
    simp (disch := decide) only [Tray.gf_raise_off, Tray.gf_sf_self]
    rfl
  · have hbays : ∀ u : Tray, u.bays = w.bays → (u.bay b.val).cmis = none := fun u hu => by
      have hbay : u.bay b.val = w.bay b.val := by
        unfold Tray.bay
        rw [hu]
      rw [hbay, Tray.bay_modBay]
    rw [ht.bay]
    exact hbays _ hstay.blocks.2.2.2.1

/-! ### Wear -/

section
variable (t : Tray) (c n : Nat) (bias bol hours : Nat)

/-- What a reading shows of a lane. -/
def Tray.wearShown : Tray :=
  ((t.sf (lanePg c n) F.LANE_WEAR_RATIO (satTo 65535 (bias * 1024 / bol))).sf (lanePg c n) F.LANE_WEAR_BIAS bias).sf
    (lanePg c n) F.LANE_WEAR_HOURS hours

/-- A lane with a reading below the end of its life. -/
def LaneSt.worns (l : LaneSt) (bias bol : Nat) : LaneSt :=
  { l with worn := decide (13 * bol ≤ 10 * bias), eol := false, noSpare := l.noSpare }

/-- The lane keeps a reading below the end of its life. -/
def Tray.wearLane : Tray := (t.wearShown c n bias bol hours).setLane c n ((t.lane c n).worns bias bol)

/-- The port's alarms follow. -/
def Tray.wearKept : Tray := (t.wearLane c n bias bol hours).wearAlarms c (n / 4)

theorem Tray.wearShown_stays : t.Stays (t.wearShown c n bias bol hours) (portArea c (n / 4)) :=
  ((((Tray.Stays.refl ..).sf _ (portArea_lane rfl _) (by decide)).sf _ (portArea_lane rfl _) (by decide))).sf _
    (portArea_lane rfl _) (by decide)

/-- The alarms of a port. -/
def alarmReg (c e q o : Nat) : Prop := q = portPg c e ∧ (o = A.PORT_ALARM ∨ o = 0x20)

theorem Tray.wearAlarms_stays (e : Nat) : t.Stays (t.wearAlarms c e) (alarmReg c e) := by
  unfold Tray.wearAlarms
  exact ((Tray.setAlarm_stays ..).trans (Tray.setAlarm_stays ..)).trans (Tray.setAlarm_stays ..)

theorem Tray.wearKept_stays :
    (t.wearLane c n bias bol hours).Stays (t.wearKept c n bias bol hours) (alarmReg c (n / 4)) := Tray.wearAlarms_stays ..

theorem Tray.wearKept_staysBut (hn : n < 256) : t.StaysBut (t.wearKept c n bias bol hours) c (n / 4) (portArea c (n / 4)) := by
  have hlane := ((Tray.StaysBut.refl t c (n / 4) _).stays (t.wearShown_stays c n bias bol hours)).setLane (by omega) rfl
    ((t.lane c n).worns bias bol)
  exact hlane.stays ((t.wearKept_stays c n bias bol hours).mono fun _ o h => h.1 ▸ portArea_port c (n / 4) o)

/-- The alarms leave the registers of the lane. -/
theorem Tray.wearKept_gf (hn : n < 256) (f : Fld) (hf : f.off < 4096) :
    (t.wearKept c n bias bol hours).gf (lanePg c n) f = (t.wearShown c n bias bol hours).gf (lanePg c n) f := by
  have halarm := Tray.keepsRegs_gf (t.wearKept_stays c n bias bol hours).regs (lanePg c n) f hf
    fun h => portPg_ne_lanePg c (n / 4) n (by omega) h.1.symm
  unfold Tray.wearLane at halarm
  exact halarm.trans (Tray.gf_setLane ..)

theorem Tray.wearKept_lane : (t.wearKept c n bias bol hours).lane c n = (t.lane c n).worns bias bol := by
  have hlanes := (t.wearKept_stays c n bias bol hours).blocks.2.2.1
  have hlane : (t.wearKept c n bias bol hours).lane c n = (t.wearLane c n bias bol hours).lane c n := by
    unfold Tray.lane
    rw [hlanes]
  exact hlane.trans (Tray.lane_setLane ..)

end

/-- A reading below 1.5 times the bias at the start of life. -/
theorem Tray.wearRead_keeps {t : Tray} {c n bias bol hours : Nat} (hty : t.cartType c (n / 4) = 3)
    (hst : t.cartState c (n / 4) = 3) (hcmis : (t.bay (bayOf c (n / 4))).cmisFail = false) (hbol : bol ≠ 0)
    (heol : 2 * bias < 3 * bol) :
    ∃ u, t.wearRead c n bias bol hours false = u ∧
      (u = t.wearKept c n bias bol hours ∨
        ∃ data, u = (t.wearKept c n bias bol hours).logChip .wear c data) := by
  have hno : decide (3 * bol ≤ 2 * bias) = false := decide_eq_false (by omega)
  refine ⟨_, rfl, ?_⟩
  unfold Tray.wearRead
  dsimp only
  rw [if_neg (by simp [hty, hst, hcmis]), if_neg hbol, if_neg hbol, if_neg hbol, hno]
  simp only [Bool.false_and, Bool.or_false, Bool.false_or, Bool.false_eq_true, false_and, if_false]
  split
  · exact .inr ⟨_, rfl⟩
  · exact .inl rfl

/-- WEAR_READ, R137. -/
theorem wearRead_shows {s : State} {c : Fin 5} {n : Fin 256} {bias bol : BitVec 16} {hours : BitVec 32}
    (hs : s.tray.settled c.val) (hty : s.tray.cartType c.val (n.val / 4) = 3) (hst : s.tray.cartState c.val (n.val / 4) = 3)
    (hcmis : (s.tray.bay (bayOf c.val (n.val / 4))).cmisFail = false) (hbol : bol ≠ 0)
    (heol : 2 * bias.toNat < 3 * bol.toNat) :
    Completes (.wearRead c n bias bol hours false) s (fun t =>
      t.tray.gf (lanePg c.val n.val) F.LANE_WEAR_BIAS = bias.toNat ∧
      t.tray.gf (lanePg c.val n.val) F.LANE_WEAR_RATIO = min 65535 (bias.toNat * 1024 / bol.toNat) ∧
      t.tray.gf (lanePg c.val n.val) F.LANE_WEAR_HOURS = hours.toNat ∧
      (t.tray.lane c.val n.val).worn = decide (13 * bol.toNat ≤ 10 * bias.toNat) ∧
      (t.tray.lane c.val n.val).eol = false ∧
      s.tray.keepsRegs t.tray (portArea c.val (n.val / 4)) ∧ s.tray.keepsOtherPorts t.tray c.val (n.val / 4)) := by
  have hn := n.isLt
  have hbol' : bol.toNat ≠ 0 := fun h => hbol (BitVec.eq_of_toNat_eq h)
  obtain ⟨u, hgo, hu⟩ := Tray.wearRead_keeps (hours := hours.toNat) hty hst hcmis hbol' heol
  let k := s.tray.wearKept c.val n.val bias.toNat bol.toNat hours.toNat
  have hstay : s.tray.StaysBut u c.val (n.val / 4) (portArea c.val (n.val / 4)) := by
    have hk := s.tray.wearKept_staysBut c.val n.val bias.toNat bol.toNat hours.toNat hn
    rcases hu with rfl | ⟨data, rfl⟩
    · exact hk
    · exact hk.stays ((Tray.Stays.refl ..).logChip _ _ _)
  have hgf : ∀ f, u.gf (lanePg c.val n.val) f = k.gf (lanePg c.val n.val) f := fun f => by
    rcases hu with rfl | ⟨data, rfl⟩ <;> rfl
  have hlane : u.lane c.val n.val = k.lane c.val n.val := by rcases hu with rfl | ⟨data, rfl⟩ <;> rfl
  refine completes_runC (exec_wearRead ..) hgo (hstay.settled hs) fun t ht => ⟨?_, ?_, ?_, ?_, ?_, ht.staysBut hstay⟩
  · rw [ht.gf, hgf, Tray.wearKept_gf _ _ _ _ _ _ hn _ (by decide)]
    unfold Tray.wearShown
    simp (disch := decide) only [Tray.gf_sf_ne, Tray.gf_sf_self]
    exact Nat.mod_eq_of_lt bias.isLt
  · rw [ht.gf, hgf, Tray.wearKept_gf _ _ _ _ _ _ hn _ (by decide)]
    unfold Tray.wearShown
    simp (disch := decide) only [Tray.gf_sf_ne, Tray.gf_sf_self]
    generalize bias.toNat * 1024 / bol.toNat = r
    unfold satTo F.LANE_WEAR_RATIO
    split <;> dsimp only <;> omega
  · rw [ht.gf, hgf, Tray.wearKept_gf _ _ _ _ _ _ hn _ (by decide)]
    unfold Tray.wearShown
    simp (disch := decide) only [Tray.gf_sf_self]
    exact Nat.mod_eq_of_lt hours.isLt
  · rw [ht.lane, hlane, Tray.wearKept_lane]
    rfl
  · rw [ht.lane, hlane, Tray.wearKept_lane]
    rfl

/-- WEAR_FORECAST, R139. -/
theorem wearForecast_keepsWorst {s : State} {b : Fin 40} (samples : List (List (Nat × Nat)))
    (hty : s.tray.gf (bayPg b.val) F.PORT_CART_TYPE = 3) :
    Completes (.wearForecast b samples) s (fun t =>
      (t.tray.bay b.val).worst = maxL (samples.map (fun l => ((l.getLast?).map (fun a => a.2)).getD 0)) ∧
      s.tray.keepsRegs t.tray (fun _ _ => False)) := by
  refine completes_run (exec_wearForecast ..) (if_neg (not_not.2 hty)) fun t ht =>
    ⟨?_, ht.keepsRegs (Tray.keepsRegs_of rfl)⟩
  rw [ht.bay, Tray.bay_modBay]

/-! ### Sparing -/

/-- Sparing that ends at once with result `r`; the page shows the lane asked for. -/
def Tray.spareEnded (t : Tray) (c e j r : Nat) : Tray :=
  ((t.sf (portPg c e) F.PORT_SPARE_LANE j).sf (portPg c e) F.PORT_SPARE_RESULT r).raise (portPg c e) 23

theorem Tray.laneSpare_ends {t : Tray} {c e r : Nat} {v : Word} (o : Origin) (hgo : F.PORT_SPARE_GO.get v = 1)
    (hbusy : t.is (portPg c e) F.PORT_SPARE_BUSY = false) (hr : r = if t.cartType c e ≠ 3 then 3 else 2)
    (hspare : t.cartType c e = 3 → t.spareFree c e = false) :
    t.laneSpare c e v o = t.spareEnded c e (F.PORT_SPARE_LANE.get v) r := by
  have hj : F.PORT_SPARE_LANE.get v < 4 := Fld.get_lt F.PORT_SPARE_LANE v (by decide)
  have hport : (4 * e + F.PORT_SPARE_LANE.get v) / 4 = e := by omega
  have hty : ∀ x, (t.sf (portPg c e) F.PORT_SPARE_LANE x).cartType c e = t.cartType c e :=
    fun x => Tray.gf_sf_off _ _ _ _ _ _ (by decide)
  have hfree : ∀ x, (t.sf (portPg c e) F.PORT_SPARE_LANE x).spareFree c e = t.spareFree c e :=
    fun x => congrArg (bitOf · _) (Tray.gf_sf_off _ _ _ _ _ _ (by decide))
  unfold Tray.laneSpare
  dsimp only
  rw [if_neg (by simp [hbusy]), if_pos hgo]
  unfold Tray.startSpare
  dsimp only
  rw [hport, hty, hfree, hr]
  by_cases h3 : t.cartType c e = 3
  · rw [if_neg (not_not.2 h3), if_neg (not_not.2 h3), if_pos (by simp [hspare h3])]
    rfl
  · rw [if_pos h3, if_pos h3]
    rfl

theorem Tray.spareEnded_stays (t : Tray) (c e j r : Nat) :
    t.Stays (t.spareEnded c e j r) (fun q o => q = portPg c e ∧ (o = A.PORT_SPARE ∨ o = 0x20)) :=
  ((((Tray.Stays.refl ..).sf _ ⟨rfl, .inl rfl⟩ (by decide)).sf _ ⟨rfl, .inl rfl⟩ (by decide))).raise _ ⟨rfl, .inr rfl⟩

theorem Tray.write8_laneSpare {t : Tray} {c e : Nat} (v : Word) (hc : c < 5) (he : e < 64)
    (ha : t.accepts c (0x010 + e) A.PORT_SPARE = true) (hu : (t.chip c).coreUp = true) :
    t.write8 0 c (0x010 + e) A.PORT_SPARE v = (t.laneSpare c e v (Origin.wr 0 A.PORT_SPARE)).sweep c := by
  obtain ⟨r, hr, hm⟩ : ∃ r, (blockRegs .port).find? (fun r => r.has A.PORT_SPARE) = some r ∧ r.rwsMask = 0 := ⟨_, rfl, rfl⟩
  refine Tray.write8_port hc he ha (by decide) (by decide) ?_ hr hm hu ?_
  · unfold regExists
    rw [if_neg (fun h => absurd h.2.1 (by decide)), if_neg (fun h => absurd h.2 (by decide))]
  · rw [t.writeChip_port hc he, if_neg (by decide), if_pos rfl]

/-- LANE_SPARE that is not performed, R138. -/
theorem laneSpare_ends {s : State} {c : Fin 5} {e : Fin 64} {v : Word}
    (ha : s.tray.accepts c.val (0x010 + e.val) A.PORT_SPARE = true) (hu : (s.tray.chip c.val).coreUp = true)
    (hs : s.tray.settled c.val) (hgo : F.PORT_SPARE_GO.get v = 1)
    (hbusy : s.tray.is (portPg c.val e.val) F.PORT_SPARE_BUSY = false) {r : Nat}
    (hr : r = if s.tray.cartType c.val e.val ≠ 3 then 3 else 2)
    (hspare : s.tray.cartType c.val e.val = 3 → s.tray.spareFree c.val e.val = false) :
    Completes (.laneSpare c e v) s (fun t =>
      t.tray.gf (portPg c.val e.val) F.PORT_SPARE_RESULT = r ∧ t.tray.irqUp (portPg c.val e.val) 23 ∧
      s.tray.keepsRegs t.tray (fun q o => q = portPg c.val e.val ∧ (o = A.PORT_SPARE ∨ o = 0x20)) ∧
      s.tray.keepsBlocks t.tray) := by
  have hends := Tray.laneSpare_ends (Origin.wr 0 A.PORT_SPARE) hgo hbusy hr hspare
  have hstay := s.tray.spareEnded_stays c.val e.val (F.PORT_SPARE_LANE.get v) r
  refine completes_sweep_settled (exec_laneSpare ..) ((Tray.write8_laneSpare v c.isLt e.isLt ha hu).trans (by rw [hends]))
    (hstay.settled hs) fun t ht =>
      ⟨?_, ht.irqUp (irqUp_portPg _ c.isLt e.isLt (by decide) (by decide)), ht.stays hstay⟩
  rw [ht.gf]
  unfold Tray.spareEnded
  simp (disch := decide) only [Tray.gf_raise_off, Tray.gf_sf_self]
  refine Nat.mod_eq_of_lt (lt_of_le_of_lt (b := 3) ?_ (by decide))
  rw [hr]
  split <;> decide

/-- Settles O25, service by service. -/
theorem cartridgeServices : Obligations.CartridgeServices := by
  intro s b pg
  refine ⟨fun v ha hu hs hbusy hgo hlen hlen' => ⟨?refused, ?started⟩, fun v => cmisDone_ends, fun c n bias bol hours =>
    wearRead_shows, fun c e v ha hu hs hgo hbusy r => laneSpare_ends ha hu hs hgo hbusy, fun samples =>
    wearForecast_keepsWorst samples⟩
  case refused => exact cmisTransaction_refused ha hu hs hbusy hgo hlen hlen'
  case started => exact cmisTransaction_starts ha hu hs hbusy hgo hlen hlen'

end Sys2Proof.Machine
end

section
/-! SUPPORT. What dropping traffic of a chip leaves beside what `TrafficSide` states: the registers of the cartridge and of dropped
codewords on the ports' pages, and the Dealers of the other chips. -/
namespace Sys2Proof.Machine

/-! ### Jobs of a chip change its own Dealer alone -/

/-- Among the Dealers `u` differs from `t` in that of chip `c` at most. -/
structure Tray.OneDealer (c : Nat) (t u : Tray) : Prop where
  others : ∀ d, d ≠ c → u.dealer d = t.dealer d

namespace Tray.OneDealer
variable {c : Nat} {t u v : Tray}

theorem refl (c : Nat) (t : Tray) : OneDealer c t t := ⟨fun _ _ => rfl⟩

theorem trans (a : OneDealer c t u) (b : OneDealer c u v) : OneDealer c t v :=
  ⟨fun d hd => (b.others d hd).trans (a.others d hd)⟩

theorem of_eq (h : u.dealers = t.dealers) : OneDealer c t u := ⟨fun d _ => by unfold Tray.dealer; rw [h]⟩

theorem each {α : Type} (l : List α) (f : Tray → α → Tray) (h : ∀ w a, OneDealer c w (f w a)) (t : Tray) :
    OneDealer c t (t.each l f) :=
  Tray.each_keeps (OneDealer c t) f l (fun w a _ hw => hw.trans (h w a)) t (refl c t)

theorem ite {p : Prop} [Decidable p] {a b : Tray} (ha : OneDealer c t a) (hb : OneDealer c t b) :
    OneDealer c t (if p then a else b) := by split <;> assumption

theorem modDealer (c : Nat) (t : Tray) (f : DealerSt → DealerSt) : OneDealer c t (t.modDealer c f) :=
  ⟨fun _ hd => Assoc.get_set_ne _ _ _ _ hd⟩

theorem settled (h : OneDealer c t u) {d : Nat} (hd : d ≠ c) (hs : t.settled d) : u.settled d := by
  unfold Tray.settled Tray.slot at hs ⊢
  rw [h.others d hd]
  exact hs

theorem wr (t : Tray) (pg o : Nat) (x : Word) : OneDealer c t (t.wr pg o x) := of_eq rfl

theorem sf (t : Tray) (pg : Nat) (f : Fld) (x : Nat) : OneDealer c t (t.sf pg f x) := of_eq rfl

theorem raise (t : Tray) (pg b : Nat) : OneDealer c t (t.raise pg b) := of_eq (Tray.raise_dealers ..)

theorem charge (t : Tray) (m k n : Nat) : OneDealer c t (t.charge c m k n) := by
  refine of_eq ?_
  unfold Tray.charge
  split
  · rfl
  · rw [Tray.counterEnergy_dealers, Tray.each_same (fun w => w.dealers) _ _ (fun w i _ => w.watchCount_dealers c m k n i),
      Tray.wr_dealers]

theorem noteFault (t : Tray) (m : Nat) (f : Flt) : OneDealer c t (t.noteFault c m f) := by
  unfold Tray.noteFault
  split
  · have h1 : OneDealer c t ((t.charge c m N.LAYOUT_FAULT 1).cnt (xltPg c) F.XLT_TLB_FAULTS 1) := (charge ..).trans (sf ..)
    exact (ite h1 ((h1.trans (wr ..)).trans (wr ..))).trans (raise ..)
  · exact charge t m _ _
  · exact refl c t

theorem writeBytes (t : Tray) (d : Nat) (v : Via) (addr : Nat) (l : List Byte) : OneDealer c t (t.writeBytes d v addr l).2 := by
  induction l generalizing t addr with
  | nil => exact refl c t
  | cons b l ih =>
    unfold Tray.writeBytes
    split
    · exact refl c t
    · exact (of_eq rfl : OneDealer c t (t.memPut _ b)).trans (ih _ _)

theorem setDesc (t : Tray) (s : Nat) (x : DescSt) : OneDealer c t (t.setDesc c s x) := modDealer ..

theorem setInbox (t : Tray) (i : Nat) (x : InboxSt) : OneDealer c t (t.setInbox c i x) := modDealer ..

theorem modSlot (t : Tray) (j : Nat) (f : SlotSt → SlotSt) : OneDealer c t (t.modSlot c j f) :=
  modDealer c t (fun x => { x with slots := Assoc.set (fun _ => {}) x.slots j (f (t.slot c j)) })

theorem reapDesc (t : Tray) (s : Nat) : OneDealer c t (t.reapDesc c s) := by
  unfold Tray.reapDesc Tray.freeDesc
  exact ite (ite ((setDesc ..).trans (setDesc ..)) (setDesc ..)) (refl c t)

theorem destroyDesc (t : Tray) (s : Nat) : OneDealer c t (t.destroyDesc c s) := by
  unfold Tray.destroyDesc
  exact (ite ((setDesc ..).trans (setDesc ..)) (setDesc ..)).trans (reapDesc ..)

theorem dropJobDescs (t : Tray) (j : Nat) : OneDealer c t (t.dropJobDescs c j) :=
  each _ _ (fun _ _ => ite ((setDesc ..).trans (destroyDesc ..)) ((setDesc ..).trans (reapDesc ..))) t

/-- A write by the Dealer whose fault, if any, is noted. -/
theorem storeNoted (t : Tray) (v : Via) (addr : Nat) (l : List Byte) (m : Nat) :
    OneDealer c t (match (t.writeBytes c v addr l).1 with
      | some f => (t.writeBytes c v addr l).2.noteFault c m f
      | none => (t.writeBytes c v addr l).2) := by
  split
  · exact (writeBytes ..).trans (noteFault ..)
  · exact writeBytes ..

theorem recordDone (t : Tray) (i e : Nat) (b : Bool) : OneDealer c t (t.recordDone c i e b) := by
  unfold Tray.recordDone
  dsimp only
  split
  · exact refl c t
  · refine trans ?_ (setInbox ..)
    split
    · exact noteFault ..
    · exact storeNoted ..

theorem inStore (t : Tray) (i e : Nat) (p : Pkt) : OneDealer c t (t.inStore c i e p) := by
  unfold Tray.inStore
  extract_lets x n cur have_ close data w t1 a t2
  have hstore : OneDealer c t t1 := storeNoted ..
  exact ite ((setInbox ..).trans (sf ..)) (ite ((hstore.trans (setInbox ..)).trans (recordDone ..))
    (hstore.trans (setInbox ..)))

theorem inResume (i n : Nat) (t : Tray) : OneDealer c t (t.inResume c i n) := by
  induction n generalizing t with
  | zero => exact refl c t
  | succ n ih =>
    unfold Tray.inResume
    dsimp only
    split
    · exact ((setInbox ..).trans (inStore ..)).trans (ih _)
    · exact refl c t

theorem inReturn (t : Tray) (i : Nat) : OneDealer c t (t.inReturn c i) := by
  unfold Tray.inReturn
  dsimp only
  split
  · exact refl c t
  · exact (((destroyDesc ..).trans (setInbox ..)).trans (sf ..)).trans (inResume ..)

theorem jobEnd (t : Tray) (j st detail : Nat) : OneDealer c t (t.jobEnd c j st detail) := by
  unfold Tray.jobEnd
  extract_lets pg m s t1 t2 t3 t4 t5 t6
  have h2 : OneDealer c t t2 := ((((sf ..).trans (sf ..)).trans (sf ..)).trans (sf ..)).trans (raise ..)
  have h3 : OneDealer c t t3 := h2.trans (each _ _ (fun _ _ => inReturn ..) _)
  have h5 : OneDealer c t t5 := ((h3.trans (modDealer ..)).trans (dropJobDescs ..)).trans (modDealer ..)
  have h6 : OneDealer c t t6 := ite h5 (h5.trans (charge ..))
  exact ite (h6.trans (of_eq rfl)) h6

theorem jobFault (t : Tray) (j : Nat) (f : Flt) : OneDealer c t (t.jobFault c j f) := by
  unfold Tray.jobFault
  refine (noteFault t (t.jobSeat c j) f).trans ?_
  split <;> exact jobEnd ..

theorem slotWait (t : Tray) (j : Nat) (w : SlotWait) : OneDealer c t (t.slotWait c j w) := by
  unfold Tray.slotWait
  exact ((modSlot ..).trans (sf ..)).trans (modDealer ..)

theorem retire (t : Tray) (j : Nat) (w : BitVec 512) : OneDealer c t (t.retire c j w) := by
  unfold Tray.retire
  extract_lets t1 t2
  have h1 : OneDealer c t t1 := ((sf ..).trans (sf ..)).trans (charge ..)
  have h2 : OneDealer c t t2 := ite (h1.trans (sf ..)) h1
  exact (h2.trans (slotWait ..)).trans (modSlot ..)

theorem dealerSweep (t : Tray) : OneDealer c t (t.dealerSweep c) := by
  unfold Tray.dealerSweep
  refine each _ _ (fun w j => ?_) _
  split
  · split
    · split
      · exact jobFault ..
      · exact retire ..
    · exact jobEnd ..
  · exact refl c w

end Tray.OneDealer

/-! ### Dropping traffic -/

/-- A register of a port's page that dropping traffic leaves: PORT_CW_DROP and the cartridge's. -/
def cartReg (q o : Nat) : Prop := 0x010 ≤ q % 4096 ∧ q % 4096 < 0x050 ∧ 0x138 ≤ o ∧ o < 0x200

/-- `u` keeps of `t` the registers of codewords dropped and of cartridges, and the Dealers of the chips other than `c`. -/
structure DropSide (c : Nat) (t u : Tray) : Prop where
  cart : ∀ q o, cartReg q o → u.rd q o = t.rd q o
  dealers : Tray.OneDealer c t u

theorem not_cartReg_off (q : Nat) {o : Nat} (h : o < 0x138 ∨ 0x200 ≤ o) : ¬ cartReg q o := by unfold cartReg; omega

theorem not_cartReg_pg (c : Nat) {p : Nat} (o : Nat) (hp : p < 4096) (h : 0x050 ≤ p) : ¬ cartReg (chipPg c p) o := by
  unfold cartReg chipPg
  omega

theorem not_cartReg_tblPg (c : Nat) {tb : Nat} (o : Nat) (h : tb < 256) : ¬ cartReg (tblPg c tb) o :=
  not_cartReg_pg c o (by omega) (by omega)

namespace DropSide
variable {c : Nat} {t u v : Tray}

theorem refl (c : Nat) (t : Tray) : DropSide c t t := ⟨fun _ _ _ => rfl, .refl c t⟩

theorem trans (a : DropSide c t u) (b : DropSide c u v) : DropSide c t v :=
  ⟨fun q o h => (b.cart q o h).trans (a.cart q o h), a.dealers.trans b.dealers⟩

theorem each {α : Type} (l : List α) (f : Tray → α → Tray) (h : ∀ w a, a ∈ l → DropSide c w (f w a)) (t : Tray) :
    DropSide c t (t.each l f) := Tray.each_keeps (DropSide c t) f l (fun w a ha hw => hw.trans (h w a ha)) t (refl c t)

theorem ite {p : Prop} [Decidable p] {a b : Tray} (ha : DropSide c t a) (hb : DropSide c t b) :
    DropSide c t (if p then a else b) := by split <;> assumption

theorem of_eq (hr : u.regs = t.regs) (hd : u.dealers = t.dealers) : DropSide c t u :=
  ⟨fun q o _ => Tray.rd_congr hr q o, .of_eq hd⟩

/-- What jobs write is no register of a port. -/
theorem of_job (h : JobSide c t u) (hd : Tray.OneDealer c t u) : DropSide c t u :=
  ⟨fun q o hq => h.keeps q o (by unfold cartReg at hq; omega) (.inl (by unfold cartReg at hq; unfold jobFree; omega)), hd⟩

theorem sf (c : Nat) (t : Tray) {pg : Nat} {f : Fld} (x : Nat) (h : ¬ cartReg pg f.off) (ho : f.off < 4096) :
    DropSide c t (t.sf pg f x) :=
  ⟨fun q o hq => (Tray.rd_wr ..).trans (if_neg fun hk => h (by
    obtain ⟨rfl, rfl⟩ := (regKey_inj (by unfold cartReg at hq; omega) ho).1 hk
    exact hq)), .of_eq rfl⟩

theorem raise (c : Nat) (t : Tray) (pg b : Nat) : DropSide c t (t.raise pg b) :=
  ⟨fun q o hq => Tray.rd_raise _ _ _ _ _ (by
    rw [Ne, regKey_inj (by unfold cartReg at hq; omega) (by decide)]
    exact fun h => not_cartReg_off q (.inl (by rw [h.2]; decide)) hq), .of_eq (Tray.raise_dealers ..)⟩

theorem modPort (c : Nat) (t : Tray) (d e : Nat) (f : PortSt → PortSt) : DropSide c t (t.modPort d e f) := of_eq rfl rfl

theorem modChip (c : Nat) (t : Tray) (d : Nat) (f : ChipSt → ChipSt) : DropSide c t (t.modChip d f) := of_eq rfl rfl

theorem modTable (c : Nat) (t : Tray) (d tb : Nat) (f : TableSt → TableSt) : DropSide c t (t.modTable d tb f) := of_eq rfl rfl

theorem setTable (c : Nat) (t : Tray) (d tb : Nat) (x : TableSt) : DropSide c t (t.setTable d tb x) := of_eq rfl rfl

theorem modLane (c : Nat) (t : Tray) (d n : Nat) (f : LaneSt → LaneSt) : DropSide c t (t.modLane d n f) := of_eq rfl rfl

theorem modDealer (c : Nat) (t : Tray) (f : DealerSt → DealerSt) : DropSide c t (t.modDealer c f) :=
  ⟨fun _ _ _ => rfl, .modDealer ..⟩

theorem charge (t : Tray) {m k : Nat} (n : Nat) (hm : m < 64) (hk : k < 31) : DropSide c t (t.charge c m k n) :=
  of_job (JobSide.charge c t m k n hm hk) (.charge ..)

/-! The switch core. -/

theorem modPkt (c : Nat) (t : Tray) (d id : Nat) (f : CorePkt → CorePkt) : DropSide c t (t.modPkt d id f) := of_eq rfl rfl

theorem updResv (c : Nat) (t : Tray) (e : Nat) : DropSide c t (t.updResv c e) := by
  have hwait : ∀ (w : Tray) (x : Nat), DropSide c w (w.sf (portPg c e) F.PORT_FC_STS_HDRM_WAIT x) :=
    fun w x => sf c w x (not_cartReg_off _ (by decide)) (by decide)
  unfold Tray.updResv
  exact ite (hwait t _) ((modPort ..).trans (hwait _ _))

theorem discard (c : Nat) (t : Tray) (id : Nat) : DropSide c t (t.discard c id) := by
  unfold Tray.discard
  split
  · exact refl c t
  · exact (modPkt ..).trans (updResv ..)

theorem coreLost (c : Nat) (t : Tray) (id : Nat) : DropSide c t (t.coreLost c id) := by
  unfold Tray.coreLost
  split
  · exact refl c t
  · exact ite (refl c t) (discard c t id)

theorem countDown (t : Tray) (f : Nat) {m : Nat} (hm : m < 64) : DropSide c t (t.countDown c f m) := by
  unfold Tray.countDown
  refine (sf c t _ (not_cartReg_pg c _ (by omega) (by omega)) ?_).trans (charge _ 1 hm (by decide))
  show 0x118 + 0x20 * (f % 8) < 4096
  omega

theorem countMember (t : Tray) {m : Nat} (n : Nat) (hm : m < 64) : DropSide c t (t.countMember c m n) :=
  (sf c t _ (not_cartReg_pg c (p := 0x061) _ (by decide) (by decide)) (by decide)).trans (charge _ n hm (by decide))

theorem flushOutput (t : Tray) (f : Nat) : DropSide c t (t.flushOutput c f) := by
  unfold Tray.flushOutput
  extract_lets hit res t1 t2 t3
  have h1 : DropSide c t t1 := each hit _ (fun w p _ => countDown w f (TrafficSide.seat_lt p)) t
  have h2 : DropSide c t t2 := h1.trans (each res _ (fun w p _ => countMember w 1 (TrafficSide.seat_lt p)) _)
  have h3 : DropSide c t t3 := h2.trans (modChip ..)
  exact h3.trans (each _ _ (fun w e _ => ite (refl c w) (updResv ..)) _)

theorem flushInput (t : Tray) (e : Nat) : DropSide c t (t.flushInput c e) := by
  unfold Tray.flushInput
  extract_lets hit t1
  have h1 : DropSide c t t1 :=
    each hit _ (fun w p _ => each _ _ (fun x f _ => countDown x f (TrafficSide.seat_lt p)) w) t
  exact h1.trans (each hit _ (fun w p _ => discard c w p.id) _)

theorem stormEnd (t : Tray) (e : Nat) : DropSide c t (t.stormEnd c e) := by
  unfold Tray.stormEnd
  exact ite (refl c t) (sf c t _ (not_cartReg_off _ (by decide)) (by decide))

theorem circDrop (c : Nat) (t : Tray) (k : Nat) : DropSide c t (t.circDrop c k) := of_eq rfl rfl

theorem circPortDown (t : Tray) (e : Nat) : DropSide c t (t.circPortDown c e) := each _ _ (fun w a _ => circDrop c w a.1) t

theorem syncReplay (t : Tray) (e : Nat) : DropSide c t (t.syncReplay c e) :=
  sf c t _ (not_cartReg_off _ (by decide)) (by decide)

theorem freeOwned (t : Tray) (own : Owner → Bool) : DropSide c t (t.freeOwned c own) :=
  each _ _ (fun w e _ => ite ((of_eq rfl rfl : DropSide c w (w.setPort c e _)).trans (syncReplay ..)) (refl c w)) t

theorem rxLost (t : Tray) (e : Nat) : DropSide c t (t.rxLost c e) := by
  unfold Tray.rxLost
  extract_lets x one
  have hone : ∀ (w : Tray) (r : Option RxPkt), DropSide c w (one w r) := fun w r => by
    show DropSide c w (match r.bind (fun r => r.core) with | some id => w.coreLost c id | none => w)
    split
    · exact coreLost c w _
    · exact refl c w
  exact ((hone t x.cur).trans (hone _ x.ins)).trans (modPort ..)

/-! Tables. -/

theorem startAbort (c : Nat) (t : Tray) (pg : Nat) : DropSide c t (t.startAbort pg) := by
  have one : ∀ (w : Tray) {f : Fld} (x : Nat), f.off = 0x48 → DropSide c w (w.sf pg f x) := fun w f x hf =>
    sf c w x (not_cartReg_off _ (.inl (by omega))) (by omega)
  unfold Tray.startAbort
  exact (((one t _ rfl).trans (one _ _ rfl)).trans (one _ _ rfl)).trans (one _ _ rfl)

theorem slotEnded (t : Tray) (l : Launch) (st : Nat) : DropSide c t (t.slotEnded c l st) := by
  unfold Tray.slotEnded
  split
  · exact refl c t
  · exact modDealer ..

theorem writeRec (t : Tray) (tb e : Nat) (r : Rec) : DropSide c t (t.writeRec c tb e r) := by
  unfold Tray.writeRec
  extract_lets w ep pk t1
  have h1 : DropSide c t t1 := of_eq rfl rfl
  exact ite h1 (h1.trans (raise ..))

theorem tableEvent (t : Tray) {tb : Nat} (e st d : Nat) (h : tb < 256) : DropSide c t (t.tableEvent c tb e st d) := by
  unfold Tray.tableEvent
  exact ite (refl c t) (ite (writeRec ..)
    ((sf c t _ (not_cartReg_tblPg c _ h) (by decide)).trans (raise ..)))

theorem snapResult (t : Tray) (tb e addr s st k : Nat) (l : List Byte) : DropSide c t (t.snapResult c tb e addr s st k l) :=
  of_eq rfl rfl

theorem snapAbort (t : Tray) {tb : Nat} (h : tb < 256) : DropSide c t (t.snapAbort c tb) := by
  unfold Tray.snapAbort
  extract_lets x s t1 t2
  have h1 : DropSide c t t1 := each _ _ (fun _ _ _ => snapResult ..) t
  have h2 : DropSide c t t2 := h1.trans (each _ _ (fun _ _ _ => snapResult ..) _)
  exact (h2.trans (modTable ..)).trans (sf c _ 0 (not_cartReg_tblPg c _ h) (by decide))

theorem tableAbort (t : Tray) {tb : Nat} (st : Nat) (skip : Option Nat) (h : tb < 256) :
    DropSide c t (t.tableAbort c tb st skip) := by
  have hsf : ∀ (w : Tray) {f : Fld} (x : Nat), f.off < 4096 → DropSide c w (w.sf (tblPg c tb) f x) :=
    fun w f x hf => sf c w x (not_cartReg_tblPg c _ h) hf
  have hctr : ∀ (w : Tray) (i : Nat), i ∈ List.range 16 → DropSide c w (w.sf (tblPg c tb) (ctrFld i) 0) := fun w i hi =>
    hsf w 0 (by
      have := List.mem_range.1 hi
      show 0x180 + 8 * i < 4096
      omega)
  unfold Tray.tableAbort
  extract_lets pg x ms held was t1 t2 t3 t4 t5 t6 t7
  have h2 : DropSide c t t2 := ((startAbort ..).trans (freeOwned ..)).trans (setTable ..)
  have h3 : DropSide c t t3 := h2.trans (each _ _ (fun _ _ _ => slotEnded ..) _)
  have h4 : DropSide c t t4 := ((h3.trans (hsf _ 0 (by decide))).trans (each _ _ hctr _)).trans (snapAbort _ h)
  have h5 : DropSide c t t5 := (h4.trans (hsf _ _ (by decide))).trans (hsf _ _ (by decide))
  have h6 : DropSide c t t6 := ite h5 ((h5.trans (hsf _ _ (by decide))).trans (raise ..))
  have h7 : DropSide c t t7 := h6.trans (each _ _ (fun w a _ => tableEvent w a.1 st a.2 h) _)
  exact ite (refl c t) ((ite (h7.trans (raise ..)) h7).trans (of_job (JobSide.dealerSweep c _) (.dealerSweep _)))

/-! A port changes its state. -/

theorem portDrop (t : Tray) (e : Nat) : DropSide c t (t.portDrop c e) := by
  unfold Tray.portDrop
  extract_lets p t0 p' t1 t2 t3 tbs
  have h0 : DropSide c t t0 := ite ((sf c t _ (not_cartReg_off _ (by decide)) (by decide)).trans (raise ..)) (refl c t)
  have h1 : DropSide c t t1 := h0.trans (of_eq rfl rfl)
  have h2 : DropSide c t t2 := ((h1.trans (syncReplay ..)).trans (flushOutput ..)).trans (flushInput ..)
  have h3 : DropSide c t t3 := (h2.trans (modDealer ..)).trans (circPortDown ..)
  refine h3.trans (each tbs _ (fun w a ha => tableAbort w _ _ ?_) _)
  obtain ⟨y, -, hy⟩ := List.mem_map.1 (List.mem_filter.1 ha).1
  rw [← hy]
  exact Nat.mod_lt _ (by decide)

theorem setPst (t : Tray) {e : Nat} (st : Nat) (he : e < 64) : DropSide c t (t.setPst c e st) := by
  have hblocks := (t.setPst_stays c e st).blocks
  obtain ⟨-, -, -, -, -, hdealers, -, -⟩ := hblocks
  refine ⟨fun q o hq => t.setPst_rd c e st q o (by unfold cartReg at hq; omega) ?_, .of_eq hdealers⟩
  unfold cartReg at hq
  rintro (⟨-, rfl | rfl⟩ | ⟨rfl, -⟩ | ⟨j, hj, rfl, -⟩)
  · exact absurd hq.2.2.1 (by decide)
  · exact absurd hq.2.2.1 (by decide)
  · unfold chip0 chipPg at hq; omega
  · unfold lanePg chipPg at hq; omega

theorem portTo (t : Tray) {e : Nat} (st cause : Nat) (he : e < 64) : DropSide c t (t.portTo c e st cause) := by
  unfold Tray.portTo
  extract_lets pg was t1 t2 t3
  have h1 : DropSide c t t1 := (setPst t st he).trans (sf c _ _ (not_cartReg_off _ (by decide)) (by decide))
  have h2 : DropSide c t t2 := ite (h1.trans ((ite (refl c _) (startAbort ..)).trans (portDrop ..))) (h1.trans (modPort ..))
  have h3 : DropSide c t t3 := (h2.trans (stormEnd ..)).trans (updResv ..)
  exact h3.trans (each _ _ (fun _ _ _ => modLane ..) _)

end DropSide
end Sys2Proof.Machine
end

section
/-! SUPPORT. The taps of an equaliser and the control words of training frames (R120). -/
namespace Sys2Proof.Machine

/-! ### Taps: one signed byte each -/

/-- What replacing the byte of weight `P` of a number leaves of it. -/
theorem replaceByte {n P x : Nat} (hP : 0 < P) (hx : x < 256) :
    (n - n / P % 256 * P + x * P) % P = n % P ∧ (n - n / P % 256 * P + x * P) / P % 256 = x ∧
      (n - n / P % 256 * P + x * P) / P / 256 = n / P / 256 := by
  have hn : n - n / P % 256 * P = P * (256 * (n / P / 256)) + n % P := by
    have hq : P * (n / P) + n % P = n := Nat.div_add_mod n P
    have hd : 256 * (n / P / 256) + n / P % 256 = n / P := Nat.div_add_mod (n / P) 256
    have hsplit : P * (n / P) = P * (256 * (n / P / 256)) + n / P % 256 * P := by
      conv_lhs => rw [← hd]
      ring
    omega
  have hm : n - n / P % 256 * P + x * P = n % P + P * (256 * (n / P / 256) + x) := by
    rw [hn]
    ring
  rw [hm, Nat.add_mul_mod_self_left, Nat.mod_mod, Nat.add_mul_div_left _ _ hP, Nat.div_eq_of_lt (Nat.mod_lt _ hP)]
  omega

/-- Byte `i` of the taps, unsigned. -/
def tapByte (taps i : Nat) : Nat := taps / 2 ^ (8 * i) % 256

/-- Of five taps. -/
theorem tapByte_mod (taps : Nat) {i : Nat} (hi : i ≤ 4) : tapByte (taps % 2 ^ 40) i = tapByte taps i := by
  have hdvd : 2 ^ (8 * i) * 256 ∣ 2 ^ 40 := by
    rw [show (256 : Nat) = 2 ^ 8 from rfl, ← pow_add]
    exact Nat.pow_dvd_pow 2 (by omega)
  unfold tapByte
  rw [← Nat.mod_mul_right_div_self, ← Nat.mod_mul_right_div_self, Nat.mod_mod_of_dvd _ hdvd]

theorem tapByte_tapPut_same (taps i : Nat) (v : Int) : tapByte (tapPut taps i v) i = (v % 256).toNat :=
  (replaceByte (Nat.two_pow_pos _) (by omega)).2.1

theorem tapByte_tapPut_ne (taps : Nat) {i j : Nat} (v : Int) (h : j ≠ i) : tapByte (tapPut taps i v) j = tapByte taps j := by
  have hlow : tapPut taps i v % 2 ^ (8 * i) = taps % 2 ^ (8 * i) := (replaceByte (Nat.two_pow_pos _) (by omega)).1
  have hhigh : tapPut taps i v / 2 ^ (8 * i) / 256 = taps / 2 ^ (8 * i) / 256 :=
    (replaceByte (Nat.two_pow_pos _) (by omega)).2.2
  generalize tapPut taps i v = m at hlow hhigh ⊢
  unfold tapByte
  rcases Nat.lt_or_gt_of_ne h with hlt | hgt
  · have hdvd : 2 ^ (8 * j) * 256 ∣ 2 ^ (8 * i) := by
      rw [show (256 : Nat) = 2 ^ 8 from rfl, ← pow_add]
      exact Nat.pow_dvd_pow 2 (by omega)
    rw [← Nat.mod_mul_right_div_self, ← Nat.mod_mul_right_div_self taps, ← Nat.mod_mod_of_dvd m hdvd, hlow,
      Nat.mod_mod_of_dvd _ hdvd]
  · have hpow : 2 ^ (8 * j) = 2 ^ (8 * i) * 256 * 2 ^ (8 * (j - i - 1)) := by
      rw [show (256 : Nat) = 2 ^ 8 from rfl, ← pow_add, ← pow_add]
      congr 1
      omega
    rw [hpow, ← Nat.div_div_eq_div_mul, ← Nat.div_div_eq_div_mul, hhigh, ← Nat.div_div_eq_div_mul, ← Nat.div_div_eq_div_mul]

theorem tapAt_congr {m n i j : Nat} (h : tapByte m i = tapByte n j) : tapAt m i = tapAt n j := by
  unfold tapByte at h
  unfold tapAt
  dsimp only
  rw [h]

/-- A tap reads as it was set. -/
theorem tapAt_tapPut_same (taps : Nat) {i : Nat} {v : Int} (hi : i ≤ 4) (hlo : -128 ≤ v) (hhi : v ≤ 127) :
    tapAt (tapPut taps i v % 2 ^ 40) i = v := by
  have hbyte := (tapByte_mod (tapPut taps i v) hi).trans (tapByte_tapPut_same taps i v)
  unfold tapByte at hbyte
  unfold tapAt
  dsimp only
  rw [hbyte]
  split <;> omega

theorem tapAt_tapPut_ne (taps : Nat) {i j : Nat} (v : Int) (hj : j ≤ 4) (h : j ≠ i) :
    tapAt (tapPut taps i v % 2 ^ 40) j = tapAt taps j :=
  tapAt_congr ((tapByte_mod _ hj).trans (tapByte_tapPut_ne taps v h))

/-- A request to raise or lower a tap within its range is done. -/
theorem tapAct_moves {taps tap op preset : Nat} {v : Int} (hop : op = 1 ∨ op = 2) (htap : tap ≤ 4)
    (hv : v = tapAt taps tap + (if op = 1 then 1 else -1)) (hlo : -16 ≤ v) (hhi : v ≤ 63) :
    tapAct taps tap op preset = (tapPut taps tap v, 1) := by
  unfold tapAct
  dsimp only
  rw [← hv, if_neg (by omega), if_neg (by omega), if_neg (by omega)]

/-! ### Control words -/

theorem leBytes_add (k v z : Nat) : leBytes k (v + 256 ^ k * z) = leBytes k v := by
  induction k generalizing v with
  | zero => rfl
  | succ k ih =>
    have hmul : 256 ^ (k + 1) * z = 256 * (256 ^ k * z) := by ring
    have hbyte : BitVec.ofNat 8 (v + 256 * (256 ^ k * z)) = BitVec.ofNat 8 v := by
      apply BitVec.eq_of_toNat_eq
      rw [BitVec.toNat_ofNat, BitVec.toNat_ofNat]
      omega
    unfold leBytes
    rw [hmul, hbyte, Nat.add_mul_div_left _ _ (by decide : 0 < 256), ih]

/-- A control word that the tray sends: its CRC passes, it holds the acknowledgement. -/
theorem ctrlWord_sound (req ack : Nat) (ready sw : Bool) (fom fseq : Nat) :
    ctrlOk (ctrlWord req ack ready sw fom fseq) = true ∧ fieldOf (ctrlWord req ack ready sw fom fseq) 9 2 = ack % 4 := by
  have hb : ∀ b, b2n b ≤ 1 := by decide
  have hready := hb ready
  have hsw := hb sw
  unfold ctrlWord
  extract_lets v
  have hv : v < 2 ^ 32 := by omega
  have hack : v / 2 ^ 9 % 2 ^ 2 = ack % 4 := by omega
  clear_value v
  have hcrc := crc16_lt (leBytes 6 v)
  have hbytes : leBytes 6 (v + 2 ^ 48 * crc16 (leBytes 6 v)) = leBytes 6 v := leBytes_add 6 v _
  generalize hx : crc16 (leBytes 6 v) = x at hcrc hbytes ⊢
  have hword : (BitVec.ofNat 64 (v + 2 ^ 48 * x)).toNat = v + 2 ^ 48 * x := by
    rw [BitVec.toNat_ofNat]
    exact Nat.mod_eq_of_lt (by omega)
  unfold ctrlOk fieldOf
  rw [hword, hbytes, hx, beq_iff_eq]
  omega

end Sys2Proof.Machine
end

section
/-! SUPPORT. TRAINING_FRAME (R120) and CODEWORD_RECEIVE of an UP port (R116). -/
namespace Sys2Proof.Machine

theorem exec_trainingFrame (c : Fin 5) (n : Fin 256) (cw : Word) (ready : Bool) (wish : BitVec 9) (s : State) :
    exec (.trainingFrame c n cw ready wish) s =
      .next (s.runC c.val (fun t => t.trainingFrame c.val n.val cw ready wish.toNat)) := rfl
theorem exec_codewordReceive (c : Fin 5) (n : Fin 256) (r : CwResult) (s : State) :
    exec (.codewordReceive c n r) s = .next (s.runC c.val (fun t => t.codeword c.val n.val r)) := rfl

/-! ### Training frames -/

/-- The lane's taps and frame state once a frame is answered with control word `w`. -/
def Tray.frameAnswered (t : Tray) (c n taps : Nat) (l : LaneSt) (w : Word) : Tray :=
  ((t.sf (lanePg c n) F.LANE_EQ_STS_TAPS taps).setLane c n l).emit (.train c n w)

theorem Tray.frameAnswered_staysBut (t : Tray) {c n taps : Nat} {l : LaneSt} {w : Word} (hn : n < 256) :
    t.StaysBut (t.frameAnswered c n taps l w) c (n / 4) (portArea c (n / 4)) :=
  (((Tray.StaysBut.refl ..).stays ((Tray.Stays.refl ..).sf _ (portArea_lane rfl _) (by decide))).setLane (by omega) rfl _).emit _

theorem Tray.frameAnswered_pst (t : Tray) (c n taps : Nat) (l : LaneSt) (w : Word) (e : Nat) :
    (t.frameAnswered c n taps l w).pst c e = t.pst c e := Tray.gf_sf_off _ _ _ _ _ _ (by decide)

/-- The end of TUNE writes none of the lane's taps and sends nothing. -/
theorem Tray.tuneDone_after {t : Tray} {c e : Nat} (he : e < 64) (hp : t.pst c e = S.TUNE) :
    t.StaysBut (t.tuneDone c e) c e (portArea c e) ∧ (t.tuneDone c e).out = t.out ∧
      ∀ n, (t.tuneDone c e).rd (lanePg c n) A.LANE_EQ_STS = t.rd (lanePg c n) A.LANE_EQ_STS := by
  unfold Tray.tuneDone
  split
  · rw [Tray.setPhase_of_pst _ (by rw [hp]; decide)]
    exact ⟨t.setPst_staysBut c e _, (Tray.still_parts (t.setPst_still c e _)).out,
      fun n => t.setPst_rd_lane c e _ n he (by decide) (by decide)⟩
  · exact ⟨Tray.StaysBut.refl .., rfl, fun _ => rfl⟩

/-- A new request to raise or lower a tap, of a lane in TUNE that has not switched. -/
theorem Tray.trainingFrame_moves {t : Tray} {c n : Nat} {cw : Word} (ready : Bool) (wish : Nat) {v : Int}
    (hok : ctrlOk cw = true) (hp : t.pst c (n / 4) = S.TUNE) (hop : fieldOf cw 3 2 = 1 ∨ fieldOf cw 3 2 = 2)
    (hnew : fieldOf cw 0 9 ≠ (t.lane c n).peerReq) (hsw : (t.lane c n).switchOut = false)
    (hact : tapAct (t.gf (lanePg c n) F.LANE_EQ_STS_TAPS) (fieldOf cw 0 3) (fieldOf cw 3 2) (fieldOf cw 5 4) =
      (tapPut (t.gf (lanePg c n) F.LANE_EQ_STS_TAPS) (fieldOf cw 0 3) v, 1)) :
    ∃ l own rdy sw fom fseq, t.trainingFrame c n cw ready wish =
      (t.frameAnswered c n (tapPut (t.gf (lanePg c n) F.LANE_EQ_STS_TAPS) (fieldOf cw 0 3) v) l
        (ctrlWord own 1 rdy sw fom fseq)).tuneDone c (n / 4) := by
  have hop0 : fieldOf cw 3 2 ≠ 0 := by omega
  have hisNew : (decide (fieldOf cw 3 2 ≠ 0) && fieldOf cw 0 9 != (t.lane c n).peerReq) = true := by simp [hop0, hnew]
  have hhold : ¬ (t.pst c (n / 4) = S.FLOOD_HOLD ∧ ¬ (t.port c (n / 4)).floodOwn = true) := by
    rw [hp]
    exact fun h => absurd h.1 (by decide)
  unfold Tray.trainingFrame
  dsimp only
  rw [if_neg (by simp [hok]), if_neg hhold, if_neg (not_not.2 (Tray.phase_of_pst hp (by decide)))]
  simp only [hisNew, hact, hsw, if_true, if_neg hop0, Bool.false_eq_true, if_false]
  exact ⟨_, _, _, _, _, _, rfl⟩

/-- TRAINING_FRAME, R120. -/
theorem trainingFrame_moves {s : State} {c : Fin 5} {n : Fin 256} (hs : s.tray.settled c.val) {cw : Word} (ready : Bool)
    (wish : BitVec 9) (hok : ctrlOk cw = true) (hp : s.tray.pst c.val (n.val / 4) = S.TUNE)
    (hop : fieldOf cw 3 2 = 1 ∨ fieldOf cw 3 2 = 2) (hnew : fieldOf cw 0 9 ≠ (s.tray.lane c.val n.val).peerReq)
    (htap : fieldOf cw 0 3 ≤ 4) {v : Int}
    (hv : v = tapAt (s.tray.gf (lanePg c.val n.val) F.LANE_EQ_STS_TAPS) (fieldOf cw 0 3) +
      (if fieldOf cw 3 2 = 1 then 1 else -1))
    (hlo : -16 ≤ v) (hhi : v ≤ 63) (hsw : (s.tray.lane c.val n.val).switchOut = false) :
    Completes (.trainingFrame c n cw ready wish) s (fun t =>
      tapAt (t.tray.gf (lanePg c.val n.val) F.LANE_EQ_STS_TAPS) (fieldOf cw 0 3) = v ∧
      (∀ i, i ≤ 4 → i ≠ fieldOf cw 0 3 → tapAt (t.tray.gf (lanePg c.val n.val) F.LANE_EQ_STS_TAPS) i =
        tapAt (s.tray.gf (lanePg c.val n.val) F.LANE_EQ_STS_TAPS) i) ∧
      (∃ w, Out.train c.val n.val w ∈ t.tray.out ∧ fieldOf w 9 2 = 1 ∧ ctrlOk w = true) ∧
      s.tray.keepsRegs t.tray (portArea c.val (n.val / 4)) ∧ s.tray.keepsOtherPorts t.tray c.val (n.val / 4)) := by
  have hn := n.isLt
  have he : n.val / 4 < 64 := by omega
  obtain ⟨l, own, rdy, sw, fom, fseq, hgo⟩ := Tray.trainingFrame_moves ready wish.toNat hok hp hop hnew hsw
    (tapAct_moves hop htap hv hlo hhi)
  generalize htaps : tapPut (s.tray.gf (lanePg c.val n.val) F.LANE_EQ_STS_TAPS) (fieldOf cw 0 3) v = taps at hgo
  obtain ⟨hctrl, hack⟩ := ctrlWord_sound own 1 rdy sw fom fseq
  generalize ctrlWord own 1 rdy sw fom fseq = w at hgo hctrl hack
  obtain ⟨hdone, hout, heq⟩ := Tray.tuneDone_after he
    ((s.tray.frameAnswered_pst c.val n.val taps l w (n.val / 4)).trans hp)
  have hstay := (s.tray.frameAnswered_staysBut (c := c.val) (taps := taps) (l := l) (w := w) hn).trans hdone
  have hgf : ((s.tray.frameAnswered c.val n.val taps l w).tuneDone c.val (n.val / 4)).gf (lanePg c.val n.val)
      F.LANE_EQ_STS_TAPS = taps % 2 ^ 40 :=
    (congrArg F.LANE_EQ_STS_TAPS.get (heq n.val)).trans (Tray.gf_sf_self _ _ F.LANE_EQ_STS_TAPS _ (by decide))
  refine completes_runC (exec_trainingFrame ..) hgo (hstay.settled hs) fun t ht =>
    ⟨?_, fun i hi hne => ?_, ⟨w, ht.emits (hout ▸ List.mem_cons_self), hack, hctrl⟩, ht.staysBut hstay⟩
  · rw [ht.gf, hgf, ← htaps]
    exact tapAt_tapPut_same _ htap (by omega) (by omega)
  · rw [ht.gf, hgf, ← htaps]
    exact tapAt_tapPut_ne _ _ hi hne

/-! ### Codewords -/

/-- Where a codeword takes its flow control bits: the port's PORT_FC_STS may follow, nothing else. -/
def fcReg (c e q o : Nat) : Prop := q = portPg c e ∧ o = A.PORT_FC_STS

theorem Tray.stormEnd_stays (t : Tray) (c e : Nat) : t.Stays (t.stormEnd c e) (fcReg c e) := by
  unfold Tray.stormEnd
  extract_lets pg keep
  split
  · exact Tray.Stays.refl ..
  · exact (Tray.Stays.refl ..).sf _ ⟨rfl, rfl⟩ (by decide)

theorem Tray.groupCw_staysBut (t : Tray) (c : Nat) {n : Nat} (hn : n < 256) (bits : Option Nat) :
    t.StaysBut (t.groupCw c n bits) c (n / 4) (fcReg c (n / 4)) := by
  unfold Tray.groupCw
  exact ((Tray.StaysBut.refl ..).setPort (by omega) _).stays (Tray.stormEnd_stays ..)

/-- The port keeps the XOFF bits that it hears. -/
theorem Tray.groupCw_xoffRx (t : Tray) (c n x : Nat) : ((t.groupCw c n (some x)).port c (n / 4)).xoffRx = x := by
  have hport : ∀ w : Tray, (w.stormEnd c (n / 4)).port c (n / 4) = w.port c (n / 4) := fun w => by
    have hports := (w.stormEnd_stays c (n / 4)).blocks.2.1
    unfold Tray.port
    rw [hports]
  unfold Tray.groupCw
  dsimp only
  rw [hport, Tray.port_setPort]
  rfl

/-- The counts of a codeword that decodes with `corr` corrected symbols. -/
def Tray.corrCounted (t : Tray) (c n corr : Nat) : Tray :=
  if corr = 0 then t.cnt (lanePg c n) F.LANE_FEC_CW_COUNT 1
  else (((t.cnt (lanePg c n) F.LANE_FEC_CW_COUNT 1).cnt (lanePg c n) F.LANE_FEC_CORR_COUNT 1).cnt (lanePg c n)
    F.LANE_FEC_SYM_COUNT corr).modLane c n (fun l => { l with wCorr := l.wCorr + 1 })

theorem Tray.corrCounted_counts (t : Tray) (c n corr : Nat) :
    (t.corrCounted c n corr).gf (lanePg c n) F.LANE_FEC_CW_COUNT =
      (t.gf (lanePg c n) F.LANE_FEC_CW_COUNT + 1) % 2 ^ 64 ∧
    (t.corrCounted c n corr).gf (lanePg c n) F.LANE_FEC_SYM_COUNT =
      (t.gf (lanePg c n) F.LANE_FEC_SYM_COUNT + corr) % 2 ^ 64 := by
  unfold Tray.corrCounted
  split
  · subst corr
    refine ⟨Tray.gf_cnt_self _ _ _ _ (by decide), ?_⟩
    rw [Tray.gf_cnt_off _ _ _ _ _ _ (by decide), Nat.add_zero]
    exact (Nat.mod_eq_of_lt (Tray.gf_lt _ _ F.LANE_FEC_SYM_COUNT (by decide))).symm
  · rw [Tray.gf_modLane, Tray.gf_modLane]
    simp (disch := decide) only [Tray.gf_cnt_off, Tray.gf_cnt_self]
    exact ⟨rfl, rfl⟩

theorem Tray.corrCounted_staysBut (t : Tray) (c : Nat) {n : Nat} (hn : n < 256) (corr : Nat) :
    t.StaysBut (t.corrCounted c n corr) c (n / 4) (portArea c (n / 4)) := by
  have hcnt : ∀ (w : Tray) {f : Fld} (x : Nat), f.off < 4096 → w.Stays (w.cnt (lanePg c n) f x) (portArea c (n / 4)) :=
    fun w f x hf => (Tray.Stays.refl ..).cnt x (portArea_lane rfl _) hf
  have h1 := (Tray.StaysBut.refl t c (n / 4) _).stays (hcnt t (f := F.LANE_FEC_CW_COUNT) 1 (by decide))
  unfold Tray.corrCounted
  split
  · exact h1
  · exact ((h1.stays (hcnt _ _ (by decide))).stays (hcnt _ _ (by decide))).modLane (by omega) rfl _

/-- The port's and the lane's state once a codeword has decoded on an UP port. -/
def Tray.cwDecoded (t : Tray) (c n : Nat) (ccf : BitVec 20) (corr skew : Nat) : Tray :=
  (((t.corrCounted c n corr).sf (lanePg c n) F.LANE_STS_SKEW (satTo 255 skew)).groupCw c n (some (fieldOf ccf 6 4))).modPort c
    (n / 4) (fun p => { p with peerLinkOk := fieldOf ccf 11 1 == 1 })

theorem Tray.codeword_decoded {t : Tray} {c n : Nat} (hp : t.pst c (n / 4) = S.UP) (ccf : BitVec 20) (corr skew : Nat) :
    t.codeword c n (.decoded ccf corr skew) = t.cwDecoded c n ccf corr skew := by
  have hph : t.phase c (n / 4) = S.UP := Tray.phase_of_pst hp (by decide)
  unfold Tray.codeword
  simp only [hph, beq_self_eq_true, Bool.or_true, Bool.true_or, if_true, true_or, or_true]
  rfl

theorem Tray.cwDecoded_staysBut (t : Tray) (c : Nat) {n : Nat} (hn : n < 256) (ccf : BitVec 20) (corr skew : Nat) :
    t.StaysBut (t.cwDecoded c n ccf corr skew) c (n / 4) (portArea c (n / 4)) := by
  have hskew := (t.corrCounted_staysBut c hn corr).stays
    ((Tray.Stays.refl ..).sf (f := F.LANE_STS_SKEW) (satTo 255 skew) (portArea_lane rfl _) (by decide))
  exact (hskew.trans ((Tray.groupCw_staysBut _ c hn _).mono fun _ o h => h.1 ▸ portArea_port c (n / 4) o)).modPort (by omega) _

/-- Beside the counts a codeword that decodes writes LANE_STS and PORT_FC_STS alone. -/
theorem Tray.cwDecoded_keeps (t : Tray) (c : Nat) {n : Nat} (hn : n < 256) (ccf : BitVec 20) (corr skew : Nat) :
    (t.corrCounted c n corr).keepsRegs (t.cwDecoded c n ccf corr skew)
      (fun q o => fcReg c (n / 4) q o ∨ (q = lanePg c n ∧ o = A.LANE_STS)) := by
  have hskew := Tray.keepsRegs_sf (Tray.keepsRegs_refl (t.corrCounted c n corr)
    (fun q o => fcReg c (n / 4) q o ∨ (q = lanePg c n ∧ o = A.LANE_STS))) (pg := lanePg c n) (f := F.LANE_STS_SKEW)
    (satTo 255 skew) (.inr ⟨rfl, rfl⟩) (by decide)
  exact Tray.keepsRegs_trans (Tray.keepsRegs_trans hskew
    (Tray.keepsRegs_mono (Tray.groupCw_staysBut _ c hn _).regs fun _ _ => .inl)) (Tray.keepsRegs_of rfl)

/-- The lane's counts and the port's state are as the codeword counted them. -/
theorem Tray.cwDecoded_reads (t : Tray) {c n : Nat} (hn : n < 256) (ccf : BitVec 20) (corr skew : Nat) :
    (t.cwDecoded c n ccf corr skew).pst c (n / 4) = t.pst c (n / 4) ∧
      ∀ f : Fld, f.off < 4096 → f.off ≠ A.LANE_STS →
        (t.cwDecoded c n ccf corr skew).gf (lanePg c n) f = (t.corrCounted c n corr).gf (lanePg c n) f := by
  have hkeep := t.cwDecoded_keeps c hn ccf corr skew
  have hpg : portPg c (n / 4) ≠ lanePg c n := portPg_ne_lanePg c (n / 4) n (by omega)
  have hcounted : (t.corrCounted c n corr).pst c (n / 4) = t.pst c (n / 4) := by
    unfold Tray.corrCounted Tray.pst
    split
    · exact Tray.gf_cnt_off _ _ _ _ _ _ (by decide)
    · rw [Tray.gf_modLane]
      simp (disch := decide) only [Tray.gf_cnt_off]
  refine ⟨(Tray.keepsRegs_pst hkeep ?_).trans hcounted, fun f hf hsts => Tray.keepsRegs_gf hkeep _ _ hf ?_⟩
  · rintro (⟨-, h⟩ | ⟨h, -⟩)
    · exact absurd h (by decide)
    · exact hpg h
  · rintro (⟨h, -⟩ | ⟨-, h⟩)
    · exact hpg h.symm
    · exact hsts h

/-- CODEWORD_RECEIVE of a codeword that decodes, R116. -/
theorem codewordReceive_decoded {s : State} {c : Fin 5} {n : Fin 256} (hs : s.tray.settled c.val)
    (hp : s.tray.pst c.val (n.val / 4) = S.UP) (ccf : BitVec 20) (corr skew : Nat) :
    Completes (.codewordReceive c n (.decoded ccf corr skew)) s (fun t =>
      t.tray.gf (lanePg c.val n.val) F.LANE_FEC_CW_COUNT =
        (s.tray.gf (lanePg c.val n.val) F.LANE_FEC_CW_COUNT + 1) % 2 ^ 64 ∧
      t.tray.gf (lanePg c.val n.val) F.LANE_FEC_SYM_COUNT =
        (s.tray.gf (lanePg c.val n.val) F.LANE_FEC_SYM_COUNT + corr) % 2 ^ 64 ∧
      (t.tray.port c.val (n.val / 4)).xoffRx = fieldOf ccf 6 4 ∧
      (t.tray.port c.val (n.val / 4)).peerLinkOk = (fieldOf ccf 11 1 == 1) ∧
      t.tray.pst c.val (n.val / 4) = S.UP ∧ s.tray.keepsRegs t.tray (portTraffic c.val (n.val / 4))) := by
  have hn := n.isLt
  have hstay := s.tray.cwDecoded_staysBut c.val hn ccf corr skew
  obtain ⟨hpst, hgf⟩ := s.tray.cwDecoded_reads (c := c.val) hn ccf corr skew
  obtain ⟨hcw, hsym⟩ := s.tray.corrCounted_counts c.val n.val corr
  refine completes_runC (exec_codewordReceive ..) (Tray.codeword_decoded hp ccf corr skew) (hstay.settled hs) fun t ht =>
    ⟨(ht.gf ..).trans ((hgf _ (by decide) (by decide)).trans hcw),
      (ht.gf ..).trans ((hgf _ (by decide) (by decide)).trans hsym), ?_, ?_, (ht.gf ..).trans (hpst.trans hp),
      ht.keepsRegs (Tray.keepsRegs_mono hstay.regs fun _ _ => .inl)⟩
  · rw [ht.port]
    unfold Tray.cwDecoded
    rw [Tray.port_modPort]
    exact Tray.groupCw_xoffRx ..
  · rw [ht.port]
    unfold Tray.cwDecoded
    rw [Tray.port_modPort]

/-! ### Codewords that do not decode -/

/-- The counts of a codeword that does not decode. -/
def Tray.cwFailed (t : Tray) (c n : Nat) : Tray :=
  (((t.cnt (lanePg c n) F.LANE_FEC_CW_COUNT 1).cnt (lanePg c n) F.LANE_FEC_UNC_COUNT 1).modLane c n (fun l => { l with
    uncSeen := true, alignRun := 0, wUnc := l.wUnc + 1, tUnc := l.tUnc + 1 })).cnt (portPg c (n / 4)) F.PORT_CW_DROP_FLITS 10

theorem Tray.cwFailed_counts (t : Tray) (c n : Nat) :
    (t.cwFailed c n).gf (lanePg c n) F.LANE_FEC_CW_COUNT = (t.gf (lanePg c n) F.LANE_FEC_CW_COUNT + 1) % 2 ^ 64 ∧
    (t.cwFailed c n).gf (lanePg c n) F.LANE_FEC_UNC_COUNT = (t.gf (lanePg c n) F.LANE_FEC_UNC_COUNT + 1) % 2 ^ 64 ∧
    (t.cwFailed c n).gf (portPg c (n / 4)) F.PORT_CW_DROP_FLITS =
      (t.gf (portPg c (n / 4)) F.PORT_CW_DROP_FLITS + 10) % 2 ^ 64 ∧
    (t.cwFailed c n).pst c (n / 4) = t.pst c (n / 4) := by
  unfold Tray.cwFailed Tray.pst
  refine ⟨?_, ?_, ?_, ?_⟩
  · rw [Tray.gf_cnt_off _ _ _ _ _ _ (by decide), Tray.gf_modLane, Tray.gf_cnt_off _ _ _ _ _ _ (by decide),
      Tray.gf_cnt_self _ _ _ _ (by decide)]
    rfl
  · rw [Tray.gf_cnt_off _ _ _ _ _ _ (by decide), Tray.gf_modLane, Tray.gf_cnt_self _ _ _ _ (by decide),
      Tray.gf_cnt_off _ _ _ _ _ _ (by decide)]
    rfl
  · rw [Tray.gf_cnt_self _ _ _ _ (by decide), Tray.gf_modLane, Tray.gf_cnt_off _ _ _ _ _ _ (by decide),
      Tray.gf_cnt_off _ _ _ _ _ _ (by decide)]
    rfl
  · rw [Tray.gf_cnt_off _ _ _ _ _ _ (by decide), Tray.gf_modLane, Tray.gf_cnt_off _ _ _ _ _ _ (by decide),
      Tray.gf_cnt_off _ _ _ _ _ _ (by decide)]

theorem Tray.cwFailed_keeps (t : Tray) (c n : Nat) : t.keepsRegs (t.cwFailed c n) (portTraffic c (n / 4)) := by
  have hlane : ∀ o, portTraffic c (n / 4) (lanePg c n) o := fun o => .inl (portArea_lane rfl o)
  have hcnt : ∀ (w : Tray) {pg : Nat} {f : Fld} (x : Nat), portTraffic c (n / 4) pg f.off → f.off < 4096 →
      w.keepsRegs (w.cnt pg f x) (portTraffic c (n / 4)) := fun w _ _ _ hR hf =>
    Tray.keepsRegs_sf (Tray.keepsRegs_refl w _) _ hR hf
  have hlanes := Tray.keepsRegs_trans (hcnt t (f := F.LANE_FEC_CW_COUNT) 1 (hlane _) (by decide))
    (hcnt _ (f := F.LANE_FEC_UNC_COUNT) 1 (hlane _) (by decide))
  exact Tray.keepsRegs_trans (Tray.keepsRegs_trans hlanes (Tray.keepsRegs_of (Tray.modLane_regs ..)))
    (hcnt _ 10 (.inl (portArea_port ..)) (by decide))

/-- What losing the packets being received may write. -/
def huntReg (c q o : Nat) : Prop := ¬ trafficFree c q o ∧ ¬ cartReg q o

theorem Tray.enterHunt_keeps (t : Tray) (c : Nat) {e : Nat} (he : e < 64) : t.keepsRegs (t.enterHunt c e) (huntReg c) := by
  have hirq : huntReg c (portPg c e) 0x20 :=
    ⟨by unfold trafficFree portPg chipPg headOrShadow; omega, not_cartReg_off _ (by decide)⟩
  have herr : t.keepsRegs (t.sat (portPg c e) F.PORT_RX_ERR_FRAME 1) (huntReg c) := Tray.keepsRegs_sf (Tray.keepsRegs_refl t _) _
    ⟨TrafficSide.not_free_high _ (by decide), not_cartReg_off _ (by decide)⟩ (by decide)
  unfold Tray.enterHunt
  extract_lets pg t1
  have h1 : t.keepsRegs t1 (huntReg c) := by
    show t.keepsRegs (if _ then _ else _) _
    split
    · exact Tray.keepsRegs_raise herr _ hirq
    · exact herr
  have hlost : t1.keepsRegs (t1.rxLost c e) (huntReg c) := fun q o ho hn => by
    by_cases hfree : trafficFree c q o
    · exact (TrafficSide.rxLost c t1 e).rd q o ho hfree
    · exact (DropSide.rxLost t1 e).cart q o (by_contra fun hcart => hn ⟨hfree, hcart⟩)
  exact Tray.keepsRegs_trans (Tray.keepsRegs_trans h1 hlost) (Tray.keepsRegs_of rfl)

/-- What an UP port does beside the counts where a codeword fails. -/
theorem Tray.codeword_failed {t : Tray} {c n : Nat} (hn : n < 256) (hp : t.pst c (n / 4) = S.UP) :
    (t.cwFailed c n).keepsRegs (t.codeword c n .failed) (huntReg c) := by
  have he : n / 4 < 64 := by omega
  have hph : t.phase c (n / 4) = S.UP := Tray.phase_of_pst hp (by decide)
  have hcount : t.codeword c n .failed = ((t.cnt (lanePg c n) F.LANE_FEC_CW_COUNT 1).cwFail c n).groupCw c n none := by
    unfold Tray.codeword
    simp only [hph, beq_self_eq_true, Bool.or_true, Bool.true_or, if_true, true_or, or_true]
  have hfail : (t.cwFailed c n).keepsRegs ((t.cnt (lanePg c n) F.LANE_FEC_CW_COUNT 1).cwFail c n) (huntReg c) := by
    unfold Tray.cwFail
    dsimp only
    split
    · split
      · exact Tray.keepsRegs_refl (t.cwFailed c n) _
      · exact (t.cwFailed c n).enterHunt_keeps c he
    · exact Tray.keepsRegs_refl (t.cwFailed c n) _
  rw [hcount]
  exact Tray.keepsRegs_trans hfail (Tray.keepsRegs_mono (Tray.groupCw_staysBut _ c hn _).regs fun q o h =>
    ⟨h.2 ▸ TrafficSide.not_free_high q (by decide), h.2 ▸ not_cartReg_off q (by decide)⟩)

theorem JobSide.keepsHunt {c : Nat} {t u w : Tray} (h : JobSide c u w) (hk : t.keepsRegs u (huntReg c)) :
    t.keepsRegs w (huntReg c) := fun q o ho hn => by
  refine (h.keeps q o ho ?_).trans (hk q o ho hn)
  by_cases hfree : trafficFree c q o
  · exact TrafficSide.jobFree_of hfree
  · have hcart : cartReg q o := by_contra fun hcart => hn ⟨hfree, hcart⟩
    unfold cartReg at hcart
    exact .inl (.inr (.inl (by omega)))

theorem not_huntReg_lane {c n o : Nat} (hn : n < 256) (ho : 0x100 ≤ o ∧ o < 0x200) : ¬ huntReg c (lanePg c n) o := fun h =>
  h.1 (.inr (.inl ⟨.inr (by unfold lanePg chipPg; omega), by omega, by omega⟩))

/-- CODEWORD_RECEIVE of a codeword that does not decode, R116. -/
theorem codewordReceive_failed {s : State} {c : Fin 5} {n : Fin 256} (hp : s.tray.pst c.val (n.val / 4) = S.UP) :
    Completes (.codewordReceive c n .failed) s (fun t =>
      t.tray.gf (lanePg c.val n.val) F.LANE_FEC_CW_COUNT =
        (s.tray.gf (lanePg c.val n.val) F.LANE_FEC_CW_COUNT + 1) % 2 ^ 64 ∧
      t.tray.gf (lanePg c.val n.val) F.LANE_FEC_UNC_COUNT =
        (s.tray.gf (lanePg c.val n.val) F.LANE_FEC_UNC_COUNT + 1) % 2 ^ 64 ∧
      t.tray.gf (portPg c.val (n.val / 4)) F.PORT_CW_DROP_FLITS =
        (s.tray.gf (portPg c.val (n.val / 4)) F.PORT_CW_DROP_FLITS + 10) % 2 ^ 64 ∧
      t.tray.pst c.val (n.val / 4) = S.UP ∧ s.tray.keepsRegs t.tray (portTraffic c.val (n.val / 4))) := by
  have hn := n.isLt
  have he : n.val / 4 < 64 := by omega
  obtain ⟨hcw, hunc, hdrop, hpst⟩ := s.tray.cwFailed_counts c.val n.val
  refine completes_runC_side (exec_codewordReceive ..) rfl fun w t hside ht => ?_
  have hkeep := ht.keepsRegs (hside.keepsHunt (Tray.codeword_failed hn hp))
  have hdropReg : ¬ huntReg c.val (portPg c.val (n.val / 4)) A.PORT_CW_DROP := fun h =>
    h.2 (by unfold cartReg portPg chipPg A.PORT_CW_DROP; omega)
  refine ⟨(Tray.keepsRegs_gf hkeep _ _ (by decide) (not_huntReg_lane hn (by decide))).trans hcw,
    (Tray.keepsRegs_gf hkeep _ _ (by decide) (not_huntReg_lane hn (by decide))).trans hunc,
    (Tray.keepsRegs_gf hkeep _ _ (by decide) hdropReg).trans hdrop,
    (Tray.keepsRegs_pst hkeep fun h => h.1 (trafficFree_port he (by decide))).trans (hpst.trans hp),
    Tray.keepsRegs_trans (s.tray.cwFailed_keeps c.val n.val) (Tray.keepsRegs_mono hkeep fun _ _ h => .inr h.1)⟩

/-- Settles O18, by what the lane receives. -/
theorem trainingFramesAndCodewords : Obligations.TrainingFramesAndCodewords := by
  intro s c n hs
  refine ⟨fun cw ready wish hok hp => ?frame, fun hp => ⟨codewordReceive_decoded hs hp, codewordReceive_failed hp⟩⟩
  case frame =>
    intro tap old v hop hnew htap hlo hhi hsw
    exact trainingFrame_moves hs ready wish hok hp hop hnew htap rfl hlo hhi hsw

end Sys2Proof.Machine
end

section
/-! SUPPORT. Cartridges come and go (R142–R144): what the updates of a bay's eight ports leave, and the notes of ended jobs of one
chip where those of the others are settled. -/
namespace Sys2Proof.Machine

theorem exec_cartInsert (b : Fin 40) (x : CartInfo) (s : State) :
    exec (.cartInsert b x) s = .next (s.runD (fun t => t.cartInsert b.val x)) := rfl
theorem exec_cartReady (b : Fin 40) (s : State) :
    exec (.cartReady b) s = .next (s.run (fun t => t.cartReady b.val)) := rfl
theorem exec_cartRemove (b : Fin 40) (s : State) :
    exec (.cartRemove b) s = .next (s.runD (fun t => t.cartRemove b.val)) := rfl
theorem exec_cmisInterrupt (b : Fin 40) (fl : CmisFlags) (s : State) :
    exec (.cmisInterrupt b fl) s = .next (s.runD (fun t => t.cmisInterrupt b.val fl)) := rfl

/-! ### One update per element -/

/-- Updates of a list of different elements: each finds its own element as at first (`S`), and what it brings about (`P`) stays. -/
theorem Tray.each_distinct {α : Type} (S P : α → Tray → Prop) (f : Tray → α → Tray) {l : List α} (hl : l.Nodup)
    (hown : ∀ t a, a ∈ l → S a t → P a (f t a)) (hS : ∀ t a b, a ∈ l → b ∈ l → a ≠ b → S a t → S a (f t b))
    (hP : ∀ t a b, a ∈ l → b ∈ l → a ≠ b → P a t → P a (f t b)) {t : Tray} (ht : ∀ a ∈ l, S a t) : ∀ a ∈ l, P a (t.each l f) := by
  have hkeep : ∀ (Q : α → Tray → Prop), (∀ t a b, a ∈ l → b ∈ l → a ≠ b → Q a t → Q a (f t b)) → ∀ (k : List α),
      (∀ b ∈ k, b ∈ l) → ∀ a ∈ l, a ∉ k → ∀ w, Q a w → Q a (w.each k f) := fun Q hQ k hk a ha hnot w hw =>
    Tray.each_keeps (Q a) f k (fun x b hb hx => hQ x a b ha (hk b hb) (fun h => hnot (h ▸ hb)) hx) w hw
  have hrest : ∀ k : List α, k.Nodup → (∀ b ∈ k, b ∈ l) → ∀ w, (∀ a ∈ k, S a w) → ∀ a ∈ k, P a (w.each k f) := by
    intro k
    induction k with
    | nil => exact fun _ _ _ _ a ha => absurd ha List.not_mem_nil
    | cons b k ih =>
      intro hn hk w hw a ha
      obtain ⟨hb, hn⟩ := List.nodup_cons.1 hn
      have hbl : b ∈ l := hk b List.mem_cons_self
      have hkl : ∀ x ∈ k, x ∈ l := fun x hx => hk x (List.mem_cons_of_mem _ hx)
      rcases List.mem_cons.1 ha with rfl | ha
      · exact hkeep P hP k hkl a hbl hb (f w a) (hown w a hbl (hw a List.mem_cons_self))
      · refine ih hn hkl (f w b) (fun x hx => ?_) a ha
        exact hS w x b (hkl x hx) hbl (fun h => hb (h ▸ hx)) (hw x (List.mem_cons_of_mem _ hx))
  exact hrest l hl (fun _ h => h) t ht

/-! ### The ports of a bay -/

theorem mem_bayPorts {b e : Nat} : e ∈ bayPorts b ↔ ∃ k, k < 8 ∧ e = 8 * (b % 8) + k := by
  unfold bayPorts
  constructor
  · intro h
    obtain ⟨k, hk, rfl⟩ := List.mem_map.1 h
    exact ⟨k, List.mem_range.1 hk, rfl⟩
  · rintro ⟨k, hk, rfl⟩
    exact List.mem_map.2 ⟨k, List.mem_range.2 hk, rfl⟩

theorem bayPorts_lt {b e : Nat} (h : e ∈ bayPorts b) : e < 64 := by
  obtain ⟨k, hk, rfl⟩ := mem_bayPorts.1 h
  omega

theorem nodup_bayPorts (b : Nat) : (bayPorts b).Nodup :=
  List.nodup_range.map fun _ _ h => Nat.add_left_cancel h

/-- The registers of the ports of a bay. -/
def bayArea (b q o : Nat) : Prop := ∃ e ∈ bayPorts b, portArea (b / 8) e q o

/-- What may change where the ports of a bay go down. -/
def bayDown (b q o : Nat) : Prop := ∃ e ∈ bayPorts b, portDown (b / 8) e q o

theorem bayDown_iff (b q o : Nat) : bayDown b q o ↔ ∃ k, k < 8 ∧ portDown (b / 8) (8 * (b % 8) + k) q o := by
  unfold bayDown
  constructor
  · rintro ⟨e, he, h⟩
    obtain ⟨k, hk, rfl⟩ := mem_bayPorts.1 he
    exact ⟨k, hk, h⟩
  · rintro ⟨k, hk, h⟩
    exact ⟨_, mem_bayPorts.2 ⟨k, hk, rfl⟩, h⟩

theorem bayDown_of_bayArea {b q o : Nat} : bayArea b q o → bayDown b q o := fun ⟨e, he, h⟩ => ⟨e, he, .inl h⟩

theorem bayDown_of_portDown {b e q o : Nat} (he : e ∈ bayPorts b) (h : portDown (b / 8) e q o) : bayDown b q o := ⟨e, he, h⟩

theorem bayArea_port {b e : Nat} (he : e ∈ bayPorts b) (o : Nat) : bayArea b (portPg (b / 8) e) o := ⟨e, he, portArea_port ..⟩

theorem lead_mem_bayPorts (b : Nat) : 8 * (b % 8) ∈ bayPorts b := mem_bayPorts.2 ⟨0, by decide, rfl⟩

theorem bayArea_bayPg (b o : Nat) : bayArea b (bayPg b) o := bayArea_port (lead_mem_bayPorts b) o

theorem cartReg_bayPg (b : Nat) : cartReg (bayPg b) A.PORT_CART := by
  unfold cartReg bayPg portPg chipPg A.PORT_CART
  omega

theorem JobSide.keepsBay {b : Nat} {t u w : Tray} (h : JobSide (b / 8) u w) (hk : t.keepsRegs u (bayDown b)) :
    t.keepsRegs w (bayDown b) := fun q o ho hn => by
  have hfree : abortFree (b / 8) q o := by_contra fun hf => hn ⟨_, lead_mem_bayPorts b, .inr hf⟩
  exact (h.keeps q o ho (TrafficSide.jobFree_of hfree.1)).trans (hk q o ho hn)

/-! ### Ends of jobs of one chip -/

/-- With the slots of the other chips settled, noting the ends adds what jobs of the one chip may change. -/
theorem Tray.sweepAll_side (t : Tray) (c : Nat) (h : ∀ d, d < 5 → d ≠ c → t.settled d) : JobSide c t t.sweepAll := by
  unfold Tray.sweepAll
  refine (Tray.each_keeps (fun w => JobSide c t w ∧ ∀ d, d < 5 → d ≠ c → w.settled d) _ _ (fun w d hd hw => ?_) t
    ⟨JobSide.refl c t, h⟩).1
  obtain ⟨hside, hsettled⟩ := hw
  by_cases hdc : d = c
  · subst hdc
    exact ⟨hside.trans (JobSide.dealerSweep d w), fun k hk hkd => (Tray.OneDealer.dealerSweep w).settled hkd (hsettled k hk hkd)⟩
  · rw [w.dealerSweep_settled d (hsettled d (List.mem_range.1 hd) hdc)]
    exact ⟨hside, hsettled⟩

theorem completes_runD_side {i : Instr} {s : State} {P : State → Prop} {f : Tray → Tray} {c : Nat}
    (he : exec i s = .next (s.runD f)) {u : Tray} (hu : f s.tray = u) (hc : ∀ d, d < 5 → d ≠ c → u.settled d)
    (hP : ∀ (w : Tray) (t : State), JobSide c u w → t.Like w → P t) : Completes i s P := by
  rw [s.runD_eq] at he
  exact completes_run he rfl fun t ht => hP _ t (hu ▸ u.sweepAll_side c hc) ht

/-! ### Alarms and dirty pages of a bay -/

theorem Tray.bayAlarm_stays (t : Tray) (b i : Nat) (v : Bool) :
    t.Stays (t.bayAlarm b i v) (fun q o => ∃ e ∈ bayPorts b, alarmReg (b / 8) e q o) :=
  Tray.Stays.each _ _ (fun w k hk => (w.setAlarm_stays (b / 8) (8 * (b % 8) + k) i v).mono fun _ _ h =>
    ⟨_, mem_bayPorts.2 ⟨k, List.mem_range.1 hk, rfl⟩, h⟩) (Tray.Stays.refl ..)

theorem Tray.bayDirty_stays (t : Tray) (b : Nat) (R : Nat → Nat → Prop) : t.Stays (t.bayDirty b) R :=
  Tray.Stays.each _ _ (fun w _ _ => w.markDirty_stays _ R)
    (Tray.Stays.each _ _ (fun w _ _ => w.markDirty_stays _ R) (Tray.Stays.refl ..))

theorem Tray.bayDirty_gf (t : Tray) (b q : Nat) (f : Fld) : (t.bayDirty b).gf q f = t.gf q f :=
  congrArg f.get (Tray.rd_congr ((Tray.each_same (fun u : Tray => u.regs) _ _ (fun u _ _ => u.markDirty_regs _) _).trans
    (Tray.each_same (fun u : Tray => u.regs) _ _ (fun u _ _ => u.markDirty_regs _) t)) q f.off)

/-- The alarms of the ports of a bay. -/
def bayAlarmReg (b q o : Nat) : Prop := ∃ e ∈ bayPorts b, alarmReg (b / 8) e q o

theorem bayArea_of_alarm {b q o : Nat} (h : bayAlarmReg b q o) : bayArea b q o := by
  obtain ⟨e, he, rfl, -⟩ := h
  exact bayArea_port he o

theorem not_bayAlarmReg {b q o : Nat} (h : o ≠ A.PORT_ALARM) (h' : o ≠ 0x20) : ¬ bayAlarmReg b q o :=
  fun ⟨_, _, _, ho⟩ => ho.elim h h'

/-- CMIS_FAIL of a bay ends. -/
theorem Tray.cmisFail_ends (t : Tray) (b : Nat) :
    (t.modBay b (fun x => { x with cmisFail := false })).Stays (t.cmisFail b false) (bayAlarmReg b) :=
  Tray.bayAlarm_stays ..

/-! ### CART_READY and CMIS_INTERRUPT -/

theorem Tray.mstate_stays (t : Tray) (b st : Nat) :
    t.Stays (t.sf (bayPg b) F.PORT_CART_MSTATE st) (fun q o => q = bayPg b ∧ o = A.PORT_CART) :=
  (Tray.Stays.refl ..).sf _ ⟨rfl, rfl⟩ (by decide)

/-- CART_READY, R144. -/
theorem cartReady_shows {s : State} {b : Fin 40} {x : CartInfo} (hx : (s.tray.bay b.val).info = some x)
    (hty : 1 ≤ s.tray.gf (bayPg b.val) F.PORT_CART_TYPE) (hty' : s.tray.gf (bayPg b.val) F.PORT_CART_TYPE ≤ 3)
    (hcompat : x.compat ≠ 2) (hhot : (s.tray.bay b.val).hot = false) :
    Completes (.cartReady b) s (fun t =>
      t.tray.gf (bayPg b.val) F.PORT_CART_MSTATE = 3 ∧
      s.tray.keepsRegs t.tray (fun q o => q = bayPg b.val ∧ o = A.PORT_CART) ∧ s.tray.keepsBlocks t.tray) := by
  have hgo : s.tray.cartReady b.val = s.tray.sf (bayPg b.val) F.PORT_CART_MSTATE 3 := by
    unfold Tray.cartReady
    rw [hx]
    exact if_pos ⟨hty, hty', hcompat, by simp [hhot]⟩
  exact completes_run (exec_cartReady ..) hgo fun t ht =>
    ⟨(ht.gf ..).trans (Tray.gf_sf_self _ _ F.PORT_CART_MSTATE _ (by decide)), ht.stays (s.tray.mstate_stays ..)⟩

theorem bitsOf_zero (w : Nat) : bitsOf w 0 = [] := by
  unfold bitsOf
  refine List.filter_eq_nil_iff.2 fun i _ => ?_
  simp [bitOf]

/-- CMIS_INTERRUPT that reports no laser, R142. -/
theorem cmisInterrupt_shows {s : State} {b : Fin 40} (hs : ∀ d, d < 5 → s.tray.settled d) {x : CartInfo} {fl : CmisFlags}
    (hx : (s.tray.bay b.val).info = some x) (hwf : fl.wf = true) (hfail : fl.txFail = 0) :
    Completes (.cmisInterrupt b fl) s (fun t =>
      t.tray.gf (bayPg b.val) F.PORT_CART_MSTATE = fl.mstate ∧
      s.tray.keepsRegs t.tray (fun q o => q = bayPg b.val ∧ o = A.PORT_CART) ∧ s.tray.keepsBlocks t.tray) := by
  have hgo : s.tray.cmisInterrupt b.val fl = s.tray.sf (bayPg b.val) F.PORT_CART_MSTATE fl.mstate := by
    unfold Tray.cmisInterrupt
    rw [if_neg (by simp [hx]), hfail, bitsOf_zero]
    rfl
  obtain ⟨hm, -, -⟩ := of_decide_eq_true hwf
  have hstay := s.tray.mstate_stays b.val fl.mstate
  refine completes_runD (exec_cmisInterrupt ..) hgo (fun d hd => hstay.settled (hs d hd)) fun t ht =>
    ⟨(ht.gf ..).trans ((Tray.gf_sf_self _ _ F.PORT_CART_MSTATE _ (by decide)).trans (Nat.mod_eq_of_lt ?_)), ht.stays hstay⟩
  exact lt_trans hm (by decide)

/-! ### CART_INSERT -/

/-- The bay has a cartridge that answers. -/
def Tray.cartIn (t : Tray) (b : Nat) (x : CartInfo) : Tray :=
  (t.modBay b (fun y => { y with info := some x })).modBay b (fun y => { y with cmisFail := false })

/-- PORT_CART shows what the cartridge declares. -/
def Tray.cartDeclared (t : Tray) (b : Nat) (x : CartInfo) : Tray :=
  (((((((t.modBay b (fun y => { y with info := some x })).cmisFail b false).sf (bayPg b) F.PORT_CART_TYPE x.kind).sf (bayPg b)
    F.PORT_CART_MSTATE 2).sf (bayPg b) F.PORT_CART_LEN_DM x.lenDm).sf (bayPg b) F.PORT_CART_FW x.fw).sf (bayPg b)
    F.PORT_CART_SPARES_LEFT (if x.kind = 3 then x.spares else 0)).bayDirty b

/-- A held port of the bay is freed. -/
def Tray.freeHeld (t : Tray) (c e : Nat) : Tray := if t.pst c e = S.HELD then t.setPst c e S.DOWN else t

/-- A cartridge of the subset, that is not marked incompatible. -/
theorem Tray.cartInsert_declares {t : Tray} {b : Nat} {x : CartInfo} (hnone : (t.bay b).info = none)
    (hu : (t.chip (b / 8)).coreUp = true) (hk : 1 ≤ x.kind) (hk' : x.kind ≤ 3) (hans : x.answers = true)
    (happ : x.hasApp = true) (hcompat : x.compat = 0) :
    t.cartInsert b x = (t.cartDeclared b x).each (bayPorts b) (fun w e => w.freeHeld (b / 8) e) := by
  unfold Tray.cartInsert
  simp only [hnone, hu, hk, hk', hans, happ, hcompat, Option.isSome_none, Bool.false_eq_true, not_true_eq_false, or_self,
    if_false, decide_true, Bool.and_self, Bool.not_true, if_true, true_and, Nat.zero_ne_one, OfNat.zero_ne_ofNat]
  rfl

/-- Alarms and PORT_CART. -/
def declaredReg (b q o : Nat) : Prop := bayAlarmReg b q o ∨ (q = bayPg b ∧ o = A.PORT_CART)

theorem Tray.cartDeclared_stays (t : Tray) (b : Nat) (x : CartInfo) : (t.cartIn b x).Stays (t.cartDeclared b x) (declaredReg b) := by
  have hends : (t.cartIn b x).Stays ((t.modBay b (fun y => { y with info := some x })).cmisFail b false) (declaredReg b) :=
    (Tray.cmisFail_ends _ b).mono fun _ _ => .inl
  have hcart : ∀ {f : Fld}, f.off = A.PORT_CART → declaredReg b (bayPg b) f.off := fun h => .inr ⟨rfl, h⟩
  unfold Tray.cartDeclared
  exact (((((hends.sf _ (hcart rfl) (by decide)).sf _ (hcart rfl) (by decide)).sf _ (hcart rfl) (by decide)).sf _ (hcart rfl)
    (by decide)).sf _ (hcart rfl) (by decide)).trans (Tray.bayDirty_stays ..)

theorem Tray.cartDeclared_shows (t : Tray) (b : Nat) {x : CartInfo} (hk : x.kind ≤ 3) (hx : x.wf = true) :
    (t.cartDeclared b x).gf (bayPg b) F.PORT_CART_TYPE = x.kind ∧
      (t.cartDeclared b x).gf (bayPg b) F.PORT_CART_LEN_DM = x.lenDm := by
  obtain ⟨-, hlen, -⟩ := of_decide_eq_true hx
  unfold Tray.cartDeclared
  rw [Tray.bayDirty_gf, Tray.bayDirty_gf]
  simp (disch := decide) only [Tray.gf_sf_ne, Tray.gf_sf_self]
  exact ⟨Nat.mod_eq_of_lt (lt_of_le_of_lt hk (by decide)), Nat.mod_eq_of_lt hlen⟩

theorem Tray.freeHeld_stays (t : Tray) (c e : Nat) : t.Stays (t.freeHeld c e) (stateReg c e) := by
  unfold Tray.freeHeld
  split
  · exact t.setPst_stays c e S.DOWN
  · exact Tray.Stays.refl ..

/-- PORT_TRAIN_STS of another port is no register of this one. -/
theorem not_stateReg_other {c e g o : Nat} (hg : g < 64) (hne : g ≠ e) : ¬ stateReg c e (portPg c g) o := by
  rintro (⟨h, -⟩ | ⟨h, -⟩ | ⟨j, -, h, -⟩)
  · unfold portPg chipPg at h
    omega
  · exact portPg_ne_chip0 c g h
  · exact portPg_ne_lanePg c g _ hg h

theorem Tray.freeHeld_pst (t : Tray) (c : Nat) {e : Nat} (he : e < 64) :
    (t.freeHeld c e).pst c e = if t.pst c e = S.HELD then S.DOWN else t.pst c e := by
  unfold Tray.freeHeld
  split
  · exact t.setPst_pst c e _ he (by decide)
  · rfl

theorem Tray.freeHeld_pst_ne (t : Tray) (c : Nat) {e g : Nat} (hg : g < 64) (hne : g ≠ e) :
    (t.freeHeld c e).pst c g = t.pst c g := Tray.keepsRegs_pst (t.freeHeld_stays c e).regs (not_stateReg_other hg hne)

theorem Tray.freeHeld_cart (t : Tray) (c b : Nat) {e : Nat} (he : e < 64) :
    (t.freeHeld c e).rd (bayPg b) A.PORT_CART = t.rd (bayPg b) A.PORT_CART := by
  unfold Tray.freeHeld
  split
  · exact (DropSide.setPst (c := c) t S.DOWN he).cart _ _ (cartReg_bayPg b)
  · rfl

/-- CART_INSERT, R143, R144. -/
theorem cartInsert_shows {s : State} {b : Fin 40} (hs : ∀ d, d < 5 → s.tray.settled d) {x : CartInfo} (hx : x.wf = true)
    (hnone : (s.tray.bay b.val).info = none) (hu : (s.tray.chip (b.val / 8)).coreUp = true) (hk : 1 ≤ x.kind)
    (hk' : x.kind ≤ 3) (hans : x.answers = true) (happ : x.hasApp = true) (hcompat : x.compat = 0) :
    Completes (.cartInsert b x) s (fun t =>
      (t.tray.bay b.val).info = some x ∧ t.tray.gf (bayPg b.val) F.PORT_CART_TYPE = x.kind ∧
      t.tray.gf (bayPg b.val) F.PORT_CART_LEN_DM = x.lenDm ∧
      (∀ e ∈ bayPorts b.val, t.tray.pst (b.val / 8) e =
        if s.tray.pst (b.val / 8) e = S.HELD then S.DOWN else s.tray.pst (b.val / 8) e) ∧
      s.tray.keepsRegs t.tray (bayDown b.val)) := by
  let v := s.tray.cartDeclared b.val x
  have hin := s.tray.cartDeclared_stays b.val x
  have hfree : v.Stays (v.each (bayPorts b.val) fun w e => w.freeHeld (b.val / 8) e) (bayArea b.val) :=
    Tray.Stays.each _ _ (fun w e he => (w.freeHeld_stays _ e).mono fun _ _ h => ⟨e, he, portArea_of_stateReg h⟩)
      (Tray.Stays.refl ..)
  have hdecl : ∀ q o, declaredReg b.val q o → bayArea b.val q o := fun q o h =>
    h.elim bayArea_of_alarm fun h => h.1 ▸ bayArea_bayPg _ o
  have hstay := (hin.mono hdecl).trans hfree
  have hcart : ∀ f : Fld, f.off = A.PORT_CART →
      (v.each (bayPorts b.val) fun w e => w.freeHeld (b.val / 8) e).gf (bayPg b.val) f = v.gf (bayPg b.val) f := fun f hf =>
    congrArg f.get (hf ▸ Tray.each_same (fun w => w.rd (bayPg b.val) A.PORT_CART) _ _
      (fun w e he => w.freeHeld_cart _ b.val (bayPorts_lt he)) v)
  have hpst : ∀ e, v.pst (b.val / 8) e = s.tray.pst (b.val / 8) e := fun e => by
    refine Tray.keepsRegs_pst (t := s.tray.cartIn b.val x) hin.regs ?_
    rintro (h | ⟨-, h⟩)
    · exact not_bayAlarmReg (by decide) (by decide) h
    · exact absurd h (by decide)
  have hports := Tray.each_distinct (fun e w => w.pst (b.val / 8) e = s.tray.pst (b.val / 8) e)
    (fun e w => w.pst (b.val / 8) e = if s.tray.pst (b.val / 8) e = S.HELD then S.DOWN else s.tray.pst (b.val / 8) e)
    (fun w e => w.freeHeld (b.val / 8) e) (nodup_bayPorts b.val)
    (fun w e he h => by rw [w.freeHeld_pst _ (bayPorts_lt he), h])
    (fun w e g he _ hne h => (w.freeHeld_pst_ne _ (bayPorts_lt he) hne).trans h)
    (fun w e g he _ hne h => (w.freeHeld_pst_ne _ (bayPorts_lt he) hne).trans h) (t := v)
    (fun e _ => hpst e)
  obtain ⟨hty, hlen⟩ := s.tray.cartDeclared_shows b.val hk' hx
  have hset : ∀ d, d < 5 → (s.tray.cartIn b.val x).settled d := fun d hd => (Tray.settled_congr rfl d).2 (hs d hd)
  refine completes_runD (exec_cartInsert ..) (Tray.cartInsert_declares hnone hu hk hk' hans happ hcompat)
    (fun d hd => hstay.settled (hset d hd)) fun t ht =>
    ⟨?_, (ht.gf ..).trans ((hcart _ rfl).trans hty), (ht.gf ..).trans ((hcart _ rfl).trans hlen),
      fun e he => (ht.gf ..).trans (hports e he),
      ht.keepsRegs (Tray.keepsRegs_trans (u := s.tray.cartIn b.val x) (Tray.keepsRegs_of rfl)
        (Tray.keepsRegs_mono hstay.regs fun _ _ => bayDown_of_bayArea))⟩
  have hbays := hstay.blocks.2.2.2.1
  have hbay : ∀ w : Tray, w.bays = (s.tray.cartIn b.val x).bays → (w.bay b.val).info = some x := fun w hw => by
    have h : w.bay b.val = (s.tray.cartIn b.val x).bay b.val := by
      unfold Tray.bay
      rw [hw]
    rw [h]
    unfold Tray.cartIn
    rw [Tray.bay_modBay, Tray.bay_modBay]
  rw [ht.bay]
  exact hbay _ hbays

/-! ### CART_REMOVE -/

theorem alarmReg_mono {b e q o : Nat} (he : e ∈ bayPorts b) (h : alarmReg (b / 8) e q o) : bayArea b q o := by
  obtain ⟨rfl, -⟩ := h
  exact bayArea_port he o

/-- A lane of the bay shows nothing of its cartridge any more. -/
def Tray.laneCleared (t : Tray) (c n : Nat) : Tray :=
  (((t.wr (lanePg c n) A.LANE_WEAR 0).sb (lanePg c n) F.LANE_STS_SPARED false).sb (lanePg c n) F.LANE_STS_FLOOD
    false).modLane c n (fun l => { l with side := 0, worn := false, eol := false, noSpare := false })

/-- PORT_CART and the bay are empty. -/
def Tray.bayEmptied (t : Tray) (b : Nat) : Tray := (t.wr (bayPg b) A.PORT_CART 0).modBay b (fun x => { cmis := x.cmis })

/-- The lanes of the bay show nothing of its cartridge any more. -/
def Tray.lanesCleared (t : Tray) (b : Nat) : Tray :=
  t.each (List.range 32) (fun t j => t.laneCleared (b / 8) (32 * (b % 8) + j))

/-- The cartridge is out of the bay, the ports as they were. -/
def Tray.cartOut (t : Tray) (b : Nat) : Tray :=
  (((t.cmisFail b false).bayAlarm b Al.CART_FAULT false).bayEmptied b).lanesCleared b

/-- A port that loses its cartridge. -/
def Tray.loseCart (t : Tray) (c e : Nat) : Tray :=
  if t.live c e then (t.wearAlarms c e).portLeave c e Cz.CART
  else if t.pst c e = S.DISABLED ∨ t.pst c e = S.DIAG then t.wearAlarms c e
  else (t.wearAlarms c e).portTo c e S.DOWN Cz.CART

theorem Tray.cartRemove_eq {t : Tray} {b : Nat} {x : CartInfo} (hx : (t.bay b).info = some x) :
    t.cartRemove b =
      (((t.cartOut b).each (bayPorts b) (fun w e => w.loseCart (b / 8) e)).bayDirty b).logChip .cartRemoved (b / 8) [b] := by
  unfold Tray.cartRemove
  rw [if_neg (by simp [hx])]
  rfl

/-! #### The empty bay -/

/-- A register of a lane of the bay. -/
def bayLane (b q : Nat) : Prop := ∃ j, j < 32 ∧ q = lanePg (b / 8) (32 * (b % 8) + j)

theorem bayArea_of_bayLane {b q : Nat} (o : Nat) (h : bayLane b q) : bayArea b q o := by
  obtain ⟨j, hj, rfl⟩ := h
  exact ⟨8 * (b % 8) + j / 4, mem_bayPorts.2 ⟨j / 4, by omega, rfl⟩, portArea_lane (by omega) o⟩

theorem Tray.laneCleared_keeps (t : Tray) (c n : Nat) : t.keepsRegs (t.laneCleared c n) (fun q _ => q = lanePg c n) := by
  have hwear := (Tray.Stays.refl t (fun q _ => q = lanePg c n)).wr (pg := lanePg c n) (off := A.LANE_WEAR) 0 rfl (by decide)
  have hsts := (hwear.sb (pg := lanePg c n) (f := F.LANE_STS_SPARED) false rfl (by decide)).sb (pg := lanePg c n)
    (f := F.LANE_STS_FLOOD) false rfl (by decide)
  exact Tray.keepsRegs_trans hsts.regs (Tray.keepsRegs_of (Tray.modLane_regs ..))

theorem Tray.lanesCleared_keeps (t : Tray) (b : Nat) : t.keepsRegs (t.lanesCleared b) (fun q _ => bayLane b q) :=
  Tray.keepsRegs_each _ _ (fun w j hj => Tray.keepsRegs_mono (w.laneCleared_keeps _ _) fun _ _ h =>
    ⟨j, List.mem_range.1 hj, h⟩) (Tray.keepsRegs_refl t _)

theorem Tray.laneCleared_blocks (t : Tray) (c n : Nat) :
    (t.laneCleared c n).bays = t.bays ∧ (t.laneCleared c n).dealers = t.dealers := by
  unfold Tray.laneCleared
  constructor
  · rw [Tray.modLane_bays, Tray.sb_bays, Tray.sb_bays, Tray.wr_bays]
  · rw [Tray.modLane_dealers, Tray.sb_dealers, Tray.sb_dealers, Tray.wr_dealers]

theorem Tray.lanesCleared_blocks (t : Tray) (b : Nat) :
    (t.lanesCleared b).bays = t.bays ∧ (t.lanesCleared b).dealers = t.dealers := by
  unfold Tray.lanesCleared
  constructor
  · exact Tray.each_same (fun w : Tray => w.bays) _ _ (fun w _ _ => (w.laneCleared_blocks _ _).1) t
  · exact Tray.each_same (fun w : Tray => w.dealers) _ _ (fun w _ _ => (w.laneCleared_blocks _ _).2) t

theorem Tray.bayEmptied_keeps (t : Tray) (b : Nat) :
    t.keepsRegs (t.bayEmptied b) (fun q o => q = bayPg b ∧ o = A.PORT_CART) := by
  have hcart := (Tray.Stays.refl t (fun q o => q = bayPg b ∧ o = A.PORT_CART)).wr (pg := bayPg b) (off := A.PORT_CART) 0
    ⟨rfl, rfl⟩ (by decide)
  exact Tray.keepsRegs_trans hcart.regs (Tray.keepsRegs_of (Tray.modBay_regs ..))

theorem Tray.bayEmptied_cart (t : Tray) (b : Nat) : (t.bayEmptied b).rd (bayPg b) A.PORT_CART = 0 := by
  unfold Tray.bayEmptied
  rw [Tray.rd_modBay]
  exact Tray.rd_wr_self ..

theorem Tray.bayEmptied_info (t : Tray) (b : Nat) : ((t.bayEmptied b).bay b).info = none := by
  unfold Tray.bayEmptied
  rw [Tray.bay_modBay]

theorem Tray.bayEmptied_dealers (t : Tray) (b : Nat) : (t.bayEmptied b).dealers = t.dealers := by
  unfold Tray.bayEmptied
  rw [Tray.modBay_dealers, Tray.wr_dealers]

/-- What taking the cartridge out of the bay leaves. -/
structure Tray.CartOut (t : Tray) (b : Nat) (u : Tray) : Prop where
  keeps : t.keepsRegs u (fun q o => bayAlarmReg b q o ∨ (q = bayPg b ∧ o = A.PORT_CART) ∨ bayLane b q)
  cart : u.rd (bayPg b) A.PORT_CART = 0
  info : (u.bay b).info = none
  dealers : u.dealers = t.dealers

theorem not_bayLane_port {b e : Nat} (he : e < 64) : ¬ bayLane b (portPg (b / 8) e) :=
  fun ⟨_, _, h⟩ => portPg_ne_lanePg (b / 8) e _ he h

theorem Tray.cartOut_out (t : Tray) (b : Nat) : t.CartOut b (t.cartOut b) := by
  have halarm : (t.modBay b (fun x => { x with cmisFail := false })).Stays
      ((t.cmisFail b false).bayAlarm b Al.CART_FAULT false) (bayAlarmReg b) :=
    (Tray.cmisFail_ends t b).trans (Tray.bayAlarm_stays ..)
  unfold Tray.cartOut
  generalize (t.cmisFail b false).bayAlarm b Al.CART_FAULT false = u at halarm ⊢
  refine ⟨?_, ?_, ?_, ?_⟩
  · have hfirst : t.keepsRegs u (bayAlarmReg b) :=
      Tray.keepsRegs_trans (Tray.keepsRegs_of (Tray.modBay_regs ..)) halarm.regs
    exact Tray.keepsRegs_trans (Tray.keepsRegs_trans (Tray.keepsRegs_mono hfirst fun _ _ => .inl)
      (Tray.keepsRegs_mono (u.bayEmptied_keeps b) fun _ _ h => .inr (.inl h)))
      (Tray.keepsRegs_mono ((u.bayEmptied b).lanesCleared_keeps b) fun _ _ h => .inr (.inr h))
  · exact ((u.bayEmptied b).lanesCleared_keeps b (bayPg b) A.PORT_CART (by decide) (not_bayLane_port (by omega))).trans
      (u.bayEmptied_cart b)
  · have hinfo := u.bayEmptied_info b
    unfold Tray.bay at hinfo ⊢
    rw [(Tray.lanesCleared_blocks ..).1]
    exact hinfo
  · rw [(Tray.lanesCleared_blocks ..).2, Tray.bayEmptied_dealers, halarm.blocks.2.2.2.2.2.1, Tray.modBay_dealers]

/-! #### The ports -/

theorem Tray.not_live_of_pst {t : Tray} {c e st : Nat} (h : t.pst c e = st) (hs : st ∉ [S.UP, S.FLOOD_HOLD, S.RETRAIN]) :
    t.live c e = false := by
  simpa [Tray.live, and_assoc, h] using hs

theorem Tray.leaveTo_not_live (t : Tray) (c e cause : Nat) : t.leaveTo c e cause ∉ [S.UP, S.FLOOD_HOLD, S.RETRAIN] := by
  unfold Tray.leaveTo
  split_ifs <;> decide

theorem Tray.wearAlarms_pst (t : Tray) (c e g : Nat) : (t.wearAlarms c e).pst c g = t.pst c g :=
  Tray.keepsRegs_pst (t.wearAlarms_stays c e).regs fun h => h.2.elim (by decide) (by decide)

/-- What a port that loses its cartridge shows: it is not live, with cause CART where it was. -/
theorem Tray.loseCart_shows (t : Tray) (c : Nat) {e : Nat} (he : e < 64) :
    (t.loseCart c e).live c e = false ∧ (t.live c e = true → (t.loseCart c e).pcause c e = Cz.CART) := by
  unfold Tray.loseCart
  split
  · obtain ⟨hst, hcause⟩ := (t.wearAlarms c e).portTo_portShows (cause := Cz.CART) he
      ((t.wearAlarms c e).leaveTo_lt c e Cz.CART) (by decide)
    exact ⟨Tray.not_live_of_pst hst (Tray.leaveTo_not_live _ c e Cz.CART), fun _ => hcause⟩
  · rename_i hlive
    refine ⟨?_, fun h => absurd h hlive⟩
    split
    · rename_i hst
      refine Tray.not_live_of_pst (t.wearAlarms_pst c e e) ?_
      rcases hst with h | h <;> rw [h] <;> decide
    · exact Tray.not_live_of_pst ((t.wearAlarms c e).portTo_portShows (cause := Cz.CART) he (by decide) (by decide)).1
        (by decide)

/-- What the bay of a port that loses its cartridge keeps. -/
structure Tray.LosesCart (t : Tray) (c e : Nat) (u : Tray) : Prop where
  keeps : t.keepsRegs u (portDown c e)
  side : DropSide c t u
  bays : u.bays = t.bays
  sts : ∀ g, g < 64 → g ≠ e → u.rd (portPg c g) A.PORT_TRAIN_STS = t.rd (portPg c g) A.PORT_TRAIN_STS

theorem Tray.LosesCart.trans {t u v : Tray} {c e : Nat} (a : t.LosesCart c e u) (b : u.LosesCart c e v) : t.LosesCart c e v :=
  ⟨Tray.keepsRegs_trans a.keeps b.keeps, a.side.trans b.side, b.bays.trans a.bays,
    fun g hg hne => (b.sts g hg hne).trans (a.sts g hg hne)⟩

theorem Tray.wearAlarms_losesCart (t : Tray) (c e : Nat) : t.LosesCart c e (t.wearAlarms c e) := by
  have hstay := t.wearAlarms_stays c e
  obtain ⟨-, -, -, hbays, -, hdealers, -, -⟩ := hstay.blocks
  refine ⟨Tray.keepsRegs_mono hstay.regs fun _ o h => .inl (h.1 ▸ portArea_port c e o), ⟨fun q o hq => ?_, .of_eq hdealers⟩, hbays,
    fun g _ _ => hstay.regs _ _ (by decide) fun h => h.2.elim (by decide) (by decide)⟩
  refine hstay.regs q o (by unfold cartReg at hq; omega) fun h => ?_
  exact not_cartReg_off q (.inl (h.2.elim (fun h => h ▸ by decide) (fun h => h ▸ by decide))) hq

theorem Tray.portTo_losesCart (t : Tray) (c : Nat) {e : Nat} (st cause : Nat) (he : e < 64) :
    t.LosesCart c e (t.portTo c e st cause) :=
  ⟨t.portTo_keeps c e st cause he, DropSide.portTo t st cause he, (t.portTo_parts c e st cause he).1, fun g hg hne =>
    t.portTo_rd c e st cause _ _ he (by decide) (abortFree_port c g hg _ (by decide)) (not_stateReg_other hg hne)
      (fun h => absurd h.2 (by decide))⟩

theorem Tray.loseCart_losesCart (t : Tray) (c : Nat) {e : Nat} (he : e < 64) : t.LosesCart c e (t.loseCart c e) := by
  have halarm := t.wearAlarms_losesCart c e
  unfold Tray.loseCart
  split
  · exact halarm.trans (Tray.portTo_losesCart _ c _ _ he)
  · split
    · exact halarm
    · exact halarm.trans (Tray.portTo_losesCart _ c _ _ he)

/-- The state and the cause that a port shows are in PORT_TRAIN_STS. -/
theorem Tray.shows_congr {t u : Tray} {c g : Nat} (h : u.rd (portPg c g) A.PORT_TRAIN_STS = t.rd (portPg c g) A.PORT_TRAIN_STS) :
    u.live c g = t.live c g ∧ u.pcause c g = t.pcause c g := by
  have hpst : u.pst c g = t.pst c g := congrArg F.PORT_TRAIN_STS_STATE.get h
  refine ⟨?_, congrArg F.PORT_TRAIN_STS_CAUSE.get h⟩
  unfold Tray.live
  rw [hpst]

/-- The ports of the bay, one after the other. -/
def Tray.bayLosesCart (t : Tray) (b : Nat) : Tray := t.each (bayPorts b) (fun w e => w.loseCart (b / 8) e)

theorem Tray.bayLosesCart_shows (t : Tray) (b : Nat) : ∀ e ∈ bayPorts b,
    (t.bayLosesCart b).live (b / 8) e = false ∧
      (t.live (b / 8) e = true → (t.bayLosesCart b).pcause (b / 8) e = Cz.CART) := by
  have hother : ∀ (w : Tray) (e g : Nat), e ∈ bayPorts b → g ∈ bayPorts b → e ≠ g →
      (w.loseCart (b / 8) g).live (b / 8) e = w.live (b / 8) e ∧ (w.loseCart (b / 8) g).pcause (b / 8) e = w.pcause (b / 8) e :=
    fun w e g he hg hne => Tray.shows_congr ((w.loseCart_losesCart _ (bayPorts_lt hg)).sts e (bayPorts_lt he) hne)
  refine Tray.each_distinct (fun e w => w.live (b / 8) e = t.live (b / 8) e) (fun e w => w.live (b / 8) e = false ∧
    (t.live (b / 8) e = true → w.pcause (b / 8) e = Cz.CART)) (fun w e => w.loseCart (b / 8) e) (nodup_bayPorts b)
    (fun w e he h => ?_) (fun w e g he hg hne h => (hother w e g he hg hne).1.trans h) (fun w e g he hg hne h => ?_)
    (fun _ _ => rfl)
  · rw [← h]
    exact w.loseCart_shows _ (bayPorts_lt he)
  · obtain ⟨hlive, hcause⟩ := hother w e g he hg hne
    exact ⟨hlive.trans h.1, fun hl => hcause.trans (h.2 hl)⟩

theorem Tray.bayLosesCart_keeps (t : Tray) (b : Nat) : t.keepsRegs (t.bayLosesCart b) (bayDown b) ∧
    DropSide (b / 8) t (t.bayLosesCart b) ∧ (t.bayLosesCart b).bays = t.bays :=
  ⟨Tray.keepsRegs_each _ _ (fun w _ he => Tray.keepsRegs_mono (w.loseCart_losesCart _ (bayPorts_lt he)).keeps fun _ _ =>
    bayDown_of_portDown he) (Tray.keepsRegs_refl t _),
    DropSide.each _ _ (fun w _ he => (w.loseCart_losesCart _ (bayPorts_lt he)).side) t,
    Tray.each_same (fun w : Tray => w.bays) _ _ (fun w _ he => (w.loseCart_losesCart _ (bayPorts_lt he)).bays) t⟩

/-- CART_REMOVE, R144. -/
theorem cartRemove_empties {s : State} {b : Fin 40} (hs : ∀ d, d < 5 → s.tray.settled d) {x : CartInfo}
    (hx : (s.tray.bay b.val).info = some x) :
    Completes (.cartRemove b) s (fun t =>
      t.tray.rd (bayPg b.val) A.PORT_CART = 0 ∧ (t.tray.bay b.val).info = none ∧
      (∀ e ∈ bayPorts b.val, t.tray.live (b.val / 8) e = false ∧
        (s.tray.live (b.val / 8) e = true → t.tray.pcause (b.val / 8) e = Cz.CART)) ∧
      s.tray.keepsRegs t.tray (bayDown b.val)) := by
  have hout := s.tray.cartOut_out b.val
  let v := (s.tray.cartOut b.val).bayLosesCart b.val
  let u := (v.bayDirty b.val).logChip .cartRemoved (b.val / 8) [b.val]
  have hu : v.Stays u (fun _ _ => False) := (v.bayDirty_stays b.val _).logChip _ _ _
  have hkept : ∀ q o, o < 4096 → u.rd q o = v.rd q o := fun q o ho => hu.regs q o ho not_false
  obtain ⟨hkeeps, hside, hbays⟩ := (s.tray.cartOut b.val).bayLosesCart_keeps b.val
  have hsettled : ∀ d, d < 5 → d ≠ b.val / 8 → u.settled d := fun d hd hne =>
    hu.settled (hside.dealers.settled hne ((Tray.settled_congr hout.dealers d).2 (hs d hd)))
  have hfirst : ∀ e ∈ bayPorts b.val, (s.tray.cartOut b.val).live (b.val / 8) e = s.tray.live (b.val / 8) e := fun e he => by
    refine (Tray.shows_congr (hout.keeps _ _ (by decide) ?_)).1
    rintro (h | ⟨-, h⟩ | h)
    · exact not_bayAlarmReg (by decide) (by decide) h
    · exact absurd h (by decide)
    · exact not_bayLane_port (bayPorts_lt he) h
  have hregs : s.tray.keepsRegs u (bayDown b.val) := by
    refine Tray.keepsRegs_trans (Tray.keepsRegs_trans (Tray.keepsRegs_mono hout.keeps fun q o h => bayDown_of_bayArea ?_) hkeeps)
      (Tray.keepsRegs_mono hu.regs fun _ _ => False.elim)
    rcases h with h | h | h
    · exact bayArea_of_alarm h
    · exact h.1 ▸ bayArea_bayPg _ o
    · exact bayArea_of_bayLane o h
  refine completes_runD_side (exec_cartRemove ..) (Tray.cartRemove_eq hx) hsettled fun w t hjob ht =>
    ⟨?_, ?_, fun e he => ?_, ht.keepsRegs (hjob.keepsBay hregs)⟩
  · exact (ht.rd ..).trans ((hjob.rd_portPg (by omega) (by decide)).trans ((hkept _ _ (by decide)).trans
      ((hside.cart _ _ (cartReg_bayPg _)).trans hout.cart)))
  · have hbays' : w.bays = (s.tray.cartOut b.val).bays := hjob.bays.trans (hu.blocks.2.2.2.1.trans hbays)
    have hbay : w.bay b.val = (s.tray.cartOut b.val).bay b.val := by
      unfold Tray.bay
      rw [hbays']
    rw [ht.bay, hbay, hout.info]
  · obtain ⟨hlive, hcause⟩ := Tray.shows_congr ((ht.rd ..).trans ((hjob.rd_portPg (bayPorts_lt he) (by decide)).trans
      (hkept (portPg (b.val / 8) e) A.PORT_TRAIN_STS (by decide))))
    obtain ⟨hdead, hcart⟩ := (s.tray.cartOut b.val).bayLosesCart_shows b.val e he
    exact ⟨hlive.trans hdead, fun hl => hcause.trans (hcart ((hfirst e he).trans hl))⟩

/-- Settles O24, command by command. -/
theorem cartridgesComeAndGo : Obligations.CartridgesComeAndGo := by
  intro s b hs c ours
  have hours : ∀ t : State, s.tray.keepsRegs t.tray (bayDown b.val) → s.tray.keepsRegs t.tray ours := fun _ h =>
    Tray.keepsRegs_mono h fun q o => (bayDown_iff b.val q o).1
  have hport : ∀ k, k < 8 → 8 * (b.val % 8) + k ∈ bayPorts b.val := fun k hk => mem_bayPorts.2 ⟨k, hk, rfl⟩
  refine ⟨fun x hx hnone hu hk hk' hans happ hcompat => ?insert, fun x hx hty hty' => cartReady_shows hx hty hty',
    fun x hx => ?remove, fun x fl hx => cmisInterrupt_shows hs hx⟩
  case insert =>
    refine (cartInsert_shows hs hx hnone hu hk hk' hans happ hcompat).mono fun t ⟨hinfo, hty, hlen, hpst, hkeeps⟩ =>
      ⟨hinfo, hty, hlen, fun k hk h => ?_, fun k hk h => ?_, hours t hkeeps⟩
    · exact (hpst _ (hport k hk)).trans (if_pos h)
    · exact (hpst _ (hport k hk)).trans (if_neg h)
  case remove =>
    exact (cartRemove_empties hs hx).mono fun t ⟨hcart, hinfo, hports, hkeeps⟩ =>
      ⟨hcart, hinfo, fun k hk => (hports _ (hport k hk)).2, fun k hk => (hports _ (hport k hk)).1, hours t hkeeps⟩

end Sys2Proof.Machine
end

section
/-! SUPPORT. Circuits and multicast groups by register writes: CIRC_ENT, CIRC_OP and KIT_MCG_OP have rules of their own
(R183–R186, R225). -/
namespace Sys2Proof.Machine

theorem exec_circEntWrite (c : Fin 5) (v : Word) (s : State) :
    exec (.circEntWrite c v) s = .next (s.run (fun t => t.write8 0 c.val 0x3C0 A.CIRC_ENT v)) := rfl
theorem exec_circSetup (c : Fin 5) (s : State) :
    exec (.circSetup c) s = .next (s.run (fun t => t.write8 0 c.val 0x3C0 A.CIRC_OP (F.CIRC_OP_SETUP.put 0 1))) := rfl
theorem exec_circTeardown (c : Fin 5) (s : State) :
    exec (.circTeardown c) s = .next (s.run (fun t => t.write8 0 c.val 0x3C0 A.CIRC_OP (F.CIRC_OP_TEARDOWN.put 0 1))) := rfl
theorem exec_mcgWrite (c : Fin 5) (s : State) :
    exec (.mcgWrite c) s = .next (s.run (fun t => t.write8 0 c.val 0x061 A.KIT_MCG_OP (F.KIT_MCG_OP_WRITE.put 0 1))) := rfl
theorem exec_mcgRead (c : Fin 5) (s : State) :
    exec (.mcgRead c) s = .next (s.run (fun t => t.write8 0 c.val 0x061 A.KIT_MCG_OP (F.KIT_MCG_OP_READ.put 0 1))) := rfl

/-! ### The writes -/

section
variable {t u : Tray} {c : Nat} {v : Word}

theorem pageKind_circPg (hc : c < 5) : pageKind (circPg c) = some .circ := pageKind_chipPg c 0x3C0 hc (by decide)

theorem pageKind_mcgPg (hc : c < 5) : pageKind (mcgPg c) = some .kitMcg := pageKind_chipPg c 0x061 hc (by decide)

/-- A write that is performed to a register of the circuit page with a rule of its own. -/
theorem Tray.write8_circ {off : Nat} (hc : c < 5) (ha : t.accepts c 0x3C0 off = true) (ho : off = A.CIRC_ENT ∨ off = A.CIRC_OP)
    (hu : (t.chip c).coreUp = true) (hw : ∀ r, t.writeChip (circPg c) off r v (Origin.wr 0 off) = some u) :
    t.write8 0 c 0x3C0 off v = u.sweep c := by
  have hex : regExists (chipPg c 0x3C0) off = true := by
    refine regExists_of _ _ ?_ ?_ <;> rw [show chipPg c 0x3C0 = circPg c from rfl, pageKind_circPg hc] <;> decide
  rcases ho with rfl | rfl
  · exact t.write8_own u 0 c 0x3C0 _ v .circ hc (by decide) ha (by decide) (by decide) rfl hex (by decide +kernel) (by decide)
      hu fun r _ => hw r
  · exact t.write8_own u 0 c 0x3C0 _ v .circ hc (by decide) ha (by decide) (by decide) rfl hex (by decide +kernel) (by decide)
      hu fun r _ => hw r

/-- A write that is performed to KIT_MCG_OP. -/
theorem Tray.write8_mcg (hc : c < 5) (ha : t.accepts c 0x061 A.KIT_MCG_OP = true) (hu : (t.chip c).coreUp = true)
    (hw : ∀ r, t.writeChip (mcgPg c) A.KIT_MCG_OP r v (Origin.wr 0 A.KIT_MCG_OP) = some u) :
    t.write8 0 c 0x061 A.KIT_MCG_OP v = u.sweep c := by
  have hex : regExists (chipPg c 0x061) A.KIT_MCG_OP = true := by
    refine regExists_of _ _ ?_ ?_ <;> rw [show chipPg c 0x061 = mcgPg c from rfl, pageKind_mcgPg hc] <;> decide
  exact t.write8_own u 0 c 0x061 _ v .kitMcg hc (by decide) ha (by decide) (by decide) rfl hex (by decide +kernel) (by decide)
    hu fun r _ => hw r

theorem circPg_div (c : Nat) : circPg c / 4096 = c := chipPg_div c 0x3C0 (by decide)

theorem mcgPg_div (c : Nat) : mcgPg c / 4096 = c := chipPg_div c 0x061 (by decide)

theorem Tray.write8_circEnt (hc : c < 5) (ha : t.accepts c 0x3C0 A.CIRC_ENT = true) (hu : (t.chip c).coreUp = true) :
    t.write8 0 c 0x3C0 A.CIRC_ENT v = (t.circEnt c v (Origin.wr 0 A.CIRC_ENT)).sweep c :=
  Tray.write8_circ hc ha (.inl rfl) hu fun r => by
    unfold Tray.writeChip
    rw [pageKind_circPg hc, circPg_div]
    exact if_pos rfl

/-- SETUP alone, on an enabled page. -/
theorem Tray.write8_circSetup (hc : c < 5) (ha : t.accepts c 0x3C0 A.CIRC_OP = true) (hu : (t.chip c).coreUp = true)
    (hon : t.enabled (circPg c) = true) :
    t.write8 0 c 0x3C0 A.CIRC_OP (F.CIRC_OP_SETUP.put 0 1) = (t.circSetup c (Origin.wr 0 A.CIRC_OP)).sweep c :=
  Tray.write8_circ hc ha (.inr rfl) hu fun r => by
    have hset : F.CIRC_OP_SETUP.get (F.CIRC_OP_SETUP.put 0 1) = 1 := by decide
    have htear : (F.CIRC_OP_TEARDOWN.get (F.CIRC_OP_SETUP.put 0 1) == 1) = false := by decide
    unfold Tray.writeChip Tray.ifOn
    rw [pageKind_circPg hc, circPg_div]
    simp only [hset, htear, hon, if_true, if_neg (show A.CIRC_OP ≠ A.CIRC_ENT by decide), Bool.false_eq_true, if_false]

/-- TEARDOWN alone. -/
theorem Tray.write8_circTeardown (hc : c < 5) (ha : t.accepts c 0x3C0 A.CIRC_OP = true) (hu : (t.chip c).coreUp = true) :
    t.write8 0 c 0x3C0 A.CIRC_OP (F.CIRC_OP_TEARDOWN.put 0 1) = (t.circTeardown c (Origin.wr 0 A.CIRC_OP)).sweep c :=
  Tray.write8_circ hc ha (.inr rfl) hu fun r => by
    have hset : ¬ F.CIRC_OP_SETUP.get (F.CIRC_OP_TEARDOWN.put 0 1) = 1 := by decide
    have htear : (F.CIRC_OP_TEARDOWN.get (F.CIRC_OP_TEARDOWN.put 0 1) == 1) = true := by decide
    unfold Tray.writeChip
    rw [pageKind_circPg hc, circPg_div]
    simp only [hset, htear, if_true, if_neg (show A.CIRC_OP ≠ A.CIRC_ENT by decide), if_false]

/-- WRITE alone, on an enabled page. -/
theorem Tray.write8_mcgWrite (hc : c < 5) (ha : t.accepts c 0x061 A.KIT_MCG_OP = true) (hu : (t.chip c).coreUp = true)
    (hon : t.enabled (mcgPg c) = true) :
    t.write8 0 c 0x061 A.KIT_MCG_OP (F.KIT_MCG_OP_WRITE.put 0 1) = (t.mcgWrite c).sweep c :=
  Tray.write8_mcg hc ha hu fun r => by
    have hwr : F.KIT_MCG_OP_WRITE.get (F.KIT_MCG_OP_WRITE.put 0 1) = 1 := by decide
    have hrd : ¬ F.KIT_MCG_OP_READ.get (F.KIT_MCG_OP_WRITE.put 0 1) = 1 := by decide
    unfold Tray.writeChip Tray.ifOn
    rw [pageKind_mcgPg hc, mcgPg_div]
    simp only [hwr, hrd, hon, if_true, if_false]

/-- READ alone, on an enabled page. -/
theorem Tray.write8_mcgRead (hc : c < 5) (ha : t.accepts c 0x061 A.KIT_MCG_OP = true) (hu : (t.chip c).coreUp = true)
    (hon : t.enabled (mcgPg c) = true) :
    t.write8 0 c 0x061 A.KIT_MCG_OP (F.KIT_MCG_OP_READ.put 0 1) = (t.mcgRead c).sweep c :=
  Tray.write8_mcg hc ha hu fun r => by
    have hwr : ¬ F.KIT_MCG_OP_WRITE.get (F.KIT_MCG_OP_READ.put 0 1) = 1 := by decide
    have hrd : F.KIT_MCG_OP_READ.get (F.KIT_MCG_OP_READ.put 0 1) = 1 := by decide
    unfold Tray.writeChip Tray.ifOn
    rw [pageKind_mcgPg hc, mcgPg_div]
    simp only [hwr, hrd, hon, if_true, if_false]

end

/-! ### Circuits -/

section
variable (t : Tray) (c k : Nat)

theorem Tray.circ_congr {t u : Tray} (h : u.chip c = t.chip c) : u.circ c k = t.circ c k := by unfold Tray.circ; rw [h]

theorem Tray.circ_setCirc (x : Option Circ) (j : Nat) :
    (t.setCirc c k x).circ c j = if j = k then x else t.circ c j := by
  unfold Tray.circ Tray.setCirc
  rw [Tray.chip_modChip]
  exact Assoc.get_set ..

theorem Tray.circ_circDrop (j : Nat) : (t.circDrop c k).circ c j = if j = k then none else t.circ c j := by
  refine Eq.trans ?_ (t.circ_setCirc c k none j)
  unfold Tray.circ Tray.circDrop Tray.setPkts
  rw [Tray.chip_modChip]

theorem Tray.circDrop_unlinks {q : CorePkt} (h : q ∈ (t.circDrop c k).pkts c) : q.circ ≠ some k := by
  have hmem : q ∈ (t.pkts c).map (fun p => if p.circ = some k then { p with circ := none } else p) := by
    unfold Tray.circDrop Tray.setPkts Tray.pkts at h
    rw [Tray.chip_modChip] at h
    exact List.mem_of_mem_filter h
  obtain ⟨p, -, rfl⟩ := List.mem_map.1 hmem
  by_cases hp : p.circ = some k
  · rw [if_pos hp]
    exact nofun
  · rwa [if_neg hp]

theorem Tray.setCirc_stays (x : Option Circ) (R : Nat → Nat → Prop) : t.ChipStays (t.setCirc c k x) R :=
  (Tray.ChipStays.refl t R).modChip c _

theorem Tray.setPkts_chipStays (l : List CorePkt) (R : Nat → Nat → Prop) : t.ChipStays (t.setPkts c l) R :=
  (Tray.ChipStays.refl t R).modChip c _

theorem Tray.circDrop_stays (R : Nat → Nat → Prop) : t.ChipStays (t.circDrop c k) R :=
  (t.setCirc_stays c k none R).trans (Tray.setPkts_chipStays _ c _ R)

/-- CIRC_OP of chip `c`. -/
def circOpReg (c q o : Nat) : Prop := q = circPg c ∧ o = A.CIRC_OP

theorem Tray.circDone_stays (r : Nat) : t.Stays (t.circDone c r) (circOpReg c) :=
  (((Tray.Stays.refl t _).sf r ⟨rfl, rfl⟩ (by decide)).sb false ⟨rfl, rfl⟩ (by decide)).sb true ⟨rfl, rfl⟩ (by decide)

@[simp] theorem Tray.circDone_chip (r d : Nat) : (t.circDone c r).chip d = t.chip d := by
  unfold Tray.circDone
  rw [Tray.chip_sb, Tray.chip_sb, Tray.chip_sf]

theorem Tray.circDone_shows {r : Nat} (hr : r < 16) :
    (t.circDone c r).gf (circPg c) F.CIRC_OP_RESULT = r ∧ (t.circDone c r).is (circPg c) F.CIRC_OP_DONE = true := by
  rw [Tray.is_iff]
  unfold Tray.circDone
  refine ⟨?_, ?_⟩ <;> simp (disch := decide) only [Tray.gf_sb_ne, Tray.gf_sb_self, Tray.gf_sf_self]
  · exact Nat.mod_eq_of_lt hr
  · rfl

theorem Tray.setupResult_lt (x : Circ) : t.setupResult c x < 16 := by
  unfold Tray.setupResult
  split_ifs <;> decide

/-- The circuit that the fields of CIRC_ENT describe. -/
def Tray.circEntry (t : Tray) (c : Nat) : Circ :=
  { inPort := t.gf (circPg c) F.CIRC_ENT_IN_PORT, outPort := t.gf (circPg c) F.CIRC_ENT_OUT_PORT,
    seat := t.gf (circPg c) F.CIRC_ENT_SEAT, ch := t.gf (circPg c) F.CIRC_ENT_CH, slots := t.gf (circPg c) F.CIRC_ENT_SLOTS,
    slice := t.gf (circPg c) F.CIRC_ENT_SLICE, cmp := t.gf (circPg c) F.CIRC_ENT_CMP }

/-- The tray once SETUP has installed circuit `x`, or refused it. -/
def Tray.circInstalled (t : Tray) (c : Nat) (x : Circ) : Tray :=
  if t.setupResult c x = 0 then t.setCirc c (t.circSel c) (some x) else t

theorem Tray.circ_circInstalled (x : Circ) (j : Nat) : (t.circInstalled c x).circ c j =
    if j = t.circSel c ∧ t.setupResult c x = 0 then some x else t.circ c j := by
  unfold Tray.circInstalled
  by_cases h0 : t.setupResult c x = 0
  · rw [if_pos h0, Tray.circ_setCirc]
    simp only [h0, and_true]
  · rw [if_neg h0, if_neg fun h => h0 h.2]

theorem Tray.circInstalled_stays (x : Circ) (R : Nat → Nat → Prop) : t.ChipStays (t.circInstalled c x) R := by
  unfold Tray.circInstalled
  split
  · exact t.setCirc_stays c _ _ R
  · exact Tray.ChipStays.refl t R

@[simp] theorem Tray.circInstalled_ports (x : Circ) : (t.circInstalled c x).ports = t.ports := by
  unfold Tray.circInstalled
  split <;> rfl

theorem Tray.circSetup_idle {t : Tray} {c : Nat} (o : Origin) (h : t.is (circPg c) F.CIRC_OP_BUSY = false) :
    t.circSetup c o = (t.circInstalled c (t.circEntry c)).circDone c (t.setupResult c (t.circEntry c)) := by
  unfold Tray.circSetup
  dsimp only
  rw [if_neg (by rw [h]; decide)]
  rfl

theorem Tray.circTeardown_idle {t : Tray} {c : Nat} (o : Origin) (h : t.is (circPg c) F.CIRC_OP_BUSY = false) :
    t.circTeardown c o = (t.circDrop c (t.circSel c)).circDone c 0 := if_neg (by rw [h]; decide)

/-- CIRC_ENT of an existing circuit is refused. -/
theorem Tray.circEnt_busy {t : Tray} {c : Nat} (v : Word) (o : Origin) (h : t.circ c (t.circSel c) ≠ none) :
    t.circEnt c v o = t.recErr (circPg c) 0x40 o := if_pos (Option.isSome_iff_ne_none.2 h)

/-- CIRC_ENT without a reserved encoding. -/
theorem Tray.circEnt_set {t : Tray} {c : Nat} {v : Word} (o : Origin) (h : t.circ c (t.circSel c) = none)
    (hch : 5 ≤ F.CIRC_ENT_CH.get v) (hlo : 1 ≤ F.CIRC_ENT_SLOTS.get v) (hhi : F.CIRC_ENT_SLOTS.get v ≤ 128) :
    t.circEnt c v o = t.wr (circPg c) A.CIRC_ENT (v &&& maskW 32) := by
  have hbadCh : ¬ F.CIRC_ENT_CH.get v < 5 := by omega
  have hbadSl : ¬ (F.CIRC_ENT_SLOTS.get v = 0 ∨ 128 < F.CIRC_ENT_SLOTS.get v) := by omega
  unfold Tray.circEnt
  simp only [h, Option.isSome_none, Bool.false_eq_true, if_false, hbadCh, hbadSl, or_self]

end

/-! ### Groups -/

section
variable (t : Tray) (c : Nat)

/-- Group `j`. -/
def Tray.mcg (t : Tray) (c j : Nat) : Mcg := Assoc.get (fun _ => {}) (t.chip c).mcgs j

/-- The group that the holding registers describe. -/
def Tray.mcgHeld (t : Tray) (c : Nat) : Mcg :=
  { valid := t.is (mcgPg c) F.KIT_MCG_ENT_VALID, selfIn := t.is (mcgPg c) F.KIT_MCG_ENT_SELF,
    seat := t.gf (mcgPg c) F.KIT_MCG_ENT_SEAT, members := t.gf (mcgPg c) F.KIT_MCG_MEMB_MEMBERS }

theorem Tray.mcgDone_stays {R : Nat → Nat → Prop} (hR : R (mcgPg c) A.KIT_MCG_OP) : t.Stays (t.mcgDone c) R :=
  ((Tray.Stays.refl t _).sb false hR (by decide)).sb true hR (by decide)

theorem Tray.mcg_mcgWrite (j : Nat) :
    (t.mcgWrite c).mcg c j = if j = t.gf (mcgPg c) F.KIT_MCG_SEL_IDX then t.mcgHeld c else t.mcg c j := by
  unfold Tray.mcg Tray.mcgWrite Tray.mcgDone
  rw [Tray.chip_sb, Tray.chip_sb, Tray.chip_modChip]
  exact Assoc.get_set ..

theorem Tray.mcgWrite_stays : t.ChipStays (t.mcgWrite c) (fun q o => q = mcgPg c ∧ o = A.KIT_MCG_OP) :=
  ((Tray.ChipStays.refl t _).modChip c _).trans (Tray.ChipStays.of_stays (Tray.mcgDone_stays _ c ⟨rfl, rfl⟩))

@[simp] theorem Tray.mcgWrite_ports : (t.mcgWrite c).ports = t.ports := rfl

theorem Tray.mcgRead_stays : t.Stays (t.mcgRead c)
    (fun q o => q = mcgPg c ∧ (o = A.KIT_MCG_OP ∨ o = A.KIT_MCG_ENT ∨ o = A.KIT_MCG_MEMB)) := by
  have hloaded := ((((Tray.Stays.refl t (fun q o => q = mcgPg c ∧ (o = A.KIT_MCG_OP ∨ o = A.KIT_MCG_ENT ∨ o = A.KIT_MCG_MEMB))).sb
    (f := F.KIT_MCG_ENT_VALID) (t.mcg c (t.gf (mcgPg c) F.KIT_MCG_SEL_IDX)).valid ⟨rfl, .inr (.inl rfl)⟩ (by decide)).sb
    (f := F.KIT_MCG_ENT_SELF) (t.mcg c (t.gf (mcgPg c) F.KIT_MCG_SEL_IDX)).selfIn ⟨rfl, .inr (.inl rfl)⟩ (by decide)).sf
    (f := F.KIT_MCG_ENT_SEAT) (t.mcg c (t.gf (mcgPg c) F.KIT_MCG_SEL_IDX)).seat ⟨rfl, .inr (.inl rfl)⟩ (by decide)).sf
    (f := F.KIT_MCG_MEMB_MEMBERS) (t.mcg c (t.gf (mcgPg c) F.KIT_MCG_SEL_IDX)).members ⟨rfl, .inr (.inr rfl)⟩ (by decide)
  exact hloaded.trans (Tray.mcgDone_stays _ c ⟨rfl, .inl rfl⟩)

theorem Tray.mcgRead_shows :
    (t.mcgRead c).is (mcgPg c) F.KIT_MCG_ENT_VALID = (t.mcg c (t.gf (mcgPg c) F.KIT_MCG_SEL_IDX)).valid ∧
    (t.mcgRead c).gf (mcgPg c) F.KIT_MCG_MEMB_MEMBERS = (t.mcg c (t.gf (mcgPg c) F.KIT_MCG_SEL_IDX)).members % 2 ^ 64 := by
  unfold Tray.mcgRead Tray.mcgDone Tray.is Tray.mcg
  simp (disch := decide) only [Tray.gf_sb_ne, Tray.gf_sf_ne, Tray.gf_sb_self, Tray.gf_sf_self]
  refine ⟨?_, rfl⟩
  cases (Assoc.get (fun _ => ({} : Mcg)) (t.chip c).mcgs (t.gf (mcgPg c) F.KIT_MCG_SEL_IDX)).valid <;> rfl

end

/-! ### The commands -/

section
variable {s : State} {c : Fin 5} (hu : (s.tray.chip c.val).coreUp = true) (hs : s.tray.settled c.val)
include hu hs

theorem circEnt_refused (v : Word) (ha : s.tray.accepts c.val 0x3C0 A.CIRC_ENT = true)
    (hbusy : s.tray.circ c.val (s.tray.circSel c.val) ≠ none) (hfree : s.tray.gf (circPg c.val) F.PG_ERR_CAPT_VALID = 0) :
    Completes (.circEntWrite c v) s (fun t =>
      t.tray.holdsErr (circPg c.val) 0x40 A.CIRC_ENT 0 true (s.tray.timeOf c.val) ∧
      s.tray.keepsRegs t.tray (fun q o => q = circPg c.val ∧ (o = 0x60 ∨ o = 0x20)) ∧ s.tray.keepsBlocks t.tray) := by
  have hstay := (Tray.Stays.refl s.tray (fun q o => q = circPg c.val ∧ (o = 0x60 ∨ o = 0x20))).recErr (pg := circPg c.val) 0x40
    (Origin.wr 0 A.CIRC_ENT) ⟨rfl, .inl rfl⟩ ⟨rfl, .inr rfl⟩
  refine completes_sweep_settled (exec_circEntWrite ..)
    ((Tray.write8_circEnt c.isLt ha hu).trans (by rw [Tray.circEnt_busy v _ hbusy])) (hstay.settled hs)
    fun t ht => ⟨ht.holdsErr ?_, ht.stays hstay⟩
  have hholds := s.tray.recErr_holds (circPg c.val) 0x40 (Origin.wr 0 A.CIRC_ENT) hfree (by decide)
  rwa [circPg_div] at hholds

theorem circEnt_sets (v : Word) (ha : s.tray.accepts c.val 0x3C0 A.CIRC_ENT = true)
    (hnone : s.tray.circ c.val (s.tray.circSel c.val) = none) (hch : 5 ≤ F.CIRC_ENT_CH.get v)
    (hlo : 1 ≤ F.CIRC_ENT_SLOTS.get v) (hhi : F.CIRC_ENT_SLOTS.get v ≤ 128) :
    Completes (.circEntWrite c v) s (fun t =>
      t.tray.rd (circPg c.val) A.CIRC_ENT = v &&& maskW 32 ∧
      s.tray.keepsRegs t.tray (fun q o => q = circPg c.val ∧ o = A.CIRC_ENT) ∧ s.tray.keepsBlocks t.tray) := by
  have hstay := (Tray.Stays.refl s.tray (fun q o => q = circPg c.val ∧ o = A.CIRC_ENT)).wr (pg := circPg c.val)
    (v &&& maskW 32) ⟨rfl, rfl⟩ (by decide)
  refine completes_sweep_settled (exec_circEntWrite ..)
    ((Tray.write8_circEnt c.isLt ha hu).trans (by rw [Tray.circEnt_set _ hnone hch hlo hhi])) (hstay.settled hs)
    fun t ht => ⟨(ht.rd ..).trans (Tray.rd_wr_self ..), ht.stays hstay⟩

theorem circSetup_answers (ha : s.tray.accepts c.val 0x3C0 A.CIRC_OP = true)
    (hidle : s.tray.is (circPg c.val) F.CIRC_OP_BUSY = false) (hon : s.tray.enabled (circPg c.val) = true) :
    let x := s.tray.circEntry c.val
    let k := s.tray.circSel c.val
    Completes (.circSetup c) s (fun t =>
      t.tray.gf (circPg c.val) F.CIRC_OP_RESULT = s.tray.setupResult c.val x ∧
      t.tray.is (circPg c.val) F.CIRC_OP_DONE = true ∧
      t.tray.circ c.val k = (if s.tray.setupResult c.val x = 0 then some x else s.tray.circ c.val k) ∧
      (∀ j, j ≠ k → t.tray.circ c.val j = s.tray.circ c.val j) ∧
      s.tray.keepsRegs t.tray (circOpReg c.val) ∧ t.tray.ports = s.tray.ports ∧ t.tray.mem = s.tray.mem) := by
  intro x k
  have hdone := (s.tray.circInstalled c.val x).circDone_stays c.val (s.tray.setupResult c.val x)
  have hstay := (s.tray.circInstalled_stays c.val x _).trans (Tray.ChipStays.of_stays hdone)
  have hcirc (t : State) (ht : t.Like ((s.tray.circInstalled c.val x).circDone c.val (s.tray.setupResult c.val x))) (j : Nat) :
      t.tray.circ c.val j = if j = k ∧ s.tray.setupResult c.val x = 0 then some x else s.tray.circ c.val j :=
    (Tray.circ_congr _ _ ((ht.chip _).trans (Tray.circDone_chip ..))).trans (s.tray.circ_circInstalled c.val x j)
  refine completes_sweep_settled (exec_circSetup ..)
    ((Tray.write8_circSetup c.isLt ha hu hon).trans (by rw [Tray.circSetup_idle _ hidle])) (hstay.settled hs) fun t ht => ?_
  obtain ⟨hres, hdn⟩ := (s.tray.circInstalled c.val x).circDone_shows c.val (s.tray.setupResult_lt c.val x)
  obtain ⟨hregs, hmem⟩ := ht.chipStays hstay
  refine ⟨(ht.gf ..).trans hres, (ht.is ..).trans hdn, ?_, fun j hj => ?_, hregs,
    ht.ports.trans (hdone.blocks.2.1.trans (s.tray.circInstalled_ports c.val x)), hmem⟩
  · rw [hcirc t ht]
    simp only [true_and]
  · rw [hcirc t ht, if_neg fun h => hj h.1]

theorem circTeardown_removes (ha : s.tray.accepts c.val 0x3C0 A.CIRC_OP = true)
    (hidle : s.tray.is (circPg c.val) F.CIRC_OP_BUSY = false) :
    let k := s.tray.circSel c.val
    Completes (.circTeardown c) s (fun t =>
      t.tray.circ c.val k = none ∧ (∀ j, j ≠ k → t.tray.circ c.val j = s.tray.circ c.val j) ∧
      (∀ q ∈ t.tray.pkts c.val, q.circ ≠ some k) ∧ t.tray.is (circPg c.val) F.CIRC_OP_DONE = true ∧
      s.tray.keepsRegs t.tray (circOpReg c.val) ∧ t.tray.ports = s.tray.ports ∧ t.tray.mem = s.tray.mem) := by
  intro k
  have hdone := (s.tray.circDrop c.val k).circDone_stays c.val 0
  have hstay := (s.tray.circDrop_stays c.val k _).trans (Tray.ChipStays.of_stays hdone)
  refine completes_sweep_settled (exec_circTeardown ..)
    ((Tray.write8_circTeardown c.isLt ha hu).trans (by rw [Tray.circTeardown_idle _ hidle])) (hstay.settled hs) fun t ht => ?_
  have hchip : t.tray.chip c.val = (s.tray.circDrop c.val k).chip c.val := (ht.chip _).trans (Tray.circDone_chip ..)
  have hcirc (j : Nat) : t.tray.circ c.val j = if j = k then none else s.tray.circ c.val j :=
    (Tray.circ_congr _ _ hchip).trans (s.tray.circ_circDrop c.val k j)
  obtain ⟨hregs, hmem⟩ := ht.chipStays hstay
  refine ⟨(hcirc k).trans (if_pos rfl), fun j hj => (hcirc j).trans (if_neg hj), fun q hq => ?_,
    (ht.is ..).trans ((s.tray.circDrop c.val k).circDone_shows c.val (r := 0) (by decide)).2, hregs,
    ht.ports.trans hdone.blocks.2.1, hmem⟩
  refine s.tray.circDrop_unlinks c.val k ?_
  unfold Tray.pkts at hq ⊢
  rwa [hchip] at hq

theorem mcgWrite_installs (ha : s.tray.accepts c.val 0x061 A.KIT_MCG_OP = true)
    (hon : s.tray.enabled (mcgPg c.val) = true) :
    let g := s.tray.gf (mcgPg c.val) F.KIT_MCG_SEL_IDX
    Completes (.mcgWrite c) s (fun t =>
      t.tray.mcg c.val g = s.tray.mcgHeld c.val ∧ (∀ j, j ≠ g → t.tray.mcg c.val j = s.tray.mcg c.val j) ∧
      s.tray.keepsRegs t.tray (fun q o => q = mcgPg c.val ∧ o = A.KIT_MCG_OP) ∧ t.tray.ports = s.tray.ports) := by
  intro g
  have hstay := s.tray.mcgWrite_stays c.val
  refine completes_sweep_settled (exec_mcgWrite ..) (Tray.write8_mcgWrite c.isLt ha hu hon) (hstay.settled hs) fun t ht => ?_
  have hmcg (j : Nat) : t.tray.mcg c.val j = if j = g then s.tray.mcgHeld c.val else s.tray.mcg c.val j := by
    rw [← s.tray.mcg_mcgWrite]
    unfold Tray.mcg
    rw [ht.chip]
  exact ⟨(hmcg g).trans (if_pos rfl), fun j hj => (hmcg j).trans (if_neg hj), (ht.chipStays hstay).1, ht.ports⟩

theorem mcgRead_loads (ha : s.tray.accepts c.val 0x061 A.KIT_MCG_OP = true)
    (hon : s.tray.enabled (mcgPg c.val) = true) :
    let g := s.tray.gf (mcgPg c.val) F.KIT_MCG_SEL_IDX
    Completes (.mcgRead c) s (fun t =>
      t.tray.is (mcgPg c.val) F.KIT_MCG_ENT_VALID = (s.tray.mcg c.val g).valid ∧
      t.tray.gf (mcgPg c.val) F.KIT_MCG_MEMB_MEMBERS = (s.tray.mcg c.val g).members % 2 ^ 64 ∧
      s.tray.keepsRegs t.tray
        (fun q o => q = mcgPg c.val ∧ (o = A.KIT_MCG_OP ∨ o = A.KIT_MCG_ENT ∨ o = A.KIT_MCG_MEMB)) ∧
      s.tray.keepsBlocks t.tray) := by
  intro g
  have hstay := s.tray.mcgRead_stays c.val
  obtain ⟨hvalid, hmemb⟩ := s.tray.mcgRead_shows c.val
  exact completes_sweep_settled (exec_mcgRead ..) (Tray.write8_mcgRead c.isLt ha hu hon) (hstay.settled hs) fun t ht =>
    ⟨(ht.is ..).trans hvalid, (ht.gf ..).trans hmemb, ht.stays hstay⟩

end

/-- Settles O33, by the rule that each of CIRC_ENT, CIRC_OP and KIT_MCG_OP has for a write. -/
theorem circuitsAndGroups : Obligations.CircuitsAndGroups := by
  intro s c hu hs pg k
  exact ⟨fun v ha => ⟨circEnt_refused hu hs v ha, circEnt_sets hu hs v ha⟩,
    fun ha hidle => ⟨circSetup_answers hu hs ha hidle, circTeardown_removes hu hs ha hidle⟩,
    fun ha _ hon => ⟨mcgWrite_installs hu hs ha hon, mcgRead_loads hu hs ha hon⟩⟩

end Sys2Proof.Machine
end

section
/-! SUPPORT. The packet list of the switch core: what changing packets leaves of it (R483); which registers a charge writes
(R370, R373); bits of a mask. -/
namespace Sys2Proof.Machine

/-! ### Bits -/

theorem bitOf_clrBitOf_ne {n i k : Nat} (h : k ≠ i) : bitOf (clrBitOf n i) k = bitOf n k := by
  unfold clrBitOf
  split
  case isFalse => rfl
  case isTrue hset =>
    have hodd : n / 2 ^ i % 2 = 1 := beq_iff_eq.1 hset
    have hle : 2 ^ i ≤ n := Nat.ge_two_pow_of_testBit ((bitOf_eq_testBit n i).symm.trans hset)
    unfold bitOf
    congr 1
    rcases Nat.lt_or_gt_of_ne h with hlt | hgt
    · obtain ⟨d, rfl⟩ : ∃ d, i = k + (d + 1) := ⟨i - k - 1, by omega⟩
      have hsub : (n - 2 ^ k * 2 ^ (d + 1)) / 2 ^ k = n / 2 ^ k - 2 ^ (d + 1) := Nat.sub_mul_div ..
      have hle' : 2 ^ (d + 1) ≤ n / 2 ^ k := by
        rw [Nat.le_div_iff_mul_le (Nat.two_pow_pos k), Nat.mul_comm, ← Nat.pow_add]
        exact hle
      rw [Nat.pow_add, hsub]
      rw [Nat.pow_succ] at hle' ⊢
      omega
    · obtain ⟨d, rfl⟩ : ∃ d, k = i + 1 + d := ⟨k - i - 1, by omega⟩
      have hhalf (x : Nat) (hx : x % 2 = 1) : (x - 1) / 2 = x / 2 := by omega
      have hsub : (n - 2 ^ i * 1) / 2 ^ i = n / 2 ^ i - 1 := Nat.sub_mul_div ..
      rw [Nat.mul_one] at hsub
      rw [Nat.pow_add, Nat.pow_add, Nat.pow_one, ← Nat.div_div_eq_div_mul, ← Nat.div_div_eq_div_mul,
        ← Nat.div_div_eq_div_mul, ← Nat.div_div_eq_div_mul, hsub]
      rw [hhalf _ hodd]

/-! ### The packet list -/

/-- Nothing of the packet is left to move: judged, without copies, members or a path to the kitty (R483). -/
def CorePkt.spent (p : CorePkt) : Bool := p.judged && p.copies.isEmpty && p.residue.isEmpty && p.via == none

theorem CorePkt.not_spent {p : CorePkt} (h : p.copies ≠ []) : p.spent = false := by
  unfold CorePkt.spent
  rw [List.isEmpty_eq_false_iff.2 h, Bool.and_false, Bool.false_and, Bool.false_and]

section
variable (t : Tray) (c : Nat)

theorem Tray.pkts_congr {t u : Tray} (h : u.chip c = t.chip c) : u.pkts c = t.pkts c := congrArg ChipSt.pkts h

theorem Tray.findPkt_congr {t u : Tray} {c : Nat} (id : Nat) (h : u.pkts c = t.pkts c) : u.findPkt c id = t.findPkt c id := by
  unfold Tray.findPkt
  rw [h]

theorem Tray.pkts_setPkts (l : List CorePkt) : (t.setPkts c l).pkts c = l.filter (fun p => !p.spent) := by
  unfold Tray.setPkts Tray.pkts
  rw [Tray.chip_modChip]
  rfl

theorem Tray.pkts_modPkt (id : Nat) (f : CorePkt → CorePkt) :
    (t.modPkt c id f).pkts c = ((t.pkts c).map (fun p => if p.id = id then f p else p)).filter (fun p => !p.spent) :=
  t.pkts_setPkts c _

theorem Tray.findPkt_id {t : Tray} {c id : Nat} {p : CorePkt} (h : t.findPkt c id = some p) : p.id = id := by
  have hp := List.find?_some (p := fun q : CorePkt => q.id == id) h
  exact beq_iff_eq.1 hp

/-- A packet found is found changed, unless nothing of it is left. -/
theorem Tray.findPkt_modPkt {t : Tray} {c id : Nat} {p : CorePkt} {f : CorePkt → CorePkt} (h : t.findPkt c id = some p)
    (hid : (f p).id = id) (hleft : (f p).spent = false) : (t.modPkt c id f).findPkt c id = some (f p) := by
  have hp := Tray.findPkt_id h
  obtain ⟨-, before, after, hsplit, hbefore⟩ := List.find?_eq_some_iff_append.1 h
  have hother (q : CorePkt) (hq : q ∈ before) : q.id ≠ id := by simpa using hbefore q hq
  have hsame : before.map (fun q => if q.id = id then f q else q) = before :=
    (List.map_congr_left fun q hq => if_neg (hother q hq)).trans (List.map_id before)
  have hnone : (before.filter (fun q => !q.spent)).find? (fun q => q.id == id) = none :=
    List.find?_eq_none.2 fun q hq => by simpa using hother q (List.mem_of_mem_filter hq)
  unfold Tray.findPkt
  rw [Tray.pkts_modPkt, hsplit, List.map_append, hsame, List.filter_append, List.find?_append, hnone, Option.none_or,
    List.map_cons, if_pos hp, List.filter_cons_of_pos (by rw [hleft]; rfl)]
  exact List.find?_cons_of_pos (p := fun q : CorePkt => q.id == id) (beq_iff_eq.2 hid)

end

/-! ### Charges -/

/-- The registers that a charge of counter `k` of seat `m` writes: the counter, and those of the watches. -/
def chargedReg (c m k q o : Nat) : Prop :=
  (q = seatPg c m ∧ o = A.SEAT_CNT + 8 * k) ∨ (q = watchPg c ∧ 0x100 ≤ o)

theorem chargeReg_of_charged {c m k q o : Nat} (hm : m < 64) (h : chargedReg c m k q o) : chargeReg c q o := by
  unfold chargedReg seatPg watchPg chipPg A.SEAT_CNT at h
  unfold chargeReg
  omega

theorem Tray.charge_stays (t : Tray) (c n : Nat) {m k : Nat} (hm : m < 64) (hk : k < 31) :
    t.Stays (t.charge c m k n) (chargedReg c m k) := by
  have hblocks := ((Tray.Stays.refl t (chargeReg c)).charge c m k n hm hk fun _ _ h => h).blocks
  refine ⟨fun q o ho hn => ?_, hblocks⟩
  unfold Tray.charge
  split
  · rfl
  · rw [Tray.rd_congr (Tray.counterEnergy_regs ..), Tray.each_same (fun u => u.rd q o) _ _ fun u i hi =>
      u.watchCount_rd c m k n i q o ho (List.mem_range.1 hi) fun hw => hn (.inr hw)]
    refine (Tray.rd_wr ..).trans (if_neg ?_)
    rw [regKey_inj ho (by unfold A.SEAT_CNT; omega)]
    exact fun he => hn (.inl he)

/-- One more charge. -/
theorem Tray.Stays.charged {t u : Tray} {R : Nat → Nat → Prop} (h : t.Stays u R) (c n : Nat) {m k : Nat} (hm : m < 64)
    (hk : k < 31) (hR : ∀ q o, chargedReg c m k q o → R q o) : t.Stays (u.charge c m k n) R :=
  h.trans ((u.charge_stays c n hm hk).mono hR)

theorem Tray.charge_chip (t : Tray) (c n d : Nat) {m k : Nat} (hm : m < 64) (hk : k < 31) :
    (t.charge c m k n).chip d = t.chip d := by
  unfold Tray.chip
  rw [(t.charge_stays c n hm hk).blocks.1]

theorem Tray.charge_port (t : Tray) (c n d e : Nat) {m k : Nat} (hm : m < 64) (hk : k < 31) :
    (t.charge c m k n).port d e = t.port d e := by
  unfold Tray.port
  rw [(t.charge_stays c n hm hk).blocks.2.1]

end Sys2Proof.Machine
end

section
/-! SUPPORT. Admission to the kitty, the conditions that clear XOFF, and reserved headroom (R165, R168, R193, R198, R199). -/
namespace Sys2Proof.Machine

theorem exec_cellAdmit (c : Fin 5) (e : Fin 64) (s : State) :
    exec (.cellAdmit c e) s = .next (s.run (fun t => t.ifOn (chipPg c.val 0x060) (fun t => t.cellAdmit c.val e.val))) := rfl
theorem exec_xoffClear (c : Fin 5) (e : Fin 64) (tc : Fin 4) (s : State) :
    exec (.xoffClear c e tc) s = .next (s.run (fun t => t.xoffClear c.val e.val tc.val)) := rfl
theorem exec_stageXoffClear (c : Fin 5) (e : Fin 64) (s : State) :
    exec (.stageXoffClear c e) s = .next (s.run (fun t => t.stageXoffClear c.val e.val)) := rfl
theorem exec_carveOutGrant (c : Fin 5) (e : Fin 64) (s : State) :
    exec (.carveOutGrant c e) s = .next (s.run (fun t => t.carveOutGrant c.val e.val)) := rfl

/-! ### What an admission changes beside the packets -/

/-- Beside the packets of chip `c`, admitting cells writes registers of the core and of the seats, notes THROTTLEs sent, and
gives agents packets to send; no XOFF changes. -/
structure Tray.BesideCore (t u : Tray) (c : Nat) : Prop where
  regs : t.keepsRegs u (coreReg c)
  mem : u.mem = t.mem
  tables : u.tables = t.tables
  pkts : u.pkts c = t.pkts c
  xoff : ∀ d e, (u.port d e).xoffKit = (t.port d e).xoffKit

namespace Tray.BesideCore
variable {t u v : Tray} {c : Nat}

theorem refl (t : Tray) (c : Nat) : t.BesideCore t c := ⟨t.keepsRegs_refl _, rfl, rfl, rfl, fun _ _ => rfl⟩

theorem trans (a : t.BesideCore u c) (b : u.BesideCore v c) : t.BesideCore v c :=
  ⟨Tray.keepsRegs_trans a.regs b.regs, b.mem.trans a.mem, b.tables.trans a.tables, b.pkts.trans a.pkts,
    fun d e => (b.xoff d e).trans (a.xoff d e)⟩

theorem of_stays (h : t.Stays u (coreReg c)) : t.BesideCore u c := by
  obtain ⟨hchips, hports, -, -, htables, -, -, hmem⟩ := h.blocks
  refine ⟨h.regs, hmem, htables, Tray.pkts_congr c ?_, fun d e => ?_⟩
  · unfold Tray.chip
    rw [hchips]
  · unfold Tray.port
    rw [hports]

theorem each {α : Type} (l : List α) (f : Tray → α → Tray) (h : ∀ (w : Tray) a, a ∈ l → w.BesideCore (f w a) c) :
    t.BesideCore (t.each l f) c :=
  Tray.each_keeps (fun w => t.BesideCore w c) f l (fun w a ha hw => hw.trans (h w a ha)) t (refl t c)

end Tray.BesideCore

/-- A part of the ports that a change of one port leaves, on every port. -/
theorem Tray.port_modPort_keeps {α : Type} (t : Tray) (c f : Nat) {g : PortSt → PortSt} (part : PortSt → α)
    (h : ∀ p, part (g p) = part p) (d e : Nat) : part ((t.modPort c f g).port d e) = part (t.port d e) := by
  by_cases hkey : d * 64 + e = c * 64 + f
  · have hport (u : Tray) : u.port d e = u.port c f := congrArg (Assoc.get (fun _ => ({} : PortSt)) u.ports) hkey
    rw [hport, hport t, Tray.port_modPort]
    exact h _
  · rw [Tray.port_modPort_ne _ _ _ _ _ _ hkey]

theorem coreReg_of_charged {c m k q o : Nat} (hm : m < 64) (h : chargedReg c m k q o) : coreReg c q o :=
  .inr (chargeReg_of_charged hm h)

/-- The packet that THROTTLE sends changes nothing of the core. -/
theorem Tray.throttle_beside (t : Tray) (c f n : Nat) (p : CorePkt) : t.BesideCore (t.throttle c f n p) c := by
  unfold Tray.throttle
  extract_lets pg a key now last pk t1
  split
  · exact .refl t c
  · have hnoted : t.BesideCore t1 c := by
      refine ⟨fun _ _ _ _ => rfl, rfl, rfl, ?_, fun _ _ => rfl⟩
      unfold Tray.pkts
      rw [Tray.chip_modChip]
    have hsent : t1.BesideCore (t1.modPort c f (fun q => { q with origq := q.origq ++ [⟨pk, .none⟩] })) c :=
      ⟨fun _ _ _ _ => rfl, rfl, rfl, rfl, t1.port_modPort_keeps c f PortSt.xoffKit fun _ => rfl⟩
    exact (hnoted.trans hsent).trans (.of_stays ((Tray.charge_stays _ c 1 (TrafficSide.seat_lt p) (by decide)).mono
      fun _ _ => coreReg_of_charged (TrafficSide.seat_lt p)))

theorem Tray.Stays.wmMax {t u : Tray} {R : Nat → Nat → Prop} (h : t.Stays u R) {pg : Nat} {f : Fld} (x : Nat)
    (hR : R pg f.off) (ho : f.off < 4096) : t.Stays (u.wmMax pg f x) R := by
  unfold Tray.wmMax
  split
  · exact h.sf x hR ho
  · exact h

theorem Tray.Stays.wmMin {t u : Tray} {R : Nat → Nat → Prop} (h : t.Stays u R) {pg : Nat} {f : Fld} (x : Nat)
    (hR : R pg f.off) (ho : f.off < 4096) : t.Stays (u.wmMin pg f x) R := by
  unfold Tray.wmMin
  split
  · exact h.sf x hR ho
  · exact h

theorem coreReg_page {c p o : Nat} (hlo : 0x050 ≤ p) (hhi : p < 0x070) (ho : 0x100 ≤ o) : coreReg c (chipPg c p) o := by
  unfold coreReg chipPg
  exact .inl (by omega)

theorem Tray.kitMarks_stays (t : Tray) (c f tc : Nat) {m : Nat} (hm : m < 64) : t.Stays (t.kitMarks c f tc m) (coreReg c) := by
  have hseat : (F.KIT_SEAT_MAX.at (8 * (m % 16))).off = 0x100 + 8 * (m % 16) := rfl
  unfold Tray.kitMarks
  extract_lets d oq wm t1 t2
  have hwm : (wm.at d).off = 0x108 + 0x20 * (f % 8) := by
    unfold wm d
    split <;> rfl
  have hfree : t.Stays t1 (coreReg c) :=
    (Tray.Stays.refl t _).wmMin _ (coreReg_page (by decide) (by decide) (by decide)) (by decide)
  have hqueue : t.Stays t2 (coreReg c) := by
    unfold t2
    split
    · exact hfree.wmMax _ (coreReg_page (by omega) (by omega) (by omega)) (by omega)
    · exact hfree
  exact hqueue.wmMax _ (coreReg_page (by omega) (by omega) (by omega)) (by omega)

/-! ### One cell is admitted -/

/-- The cell's account joins those of its packet (R200). -/
def CorePkt.admitted (hd : Bool) (p : CorePkt) : CorePkt := { p with accts := p.accts ++ [hd] }

/-- An admission counts the cell to the account `hd` of its packet; beside it the core's registers and THROTTLEs change. -/
theorem Tray.admitCell_counts {t : Tray} {c : Nat} {p : CorePkt} (hd : Bool) (hp : t.findPkt c p.id = some p)
    (hcopies : p.copies ≠ []) :
    (t.admitCell c p hd).findPkt c p.id = some (p.admitted hd) ∧
    t.keepsRegs (t.admitCell c p hd) (coreReg c) ∧ (t.admitCell c p hd).mem = t.mem ∧
    (t.admitCell c p hd).tables = t.tables ∧ ∀ d e, ((t.admitCell c p hd).port d e).xoffKit = (t.port d e).xoffKit := by
  unfold Tray.admitCell
  extract_lets outs t1 t2
  have houts : outs ≠ [] := by simpa [outs] using hcopies
  have hthrottle : t.BesideCore t1 c := .each _ _ fun w f _ => w.throttle_beside c f _ p
  have hmarks : t2.BesideCore (t2.each outs fun t f => t.kitMarks c f p.cls p.seat) c :=
    .each _ _ fun w f _ => .of_stays (w.kitMarks_stays c f p.cls (TrafficSide.seat_lt p))
  have hfound : t2.findPkt c p.id = some (p.admitted hd) :=
    Tray.findPkt_modPkt ((Tray.findPkt_congr _ hthrottle.pkts).trans hp) rfl (CorePkt.not_spent hcopies)
  rw [if_neg houts]
  exact ⟨(Tray.findPkt_congr _ hmarks.pkts).trans hfound, Tray.keepsRegs_trans hthrottle.regs hmarks.regs,
    hmarks.mem.trans hthrottle.mem, hmarks.tables.trans hthrottle.tables, fun d e => (hmarks.xoff d e).trans (hthrottle.xoff d e)⟩

/-- What CELL_ADMIT shows of the packet whose cell it admits to the account `hd`. -/
def Tray.cellCounted (t u : Tray) (c : Nat) (p : CorePkt) (hd : Bool) : Prop :=
  (∃ q, u.findPkt c p.id = some q ∧ q.accts = p.accts ++ [hd] ∧ q.hdr = p.hdr ∧ q.pay = p.pay) ∧
  t.keepsRegs u (coreReg c) ∧ u.mem = t.mem ∧ u.tables = t.tables

section
variable {t : Tray} {c e : Nat} {p : CorePkt} {x : Copy} {l : List Copy}

/-- A unicast cell of a live output, of no circuit and not of TC2, is judged by the threshold alone (R199). -/
theorem Tray.cellAdmit_unicast (hnext : t.nextCell c e = some p) (hmulti : p.multi = false) (hcopies : p.copies = x :: l)
    (hcirc : p.circ = none) (hcls : p.cls ≠ 2) (hlive : t.live c x.port = true) (hstorm : t.storm c x.port p.cls = false) :
    t.cellAdmit c e =
      if t.passes c x.port p.cls then t.admitCell c p false else t.toHeadroom c x.port p := by
  unfold Tray.cellAdmit Tray.admitUni
  simp only [hnext, hmulti, hcopies, hcirc, hcls, hlive, hstorm, Bool.false_eq_true, not_true_eq_false, false_and, if_false]

theorem Tray.nextCell_inPort (hnext : t.nextCell c e = some p) : p.inPort = e := by
  have hp := List.find?_some hnext
  simp only [Bool.and_eq_true, beq_iff_eq] at hp
  exact hp.1.1.1.1

theorem Tray.toHeadroom_room {dest : Nat} (h : t.kitHdrm c p.inPort p.cls < t.resvOf c p.inPort p.cls) :
    t.toHeadroom c dest p = (t.setXoffKit c p.inPort p.cls dest).admitCell c p true := if_pos h

theorem Tray.setXoffKit_sets (t : Tray) (c e tc dest : Nat) :
    bitOf ((t.setXoffKit c e tc dest).port c e).xoffKit tc = true := by
  unfold Tray.setXoffKit
  rw [Tray.port_modPort]
  exact bitOf_setBitOf ..

theorem Tray.findPkt_setXoffKit (t : Tray) (c e tc dest id : Nat) :
    (t.setXoffKit c e tc dest).findPkt c id = t.findPkt c id := rfl

theorem Tray.cellCounted.of_setXoffKit {u : Tray} {tc dest : Nat} {hd : Bool}
    (h : (t.setXoffKit c e tc dest).cellCounted u c p hd) : t.cellCounted u c p hd := by
  obtain ⟨hfound, hregs, hmem, htables⟩ := h
  exact ⟨hfound, Tray.keepsRegs_trans (Tray.keepsRegs_of rfl) hregs, hmem, htables⟩

theorem Tray.admitCell_cellCounted (hd : Bool) (hp : t.findPkt c p.id = some p) (hcopies : p.copies ≠ []) :
    t.cellCounted (t.admitCell c p hd) c p hd := by
  obtain ⟨hfound, hregs, hmem, htables, -⟩ := Tray.admitCell_counts hd hp hcopies
  exact ⟨⟨_, hfound, rfl, rfl, rfl⟩, hregs, hmem, htables⟩

end

theorem State.Like.cellCounted {s : State} {t u : Tray} {c : Nat} {p : CorePkt} {hd : Bool} (h : s.Like u)
    (hu : t.cellCounted u c p hd) : t.cellCounted s.tray c p hd := by
  obtain ⟨⟨q, hfound, hq⟩, hregs, hmem, htables⟩ := hu
  exact ⟨⟨q, (Tray.findPkt_congr _ (Tray.pkts_congr c (h.chip c))).trans hfound, hq⟩, h.keepsRegs hregs, h.mem.trans hmem,
    h.tables.trans htables⟩

section
variable {s : State} {c : Fin 5} {e : Fin 64} {p : CorePkt} {x : Copy} {l : List Copy}
  (hon : s.tray.enabled (chipPg c.val 0x060) = true) (hnext : s.tray.nextCell c.val e.val = some p)
  (hfind : s.tray.findPkt c.val p.id = some p) (hmulti : p.multi = false) (hcopies : p.copies = x :: l) (hcirc : p.circ = none)
  (hcls : p.cls ≠ 2) (hlive : s.tray.live c.val x.port = true) (hstorm : s.tray.storm c.val x.port p.cls = false)
include hon hnext hfind hmulti hcopies hcirc hcls hlive hstorm

theorem cellAdmit_shared (hpass : s.tray.passes c.val x.port p.cls = true) :
    Completes (.cellAdmit c e) s (fun t => s.tray.cellCounted t.tray c.val p false) := by
  have hrun : s.tray.ifOn (chipPg c.val 0x060) (fun t => t.cellAdmit c.val e.val) = s.tray.admitCell c.val p false :=
    (if_pos hon).trans ((Tray.cellAdmit_unicast hnext hmulti hcopies hcirc hcls hlive hstorm).trans (if_pos hpass))
  exact completes_run (exec_cellAdmit ..) hrun fun t ht =>
    ht.cellCounted (Tray.admitCell_cellCounted false hfind (hcopies ▸ List.cons_ne_nil _ _))

theorem cellAdmit_headroom (hpass : s.tray.passes c.val x.port p.cls = false)
    (hroom : s.tray.kitHdrm c.val e.val p.cls < s.tray.resvOf c.val e.val p.cls) :
    Completes (.cellAdmit c e) s (fun t => s.tray.cellCounted t.tray c.val p true ∧
      bitOf (t.tray.port c.val e.val).xoffKit p.cls = true) := by
  have hin := Tray.nextCell_inPort hnext
  have hne : p.copies ≠ [] := hcopies ▸ List.cons_ne_nil _ _
  have hrun : s.tray.ifOn (chipPg c.val 0x060) (fun t => t.cellAdmit c.val e.val) =
      (s.tray.setXoffKit c.val e.val p.cls x.port).admitCell c.val p true := by
    refine (if_pos hon).trans ((Tray.cellAdmit_unicast hnext hmulti hcopies hcirc hcls hlive hstorm).trans ?_)
    rw [if_neg (by rw [hpass]; decide), Tray.toHeadroom_room (by rw [hin]; exact hroom), hin]
  have hfind' : (s.tray.setXoffKit c.val e.val p.cls x.port).findPkt c.val p.id = some p :=
    (Tray.findPkt_setXoffKit ..).trans hfind
  refine completes_run (exec_cellAdmit ..) hrun fun t ht =>
    ⟨ht.cellCounted ((Tray.admitCell_cellCounted true hfind' hne).of_setXoffKit), ?_⟩
  obtain ⟨-, -, -, -, hxoff⟩ := Tray.admitCell_counts true hfind' hne
  rw [ht.port, hxoff]
  exact s.tray.setXoffKit_sets ..

end

/-! ### XOFF clears -/

theorem xoffClear_clears {s : State} {c : Fin 5} {e : Fin 64} {tc : Fin 4} (htc : tc.val ≠ 0)
    (hempty : s.tray.kitHdrm c.val e.val tc.val = 0) (hagain : s.tray.wouldAdmit c.val e.val tc.val = true) :
    Completes (.xoffClear c e tc) s (fun t =>
      bitOf (t.tray.port c.val e.val).xoffKit tc.val = false ∧
      (∀ k, k ≠ tc.val → bitOf (t.tray.port c.val e.val).xoffKit k = bitOf (s.tray.port c.val e.val).xoffKit k) ∧
      s.tray.keepsRegs t.tray (fun _ _ => False) ∧ s.tray.keepsOtherPorts t.tray c.val e.val) := by
  have hrun : s.tray.xoffClear c.val e.val tc.val =
      s.tray.modPort c.val e.val (fun p => { p with xoffKit := clrBitOf p.xoffKit tc.val }) := by
    unfold Tray.xoffClear
    rw [if_neg htc, hempty, hagain]
    rfl
  refine completes_run (exec_xoffClear ..) hrun fun t ht => ?_
  have hport : (t.tray.port c.val e.val).xoffKit = clrBitOf (s.tray.port c.val e.val).xoffKit tc.val :=
    congrArg PortSt.xoffKit ((ht.port ..).trans (Tray.port_modPort ..))
  refine ⟨?_, fun k hk => ?_, ht.staysBut ((Tray.StaysBut.refl ..).modPort e.isLt _)⟩
  · rw [hport, bitOf_clrBitOf]
  · rw [hport, bitOf_clrBitOf_ne hk]

theorem stageXoffClear_clears {s : State} {c : Fin 5} {e : Fin 64}
    (hlow : s.tray.stageOcc c.val e.val ≤ s.tray.stageMark c.val e.val / 2) :
    Completes (.stageXoffClear c e) s (fun t =>
      (t.tray.port c.val e.val).xoffStage = false ∧
      bitOf (t.tray.gf (chipPg c.val 0x050) F.SCHED_STAGE_XOFF_PORTS) e.val = false ∧
      s.tray.keepsRegs t.tray (fun q o => q = chipPg c.val 0x050 ∧ o = A.SCHED_STAGE_XOFF) ∧
      s.tray.keepsOtherPorts t.tray c.val e.val) := by
  refine completes_run (exec_stageXoffClear ..) (if_pos hlow) fun t ht => ⟨?_, ?_, ht.staysBut
    (((Tray.StaysBut.refl ..).modPort e.isLt _).stays ((Tray.Stays.refl ..).sf _ ⟨rfl, rfl⟩ (by decide)))⟩
  · rw [ht.port, Tray.port_sf, Tray.port_modPort]
  · rw [ht.gf, Tray.gf_sf_self _ _ _ _ (by decide), show F.SCHED_STAGE_XOFF_PORTS.w = 64 from rfl, bitOf_mod _ _ _ e.isLt,
      bitOf_clrBitOf]

/-! ### Reserved headroom -/

theorem resvNext_grows (cur want used : Nat) : resvNext cur want used - cur ≤ want := by
  unfold resvNext
  split_ifs <;> omega

theorem resvNext_wanted (cur want used : Nat) : want ≤ resvNext cur want used := by
  unfold resvNext
  split_ifs <;> omega

/-- The reservation that class `tc` of a port goes on to (R168). -/
def Tray.resvAfter (t : Tray) (c e tc : Nat) : Nat :=
  resvNext (t.resvOf c e tc) (if t.live c e then t.hdrm c e tc else 0) (t.kitHdrm c e tc)

/-- The port with its reservations recomputed. -/
def Tray.resvSet (t : Tray) (c e : Nat) : Tray :=
  (t.modPort c e (fun p => { p with
    resv := [1, 2, 3].foldl (fun m tc => Assoc.set (fun _ => 0) m tc (t.resvAfter c e tc)) p.resv })).sb (portPg c e)
    F.PORT_FC_STS_HDRM_WAIT false

theorem Tray.resvSet_resvOf (t : Tray) (c e : Nat) {tc : Nat} (hlo : 1 ≤ tc) (hhi : tc ≤ 3) :
    (t.resvSet c e).resvOf c e tc = t.resvAfter c e tc := by
  unfold Tray.resvSet Tray.resvOf
  rw [Tray.port_sb, Tray.port_modPort]
  obtain rfl | rfl | rfl : tc = 1 ∨ tc = 2 ∨ tc = 3 := by omega
  all_goals simp only [List.foldl_cons, List.foldl_nil, Assoc.get_set, if_true, Nat.reduceEqDiff, if_false]

/-- Where the shared pool holds the headroom of a live port, the port gets it. -/
theorem Tray.updResv_granted {t : Tray} {c e : Nat} (hlive : t.live c e = true)
    (hroom : t.hdrm c e 1 + t.hdrm c e 2 + t.hdrm c e 3 ≤ t.kitFree c) : t.updResv c e = t.resvSet c e := by
  have hgrow (tc : Nat) : t.resvAfter c e tc - t.resvOf c e tc ≤ t.hdrm c e tc := by
    unfold Tray.resvAfter
    rw [if_pos hlive]
    exact resvNext_grows ..
  have hfits : ¬ t.kitFree c < sumL ([1, 2, 3].map (fun tc => t.resvAfter c e tc - t.resvOf c e tc)) := by
    have h1 := hgrow 1
    have h2 := hgrow 2
    have h3 := hgrow 3
    simp only [sumL, List.map_cons, List.map_nil, List.foldl_cons, List.foldl_nil]
    omega
  exact if_neg hfits

theorem carveOutGrant_grants {s : State} {c : Fin 5} {e : Fin 64}
    (hwait : s.tray.is (portPg c.val e.val) F.PORT_FC_STS_HDRM_WAIT = true) (hlive : s.tray.live c.val e.val = true)
    (hroom : s.tray.hdrm c.val e.val 1 + s.tray.hdrm c.val e.val 2 + s.tray.hdrm c.val e.val 3 ≤ s.tray.kitFree c.val) :
    Completes (.carveOutGrant c e) s (fun t =>
      t.tray.is (portPg c.val e.val) F.PORT_FC_STS_HDRM_WAIT = false ∧
      (∀ tc, 1 ≤ tc → tc ≤ 3 → s.tray.hdrm c.val e.val tc ≤ t.tray.resvOf c.val e.val tc) ∧
      s.tray.keepsRegs t.tray (fun q o => q = portPg c.val e.val ∧ o = A.PORT_FC_STS) ∧
      s.tray.keepsOtherPorts t.tray c.val e.val) := by
  have hset := Tray.updResv_granted hlive hroom
  refine completes_run (exec_carveOutGrant ..) ((if_pos hwait).trans hset) fun t ht => ⟨?_, fun tc hlo hhi => ?_, ?_⟩
  · rw [ht.is]
    unfold Tray.is Tray.resvSet
    rw [Tray.gf_sb_self _ _ _ _ (by decide)]
    rfl
  · have hresv : t.tray.resvOf c.val e.val tc = s.tray.resvAfter c.val e.val tc := by
      rw [← s.tray.resvSet_resvOf c.val e.val hlo hhi]
      unfold Tray.resvOf
      rw [ht.port]
    rw [hresv]
    unfold Tray.resvAfter
    rw [if_pos hlive]
    exact resvNext_wanted ..
  · exact (ht.staysBut (hset ▸ s.tray.updResv_staysBut c.val e.isLt ⟨rfl, rfl⟩))

/-- Settles O27, by what an admission counts, and by the tests that clear XOFF and grant headroom. -/
theorem cellsAreAdmitted : Obligations.CellsAreAdmitted := by
  intro s c e
  refine ⟨fun p x l hon hnext hfind hmulti hcopies hcirc hcls hlive hstorm => ⟨fun hpass => ?_, fun hpass hroom => ?_⟩,
    fun tc htc hempty hagain => xoffClear_clears htc hempty hagain, fun hlow => stageXoffClear_clears hlow,
    fun hwait hlive hroom => carveOutGrant_grants hwait hlive hroom⟩
  · exact cellAdmit_shared hon hnext hfind hmulti hcopies hcirc hcls hlive hstorm hpass
  · refine (cellAdmit_headroom hon hnext hfind hmulti hcopies hcirc hcls hlive hstorm hpass hroom).mono ?_
    rintro t ⟨⟨hfound, hregs, hmem, htables⟩, hxoff⟩
    exact ⟨hfound, hxoff, hregs, hmem, htables⟩

end Sys2Proof.Machine
end

section
/-! SUPPORT. Queues: the agents' packets, FENCEs, aged requests, and the discard of a paused class (R161, R170, R194, R196). -/
namespace Sys2Proof.Machine

theorem exec_origAdmit (c : Fin 5) (e : Fin 64) (s : State) :
    exec (.origAdmit c e) s = .next (s.run (fun t => t.ifOn (chipPg c.val 0x060) (fun t => t.origAdmit c.val e.val))) := rfl
theorem exec_fenceRelease (c : Fin 5) (e : Fin 64) (s : State) :
    exec (.fenceRelease c e) s = .next (s.run (fun t => t.fenceRelease c.val e.val)) := rfl
theorem exec_requestAged (c : Fin 5) (x : Fin 4) (e f : Fin 64) (s : State) :
    exec (.requestAged c x e f) s = .next (s.run (fun t => t.requestAged c.val x.val e.val f.val)) := rfl
theorem exec_pauseStorm (c : Fin 5) (e : Fin 64) (tc : Fin 4) (s : State) :
    exec (.pauseStorm c e tc) s = .next (s.runC c.val (fun t => t.pauseStorm c.val e.val tc.val)) := rfl

/-! ### Originated packets (R194) -/

section
variable {t : Tray} {c e : Nat} {o : OrigPkt}

/-- A lone waiting packet that is not stored is the next to go. -/
theorem Tray.origPick_lone (hq : (t.port c e).origq = [o]) (hstored : storedType o.pkt.hdr = false) :
    t.origPick c e = some (0, t.port c e) := by
  have htype : hPtype o.pkt.hdr ≠ P.RESULT ∨ hResent o.pkt.hdr = true := by
    refine .inl fun h => ?_
    unfold storedType at hstored
    rw [h] at hstored
    exact absurd hstored (by simp)
  unfold Tray.origPick
  simp only [hq, List.length_singleton, List.range_one, List.foldl_cons, List.foldl_nil, List.getElem?_cons_zero, if_pos htype]

/-- A TC0 packet that is not stored goes straight to the output (R48). -/
theorem Tray.origTake_tc0 (i : Nat) (x : PortSt) (hstored : storedType o.pkt.hdr = false) (hch : hCh o.pkt.hdr = 0) :
    t.origTake c e i x o = (t.setPort c e { x with origq := x.origq.eraseIdx i }).modPort c e
      (fun q => { q with snapq := q.snapq ++ [o.pkt] }) := by
  unfold Tray.origTake
  dsimp only
  rw [if_neg (by rw [hstored]; simp), if_pos hch]

theorem Tray.origAdmit_lone (hnone : (t.pkts c).any (fun p => p.inPort == e && p.orig && decide (p.accts.length < p.cells)) = false)
    (hq : (t.port c e).origq = [o]) (hstored : storedType o.pkt.hdr = false) (hch : hCh o.pkt.hdr = 0) :
    t.origAdmit c e = (t.setPort c e { t.port c e with origq := [] }).modPort c e
      (fun q => { q with snapq := q.snapq ++ [o.pkt] }) := by
  unfold Tray.origAdmit
  rw [if_neg (by rw [hnone]; decide), Tray.origPick_lone hq hstored]
  dsimp only
  rw [hq, List.getElem?_cons_zero]
  dsimp only
  rw [Tray.origTake_tc0 0 _ hstored hch, hq]
  rfl

end

theorem origAdmit_sends {s : State} {c : Fin 5} {e : Fin 64} {o : OrigPkt}
    (hon : s.tray.enabled (chipPg c.val 0x060) = true)
    (hnone : (s.tray.pkts c.val).any
      (fun p => p.inPort == e.val && p.orig && decide (p.accts.length < p.cells)) = false)
    (hq : (s.tray.port c.val e.val).origq = [o]) (hstored : storedType o.pkt.hdr = false) (hch : hCh o.pkt.hdr = 0) :
    Completes (.origAdmit c e) s (fun t =>
      (t.tray.port c.val e.val).origq = [] ∧
      (t.tray.port c.val e.val).snapq = (s.tray.port c.val e.val).snapq ++ [o.pkt] ∧
      s.tray.keepsRegs t.tray (fun _ _ => False) ∧ s.tray.keepsOtherPorts t.tray c.val e.val) := by
  refine completes_run (exec_origAdmit ..) ((if_pos hon).trans (Tray.origAdmit_lone hnone hq hstored hch)) fun t ht => ?_
  have hport := ht.port c.val e.val
  rw [Tray.port_modPort, Tray.port_setPort] at hport
  exact ⟨congrArg PortSt.origq hport, congrArg PortSt.snapq hport,
    ht.staysBut (((Tray.StaysBut.refl ..).setPort e.isLt _).modPort e.isLt _)⟩

/-! ### FENCEs (R161) -/

/-- A packet of the list behind those already judged: one that waits for input `e` is judged again. -/
def fenceStep (e : Nat) (acc : List CorePkt) (p : CorePkt) : List CorePkt :=
  if p.held ∧ p.inPort = e then
    let earlier := acc.filter (fun q => q.inPort == e && !q.orig && !q.multi && hDst q.hdr == hDst p.hdr)
    let blocked :=
      if hFence p.hdr then !earlier.isEmpty
      else earlier.any (fun q => q.held && hCh q.hdr == hCh p.hdr)
    acc ++ [{ p with held := blocked }]
  else acc ++ [p]

theorem Tray.fenceRelease_eq (t : Tray) (c e : Nat) :
    t.fenceRelease c e = t.setPkts c ((t.pkts c).foldl (fenceStep e) []) := rfl

theorem fenceStep_appends (e : Nat) (acc : List CorePkt) (p : CorePkt) :
    ∃ b, fenceStep e acc p = acc ++ [{ p with held := b }] := by
  unfold fenceStep
  split
  · exact ⟨_, rfl⟩
  · exact ⟨p.held, rfl⟩

/-- Judging FENCEs again changes only which packets wait. -/
theorem fenceSteps_same (e : Nat) (l acc : List CorePkt) {q : CorePkt} (hq : q ∈ l.foldl (fenceStep e) acc) :
    q ∈ acc ∨ ∃ p ∈ l, ∃ b, q = { p with held := b } := by
  induction l generalizing acc with
  | nil => exact .inl hq
  | cons p l ih =>
    obtain ⟨b, hb⟩ := fenceStep_appends e acc p
    rcases ih _ hq with hacc | ⟨p', hp', hq'⟩
    · rw [hb, List.mem_append, List.mem_singleton] at hacc
      exact hacc.imp_right fun h => ⟨p, List.mem_cons_self, b, h⟩
    · exact .inr ⟨p', List.mem_cons_of_mem _ hp', hq'⟩

theorem fenceSteps_keep (e : Nat) (l acc : List CorePkt) {q : CorePkt} (hq : q ∈ acc) : q ∈ l.foldl (fenceStep e) acc := by
  induction l generalizing acc with
  | nil => exact hq
  | cons p l ih =>
    obtain ⟨b, hb⟩ := fenceStep_appends e acc p
    exact ih _ (hb ▸ List.mem_append_left _ hq)

/-- A FENCE with no earlier packet of its pair passes. -/
theorem fenceStep_passes {e : Nat} {acc : List CorePkt} {p : CorePkt} (hheld : p.held = true) (hin : p.inPort = e)
    (hfence : hFence p.hdr = true)
    (hfirst : ∀ q ∈ acc, ¬ (q.inPort = e ∧ q.orig = false ∧ q.multi = false ∧ hDst q.hdr = hDst p.hdr)) :
    fenceStep e acc p = acc ++ [{ p with held := false }] := by
  have hnone : acc.filter (fun q => q.inPort == e && !q.orig && !q.multi && hDst q.hdr == hDst p.hdr) = [] :=
    List.filter_eq_nil_iff.2 fun q hq => by
      have hother := hfirst q hq
      simpa [and_assoc] using hother
  unfold fenceStep
  rw [if_pos ⟨hheld, hin⟩]
  simp only [hnone, hfence, if_true, List.isEmpty_nil, Bool.not_true]

theorem fenceRelease_passes {s : State} {c : Fin 5} {e : Fin 64} {l1 l2 : List CorePkt} {p : CorePkt}
    (hsplit : s.tray.pkts c.val = l1 ++ p :: l2) (hheld : p.held = true) (hin : p.inPort = e.val)
    (hfence : hFence p.hdr = true) (hcopies : p.copies ≠ [])
    (hfirst : ∀ q ∈ l1, ¬ (q.inPort = e.val ∧ q.orig = false ∧ q.multi = false ∧ hDst q.hdr = hDst p.hdr)) :
    Completes (.fenceRelease c e) s (fun t =>
      { p with held := false } ∈ t.tray.pkts c.val ∧
      s.tray.keepsRegs t.tray (fun _ _ => False) ∧ t.tray.ports = s.tray.ports ∧ t.tray.mem = s.tray.mem) := by
  have hbefore : ∀ q ∈ l1.foldl (fenceStep e.val) [],
      ¬ (q.inPort = e.val ∧ q.orig = false ∧ q.multi = false ∧ hDst q.hdr = hDst p.hdr) := fun q hq => by
    obtain hnil | ⟨p', hp', b, rfl⟩ := fenceSteps_same _ _ _ hq
    · exact absurd hnil List.not_mem_nil
    · exact hfirst p' hp'
  have hpasses : { p with held := false } ∈ (s.tray.pkts c.val).foldl (fenceStep e.val) [] := by
    rw [hsplit, List.foldl_append, List.foldl_cons, fenceStep_passes hheld hin hfence hbefore]
    exact fenceSteps_keep _ _ _ (List.mem_append_right _ (List.mem_singleton.2 rfl))
  refine completes_run (exec_fenceRelease ..) (s.tray.fenceRelease_eq ..) fun t ht => ⟨?_,
    ht.keepsRegs (Tray.keepsRegs_of rfl), ht.ports.trans rfl, ht.mem.trans rfl⟩
  rw [Tray.pkts_congr c.val (ht.chip c.val), Tray.pkts_setPkts]
  exact List.mem_filter.2 ⟨hpasses, by rw [CorePkt.not_spent (p := { p with held := false }) hcopies]; rfl⟩

/-! ### Aged requests (R196) -/

theorem satTo_eq_min (m n : Nat) : satTo m n = min m n := by
  unfold satTo
  split <;> omega

theorem requestAged_promotes {s : State} {c : Fin 5} {x : Fin 4} {e f : Fin 64}
    (hreq : (s.tray.requests c.val x.val).any (fun a => a.inp == e.val && a.out == f.val) = true)
    (hnew : (s.tray.chip c.val).aged.contains (x.val * 4096 + e.val * 64 + f.val) = false) :
    Completes (.requestAged c x e f) s (fun t =>
      (t.tray.chip c.val).aged = (s.tray.chip c.val).aged ++ [x.val * 4096 + e.val * 64 + f.val] ∧
      t.tray.gf (chipPg c.val 0x050) F.SCHED_AGED_COUNT =
        min (2 ^ F.SCHED_AGED_COUNT.w - 1) (s.tray.gf (chipPg c.val 0x050) F.SCHED_AGED_COUNT + 1) ∧
      s.tray.keepsRegs t.tray (fun q o => q = chipPg c.val 0x050 ∧ o = A.SCHED_AGED) ∧ t.tray.ports = s.tray.ports ∧
      t.tray.mem = s.tray.mem) := by
  have hstay := ((Tray.ChipStays.refl s.tray (fun q o => q = chipPg c.val 0x050 ∧ o = A.SCHED_AGED)).modChip c.val
    (fun ch => { ch with aged := ch.aged ++ [x.val * 4096 + e.val * 64 + f.val] })).trans
      (.of_stays ((Tray.Stays.refl ..).sat (f := F.SCHED_AGED_COUNT) 1 ⟨rfl, rfl⟩ (by decide)))
  refine completes_run (exec_requestAged ..) (if_pos ⟨hreq, by rw [hnew]; decide⟩) fun t ht => ⟨?_, ?_,
    (ht.chipStays hstay).1, ht.ports.trans rfl, (ht.chipStays hstay).2⟩
  · rw [ht.chip, Tray.chip_sat, Tray.chip_modChip]
  · rw [ht.gf, Tray.gf_sat_self _ _ _ _ (by decide)]
    exact satTo_eq_min ..

/-! ### The discard of a paused class (R170) -/

/-- The port's paused classes under discard and its interrupt bits stay. -/
def Tray.keepsStorm (t u : Tray) (c e : Nat) : Prop :=
  u.gf (portPg c e) F.PORT_FC_STS_STORM = t.gf (portPg c e) F.PORT_FC_STS_STORM ∧
    u.rd (portPg c e) A.PG_IRQ_RAW = t.rd (portPg c e) A.PG_IRQ_RAW

section
variable (t : Tray) (c e : Nat)

theorem Tray.keepsStorm_of (h : u.regs = t.regs) : t.keepsStorm u c e :=
  ⟨congrArg F.PORT_FC_STS_STORM.get (Tray.rd_congr h ..), Tray.rd_congr h ..⟩

theorem Tray.keepsStorm.trans {t u v : Tray} {c e : Nat} (a : t.keepsStorm u c e) (b : u.keepsStorm v c e) :
    t.keepsStorm v c e := ⟨b.1.trans a.1, b.2.trans a.2⟩

theorem Tray.keepsStorm_each {α : Type} (l : List α) (f : Tray → α → Tray)
    (h : ∀ (w : Tray) a, a ∈ l → w.keepsStorm (f w a) c e) : t.keepsStorm (t.each l f) c e :=
  Tray.each_keeps (fun w => t.keepsStorm w c e) f l (fun w a ha hw => hw.trans (h w a ha)) t ⟨rfl, rfl⟩

theorem portPg_not_charged {c m e k o : Nat} (he : e < 64) : ¬ chargedReg c m k (portPg c e) o := by
  unfold chargedReg seatPg watchPg portPg chipPg
  omega

theorem Tray.countStorm_keepsStorm (f : Nat) {m : Nat} (he : e < 64) (hm : m < 64) :
    t.keepsStorm (t.countStorm c f m) c e := by
  have hcharge (u : Tray) (o : Nat) (ho : o < 4096) : (u.charge c m N.STORM 1).rd (portPg c e) o = u.rd (portPg c e) o :=
    (u.charge_stays c 1 hm (by decide)).regs _ _ ho (portPg_not_charged he)
  unfold Tray.countStorm
  refine ⟨congrArg F.PORT_FC_STS_STORM.get ((hcharge _ _ (by decide)).trans ?_), (hcharge _ _ (by decide)).trans ?_⟩ <;>
    exact Tray.rd_sat_off _ _ _ _ _ _ (by decide)

theorem Tray.updResv_keepsStorm (f : Nat) : t.keepsStorm (t.updResv c f) c e := by
  have hwait (u : Tray) (b : Bool) : u.keepsStorm (u.sb (portPg c f) F.PORT_FC_STS_HDRM_WAIT b) c e := by
    refine ⟨?_, Tray.rd_sb_off _ _ _ _ _ _ (by decide)⟩
    by_cases hf : portPg c e = portPg c f
    · rw [hf]
      exact Tray.gf_sb_ne _ _ _ _ _ (by decide) (by decide) (by decide)
    · exact Tray.gf_sf_pg _ _ _ _ _ _ hf (by decide) (by decide)
  unfold Tray.updResv
  extract_lets nxt grow pg
  split
  · exact hwait t true
  · exact (Tray.keepsStorm_of t c e rfl).trans (hwait _ false)

/-- The tray once class `tc` of the port is shown as discarded. -/
def Tray.stormShown (t : Tray) (c e tc : Nat) : Tray :=
  (t.sf (portPg c e) F.PORT_FC_STS_STORM (setBitOf (t.gf (portPg c e) F.PORT_FC_STS_STORM) tc)).raise (portPg c e) 25

/-- What is queued for the port in the class is discarded. -/
def Tray.stormDropped (t : Tray) (c e tc : Nat) : Tray :=
  if tc = 0 then
    (t.each (t.port c e).snapq (fun t p => t.countStorm c e (hSeat p.hdr))).modPort c e (fun p => { p with snapq := [] })
  else
    let hit := (t.pkts c).filter (fun p => p.cls == tc && p.copies.any (fun x => x.port == e && !x.started))
    let t1 := t.each hit (fun t p => t.countStorm c e p.seat)
    let t2 := t1.setPkts c ((t1.pkts c).map (fun p =>
      if p.cls = tc ∧ p.copies.any (fun x => x.port == e && !x.started) then
        { p with copies := p.copies.filter (fun x => !(x.port == e && !x.started)), judged := true }
      else p))
    t2.each (List.range 64) (fun t e => if t.port c e = {} then t else t.updResv c e)

theorem Tray.pauseStorm_held {t : Tray} {c e tc : Nat} (hup : t.pst c e = S.UP) (hoff : bitOf (t.xoffRx c e) tc = true)
    (hstorm : t.storm c e tc = false) : t.pauseStorm c e tc = (t.stormShown c e tc).stormDropped c e tc :=
  if_pos ⟨beq_iff_eq.2 hup, hoff, by rw [hstorm]; decide⟩

theorem Tray.stormDropped_keeps (tc : Nat) (he : e < 64) :
    t.keepsStorm (t.stormDropped c e tc) c e ∧ TrafficSide c t (t.stormDropped c e tc) := by
  unfold Tray.stormDropped
  split
  case isTrue =>
    refine ⟨(t.keepsStorm_each c e _ _ fun w p _ => w.countStorm_keepsStorm c e e he (TrafficSide.hSeat_lt _)).trans
      (Tray.keepsStorm_of _ c e rfl), ?_⟩
    exact (TrafficSide.each _ _ (fun w p _ => TrafficSide.countStorm c w e _ (TrafficSide.hSeat_lt _)) _).trans
      (TrafficSide.modPort c _ c e _ (fun _ => rfl) (fun _ => rfl))
  case isFalse =>
    extract_lets hit t1 t2
    have hcount : t.keepsStorm t1 c e :=
      t.keepsStorm_each c e _ _ fun w p _ => w.countStorm_keepsStorm c e e he (TrafficSide.seat_lt p)
    have hside : TrafficSide c t t1 :=
      TrafficSide.each _ _ (fun w p _ => TrafficSide.countStorm c w e _ (TrafficSide.seat_lt p)) _
    refine ⟨(hcount.trans (u := t1) (Tray.keepsStorm_of _ c e rfl)).trans (t2.keepsStorm_each c e _ _ fun w f _ => ?_),
      (hside.trans (TrafficSide.setPkts c t1 c _)).trans (TrafficSide.updAll c t2)⟩
    split
    · exact ⟨rfl, rfl⟩
    · exact w.updResv_keepsStorm c e f

theorem Tray.stormShown_shows (tc : Fin 4) (hc : c < 5) (he : e < 64) :
    (t.stormShown c e tc.val).storm c e tc.val = true ∧ (t.stormShown c e tc.val).irqUp (portPg c e) 25 := by
  refine ⟨?_, irqUp_portPg _ hc he (by decide) (by decide)⟩
  unfold Tray.storm Tray.stormShown
  rw [Tray.gf_raise_off _ _ _ _ _ (by decide), Tray.gf_sf_self _ _ _ _ (by decide), show F.PORT_FC_STS_STORM.w = 4 from rfl,
    bitOf_mod _ _ _ tc.isLt, bitOf_setBitOf]

end

theorem pauseStorm_shows {s : State} {c : Fin 5} {e : Fin 64} {tc : Fin 4} (hup : s.tray.pst c.val e.val = S.UP)
    (hoff : bitOf (s.tray.xoffRx c.val e.val) tc.val = true) (hstorm : s.tray.storm c.val e.val tc.val = false) :
    Completes (.pauseStorm c e tc) s (fun t =>
      t.tray.storm c.val e.val tc.val = true ∧ t.tray.irqUp (portPg c.val e.val) 25 ∧
      s.tray.keepsRegs t.tray (fun q o => q = portPg c.val e.val ∨ ¬ trafficFree c.val q o)) := by
  refine completes_runC_side (exec_pauseStorm ..) (Tray.pauseStorm_held hup hoff hstorm) fun w t hside ht => ?_
  obtain ⟨hshown, hirq⟩ := s.tray.stormShown_shows c.val e.val tc c.isLt e.isLt
  obtain ⟨⟨hkept, hraw⟩, htraffic⟩ := (s.tray.stormShown c.val e.val tc.val).stormDropped_keeps c.val e.val tc.val e.isLt
  refine ⟨?_, ht.irqUp ?_, fun q o ho hn => ?_⟩
  · unfold Tray.storm at hshown ⊢
    rw [ht.gf, hside.gf_portPg e.isLt _ (by decide), hkept, hshown]
  · unfold Tray.irqUp at hirq ⊢
    rw [hside.rd_portPg e.isLt (by decide), hraw, hirq]
  · obtain ⟨hpg, hfree⟩ := not_or.1 hn
    rw [htraffic.after hside ht q o ho (not_not.1 hfree)]
    unfold Tray.stormShown
    rw [Tray.rd_raise_pg _ _ _ _ _ hpg ho, Tray.rd_sf_pg _ _ _ _ _ _ hpg ho (by decide)]

/-- Settles O28, queue by queue. -/
theorem queuesMoveOn : Obligations.QueuesMoveOn := fun _ _ _ =>
  ⟨fun _ hon hnone hq hstored hch => origAdmit_sends hon hnone hq hstored hch,
    fun _ _ _ hsplit hheld hin hfence hcopies hfirst => fenceRelease_passes hsplit hheld hin hfence hcopies hfirst,
    fun _ _ hreq hnew => requestAged_promotes hreq hnew, fun _ _ hup hoff hstorm => pauseStorm_shows hup hoff hstorm⟩

end Sys2Proof.Machine
end

section
/-! SUPPORT. The header position of an output, and errors in the kitty (R148, R205, R215). -/
namespace Sys2Proof.Machine

theorem exec_egressSelect (c : Fin 5) (e : Fin 64) (s : State) :
    exec (.egressSelect c e) s = .next (s.runC c.val (fun t => t.egressSelect c.val e.val)) := rfl
theorem exec_kittyEccError (c : Fin 5) (id : Option Nat) (flit : Nat) (s : State) :
    exec (.kittyEccError c id flit) s = .next (s.runC c.val (fun t => t.kittyEcc c.val id flit)) := rfl

/-! ### The choice of the next packet (R205) -/

theorem drrPick_nil (last : Nat) (defs : Assoc Nat) (quantum : Nat → Nat) : drrPick last defs [] quantum = none := rfl

theorem Tray.pickSeat_nil (t : Tray) (c tc f : Nat) (x : PortSt) : t.pickSeat c tc f [] x = none := by
  have hnone : (List.range 64).filter (fun m => ([] : List CorePkt).any (fun p => p.seat == m)) = [] :=
    List.filter_eq_nil_iff.2 fun m _ => by simp
  unfold Tray.pickSeat
  simp only [hnone, List.filterMap_nil, drrPick_nil]

section
variable {t : Tray} {c f : Nat} (ok : CorePkt → Bool) (okSnap : Pkt → Bool)

/-- Nothing waits at an output whose chip holds no packet of the core, without a TC0 packet of its own. -/
theorem Tray.pickEgress_empty (hpkts : t.pkts c = []) (hsnap : (t.port c f).snapq = []) :
    t.pickEgress c f ok okSnap = none := by
  have hlinked : firstLinked f [] = none := rfl
  unfold Tray.pickEgress
  simp only [hpkts, hsnap, List.filter_nil, hlinked, Tray.pickSeat_nil, ite_self]
  rw [List.findSome?_eq_none_iff.2 fun k _ => ?_]
  split <;> rfl

/-- A TC0 packet goes ahead of everything else (R205). -/
theorem Tray.pickEgress_snap {p : Pkt} {rest : List Pkt} (hsnap : (t.port c f).snapq = p :: rest)
    (hoff : bitOf (t.xoffRx c f) 0 = false) (hpend : t.is (portPg c f) F.PG_COMMIT_STS_PENDING = false)
    (hok : okSnap p = true) : t.pickEgress c f ok okSnap = some ⟨0, none, some p, t.port c f⟩ := by
  unfold Tray.pickEgress
  simp only [hpend, hoff, hsnap, hok, Bool.false_eq_true, if_false, if_true]

end

/-! ### A header position -/

section
variable (t : Tray) (c : Nat) {e : Nat}

/-- The port with nothing in progress at its transmitter. -/
def Tray.txIdle (t : Tray) (c e : Nat) : Tray :=
  t.modPort c e (fun q => { q with tx := { q.tx with cur := none, ins := none, lit := false } })

theorem Tray.egressSelect_header {t : Tray} {c e : Nat} (hup : t.pst c e = S.UP) (htx : (t.port c e).tx = {}) :
    t.egressSelect c e = (t.txIdle c e).egressHeader c e := by
  have hon : t.up c e = true := beq_iff_eq.2 hup
  unfold Tray.egressSelect
  rw [htx]
  dsimp only
  rw [if_neg (not_not.2 hon), if_neg (by decide)]
  rfl

theorem Tray.sendFlit_staysBut (he : e < 64) (fl : Flit) (upd : TxSt → TxSt) (R : Nat → Nat → Prop) :
    t.StaysBut (t.sendFlit c e fl upd) c e R := ((Tray.StaysBut.refl ..).emit _).modPort he _

theorem Tray.sendFlit_sends (fl : Flit) (upd : TxSt → TxSt) : Out.flit c e fl ∈ (t.sendFlit c e fl upd).out :=
  List.mem_cons_self

theorem Tray.sendFlit_rd (fl : Flit) (upd : TxSt → TxSt) (q o : Nat) : (t.sendFlit c e fl upd).rd q o = t.rd q o := rfl

theorem Tray.sendFlit_port (fl : Flit) (upd : TxSt → TxSt) :
    (t.sendFlit c e fl upd).port c e = { t.port c e with tx := (upd (t.port c e).tx).advance } := Tray.port_modPort ..

theorem Tray.txIdle_staysBut (he : e < 64) (R : Nat → Nat → Prop) : t.StaysBut (t.txIdle c e) c e R :=
  (Tray.StaysBut.refl ..).modPort he _

/-- A charge leaves the other counters of the seat. -/
theorem Tray.charge_otherCounter (n : Nat) {m k j : Nat} (hm : m < 64) (hk : k < 31) (hj : j < 31) (hne : j ≠ k) :
    (t.charge c m k n).rd (seatPg c m) (A.SEAT_CNT + 8 * j) = t.rd (seatPg c m) (A.SEAT_CNT + 8 * j) := by
  refine (t.charge_stays c n hm hk).regs _ _ (by unfold A.SEAT_CNT; omega) fun h => ?_
  unfold chargedReg seatPg watchPg chipPg at h
  omega

/-- The header of TC0 packet `p` counts against its seat. -/
def Tray.headerCounted (t : Tray) (c e : Nat) (p : Pkt) : Tray :=
  (t.countTx c e 0 (hSeat p.hdr) none false).charge c (hSeat p.hdr) N.TX_PKTS 1

theorem Tray.sendSnap_header (p : Pkt) :
    ∃ upd : TxSt → TxSt, t.sendSnap c e p 0 false = (t.headerCounted c e p).sendFlit c e p.hdr upd := by
  unfold Tray.sendSnap
  dsimp only
  rw [if_neg (fun h => h.1 rfl), if_pos rfl]
  exact ⟨_, rfl⟩

theorem Tray.headerCounted_counts (p : Pkt) :
    t.counted (t.headerCounted c e p) c (hSeat p.hdr) N.TX_PKTS 1 ∧
    t.counted (t.headerCounted c e p) c (hSeat p.hdr) N.TX_BYTES 64 := by
  have hseat := TrafficSide.hSeat_lt p.hdr
  unfold Tray.headerCounted Tray.countTx Tray.counted
  constructor
  · refine (Tray.charge_counted _ c _ N.TX_PKTS 1 hseat (by decide)).trans ?_
    rw [Tray.charge_otherCounter _ _ _ hseat (by decide) (by decide) (by decide)]
    rfl
  · rw [Tray.charge_otherCounter _ _ _ hseat (by decide) (by decide) (by decide)]
    exact Tray.charge_counted _ c _ N.TX_BYTES 64 hseat (by decide)

theorem Tray.headerCounted_staysBut (he : e < 64) (p : Pkt) : t.StaysBut (t.headerCounted c e p) c e (chargeReg c) := by
  have hseat := TrafficSide.hSeat_lt p.hdr
  exact (((Tray.StaysBut.refl ..).modPort he _).stays ((Tray.Stays.refl ..).charge c _ _ 64 hseat (by decide)
    fun _ _ h => h)).stays ((Tray.Stays.refl ..).charge c _ _ 1 hseat (by decide) fun _ _ h => h)

theorem Tray.headerCounted_snapq (p : Pkt) : ((t.headerCounted c e p).port c e).snapq = (t.port c e).snapq := by
  have hseat := TrafficSide.hSeat_lt p.hdr
  unfold Tray.headerCounted Tray.countTx
  rw [Tray.charge_port _ _ _ _ _ hseat (by decide), Tray.charge_port _ _ _ _ _ hseat (by decide), Tray.port_modPort]

/-- The port as its chosen TC0 packet leaves the queue. -/
def Tray.snapTaken (t : Tray) (c e : Nat) : Tray :=
  ((t.setPort c e (t.port c e)).markTc3 c e 0).modPort c e (fun q => { q with snapq := q.snapq.drop 1 })

theorem Tray.markTc3_staysBut (he : e < 64) (k : Nat) (R : Nat → Nat → Prop) : t.StaysBut (t.markTc3 c e k) c e R := by
  unfold Tray.markTc3
  split
  · exact (Tray.StaysBut.refl ..).modPort he _
  · exact Tray.StaysBut.refl ..

theorem Tray.markTc3_snapq (k : Nat) : ((t.markTc3 c e k).port c e).snapq = (t.port c e).snapq := by
  unfold Tray.markTc3
  split
  · rw [Tray.port_modPort]
  · rfl

theorem Tray.snapTaken_staysBut (he : e < 64) (R : Nat → Nat → Prop) : t.StaysBut (t.snapTaken c e) c e R :=
  (((Tray.StaysBut.refl ..).setPort he _).trans (Tray.markTc3_staysBut _ c he 0 R)).modPort he _

theorem Tray.snapTaken_snapq : ((t.snapTaken c e).port c e).snapq = (t.port c e).snapq.drop 1 := by
  unfold Tray.snapTaken
  rw [Tray.port_modPort]
  dsimp only
  rw [Tray.markTc3_snapq, Tray.port_setPort]

theorem Tray.egressHeader_snap {t : Tray} {c e : Nat} {p : Pkt} {rest : List Pkt} (hsnap : (t.port c e).snapq = p :: rest)
    (hoff : bitOf (t.xoffRx c e) 0 = false) (hpend : t.is (portPg c e) F.PG_COMMIT_STS_PENDING = false) :
    t.egressHeader c e = (t.snapTaken c e).sendSnap c e p 0 false := by
  unfold Tray.egressHeader
  rw [Tray.pickEgress_snap _ _ hsnap hoff hpend rfl]
  rfl

theorem Tray.egressHeader_idle {t : Tray} {c e : Nat} (hpkts : t.pkts c = []) (hsnap : (t.port c e).snapq = []) :
    t.egressHeader c e = t.sendFlit c e idleHdr id := by
  unfold Tray.egressHeader
  rw [Tray.pickEgress_empty _ _ hpkts hsnap]

theorem Tray.txIdle_port : (t.txIdle c e).port c e =
    { t.port c e with tx := { (t.port c e).tx with cur := none, ins := none, lit := false } } := Tray.port_modPort ..

theorem Tray.txIdle_xoffRx : (t.txIdle c e).xoffRx c e = t.xoffRx c e := by
  unfold Tray.xoffRx
  rw [Tray.txIdle_port]

end

theorem egressSelect_idle {s : State} {c : Fin 5} {e : Fin 64} (hs : s.tray.settled c.val)
    (hup : s.tray.pst c.val e.val = S.UP) (htx : (s.tray.port c.val e.val).tx = {}) (hpkts : s.tray.pkts c.val = [])
    (hsnap : (s.tray.port c.val e.val).snapq = []) :
    Completes (.egressSelect c e) s (fun t =>
      Out.flit c.val e.val idleHdr ∈ t.tray.out ∧ (t.tray.port c.val e.val).tx.pos = 1 ∧
      s.tray.keepsRegs t.tray (fun _ _ => False) ∧ s.tray.keepsOtherPorts t.tray c.val e.val) := by
  have hport := s.tray.txIdle_port c.val (e := e.val)
  have hrun := (Tray.egressSelect_header hup htx).trans
    (Tray.egressHeader_idle (t := s.tray.txIdle c.val e.val) hpkts (by rw [hport]; exact hsnap))
  have hstay := (s.tray.txIdle_staysBut c.val e.isLt (fun _ _ => False)).trans
    (Tray.sendFlit_staysBut _ c.val e.isLt idleHdr id _)
  refine completes_runC (exec_egressSelect ..) hrun (hstay.settled hs) fun t ht =>
    ⟨ht.emits (Tray.sendFlit_sends ..), ?_, ht.staysBut hstay⟩
  rw [ht.port, Tray.sendFlit_port, hport, htx]
  rfl

theorem egressSelect_snap {s : State} {c : Fin 5} {e : Fin 64} {p : Pkt} {rest : List Pkt} (hs : s.tray.settled c.val)
    (hup : s.tray.pst c.val e.val = S.UP) (htx : (s.tray.port c.val e.val).tx = {})
    (hsnap : (s.tray.port c.val e.val).snapq = p :: rest) (hoff : bitOf (s.tray.xoffRx c.val e.val) 0 = false)
    (hpend : s.tray.is (portPg c.val e.val) F.PG_COMMIT_STS_PENDING = false) :
    Completes (.egressSelect c e) s (fun t =>
      Out.flit c.val e.val p.hdr ∈ t.tray.out ∧ (t.tray.port c.val e.val).snapq = rest ∧
      s.tray.counted t.tray c.val (hSeat p.hdr) N.TX_PKTS 1 ∧ s.tray.counted t.tray c.val (hSeat p.hdr) N.TX_BYTES 64 ∧
      s.tray.keepsRegs t.tray (chargeReg c.val) ∧ s.tray.keepsOtherPorts t.tray c.val e.val) := by
  have hport := s.tray.txIdle_port c.val (e := e.val)
  have htaken := (s.tray.txIdle_staysBut c.val e.isLt (fun _ _ => False)).trans
    (Tray.snapTaken_staysBut (s.tray.txIdle c.val e.val) c.val e.isLt _)
  obtain ⟨upd, hsend⟩ := ((s.tray.txIdle c.val e.val).snapTaken c.val e.val).sendSnap_header c.val (e := e.val) p
  have hrun := ((Tray.egressSelect_header hup htx).trans (Tray.egressHeader_snap (t := s.tray.txIdle c.val e.val)
    (by rw [hport]; exact hsnap) (by rw [Tray.txIdle_xoffRx]; exact hoff) hpend)).trans hsend
  have hstay := ((htaken.mono fun _ _ h => h.elim).trans (Tray.headerCounted_staysBut _ c.val e.isLt p)).trans
    (Tray.sendFlit_staysBut _ c.val e.isLt p.hdr upd _)
  obtain ⟨hpkts, hbytes⟩ := ((s.tray.txIdle c.val e.val).snapTaken c.val e.val).headerCounted_counts c.val (e := e.val) p
  have hcounted (t : State) (k n : Nat) (hk : k < 31) (ht : t.Like
      ((((s.tray.txIdle c.val e.val).snapTaken c.val e.val).headerCounted c.val e.val p).sendFlit c.val e.val p.hdr upd))
      (h : ((s.tray.txIdle c.val e.val).snapTaken c.val e.val).counted
        (((s.tray.txIdle c.val e.val).snapTaken c.val e.val).headerCounted c.val e.val p) c.val (hSeat p.hdr) k n) :
      s.tray.counted t.tray c.val (hSeat p.hdr) k n := by
    unfold Tray.counted at h ⊢
    rw [ht.rd, Tray.sendFlit_rd, h, htaken.regs _ _ (by unfold A.SEAT_CNT; omega) id]
  refine completes_runC (exec_egressSelect ..) hrun (hstay.settled hs) fun t ht =>
    ⟨ht.emits (Tray.sendFlit_sends ..), ?_, hcounted t _ _ (by decide) ht hpkts, hcounted t _ _ (by decide) ht hbytes,
      ht.staysBut hstay⟩
  rw [ht.port, Tray.sendFlit_port]
  dsimp only
  rw [Tray.headerCounted_snapq, Tray.snapTaken_snapq, hport]
  dsimp only
  rw [hsnap, List.drop_one, List.tail_cons]

/-! ### Errors in the kitty (R215) -/

section
variable (t : Tray) (c : Nat)

/-- The error is counted and raised. -/
def Tray.eccNoted (t : Tray) (c : Nat) : Tray := (t.cnt (chipPg c 0x060) F.KIT_ECC_UNCORR 1).raise (chipPg c 0x060) 8

/-- KIT_ECC and the interrupts of the page. -/
def eccReg (c q o : Nat) : Prop := q = chipPg c 0x060 ∧ (o = A.KIT_ECC ∨ o = 0x20)

theorem Tray.eccNoted_stays : t.Stays (t.eccNoted c) (eccReg c) :=
  ((Tray.Stays.refl ..).cnt (f := F.KIT_ECC_UNCORR) 1 ⟨rfl, .inl rfl⟩ (by decide)).raise 8 ⟨rfl, .inr rfl⟩

theorem Tray.eccNoted_shows (hc : c < 5) :
    (t.eccNoted c).gf (chipPg c 0x060) F.KIT_ECC_UNCORR =
      (t.gf (chipPg c 0x060) F.KIT_ECC_UNCORR + 1) % 2 ^ F.KIT_ECC_UNCORR.w ∧ (t.eccNoted c).irqUp (chipPg c 0x060) 8 := by
  refine ⟨?_, Tray.irqUp_raise _ _ _ ?_ (by decide)⟩
  · unfold Tray.eccNoted
    rw [Tray.gf_raise_off _ _ _ _ _ (by decide), Tray.gf_cnt_self _ _ _ _ (by decide)]
  · have hkind : pageKind (chipPg c 0x060) = some .kit0 := pageKind_chipPg c 0x060 hc (by decide)
    have hmask : irqMask (chipPg c 0x060) = 0x100 := by
      unfold irqMask
      rw [hkind]
    unfold irqDefined
    rw [hmask]
    rfl

/-- Recomputing a reservation writes PORT_FC_STS of the port's page, and the reservation. -/
theorem Tray.updResv_rd (e q : Nat) {o : Nat} (ho : o % 4096 ≠ 0x218) : (t.updResv c e).rd q o = t.rd q o := by
  unfold Tray.updResv
  extract_lets nxt grow pg
  split
  · exact Tray.rd_sb_off _ _ _ _ _ _ ho
  · exact (Tray.rd_sb_off _ _ _ _ _ _ ho).trans rfl

theorem Tray.updResv_blocks (e : Nat) :
    (t.updResv c e).chips = t.chips ∧ (t.updResv c e).dealers = t.dealers ∧ (t.updResv c e).mem = t.mem := by
  unfold Tray.updResv
  extract_lets nxt grow pg
  split
  · exact ⟨Tray.sb_chips .., Tray.sb_dealers .., Tray.sb_mem ..⟩
  · exact ⟨(Tray.sb_chips ..).trans (Tray.modPort_chips ..), (Tray.sb_dealers ..).trans (Tray.modPort_dealers ..),
      (Tray.sb_mem ..).trans (Tray.modPort_mem ..)⟩

/-- A packet that no output has begun to send leaves nothing when cut. -/
theorem CorePkt.cut_spent {p : CorePkt} (h : p.copies.any (fun x => x.started) = false) : p.cut.spent = true := by
  have hnone : p.copies.filter (fun x => x.started) = [] :=
    List.filter_eq_nil_iff.2 fun x hx => List.any_eq_false.1 h x hx
  unfold CorePkt.spent CorePkt.cut
  simp only [hnone]
  rfl

section
variable {t : Tray} {c i : Nat} {p : CorePkt} (hp : t.findPkt c i = some p)
include hp

theorem Tray.discard_found : t.discard c i = (t.modPkt c i CorePkt.cut).updResv c p.inPort := by
  unfold Tray.discard
  rw [hp]

/-- Nothing is left of a discarded packet that no output has begun to send. -/
theorem Tray.findPkt_discard (hstart : p.copies.any (fun x => x.started) = false) (hone : ∀ q ∈ t.pkts c, q.id = i → q = p) :
    (t.discard c i).findPkt c i = none := by
  rw [Tray.discard_found hp]
  refine (Tray.findPkt_congr i (Tray.pkts_congr (t := t.modPkt c i CorePkt.cut) c ?_)).trans ?_
  · unfold Tray.chip
    rw [(Tray.updResv_blocks _ c _).1]
  · unfold Tray.findPkt
    rw [Tray.pkts_modPkt]
    refine List.find?_eq_none.2 fun q hq hid => ?_
    obtain ⟨hmem, hleft⟩ := List.mem_filter.1 hq
    obtain ⟨r, hr, rfl⟩ := List.mem_map.1 hmem
    by_cases hri : r.id = i
    · rw [if_pos hri, hone r hr hri, CorePkt.cut_spent hstart] at hleft
      exact absurd hleft (by decide)
    · rw [if_neg hri] at hid
      exact hri (beq_iff_eq.1 hid)

/-- A packet not yet started is charged to its seat and discarded. -/
theorem Tray.kittyEcc_discards (flit : Nat) (hstart : p.copies.any (fun x => x.started) = false) :
    t.kittyEcc c (some i) flit = ((t.eccNoted c).charge c p.seat N.DOWN_DROP 1).discard c i := by
  have hfound : (t.eccNoted c).findPkt c i = some p := by
    refine (Tray.findPkt_congr i (Tray.pkts_congr c ?_)).trans hp
    unfold Tray.chip
    rw [(t.eccNoted_stays c).blocks.1]
  unfold Tray.kittyEcc
  dsimp only
  rw [show (t.cnt (chipPg c 0x060) F.KIT_ECC_UNCORR 1).raise (chipPg c 0x060) 8 = t.eccNoted c from rfl, hfound]
  dsimp only
  rw [if_neg (by rw [hstart]; decide)]

end

end

theorem kittyEcc_none {s : State} {c : Fin 5} (flit : Nat) (hs : s.tray.settled c.val) :
    Completes (.kittyEccError c none flit) s (fun t =>
      t.tray.gf (chipPg c.val 0x060) F.KIT_ECC_UNCORR =
        (s.tray.gf (chipPg c.val 0x060) F.KIT_ECC_UNCORR + 1) % 2 ^ F.KIT_ECC_UNCORR.w ∧
      t.tray.irqUp (chipPg c.val 0x060) 8 ∧ s.tray.keepsRegs t.tray (eccReg c.val) ∧ s.tray.keepsBlocks t.tray) := by
  have hstay := s.tray.eccNoted_stays c.val
  obtain ⟨hcount, hirq⟩ := s.tray.eccNoted_shows c.val c.isLt
  exact completes_runC (exec_kittyEccError ..) (u := s.tray.eccNoted c.val) rfl (hstay.settled hs) fun t ht =>
    ⟨(ht.gf ..).trans hcount, ht.irqUp hirq, ht.stays hstay⟩

theorem kittyEcc_unstarted {s : State} {c : Fin 5} {i : Nat} {p : CorePkt} (flit : Nat) (hs : s.tray.settled c.val)
    (hp : s.tray.findPkt c.val i = some p) (hstart : p.copies.any (fun x => x.started) = false)
    (hone : ∀ q ∈ s.tray.pkts c.val, q.id = i → q = p) :
    Completes (.kittyEccError c (some i) flit) s (fun t =>
      s.tray.counted t.tray c.val p.seat N.DOWN_DROP 1 ∧ t.tray.irqUp (chipPg c.val 0x060) 8 ∧
      t.tray.findPkt c.val i = none ∧ t.tray.mem = s.tray.mem) := by
  have hseat := TrafficSide.seat_lt p
  have hcharge := (s.tray.eccNoted c.val).charge_stays c.val 1 hseat (k := N.DOWN_DROP) (by decide)
  obtain ⟨hchips, -, -, -, -, hdealers, -, hmem⟩ := ((s.tray.eccNoted_stays c.val).mono
    (Q := fun _ _ => True) (fun _ _ _ => trivial)).trans (hcharge.mono fun _ _ _ => trivial) |>.blocks
  have hpkts : ((s.tray.eccNoted c.val).charge c.val p.seat N.DOWN_DROP 1).pkts c.val = s.tray.pkts c.val := by
    refine Tray.pkts_congr _ ?_
    unfold Tray.chip
    rw [hchips]
  have hfound := (Tray.findPkt_congr i hpkts).trans hp
  have hdrop := Tray.discard_found hfound
  obtain ⟨-, hdealers', hmem'⟩ := Tray.updResv_blocks
    (((s.tray.eccNoted c.val).charge c.val p.seat N.DOWN_DROP 1).modPkt c.val i CorePkt.cut) c.val p.inPort
  have hrd {o : Nat} (ho : o % 4096 ≠ 0x218) (q : Nat) :
      (((s.tray.eccNoted c.val).charge c.val p.seat N.DOWN_DROP 1).discard c.val i).rd q o =
        ((s.tray.eccNoted c.val).charge c.val p.seat N.DOWN_DROP 1).rd q o := by
    rw [hdrop]
    exact (Tray.updResv_rd _ _ _ _ ho).trans rfl
  have hsettled : (((s.tray.eccNoted c.val).charge c.val p.seat N.DOWN_DROP 1).discard c.val i).settled c.val := by
    rw [hdrop]
    exact (Tray.settled_congr (hdealers'.trans hdealers) _).2 hs
  refine completes_runC (exec_kittyEccError ..) (Tray.kittyEcc_discards hp flit hstart) hsettled fun t ht =>
    ⟨?_, ht.irqUp (Tray.irqUp_congr ?_ (s.tray.eccNoted_shows c.val c.isLt).2), ?_, ?_⟩
  · unfold Tray.counted
    rw [ht.rd, hrd (by decide), Tray.charge_counted _ _ _ _ _ hseat (by decide),
      (s.tray.eccNoted_stays c.val).regs _ _ (by decide) fun h => by
        have hpage := h.1
        unfold seatPg chipPg at hpage
        omega]
  · rw [hrd (by decide)]
    refine hcharge.regs _ _ (by decide) fun h => ?_
    unfold chargedReg seatPg watchPg chipPg at h
    omega
  · exact (Tray.findPkt_congr i (Tray.pkts_congr _ (ht.chip _))).trans
      (Tray.findPkt_discard hfound hstart (by rw [hpkts]; exact hone))
  · rw [ht.mem, hdrop]
    exact hmem'.trans hmem

/-- Settles O30, by the choice of R205 at a header position and by what R215 does to a packet. -/
theorem egressAndKittyErrors : Obligations.EgressAndKittyErrors := fun _ _ =>
  ⟨fun _ hs hup htx => ⟨fun hpkts hsnap => egressSelect_idle hs hup htx hpkts hsnap,
      fun _ _ hsnap hoff hpend => egressSelect_snap hs hup htx hsnap hoff hpend⟩,
    fun flit hs => kittyEcc_none flit hs, fun _ _ flit hs hp hstart hone => kittyEcc_unstarted flit hs hp hstart hone⟩

end Sys2Proof.Machine
end

section
/-! SUPPORT. A packet that passes the header and seat checks at its arrival port: what is charged for it (R155, R157, R365,
R484). -/
namespace Sys2Proof.Machine

section
variable (t : Tray) (c e n : Nat) (h : Flit) {m k : Nat}

/-- A charge leaves the configuration of every seat. -/
theorem Tray.charge_seatConfig (j : Nat) {o : Nat} (hm : m < 64) (hk : k < 31) (hj : j < 64) (ho : o < A.SEAT_CNT) :
    (t.charge c m k n).rd (seatPg c j) o = t.rd (seatPg c j) o := by
  unfold A.SEAT_CNT at ho
  refine (t.charge_stays c n hm hk).regs _ _ (by omega) fun hc => ?_
  unfold chargedReg seatPg watchPg chipPg A.SEAT_CNT at hc
  omega

theorem Tray.charge_seatPasses (hm : m < 64) (hk : k < 31) : (t.charge c m k n).seatPasses c e h = t.seatPasses c e h := by
  have hgf (f : Fld) (hf : f.off < A.SEAT_CNT) :
      (t.charge c m k n).gf (seatPg c (hSeat h)) f = t.gf (seatPg c (hSeat h)) f :=
    congrArg f.get (t.charge_seatConfig c n (hSeat h) hm hk (TrafficSide.hSeat_lt h) hf)
  unfold Tray.seatPasses Tray.is
  dsimp only
  rw [hgf F.SEAT_CFG_VALID (by decide), hgf F.SEAT_MEMB_MEMB (by decide)]

theorem Tray.charge_payer (hm : m < 64) (hk : k < 31) : (t.charge c m k n).payer c e h = t.payer c e h := by
  unfold Tray.payer
  rw [t.charge_seatPasses c e n h hm hk]

/-- A header flit and its packet are charged to seat `m`. -/
def Tray.hdrCharged (t : Tray) (c m : Nat) : Tray := (t.charge c m N.RX_BYTES 64).charge c m N.RX_PKTS 1

theorem Tray.hdrCharged_stays (hm : m < 64) : t.Stays (t.hdrCharged c m) (chargeReg c) :=
  ((Tray.Stays.refl ..).charge c _ _ _ hm (by decide) fun _ _ hc => hc).charge c _ _ _ hm (by decide) fun _ _ hc => hc

theorem Tray.hdrCharged_counted (hm : m < 64) : t.counted (t.hdrCharged c m) c m N.RX_PKTS 1 := by
  refine (Tray.charge_counted _ c m N.RX_PKTS 1 hm (by decide)).trans ?_
  rw [Tray.charge_otherCounter _ _ _ hm (by decide) (by decide) (by decide)]

theorem Tray.hdrCharged_chip (d : Nat) (hm : m < 64) : (t.hdrCharged c m).chip d = t.chip d :=
  (Tray.charge_chip _ c _ d hm (by decide)).trans (t.charge_chip c _ d hm (by decide))

theorem Tray.hdrCharged_port (hm : m < 64) : (t.hdrCharged c m).port c e = t.port c e :=
  (Tray.charge_port _ c _ c e hm (by decide)).trans (t.charge_port c _ c e hm (by decide))

end

section
variable {t : Tray} {c e m : Nat} {h : Flit}

theorem Tray.charge_zero (t : Tray) (c m k : Nat) : t.charge c m k 0 = t := if_pos rfl

theorem Tray.payer_passes (hallow : hdrAllowed h = true) (hseat : t.seatPasses c e h = true) :
    t.payer c e h = some (hSeat h) := by
  unfold Tray.payer
  rw [if_neg (not_not.2 hallow), if_pos hseat]

theorem Tray.payer_fails (hallow : hdrAllowed h = true) (hseat : t.seatPasses c e h = false) : t.payer c e h = some 0 := by
  unfold Tray.payer
  rw [if_neg (not_not.2 hallow), if_neg (by rw [hseat]; decide)]

theorem Tray.rxBytes_payer (n : Nat) (hpay : t.payer c e h = some m) : t.rxBytes c e n h = t.charge c m N.RX_BYTES n := by
  unfold Tray.rxBytes
  rw [hpay]

/-- A packet for the agent of its arrival port is charged to its seat. -/
theorem Tray.pktStart_consumed (hallow : hdrAllowed h = true) (hkind : hDstKind h = 2) (hseat : t.seatPasses c e h = true) :
    t.pktStart c e h = ({ hdr := h }, t.hdrCharged c (hSeat h)) := by
  have hcons : consumed h = true := beq_iff_eq.2 hkind
  have hpay := Tray.payer_passes hallow hseat
  unfold Tray.pktStart
  dsimp only
  rw [Tray.rxBytes_payer 64 hpay, t.charge_payer c e 64 h (TrafficSide.hSeat_lt h) (by decide), hpay]
  dsimp only
  rw [if_neg (by rw [hallow, hkind]; simp), if_neg (not_not.2 hseat), if_pos hcons]
  rfl

/-- A unicast packet of its seat is charged, and enters the switch core. -/
theorem Tray.pktStart_unicast (hallow : hdrAllowed h = true) (hkind : hDstKind h = 0) (hseat : t.seatPasses c e h = true) :
    t.pktStart c e h = ({ hdr := h, core := some ((t.hdrCharged c (hSeat h)).enterCore c e h []).1 },
      ((t.hdrCharged c (hSeat h)).enterCore c e h []).2.coreFlits c ((t.hdrCharged c (hSeat h)).enterCore c e h []).1 []) := by
  have hcons : ¬ consumed h = true := by
    unfold consumed
    rw [hkind]
    decide
  have hk1 : ¬ hDstKind h = 1 := by rw [hkind]; decide
  have hpay := Tray.payer_passes hallow hseat
  unfold Tray.pktStart
  dsimp only
  rw [Tray.rxBytes_payer 64 hpay, t.charge_payer c e 64 h (TrafficSide.hSeat_lt h) (by decide), hpay]
  dsimp only
  rw [if_neg (by rw [hallow]; simp [hk1]), if_neg (not_not.2 hseat), if_neg hcons, if_neg (fun hx => hk1 hx.1),
    if_neg hk1]
  dsimp only
  rw [Tray.charge_zero]
  rfl

/-- A unicast packet that fails the seat check is charged to seat 0, and goes no further. -/
theorem Tray.pktStart_rejected (hallow : hdrAllowed h = true) (hkind : hDstKind h = 0) (hseat : t.seatPasses c e h = false) :
    t.pktStart c e h = ({ hdr := h, dead := true }, (t.hdrCharged c 0).seatReject c e h) := by
  have hk1 : ¬ hDstKind h = 1 := by rw [hkind]; decide
  have hpay := Tray.payer_fails hallow hseat
  unfold Tray.pktStart
  dsimp only
  rw [Tray.rxBytes_payer 64 hpay, t.charge_payer c e 64 h (by decide) (by decide), hpay]
  dsimp only
  rw [if_neg (by rw [hallow]; simp [hk1]), if_pos (by rw [hseat]; decide)]
  rfl

/-- A whole packet that parses, at a port that is UP. -/
theorem Tray.arrive_whole {p : Pkt} (hup : t.pst c e = S.UP) (hcore : (t.chip c).coreUp = true)
    (hlen : p.pay.length = flitsOf (hLen p.hdr)) (hparse : hdrParses p.hdr = true)
    (htype : hPtype p.hdr ≠ P.IDLE ∧ hPtype p.hdr ≠ P.RESUME) :
    t.arrive c e p =
      let r := p.pay.foldl (fun (a : RxPkt × Tray) f => a.2.pktFlit c e a.1 f (f == breakFlit)) (t.pktStart c e p.hdr)
      r.2.pktDone c e r.1 := by
  have hon : t.up c e = true := beq_iff_eq.2 hup
  unfold Tray.arrive
  rw [if_neg (by rw [hon, hcore]; simp [hlen]), if_neg (not_not.2 hparse), if_neg (not_or.2 htype)]

theorem Tray.arriveAs_type {p : Pkt} {ok : Flit → Bool} (h : ok p.hdr = true) : t.arriveAs c e p ok = t.arrive c e p := if_pos h

end

end Sys2Proof.Machine
end

section
/-! SUPPORT. Fields of the header of a packet that the tray originates (R154, R156). -/
namespace Sys2Proof.Machine

theorem fieldOf_testBit {n : Nat} (x : BitVec n) (lo w i : Nat) :
    (fieldOf x lo w).testBit i = (decide (i < w) && x.getLsbD (lo + i)) := by
  unfold fieldOf
  rw [Nat.testBit_mod_two_pow, Nat.testBit_div_two_pow, Nat.add_comm i lo]
  rfl

/-- A field below the one that is written. -/
theorem fieldOf_putField_below {n : Nat} (x : BitVec n) {lo w v lo' w' : Nat} (h : lo' + w' ≤ lo) (hn : lo ≤ n) :
    fieldOf (putField x lo w v) lo' w' = fieldOf x lo' w' := by
  refine Nat.eq_of_testBit_eq fun i => ?_
  rw [fieldOf_testBit, fieldOf_testBit]
  by_cases hi : i < w'
  · have hlow : lo' + i < lo := by omega
    have hwidth : lo' + i < n := by omega
    unfold putField
    rw [BitVec.getLsbD_or, BitVec.getLsbD_and, BitVec.getLsbD_not, BitVec.getLsbD_shiftLeft, BitVec.getLsbD_shiftLeft]
    simp [hlow, hwidth]
  · rw [decide_eq_false hi, Bool.false_and, Bool.false_and]

theorem fieldOf_ofNat {n lo w : Nat} (x : Nat) (h : lo + w ≤ n) :
    fieldOf (BitVec.ofNat n x) lo w = x / 2 ^ lo % 2 ^ w := by
  refine Nat.eq_of_testBit_eq fun i => ?_
  rw [fieldOf_testBit, BitVec.getLsbD_ofNat, Nat.testBit_mod_two_pow, Nat.testBit_div_two_pow, Nat.add_comm i lo]
  by_cases hi : i < w
  · rw [decide_eq_true (show lo + i < n by omega), Bool.true_and]
  · rw [decide_eq_false hi, Bool.false_and, Bool.false_and]

/-- Sealing a header leaves what lies below its CRCs. -/
theorem fieldOf_sealHdr (h : Flit) (pay : List Byte) {lo w : Nat} (hlo : lo + w ≤ 448) :
    fieldOf (sealHdr h pay) lo w = fieldOf h lo w := by
  unfold sealHdr
  rw [fieldOf_putField_below _ (by omega) (by decide), fieldOf_putField_below _ hlo (by decide)]

theorem mkPkt_ptype (h : HdrParts) (pay : List Byte) : hPtype (mkPkt h pay).hdr = h.ptype % 16 := by
  unfold hPtype mkPkt
  dsimp only
  rw [fieldOf_sealHdr _ _ (by decide)]
  unfold mkHdr
  rw [fieldOf_ofNat _ (by decide)]
  dsimp only
  omega

theorem mkPkt_arg (h : HdrParts) (pay : List Byte) : hArg (mkPkt h pay).hdr = h.arg % 2 ^ 64 := by
  unfold hArg mkPkt
  dsimp only
  rw [fieldOf_sealHdr _ _ (by decide)]
  unfold mkHdr
  rw [fieldOf_ofNat _ (by decide)]
  dsimp only
  have hlast : b2n h.last ≤ 1 := by
    unfold b2n
    split <;> decide
  omega

theorem ackArg_lt (ch seq reason : Nat) : ackArg ch seq reason < 2 ^ 64 := by
  unfold ackArg
  omega

end Sys2Proof.Machine
end

section
/-! SUPPORT. An interrupt bit of a port that is set stays set while the port leaves the live states (R98, R122). -/
namespace Sys2Proof.Machine

/-- Every interrupt bit that is set on the port's page stays set. -/
structure PortIrqs (c e : Nat) (t u : Tray) : Prop where
  kept : ∀ i, t.irqUp (portPg c e) i → u.irqUp (portPg c e) i

namespace PortIrqs
variable {c e : Nat} {t u v : Tray}

theorem refl (c e : Nat) (t : Tray) : PortIrqs c e t t := ⟨fun _ h => h⟩

theorem trans (a : PortIrqs c e t u) (b : PortIrqs c e u v) : PortIrqs c e t v :=
  ⟨fun i h => b.kept i (a.kept i h)⟩

theorem each {α : Type} (l : List α) (f : Tray → α → Tray) (h : ∀ w a, a ∈ l → PortIrqs c e w (f w a)) (t : Tray) :
    PortIrqs c e t (t.each l f) :=
  Tray.each_keeps (PortIrqs c e t) f l (fun w a ha hw => hw.trans (h w a ha)) t (refl c e t)

theorem ite {p : Prop} [Decidable p] {a b : Tray} (ha : PortIrqs c e t a) (hb : PortIrqs c e t b) :
    PortIrqs c e t (if p then a else b) := by split <;> assumption

theorem of_rd (h : u.rd (portPg c e) A.PG_IRQ_RAW = t.rd (portPg c e) A.PG_IRQ_RAW) : PortIrqs c e t u :=
  ⟨fun _ hi => Tray.irqUp_congr h hi⟩

theorem of_regs (h : u.regs = t.regs) : PortIrqs c e t u := of_rd (Tray.rd_congr h ..)

theorem setTable (t : Tray) (d tb : Nat) (x : TableSt) : PortIrqs c e t (t.setTable d tb x) := of_regs rfl
theorem modDealer (t : Tray) (d : Nat) (f : DealerSt → DealerSt) : PortIrqs c e t (t.modDealer d f) := of_regs rfl
theorem modLane (t : Tray) (d n : Nat) (f : LaneSt → LaneSt) : PortIrqs c e t (t.modLane d n f) := of_regs rfl

theorem of_job (he : e < 64) (h : JobSide c t u) : PortIrqs c e t u := of_rd (h.rd_portPg he (by decide))

theorem sf (t : Tray) {pg : Nat} {f : Fld} (x : Nat) (h : 0x20 ≠ f.off % 4096) : PortIrqs c e t (t.sf pg f x) :=
  of_rd (Tray.rd_sf_off _ _ _ _ _ _ h)

theorem raise (t : Tray) (pg b : Nat) : PortIrqs c e t (t.raise pg b) :=
  ⟨fun _ h => t.raise_keeps _ _ _ _ h⟩

theorem charge (he : e < 64) (t : Tray) {m k : Nat} (n : Nat) (hm : m < 64) (hk : k < 31) :
    PortIrqs c e t (t.charge c m k n) := of_job he (JobSide.charge c t m k n hm hk)

/-! The switch core. -/

theorem updResv (t : Tray) (f : Nat) : PortIrqs c e t (t.updResv c f) := of_rd (t.updResv_rd c f _ (by decide))

theorem discard (t : Tray) (id : Nat) : PortIrqs c e t (t.discard c id) := by
  unfold Tray.discard
  split
  · exact refl c e t
  · exact (of_regs rfl : PortIrqs c e t (t.modPkt c id CorePkt.cut)).trans (updResv ..)

theorem countDown (he : e < 64) (t : Tray) (f : Nat) {m : Nat} (hm : m < 64) : PortIrqs c e t (t.countDown c f m) := by
  unfold Tray.countDown
  refine (sf t _ ?_).trans (charge he _ 1 hm (by decide))
  show 0x20 ≠ (0x118 + 0x20 * (f % 8)) % 4096
  omega

theorem countMember (he : e < 64) (t : Tray) {m : Nat} (n : Nat) (hm : m < 64) : PortIrqs c e t (t.countMember c m n) :=
  (sf t _ (by decide)).trans (charge he _ n hm (by decide))

theorem flushOutput (he : e < 64) (t : Tray) (f : Nat) : PortIrqs c e t (t.flushOutput c f) := by
  unfold Tray.flushOutput
  extract_lets hit res t1 t2 t3
  have hcopies : PortIrqs c e t t1 := each hit _ (fun w p _ => countDown he w f (TrafficSide.seat_lt p)) t
  have hmembers : PortIrqs c e t t2 := hcopies.trans (each res _ (fun w p _ => countMember he w 1 (TrafficSide.seat_lt p)) _)
  have hpkts : PortIrqs c e t t3 := hmembers.trans (of_regs rfl)
  exact hpkts.trans (each _ _ (fun w d _ => ite (refl c e w) (updResv ..)) _)

theorem flushInput (he : e < 64) (t : Tray) (d : Nat) : PortIrqs c e t (t.flushInput c d) := by
  unfold Tray.flushInput
  extract_lets hit t1
  have hcount : PortIrqs c e t t1 :=
    each hit _ (fun w p _ => each _ _ (fun x f _ => countDown he x f (TrafficSide.seat_lt p)) w) t
  exact hcount.trans (each hit _ (fun w p _ => discard w p.id) _)

theorem stormEnd (t : Tray) (d : Nat) : PortIrqs c e t (t.stormEnd c d) := by
  unfold Tray.stormEnd
  exact ite (refl c e t) (sf t _ (by decide))

theorem circDrop (t : Tray) (k : Nat) : PortIrqs c e t (t.circDrop c k) := of_regs rfl

theorem circPortDown (t : Tray) (d : Nat) : PortIrqs c e t (t.circPortDown c d) := each _ _ (fun w a _ => circDrop w a.1) t

theorem syncReplay (t : Tray) (d : Nat) : PortIrqs c e t (t.syncReplay c d) := sf t _ (by decide)

theorem freeOwned (t : Tray) (own : Owner → Bool) : PortIrqs c e t (t.freeOwned c own) :=
  each _ _ (fun w d _ => ite ((of_regs rfl : PortIrqs c e w (w.setPort c d _)).trans (syncReplay ..)) (refl c e w)) t

/-! Tables. -/

theorem startAbort (t : Tray) (pg : Nat) : PortIrqs c e t (t.startAbort pg) :=
  (((sf t _ (by decide)).trans (sf _ _ (by decide))).trans (sf _ _ (by decide))).trans (sf _ _ (by decide))

theorem slotEnded (t : Tray) (l : Launch) (st : Nat) : PortIrqs c e t (t.slotEnded c l st) := by
  unfold Tray.slotEnded
  split
  · exact refl c e t
  · exact of_regs rfl

theorem writeRec (t : Tray) (tb d : Nat) (r : Rec) : PortIrqs c e t (t.writeRec c tb d r) := by
  unfold Tray.writeRec
  extract_lets w ep pk t1
  have hwritten : PortIrqs c e t t1 := of_regs rfl
  exact ite hwritten (hwritten.trans (raise ..))

theorem tableEvent (t : Tray) (tb d st x : Nat) : PortIrqs c e t (t.tableEvent c tb d st x) := by
  unfold Tray.tableEvent
  exact ite (refl c e t) (ite (writeRec ..) ((sf t _ (by decide)).trans (raise ..)))

theorem snapResult (t : Tray) (tb d addr x st k : Nat) (l : List Byte) : PortIrqs c e t (t.snapResult c tb d addr x st k l) :=
  of_regs rfl

theorem snapAbort (t : Tray) (tb : Nat) : PortIrqs c e t (t.snapAbort c tb) := by
  unfold Tray.snapAbort
  extract_lets x s t1 t2
  have hfirst : PortIrqs c e t t1 := each _ _ (fun _ _ _ => snapResult ..) t
  have hboth : PortIrqs c e t t2 := hfirst.trans (each _ _ (fun _ _ _ => snapResult ..) _)
  exact (hboth.trans (of_regs rfl : PortIrqs c e t2 (t2.modTable c tb _))).trans (sf _ _ (by decide))

theorem tableAbort (he : e < 64) (t : Tray) (tb st : Nat) (skip : Option Nat) : PortIrqs c e t (t.tableAbort c tb st skip) := by
  unfold Tray.tableAbort
  extract_lets pg x ms held was t1 t2 t3 t4 t5 t6 t7
  have hfreed : PortIrqs c e t t2 := ((startAbort ..).trans (freeOwned ..)).trans (setTable ..)
  have hended : PortIrqs c e t t3 := hfreed.trans (each _ _ (fun _ _ _ => slotEnded ..) _)
  have hctr : ∀ (w : Tray) (i : Nat), i ∈ List.range 16 → PortIrqs c e w (w.sf pg (ctrFld i) 0) := fun w i hi => sf w 0 (by
    have hlt := List.mem_range.1 hi
    show 0x20 ≠ (0x180 + 8 * i) % 4096
    omega)
  have hsnaps : PortIrqs c e t t4 := ((hended.trans (sf _ 0 (by decide))).trans (each _ _ hctr _)).trans (snapAbort ..)
  have hwaits : PortIrqs c e t t5 := (hsnaps.trans (sf _ _ (by decide))).trans (sf _ _ (by decide))
  have hstate : PortIrqs c e t t6 := ite hwaits ((hwaits.trans (sf _ _ (by decide))).trans (raise ..))
  have hevents : PortIrqs c e t t7 := hstate.trans (each _ _ (fun _ _ _ => tableEvent ..) _)
  exact ite (refl c e t) ((ite (hevents.trans (raise ..)) hevents).trans (of_job he (JobSide.dealerSweep c _)))

/-! The port changes its state. -/

theorem portDrop (he : e < 64) (t : Tray) (d : Nat) : PortIrqs c e t (t.portDrop c d) := by
  unfold Tray.portDrop
  extract_lets p t0 p' t1 t2 t3 tbs
  have hspare : PortIrqs c e t t0 := ite ((sf t _ (by decide)).trans (raise ..)) (refl c e t)
  have hport : PortIrqs c e t t1 := hspare.trans (of_regs rfl)
  have hflushed : PortIrqs c e t t2 := ((hport.trans (syncReplay ..)).trans (flushOutput he ..)).trans (flushInput he ..)
  have hcircs : PortIrqs c e t t3 := (hflushed.trans (modDealer ..)).trans (circPortDown ..)
  exact hcircs.trans (each tbs _ (fun w a _ => tableAbort he w _ _ _) _)

theorem setPst (t : Tray) (d st : Nat) : PortIrqs c e t (t.setPst c d st) := by
  unfold Tray.setPst
  extract_lets pg ok
  have hshow : ∀ w : Tray, PortIrqs c e w (w.showLanes c d st) := fun w =>
    of_rd (w.showLanes_rd c d st _ _ (by decide) fun j _ h => absurd h.2 (by decide))
  exact ite (refl c e t) ((((sf t _ (by decide)).trans (raise ..)).trans (hshow _)).trans (sf _ _ (by decide)))

theorem portTo (he : e < 64) (t : Tray) (d st cause : Nat) : PortIrqs c e t (t.portTo c d st cause) := by
  unfold Tray.portTo
  extract_lets pg was t1 t2 t3
  have hstate : PortIrqs c e t t1 := (setPst ..).trans (sf _ _ (by decide))
  have hdrop : PortIrqs c e t t2 :=
    ite (hstate.trans ((ite (refl c e _) (startAbort ..)).trans (portDrop he ..))) (hstate.trans (of_regs rfl))
  have hresv : PortIrqs c e t t3 := (hdrop.trans (stormEnd ..)).trans (updResv ..)
  exact hresv.trans (each _ _ (fun _ _ _ => modLane ..) _)

end PortIrqs
end Sys2Proof.Machine
end

section
/-! SUPPORT. The replay store: acknowledgements free it, a NAK or an RTO sends it again (R174, R175). -/
namespace Sys2Proof.Machine

theorem exec_ackReceive (c : Fin 5) (e : Fin 64) (p : Pkt) (s : State) :
    exec (.ackReceive c e p) s = .next (s.runC c.val (fun t => t.arriveAs c.val e.val p (fun h => hPtype h == P.ACK))) := rfl
theorem exec_nakReceive (c : Fin 5) (e : Fin 64) (p : Pkt) (s : State) :
    exec (.nakReceive c e p) s = .next (s.runC c.val (fun t => t.arriveAs c.val e.val p (fun h => hPtype h == P.NAK))) := rfl
theorem exec_ackSend (c : Fin 5) (e : Fin 64) (ch : Fin 8) (s : State) :
    exec (.ackSend c e ch) s = .next (s.run (fun t => t.ackSend c.val e.val ch.val)) := rfl
theorem exec_rtoExpiry (c : Fin 5) (e : Fin 64) (ch : Fin 8) (s : State) :
    exec (.rtoExpiry c e ch) s = .next (s.runC c.val (fun t => t.rtoExpiry c.val e.val ch.val)) := rfl

/-! ### A stream is sent again -/

/-- How far a stored packet lies above the oldest unacknowledged SEQ `una`, modulo 2^24 (R173). -/
def ReplayEnt.above (una : Nat) (r : ReplayEnt) : Nat := (r.seq + 2 ^ 24 - una) % 2 ^ 24

/-- A stored packet joins those to send again, in the order of their SEQs. -/
def inSeqOrder (una : Nat) (l : List ReplayEnt) (r : ReplayEnt) : List ReplayEnt :=
  l.filter (fun x => decide (x.above una < r.above una)) ++ [r] ++ l.filter (fun x => !decide (x.above una < r.above una))

/-- The stored packets of the stream, in the order of their SEQs. -/
def PortSt.resends (p : PortSt) (ch : Nat) : List ReplayEnt :=
  (p.replay.filter (fun r => r.ch == ch && !r.freed)).foldl (inSeqOrder (Assoc.get (fun _ => 0) p.txUna ch)) []

theorem length_inSeqOrder (una : Nat) (l : List ReplayEnt) (r : ReplayEnt) : (inSeqOrder una l r).length = l.length + 1 := by
  have hsplit := List.length_eq_length_filter_add (l := l) (fun x => decide (x.above una < r.above una))
  unfold inSeqOrder
  rw [List.length_append, List.length_append, List.length_singleton]
  omega

theorem length_foldl_inSeqOrder (una : Nat) (l acc : List ReplayEnt) :
    (l.foldl (inSeqOrder una) acc).length = acc.length + l.length := by
  induction l generalizing acc with
  | nil => rfl
  | cons r l ih =>
    rw [List.foldl_cons, ih, length_inSeqOrder, List.length_cons]
    omega

theorem PortSt.length_resends (p : PortSt) (ch : Nat) :
    (p.resends ch).length = (p.replay.filter (fun r => r.ch == ch && !r.freed)).length := by
  unfold PortSt.resends
  rw [length_foldl_inSeqOrder, List.length_nil, Nat.zero_add]

/-- What is sent again waits at the agent, with RESENT = 1. -/
def PortSt.resent (p : PortSt) (ch : Nat) : PortSt :=
  { p with origq := p.origq ++ (p.resends ch).map (fun r => ⟨pWithSeq r.pkt r.seq true, .none⟩) }

section
variable (t : Tray) (c : Nat) {e : Nat} (ch : Nat)

theorem Tray.resend_eq : t.resend c e ch = (t.modPort c e (fun q => { q with
    origq := q.origq ++ ((t.port c e).resends ch).map (fun r => ⟨pWithSeq r.pkt r.seq true, .none⟩) })).cnt (portPg c e)
    F.PORT_REPLAY_RESENDS ((t.port c e).resends ch).length := rfl

theorem Tray.resend_port : (t.resend c e ch).port c e = (t.port c e).resent ch := by
  rw [Tray.resend_eq, Tray.port_cnt, Tray.port_modPort]
  rfl

theorem PortSt.resent_length (p : PortSt) :
    (p.resent ch).origq.length = p.origq.length + (p.replay.filter (fun r => r.ch == ch && !r.freed)).length := by
  unfold PortSt.resent
  rw [List.length_append, List.length_map, PortSt.length_resends]

theorem Tray.resend_counts : (t.resend c e ch).gf (portPg c e) F.PORT_REPLAY_RESENDS =
    (t.gf (portPg c e) F.PORT_REPLAY_RESENDS + ((t.port c e).replay.filter (fun r => r.ch == ch && !r.freed)).length) %
      2 ^ F.PORT_REPLAY_RESENDS.w := by
  rw [Tray.resend_eq, Tray.gf_cnt_self _ _ _ _ (by decide), PortSt.length_resends]
  rfl

/-- PORT_REPLAY of the port. -/
def replayReg (c e q o : Nat) : Prop := q = portPg c e ∧ o = A.PORT_REPLAY

theorem Tray.resend_staysBut (he : e < 64) : t.StaysBut (t.resend c e ch) c e (replayReg c e) := by
  rw [Tray.resend_eq]
  exact ((Tray.StaysBut.refl ..).modPort he _).stays ((Tray.Stays.refl ..).cnt _ ⟨rfl, rfl⟩ (by decide))

/-! ### An acknowledgement frees what lies below it -/

/-- The stored packet lies below an acknowledged SEQ. -/
def PortSt.acked (p : PortSt) (ch seq : Nat) (r : ReplayEnt) : Bool :=
  r.ch == ch && decide ((r.seq + 2 ^ 24 - Assoc.get (fun _ => 0) p.txUna ch) % 2 ^ 24 <
    (seq + 2 ^ 24 - Assoc.get (fun _ => 0) p.txUna ch) % 2 ^ 24)

/-- The port once everything below `seq` is acknowledged. -/
def PortSt.ackedTo (p : PortSt) (ch seq : Nat) : PortSt :=
  { p with
    replay := p.replay.filter (fun r => !p.acked ch seq r), txUna := Assoc.set (fun _ => 0) p.txUna ch seq,
    retries := if (seq + 2 ^ 24 - Assoc.get (fun _ => 0) p.txUna ch) % 2 ^ 24 = 0 then p.retries
      else Assoc.set (fun _ => 0) p.retries ch 0 }

/-- The tray once everything below `seq` is acknowledged. -/
def Tray.ackedTo (t : Tray) (c e ch seq : Nat) : Tray := (t.setPort c e ((t.port c e).ackedTo ch seq)).syncReplay c e

theorem Tray.ackedTo_port (seq : Nat) : (t.ackedTo c e ch seq).port c e = (t.port c e).ackedTo ch seq := by
  unfold Tray.ackedTo Tray.syncReplay
  rw [Tray.port_sf, Tray.port_setPort]

theorem Tray.ackedTo_staysBut (he : e < 64) (seq : Nat) : t.StaysBut (t.ackedTo c e ch seq) c e (replayReg c e) :=
  ((Tray.StaysBut.refl ..).setPort he _).stays ((Tray.Stays.refl ..).sf _ ⟨rfl, rfl⟩ (by decide))

theorem Tray.ackedTo_resends (seq : Nat) : (t.ackedTo c e ch seq).gf (portPg c e) F.PORT_REPLAY_RESENDS =
    t.gf (portPg c e) F.PORT_REPLAY_RESENDS :=
  (Tray.gf_sf_ne _ _ _ _ _ (by decide) (by decide) (by decide)).trans rfl

/-- An acknowledgement within what was sent, of stored packets that nobody waits for. -/
theorem Tray.ackApply_frees {t : Tray} {c e ch seq : Nat}
    (hsent : (seq + 2 ^ 24 - Assoc.get (fun _ => 0) (t.port c e).txUna ch) % 2 ^ 24 ≤
      (Assoc.get (fun _ => 0) (t.port c e).txNxt ch + 2 ^ 24 - Assoc.get (fun _ => 0) (t.port c e).txUna ch) % 2 ^ 24)
    (hfree : ∀ r ∈ (t.port c e).replay, (t.port c e).acked ch seq r = true → r.owner = .none ∧ r.freed = false) :
    ∃ os, (∀ o ∈ os, o = Owner.none) ∧ t.ackApply c e ch seq = some (os, t.ackedTo c e ch seq) := by
  have hgone (r : ReplayEnt) (hr : r ∈ (t.port c e).replay.filter ((t.port c e).acked ch seq)) :
      r.owner = .none ∧ r.freed = false := hfree r (List.mem_filter.1 hr).1 (List.mem_filter.1 hr).2
  have hstale : ((t.port c e).replay.filter ((t.port c e).acked ch seq)).filter (fun r => r.freed) = [] :=
    List.filter_eq_nil_iff.2 fun r hr => by rw [(hgone r hr).2]; decide
  refine ⟨(((t.port c e).replay.filter ((t.port c e).acked ch seq)).filter (fun r => !r.freed)).map (fun r => r.owner),
    fun o ho => ?_, ?_⟩
  · obtain ⟨r, hr, rfl⟩ := List.mem_map.1 ho
    exact (hgone r (List.mem_filter.1 hr).1).1
  · unfold Tray.ackApply
    dsimp only
    rw [if_neg (Nat.not_lt.2 hsent)]
    change some (_, Tray.each (t.ackedTo c e ch seq)
      (((t.port c e).replay.filter ((t.port c e).acked ch seq)).filter (fun r => r.freed)) _) = _
    rw [hstale]
    rfl

theorem Tray.ownersDone_none (c : Nat) (os : List Owner) (t : Tray) (h : ∀ o ∈ os, o = Owner.none) :
    os.foldl (fun t o => t.ownerDone c o) t = t := by
  induction os with
  | nil => rfl
  | cons o os ih =>
    rw [List.foldl_cons, h o List.mem_cons_self]
    exact ih fun o' ho' => h o' (List.mem_cons_of_mem _ ho')

/-- What an ACK or NAK to the agent leaves of a settled chip. -/
def Tray.ackLeaves (t : Tray) (c e : Nat) (k : Pkt) : Tray :=
  let u := t.ackedTo c e (hArg k.hdr % 8) (hArg k.hdr / 2 ^ 8 % 2 ^ 24)
  if hPtype k.hdr = P.NAK then u.resend c e (hArg k.hdr % 8) else u

theorem Tray.ackLeaves_staysBut (he : e < 64) (k : Pkt) : t.StaysBut (t.ackLeaves c e k) c e (replayReg c e) := by
  have hacked := t.ackedTo_staysBut c (hArg k.hdr % 8) he (hArg k.hdr / 2 ^ 8 % 2 ^ 24)
  unfold Tray.ackLeaves
  dsimp only
  split
  · exact hacked.trans (Tray.resend_staysBut _ c _ he)
  · exact hacked

/-- An ACK or NAK that the stream accepts, of packets that nobody waits for. -/
theorem Tray.ackPacket_applied {t u : Tray} {c e : Nat} {k : Pkt} {os : List Owner} (hcrc : pE2eOk k = true)
    (happly : t.ackApply c e (hArg k.hdr % 8) (hArg k.hdr / 2 ^ 8 % 2 ^ 24) = some (os, u)) (hos : ∀ o ∈ os, o = Owner.none) :
    t.ackPacket c e k = (if hPtype k.hdr = P.NAK then u.resend c e (hArg k.hdr % 8) else u).dealerSweep c := by
  unfold Tray.ackPacket
  extract_lets a ch seq
  have hsome : t.ackApply c e ch seq = some (os, u) := happly
  rw [if_neg (not_not.2 hcrc), hsome]
  exact congrArg (Tray.dealerSweep · c) (Tray.ownersDone_none c os _ hos)

theorem Tray.ackPacket_leaves {t : Tray} {c e : Nat} {k : Pkt} (he : e < 64) (hs : t.settled c) (hcrc : pE2eOk k = true)
    (hsent : (hArg k.hdr / 2 ^ 8 % 2 ^ 24 + 2 ^ 24 - Assoc.get (fun _ => 0) (t.port c e).txUna (hArg k.hdr % 8)) % 2 ^ 24 ≤
      (Assoc.get (fun _ => 0) (t.port c e).txNxt (hArg k.hdr % 8) + 2 ^ 24 -
        Assoc.get (fun _ => 0) (t.port c e).txUna (hArg k.hdr % 8)) % 2 ^ 24)
    (hfree : ∀ r ∈ (t.port c e).replay, (t.port c e).acked (hArg k.hdr % 8) (hArg k.hdr / 2 ^ 8 % 2 ^ 24) r = true →
      r.owner = .none ∧ r.freed = false) :
    t.ackPacket c e k = t.ackLeaves c e k := by
  obtain ⟨os, hos, happly⟩ := Tray.ackApply_frees hsent hfree
  rw [Tray.ackPacket_applied hcrc happly hos]
  exact Tray.dealerSweep_settled (t.ackLeaves c e k) c ((t.ackLeaves_staysBut c he k).settled hs)

end

/-! ### The packet arrives -/

section
variable {s : State} {c : Fin 5} {e : Fin 64} {k : Pkt} (hs : s.tray.settled c.val) (hup : s.tray.pst c.val e.val = S.UP)
  (hcore : (s.tray.chip c.val).coreUp = true)

section
variable (hpay : k.pay = []) (hlen : flitsOf (hLen k.hdr) = 0) (hparse : hdrParses k.hdr = true)
  (hallow : hdrAllowed k.hdr = true) (hkind : hDstKind k.hdr = 2) (hseat : s.tray.seatPasses c.val e.val k.hdr = true)
  (hcrc : pE2eOk k = true)
include hup hcore hpay hlen hparse hallow hkind hseat

/-- An ACK or NAK for the agent is charged to its seat and handed to the stream. -/
theorem arrive_ack (htype : hPtype k.hdr = P.ACK ∨ hPtype k.hdr = P.NAK) :
    s.tray.arrive c.val e.val k = (s.tray.hdrCharged c.val (hSeat k.hdr)).ackPacket c.val e.val k := by
  have hother : hPtype k.hdr ≠ P.IDLE ∧ hPtype k.hdr ≠ P.RESUME := by
    rcases htype with h | h <;> rw [h] <;> decide
  have hwhole : (⟨k.hdr, []⟩ : Pkt) = k := by rw [← hpay]
  rw [Tray.arrive_whole hup hcore (by rw [hpay, hlen]; rfl) hparse hother, hpay, Tray.pktStart_consumed hallow hkind hseat]
  dsimp only [List.foldl_nil]
  unfold Tray.pktDone
  dsimp only
  rw [if_neg (by decide), if_pos htype, hwhole]

include hs hcrc

/-- What an ACK or NAK of the agent's own stream leaves. -/
theorem arrive_ack_leaves (htype : hPtype k.hdr = P.ACK ∨ hPtype k.hdr = P.NAK)
    (hsent : (hArg k.hdr / 2 ^ 8 % 2 ^ 24 + 2 ^ 24 -
        Assoc.get (fun _ => 0) (s.tray.port c.val e.val).txUna (hArg k.hdr % 8)) % 2 ^ 24 ≤
      (Assoc.get (fun _ => 0) (s.tray.port c.val e.val).txNxt (hArg k.hdr % 8) + 2 ^ 24 -
        Assoc.get (fun _ => 0) (s.tray.port c.val e.val).txUna (hArg k.hdr % 8)) % 2 ^ 24)
    (hfree : ∀ r ∈ (s.tray.port c.val e.val).replay,
      (s.tray.port c.val e.val).acked (hArg k.hdr % 8) (hArg k.hdr / 2 ^ 8 % 2 ^ 24) r = true →
        r.owner = .none ∧ r.freed = false) :
    s.tray.arrive c.val e.val k = (s.tray.hdrCharged c.val (hSeat k.hdr)).ackLeaves c.val e.val k := by
  have hport := s.tray.hdrCharged_port c.val e.val (TrafficSide.hSeat_lt k.hdr)
  rw [arrive_ack hup hcore hpay hlen hparse hallow hkind hseat htype]
  refine Tray.ackPacket_leaves e.isLt ((s.tray.hdrCharged_stays c.val (TrafficSide.hSeat_lt _)).settled hs) hcrc ?_ ?_
  · rw [hport]
    exact hsent
  · rw [hport]
    exact hfree

end

theorem portPg_not_chargeReg {c e o : Nat} (he : e < 64) : ¬ chargeReg c (portPg c e) o := by
  unfold chargeReg portPg chipPg
  omega

/-- What charging the packet and moving the stream touch. -/
def ackReg (c e q o : Nat) : Prop := chargeReg c q o ∨ replayReg c e q o

theorem ackLeaves_frame (t : Tray) (k : Pkt) :
    t.StaysBut ((t.hdrCharged c.val (hSeat k.hdr)).ackLeaves c.val e.val k) c.val e.val (ackReg c.val e.val) :=
  (((t.hdrCharged_stays c.val (TrafficSide.hSeat_lt _)).mono fun _ _ h => .inl h).butPort c.val e.val).trans
    ((Tray.ackLeaves_staysBut _ c.val e.isLt k).mono fun _ _ h => .inr h)

include hs hup hcore

theorem ackReceive_frees (hpay : k.pay = []) (hlen : flitsOf (hLen k.hdr) = 0) (hparse : hdrParses k.hdr = true)
    (hallow : hdrAllowed k.hdr = true) (hkind : hDstKind k.hdr = 2) (hseat : s.tray.seatPasses c.val e.val k.hdr = true)
    (hcrc : pE2eOk k = true) (htype : hPtype k.hdr = P.ACK) :
    let p := s.tray.port c.val e.val
    let ch := hArg k.hdr % 8
    let seq := hArg k.hdr / 2 ^ 8 % 2 ^ 24
    (seq + 2 ^ 24 - Assoc.get (fun _ => 0) p.txUna ch) % 2 ^ 24 ≤
        (Assoc.get (fun _ => 0) p.txNxt ch + 2 ^ 24 - Assoc.get (fun _ => 0) p.txUna ch) % 2 ^ 24 →
    (∀ r ∈ p.replay, p.acked ch seq r = true → r.owner = .none ∧ r.freed = false) →
    Completes (.ackReceive c e k) s (fun t =>
      Assoc.get (fun _ => 0) (t.tray.port c.val e.val).txUna ch = seq ∧
      (t.tray.port c.val e.val).replay = p.replay.filter (fun r => !p.acked ch seq r) ∧
      s.tray.counted t.tray c.val (hSeat k.hdr) N.RX_PKTS 1 ∧ s.tray.keepsRegs t.tray (ackReg c.val e.val) ∧
      s.tray.keepsOtherPorts t.tray c.val e.val) := by
  intro p ch seq hsent hfree
  have hseat' := TrafficSide.hSeat_lt k.hdr
  have hrun := (Tray.arriveAs_type (ok := fun h => hPtype h == P.ACK) (beq_iff_eq.2 htype)).trans
    (arrive_ack_leaves hs hup hcore hpay hlen hparse hallow hkind hseat hcrc (.inl htype) hsent hfree)
  have hframe := ackLeaves_frame (c := c) (e := e) s.tray k
  have hacked : (s.tray.hdrCharged c.val (hSeat k.hdr)).ackLeaves c.val e.val k =
      (s.tray.hdrCharged c.val (hSeat k.hdr)).ackedTo c.val e.val ch seq := if_neg (by rw [htype]; decide)
  refine completes_runC (exec_ackReceive ..) hrun (hframe.settled hs) fun t ht => ?_
  have hport : t.tray.port c.val e.val = p.ackedTo ch seq := by
    rw [ht.port, hacked, Tray.ackedTo_port, s.tray.hdrCharged_port c.val e.val hseat']
  refine ⟨?_, congrArg PortSt.replay hport, ?_, ht.staysBut hframe⟩
  · rw [hport]
    exact Assoc.get_set_self (fun _ => (0 : Nat)) _ _ _
  · unfold Tray.counted
    rw [ht.rd, (Tray.ackLeaves_staysBut _ c.val e.isLt k).regs _ _ (by decide) fun h => ?_]
    · exact s.tray.hdrCharged_counted c.val hseat'
    · have hpage := h.1
      unfold seatPg portPg chipPg at hpage
      omega

theorem nakReceive_resends (hpay : k.pay = []) (hlen : flitsOf (hLen k.hdr) = 0) (hparse : hdrParses k.hdr = true)
    (hallow : hdrAllowed k.hdr = true) (hkind : hDstKind k.hdr = 2) (hseat : s.tray.seatPasses c.val e.val k.hdr = true)
    (hcrc : pE2eOk k = true) (htype : hPtype k.hdr = P.NAK) :
    let p := s.tray.port c.val e.val
    let ch := hArg k.hdr % 8
    hArg k.hdr / 2 ^ 8 % 2 ^ 24 = Assoc.get (fun _ => 0) p.txUna ch →
    Completes (.nakReceive c e k) s (fun t =>
      (t.tray.port c.val e.val).replay = p.replay ∧
      (t.tray.port c.val e.val).origq.length =
        p.origq.length + (p.replay.filter (fun r => r.ch == ch && !r.freed)).length ∧
      t.tray.gf (portPg c.val e.val) F.PORT_REPLAY_RESENDS = (s.tray.gf (portPg c.val e.val) F.PORT_REPLAY_RESENDS +
        (p.replay.filter (fun r => r.ch == ch && !r.freed)).length) % 2 ^ F.PORT_REPLAY_RESENDS.w ∧
      s.tray.keepsRegs t.tray (ackReg c.val e.val) ∧ s.tray.keepsOtherPorts t.tray c.val e.val) := by
  intro p ch hseq
  have hseat' := TrafficSide.hSeat_lt k.hdr
  have hzero : (hArg k.hdr / 2 ^ 8 % 2 ^ 24 + 2 ^ 24 - Assoc.get (fun _ => 0) p.txUna ch) % 2 ^ 24 = 0 := by
    rw [hseq, Nat.add_sub_cancel_left, Nat.mod_self]
  have hnone (r : ReplayEnt) : p.acked ch (hArg k.hdr / 2 ^ 8 % 2 ^ 24) r = false := by
    unfold PortSt.acked
    rw [hzero, decide_eq_false (Nat.not_lt_zero _), Bool.and_false]
  have hkept : (p.ackedTo ch (hArg k.hdr / 2 ^ 8 % 2 ^ 24)).replay = p.replay :=
    List.filter_eq_self.2 fun r _ => by rw [hnone]; rfl
  have hrun := (Tray.arriveAs_type (ok := fun h => hPtype h == P.NAK) (beq_iff_eq.2 htype)).trans
    (arrive_ack_leaves hs hup hcore hpay hlen hparse hallow hkind hseat hcrc (.inr htype)
      (hzero.trans_le (Nat.zero_le _)) fun r _ h => absurd h (by rw [hnone]; decide))
  have hframe := ackLeaves_frame (c := c) (e := e) s.tray k
  have hresent : (s.tray.hdrCharged c.val (hSeat k.hdr)).ackLeaves c.val e.val k =
      ((s.tray.hdrCharged c.val (hSeat k.hdr)).ackedTo c.val e.val ch (hArg k.hdr / 2 ^ 8 % 2 ^ 24)).resend c.val e.val ch :=
    if_pos htype
  have hacked : ((s.tray.hdrCharged c.val (hSeat k.hdr)).ackedTo c.val e.val ch (hArg k.hdr / 2 ^ 8 % 2 ^ 24)).port c.val e.val =
      p.ackedTo ch (hArg k.hdr / 2 ^ 8 % 2 ^ 24) := by
    rw [Tray.ackedTo_port, s.tray.hdrCharged_port c.val e.val hseat']
  refine completes_runC (exec_nakReceive ..) hrun (hframe.settled hs) fun t ht => ?_
  have hport : t.tray.port c.val e.val = (p.ackedTo ch (hArg k.hdr / 2 ^ 8 % 2 ^ 24)).resent ch := by
    rw [ht.port, hresent, Tray.resend_port, hacked]
  refine ⟨(congrArg PortSt.replay hport).trans hkept, ?_, ?_, ht.staysBut hframe⟩
  · rw [hport, PortSt.resent_length, hkept]
    rfl
  · rw [ht.gf, hresent, Tray.resend_counts, hacked, hkept, Tray.ackedTo_resends,
      Tray.keepsRegs_gf (s.tray.hdrCharged_stays c.val hseat').regs _ _ (by decide) (portPg_not_chargeReg e.isLt)]

end

/-! ### ACKs sent, and RTOs -/

section
variable {s : State} {c : Fin 5} {e : Fin 64} {ch : Fin 8} (hup : s.tray.pst c.val e.val = S.UP)
include hup

theorem ackSend_sends (hwait : Assoc.get (fun _ => 0) (s.tray.port c.val e.val).unacked ch.val ≠ 0) :
    let p := s.tray.port c.val e.val
    Completes (.ackSend c e ch) s (fun t =>
      Assoc.get (fun _ => 0) (t.tray.port c.val e.val).unacked ch.val = 0 ∧
      (∃ k, (t.tray.port c.val e.val).origq = p.origq ++ [k] ∧ hPtype k.pkt.hdr = P.ACK ∧
        hArg k.pkt.hdr = ackArg ch.val (Assoc.get (fun _ => 0) p.rxExp ch.val) 0) ∧
      s.tray.keepsRegs t.tray (fun _ _ => False) ∧ s.tray.keepsOtherPorts t.tray c.val e.val) := by
  intro p
  have hon : s.tray.up c.val e.val = true := beq_iff_eq.2 hup
  have hrun : s.tray.ackSend c.val e.val ch.val = s.tray.sendAck c.val e.val ch.val 0 :=
    if_neg (not_or.2 ⟨hwait, not_not.2 hon⟩)
  unfold Tray.sendAck Tray.originate at hrun
  dsimp only at hrun
  refine completes_run (exec_ackSend ..) hrun fun t ht => ?_
  have hport := ht.port c.val e.val
  rw [Tray.port_modPort, Tray.port_setPort] at hport
  refine ⟨?_, ⟨_, congrArg PortSt.origq hport, ?_, ?_⟩,
    ht.staysBut (((Tray.StaysBut.refl ..).setPort e.isLt _).modPort e.isLt _)⟩
  · have hunacked : (t.tray.port c.val e.val).unacked = Assoc.set (fun _ => 0) p.unacked ch.val 0 :=
      congrArg PortSt.unacked hport
    rw [hunacked]
    exact Assoc.get_set_self (fun _ => (0 : Nat)) _ _ _
  · exact (mkPkt_ptype ..).trans rfl
  · exact (mkPkt_arg ..).trans (Nat.mod_eq_of_lt (ackArg_lt ..))

/-- The tray once an expiry of the stream's RTO is counted. -/
def Tray.rtoCounted (t : Tray) (c e ch n : Nat) : Tray :=
  t.modPort c e (fun p => { p with retries := Assoc.set (fun _ => 0) p.retries ch n })

theorem rtoExpiry_resends (hs : s.tray.settled c.val)
    (hopen : Assoc.get (fun _ => 0) (s.tray.port c.val e.val).txUna ch.val ≠
      Assoc.get (fun _ => 0) (s.tray.port c.val e.val).txNxt ch.val) :
    let p := s.tray.port c.val e.val
    let n := Assoc.get (fun _ => 0) p.retries ch.val + 1
    n < s.tray.gf (portPg c.val e.val) F.PORT_FC_CTL_MAX_RETRY →
    Completes (.rtoExpiry c e ch) s (fun t =>
      Assoc.get (fun _ => 0) (t.tray.port c.val e.val).retries ch.val = n ∧
      (t.tray.port c.val e.val).origq.length =
        p.origq.length + (p.replay.filter (fun r => r.ch == ch.val && !r.freed)).length ∧
      s.tray.keepsRegs t.tray (replayReg c.val e.val) ∧ s.tray.keepsOtherPorts t.tray c.val e.val) := by
  intro p n hmax
  have hon : s.tray.up c.val e.val = true := beq_iff_eq.2 hup
  have hrun : s.tray.rtoExpiry c.val e.val ch.val = (s.tray.rtoCounted c.val e.val ch.val n).resend c.val e.val ch.val :=
    (if_neg (not_or.2 ⟨not_not.2 hon, hopen⟩)).trans (if_neg (Nat.not_le.2 hmax))
  have hstay : s.tray.StaysBut ((s.tray.rtoCounted c.val e.val ch.val n).resend c.val e.val ch.val) c.val e.val
      (replayReg c.val e.val) :=
    ((Tray.StaysBut.refl ..).modPort e.isLt _).trans (Tray.resend_staysBut _ c.val ch.val e.isLt)
  refine completes_runC (exec_rtoExpiry ..) hrun (hstay.settled hs) fun t ht => ?_
  have hport := ht.port c.val e.val
  rw [Tray.resend_port] at hport
  unfold Tray.rtoCounted at hport
  rw [Tray.port_modPort] at hport
  refine ⟨?_, ?_, ht.staysBut hstay⟩
  · have hretries : (t.tray.port c.val e.val).retries = Assoc.set (fun _ => 0) p.retries ch.val n :=
      congrArg PortSt.retries hport
    rw [hretries]
    exact Assoc.get_set_self (fun _ => (0 : Nat)) _ _ _
  · rw [hport, PortSt.resent_length]

theorem rtoExpiry_aborts
    (hopen : Assoc.get (fun _ => 0) (s.tray.port c.val e.val).txUna ch.val ≠
      Assoc.get (fun _ => 0) (s.tray.port c.val e.val).txNxt ch.val)
    (hmax : s.tray.gf (portPg c.val e.val) F.PORT_FC_CTL_MAX_RETRY ≤
      Assoc.get (fun _ => 0) (s.tray.port c.val e.val).retries ch.val + 1) :
    Completes (.rtoExpiry c e ch) s (fun t =>
      t.tray.portShows c.val e.val (s.tray.leaveTo c.val e.val Cz.ABORT) Cz.ABORT ∧ t.tray.irqUp (portPg c.val e.val) 26 ∧
      s.tray.keepsRegs t.tray (portDown c.val e.val)) := by
  have hon : s.tray.up c.val e.val = true := beq_iff_eq.2 hup
  let u := (s.tray.rtoCounted c.val e.val ch.val (Assoc.get (fun _ => 0) (s.tray.port c.val e.val).retries ch.val + 1)).raise
    (portPg c.val e.val) 26
  have hrun : s.tray.rtoExpiry c.val e.val ch.val = u.portLeave c.val e.val Cz.ABORT :=
    (if_neg (not_or.2 ⟨not_not.2 hon, hopen⟩)).trans (if_pos hmax)
  have hgf (f : Fld) (hf : f.off % 4096 ≠ 0x20) : u.gf (portPg c.val e.val) f = s.tray.gf (portPg c.val e.val) f :=
    (Tray.gf_raise_off _ _ _ _ _ hf).trans rfl
  have hto : u.leaveTo c.val e.val Cz.ABORT = s.tray.leaveTo c.val e.val Cz.ABORT := by
    unfold Tray.leaveTo Tray.enabled Tray.is
    rw [hgf _ (by decide), hgf _ (by decide)]
  have hlive : u.live c.val e.val = true :=
    Tray.live_of_pst ((hgf F.PORT_TRAIN_STS_STATE (by decide)).trans hup) (by decide)
  have hraised : s.tray.keepsRegs u (portDown c.val e.val) :=
    Tray.keepsRegs_raise (Tray.keepsRegs_of rfl) 26 (.inl (portArea_port ..))
  have hirq : (u.portLeave c.val e.val Cz.ABORT).irqUp (portPg c.val e.val) 26 :=
    (PortIrqs.portTo e.isLt u e.val _ Cz.ABORT).kept 26 (irqUp_portPg _ c.isLt e.isLt (by decide) (by decide))
  refine completes_runC_side (exec_rtoExpiry ..) hrun fun w t hside ht => ?_
  obtain ⟨hshows, -, hkeeps⟩ := (Tray.portLeave_hasLeft e.isLt hlive (cause := Cz.ABORT) (by decide)).after e.isLt hside ht
  exact ⟨hto ▸ hshows, ht.irqUp ((PortIrqs.of_job e.isLt hside).kept 26 hirq), Tray.keepsRegs_trans hraised hkeeps⟩

end

/-- Settles O32, stream by stream: what an acknowledgement frees, what is sent again, and the port that leaves. -/
theorem replayFollowsAcknowledgements : Obligations.ReplayFollowsAcknowledgements := by
  intro s c e hs hup hcore p una nxt
  refine ⟨fun k hpay hlen hparse hallow hkind hseat hcrc => ?_, fun ch hwait => ackSend_sends hup hwait,
    fun ch hopen => ⟨rtoExpiry_resends hup hs hopen, rtoExpiry_aborts hup hopen⟩⟩
  exact ⟨ackReceive_frees hs hup hcore hpay hlen hparse hallow hkind hseat hcrc,
    nakReceive_resends hs hup hcore hpay hlen hparse hallow hkind hseat hcrc⟩

end Sys2Proof.Machine
end

section
/-! SUPPORT. What a received flit changes: a payload flit is charged, a packet that fails the seat check is counted and held,
a header that fails its CRC sends the receiver into HUNT (R148, R152, R365, R484). -/
namespace Sys2Proof.Machine

theorem exec_dataReceive (c : Fin 5) (e : Fin 64) (p : Pkt) (s : State) :
    exec (.dataReceive c e p) s = .next (s.runC c.val (fun t => t.arriveAs c.val e.val p (fun h => hPtype h == P.DATA))) := rfl
theorem exec_flitReceive (c : Fin 5) (e : Fin 64) (f : Flit) (sync : Bool) (s : State) :
    exec (.flitReceive c e f sync) s = .next (s.runC c.val (fun t => t.flitReceive c.val e.val f sync)) := rfl

/-! ### Payload flits -/

/-- A payload flit is charged to seat `m`; `lit`: it was sent as a literal BREAK. -/
def Tray.flitCharged (t : Tray) (c m : Nat) (lit : Bool) : Tray :=
  if lit then (t.charge c m N.RX_BYTES 128).charge c m N.BREAK_LIT 1 else t.charge c m N.RX_BYTES 64

/-- The registers that charging the payload of a packet to seat `m` writes. -/
def flitReg (c m q o : Nat) : Prop := chargedReg c m N.RX_BYTES q o ∨ chargedReg c m N.BREAK_LIT q o

/-- A flit of a packet arrives: what the parser does with it. -/
def Tray.takeFlit (c e : Nat) (a : RxPkt × Tray) (f : Flit) : RxPkt × Tray := a.2.pktFlit c e a.1 f (f == breakFlit)

section
variable {t : Tray} {c e m : Nat} (hm : m < 64)
include hm

theorem Tray.flitCharged_stays (lit : Bool) : t.Stays (t.flitCharged c m lit) (flitReg c m) := by
  unfold Tray.flitCharged
  split
  · exact ((Tray.Stays.refl t _).charged c 128 hm (by decide) fun _ _ => .inl).charged c 1 hm (by decide) fun _ _ => .inr
  · exact (Tray.Stays.refl t _).charged c 64 hm (by decide) fun _ _ => .inl

theorem Tray.flitCharged_payer (lit : Bool) (h : Flit) : (t.flitCharged c m lit).payer c e h = t.payer c e h := by
  unfold Tray.flitCharged
  split
  · exact (Tray.charge_payer _ c e _ h hm (by decide)).trans (t.charge_payer c e _ h hm (by decide))
  · exact t.charge_payer c e _ h hm (by decide)

/-- A payload flit joins its packet, is charged, and goes into the switch core where the packet is there. -/
theorem Tray.pktFlit_charged {r : RxPkt} (hpay : t.payer c e r.hdr = some m) (f : Flit) (lit : Bool) :
    t.pktFlit c e r f lit = ({ r with pay := r.pay ++ [f] },
      r.core.elim (t.flitCharged c m lit) fun id => (t.flitCharged c m lit).coreFlits c id [f]) := by
  unfold Tray.pktFlit Tray.flitCharged
  rw [Tray.rxBytes_payer _ hpay]
  dsimp only
  rw [t.charge_payer c e _ r.hdr hm (by decide), hpay]
  cases lit <;> cases r.core <;> simp only [Option.elim, if_true, Bool.false_eq_true, if_false]

/-- The payload of a packet that was discarded at its header is only charged. -/
theorem Tray.takeFlits_dead (l : List Flit) {r : RxPkt} (hcore : r.core = none) (hpay : t.payer c e r.hdr = some m) :
    (l.foldl (Tray.takeFlit c e) (r, t)).1.dead = r.dead ∧ t.Stays (l.foldl (Tray.takeFlit c e) (r, t)).2 (flitReg c m) := by
  induction l generalizing t r with
  | nil => exact ⟨rfl, .refl ..⟩
  | cons f l ih =>
    have htake : Tray.takeFlit c e (r, t) f = ({ r with pay := r.pay ++ [f] }, t.flitCharged c m (f == breakFlit)) := by
      refine (Tray.pktFlit_charged hm hpay f _).trans ?_
      rw [hcore]
      rfl
    rw [List.foldl_cons, htake]
    have hrest := ih (t := t.flitCharged c m (f == breakFlit)) (r := { r with pay := r.pay ++ [f] }) hcore
      ((Tray.flitCharged_payer hm _ _).trans hpay)
    exact ⟨hrest.1, (Tray.flitCharged_stays hm _).trans hrest.2⟩

end

/-! ### A packet that fails the seat check -/

/-- The packet is a BAD_PKT, and SEAT_REJECT counts. -/
def Tray.rejectCounted (t : Tray) (c e : Nat) : Tray := (t.badPkt c e).charge c 0 N.SEAT_REJECT 1

/-- What SEAT_REJ_CAPT holds of a packet that fails the seat check. -/
def rejectCapt (e : Nat) (h : Flit) : Word :=
  BitVec.ofNat 64 (e + 2 ^ 6 * hSeat h + 2 ^ 12 * hDst h + 2 ^ 24 * hDstKind h + 2 ^ 63)

/-- The packet is held in SEAT_REJ_CAPT. -/
def Tray.rejectHeld (t : Tray) (c e : Nat) (h : Flit) : Tray :=
  (t.wr (seatPg c 0) A.SEAT_REJ_CAPT (rejectCapt e h)).raise (seatPg c 0) 8

theorem Tray.seatReject_eq (t : Tray) (c e : Nat) (h : Flit) : t.seatReject c e h =
    if (t.rejectCounted c e).is (seatPg c 0) F.SEAT_REJ_CAPT_VALID then t.rejectCounted c e
    else (t.rejectCounted c e).rejectHeld c e h := rfl

/-- SEAT_REJ_CAPT and the interrupts of seat 0. -/
def rejectReg (c q o : Nat) : Prop := q = seatPg c 0 ∧ (o = A.SEAT_REJ_CAPT ∨ o = 0x20)

theorem Tray.rejectHeld_stays (t : Tray) (c e : Nat) (h : Flit) : t.Stays (t.rejectHeld c e h) (rejectReg c) :=
  ((Tray.Stays.refl t _).wr _ ⟨rfl, .inl rfl⟩ (by decide)).raise 8 ⟨rfl, .inr rfl⟩

theorem Tray.seatReject_stays (t : Tray) (c e : Nat) (h : Flit) :
    (t.rejectCounted c e).Stays (t.seatReject c e h) (rejectReg c) := by
  rw [Tray.seatReject_eq]
  split
  · exact .refl ..
  · exact Tray.rejectHeld_stays ..

theorem rejectCapt_valid {e : Nat} (he : e < 64) (h : Flit) : F.SEAT_REJ_CAPT_VALID.get (rejectCapt e h) = 1 := by
  have hseat : hSeat h < 2 ^ 6 := Nat.mod_lt _ (by decide)
  have hdst : hDst h < 2 ^ 12 := Nat.mod_lt _ (by decide)
  have hkind : hDstKind h < 2 ^ 2 := Nat.mod_lt _ (by decide)
  have hlow : e + 2 ^ 6 * hSeat h + 2 ^ 12 * hDst h + 2 ^ 24 * hDstKind h < 2 ^ 63 := by omega
  have htop : (rejectCapt e h).getLsbD 63 = true := by
    unfold rejectCapt
    rw [BitVec.getLsbD_ofNat, Nat.testBit_eq_decide_div_mod_eq, Nat.add_div_right _ (Nat.two_pow_pos 63), Nat.div_eq_of_lt hlow]
    rfl
  have hodd := Fld.get_testBit F.SEAT_REJ_CAPT_VALID (rejectCapt e h) (by decide) 0
  rw [show F.SEAT_REJ_CAPT_VALID.lo + 0 = 63 from rfl, htop, Nat.testBit_zero] at hodd
  have hbit : F.SEAT_REJ_CAPT_VALID.get (rejectCapt e h) < 2 := Fld.get_lt _ _ (by decide)
  have hone : F.SEAT_REJ_CAPT_VALID.get (rejectCapt e h) % 2 = 1 := of_decide_eq_true hodd
  omega

theorem irqUp_seatPg (t : Tray) {c : Nat} (hc : c < 5) : (t.raise (seatPg c 0) 8).irqUp (seatPg c 0) 8 := by
  refine t.irqUp_raise _ _ ?_ (by decide)
  have hzero : seatPg c 0 % 4096 = 0x380 := by
    unfold seatPg chipPg
    omega
  have hmask : irqMask (seatPg c 0) = 0x100 := by
    unfold irqMask
    rw [pageKind_seatPg c 0 hc (by decide)]
    exact if_pos hzero
  unfold irqDefined
  rw [hmask]
  rfl

theorem Tray.rejectHeld_holds (t : Tray) {c e : Nat} (hc : c < 5) (he : e < 64) (h : Flit) :
    (t.rejectHeld c e h).is (seatPg c 0) F.SEAT_REJ_CAPT_VALID = true ∧ (t.rejectHeld c e h).irqUp (seatPg c 0) 8 := by
  refine ⟨beq_iff_eq.2 ?_, irqUp_seatPg _ hc⟩
  unfold Tray.rejectHeld
  rw [Tray.gf_raise_off _ _ _ _ _ (by decide)]
  exact (congrArg F.SEAT_REJ_CAPT_VALID.get (Tray.rd_wr_self ..)).trans (rejectCapt_valid he h)

/-! ### Which registers these are -/

theorem portPg_not_flitReg {c e m o : Nat} (he : e < 64) (hm : m < 64) : ¬ flitReg c m (portPg c e) o := fun h =>
  portPg_not_chargeReg he (h.elim (chargeReg_of_charged hm) (chargeReg_of_charged hm))

theorem portPg_not_rejectReg {c e o : Nat} (he : e < 64) : ¬ rejectReg c (portPg c e) o := by
  unfold rejectReg portPg seatPg chipPg
  omega

/-- A counter of the seat that payload does not advance. -/
theorem counter_not_flitReg {c m j : Nat} (hm : m < 64) (hb : j ≠ N.RX_BYTES) (hl : j ≠ N.BREAK_LIT) :
    ¬ flitReg c m (seatPg c m) (A.SEAT_CNT + 8 * j) := by
  unfold flitReg chargedReg seatPg watchPg chipPg
  omega

theorem counter_not_rejectReg {c m j : Nat} : ¬ rejectReg c (seatPg c m) (A.SEAT_CNT + 8 * j) := by
  unfold rejectReg A.SEAT_REJ_CAPT A.SEAT_CNT
  omega

/-- The configuration and the interrupts of a seat. -/
theorem seat_not_flitReg {c m j o : Nat} (hj : j < 64) (ho : o < A.SEAT_CNT) : ¬ flitReg c m (seatPg c j) o := by
  unfold A.SEAT_CNT at ho
  unfold flitReg chargedReg seatPg watchPg chipPg A.SEAT_CNT
  omega

/-- The seat check reads the seat's configuration alone. -/
theorem Tray.keepsRegs_payer {t u : Tray} {R : Nat → Nat → Prop} (a : t.keepsRegs u R) (c e : Nat) (h : Flit)
    (hcfg : ∀ o, 0x100 ≤ o → o < 0x120 → ¬ R (seatPg c (hSeat h)) o) : u.payer c e h = t.payer c e h := by
  have hpasses : u.seatPasses c e h = t.seatPasses c e h := by
    unfold Tray.seatPasses Tray.is
    dsimp only
    rw [Tray.keepsRegs_gf a _ F.SEAT_CFG_VALID (by decide) (hcfg _ (by decide) (by decide)),
      Tray.keepsRegs_gf a _ F.SEAT_MEMB_MEMB (by decide) (hcfg _ (by decide) (by decide))]
  unfold Tray.payer
  rw [hpasses]

theorem Tray.hdrCharged_payer (t : Tray) (c e : Nat) (h : Flit) {m : Nat} (hm : m < 64) :
    (t.hdrCharged c m).payer c e h = t.payer c e h :=
  (Tray.charge_payer _ c e _ h hm (by decide)).trans (t.charge_payer c e _ h hm (by decide))

/-! ### The packet that fails the seat check, from its header to its last flit -/

section
variable (t : Tray) (c e : Nat) (h : Flit)

theorem Tray.rejectCounted_stays : t.Stays (t.rejectCounted c e)
    (fun q o => (q = portPg c e ∧ o = A.PORT_RX_ERR) ∨ chargedReg c 0 N.SEAT_REJECT q o) :=
  ((Tray.Stays.refl t _).sat 1 (.inl ⟨rfl, rfl⟩) (by decide)).charged c 1 (by decide) (by decide) fun _ _ => .inr

theorem Tray.rejectCounted_badPkt (he : e < 64) : (t.rejectCounted c e).gf (portPg c e) F.PORT_RX_ERR_BAD_PKT =
    min (2 ^ F.PORT_RX_ERR_BAD_PKT.w - 1) (t.gf (portPg c e) F.PORT_RX_ERR_BAD_PKT + 1) := by
  refine (Tray.keepsRegs_gf ((t.badPkt c e).charge_stays c 1 (by decide) (by decide)).regs _ _ (by decide) fun hc =>
    portPg_not_chargeReg he (chargeReg_of_charged (by decide) hc)).trans ?_
  unfold Tray.badPkt
  rw [Tray.gf_sat_self _ _ _ _ (by decide), satTo_eq_min]

theorem Tray.rejectCounted_counts : t.counted (t.rejectCounted c e) c 0 N.SEAT_REJECT 1 := by
  refine (Tray.charge_counted _ c 0 N.SEAT_REJECT 1 (by decide) (by decide)).trans ?_
  unfold Tray.badPkt
  rw [Tray.rd_sat_off _ _ _ _ _ _ (by decide)]

/-- A header of seat 0's account that fails the seat check. -/
def Tray.headerRejected (t : Tray) (c e : Nat) (h : Flit) : Tray := (t.hdrCharged c 0).seatReject c e h

theorem Tray.headerRejected_payer : (t.headerRejected c e h).payer c e h = t.payer c e h := by
  have hseat := TrafficSide.hSeat_lt h
  refine ((Tray.keepsRegs_payer ((Tray.seatReject_stays _ c e h).regs) c e h fun o hlo hhi => ?_).trans
    (Tray.keepsRegs_payer ((Tray.rejectCounted_stays _ c e).regs) c e h fun o hlo hhi => ?_)).trans
    (t.hdrCharged_payer c e h (by decide))
  · unfold rejectReg A.SEAT_REJ_CAPT
    omega
  · unfold chargedReg seatPg portPg watchPg chipPg A.SEAT_CNT A.PORT_RX_ERR
    omega

theorem Tray.headerRejected_stays : t.Stays (t.headerRejected c e h) (fun _ _ => True) :=
  (((t.hdrCharged_stays c (by decide)).mono fun _ _ _ => trivial).trans
    ((Tray.rejectCounted_stays _ c e).mono fun _ _ _ => trivial)).trans ((Tray.seatReject_stays _ c e h).mono fun _ _ _ => trivial)

/-- What a header that fails the seat check shows. -/
structure Tray.ShowsReject (t u : Tray) (c e : Nat) : Prop where
  bad : u.gf (portPg c e) F.PORT_RX_ERR_BAD_PKT =
    min (2 ^ F.PORT_RX_ERR_BAD_PKT.w - 1) (t.gf (portPg c e) F.PORT_RX_ERR_BAD_PKT + 1)
  rejects : t.counted u c 0 N.SEAT_REJECT 1
  pkts : t.counted u c 0 N.RX_PKTS 1
  holds : t.is (seatPg c 0) F.SEAT_REJ_CAPT_VALID = false →
    u.is (seatPg c 0) F.SEAT_REJ_CAPT_VALID = true ∧ u.irqUp (seatPg c 0) 8

theorem Tray.headerRejected_shows (hc : c < 5) (he : e < 64) : t.ShowsReject (t.headerRejected c e h) c e := by
  have hport (f : Fld) (hf : f.off < 4096) : (t.hdrCharged c 0).gf (portPg c e) f = t.gf (portPg c e) f :=
    Tray.keepsRegs_gf (t.hdrCharged_stays c (by decide)).regs _ _ hf (portPg_not_chargeReg he)
  have hother : (t.hdrCharged c 0).rd (seatPg c 0) (A.SEAT_CNT + 8 * N.SEAT_REJECT) =
      t.rd (seatPg c 0) (A.SEAT_CNT + 8 * N.SEAT_REJECT) :=
    (Tray.charge_otherCounter _ _ _ (by decide) (by decide) (by decide) (by decide)).trans
      (t.charge_otherCounter _ _ (by decide) (by decide) (by decide) (by decide))
  have hseat : ((t.hdrCharged c 0).rejectCounted c e).is (seatPg c 0) F.SEAT_REJ_CAPT_VALID =
      t.is (seatPg c 0) F.SEAT_REJ_CAPT_VALID := by
    unfold Tray.is Tray.gf
    rw [show ((t.hdrCharged c 0).rejectCounted c e).rd (seatPg c 0) F.SEAT_REJ_CAPT_VALID.off = _ from
      (Tray.charge_seatConfig _ c 1 0 (by decide) (by decide) (by decide) (by decide)).trans
        ((Tray.rd_sat_off _ _ _ _ _ _ (by decide)).trans
          ((Tray.charge_seatConfig _ c _ 0 (by decide) (by decide) (by decide) (by decide)).trans
            (t.charge_seatConfig c _ 0 (by decide) (by decide) (by decide) (by decide))))]
  have hheld := (Tray.seatReject_stays (t.hdrCharged c 0) c e h).regs
  refine ⟨?_, ?_, ?_, fun hfree => ?_⟩
  · exact (Tray.keepsRegs_gf hheld _ _ (by decide) (portPg_not_rejectReg he)).trans
      ((Tray.rejectCounted_badPkt _ c e he).trans (by rw [hport _ (by decide)]))
  · exact (hheld _ _ (by decide) counter_not_rejectReg).trans
      ((Tray.rejectCounted_counts _ c e).trans (congrArg (· + _) hother))
  · exact (hheld _ _ (by decide) counter_not_rejectReg).trans
      ((Tray.charge_otherCounter _ _ _ (by decide) (by decide) (by decide) (by decide)).trans
        ((Tray.rd_sat_off _ _ _ _ _ _ (by decide)).trans (t.hdrCharged_counted c (by decide))))
  · unfold Tray.headerRejected
    rw [Tray.seatReject_eq, if_neg (by rw [hseat, hfree]; decide)]
    exact Tray.rejectHeld_holds _ hc he h

variable {t c e}

/-- Its payload leaves all of that. -/
theorem Tray.ShowsReject.flits {u v : Tray} (he : e < 64) (hu : t.ShowsReject u c e) (hv : u.Stays v (flitReg c 0)) :
    t.ShowsReject v c e := by
  have hcnt (j : Nat) (hj : j < 31) (hb : j ≠ N.RX_BYTES) (hl : j ≠ N.BREAK_LIT) :
      v.rd (seatPg c 0) (A.SEAT_CNT + 8 * j) = u.rd (seatPg c 0) (A.SEAT_CNT + 8 * j) :=
    hv.regs _ _ (by unfold A.SEAT_CNT; omega) (counter_not_flitReg (by decide) hb hl)
  refine ⟨(Tray.keepsRegs_gf hv.regs _ _ (by decide) (portPg_not_flitReg he (by decide))).trans hu.bad,
    (hcnt _ (by decide) (by decide) (by decide)).trans hu.rejects, (hcnt _ (by decide) (by decide) (by decide)).trans hu.pkts,
    fun hfree => ?_⟩
  obtain ⟨hvalid, hirq⟩ := hu.holds hfree
  refine ⟨?_, Tray.irqUp_congr (hv.regs _ _ (by decide) (seat_not_flitReg (by decide) (by decide))) hirq⟩
  unfold Tray.is
  rw [Tray.keepsRegs_gf hv.regs _ _ (by decide) (seat_not_flitReg (by decide) (by decide))]
  exact hvalid

end

theorem State.Like.showsReject {s : State} {t u : Tray} {c e : Nat} (h : s.Like u) (hu : t.ShowsReject u c e) :
    t.ShowsReject s.tray c e := by
  obtain ⟨hbad, hrejects, hpkts, hholds⟩ := hu
  exact ⟨(h.gf ..).trans hbad, (h.rd ..).trans hrejects, (h.rd ..).trans hpkts, fun hfree =>
    ⟨(h.is ..).trans (hholds hfree).1, h.irqUp (hholds hfree).2⟩⟩

section
variable {s : State} {c : Fin 5} {e : Fin 64} {p : Pkt} (hs : s.tray.settled c.val) (hup : s.tray.pst c.val e.val = S.UP)
  (hcore : (s.tray.chip c.val).coreUp = true) (hlen : p.pay.length = flitsOf (hLen p.hdr)) (hparse : hdrParses p.hdr = true)
  (hallow : hdrAllowed p.hdr = true) (htype : hPtype p.hdr = P.DATA) (hkind : hDstKind p.hdr = 0)
include hup hcore hlen hparse htype

/-- A DATA packet is taken flit by flit from its header. -/
theorem arrive_data : s.tray.arriveAs c.val e.val p (fun h => hPtype h == P.DATA) =
    (p.pay.foldl (Tray.takeFlit c.val e.val) (s.tray.pktStart c.val e.val p.hdr)).2.pktDone c.val e.val
      (p.pay.foldl (Tray.takeFlit c.val e.val) (s.tray.pktStart c.val e.val p.hdr)).1 :=
  (Tray.arriveAs_type (ok := fun h => hPtype h == P.DATA) (beq_iff_eq.2 htype)).trans
    (Tray.arrive_whole hup hcore hlen hparse (by rw [htype]; decide))

include hs hallow hkind

theorem dataReceive_rejects (hseat : s.tray.seatPasses c.val e.val p.hdr = false) :
    Completes (.dataReceive c e p) s (fun t =>
      t.tray.gf (portPg c.val e.val) F.PORT_RX_ERR_BAD_PKT =
        min (2 ^ F.PORT_RX_ERR_BAD_PKT.w - 1) (s.tray.gf (portPg c.val e.val) F.PORT_RX_ERR_BAD_PKT + 1) ∧
      s.tray.counted t.tray c.val 0 N.SEAT_REJECT 1 ∧ s.tray.counted t.tray c.val 0 N.RX_PKTS 1 ∧
      (s.tray.is (seatPg c.val 0) F.SEAT_REJ_CAPT_VALID = false →
        t.tray.is (seatPg c.val 0) F.SEAT_REJ_CAPT_VALID = true ∧ t.tray.irqUp (seatPg c.val 0) 8) ∧
      s.tray.keepsBlocks t.tray) := by
  have hrun := arrive_data hup hcore hlen hparse htype
  rw [Tray.pktStart_rejected hallow hkind hseat] at hrun
  obtain ⟨hdead, hflits⟩ := Tray.takeFlits_dead (t := s.tray.headerRejected c.val e.val p.hdr) (m := 0) (c := c.val) (e := e.val)
    (by decide) p.pay (r := { hdr := p.hdr, dead := true }) rfl
    ((s.tray.headerRejected_payer c.val e.val p.hdr).trans (Tray.payer_fails hallow hseat))
  have hstay := (s.tray.headerRejected_stays c.val e.val p.hdr).trans (hflits.mono fun _ _ _ => trivial)
  refine completes_runC (exec_dataReceive ..) (hrun.trans (if_pos hdead)) (hstay.settled hs) fun t ht => ?_
  obtain ⟨hbad, hrejects, hpkts, hholds⟩ := ht.showsReject
    ((s.tray.headerRejected_shows c.val e.val p.hdr c.isLt e.isLt).flits e.isLt hflits)
  exact ⟨hbad, hrejects, hpkts, hholds, ht.keepsBlocks hstay.blocks⟩

end

/-! ### A header that fails its CRC -/

/-- PORT_RX_ERR and the interrupts of the port. -/
def rxErrReg (c e q o : Nat) : Prop := q = portPg c e ∧ (o = A.PORT_RX_ERR ∨ o = 0x20)

/-- The receiver has lost the flit positions: counted, with its interrupt where the count was 0. -/
def Tray.frameCounted (t : Tray) (c e : Nat) : Tray :=
  if t.gf (portPg c e) F.PORT_RX_ERR_FRAME = 0 then (t.sat (portPg c e) F.PORT_RX_ERR_FRAME 1).raise (portPg c e) 27
  else t.sat (portPg c e) F.PORT_RX_ERR_FRAME 1

section
variable (t : Tray) (c e : Nat)

theorem Tray.frameCounted_stays : t.Stays (t.frameCounted c e) (rxErrReg c e) := by
  have hcount := (Tray.Stays.refl t (rxErrReg c e)).sat (f := F.PORT_RX_ERR_FRAME) 1 ⟨rfl, .inl rfl⟩ (by decide)
  unfold Tray.frameCounted
  split
  · exact hcount.raise 27 ⟨rfl, .inr rfl⟩
  · exact hcount

theorem Tray.frameCounted_gf (f : Fld) (hf : f.off = A.PORT_RX_ERR) :
    (t.frameCounted c e).gf (portPg c e) f = (t.sat (portPg c e) F.PORT_RX_ERR_FRAME 1).gf (portPg c e) f := by
  unfold Tray.frameCounted
  split
  · exact Tray.gf_raise_off _ _ _ _ _ (by rw [hf]; decide)
  · rfl

theorem Tray.frameCounted_port : (t.frameCounted c e).port c e = t.port c e := by
  unfold Tray.frameCounted
  split
  · exact (Tray.port_raise ..).trans (Tray.port_sat ..)
  · exact Tray.port_sat ..

variable {t c e}

/-- Where no packet is being received, entering HUNT loses none. -/
theorem Tray.enterHunt_between (hcur : (t.port c e).rx.cur = none) (hins : (t.port c e).rx.ins = none) :
    t.enterHunt c e =
      ((t.frameCounted c e).setRx c e { hunt := (t.port c e).rx.hunt }).setRx c e { hunt := true } := by
  have hlost : (t.frameCounted c e).rxLost c e = (t.frameCounted c e).setRx c e { hunt := (t.port c e).rx.hunt } := by
    unfold Tray.rxLost
    dsimp only
    rw [t.frameCounted_port c e, hcur, hins]
    rfl
  exact congrArg (fun u : Tray => u.setRx c e { hunt := true }) hlost

end

/-- A header at a header position that fails HDR_CRC. -/
theorem Tray.flitReceive_badHeader {t : Tray} {c e : Nat} {f : Flit} (hup : t.pst c e = S.UP)
    (hcore : (t.chip c).coreUp = true) (hrx : (t.port c e).rx = { hunt := false }) (hlit : f ≠ breakFlit)
    (hcrc : hdrOk f = false) :
    t.flitReceive c e f false = (t.sat (portPg c e) F.PORT_RX_ERR_HDR_CRC 1).enterHunt c e := by
  have hon : t.up c e = true := beq_iff_eq.2 hup
  have hparse : hdrParses f = false := by
    unfold hdrParses
    rw [hcrc, Bool.false_and]
  have hheader : t.rxHeader c e f false = (t.sat (portPg c e) F.PORT_RX_ERR_HDR_CRC 1).enterHunt c e := by
    unfold Tray.rxHeader Tray.huntHdr
    rw [if_neg hlit, if_pos (by rw [hparse]; decide), if_neg (by rw [hcrc]; decide)]
  unfold Tray.flitReceive
  rw [if_neg (by rw [hon, hcore]; decide), hrx]
  exact hheader

theorem flitReceive_hunts {s : State} {c : Fin 5} {e : Fin 64} {f : Flit} (hs : s.tray.settled c.val)
    (hup : s.tray.pst c.val e.val = S.UP) (hcore : (s.tray.chip c.val).coreUp = true)
    (hrx : (s.tray.port c.val e.val).rx = { hunt := false }) (hlit : f ≠ breakFlit) (hcrc : hdrOk f = false) :
    Completes (.flitReceive c e f false) s (fun t =>
      (t.tray.port c.val e.val).rx.hunt = true ∧
      t.tray.gf (portPg c.val e.val) F.PORT_RX_ERR_HDR_CRC =
        min (2 ^ F.PORT_RX_ERR_HDR_CRC.w - 1) (s.tray.gf (portPg c.val e.val) F.PORT_RX_ERR_HDR_CRC + 1) ∧
      t.tray.gf (portPg c.val e.val) F.PORT_RX_ERR_FRAME =
        min (2 ^ F.PORT_RX_ERR_FRAME.w - 1) (s.tray.gf (portPg c.val e.val) F.PORT_RX_ERR_FRAME + 1) ∧
      s.tray.keepsRegs t.tray (rxErrReg c.val e.val) ∧ s.tray.keepsOtherPorts t.tray c.val e.val) := by
  let u := s.tray.sat (portPg c.val e.val) F.PORT_RX_ERR_HDR_CRC 1
  let v := ((u.frameCounted c.val e.val).setRx c.val e.val { hunt := false }).setRx c.val e.val { hunt := true }
  have hrun : s.tray.flitReceive c.val e.val f false = v := by
    have hsame : (u.port c.val e.val).rx = { hunt := false } := (congrArg PortSt.rx (Tray.port_sat ..)).trans hrx
    rw [Tray.flitReceive_badHeader hup hcore hrx hlit hcrc,
      Tray.enterHunt_between (by rw [hsame]) (by rw [hsame]), hsame]
  have hcounts : s.tray.Stays (u.frameCounted c.val e.val) (rxErrReg c.val e.val) :=
    ((Tray.Stays.refl s.tray _).sat 1 ⟨rfl, .inl rfl⟩ (by decide)).trans (u.frameCounted_stays c.val e.val)
  have hstay : s.tray.StaysBut v c.val e.val (rxErrReg c.val e.val) :=
    ((hcounts.butPort c.val e.val).modPort e.isLt _).modPort e.isLt _
  have hgf (f : Fld) (hf : f.off = A.PORT_RX_ERR) : v.gf (portPg c.val e.val) f =
      (u.sat (portPg c.val e.val) F.PORT_RX_ERR_FRAME 1).gf (portPg c.val e.val) f :=
    (u.frameCounted_gf c.val e.val f hf)
  refine completes_runC (exec_flitReceive ..) hrun (hstay.settled hs) fun t ht => ⟨?_, ?_, ?_, ht.staysBut hstay⟩
  · rw [ht.port]
    exact congrArg (fun p : PortSt => p.rx.hunt) (Tray.port_modPort ..)
  · rw [ht.gf, hgf _ rfl, Tray.gf_sat_ne _ _ _ _ _ (by decide) (by decide) (by decide), Tray.gf_sat_self _ _ _ _ (by decide),
      satTo_eq_min]
  · rw [ht.gf, hgf _ rfl, Tray.gf_sat_self _ _ _ _ (by decide), satTo_eq_min,
      Tray.gf_sat_ne _ _ _ _ _ (by decide) (by decide) (by decide)]

end Sys2Proof.Machine
end

section
/-! SUPPORT. A packet that a port receives into the switch core: its cells, and what storing them changes (R157, R189, R192,
R193). -/
namespace Sys2Proof.Machine

/-! ### Cells -/

/-- Cells complete in staging once `n` payload flits are there (R189, R193). -/
def cellsIn (h : Flit) (n : Nat) : Nat := if 1 + flitsOf (hLen h) ≤ 1 + n then cellsOf (hLen h) else (1 + n) / 4

theorem cellsIn_le (h : Flit) (n : Nat) : cellsIn h n ≤ cellsOf (hLen h) := by
  unfold cellsIn cellsOf flitsOf ceilDiv
  split
  · exact le_rfl
  · omega

theorem cellsIn_all {h : Flit} {n : Nat} (hn : n = flitsOf (hLen h)) : cellsIn h n = cellsOf (hLen h) := if_pos (by rw [hn])

/-- Cells that packets `l` hold in the staging of input `e` (R192). -/
def stagedCells (e : Nat) (l : List CorePkt) : Nat :=
  sumL ((l.filter (fun p => p.inPort == e && !p.orig && p.circ == none)).map (fun p => p.arrived - p.crossed))

theorem Tray.stageOcc_eq (t : Tray) (c e : Nat) : t.stageOcc c e = stagedCells e (t.pkts c) := rfl

theorem stagedCells_filter_le (e : Nat) (l : List CorePkt) (keep : CorePkt → Bool) :
    stagedCells e (l.filter keep) ≤ stagedCells e l := by
  unfold stagedCells sumL
  rw [← List.sum_eq_foldl, ← List.sum_eq_foldl]
  exact ((List.filter_sublist.filter _).map _).sum_le_sum fun _ _ => Nat.zero_le _

/-! ### The packet being received -/

/-- Packet `id` of input `e`: `pay` of its payload is there, and `n` cells are complete. -/
def receiving (id e : Nat) (h : Flit) (held : Bool) (pay : List Flit) (n : Nat) : CorePkt :=
  { id := id, hdr := h, pay := pay, inPort := e, copies := [{ port := hDst h }], held := held, arrived := n }

/-- The packet with `pay` and `n` complete cells. -/
def CorePkt.holding (pay : List Flit) (n : Nat) (q : CorePkt) : CorePkt := { q with pay := pay, arrived := n }

section
variable {t u : Tray} {c id e n k : Nat} {h : Flit} {held : Bool} {pay : List Flit}

theorem stagedCells_receiving (l : List CorePkt) :
    stagedCells e (l ++ [receiving id e h held pay k]) = stagedCells e l + k := by
  have hstaged : [receiving id e h held pay k].filter (fun p => p.inPort == e && !p.orig && p.circ == none) =
      [receiving id e h held pay k] := List.filter_cons_of_pos (by simp [receiving])
  unfold stagedCells sumL
  rw [List.filter_append, hstaged, List.map_append, List.foldl_append]
  rfl

theorem receiving_not_spent : (receiving id e h held pay k).spent = false := CorePkt.not_spent (List.cons_ne_nil _ _)

/-- The packet is the last of the switch core and the only one of its number; those before it hold at most `n` cells of the
input's staging. -/
def Tray.Receiving (t : Tray) (c n id e : Nat) (h : Flit) (held : Bool) (pay : List Flit) (k : Nat) : Prop :=
  ∃ l, t.pkts c = l ++ [receiving id e h held pay k] ∧ (∀ q ∈ l, q.id ≠ id) ∧ stagedCells e l ≤ n

theorem Tray.Receiving.congr (hr : t.Receiving c n id e h held pay k) (hp : u.pkts c = t.pkts c) :
    u.Receiving c n id e h held pay k := by
  obtain ⟨l, hl, hrest⟩ := hr
  exact ⟨l, hp.trans hl, hrest⟩

theorem Tray.Receiving.findPkt (hr : t.Receiving c n id e h held pay k) :
    t.findPkt c id = some (receiving id e h held pay k) := by
  obtain ⟨l, hl, hother, -⟩ := hr
  have hnone : l.find? (fun q => q.id == id) = none :=
    List.find?_eq_none.2 fun q hq => by simpa using hother q hq
  unfold Tray.findPkt
  rw [hl, List.find?_append, hnone, Option.none_or]
  exact List.find?_cons_of_pos (p := fun q : CorePkt => q.id == id) (beq_iff_eq.2 rfl)

theorem Tray.Receiving.stageOcc_le (hr : t.Receiving c n id e h held pay k) : t.stageOcc c e ≤ n + k := by
  obtain ⟨l, hl, -, hle⟩ := hr
  rw [Tray.stageOcc_eq, hl, stagedCells_receiving]
  omega

theorem Tray.Receiving.modPkt (hr : t.Receiving c n id e h held pay k) (pay' : List Flit) (k' : Nat) :
    (t.modPkt c id (CorePkt.holding pay' k')).Receiving c n id e h held pay' k' := by
  obtain ⟨l, hl, hother, hle⟩ := hr
  have hsame : l.map (fun q => if q.id = id then q.holding pay' k' else q) = l :=
    (List.map_congr_left fun q hq => if_neg (hother q hq)).trans (List.map_id l)
  refine ⟨l.filter (fun q => !q.spent), ?_, fun q hq => hother q (List.mem_of_mem_filter hq),
    (stagedCells_filter_le ..).trans hle⟩
  have hlast : [receiving id e h held pay k].map (fun q => if q.id = id then q.holding pay' k' else q) =
      [receiving id e h held pay' k'] := congrArg (· :: []) (if_pos rfl)
  rw [Tray.pkts_modPkt, hl, List.map_append, hsame, hlast, List.filter_append]
  have hkept : [receiving id e h held pay' k'].filter (fun q => !q.spent) = [receiving id e h held pay' k'] :=
    List.filter_cons_of_pos (by rw [receiving_not_spent]; rfl)
  exact congrArg _ hkept

/-- Flits of a packet for which staging has room (R193). -/
theorem Tray.coreFlits_room (hr : t.Receiving c n id e h held pay k) (hroom : n + cellsOf (hLen h) ≤ 320) (fl : List Flit) :
    t.coreFlits c id fl =
      (t.modPkt c id (CorePkt.holding (pay ++ fl) (cellsIn h (pay ++ fl).length))).stageCheck c e := by
  have hcells := cellsIn_le h (pay ++ fl).length
  have hocc := hr.stageOcc_le
  have henough : ¬ 320 - t.stageOcc c e < cellsIn h (pay ++ fl).length - k := by omega
  unfold Tray.coreFlits
  rw [hr.findPkt]
  exact (if_neg Bool.false_ne_true).trans (if_neg henough)

end

/-! ### The staging watermark -/

/-- SCHED_STAGE_WM and SCHED_STAGE_XOFF. -/
def stageReg (c q o : Nat) : Prop := q = chipPg c 0x050 ∧ (o = A.SCHED_STAGE_WM ∨ o = A.SCHED_STAGE_XOFF)

theorem Tray.stageCheck_staysBut (t : Tray) (c : Nat) {e : Nat} (he : e < 64) :
    t.StaysBut (t.stageCheck c e) c e (stageReg c) := by
  unfold Tray.stageCheck
  extract_lets occ sp t1
  have hmarks : t.Stays t1 (stageReg c) := by
    unfold t1
    split_ifs
    · exact ((Tray.Stays.refl t _).sf _ ⟨rfl, .inl rfl⟩ (by decide)).sf _ ⟨rfl, .inl rfl⟩ (by decide)
    · exact (Tray.Stays.refl t _).sf _ ⟨rfl, .inl rfl⟩ (by decide)
    · exact .refl ..
  split
  · exact ((hmarks.butPort c e).modPort he _).stays ((Tray.Stays.refl ..).sf _ ⟨rfl, .inr rfl⟩ (by decide))
  · exact hmarks.butPort c e

/-! ### What stays while a packet is received -/

/-- Beside registers in `R`, the packets of the switch core and the ports' records, receiving a packet changes nothing. -/
structure Tray.KeepsCircs (t u : Tray) (c : Nat) (R : Nat → Nat → Prop) : Prop where
  regs : t.keepsRegs u R
  circs : (u.chip c).circs = (t.chip c).circs
  tables : u.tables = t.tables
  dealers : u.dealers = t.dealers
  mem : u.mem = t.mem

namespace Tray.KeepsCircs
variable {t u v : Tray} {c : Nat} {R Q : Nat → Nat → Prop}

theorem refl (t : Tray) (c : Nat) (R : Nat → Nat → Prop) : t.KeepsCircs t c R := ⟨t.keepsRegs_refl R, rfl, rfl, rfl, rfl⟩

theorem trans (a : t.KeepsCircs u c R) (b : u.KeepsCircs v c R) : t.KeepsCircs v c R :=
  ⟨Tray.keepsRegs_trans a.regs b.regs, b.circs.trans a.circs, b.tables.trans a.tables, b.dealers.trans a.dealers,
    b.mem.trans a.mem⟩

theorem mono (a : t.KeepsCircs u c R) (h : ∀ q o, R q o → Q q o) : t.KeepsCircs u c Q :=
  ⟨Tray.keepsRegs_mono a.regs h, a.circs, a.tables, a.dealers, a.mem⟩

theorem of_staysBut {d e : Nat} (h : t.StaysBut u d e R) : t.KeepsCircs u c R := by
  obtain ⟨hregs, -, -, hchips, -, htables, hdealers, -, hmem⟩ := h
  refine ⟨hregs, ?_, htables, hdealers, hmem⟩
  unfold Tray.chip
  rw [hchips]

theorem of_stays (h : t.Stays u R) : t.KeepsCircs u c R := of_staysBut (h.butPort 0 0)

theorem modPkt (t : Tray) (c id : Nat) (f : CorePkt → CorePkt) (R : Nat → Nat → Prop) : t.KeepsCircs (t.modPkt c id f) c R := by
  refine ⟨Tray.keepsRegs_of rfl, ?_, rfl, rfl, rfl⟩
  unfold Tray.modPkt Tray.setPkts
  rw [Tray.chip_modChip]

theorem enterCore (t : Tray) (c e : Nat) (h : Flit) (mem : List Nat) (R : Nat → Nat → Prop) :
    t.KeepsCircs (t.enterCore c e h mem).2 c R := by
  refine ⟨Tray.keepsRegs_of rfl, ?_, rfl, rfl, rfl⟩
  unfold Tray.enterCore
  rw [Tray.chip_modChip]

theorem settled (a : t.KeepsCircs u c R) {d : Nat} (h : t.settled d) : u.settled d := (Tray.settled_congr a.dealers d).2 h

theorem circOf (a : t.KeepsCircs u c R) (e : Nat) (h : Flit) : u.circOf c e h = t.circOf c e h := by
  unfold Tray.circOf
  rw [a.circs]

end Tray.KeepsCircs

/-! ### A packet of its seat is received -/

/-- What the payload of a packet of seat `m` writes. -/
def receiveReg (c m q o : Nat) : Prop := stageReg c q o ∨ flitReg c m q o

theorem seat_not_stageReg {c j o : Nat} (hj : j < 64) : ¬ stageReg c (seatPg c j) o := by
  unfold stageReg seatPg chipPg
  omega

/-- A packet of seat `m` is being received: it is in the switch core and its seat still pays for it. -/
structure Tray.Takes (t u : Tray) (c n id e : Nat) (h : Flit) (held : Bool) (pay : List Flit) (k : Nat) : Prop where
  core : u.Receiving c n id e h held pay k
  keeps : t.KeepsCircs u c (receiveReg c (hSeat h))

section
variable {t u : Tray} {c id e n k : Nat} {h : Flit} {held : Bool} {pay : List Flit}

theorem Tray.Takes.payer (hu : t.Takes u c n id e h held pay k) : u.payer c e h = t.payer c e h :=
  Tray.keepsRegs_payer hu.keeps.regs c e h fun o _ hhi hc => hc.elim (seat_not_stageReg (TrafficSide.hSeat_lt h))
    (seat_not_flitReg (TrafficSide.hSeat_lt h) (by unfold A.SEAT_CNT; omega))

theorem Tray.Takes.charged (hu : t.Takes u c n id e h held pay k) (lit : Bool) :
    t.Takes (u.flitCharged c (hSeat h) lit) c n id e h held pay k := by
  have hcharge := Tray.flitCharged_stays (t := u) (c := c) (TrafficSide.hSeat_lt h) lit
  obtain ⟨hchips, -⟩ := hcharge.blocks
  refine ⟨hu.core.congr (Tray.pkts_congr c ?_), hu.keeps.trans (.of_stays (hcharge.mono fun _ _ => .inr))⟩
  unfold Tray.chip
  rw [hchips]

theorem Tray.Takes.coreFlits (he : e < 64) (hu : t.Takes u c n id e h held pay k) (hroom : n + cellsOf (hLen h) ≤ 320)
    (fl : List Flit) :
    t.Takes (u.coreFlits c id fl) c n id e h held (pay ++ fl) (cellsIn h (pay ++ fl).length) := by
  have hcheck := Tray.stageCheck_staysBut (u.modPkt c id (CorePkt.holding (pay ++ fl) (cellsIn h (pay ++ fl).length))) c he
  obtain ⟨-, -, hchips, -⟩ := hcheck.others
  rw [Tray.coreFlits_room hu.core hroom]
  refine ⟨(hu.core.modPkt _ _).congr (Tray.pkts_congr c ?_), (hu.keeps.trans (.modPkt ..)).trans
    (.of_staysBut (hcheck.mono fun _ _ => .inl))⟩
  unfold Tray.chip
  rw [hchips]

theorem Tray.takeFlit_core {r : RxPkt} {m : Nat} (hm : m < 64) (hcore : r.core = some id)
    (hpay : u.payer c e r.hdr = some m) (f : Flit) :
    Tray.takeFlit c e (r, u) f =
      ({ r with pay := r.pay ++ [f] }, (u.flitCharged c m (f == breakFlit)).coreFlits c id [f]) := by
  refine (Tray.pktFlit_charged hm hpay f _).trans ?_
  rw [hcore]
  rfl

/-- Every payload flit is charged and joins the packet. -/
theorem Tray.Takes.flits (he : e < 64) (hroom : n + cellsOf (hLen h) ≤ 320) (hpay : t.payer c e h = some (hSeat h))
    (l : List Flit) (hu : t.Takes u c n id e h held pay (cellsIn h pay.length)) :
    let a := l.foldl (Tray.takeFlit c e) ({ hdr := h, pay := pay, core := some id }, u)
    a.1 = { hdr := h, pay := pay ++ l, core := some id } ∧
      t.Takes a.2 c n id e h held (pay ++ l) (cellsIn h (pay ++ l).length) := by
  induction l generalizing u pay with
  | nil => exact ⟨by rw [List.append_nil]; rfl, by rw [List.append_nil]; exact hu⟩
  | cons f l ih =>
    have hrest := ih ((hu.charged (f == breakFlit)).coreFlits he hroom [f])
    rw [List.append_assoc] at hrest
    rw [List.foldl_cons, Tray.takeFlit_core (id := id) (r := { hdr := h, pay := pay, core := some id })
      (TrafficSide.hSeat_lt h) rfl (hu.payer.trans hpay) f]
    exact hrest

end

/-! ### From the header to the end-to-end check -/

/-- A unicast packet of no circuit enters as the last of the switch core. -/
theorem Tray.enterCore_receiving {t : Tray} {c e : Nat} {h : Flit} (hkind : hDstKind h = 0) (hcirc : t.circOf c e h = none)
    (hnew : t.findPkt c (t.chip c).nextPkt = none) :
    (t.enterCore c e h []).2.Receiving c (t.stageOcc c e) (t.chip c).nextPkt e h (t.fenceWaits c e h) [] 0 := by
  refine ⟨t.pkts c, ?_, fun q hq hid => List.find?_eq_none.1 hnew q hq (beq_iff_eq.2 hid), le_rfl⟩
  unfold Tray.enterCore
  dsimp only
  rw [hcirc, if_pos hkind]
  unfold Tray.pkts
  rw [Tray.chip_modChip]
  rfl

/-- The end-to-end check of a complete packet (R157). -/
def Tray.e2eChecked (t : Tray) (c e : Nat) (p : Pkt) : Tray :=
  if pE2eOk p then t else t.sat (portPg c e) F.PORT_RX_ERR_E2E_CRC 1

/-- PORT_RX_ERR of the port. -/
def e2eReg (c e q o : Nat) : Prop := q = portPg c e ∧ o = A.PORT_RX_ERR

theorem Tray.e2eChecked_stays (t : Tray) (c e : Nat) (p : Pkt) : t.Stays (t.e2eChecked c e p) (e2eReg c e) := by
  unfold Tray.e2eChecked
  split
  · exact .refl ..
  · exact (Tray.Stays.refl t _).sat 1 ⟨rfl, rfl⟩ (by decide)

theorem Tray.cmpCount_noCirc {t : Tray} {c e : Nat} {h : Flit} (hcirc : t.circOf c e h = none) (l : List Byte) :
    t.cmpCount c h e l = t := by
  unfold Tray.cmpCount
  rw [hcirc]

/-- A complete packet of no circuit in the switch core. -/
theorem Tray.pktDone_core {t : Tray} {c e id : Nat} {h : Flit} {l : List Flit} (hcirc : t.circOf c e h = none) :
    t.pktDone c e { hdr := h, pay := l, core := some id } = t.e2eChecked c e ⟨h, l⟩ := by
  have hcheck := (Tray.KeepsCircs.of_stays (c := c) (t.e2eChecked_stays c e ⟨h, l⟩)).circOf e h
  exact Tray.cmpCount_noCirc (hcheck.trans hcirc) _

/-- What receiving a packet into the switch core writes: the core, the seats, PORT_RX_ERR of its port. -/
def enterReg (c e q o : Nat) : Prop := coreReg c q o ∨ e2eReg c e q o

theorem enterReg_of_receive {c e m q o : Nat} (hm : m < 64) (h : receiveReg c m q o) : enterReg c e q o := by
  rcases h with ⟨rfl, ho⟩ | hflit
  · refine .inl (coreReg_page (by decide) (by decide) ?_)
    rcases ho with rfl | rfl <;> decide
  · exact .inl (hflit.elim (coreReg_of_charged hm) (coreReg_of_charged hm))

/-- What a packet of its seat leaves at the end. -/
structure Tray.Received (t u : Tray) (c e : Nat) (p : Pkt) : Prop where
  found : ∃ held, u.findPkt c (t.chip c).nextPkt = some (receiving (t.chip c).nextPkt e p.hdr held p.pay (cellsOf (hLen p.hdr)))
  counts : t.counted u c (hSeat p.hdr) N.RX_PKTS 1
  keeps : t.KeepsCircs u c (enterReg c e)

section
variable {t : Tray} {c e : Nat} {p : Pkt} (he : e < 64) (hlen : p.pay.length = flitsOf (hLen p.hdr))
  (hallow : hdrAllowed p.hdr = true) (hkind : hDstKind p.hdr = 0) (hseat : t.seatPasses c e p.hdr = true)
  (hnew : t.findPkt c (t.chip c).nextPkt = none) (hcirc : t.circOf c e p.hdr = none)
  (hroom : t.stageOcc c e + cellsOf (hLen p.hdr) ≤ 320)

/-- The header charged and stored. -/
def Tray.headerStored (t : Tray) (c e : Nat) (h : Flit) : Tray :=
  ((t.hdrCharged c (hSeat h)).enterCore c e h []).2.coreFlits c (t.chip c).nextPkt []

include he hkind hnew hcirc hroom in
theorem Tray.headerStored_takes :
    ∃ held, (t.hdrCharged c (hSeat p.hdr)).Takes (t.headerStored c e p.hdr) c (t.stageOcc c e) (t.chip c).nextPkt e p.hdr held []
      (cellsIn p.hdr 0) := by
  have hchip := t.hdrCharged_chip c c (TrafficSide.hSeat_lt p.hdr)
  have hpkts := Tray.pkts_congr c hchip
  have hocc : (t.hdrCharged c (hSeat p.hdr)).stageOcc c e = t.stageOcc c e := congrArg (stagedCells e) hpkts
  have hcirc' : (t.hdrCharged c (hSeat p.hdr)).circOf c e p.hdr = none :=
    ((Tray.KeepsCircs.of_stays (t.hdrCharged_stays c (TrafficSide.hSeat_lt p.hdr))).circOf e p.hdr).trans hcirc
  have henter := Tray.enterCore_receiving hkind hcirc' (by rw [hchip]; exact (Tray.findPkt_congr _ hpkts).trans hnew)
  rw [hocc, hchip] at henter
  exact ⟨_, (Tray.Takes.mk henter (.enterCore ..)).coreFlits he hroom []⟩

include he hlen hallow hkind hseat hnew hcirc hroom in
/-- A packet of its seat is charged flit by flit, stored, and checked at its end. -/
theorem Tray.flits_received :
    let a := p.pay.foldl (Tray.takeFlit c e) (t.pktStart c e p.hdr)
    t.Received (a.2.pktDone c e a.1) c e p := by
  have hseat' := TrafficSide.hSeat_lt p.hdr
  have hchip := t.hdrCharged_chip c c hseat'
  have hpay : (t.hdrCharged c (hSeat p.hdr)).payer c e p.hdr = some (hSeat p.hdr) :=
    (t.hdrCharged_payer c e p.hdr hseat').trans (Tray.payer_passes hallow hseat)
  have hstart : t.pktStart c e p.hdr = ({ hdr := p.hdr, core := some (t.chip c).nextPkt }, t.headerStored c e p.hdr) := by
    rw [Tray.pktStart_unicast hallow hkind hseat, show ((t.hdrCharged c (hSeat p.hdr)).enterCore c e p.hdr []).1 =
      (t.chip c).nextPkt from congrArg ChipSt.nextPkt hchip]
    rfl
  obtain ⟨held, hheader⟩ := Tray.headerStored_takes he hkind hnew hcirc hroom
  obtain ⟨hparsed, hstored⟩ := hheader.flits he hroom hpay p.pay
  rw [hstart]
  intro a
  have hall : a.1 = { hdr := p.hdr, pay := p.pay, core := some (t.chip c).nextPkt } := hparsed
  have htakes : (t.hdrCharged c (hSeat p.hdr)).Takes a.2 c (t.stageOcc c e) (t.chip c).nextPkt e p.hdr held p.pay
      (cellsOf (hLen p.hdr)) := cellsIn_all hlen ▸ hstored
  have hcharge : t.KeepsCircs (t.hdrCharged c (hSeat p.hdr)) c (enterReg c e) :=
    .of_stays ((t.hdrCharged_stays c hseat').mono fun _ _ hc => .inl (.inr hc))
  have hkeeps := hcharge.trans (htakes.keeps.mono fun _ _ => enterReg_of_receive hseat')
  have hcheck := a.2.e2eChecked_stays c e p
  rw [hall, Tray.pktDone_core ((hkeeps.circOf e p.hdr).trans hcirc)]
  refine ⟨⟨held, ?_⟩, ?_, hkeeps.trans (.of_stays (hcheck.mono fun _ _ => .inr))⟩
  · obtain ⟨hchips, -⟩ := hcheck.blocks
    exact (Tray.findPkt_congr _ (Tray.pkts_congr c (by unfold Tray.chip; rw [hchips]))).trans htakes.core.findPkt
  · have hdone : (a.2.e2eChecked c e p).rd (seatPg c (hSeat p.hdr)) (A.SEAT_CNT + 8 * N.RX_PKTS) =
        a.2.rd (seatPg c (hSeat p.hdr)) (A.SEAT_CNT + 8 * N.RX_PKTS) :=
      hcheck.regs _ _ (by decide) fun hc => absurd hc.2 (by decide)
    have hflits := htakes.keeps.regs (seatPg c (hSeat p.hdr)) (A.SEAT_CNT + 8 * N.RX_PKTS) (by decide) fun hc =>
      hc.elim (seat_not_stageReg hseat') (counter_not_flitReg hseat' (by decide) (by decide))
    exact (hdone.trans hflits).trans (t.hdrCharged_counted c hseat')

end

theorem dataReceive_enters {s : State} {c : Fin 5} {e : Fin 64} {p : Pkt} (hs : s.tray.settled c.val)
    (hup : s.tray.pst c.val e.val = S.UP) (hcore : (s.tray.chip c.val).coreUp = true)
    (hlen : p.pay.length = flitsOf (hLen p.hdr)) (hparse : hdrParses p.hdr = true) (hallow : hdrAllowed p.hdr = true)
    (htype : hPtype p.hdr = P.DATA) (hkind : hDstKind p.hdr = 0) (hseat : s.tray.seatPasses c.val e.val p.hdr = true)
    (hnew : s.tray.findPkt c.val (s.tray.chip c.val).nextPkt = none) (hcirc : s.tray.circOf c.val e.val p.hdr = none)
    (hroom : s.tray.stageOcc c.val e.val + cellsOf (hLen p.hdr) ≤ 320) :
    Completes (.dataReceive c e p) s (fun t =>
      (∃ q, t.tray.findPkt c.val (s.tray.chip c.val).nextPkt = some q ∧ q.hdr = p.hdr ∧ q.pay = p.pay ∧ q.inPort = e.val ∧
        q.arrived = cellsOf (hLen p.hdr) ∧ q.dropped = false) ∧
      s.tray.counted t.tray c.val (hSeat p.hdr) N.RX_PKTS 1 ∧ s.tray.keepsRegs t.tray (enterReg c.val e.val) ∧
      t.tray.mem = s.tray.mem ∧ t.tray.tables = s.tray.tables) := by
  obtain ⟨⟨held, hfound⟩, hcounts, hkeeps⟩ := Tray.flits_received e.isLt hlen hallow hkind hseat hnew hcirc hroom
  refine completes_runC (exec_dataReceive ..) (arrive_data hup hcore hlen hparse htype) (hkeeps.settled hs) fun t ht =>
    ⟨⟨_, (Tray.findPkt_congr _ (Tray.pkts_congr _ (ht.chip _))).trans hfound, rfl, rfl, rfl, rfl, rfl⟩,
      (ht.rd ..).trans hcounts, ht.keepsRegs hkeeps.regs, ht.mem.trans hkeeps.mem, ht.tables.trans hkeeps.tables⟩

/-- Settles O31: a DATA packet flit by flit, with and without its seat, and a header at a header position. -/
theorem packetsArrive : Obligations.PacketsArrive := by
  intro s c e hs hup hcore
  refine ⟨fun p hlen hparse hallow htype hkind => ⟨?_, ?_⟩, fun f => flitReceive_hunts hs hup hcore⟩
  · exact fun hseat => dataReceive_enters hs hup hcore hlen hparse hallow htype hkind hseat
  · exact dataReceive_rejects hs hup hcore hlen hparse hallow htype hkind

end Sys2Proof.Machine
end

section
/-! SUPPORT. SCHED_SLOT with a lone staged packet, and the retry of a lone residue entry (R195, R211). -/
namespace Sys2Proof.Machine

theorem exec_schedSlot (c : Fin 5) (held : List (Fin 128)) (s : State) :
    exec (.schedSlot c held) s = .next (s.run (fun t => t.schedSlot c.val (held.map (fun k => k.val)))) := rfl
theorem exec_residueRetry (c : Fin 5) (s : State) :
    exec (.residueRetry c) s = .next (s.run (fun t => t.residueRetry c.val)) := rfl

/-! ### Updates of registers and of chips' records that leave the ports -/

/-- Only registers in `R` and records of chips change: no port, no job slot, no byte of tensor memory. -/
structure Tray.CoreStays (t u : Tray) (R : Nat → Nat → Prop) : Prop where
  stays : t.ChipStays u R
  ports : u.ports = t.ports

namespace Tray.CoreStays
variable {t u v : Tray} {R Q : Nat → Nat → Prop}

theorem refl (t : Tray) (R : Nat → Nat → Prop) : t.CoreStays t R := ⟨.refl t R, rfl⟩
theorem trans (a : t.CoreStays u R) (b : u.CoreStays v R) : t.CoreStays v R :=
  ⟨a.stays.trans b.stays, b.ports.trans a.ports⟩
theorem mono (a : t.CoreStays u R) (h : ∀ q o, R q o → Q q o) : t.CoreStays u Q := ⟨a.stays.mono h, a.ports⟩
theorem of_stays (h : t.Stays u R) : t.CoreStays u R := by
  obtain ⟨-, hports, -⟩ := h.blocks
  exact ⟨.of_stays h, hports⟩
theorem modChip (a : t.CoreStays u R) (c : Nat) (f : ChipSt → ChipSt) : t.CoreStays (u.modChip c f) R :=
  ⟨a.stays.modChip c f, a.ports⟩
theorem modPkt (a : t.CoreStays u R) (c id : Nat) (f : CorePkt → CorePkt) : t.CoreStays (u.modPkt c id f) R := by
  unfold Tray.modPkt Tray.setPkts
  exact a.modChip ..
theorem and (a : t.CoreStays u R) (h : u.Stays v R) : t.CoreStays v R := a.trans (.of_stays h)

end Tray.CoreStays

theorem State.Like.coreStays {s : State} {t u : Tray} {R : Nat → Nat → Prop} (h : s.Like u) (a : t.CoreStays u R) :
    t.keepsRegs s.tray R ∧ s.tray.ports = t.ports ∧ s.tray.mem = t.mem := by
  obtain ⟨hregs, hmem⟩ := h.chipStays a.stays
  exact ⟨hregs, h.ports.trans a.ports, hmem⟩

theorem Tray.Stays.energy {t u : Tray} {R : Nat → Nat → Prop} (h : t.Stays u R) (c m i n : Nat) : t.Stays (u.energy c m i n) R :=
  h.trans (.of_eq (Tray.energy_regs ..) ⟨Tray.energy_chips .., Tray.energy_ports .., Tray.energy_lanes .., Tray.energy_bays ..,
    Tray.energy_tables .., Tray.energy_dealers .., Tray.energy_nodes .., Tray.energy_mem ..⟩)

/-- A change of every packet of that number where the chip has one packet alone, of which something is left. -/
theorem Tray.pkts_modPkt_lone {t : Tray} {c : Nat} {p : CorePkt} {f : CorePkt → CorePkt} (hp : t.pkts c = [p])
    (hleft : (f p).spent = false) : (t.modPkt c p.id f).pkts c = [f p] := by
  rw [Tray.pkts_modPkt, hp, List.map_singleton, if_pos rfl, List.filter_cons_of_pos (by rw [hleft]; rfl), List.filter_nil]

theorem Tray.findPkt_lone {t : Tray} {c : Nat} {p : CorePkt} (hp : t.pkts c = [p]) : t.findPkt c p.id = some p := by
  unfold Tray.findPkt
  rw [hp]
  exact List.find?_cons_of_pos (p := fun q : CorePkt => q.id == p.id) (beq_iff_eq.2 rfl)

/-! ### Requests of a lone packet (R190, R195) -/

/-- The slice of a packet of no circuit (R190). -/
def CorePkt.flowSlice (p : CorePkt) : Nat := (hSrc p.hdr + hDst p.hdr + hCh p.hdr) % 4

/-- The request of packet `p` for output `f` on slice `x`. -/
def Tray.requestOf (t : Tray) (c x : Nat) (p : CorePkt) (f : Nat) : Req :=
  ⟨p.inPort, f, p.cls, p.id, (t.chip c).aged.contains (x * 4096 + p.inPort * 64 + f)⟩

theorem Tray.sliceOf_flow (t : Tray) (c : Nat) {p : CorePkt} (hcirc : p.circ = none) : t.sliceOf c p = p.flowSlice := by
  unfold Tray.sliceOf
  rw [hcirc]
  rfl

/-- A lone packet of no circuit requests on its own slice alone. -/
theorem Tray.requests_lone {t : Tray} {c : Nat} {p : CorePkt} (x : Nat) (hp : t.pkts c = [p]) (hcirc : p.circ = none) :
    t.requests c x = if p.flowSlice = x then p.wants.map (t.requestOf c x p) else [] := by
  unfold Tray.requests
  dsimp only
  rw [hp, List.foldl_cons, List.foldl_nil, t.sliceOf_flow c hcirc]
  by_cases hx : p.flowSlice = x
  · rw [if_neg (not_or.2 ⟨not_not.2 hx, not_not.2 hcirc⟩), if_pos hx]
    simp [Tray.requestOf, Function.comp_def]
  · rw [if_pos (Or.inl hx), if_neg hx]
    rfl

/-- A packet whose one copy is not linked requests for that copy's output. -/
theorem CorePkt.wants_unlinked {p : CorePkt} {f : Nat} (hcopies : p.copies = [{ port := f }]) (hheld : p.held = false)
    (haccts : p.accts ≠ []) : p.wants = [f] := by
  unfold CorePkt.wants
  simp [hcopies, hheld, haccts]

/-! ### Matching (R195) -/

section
variable (t : Tray) (c x : Nat)

theorem filter_range_beq {k n : Nat} (h : k < n) : (List.range n).filter (fun i => k == i) = [k] := by
  have hone : (List.range n).filter (· == k) = List.replicate ((List.range n).count k) k := List.filter_beq k
  rw [List.count_eq_one_of_mem List.nodup_range (List.mem_range.2 h)] at hone
  simpa [eq_comm, BEq.comm] using hone

/-- A request alone is granted and accepted. -/
theorem Tray.matchIter_lone {r : Req} (hin : r.inp < 64) (hout : r.out < 64) : t.matchIter c x [r] [] = [r] := by
  unfold Tray.matchIter
  simp [filter_range_beq hin, filter_range_beq hout, bestReq]

/-- Where every request's input is matched, nothing more is. -/
theorem Tray.matchIter_taken {rq done : List Req} (h : ∀ a ∈ rq, ∃ b ∈ done, b.inp = a.inp) :
    t.matchIter c x rq done = [] := by
  have hopen : rq.filter (fun a => (!done.any (fun b => b.inp == a.inp)) && !done.any (fun b => b.out == a.out)) = [] :=
    List.filter_eq_nil_iff.2 fun a ha => by
      obtain ⟨b, hb, hinp⟩ := h a ha
      have htaken : done.any (fun b => b.inp == a.inp) = true := List.any_eq_true.2 ⟨b, hb, beq_iff_eq.2 hinp⟩
      rw [htaken]
      exact Bool.false_ne_true
  unfold Tray.matchIter
  simp [hopen]

/-- A matching that is complete after its first iteration: the pointers move once. -/
theorem Tray.matching_once {rq a : List Req} (hfirst : t.matchIter c x rq [] = a)
    (hrest : ∀ u : Tray, u.matchIter c x rq a = []) (n : Nat) : t.matching c x rq [] (n + 1) = (a, t.movePtrs c x a) := by
  induction n with
  | zero => simp [Tray.matching, hfirst]
  | succ n ih =>
    rw [Tray.matching, ih]
    simp [hrest]

end

/-! ### The pointers move, and the cell crosses (R195) -/

/-- The pointers stand one past the request's pair. -/
def ChipSt.pointed (x : Nat) (ch : ChipSt) (a : Req) : ChipSt :=
  { ch with
    gptr := Assoc.set (fun _ => 0) ch.gptr (x * 64 + a.out) ((a.inp + 1) % 64),
    aptr := Assoc.set (fun _ => 0) ch.aptr (x * 64 + a.inp) ((a.out + 1) % 64) }

/-- The packet with one more cell crossed, on one output's queue as number `order`. -/
def CorePkt.crossedTo (f order : Nat) (p : CorePkt) : CorePkt :=
  { p with crossed := p.crossed + 1, copies := [{ port := f, linked := true, order := order }] }

/-- A link is given out, and requests served are no longer aged. -/
def ChipSt.linkGiven (x e f : Nat) (ch : ChipSt) : ChipSt :=
  { ch with nextLink := ch.nextLink + 1, aged := ch.aged.filter (fun k => !([f].any (fun f => k == x * 4096 + e * 64 + f))) }

section
variable {t : Tray} {c x f : Nat} {p : CorePkt}

theorem Tray.movePtrs_eq (t : Tray) (c x : Nat) (a : List Req) :
    t.movePtrs c x a = t.modChip c (fun ch => a.foldl (ChipSt.pointed x) ch) := rfl

/-- The tray once the cell of the packet has crossed to output `f`. -/
def Tray.cellCrossed (t : Tray) (c x f : Nat) (p : CorePkt) : Tray :=
  ((((t.modChip c (ChipSt.linkGiven x p.inPort f)).modPkt c p.id (fun _ => p.crossedTo f (t.chip c).nextLink)).cnt
    (chipPg c 0x050) (F.SCHED_SLICE_CELLS_CELLS.at (8 * x)) 1).energy c p.seat En.XBAR 1).energy c p.seat En.KITTY 1

theorem Tray.moveCell_lone (hp : t.pkts c = [p]) (hcirc : p.circ = none) (hcopies : p.copies = [{ port := f }])
    (hres : p.residue = []) (hcell : p.crossed < p.accts.length) :
    t.moveCell c x p.id [f] = t.cellCrossed c x f p := by
  unfold Tray.moveCell
  rw [Tray.findPkt_lone hp]
  simp only [hcopies, hres, hcirc, hcell, decide_true, b2n, List.foldl_cons, List.foldl_nil, List.contains_cons, beq_self_eq_true,
    Bool.true_or, Bool.false_eq_true, not_false_eq_true, and_self, if_true, List.nil_append, ne_eq, not_true_eq_false, false_and,
    if_false, List.length_singleton, max_self, Tray.cellCrossed, CorePkt.crossedTo]
  rfl

/-- The counter of the slice's cells. -/
def sliceReg (c q o : Nat) : Prop := q = chipPg c 0x050 ∧ 0x110 ≤ o

theorem Tray.cellCrossed_stays (hx : x < 4) : t.CoreStays (t.cellCrossed c x f p) (sliceReg c) := by
  have hoff : (F.SCHED_SLICE_CELLS_CELLS.at (8 * x)).off = 0x110 + 8 * x := rfl
  exact (((Tray.CoreStays.refl t _).modChip ..).modPkt ..).and
    ((((Tray.Stays.refl ..).cnt 1 ⟨rfl, by omega⟩ (by omega)).energy ..).energy ..)

theorem Tray.cellCrossed_chip (hp : t.pkts c = [p]) :
    (t.cellCrossed c x f p).pkts c = [p.crossedTo f (t.chip c).nextLink] ∧
    ((t.cellCrossed c x f p).chip c).gptr = (t.chip c).gptr ∧ ((t.cellCrossed c x f p).chip c).aptr = (t.chip c).aptr := by
  unfold Tray.cellCrossed
  have hlone : (t.modChip c (ChipSt.linkGiven x p.inPort f)).pkts c = [p] := by
    rw [← hp]
    unfold Tray.pkts
    rw [Tray.chip_modChip]
    rfl
  refine ⟨?_, ?_, ?_⟩
  · rw [Tray.pkts_congr c (u := Tray.energy ..) (Tray.chip_energy ..), Tray.pkts_congr c (u := Tray.energy ..) (Tray.chip_energy ..)]
    exact Tray.pkts_modPkt_lone hlone (CorePkt.not_spent (List.cons_ne_nil _ _))
  all_goals
    simp [Tray.modPkt, Tray.setPkts, ChipSt.linkGiven]

end

/-! ### One slot (R195) -/

section
variable {t : Tray} {c x f n : Nat} {p : CorePkt}

/-- The pointers of the slice stand where `a` left them. -/
theorem Tray.sliceSlot_once {a : List Req} (hiter : t.gf (chipPg c 0x050) F.SCHED_CFG_ITER = n + 1)
    (hfirst : t.matchIter c x (t.requests c x) [] = a) (hrest : ∀ u : Tray, u.matchIter c x (t.requests c x) a = []) :
    t.sliceSlot c x [] =
      (t.movePtrs c x a).each ((a.map (fun r => r.id)).foldl (fun l i => if l.contains i then l else l ++ [i]) [])
        (fun t i => t.moveCell c x i ((a.filter (fun r => r.id == i)).map (fun r => r.out))) := by
  unfold Tray.sliceSlot
  dsimp only
  rw [show t.circPre c x [] = [] from rfl, hiter, t.matching_once c x hfirst hrest n]

/-- Without requests a slice's slot changes nothing that is read. -/
theorem Tray.sliceSlot_idle (hiter : t.gf (chipPg c 0x050) F.SCHED_CFG_ITER = n + 1) (hreq : t.requests c x = []) :
    t.sliceSlot c x [] = t.modChip c id := by
  have hnone (u : Tray) : u.matchIter c x (t.requests c x) [] = [] := by
    rw [hreq]
    exact u.matchIter_taken c x (List.forall_mem_nil _)
  exact Tray.sliceSlot_once hiter (hnone t) hnone

/-- The slot of the lone packet's slice: its request is matched, and the cell crosses. -/
theorem Tray.sliceSlot_lone (hiter : t.gf (chipPg c 0x050) F.SCHED_CFG_ITER = n + 1) (hp : t.pkts c = [p])
    (hcirc : p.circ = none) (hheld : p.held = false) (hcopies : p.copies = [{ port := f }]) (hres : p.residue = [])
    (hcell : p.crossed < p.accts.length) (hin : p.inPort < 64) (hf : f < 64) (hx : p.flowSlice = x) :
    t.sliceSlot c x [] = (t.movePtrs c x [t.requestOf c x p f]).cellCrossed c x f p := by
  have hreq : t.requests c x = [t.requestOf c x p f] := by
    have haccts : p.accts ≠ [] := fun h => by simp [h] at hcell
    rw [Tray.requests_lone x hp hcirc, if_pos hx, CorePkt.wants_unlinked hcopies hheld haccts]
    rfl
  have hone := Tray.sliceSlot_once (x := x) (a := [t.requestOf c x p f]) hiter (hreq ▸ t.matchIter_lone c x hin hf)
    fun u => u.matchIter_taken c x (hreq ▸ fun a ha => ⟨a, ha, rfl⟩)
  have hmoved : (t.movePtrs c x [t.requestOf c x p f]).pkts c = [p] := by
    rw [← hp, Tray.movePtrs_eq]
    unfold Tray.pkts
    rw [Tray.chip_modChip]
    rfl
  rw [hone, ← Tray.moveCell_lone hmoved hcirc hcopies hres hcell]
  simp [Tray.requestOf, Tray.each]

/-- Slots of slices on which the lone packet does not request. -/
theorem Tray.slots_idle (l : List Nat) (hiter : t.gf (chipPg c 0x050) F.SCHED_CFG_ITER = n + 1) (hp : t.pkts c = [p])
    (hcirc : p.circ = none) (hl : p.flowSlice ∉ l) :
    (t.each l (fun t x => t.sliceSlot c x [])).chip c = t.chip c ∧
    t.CoreStays (t.each l (fun t x => t.sliceSlot c x [])) (fun _ _ => False) := by
  refine Tray.each_keeps (fun u => u.chip c = t.chip c ∧ t.CoreStays u (fun _ _ => False)) _ l (fun u x hx hu => ?_) t
    ⟨rfl, .refl ..⟩
  obtain ⟨hchip, hstay⟩ := hu
  have hiter' := (Tray.keepsRegs_gf hstay.stays.regs (chipPg c 0x050) F.SCHED_CFG_ITER (by decide) not_false).trans hiter
  have hreq := Tray.requests_lone x ((Tray.pkts_congr c hchip).trans hp) hcirc
  rw [if_neg fun h : p.flowSlice = x => hl (h ▸ hx)] at hreq
  rw [Tray.sliceSlot_idle hiter' hreq]
  exact ⟨(Tray.chip_modChip ..).trans hchip, hstay.modChip ..⟩

/-- The slot of its slice: the packet's cell crosses, and the pointers of its pair move. -/
theorem Tray.sliceSlot_matches (hiter : t.gf (chipPg c 0x050) F.SCHED_CFG_ITER = n + 1) (hp : t.pkts c = [p])
    (hcirc : p.circ = none) (hheld : p.held = false) (hcopies : p.copies = [{ port := f }]) (hres : p.residue = [])
    (hcell : p.crossed < p.accts.length) (hin : p.inPort < 64) (hf : f < 64) :
    (t.sliceSlot c p.flowSlice []).pkts c = [p.crossedTo f (t.chip c).nextLink] ∧
    Assoc.get (fun _ => 0) ((t.sliceSlot c p.flowSlice []).chip c).gptr (p.flowSlice * 64 + f) = (p.inPort + 1) % 64 ∧
    Assoc.get (fun _ => 0) ((t.sliceSlot c p.flowSlice []).chip c).aptr (p.flowSlice * 64 + p.inPort) = (f + 1) % 64 ∧
    t.CoreStays (t.sliceSlot c p.flowSlice []) (sliceReg c) := by
  rw [Tray.sliceSlot_lone hiter hp hcirc hheld hcopies hres hcell hin hf rfl]
  have hchip : (t.movePtrs c p.flowSlice [t.requestOf c p.flowSlice p f]).chip c =
      (t.chip c).pointed p.flowSlice (t.requestOf c p.flowSlice p f) := Tray.chip_modChip ..
  have hmoved : (t.movePtrs c p.flowSlice [t.requestOf c p.flowSlice p f]).pkts c = [p] :=
    (congrArg ChipSt.pkts hchip).trans hp
  obtain ⟨hpkts, hgptr, haptr⟩ := Tray.cellCrossed_chip (x := p.flowSlice) (f := f) hmoved
  rw [hchip] at hpkts hgptr haptr
  refine ⟨hpkts, ?_, ?_, ((Tray.CoreStays.refl t _).modChip ..).trans (Tray.cellCrossed_stays (Nat.mod_lt _ (by decide)))⟩
  · rw [hgptr]
    exact Assoc.get_set_self ..
  · rw [haptr]
    exact Assoc.get_set_self ..

/-- A slot of the four slices splits at the lone packet's slice. -/
theorem sliceList_split (p : CorePkt) :
    ∃ l1 l2, [0, 1, 2, 3] = l1 ++ p.flowSlice :: l2 ∧ p.flowSlice ∉ l1 ∧ p.flowSlice ∉ l2 := by
  have hlt : p.flowSlice < 4 := Nat.mod_lt _ (by decide)
  obtain ⟨l1, l2, hsplit⟩ := List.append_of_mem (show p.flowSlice ∈ [0, 1, 2, 3] by simp; omega)
  have hnodup : (l1 ++ p.flowSlice :: l2).Nodup := hsplit ▸ by decide
  have hnot := List.nodup_middle.1 hnodup
  rw [List.nodup_cons, List.mem_append, not_or] at hnot
  exact ⟨l1, l2, hsplit, hnot.1.1, hnot.1.2⟩

end

section
variable {s : State} {c : Fin 5} {p : CorePkt} {f : Nat}

theorem coreReg_of_sliceReg {c q o : Nat} (h : sliceReg c q o) : coreReg c q o := by
  obtain ⟨rfl, ho⟩ := h
  exact coreReg_page (by decide) (by decide) (by omega)

/-- What a slot leaves of the lone packet that is matched, and of the pointers of its pair. -/
theorem Tray.schedSlot_lone {t : Tray} {c : Nat} (hruns : t.chipRuns c = true)
    (hon : t.enabled (chipPg c 0x050) = true) (hiter : 1 ≤ t.gf (chipPg c 0x050) F.SCHED_CFG_ITER) (hp : t.pkts c = [p])
    (hcirc : p.circ = none) (hheld : p.held = false) (hcopies : p.copies = [{ port := f }]) (hres : p.residue = [])
    (hin : p.inPort < 64) (hf : f < 64) (hcell : p.crossed < p.accts.length) :
    (t.schedSlot c []).pkts c = [p.crossedTo f (t.chip c).nextLink] ∧
    Assoc.get (fun _ => 0) ((t.schedSlot c []).chip c).gptr (p.flowSlice * 64 + f) = (p.inPort + 1) % 64 ∧
    Assoc.get (fun _ => 0) ((t.schedSlot c []).chip c).aptr (p.flowSlice * 64 + p.inPort) = (f + 1) % 64 ∧
    t.CoreStays (t.schedSlot c []) (sliceReg c) := by
  obtain ⟨n, hn⟩ := Nat.exists_eq_add_of_le' hiter
  obtain ⟨l1, l2, hsplit, hl1, hl2⟩ := sliceList_split p
  have hrun : t.schedSlot c [] = ((t.each l1 (fun t x => t.sliceSlot c x [])).sliceSlot c p.flowSlice []).each l2
      (fun t x => t.sliceSlot c x []) := by
    refine (if_pos ⟨hruns, hon⟩).trans ?_
    unfold Tray.each
    rw [hsplit, List.foldl_append, List.foldl_cons]
  obtain ⟨hchip1, hstay1⟩ := Tray.slots_idle l1 hn hp hcirc hl1
  rw [hrun]
  generalize t.each l1 (fun t x => t.sliceSlot c x []) = u at hchip1 hstay1 ⊢
  have hiter1 := (Tray.keepsRegs_gf hstay1.stays.regs (chipPg c 0x050) F.SCHED_CFG_ITER (by decide) not_false).trans hn
  have hp1 := (Tray.pkts_congr c hchip1).trans hp
  obtain ⟨hpkts, hgptr, haptr, hstay2⟩ := Tray.sliceSlot_matches hiter1 hp1 hcirc hheld hcopies hres hcell hin hf
  have hiter2 := (Tray.keepsRegs_gf hstay2.stays.regs (chipPg c 0x050) F.SCHED_CFG_ITER (by decide)
    fun h => absurd h.2 (by decide)).trans hiter1
  obtain ⟨hchip3, hstay3⟩ := Tray.slots_idle l2 hiter2 hpkts hcirc hl2
  rw [hchip1] at hpkts
  rw [Tray.pkts_congr c hchip3, hchip3]
  exact ⟨hpkts, hgptr, haptr, ((hstay1.mono fun _ _ => False.elim).trans hstay2).trans (hstay3.mono fun _ _ => False.elim)⟩

theorem schedSlot_matches (hruns : s.tray.chipRuns c.val = true) (hon : s.tray.enabled (chipPg c.val 0x050) = true)
    (hiter : 1 ≤ s.tray.gf (chipPg c.val 0x050) F.SCHED_CFG_ITER) (hp : s.tray.pkts c.val = [p]) (hcirc : p.circ = none)
    (hheld : p.held = false) (hcopies : p.copies = [{ port := f }]) (hres : p.residue = []) (hin : p.inPort < 64)
    (hf : f < 64) (hcell : p.crossed < p.accts.length) :
    Completes (.schedSlot c []) s (fun t =>
      t.tray.pkts c.val = [p.crossedTo f (s.tray.chip c.val).nextLink] ∧
      Assoc.get (fun _ => 0) (t.tray.chip c.val).gptr (p.flowSlice * 64 + f) = (p.inPort + 1) % 64 ∧
      Assoc.get (fun _ => 0) (t.tray.chip c.val).aptr (p.flowSlice * 64 + p.inPort) = (f + 1) % 64 ∧
      s.tray.keepsRegs t.tray (coreReg c.val) ∧ t.tray.ports = s.tray.ports ∧ t.tray.mem = s.tray.mem) := by
  obtain ⟨hpkts, hgptr, haptr, hstay⟩ := Tray.schedSlot_lone hruns hon hiter hp hcirc hheld hcopies hres hin hf hcell
  refine completes_run (exec_schedSlot ..) rfl fun t ht => ⟨(Tray.pkts_congr _ (ht.chip _)).trans hpkts, ?_, ?_,
    ht.coreStays (hstay.mono fun _ _ => coreReg_of_sliceReg)⟩
  · rw [ht.chip]
    exact hgptr
  · rw [ht.chip]
    exact haptr

end

/-! ### A residue entry becomes ready (R211, R212) -/

section
variable {t : Tray} {c f : Nat} {p : CorePkt}

/-- The packet linked to the member it waited for, as number `order`. -/
def CorePkt.resolvedTo (f order : Nat) (p : CorePkt) : CorePkt :=
  { p with residue := [], inResidue := false, via := none, copies := [{ port := f, linked := true, order := order }] }

/-- No earlier packet holds a lone packet's members back. -/
theorem Tray.resHolds_lone (hp : t.pkts c = [p]) (f : Nat) : t.resHolds c p f = false := by
  unfold Tray.resHolds
  rw [hp, List.any_cons, List.any_nil, decide_eq_false (Nat.lt_irrefl _)]
  simp

/-- The ready member becomes a copy not yet linked. -/
def CorePkt.readyFor (f : Nat) (p : CorePkt) : CorePkt :=
  { p with judged := true, copies := p.copies ++ [{ port := f }], residue := [], via := none }

theorem Tray.judge_ready (hp : t.pkts c = [p]) (hres : p.residue = [f]) (hup : t.pst c f = S.UP)
    (hstorm : t.storm c f p.cls = false) (hpass : t.passes c f p.cls = true) :
    t.judge c p = t.modPkt c p.id (CorePkt.readyFor f) := by
  have hlive : t.live c f = true := Tray.live_of_pst hup (by decide)
  have hready : t.memberReady c p f = true := by
    unfold Tray.memberReady
    rw [(t.up_iff c f).2 hup, hpass, Tray.resHolds_lone hp]
    rfl
  unfold Tray.judge
  simp [hres, hlive, hstorm, hready, Tray.each]
  rfl

/-- A retry leaves the copy linked as number `order`, and in the residue queue only an entry with members left. -/
def CorePkt.retried (f order : Nat) (p : CorePkt) : CorePkt :=
  { p with copies := [{ port := f, linked := true, order := order }], via := none, inResidue := p.residue ≠ [] }

theorem CorePkt.retried_readyFor {order : Nat} (hjudged : p.judged = true) :
    (p.readyFor f).retried f order = p.resolvedTo f order := by
  simp [CorePkt.retried, CorePkt.readyFor, CorePkt.resolvedTo, hjudged]

/-- The tray once the lone entry's member is linked. -/
def Tray.residueLinked (t : Tray) (c f : Nat) (p : CorePkt) : Tray :=
  ((t.modPkt c p.id (CorePkt.readyFor f)).modChip c (fun ch => { ch with nextLink := (t.chip c).nextLink + 1 })).modPkt c p.id
    (CorePkt.retried f (t.chip c).nextLink)

theorem Tray.resRetry1_ready (hp : t.pkts c = [p]) (hin : p.inResidue = true) (hres : p.residue = [f])
    (hcopies : p.copies = []) (hup : t.pst c f = S.UP) (hstorm : t.storm c f p.cls = false)
    (hpass : t.passes c f p.cls = true) : t.resRetry1 c p.id = t.residueLinked c f p := by
  have hlink : ((t.modPkt c p.id (CorePkt.readyFor f)).chip c).nextLink = (t.chip c).nextLink := by
    unfold Tray.modPkt Tray.setPkts
    rw [Tray.chip_modChip]
  have hfound : (t.modPkt c p.id (CorePkt.readyFor f)).findPkt c p.id = some (p.readyFor f) :=
    Tray.findPkt_modPkt (Tray.findPkt_lone hp) rfl (CorePkt.not_spent (by simp [CorePkt.readyFor]))
  unfold Tray.resRetry1
  rw [Tray.findPkt_lone hp]
  dsimp only
  rw [if_neg (not_not.2 hin), Tray.judge_ready hp hres hup hstorm hpass, hfound]
  dsimp only
  rw [hlink, show (p.readyFor f).copies = [{ port := f }] by simp [CorePkt.readyFor, hcopies]]
  rfl

theorem Tray.residueLinked_chip (hp : t.pkts c = [p]) (hjudged : p.judged = true) :
    (t.residueLinked c f p).pkts c = [p.resolvedTo f (t.chip c).nextLink] ∧
    ((t.residueLinked c f p).chip c).resWait = (t.chip c).resWait := by
  have hready : (t.modPkt c p.id (CorePkt.readyFor f)).pkts c = [p.readyFor f] :=
    Tray.pkts_modPkt_lone hp (CorePkt.not_spent (by simp [CorePkt.readyFor]))
  have hlone : ((t.modPkt c p.id (CorePkt.readyFor f)).modChip c
      (fun ch => { ch with nextLink := (t.chip c).nextLink + 1 })).pkts c = [p.readyFor f] := by
    rw [← hready]
    unfold Tray.pkts
    rw [Tray.chip_modChip]
  unfold Tray.residueLinked
  constructor
  · rw [← CorePkt.retried_readyFor hjudged]
    exact Tray.pkts_modPkt_lone hlone (CorePkt.not_spent (List.cons_ne_nil _ _))
  · simp [Tray.modPkt, Tray.setPkts]

theorem Tray.residueRetry_ready (hruns : t.chipRuns c = true) (hp : t.pkts c = [p]) (hin : p.inResidue = true)
    (hjudged : p.judged = true) (hres : p.residue = [f]) (hcopies : p.copies = []) (hup : t.pst c f = S.UP)
    (hstorm : t.storm c f p.cls = false) (hpass : t.passes c f p.cls = true) (hwait : (t.chip c).resWait = []) :
    t.residueRetry c = t.residueLinked c f p := by
  obtain ⟨-, hwait'⟩ := Tray.residueLinked_chip (f := f) hp hjudged
  have hids : (t.pkts c).filterMap (fun p => if p.inResidue then some p.id else none) = [p.id] := by
    rw [hp, List.filterMap_cons, hin]
    rfl
  have hone : t.each [p.id] (fun t i => t.resRetry1 c i) = t.residueLinked c f p :=
    Tray.resRetry1_ready hp hin hres hcopies hup hstorm hpass
  unfold Tray.residueRetry
  dsimp only
  rw [if_pos hruns, hids, hone, hwait'.trans hwait]
  rfl

end

theorem residueRetry_links {s : State} {c : Fin 5} {p : CorePkt} {f : Nat} (hruns : s.tray.chipRuns c.val = true)
    (hp : s.tray.pkts c.val = [p]) (hin : p.inResidue = true) (hjudged : p.judged = true) (hres : p.residue = [f])
    (hcopies : p.copies = []) (hup : s.tray.pst c.val f = S.UP) (hstorm : s.tray.storm c.val f p.cls = false)
    (hpass : s.tray.passes c.val f p.cls = true) (hwait : (s.tray.chip c.val).resWait = []) :
    Completes (.residueRetry c) s (fun t =>
      t.tray.pkts c.val = [p.resolvedTo f (s.tray.chip c.val).nextLink] ∧
      s.tray.keepsRegs t.tray (fun _ _ => False) ∧ t.tray.ports = s.tray.ports ∧ t.tray.mem = s.tray.mem) := by
  have hrun := Tray.residueRetry_ready hruns hp hin hjudged hres hcopies hup hstorm hpass hwait
  obtain ⟨hpkts, -⟩ := Tray.residueLinked_chip (f := f) hp hjudged
  have hstay : s.tray.CoreStays (s.tray.residueLinked c.val f p) (fun _ _ => False) :=
    (((Tray.CoreStays.refl ..).modPkt ..).modChip ..).modPkt ..
  exact completes_run (exec_residueRetry ..) hrun fun t ht =>
    ⟨(Tray.pkts_congr _ (ht.chip _)).trans hpkts, ht.coreStays hstay⟩

/-- Settles O29: a slot by the lone packet's slice among the four, the retry by what judging the lone entry finds. -/
theorem slotsMatchRequests : Obligations.SlotsMatchRequests := fun _ _ =>
  ⟨fun _ _ hruns hon hiter hp hcirc hheld hcopies hres hin hf hcell =>
      schedSlot_matches hruns hon hiter hp hcirc hheld hcopies hres hin hf hcell,
    fun _ _ hruns hp hin hjudged hres hcopies hup hstorm hpass hwait =>
      residueRetry_links hruns hp hin hjudged hres hcopies hup hstorm hpass hwait⟩

end Sys2Proof.Machine
end

section
/-! SUPPORT. The deck ring (R217–R220, R228): what sending on a link leaves, the ring's registers, hops that go down and come up. -/
namespace Sys2Proof.Machine

theorem exec_deckInject (n : Fin 6) (ccw ctrl : Bool) (s : State) :
    exec (.deckInject n ccw ctrl) s = .next (s.run (fun t => t.deckSend n.val ccw ctrl)) := rfl
theorem exec_deckPacketReceive (n : Fin 6) (p : RingPkt) (s : State) :
    exec (.deckPacketReceive n p) s =
      .next (s.runD (fun t => t.deckReceive n.val p (fun t p => t.ringConsume p) (fun t p => t.ringLost p))) := rfl
theorem exec_deckHopDown (n : Fin 6) (s : State) :
    exec (.deckHopDown n) s = .next (s.runD (fun t => t.deckHopDown n.val (fun t p => t.ringLost p))) := rfl
theorem exec_deckRetrain (c : Fin 5) (s : State) :
    exec (.deckRetrain c) s = .next (s.run (fun t => t.write8 0 c.val 0x330 A.DECK_CTL
      (F.DECK_CTL_RETRAIN.put (t.rd (chipPg c.val 0x330) A.DECK_CTL) 1))) := rfl
theorem exec_deckHopUp (n : Fin 6) (s : State) : exec (.deckHopUp n) s = .next (s.run (fun t => t.hopTrain n.val)) := rfl

/-! ### Updates of registers and of ring nodes -/

/-- Only registers in `R` and records of ring nodes change: no chip, no job slot, no byte of tensor memory. -/
structure Tray.RingStays (t u : Tray) (R : Nat → Nat → Prop) : Prop where
  regs : t.keepsRegs u R
  chips : u.chips = t.chips
  dealers : u.dealers = t.dealers
  mem : u.mem = t.mem

namespace Tray.RingStays
variable {t u v : Tray} {R Q : Nat → Nat → Prop}

theorem refl (t : Tray) (R : Nat → Nat → Prop) : t.RingStays t R := ⟨t.keepsRegs_refl R, rfl, rfl, rfl⟩
theorem trans (a : t.RingStays u R) (b : u.RingStays v R) : t.RingStays v R :=
  ⟨Tray.keepsRegs_trans a.regs b.regs, b.chips.trans a.chips, b.dealers.trans a.dealers, b.mem.trans a.mem⟩
theorem mono (a : t.RingStays u R) (h : ∀ q o, R q o → Q q o) : t.RingStays u Q :=
  ⟨Tray.keepsRegs_mono a.regs h, a.chips, a.dealers, a.mem⟩
theorem and (a : t.RingStays u R) (h : u.Stays v R) : t.RingStays v R := by
  obtain ⟨hchips, -, -, -, -, hdealers, -, hmem⟩ := h.blocks
  exact a.trans ⟨h.regs, hchips, hdealers, hmem⟩
theorem modNode (a : t.RingStays u R) (n : Nat) (f : NodeSt → NodeSt) : t.RingStays (u.modNode n f) R :=
  ⟨a.regs, a.chips, a.dealers, a.mem⟩
theorem each {α : Type} (l : List α) (f : Tray → α → Tray) (h : ∀ (w : Tray) a, a ∈ l → w.RingStays (f w a) R)
    (a : t.RingStays u R) : t.RingStays (u.each l f) R :=
  Tray.each_keeps (fun w => t.RingStays w R) f l (fun w x hx hw => hw.trans (h w x hx)) u a
theorem settled (a : t.RingStays u R) {c : Nat} (h : t.settled c) : u.settled c := (Tray.settled_congr a.dealers c).2 h
theorem chip (a : t.RingStays u R) (c : Nat) : u.chip c = t.chip c := by
  unfold Tray.chip
  rw [a.chips]

end Tray.RingStays

theorem State.Like.ringStays {s : State} {t u : Tray} {R : Nat → Nat → Prop} (h : s.Like u) (a : t.RingStays u R) :
    t.keepsRegs s.tray R ∧ s.tray.mem = t.mem := ⟨h.keepsRegs a.regs, h.mem.trans a.mem⟩

section
variable (t : Tray) (n : Nat)

theorem Tray.node_modNode_ne {m : Nat} (f : NodeSt → NodeSt) (h : m ≠ n) : (t.modNode n f).node m = t.node m :=
  Assoc.get_set_ne _ _ _ _ h

/-- A part of the nodes that a change of one node leaves, on every node. -/
theorem Tray.node_modNode_keeps {α : Type} {f : NodeSt → NodeSt} (part : NodeSt → α) (h : ∀ x, part (f x) = part x) (m : Nat) :
    part ((t.modNode n f).node m) = part (t.node m) := by
  by_cases hm : m = n
  · rw [hm, Tray.node_modNode]
    exact h _
  · rw [t.node_modNode_ne n f hm]

theorem Tray.hopUp_congr {t u : Tray} (h : ∀ k, (u.node k).cwHop = (t.node k).cwHop) (n : Nat) (ccw : Bool) :
    u.hopUp n ccw = t.hopUp n ccw := by
  unfold Tray.hopUp
  rw [h]

theorem Tray.hopUp_modNode {f : NodeSt → NodeSt} (h : ∀ x, (f x).cwHop = x.cwHop) (m : Nat) (ccw : Bool) :
    (t.modNode n f).hopUp m ccw = t.hopUp m ccw :=
  Tray.hopUp_congr (t.node_modNode_keeps n NodeSt.cwHop h) m ccw

end

theorem hopTo_ne (n : Nat) (ccw : Bool) : hopTo n ccw ≠ n := by
  unfold hopTo ccwOf cwOf
  split <;> omega

theorem deckPg_inj {a b : Nat} : deckPg a = deckPg b ↔ a = b := by
  unfold deckPg chipPg
  omega

theorem deckPg_mod (n : Nat) : deckPg n % 4096 = 0x330 := chipPg_mod n 0x330 (by decide)

/-- A node's page defines its interrupt bits 8 and 9 (R228). -/
theorem irqUp_deckPg (t : Tray) {c b : Nat} (hc : c < 5) (hb : b = 8 ∨ b = 9) : (t.raise (deckPg c) b).irqUp (deckPg c) b := by
  refine t.irqUp_raise _ _ ?_ (by omega)
  have hmask : irqMask (deckPg c) = 0x300 := by
    unfold irqMask deckPg
    rw [pageKind_chipPg c 0x330 hc (by decide)]
    rfl
  unfold irqDefined
  rw [hmask]
  rcases hb with rfl | rfl <;> rfl

/-! ### A packet on the link (R219, R220) -/

/-- Registers that sending a packet writes: those of the node's page beyond its header, and what charging a seat writes. -/
def ringReg (n q o : Nat) : Prop := (q = deckPg n ∧ 0x100 ≤ o) ∨ chargeReg n q o

section
variable (t : Tray) (n : Nat) {p : RingPkt}

/-- The packet joins the retry buffer, which holds the last eight sent. -/
def NodeSt.sent (p : RingPkt) (x : NodeSt) : NodeSt :=
  let d := ringQ (rCcw p) (rCtrl p)
  { x with retry := NodeSt.setQ x.retry d (((NodeSt.q x.retry d) ++ [p]).drop ((NodeSt.q x.retry d).length + 1 - 8)) }

/-- The counts of a packet sent: the bytes of its direction and class, and those of its seat. -/
def Tray.ringCounted (t : Tray) (n : Nat) (p : RingPkt) : Tray :=
  if n < 5 then
    (t.cnt (deckPg n) (F.DECK_BYTES_BYTES.at (8 * ((if rCtrl p then 0 else 2) + b2n (rCcw p)))) (ringSize p)).charge n (rSeat p)
      N.DECK_BYTES (ringSize p)
  else t

theorem Tray.ringTx_eq (p : RingPkt) :
    t.ringTx n p = ((t.modNode n (NodeSt.sent p)).ringCounted n p).emit (.ring n (b2n (rCcw p)) p) := rfl

theorem Tray.ringCounted_stays (hseat : rSeat p < 64) : t.Stays (t.ringCounted n p) (ringReg n) := by
  have hidx : (if rCtrl p then 0 else 2) + b2n (rCcw p) < 4 := by
    cases rCtrl p <;> cases rCcw p <;> decide
  unfold Tray.ringCounted
  split
  · generalize (if rCtrl p then 0 else 2) + b2n (rCcw p) = i at hidx
    have hoff : (F.DECK_BYTES_BYTES.at (8 * i)).off = 0x118 + 8 * i := rfl
    exact ((Tray.Stays.refl t _).cnt _ (.inl ⟨rfl, by omega⟩) (by omega)).charged n _ hseat (by decide)
      fun _ _ h => .inr (chargeReg_of_charged hseat h)
  · exact .refl ..

theorem Tray.ringTx_stays (hseat : rSeat p < 64) : t.RingStays (t.ringTx n p) (ringReg n) := by
  rw [Tray.ringTx_eq]
  exact ((Tray.RingStays.refl t _).modNode ..).and (((Tray.ringCounted_stays _ n hseat)).emit _)

/-- Of the nodes only the sender's retry buffer changes. -/
theorem Tray.ringTx_node (hseat : rSeat p < 64) (m : Nat) : (t.ringTx n p).node m = (t.modNode n (NodeSt.sent p)).node m := by
  obtain ⟨-, -, -, -, -, -, hnodes, -⟩ := (Tray.ringCounted_stays (t.modNode n (NodeSt.sent p)) n hseat).blocks
  rw [Tray.ringTx_eq]
  exact congrArg (Assoc.get (fun _ => ({} : NodeSt)) · m) hnodes

theorem Tray.ringTx_emits (p : RingPkt) : Out.ring n (b2n (rCcw p)) p ∈ (t.ringTx n p).out := List.mem_cons_self

end

/-! ### Injection (R219) -/

section
variable {t : Tray} {n : Nat} {ccw : Bool} {p : RingPkt} {rest : List RingPkt}

/-- The node's queue `d` of packets that wait for injection becomes `l`. -/
def NodeSt.waiting (d : Nat) (l : List RingPkt) (x : NodeSt) : NodeSt := { x with inject := NodeSt.setQ x.inject d l }

/-- CTRL packets go in the order in which they came. -/
theorem Tray.ringNext_ctrl (hq : NodeSt.q (t.node n).inject (ringQ ccw true) = p :: rest) :
    t.ringNext n ccw true = some (p, (t.node n).waiting (ringQ ccw true) rest) := by
  unfold Tray.ringNext
  dsimp only
  rw [if_pos rfl, hq, List.head?_cons, Option.map_some, List.erase_cons_head]
  rfl

/-- The tray once the packet is on its link. -/
def Tray.injected (t : Tray) (n : Nat) (ccw : Bool) (p : RingPkt) (rest : List RingPkt) : Tray :=
  (t.modNode n (NodeSt.waiting (ringQ ccw true) rest)).ringTx n p

theorem Tray.deckSend_ctrl (hon : n < 5 → t.enabled (deckPg n) = true) (hup : t.hopUp n ccw = true)
    (hfree : (NodeSt.q (t.node n).transit (ringQ ccw true)).length ≤ 2)
    (hq : NodeSt.q (t.node n).inject (ringQ ccw true) = p :: rest) :
    t.deckSend n ccw true =
      if n < 5 then ((t.injected n ccw p rest).free 32).2.wmMax (deckPg n) F.DECK_INJ_WAIT_MAX_NS
        ((t.injected n ccw p rest).free 32).1
      else t.injected n ccw p rest := by
  have hbubble : ¬ (¬ t.hopUp n ccw = true ∨ ringCap true < (NodeSt.q (t.node n).transit (ringQ ccw true)).length + 2) := by
    rw [show ringCap true = 4 from rfl]
    exact not_or.2 ⟨not_not.2 hup, by omega⟩
  have hinject : t.deckSend n ccw true = t.deckInject n ccw true := by
    unfold Tray.deckSend
    split
    case isTrue hn => exact if_pos (hon hn)
    case isFalse => rfl
  rw [hinject]
  unfold Tray.deckInject
  dsimp only
  rw [if_neg hbubble, Tray.ringNext_ctrl hq]
  rfl

theorem Tray.deckSend_injects (hon : n < 5 → t.enabled (deckPg n) = true) (hup : t.hopUp n ccw = true)
    (hfree : (NodeSt.q (t.node n).transit (ringQ ccw true)).length ≤ 2)
    (hq : NodeSt.q (t.node n).inject (ringQ ccw true) = p :: rest) (hseat : rSeat p < 64) :
    Out.ring n (b2n (rCcw p)) p ∈ (t.deckSend n ccw true).out ∧
    NodeSt.q ((t.deckSend n ccw true).node n).inject (ringQ ccw true) = rest ∧
    t.RingStays (t.deckSend n ccw true) (ringReg n) := by
  have hout : Out.ring n (b2n (rCcw p)) p ∈ (t.injected n ccw p rest).out := Tray.ringTx_emits ..
  have hrest : NodeSt.q ((t.injected n ccw p rest).node n).inject (ringQ ccw true) = rest := by
    unfold Tray.injected
    rw [Tray.ringTx_node _ _ hseat, Tray.node_modNode, Tray.node_modNode]
    exact Assoc.get_set_self ..
  have hstay : t.RingStays (t.injected n ccw p rest) (ringReg n) :=
    ((Tray.RingStays.refl t _).modNode ..).trans (Tray.ringTx_stays _ n hseat)
  have hdrawn : t.RingStays ((t.injected n ccw p rest).free 32).2 (ringReg n) :=
    ⟨hstay.regs, hstay.chips, hstay.dealers, hstay.mem⟩
  rw [Tray.deckSend_ctrl hon hup hfree hq]
  split
  · have hwait := (Tray.Stays.refl ((t.injected n ccw p rest).free 32).2 (ringReg n)).wmMax (pg := deckPg n)
      (f := F.DECK_INJ_WAIT_MAX_NS) ((t.injected n ccw p rest).free 32).1 (.inl ⟨rfl, by decide⟩) (by decide)
    obtain ⟨-, -, -, -, -, -, hnodes, -⟩ := hwait.blocks
    refine ⟨?_, ?_, hdrawn.and hwait⟩
    · rw [Tray.wmMax_out]
      exact hout
    · unfold Tray.node
      rw [hnodes]
      exact hrest
  · exact ⟨hout, hrest, hstay⟩

end

theorem deckInject_sends {s : State} {n : Fin 6} {ccw : Bool} {p : RingPkt} {rest : List RingPkt}
    (hon : n.val < 5 → s.tray.enabled (deckPg n.val) = true) (hup : s.tray.hopUp n.val ccw = true)
    (hfree : (NodeSt.q (s.tray.node n.val).transit (ringQ ccw true)).length ≤ 2)
    (hq : NodeSt.q (s.tray.node n.val).inject (ringQ ccw true) = p :: rest) (hccw : rCcw p = ccw) (hseat : rSeat p < 64) :
    Completes (.deckInject n ccw true) s (fun t =>
      Out.ring n.val (b2n ccw) p ∈ t.tray.out ∧
      NodeSt.q (t.tray.node n.val).inject (ringQ ccw true) = rest ∧
      s.tray.keepsRegs t.tray (ringReg n.val) ∧ t.tray.mem = s.tray.mem) := by
  obtain ⟨hout, hrest, hstay⟩ := Tray.deckSend_injects hon hup hfree hq hseat
  rw [hccw] at hout
  refine completes_run (exec_deckInject ..) rfl fun t ht => ⟨ht.emits hout, ?_, ht.ringStays hstay⟩
  rw [ht.node]
  exact hrest

/-! ### A packet arrives (R220) -/

section
variable {t : Tray} {n : Nat} {p : RingPkt} (consume lost : Tray → RingPkt → Tray)

/-- The queue number of a packet. -/
def queueOf (p : RingPkt) : Nat := ringQ (rCcw p) (rCtrl p)

/-- The node that a packet arrives from. -/
def cameFrom (n : Nat) (p : RingPkt) : Nat := hopTo n (!rCcw p)

/-- `k` CRC failures in a row on queue `d`. -/
def NodeSt.failed (d k : Nat) (x : NodeSt) : NodeSt := { x with fails := Assoc.set (fun _ => 0) x.fails d k }

/-- A packet has left the node: its transit buffer and retry entry are free. -/
def NodeSt.left (p : RingPkt) (x : NodeSt) : NodeSt :=
  { x with transit := NodeSt.setQ x.transit (queueOf p) ((NodeSt.q x.transit (queueOf p)).erase p),
           retry := NodeSt.setQ x.retry (queueOf p) ((NodeSt.q x.retry (queueOf p)).erase p) }

/-- The packet takes a transit buffer. -/
def NodeSt.transits (p : RingPkt) (x : NodeSt) : NodeSt :=
  { x with transit := NodeSt.setQ x.transit (queueOf p) (NodeSt.q x.transit (queueOf p) ++ [p]) }

/-- The tray once a good packet has passed from the node it comes from. -/
def Tray.ringTaken (t : Tray) (n : Nat) (p : RingPkt) : Tray :=
  (t.modNode n (NodeSt.failed (queueOf p) 0)).modNode (cameFrom n p) (NodeSt.left p)

theorem Tray.ringTaken_hopUp (ccw : Bool) : (t.ringTaken n p).hopUp n ccw = t.hopUp n ccw :=
  (Tray.hopUp_modNode _ _ (f := NodeSt.left p) (fun _ => rfl) n ccw).trans
    (Tray.hopUp_modNode _ _ (f := NodeSt.failed (queueOf p) 0) (fun _ => rfl) n ccw)

/-- A good packet for another node goes on where the hop ahead is up. -/
theorem Tray.deckReceive_forwards (hback : t.hopUp n (!rCcw p) = true) (hok : ringOk p = true) (hfields : ringFieldsOk p = true)
    (hdst : rDst p ≠ n) (hahead : t.hopUp n (rCcw p) = true) :
    t.deckReceive n p consume lost = ((t.ringTaken n p).modNode n (NodeSt.transits p)).ringTx n p := by
  have hahead' : (t.ringTaken n p).hopUp n (rCcw p) = true := (Tray.ringTaken_hopUp _).trans hahead
  unfold Tray.deckReceive
  dsimp only
  rw [if_neg (not_not.2 hback), if_neg (not_not.2 hok), if_neg (not_not.2 hfields), if_neg hdst]
  exact if_pos hahead'

theorem Tray.forwarded_shows (hseat : rSeat p < 64) :
    Out.ring n (b2n (rCcw p)) p ∈ (((t.ringTaken n p).modNode n (NodeSt.transits p)).ringTx n p).out ∧
    p ∈ NodeSt.q ((((t.ringTaken n p).modNode n (NodeSt.transits p)).ringTx n p).node n).transit (queueOf p) ∧
    t.RingStays (((t.ringTaken n p).modNode n (NodeSt.transits p)).ringTx n p) (ringReg n) := by
  refine ⟨Tray.ringTx_emits .., ?_,
    ((((Tray.RingStays.refl t _).modNode ..).modNode ..).modNode ..).trans (Tray.ringTx_stays _ n hseat)⟩
  have hbuffer : ((((t.ringTaken n p).modNode n (NodeSt.transits p)).ringTx n p).node n).transit =
      NodeSt.setQ ((t.ringTaken n p).node n).transit (queueOf p) (NodeSt.q ((t.ringTaken n p).node n).transit (queueOf p) ++ [p]) := by
    rw [Tray.ringTx_node _ _ hseat, Tray.node_modNode, Tray.node_modNode]
    rfl
  rw [hbuffer]
  unfold NodeSt.q NodeSt.setQ
  rw [Assoc.get_set_self]
  exact List.mem_append_right _ (List.mem_singleton.2 rfl)

/-- One more error of the node in the field `f` of DECK_ERR; the bridge has no such register. -/
def Tray.deckErr (t : Tray) (n : Nat) (f : Fld) : Tray := if n < 5 then t.sat (deckPg n) f 1 else t

theorem Tray.deckErr_stays (t : Tray) (n : Nat) {f : Fld} (hf : f.off = A.DECK_ERR) :
    t.Stays (t.deckErr n f) (fun q o => q = deckPg n ∧ o = A.DECK_ERR) := by
  unfold Tray.deckErr
  split
  · exact (Tray.Stays.refl t _).sat 1 ⟨rfl, hf⟩ (by rw [hf]; decide)
  · exact .refl ..

/-- The tray once a packet that fails its CRC is counted and its sender sends its oldest stored packet, `k`, again. -/
def Tray.ringResent (t : Tray) (n : Nat) (p k : RingPkt) : Tray :=
  (((t.modNode n (NodeSt.failed (queueOf p) (Assoc.get (fun _ => 0) (t.node n).fails (queueOf p) + 1))).deckErr n F.DECK_ERR_CRC).deckErr
    (cameFrom n p) F.DECK_ERR_RETRY).emit (.ring (cameFrom n p) (b2n (rCcw p)) k)

theorem Tray.deckReceive_resends {k : RingPkt} {rest : List RingPkt} (hback : t.hopUp n (!rCcw p) = true)
    (hbad : ringOk p = false) (hfew : Assoc.get (fun _ => 0) (t.node n).fails (queueOf p) < 15)
    (hretry : NodeSt.q (t.node (cameFrom n p)).retry (queueOf p) = k :: rest) :
    t.deckReceive n p consume lost = t.ringResent n p k := by
  have hup : ¬ 16 ≤ Assoc.get (fun _ => 0) (t.node n).fails (queueOf p) + 1 := by omega
  unfold queueOf cameFrom at hretry
  unfold queueOf at hup
  unfold Tray.deckReceive
  dsimp only
  rw [if_neg (not_not.2 hback), if_pos (by rw [hbad]; decide), if_neg hup, hretry]
  rfl

theorem Tray.ringResent_shows (t : Tray) (n : Nat) (p k : RingPkt) :
    Out.ring (cameFrom n p) (b2n (rCcw p)) k ∈ (t.ringResent n p k).out ∧
    (n < 5 → (t.ringResent n p k).gf (deckPg n) F.DECK_ERR_CRC =
      min (2 ^ F.DECK_ERR_CRC.w - 1) (t.gf (deckPg n) F.DECK_ERR_CRC + 1)) ∧
    t.RingStays (t.ringResent n p k) (fun q o => (q = deckPg n ∨ q = deckPg (cameFrom n p)) ∧ o = A.DECK_ERR) := by
  refine ⟨List.mem_cons_self, fun hn => ?_, (((Tray.RingStays.refl t _).modNode ..).and
    ((Tray.deckErr_stays _ n rfl).mono fun _ _ h => ⟨.inl h.1, h.2⟩)).and
      (((Tray.deckErr_stays _ _ rfl).mono fun _ _ h => ⟨.inr h.1, h.2⟩).emit _)⟩
  have hother : ∀ u : Tray, (u.deckErr (cameFrom n p) F.DECK_ERR_RETRY).gf (deckPg n) F.DECK_ERR_CRC =
      u.gf (deckPg n) F.DECK_ERR_CRC := fun u =>
    Tray.keepsRegs_gf (Tray.deckErr_stays u _ rfl).regs _ _ (by decide) fun h => hopTo_ne n _ (deckPg_inj.1 h.1).symm
  show Tray.gf (Tray.deckErr _ _ _) _ _ = _
  rw [hother]
  unfold Tray.deckErr
  rw [if_pos hn, Tray.gf_sat_self _ _ _ _ (by decide), satTo_eq_min]
  rfl

end

section
variable {s : State} {n : Fin 6} {p : RingPkt} (hs : ∀ d, d < 5 → s.tray.settled d)
  (hback : s.tray.hopUp n.val (!rCcw p) = true)
include hs hback

theorem deckPacketReceive_forwards (hok : ringOk p = true) (hfields : ringFieldsOk p = true) (hdst : rDst p ≠ n.val)
    (hahead : s.tray.hopUp n.val (rCcw p) = true) (hseat : rSeat p < 64) :
    Completes (.deckPacketReceive n p) s (fun t =>
      Out.ring n.val (b2n (rCcw p)) p ∈ t.tray.out ∧ p ∈ NodeSt.q (t.tray.node n.val).transit (queueOf p) ∧
      s.tray.keepsRegs t.tray (ringReg n.val) ∧ t.tray.mem = s.tray.mem) := by
  obtain ⟨hout, hbuffer, hstay⟩ := Tray.forwarded_shows (t := s.tray) (n := n.val) hseat
  refine completes_runD (exec_deckPacketReceive ..) (Tray.deckReceive_forwards _ _ hback hok hfields hdst hahead)
    (fun d hd => hstay.settled (hs d hd)) fun t ht => ⟨ht.emits hout, ?_, ht.ringStays hstay⟩
  rw [ht.node]
  exact hbuffer

theorem deckPacketReceive_resends {k : RingPkt} {rest : List RingPkt} (hbad : ringOk p = false)
    (hfew : Assoc.get (fun _ => 0) (s.tray.node n.val).fails (queueOf p) < 15)
    (hretry : NodeSt.q (s.tray.node (cameFrom n.val p)).retry (queueOf p) = k :: rest) :
    Completes (.deckPacketReceive n p) s (fun t =>
      Out.ring (cameFrom n.val p) (b2n (rCcw p)) k ∈ t.tray.out ∧
      (n.val < 5 → t.tray.gf (deckPg n.val) F.DECK_ERR_CRC =
        min (2 ^ F.DECK_ERR_CRC.w - 1) (s.tray.gf (deckPg n.val) F.DECK_ERR_CRC + 1)) ∧
      s.tray.keepsRegs t.tray (fun q o => (q = deckPg n.val ∨ q = deckPg (cameFrom n.val p)) ∧ o = A.DECK_ERR) ∧
      t.tray.mem = s.tray.mem) := by
  obtain ⟨hout, hcrc, hstay⟩ := s.tray.ringResent_shows n.val p k
  refine completes_runD (exec_deckPacketReceive ..) (Tray.deckReceive_resends _ _ hback hbad hfew hretry)
    (fun d hd => hstay.settled (hs d hd)) fun t ht => ⟨ht.emits hout, fun hn => ?_, ht.ringStays hstay⟩
  rw [ht.gf]
  exact hcrc hn

end

/-! ### DECK_STS shows the hops (R220, R228) -/

/-- Registers that showing the hops writes. -/
def hopReg (q o : Nat) : Prop := q % 4096 = 0x330 ∧ (o = A.DECK_STS ∨ o = 0x20)

/-- Some hop is not up. -/
def Tray.chained (t : Tray) : Bool := (List.range 6).any (fun k => (t.node k).cwHop != 2)

/-- DECK_STS of chip `c` in `u` shows the hops of `t`. -/
def Tray.HopsShown (t u : Tray) (c : Nat) : Prop :=
  u.is (deckPg c) F.DECK_STS_CHAIN = t.chained ∧ u.is (deckPg c) F.DECK_STS_CW_UP = t.hopUp c false ∧
    u.is (deckPg c) F.DECK_STS_CCW_UP = t.hopUp c true

/-- DECK_STS of chip `c` is brought up to date. -/
def Tray.showHop (chain : Bool) (t : Tray) (c : Nat) : Tray :=
  if ¬ (t.chip c).coreUp then t
  else
    let pg := deckPg c
    let t1 := (t.sb pg F.DECK_STS_CW_UP (t.hopUp c false)).sb pg F.DECK_STS_CCW_UP (t.hopUp c true)
    if t1.is pg F.DECK_STS_CHAIN = chain then t1 else (t1.sb pg F.DECK_STS_CHAIN chain).raise pg 9

section
variable (t : Tray)

theorem Tray.showHops_eq : t.showHops = t.each (List.range 5) (Tray.showHop t.chained) := rfl

theorem Tray.showHop_stays (chain : Bool) (c : Nat) :
    t.Stays (t.showHop chain c) (fun q o => q = deckPg c ∧ (o = A.DECK_STS ∨ o = 0x20)) := by
  unfold Tray.showHop
  split
  · exact .refl ..
  · extract_lets pg t1
    have hways : t.Stays t1 (fun q o => q = deckPg c ∧ (o = A.DECK_STS ∨ o = 0x20)) :=
      ((Tray.Stays.refl t _).sb _ ⟨rfl, .inl rfl⟩ (by decide)).sb _ ⟨rfl, .inl rfl⟩ (by decide)
    split
    · exact hways
    · exact (hways.sb _ ⟨rfl, .inl rfl⟩ (by decide)).raise _ ⟨rfl, .inr rfl⟩

theorem Tray.is_sb_self (t : Tray) (pg : Nat) (f : Fld) (b : Bool) (hf : f.lo + f.w ≤ 64) (hw : f.w = 1) :
    (t.sb pg f b).is pg f = b := by
  unfold Tray.is
  rw [Tray.gf_sb_self _ _ _ _ hf, hw]
  cases b <;> rfl

theorem Tray.is_sb_ne (t : Tray) (pg : Nat) (f : Fld) (b : Bool) (g : Fld) (hf : f.lo + f.w ≤ 64) (hg : g.lo + g.w ≤ 64)
    (h : g.off % 4096 ≠ f.off % 4096 ∨ g.off = f.off ∧ (g.lo + g.w ≤ f.lo ∨ f.lo + f.w ≤ g.lo)) :
    (t.sb pg f b).is pg g = t.is pg g := by
  unfold Tray.is
  rw [Tray.gf_sb_ne _ _ _ _ _ hf hg h]

theorem Tray.showHop_shows (chain : Bool) {c : Nat} (hup : (t.chip c).coreUp = true) :
    (t.showHop chain c).is (deckPg c) F.DECK_STS_CHAIN = chain ∧
    (t.showHop chain c).is (deckPg c) F.DECK_STS_CW_UP = t.hopUp c false ∧
    (t.showHop chain c).is (deckPg c) F.DECK_STS_CCW_UP = t.hopUp c true := by
  unfold Tray.showHop
  rw [if_neg (not_not.2 hup)]
  extract_lets pg t1
  have hways : t1.is pg F.DECK_STS_CW_UP = t.hopUp c false ∧ t1.is pg F.DECK_STS_CCW_UP = t.hopUp c true := by
    refine ⟨?_, Tray.is_sb_self _ _ _ _ (by decide) rfl⟩
    rw [Tray.is_sb_ne _ _ _ _ _ (by decide) (by decide) (by decide), Tray.is_sb_self _ _ _ _ (by decide) rfl]
  obtain ⟨hcw, hccw⟩ := hways
  split
  case isTrue hsame => exact ⟨hsame, hcw, hccw⟩
  case isFalse =>
    refine ⟨?_, ?_, ?_⟩ <;> rw [Tray.is_raise_off _ _ _ _ _ (by decide)]
    · exact Tray.is_sb_self _ _ _ _ (by decide) rfl
    · rw [Tray.is_sb_ne _ _ _ _ _ (by decide) (by decide) (by decide), hcw]
    · rw [Tray.is_sb_ne _ _ _ _ _ (by decide) (by decide) (by decide), hccw]

theorem Tray.showHops_stays : t.Stays t.showHops hopReg := by
  rw [Tray.showHops_eq]
  refine Tray.Stays.each _ _ (fun u c _ => (u.showHop_stays _ c).mono fun q o h => ?_) (.refl ..)
  obtain ⟨rfl, ho⟩ := h
  exact ⟨deckPg_mod c, ho⟩

/-- The released chips show the hops. -/
theorem Tray.showHops_shows {c : Nat} (hc : c < 5) (hup : (t.chip c).coreUp = true) : t.HopsShown t.showHops c := by
  have hall := Tray.each_all (fun u => u.nodes = t.nodes ∧ u.chips = t.chips)
    (fun d u => (t.chip d).coreUp = true → t.HopsShown u d) (Tray.showHop t.chained) (List.range 5) ?_ ?_ ?_ t ⟨rfl, rfl⟩
  · rw [Tray.showHops_eq]
    exact hall c (List.mem_range.2 hc) hup
  · rintro u d - ⟨hnodes, hchips⟩
    obtain ⟨hchips', -, -, -, -, -, hnodes', -⟩ := (u.showHop_stays t.chained d).blocks
    exact ⟨hnodes'.trans hnodes, hchips'.trans hchips⟩
  · rintro u d - ⟨hnodes, hchips⟩ hup
    have hhop (b : Bool) : u.hopUp d b = t.hopUp d b := by
      unfold Tray.hopUp Tray.node
      rw [hnodes]
    have hcore : (u.chip d).coreUp = true := by
      unfold Tray.chip at hup ⊢
      rw [hchips, hup]
    have hshown := u.showHop_shows t.chained hcore
    rwa [hhop, hhop] at hshown
  · intro u d b _ _ hne _ hshown hup
    have hkeep (f : Fld) (hf : f.off < 4096) : (u.showHop t.chained b).gf (deckPg d) f = u.gf (deckPg d) f :=
      Tray.keepsRegs_gf (u.showHop_stays t.chained b).regs _ _ hf fun h => hne (deckPg_inj.1 h.1)
    have hshown := hshown hup
    unfold Tray.HopsShown Tray.is at hshown ⊢
    rw [hkeep _ (by decide), hkeep _ (by decide), hkeep _ (by decide)]
    exact hshown

theorem Tray.showHop_logq (chain : Bool) (c : Nat) : (t.showHop chain c).logq = t.logq := by
  unfold Tray.showHop
  dsimp only
  split
  · rfl
  · split
    · rw [Tray.sb_logq, Tray.sb_logq]
    · rw [Tray.raise_logq, Tray.sb_logq, Tray.sb_logq, Tray.sb_logq]

theorem Tray.showHops_logq : t.showHops.logq = t.logq := by
  rw [Tray.showHops_eq]
  exact Tray.each_same Tray.logq _ _ (fun u c _ => u.showHop_logq _ c) t

end

/-! ### A hop goes down (R220) -/

/-- The hop to the clockwise neighbour goes to `k`: 0 down, 1 in training, 2 up. -/
def NodeSt.hopSet (k : Nat) (x : NodeSt) : NodeSt := { x with cwHop := k }

/-- Updates of node records that leave the hops as they are. -/
structure Tray.HopsStay (t u : Tray) : Prop where
  hops : ∀ k, (u.node k).cwHop = (t.node k).cwHop
  stays : t.RingStays u (fun _ _ => False)
  logq : u.logq = t.logq

theorem Tray.HopsStay.trans {t u v : Tray} (a : t.HopsStay u) (b : u.HopsStay v) : t.HopsStay v :=
  ⟨fun k => (b.hops k).trans (a.hops k), a.stays.trans b.stays, b.logq.trans a.logq⟩

theorem Tray.HopsStay.each {α : Type} (t : Tray) (l : List α) (f : Tray → α → Tray) (h : ∀ (u : Tray) a, u.HopsStay (f u a)) :
    t.HopsStay (t.each l f) :=
  Tray.each_keeps (fun u => t.HopsStay u) f l (fun u a _ hu => hu.trans (h u a)) t ⟨fun _ => rfl, .refl .., rfl⟩

section
variable (t : Tray) (n : Nat)

theorem Tray.modNode_hopsStay {f : NodeSt → NodeSt} (h : ∀ x, (f x).cwHop = x.cwHop) : t.HopsStay (t.modNode n f) :=
  ⟨t.node_modNode_keeps n NodeSt.cwHop h, (Tray.RingStays.refl t _).modNode n f, rfl⟩

theorem Tray.ringDrop_hopsStay (ccw : Bool) : t.HopsStay (t.ringDrop n ccw) :=
  .each _ _ _ fun u _ => u.modNode_hopsStay n fun _ => rfl

theorem Tray.reroute_hopsStay (ccw : Bool) : t.HopsStay (t.reroute n ccw) :=
  .each _ _ _ fun u _ => u.modNode_hopsStay n fun _ => rfl

/-- A node counts the loss of its link and raises its interrupt. -/
def Tray.linkFailed (t : Tray) (k : Nat) : Tray := (t.sat (deckPg k) F.DECK_ERR_LINK_FAIL 1).raise (deckPg k) 8

/-- The chips at the two ends of the hop from `n`. -/
def hopChips (n : Nat) : List Nat := [n, cwOf n].filter (fun k => decide (k < 5))

/-- The hop from `n` is down and its packets have turned round. -/
def Tray.hopCut (t : Tray) (n : Nat) : Tray :=
  ((((t.modNode n (NodeSt.hopSet 0)).ringDrop n false).ringDrop (cwOf n) true).reroute n false).reroute (cwOf n) true

/-- The loss of the hop from `n` is shown, counted and logged. -/
def Tray.hopLost (t : Tray) (n : Nat) : Tray :=
  ((t.hopCut n).showHops.each (hopChips n) Tray.linkFailed).logEv .deckHopDown (if n < 5 then 2 + n else 1) [n, cwOf n]

/-- Nothing was in progress over the hop that goes down. -/
theorem Tray.deckHopDown_empty (lost : Tray → RingPkt → Tray) (hup : (t.node n).cwHop = 2) (hcw : t.ringHeld n false = [])
    (hccw : t.ringHeld (cwOf n) true = []) : t.deckHopDown n lost = t.hopLost n := by
  unfold Tray.deckHopDown
  rw [if_neg (not_not.2 hup)]
  dsimp only
  rw [hcw, hccw]
  rfl

theorem Tray.hopCut_hopsStay : (t.modNode n (NodeSt.hopSet 0)).HopsStay (t.hopCut n) :=
  (((Tray.ringDrop_hopsStay ..).trans (Tray.ringDrop_hopsStay ..)).trans (Tray.reroute_hopsStay ..)).trans
    (Tray.reroute_hopsStay ..)

theorem Tray.hopCut_stays : t.RingStays (t.hopCut n) (fun _ _ => False) :=
  ((Tray.RingStays.refl t _).modNode n _).trans (t.hopCut_hopsStay n).stays

theorem Tray.hopCut_down : ((t.hopCut n).node n).cwHop = 0 := by
  rw [(t.hopCut_hopsStay n).hops, Tray.node_modNode]
  rfl

theorem Tray.hopCut_hopUp : (t.hopCut n).hopUp n false = false := by
  unfold Tray.hopUp
  rw [if_neg Bool.false_ne_true, t.hopCut_down n]
  rfl

theorem Tray.hopCut_chained (hn : n < 6) : (t.hopCut n).chained = true :=
  List.any_eq_true.2 ⟨n, List.mem_range.2 hn, by rw [t.hopCut_down n]; rfl⟩

/-- Registers that counting a lost link writes. -/
def lossReg (q o : Nat) : Prop := q % 4096 = 0x330 ∧ (o = A.DECK_ERR ∨ o = 0x20)

theorem Tray.linksFailed_stays (l : List Nat) : t.Stays (t.each l Tray.linkFailed) lossReg :=
  Tray.Stays.each _ _ (fun u k _ => ((Tray.Stays.refl u _).sat 1 ⟨deckPg_mod k, .inl rfl⟩ (by decide)).raise _
    ⟨deckPg_mod k, .inr rfl⟩) (.refl ..)

theorem Tray.linkFailed_irqUp_other {k j : Nat} (h : t.irqUp (deckPg k) 8) : (t.linkFailed j).irqUp (deckPg k) 8 := by
  refine Tray.raise_keeps _ _ _ _ _ ?_
  rw [Tray.rd_sat_off _ _ _ _ _ _ (by decide)]
  exact h

theorem Tray.linksFailed_irqUp {k : Nat} (hk : k < 5) {l : List Nat} (hmem : k ∈ l) :
    (t.each l Tray.linkFailed).irqUp (deckPg k) 8 :=
  Tray.each_all (fun _ => True) (fun j u => j < 5 → u.irqUp (deckPg j) 8) Tray.linkFailed l (fun _ _ _ _ => trivial)
    (fun _ _ _ _ hj => irqUp_deckPg _ hj (.inl rfl)) (fun u _ _ _ _ _ _ h hj => u.linkFailed_irqUp_other (h hj)) t trivial k
    hmem hk

theorem Tray.linksFailed_logq (l : List Nat) : (t.each l Tray.linkFailed).logq = t.logq :=
  Tray.each_same Tray.logq _ _ (fun _ _ _ => by unfold Tray.linkFailed; rw [Tray.raise_logq, Tray.sat_logq]) t

theorem Tray.hopLost_stays : t.RingStays (t.hopLost n)
    (fun q o => q % 4096 = 0x330 ∧ (o = A.DECK_STS ∨ o = A.DECK_ERR ∨ o = 0x20)) := by
  refine (((t.hopCut_stays n).mono fun _ _ h => h.elim).and ((t.hopCut n).showHops_stays.mono fun _ _ h => ?_)).and
    (((Tray.linksFailed_stays _ _).mono fun _ _ h => ⟨h.1, .inr h.2⟩).logEv _ _ _)
  obtain ⟨hpg, hoff⟩ := h
  exact ⟨hpg, hoff.imp_right .inr⟩

theorem Tray.hopLost_down : ((t.hopLost n).node n).cwHop = 0 := by
  obtain ⟨-, -, -, -, -, -, hshow, -⟩ := (t.hopCut n).showHops_stays.blocks
  obtain ⟨-, -, -, -, -, -, hcount, -⟩ := ((t.hopCut n).showHops.linksFailed_stays (hopChips n)).blocks
  have hnodes : (t.hopLost n).nodes = (t.hopCut n).nodes := hcount.trans hshow
  unfold Tray.node
  rw [hnodes]
  exact t.hopCut_down n

/-- DECK_STS of the released chips shows the hop down. -/
theorem Tray.hopLost_shows {d : Nat} (hd : d < 5) (hup : (t.chip d).coreUp = true) : (t.hopCut n).HopsShown (t.hopLost n) d := by
  have hup' : ((t.hopCut n).chip d).coreUp = true := by rw [(t.hopCut_stays n).chip, hup]
  have hkeep (f : Fld) (hf : f.off = A.DECK_STS) : (t.hopLost n).gf (deckPg d) f = (t.hopCut n).showHops.gf (deckPg d) f :=
    Tray.keepsRegs_gf ((Tray.linksFailed_stays _ (hopChips n)).logEv _ _ _).regs _ _ (by rw [hf]; decide)
      fun h => absurd h.2 (by rw [hf]; decide)
  have hshown := (t.hopCut n).showHops_shows hd hup'
  unfold Tray.HopsShown Tray.is at hshown ⊢
  rwa [hkeep _ rfl, hkeep _ rfl, hkeep _ rfl]

theorem Tray.hopLost_logs : ∃ x, (t.hopLost n).logq = t.logq ++ [x] ∧ x.ev = .deckHopDown := by
  refine ⟨_, congrArg (· ++ [_]) ?_, rfl⟩
  rw [Tray.linksFailed_logq, Tray.showHops_logq]
  exact (t.hopCut_hopsStay n).logq

end

theorem deckHopDown_cuts {s : State} {n : Fin 6} (hs : ∀ d, d < 5 → s.tray.settled d) (hup : (s.tray.node n.val).cwHop = 2)
    (hcw : s.tray.ringHeld n.val false = []) (hccw : s.tray.ringHeld (cwOf n.val) true = []) :
    Completes (.deckHopDown n) s (fun t =>
      (t.tray.node n.val).cwHop = 0 ∧
      (∀ d, d < 5 → (s.tray.chip d).coreUp = true → t.tray.is (deckPg d) F.DECK_STS_CHAIN = true) ∧
      (n.val < 5 → t.tray.irqUp (deckPg n.val) 8 ∧
        ((s.tray.chip n.val).coreUp = true → t.tray.is (deckPg n.val) F.DECK_STS_CW_UP = false)) ∧
      (∃ x, t.tray.logq = s.tray.logq ++ [x] ∧ x.ev = .deckHopDown) ∧
      s.tray.keepsRegs t.tray (fun q o => q % 4096 = 0x330 ∧ (o = A.DECK_STS ∨ o = A.DECK_ERR ∨ o = 0x20)) ∧
      t.tray.mem = s.tray.mem) := by
  have hstay := s.tray.hopLost_stays n.val
  refine completes_runD (exec_deckHopDown ..) (Tray.deckHopDown_empty _ _ _ hup hcw hccw)
    (fun d hd => hstay.settled (hs d hd)) fun t ht => ⟨?_, fun d hd hd' => ?_, fun hn => ⟨?_, fun hn' => ?_⟩, ?_,
      ht.ringStays hstay⟩
  · rw [ht.node]
    exact s.tray.hopLost_down n.val
  · obtain ⟨hchain, -, -⟩ := s.tray.hopLost_shows n.val hd hd'
    rw [ht.is, hchain, s.tray.hopCut_chained n.val n.isLt]
  · exact ht.irqUp (Tray.linksFailed_irqUp _ hn (List.mem_filter.2 ⟨List.mem_cons_self, decide_eq_true hn⟩))
  · obtain ⟨-, hdown, -⟩ := s.tray.hopLost_shows n.val hn hn'
    rw [ht.is, hdown, s.tray.hopCut_hopUp n.val]
  · rw [ht.logq]
    exact s.tray.hopLost_logs n.val

/-! ### A hop is retrained (R228) -/

/-- A hop that is down starts to train. -/
def NodeSt.trained (x : NodeSt) : NodeSt := if x.cwHop = 0 then { x with cwHop := 1 } else x

section
variable (t : Tray) (n : Nat)

theorem Tray.deckRetrain_eq : t.deckRetrain n = (t.modNode n NodeSt.trained).modNode (ccwOf n) NodeSt.trained := rfl

theorem Tray.deckRetrain_trains (h : (t.node n).cwHop = 0) : ((t.deckRetrain n).node n).cwHop = 1 := by
  have hccw : n ≠ ccwOf n := (hopTo_ne n true).symm
  rw [Tray.deckRetrain_eq, Tray.node_modNode_ne _ _ _ hccw, Tray.node_modNode]
  unfold NodeSt.trained
  rw [if_pos h]

theorem Tray.deckRetrain_others {j : Nat} (hn : j ≠ n) (hccw : j ≠ ccwOf n) : (t.deckRetrain n).node j = t.node j := by
  rw [Tray.deckRetrain_eq, Tray.node_modNode_ne _ _ _ hccw, Tray.node_modNode_ne _ _ _ hn]

theorem Tray.deckRetrain_stays (R : Nat → Nat → Prop) : t.RingStays (t.deckRetrain n) R :=
  ((Tray.RingStays.refl t R).modNode ..).modNode ..

/-- A write of 1 to RETRAIN that is performed. -/
theorem Tray.write8_deckRetrain {c : Nat} (x : Word) (hc : c < 5) (ha : t.accepts c 0x330 A.DECK_CTL = true)
    (hu : (t.chip c).coreUp = true) :
    t.write8 0 c 0x330 A.DECK_CTL (F.DECK_CTL_RETRAIN.put x 1) = (t.deckRetrain c).sweep c := by
  have hkind : pageKind (chipPg c 0x330) = some .deck := pageKind_chipPg c 0x330 hc (by decide)
  have hex : regExists (chipPg c 0x330) A.DECK_CTL = true := by
    refine regExists_of _ _ ?_ ?_ <;> rw [hkind] <;> decide
  refine t.write8_own _ 0 c 0x330 _ _ .deck hc (by decide) ha (by decide) (by decide) rfl hex (by decide +kernel) (by decide) hu
    fun r _ => ?_
  have hbit : (F.DECK_CTL_RETRAIN.get (F.DECK_CTL_RETRAIN.put x 1) == 1) = true := by
    rw [Fld.get_put _ _ _ (by decide)]
    rfl
  unfold Tray.writeChip
  rw [hkind, chipPg_div c 0x330 (by decide)]
  exact if_pos ⟨rfl, hbit⟩

end

theorem deckRetrain_trains {s : State} {c : Fin 5} (ha : s.tray.accepts c.val 0x330 A.DECK_CTL = true)
    (hu : (s.tray.chip c.val).coreUp = true) (hs : s.tray.settled c.val) (hdown : (s.tray.node c.val).cwHop = 0) :
    Completes (.deckRetrain c) s (fun t =>
      (t.tray.node c.val).cwHop = 1 ∧
      (∀ j, j ≠ c.val → j ≠ ccwOf c.val → t.tray.node j = s.tray.node j) ∧
      s.tray.keepsRegs t.tray (fun q o => q = deckPg c.val ∧ o = A.DECK_CTL) ∧ t.tray.mem = s.tray.mem) := by
  have hstay := s.tray.deckRetrain_stays c.val (fun q o => q = deckPg c.val ∧ o = A.DECK_CTL)
  refine completes_sweep_settled (exec_deckRetrain ..) (Tray.write8_deckRetrain _ _ c.isLt ha hu) (hstay.settled hs)
    fun t ht => ⟨?_, fun j hj hj' => ?_, ht.ringStays hstay⟩
  · rw [ht.node]
    exact Tray.deckRetrain_trains _ _ hdown
  · rw [ht.node]
    exact Tray.deckRetrain_others _ _ hj hj'

/-! ### A hop comes up (R228) -/

section
variable {t : Tray} {n : Nat}

/-- The hop from `n` is up, and DECK_STS shows it. -/
def Tray.hopJoined (t : Tray) (n : Nat) : Tray := (t.modNode n (NodeSt.hopSet 2)).showHops

theorem Tray.hopTrain_joins (hn : t.nodeUp n = true) (hcw : t.nodeUp ((n + 1) % 6) = true) (h : (t.node n).cwHop = 1) :
    t.hopTrain n = t.hopJoined n := by
  unfold Tray.hopTrain
  rw [if_pos ⟨hn, hcw⟩]
  unfold Tray.deckHopUp
  rw [if_neg (not_not.2 h)]
  rfl

theorem Tray.hopSet_up (hothers : ∀ j, j < 6 → j ≠ n → (t.node j).cwHop = 2) {j : Nat} (hj : j < 6) :
    ((t.modNode n (NodeSt.hopSet 2)).node j).cwHop = 2 := by
  by_cases h : j = n
  · rw [h, Tray.node_modNode]
    rfl
  · rw [Tray.node_modNode_ne _ _ _ h, hothers j hj h]

theorem Tray.not_chained (h : ∀ j, j < 6 → (t.node j).cwHop = 2) : t.chained = false :=
  List.any_eq_false.2 fun j hj => by rw [h j (List.mem_range.1 hj)]; decide

theorem Tray.hopUp_whole (h : ∀ j, j < 6 → (t.node j).cwHop = 2) {d : Nat} (hd : d < 6) (ccw : Bool) : t.hopUp d ccw = true := by
  have hfrom : (if ccw then ccwOf d else d) < 6 := by
    unfold ccwOf
    split <;> omega
  unfold Tray.hopUp
  rw [h _ hfrom]
  rfl

theorem Tray.hopJoined_stays (t : Tray) (n : Nat) : t.RingStays (t.hopJoined n) hopReg :=
  ((Tray.RingStays.refl t _).modNode ..).and (Tray.showHops_stays _)

theorem Tray.hopJoined_up (t : Tray) (n : Nat) : ((t.hopJoined n).node n).cwHop = 2 := by
  obtain ⟨-, -, -, -, -, -, hnodes, -⟩ := (t.modNode n (NodeSt.hopSet 2)).showHops_stays.blocks
  have hnode : (t.hopJoined n).node n = (t.modNode n (NodeSt.hopSet 2)).node n :=
    congrArg (Assoc.get (fun _ => ({} : NodeSt)) · n) hnodes
  rw [hnode, Tray.node_modNode]
  rfl

/-- With the other hops up, DECK_STS of the released chips shows the ring whole. -/
theorem Tray.hopJoined_shows (hothers : ∀ j, j < 6 → j ≠ n → (t.node j).cwHop = 2) {d : Nat} (hd : d < 5)
    (hup : (t.chip d).coreUp = true) :
    (t.hopJoined n).is (deckPg d) F.DECK_STS_CHAIN = false ∧ (t.hopJoined n).is (deckPg d) F.DECK_STS_CW_UP = true ∧
      (t.hopJoined n).is (deckPg d) F.DECK_STS_CCW_UP = true := by
  have hall : ∀ j, j < 6 → ((t.modNode n (NodeSt.hopSet 2)).node j).cwHop = 2 := fun _ hj => Tray.hopSet_up hothers hj
  obtain ⟨hchain, hcw, hccw⟩ := (t.modNode n (NodeSt.hopSet 2)).showHops_shows hd hup
  exact ⟨hchain.trans (Tray.not_chained hall), hcw.trans (Tray.hopUp_whole hall (by omega) _),
    hccw.trans (Tray.hopUp_whole hall (by omega) _)⟩

end

theorem deckHopUp_joins {s : State} {n : Fin 6} (hn : s.tray.nodeUp n.val = true) (hcw : s.tray.nodeUp ((n.val + 1) % 6) = true)
    (h : (s.tray.node n.val).cwHop = 1) (hothers : ∀ j, j < 6 → j ≠ n.val → (s.tray.node j).cwHop = 2) :
    Completes (.deckHopUp n) s (fun t =>
      (t.tray.node n.val).cwHop = 2 ∧
      (∀ d, d < 5 → (s.tray.chip d).coreUp = true → t.tray.is (deckPg d) F.DECK_STS_CHAIN = false ∧
        t.tray.is (deckPg d) F.DECK_STS_CW_UP = true ∧ t.tray.is (deckPg d) F.DECK_STS_CCW_UP = true) ∧
      s.tray.keepsRegs t.tray hopReg ∧ t.tray.mem = s.tray.mem) := by
  refine completes_run (exec_deckHopUp ..) (Tray.hopTrain_joins hn hcw h) fun t ht =>
    ⟨?_, fun d hd hup => ?_, ht.ringStays (s.tray.hopJoined_stays n.val)⟩
  · rw [ht.node]
    exact s.tray.hopJoined_up n.val
  · rw [ht.is, ht.is, ht.is]
    exact Tray.hopJoined_shows hothers hd hup

/-- Settles O34: each command's tray is written out as a chain of updates of ring nodes and of the node's registers, and what
each part shows is read from that chain. -/
theorem deckRing : Obligations.DeckRing := fun _ _ =>
  ⟨fun _ _ _ hon hup hfree hq hccw _ hseat => deckInject_sends hon hup hfree hq hccw hseat,
   fun _ hs hback => ⟨fun hok hfields hdst hahead hseat => deckPacketReceive_forwards hs hback hok hfields hdst hahead hseat,
     fun _ _ hbad hfew hretry => deckPacketReceive_resends hs hback hbad hfew hretry⟩,
   fun hs hup hcw hccw => deckHopDown_cuts hs hup hcw hccw,
   fun _ ha hu hs hdown => deckRetrain_trains ha hu hs hdown,
   fun hn hcw h hothers => deckHopUp_joins hn hcw h hothers⟩

end Sys2Proof.Machine
end

section
/-! SUPPORT. A counterexample to O38: a table without members. -/
namespace Sys2Proof.Machine

/-- An RS in flight on a table that no port has joined. -/
def loneOp : OpSt := { seq := 3, opcode := O.RS, count := 3, started := true }

/-- The tray at reset, but that chip 0 runs and its table 0 is ACTIVE with `loneOp`. -/
def memberlessTray : Tray :=
  let up := State.reset.tray.modChip 0 (fun x => { x with coreUp := true })
  let runs := (up.sb (chip0 0) F.PG_CTL_ENABLE true).sb (chip0 0) F.CHIP_CLK_STS_CORE_LOCK true
  (runs.sf (tblPg 0 0) F.TBL_STS_STATE T.ACTIVE).setTable 0 0 { ops := [loneOp] }

def memberless : State := { State.reset with tray := memberlessTray }

/-- No port owes a packet of an operation without members, so that it ends in the very step in which it fails. -/
theorem memberless_ends :
    ((memberless.tray.runOp 0 0 O.RS [(0, [])]).table 0 0).findOp loneOp.seq = none := by decide +kernel

/-- Refutes O38: on an ACTIVE table without members, an RS to which one contribution comes that it has no member for fails and is
gone in the same step, for no member owes an acknowledgement; the statement has it stay, marked as failed. The statement lacks the
hypothesis that the table has a member. -/
theorem not_operationsDeliver : ¬ Obligations.OperationsDeliver := by
  intro h
  have hs : memberless.tray.settled 0 := fun j _ _ hw => by
    have hslot : memberless.tray.slot 0 j = {} := rfl
    rw [hslot] at hw
    cases hw
  have hruns : memberless.tray.tRuns 0 0 = true := by decide +kernel
  have hquiet : memberless.tray.is (tblPg 0 0) F.PG_COMMIT_STS_PENDING = false := by decide +kernel
  have hranks : memberless.tray.tRanks 0 0 = [] := by decide +kernel
  have hperm : (loneOp.members.map (fun m => m.port)).Perm (memberless.tray.tRanks 0 0) := by rw [hranks]; exact .nil
  have hnodup : (memberless.tray.tRanks 0 0).Nodup := by rw [hranks]; exact .nil
  have hlen : (memberless.tray.tRanks 0 0).length = memberless.tray.tN 0 0 := by decide +kernel
  have hmisfit : 1 ≠ (memberless.tray.geo 0 0 loneOp).n := by decide +kernel
  have howns : ∀ e ∈ memberless.tray.tRanks 0 0, (memberless.tray.port 0 e).owns (Owner.ofOp 0 loneOp.seq) = true := by
    rw [hranks]; nofun
  obtain ⟨hdata, -⟩ := h memberless 0 0 loneOp hs hruns hquiet rfl rfl rfl rfl rfl rfl rfl hperm hnodup hlen
  obtain ⟨t, hexec, ⟨z, hz, -⟩, -⟩ :=
    (hdata [(0, [])] (.rs 0 0 [(0, [])]) (.inl ⟨rfl, rfl⟩)).2 hmisfit rfl howns
  obtain rfl : memberless.runC 0 (fun t => t.runOp 0 0 O.RS [(0, [])]) = t := Host.Outcome.next.inj hexec
  have hnone := congrArg (fun x => TableSt.findOp x loneOp.seq) (memberless.runC_table 0 (fun t => t.runOp 0 0 O.RS [(0, [])]) 0 0)
  exact absurd (hz.symm.trans (hnone.trans memberless_ends)) (Option.some_ne_none z)

end Sys2Proof.Machine
end

section
/-! SUPPORT. The bytes of a short packet that the tray originates (R154). -/
namespace Sys2Proof.Machine

/-- The bytes of the number that a list of bytes is: the list, and zero bytes beyond it. -/
theorem leBytes_leVal (l : List Byte) (k : Nat) (hk : l.length ≤ k) : (leBytes k (leVal l)).take l.length = l := by
  induction l generalizing k with
  | nil => exact List.take_zero
  | cons b l ih =>
    obtain _ | k := k
    · exact absurd hk (Nat.not_succ_le_zero _)
    · have hbyte : BitVec.ofNat 8 (b.toNat + 256 * leVal l) = b := by
        apply BitVec.eq_of_toNat_eq
        rw [BitVec.toNat_ofNat]
        omega
      have hrest : (b.toNat + 256 * leVal l) / 256 = leVal l := by omega
      unfold leVal leBytes
      rw [List.length_cons, List.take_succ_cons, hbyte, hrest, ih k (Nat.le_of_succ_le_succ hk)]

theorem leVal_lt (l : List Byte) : leVal l < 256 ^ l.length := by
  induction l with
  | nil => exact Nat.one_pos
  | cons b l ih =>
    have hb := b.isLt
    unfold leVal
    rw [List.length_cons, Nat.pow_succ]
    omega

theorem bytesOf_ofNat_leVal (l : List Byte) (k : Nat) (hk : l.length ≤ k) :
    (bytesOf k (BitVec.ofNat (8 * k) (leVal l))).take l.length = l := by
  have hfits : leVal l < 2 ^ (8 * k) := by
    rw [pow_mul]
    exact (leVal_lt l).trans_le (Nat.pow_le_pow_right (by decide) hk)
  unfold bytesOf
  rw [BitVec.toNat_ofNat, Nat.mod_eq_of_lt hfits, leBytes_leVal l k hk]

theorem mkPkt_len (h : HdrParts) (pay : List Byte) : hLen (mkPkt h pay).hdr = pay.length % 8192 := by
  have hlast : b2n h.last ≤ 1 := by
    unfold b2n
    split <;> decide
  unfold hLen mkPkt
  dsimp only
  rw [fieldOf_sealHdr _ _ (by decide)]
  unfold mkHdr
  rw [fieldOf_ofNat _ (by decide)]
  dsimp only
  omega

/-- A payload of up to one flit comes back from the packet that carries it. -/
theorem pBytes_mkPkt (h : HdrParts) (pay : List Byte) (hpos : pay ≠ []) (hlen : pay.length ≤ 64) :
    pBytes (mkPkt h pay) = pay := by
  have hflits : flitsFrom pay = [BitVec.ofNat 512 (leVal pay)] := by
    unfold flitsFrom
    obtain ⟨b, l, rfl⟩ := List.exists_cons_of_ne_nil hpos
    rw [chunksOf, List.take_of_length_le hlen, List.drop_of_length_le hlen]
    · cases hl : (b :: l).length <;> rfl
    · exact fun hnil => hpos hnil
  unfold pBytes
  rw [mkPkt_len, Nat.mod_eq_of_lt (hlen.trans_lt (by decide))]
  have hpay : (mkPkt h pay).pay = [BitVec.ofNat 512 (leVal pay)] := hflits
  rw [hpay, List.flatMap_singleton]
  exact bytesOf_ofNat_leVal pay 64 hlen

theorem leBytes_length (k v : Nat) : (leBytes k v).length = k := by
  induction k generalizing v with
  | zero => rfl
  | succ k ih => exact congrArg Nat.succ (ih _)

theorem recBytes_length (tb epoch cons time : Nat) (w : Win) (r : Rec) : (recBytes tb epoch cons time w r).length = 32 := by
  unfold recBytes
  simp only [List.length_append, leBytes_length]

/-- Byte 1 of a record is its status (R251). -/
theorem recBytes_status (tb epoch cons time : Nat) (w : Win) (r : Rec) :
    (recBytes tb epoch cons time w r)[1]? = some (BitVec.ofNat 8 r.status) := by
  unfold recBytes
  rw [List.append_assoc, List.append_assoc, List.getElem?_append_left (by rw [leBytes_length]; decide)]
  refine congrArg some (BitVec.eq_of_toNat_eq ?_)
  rw [BitVec.toNat_ofNat, BitVec.toNat_ofNat]
  omega

end Sys2Proof.Machine
end

section
/-! SUPPORT. What a command of a table leaves: the other tables, the ports of other chips, the Dealers, the switch core's
neighbours; and the table's windows and completion records (R234, R250–R255). -/
namespace Sys2Proof.Machine

/-- Beside the registers in `R`, table `tb` of chip `c`, the chip's ports and its core nothing inside the chips changes. -/
structure Tray.TableStays (t u : Tray) (c tb : Nat) (R : Nat → Nat → Prop) : Prop where
  regs : t.keepsRegs u R
  others : t.keepsOtherTables u c tb

namespace Tray.TableStays
variable {t u v : Tray} {c tb : Nat} {R Q : Nat → Nat → Prop}

theorem of_stays (h : t.Stays u R) (c tb : Nat) : t.TableStays u c tb R := by
  obtain ⟨-, hports, hlanes, hbays, htables, hdealers, hnodes, hmem⟩ := h.blocks
  exact ⟨h.regs, fun d k _ _ => by unfold Tray.table; rw [htables], fun d g _ _ => by unfold Tray.port; rw [hports], hlanes,
    hbays, hdealers, hnodes, hmem⟩

theorem refl (t : Tray) (c tb : Nat) (R : Nat → Nat → Prop) : t.TableStays t c tb R := .of_stays (.refl t R) c tb

theorem trans (a : t.TableStays u c tb R) (b : u.TableStays v c tb R) : t.TableStays v c tb R := by
  obtain ⟨ar, atables, aports, alanes, abays, adealers, anodes, amem⟩ := a
  obtain ⟨br, btables, bports, blanes, bbays, bdealers, bnodes, bmem⟩ := b
  exact ⟨Tray.keepsRegs_trans ar br, fun d k hk hn => (btables d k hk hn).trans (atables d k hk hn),
    fun d g hg hn => (bports d g hg hn).trans (aports d g hg hn), blanes.trans alanes, bbays.trans abays,
    bdealers.trans adealers, bnodes.trans anodes, bmem.trans amem⟩

theorem mono (a : t.TableStays u c tb R) (h : ∀ q o, R q o → Q q o) : t.TableStays u c tb Q :=
  ⟨Tray.keepsRegs_mono a.regs h, a.others⟩

theorem and (a : t.TableStays u c tb R) (h : u.Stays v R) : t.TableStays v c tb R := a.trans (.of_stays h c tb)

theorem settled (a : t.TableStays u c tb R) {d : Nat} (h : t.settled d) : u.settled d := by
  obtain ⟨-, -, -, -, -, hdealers, -⟩ := a
  exact (Tray.settled_congr hdealers d).2 h

theorem setTable (a : t.TableStays u c tb R) (htb : tb < 256) (x : TableSt) : t.TableStays (u.setTable c tb x) c tb R :=
  a.trans ⟨fun _ _ _ _ => rfl, fun d k hk hn => Assoc.get_set_ne _ _ _ _ (by omega), fun _ _ _ _ => rfl, rfl, rfl, rfl, rfl, rfl⟩

theorem modTable (a : t.TableStays u c tb R) (htb : tb < 256) (f : TableSt → TableSt) :
    t.TableStays (u.modTable c tb f) c tb R := a.setTable htb _

theorem setWin (a : t.TableStays u c tb R) (htb : tb < 256) (e : Nat) (w : Win) : t.TableStays (u.setWin c tb e w) c tb R :=
  a.modTable htb _

theorem modPort (a : t.TableStays u c tb R) {e : Nat} (he : e < 64) (f : PortSt → PortSt) :
    t.TableStays (u.modPort c e f) c tb R :=
  a.trans ⟨fun _ _ _ _ => rfl, fun _ _ _ _ => rfl, fun d g hg hn => Tray.port_modPort_ne _ _ _ _ _ _ (by omega), rfl, rfl, rfl,
    rfl, rfl⟩

end Tray.TableStays

theorem State.Like.tableStays {s : State} {t u : Tray} {c tb : Nat} {R : Nat → Nat → Prop} (h : s.Like u)
    (a : t.TableStays u c tb R) : t.keepsRegs s.tray R ∧ t.keepsOtherTables s.tray c tb := by
  obtain ⟨htables, hports, hlanes, hbays, hdealers, hnodes, hmem⟩ := a.others
  exact ⟨h.keepsRegs a.regs, fun d k hk hn => (h.table d k).trans (htables d k hk hn),
    fun d g hg hn => (h.port d g).trans (hports d g hg hn), h.lanes.trans hlanes, h.bays.trans hbays, h.dealers.trans hdealers,
    h.nodes.trans hnodes, h.mem.trans hmem⟩

/-- With no claim about registers. -/
theorem Tray.keepsOtherTables.stays {t u : Tray} {c tb : Nat} (h : t.keepsOtherTables u c tb) :
    t.TableStays u c tb fun _ _ => True := ⟨fun _ _ _ hn => (hn trivial).elim, h⟩

/-! ### Windows -/

section
variable (t : Tray) (c tb e : Nat) (w : Win)

@[simp] theorem Tray.win_setWin : (t.setWin c tb e w).win c tb e = w := by
  unfold Tray.win Tray.setWin
  rw [Tray.table_modTable]
  exact Assoc.get_set_self ..

theorem Tray.win_setWin_ne {g : Nat} (h : g ≠ e) : (t.setWin c tb e w).win c tb g = t.win c tb g := by
  unfold Tray.win Tray.setWin
  rw [Tray.table_modTable]
  exact Assoc.get_set_ne _ _ _ _ h

@[simp] theorem Tray.setWin_ports : (t.setWin c tb e w).ports = t.ports := rfl
@[simp] theorem Tray.port_setWin (d g : Nat) : (t.setWin c tb e w).port d g = t.port d g := rfl
@[simp] theorem Tray.gf_setWin (q : Nat) (f : Fld) : (t.setWin c tb e w).gf q f = t.gf q f := rfl

/-- A window is a part of its table: what leaves the table leaves the window. -/
theorem Tray.win_congr {t u : Tray} (h : u.table c tb = t.table c tb) : u.win c tb e = t.win c tb e :=
  congrArg (fun x : TableSt => Assoc.get (fun _ => ({} : Win)) x.wins e) h

end

namespace Tray.setsWin
variable {t u v : Tray} {c tb e : Nat} {w x : Win}

theorem setWin (t : Tray) (htb : tb < 256) (e : Nat) (w : Win) : t.setsWin (t.setWin c tb e w) c tb e w :=
  ⟨t.win_setWin c tb e w, fun _ hg => t.win_setWin_ne c tb e w hg, by unfold Tray.setWin; rw [Tray.table_modTable],
    ((Tray.TableStays.refl t c tb fun _ _ => False).setWin htb e w).others⟩

/-- The later of two changes of a window stands. -/
theorem trans (a : t.setsWin u c tb e w) (b : u.setsWin v c tb e x) : t.setsWin v c tb e x := by
  obtain ⟨-, aothers, atable, akeeps⟩ := a
  obtain ⟨bwin, bothers, btable, bkeeps⟩ := b
  exact ⟨bwin, fun g hg => (bothers g hg).trans (aothers g hg), btable.trans atable,
    (akeeps.stays.trans bkeeps.stays).others⟩

/-- What leaves the table as it is leaves its windows. -/
theorem stay {R : Nat → Nat → Prop} (h : t.TableStays u c tb R) (htable : u.table c tb = t.table c tb) (e : Nat) :
    t.setsWin u c tb e (t.win c tb e) :=
  ⟨Tray.win_congr c tb e htable, fun g _ => Tray.win_congr c tb g htable, by rw [htable], h.others⟩

theorem and (a : t.setsWin u c tb e w) {R : Nat → Nat → Prop} (h : u.TableStays v c tb R) (htable : v.table c tb = u.table c tb) :
    t.setsWin v c tb e w := by
  have hwin : u.win c tb e = w := a.1
  exact a.trans (hwin ▸ stay h htable e)

end Tray.setsWin

theorem State.Like.setsWin {s : State} {t u : Tray} {c tb e : Nat} {w : Win} (h : s.Like u) (a : t.setsWin u c tb e w) :
    t.setsWin s.tray c tb e w := by
  obtain ⟨hwin, hothers, htable, hkeeps⟩ := a
  have htb := h.table c tb
  refine ⟨(Tray.win_congr c tb e htb).trans hwin, fun g hg => (Tray.win_congr c tb g htb).trans (hothers g hg), ?_,
    (h.tableStays hkeeps.stays).2⟩
  rw [htb, htable]

/-! ### Completion records -/

/-- The interrupt bits of a table's page: what a record with another status than OK writes. -/
def tblIrq (c tb q o : Nat) : Prop := q = tblPg c tb ∧ o = 0x20

/-- A table's page defines its interrupt bits OP_ERR and STATE (R251, R263). -/
theorem irqUp_tblPg (t : Tray) {c tb b : Nat} (hc : c < 5) (htb : tb < 256) (hb : b = 8 ∨ b = 11) :
    (t.raise (tblPg c tb) b).irqUp (tblPg c tb) b := by
  refine t.irqUp_raise _ _ ?_ (by omega)
  have hmask : irqMask (tblPg c tb) = 0xF00 := by
    unfold irqMask
    rw [pageKind_tblPg c tb hc htb]
  unfold irqDefined
  rw [hmask]
  rcases hb with rfl | rfl <;> rfl

/-- The packet that brings a record (R250, R251). -/
def Tray.recPkt (t : Tray) (c tb e : Nat) (r : Rec) : OrigPkt :=
  let w := t.win c tb e
  let ep := t.tEpoch c tb
  ⟨mkPkt { ptype := P.CPL, ch := 2, src := e, dst := e, seat := t.tSeat c tb, tbl := tb, epoch := ep,
           addr := w.cqBase + 32 * (w.tail % 2 ^ w.cqLog) } (Machine.recBytes tb ep w.ci (t.timeOf c) w r), .cpl tb ep⟩

/-- A packet takes the next place of a CQ and waits at the member's port. -/
def Tray.recPut (t : Tray) (c tb e : Nat) (k : OrigPkt) : Tray :=
  (t.setWin c tb e { t.win c tb e with tail := ((t.win c tb e).tail + 1) % 65536 }).modPort c e
    (fun q => { q with origq := q.origq ++ [k] })

section
variable (t : Tray) (c : Nat) {tb : Nat} (e : Nat) (r : Rec)

theorem Tray.recPut_stays (htb : tb < 256) (he : e < 64) (k : OrigPkt) (R : Nat → Nat → Prop) :
    t.TableStays (t.recPut c tb e k) c tb R := ((Tray.TableStays.refl t c tb R).setWin htb e _).modPort he _

theorem Tray.recPut_setsWin (htb : tb < 256) (he : e < 64) (k : OrigPkt) :
    t.setsWin (t.recPut c tb e k) c tb e { t.win c tb e with tail := ((t.win c tb e).tail + 1) % 65536 } :=
  (Tray.setsWin.setWin t htb e _).and ((Tray.TableStays.refl _ c tb fun _ _ => False).modPort he _) rfl

theorem Tray.recPut_origq (k : OrigPkt) : ((t.recPut c tb e k).port c e).origq = (t.port c e).origq ++ [k] := by
  unfold Tray.recPut
  simp

theorem Tray.recPkt_ptype : hPtype (t.recPkt c tb e r).pkt.hdr = P.CPL := mkPkt_ptype ..

theorem Tray.recPkt_status : (pBytes (t.recPkt c tb e r).pkt)[1]? = some (BitVec.ofNat 8 r.status) := by
  unfold Tray.recPkt
  dsimp only
  rw [pBytes_mkPkt _ _ (List.ne_nil_of_length_eq_add_one (recBytes_length ..)) (by rw [recBytes_length]; decide)]
  exact recBytes_status ..

theorem Tray.writeRec_eq : t.writeRec c tb e r =
    if r.status = 0 then t.recPut c tb e (t.recPkt c tb e r) else (t.recPut c tb e (t.recPkt c tb e r)).raise (tblPg c tb) 8 := rfl

theorem Tray.writeRec_stays (htb : tb < 256) (he : e < 64) : t.TableStays (t.writeRec c tb e r) c tb (tblIrq c tb) := by
  have hput := t.recPut_stays c e htb he (t.recPkt c tb e r) (tblIrq c tb)
  rw [Tray.writeRec_eq]
  split
  · exact hput
  · exact hput.and ((Tray.Stays.refl _ _).raise 8 ⟨rfl, rfl⟩)

/-- A record of status OK raises nothing. -/
theorem Tray.writeRec_ok_stays (htb : tb < 256) (he : e < 64) (hr : r.status = 0) (R : Nat → Nat → Prop) :
    t.TableStays (t.writeRec c tb e r) c tb R := by
  rw [Tray.writeRec_eq, if_pos hr]
  exact t.recPut_stays c e htb he _ R

/-- A record takes the next place of the CQ; nothing else of the table changes (R255). -/
theorem Tray.writeRec_setsWin (htb : tb < 256) (he : e < 64) :
    t.setsWin (t.writeRec c tb e r) c tb e { t.win c tb e with tail := ((t.win c tb e).tail + 1) % 65536 } := by
  have hput := t.recPut_setsWin c e htb he (t.recPkt c tb e r)
  rw [Tray.writeRec_eq]
  split
  · exact hput
  · exact hput.and (.of_stays ((Tray.Stays.refl _ (tblIrq c tb)).raise 8 ⟨rfl, rfl⟩) c tb) (by simp)

/-- A record goes to its member. -/
theorem Tray.writeRec_sendsRec : t.sendsRec (t.writeRec c tb e r) c e r.status := by
  refine ⟨t.recPkt c tb e r, ?_, t.recPkt_ptype c e r, t.recPkt_status c e r⟩
  have hput := t.recPut_origq c e (tb := tb) (t.recPkt c tb e r)
  rw [Tray.writeRec_eq]
  split
  · exact hput
  · rw [Tray.port_raise]
    exact hput

theorem Tray.writeRec_irqUp (hc : c < 5) (htb : tb < 256) (hr : r.status ≠ 0) :
    (t.writeRec c tb e r).irqUp (tblPg c tb) 8 := by
  rw [Tray.writeRec_eq, if_neg hr]
  exact irqUp_tblPg _ hc htb (.inl rfl)

end

theorem Tray.sendsRec.congr {t u t' u' : Tray} {c e st : Nat} (h : t.sendsRec u c e st)
    (ht : (t.port c e).origq = (t'.port c e).origq) (hu : u'.port c e = u.port c e) : t'.sendsRec u' c e st := by
  obtain ⟨k, hk, hrest⟩ := h
  exact ⟨k, by rw [hu, hk, ht], hrest⟩

end Sys2Proof.Machine
end

section
/-! SUPPORT. A packet that the agent of its arrival port consumes, from its header to the agent's act (R157, R173, R365). -/
namespace Sys2Proof.Machine

/-- The registers that charging the flits of a packet to seat `m` writes. -/
def arriveReg (c m q o : Nat) : Prop := chargedReg c m N.RX_PKTS q o ∨ flitReg c m q o

theorem chargeReg_of_arrive {c m q o : Nat} (hm : m < 64) (h : arriveReg c m q o) : chargeReg c q o :=
  h.elim (chargeReg_of_charged hm) fun hf => hf.elim (chargeReg_of_charged hm) (chargeReg_of_charged hm)

/-- The tray at the moment when the agent of port `e` acts on a packet of seat `m`: the packet is charged, the counts of its stream
have advanced. -/
structure Tray.HandsOver (t u : Tray) (c e m : Nat) : Prop where
  stays : t.StaysBut u c e (arriveReg c m)
  lanes : u.lanes = t.lanes
  origq : (u.port c e).origq = (t.port c e).origq

namespace Tray.HandsOver
variable {t u : Tray} {c e m : Nat}

theorem tables (h : t.HandsOver u c e m) : u.tables = t.tables := by
  obtain ⟨-, -, -, -, htables, -⟩ := h.stays.others
  exact htables

theorem table (h : t.HandsOver u c e m) (d k : Nat) : u.table d k = t.table d k := by
  unfold Tray.table
  rw [h.tables]

theorem regs (h : t.HandsOver u c e m) (hm : m < 64) : t.keepsRegs u (chargeReg c) :=
  Tray.keepsRegs_mono h.stays.regs fun _ _ => chargeReg_of_arrive hm

theorem tableStays (h : t.HandsOver u c e m) (hm : m < 64) (tb : Nat) : t.TableStays u c tb (chargeReg c) := by
  obtain ⟨hports, -, -, hbays, -, hdealers, hnodes, hmem⟩ := h.stays.others
  exact ⟨h.regs hm, fun d k _ _ => h.table d k, fun d g hg hd => hports d g hg fun hb => hd hb.1, h.lanes, hbays, hdealers, hnodes,
    hmem⟩

/-- A table's page reads as before. -/
theorem gf_tblPg (h : t.HandsOver u c e m) (hm : m < 64) {tb : Nat} (htb : tb < 256) (f : Fld) (hf : f.off < 4096) :
    u.gf (tblPg c tb) f = t.gf (tblPg c tb) f :=
  Tray.keepsRegs_gf (h.regs hm) _ _ hf fun hc => by
    unfold chargeReg tblPg chipPg at hc
    omega

end Tray.HandsOver

section
variable {t : Tray} {c e m : Nat}

/-- The flits of a packet for the agent join it and are charged. -/
theorem Tray.takeFlits_consumed (hm : m < 64) (l : List Flit) {h : Flit} {q : List Flit} (hpay : t.payer c e h = some m) :
    ∃ u, l.foldl (Tray.takeFlit c e) ({ hdr := h, pay := q }, t) = ({ hdr := h, pay := q ++ l }, u) ∧ t.Stays u (flitReg c m) := by
  induction l generalizing t q with
  | nil => exact ⟨t, by rw [List.append_nil]; rfl, .refl ..⟩
  | cons f l ih =>
    have htake : Tray.takeFlit c e ({ hdr := h, pay := q }, t) f =
        ({ hdr := h, pay := q ++ [f] }, t.flitCharged c m (f == breakFlit)) :=
      Tray.pktFlit_charged hm (r := { hdr := h, pay := q }) hpay f _
    rw [List.foldl_cons, htake]
    obtain ⟨u, hwhole, hstay⟩ := ih (t := t.flitCharged c m (f == breakFlit)) (q := q ++ [f])
      ((Tray.flitCharged_payer hm _ _).trans hpay)
    exact ⟨u, by rw [hwhole, List.append_assoc]; rfl, (Tray.flitCharged_stays hm _).trans hstay⟩

/-- The next packet of its stream is accepted: of the tray only its port changes, and no packet that waits there (R173). -/
theorem Tray.transport_accepts {p : Pkt} (he : e < 64) (hcrc : pE2eOk p = true)
    (hseq : hSeq p.hdr = Assoc.get (fun _ => 0) (t.port c e).rxExp (hCh p.hdr)) :
    ∃ u, t.transport c e p = (true, u) ∧ t.StaysBut u c e (fun _ _ => False) ∧ u.lanes = t.lanes ∧
      (u.port c e).origq = (t.port c e).origq := by
  unfold Tray.transport
  dsimp only
  rw [if_neg (not_not.2 hcrc), if_pos hseq]
  refine ⟨_, rfl, ?_, rfl, ?_⟩
  · exact ((Tray.StaysBut.refl t c e _).setPort he _).modPort he _
  · simp

/-- What is done with a complete packet for the agent, when the transport accepts it. -/
theorem Tray.pktDone_accepted {p : Pkt} {u : Tray} (hnot : ¬ (hPtype p.hdr = P.ACK ∨ hPtype p.hdr = P.NAK))
    (h : t.transport c e p = (true, u)) :
    t.pktDone c e { hdr := p.hdr, pay := p.pay } = (u.agentAct c e p).dealerSweep c := by
  unfold Tray.pktDone
  dsimp only
  rw [if_neg (by decide), if_neg hnot, h]
  rfl

/-- A packet that the port consumes reaches its agent. -/
theorem Tray.takes.handsOver {p : Pkt} (he : e < 64) (h : t.takes c e p)
    (htype : hPtype p.hdr = P.CMD ∨ hPtype p.hdr = P.DEALER_IN) :
    ∃ u, t.HandsOver u c e (hSeat p.hdr) ∧ t.arrive c e p = (u.agentAct c e p).dealerSweep c := by
  obtain ⟨hup, hcore, hlen, hparse, hallow, hkind, hseat, hcrc, hseq⟩ := h
  have hm := TrafficSide.hSeat_lt p.hdr
  have hnot : ¬ (hPtype p.hdr = P.ACK ∨ hPtype p.hdr = P.NAK) ∧ hPtype p.hdr ≠ P.IDLE ∧ hPtype p.hdr ≠ P.RESUME := by
    rcases htype with h | h <;> rw [h] <;> decide
  obtain ⟨v, hwhole, hflits⟩ := Tray.takeFlits_consumed (q := []) hm p.pay
    ((t.hdrCharged_payer c e p.hdr hm).trans (Tray.payer_passes hallow hseat))
  have hcharged : t.Stays v (arriveReg c (hSeat p.hdr)) :=
    (((Tray.Stays.refl t _).charged c 64 hm (by decide) fun _ _ hr => .inr (.inl hr)).charged c 1 hm (by decide)
      fun _ _ hr => .inl hr).trans (hflits.mono fun _ _ hr => .inr hr)
  obtain ⟨-, hports, hlanes, -⟩ := hcharged.blocks
  have hport := congrArg (fun x => Assoc.get (fun _ => ({} : PortSt)) x (c * 64 + e)) hports
  obtain ⟨u, hpass, hstays, hsame, horigq⟩ := Tray.transport_accepts (c := c) he hcrc
    (hseq.trans (congrArg (fun x : PortSt => Assoc.get (fun _ => 0) x.rxExp (hCh p.hdr)) hport).symm)
  refine ⟨u, ⟨(hcharged.butPort c e).trans (hstays.mono fun _ _ hf => hf.elim), hsame.trans hlanes,
    horigq.trans (congrArg PortSt.origq hport)⟩, ?_⟩
  rw [Tray.arrive_whole hup hcore hlen hparse hnot.2, Tray.pktStart_consumed hallow hkind hseat]
  exact (congrArg (fun r : RxPkt × Tray => r.2.pktDone c e r.1) hwhole).trans (Tray.pktDone_accepted hnot.1 hpass)

end

end Sys2Proof.Machine
end

section
/-! SUPPORT. The commands in the payload of a slot write, and the slots they go into (R235, R237). -/
namespace Sys2Proof.Machine

theorem flatMap_bytesOf_length (l : List Flit) : (l.flatMap (fun f => bytesOf 64 f)).length = 64 * l.length := by
  induction l with
  | nil => rfl
  | cons f l ih =>
    have hone : (bytesOf 64 f).length = 64 := leBytes_length ..
    rw [List.flatMap_cons, List.length_append, ih, hone, List.length_cons]
    omega

/-- A whole packet has LEN payload bytes. -/
theorem pBytes_length {p : Pkt} (h : p.pay.length = flitsOf (hLen p.hdr)) : (pBytes p).length = hLen p.hdr := by
  unfold pBytes
  rw [List.length_take, flatMap_bytesOf_length, h]
  unfold flitsOf ceilDiv
  omega

/-- A list of whole pieces, cut into them. -/
theorem chunksOf_eq {α : Type} {n : Nat} (hn : 0 < n) (fuel k : Nat) (l : List α) (hl : l.length = n * k) (hk : k ≤ fuel) :
    chunksOf n fuel l = (List.range k).map (fun i => (l.drop (n * i)).take n) := by
  induction fuel generalizing k l with
  | zero =>
    obtain rfl : k = 0 := Nat.le_zero.1 hk
    rfl
  | succ fuel ih =>
    obtain _ | k := k
    · obtain rfl := List.eq_nil_of_length_eq_zero hl
      rfl
    · obtain _ | ⟨a, l⟩ := l
      · exact absurd hl (Nat.ne_of_lt (Nat.mul_pos hn (Nat.succ_pos k)))
      · have hrest : ((a :: l).drop n).length = n * k := by
          rw [List.length_drop, hl, Nat.mul_succ]
          omega
        rw [chunksOf, ih k _ hrest (Nat.le_of_succ_le_succ hk), List.range_succ_eq_map, List.map_cons, List.map_map]
        · refine congrArg (_ :: ·) (List.map_congr_left fun i _ => ?_)
          rw [Function.comp, List.drop_drop, Nat.mul_succ, Nat.add_comm]
        · exact fun h => List.cons_ne_nil a l h

theorem zipIdx_map_range {α : Type} (f : Nat → α) (k : Nat) :
    ((List.range k).map f).zipIdx = (List.range k).map (fun i => (f i, i)) := by
  refine List.ext_getElem (by simp) fun i h₁ h₂ => ?_
  simp

/-- `k` commands written into the slots from `first`. -/
def Win.puts (w : Win) (first : Nat) (f : Nat → BitVec 384) (k : Nat) : Win :=
  (List.range k).foldl (fun w i => w.setSlot (first + i) { cmd := f i, written := true }) w

section
variable (w : Win) (first : Nat) (f : Nat → BitVec 384) (k : Nat)

theorem Win.puts_succ : w.puts first f (k + 1) = (w.puts first f k).setSlot (first + k) { cmd := f k, written := true } := by
  unfold Win.puts
  rw [List.range_succ, List.foldl_append]
  rfl

theorem Win.slot_setSlot (i : Nat) (x : Slot) : (w.setSlot i x).slot i = x := Assoc.get_set_self ..

theorem Win.slot_setSlot_ne {i j : Nat} (x : Slot) (h : j % 64 ≠ i % 64) : (w.setSlot i x).slot j = w.slot j :=
  Assoc.get_set_ne _ _ _ _ h

/-- Only the slots of the window change. -/
theorem Win.puts_eq : w.puts first f k = { w with slots := (w.puts first f k).slots } := by
  induction k with
  | zero => rfl
  | succ k ih =>
    rw [Win.puts_succ]
    unfold Win.setSlot
    dsimp only
    rw [ih]

variable {first k}

theorem Win.puts_slot_ne {i : Nat} (hi : i < 64) (hk : first + k ≤ 64) (h : i < first ∨ first + k ≤ i) :
    (w.puts first f k).slot i = w.slot i := by
  induction k with
  | zero => rfl
  | succ k ih =>
    rw [Win.puts_succ, Win.slot_setSlot_ne _ _ (by omega)]
    exact ih (by omega) (by omega)

theorem Win.puts_slot {i : Nat} (hi : i < k) (hk : first + k ≤ 64) :
    (w.puts first f k).slot (first + i) = { cmd := f i, written := true } := by
  induction k with
  | zero => exact absurd hi (Nat.not_lt_zero i)
  | succ k ih =>
    rw [Win.puts_succ]
    obtain rfl | hlt := Nat.eq_or_lt_of_le (Nat.le_of_lt_succ hi)
    · exact Win.slot_setSlot ..
    · rw [Win.slot_setSlot_ne _ _ (by omega)]
      exact ih hlt (by omega)

end

end Sys2Proof.Machine
end

section
/-! SUPPORT. CMD packets: what each form does to a member's window (R235–R238, R254, R255). -/
namespace Sys2Proof.Machine

/-! ### The forms -/

/-- Command `i` in the payload of a slot write. -/
def cmdAt (p : Pkt) (i : Nat) : BitVec 384 := BitVec.ofNat 384 (leVal (((pBytes p).drop (48 * i)).take 48))

/-- A slot write holds a whole number of commands, and they fit between its first slot and the last of the window. -/
theorem slotForm_fits {h : Flit} (hf : slotForm h = true) :
    hLen h = 48 * (hLen h / 48) ∧ hAddr h / 48 + hLen h / 48 ≤ 64 ∧ hAddr h < 0xC00 := by
  simp only [slotForm, Bool.and_eq_true, beq_iff_eq, decide_eq_true_eq] at hf
  omega

/-- A slot write is no control write: its address lies below theirs. -/
theorem ctlForm_of_slotForm {h : Flit} (hf : slotForm h = true) : ctlForm h = false := by
  obtain ⟨-, -, haddr⟩ := slotForm_fits hf
  have hnone : [0xC00, 0xC08, 0xC10, 0xC18].contains (hAddr h) = false := by
    rw [List.contains_eq_mem, decide_eq_false]
    simp only [List.mem_cons, List.not_mem_nil, or_false]
    omega
  unfold ctlForm
  rw [hnone, Bool.and_false, Bool.false_and, Bool.false_and]

theorem slotForm_of_ctlForm {h : Flit} (hf : ctlForm h = true) : slotForm h = false := by
  refine Bool.eq_false_iff.2 fun hs => ?_
  rw [ctlForm_of_slotForm hs] at hf
  exact Bool.false_ne_true hf

section
variable {t : Tray} {c tb e : Nat} {p : Pkt}

theorem Tray.cmdForm_slot (h : slotForm p.hdr = true) : t.cmdForm c tb e p = t.slotWrite c tb e p := if_pos h

theorem Tray.cmdForm_ctl (h : ctlForm p.hdr = true) : t.cmdForm c tb e p =
    if hAddr p.hdr = 0xC00 then t.doorbell c tb e (leVal (pBytes p))
    else if hAddr p.hdr = 0xC08 then t.cqBase c tb e (leVal (pBytes p))
    else if hAddr p.hdr = 0xC10 then t.cqCfg c tb e (leVal (pBytes p))
    else t.setWin c tb e { t.win c tb e with cqHead := leVal (pBytes p) % 65536 } := by
  unfold Tray.cmdForm
  dsimp only
  rw [if_neg (by rw [slotForm_of_ctlForm h]; decide), if_pos h]

/-! ### Slot writes -/

/-- The commands of a slot write, cut from its payload. -/
theorem chunks_cmds (hlen : (pBytes p).length = hLen p.hdr) (hf : slotForm p.hdr = true) :
    (chunksOf 48 64 (pBytes p)).map (fun l => BitVec.ofNat 384 (leVal l)) = (List.range (hLen p.hdr / 48)).map (cmdAt p) := by
  obtain ⟨hwhole, hfits, -⟩ := slotForm_fits hf
  rw [chunksOf_eq (by decide) 64 (hLen p.hdr / 48) _ (hlen.trans hwhole) (by omega), List.map_map]
  rfl

/-- A slot write into slots that are not held (R237). -/
theorem Tray.slotWrite_puts (hlen : (pBytes p).length = hLen p.hdr) (hf : slotForm p.hdr = true) (harg : hArg p.hdr % 2 = 0)
    (hen : (t.win c tb e).cqEn = true)
    (hfree : ∀ i, i < hLen p.hdr / 48 → (t.win c tb e).isHeld (hAddr p.hdr / 48 + i) = false) :
    t.slotWrite c tb e p = t.setWin c tb e ((t.win c tb e).puts (hAddr p.hdr / 48) (cmdAt p) (hLen p.hdr / 48)) := by
  have hnone : ¬ (List.range (hLen p.hdr / 48)).any (fun k => (t.win c tb e).isHeld (hAddr p.hdr / 48 + k)) = true := by
    simpa using hfree
  unfold Tray.slotWrite
  dsimp only
  rw [chunks_cmds hlen hf, List.length_map, List.length_range, if_neg (not_not.2 hen), if_neg hnone,
    if_neg (by omega), zipIdx_map_range, List.foldl_map]
  rfl

/-- A slot write over a held slot is answered by CMD_ERR (R237). -/
theorem Tray.slotWrite_held (hlen : (pBytes p).length = hLen p.hdr) (hf : slotForm p.hdr = true)
    (hen : (t.win c tb e).cqEn = true) {i : Nat} (hi : i < hLen p.hdr / 48)
    (hheld : (t.win c tb e).isHeld (hAddr p.hdr / 48 + i) = true) :
    t.slotWrite c tb e p = t.cmdErr c tb e St.SLOT_HELD := by
  have hany : (List.range (hLen p.hdr / 48)).any (fun k => (t.win c tb e).isHeld (hAddr p.hdr / 48 + k)) = true :=
    List.any_eq_true.2 ⟨i, List.mem_range.2 hi, hheld⟩
  unfold Tray.slotWrite
  dsimp only
  rw [chunks_cmds hlen hf, List.length_map, List.length_range, if_neg (not_not.2 hen), if_pos hany]

/-! ### Records of a packet that fails -/

/-- A record that the member's CQ has room for is written. -/
theorem Tray.postRec_writes (hen : (t.win c tb e).cqEn = true) (hroom : 2 ≤ (t.win c tb e).cqFree) (r : Rec) :
    ∃ q : Rec, q.status = r.status ∧ t.postRec c tb e r = t.writeRec c tb e q := by
  refine ⟨{ r with opSeq := if r.kind = K.CMD_ERR ∨ r.kind = K.DOORBELL then 0 else r.opSeq }, rfl, ?_⟩
  unfold Tray.postRec
  dsimp only
  rw [if_neg (not_not.2 hen), if_pos hroom]

/-! ### Control writes -/

section
variable {v : Nat} (hen : (t.win c tb e).cqEn = true) (hnew : diff16 (v % 65536) (t.win c tb e).pi ≠ 0)
include hen hnew

/-- More slots than are free. -/
theorem Tray.doorbell_badPi (hfar : 64 - (t.win c tb e).heldCnt < diff16 (v % 65536) (t.win c tb e).pi) :
    t.doorbell c tb e v = t.postRec c tb e { kind := K.DOORBELL, status := St.BAD_PI, detail := v % 65536 } := by
  unfold Tray.doorbell
  dsimp only
  rw [if_neg (not_not.2 hen), if_neg hnew, if_pos (.inl hfar)]

variable (hfits : diff16 (v % 65536) (t.win c tb e).pi ≤ 64 - (t.win c tb e).heldCnt)
  (hwritten : ∀ k, k < diff16 (v % 65536) (t.win c tb e).pi → ((t.win c tb e).slot ((t.win c tb e).pi + k)).written = true)
include hfits hwritten

theorem Tray.doorbell_fits : t.doorbell c tb e v =
    if t.dbBusy c tb then t.postRec c tb e { kind := K.DOORBELL, status := St.BUSY, detail := v % 65536 }
    else t.setWin c tb e { t.win c tb e with pi := v % 65536 } := by
  have hall : (List.range (diff16 (v % 65536) (t.win c tb e).pi)).all
      (fun k => ((t.win c tb e).slot ((t.win c tb e).pi + k)).written) = true :=
    List.all_eq_true.2 fun k hk => hwritten k (List.mem_range.1 hk)
  unfold Tray.doorbell
  dsimp only
  rw [if_neg (not_not.2 hen), if_neg hnew, if_neg (by rw [hall]; simpa using hfits)]

end

/-- The CQ is not in use: it may be set. -/
theorem Tray.cqBase_sets {v : Nat} (hidle : (t.win c tb e).cqEn = false ∨ (t.win c tb e).pi = (t.win c tb e).ci) :
    t.cqBase c tb e v = t.setWin c tb e { t.win c tb e with cqBase := v } := by
  unfold Tray.cqBase
  dsimp only
  rw [if_neg fun h => hidle.elim (fun hoff => by rw [hoff] at h; exact Bool.false_ne_true h.1) h.2]

theorem Tray.cqBase_refused {v : Nat} (hen : (t.win c tb e).cqEn = true) (hbusy : (t.win c tb e).pi ≠ (t.win c tb e).ci) :
    t.cqBase c tb e v = t.cmdErr c tb e St.BAD_CQ := if_pos ⟨hen, hbusy⟩

section
variable {v : Nat} (hidle : (t.win c tb e).cqEn = false ∨ (t.win c tb e).pi = (t.win c tb e).ci)
include hidle

theorem Tray.cqCfg_disables (hoff : bitOf v 8 = false) :
    t.cqCfg c tb e v = t.setWin c tb e { t.win c tb e with cqEn := false, cqLog := v % 16 } := by
  unfold Tray.cqCfg
  dsimp only
  rw [if_neg fun h => hidle.elim (fun hoff => by rw [hoff] at h; exact Bool.false_ne_true h.1) h.2,
    if_pos (by rw [hoff]; decide)]

/-- An empty CQ is enabled, and takes a TABLE_EVENT. -/
theorem Tray.cqCfg_enables (hon : bitOf v 8 = true) (hlo : 4 ≤ v % 16) (hhi : v % 16 ≤ 12) :
    ∃ r : Rec, r.status = St.OK ∧ t.cqCfg c tb e v =
      (t.setWin c tb e { t.win c tb e with cqEn := true, cqLog := v % 16, tail := 0, cqHead := 0 }).writeRec c tb e r := by
  have hroom : ∀ x : Win, x.tail = 0 → x.cqHead = 0 → 1 ≤ x.cqFree := fun x ht hh => by
    unfold Win.cqFree diff16
    rw [ht, hh]
    exact Nat.one_le_two_pow
  refine ⟨{ kind := K.EVENT, status := St.OK, opSeq := t.opNext c tb, detail := 0 }, rfl, ?_⟩
  unfold Tray.cqCfg
  dsimp only
  rw [if_neg fun h => hidle.elim (fun hoff => by rw [hoff] at h; exact Bool.false_ne_true h.1) h.2,
    if_neg (not_not.2 hon), if_neg (by omega)]
  unfold Tray.tableEvent
  dsimp only
  rw [Tray.win_setWin, if_neg (not_not.2 rfl), if_pos (hroom _ rfl rfl)]
  rfl

end

end

end Sys2Proof.Machine
end

section
/-! SUPPORT. The commands that CMD packets are (R235–R238, R254, R255). -/
namespace Sys2Proof.Machine

theorem exec_cmdSlotWrite (c : Fin 5) (e : Fin 64) (p : Pkt) (s : State) : exec (.cmdSlotWrite c e p) s =
    .next (s.runC c.val (fun t => t.arriveAs c.val e.val p (fun h => hPtype h == P.CMD && !ctlForm h))) := rfl
theorem exec_doorbell (c : Fin 5) (e : Fin 64) (p : Pkt) (s : State) : exec (.doorbell c e p) s =
    .next (s.runC c.val (fun t => t.arriveAs c.val e.val p (fun h => hPtype h == P.CMD && ctlForm h && hAddr h == 0xC00))) := rfl
theorem exec_cqBaseWrite (c : Fin 5) (e : Fin 64) (p : Pkt) (s : State) : exec (.cqBaseWrite c e p) s =
    .next (s.runC c.val (fun t => t.arriveAs c.val e.val p (fun h => hPtype h == P.CMD && ctlForm h && hAddr h == 0xC08))) := rfl
theorem exec_cqCfgWrite (c : Fin 5) (e : Fin 64) (p : Pkt) (s : State) : exec (.cqCfgWrite c e p) s =
    .next (s.runC c.val (fun t => t.arriveAs c.val e.val p (fun h => hPtype h == P.CMD && ctlForm h && hAddr h == 0xC10))) := rfl
theorem exec_cqHeadWrite (c : Fin 5) (e : Fin 64) (p : Pkt) (s : State) : exec (.cqHeadWrite c e p) s =
    .next (s.runC c.val (fun t => t.arriveAs c.val e.val p (fun h => hPtype h == P.CMD && ctlForm h && hAddr h == 0xC18))) := rfl

theorem hTbl_lt (h : Flit) : hTbl h < 256 := Nat.mod_lt _ (by decide)

/-! ### Records and what is done to a window before them -/

section
variable (t : Tray) {c tb e : Nat} (htb : tb < 256) (he : e < 64) (w : Win) (r : Rec)

theorem Tray.setRec_sendsRec : t.sendsRec ((t.setWin c tb e w).writeRec c tb e r) c e r.status :=
  ((t.setWin c tb e w).writeRec_sendsRec c e r).congr rfl rfl

include htb he

theorem Tray.setRec_stays : t.TableStays ((t.setWin c tb e w).writeRec c tb e r) c tb (tblIrq c tb) :=
  ((Tray.TableStays.refl ..).setWin htb e w).trans (Tray.writeRec_stays _ c e r htb he)

theorem Tray.setRec_ok_stays (hr : r.status = 0) (R : Nat → Nat → Prop) :
    t.TableStays ((t.setWin c tb e w).writeRec c tb e r) c tb R :=
  ((Tray.TableStays.refl ..).setWin htb e w).trans (Tray.writeRec_ok_stays _ c e r htb he hr R)

/-- A window is set, and then a record takes its next place. -/
theorem Tray.setRec_setsWin : t.setsWin ((t.setWin c tb e w).writeRec c tb e r) c tb e { w with tail := (w.tail + 1) % 65536 } := by
  have hrec := (t.setWin c tb e w).writeRec_setsWin c e r htb he
  rw [Tray.win_setWin] at hrec
  exact (Tray.setsWin.setWin t htb e w).trans hrec

/-- Whether a record is written, waits or is lost: its window keeps CQ_BASE. -/
theorem Tray.postRec_cqBase : ∃ x, t.setsWin (t.postRec c tb e r) c tb e x ∧ x.cqBase = (t.win c tb e).cqBase := by
  have hlost : t.Stays (t.sat (tblPg c tb) F.TBL_ERR_REC_LOST 1) (fun _ _ => True) := (Tray.Stays.refl ..).sat 1 trivial (by decide)
  unfold Tray.postRec
  dsimp only
  split
  · exact ⟨_, .stay (.refl t c tb fun _ _ => False) rfl e, rfl⟩
  · split
    · exact ⟨_, t.writeRec_setsWin c e _ htb he, rfl⟩
    · split
      · exact ⟨_, .setWin t htb e _, rfl⟩
      · split
        · exact ⟨_, .setWin t htb e _, rfl⟩
        · exact ⟨_, .stay (.of_stays hlost c tb) rfl e, rfl⟩

end

/-! ### From the packet's arrival to its form -/

namespace Tray.HandsOver
variable {t u : Tray} {c e m : Nat} (h : t.HandsOver u c e m)
include h

theorem win (tb g : Nat) : u.win c tb g = t.win c tb g := Tray.win_congr c tb g (h.table c tb)

theorem setsWin (hm : m < 64) {v : Tray} {tb g : Nat} {w : Win} (a : u.setsWin v c tb g w) : t.setsWin v c tb g w :=
  (Tray.setsWin.stay (h.tableStays hm tb) (h.table c tb) g).trans a

theorem sendsRec {v : Tray} {st : Nat} (a : u.sendsRec v c e st) : t.sendsRec v c e st := a.congr h.origq rfl

theorem dbBusy (hm : m < 64) {tb : Nat} (htb : tb < 256) : u.dbBusy c tb = t.dbBusy c tb := by
  unfold Tray.dbBusy Tray.is Tray.trigUsed Tray.tablesOf
  rw [h.gf_tblPg hm htb _ (by decide), h.table, h.tables]

end Tray.HandsOver

theorem Tray.agentAct_cmd {t : Tray} {c e : Nat} {p : Pkt} (h : hPtype p.hdr = P.CMD) : t.agentAct c e p = t.cmdPacket c e p := by
  unfold Tray.agentAct
  rw [show hPtype p.hdr = 5 from h]
  rfl

/-- A CMD packet of a member of its table is taken by its form (R236). -/
theorem Tray.takesFor.cmdForm {t : Tray} {c e : Nat} {p : Pkt} (he : e < 64) (h : t.takesFor c e p) (htype : hPtype p.hdr = P.CMD) :
    ∃ u, t.HandsOver u c e (hSeat p.hdr) ∧ t.arrive c e p = (u.cmdForm c (hTbl p.hdr) e p).dealerSweep c := by
  obtain ⟨htakes, hactive, hmember, hseat⟩ := h
  obtain ⟨u, hu, hrun⟩ := htakes.handsOver he (.inl htype)
  have hgf (f : Fld) (hf : f.off < 4096) : u.gf (tblPg c (hTbl p.hdr)) f = t.gf (tblPg c (hTbl p.hdr)) f :=
    hu.gf_tblPg (TrafficSide.hSeat_lt p.hdr) (hTbl_lt p.hdr) f hf
  have hactive' : u.tst c (hTbl p.hdr) = T.ACTIVE := (hgf _ (by decide)).trans hactive
  have hmember' : u.isMember c (hTbl p.hdr) e = true := by
    unfold Tray.isMember
    rw [hgf _ (by decide)]
    exact hmember
  have hseat' : hSeat p.hdr = u.tSeat c (hTbl p.hdr) := hseat.trans (hgf _ (by decide)).symm
  have hact : u.agentAct c e p = u.cmdForm c (hTbl p.hdr) e p := by
    rw [Tray.agentAct_cmd htype]
    unfold Tray.cmdPacket
    dsimp only
    rw [hactive', hmember', if_neg (by decide), if_neg (not_not.2 hseat'), if_neg (by decide)]
  exact ⟨u, hu, by rw [hrun, hact]⟩

section
variable {s : State} {c : Fin 5} {e : Fin 64} {p : Pkt} (hs : s.tray.settled c.val) (htakes : s.tray.takesFor c.val e.val p)
  (hcmd : hPtype p.hdr = P.CMD)

/-- What a packet of a form shows: nothing but the window changes. -/
def cmdSets (s : State) (c : Fin 5) (e : Fin 64) (p : Pkt) (w : Win) (t : State) : Prop :=
  s.tray.setsWin t.tray c.val (hTbl p.hdr) e.val w ∧ s.tray.keepsRegs t.tray (chargeReg c.val)

/-- What a packet that fails shows: a record leaves, the rest of the window stays. -/
def cmdFails (s : State) (c : Fin 5) (e : Fin 64) (p : Pkt) (st : Nat) (t : State) : Prop :=
  s.tray.setsWin t.tray c.val (hTbl p.hdr) e.val { s.tray.win c.val (hTbl p.hdr) e.val with
    tail := ((s.tray.win c.val (hTbl p.hdr) e.val).tail + 1) % 65536 } ∧
  s.tray.sendsRec t.tray c.val e.val st ∧ t.tray.irqUp (tblPg c.val (hTbl p.hdr)) 8

section
variable {i : Instr} {ok : Flit → Bool}
  (hexec : exec i s = .next (s.runC c.val (fun t => t.arriveAs c.val e.val p ok))) (hok : ok p.hdr = true)
include hs htakes hcmd hexec hok

/-- A packet completes as its form does on the tray that the agent finds, with the tables as they were. -/
theorem completes_cmd {P : State → Prop} {R : Nat → Nat → Prop}
    (h : ∀ u : Tray, s.tray.HandsOver u c.val e.val (hSeat p.hdr) →
      u.TableStays (u.cmdForm c.val (hTbl p.hdr) e.val p) c.val (hTbl p.hdr) R ∧
      ∀ t : State, t.Like (u.cmdForm c.val (hTbl p.hdr) e.val p) → P t) : Completes i s P := by
  obtain ⟨u, hu, hrun⟩ := htakes.cmdForm e.isLt hcmd
  obtain ⟨hstays, hP⟩ := h u hu
  have hsettled := hstays.settled ((hu.tableStays (TrafficSide.hSeat_lt p.hdr) (hTbl p.hdr)).settled hs)
  rw [Tray.dealerSweep_settled _ _ hsettled] at hrun
  exact completes_runC hexec ((Tray.arriveAs_type hok).trans hrun) hsettled hP

/-- A form that sets the window alone. -/
theorem completes_cmdSets {f : Win → Win}
    (h : ∀ u : Tray, s.tray.HandsOver u c.val e.val (hSeat p.hdr) → u.cmdForm c.val (hTbl p.hdr) e.val p =
      u.setWin c.val (hTbl p.hdr) e.val (f (u.win c.val (hTbl p.hdr) e.val))) :
    Completes i s (cmdSets s c e p (f (s.tray.win c.val (hTbl p.hdr) e.val))) := by
  refine completes_cmd (R := chargeReg c.val) hs htakes hcmd hexec hok fun u hu => ?_
  have hm := TrafficSide.hSeat_lt p.hdr
  have hset := (Tray.TableStays.refl u c.val (hTbl p.hdr) (chargeReg c.val)).setWin (hTbl_lt p.hdr) e.val
    (f (s.tray.win c.val (hTbl p.hdr) e.val))
  rw [h u hu, hu.win]
  exact ⟨hset, fun t ht => ⟨ht.setsWin (hu.setsWin hm (Tray.setsWin.setWin u (hTbl_lt p.hdr) e.val _)),
    ht.keepsRegs (Tray.keepsRegs_trans (hu.regs hm) hset.regs)⟩⟩

/-- A form that fails, with room in the CQ. -/
theorem completes_cmdFails {r : Rec} (hr : r.status ≠ 0) (hen : (s.tray.win c.val (hTbl p.hdr) e.val).cqEn = true)
    (hroom : 2 ≤ (s.tray.win c.val (hTbl p.hdr) e.val).cqFree)
    (h : ∀ u : Tray, s.tray.HandsOver u c.val e.val (hSeat p.hdr) → u.cmdForm c.val (hTbl p.hdr) e.val p =
      u.postRec c.val (hTbl p.hdr) e.val r) :
    Completes i s (cmdFails s c e p r.status) := by
  refine completes_cmd (R := tblIrq c.val (hTbl p.hdr)) hs htakes hcmd hexec hok fun u hu => ?_
  have hm := TrafficSide.hSeat_lt p.hdr
  have htb := hTbl_lt p.hdr
  have hwin := hu.win (hTbl p.hdr) e.val
  obtain ⟨q, hq, hpost⟩ := Tray.postRec_writes (t := u) (c := c.val) (tb := hTbl p.hdr) (e := e.val) (by rw [hwin]; exact hen)
    (by rw [hwin]; exact hroom) r
  have hsets := hu.setsWin hm (u.writeRec_setsWin c.val e.val q htb e.isLt)
  rw [hwin] at hsets
  rw [h u hu, hpost, ← hq]
  exact ⟨u.writeRec_stays c.val e.val q htb e.isLt, fun t ht => ⟨ht.setsWin hsets,
    (hu.sendsRec (u.writeRec_sendsRec c.val e.val q)).congr rfl (ht.port ..),
    ht.irqUp (u.writeRec_irqUp c.val e.val q c.isLt htb (by rw [hq]; exact hr))⟩⟩

end

end

theorem Tray.takesFor.length {t : Tray} {c e : Nat} {p : Pkt} (h : t.takesFor c e p) : (pBytes p).length = hLen p.hdr := by
  obtain ⟨⟨-, -, hlen, -⟩, -⟩ := h
  exact pBytes_length hlen

section
variable {s : State} {c : Fin 5} {e : Fin 64} {p : Pkt} (hs : s.tray.settled c.val) (htakes : s.tray.takesFor c.val e.val p)
  (hcmd : hPtype p.hdr = P.CMD)
include hs htakes hcmd

/-! ### Slot writes (R235, R237) -/

section
variable (hform : slotForm p.hdr = true) (hen : (s.tray.win c.val (hTbl p.hdr) e.val).cqEn = true)
include hform hen

theorem cmdSlotWrite_puts (harg : hArg p.hdr % 2 = 0) (hfree : ∀ i, i < hLen p.hdr / 48 →
      (s.tray.win c.val (hTbl p.hdr) e.val).isHeld (hAddr p.hdr / 48 + i) = false) :
    Completes (.cmdSlotWrite c e p) s (cmdSets s c e p
      ((s.tray.win c.val (hTbl p.hdr) e.val).puts (hAddr p.hdr / 48) (cmdAt p) (hLen p.hdr / 48))) :=
  completes_cmdSets (f := fun w => w.puts (hAddr p.hdr / 48) (cmdAt p) (hLen p.hdr / 48)) hs htakes hcmd
    (exec_cmdSlotWrite ..) (by simp [hcmd, ctlForm_of_slotForm hform]) fun u hu =>
    (Tray.cmdForm_slot hform).trans (Tray.slotWrite_puts htakes.length hform harg (by rw [hu.win]; exact hen)
      (by rw [hu.win]; exact hfree))

theorem cmdSlotWrite_held {i : Nat} (hi : i < hLen p.hdr / 48)
    (hheld : (s.tray.win c.val (hTbl p.hdr) e.val).isHeld (hAddr p.hdr / 48 + i) = true)
    (hroom : 2 ≤ (s.tray.win c.val (hTbl p.hdr) e.val).cqFree) :
    Completes (.cmdSlotWrite c e p) s (cmdFails s c e p St.SLOT_HELD) :=
  completes_cmdFails (r := { kind := K.CMD_ERR, status := St.SLOT_HELD }) hs htakes hcmd (exec_cmdSlotWrite ..)
    (by simp [hcmd, ctlForm_of_slotForm hform]) (by decide) hen hroom fun u hu =>
    (Tray.cmdForm_slot hform).trans (Tray.slotWrite_held htakes.length hform (by rw [hu.win]; exact hen) hi
      (by rw [hu.win]; exact hheld))

/-- What a slot write shows of the slots. -/
theorem cmdSlotWrite_shows (harg : hArg p.hdr % 2 = 0) (hfree : ∀ i, i < hLen p.hdr / 48 →
      (s.tray.win c.val (hTbl p.hdr) e.val).isHeld (hAddr p.hdr / 48 + i) = false) :
    Completes (.cmdSlotWrite c e p) s (fun t =>
      (∀ i, i < hLen p.hdr / 48 → (t.tray.win c.val (hTbl p.hdr) e.val).slot (hAddr p.hdr / 48 + i) =
        { cmd := cmdAt p i, written := true }) ∧
      (∀ i, i < 64 → (i < hAddr p.hdr / 48 ∨ hAddr p.hdr / 48 + hLen p.hdr / 48 ≤ i) →
        (t.tray.win c.val (hTbl p.hdr) e.val).slot i = (s.tray.win c.val (hTbl p.hdr) e.val).slot i) ∧
      s.tray.setsWin t.tray c.val (hTbl p.hdr) e.val { s.tray.win c.val (hTbl p.hdr) e.val with
        slots := (t.tray.win c.val (hTbl p.hdr) e.val).slots } ∧
      s.tray.keepsRegs t.tray (chargeReg c.val)) := by
  obtain ⟨-, hfits, -⟩ := slotForm_fits hform
  obtain ⟨t, hexec, hsets, hregs⟩ := cmdSlotWrite_puts hs htakes hcmd hform hen harg hfree
  have hwin := hsets.1
  refine ⟨t, hexec, fun i hi => ?_, fun i hi hout => ?_, ?_, hregs⟩
  · rw [hwin]
    exact Win.puts_slot _ _ hi hfits
  · rw [hwin]
    exact Win.puts_slot_ne _ _ hi hfits hout
  · rw [hwin, ← Win.puts_eq]
    exact hsets

end

/-! ### Control writes (R238, R254, R255) -/

section
variable (hform : ctlForm p.hdr = true)
include hform

section
variable (haddr : hAddr p.hdr = 0xC00) (hen : (s.tray.win c.val (hTbl p.hdr) e.val).cqEn = true)
  (hnew : diff16 (leVal (pBytes p) % 65536) (s.tray.win c.val (hTbl p.hdr) e.val).pi ≠ 0)
include haddr hen hnew

theorem doorbell_badPi (hroom : 2 ≤ (s.tray.win c.val (hTbl p.hdr) e.val).cqFree)
    (hfar : 64 - (s.tray.win c.val (hTbl p.hdr) e.val).heldCnt <
      diff16 (leVal (pBytes p) % 65536) (s.tray.win c.val (hTbl p.hdr) e.val).pi) :
    Completes (.doorbell c e p) s (cmdFails s c e p St.BAD_PI) :=
  completes_cmdFails (r := { kind := K.DOORBELL, status := St.BAD_PI, detail := leVal (pBytes p) % 65536 }) hs htakes hcmd
    (exec_doorbell ..) (by simp [hcmd, hform, haddr]) (show St.BAD_PI ≠ 0 by decide) hen hroom fun u hu => by
    rw [Tray.cmdForm_ctl hform, if_pos haddr]
    rw [← hu.win] at hen hnew hfar
    exact Tray.doorbell_badPi hen hnew hfar

variable (hfits : diff16 (leVal (pBytes p) % 65536) (s.tray.win c.val (hTbl p.hdr) e.val).pi ≤
    64 - (s.tray.win c.val (hTbl p.hdr) e.val).heldCnt)
  (hwritten : ∀ k, k < diff16 (leVal (pBytes p) % 65536) (s.tray.win c.val (hTbl p.hdr) e.val).pi →
    ((s.tray.win c.val (hTbl p.hdr) e.val).slot ((s.tray.win c.val (hTbl p.hdr) e.val).pi + k)).written = true)
include hfits hwritten

omit hs htakes hcmd in
/-- A doorbell over written slots, on the tray that the agent finds. -/
theorem cmdForm_doorbell {u : Tray} (hu : s.tray.HandsOver u c.val e.val (hSeat p.hdr)) :
    u.cmdForm c.val (hTbl p.hdr) e.val p =
      if s.tray.dbBusy c.val (hTbl p.hdr) then u.postRec c.val (hTbl p.hdr) e.val
        { kind := K.DOORBELL, status := St.BUSY, detail := leVal (pBytes p) % 65536 }
      else u.setWin c.val (hTbl p.hdr) e.val { u.win c.val (hTbl p.hdr) e.val with pi := leVal (pBytes p) % 65536 } := by
  rw [Tray.cmdForm_ctl hform, if_pos haddr, ← hu.dbBusy (TrafficSide.hSeat_lt p.hdr) (hTbl_lt p.hdr)]
  rw [← hu.win] at hen hnew hfits hwritten
  exact Tray.doorbell_fits hen hnew hfits hwritten

theorem doorbell_takes (hfree : s.tray.dbBusy c.val (hTbl p.hdr) = false) :
    Completes (.doorbell c e p) s (cmdSets s c e p
      { s.tray.win c.val (hTbl p.hdr) e.val with pi := leVal (pBytes p) % 65536 }) :=
  completes_cmdSets (f := fun w => { w with pi := leVal (pBytes p) % 65536 }) hs htakes hcmd (exec_doorbell ..)
    (by simp [hcmd, hform, haddr]) fun u hu =>
    (cmdForm_doorbell hform haddr hen hnew hfits hwritten hu).trans (if_neg (by rw [hfree]; decide))

theorem doorbell_busy (hroom : 2 ≤ (s.tray.win c.val (hTbl p.hdr) e.val).cqFree)
    (hbusy : s.tray.dbBusy c.val (hTbl p.hdr) = true) : Completes (.doorbell c e p) s (cmdFails s c e p St.BUSY) :=
  completes_cmdFails (r := { kind := K.DOORBELL, status := St.BUSY, detail := leVal (pBytes p) % 65536 }) hs htakes hcmd
    (exec_doorbell ..) (by simp [hcmd, hform, haddr]) (show St.BUSY ≠ 0 by decide) hen hroom fun u hu =>
    (cmdForm_doorbell hform haddr hen hnew hfits hwritten hu).trans (if_pos hbusy)

end

theorem cqBaseWrite_sets (haddr : hAddr p.hdr = 0xC08) (hidle : (s.tray.win c.val (hTbl p.hdr) e.val).cqEn = false ∨
      (s.tray.win c.val (hTbl p.hdr) e.val).pi = (s.tray.win c.val (hTbl p.hdr) e.val).ci) :
    Completes (.cqBaseWrite c e p) s (cmdSets s c e p
      { s.tray.win c.val (hTbl p.hdr) e.val with cqBase := leVal (pBytes p) }) :=
  completes_cmdSets (f := fun w => { w with cqBase := leVal (pBytes p) }) hs htakes hcmd (exec_cqBaseWrite ..)
    (by simp [hcmd, hform, haddr]) fun u hu => by
    rw [Tray.cmdForm_ctl hform, if_neg (by rw [haddr]; decide), if_pos haddr]
    rw [← hu.win] at hidle
    exact Tray.cqBase_sets hidle

theorem cqCfgWrite_disables (haddr : hAddr p.hdr = 0xC10) (hidle : (s.tray.win c.val (hTbl p.hdr) e.val).cqEn = false ∨
      (s.tray.win c.val (hTbl p.hdr) e.val).pi = (s.tray.win c.val (hTbl p.hdr) e.val).ci)
    (hoff : bitOf (leVal (pBytes p)) 8 = false) :
    Completes (.cqCfgWrite c e p) s (cmdSets s c e p
      { s.tray.win c.val (hTbl p.hdr) e.val with cqEn := false, cqLog := leVal (pBytes p) % 16 }) :=
  completes_cmdSets (f := fun w => { w with cqEn := false, cqLog := leVal (pBytes p) % 16 }) hs htakes hcmd
    (exec_cqCfgWrite ..) (by simp [hcmd, hform, haddr]) fun u hu => by
    rw [Tray.cmdForm_ctl hform, if_neg (by rw [haddr]; decide), if_neg (by rw [haddr]; decide), if_pos haddr]
    rw [← hu.win] at hidle
    exact Tray.cqCfg_disables hidle hoff

theorem cqHeadWrite_sets (haddr : hAddr p.hdr = 0xC18) :
    Completes (.cqHeadWrite c e p) s (cmdSets s c e p
      { s.tray.win c.val (hTbl p.hdr) e.val with cqHead := leVal (pBytes p) % 65536 }) :=
  completes_cmdSets (f := fun w => { w with cqHead := leVal (pBytes p) % 65536 }) hs htakes hcmd (exec_cqHeadWrite ..)
    (by simp [hcmd, hform, haddr]) fun u hu => by
    rw [Tray.cmdForm_ctl hform, if_neg (by rw [haddr]; decide), if_neg (by rw [haddr]; decide), if_neg (by rw [haddr]; decide)]

/-- An enabled CQ has one entry taken, by its TABLE_EVENT. -/
theorem cqCfgWrite_enables (haddr : hAddr p.hdr = 0xC10) (hidle : (s.tray.win c.val (hTbl p.hdr) e.val).cqEn = false ∨
      (s.tray.win c.val (hTbl p.hdr) e.val).pi = (s.tray.win c.val (hTbl p.hdr) e.val).ci)
    (hon : bitOf (leVal (pBytes p)) 8 = true) (hlo : 4 ≤ leVal (pBytes p) % 16) (hhi : leVal (pBytes p) % 16 ≤ 12) :
    Completes (.cqCfgWrite c e p) s (fun t =>
      s.tray.setsWin t.tray c.val (hTbl p.hdr) e.val { s.tray.win c.val (hTbl p.hdr) e.val with
        cqEn := true, cqLog := leVal (pBytes p) % 16, tail := 1, cqHead := 0 } ∧
      s.tray.sendsRec t.tray c.val e.val St.OK ∧ s.tray.keepsRegs t.tray (chargeReg c.val)) := by
  refine completes_cmd (R := chargeReg c.val) hs htakes hcmd (exec_cqCfgWrite ..) (by simp [hcmd, hform, haddr]) fun u hu => ?_
  have hm := TrafficSide.hSeat_lt p.hdr
  have htb := hTbl_lt p.hdr
  rw [← hu.win] at hidle
  obtain ⟨r, hr, hset⟩ := Tray.cqCfg_enables hidle hon hlo hhi
  rw [Tray.cmdForm_ctl hform, if_neg (by rw [haddr]; decide), if_neg (by rw [haddr]; decide), if_pos haddr, hset, hu.win, ← hr]
  have hstays := u.setRec_ok_stays (c := c.val) htb e.isLt { s.tray.win c.val (hTbl p.hdr) e.val with
    cqEn := true, cqLog := leVal (pBytes p) % 16, tail := 0, cqHead := 0 } r hr (chargeReg c.val)
  exact ⟨hstays, fun t ht => ⟨ht.setsWin (hu.setsWin hm (u.setRec_setsWin htb e.isLt _ r)),
    (hu.sendsRec (u.setRec_sendsRec _ r)).congr rfl (ht.port ..),
    ht.keepsRegs (Tray.keepsRegs_trans (hu.regs hm) hstays.regs)⟩⟩

theorem cqBaseWrite_refused (haddr : hAddr p.hdr = 0xC08) (hen : (s.tray.win c.val (hTbl p.hdr) e.val).cqEn = true)
    (hbusy : (s.tray.win c.val (hTbl p.hdr) e.val).pi ≠ (s.tray.win c.val (hTbl p.hdr) e.val).ci) :
    Completes (.cqBaseWrite c e p) s (fun t =>
      (t.tray.win c.val (hTbl p.hdr) e.val).cqBase = (s.tray.win c.val (hTbl p.hdr) e.val).cqBase) := by
  refine completes_cmd (R := fun _ _ => True) hs htakes hcmd (exec_cqBaseWrite ..) (by simp [hcmd, hform, haddr]) fun u hu => ?_
  rw [← hu.win] at hen hbusy
  obtain ⟨w, hsets, hw⟩ := u.postRec_cqBase (c := c.val) (hTbl_lt p.hdr) e.isLt { kind := K.CMD_ERR, status := St.BAD_CQ }
  obtain ⟨hwin, -, -, hothers⟩ := hsets
  rw [Tray.cmdForm_ctl hform, if_neg (by rw [haddr]; decide), if_pos haddr, Tray.cqBase_refused hen hbusy]
  exact ⟨hothers.stays, fun t ht => by
    rw [Tray.win_congr _ _ _ (ht.table ..)]
    exact (congrArg Win.cqBase hwin).trans (hw.trans (congrArg Win.cqBase (hu.win ..)))⟩

end

end

/-- Settles O35: each form of a packet sets the window of its member, or writes a record into its CQ, on a tray that the packet's
arrival has only charged. -/
theorem windowsTakeCommands : Obligations.WindowsTakeCommands := fun _ _ _ _ hs htakes hcmd =>
  ⟨fun hform harg hen => ⟨fun hfree => cmdSlotWrite_shows hs htakes hcmd hform hen harg hfree,
     fun _ hi hheld hroom => cmdSlotWrite_held hs htakes hcmd hform hen hi hheld hroom⟩,
   fun hform =>
    ⟨fun haddr hen hnew hfits hwritten hfree => doorbell_takes hs htakes hcmd hform haddr hen hnew hfits hwritten hfree,
     fun haddr hen hnew hroom =>
      ⟨fun hfar => (doorbell_badPi hs htakes hcmd hform haddr hen hnew hroom hfar).mono fun _ h => ⟨h.1, h.2.1⟩,
       fun hfits hwritten hbusy => (doorbell_busy hs htakes hcmd hform haddr hen hnew hfits hwritten hroom hbusy).mono
        fun _ h => ⟨h.1, h.2.1⟩⟩,
     fun haddr hidle => cqBaseWrite_sets hs htakes hcmd hform haddr hidle,
     fun haddr hen hbusy => cqBaseWrite_refused hs htakes hcmd hform haddr hen hbusy,
     fun haddr hidle hon hlo hhi => cqCfgWrite_enables hs htakes hcmd hform haddr hidle hon hlo hhi,
     fun haddr hidle hoff => cqCfgWrite_disables hs htakes hcmd hform haddr hidle hoff,
     fun haddr => cqHeadWrite_sets hs htakes hcmd hform haddr⟩⟩

end Sys2Proof.Machine
end

section
/-! SUPPORT. How a command ends: its head moves, its slot takes the record, the record is issued where the CQ has room (R239, R244,
R255). -/
namespace Sys2Proof.Machine

theorem Win.advance_head (n : Nat) (w : Win) : (w.advance n).head = w.head := by
  induction n generalizing w with
  | zero => rfl
  | succ n ih =>
    unfold Win.advance
    split
    · exact ih _
    · rfl

/-- The registers of a table that count and report a command that fails. -/
def endReg (c tb q o : Nat) : Prop := q = tblPg c tb ∧ (o = A.TBL_OPS ∨ o = 0x20)

/-- A command that fails is counted (R239). -/
def Tray.endCounted (t : Tray) (c tb : Nat) (r : Rec) : Tray := if r.status = 0 then t else t.cnt (tblPg c tb) F.TBL_OPS_ERR 1

/-- The slot of an ended command, its record waiting. -/
def Win.slotEnded (w : Win) (i : Nat) (wait : Option Rec) : Win := w.setSlot i { w.slot i with ended := true, wait := wait }

/-- The record of the slot is issued, and CI moves over the slots that are done. -/
def Win.slotIssued (w : Win) (i : Nat) : Win := (w.setSlot i { w.slot i with wait := none }).advance 64

theorem Win.slotEnded_head (w : Win) (i : Nat) (wait : Option Rec) : (w.slotEnded i wait).head = w.head := rfl

theorem Win.slotIssued_head (w : Win) (i : Nat) : (w.slotIssued i).head = w.head := Win.advance_head ..

section
variable (t : Tray) {c tb e i : Nat} {silent : Bool} {r : Rec}

theorem Tray.endCmd_silent (hs : silent = true) (hr : r.status = 0) :
    t.endCmd c tb e i silent r = t.setWin c tb e (((t.win c tb e).slotEnded i none).advance 64) := by
  unfold Tray.endCmd Win.slotEnded
  dsimp only
  rw [if_pos ⟨hs, hr⟩, if_pos hr]

/-- A command that ends with a record: it is issued, or waits in the slot. -/
theorem Tray.endCmd_records (h : ¬ (silent = true ∧ r.status = 0)) :
    t.endCmd c tb e i silent r =
      if (t.win c tb e).cqEn = true ∧ 2 ≤ (t.win c tb e).cqFree then
        (((t.endCounted c tb r).setWin c tb e ((t.win c tb e).slotEnded i (some r))).setWin c tb e
          (((t.win c tb e).slotEnded i (some r)).slotIssued i)).writeRec c tb e r
      else (t.endCounted c tb r).setWin c tb e ((t.win c tb e).slotEnded i (some r)) := by
  have hissue (u : Tray) : (u.setWin c tb e ((t.win c tb e).slotEnded i (some r))).issueSlot c tb e i =
      ((u.setWin c tb e ((t.win c tb e).slotEnded i (some r))).setWin c tb e
        (((t.win c tb e).slotEnded i (some r)).slotIssued i)).writeRec c tb e r := by
    have hwait : (((t.win c tb e).slotEnded i (some r)).slot i).wait = some r := congrArg Slot.wait (Win.slot_setSlot ..)
    unfold Tray.issueSlot Win.slotIssued
    dsimp only
    rw [Tray.win_setWin, hwait]
  unfold Tray.endCmd
  dsimp only
  rw [if_neg h]
  split
  · exact hissue _
  · rfl

theorem Tray.endCounted_stays (c tb : Nat) (r : Rec) : t.Stays (t.endCounted c tb r) (endReg c tb) := by
  unfold Tray.endCounted
  split
  · exact .refl ..
  · exact (Tray.Stays.refl ..).cnt 1 ⟨rfl, .inl rfl⟩ (by decide)

/-- A command that ends well is not counted, and raises nothing. -/
theorem Tray.endCounted_ok (hr : r.status = 0) : t.endCounted c tb r = t := if_pos hr

theorem Tray.endCounted_table : (t.endCounted c tb r).table c tb = t.table c tb := by
  unfold Tray.endCounted
  split
  · rfl
  · exact Tray.table_cnt ..

/-- The records of a command that ends: what it leaves at its member, and the interrupt of one that fails. -/
theorem Tray.endCmd_issues (h : ¬ (silent = true ∧ r.status = 0)) (hen : (t.win c tb e).cqEn = true)
    (hroom : 2 ≤ (t.win c tb e).cqFree) :
    t.sendsRec (t.endCmd c tb e i silent r) c e r.status ∧
      (c < 5 → tb < 256 → r.status ≠ 0 → (t.endCmd c tb e i silent r).irqUp (tblPg c tb) 8) := by
  rw [t.endCmd_records h, if_pos ⟨hen, hroom⟩]
  have hport : (t.endCounted c tb r).port c e = t.port c e := by
    unfold Tray.endCounted
    split
    · rfl
    · exact Tray.port_cnt ..
  refine ⟨(Tray.writeRec_sendsRec _ c e r).congr ?_ rfl, fun hc htb hr => Tray.writeRec_irqUp _ c e r hc htb hr⟩
  rw [Tray.port_setWin, Tray.port_setWin, hport]

variable (htb : tb < 256) (he : e < 64)
include htb he

/-- Of the table only the member's window changes, and not its head. -/
theorem Tray.endCmd_setsWin : ∃ w, t.setsWin (t.endCmd c tb e i silent r) c tb e w ∧ w.head = (t.win c tb e).head := by
  by_cases h : silent = true ∧ r.status = 0
  · rw [t.endCmd_silent h.1 h.2]
    exact ⟨_, .setWin t htb e _, (Win.advance_head ..).trans (Win.slotEnded_head ..)⟩
  · have hcounted := Tray.setsWin.stay (.of_stays (t.endCounted_stays c tb r) c tb) (t.endCounted_table (r := r)) e
    have hended := hcounted.trans (.setWin (t.endCounted c tb r) htb e ((t.win c tb e).slotEnded i (some r)))
    rw [t.endCmd_records h]
    split
    · exact ⟨_, hended.trans (Tray.setRec_setsWin _ htb he _ r), (Win.slotIssued_head ..).trans (Win.slotEnded_head ..)⟩
    · exact ⟨_, hended, Win.slotEnded_head ..⟩

theorem Tray.endCmd_stays : t.TableStays (t.endCmd c tb e i silent r) c tb (endReg c tb) := by
  by_cases h : silent = true ∧ r.status = 0
  · rw [t.endCmd_silent h.1 h.2]
    exact (Tray.TableStays.refl ..).setWin htb e _
  · have hended := (Tray.TableStays.of_stays (t.endCounted_stays c tb r) c tb).setWin htb e ((t.win c tb e).slotEnded i (some r))
    rw [t.endCmd_records h]
    split
    · exact hended.trans ((Tray.setRec_stays _ htb he _ r).mono fun _ _ hq => ⟨hq.1, .inr hq.2⟩)
    · exact hended

/-- A command that ends well writes no register. -/
theorem Tray.endCmd_ok_stays (hr : r.status = 0) (R : Nat → Nat → Prop) :
    t.TableStays (t.endCmd c tb e i silent r) c tb R := by
  by_cases h : silent = true ∧ r.status = 0
  · rw [t.endCmd_silent h.1 h.2]
    exact (Tray.TableStays.refl ..).setWin htb e _
  · rw [t.endCmd_records h, t.endCounted_ok hr]
    have hended := (Tray.TableStays.refl t c tb R).setWin htb e ((t.win c tb e).slotEnded i (some r))
    split
    · exact hended.trans (Tray.setRec_ok_stays _ htb he _ r hr R)
    · exact hended

/-- One that fails counts in TBL_OPS_ERR. -/
theorem Tray.endCmd_counts (hr : r.status ≠ 0) : (t.endCmd c tb e i silent r).gf (tblPg c tb) F.TBL_OPS_ERR =
    (t.gf (tblPg c tb) F.TBL_OPS_ERR + 1) % 2 ^ F.TBL_OPS_ERR.w := by
  have hcount : (t.endCounted c tb r).gf (tblPg c tb) F.TBL_OPS_ERR = (t.gf (tblPg c tb) F.TBL_OPS_ERR + 1) % 2 ^ F.TBL_OPS_ERR.w := by
    unfold Tray.endCounted
    rw [if_neg hr]
    exact Tray.gf_cnt_self _ _ _ _ (by decide)
  rw [t.endCmd_records fun h => hr h.2]
  split
  · exact (Tray.keepsRegs_gf (Tray.setRec_stays _ htb he _ r).regs _ _ (by decide) fun hq => absurd hq.2 (by decide)).trans hcount
  · exact hcount

end

end Sys2Proof.Machine
end

section
/-! SUPPORT. Commands at the head of their queue that end there (R239, R243, R244), and records that waited (R255). -/
namespace Sys2Proof.Machine

theorem exec_commandHead (c : Fin 5) (tb : Fin 256) (e : Fin 64) (s : State) : exec (.commandHead c tb e) s =
    .next (s.runC c.val (fun t => t.commandHead c.val tb.val e.val (fun o => o != O.NOP && o != O.CNT_ADD))) := rfl
theorem exec_nop (c : Fin 5) (tb : Fin 256) (e : Fin 64) (s : State) : exec (.nop c tb e) s =
    .next (s.runC c.val (fun t => t.commandHead c.val tb.val e.val (fun o => o == O.NOP))) := rfl
theorem exec_cntAdd (c : Fin 5) (tb : Fin 256) (e : Fin 64) (s : State) : exec (.cntAdd c tb e) s =
    .next (s.runC c.val (fun t => t.commandHead c.val tb.val e.val (fun o => o == O.CNT_ADD))) := rfl
theorem exec_cqRecordIssue (c : Fin 5) (tb : Fin 256) (e : Fin 64) (s : State) : exec (.cqRecordIssue c tb e) s =
    .next (s.run (fun t => t.issueNext c.val tb.val e.val)) := rfl

/-! ### Trigger counters (R247) -/

theorem ctrFld_off (i : Nat) : (ctrFld i).off = A.TBL_CTR + 8 * i := rfl

theorem ctrFld_lt {i : Nat} (hi : i < 16) : (ctrFld i).off < 4096 := by
  rw [ctrFld_off]
  unfold A.TBL_CTR
  omega

theorem cmdIncCtr_lt (x : BitVec 384) : cmdIncCtr x < 16 := Nat.mod_lt _ (by decide)

section
variable (t : Tray) (c k i n : Nat)

theorem Tray.incCtr_table (d tb : Nat) : (t.incCtr c k i n).table d tb = t.table d tb := Tray.table_cnt ..

theorem Tray.incCtr_adds : (t.incCtr c k i n).gf (tblPg c k) (ctrFld i) = (t.gf (tblPg c k) (ctrFld i) + n) % 2 ^ 32 :=
  Tray.gf_cnt_self t (tblPg c k) (ctrFld i) n (by rw [show (ctrFld i).lo + (ctrFld i).w = 32 from rfl]; decide)

theorem Tray.incCtr_stays {i : Nat} (hi : i < 16) :
    t.Stays (t.incCtr c k i n) (fun q o => q = tblPg c k ∧ o = (ctrFld i).off) :=
  (Tray.Stays.refl ..).cnt n ⟨rfl, rfl⟩ (ctrFld_lt hi)

end

/-! ### A command ends at the head -/

/-- The window whose head has moved past its command. -/
def Win.popped (w : Win) : Win := { w with head := (w.head + 1) % 65536 }

/-- The record of a command that ends. -/
def cmdRec (x : BitVec 384) (st : Nat) : Rec := { kind := K.OP_DONE, status := st, opSeq := cmdSeq x, userTag := cmdTag x }

/-- The head moves past the command, and the command ends. -/
def Tray.headEnds (t : Tray) (c tb e i : Nat) (x : BitVec 384) (st : Nat) : Tray :=
  (t.popHead c tb e).endCmd c tb e i (cmdSilent x) (cmdRec x st)

section
variable {t : Tray} {c tb e i : Nat} {x : BitVec 384} {st : Nat}

theorem Tray.popHead_eq : t.popHead c tb e = t.setWin c tb e (t.win c tb e).popped := rfl

theorem Tray.popHead_win : (t.popHead c tb e).win c tb e = (t.win c tb e).popped := Tray.win_setWin ..

/-- The records of a command that ends at the head. -/
theorem Tray.headEnds_issues (h : ¬ (cmdSilent x = true ∧ st = 0)) (hen : (t.win c tb e).cqEn = true)
    (hroom : 2 ≤ (t.win c tb e).cqFree) : t.sendsRec (t.headEnds c tb e i x st) c e st ∧
      (c < 5 → tb < 256 → st ≠ 0 → (t.headEnds c tb e i x st).irqUp (tblPg c tb) 8) := by
  obtain ⟨hsent, hirq⟩ := (t.popHead c tb e).endCmd_issues (c := c) (tb := tb) (e := e) (i := i) (r := cmdRec x st) h
    (by rw [Tray.popHead_win]; exact hen) (by rw [Tray.popHead_win]; exact hroom)
  exact ⟨hsent.congr (by rw [Tray.popHead_eq, Tray.port_setWin]) rfl, hirq⟩

variable (htb : tb < 256) (he : e < 64)
include htb he

theorem Tray.headEnds_head : ((t.headEnds c tb e i x st).win c tb e).head = ((t.win c tb e).head + 1) % 65536 := by
  obtain ⟨w, ⟨hwin, -⟩, hhead⟩ := (t.popHead c tb e).endCmd_setsWin (c := c) (i := i) (silent := cmdSilent x) (r := cmdRec x st)
    htb he
  unfold Tray.headEnds
  rw [hwin, hhead, Tray.popHead_win]
  rfl

theorem Tray.headEnds_stays : t.TableStays (t.headEnds c tb e i x st) c tb (endReg c tb) :=
  ((Tray.TableStays.refl ..).setWin htb e _).trans ((t.popHead c tb e).endCmd_stays htb he)

/-- A command that ends well writes no register. -/
theorem Tray.headEnds_ok_stays (hst : st = 0) (R : Nat → Nat → Prop) : t.TableStays (t.headEnds c tb e i x st) c tb R :=
  ((Tray.TableStays.refl ..).setWin htb e _).trans ((t.popHead c tb e).endCmd_ok_stays htb he hst R)

theorem Tray.headEnds_counts (hst : st ≠ 0) : (t.headEnds c tb e i x st).gf (tblPg c tb) F.TBL_OPS_ERR =
    (t.gf (tblPg c tb) F.TBL_OPS_ERR + 1) % 2 ^ F.TBL_OPS_ERR.w :=
  ((t.popHead c tb e).endCmd_counts htb he hst).trans (by rw [Tray.popHead_eq, Tray.gf_setWin])

omit htb he in
/-- A silent command that ends well sends nothing. -/
theorem Tray.headEnds_silent (hsilent : cmdSilent x = true) (hst : st = 0) : (t.headEnds c tb e i x st).ports = t.ports := by
  unfold Tray.headEnds
  rw [Tray.endCmd_silent _ hsilent hst, Tray.setWin_ports, Tray.popHead_eq, Tray.setWin_ports]

end

section
variable {s : State} {c : Fin 5} {tb : Fin 256} {e : Fin 64} {i : Nat} {x : BitVec 384} {st : Nat}
  (hs : s.tray.settled c.val) (hruns : s.tray.tRuns c.val tb.val = true)
  (hhead : s.tray.headOf c.val tb.val e.val = some (i, x)) (hdue : s.tray.headDue c.val tb.val x = .ends st)
include hruns hhead hdue

/-- The checks of a command that is for this step of its queue, with what CNT_ADD does first. -/
theorem commandHead_ends {want : Nat → Bool} (hwant : want (cmdOpcode x) = true) :
    s.tray.commandHead c.val tb.val e.val want =
      (if st = St.OK ∧ cmdOpcode x = O.CNT_ADD then
        s.tray.incCtr c.val (cmdWaitTbl x) (cmdIncCtr x) (cmdAddVal x) else s.tray).headEnds c.val tb.val e.val i x st := by
  unfold Tray.commandHead
  rw [if_neg (not_not.2 hruns), hhead]
  dsimp only
  rw [hdue]
  dsimp only
  rw [if_neg (not_not.2 hwant)]
  rfl

include hs

theorem commandHead_fails (hnop : cmdOpcode x ≠ O.NOP) (hadd : cmdOpcode x ≠ O.CNT_ADD) (hst : st ≠ St.OK)
    (hen : (s.tray.win c.val tb.val e.val).cqEn = true) (hroom : 2 ≤ (s.tray.win c.val tb.val e.val).cqFree) :
    Completes (.commandHead c tb e) s (fun t =>
      (t.tray.win c.val tb.val e.val).head = ((s.tray.win c.val tb.val e.val).head + 1) % 65536 ∧
      s.tray.sendsRec t.tray c.val e.val st ∧
      t.tray.gf (tblPg c.val tb.val) F.TBL_OPS_ERR =
        (s.tray.gf (tblPg c.val tb.val) F.TBL_OPS_ERR + 1) % 2 ^ F.TBL_OPS_ERR.w ∧
      t.tray.irqUp (tblPg c.val tb.val) 8 ∧
      s.tray.keepsRegs t.tray (endReg c.val tb.val) ∧ s.tray.keepsOtherTables t.tray c.val tb.val) := by
  have hrun := commandHead_ends (want := fun o => o != O.NOP && o != O.CNT_ADD) hruns hhead hdue (by simp [hnop, hadd])
  rw [if_neg fun h => hst h.1] at hrun
  have hstays := s.tray.headEnds_stays (c := c.val) (i := i) (x := x) (st := st) tb.isLt e.isLt
  obtain ⟨hsent, hirq⟩ := s.tray.headEnds_issues (i := i) (fun h : cmdSilent x = true ∧ st = 0 => hst h.2) hen hroom
  exact completes_runC (exec_commandHead ..) hrun (hstays.settled hs) fun t ht =>
    ⟨by rw [Tray.win_congr _ _ _ (ht.table ..)]; exact Tray.headEnds_head tb.isLt e.isLt, hsent.congr rfl (ht.port ..),
      (ht.gf ..).trans (Tray.headEnds_counts tb.isLt e.isLt hst), ht.irqUp (hirq c.isLt tb.isLt hst), ht.tableStays hstays⟩

theorem nop_ends (hop : cmdOpcode x = O.NOP) (hst : st = St.OK) (hen : (s.tray.win c.val tb.val e.val).cqEn = true)
    (hroom : 2 ≤ (s.tray.win c.val tb.val e.val).cqFree) :
    Completes (.nop c tb e) s (fun t =>
      (t.tray.win c.val tb.val e.val).head = ((s.tray.win c.val tb.val e.val).head + 1) % 65536 ∧
      (cmdSilent x = false → s.tray.sendsRec t.tray c.val e.val St.OK) ∧
      (cmdSilent x = true → t.tray.ports = s.tray.ports) ∧
      s.tray.keepsRegs t.tray (fun _ _ => False) ∧ s.tray.keepsOtherTables t.tray c.val tb.val) := by
  have hrun := commandHead_ends (want := fun o => o == O.NOP) hruns hhead hdue (beq_iff_eq.2 hop)
  rw [if_neg fun h => absurd (hop.symm.trans h.2) (by decide)] at hrun
  have hstays := s.tray.headEnds_ok_stays (c := c.val) (i := i) (x := x) tb.isLt e.isLt hst (fun _ _ => False)
  refine completes_runC (exec_nop ..) hrun (hstays.settled hs) fun t ht =>
    ⟨by rw [Tray.win_congr _ _ _ (ht.table ..)]; exact Tray.headEnds_head tb.isLt e.isLt, fun hloud => ?_,
      fun hsilent => ht.ports.trans (Tray.headEnds_silent hsilent hst), ht.tableStays hstays⟩
  rw [← hst]
  exact (s.tray.headEnds_issues (i := i) (fun h : cmdSilent x = true ∧ st = 0 => by rw [hloud] at h; exact Bool.false_ne_true h.1)
    hen hroom).1.congr rfl (ht.port ..)

theorem cntAdd_adds (hop : cmdOpcode x = O.CNT_ADD) (hst : st = St.OK) :
    Completes (.cntAdd c tb e) s (fun t =>
      t.tray.gf (tblPg c.val (cmdWaitTbl x)) (ctrFld (cmdIncCtr x)) =
        (s.tray.gf (tblPg c.val (cmdWaitTbl x)) (ctrFld (cmdIncCtr x)) + cmdAddVal x) % 2 ^ 32 ∧
      (t.tray.win c.val tb.val e.val).head = ((s.tray.win c.val tb.val e.val).head + 1) % 65536 ∧
      s.tray.keepsRegs t.tray (fun q o => q = tblPg c.val (cmdWaitTbl x) ∧ o = (ctrFld (cmdIncCtr x)).off) ∧
      s.tray.keepsOtherTables t.tray c.val tb.val) := by
  have hrun := commandHead_ends (want := fun o => o == O.CNT_ADD) hruns hhead hdue (beq_iff_eq.2 hop)
  rw [if_pos ⟨hst, hop⟩] at hrun
  have hctr := s.tray.incCtr_stays c.val (cmdWaitTbl x) (cmdAddVal x) (cmdIncCtr_lt x)
  have hends := Tray.headEnds_ok_stays (t := s.tray.incCtr c.val (cmdWaitTbl x) (cmdIncCtr x) (cmdAddVal x)) (c := c.val) (i := i)
    (x := x) tb.isLt e.isLt hst (fun _ _ => False)
  have hstays := (Tray.TableStays.of_stays hctr c.val tb.val).trans (hends.mono fun _ _ hf => hf.elim)
  have hwin := Tray.win_congr c.val tb.val e.val (s.tray.incCtr_table c.val (cmdWaitTbl x) (cmdIncCtr x) (cmdAddVal x) c.val tb.val)
  refine completes_runC (exec_cntAdd ..) hrun (hstays.settled hs) fun t ht => ⟨?_, ?_, ht.tableStays hstays⟩
  · exact (ht.gf ..).trans ((Tray.keepsRegs_gf hends.regs _ _ (ctrFld_lt (cmdIncCtr_lt x)) id).trans (Tray.incCtr_adds ..))
  · rw [Tray.win_congr _ _ _ (ht.table ..), Tray.headEnds_head tb.isLt e.isLt, hwin]

end

theorem cqRecordIssue_issues {s : State} {c : Fin 5} {tb : Fin 256} {e : Fin 64} {r : Rec}
    (hen : (s.tray.win c.val tb.val e.val).cqEn = true) (hroom : 2 ≤ (s.tray.win c.val tb.val e.val).cqFree)
    (hslots : ∀ k, k < (s.tray.win c.val tb.val e.val).heldCnt →
      ((s.tray.win c.val tb.val e.val).slot ((s.tray.win c.val tb.val e.val).ci + k)).wait = none)
    (hops : (s.tray.win c.val tb.val e.val).waitOps = []) (herr : (s.tray.win c.val tb.val e.val).waitErr = some r) :
    Completes (.cqRecordIssue c tb e) s (fun t =>
      s.tray.setsWin t.tray c.val tb.val e.val { s.tray.win c.val tb.val e.val with
        waitErr := none, tail := ((s.tray.win c.val tb.val e.val).tail + 1) % 65536 } ∧
      s.tray.sendsRec t.tray c.val e.val r.status ∧ s.tray.keepsRegs t.tray (tblIrq c.val tb.val)) := by
  have hnone : ((List.range (s.tray.win c.val tb.val e.val).heldCnt).map fun k => (s.tray.win c.val tb.val e.val).ci + k).find?
      (fun i => ((s.tray.win c.val tb.val e.val).slot i).wait.isSome) = none := by
    simpa using hslots
  have hrun : s.tray.issueNext c.val tb.val e.val =
      (s.tray.setWin c.val tb.val e.val { s.tray.win c.val tb.val e.val with waitErr := none }).writeRec c.val tb.val e.val r := by
    unfold Tray.issueNext
    dsimp only
    rw [if_neg (by rw [hen, not_or]; exact ⟨fun h => h rfl, Nat.not_lt.2 hroom⟩), hnone]
    dsimp only
    rw [hops]
    dsimp only
    rw [herr]
  exact completes_run (exec_cqRecordIssue ..) hrun fun t ht =>
    ⟨ht.setsWin (s.tray.setRec_setsWin tb.isLt e.isLt _ r), (s.tray.setRec_sendsRec _ r).congr rfl (ht.port ..),
      ht.keepsRegs (s.tray.setRec_stays tb.isLt e.isLt _ r).regs⟩

end Sys2Proof.Machine
end

section
/-! SUPPORT. Writes of a table's page: a trigger counter (R247), and ENABLE of a FREE table (R263). -/
namespace Sys2Proof.Machine

theorem exec_tblCtrWrite (c : Fin 5) (tb : Fin 256) (i : Fin 16) (v : Word) (s : State) : exec (.tblCtrWrite c tb i v) s =
    .next (s.run (fun t => t.write8 0 c.val (0x200 + tb.val) (A.TBL_CTR + 8 * i.val) v)) := rfl
theorem exec_tableEnable (c : Fin 5) (tb : Fin 256) (s : State) : exec (.tableEnable c tb) s =
    .next (s.run (fun t => t.write8 0 c.val (0x200 + tb.val) A.PG_CTL
      (F.PG_CTL_ENABLE.put (t.rd (tblPg c.val tb.val) A.PG_CTL) 1))) := rfl

/-! ### A trigger counter -/

section
variable {t : Tray} {c tb : Nat} (hc : c < 5) (htb : tb < 256)
include hc htb

theorem regExists_tblPg (off : Nat) : regExists (tblPg c tb) off = true :=
  regExists_of _ _ (by rw [pageKind_tblPg c tb hc htb]; decide) (by rw [pageKind_tblPg c tb hc htb]; decide)

/-- A write that is performed to a trigger counter sets it. -/
theorem Tray.write8_ctr {i : Nat} (hi : i < 16) {v : Word} (ha : t.accepts c (0x200 + tb) (A.TBL_CTR + 8 * i) = true)
    (hu : (t.chip c).coreUp = true) :
    t.write8 0 c (0x200 + tb) (A.TBL_CTR + 8 * i) v =
      (t.sf (tblPg c tb) (ctrFld i) (F.TBL_CTR_VALUE.get v)).sweep c := by
  have hreg : ∀ i < 16, ∃ r, (blockRegs .table).find? (fun r => r.has (A.TBL_CTR + 8 * i)) = some r ∧ r.rwsMask = 0 := by
    decide +kernel
  have hoff : A.TBL_CTR ≤ A.TBL_CTR + 8 * i ∧ A.TBL_CTR + 8 * i < A.TBL_CTR + 128 := by omega
  have hidx : (A.TBL_CTR + 8 * i - A.TBL_CTR) / 8 = i := by omega
  have hA : A.TBL_CTR = 0x180 := rfl
  have hkind : pageKindOf 0 (0x200 + tb) = some .table := by
    rw [← pageKind_tblPg c tb hc htb]
    exact (pageKind_chipPg c _ hc (by omega)).symm
  refine t.write8_own _ 0 c (0x200 + tb) _ v .table hc (by omega) ha (by omega) (by omega) hkind (regExists_tblPg hc htb _)
    (hreg i hi) (fun h => by cases h.1) hu fun r _ => ?_
  unfold Tray.writeChip
  rw [show chipPg c (0x200 + tb) = tblPg c tb from rfl, pageKind_tblPg c tb hc htb]
  dsimp only
  rw [if_pos hoff, hidx]

end

/-! ### ENABLE -/

/-- Writing ENABLE leaves the staged fields of PG_CTL. -/
theorem enable_unstaged (x : Word) : (F.PG_CTL_ENABLE.put x 1 ^^^ x) &&& 0xFF02 = 0 := by
  refine BitVec.eq_of_getLsbD_eq fun i hi => ?_
  rw [BitVec.getLsbD_and, BitVec.getLsbD_xor, Fld.put_bit _ _ _ (by decide) _ hi]
  by_cases hzero : i = 0
  · subst hzero
    exact Bool.and_false _
  · have hout : ¬ (F.PG_CTL_ENABLE.lo ≤ i ∧ i < F.PG_CTL_ENABLE.lo + F.PG_CTL_ENABLE.w) := fun h =>
      hzero (Nat.lt_one_iff.1 h.2)
    rw [if_neg hout, Bool.xor_self, Bool.false_and]
    exact (BitVec.getLsbD_zero (w := 64) (i := i)).symm

section
variable {t : Tray} {c tb : Nat} (hc : c < 5) (htb : tb < 256)
include hc htb

theorem Tray.writeActive_enable (hu : (t.chip c).coreUp = true) (hoff : t.enabled (tblPg c tb) = false) :
    t.writeActive (tblPg c tb) A.PG_CTL (F.PG_CTL_ENABLE.put (t.rd (tblPg c tb) A.PG_CTL) 1) 0 =
      t.tableEnable c tb (Origin.wr 0 A.PG_CTL) := by
  obtain ⟨r, hr, hmask⟩ : ∃ r, hdrRegs.find? (fun r => r.has A.PG_CTL) = some r ∧ r.rwsMask = 0xFF02 := by decide +kernel
  have hkind := pageKind_tblPg c tb hc htb
  have hdiv : tblPg c tb / 4096 = c := chipPg_div c _ (by omega)
  have hmod : tblPg c tb % 4096 - 0x200 = tb := by
    unfold tblPg chipPg
    omega
  have hon : (F.PG_CTL_ENABLE.get (F.PG_CTL_ENABLE.put (t.rd (tblPg c tb) A.PG_CTL) 1) == 1) = true := by
    rw [Fld.get_put _ _ _ (by decide)]
    rfl
  rw [t.writeActive_found _ _ _ 0 r ((findReg_hdr (by rw [hkind]; decide) (by decide)).trans hr)
    (by rw [hmask]; exact enable_unstaged _), if_pos (by decide)]
  unfold Tray.writeHeader Tray.pgCtl
  dsimp only
  rw [if_pos rfl, hon, show isChipPg (tblPg c tb) = true from isChipPg_chipPg c _ hc (by omega), if_pos rfl]
  unfold Tray.setEnable
  dsimp only
  rw [hdiv, hu, hkind, hoff, hmod]
  rfl

end

/-- The value that a write of a counter sets. -/
theorem ctrValue_get (v : Word) : F.TBL_CTR_VALUE.get v = v.toNat % 2 ^ 32 := by
  refine Nat.eq_of_testBit_eq fun i => ?_
  rw [Fld.get_testBit _ _ (by decide), Nat.testBit_mod_two_pow, show F.TBL_CTR_VALUE.lo + i = i from Nat.zero_add i]
  rfl

theorem ctrFld_fits (i : Nat) : (ctrFld i).lo + (ctrFld i).w ≤ 64 := show 0 + 32 ≤ 64 by decide

/-- The registers of a table that enabling it writes. -/
def startReg (c tb q o : Nat) : Prop :=
  q = tblPg c tb ∧ (o = A.PG_CTL ∨ o = A.TBL_STS ∨ (A.TBL_CTR ≤ o ∧ o < A.TBL_CTR + 128) ∨ o = 0x20)

/-- The registers of a table that becomes ACTIVE: ENABLE, its state, OP_NEXT and its counters. -/
def Tray.tableZeroed (t : Tray) (c tb : Nat) : Tray :=
  (((t.sb (tblPg c tb) F.PG_CTL_ENABLE true).sf (tblPg c tb) F.TBL_STS_STATE T.ACTIVE).sf (tblPg c tb) F.TBL_STS_OP_NEXT 0).each
    (List.range 16) (fun t i => t.sf (tblPg c tb) (ctrFld i) 0)

section
variable (t : Tray) (c tb : Nat)

theorem Tray.tableZeroed_stays : t.Stays (t.tableZeroed c tb) (startReg c tb) := by
  refine Tray.Stays.each _ _ (fun w i hi => (Tray.Stays.refl ..).sf 0 ⟨rfl, .inr (.inr (.inl ?_))⟩ (ctrFld_lt (List.mem_range.1 hi)))
    ((((Tray.Stays.refl t _).sb true ⟨rfl, .inl rfl⟩ (by decide)).sf _ ⟨rfl, .inr (.inl rfl)⟩ (by decide)).sf 0
      ⟨rfl, .inr (.inl rfl)⟩ (by decide))
  have := List.mem_range.1 hi
  rw [ctrFld_off]
  omega

/-- A field that is no counter's reads as before the counters were cleared. -/
theorem Tray.gf_ctrs (u : Tray) (q : Nat) (f : Fld) (hf : f.off < 0x180) :
    (u.each (List.range 16) (fun t i => t.sf (tblPg c tb) (ctrFld i) 0)).gf q f = u.gf q f :=
  Tray.each_same (fun w => w.gf q f) _ _ (fun w i hi => by
    have hi := List.mem_range.1 hi
    refine Tray.gf_sf_off _ _ _ _ _ _ ?_
    rw [ctrFld_off]
    unfold A.TBL_CTR
    omega) u

theorem Tray.tableZeroed_shows : (t.tableZeroed c tb).tst c tb = T.ACTIVE ∧ (t.tableZeroed c tb).enabled (tblPg c tb) = true ∧
    (t.tableZeroed c tb).opNext c tb = 0 ∧ ∀ i, i < 16 → (t.tableZeroed c tb).gf (tblPg c tb) (ctrFld i) = 0 := by
  refine ⟨?_, ?_, ?_, fun i hi => ?_⟩
  · refine (Tray.gf_ctrs c tb _ _ _ (by decide)).trans ?_
    rw [Tray.gf_sf_ne _ _ _ _ _ (by decide) (by decide) (by decide), Tray.gf_sf_self _ _ _ _ (by decide)]
    rfl
  · refine beq_iff_eq.2 ((Tray.gf_ctrs c tb _ _ _ (by decide)).trans ?_)
    rw [Tray.gf_sf_off _ _ _ _ _ _ (by decide), Tray.gf_sf_off _ _ _ _ _ _ (by decide)]
    exact Tray.gf_sf_self _ _ _ _ (by decide)
  · exact (Tray.gf_ctrs c tb _ _ _ (by decide)).trans (Tray.gf_sf_self _ _ _ _ (by decide))
  · refine Tray.each_all (fun _ => True) (fun i w => w.gf (tblPg c tb) (ctrFld i) = 0) _ (List.range 16) (fun _ _ _ _ => trivial)
      (fun w j _ _ => ?_) (fun w i j hi hj hne _ h => ?_) _ trivial i (List.mem_range.2 hi)
    · exact Tray.gf_sf_self _ _ _ _ (ctrFld_fits j)
    · have hi := List.mem_range.1 hi
      have hj := List.mem_range.1 hj
      refine (Tray.gf_sf_off _ _ _ _ _ _ ?_).trans h
      rw [ctrFld_off, ctrFld_off]
      unfold A.TBL_CTR
      omega

end

/-- The table starts as `x`, and its event is raised. -/
def Tray.tableStarted (t : Tray) (c tb : Nat) (x : TableSt) : Tray :=
  ((t.tableZeroed c tb).setTable c tb x).raise (tblPg c tb) 11

section
variable (t : Tray) (c : Nat) {tb : Nat} (x : TableSt)

theorem Tray.tableStarted_gf (f : Fld) (hf : f.off % 4096 ≠ 0x20) :
    (t.tableStarted c tb x).gf (tblPg c tb) f = (t.tableZeroed c tb).gf (tblPg c tb) f :=
  (Tray.gf_raise_off _ _ _ _ _ hf).trans (Tray.gf_setTable ..)

theorem Tray.tableStarted_stays (htb : tb < 256) : t.TableStays (t.tableStarted c tb x) c tb (startReg c tb) :=
  ((Tray.TableStays.of_stays (t.tableZeroed_stays c tb) c tb).setTable htb x).and
    ((Tray.Stays.refl _ _).raise 11 ⟨rfl, .inr (.inr (.inr rfl))⟩)

/-- What an ACTIVE table shows. -/
theorem Tray.tableStarted_shows : (t.tableStarted c tb x).tst c tb = T.ACTIVE ∧
    (t.tableStarted c tb x).enabled (tblPg c tb) = true ∧ (t.tableStarted c tb x).opNext c tb = 0 ∧
    ∀ i, i < 16 → (t.tableStarted c tb x).gf (tblPg c tb) (ctrFld i) = 0 := by
  obtain ⟨hactive, hon, hnext, hctrs⟩ := t.tableZeroed_shows c tb
  refine ⟨(t.tableStarted_gf c x _ (by decide)).trans hactive, ?_, (t.tableStarted_gf c x _ (by decide)).trans hnext,
    fun i hi => (t.tableStarted_gf c x _ ?_).trans (hctrs i hi)⟩
  · unfold Tray.enabled Tray.is at hon ⊢
    rw [t.tableStarted_gf c x _ (by decide)]
    exact hon
  · rw [ctrFld_off]
    unfold A.TBL_CTR
    omega

end

section
variable {t : Tray} {c tb : Nat} {o : Origin} (hfree : t.tst c tb = T.FREE)
include hfree

theorem Tray.tableEnable_starts (hs : t.service = 0)
    (hroom : sumL ((t.reservations c).map (fun r => r.2)) + t.gf (tblPg c tb) F.TBL_TRICK_RES_KIB ≤ t.redKiB c) :
    ∃ x, t.tableEnable c tb o = t.tableStarted c tb x := by
  unfold Tray.tableEnable
  dsimp only
  rw [if_neg (not_not.2 hfree), if_neg (by rw [hs]; omega)]
  exact ⟨_, rfl⟩

theorem Tray.tableEnable_refused
    (hshort : t.redKiB c < sumL ((t.reservations c).map (fun r => r.2)) + t.gf (tblPg c tb) F.TBL_TRICK_RES_KIB) :
    t.tableEnable c tb o = (t.sb (tblPg c tb) F.PG_CTL_ENABLE false).recErr (tblPg c tb) 0x40 o := by
  unfold Tray.tableEnable
  dsimp only
  rw [if_neg (not_not.2 hfree), if_pos (.inr hshort)]

end

section
variable {s : State} {c : Fin 5} {tb : Fin 256}

theorem tblCtrWrite_sets {i : Fin 16} {v : Word} (ha : s.tray.accepts c.val (0x200 + tb.val) (A.TBL_CTR + 8 * i.val) = true)
    (hu : (s.tray.chip c.val).coreUp = true) (hs : s.tray.settled c.val) :
    Completes (.tblCtrWrite c tb i v) s (fun t =>
      t.tray.gf (tblPg c.val tb.val) (ctrFld i.val) = v.toNat % 2 ^ 32 ∧
      s.tray.keepsRegs t.tray (fun q o => q = tblPg c.val tb.val ∧ o = A.TBL_CTR + 8 * i.val) ∧ s.tray.keepsBlocks t.tray) := by
  have hstays := (Tray.Stays.refl s.tray (fun q o => q = tblPg c.val tb.val ∧ o = A.TBL_CTR + 8 * i.val)).sf
    (f := ctrFld i.val) (F.TBL_CTR_VALUE.get v) ⟨rfl, ctrFld_off _⟩ (ctrFld_lt i.isLt)
  refine completes_run (exec_tblCtrWrite ..) ((Tray.write8_ctr c.isLt tb.isLt i.isLt ha hu).trans
    (Tray.sweep_settled _ _ (hstays.settled hs))) fun t ht => ⟨(ht.gf ..).trans ?_, ht.stays hstays⟩
  rw [Tray.gf_sf_self _ _ _ _ (ctrFld_fits _), ctrValue_get]
  exact Nat.mod_mod ..

variable (ha : s.tray.accepts c.val (0x200 + tb.val) A.PG_CTL = true) (hu : (s.tray.chip c.val).coreUp = true)
  (hoff : s.tray.enabled (tblPg c.val tb.val) = false)

include ha hu hoff in
/-- A write that is performed to PG_CTL of a table that is not enabled. -/
theorem completes_tableEnable {u : Tray} {P : State → Prop} (hrun : s.tray.tableEnable c.val tb.val (Origin.wr 0 A.PG_CTL) = u)
    (hset : u.settled c.val) (hP : ∀ t : State, t.Like u → P t) : Completes (.tableEnable c tb) s P :=
  completes_run (exec_tableEnable ..) ((Tray.write8_active _ _ _ _ _ _ ha (by decide)).trans
    ((congrArg (fun w => Tray.sweep w c.val) ((Tray.writeActive_enable c.isLt tb.isLt hu hoff).trans hrun)).trans
      (Tray.sweep_settled _ _ hset))) hP

variable (hs : s.tray.settled c.val) (hfree : s.tray.tst c.val tb.val = T.FREE)
include ha hu hoff hs hfree

theorem tableEnable_starts (hservice : s.tray.service = 0)
    (hroom : sumL ((s.tray.reservations c.val).map (fun r => r.2)) + s.tray.gf (tblPg c.val tb.val) F.TBL_TRICK_RES_KIB ≤
      s.tray.redKiB c.val) :
    Completes (.tableEnable c tb) s (fun t =>
      t.tray.tst c.val tb.val = T.ACTIVE ∧ t.tray.enabled (tblPg c.val tb.val) = true ∧ t.tray.opNext c.val tb.val = 0 ∧
      (∀ i, i < 16 → t.tray.gf (tblPg c.val tb.val) (ctrFld i) = 0) ∧ t.tray.irqUp (tblPg c.val tb.val) 11 ∧
      s.tray.keepsRegs t.tray (startReg c.val tb.val) ∧ s.tray.keepsOtherTables t.tray c.val tb.val) := by
  obtain ⟨x, hx⟩ := Tray.tableEnable_starts (o := Origin.wr 0 A.PG_CTL) hfree hservice hroom
  have hstays := s.tray.tableStarted_stays c.val x tb.isLt
  obtain ⟨hactive, hon, hnext, hctrs⟩ := s.tray.tableStarted_shows c.val (tb := tb.val) x
  exact completes_tableEnable ha hu hoff hx (hstays.settled hs) fun t ht =>
    ⟨(ht.gf ..).trans hactive, (ht.is ..).trans hon, (ht.gf ..).trans hnext, fun i hi => (ht.gf ..).trans (hctrs i hi),
      ht.irqUp (irqUp_tblPg _ c.isLt tb.isLt (.inr rfl)), ht.tableStays hstays⟩

theorem tableEnable_refused
    (hshort : s.tray.redKiB c.val < sumL ((s.tray.reservations c.val).map (fun r => r.2)) +
      s.tray.gf (tblPg c.val tb.val) F.TBL_TRICK_RES_KIB) (hnone : s.tray.gf (tblPg c.val tb.val) F.PG_ERR_CAPT_VALID = 0) :
    Completes (.tableEnable c tb) s (fun t =>
      t.tray.tst c.val tb.val = T.FREE ∧ t.tray.enabled (tblPg c.val tb.val) = false ∧
      t.tray.holdsErr (tblPg c.val tb.val) 0x40 A.PG_CTL 0 true (s.tray.timeOf c.val) ∧
      s.tray.keepsRegs t.tray (fun q o => q = tblPg c.val tb.val ∧ (o = A.PG_CTL ∨ o = 0x60 ∨ o = 0x20)) ∧
      s.tray.keepsBlocks t.tray) := by
  have hdiv : tblPg c.val tb.val / 4096 = c.val := chipPg_div c.val _ (by have := tb.isLt; omega)
  have hstays := ((Tray.Stays.refl s.tray
    (fun q o => q = tblPg c.val tb.val ∧ (o = A.PG_CTL ∨ o = 0x60 ∨ o = 0x20))).sb (f := F.PG_CTL_ENABLE) false ⟨rfl, .inl rfl⟩
    (by decide)).recErr 0x40 (Origin.wr 0 A.PG_CTL) ⟨rfl, .inr (.inl rfl)⟩ ⟨rfl, .inr (.inr rfl)⟩
  have htime : (s.tray.sb (tblPg c.val tb.val) F.PG_CTL_ENABLE false).timeOf c.val = s.tray.timeOf c.val := by
    unfold Tray.timeOf
    rw [if_pos c.isLt, if_pos c.isLt, Tray.rd_sb_off _ _ _ _ _ _ (by decide)]
  have hheld := (s.tray.sb (tblPg c.val tb.val) F.PG_CTL_ENABLE false).recErr_holds (tblPg c.val tb.val) 0x40
    (Origin.wr 0 A.PG_CTL) ((Tray.gf_sb_off _ _ _ _ _ _ (by decide)).trans hnone) (by decide)
  rw [hdiv, htime] at hheld
  refine completes_tableEnable ha hu hoff (Tray.tableEnable_refused hfree hshort) (hstays.settled hs) fun t ht =>
    ⟨(ht.gf ..).trans ?_, (ht.is ..).trans ?_, ht.holdsErr hheld, ht.stays hstays⟩
  · exact (Tray.gf_recErr_off _ _ _ _ _ _ (by decide)).trans ((Tray.gf_sb_off _ _ _ _ _ _ (by decide)).trans hfree)
  · exact (Tray.is_recErr_off _ _ _ _ _ _ (by decide)).trans (Tray.is_sb_self _ _ _ _ (by decide) rfl)

end

/-- Settles O36: commands end by the laws of `headEnds`, a waiting record by that of `writeRec`, and the writes of a table's page are
followed from the access to the registers they set. -/
theorem commandsEndAndTablesStart : Obligations.CommandsEndAndTablesStart := fun _ _ _ =>
  ⟨fun _ _ _ _ hs hruns hhead hdue =>
    ⟨fun hnop hadd hst hen hroom => commandHead_fails hs hruns hhead hdue hnop hadd hst hen hroom,
     fun hop hst hen hroom => nop_ends hs hruns hhead hdue hop hst hen hroom,
     fun hop hst => cntAdd_adds hs hruns hhead hdue hop hst⟩,
   fun _ _ ha hu hs => tblCtrWrite_sets ha hu hs,
   fun _ _ hen hroom hslots hops herr => cqRecordIssue_issues hen hroom hslots hops herr,
   fun ha hu hs hoff hfree => ⟨fun hservice hroom => tableEnable_starts ha hu hoff hs hfree hservice hroom,
     fun hshort hnone => tableEnable_refused ha hu hoff hs hfree hshort hnone⟩⟩

end Sys2Proof.Machine
end

section
/-! SUPPORT. What follows a start on a table where nothing waits for it: nothing (R270, R340). -/
namespace Sys2Proof.Machine

/-- Every register, record and byte of `u` reads as in `t`. -/
structure Tray.SameReads (t u : Tray) : Prop where
  regs : u.regs = t.regs
  table : ∀ d k, u.table d k = t.table d k
  chips : u.chips = t.chips
  ports : u.ports = t.ports
  lanes : u.lanes = t.lanes
  bays : u.bays = t.bays
  dealers : u.dealers = t.dealers
  nodes : u.nodes = t.nodes
  mem : u.mem = t.mem

namespace Tray.SameReads
variable {t u v : Tray}

theorem refl (t : Tray) : t.SameReads t := ⟨rfl, fun _ _ => rfl, rfl, rfl, rfl, rfl, rfl, rfl, rfl⟩

theorem trans (a : t.SameReads u) (b : u.SameReads v) : t.SameReads v :=
  ⟨b.regs.trans a.regs, fun d k => (b.table d k).trans (a.table d k), b.chips.trans a.chips, b.ports.trans a.ports,
    b.lanes.trans a.lanes, b.bays.trans a.bays, b.dealers.trans a.dealers, b.nodes.trans a.nodes, b.mem.trans a.mem⟩

theorem gf (a : t.SameReads u) (q : Nat) (f : Fld) : u.gf q f = t.gf q f := by
  unfold Tray.gf Tray.rd
  rw [a.regs]

theorem is (a : t.SameReads u) (q : Nat) (f : Fld) : u.is q f = t.is q f := by
  unfold Tray.is
  rw [a.gf]

theorem win (a : t.SameReads u) (c tb e : Nat) : u.win c tb e = t.win c tb e := Tray.win_congr c tb e (a.table c tb)

theorem tableStays (a : t.SameReads u) (c tb : Nat) (R : Nat → Nat → Prop) : t.TableStays u c tb R :=
  ⟨fun q o _ _ => by unfold Tray.rd; rw [a.regs], fun d k _ _ => a.table d k, fun d g _ _ => by unfold Tray.port; rw [a.ports],
    a.lanes, a.bays, a.dealers, a.nodes, a.mem⟩

end Tray.SameReads

theorem State.Like.sameReads {s : State} {u : Tray} (h : s.Like u) : u.SameReads s.tray :=
  ⟨h.regs, h.table, h.chips, h.ports, h.lanes, h.bays, h.dealers, h.nodes, h.mem⟩

/-- A change of a table that leaves it as it is. -/
theorem Tray.modTable_same (t : Tray) (c tb : Nat) {f : TableSt → TableSt} (h : f (t.table c tb) = t.table c tb) :
    t.SameReads (t.modTable c tb f) := by
  refine ⟨rfl, fun d k => ?_, rfl, rfl, rfl, rfl, rfl, rfl, rfl⟩
  refine (Assoc.get_set _ _ _ _ _).trans ?_
  split
  · next hkey =>
    refine h.trans ?_
    unfold Tray.table
    rw [hkey]
  · rfl

/-- No lump, SHUFFLE data or expiry waits on the table. -/
def TableSt.bare (x : TableSt) : Prop := x.staged = [] ∧ x.shuf = [] ∧ x.doomed = []

section
variable (t : Tray) {c tb : Nat} (hbare : (t.table c tb).bare)
include hbare

theorem Tray.checkStarted_bare : t.checkStarted c tb = t := by
  obtain ⟨hstaged, -, hdoomed⟩ := hbare
  refine Tray.each_keeps (fun u => u = t) _ _ (fun u o _ hu => ?_) t rfl
  subst hu
  simp only [hstaged, hdoomed]
  rfl

theorem Tray.dropShuf_bare (seq : Nat) : t.SameReads (t.dropShuf c tb seq) := by
  obtain ⟨-, hshuf, -⟩ := hbare
  have hkeep : { t.table c tb with shuf := (t.table c tb).shuf.filter (fun y => y.op != seq) } = t.table c tb := by
    rw [hshuf]
    exact congrArg (fun l => { t.table c tb with shuf := l }) hshuf.symm
  unfold Tray.dropShuf
  rw [hshuf]
  exact t.modTable_same c tb (f := fun x => { x with shuf := x.shuf.filter (fun y => y.op != seq) }) hkeep

theorem Tray.started_bare : t.SameReads (t.started c tb) := by
  unfold Tray.started
  rw [t.checkStarted_bare hbare]
  refine Tray.each_keeps (fun u => t.SameReads u) _ _ (fun u o _ hu => hu.trans (u.dropShuf_bare ?_ _)) t (.refl t)
  rw [hu.table]
  exact hbare

/-- Without a SHUFFLE on the table. -/
theorem Tray.afterStart_bare (hops : ∀ o ∈ (t.table c tb).ops, o.opcode ≠ O.SHUFFLE) : t.SameReads (t.afterStart c tb) := by
  have hsame := t.started_bare hbare
  have hnone : ((t.started c tb).table c tb).ops.filter (fun o => o.started && !o.failed && o.opcode == O.SHUFFLE) = [] := by
    rw [hsame.table]
    refine List.filter_eq_nil_iff.2 fun o ho => ?_
    simp [hops o ho]
  unfold Tray.afterStart Tray.shufStarted
  rw [hnone]
  exact hsame

end

/-- A start after which nothing more happens. -/
theorem completes_start {i : Instr} {s : State} {P : State → Prop} {c tb : Nat} {f : Tray → Tray}
    (he : exec i s = .next (s.runC c (fun t => (f t).afterStart c tb))) {u : Tray} (hu : f s.tray = u)
    (hbare : (u.table c tb).bare) (hops : ∀ o ∈ (u.table c tb).ops, o.opcode ≠ O.SHUFFLE) (hc : u.settled c)
    (hP : ∀ t : State, u.SameReads t.tray → P t) : Completes i s P := by
  have hsame := u.afterStart_bare hbare hops
  exact completes_runC he (congrArg (fun w => Tray.afterStart w c tb) hu) ((Tray.settled_congr hsame.dealers c).2 hc)
    fun t ht => hP t (hsame.trans ht.sameReads)

end Sys2Proof.Machine
end

section
/-! SUPPORT. What the heads of a table's members do together: they move past a matched command, or every command ends (R245). -/
namespace Sys2Proof.Machine

theorem bitsOf_nodup (w n : Nat) : (bitsOf w n).Nodup := List.nodup_range.filter _

theorem bitsOf_lt {w n e : Nat} (h : e ∈ bitsOf w n) : e < w := List.mem_range.1 (List.mem_of_mem_filter h)

theorem Tray.tMembers_lt {t : Tray} {c tb e : Nat} (h : e ∈ t.tMembers c tb) : e < 64 := bitsOf_lt h

/-- Of the table only windows change. -/
structure Tray.WinsOnly (t u : Tray) (c tb : Nat) (R : Nat → Nat → Prop) : Prop where
  stays : t.TableStays u c tb R
  rest : { u.table c tb with wins := [] } = { t.table c tb with wins := [] }

namespace Tray.WinsOnly
variable {t u v : Tray} {c tb : Nat} {R Q : Nat → Nat → Prop}

theorem refl (t : Tray) (c tb : Nat) (R : Nat → Nat → Prop) : t.WinsOnly t c tb R := ⟨.refl .., rfl⟩

theorem trans (a : t.WinsOnly u c tb R) (b : u.WinsOnly v c tb R) : t.WinsOnly v c tb R :=
  ⟨a.stays.trans b.stays, b.rest.trans a.rest⟩

theorem mono (a : t.WinsOnly u c tb R) (h : ∀ q o, R q o → Q q o) : t.WinsOnly u c tb Q := ⟨a.stays.mono h, a.rest⟩

theorem of_setsWin {e : Nat} {w : Win} (h : t.TableStays u c tb R) (hw : t.setsWin u c tb e w) : t.WinsOnly u c tb R := by
  obtain ⟨-, -, hrest, -⟩ := hw
  exact ⟨h, hrest⟩

theorem of_stays (h : t.Stays u R) : t.WinsOnly u c tb R := by
  obtain ⟨-, -, -, -, htables, -⟩ := h.blocks
  exact ⟨.of_stays h c tb, by unfold Tray.table; rw [htables]⟩

/-- What is no part of a window stays. -/
theorem part {α : Type} (a : t.WinsOnly u c tb R) (f : TableSt → α) (hf : ∀ x, f { x with wins := [] } = f x) :
    f (u.table c tb) = f (t.table c tb) := by
  rw [← hf, a.rest, hf]

theorem ops (a : t.WinsOnly u c tb R) : (u.table c tb).ops = (t.table c tb).ops := a.part TableSt.ops fun _ => rfl

theorem bare (a : t.WinsOnly u c tb R) (h : (t.table c tb).bare) : (u.table c tb).bare := by
  have hpart := a.part (fun x => (x.staged, x.shuf, x.doomed)) fun _ => rfl
  obtain ⟨hstaged, hrest⟩ := Prod.mk.inj hpart
  obtain ⟨hshuf, hdoomed⟩ := Prod.mk.inj hrest
  unfold TableSt.bare
  rw [hstaged, hshuf, hdoomed]
  exact h

end Tray.WinsOnly

/-! ### The heads move -/

section
variable (t : Tray) {c tb : Nat}

theorem Tray.popHead_winsOnly (htb : tb < 256) (e : Nat) (R : Nat → Nat → Prop) : t.WinsOnly (t.popHead c tb e) c tb R :=
  .of_setsWin ((Tray.TableStays.refl ..).setWin htb e _) (.setWin t htb e _)

theorem Tray.popHeads_win {l : List Nat} (hl : l.Nodup) (e : Nat) :
    (t.each l (fun t e => t.popHead c tb e)).win c tb e = if e ∈ l then (t.win c tb e).popped else t.win c tb e := by
  induction l generalizing t with
  | nil => rfl
  | cons a l ih =>
    obtain ⟨hnew, hl⟩ := List.nodup_cons.1 hl
    refine (ih (t.popHead c tb a) hl).trans ?_
    by_cases hea : e = a
    · subst hea
      rw [if_neg hnew, Tray.popHead_win, if_pos (List.mem_cons_self ..)]
    · have hother : (t.popHead c tb a).win c tb e = t.win c tb e := Tray.win_setWin_ne _ _ _ _ _ hea
      have hmem : e ∈ a :: l ↔ e ∈ l := by simp [hea]
      rw [hother, if_congr hmem rfl rfl]

/-- Every member's head moves by one. -/
theorem Tray.popAll_head {e : Nat} (he : e ∈ t.tMembers c tb) :
    ((t.popAll c tb).win c tb e).head = ((t.win c tb e).head + 1) % 65536 := by
  have hwin := t.popHeads_win (c := c) (tb := tb) (l := t.tMembers c tb) (bitsOf_nodup ..) e
  rw [if_pos he] at hwin
  exact congrArg Win.head hwin

theorem Tray.popAll_winsOnly (htb : tb < 256) (R : Nat → Nat → Prop) : t.WinsOnly (t.popAll c tb) c tb R :=
  Tray.each_keeps (fun u => t.WinsOnly u c tb R) _ _ (fun u e _ hu => hu.trans (u.popHead_winsOnly htb e R)) t (.refl ..)

theorem Tray.popAll_regs : (t.popAll c tb).regs = t.regs := Tray.each_same Tray.regs (fun t e => t.popHead c tb e) _ (fun _ _ _ => rfl) t

theorem Tray.popAll_ports : (t.popAll c tb).ports = t.ports := Tray.each_same Tray.ports (fun t e => t.popHead c tb e) _ (fun _ _ _ => rfl) t

theorem Tray.popAll_gf (q : Nat) (f : Fld) : (t.popAll c tb).gf q f = t.gf q f := by
  unfold Tray.gf Tray.rd
  rw [t.popAll_regs]

end

/-! ### Every matched command ends with a record -/

/-- Command `b` of a list of matched heads ends with MISMATCH (R245). -/
def Tray.mismatched (c tb seq : Nat) (t : Tray) (b : Nat × Nat × BitVec 384) : Tray :=
  t.endCmd c tb b.1 b.2.1 (cmdSilent b.2.2) { kind := K.OP_DONE, status := St.MISMATCH, opSeq := seq, userTag := cmdTag b.2.2 }

section
variable {c tb : Nat} (htb : tb < 256) (seq : Nat)
include htb

theorem Tray.mismatched_winsOnly (t : Tray) {b : Nat × Nat × BitVec 384} (hb : b.1 < 64) :
    t.WinsOnly (Tray.mismatched c tb seq t b) c tb (endReg c tb) := by
  obtain ⟨w, hw, -⟩ := t.endCmd_setsWin (c := c) (i := b.2.1) (silent := cmdSilent b.2.2)
    (r := { kind := K.OP_DONE, status := St.MISMATCH, opSeq := seq, userTag := cmdTag b.2.2 }) htb hb
  exact .of_setsWin (t.endCmd_stays htb hb) hw

theorem Tray.mismatched_head (t : Tray) {b : Nat × Nat × BitVec 384} (hb : b.1 < 64) (e : Nat) :
    ((Tray.mismatched c tb seq t b).win c tb e).head = (t.win c tb e).head := by
  obtain ⟨w, ⟨hwin, hothers, -⟩, hhead⟩ := t.endCmd_setsWin (c := c) (i := b.2.1) (silent := cmdSilent b.2.2)
    (r := { kind := K.OP_DONE, status := St.MISMATCH, opSeq := seq, userTag := cmdTag b.2.2 }) htb hb
  unfold Tray.mismatched
  by_cases he : e = b.1
  · rw [he, hwin, hhead]
  · rw [hothers e he]

variable {l : List (Nat × Nat × BitVec 384)} (hl : ∀ b ∈ l, b.1 < 64)
include hl

theorem Tray.allMismatched_winsOnly (t : Tray) : t.WinsOnly (t.each l (Tray.mismatched c tb seq)) c tb (endReg c tb) :=
  Tray.each_keeps (fun u => t.WinsOnly u c tb (endReg c tb)) _ _
    (fun u _ hb hu => hu.trans (u.mismatched_winsOnly htb seq (hl _ hb))) t (.refl ..)

theorem Tray.allMismatched_head (t : Tray) (e : Nat) :
    ((t.each l (Tray.mismatched c tb seq)).win c tb e).head = (t.win c tb e).head :=
  Tray.each_same (fun u => (u.win c tb e).head) _ _ (fun u _ hb => u.mismatched_head htb seq (hl _ hb) e) t

/-- Each of them counts in TBL_OPS_ERR. -/
theorem Tray.allMismatched_counts (t : Tray) : (t.each l (Tray.mismatched c tb seq)).gf (tblPg c tb) F.TBL_OPS_ERR =
    (t.gf (tblPg c tb) F.TBL_OPS_ERR + l.length) % 2 ^ F.TBL_OPS_ERR.w := by
  induction l generalizing t with
  | nil => exact (Nat.mod_eq_of_lt (Tray.gf_lt _ _ _ (by decide))).symm
  | cons b l ih =>
    have hone := t.endCmd_counts (c := c) (i := b.2.1) (silent := cmdSilent b.2.2)
      (r := { kind := K.OP_DONE, status := St.MISMATCH, opSeq := seq, userTag := cmdTag b.2.2 }) htb
      (hl b (List.mem_cons_self ..)) (show St.MISMATCH ≠ 0 by decide)
    refine (ih (fun z hz => hl z (List.mem_cons_of_mem _ hz)) (Tray.mismatched c tb seq t b)).trans ?_
    rw [show (Tray.mismatched c tb seq t b).gf (tblPg c tb) F.TBL_OPS_ERR = _ from hone, Nat.mod_add_mod, List.length_cons]
    congr 1
    omega

end

end Sys2Proof.Machine
end

section
/-! SUPPORT. OPERATION_MATCH, OPERATION_START and PARKED_OP_START (R245, R246, R248). -/
namespace Sys2Proof.Machine

theorem exec_operationMatch (c : Fin 5) (tb : Fin 256) (s : State) : exec (.operationMatch c tb) s =
    .next (s.runC c.val (fun t => (t.operationMatch c.val tb.val).afterStart c.val tb.val)) := rfl
theorem exec_operationStart (c : Fin 5) (tb : Fin 256) (s : State) : exec (.operationStart c tb) s =
    .next (s.runC c.val (fun t => (t.operationStart c.val tb.val).afterStart c.val tb.val)) := rfl
theorem exec_parkedOpStart (c : Fin 5) (tb : Fin 256) (s : State) : exec (.parkedOpStart c tb) s =
    .next (s.runC c.val (fun t => (t.parkedOpStart c.val tb.val).afterStart c.val tb.val)) := rfl

/-- TBL_STS of a table. -/
def stsReg (c tb q o : Nat) : Prop := q = tblPg c tb ∧ o = A.TBL_STS

/-! ### The matched heads -/

theorem Tray.heads_members {t : Tray} {c tb : Nat} {l : List (Nat × Nat × BitVec 384)} (h : t.heads c tb = some l) :
    ∀ b ∈ l, b.1 ∈ t.tMembers c tb := by
  unfold Tray.heads at h
  dsimp only at h
  split at h
  · obtain rfl := Option.some.inj h
    intro b hb
    obtain ⟨e, he, hsome⟩ := List.mem_filterMap.1 hb
    split at hsome
    · split at hsome
      · obtain rfl := Option.some.inj hsome
        exact he
      · exact absurd hsome (Option.some_ne_none _).symm
    · exact absurd hsome (Option.some_ne_none _).symm
  · exact absurd h (Option.some_ne_none _).symm

/-- No command starts a SHUFFLE: those have no opcode of a command. -/
theorem opOf_opcode (seq : Nat) (x : BitVec 384) (l : List (Nat × Nat × BitVec 384)) : (opOf seq x l).opcode ≠ O.SHUFFLE := by
  have hop : cmdOpcode x < 2 ^ 8 := Nat.mod_lt _ (by decide)
  show cmdOpcode x ≠ 0x100
  omega

/-- The heads have moved past the matched commands, and OP_NEXT has advanced. -/
def Tray.matched (t : Tray) (c tb : Nat) : Tray := (t.popAll c tb).nextSeq c tb

section
variable (t : Tray) {c tb : Nat}

theorem Tray.matched_winsOnly (htb : tb < 256) : t.WinsOnly (t.matched c tb) c tb (stsReg c tb) :=
  (t.popAll_winsOnly htb _).trans (.of_stays ((Tray.Stays.refl _ _).sf _ ⟨rfl, rfl⟩ (by decide)))

theorem Tray.matched_ports : (t.matched c tb).ports = t.ports :=
  (Tray.sf_ports (t.popAll c tb) ..).trans t.popAll_ports

theorem Tray.matched_head {e : Nat} (he : e ∈ t.tMembers c tb) :
    ((t.matched c tb).win c tb e).head = ((t.win c tb e).head + 1) % 65536 :=
  (congrArg Win.head (Tray.win_congr _ _ _ (Tray.table_sf (t.popAll c tb) ..))).trans (t.popAll_head he)

theorem Tray.matched_opNext : (t.matched c tb).opNext c tb = (t.opNext c tb + 1) % 65536 := by
  refine (Tray.gf_sf_self _ _ F.TBL_STS_OP_NEXT _ (by decide)).trans ?_
  rw [show (t.popAll c tb).opNext c tb = t.opNext c tb from t.popAll_gf ..]
  rfl

/-- TBL_OPS counts as before. -/
theorem Tray.matched_opsErr : (t.matched c tb).gf (tblPg c tb) F.TBL_OPS_ERR = t.gf (tblPg c tb) F.TBL_OPS_ERR :=
  (Tray.gf_sf_off _ _ _ _ _ _ (by decide)).trans (t.popAll_gf ..)

end

/-- An operation is put last. -/
def TableSt.withOp (x : TableSt) (o : OpSt) : TableSt := { x with ops := x.ops ++ [o], trigNoted := false }

theorem TableSt.withOp_shuffles {x : TableSt} {o : OpSt} (hx : ∀ z ∈ x.ops, z.opcode ≠ O.SHUFFLE) (ho : o.opcode ≠ O.SHUFFLE) :
    ∀ z ∈ (x.withOp o).ops, z.opcode ≠ O.SHUFFLE := fun z hz =>
  (List.mem_append.1 hz).elim (hx z) fun h => by
    obtain rfl := List.mem_singleton.1 h
    exact ho

/-- The heads have moved, and their operation is the table's last. -/
def Tray.matchedOp (t : Tray) (c tb : Nat) (o : OpSt) : Tray := (t.matched c tb).modTable c tb (fun x => x.withOp o)

section
variable (t : Tray) (c : Nat) {tb : Nat} (o : OpSt)

theorem Tray.matchedOp_stays (htb : tb < 256) : t.TableStays (t.matchedOp c tb o) c tb (stsReg c tb) :=
  (t.matched_winsOnly htb).stays.modTable htb _

theorem Tray.matchedOp_table : (t.matchedOp c tb o).table c tb = ((t.matched c tb).table c tb).withOp o := Tray.table_modTable ..

theorem Tray.matchedOp_ports : (t.matchedOp c tb o).ports = t.ports :=
  (Tray.modTable_ports (t.matched c tb) ..).trans t.matched_ports

theorem Tray.matchedOp_win (e : Nat) : (t.matchedOp c tb o).win c tb e = (t.matched c tb).win c tb e := by
  unfold Tray.win
  rw [t.matchedOp_table]
  rfl

theorem Tray.matchedOp_opNext : (t.matchedOp c tb o).opNext c tb = (t.matched c tb).opNext c tb := Tray.gf_modTable ..

theorem Tray.matchedOp_ops (htb : tb < 256) : ((t.matchedOp c tb o).table c tb).ops = (t.table c tb).ops ++ [o] := by
  rw [t.matchedOp_table]
  exact congrArg (· ++ [o]) (t.matched_winsOnly htb).ops

theorem Tray.matchedOp_bare (htb : tb < 256) (h : (t.table c tb).bare) : ((t.matchedOp c tb o).table c tb).bare := by
  rw [t.matchedOp_table]
  exact (t.matched_winsOnly htb).bare h

end

/-! ### What OPERATION_MATCH does -/

section
variable {t : Tray} {c tb : Nat} {a : Nat × Nat × BitVec 384} {l : List (Nat × Nat × BitVec 384)}
  (hruns : t.tRuns c tb = true) (hnone : t.unstarted c tb = []) (hheads : t.heads c tb = some (a :: l))
include hruns hnone hheads

theorem Tray.operationMatch_differs (h : ∃ b ∈ l, cmdAgree a.2.2 b.2.2 = false) :
    t.operationMatch c tb =
      ((t.matched c tb).sb (tblPg c tb) F.TBL_STS_WAIT_MEMBER false).each (a :: l) (Tray.mismatched c tb (t.opNext c tb)) := by
  obtain ⟨b, hb, hdiff⟩ := h
  have hall : ¬ (a :: l).all (fun b => cmdAgree a.2.2 b.2.2) = true := fun h => by
    have := List.all_eq_true.1 h b (List.mem_cons_of_mem _ hb)
    rw [hdiff] at this
    exact Bool.false_ne_true this
  unfold Tray.operationMatch
  dsimp only
  rw [if_neg (by rw [hruns, hnone]; simp), hheads]
  dsimp only
  rw [if_pos hall]
  rfl

variable (hagree : ∀ b ∈ a :: l, cmdAgree a.2.2 b.2.2 = true)
include hagree

/-- The heads agree: what the operation waits for decides. -/
theorem Tray.operationMatch_agrees : t.operationMatch c tb =
    if ¬ t.fired c (opOf (t.opNext c tb) a.2.2 (a :: l)) then
      if t.trigUsed c < 65536 then
        (t.matchedOp c tb (opOf (t.opNext c tb) a.2.2 (a :: l))).collMarks c
      else if (t.table c tb).trigNoted then t
      else ((t.modTable c tb (fun y => { y with trigNoted := true })).sat (tblPg c tb) F.TBL_ERR_TRIG_WAIT 1).charge c
        (t.tSeat c tb) N.COLL_WAIT 1
    else if ¬ t.membersLive c tb then t.sb (tblPg c tb) F.TBL_STS_WAIT_MEMBER true
    else if 16 ≤ ((t.table c tb).ops.filter (fun o => o.started)).length then t
    else (t.matchedOp c tb { opOf (t.opNext c tb) a.2.2 (a :: l) with started := true, wait := none }).sb (tblPg c tb)
      F.TBL_STS_WAIT_MEMBER false := by
  unfold Tray.operationMatch
  dsimp only
  rw [if_neg (by rw [hruns, hnone]; simp), hheads]
  dsimp only
  rw [if_neg (not_not.2 (List.all_eq_true.2 hagree))]
  rfl

end

/-- The members' heads have moved past their commands, and OP_NEXT has advanced. -/
def movedOn (s : State) (c : Fin 5) (tb : Fin 256) (t : State) : Prop :=
  (∀ e ∈ s.tray.tMembers c.val tb.val,
    (t.tray.win c.val tb.val e).head = ((s.tray.win c.val tb.val e).head + 1) % 65536) ∧
  t.tray.opNext c.val tb.val = (s.tray.opNext c.val tb.val + 1) % 65536

/-- What a tray shows that reads as one where the heads have moved. -/
theorem movedOn_of {s t : State} {c : Fin 5} {tb : Fin 256} {u : Tray} (h : u.SameReads t.tray)
    (hheads : ∀ e, (u.win c.val tb.val e).head = ((s.tray.matched c.val tb.val).win c.val tb.val e).head)
    (hnext : u.opNext c.val tb.val = (s.tray.matched c.val tb.val).opNext c.val tb.val) : movedOn s c tb t :=
  ⟨fun e he => by rw [h.win, hheads, s.tray.matched_head he], (h.gf ..).trans (hnext.trans s.tray.matched_opNext)⟩

/-- What reads as a tray that leaves the other tables leaves them too. -/
theorem Tray.TableStays.sameReads {t u v : Tray} {c tb : Nat} {R : Nat → Nat → Prop} (a : t.TableStays u c tb R)
    (h : u.SameReads v) : t.keepsRegs v R ∧ t.keepsOtherTables v c tb := by
  have hv := a.trans (h.tableStays c tb R)
  exact ⟨hv.regs, hv.others⟩

theorem Tray.collMarks_stays (t : Tray) (c : Nat) :
    t.Stays (t.collMarks c) (fun q o => q = chipPg c 1 ∧ o = A.CHIP_COLL_MAX) :=
  ((Tray.Stays.refl t _).wmMax _ ⟨rfl, rfl⟩ (by decide)).wmMax _ ⟨rfl, rfl⟩ (by decide)

section
variable {s : State} {c : Fin 5} {tb : Fin 256} {o : OpSt} (hs : s.tray.settled c.val) (hidle : s.tray.nothingStaged c.val tb.val)
  (hop : o.opcode ≠ O.SHUFFLE)
include hs hidle hop

/-- A match whose operation starts. -/
theorem completes_matchStarts
    (hrun : s.tray.operationMatch c.val tb.val =
      (s.tray.matchedOp c.val tb.val o).sb (tblPg c.val tb.val) F.TBL_STS_WAIT_MEMBER false) :
    Completes (.operationMatch c tb) s (fun t => movedOn s c tb t ∧
      (t.tray.table c.val tb.val).ops = (s.tray.table c.val tb.val).ops ++ [o] ∧
      t.tray.is (tblPg c.val tb.val) F.TBL_STS_WAIT_MEMBER = false ∧ t.tray.ports = s.tray.ports ∧
      s.tray.keepsRegs t.tray (stsReg c.val tb.val) ∧ s.tray.keepsOtherTables t.tray c.val tb.val) := by
  obtain ⟨hstaged, hshuf, hdoomed, hshuffles⟩ := hidle
  have hstays := (s.tray.matchedOp_stays c.val o tb.isLt).and
    ((Tray.Stays.refl _ _).sb (f := F.TBL_STS_WAIT_MEMBER) false ⟨rfl, rfl⟩ (by decide))
  have htable : ((s.tray.matchedOp c.val tb.val o).sb (tblPg c.val tb.val) F.TBL_STS_WAIT_MEMBER false).table c.val tb.val =
      (s.tray.matchedOp c.val tb.val o).table c.val tb.val := Tray.table_sb ..
  have hops := s.tray.matchedOp_ops c.val o tb.isLt
  have hnew : ∀ z ∈ ((s.tray.matchedOp c.val tb.val o).table c.val tb.val).ops, z.opcode ≠ O.SHUFFLE := by
    rw [hops]
    exact TableSt.withOp_shuffles hshuffles hop
  refine completes_start (exec_operationMatch ..) hrun
    (by rw [htable]; exact s.tray.matchedOp_bare c.val o tb.isLt ⟨hstaged, hshuf, hdoomed⟩) (by rw [htable]; exact hnew)
    (hstays.settled hs) fun t ht => ⟨movedOn_of ht (fun e => ?_) ?_, (congrArg TableSt.ops ((ht.table ..).trans htable)).trans hops,
      (ht.is ..).trans (Tray.is_sb_self _ _ _ _ (by decide) rfl), ht.ports.trans ((Tray.sb_ports ..).trans (s.tray.matchedOp_ports c.val o)),
      hstays.sameReads ht⟩
  · exact congrArg Win.head ((Tray.win_congr _ _ _ htable).trans (s.tray.matchedOp_win c.val o e))
  · exact (Tray.gf_sb_ne _ _ _ _ _ (by decide) (by decide) (by decide)).trans (s.tray.matchedOp_opNext c.val o)

/-- A match whose operation parks. -/
theorem completes_matchParks (hrun : s.tray.operationMatch c.val tb.val = (s.tray.matchedOp c.val tb.val o).collMarks c.val) :
    Completes (.operationMatch c tb) s (fun t => movedOn s c tb t ∧
      (t.tray.table c.val tb.val).ops = (s.tray.table c.val tb.val).ops ++ [o] ∧ t.tray.ports = s.tray.ports ∧
      s.tray.keepsRegs t.tray (fun q o => stsReg c.val tb.val q o ∨ (q = chipPg c.val 1 ∧ o = A.CHIP_COLL_MAX)) ∧
      s.tray.keepsOtherTables t.tray c.val tb.val) := by
  obtain ⟨hstaged, hshuf, hdoomed, hshuffles⟩ := hidle
  have hmarks := (s.tray.matchedOp c.val tb.val o).collMarks_stays c.val
  have hstays : s.tray.TableStays ((s.tray.matchedOp c.val tb.val o).collMarks c.val) c.val tb.val
      (fun q o => stsReg c.val tb.val q o ∨ (q = chipPg c.val 1 ∧ o = A.CHIP_COLL_MAX)) :=
    ((s.tray.matchedOp_stays c.val o tb.isLt).mono fun _ _ => .inl).and (hmarks.mono fun _ _ => .inr)
  obtain ⟨-, hports, -, -, htables, -⟩ := hmarks.blocks
  have htable : ((s.tray.matchedOp c.val tb.val o).collMarks c.val).table c.val tb.val =
      (s.tray.matchedOp c.val tb.val o).table c.val tb.val := by
    unfold Tray.table
    rw [htables]
  have hops := s.tray.matchedOp_ops c.val o tb.isLt
  have hnew : ∀ z ∈ ((s.tray.matchedOp c.val tb.val o).table c.val tb.val).ops, z.opcode ≠ O.SHUFFLE := by
    rw [hops]
    exact TableSt.withOp_shuffles hshuffles hop
  refine completes_start (exec_operationMatch ..) hrun
    (by rw [htable]; exact s.tray.matchedOp_bare c.val o tb.isLt ⟨hstaged, hshuf, hdoomed⟩) (by rw [htable]; exact hnew)
    (hstays.settled hs) fun t ht => ⟨movedOn_of ht (fun e => ?_) ?_, (congrArg TableSt.ops ((ht.table ..).trans htable)).trans hops,
      ht.ports.trans (hports.trans (s.tray.matchedOp_ports c.val o)), hstays.sameReads ht⟩
  · exact congrArg Win.head ((Tray.win_congr _ _ _ htable).trans (s.tray.matchedOp_win c.val o e))
  · refine (Tray.keepsRegs_gf hmarks.regs _ _ (by decide) fun hq => absurd hq.2 (by decide)).trans ?_
    exact s.tray.matchedOp_opNext c.val o

end

section
variable {s : State} {c : Fin 5} {tb : Fin 256} (hs : s.tray.settled c.val) (hidle : s.tray.nothingStaged c.val tb.val)
  (hruns : s.tray.tRuns c.val tb.val = true)
include hs hidle hruns

section
variable {a : Nat × Nat × BitVec 384} {l : List (Nat × Nat × BitVec 384)}
  (hnone : s.tray.unstarted c.val tb.val = []) (hheads : s.tray.heads c.val tb.val = some (a :: l))
include hnone hheads

theorem operationMatch_mismatch (h : ∃ b ∈ l, cmdAgree a.2.2 b.2.2 = false) :
    Completes (.operationMatch c tb) s (fun t => movedOn s c tb t ∧
      (t.tray.table c.val tb.val).ops = (s.tray.table c.val tb.val).ops ∧
      t.tray.gf (tblPg c.val tb.val) F.TBL_OPS_ERR =
        (s.tray.gf (tblPg c.val tb.val) F.TBL_OPS_ERR + (a :: l).length) % 2 ^ F.TBL_OPS_ERR.w ∧
      s.tray.keepsRegs t.tray (fun q o => q = tblPg c.val tb.val ∧ (o = A.TBL_STS ∨ o = A.TBL_OPS ∨ o = 0x20)) ∧
      s.tray.keepsOtherTables t.tray c.val tb.val) := by
  obtain ⟨hstaged, hshuf, hdoomed, hshuffles⟩ := hidle
  have hports : ∀ b ∈ a :: l, b.1 < 64 := fun b hb => Tray.tMembers_lt (Tray.heads_members hheads b hb)
  have hmoved : (s.tray.matched c.val tb.val).WinsOnly
      ((s.tray.matched c.val tb.val).sb (tblPg c.val tb.val) F.TBL_STS_WAIT_MEMBER false) c.val tb.val (stsReg c.val tb.val) :=
    .of_stays ((Tray.Stays.refl _ _).sb _ ⟨rfl, rfl⟩ (by decide))
  have hends := Tray.allMismatched_winsOnly (c := c.val) tb.isLt (s.tray.opNext c.val tb.val) hports
    ((s.tray.matched c.val tb.val).sb (tblPg c.val tb.val) F.TBL_STS_WAIT_MEMBER false)
  have hwins : s.tray.WinsOnly _ c.val tb.val
      (fun q o => q = tblPg c.val tb.val ∧ (o = A.TBL_STS ∨ o = A.TBL_OPS ∨ o = 0x20)) :=
    ((s.tray.matched_winsOnly tb.isLt).trans hmoved |>.mono fun _ _ h => ⟨h.1, .inl h.2⟩).trans
      (hends.mono fun _ _ h => ⟨h.1, .inr h.2⟩)
  refine completes_start (exec_operationMatch ..) (Tray.operationMatch_differs hruns hnone hheads h)
    (hwins.bare ⟨hstaged, hshuf, hdoomed⟩) (by rw [hwins.ops]; exact hshuffles) (hwins.stays.settled hs) fun t ht =>
    ⟨movedOn_of ht (fun e => ?_) ?_, ?_, ?_, hwins.stays.sameReads ht⟩
  · exact (Tray.allMismatched_head tb.isLt _ hports _ e).trans
      (congrArg Win.head (Tray.win_congr _ _ _ (Tray.table_sb ..)))
  · refine (Tray.keepsRegs_gf hends.stays.regs _ _ (by decide) fun hq => absurd hq.2 (by decide)).trans ?_
    exact Tray.gf_sb_ne _ _ _ _ _ (by decide) (by decide) (by decide)
  · rw [ht.table, hwins.ops]
  · rw [ht.gf, Tray.allMismatched_counts tb.isLt _ hports, Tray.gf_sb_off _ _ _ _ _ _ (by decide), Tray.matched_opsErr]

section
variable (hagree : ∀ b ∈ a :: l, cmdAgree a.2.2 b.2.2 = true)
include hagree

theorem operationMatch_waits (hfired : s.tray.fired c.val (opOf (s.tray.opNext c.val tb.val) a.2.2 (a :: l)) = true)
    (hlive : s.tray.membersLive c.val tb.val = false) :
    Completes (.operationMatch c tb) s (fun t => t.tray.is (tblPg c.val tb.val) F.TBL_STS_WAIT_MEMBER = true ∧
      t.tray.table c.val tb.val = s.tray.table c.val tb.val ∧ t.tray.ports = s.tray.ports ∧
      s.tray.keepsRegs t.tray (stsReg c.val tb.val) ∧ s.tray.keepsOtherTables t.tray c.val tb.val) := by
  obtain ⟨hstaged, hshuf, hdoomed, hshuffles⟩ := hidle
  have hrun := Tray.operationMatch_agrees hruns hnone hheads hagree
  rw [if_neg (not_not.2 hfired), if_pos (by rw [hlive]; decide)] at hrun
  have hstays := (Tray.Stays.refl s.tray (stsReg c.val tb.val)).sb (f := F.TBL_STS_WAIT_MEMBER) true ⟨rfl, rfl⟩ (by decide)
  have htable : (s.tray.sb (tblPg c.val tb.val) F.TBL_STS_WAIT_MEMBER true).table c.val tb.val = s.tray.table c.val tb.val :=
    Tray.table_sb ..
  exact completes_start (exec_operationMatch ..) hrun (by rw [htable]; exact ⟨hstaged, hshuf, hdoomed⟩)
    (by rw [htable]; exact hshuffles) (hstays.settled hs) fun t ht =>
    ⟨(ht.is ..).trans (Tray.is_sb_self _ _ _ _ (by decide) rfl), (ht.table ..).trans htable, ht.ports.trans (Tray.sb_ports ..),
      (Tray.TableStays.of_stays hstays c.val tb.val).sameReads ht⟩

theorem operationMatch_starts (hfired : s.tray.fired c.val (opOf (s.tray.opNext c.val tb.val) a.2.2 (a :: l)) = true)
    (hlive : s.tray.membersLive c.val tb.val = true)
    (hroom : ((s.tray.table c.val tb.val).ops.filter (fun z => z.started)).length < 16) :
    Completes (.operationMatch c tb) s (fun t => movedOn s c tb t ∧
      (t.tray.table c.val tb.val).ops = (s.tray.table c.val tb.val).ops ++
        [{ opOf (s.tray.opNext c.val tb.val) a.2.2 (a :: l) with started := true, wait := none }] ∧
      t.tray.is (tblPg c.val tb.val) F.TBL_STS_WAIT_MEMBER = false ∧ t.tray.ports = s.tray.ports ∧
      s.tray.keepsRegs t.tray (stsReg c.val tb.val) ∧ s.tray.keepsOtherTables t.tray c.val tb.val) := by
  have hrun := Tray.operationMatch_agrees hruns hnone hheads hagree
  rw [if_neg (not_not.2 hfired), if_neg (not_not.2 hlive), if_neg (Nat.not_le.2 hroom)] at hrun
  exact completes_matchStarts hs hidle (opOf_opcode (s.tray.opNext c.val tb.val) a.2.2 (a :: l)) hrun

theorem operationMatch_parks (hfired : s.tray.fired c.val (opOf (s.tray.opNext c.val tb.val) a.2.2 (a :: l)) = false)
    (hroom : s.tray.trigUsed c.val < 65536) :
    Completes (.operationMatch c tb) s (fun t => movedOn s c tb t ∧
      (t.tray.table c.val tb.val).ops = (s.tray.table c.val tb.val).ops ++
        [opOf (s.tray.opNext c.val tb.val) a.2.2 (a :: l)] ∧ t.tray.ports = s.tray.ports ∧
      s.tray.keepsRegs t.tray (fun q o => stsReg c.val tb.val q o ∨ (q = chipPg c.val 1 ∧ o = A.CHIP_COLL_MAX)) ∧
      s.tray.keepsOtherTables t.tray c.val tb.val) := by
  have hrun := Tray.operationMatch_agrees hruns hnone hheads hagree
  rw [if_pos (by rw [hfired]; decide), if_pos hroom] at hrun
  exact completes_matchParks hs hidle (opOf_opcode (s.tray.opNext c.val tb.val) a.2.2 (a :: l)) hrun

end

end

end

end Sys2Proof.Machine
end

section
/-! SUPPORT. An operation that waits starts (R246, R248). -/
namespace Sys2Proof.Machine

/-- A first operation of endpoints whose counter is reached: the registers that show what it waits for. -/
def Tray.startShown (t : Tray) (c tb : Nat) : Tray :=
  (t.sb (tblPg c tb) F.TBL_STS_CQ_WAIT false).sb (tblPg c tb) F.TBL_STS_WAIT_MEMBER (!t.membersLive c tb)

/-- The operation has started. -/
def OpSt.begun (z : OpSt) : OpSt := { z with started := true, wait := none }

section
variable (t : Tray) (c tb : Nat)

theorem Tray.startShown_stays : t.Stays (t.startShown c tb) (stsReg c tb) :=
  ((Tray.Stays.refl t _).sb _ ⟨rfl, rfl⟩ (by decide)).sb _ ⟨rfl, rfl⟩ (by decide)

theorem Tray.startShown_table (d k : Nat) : (t.startShown c tb).table d k = t.table d k :=
  (Tray.table_sb ..).trans (Tray.table_sb ..)

theorem Tray.startShown_ports : (t.startShown c tb).ports = t.ports := (Tray.sb_ports ..).trans (Tray.sb_ports ..)

theorem Tray.startShown_waits : (t.startShown c tb).is (tblPg c tb) F.TBL_STS_WAIT_MEMBER = !t.membersLive c tb :=
  Tray.is_sb_self _ _ _ _ (by decide) rfl

end

section
variable {t : Tray} {c tb : Nat} {o : OpSt} {l : List OpSt} (hfirst : t.unstarted c tb = o :: l)
include hfirst

theorem Tray.startNext_endpoints (hruns : t.tRuns c tb = true) (hlaunch : o.launch = .endpoints) (hfired : t.fired c o = true) :
    t.startNext c tb =
      if t.membersLive c tb = true then (t.startShown c tb).modOp c tb o.seq OpSt.begun else t.startShown c tb := by
  unfold Tray.startNext Tray.startShown OpSt.begun
  dsimp only
  rw [hfirst]
  dsimp only
  rw [if_neg (by rw [hruns, hfired]; simp), hlaunch]
  simp only [Bool.false_and, Bool.false_eq_true, not_false_eq_true, true_or, and_true]

theorem Tray.operationStart_first : t.operationStart c tb = t.startNext c tb := by
  unfold Tray.operationStart
  rw [if_pos (by rw [hfirst]; exact List.cons_ne_nil _ _)]

theorem Tray.parkedOpStart_first (hwait : o.wait ≠ none) : t.parkedOpStart c tb = t.startNext c tb := by
  have hnot : o.started = false := by
    have ho : o ∈ t.unstarted c tb := by
      rw [hfirst]
      exact List.mem_cons_self ..
    simpa using (List.mem_filter.1 ho).2
  have hparked : o.parked = true := by
    unfold OpSt.parked
    rw [hnot, Option.isSome_iff_ne_none.2 hwait]
    rfl
  unfold Tray.parkedOpStart
  rw [hfirst]
  exact if_pos hparked

end

section
variable {s : State} {c : Fin 5} {tb : Fin 256} {i : Instr} {f : Tray → Tray} {o : OpSt} {l : List OpSt}
  (hexec : exec i s = .next (s.runC c.val (fun t => (f t).afterStart c.val tb.val)))
  (hf : f s.tray = s.tray.startNext c.val tb.val)
  (hs : s.tray.settled c.val) (hidle : s.tray.nothingStaged c.val tb.val) (hruns : s.tray.tRuns c.val tb.val = true)
  (hfirst : s.tray.unstarted c.val tb.val = o :: l) (hlaunch : o.launch = .endpoints) (hfired : s.tray.fired c.val o = true)
include hexec hf hs hidle hruns hfirst hlaunch hfired

theorem completes_startNext (hlive : s.tray.membersLive c.val tb.val = true) :
    Completes i s (fun t =>
      (t.tray.table c.val tb.val).ops =
        (s.tray.table c.val tb.val).ops.map (fun z => if z.seq = o.seq then { z with started := true, wait := none } else z) ∧
      t.tray.is (tblPg c.val tb.val) F.TBL_STS_WAIT_MEMBER = false ∧ t.tray.ports = s.tray.ports ∧
      s.tray.keepsRegs t.tray (stsReg c.val tb.val) ∧ s.tray.keepsOtherTables t.tray c.val tb.val) := by
  obtain ⟨hstaged, hshuf, hdoomed, hshuffles⟩ := hidle
  have hrun := Tray.startNext_endpoints hfirst hruns hlaunch hfired
  rw [if_pos hlive] at hrun
  have hstays := (Tray.TableStays.of_stays (s.tray.startShown_stays c.val tb.val) c.val tb.val).modTable tb.isLt
    (fun x => { x with ops := x.ops.map (fun z => if z.seq = o.seq then z.begun else z) })
  have htable : ((s.tray.startShown c.val tb.val).modOp c.val tb.val o.seq OpSt.begun).table c.val tb.val =
      { s.tray.table c.val tb.val with
        ops := (s.tray.table c.val tb.val).ops.map (fun z => if z.seq = o.seq then z.begun else z) } := by
    unfold Tray.modOp
    rw [Tray.table_modTable, Tray.startShown_table]
  have hnew : ∀ z ∈ (s.tray.table c.val tb.val).ops.map (fun z => if z.seq = o.seq then z.begun else z),
      z.opcode ≠ O.SHUFFLE := fun z hz => by
    obtain ⟨y, hy, rfl⟩ := List.mem_map.1 hz
    have hopcode : (if y.seq = o.seq then y.begun else y).opcode = y.opcode := by split <;> rfl
    rw [hopcode]
    exact hshuffles y hy
  exact completes_start hexec (hf.trans hrun) (by rw [htable]; exact ⟨hstaged, hshuf, hdoomed⟩) (by rw [htable]; exact hnew)
    (hstays.settled hs) fun t ht =>
    ⟨congrArg TableSt.ops ((ht.table ..).trans htable),
      (ht.is ..).trans ((Tray.is_modTable ..).trans ((s.tray.startShown_waits ..).trans (by rw [hlive]; rfl))),
      ht.ports.trans ((Tray.modTable_ports ..).trans (s.tray.startShown_ports ..)), hstays.sameReads ht⟩

theorem completes_startWaits (hlive : s.tray.membersLive c.val tb.val = false) :
    Completes i s (fun t => t.tray.is (tblPg c.val tb.val) F.TBL_STS_WAIT_MEMBER = true ∧
      t.tray.ports = s.tray.ports ∧ t.tray.table c.val tb.val = s.tray.table c.val tb.val ∧
      s.tray.keepsRegs t.tray (stsReg c.val tb.val) ∧ s.tray.keepsOtherTables t.tray c.val tb.val) := by
  obtain ⟨hstaged, hshuf, hdoomed, hshuffles⟩ := hidle
  have hrun := Tray.startNext_endpoints hfirst hruns hlaunch hfired
  rw [if_neg (by rw [hlive]; decide)] at hrun
  have hstays := s.tray.startShown_stays c.val tb.val
  have htable := s.tray.startShown_table c.val tb.val c.val tb.val
  exact completes_start hexec (hf.trans hrun) (by rw [htable]; exact ⟨hstaged, hshuf, hdoomed⟩) (by rw [htable]; exact hshuffles)
    (hstays.settled hs) fun t ht =>
    ⟨(ht.is ..).trans ((s.tray.startShown_waits ..).trans (by rw [hlive]; rfl)), ht.ports.trans (s.tray.startShown_ports ..),
      (ht.table ..).trans htable, (Tray.TableStays.of_stays hstays c.val tb.val).sameReads ht⟩

end

/-- Settles O37: what OPERATION_MATCH does follows from whether the heads agree and what their operation waits for; on a table where
nothing is staged, a start brings nothing more about. -/
theorem operationsStart : Obligations.OperationsStart := fun _ _ _ hs hidle hruns =>
  ⟨fun _ _ hnone hheads =>
    ⟨fun h => operationMatch_mismatch hs hidle hruns hnone hheads h,
     fun hagree =>
      ⟨fun hfired hlive hroom => operationMatch_starts hs hidle hruns hnone hheads hagree hfired hlive hroom,
       fun hfired hroom => operationMatch_parks hs hidle hruns hnone hheads hagree hfired hroom,
       fun hfired hlive => operationMatch_waits hs hidle hruns hnone hheads hagree hfired hlive⟩⟩,
   fun _ _ hfirst hlaunch hfired =>
    ⟨fun hlive =>
      ⟨completes_startNext (exec_operationStart ..) (Tray.operationStart_first hfirst) hs hidle hruns hfirst hlaunch hfired hlive,
       fun hwait => completes_startNext (exec_parkedOpStart ..) (Tray.parkedOpStart_first hfirst hwait) hs hidle hruns hfirst
        hlaunch hfired hlive⟩,
     fun hlive => completes_startWaits (exec_operationStart ..) (Tray.operationStart_first hfirst) hs hidle hruns hfirst hlaunch
      hfired hlive⟩⟩

end Sys2Proof.Machine
end

section
/-! SUPPORT. What an instruction of a job slot leaves unchanged until its operation starts (R325, R329, R335). -/
namespace Sys2Proof.Machine

/-- The register of slot `j` that holds its state. -/
def slotReg (c j q o : Nat) : Prop := q = jobPg c ∧ o = (F.DLR_JOB_CTL_STATE.nth j).off

theorem slotReg_off (j : Nat) : (F.DLR_JOB_CTL_STATE.nth j).off = 0x110 + 0x20 * j := rfl

/-- Of the job slots of chip `c` only slot `j` changes, of the tables only table `tb`; no register outside `R`, no port and no byte
of memory does. -/
structure Tray.SlotStays (t u : Tray) (c j tb : Nat) (R : Nat → Nat → Prop) : Prop where
  regs : t.keepsRegs u R
  slots : ∀ i, i ≠ j → u.slot c i = t.slot c i
  table : ∀ d k, k < 256 → ¬ (d = c ∧ k = tb) → u.table d k = t.table d k
  chips : u.chips = t.chips
  ports : u.ports = t.ports
  mem : u.mem = t.mem

namespace Tray.SlotStays
variable {t u v : Tray} {c j tb : Nat} {R Q : Nat → Nat → Prop}

theorem refl (t : Tray) (c j tb : Nat) (R : Nat → Nat → Prop) : t.SlotStays t c j tb R :=
  ⟨t.keepsRegs_refl R, fun _ _ => rfl, fun _ _ _ _ => rfl, rfl, rfl, rfl⟩

theorem trans (a : t.SlotStays u c j tb R) (b : u.SlotStays v c j tb R) : t.SlotStays v c j tb R :=
  ⟨Tray.keepsRegs_trans a.regs b.regs, fun i hi => (b.slots i hi).trans (a.slots i hi),
    fun d k hk hn => (b.table d k hk hn).trans (a.table d k hk hn), b.chips.trans a.chips,
    b.ports.trans a.ports, b.mem.trans a.mem⟩

theorem mono (a : t.SlotStays u c j tb R) (h : ∀ q o, R q o → Q q o) : t.SlotStays u c j tb Q :=
  { a with regs := Tray.keepsRegs_mono a.regs h }

theorem sameReads (a : t.SlotStays u c j tb R) (h : u.SameReads v) : t.SlotStays v c j tb R :=
  a.trans ⟨Tray.keepsRegs_of h.regs, fun i _ => by unfold Tray.slot Tray.dealer; rw [h.dealers], fun d k _ _ => h.table d k,
    h.chips, h.ports, h.mem⟩

theorem sf (a : t.SlotStays u c j tb R) {pg : Nat} {f : Fld} (x : Nat) (hR : R pg f.off) (ho : f.off < 4096) :
    t.SlotStays (u.sf pg f x) c j tb R := { a with regs := Tray.keepsRegs_sf a.regs x hR ho }

theorem sb (a : t.SlotStays u c j tb R) {pg : Nat} {f : Fld} (x : Bool) (hR : R pg f.off) (ho : f.off < 4096) :
    t.SlotStays (u.sb pg f x) c j tb R := a.sf _ hR ho

theorem modTable (a : t.SlotStays u c j tb R) (htb : tb < 256) (f : TableSt → TableSt) :
    t.SlotStays (u.modTable c tb f) c j tb R :=
  a.trans ⟨fun _ _ _ _ => rfl, fun _ _ => rfl, fun d k hk hn => Assoc.get_set_ne _ _ _ _ (by omega), rfl, rfl, rfl⟩

/-- A change of the Dealer that leaves its slots. -/
theorem modDealer (a : t.SlotStays u c j tb R) (f : DealerSt → DealerSt) (hf : (f (u.dealer c)).slots = (u.dealer c).slots) :
    t.SlotStays (u.modDealer c f) c j tb R :=
  a.trans ⟨fun _ _ _ _ => rfl, fun i _ => by unfold Tray.slot; rw [Tray.dealer_modDealer, hf], fun _ _ _ _ => rfl,
    rfl, rfl, rfl⟩

theorem modSlot (a : t.SlotStays u c j tb R) (f : SlotSt → SlotSt) : t.SlotStays (u.modSlot c j f) c j tb R :=
  a.trans ⟨fun _ _ _ _ => rfl, fun i hi => by
    unfold Tray.modSlot Tray.setSlot Tray.slot
    rw [Tray.dealer_modDealer]
    exact Assoc.get_set_ne _ _ _ _ hi, fun _ _ _ _ => rfl, rfl, rfl, rfl⟩

theorem slotWait (a : t.SlotStays u c j tb R) (hj : j < 32) (hR : R (jobPg c) (F.DLR_JOB_CTL_STATE.nth j).off) (w : SlotWait) :
    t.SlotStays (u.slotWait c j w) c j tb R := by
  unfold Tray.slotWait
  exact ((a.modSlot _).sf _ hR (by rw [slotReg_off]; omega)).modDealer _ rfl

/-- No slot but `j` comes to wait for another thing. -/
theorem settled (a : t.SlotStays u c j tb R) (h : t.settled c) (hj : ∀ st, (u.slot c j).wait ≠ .ended st) : u.settled c := by
  intro i hi st
  by_cases hij : i = j
  · rw [hij]
    exact hj st
  · rw [a.slots i hij]
    exact h i hi st

end Tray.SlotStays

/-! ### What the slot waits for -/

section
variable (t : Tray) (c j : Nat) (w : SlotWait)

theorem Tray.slot_modSlot (f : SlotSt → SlotSt) : (t.modSlot c j f).slot c j = f (t.slot c j) := by
  unfold Tray.modSlot Tray.setSlot
  unfold Tray.slot
  rw [Tray.dealer_modDealer]
  exact Assoc.get_set_self ..

theorem Tray.slot_slotWait : (t.slotWait c j w).slot c j = { t.slot c j with wait := w } := by
  refine Eq.trans ?_ (t.slot_modSlot c j fun s => { s with wait := w })
  unfold Tray.slotWait
  unfold Tray.slot
  rw [Tray.dealer_modDealer]
  dsimp only
  rw [Tray.dealer_sf]

theorem Tray.slotWait_tables : (t.slotWait c j w).tables = t.tables := by
  unfold Tray.slotWait Tray.modSlot Tray.setSlot
  rw [Tray.modDealer_tables, Tray.sf_tables, Tray.modDealer_tables]

theorem Tray.slotWait_table (d k : Nat) : (t.slotWait c j w).table d k = t.table d k := by
  unfold Tray.table
  rw [Tray.slotWait_tables]

/-- A slot whose operation is in progress runs. -/
theorem Tray.slotWait_runs (tb seq : Nat) : (t.slotWait c j (.op tb seq)).jobState c j = J.RUNNING := by
  unfold Tray.jobState Tray.slotWait
  rw [Tray.gf_modDealer, Tray.gf_sf_self _ _ _ _ (by show 2 + 2 ≤ 64; decide)]
  rfl

theorem Tray.slotWait_epoch : (t.slotWait c j w).jobEpoch c j = t.jobEpoch c j := by
  unfold Tray.jobEpoch Tray.slotWait
  rw [Tray.gf_modDealer]
  exact Tray.gf_sf_ne _ _ _ _ _ (by show 2 + 2 ≤ 64; decide) (by show 16 + 16 ≤ 64; decide)
    (.inr ⟨rfl, .inr (by show 2 + 2 ≤ 16; decide)⟩)

end

end Sys2Proof.Machine
end

section
/-! SUPPORT. From the fetched instruction to its allocation: the common checks, the operands, the pool (R325, R329, R352). -/
namespace Sys2Proof.Machine

/-- Of the tray only the record and the state of slot `j`, and what its Dealer holds beside the slots, differ. -/
structure Tray.SlotAt (t u : Tray) (c j : Nat) : Prop where
  stays : ∀ tb, t.SlotStays u c j tb (slotReg c j)
  tables : u.tables = t.tables
  epoch : u.jobEpoch c j = t.jobEpoch c j

namespace Tray.SlotAt
variable {t u v : Tray} {c j : Nat}

theorem refl (t : Tray) (c j : Nat) : t.SlotAt t c j := ⟨fun tb => .refl t c j tb _, rfl, rfl⟩

theorem trans (a : t.SlotAt u c j) (b : u.SlotAt v c j) : t.SlotAt v c j :=
  ⟨fun tb => (a.stays tb).trans (b.stays tb), b.tables.trans a.tables, b.epoch.trans a.epoch⟩

theorem modSlot (a : t.SlotAt u c j) (f : SlotSt → SlotSt) : t.SlotAt (u.modSlot c j f) c j :=
  ⟨fun tb => (a.stays tb).modSlot f, a.tables, a.epoch⟩

theorem slotWait (a : t.SlotAt u c j) (hj : j < 32) (w : SlotWait) : t.SlotAt (u.slotWait c j w) c j :=
  ⟨fun tb => (a.stays tb).slotWait hj ⟨rfl, rfl⟩ w, (u.slotWait_tables c j w).trans a.tables,
    (u.slotWait_epoch c j w).trans a.epoch⟩

theorem modDealer (a : t.SlotAt u c j) (f : DealerSt → DealerSt) (hf : (f (u.dealer c)).slots = (u.dealer c).slots) :
    t.SlotAt (u.modDealer c f) c j := ⟨fun tb => (a.stays tb).modDealer f hf, a.tables, a.epoch⟩

theorem table (a : t.SlotAt u c j) (d k : Nat) : u.table d k = t.table d k := by
  unfold Tray.table
  rw [a.tables]

/-- A register of another page than that of the jobs reads as before. -/
theorem gf (a : t.SlotAt u c j) {q : Nat} (hq : q ≠ jobPg c) (f : Fld) (hf : f.off < 4096) : u.gf q f = t.gf q f :=
  Tray.keepsRegs_gf (a.stays 0).regs q f hf fun h => hq h.1

theorem is (a : t.SlotAt u c j) {q : Nat} (hq : q ≠ jobPg c) (f : Fld) (hf : f.off < 4096) : u.is q f = t.is q f := by
  unfold Tray.is
  rw [a.gf hq f hf]

theorem tblGf (a : t.SlotAt u c j) {tb : Nat} (htb : tb < 256) (f : Fld) (hf : f.off < 4096) :
    u.gf (tblPg c tb) f = t.gf (tblPg c tb) f :=
  a.gf (by unfold tblPg jobPg chipPg; omega) f hf

theorem jobSeat (a : t.SlotAt u c j) (hj : j < 32) : u.jobSeat c j = t.jobSeat c j := by
  have hoff : (F.DLR_JOB_CFG_SEAT.nth j).off = 0x100 + 0x20 * j := rfl
  exact Tray.keepsRegs_gf (a.stays 0).regs _ _ (by rw [hoff]; omega) fun h => absurd h.2 (by rw [hoff, slotReg_off]; omega)

theorem poolCap (a : t.SlotAt u c j) : u.poolCap c = t.poolCap c :=
  congrArg (512 * ·) (a.gf (by unfold dlrPg jobPg chipPg; omega) F.DLR_SRAM_POOL_PAGES (by decide))

theorem issueFull (a : t.SlotAt u c j) (tb : Nat) : u.issueFull c tb = t.issueFull c tb := by
  unfold Tray.issueFull Tray.trigUsed Tray.tablesOf Tray.table
  rw [a.tables]

section
variable (a : t.SlotAt u c j) {tb : Nat} (htb : tb < 256)
include a htb

theorem tMembers : u.tMembers c tb = t.tMembers c tb := congrArg (bitsOf 64) (a.tblGf htb F.TBL_MEMB_MEMB (by decide))

theorem tN : u.tN c tb = t.tN c tb := congrArg List.length (a.tMembers htb)

theorem tDealer : u.tDealer c tb = t.tDealer c tb := a.is (by unfold tblPg jobPg chipPg; omega) F.TBL_CFG_LAUNCH (by decide)

theorem opNext : u.opNext c tb = t.opNext c tb := a.tblGf htb F.TBL_STS_OP_NEXT (by decide)

theorem geo (o : OpSt) : u.geo c tb o = t.geo c tb o := by
  unfold Tray.geo Tray.tFmt Tray.trickBytes
  rw [a.tN htb, a.tblGf htb F.TBL_CFG_FORMAT (by decide), a.tblGf htb F.TBL_TRICK_TRICK_4K (by decide)]

end

end Tray.SlotAt

/-! ### Operands -/

/-- What slot `j` may name as an operand, and the pool, are the same; more slots may hold a descriptor. -/
structure Tray.SameOperands (t u : Tray) (c j : Nat) : Prop where
  seat : u.jobSeat c j = t.jobSeat c j
  jh : (u.slot c j).jh = (t.slot c j).jh
  pool : (u.dealer c).pool = (t.dealer c).pool
  desc : ∀ k, ∃ l, u.desc c k = { t.desc c k with users := l } ∧ ∀ i ∈ (t.desc c k).users, i ∈ l

namespace Tray.SameOperands
variable {t u v : Tray} {c j : Nat}

theorem trans (a : t.SameOperands u c j) (b : u.SameOperands v c j) : t.SameOperands v c j :=
  ⟨b.seat.trans a.seat, b.jh.trans a.jh, b.pool.trans a.pool, fun k => by
    obtain ⟨l, hl, hin⟩ := a.desc k
    obtain ⟨n, hn, hmore⟩ := b.desc k
    refine ⟨n, by rw [hn, hl], fun i hi => hmore i ?_⟩
    rw [hl]
    exact hin i hi⟩

/-- An operand of the slot stays one, of the same words. -/
theorem operand (a : t.SameOperands u c j) {w : BitVec 512} {i kind h k : Nat} {d : DescSt}
    (hop : t.operand c j w i kind = some (h, k, d)) : ∃ d', u.operand c j w i kind = some (h, k, d') ∧ d'.words = d.words := by
  have hhandle : u.opHandle c j w i = t.opHandle c j w i := by
    unfold Tray.opHandle
    rw [a.jh]
  unfold Tray.operand Tray.findDesc at hop ⊢
  dsimp only at hop ⊢
  obtain ⟨l, hl, hin⟩ := a.desc (t.opHandle c j w i % 4096)
  rw [hhandle, a.seat, hl]
  split at hop
  · next heq => exact absurd hop (Option.some_ne_none _).symm
  · next s d₀ heq =>
    split at heq
    · next hmay =>
      obtain ⟨rfl, rfl⟩ := Prod.mk.inj (Option.some.inj heq)
      obtain ⟨hheld, hupper, hgen, hseat, huse⟩ := hmay
      have hmine : (t.desc c (t.opHandle c j w i % 4096)).live = true ∨ l.contains j = true :=
        huse.imp_right fun hj => by
          rw [List.contains_iff_mem] at hj ⊢
          exact hin j hj
      rw [if_pos ⟨hheld, hupper, hgen, hseat, hmine⟩]
      dsimp only
      split at hop
      · next hkind =>
        obtain ⟨rfl, hrest⟩ := Prod.mk.inj (Option.some.inj hop)
        obtain ⟨rfl, rfl⟩ := Prod.mk.inj hrest
        exact ⟨_, if_pos hkind, rfl⟩
      · exact absurd hop (Option.some_ne_none _).symm
    · exact absurd heq (Option.some_ne_none _).symm

end Tray.SameOperands

theorem Tray.holdDesc_slotAt (t : Tray) (c j k : Nat) : t.SlotAt (t.holdDesc c j k) c j := by
  unfold Tray.holdDesc
  dsimp only
  split
  · exact .refl ..
  · exact (Tray.SlotAt.refl ..).modDealer _ rfl

theorem Tray.modSlot_stores (t : Tray) (c j : Nat) (f : SlotSt → SlotSt) :
    ((t.modSlot c j f).dealer c).pool = (t.dealer c).pool ∧ ((t.modSlot c j f).dealer c).descs = (t.dealer c).descs := by
  unfold Tray.modSlot Tray.setSlot
  rw [Tray.dealer_modDealer]
  exact ⟨rfl, rfl⟩

theorem Tray.slotWait_stores (t : Tray) (c j : Nat) (w : SlotWait) :
    ((t.slotWait c j w).dealer c).pool = (t.dealer c).pool ∧ ((t.slotWait c j w).dealer c).descs = (t.dealer c).descs := by
  unfold Tray.slotWait
  rw [Tray.dealer_modDealer, Tray.dealer_sf]
  exact t.modSlot_stores c j (fun s => { s with wait := w })

section
variable (t : Tray) {c j : Nat} (hj : j < 32)
include hj

theorem Tray.holdDesc_operands (k : Nat) : t.SameOperands (t.holdDesc c j k) c j := by
  have hseat := (t.holdDesc_slotAt c j k).jobSeat hj
  unfold Tray.holdDesc at hseat ⊢
  dsimp only at hseat ⊢
  split at hseat
  · next hheld =>
    rw [if_pos hheld]
    exact ⟨rfl, rfl, rfl, fun i => ⟨_, rfl, fun _ h => h⟩⟩
  · next hheld =>
    rw [if_neg hheld]
    have hdealer := t.dealer_modDealer c (fun x => { x with
      descs := Assoc.set (fun _ => {}) x.descs k { t.desc c k with users := (t.desc c k).users ++ [j] } })
    refine ⟨hseat, ?_, ?_, fun i => ?_⟩
    · unfold Tray.setDesc Tray.slot
      rw [hdealer]
    · unfold Tray.setDesc
      rw [hdealer]
    · have hdesc : (t.setDesc c k { t.desc c k with users := (t.desc c k).users ++ [j] }).desc c i =
          if i = k then { t.desc c k with users := (t.desc c k).users ++ [j] } else t.desc c i := by
        unfold Tray.setDesc
        rw [Tray.desc, hdealer]
        exact Assoc.get_set ..
      rw [hdesc]
      split
      · next heq =>
        rw [heq]
        exact ⟨_, rfl, fun x hx => List.mem_append_left _ hx⟩
      · exact ⟨_, rfl, fun _ h => h⟩

/-- The tray in which the body of a checked instruction runs. -/
def Tray.insReady (t : Tray) (c j : Nat) (w : BitVec 512) : Tray :=
  ((t.modSlot c j (fun s => { s with tag := insTag w })).slotWait c j .none).modSlot c j (fun s => { s with passed := true })

theorem Tray.insReady_slotAt (w : BitVec 512) : t.SlotAt (t.insReady c j w) c j :=
  (((Tray.SlotAt.refl t c j).modSlot _).slotWait hj .none).modSlot _

theorem Tray.insReady_operands (w : BitVec 512) : t.SameOperands (t.insReady c j w) c j := by
  have htag := t.modSlot_stores c j (fun s => { s with tag := insTag w })
  have hwait := (t.modSlot c j (fun s => { s with tag := insTag w })).slotWait_stores c j .none
  have hpass := ((t.modSlot c j (fun s => { s with tag := insTag w })).slotWait c j .none).modSlot_stores c j
    (fun s => { s with passed := true })
  refine ⟨(t.insReady_slotAt hj w).jobSeat hj, ?_, hpass.1.trans (hwait.1.trans htag.1), fun k => ⟨_, ?_, fun _ h => h⟩⟩
  · unfold Tray.insReady
    rw [Tray.slot_modSlot, Tray.slot_slotWait, Tray.slot_modSlot]
  · exact congrArg (fun l => Assoc.get (fun _ => ({} : DescSt)) l k) (hpass.2.trans (hwait.2.trans htag.2))

omit hj in
/-- An instruction that passes the common checks runs its body (R325). -/
theorem Tray.dealerIns_executes {w : BitVec 512} {op : Nat} (hop : opcodeOk op = true) (h : t.executes c j w op)
    (body : Tray → BitVec 512 → Tray) : t.dealerIns c j op body = body (t.insReady c j w) w := by
  obtain ⟨hruns, hstate, hwait, hfetch, rfl, hcheck, hpass⟩ := h
  unfold Tray.dealerIns
  dsimp only
  rw [if_neg, hfetch]
  swap
  · rintro (hstop | hnone | hwaits)
    · exact hstop hruns
    · exact hstate hnone
    · simp only [List.mem_cons, List.not_mem_nil, or_false] at hwait
      rcases hwait with h | h | h | h <;> rw [h] at hwaits <;> exact absurd hwaits (by decide)
  dsimp only
  rw [if_neg (by rw [hop]; decide), if_neg (not_not.2 rfl), if_neg (not_not.2 hcheck), if_neg]
  · rfl
  · rintro ⟨hen, hnot, hless⟩
    rcases hpass with h | h | h
    · rw [h] at hen
      exact absurd hen (by decide)
    · exact hnot h
    · omega

end

/-! ### The pool -/

theorem Tray.poolRoom.of_operands {t u : Tray} {c j n : Nat} (h : t.poolRoom c j n 0) (ha : t.SlotAt u c j)
    (ho : t.SameOperands u c j) : u.poolRoom c j n 0 := by
  obtain ⟨hspill, hroom⟩ := h
  refine ⟨by rw [ho.pool]; exact hspill, ?_⟩
  rw [ha.poolCap]
  unfold DealerSt.poolUsed at hroom ⊢
  rw [ho.pool]
  exact hroom

/-- What fits into the pool is allocated without a spill (R351, R352). -/
theorem Tray.poolRoom.poolAlloc {t : Tray} {c j n : Nat} (h : t.poolRoom c j n 0) (pin : Bool) :
    ∃ u, t.poolAlloc c j n 0 pin = some u ∧ t.SlotAt u c j := by
  obtain ⟨hspill, hroom⟩ := h
  have hmine : (t.dealer c).pool.filter (fun x => x.slot == j && x.spilled) = [] :=
    List.filter_eq_nil_iff.2 fun x hx => by
      by_cases hj : x.slot = j
      · simp [hspill x hx hj]
      · simp [hj]
  unfold Tray.poolAlloc
  dsimp only
  rw [hmine]
  split
  · exact ⟨t, rfl, .refl ..⟩
  · have hfit : t.poolFit c j (n + 0 + sumL (([] : List PoolItem).map (fun x => x.size)))
        ((t.dealer c).pool.length + 1) = some t := by
      unfold Tray.poolFit
      exact if_pos hroom
    rw [hfit]
    refine ⟨_, rfl, ?_⟩
    rw [show 4096 * sumL (([] : List PoolItem).map (fun x => x.size)) = 0 from rfl, Tray.charge_zero]
    exact (Tray.SlotAt.refl t c j).modDealer _ rfl

end Sys2Proof.Machine
end

section
/-! SUPPORT. An operation of the Dealer: the last of its table, started as soon as it may (R257, R335). -/
namespace Sys2Proof.Machine

/-- The operation of an instruction of slot `j` (R335). -/
def Tray.issuedOp (t : Tray) (c j : Nat) (w : BitVec 512) (opcode count dst : Nat) (fz : Fuse) : OpSt :=
  { seq := t.opNext c (insTbl w), opcode := opcode, count := count, launch := .dealer j (t.jobEpoch c j) (insTag w), fuse := fz,
    members := (t.tMembers c (insTbl w)).map (fun e => { port := e, dst := dst, userTag := insTag w }) }

/-- The operation is the last of its table, and the slot waits for its end. -/
def Tray.enqueued (t : Tray) (c j tb : Nat) (o : OpSt) : Tray :=
  ((t.modTable c tb (fun x => { x with ops := x.ops ++ [o] })).nextSeq c tb).slotWait c j (.op tb (t.opNext c tb))

theorem Tray.issueOp_eq (t : Tray) (c j : Nat) (w : BitVec 512) (opcode count dst : Nat) (fz : Fuse) :
    t.issueOp c j w opcode count dst fz =
      ((t.enqueued c j (insTbl w) (t.issuedOp c j w opcode count dst fz)).startNext c (insTbl w)).started c (insTbl w) := rfl

/-- Registers that the issue of an operation writes. -/
def issueReg (c j tb q o : Nat) : Prop := slotReg c j q o ∨ stsReg c tb q o

namespace Tray.SlotStays
variable {t u : Tray} {c j tb : Nat} (a : t.SlotStays u c j tb (issueReg c j tb)) (htb : tb < 256)
include a htb

theorem chipRuns : u.chipRuns c = t.chipRuns c := by
  have hpage : ∀ f : Fld, ¬ issueReg c j tb (chip0 c) f.off := fun f hreg => by
    unfold issueReg slotReg stsReg jobPg tblPg chip0 chipPg at hreg
    omega
  have hchip : u.chip c = t.chip c := by
    unfold Tray.chip
    rw [a.chips]
  unfold Tray.chipRuns Tray.enabled Tray.is
  rw [hchip, Tray.keepsRegs_gf a.regs _ _ (by decide) (hpage _), Tray.keepsRegs_gf a.regs _ _ (by decide) (hpage _)]

theorem tMembers : u.tMembers c tb = t.tMembers c tb :=
  congrArg (bitsOf 64) (Tray.keepsRegs_gf a.regs _ F.TBL_MEMB_MEMB (by decide) fun hreg => by
    unfold issueReg slotReg stsReg jobPg tblPg chipPg at hreg
    exact hreg.elim (fun h => by omega) fun h => absurd h.2 (by decide))

theorem membersLive : u.membersLive c tb = t.membersLive c tb := by
  unfold Tray.membersLive
  rw [a.tMembers htb, Bool.eq_iff_iff, List.all_eq_true, List.all_eq_true]
  refine forall₂_congr fun e he => ?_
  have hpst : u.pst c e = t.pst c e := Tray.keepsRegs_gf a.regs _ _ (by decide) fun hreg => by
    have he := Tray.tMembers_lt he
    unfold issueReg slotReg stsReg jobPg tblPg portPg chipPg at hreg
    omega
  unfold Tray.live
  rw [hpst]

theorem cqsOn (hwins : (u.table c tb).wins = (t.table c tb).wins) : u.cqsOn c tb = t.cqsOn c tb := by
  unfold Tray.cqsOn Tray.win
  rw [a.tMembers htb, hwins]

end Tray.SlotStays

section
variable (t : Tray) (c : Nat) {j tb : Nat} (o : OpSt)

theorem Tray.enqueued_stays (hj : j < 32) (htb : tb < 256) : t.SlotStays (t.enqueued c j tb o) c j tb (issueReg c j tb) :=
  (((Tray.SlotStays.refl t c j tb _).modTable htb _).sf _ (.inr ⟨rfl, rfl⟩) (by decide)).slotWait hj (.inl ⟨rfl, rfl⟩) _

theorem Tray.enqueued_table :
    (t.enqueued c j tb o).table c tb = { t.table c tb with ops := (t.table c tb).ops ++ [o] } :=
  (Tray.slotWait_table ..).trans ((Tray.table_sf ..).trans (Tray.table_modTable ..))

theorem Tray.enqueued_wait : ((t.enqueued c j tb o).slot c j).wait = .op tb (t.opNext c tb) :=
  congrArg SlotSt.wait (Tray.slot_slotWait ..)

theorem Tray.enqueued_runs : (t.enqueued c j tb o).jobState c j = J.RUNNING := Tray.slotWait_runs ..

theorem Tray.enqueued_opNext (hj : j < 32) (htb : tb < 256) : (t.enqueued c j tb o).opNext c tb = (t.opNext c tb + 1) % 65536 :=
  (((Tray.SlotAt.refl _ c j).slotWait hj _).opNext htb).trans (Tray.gf_sf_self _ _ F.TBL_STS_OP_NEXT _ (by decide))

theorem Tray.enqueued_tRuns (hj : j < 32) (htb : tb < 256) : (t.enqueued c j tb o).tRuns c tb = t.tRuns c tb := by
  have htst : (t.enqueued c j tb o).tst c tb = t.tst c tb :=
    (((Tray.SlotAt.refl _ c j).slotWait hj _).tblGf htb F.TBL_STS_STATE (by decide)).trans
      (Tray.gf_sf_ne _ _ _ _ _ (by decide) (by decide) (by decide))
  unfold Tray.tRuns
  rw [htst, (t.enqueued_stays c o hj htb).chipRuns htb]

theorem Tray.enqueued_cqsOn (hj : j < 32) (htb : tb < 256) : (t.enqueued c j tb o).cqsOn c tb = t.cqsOn c tb :=
  (t.enqueued_stays c o hj htb).cqsOn htb (by rw [t.enqueued_table c o])

end

/-! ### The start -/

/-- The registers that show what an operation of the Dealer waits for (R246, R257). -/
def Tray.dealerShown (t : Tray) (c tb : Nat) : Tray :=
  (t.sb (tblPg c tb) F.TBL_STS_CQ_WAIT (!t.cqsOn c tb)).sb (tblPg c tb) F.TBL_STS_WAIT_MEMBER (!t.membersLive c tb)

theorem Tray.dealerShown_table (t : Tray) (c tb d k : Nat) : (t.dealerShown c tb).table d k = t.table d k :=
  (Tray.table_sb ..).trans (Tray.table_sb ..)

theorem Tray.dealerShown_stays (t : Tray) (c j tb : Nat) : t.SlotStays (t.dealerShown c tb) c j tb (stsReg c tb) :=
  ((Tray.SlotStays.refl ..).sb _ ⟨rfl, rfl⟩ (by decide)).sb _ ⟨rfl, rfl⟩ (by decide)

section
variable {t : Tray} {c tb : Nat} {o : OpSt} {a b d : Nat} (hfirst : t.unstarted c tb = [o]) (hruns : t.tRuns c tb = true)
  (hlaunch : o.launch = .dealer a b d) (hwait : o.wait = none)
include hfirst hruns hlaunch hwait

theorem Tray.startNext_dealer : t.startNext c tb =
    if t.membersLive c tb = true ∧ t.cqsOn c tb = true then (t.dealerShown c tb).modOp c tb o.seq OpSt.begun
    else t.dealerShown c tb := by
  have hfired : t.fired c o = true := by
    unfold Tray.fired
    rw [hwait]
  unfold Tray.startNext Tray.dealerShown OpSt.begun
  dsimp only
  rw [hfirst]
  dsimp only
  rw [if_neg (by rw [hruns, hfired]; simp), hlaunch]
  simp only [Bool.true_and, not_true_eq_false, false_or]

/-- The operation, started or not, stays the last of its table. -/
theorem Tray.startNext_last {x : TableSt} {l : List OpSt} (htable : t.table c tb = { x with ops := l ++ [o] })
    (hseq : ∀ z ∈ l, z.seq ≠ o.seq) :
    ∃ z, (z = o ∨ z = o.begun) ∧ (t.membersLive c tb = true → t.cqsOn c tb = true → z = o.begun) ∧
      (t.startNext c tb).table c tb = { x with ops := l ++ [z] } := by
  rw [Tray.startNext_dealer hfirst hruns hlaunch hwait]
  split
  · refine ⟨o.begun, .inr rfl, fun _ _ => rfl, ?_⟩
    have hkeep : l.map (fun z => if z.seq = o.seq then z.begun else z) = l :=
      (List.map_congr_left fun z hz => if_neg (hseq z hz)).trans (List.map_id' l)
    unfold Tray.modOp
    rw [Tray.table_modTable, Tray.dealerShown_table, htable]
    dsimp only
    rw [List.map_append, hkeep, List.map_singleton, if_pos rfl]
  · next hnot =>
    exact ⟨o, .inl rfl, fun hlive hcq => absurd ⟨hlive, hcq⟩ hnot, (t.dealerShown_table ..).trans htable⟩

theorem Tray.startNext_slotStays (j : Nat) (htb : tb < 256) : t.SlotStays (t.startNext c tb) c j tb (stsReg c tb) := by
  rw [Tray.startNext_dealer hfirst hruns hlaunch hwait]
  split
  · exact (t.dealerShown_stays c j tb).modTable htb _
  · exact t.dealerShown_stays c j tb

theorem Tray.startNext_dealers : (t.startNext c tb).dealers = t.dealers := by
  have hshown : (t.dealerShown c tb).dealers = t.dealers := (Tray.sb_dealers ..).trans (Tray.sb_dealers ..)
  rw [Tray.startNext_dealer hfirst hruns hlaunch hwait]
  split
  · exact (Tray.modTable_dealers ..).trans hshown
  · exact hshown

theorem Tray.startNext_opNext : (t.startNext c tb).opNext c tb = t.opNext c tb := by
  have hshown : (t.dealerShown c tb).opNext c tb = t.opNext c tb :=
    (Tray.gf_sb_ne _ _ _ _ _ (by decide) (by decide) (by decide)).trans
      (Tray.gf_sb_ne _ _ _ _ _ (by decide) (by decide) (by decide))
  rw [Tray.startNext_dealer hfirst hruns hlaunch hwait]
  split
  · exact (Tray.gf_modTable ..).trans hshown
  · exact hshown

end

/-! ### The operation issued -/

/-- Operation `o`, started or not, is the last of table `tb`, whose next OP_SEQ it took, and slot `j` waits for its end. -/
structure Tray.Issued (t u : Tray) (c j tb : Nat) (o : OpSt) : Prop where
  stays : t.SlotStays u c j tb (issueReg c j tb)
  last : ∃ z, (z = o ∨ z = o.begun) ∧ (t.membersLive c tb = true → t.cqsOn c tb = true → z = o.begun) ∧
    u.table c tb = { t.table c tb with ops := (t.table c tb).ops ++ [z] }
  opNext : u.opNext c tb = (t.opNext c tb + 1) % 65536
  wait : (u.slot c j).wait = .op tb (t.opNext c tb)
  runs : u.jobState c j = J.RUNNING

/-- The table takes an operation of the Dealer at once: nothing waits there, and no operation has the next OP_SEQ. -/
def Tray.takesOp (t : Tray) (c tb : Nat) : Prop :=
  t.tRuns c tb = true ∧ t.nothingStaged c tb ∧ ∀ o ∈ (t.table c tb).ops, o.seq ≠ t.opNext c tb ∧ o.started = true

namespace Tray.Issued
variable {t u v : Tray} {c j tb : Nat} {o : OpSt}

theorem sameReads (a : t.Issued u c j tb o) (h : u.SameReads v) : t.Issued v c j tb o := by
  obtain ⟨z, hz, hstart, htable⟩ := a.last
  refine ⟨a.stays.sameReads h, ⟨z, hz, hstart, (h.table ..).trans htable⟩, (h.gf ..).trans a.opNext, ?_,
    (h.gf ..).trans a.runs⟩
  unfold Tray.slot Tray.dealer
  rw [h.dealers]
  exact a.wait

theorem bare (a : t.Issued u c j tb o) (h : (t.table c tb).bare) : (u.table c tb).bare := by
  obtain ⟨z, -, -, htable⟩ := a.last
  rw [htable]
  exact h

theorem settled (a : t.Issued u c j tb o) (h : t.settled c) : u.settled c :=
  a.stays.settled h fun st hst => absurd (a.wait.symm.trans hst) (by simp)

end Tray.Issued

section
variable {t : Tray} {c tb : Nat} (h : t.takesOp c tb)
include h

theorem Tray.takesOp.enqueued_unstarted {o : OpSt} (ho : o.started = false) (j : Nat) :
    (t.enqueued c j tb o).unstarted c tb = [o] := by
  obtain ⟨-, -, hops⟩ := h
  have hold : (t.table c tb).ops.filter (fun z => !z.started) = [] :=
    List.filter_eq_nil_iff.2 fun z hz => by simp [(hops z hz).2]
  unfold Tray.unstarted
  rw [Tray.enqueued_table]
  dsimp only
  rw [List.filter_append, hold, List.filter_singleton, ho]
  rfl

variable {j : Nat} (hj : j < 32) (htb : tb < 256) {o : OpSt} (hseq : o.seq = t.opNext c tb) (hstarted : o.started = false)
  {b d : Nat} (hlaunch : o.launch = .dealer j b d) (hwait : o.wait = none)
include hj htb hseq hstarted hlaunch hwait

theorem Tray.takesOp.issued : t.Issued ((t.enqueued c j tb o).startNext c tb) c j tb o := by
  have hfirst := h.enqueued_unstarted hstarted j
  obtain ⟨hruns, -, hops⟩ := h
  have hruns : (t.enqueued c j tb o).tRuns c tb = true := (t.enqueued_tRuns c o hj htb).trans hruns
  have hstays := Tray.startNext_slotStays hfirst hruns hlaunch hwait j htb
  obtain ⟨z, hz, hstart, htable⟩ := Tray.startNext_last hfirst hruns hlaunch hwait (t.enqueued_table c o)
    fun z hz => hseq ▸ (hops z hz).1
  rw [(t.enqueued_stays c o hj htb).membersLive htb, t.enqueued_cqsOn c o hj htb] at hstart
  refine ⟨(t.enqueued_stays c o hj htb).trans (hstays.mono fun _ _ => .inr), ⟨z, hz, hstart, htable⟩, ?_, ?_, ?_⟩
  · exact (Tray.startNext_opNext hfirst hruns hlaunch hwait).trans (t.enqueued_opNext c o hj htb)
  · unfold Tray.slot Tray.dealer
    rw [Tray.startNext_dealers hfirst hruns hlaunch hwait]
    exact t.enqueued_wait c o
  · refine (Tray.keepsRegs_gf hstays.regs _ _ ?_ fun hreg => absurd hreg.1 ?_).trans (t.enqueued_runs c o)
    · rw [slotReg_off]
      omega
    · unfold jobPg tblPg chipPg
      omega

end

/-- What issues takes the table's next OP_SEQ. -/
theorem Tray.takesOp.issueOp {t : Tray} {c j : Nat} {w : BitVec 512} (h : t.takesOp c (insTbl w)) (hj : j < 32)
    (opcode count dst : Nat) (fz : Fuse) :
    t.Issued (t.issueOp c j w opcode count dst fz) c j (insTbl w) (t.issuedOp c j w opcode count dst fz) := by
  have hissued := h.issued hj (insTbl_lt w) (o := t.issuedOp c j w opcode count dst fz) rfl rfl rfl rfl
  obtain ⟨-, ⟨hstaged, hshuf, hdoomed, -⟩, -⟩ := h
  rw [Tray.issueOp_eq]
  exact hissued.sameReads (Tray.started_bare _ (hissued.bare ⟨hstaged, hshuf, hdoomed⟩))

end Sys2Proof.Machine
end

section
/-! SUPPORT. A SHUFFLE that has just started has nothing to do until data arrives (R347). -/
namespace Sys2Proof.Machine

/-- A SHUFFLE that has received nothing of what is due. -/
structure OpSt.AwaitsData (z : OpSt) (w : BitVec 512) (a b : BitVec 1024) (c : Nat) : Prop where
  opcode : z.opcode = O.SHUFFLE
  fuse : z.fuse = .shuffle w a b
  runs : z.runs = []
  failed : z.failed = false
  allSent : z.allSent = false
  due : 0 < (dtdOf a).q * shufSource (dtdOf a) (shufSpan w) c

theorem OpSt.AwaitsData.begun {z : OpSt} {w : BitVec 512} {a b : BitVec 1024} {c : Nat} (h : z.AwaitsData w a b c) :
    z.begun.AwaitsData w a b c := ⟨h.opcode, h.fuse, h.runs, h.failed, h.allSent, h.due⟩

theorem OpSt.AwaitsData.not_done {z : OpSt} {w : BitVec 512} {a b : BitVec 1024} {c : Nat} (h : z.AwaitsData w a b c) (t : Tray)
    (tb : Nat) : t.shufDone c tb z (dtdOf a) (dtdOf b) w = false := by
  have hdue := h.due
  unfold Tray.shufDone
  rw [h.runs]
  have hnone : (sumL (([] : List (Nat × Nat × Nat)).map (fun r => r.2.2)) ==
      (dtdOf a).q * shufSource (dtdOf a) (shufSpan w) c) = false :=
    beq_eq_false_iff_ne.2 hdue.ne
  dsimp only
  rw [hnone]
  rfl

section
variable {t : Tray} {c tb : Nat} {l : List OpSt} {z : OpSt} {w : BitVec 512} {a b : BitVec 1024}
  (hops : (t.table c tb).ops = l ++ [z]) (hseq : ∀ y ∈ l, y.seq ≠ z.seq) (h : z.AwaitsData w a b c)

include hops hseq

theorem Tray.findOp_last : (t.table c tb).findOp z.seq = some z := by
  unfold TableSt.findOp
  rw [hops, List.find?_append, List.find?_eq_none.2 fun y hy => by simpa using hseq y hy]
  simp

/-- A change of the last operation that leaves it as it is. -/
theorem Tray.modOp_same {f : OpSt → OpSt} (hf : f z = z) : t.SameReads (t.modOp c tb z.seq f) := by
  refine t.modTable_same c tb ?_
  have hmap : (t.table c tb).ops.map (fun o => if o.seq = z.seq then f o else o) = (t.table c tb).ops := by
    have hold : l.map (fun o => if o.seq = z.seq then f o else o) = l :=
      (List.map_congr_left fun y hy => if_neg (hseq y hy)).trans (List.map_id' l)
    rw [hops, List.map_append, hold, List.map_singleton, if_pos rfl, hf]
  exact congrArg (fun k => { t.table c tb with ops := k }) hmap

include h

theorem OpSt.AwaitsData.checkOp_same : t.checkOp c tb z.seq = t := by
  unfold Tray.checkOp Tray.opSent
  rw [Tray.findOp_last hops hseq]
  dsimp only
  rw [if_neg (by rw [h.failed]; decide), if_pos h.opcode, if_neg (by rw [h.allSent]; simp)]

theorem OpSt.AwaitsData.shufCheck_same : t.SameReads (t.shufCheck c tb z.seq) := by
  have hsame := Tray.modOp_same hops hseq (f := fun y => { y with allSent := t.shufDone c tb z (dtdOf a) (dtdOf b) w })
    (by rw [h.not_done, ← h.allSent])
  unfold Tray.shufCheck
  rw [Tray.findOp_last hops hseq]
  dsimp only
  rw [h.fuse]
  dsimp only
  rw [h.checkOp_same (by rw [hsame.table]; exact hops) hseq]
  exact hsame

/-- No data waits for it. -/
theorem OpSt.AwaitsData.shufStarted_same (hbare : (t.table c tb).bare) (hold : ∀ y ∈ l, y.opcode ≠ O.SHUFFLE) :
    t.SameReads (t.shufStarted c tb) := by
  obtain ⟨-, hshuf, -⟩ := hbare
  have hnone : l.filter (fun o => o.started && !o.failed && o.opcode == O.SHUFFLE) = [] :=
    List.filter_eq_nil_iff.2 fun y hy => by simp [hold y hy]
  have hkeep : t.SameReads (t.modTable c tb (fun x => { x with shuf := x.shuf.filter (fun y => y.op != z.seq) })) := by
    refine t.modTable_same c tb ?_
    rw [hshuf]
    exact congrArg (fun k => { t.table c tb with shuf := k }) hshuf.symm
  unfold Tray.shufStarted
  rw [hops, List.filter_append, hnone, List.filter_singleton]
  cases z.started && !z.failed && z.opcode == O.SHUFFLE with
  | false => exact .refl t
  | true =>
    show t.SameReads (((t.modTable c tb (fun x => { x with shuf := x.shuf.filter (fun y => y.op != z.seq) })).each
      ((t.table c tb).shuf.filter (fun x => x.op == z.seq)) _).shufCheck c tb z.seq)
    rw [hshuf]
    exact hkeep.trans (h.shufCheck_same (by rw [hkeep.table]; exact hops) hseq)

end

/-- The start of a SHUFFLE brings nothing more about on a table where nothing waits. -/
theorem Tray.Issued.afterStart_same {t u : Tray} {c j tb : Nat} {o : OpSt} {w : BitVec 512} {a b : BitVec 1024}
    (h : t.Issued u c j tb o) (htakes : t.takesOp c tb) (hseq : o.seq = t.opNext c tb) (ho : o.AwaitsData w a b c) :
    u.SameReads (u.afterStart c tb) := by
  obtain ⟨-, ⟨hstaged, hshuf, hdoomed, hold⟩, hops⟩ := htakes
  have hbare := h.bare ⟨hstaged, hshuf, hdoomed⟩
  have hsame := u.started_bare hbare
  obtain ⟨z, hz, -, htable⟩ := h.last
  have hawaits : z.AwaitsData w a b c := hz.elim (fun e => e ▸ ho) fun e => e ▸ ho.begun
  have hnew : ∀ y ∈ (t.table c tb).ops, y.seq ≠ z.seq := by
    have hzseq : z.seq = t.opNext c tb := hz.elim (fun e => e ▸ hseq) fun e => e ▸ hseq
    rw [hzseq]
    exact fun y hy => (hops y hy).1
  exact hsame.trans (hawaits.shufStarted_same (by rw [hsame.table, htable]) hnew (by rw [hsame.table]; exact hbare) hold)

end Sys2Proof.Machine
end

section
/-! SUPPORT. RS_EPI, AG_PRO and SHUFFLE issue their operations (R257, R335–R337, R346). -/
namespace Sys2Proof.Machine

theorem exec_rsEpi (c : Fin 5) (j : Fin 32) (need : Nat) (s : State) : exec (.rsEpi c j need) s =
    .next (s.runC c.val (fun t => t.dealerIns c.val j.val I.RS_EPI (fun t w => t.insRsEpi need c.val j.val w))) := rfl
theorem exec_agPro (c : Fin 5) (j : Fin 32) (need : Nat) (s : State) : exec (.agPro c j need) s =
    .next (s.runC c.val (fun t => t.dealerIns c.val j.val I.AG_PRO (fun t w => t.insAgPro need c.val j.val w))) := rfl
theorem exec_shuffle (c : Fin 5) (j : Fin 32) (need : Nat) (s : State) : exec (.shuffle c j need) s =
    .next (s.runC c.val (fun t => t.dealerIns c.val j.val I.SHUFFLE (fun t w => t.insShuffle need c.val j.val w))) := rfl

/-! ### The table as the instruction finds it -/

namespace Tray.SlotAt
variable {t u : Tray} {c j tb : Nat} (a : t.SlotAt u c j) (htb : tb < 256)
include a htb

omit htb in
theorem issueStays : t.SlotStays u c j tb (issueReg c j tb) := (a.stays tb).mono fun _ _ => .inl

theorem takesOp (h : t.takesOp c tb) : u.takesOp c tb := by
  obtain ⟨hruns, hidle, hops⟩ := h
  refine ⟨?_, ?_, ?_⟩
  · unfold Tray.tRuns Tray.tst at hruns ⊢
    rw [a.tblGf htb _ (by decide), (a.issueStays (tb := tb)).chipRuns htb]
    exact hruns
  · unfold Tray.nothingStaged
    rw [a.table]
    exact hidle
  · rw [a.table, a.opNext htb]
    exact hops

/-- An operation issued after the slot has changed is issued. -/
theorem issued {v : Tray} {o : OpSt} (h : u.Issued v c j tb o) : t.Issued v c j tb o := by
  have hstays := a.issueStays (tb := tb)
  obtain ⟨z, hz, hstart, htable⟩ := h.last
  rw [hstays.membersLive htb, hstays.cqsOn htb (by rw [a.table])] at hstart
  rw [a.table] at htable
  refine ⟨hstays.trans h.stays, ⟨z, hz, hstart, htable⟩, ?_, ?_, h.runs⟩
  · rw [h.opNext, a.opNext htb]
  · rw [h.wait, a.opNext htb]

end Tray.SlotAt

theorem Tray.SlotAt.issuedOp {t u : Tray} {c j : Nat} (a : t.SlotAt u c j) (w : BitVec 512) (opcode count dst : Nat) (fz : Fuse) :
    u.issuedOp c j w opcode count dst fz = t.issuedOp c j w opcode count dst fz := by
  unfold Tray.issuedOp
  rw [a.opNext (insTbl_lt w), a.epoch, a.tMembers (insTbl_lt w)]

/-! ### From the operands to the issue -/

/-- The tray of a body of slot `j`: the slot and the use of descriptors alone differ. -/
structure Tray.InBody (t u : Tray) (c j : Nat) : Prop where
  slotAt : t.SlotAt u c j
  operands : t.SameOperands u c j

theorem Tray.InBody.holdDesc {t u : Tray} {c j : Nat} (a : t.InBody u c j) (hj : j < 32) (k : Nat) :
    t.InBody (u.holdDesc c j k) c j :=
  ⟨a.slotAt.trans (u.holdDesc_slotAt c j k), a.operands.trans (u.holdDesc_operands hj k)⟩

/-- The operand of field 1 that P2[9] asks for, and no other. -/
def Tray.scaleOf (t : Tray) (c j : Nat) (w : BitVec 512) (o : Option (Nat × BitVec 1024)) : Prop :=
  if insP w 2 / 2 ^ 9 % 2 = 1 then ∃ k d h, t.operand c j w 1 1 = some (h, k, d) ∧ o = some (h, d.words) else o = none

section
variable {t u : Tray} {c j : Nat} (a : t.InBody u c j) (hj : j < 32)
include a hj

theorem Tray.InBody.withScale {w : BitVec 512} {o : Option (Nat × BitVec 1024)} (h : t.scaleOf c j w o) :
    ∃ v, t.InBody v c j ∧ ∀ k, u.withScale c j w k = k v o := by
  unfold Tray.scaleOf at h
  unfold Tray.withScale
  split at h
  · next hasks =>
    obtain ⟨k, d, n, hop, rfl⟩ := h
    obtain ⟨d', hop', hwords⟩ := a.operands.operand hop
    refine ⟨u.holdDesc c j k, a.holdDesc hj k, fun f => ?_⟩
    rw [if_pos (show insPf w 2 9 1 = 1 from hasks), hop', ← hwords]
  · next hnot =>
    subst h
    exact ⟨u, a, fun f => if_neg hnot⟩

theorem Tray.InBody.withDtd {w : BitVec 512} {i : Nat} {y : Nat × Nat × DescSt} (h : t.operand c j w i 2 = some y) :
    ∃ v, t.InBody v c j ∧ ∀ k, u.withDtd c j w i k = k v y.2.2.words := by
  obtain ⟨n, k, d⟩ := y
  obtain ⟨d', hop', hwords⟩ := a.operands.operand h
  refine ⟨u.holdDesc c j k, a.holdDesc hj k, fun f => ?_⟩
  unfold Tray.withDtd
  rw [hop', ← hwords]

omit hj in
/-- What fits issues at once (R335, R352). -/
theorem Tray.InBody.orIssue {w : BitVec 512} {need : Nat} (hfull : t.issueFull c (insTbl w) = false)
    (hroom : t.poolRoom c j need 0) : ∃ v, t.SlotAt v c j ∧ ∀ k, u.orIssue c j need w k = k v := by
  obtain ⟨v, hv, hstays⟩ := (hroom.of_operands a.slotAt a.operands).poolAlloc (insPin w)
  refine ⟨v, a.slotAt.trans hstays, fun k => ?_⟩
  unfold Tray.orIssue Tray.withPool
  rw [a.slotAt.issueFull, hfull, hv]
  rfl

end

theorem Tray.insReady_inBody (t : Tray) (c : Nat) {j : Nat} (hj : j < 32) (w : BitVec 512) : t.InBody (t.insReady c j w) c j :=
  ⟨t.insReady_slotAt hj w, t.insReady_operands hj w⟩

theorem Tray.orBad_none {t : Tray} {c j : Nat} {l : List (Bool × Nat)} (h : ∀ b ∈ l, b.1 = false) (k : Tray) :
    t.orBad c j l k = k := by
  have hfirst : firstFail l = 0 := by
    induction l with
    | nil => rfl
    | cons b l ih =>
      obtain ⟨b, n⟩ := b
      have hb : b = false := h _ (List.mem_cons_self ..)
      unfold firstFail
      rw [hb]
      exact ih fun z hz => h z (List.mem_cons_of_mem _ hz)
  exact if_pos hfirst

/-- An operation issued from the body is issued. -/
theorem Tray.takesOp.issueAt {t v : Tray} {c j : Nat} {w : BitVec 512} (h : t.takesOp c (insTbl w)) (a : t.SlotAt v c j)
    (hj : j < 32) (opcode count dst : Nat) (fz : Fuse) :
    t.Issued (v.issueOp c j w opcode count dst fz) c j (insTbl w) (t.issuedOp c j w opcode count dst fz) := by
  rw [← a.issuedOp]
  exact a.issued (insTbl_lt w) ((a.takesOp (insTbl_lt w) h).issueOp hj opcode count dst fz)

theorem scaleFmtBad_none {o : Option (Nat × BitVec 1024)} (h : ∀ y, o = some y → (tdOf y.2).fmt = 1) :
    scaleFmtBad o = false := by
  cases o with
  | none => rfl
  | some y =>
    unfold scaleFmtBad
    dsimp only
    rw [h y rfl]
    rfl

/-! ### The instructions -/

section
variable {t : Tray} {c j need : Nat} {w : BitVec 512} (hj : j < 32) (hdealer : t.tDealer c (insTbl w) = true)
  (hfull : t.issueFull c (insTbl w) = false) (htakes : t.takesOp c (insTbl w)) (hroom : t.poolRoom c j need 0)
include hj hdealer hfull htakes hroom

section
variable {o : Option (Nat × BitVec 1024)} (hscale : t.scaleOf c j w o) (hcnt : insP w 0 % 2 ^ 32 ≠ 0)
  (hfmt : ∀ y, o = some y → (tdOf y.2).fmt = 1)
include hscale hcnt hfmt

theorem Tray.insRsEpi_issues (hf : insP w 2 / 2 ^ 16 % 16 ≤ 13)
    (hbias : ∀ y, o = some y → (tdOf y.2).count = t.tN c (insTbl w) * (insP w 0 % 2 ^ 32))
    (hmx : isMx (insP w 2 / 2 ^ 16 % 16) = true → insP w 0 % 2 ^ 32 % 32 = 0 ∧
      (t.geo c (insTbl w) { seq := 0, opcode := O.RS, count := insP w 0 % 2 ^ 32 }).e % 32 = 0) :
    t.Issued ((t.insReady c j w).insRsEpi need c j w) c j (insTbl w)
      (t.issuedOp c j w O.RS (insP w 0 % 2 ^ 32) (insP w 1)
        (.epi w ((o.map (fun y => y.1)).getD 0) ((o.map (fun y => y.2)).getD 0))) := by
  obtain ⟨v, hv, hrun⟩ := (t.insReady_inBody c hj w).withScale hj hscale
  obtain ⟨x, hx, hissue⟩ := hv.orIssue hfull hroom
  have hn := hv.slotAt.tN (insTbl_lt w)
  have hnot : v.notDealerTbl c w = false := by
    unfold Tray.notDealerTbl
    rw [hv.slotAt.tDealer (insTbl_lt w), hdealer]
    rfl
  unfold Tray.insRsEpi insPf
  dsimp only
  rw [hrun, pow_zero, Nat.div_one, Tray.orBad_none, hissue]
  · exact htakes.issueAt hx hj ..
  · rw [(t.insReady_slotAt hj w).geo (insTbl_lt w), hn, hnot, scaleFmtBad_none hfmt]
    have hshape : (isMx (insP w 2 / 2 ^ 16 % 2 ^ 4) && (insP w 0 % 2 ^ 32 % 32 != 0 ||
        (t.geo c (insTbl w) { seq := 0, opcode := O.RS, count := insP w 0 % 2 ^ 32 }).e % 32 != 0)) = false := by
      cases hm : isMx (insP w 2 / 2 ^ 16 % 2 ^ 4) with
      | false => rfl
      | true =>
        obtain ⟨hcount, he⟩ := hmx hm
        rw [hcount, he]
        rfl
    rw [beq_eq_false_iff_ne.2 hcnt, hshape, decide_eq_false (show ¬ 13 < insP w 2 / 2 ^ 16 % 2 ^ 4 from Nat.not_lt.2 hf)]
    cases o with
    | none => simp [scaleCount]
    | some y => simp [scaleCount, hbias y rfl]

theorem Tray.insAgPro_issues (hf : insP w 2 / 2 ^ 16 % 16 ≤ 7)
    (hcount : ∀ y, o = some y → t.tN c (insTbl w) ≤ (tdOf y.2).count)
    (hblk : insP w 2 / 2 ^ 20 % 2 ^ 12 ≠ 0 → insP w 0 % 2 ^ 32 % (insP w 2 / 2 ^ 20 % 2 ^ 12) = 0) :
    t.Issued ((t.insReady c j w).insAgPro need c j w) c j (insTbl w)
      (t.issuedOp c j w O.AG (insP w 0 % 2 ^ 32) (insP w 1)
        (.pro w ((o.map (fun y => y.1)).getD 0) ((o.map (fun y => y.2)).getD 0))) := by
  obtain ⟨v, hv, hrun⟩ := (t.insReady_inBody c hj w).withScale hj hscale
  obtain ⟨x, hx, hissue⟩ := hv.orIssue hfull hroom
  have hn := hv.slotAt.tN (insTbl_lt w)
  have hnot : v.notDealerTbl c w = false := by
    unfold Tray.notDealerTbl
    rw [hv.slotAt.tDealer (insTbl_lt w), hdealer]
    rfl
  unfold Tray.insAgPro insPf
  dsimp only
  rw [hrun, pow_zero, Nat.div_one, Tray.orBad_none, hissue]
  · exact htakes.issueAt hx hj ..
  · have hshape : (insP w 2 / 2 ^ 20 % 2 ^ 12 != 0 && insP w 0 % 2 ^ 32 % (insP w 2 / 2 ^ 20 % 2 ^ 12) != 0) = false := by
      by_cases hb : insP w 2 / 2 ^ 20 % 2 ^ 12 = 0
      · rw [hb]
        rfl
      · rw [hblk hb]
        simp
    rw [hn, hnot, scaleFmtBad_none hfmt, hshape, beq_eq_false_iff_ne.2 hcnt,
      decide_eq_false (show ¬ 7 < insP w 2 / 2 ^ 16 % 2 ^ 4 from Nat.not_lt.2 hf)]
    cases o with
    | none => simp [scaleCount]
    | some y => simp [scaleCount, hcount y rfl]

end

theorem Tray.insShuffle_issues {y z : Nat × Nat × DescSt} (hy : t.operand c j w 0 2 = some y) (hz : t.operand c j w 1 2 = some z)
    (hagree : dtdsAgree (dtdOf y.2.2.words) (dtdOf z.2.2.words) (t.tN c (insTbl w)) = true)
    (hfmt : (dtdOf y.2.2.words).fmt = (dtdOf z.2.2.words).fmt)
    (hdue : 0 < (dtdOf y.2.2.words).q * shufSource (dtdOf y.2.2.words) (shufSpan w) c) :
    t.Issued ((t.insReady c j w).insShuffle need c j w) c j (insTbl w)
      (t.issuedOp c j w O.SHUFFLE 0 0 (.shuffle w y.2.2.words z.2.2.words)) := by
  obtain ⟨v, hv, hfirst⟩ := (t.insReady_inBody c hj w).withDtd hj hy
  obtain ⟨u, hu, hsecond⟩ := hv.withDtd hj hz
  obtain ⟨x, hx, hissue⟩ := hu.orIssue hfull hroom
  have hissued := htakes.issueAt hx hj O.SHUFFLE 0 0 (.shuffle w y.2.2.words z.2.2.words)
  unfold Tray.insShuffle Tray.notDealerTbl
  rw [hfirst, hsecond, Tray.orBad_none, hissue]
  · exact hissued.sameReads (hissued.afterStart_same htakes rfl ⟨rfl, rfl, rfl, rfl, rfl, hdue⟩)
  · rw [hu.slotAt.tN (insTbl_lt w), hu.slotAt.tDealer (insTbl_lt w), hagree, hfmt, hdealer]
    simp

end

end Sys2Proof.Machine
end

section
/-! SUPPORT. What an issued operation shows after the step (R257, R335). -/
namespace Sys2Proof.Machine

/-- Registers that the issue writes are among those of the instruction and of its table. -/
theorem insReg_of_issue {c j q o : Nat} (w : BitVec 512) (h : issueReg c j (insTbl w) q o) :
    insReg c j w q o ∨ (q = tblPg c (insTbl w) ∧ o = A.TBL_STS) := by
  refine h.imp (fun hslot => ?_) id
  obtain ⟨rfl, rfl⟩ := hslot
  refine .inl ⟨rfl, ?_⟩
  rw [slotReg_off]
  unfold A.DLR_JOB_CFG
  omega

/-- A start leaves what an operation of the Dealer is. -/
theorem OpSt.begun_or {z o : OpSt} (h : z = o ∨ z = o.begun) : z.seq = o.seq ∧ z.opcode = o.opcode ∧ z.count = o.count ∧
    z.launch = o.launch ∧ z.fuse = o.fuse ∧ z.members = o.members := by
  rcases h with rfl | rfl <;> exact ⟨rfl, rfl, rfl, rfl, rfl, rfl⟩

/-- From `s` to `t` slot `j` has issued an operation to the table of instruction `w`; nothing else has changed. -/
def State.issues (s t : State) (c : Fin 5) (j : Fin 32) (w : BitVec 512) (opcode count dst : Nat) (fz : Fuse) : Prop :=
  (∃ z, (t.tray.table c.val (insTbl w)).ops = (s.tray.table c.val (insTbl w)).ops ++ [z] ∧
    z.seq = s.tray.opNext c.val (insTbl w) ∧ z.opcode = opcode ∧ z.count = count ∧
    z.launch = .dealer j.val (s.tray.jobEpoch c.val j.val) (insTag w) ∧ z.fuse = fz ∧
    z.members.map (fun y => (y.port, y.dst, y.userTag, y.idx)) =
      (s.tray.tMembers c.val (insTbl w)).map (fun e => (e, dst, insTag w, none)) ∧
    (s.tray.membersLive c.val (insTbl w) = true → s.tray.cqsOn c.val (insTbl w) = true → z.started = true)) ∧
  t.tray.opNext c.val (insTbl w) = (s.tray.opNext c.val (insTbl w) + 1) % 65536 ∧
  (t.tray.slot c.val j.val).wait = .op (insTbl w) (s.tray.opNext c.val (insTbl w)) ∧
  t.tray.jobState c.val j.val = J.RUNNING ∧
  s.tray.keepsRegs t.tray (fun q o => insReg c.val j.val w q o ∨ (q = tblPg c.val (insTbl w) ∧ o = A.TBL_STS)) ∧
  (∀ i, i ≠ j.val → t.tray.slot c.val i = s.tray.slot c.val i) ∧
  (∀ d k, k < 256 → ¬ (d = c.val ∧ k = insTbl w) → t.tray.table d k = s.tray.table d k) ∧
  t.tray.ports = s.tray.ports ∧ t.tray.mem = s.tray.mem

theorem Tray.Issued.issues {s t : State} {c : Fin 5} {j : Fin 32} {w : BitVec 512} {opcode count dst : Nat} {fz : Fuse}
    (h : s.tray.Issued t.tray c.val j.val (insTbl w) (s.tray.issuedOp c.val j.val w opcode count dst fz)) :
    s.issues t c j w opcode count dst fz := by
  obtain ⟨z, hz, hstart, htable⟩ := h.last
  obtain ⟨hseq, hopcode, hcount, hlaunch, hfuse, hmembers⟩ := OpSt.begun_or hz
  refine ⟨⟨z, congrArg TableSt.ops htable, hseq, hopcode, hcount, hlaunch, hfuse, ?_, fun hlive hcq => ?_⟩, h.opNext, h.wait,
    h.runs, Tray.keepsRegs_mono h.stays.regs fun _ _ => insReg_of_issue w, h.stays.slots, h.stays.table, h.stays.ports, h.stays.mem⟩
  · rw [hmembers]
    exact List.map_map
  · rw [hstart hlive hcq]
    rfl

/-- An instruction whose body issues its operation. -/
theorem completes_issue {i : Instr} {s : State} {c : Fin 5} {j : Fin 32} {w : BitVec 512} {want opcode count dst : Nat} {fz : Fuse}
    {body : Tray → BitVec 512 → Tray} (hs : s.tray.settled c.val)
    (he : exec i s = .next (s.runC c.val (fun t => t.dealerIns c.val j.val want body))) (hwant : opcodeOk want = true)
    (h : s.tray.executes c.val j.val w want)
    (hissued : s.tray.Issued (body (s.tray.insReady c.val j.val w) w) c.val j.val (insTbl w)
      (s.tray.issuedOp c.val j.val w opcode count dst fz)) :
    Completes i s (fun t => s.issues t c j w opcode count dst fz) :=
  completes_runC he (s.tray.dealerIns_executes hwant h body) (hissued.settled hs) fun _ ht =>
    (hissued.sameReads ht.sameReads).issues

end Sys2Proof.Machine
end

section
/-! SUPPORT. DEALER_IN packets in MODE 1 and in the reserved MODEs (R340). -/
namespace Sys2Proof.Machine

theorem exec_dealerInShuffle (c : Fin 5) (e : Fin 64) (p : Pkt) (s : State) : exec (.dealerInShuffle c e p) s =
    .next (s.runC c.val (fun t => t.arriveAs c.val e.val p (fun h => hPtype h == P.DEALER_IN && hAddr h / 2 ^ 60 != 0))) := rfl

theorem Tray.agentAct_mode {t : Tray} {c e : Nat} {p : Pkt} (h : hPtype p.hdr = P.DEALER_IN) (hmode : hAddr p.hdr / 2 ^ 60 ≠ 0) :
    t.agentAct c e p = if hAddr p.hdr / 2 ^ 60 = 1 then t.shufArrive c e p else t.modeBad c e p := by
  unfold Tray.agentAct
  rw [show hPtype p.hdr = 11 from h]
  exact if_neg hmode

section
variable {s : State} {c : Fin 5} {e : Fin 64} {p : Pkt} (hs : s.tray.settled c.val) (htakes : s.tray.takes c.val e.val p)
  (htype : hPtype p.hdr = P.DEALER_IN)
include hs htakes htype

/-- The packet completes as its MODE does on the tray that the agent finds. -/
theorem completes_dealerIn {P : State → Prop} {f : Tray → Tray} (hmode : hAddr p.hdr / 2 ^ 60 ≠ 0)
    (hact : ∀ u : Tray, s.tray.HandsOver u c.val e.val (hSeat p.hdr) → u.agentAct c.val e.val p = f u)
    (hf : ∀ u : Tray, (f u).dealers = u.dealers)
    (hP : ∀ u : Tray, s.tray.HandsOver u c.val e.val (hSeat p.hdr) → ∀ t : State, t.Like (f u) → P t) :
    Completes (.dealerInShuffle c e p) s P := by
  obtain ⟨u, hu, hrun⟩ := htakes.handsOver e.isLt (.inr htype)
  have hsettled : (f u).settled c.val :=
    (Tray.settled_congr (hf u) _).2 ((hu.tableStays (TrafficSide.hSeat_lt p.hdr) 0).settled hs)
  rw [hact u hu, Tray.dealerSweep_settled _ _ hsettled] at hrun
  exact completes_runC (exec_dealerInShuffle ..)
    ((Tray.arriveAs_type (Bool.and_eq_true_iff.2 ⟨beq_iff_eq.2 htype, bne_iff_ne.2 hmode⟩)).trans hrun) hsettled (hP u hu)

end

/-! ### MODE 1 -/

/-- The data of the packet wait at the table for the operation's start. -/
def Tray.shufStage (t : Tray) (c e : Nat) (p : Pkt) : Tray :=
  t.modTable c (hAddr p.hdr / 2 ^ 16 % 256) (fun x => { x with
    shuf := x.shuf ++ [⟨hAddr p.hdr % 65536, e, hCh p.hdr, hAddr p.hdr / 2 ^ 24 % 2 ^ 36, pBytes p⟩] })

section
variable {t : Tray} {c tb e : Nat} {p : Pkt}

theorem Tray.tblGate_passes (htst : t.tst c tb = T.ACTIVE) (hmember : t.isMember c tb e = true) (hseat : hSeat p.hdr = t.tSeat c tb)
    (hepoch : hEpoch p.hdr = t.tEpoch c tb) : t.tblGate c tb e p = none := by
  unfold Tray.tblGate
  dsimp only
  rw [if_neg (by rw [htst, hmember]; decide), if_neg (not_not.2 hseat), if_neg (not_not.2 hepoch)]

/-- Data for the next operation are staged. -/
theorem Tray.shufArrive_stages (htb : hAddr p.hdr / 2 ^ 16 % 256 = tb) (hgate : t.tblGate c tb e p = none)
    (htst : t.tst c tb = T.ACTIVE)
    (hdealer : t.tDealer c tb = true) (hnew : (t.table c tb).findOp (hAddr p.hdr % 65536) = none)
    (hnext : hAddr p.hdr % 65536 = t.opNext c tb) : t.shufArrive c e p = t.shufStage c e p := by
  subst htb
  unfold Tray.shufArrive Tray.shufStage
  dsimp only
  rw [hgate]
  dsimp only
  rw [if_neg (by rw [htst, hdealer]; decide), hnew]
  exact if_pos hnext

end

/-! ### Reserved MODEs -/

section
variable (t : Tray) (c : Nat) {e : Nat} {p : Pkt}

theorem Tray.modeBad_stays : t.Stays (t.modeBad c e p)
    (fun q o => chargeReg c q o ∨ (q = portPg c e ∧ o = A.PORT_RX_ERR)) :=
  ((Tray.Stays.refl t _).sat 1 (.inr ⟨rfl, rfl⟩) (by decide)).charged c 1 (TrafficSide.hSeat_lt p.hdr) (by decide)
    fun _ _ h => .inl (chargeReg_of_charged (TrafficSide.hSeat_lt p.hdr) h)

theorem Tray.modeBad_badPkt (he : e < 64) : (t.modeBad c e p).gf (portPg c e) F.PORT_RX_ERR_BAD_PKT =
    min (2 ^ F.PORT_RX_ERR_BAD_PKT.w - 1) (t.gf (portPg c e) F.PORT_RX_ERR_BAD_PKT + 1) := by
  have hm := TrafficSide.hSeat_lt p.hdr
  refine (Tray.keepsRegs_gf ((t.sat (portPg c e) F.PORT_RX_ERR_BAD_PKT 1).charge_stays c 1 hm (by decide)).regs _ _ (by decide)
    fun hc => portPg_not_chargeReg he (chargeReg_of_charged hm hc)).trans ?_
  rw [Tray.gf_sat_self _ _ _ _ (by decide), satTo_eq_min]

theorem Tray.modeBad_counts : t.counted (t.modeBad c e p) c (hSeat p.hdr) N.TBL_DISCARD 1 := by
  refine (Tray.charge_counted _ c _ N.TBL_DISCARD 1 (TrafficSide.hSeat_lt p.hdr) (by decide)).trans ?_
  rw [Tray.rd_sat_off _ _ _ _ _ _ (by decide)]

end

/-- The discards of the packet's seat count as before when the agent acts. -/
theorem Tray.HandsOver.discards {t u : Tray} {c e m : Nat} (h : t.HandsOver u c e m) (hm : m < 64) :
    u.rd (seatPg c m) (A.SEAT_CNT + 8 * N.TBL_DISCARD) = t.rd (seatPg c m) (A.SEAT_CNT + 8 * N.TBL_DISCARD) :=
  h.stays.regs _ _ (by decide) fun hreg => hreg.elim
    (fun hpkts => by unfold chargedReg seatPg watchPg chipPg A.SEAT_CNT N.TBL_DISCARD N.RX_PKTS at hpkts; omega)
    (counter_not_flitReg hm (by decide) (by decide))

section
variable {s : State} {c : Fin 5} {e : Fin 64} {p : Pkt} (hs : s.tray.settled c.val) (htakes : s.tray.takes c.val e.val p)
  (htype : hPtype p.hdr = P.DEALER_IN)
include hs htakes htype

theorem dealerInShuffle_bad (hmode : 1 < hAddr p.hdr / 2 ^ 60) :
    Completes (.dealerInShuffle c e p) s (fun t =>
      t.tray.gf (portPg c.val e.val) F.PORT_RX_ERR_BAD_PKT = min (2 ^ F.PORT_RX_ERR_BAD_PKT.w - 1)
        (s.tray.gf (portPg c.val e.val) F.PORT_RX_ERR_BAD_PKT + 1) ∧
      s.tray.counted t.tray c.val (hSeat p.hdr) N.TBL_DISCARD 1 ∧
      s.tray.keepsRegs t.tray (fun q o => chargeReg c.val q o ∨ (q = portPg c.val e.val ∧ o = A.PORT_RX_ERR)) ∧
      t.tray.tables = s.tray.tables ∧ t.tray.dealers = s.tray.dealers ∧ t.tray.mem = s.tray.mem) := by
  have hm := TrafficSide.hSeat_lt p.hdr
  refine completes_dealerIn hs htakes htype (f := fun u => u.modeBad c.val e.val p) (by omega)
    (fun u _ => (Tray.agentAct_mode htype (by omega)).trans (if_neg (by omega))) (fun u => ?_) fun u hu t ht => ?_
  · obtain ⟨-, -, -, -, -, hdealers, -⟩ := (u.modeBad_stays c.val (e := e.val) (p := p)).blocks
    exact hdealers
  · have hstays := u.modeBad_stays c.val (e := e.val) (p := p)
    obtain ⟨-, -, -, -, htables, hdealers, -, hmem⟩ := hstays.blocks
    obtain ⟨-, -, -, -, -, hudealers, -, humem⟩ := hu.stays.others
    refine ⟨?_, ?_, ?_, ?_, ht.dealers.trans (hdealers.trans hudealers), ht.mem.trans (hmem.trans humem)⟩
    · rw [ht.gf, u.modeBad_badPkt c.val e.isLt, Tray.keepsRegs_gf (hu.regs hm) _ _ (by decide) (portPg_not_chargeReg e.isLt)]
    · refine (ht.rd ..).trans ((u.modeBad_counts c.val).trans ?_)
      rw [hu.discards hm]
    · exact ht.keepsRegs (Tray.keepsRegs_trans (Tray.keepsRegs_mono (hu.regs hm) fun _ _ => .inl) hstays.regs)
    · exact ht.tables.trans (htables.trans hu.tables)

theorem dealerInShuffle_stages {tb : Nat} (htb : hAddr p.hdr / 2 ^ 16 % 256 = tb) (hmode : hAddr p.hdr / 2 ^ 60 = 1)
    (htst : s.tray.tst c.val tb = T.ACTIVE) (hmember : s.tray.isMember c.val tb e.val = true)
    (hseat : hSeat p.hdr = s.tray.tSeat c.val tb) (hepoch : hEpoch p.hdr = s.tray.tEpoch c.val tb)
    (hdealer : s.tray.tDealer c.val tb = true) (hnew : (s.tray.table c.val tb).findOp (hAddr p.hdr % 65536) = none)
    (hnext : hAddr p.hdr % 65536 = s.tray.opNext c.val tb) :
    Completes (.dealerInShuffle c e p) s (fun t =>
      t.tray.table c.val tb = { s.tray.table c.val tb with shuf := (s.tray.table c.val tb).shuf ++
        [⟨hAddr p.hdr % 65536, e.val, hCh p.hdr, hAddr p.hdr / 2 ^ 24 % 2 ^ 36, pBytes p⟩] } ∧
      s.tray.keepsRegs t.tray (chargeReg c.val) ∧ s.tray.keepsOtherTables t.tray c.val tb) := by
  have hm := TrafficSide.hSeat_lt p.hdr
  have hlt : tb < 256 := htb ▸ Nat.mod_lt _ (by decide)
  refine completes_dealerIn hs htakes htype (f := fun u => u.shufStage c.val e.val p) (by omega) (fun u hu => ?_) (fun _ => rfl)
    fun u hu t ht => ?_
  · have hgf (f : Fld) (hf : f.off < 4096) := hu.gf_tblPg hm hlt f hf
    have htst' : u.tst c.val tb = T.ACTIVE := (hgf _ (by decide)).trans htst
    refine (Tray.agentAct_mode htype (by omega)).trans ((if_pos hmode).trans
      (Tray.shufArrive_stages htb (Tray.tblGate_passes htst' ?_ ?_ ?_) htst' ?_ ?_ ?_))
    · unfold Tray.isMember
      rw [hgf _ (by decide)]
      exact hmember
    · exact hseat.trans (hgf _ (by decide)).symm
    · exact hepoch.trans (hgf _ (by decide)).symm
    · unfold Tray.tDealer Tray.is
      rw [hgf _ (by decide)]
      exact hdealer
    · rw [hu.table]
      exact hnew
    · exact hnext.trans (hgf _ (by decide)).symm
  · subst htb
    have hstays := (hu.tableStays hm (hAddr p.hdr / 2 ^ 16 % 256)).modTable hlt (fun x => { x with
      shuf := x.shuf ++ [⟨hAddr p.hdr % 65536, e.val, hCh p.hdr, hAddr p.hdr / 2 ^ 24 % 2 ^ 36, pBytes p⟩] })
    refine ⟨(ht.table ..).trans ?_, ht.tableStays hstays⟩
    unfold Tray.shufStage
    rw [Tray.table_modTable, hu.table]

end

/-- Settles O45: an instruction that fits issues its operation at once, and the slot waits for it; what arrives for an operation not
issued yet is staged. -/
theorem fusedOperationsIssue : Obligations.FusedOperationsIssue := fun _ _ j _ hs =>
  ⟨fun _ _ ⟨hdealer, hfull, hidle, hruns, hops⟩ hroom hscale hcnt hfmt =>
    ⟨fun hex hf hbias hmx => completes_issue hs (exec_rsEpi ..) rfl hex
      (Tray.insRsEpi_issues j.isLt hdealer hfull ⟨hruns, hidle, hops⟩ hroom hscale hcnt hfmt hf hbias hmx),
     fun hex hf hcount hblk => completes_issue hs (exec_agPro ..) rfl hex
      (Tray.insAgPro_issues j.isLt hdealer hfull ⟨hruns, hidle, hops⟩ hroom hscale hcnt hfmt hf hcount hblk)⟩,
   fun _ _ _ ⟨hdealer, hfull, hidle, hruns, hops⟩ hroom hex hy hz hagree hfmt hdue =>
    completes_issue hs (exec_shuffle ..) rfl hex
      (Tray.insShuffle_issues j.isLt hdealer hfull ⟨hruns, hidle, hops⟩ hroom hy hz hagree hfmt hdue),
   fun _ _ htakes htype =>
    ⟨fun hmode htst hmember hseat hepoch hdealer hnew hnext =>
      dealerInShuffle_stages hs htakes htype rfl hmode htst hmember hseat hepoch hdealer hnew hnext,
     fun hmode => dealerInShuffle_bad hs htakes htype hmode⟩⟩

end Sys2Proof.Machine
end
